-- ==== Sys2Proof/Word.lean ====
section
/-! DEFINITION. Word types of the AXQ-4096 model: bytes, register words, short times, stamps. Plainest arithmetic only. -/

namespace Sys2Proof

/-- One byte of host data, of a frame payload or of the Bog. -/
abbrev Byte := BitVec 8
/-- A BAR0 register, a doorbell count, a microword or a code word. -/
abbrev Word := BitVec 32
/-- Short time: the low 40 bits of a time base's nanosecond count (R44). -/
abbrev Time := BitVec 40
/-- A precise stamp: 40 bits of ns and 8 bits of 1/256 ns (R49). -/
abbrev Stamp := BitVec 48
/-- A 40-bit value as rings, blocks and Waggle words carry it (R9, R10). -/
abbrev Val40 := BitVec 40
/-- A ring pair, 0 to 63 (R84). -/
abbrev Pair := Fin 64

/-- A table of the module held sparsely: the entries that differ from the entry an unlisted index reads as,
indices strictly rising. -/
abbrev Sparse (α : Type) := List (Nat × α)

end Sys2Proof
end

