-- ==== Sys2Proof/Syntax.lean ====
section
/-! DEFINITION. The commands of the AXQ-4096 as a block: one constructor of Instr per row of the opcode table, with
the operands that come from outside the module (what a bus, a wire, a converter, a key or a clock brings). A row that
acts on a descriptor names the ring pair whose oldest handed-over descriptor it takes (R92, R105). -/

namespace Sys2Proof

/-- The two sides with a presence contact (R593). -/
inductive Side where
  | logic | field
  deriving DecidableEq, Repr

/-- How a read of host memory ended (R115). -/
inductive ReadResult where
  | data (bytes : List Byte)
  | error
  deriving DecidableEq, Repr

/-- What a write of a vector's entry in the MSI-X table changes (R79, R80, R110). -/
inductive MsixWrite where
  | address (a : BitVec 64)
  | data (w : BitVec 32)
  | mask
  | unmask
  deriving DecidableEq, Repr

/-- A write of the MSI-X table: the vector, and what of its entry changes. -/
structure MsixAccess where
  vector : Fin 128
  what : MsixWrite
  deriving DecidableEq, Repr

/-- What an uncorrectable LPDDR5 link error met (R39, R358): working memory, or the frame at a byte offset of a region. -/
inductive LinkErrorAt where
  | working
  | bog (region : Fin 16) (offset : Nat)
  deriving DecidableEq, Repr

/-- The receive path of a frame: the segment, or trunk port 0 or 1 (R362). -/
inductive RxPort where
  | segment | trunk0 | trunk1
  deriving DecidableEq, Repr

/-- The fields of a reference payload (R384). -/
structure RefPayload where
  tRef    : Time
  depth   : Fin 64
  mode    : Fin 8
  pend    : Bool
  nextMode : Fin 8
  mpos    : Fin 64
  cycle   : Word
  changeAt : Word
  tb0Sec  : BitVec 48
  tb0Ns   : BitVec 30
  tb0Lock : Bool
  stepTgl : Bool
  rank    : BitVec 8
  twinned : Bool
  bcNs    : Word
  mlen    : Nat
  nwin    : Fin 256
  guardNs : Nat
  deriving DecidableEq, Repr

/-- A Waggle frame header (R393) with what the receiver's own circuits see of the frame (R375, R376). -/
structure FrameHdr where
  kind : BitVec 8
  src  : Fin 4096
  dst  : Fin 4096
  len  : Nat
  hops : Fin 64
  win  : Fin 256
  seq  : BitVec 8
  /-- identifier bits 11:0 seen in arbitration -/
  identSrc : Fin 4096
  crcOk : Bool
  /-- the window in whose occurrence, on this segment, its SOF fell; none where it fell in none -/
  heard : Option (Fin 256)
  /-- it ended inside that occurrence -/
  inWindow : Bool
  /-- how many frames of an EXCLUSIVE window come before it, by the place of its SOF -/
  place : Nat
  deriving DecidableEq, Repr

/-- A reference frame as it arrives: its port and its header (R384, R393). -/
structure RefArrival where
  port : RxPort
  hdr  : FrameHdr
  deriving DecidableEq, Repr

/-- A frame on the wire but for its CRC: identifier, header and payload (R372, R393). -/
structure WagFrame where
  ident : Nat
  kind : BitVec 8
  src  : Nat
  dst  : Nat
  hops : Nat
  win  : Nat
  seq  : BitVec 8
  payload : List Byte
  deriving DecidableEq, Repr

/-- A frame that enters a port to be forwarded, with the result of its CRC check (R380). -/
structure CrossFrame where
  frame : WagFrame
  crcOk : Bool
  deriving DecidableEq, Repr

/-- A trunk port, with the invalid code groups it has received since the last command that told of them (R379). -/
structure TrunkPort where
  port : Fin 2
  invalid : Nat
  deriving DecidableEq, Repr

/-- The STATUS payload (R396). -/
structure StatusPayload where
  station : Fin 4096
  role    : Fin 8
  twinned : Bool
  lease   : Bool
  variantL : Bool
  tb1Lock : Bool
  frefFb  : Bool
  depth   : Nat
  ackMode : Fin 8
  ackValid : Bool
  joinReq : Bool
  eject   : Bool
  parts   : Nat
  deriving DecidableEq, Repr

/-- One 16-byte action of a step (R124). -/
structure Action where
  kind    : BitVec 8
  kind1   : BitVec 8
  station : BitVec 16
  target  : Word
  value   : BitVec 64
  deriving DecidableEq, Repr

/-- A STEP_RELAY frame (R399): the step header, the frame index, NF and the entries with their list index. -/
structure RelayFrame where
  seq     : Word
  instant : Time
  flags   : BitVec 8
  index   : Nat
  nf      : Nat
  actions : List Action
  deriving DecidableEq, Repr

/-- A STEP_RELAY frame with its header (R393, R399). -/
structure RelayArrival where
  hdr : FrameHdr
  frame : RelayFrame
  deriving DecidableEq, Repr

/-- OP of a STEP_CTRL entry (R400). -/
inductive CtrlOp where
  | commit | abort | cancel
  deriving DecidableEq, Repr

/-- One STEP_ANSWER entry (R400). -/
inductive Answer where
  | ready (count : Nat)
  | refused (reason : Nat) (index : Nat)
  | full
  deriving DecidableEq, Repr

/-- One report of a STEP_REPORT (R401). -/
structure StepReport where
  seq     : Word
  removed : Bool
  status  : List Byte
  deriving DecidableEq, Repr

/-- What one encoder input brought since the last base period start (R316, R318). -/
inductive EncReading where
  | none
  /-- counts in the encoder's own quadrature mode -/
  | edges (d : Int)
  /-- counts before and after a Z edge -/
  | zEdge (before after : Int)
  /-- an SSI reading as received -/
  | ssi (raw : Word)
  deriving DecidableEq, Repr

/-- One record of a twin snapshot (R446). -/
inductive SnapRecord where
  | sample (word : Val40) (stamp : Time)
  | enc (positions : List Word)
  | wframe (win : Fin 256) (src : Fin 4096) (seq : BitVec 8) (crc : Word) (tick : Time)
  | release (task : Fin 8) (tick : Time) (di : BitVec 64) (hs : BitVec 48)
  | clamp (dacs : Word)
  deriving DecidableEq, Repr

/-- What a module learns of its partner when the twin link comes up (R439). -/
structure PartnerInfo where
  variantL : Bool
  enabled  : Bool
  station  : Fin 4096
  member   : Bool
  sameSegment : Bool
  leaseStn : Fin 4096
  /-- it is HOLDER -/
  acting   : Bool
  health   : BitVec 3
  actId    : Word
  deriving DecidableEq, Repr

/-- The path by which a lease word arrives: a LEASE frame on the twin link, with the partner's HEALTH (R445), or a window: the
lease window of a station that a witness-table entry names, or the window of this member's witness (R455, R457). -/
inductive LeasePath where
  | link (health : BitVec 3)
  | window (entry : Fin 16)
  deriving DecidableEq, Repr

/-- Which of an issuer's occupancies ends (R456, R458): that of the peer role, or that of a witness-table entry. -/
inductive Issuer where
  | peer
  | witness (entry : Fin 16)
  deriving DecidableEq, Repr

/-- The path on which the matching copy of a safety frame is missing (R486). -/
inductive SafetyPath where
  | waggle | pair
  deriving DecidableEq, Repr

/-- The stamps of a start edge on a bridge line: TB1 and TB2 in the TIME_CLK tick in which it was detected (R531). -/
structure LineStamp where
  tb1 : Time
  tb2 : Time
  deriving DecidableEq, Repr

/-- A CAN frame on the bus (R530). -/
structure CanFrame where
  ident : BitVec 29
  ide   : Bool
  rtr   : Bool
  dlc   : BitVec 4
  fdf   : Bool
  brs   : Bool
  esi   : Bool
  data  : List Byte
  deriving DecidableEq, Repr

/-- A message port: CAN0 to CAN3, UART0 to UART3, the parallel bus, the plant ports (R97). -/
inductive Port where
  | can (c : Fin 4)
  | uart (u : Fin 4)
  | pb
  | plant (p : Fin 2)
  deriving DecidableEq, Repr

/-- The two registers whose writes claim general-purpose lines (R550). -/
inductive GpReg where
  | gpCfg | pbCtrl
  deriving DecidableEq, Repr

/-- One station entry of EXPECT on the service port (R563). -/
structure ExpectEntry where
  station : Fin 4096
  view    : Fin 4
  deriving DecidableEq, Repr

/-- The sources the ledger samples in one second (R579, R581); none where the source is unpowered. -/
structure LedgerInputs where
  items : List (Option Int)
  deriving DecidableEq, Repr

/-- A PTP message as it arrives: its transport and delay mechanism, the TB0 stamp at the MAC where it is an event message, and the
offset of TB0, in 1/256 ns, where it completes a measurement by stamps as they stand at the MAC (R57, R69). -/
structure PtpArrival where
  layer2 : Bool
  p2p : Bool
  mac : Option Stamp
  offset : Option Int
  deriving DecidableEq, Repr

/-- The codes of a self-calibration's conversions of channels 168, 169 and 170 (R286). -/
structure SelfCalCodes where
  zero  : List (BitVec 20)
  plus  : List (BitVec 20)
  minus : List (BitVec 20)
  deriving DecidableEq, Repr

/-- A capture edge: the digital input it is on, and the counts that the position moved since its last latch (R319). -/
structure CaptureEdge where
  input : Fin 64
  moved : Word
  deriving DecidableEq, Repr

/-- The commands. Each constructor is one row of the opcode table. -/
inductive Instr where
  -- power, reset, clocks and the barrier
  | logicPowerUp
  | logicResetRelease
  | v12OutOfRange
  | presenceRelease (side : Side)
  | fieldPowerGood
  | fieldPowerLoss
  | peatLoss
  | holdupChange (holdupOk : Bool) (v12Mv : BitVec 16)
  | pwrfail
  | pllLockLoss
  | logicBootVerified (slotOk : Bool) (retentionOk : Bool)
  | resetInputRelease (heldNs : Nat)
  | resetInputStuck
  | resetInputStuckClear
  | ejectNotice
  | ejectWithdraw
  | ejectForceSafe
  | ejectLeverReturned
  | logicOvertemp
  | restart (pair : Pair)
  | restartReset
  | fieldRefLost
  | fieldRefRestored
  | fieldRefSwitchBack
  | downlinkTimeMark
  | downlinkFrame (valid : Bool)
  | uplinkFrame (valid : Bool)
  | logicSideAbsent
  | fieldSideAbsent
  | scrub (corrected : Nat)
  | sramUncorrectable (bank : Fin 32)
  | lpddr5LinkError (at_ : LinkErrorAt)
  -- time
  | referenceFrame (arrival : RefArrival) (ref : RefPayload) (stamp : Stamp) (echo : Bool)
  | referenceTimeout
  | ptpMessage (port : Fin 2) (m : PtpArrival)
  /-- an event message has its stamp at the MAC -/
  | ptpMessageSend (port : Fin 2) (mac : Option Stamp)
  | tb0Restep
  | timeSet (pair : Pair)
  | pulseOutputArm (n : Fin 4) (w : Word)
  | pulseOutputDisarm (n : Fin 4) (w : Word)
  | pulseOutputEdge (n : Fin 4)
  -- host interface
  | pcieLinkUp (speed : Fin 5)
  | pcieLinkDown
  | pcieHotReset
  | functionLevelReset
  | busMasterDisable
  | badAccess (write : Bool)
  | ringsEnSet
  | ringsEnClear
  | ringEnable (pair : Pair) (w : Word)
  | ringReset (pair : Pair)
  | submissionDoorbell (pair : Pair) (v : Word)
  | completionDoorbell (pair : Pair) (v : Word)
  | descriptorFetch (pair : Pair) (r : ReadResult)
  | hostReadCompletion (pair : Pair) (r : ReadResult)
  | hostReadTimeout (pair : Pair) (fetch : Bool)
  | hostReadGrant
  | heldCompletionFlush (pair : Pair)
  | msixModerationTimeout (v : Fin 128)
  | msixUnmask (v : MsixAccess)
  | tableRead (pair : Pair)
  | readOnlyTableLoad (pair : Pair)
  | eventMask (pair : Pair)
  | tsqRead (pair : Pair)
  | updateStatus (pair : Pair)
  | plantSend (pair : Pair)
  | rxBuffer (pair : Pair)
  | recordBuffer (pair : Pair)
  | recordRead (pair : Pair)
  -- recipe steps
  | step (pair : Pair)
  | stepCancel (pair : Pair)
  | stepFlush (pair : Pair)
  | stepDeferredAdmit (pair : Pair)
  | stepRelayReceive (frame : RelayArrival)
  /-- the entries of the frame, each with its acceptance sequence number; of an answer frame, the first and the others -/
  | stepCtrlReceive (hdr : FrameHdr) (entries : List (CtrlOp × Word))
  | stepAnswerReceive (hdr : FrameHdr) (first : Answer × Word) (rest : List (Answer × Word))
  | stepReportReceive (hdr : FrameHdr) (reports : List StepReport)
  | commitDecision (seq : Word)
  | partDeadline (seq : Word)
  | cancelCutOff (seq : Word)
  | reportDeadline (seq : Word)
  | stepLaunch
  | stepDry
  -- Comb
  | basePeriodStart (enc : List EncReading)
  | slotEvaluation (slot : Fin 4096)
  | cmbClassWrite (c : Fin 8) (w : Word)
  | slotTableLoad (pair : Pair)
  | microprogramLoad (pair : Pair)
  | modelTableLoad (pair : Pair)
  -- block programs
  | taskRelease (task : Fin 8)
  | scanEnd (task : Fin 8) (ns : Nat)
  | inputMapLoad (pair : Pair)
  | outputMapLoad (pair : Pair)
  | loadImage (pair : Pair)
  | exchange (pair : Pair)
  | exchangeBoundary (task : Fin 8)
  -- conversion
  | conversionSlot (conv : Fin 5) (slot : Fin 20) (code : BitVec 20) (cond : Bool) (checkFail : Bool)
  | channelTableLoad (pair : Pair)
  | scanListLoad (pair : Pair)
  | dacTableLoad (pair : Pair)
  | coefficientLoad (pair : Pair)
  | dacCoefficientLoad (pair : Pair)
  | skewLoad (pair : Pair)
  | urgent (pair : Pair)
  | rotate (pair : Pair)
  | rotationInterval
  | selfCalibrationEnd (conv : Fin 5) (codes : SelfCalCodes)
  | converterClrFault (conv : Fin 5)
  | calMeasure (pair : Pair)
  | calMeasureEnd (codes : List (BitVec 20))
  | calMean (pair : Pair)
  | calSpread (pair : Pair)
  | sampleRead (pair : Pair)
  | fieldOutputInstant
  -- field input and output
  | highSideTableLoad (pair : Pair)
  | inputTableLoad (pair : Pair)
  | encoderTableLoad (pair : Pair)
  | pulseTableLoad (pair : Pair)
  | profileTableLoad (pair : Pair)
  | holdPolicyTableLoad (pair : Pair)
  | dutyPeriodStart (out : Fin 48)
  | hsCondition (out : Fin 48) (cond : Fin 7) (present : Bool)
  | holdPolicyCycleEnd
  | digitalInputTransition (input : Fin 64) (level : Bool)
  | digitalInputAccept (input : Fin 64)
  | encoderCapture (enc : Fin 16) (zLine : Bool) (input : CaptureEdge)
  | encoderFault (enc : Fin 16)
  | axisMoveEnd (axis : Fin 16)
  | hsClrFault (pair : Pair)
  | capRead (pair : Pair)
  | hsDiag (pair : Pair)
  -- Mire
  | regionTableLoad (pair : Pair)
  | lineTableLoad (pair : Pair)
  | maskTableLoad (pair : Pair)
  | mireArm (pair : Pair)
  | force (pair : Pair)
  | mireStop (pair : Pair)
  | externalTrigger (input : Fin 4) (rising : Bool) (stamp : Stamp)
  | recordBufferFlush (region : Fin 16)
  -- Waggle
  | wagRun (w : Word)
  | hiveListenEnd
  | hiveBackoffEnd
  | basicCycleStart
  | headReferenceCopy
  | echoCheckFail (ident : BitVec 24)
  | headWithdrawalEnd
  | headWdrnClear
  | clashClr
  | upstreamSwitch
  | windowSwap (win : Fin 256)
  | exclusiveWindowStart (win : Fin 256)
  | windowSlotStart (win : Fin 256) (slot : Nat) (rival : Option (BitVec 24))
  | exclusiveWindowEnd (win : Fin 256) (sof : Bool)
  | dataFrame (hdr : FrameHdr) (words : List Val40)
  | statusFrame (hdr : FrameHdr) (status : StatusPayload)
  | probe (hdr : FrameHdr) (ident : Word) (stamp : Stamp)
  | probeResp (hdr : FrameHdr) (ident : Word) (prober : Fin 4096) (turnaround : Stamp) (roundTrip : Stamp)
  | safetyFrame (hdr : FrameHdr) (bytes : List Byte)
  | guardianCut (win : Fin 256)
  | trunkAligned (port : TrunkPort)
  | trunkAlignmentLost (port : TrunkPort)
  | trunkDqSend (port : Fin 2) (t1 : Stamp)
  | trunkDqReceive (port : TrunkPort) (seq : BitVec 8) (active : Bool) (turnaround : Stamp)
  | trunkDrReceive (port : TrunkPort) (seq : BitVec 8) (turnaround : Stamp) (t4 : Stamp)
  | trunkForward (port : RxPort) (frame : CrossFrame)
  | modeChange (pair : Pair)
  | modeChangeDecision
  | stationStat (pair : Pair)
  | scheduleLoad (pair : Pair)
  | receiveMapLoad (pair : Pair)
  | stationTableLoad (pair : Pair)
  | segmentTableLoad (pair : Pair)
  -- twins
  | snap (n : Word) (final : Bool) (records : List SnapRecord) (intact : Bool)
  | hash (n : Word) (h : Word)
  | change (seq : Word) (n : Word) (desc : List Byte) (data : List Byte)
  | changeAck (seq : Word)
  | state (n : Word) (last : Bool) (bytes : List Byte)
  /-- the offset of this member's TB3 from its partner's that the frame shows, in 1/256 ns -/
  | idle
  | twinLinkLost
  | twinLinkUp (partner : PartnerInfo)
  | leaseRequestSend
  | request (path : LeasePath) (role : Fin 4096) (member : Bool) (seq : BitVec 8)
  | grant (path : LeasePath) (seq : BitVec 8)
  | relinquish (path : LeasePath) (member : Bool) (n : BitVec 8)
  | offer (n : BitVec 8)
  | accept (n : BitVec 8)
  | issuerOccupancyEnd (issuer : Issuer)
  | actUntil
  | witnessSilent
  | handover
  | handoverAbandoned
  | resync
  | standbyReplay
  | changeAckTimeout (seq : Word)
  | takeover
  | witnessTableLoad (pair : Pair)
  -- safety
  | sealChange (v : BitVec 16)
  | safetyInputChange (input : Fin 4) (chanB : Bool) (closed : Bool)
  | safetyInputDiscTimeout (input : Fin 4)
  /-- bit 2i: channel A of input i follows the off-pulse of this source, bit 2i + 1: channel B -/
  | testPulse (srcB : Bool) (follows : BitVec 8)
  | safetyFrameSend
  | safetyPairCopy (bytes : List Byte) (framed : Bool)
  | safetyPathAbsence (station : Fin 4096) (missing : SafetyPath)
  | safetyWatchExpiry (station : Fin 4096) (path : SafetyPath)
  | disagree (group : Fin 16)
  | guardSafetyCycle
  | manualRestart (group : Fin 16) (pulseMs : Nat)
  | onmaxCut (out : Fin 48)
  | offminEnd (out : Fin 48)
  | rateDelayEnd (out : Fin 48)
  | hsCountsOff (out : Fin 48)
  | fenGateVerified
  | guardSelfTestDone (passed : Bool) (test : BitVec 8)
  | elementTest (out : Fin 48) (passed : Bool) (test : BitVec 8)
  -- Drone
  | droneCycleStart
  | droneInputLatch
  | droneOutputInstant
  | holdLoopRelease (loop : Fin 32)
  -- legacy bridge
  | canEnable (c : Fin 4) (w : Word)
  | canSend (pair : Pair)
  | canFrameReceive (c : Fin 4) (frame : CanFrame) (crcOk : Bool) (start : LineStamp)
  | canFrameSent (c : Fin 4) (start : LineStamp)
  | canState (c : Fin 4) (tec : Nat) (rec_ : Nat)
  | canRecoveryEnd (c : Fin 4)
  | messageAtLaunch (port : Port)
  | messageRxFlush (port : Port) (queue : Bool)
  | hpAck (pair : Pair)
  | recover (pair : Pair)
  | uartEnable (u : Fin 4) (w : Word)
  | uartSend (pair : Pair)
  | uartSendStart (u : Fin 4)
  | uartSendEnd (u : Fin 4)
  | uartCharacter (u : Fin 4) (ch : BitVec 8) (ninth : Bool) (parityErr : Bool) (framingErr : Bool) (own : Bool)
      (start : LineStamp)
  | uartGap (u : Fin 4)
  | pbSend (pair : Pair)
  | pbReady
  | pbCycleEnd (data : BitVec 16)
  | busTimeout
  | gpConfigWrite (reg : GpReg) (w : Word)
  | gpInputChange (states : BitVec 8)
  | gpWrite (pair : Pair)
  | gpRead (pair : Pair)
  | filterTableLoad (pair : Pair)
  -- life cycle, update and the ledger
  | hello (seq : Word)
  | stage (seq : Word) (offset : Nat) (bytes : List Byte)
  | install (seq : Word)
  | installDone
  | activate (seq : Word) (fieldRst : Bool)
  | activationCommit
  | serviceStatus (seq : Word)
  | token (seq : Word) (bytes : List Byte)
  | discard (seq : Word)
  | ledger (seq : Word) (what : BitVec 8) (first : Word) (count : Nat)
  | expect (seq : Word) (entries : List ExpectEntry)
  | usbBusReset
  | ledgerSample (inputs : LedgerInputs)
  | ledgerCommit
  -- locks and plain register writes
  | lockSet (w : Word)
  | registerWrite (offset : BitVec 16) (w : Word)
  | pwrfailRelease
  | plantMessageReceive (port : Fin 2) (bytes : List Byte)
  deriving DecidableEq, Repr

end Sys2Proof
end

