-- ==== Sys2Proof/Decode.lean ====
section
/-! DEFINITION. The command that a word spells by the table's bits. No row of the opcode table gives bits: commands arrive
as bus transactions, frames, wires and clocks, and not as words. -/

namespace Sys2Proof

/-- The command a word spells: none, since no row has bits. -/
def decodeTableWord (_nbits _w : Nat) : Option Instr := none

end Sys2Proof
end

