-- ==== Sys2Proof/Config.lean ====
section
/-! DEFINITION. What an implementation fixes and what the manual leaves open: opaque constants, so that nothing can be
proved of a value. A fresh free value is taken by applying one to the State's counter of free values. -/

namespace Sys2Proof.Config

/-- The carry bit of a rate term below 2⁻³² ns in one tick (R44 gives the rate in 2⁻⁴⁰ and the fraction in 32 bits, and
no rounding), for tick i. -/
opaque rateCarry (i : Nat) : Bool

/-- The load current in mA that a measurement of a high-side output finds (R330). -/
opaque loadMa (i : Nat) : BitVec 12

/-- The converter correction of R271 step 1: converter, offset and gain of its last self-calibration (R286), span kind and code, in raw
LSB with 4 fractional bits; the factory segment table is the converter's own. -/
opaque convCorrect (conv : Nat) (offset gain : Int) (range : Nat) (code : Int) : Int

/-- The factory offset and gain of a converter, against which a self-calibration is checked (R286): raw LSB with 16 fractional bits,
and 2³² for 1. -/
opaque factoryOffset (conv : Nat) : Int
opaque factoryGain (conv : Nat) : Int

/-- The thermoelectric voltage, in 10 nV with 8 fractional bits, of a thermocouple type at a temperature in 0.001 °C
with 8 fractional bits (IEC 60584-1, R267), none outside the range the functions define. -/
opaque tcVoltage (tc : Nat) (t : Int) : Option Int

/-- The temperature, in 0.001 °C with 8 fractional bits, of a thermocouple type at a voltage in 10 nV with 8 fractional
bits (IEC 60584-1, R267), none outside the range the functions define. -/
opaque tcTemperature (tc : Nat) (v : Int) : Option Int

/-- The temperature, in 0.001 °C with 8 fractional bits, of a Pt100 at a resistance in 0.1 mΩ with 8 fractional bits
(IEC 60751, R267), none outside the range the relation defines. -/
opaque rtdTemperature (r : Int) : Option Int

/-- VALUE that a word carries where an IEC function defines none (R267 sets only the overrange bit). -/
opaque undefinedSample (i : Nat) : Int

/-- The velocity of encoder e as a slot's first evaluation, or a scan before 50 latches, reads it (R317 gives the difference to the previous evaluation). -/
opaque firstVelocity (i e : Nat) : BitVec 24

/-- The rate term, in units of 2⁻⁴⁰, that the steering of a time base gives (R45 bounds it; the manual gives no servo law). -/
opaque servoRate (i : Nat) : Int

/-- What a measurement over the twin link shows: this member's TB3 less its partner's, in 1/256 ns (R60); the manual gives the frames
of the link no field for it. -/
opaque tb3Diff (i : Nat) : Int

/-- OFFS of an entry whose instant lies beyond the 24 bits that R336 gives it. -/
opaque farOffs (i : Nat) : BitVec 24

/-- The fields of a CAPTURE frame that refer to a trigger or a violation that the capture does not have (R348), and FIRST of a header page while
there is no capture (R333). -/
opaque noTrigger (i : Nat) : BitVec 64

/-- The µs for which a take-over left the outputs undriven, which the new holder does not see (R464). -/
opaque undrivenUs (i : Nat) : BitVec 16

/-- Byte 9 of a safety frame, Guard status (R398 gives no format). -/
opaque guardStatus (i : Nat) : BitVec 8

/-- The rows to add (KIND, SETMASK and operands), the rows to retire and the Guard parameters that a rule store part holds
(R492 gives no byte format), none where it holds none. -/
opaque rulePart (part : List Byte) : Option (List (BitVec 128) × List Nat × List (BitVec 64))

/-- Whether every row that a rule application writes reads back as written, and after how many of its programming steps the field side
loses its power, none where it does not (R492). -/
opaque rulesReadBack (i : Nat) : Bool
opaque rulesPower (i : Nat) : Option Nat

/-- The OTP secret of the logic die and that of the field die, from which the storage keys are derived (R559, R560). -/
opaque logicSecret : List Byte
opaque fieldSecret : List Byte

/-- The label and the context of the field storage key (R560 gives those of the logic storage key only). -/
opaque fieldLabel : List Byte
opaque fieldContext : Nat

/-- SHA3-256 of a byte string (FIPS 202). -/
opaque sha3 (m : List Byte) : BitVec 256

/-- ML-DSA verification (FIPS 204) of a signature over a message under a public key. -/
opaque mldsaVerify (key msg sig : List Byte) : Bool

/-- ML-DSA signature of a message by the device identity key (FIPS 204). -/
opaque mldsaSign (msg : List Byte) (i : Nat) : List Byte

/-- The content key that a package's envelope holds for this module: ML-KEM-768 decapsulation (FIPS 203) and AES-256-GCM
(SP 800-38D), none where it does not open. -/
opaque openEnvelope (env : List Byte) : Option (List Byte)

/-- A part decrypted under a content key with its IV and tag (AES-256-GCM), none where the tag fails. -/
opaque openPart (key iv tag body : List Byte) : Option (List Byte)

/-- The channel coefficients, DAC coefficients and skew entries, with their indices, that a calibration part holds (R566 gives
no byte format), none where it holds none. -/
opaque calPart (part : List Byte) : Option (List (Nat × BitVec 256) × List (Nat × BitVec 256) × List (Nat × BitVec 128))

/-- The identity certificate of a module (R561 names its parts; their keys and signature are the module's own), and what stands in its
place while there is no device identity (R553). -/
opaque certificate (serial : BitVec 128) (variantL device : Bool) : List Byte

/-- The bytes that an INSTALL under way has written so far (R577). -/
opaque installProgress (i : Nat) : Nat

/-- A new nonce of the service port (R563). -/
opaque nonce (i : Nat) : BitVec 128

end Sys2Proof.Config
end

