-- ==== Sys2Proof/Machine/Records.lean ====
section
/-! DEFINITION. The plain data the State is made of, part by part: what each chapter of the manual gives the machine.
Table entries are kept as the bits the host loaded (a bit vector per entry), so that READ gives back what LOAD stored;
the chapters' files read their fields. -/

namespace Sys2Proof.Machine

/-! ### Time (R43 to R77) -/

/-- One time base kept as short time (R44, R45): ns, sub-ns fraction, rate term in units of 2⁻⁴⁰. -/
structure Tb where
  ns   : Time := 0
  frac : BitVec 32 := 0
  rate : Int := 0
  deriving DecidableEq, Repr

/-- TB0 as full time (R51, R52): seconds, nanoseconds, fraction, rate term. -/
structure Tb0 where
  sec  : BitVec 48 := 0
  nsec : Nat := 0
  frac : BitVec 32 := 0
  rate : Int := 0
  deriving DecidableEq, Repr

/-- One entry of the transmit time-stamp queue (R71, R73). -/
structure TsqEntry where
  sec  : BitVec 48
  nsec : Nat
  ident : BitVec 16
  port : Fin 2
  frac : Byte
  deriving DecidableEq, Repr

/-- Run-time part of a timing pulse output (R74 to R76). -/
structure PulseRt where
  armed  : Bool := false
  cfgErr : Bool := false
  past   : Bool := false
  fired  : Bool := false
  /-- the pulse is being driven -/
  high   : Bool := false
  /-- the next instant of the output on its base -/
  next   : Time := 0
  deriving DecidableEq, Repr

/-- The time bases, their lock states and the TIM status (R43 to R77). -/
structure TimeState where
  tb0 : Tb0 := {}
  tb1 : Tb := {}
  tb2 : Tb := {}
  tb3 : Tb := {}
  /-- the field side's shadow of TB1 (R20), counted on FTIME_CLK -/
  shadow : Tb := {}
  tb0Lock : Bool := false
  tb1Lock : Bool := false
  tb3Lock : Bool := false
  /-- a PTP measurement has stepped TB0 (R57); a time-set has (R58) -/
  tb0Stepped : Bool := false
  tb0Set : Bool := false
  /-- TB0_RESTEP permits one further step (R57, R58) -/
  restepOk : Bool := false
  /-- TB1 has been stepped to a first valid reference (R53) -/
  tb1Stepped : Bool := false
  /-- consecutive references within ±5 ns (R53) -/
  goodRun : Nat := 0
  /-- consecutive references beyond ±20 ns (R54) -/
  badRun : Nat := 0
  /-- consecutive PTP offsets within ±50 ns (R57) -/
  ptpRun : Nat := 0
  /-- TIM_TB1_OFFS, 1/256 ns -/
  tb1Offs : Int := 0
  /-- TB0 seconds, ns and TB1 of the latest valid reference (R52) -/
  refPair : Option (BitVec 48 × Nat × Time) := none
  /-- the STEP_TGL last received (R385), and the one this HIVE sends -/
  stepTglSeen : Option Bool := none
  stepTgl : Bool := false
  tb1Resteps : Nat := 0
  tb2Epoch : BitVec 8 := 0
  /-- how often the count of TB2 has wrapped in this epoch (the model's own: intervals longer than the half-wrap) -/
  tb2Wraps : Nat := 0
  /-- ns counted on GUARD_CLK since field power-up: the time of Fen Gate's envelopes and Guard (R66, R469) -/
  guardNs : Nat := 0
  lockLostSeen : Bool := false
  tb0StepSeen : Bool := false
  tsq : List TsqEntry := []
  tsqOvf : Nat := 0
  pulses : Sparse PulseRt := []
  /-- TB3 has taken its step to the holder's (R60) -/
  tb3Stepped : Bool := false
  /-- the PTP service: messages sent, and the corrected stamp of the latest event message received, by port (R50, R69) -/
  ptpSent : Nat := 0
  ptpRx : Sparse Stamp := []
  deriving DecidableEq, Repr

/-! ### Power, reset, clocks, memory status (R15 to R42, R592 to R608, R611 to R615) -/

/-- Where the logic side stands (R519, R593, R598). -/
inductive LogicSt where
  | off        -- no supply
  | held       -- supplied, held in reset
  | boot       -- released: phase P1
  | failed     -- no verifiable slot: serves the service port only (R575)
  | run        -- phase P2 or P3
  deriving DecidableEq, Repr

/-- A restart waiting to be taken (R599, R602, R574). -/
structure RestartReq where
  cold  : Bool
  cause : Nat
  deriving DecidableEq, Repr

/-- One item of the persistent configuration in NOR flash (R40, R615, R327). -/
inductive PersistItem where
  | reg (offset : Nat) (w : Word)
  | table (table : BitVec 16) (first : Nat) (data : List Byte)
  | image (task : Fin 8) (bytes : List Byte)
  deriving DecidableEq, Repr

structure PowerState where
  /-- AXQ-4096-L (R5, R616) -/
  variantL : Bool := false
  gradeE : Bool := false
  serial : BitVec 128 := 0
  logic : LogicSt := .held
  /-- phase P3 has been reached since the last start (R519) -/
  p3 : Bool := false
  /-- phase P0 lasts since field power good: the logic side has not been released from reset since (R519) -/
  p0 : Bool := true
  v12Ok : Bool := true
  v12Mv : BitVec 16 := 0
  pres : Bool := true
  presFx : Bool := true
  fieldUp : Bool := false
  peatLost : Bool := false
  holdupOk : Bool := true
  holdupLow : Bool := false
  holdupLowSeen : Bool := false
  pwrfail : Bool := false
  eject : Bool := false
  ejectGone : Bool := false
  peatLossSeen : Bool := false
  tamper : Bool := false
  stuck : Bool := false
  stuckSeen : Bool := false
  rstCnt : Nat := 0
  rstSeen : Bool := false
  warm : Bool := false
  cause : Nat := 0
  restart : Option RestartReq := none
  /-- the restart that the present boot follows -/
  starting : Option RestartReq := none
  lock : BitVec 16 := 0
  lockWrSeen : Bool := false
  cfgDone : Bool := false
  /-- the retention region holds its contents (R31) -/
  retention : Bool := false
  retValid : Bool := false
  retInval : Bool := false
  ueCnt : Nat := 0
  ceCnt : Nat := 0
  /-- SRAM corrections since the last ledger sample (R33) -/
  ceSecond : Nat := 0
  repairMax : Nat := 0
  repairBanks : Nat := 0
  clkFbCnt : Nat := 0
  frefFb : Bool := false
  frefFbSeen : Bool := false
  /-- a return to FIELD_REF is due at the next conversion-slot boundary (R27) -/
  frefReturn : Bool := false
  fpllLock : Bool := false
  mpllLock : Bool := false
  lpllLock : Bool := false
  fieldPresent : Bool := false
  /-- consecutive time marks missing on the field side (R20) -/
  missedMarks : Nat := 0
  /-- the field side counts the logic side absent (R20) -/
  logicAbsent : Bool := true
  persist : List PersistItem := []
  deriving DecidableEq, Repr

/-! ### Host interface (R78 to R118) -/

inductive PairSt where
  | disabled | running | error | resetting
  deriving DecidableEq, Repr

/-- A completion or event entry before PHASE is put in (R100). -/
structure Cpl where
  tag  : BitVec 16
  code : Byte
  prior : Bool := false
  tb0Unl : Bool := false
  sub  : Word
  result : BitVec 64
  stampLo : BitVec 64
  stampHi : BitVec 64
  /-- the module adds it of its own: CODE 0x07, CODE 0x0F or a ring-error entry, stamped when it is written (R100) -/
  own : Bool := false
  deriving DecidableEq, Repr

/-- How far a fetched descriptor has come (R92, R105). -/
inductive Stage where
  | reading   -- its host data is being read
  | handed    -- checked and handed to its owner
  | mirrored  -- a change sent to the standby; its acknowledgement is awaited (R449)
  | accepted  -- accepted by its owner; its effect goes ahead
  | done      -- completed; its entry waits its turn in submission order
  deriving DecidableEq, Repr

/-- A fetched descriptor of a pair, in submission order. -/
structure Entry where
  /-- what names the descriptor on its pair: its submission count on top of the pair's base -/
  sub   : Word
  /-- submission count of the descriptor (R100) -/
  index : Word := 0
  /-- the 32 or 64 bytes, little-endian -/
  raw   : BitVec 512
  cls   : Nat
  need  : Nat := 0
  data  : List Byte := []
  stage : Stage := .handed
  cpl   : Option Cpl := none
  prior : Bool := false
  deriving DecidableEq, Repr

structure PairRt where
  st : PairSt := .disabled
  /-- last accepted submission doorbell, fetched count, written count, last completion doorbell (R89, R90) -/
  subDb : Word := 0
  fetched : Word := 0
  written : Word := 0
  cplDb : Word := 0
  errCode : Byte := 0
  dbIgn : Nat := 0
  /-- descriptors fetched before the last reset of the pair, so that none of them is taken for a later one (R117) -/
  base : Word := 0
  /-- descriptors whose fetch has been asked for (R92) -/
  issued : Word := 0
  /-- read requests of the pair outstanding, and those of them granted from the step reserve (R111) -/
  inFlight : Nat := 0
  resFlight : Nat := 0
  /-- descriptors still to come from each fetch request outstanding, oldest first, and those of each fetch that waits for a
  request: one, or up to four of a step ring (R112, R114) -/
  fetchOut : List Nat := []
  fetchWait : List Nat := []
  entries : List Entry := []
  held : List Cpl := []
  discarded : Nat := 0
  discardedSub : Word := 0
  evtMask : BitVec 12 := 0
  evtLost : Nat := 0
  deriving DecidableEq, Repr

/-- One MSI-X vector with its message address and data (R79, R109, R110). -/
structure MsixVec where
  addr : BitVec 64 := 0
  data : Word := 0
  masked : Bool := true
  pending : Bool := false
  unsignalled : Nat := 0
  first : Time := 0
  deriving DecidableEq, Repr

structure HifState where
  pairs : Sparse PairRt := []
  vectors : Sparse MsixVec := []
  evtSeq : Word := 0
  evtLost : Nat := 0
  cplLost : Nat := 0
  linkUp : Bool := false
  linkSpeed : Nat := 0
  flrSeen : Bool := false
  badAccSeen : Bool := false
  noncanonSeen : Bool := false
  outstanding : Nat := 0
  /-- requests outstanding that were granted from the step reserve -/
  stepOut : Nat := 0
  stallCnt : Nat := 0
  peak : Nat := 0
  /-- reads of host data that wait for a free request, by pair (R112) -/
  waiting : Sparse Nat := []
  /-- the pair granted a shared request last (R112, round-robin) -/
  lastGrant : Nat := 63
  /-- the step-class ring that had a reserved request last -/
  lastStep : Nat := 63
  deriving DecidableEq, Repr

/-! ### Recipe steps (R119 to R158) -/

/-- A step pending on the HIVE (R142). -/
structure StepEntry where
  seq : Word
  stepId : Word
  pair : Pair
  sub : Word
  index : Word := 0
  tag : BitVec 16
  instant : Time
  atomic : Bool
  lateBest : Bool
  actions : List Action
  /-- status byte of each action, none while open (R149) -/
  status : List (Option Byte)
  reportAddr : BitVec 64
  lead : Nat
  dmax : Nat
  /-- relay frames, and those of them not sent yet -/
  nf : Nat
  unsent : Nat
  /-- it entered q of R131 -/
  counted : Bool
  /-- its relay frames are still sent (R137) -/
  relaying : Bool
  /-- stations that have answered: 1 READY, 2 REFUSED, 3 FULL, 0 none by the part deadline -/
  answers : List (Nat × Nat) := []
  reported : List Nat := []
  /-- the station-0 actions wait for the instant -/
  armed : Bool := false
  /-- their field values have been sent over the downlink (R144) -/
  handed : Bool := false
  committed : Bool := false
  commitSent : Bool := false
  aborted : Bool := false
  cancelled : Bool := false
  /-- aborted by a CANCEL (R150) -/
  cancelAbort : Bool := false
  /-- the STEP_CTRL entry that is repeated, while the part deadline has not passed -/
  ctrl : Option CtrlOp := none
  ctrlOpen : Bool := true
  prior : Bool := false
  /-- carried on from the former holder of a twin (R463) -/
  carried : Bool := false
  deriving DecidableEq, Repr

inductive PartSt where
  /-- frames held that do not name this station; frames missing; its answer waits for a window; READY sent, COMMIT
  awaited; armed; its report waits for a window; over, repeats ignored -/
  | notMine | collecting | answering | waiting | armed | report | done
  deriving DecidableEq, Repr

/-- A part pending on this station (R143). -/
structure Part where
  seq : Word
  instant : Time
  atomic : Bool
  nf : Nat
  /-- frames held, by index, with all their entries -/
  got : List (Nat × List Action) := []
  st : PartSt := .notMine
  answer : Answer := .full
  status : List Byte := []
  removed : Bool := false
  /-- its field values have been sent over the downlink (R144) -/
  handed : Bool := false
  deriving DecidableEq, Repr

/-- One entry of the relay table (R158). -/
structure Relay where
  d : Nat := 0
  hops : Nat := 0
  joined : Bool := false
  twinned : Bool := false
  deriving DecidableEq, Repr

structure StpState where
  steps : List StepEntry := []
  parts : List Part := []
  relay : Sparse Relay := []
  accSeq : Word := 0
  lateCnt : Nat := 0
  unconfCnt : Nat := 0
  peak : Nat := 0
  dry : Bool := false
  /-- a step has closed and none was accepted since: the dry time runs (R156) -/
  dryRuns : Bool := false
  q : Nat := 0
  gH : Nat := 0
  /-- the step ring served last (R120) -/
  lastRing : Nat := 63
  /-- entries of closed steps that are still repeated (R139, R150), with the step's part deadline -/
  tail : List (CtrlOp × Word × Time) := []
  /-- relay frames and STEP_CTRL entries sent in the present window occurrence (R137, R139) -/
  sentNow : List (Word × Nat) := []
  ctrlNow : List Word := []
  deriving DecidableEq, Repr

/-! ### Comb (R159 to R220) -/

structure Ramp where
  start : Int
  stop  : Int
  from_ : Time
  duration : Nat
  deriving DecidableEq, Repr

inductive SupSt where
  | ok | suspect | alarm | ride | hold
  deriving DecidableEq, Repr

/-- Supervision of one slot (R203 to R217). -/
structure SupRt where
  st : SupSt := .ok
  staleFb : Bool := false
  rangeFb : Bool := false
  resOver : Bool := false
  rbFault : Bool := false
  cnt : Nat := 0
  rideLeft : Nat := 0
  /-- causes of the present state (R210, R214) -/
  fbCause : Bool := false
  rbCause : Bool := false
  rbMis : Nat := 0
  rbMatch : Nat := 0
  /-- stamp of the read-back sample last compared -/
  rbLast : Option Time := none
  lastEvt : Option Nat := none
  /-- a release takes effect at the next evaluation (R215) -/
  release : Bool := false
  /-- the state that the next evaluation starts in (R210, R211), and after a read-back fault (R213) -/
  next : Option SupSt := none
  rbNext : Option SupSt := none
  /-- cause bits of the present state (R220) -/
  cause : Nat := 0
  deriving DecidableEq, Repr

/-- The model of one slot (R197 to R202): registers M6, M7 and the history. -/
structure ModelRt where
  y0 : Int := 0
  y1 : Int := 0
  hist : List Int := []
  seeded : Bool := false
  resLast : Int := 0
  estLast : Int := 0
  deriving DecidableEq, Repr

/-- Where the handover of a hold-linked slot stands (R194). -/
inductive HoSt where
  | tracking
  | requested (th : Time) (confirmed : Bool)
  | handed
  deriving DecidableEq, Repr

/-- Run-time state of one slot. -/
structure SlotRt where
  /-- the slot is evaluated; the record and model record in effect -/
  on : Bool := false
  eff : BitVec 1280 := 0
  model : BitVec 512 := 0
  /-- a record accepted and not yet in effect, with the number of its load -/
  pend : Option (BitVec 1280 × Nat) := none
  pendModel : Option (BitVec 512 × Nat) := none
  /-- set when a model record has been put in force (R197: else the default) -/
  phase : Nat := 0
  spLast : Int := 0
  spEff : Int := 0
  ramp : Option Ramp := none
  /-- a SETPOINT or RAMP held for the first evaluation (R187) -/
  heldSp : Option (Int × Option (Nat × Time)) := none
  /-- cascade and block values, oldest first, with the base period of the writing evaluation, none for a block (R175) -/
  spIn : List (Int × Option Nat) := []
  ffIn : List (Int × Option Nat) := []
  ff : Int := 0
  /-- the raw feedback of the last evaluation -/
  fbr : Int := 0
  out : Int := 0
  err : Int := 0
  x : List Int := [0, 0, 0, 0, 0, 0, 0, 0]
  t : List Int := [0, 0, 0, 0]
  limited : Bool := false
  /-- FLAGS of W19, bits 8 to 15 (R172) -/
  flags : BitVec 8 := 0
  satCnt : Nat := 0
  mode : Nat := 0
  mv : Int := 0
  /-- a bridge has written MODE or MV since the waiting record was accepted (R177) -/
  bridgedMode : Bool := false
  bridgedMv : Bool := false
  /-- the TB1 instant of the last SETPOINT or RAMP launched on the slot (R188) -/
  spTick : Option Time := none
  /-- the encoder latches at the slot's previous evaluation, none before the first (R317) -/
  encPrev : List Word := []
  /-- value last written to the destination, and recent (instant, value) of a DAC destination (R213) -/
  written : Int := 0
  recent : List (Time × Int) := []
  track : Nat := 0
  ho : HoSt := .tracking
  hoFails : Nat := 0
  sup : SupRt := {}
  mdl : ModelRt := {}
  deriving DecidableEq, Repr

/-- A slot or model LOAD whose records have not all taken effect (R187, R190). -/
structure CombLoad where
  id : Nat
  pair : Pair
  sub : Word
  count : Nat
  left : Nat
  superseded : Option Nat := none
  deriving DecidableEq, Repr

structure CmbState where
  slots : Sparse (BitVec 1280) := []
  store : Sparse Word := []
  models : Sparse (BitVec 512) := []
  rt : Sparse SlotRt := []
  loads : List CombLoad := []
  nextLoad : Nat := 0
  running : Bool := false
  epoch : Time := 0
  /-- number of the present base period -/
  n : Nat := 0
  /-- slots due in the present base period and not yet evaluated, with the starts and finishes of the dispatch, in its order
  (R164) -/
  due : List (Nat × Nat × Nat) := []
  ovrSeen : Bool := false
  cfgErr : Bool := false
  peakCyc : Nat := 0
  hofailCnt : Nat := 0
  ovrCnt : Nat := 0
  satCnt : Nat := 0
  lastSatEvt : Option Nat := none
  evalRate : Nat := 0
  evalSecond : Nat := 0
  /-- the second of TB2 that evalSecond counts in (CMB_EVAL_RATE) -/
  evalAt : Nat := 0
  /-- slots that saturated in the last second of TB2, with the last time each did (R196) -/
  satNew : List (Nat × Nat) := []
  rideExpCnt : Nat := 0
  rbFaultCnt : Nat := 0
  supDropCnt : Nat := 0
  /-- evaluation skipped for the role in this base period (R460) -/
  skip : Bool := false
  deriving DecidableEq, Repr

/-! ### Block programs (R221 to R260) -/

inductive TaskSt where
  | empty | running | stopped
  deriving DecidableEq, Repr

/-- A pending EXCHANGE (R250 to R252); IMAGE_ID 0 removes the program (R255). -/
structure ExchReq where
  imageId : Nat
  pair : Pair
  sub : Word
  /-- TB1 at its acceptance, and whether it was accepted on a ring of this module -/
  at_ : Time := 0
  mine : Bool := true
  deriving DecidableEq, Repr

/-- The requests of a LOOP_BRIDGE call (R248). -/
structure BridgeReq where
  slot : Nat
  mode : Option Nat
  mv : Option Int
  release : Bool
  deriving DecidableEq, Repr

structure TaskRt where
  st : TaskSt := .empty
  /-- the two banks (R250) -/
  active : List Byte := []
  inactive : List Byte := []
  exch : Option ExchReq := none
  /-- an EXCHANGE that restarts the stopped task at its next release (R255) -/
  restartReq : Option (Pair × Word) := none
  /-- the core it runs on, and from its next release (R222) -/
  core : Nat := 0
  coreNext : Nat := 0
  /-- SLOT of each LOOP_BRIDGE and EVT of each STEP_EVENT by INST_ID, as fixed when the instance was created (R248, R249) -/
  fixed : Sparse Int := []
  /-- instance words V (R234) and pending output words OUTP, signed 40-bit -/
  v : Sparse Int := []
  outp : Sparse Int := []
  /-- V, OUTP and the instances still to be called first, before the scan whose log is not committed (R253, R256) -/
  undo : Option (Sparse Int × Sparse Int × List Nat) := none
  /-- TB2 of the release of the last executed scan since the start (R226) -/
  lastRel : Option Nat := none
  first : Bool := true
  warm : Bool := false
  scanning : Bool := false
  /-- the scan has reached END; its values await publication -/
  ended : Bool := false
  late : Bool := false
  /-- OVF, DIVZ, IDX of the scan (R241) -/
  flags : BitVec 3 := 0
  userEvts : List (Nat × Int) := []
  bridge : List BridgeReq := []
  /-- instances whose edge memories are set at their first call (R253), and STEP_EVENTs whose SEQ is set first (R249) -/
  fresh : List Nat := []
  freshEv : List Nat := []
  ovrRun : Nat := 0
  ovrCnt : Nat := 0
  rtfCnt : Nat := 0
  maxNs : Nat := 0
  coldLast : Bool := false
  published : Bool := false
  lastOvrEvt : Option Nat := none
  lastRtfEvt : Option Nat := none
  deriving DecidableEq, Repr

structure BlkState where
  tasks : Sparse TaskRt := []
  inMap : Sparse (BitVec 64) := []
  outMap : Sparse (BitVec 64) := []
  /-- values of internal input words written by Comb, published internal output words -/
  inWords : Sparse Int := []
  outWords : Sparse Int := []
  /-- block events: count and latest argument (R249) -/
  events : Sparse (Int × Int) := []
  /-- O, the TB2 instant from which releases are counted (R221) -/
  origin : Nat := 0
  /-- on a standby: a point of the holder's grid on TB1, and its µs from the holder's O (R221, R447) -/
  gridT1 : Time := 0
  gridUs : Nat := 0
  started : Bool := false
  warmStart : Bool := false
  uevtDrop : Nat := 0
  deriving DecidableEq, Repr

/-! ### The barrier (R17 to R21) -/

/-- The tables that the field side drives and counts by: high-side, input, encoder, pulse and DAC tables, motion profiles (R303, R313,
R315, R321, R323, R294). -/
structure FioTables where
  hs   : Sparse (BitVec 64) := []
  di   : Sparse (BitVec 64) := []
  enc  : Sparse (BitVec 64) := []
  pul  : Sparse (BitVec 64) := []
  dac  : Sparse (BitVec 64) := []
  prof : Sparse (BitVec 128) := []
  deriving DecidableEq, Repr

/-- What the downlink carries (R17). -/
inductive DownItem where
  | timeMark (t : Time)
  | dac (d : Nat) (v : Int) (instant : Time)
  | valves (group : Nat) (states mask : Nat) (instant : Time) (fromBlock : Bool)
  | duty (out : Nat) (v : Int) (instant : Time)
  | rate (p : Nat) (hz : Int) (instant : Time)
  | axis (a : Nat) (profile : Nat) (target : Int) (instant : Time)
  /-- ACT_UNTIL, and the instant before which a new holder does not drive yet (R444, R458) -/
  | actUntil (t : Time) (drive : Option Time)
  | holdReq (loop : Nat) (th : Time)
  | ejectNotice
  | bcNs (ns : Nat)
  | urgent (chan list : Nat)
  /-- a value of a step, sent ahead of its instant, by acceptance number; one that is called back (R140, R144, R145) -/
  | launch (seq : Word) (it : DownItem)
  | recall (seq : Word)
  /-- scan lists and channel table as the no-th load of them left them, hold policies, part of an update image, one count for the
  ledger (R17) -/
  | scanTables (lists chan : Sparse (BitVec 64)) (no : Nat)
  | holdTable (tab : Sparse (BitVec 64))
  | fioTables (tab : FioTables)
  /-- CLR_FAULT of a high-side output (R330) -/
  | clrFault (out : Nat)
  /-- what a member that does not act commands its outputs: for their shadow image alone (R308, R460) -/
  | shadow (it : DownItem)
  | update (type : Nat) (image : List Byte)
  | ledger (counter : Nat)
  /-- a safety frame that Waggle has received, for Guard (R486) -/
  | guardCopy (bytes : List Byte)
  deriving DecidableEq, Repr

/-- What the uplink carries (R17). -/
inductive UpItem where
  | sample (word : Val40) (stamp : Time) (list : Option Nat)
  | holdConfirm (loop : Nat) (th : Time)
  | diChange (input : Nat) (state : Bool) (stamp : Time)
  /-- the state of an input that a load has changed (R313) -/
  | diImage (input : Nat) (state : Bool)
  | dacTaken (d : Nat) (v : Int) (instant : Time)
  /-- a clamp of DAC d that lasts from an instant until another, none while its value stands; its end -/
  | clamp (d : Nat) (at_ : Time) (until_ : Option Time)
  | unclamp (d : Nat) (at_ : Time)
  /-- the 16 positions latched at a base period start; a capture of an encoder (R17, R317, R319) -/
  | encoders (pos : List Word)
  /-- a safety frame that Guard has composed for a window (R485) -/
  | safetyFrame (win : Nat) (bytes : List Byte)
  | capture (enc : Nat) (pos : Word) (stamp : Time)
  /-- an event that the field side raises -/
  | event (code : Byte) (result : BitVec 64)
  deriving DecidableEq, Repr

/-! ### Converters (R261 to R301) -/

inductive HoPhase where
  /-- waits for the pattern start; the overlap; the former converter calibrates itself -/
  | waiting | overlap | selfCal
  deriving DecidableEq, Repr

structure CnvHandover where
  group : Nat
  /-- the converter that served the group, none where the group was uncovered -/
  from_ : Option Nat
  to_ : Nat
  phase : HoPhase := .waiting
  /-- base period at which the overlap started -/
  startN : Nat := 0
  mismatches : Nat := 0
  deriving DecidableEq, Repr

/-- What a self-calibration gives a converter: the offset in raw LSB with 16 fractional bits, and the gain, 2³² being 1 (R286). -/
structure SelfCal where
  offset : Int := 0
  gain   : Int := 2 ^ 32
  deriving DecidableEq, Repr

/-- Accumulation of one scan entry (R271, R272, R282). -/
structure AccRt where
  sum : Int := 0
  n : Nat := 0
  first : Time := 0
  ovr : Bool := false
  lastGood : Option Val40 := none
  /-- a conversion of the word was not made, so that it repeats its last good value (R284, R287); how many conversions of the entry
  this base period has made -/
  gap : Bool := false
  got : Nat := 0
  deriving DecidableEq, Repr

structure Sample where
  word : Val40 := 1
  stamp : Time := 0
  deriving DecidableEq, Repr

structure UrgentReq where
  chan : Nat
  /-- when it arrived on the field side, once it has -/
  at_ : Option Time := none
  deriving DecidableEq, Repr

structure CalJob where
  pair : Pair
  sub : Word
  chan : Nat
  n : Nat
  /-- the converter that makes the conversions -/
  conv : Nat
  deriving DecidableEq, Repr

/-- A LOAD that completes when its table takes effect (R276, R291); the scan list it loads, if any. -/
structure LateLoad where
  pair : Pair
  sub : Word
  count : Nat
  list : Option Nat := none
  /-- its number among the loads of scan lists and channel table -/
  no : Nat := 0
  deriving DecidableEq, Repr

/-- A calibration LOAD with the tables it makes, and the TB1 instant from which they apply (R291). -/
structure CalLoad where
  load : LateLoad
  due : Time
  coef : Sparse (BitVec 256)
  dacCoef : Sparse (BitVec 256)
  skew : Sparse (BitVec 128)
  deriving DecidableEq, Repr

/-- One of the two calibration copies in MRAM (R42, R291). -/
structure CalCopy where
  good : Bool := true
  gen : Nat := 0
  coef : Sparse (BitVec 256) := []
  dacCoef : Sparse (BitVec 256) := []
  skew : Sparse (BitVec 128) := []
  deriving DecidableEq, Repr

structure CnvState where
  /-- roles of C0 to C4: 0–3 serving, 4 spare, 5 shadow, 6 self-calibration, 7 FAULT -/
  roles : List Nat := [0, 1, 2, 3, 4]
  /-- converters in the self-calibration that follows field power-up (R289) -/
  bootCal : List Bool := [true, true, true, true, true]
  handover : Option CnvHandover := none
  /-- group and converter of a takeover at the next base period start (R287) -/
  failover : Option (Nat × Nat) := none
  lastGroup : Nat := 3
  chan : Sparse (BitVec 64) := []
  chanEff : Sparse (BitVec 64) := []
  /-- scan list l entry e at 128 × l + e -/
  lists : Sparse (BitVec 64) := []
  listsEff : Sparse (BitVec 64) := []
  /-- scan lists and channel table as the field side has received them, and how many loads of them have been accepted and have
  arrived (R17) -/
  listsFld : Sparse (BitVec 64) := []
  chanFld : Sparse (BitVec 64) := []
  scanNo : Nat := 0
  scanFld : Nat := 0
  dac : Sparse (BitVec 64) := []
  dacEff : Sparse (BitVec 64) := []
  coef : Sparse (BitVec 256) := []
  coefEff : Sparse (BitVec 256) := []
  dacCoef : Sparse (BitVec 256) := []
  dacCoefEff : Sparse (BitVec 256) := []
  skew : Sparse (BitVec 128) := []
  skewEff : Sparse (BitVec 128) := []
  patternLoads : List LateLoad := []
  calLoads : List CalLoad := []
  /-- the two calibration copies in MRAM (R291) -/
  cal0 : CalCopy := {}
  cal1 : CalCopy := {}
  /-- offset and gain of each converter's last self-calibration (R271, R286) -/
  selfCal : Sparse SelfCal := []
  newest : Sparse Sample := []
  /-- the newest word of each channel on the field side, which made it (R266, R267, R505) -/
  made : Sparse Sample := []
  /-- DAC read-back samples that have arrived, newest first, at most 512 per DAC (R213) -/
  readBack : Sparse (List Sample) := []
  acc : Sparse AccRt := []
  urgent : Sparse UrgentReq := []
  /-- the slots that urgent conversions took on a list in this base period, in order, with their channels (R280) -/
  slip : Sparse (List (Nat × Nat)) := []
  /-- outcomes of the last 256 conversion checks per converter, newest first (R287) -/
  checks : Sparse (List Bool) := []
  chkFail : Sparse Nat := []
  /-- check failures of all converters since the last ledger sample (R581) -/
  chkSecond : Nat := 0
  /-- the serving converter's code in the overlap, to compare (R285) -/
  shadowCode : Option (Nat × Int) := none
  /-- the length in ns to which a TB1 step has brought the present base period (R160, R278) -/
  cutAt : Option Nat := none
  dropCnt : Nat := 0
  /-- when conversions were dropped in the last second of TB2, and how many (R300) -/
  dropLog : List (Nat × Nat) := []
  lastDropEvt : Option Nat := none
  abortCnt : Nat := 0
  handoverCnt : Nat := 0
  dacLate : Nat := 0
  cal : Option CalJob := none
  calMean : Int := 0
  calSpread : Nat := 0
  listsRun : Bool := false
  /-- list 4 stands until the next pattern start (R284), and for a measurement until the base period start after it (R292) -/
  list4Held : Bool := false
  calHold : Bool := false
  deriving DecidableEq, Repr

/-! ### Field input and output (R302 to R330) -/

/-- One high-side output (R303 to R308, R479, R480). -/
structure HsRt where
  cmd : Bool := false
  drv : Bool := false
  trip : Bool := false
  tripAt : Nat := 0
  conds : BitVec 7 := 0
  /-- on-time of the present DUTY period in 100 ns, and the period's start (R304) -/
  onTime : Nat := 0
  periodAt : Option Time := none
  /-- on-time in 100 ns that the next period takes from the Drone; the DUTY value of the logic side (R304, R515) -/
  onNext : Nat := 0
  duty : Int := 0
  /-- first given a command by the logic side, a hold policy or the Drone (R496) -/
  written : Bool := false
  /-- Fen Gate: counts on since, off since (R479); cut, refusal and delay latches; switch-on instants (R480) -/
  counts : Bool := false
  /-- its own switch-on counts still: the driver is on, or its load current has not fallen yet (R479) -/
  own : Bool := false
  onAt : Nat := 0
  offAt : Option Nat := none
  cut : Bool := false
  refused : Bool := false
  delayed : Bool := false
  ons : List Nat := []
  deriving DecidableEq, Repr

structure HoldRt where
  atSafe : Bool := false
  miss : Nat := 0
  good : Nat := 0
  /-- FEED was reloaded in the present basic cycle, which is not counted (R311) -/
  skip : Bool := false
  /-- the last value fed while the output stands at SAFE (R311) -/
  feed : Option DownItem := none
  deriving DecidableEq, Repr

structure DiRt where
  raw : Bool := false
  acc : Bool := false
  since : Option Time := none
  /-- the stamp of the last accepted change (R314) -/
  accAt : Option Time := none
  deriving DecidableEq, Repr

structure EncRt where
  /-- the position as the field side counts it (R316) -/
  pos : Word := 0
  /-- latched positions, newest first, at most 51 (R317) -/
  latches : List Word := []
  /-- the module's own latch, which Mire records also on a standby (R447) -/
  own : Word := 0
  ssiPrev : Option Word := none
  zDone : Bool := false
  queue : List (Word × Time) := []
  /-- the stamp of the digital input edge captured last (R314, R319) -/
  capAt : Option Time := none
  deriving DecidableEq, Repr

structure PulRt where
  /-- the rate commanded, and as MAX_HZ and Fen Gate's ceiling leave it (R322, R481) -/
  hz : Int := 0
  rate : Int := 0
  dirNeg : Bool := false
  /-- level of the direction line (R321) -/
  line : Bool := false
  /-- the count of an axis at rest, or where its present move began; that instant of GUARD_CLK, the rate there, 1 where the move's
  first edge lay there, the ceiling over it and its profile (R323, R324, R481) -/
  pos : Val40 := 0
  t0 : Nat := 0
  r0 : Nat := 0
  lead : Nat := 0
  cap : Nat := 0
  profile : BitVec 128 := 0
  moving : Bool := false
  target : Int := 0
  /-- a move of opposite direction waits for the stop: its profile and target (R324) -/
  next : Option (BitVec 128 × Int) := none
  /-- the logic side or a hold policy has given it a value (R496) -/
  written : Bool := false
  deriving DecidableEq, Repr

structure DacRt where
  /-- the 24-bit count last commanded -/
  val : Int := 0
  /-- the corrected and range-clamped count the output goes to, and where it stood at instant at_ (R295, R481) -/
  target : Int := 0
  applied : Int := 0
  at_ : Time := 0
  /-- the logic side, a hold policy, the Drone or R294 has given it a value -/
  written : Bool := false
  hiz : Bool := true
  /-- the value stands at a range clamp of Fen Gate (R481) -/
  clamp : Bool := false
  deriving DecidableEq, Repr

/-- A claim on a resource of R325 (R326, R328). -/
structure Claim where
  id : Nat
  rank : Nat
  num : Nat
  deriving DecidableEq, Repr

structure FioState where
  hsTab : Sparse (BitVec 64) := []
  hsEff : Sparse (BitVec 64) := []
  diTab : Sparse (BitVec 64) := []
  diEff : Sparse (BitVec 64) := []
  encTab : Sparse (BitVec 64) := []
  encEff : Sparse (BitVec 64) := []
  pulTab : Sparse (BitVec 64) := []
  pulEff : Sparse (BitVec 64) := []
  profTab : Sparse (BitVec 128) := []
  /-- these tables and the DAC table as the field side has received them (R17) -/
  fld : FioTables := {}
  holdTab : Sparse (BitVec 64) := []
  /-- hold policies as the field side holds them, in its MRAM (R42, R309) -/
  holdEff : Sparse (BitVec 64) := []
  claims : List Claim := []
  down : List DownItem := []
  up : List UpItem := []
  /-- values on the field side that wait for their output instants (R296) -/
  due : List DownItem := []
  hs : Sparse HsRt := []
  hold : Sparse HoldRt := []
  di : Sparse DiRt := []
  enc : Sparse EncRt := []
  pul : Sparse PulRt := []
  dac : Sparse DacRt := []
  encFault : BitVec 16 := 0
  tripCnt : Nat := 0
  capLost : Nat := 0
  /-- eject notice taken on the field side; last basic-cycle length sent over the downlink (R310) -/
  ejected : Bool := false
  /-- a basic cycle has ended since the notice arrived, so cycles count as missing for it (R310, R604) -/
  ejectCycle : Bool := false
  bcNs : Nat := 0
  /-- digital input image, DAC clamp flags and positions as the logic side has them from the uplink (R229, R213) -/
  diImage : BitVec 64 := 0
  clampSeen : BitVec 32 := 0
  /-- the latest clamps that Fen Gate has reported on each DAC, newest first: from when, and until when, none while one stands
  (R213) -/
  clampAt : Sparse (List (Time × Option Time)) := []
  deriving DecidableEq, Repr

/-! ### Mire (R331 to R361) -/

inductive RegionSt where
  | idle | filling | armed | post | delivering | done | streaming
  deriving DecidableEq, Repr

structure TrigRec where
  stamp : Stamp
  fromA : Bool
  fromB : Bool
  method : Nat
  /-- SEQ of the trigger frame, counted from arming -/
  frame : Nat
  deriving DecidableEq, Repr

/-- One frame in a region's store. -/
structure FrameIx where
  off : Nat
  len : Nat
  /-- count of DATA and REDUCED frames before this frame since arming -/
  idx : Nat
  /-- a DATA or REDUCED frame -/
  data : Bool
  deriving DecidableEq, Repr

/-- A BUFFER descriptor of a region (R357). -/
structure RecBuf where
  pair : Pair
  sub : Word
  addr : BitVec 64
  size : Nat
  flushUs : Nat
  filled : Nat := 0
  deriving DecidableEq, Repr

/-- A stretch of a region's store that is still to be delivered. -/
structure Span where
  off : Nat
  len : Nat
  /-- it starts a frame; it ends the last frame of a capture -/
  head : Bool
  last : Bool
  deriving DecidableEq, Repr

/-- Level-crossing memory of a trigger source (R352). -/
structure LevelRt where
  prev : Option (Int × Stamp) := none
  upOk : Bool := false
  downOk : Bool := false
  deriving DecidableEq, Repr

/-- A value handed to Mire in the present base period, with its instant (R192, R338): flags of a slot entry as R335 has
them, the list of an urgent word. -/
inductive MirItem where
  | slot (slot : Nat) (flags : Byte) (sp fb out res : Int) (at_ : Time) (entered : Bool)
  | word (word : Val40) (stamp : Time) (list : Option Nat)
  | di (input : Nat) (state : Bool) (stamp : Time)
  | dac (d : Nat) (v : Int) (instant : Time)
  | enc (e : Nat) (v : Int)
  | hs (g : Nat) (driven tripped : Nat)
  | rx (i : Nat) (v : Int) (fresh : Bool) (stamp : Time)
  deriving DecidableEq, Repr

structure RegionRt where
  st : RegionSt := .idle
  armPend : Bool := false
  /-- base period of frame k₀; DATA and REDUCED frames since arming; SEQ of the next one -/
  k0 : Nat := 0
  count : Nat := 0
  seq : BitVec 16 := 0
  /-- frames in the store, oldest first, and the offset of the next -/
  frames : List FrameIx := []
  next : Nat := 4096
  capt : BitVec 40 := 0xFFFFFFFFFF
  first : Nat := 0
  trig : Option TrigRec := none
  earlyStamp : Option Stamp := none
  earlyRaised : Bool := false
  earlyCnt : Nat := 0
  rearmCnt : Nat := 0
  captures : Nat := 0
  cap : Nat := 0
  postEff : Nat := 0
  clamped : Bool := false
  /-- first violated mask entry of the capture and its frame; a violation in the frame in progress -/
  viol : Option (Nat × Nat) := none
  violNow : Bool := false
  /-- the written frames of the capture that hold a violation, oldest first -/
  viols : List Nat := []
  stopReq : Bool := false
  /-- frames lost since the last one written, since the last 0x5A, and any in this capture -/
  lostNow : Nat := 0
  lostEvt : Nat := 0
  anyLost : Bool := false
  lastLostEvt : Option Nat := none
  /-- a MARK frame to write: instant and method -/
  mark : Option (Stamp × Nat) := none
  /-- LAYOUT payloads with the frame count from which each is in force, newest first -/
  layouts : List (Nat × List Byte) := []
  pendA : Option (Stamp × Nat) := none
  pendB : Option (Stamp × Nat) := none
  levelA : LevelRt := {}
  levelB : LevelRt := {}
  bufs : List RecBuf := []
  toSend : List Span := []
  /-- offsets of the FLAGS of frames that met an uncorrectable link error, for the next read (R358) -/
  eccOff : List Nat := []
  /-- items of the base periods gathered for the frame in progress, and how many base periods -/
  gathered : List MirItem := []
  periods : Nat := 0
  deriving DecidableEq, Repr

structure MirState where
  regions : Sparse (BitVec 512) := []
  lines : Sparse (BitVec 64) := []
  masks : Sparse (BitVec 128) := []
  rt : Sparse RegionRt := []
  items : List MirItem := []
  done : BitVec 16 := 0
  lost : Nat := 0
  eccCnt : Nat := 0
  deriving DecidableEq, Repr

/-! ### Waggle (R362 to R438) -/

inductive LinkSt where
  | off | listen | backoff | hive | standby | follow | stopped
  deriving DecidableEq, Repr

inductive TrunkSt where
  | down | aligned | measured | forwarding | tooLong
  deriving DecidableEq, Repr

structure TrunkRt where
  st : TrunkSt := .down
  active : Bool := false
  /-- last eight one-way delays, newest first, 1/256 ns (R381) -/
  delays : List Int := []
  dqSeq : BitVec 8 := 0
  t1 : Stamp := 0
  codeErr : Nat := 0
  stomp : Nat := 0
  deriving DecidableEq, Repr

inductive WinOutcome where
  | none | good | empty | invalid
  deriving DecidableEq, Repr

/-- State of one station as this module sees it (R419, R427, R434, R438). -/
structure StnRt where
  /-- marked STALE, and not FRESH again since (R427) -/
  stale : Bool := false
  joined : Bool := false
  discord : Bool := false
  last : WinOutcome := .none
  goodRun : Nat := 0
  agree : Nat := 0
  /-- matrix cycles in a row without a GOOD window (R420); a GOOD window in this matrix cycle -/
  badMc : Nat := 0
  anyWin : Bool := false
  anyGood : Bool := false
  refused : Bool := false
  hops : Nat := 0
  twinned : Bool := false
  staleEvt : Option Nat := none
  freshEvt : Option Nat := none
  deriving DecidableEq, Repr

structure RxWord where
  val : Val40 := 0
  stamp : Time := 0
  got : Bool := false
  deriving DecidableEq, Repr

/-- What has been received in the present occurrence of an EXCLUSIVE window (R425). -/
structure WinRx where
  kinds : List (BitVec 8) := []
  bad : Bool := false
  cut : Bool := false
  deriving DecidableEq, Repr

structure WinCnt where
  good : Nat := 0
  empty : Nat := 0
  invalid : Nat := 0
  deriving DecidableEq, Repr

/-- A MODE_CHANGE in progress on the HIVE (R429 to R432). -/
structure ModeReq where
  mode : Nat
  pair : Pair
  sub : Word
  announced : Bool := false
  listed : List Nat := []
  acked : List Nat := []
  decided : Bool := false
  deriving DecidableEq, Repr

/-- What a slot of an ARBITRATING or FREE window has carried or carries: own kinds of frames, a relay frame by sequence
number and index. -/
inductive TxFrame where
  | status
  /-- the words of a window, with the write number of its DATA frame before -/
  | data (win : Nat) (mark : Nat)
  | relay (seq : Word) (idx : Nat) (fresh : Bool)
  | ctrl (l : List (CtrlOp × Word))
  | answers (l : List Word)
  | reports (l : List Word)
  | probe (ident : Word)
  | probeResp (ident : Word) (prober : Nat) (stamp : Stamp)
  deriving DecidableEq, Repr

structure WagState where
  link : LinkSt := .off
  /-- C_k, CYCLE, MPOS, mode announcement (R402, R430) -/
  cStart : Time := 0
  cycle : Word := 0
  mpos : Nat := 0
  mode : Nat := 0
  pend : Bool := false
  nextMode : Nat := 0
  changeAt : Word := 0
  modeReq : Option ModeReq := none
  bcNs : Nat := 0
  mlen : Nat := 1
  guardNs : Nat := 500
  /-- this listen follows the loss of the HIVE that a standby followed (R416) -/
  fromStandby : Bool := false
  collRun : Nat := 0
  standbyWasLocked : Bool := false
  /-- TB1_LOCK has been set with a schedule for the mode of the reference since the role was taken up (R418) -/
  joinDone : Bool := false
  /-- the last valid reference, with SRC and HOPS of its frame -/
  lastRef : Option RefPayload := none
  refSrc : Nat := 0
  refHops : Nat := 0
  refThisCycle : Bool := false
  refOk : Bool := false
  missedRefs : Nat := 0
  depth : Nat := 0
  headWdrn : Bool := false
  wdrnLeft : Nat := 0
  withdrawn : Bool := false
  otherHead : Option (Nat × Nat) := none
  /-- trunk port through which references are taken: none, 0 or 1 (R366) -/
  activePort : Option Nat := none
  trunks : Sparse TrunkRt := []
  probes : List Int := []
  probeOut : Option Word := none
  probeId : Word := 0
  /-- matrix cycles since the eighth or a later probe result (R386) -/
  probeMc : Nat := 0
  probeReplies : List (Word × Nat × Stamp) := []
  dropDly : Nat := 0
  clashes : Sparse Nat := []
  suppressed : List Nat := []
  /-- the frame of the last slot won, with its identifier; frames whose part in the present window is over: sent, or cut
  by a clash (R377, R423) -/
  lastTx : Option (Nat × TxFrame) := none
  doneNow : List TxFrame := []
  clashCnt : Nat := 0
  crcErr : Nat := 0
  kindErr : Nat := 0
  arbLost : Nat := 0
  /-- guardian: all windows closed; cuts in this matrix cycle; silent until the next reference (R389 to R391) -/
  grdClosed : Bool := true
  grdCuts : Nat := 0
  grdResync : Bool := false
  /-- the guardian's copy of the schedules, and its own count, TB2, at the SOF of the last valid reference (R388) -/
  grdSched : Sparse (BitVec 256) := []
  grdSof : Nat := 0
  cutCnt : Nat := 0
  resyncCnt : Nat := 0
  rxMap : Sparse (BitVec 64) := []
  stnTab : Sparse (BitVec 64) := []
  segTab : Sparse (BitVec 64) := []
  /-- schedule of mode m entry w at 256 × m + w; modes whose schedule a LOAD has stored -/
  sched : Sparse (BitVec 256) := []
  validModes : BitVec 8 := 0
  winCnt : Sparse WinCnt := []
  txWords : Sparse Val40 := []
  /-- write numbers of transmit words, and the write number at a window's last DATA frame (R423) -/
  txMark : Sparse Nat := []
  txWrites : Nat := 0
  /-- the write number at a window's last swap (R421) -/
  swapMark : Sparse Nat := []
  /-- the window's last swap found a word written since its last DATA frame (R423) -/
  swapDirty : Sparse Bool := []
  winMark : Sparse Nat := []
  banks : Sparse (List Val40) := []
  txSeq : Sparse (BitVec 8) := []
  /-- SEQ last received + 1 by 256 × SRC + WIN, 0 for none since the mode change (R424) -/
  rxSeq : Sparse Nat := []
  rxWords : Sparse RxWord := []
  winRx : Sparse WinRx := []
  /-- the safety frame that Guard has composed for the next occurrence of a window (R485) -/
  safOut : Sparse (List Byte) := []
  /-- outcomes of the windows judged in the present basic cycle (R310) -/
  winOut : Sparse WinOutcome := []
  stations : Sparse StnRt := []
  noSched : List Nat := []
  collCnt : Nat := 0
  foreignCnt : Nat := 0
  seqGap : Nat := 0
  abandonCnt : Nat := 0
  changeCnt : Nat := 0
  deriving DecidableEq, Repr

/-! ### Twins (R439 to R465) -/

inductive TwinSt where
  | solo | forming | standby | unsynced | taking | holder
  deriving DecidableEq, Repr

/-- A request sent and not answered: SEQ and its instant q on TB2 (R457). -/
structure LeaseReq where
  seq : BitVec 8
  q : Nat
  deriving DecidableEq, Repr

/-- An issuer's occupancy (R456 to R458): the member granted, its end on TB2, or t_h on TB1 after a RELINQUISH. -/
structure Occupancy where
  member : Bool
  /-- TB2 of the grant that began it -/
  at_ : Nat
  until_ : Nat
  th : Option Time := none
  /-- the issuer was free when it granted, so that a request of the other member in the same tick still counts (R456) -/
  free : Bool := false
  deriving DecidableEq, Repr

structure WitnessRt where
  occ : Option Occupancy := none
  pend : Option (Bool × BitVec 8) := none
  granted : Option (Bool × BitVec 8) := none
  deriving DecidableEq, Repr

/-- A change sent to the standby that has not taken effect yet (R449). -/
structure TwinChange where
  seq : Word
  pair : Pair
  sub : Word
  /-- the base period from which it takes effect -/
  eff : Nat
  /-- it has been accepted: its acknowledgement has come, or the time for it is over -/
  acked : Bool := false
  deriving DecidableEq, Repr

inductive HandoverWhy where
  | host | auto | reset | eject | memory | activation | powerFail | restart
  deriving DecidableEq, Repr

/-- A DATA frame as a receiver handed it over: window, SRC, SEQ, CRC, first transmit word and words. -/
structure OwnFrame where
  win : Nat
  src : Nat
  seq : Nat
  crc : Nat
  first : Nat
  words : List Val40
  deriving DecidableEq, Repr

structure TwnState where
  st : TwinSt := .solo
  linkUp : Bool := false
  /-- base periods in a row with valid frames (R445) -/
  goodPeriods : Nat := 0
  frameThis : Bool := false
  partner : Option PartnerInfo := none
  peerHealth : BitVec 3 := 0
  inStep : Bool := false
  tookFromUnsynced : Bool := false
  /-- the field side's and the logic side's ACT_UNTIL (R444, R457) -/
  actUntil : Option Time := none
  fieldActUntil : Option Time := none
  /-- a former issuer that acts drives the outputs only from here: 100 ns after the handover instant (R458) -/
  driveFrom : Option Time := none
  /-- the field configuration marks a twin member (R444, R500) -/
  fieldMember : Bool := false
  reqSeq : BitVec 8 := 0
  reqs : List LeaseReq := []
  /-- the ends of the grants held, on TB2 (R457) -/
  peerEnd : Option Nat := none
  witEnd : Option Nat := none
  /-- TB2 of the last grant word of the witness (R459) -/
  witHeard : Nat := 0
  witSilent : Bool := false
  occ : Option Occupancy := none
  witness : Sparse WitnessRt := []
  witTab : Sparse (BitVec 64) := []
  offer : Option Nat := none
  accepted : Bool := false
  why : HandoverWhy := .host
  changeSeq : Word := 0
  changes : List TwinChange := []
  /-- changes to apply on this standby, with their base period (R449) -/
  mirrored : List (Word × Nat × List Byte × List Byte) := []
  snaps : List (Nat × Bool × List SnapRecord) := []
  replayN : Nat := 0
  /-- DATA frames that this standby's own receiver handed over (R447) -/
  ownFrames : List OwnFrame := []
  hashes : List (Nat × Word) := []
  /-- values written in this base period: instant, destination code, value (R451) -/
  hashAcc : List (Time × Nat × Int) := []
  image : List Byte := []
  imageN : Nat := 0
  /-- TB2 of the state image sent last (R453) -/
  imageAt : Nat := 0
  /-- an image has been loaded since this member became FORMING; it has been in step since the twin formed -/
  loaded : Bool := false
  formed : Bool := false
  resyncReq : Bool := false
  versionDiff : Bool := false
  takeoverCnt : Nat := 0
  hashMisCnt : Nat := 0
  linkLossCnt : Nat := 0
  snapFaultCnt : Nat := 0
  healthRun : Nat := 0
  deriving DecidableEq, Repr

/-! ### Guard and Fen Gate (R466 to R494) -/

/-- Causes that demand a group (R494 code 0x80). -/
structure Demand where
  localIn : Bool := false
  remote : Bool := false
  mismatch : Bool := false
  absence : Bool := false
  disagree : Bool := false
  sealCause : Bool := false
  cfgCause : Bool := false
  powerUp : Bool := false
  deriving DecidableEq, Repr

structure GroupRt where
  guard : Demand := { powerUp := true }
  fg : Demand := { powerUp := true }
  guardPermit : Bool := false
  fgPermit : Bool := false
  /-- causes ended, a manual restart awaited (R489) -/
  wait : Bool := false
  lastCause : Nat := 8
  deriving DecidableEq, Repr

inductive SinSt where
  | demand | ok | discrepancy | notFitted
  deriving DecidableEq, Repr

structure SinRt where
  aClosed : Bool := false
  bClosed : Bool := false
  st : SinSt := .demand
  /-- one channel has changed and the other is awaited (R484) -/
  waiting : Bool := false
  bothShown : Bool := false
  deriving DecidableEq, Repr

/-- The copies kept of one remote station's safety frames (R486, R487). -/
structure RemoteRt where
  wagScnt : Option Word := none
  pairScnt : Option Word := none
  wagCopy : List Byte := []
  pairCopy : List Byte := []
  /-- remote groups that a copy has shown demanded since two copies last matched (R487) -/
  held : BitVec 16 := 0
  mismatch : Bool := false
  absence : Bool := false
  watch : Bool := false
  /-- the newest SCNT at the last fault: matching copies end a demand with a newer one (R487) -/
  faultAt : Option Word := none
  /-- the watch rule on the pair alone, for Fen Gate -/
  fgWatch : Bool := false
  /-- two matching copies have arrived since field power-up (R490); their SCNT -/
  matched : Option Word := none
  deriving DecidableEq, Repr

/-- The pass of a rule application (R492): its part, and the bits it still has to program, as row and bit number. -/
structure RulePass where
  part : List Byte
  left : List (Nat × Nat)
  deriving DecidableEq, Repr

structure SafState where
  sealNow : BitVec 16 := 0
  sealPwrUp : BitVec 16 := 0
  sealLatch : Bool := false
  /-- SEAL as both halves read it at field power-up and on every change (R472) -/
  sealRead : BitVec 16 := 0
  rows : Sparse (BitVec 128) := []
  guardTab : Sparse (BitVec 64) := []
  groups : Sparse GroupRt := []
  sin : Sparse SinRt := []
  remote : Sparse RemoteRt := []
  fgVerified : Bool := false
  guardRun : Bool := false
  guardFault : Bool := false
  cfgFault : Bool := false
  /-- an application of rules that lost its power in the pass (R492) -/
  cutShort : Option RulePass := none
  /-- groups held demanded after an application until SEAL[15] is 0 (R492) -/
  rulesHold : BitVec 16 := 0
  scnt : Word := 0
  /-- the basic cycle of the last frame composed, and the windows in it that have theirs (R485) -/
  sendCycle : Word := 0
  sendWins : List Nat := []
  pairUp : Bool := false
  /-- pair instants in a row with a framing error, at most 16 -/
  pairBad : Nat := 0
  /-- when each row's envelope raised 0x81 last (R482) -/
  lastEnv : Sparse Nat := []
  cutCnt : Nat := 0
  refuseCnt : Nat := 0
  mismatchCnt : Nat := 0
  absentCnt : Nat := 0
  disagreeCnt : Nat := 0
  discrepCnt : Nat := 0
  deriving DecidableEq, Repr

/-! ### Drone (R495 to R518) -/

inductive DroneSt where
  | idle | run | failed | notFitted
  deriving DecidableEq, Repr

structure LoopRt where
  i : Int := 0
  enable : Bool := false
  spSel : Bool := false
  limit : Bool := false
  stale : Bool := false
  u : Int := 0
  /-- its output is in COMMAND (R495); the output's identifier (R325) and, for a DAC, its RANGE -/
  cmd : Bool := false
  dst : Nat := 0
  range : Nat := 0
  /-- PERIOD_US of a duty loop -/
  period : Nat := 0
  /-- handover request taken, confirmed: t_h (R498) -/
  req : Option Time := none
  confirmed : Option Time := none
  deriving DecidableEq, Repr

structure DrnState where
  st : DroneSt := .idle
  image : List Byte := []
  /-- a hold program that takes effect at the next Drone cycle start (R574) -/
  nextImage : Option (List Byte) := none
  imgFault : Bool := false
  /-- D₀ and the cycle count (R501) -/
  d0 : Time := 0
  cycle : Word := 0
  first : Bool := true
  firstOut : Bool := false
  m : Sparse Bool := []
  timers : Sparse Nat := []
  done : Sparse Bool := []
  cmp : Sparse Bool := []
  /-- latched value and staleness of each scan entry (R505, R506) -/
  latch : Sparse (Int × Bool) := []
  scanWords : Sparse Sample := []
  /-- per converter: the next hold-scan entry, the sum and number of its conversions, its first instant, a code at its limit (R504) -/
  scanAt : Sparse (Nat × Int × Nat × Time × Bool) := []
  /-- a cycle start has found the logic side absent, and the hold scan runs (R502, R504) -/
  scanOn : Bool := false
  loops : Sparse LoopRt := []
  /-- bit outputs: computed value, and in COMMAND -/
  hsVal : BitVec 48 := 0
  hsCmd : BitVec 48 := 0
  stkRun : Nat := 0
  stkFault : Nat := 0
  faulted : Bool := false
  takeCnt : Nat := 0
  /-- absence declared; named outputs return to COMMAND at the next output instant (R497) -/
  takeDue : Bool := false
  rsMs : Nat := 0
  /-- ms counted since the absence, or since field power good (R520) -/
  rsRun : Option Nat := none
  deriving DecidableEq, Repr

/-! ### Legacy bridge (R521 to R552) -/

/-- A frame in a CAN transmit queue (R539). -/
structure CanTx where
  pair : Pair
  sub : Word
  frame : CanFrame
  staleUs : Nat
  at_ : Option Time
  /-- TB2 at the moment it became eligible (R539) -/
  eligible : Option Nat
  order : Nat
  deriving DecidableEq, Repr

/-- An RX_BUFFER of a bridge or plant port (R532). -/
structure RxBuf where
  pair : Pair
  sub : Word
  port : Port
  addr : BitVec 64
  size : Nat
  filled : Nat := 0
  /-- TB2 of its first record -/
  first : Nat := 0
  deriving DecidableEq, Repr

inductive CanSt where
  | off | active | passive | busOff | recovering
  deriving DecidableEq, Repr

structure CanRt where
  st : CanSt := .off
  cfgErr : Bool := false
  tec : Nat := 0
  rec_ : Nat := 0
  q0 : List (List Byte) := []
  q1 : List (List Byte) := []
  loss0 : Bool := false
  loss1 : Bool := false
  lost0 : Nat := 0
  hpSeq : Word := 0
  ndat : Bool := false
  tx : List CanTx := []
  nextOrder : Nat := 0
  rxLost : Nat := 0
  hpOvwr : Nat := 0
  busoffCnt : Nat := 0
  staleCnt : Nat := 0
  lastLostEvt : Option Nat := none
  deriving DecidableEq, Repr

structure UartTx where
  pair : Pair
  sub : Word
  chars : List Byte
  firstAddr : Bool
  at_ : Option Time
  eligible : Bool
  deriving DecidableEq, Repr

structure UartRt where
  on : Bool := false
  cfgErr : Bool := false
  tx : List UartTx := []
  sending : Bool := false
  /-- characters of the record being received, newest first, its flags and stamps -/
  chars : List Byte := []
  flags : BitVec 8 := 0
  start : LineStamp := { tb1 := 0, tb2 := 0 }
  skip : Bool := false
  queue : List (List Byte) := []
  lossDue : Bool := false
  rxLost : Nat := 0
  lost0 : Nat := 0
  lastLostEvt : Option Nat := none
  errCnt : Nat := 0
  lastErrEvt : Option Nat := none
  deriving DecidableEq, Repr

/-- The parallel-bus operation list in progress (R548, R549). -/
structure PbRun where
  pair : Pair
  sub : Word
  addr : BitVec 64
  entries : List (BitVec 64)
  at_ : Option Time := none
  started : Bool := false
  doneN : Nat := 0
  /-- READY has released the strobe of the present cycle -/
  ready : Bool := false
  deriving DecidableEq, Repr

/-- A plant SEND that waits for its AT instant. -/
structure PlantTx where
  pair : Pair
  sub : Word
  port : Fin 2
  tag : BitVec 16
  tstamp : Bool
  at_ : Time
  bytes : List Byte
  deriving DecidableEq, Repr

structure LegState where
  filters : Sparse (BitVec 128) := []
  can : Sparse CanRt := []
  uart : Sparse UartRt := []
  pb : List PbRun := []
  pbTimeouts : Nat := 0
  rxBufs : List RxBuf := []
  plantTx : List PlantTx := []
  gpOut : BitVec 8 := 0
  gpIn : BitVec 8 := 0
  gpLastEvt : Sparse (Option Nat) := []
  deriving DecidableEq, Repr

/-! ### Life cycle, update and the service port (R553 to R578) -/

inductive LcState where
  | blank | maker | ownerOpen | ownerLocked | return_ | end_
  deriving DecidableEq, Repr

/-- One of the three copies of the life-cycle state (R555): good CRC, state, transition count. -/
structure LcCopy where
  good : Bool := true
  st : LcState := .maker
  count : Nat := 0
  deriving DecidableEq, Repr

/-- A set of firmware, field images and tables as one slot and one half hold it (R41, R570). -/
structure Activation where
  valid : Bool := false
  pkgId : Word := 0
  svn : Nat := 0
  svnFloor : Nat := 0
  /-- the images by part TYPE 1 to 8 (R566) -/
  images : Sparse (List Byte) := []
  versions : Sparse Word := []
  calPending : Bool := false
  rules : Bool := false
  /-- the storage keys under which the slot and the half were written (R570) -/
  slotKey : Option (BitVec 256) := none
  halfKey : Option (BitVec 256) := none
  deriving DecidableEq, Repr

/-- An INSTALL in progress: the manifest and its signatures, the set it writes, and the hash that each part must have. -/
structure InstallJob where
  manifest : List Byte
  sigs : List Byte
  act : Activation
  hashes : List (Nat × BitVec 256)
  /-- part types that the field die has verified and written, and the check that failed there (R571) -/
  fieldOk : List Nat := []
  fieldBad : Option Byte := none
  deriving DecidableEq, Repr

inductive UpdPhase where
  | idle | staging | installing | installed | activating | trial | failed
  deriving DecidableEq, Repr

/-- The last response of the service port (R563). -/
structure Response where
  op : Byte
  code : Byte
  seq : Word
  payload : List Byte
  deriving DecidableEq, Repr

structure LcyState where
  st : LcState := .maker
  count : Nat := 0
  peat : LcCopy := {}
  mram : LcCopy := {}
  nor : LcCopy := {}
  endFuse : Bool := false
  ldbg : Bool := false
  fdbg : Bool := false
  minSig : Bool := false
  /-- installed public keys: maker signing keys, owner signing keys, and whether the device keys exist (R559) -/
  rootHash : List Byte := []
  makerKeys : List (List Byte) := []
  ownerKeys : List (List Byte) := []
  device : Bool := true
  /-- the logic storage keys of slots 0 and 1 and the field storage key, while they are derived (R559, R560) -/
  logicKeys : List (BitVec 256) := []
  fieldKey : Option (BitVec 256) := none
  nonce : BitVec 128 := 0
  nonceLive : Bool := false
  helloCnt : Nat := 0
  lastSeq : Option Word := none
  lastResp : Option Response := none
  staging : Sparse Byte := []
  staged : Nat := 0
  phase : UpdPhase := .idle
  lastCode : Byte := 0
  progress : Nat := 0
  slotB : Bool := false
  slots : Sparse Activation := []
  fallbackOk : Bool := false
  fieldRst : Bool := false
  svnMin : Nat := 0
  actCnt : Nat := 0
  fallbackCnt : Nat := 0
  trial : Bool := false
  activating : Bool := false
  /-- an installed package waits for its activation (R573) -/
  installed : Bool := false
  /-- an INSTALL in progress (R570) -/
  job : Option InstallJob := none
  deriving DecidableEq, Repr

/-! ### The Peat Ledger (R579 to R591) -/

/-- One histogram item: sixteen bins and the extremes (R580, R584). -/
structure Histo where
  bins : List Nat := List.replicate 16 0
  min : Int := 0x7FFFFFFF
  max : Int := -0x80000000
  deriving DecidableEq, Repr

/-- The content of a ledger record (R584). -/
structure LedgerRec where
  seq : Word := 0
  cause : Byte := 0
  lc : Nat := 0
  recovered : Bool := false
  lost : Bool := false
  tcount : Nat := 0
  commits : Nat := 0
  items : Sparse Histo := []
  counters : Sparse Nat := []
  switchOns : Sparse Nat := []
  deriving DecidableEq, Repr

structure PeatState where
  /-- samples and increments since the last commit, on top of the newer live image (R586) -/
  buf : LedgerRec := {}
  pending : Bool := false
  /-- the two live images (R585): as made, one that holds nothing yet -/
  live0 : Option LedgerRec := some {}
  live1 : Option LedgerRec := none
  ring : Sparse LedgerRec := []
  seq : Word := 0
  commits : Nat := 0
  /-- the backup supply as last measured, in mV (R608) -/
  vbakMv : BitVec 16 := 0
  recovered : Bool := false
  lost : Bool := false
  /-- snapshot causes of this second (R587) -/
  causes : Byte := 0
  deriving DecidableEq, Repr

/-! ### What leaves the module -/

/-- The field side as the logic side has it from the uplink (R17, R18): output read-back, Guard, Fen Gate and Drone status, ledger
records. -/
structure FieldView where
  saf  : SafState := {}
  drn  : DrnState := {}
  peat : PeatState := {}
  hs   : Sparse HsRt := []
  dac  : Sparse DacRt := []
  pul  : Sparse PulRt := []
  encFault : BitVec 16 := 0
  tripCnt  : Nat := 0
  dacLate  : Nat := 0
  deriving DecidableEq, Repr

/-- Everything the module puts out: on PCIe, on the link, on the pins. The State keeps it newest first. -/
inductive Output where
  | hostWrite (addr : BitVec 64) (bytes : List Byte)
  | completion (pair : Pair) (index : Nat) (phase : Bool) (c : Cpl)
  /-- what a read of the host returns where it names no register (R80) -/
  | readData (w : Word)
  /-- an MSI-X message: the vector, its message address and data (R79, R109) -/
  | msix (v : Nat) (addr : BitVec 64) (data : Word)
  /-- a frame on the segment, with its CRC or the inverse of it (R370, R380) -/
  | waggle (f : WagFrame) (stomped : Bool)
  /-- the bytes of a frame between /S/ and /T/ on a trunk (R380) -/
  | trunk (port : Nat) (bytes : List Byte)
  | trunkDq (port : Nat) (seq : BitVec 8) (active : Bool)
  | trunkDr (port : Nat) (seq : BitVec 8) (turnaround : Stamp)
  | twin (type : Nat) (payload : List Byte)
  | lease (type : Nat) (role : Nat) (member : Bool) (seq : BitVec 8) (n : BitVec 8) (health : BitVec 3)
  | safetyPair (bytes : List Byte)
  | pulse (n : Nat) (high : Bool)
  /-- a PTP message with its form: one-step, P2P mechanism, Layer 2 transport, and the corrected transmit stamp of an event
  message (R50, R69) -/
  | ptp (port : Nat) (event oneStep p2p layer2 : Bool) (stamp : Option Stamp)
  | plant (port : Nat) (bytes : List Byte)
  | can (c : Nat) (f : CanFrame)
  | uart (u : Nat) (bytes : List Byte) (firstAddr : Bool)
  | pbCycle (entry : BitVec 64)
  /-- a response of the service port, header and payload (R563) -/
  | usb (bytes : List Byte)
  | debug (field : Bool) (open_ : Bool)
  deriving DecidableEq, Repr

/-! ### What the host-interface operations work on -/

/-- The host interface with what leaves the module. -/
structure Hx where
  hif : HifState
  out : List Output
  deriving DecidableEq, Repr

/-- What a host-interface operation reads of the rest: the registers, TB1, TB2, the full time and TB0_LOCK. -/
structure HxCtx where
  regs : Sparse Word
  t1 : Time
  t2 : Time
  sec : BitVec 48
  nsec : Nat
  lock0 : Bool
  deriving DecidableEq, Repr

end Sys2Proof.Machine
end

