-- ==== Sys2Proof/Machine/Bits.lean ====
section
/-! DEFINITION. Bit fields, bytes, sign extension, saturation and the sparse tables: the plain helpers every chapter's
file uses. A field [hi:lo] is written as the manual writes it. -/

namespace Sys2Proof.Machine

/-- Field [hi:lo] of a word as a number. -/
def fld {n : Nat} (w : BitVec n) (hi lo : Nat) : Nat := (w.toNat >>> lo) % 2 ^ (hi + 1 - lo)

/-- A number of b bits read as a signed (two's complement) value. -/
def sext (b x : Nat) : Int := if x % 2 ^ b < 2 ^ (b - 1) then Int.ofNat (x % 2 ^ b) else Int.ofNat (x % 2 ^ b) - 2 ^ b

/-- Field [hi:lo] of a word as a signed value. -/
def sfld {n : Nat} (w : BitVec n) (hi lo : Nat) : Int := sext (hi + 1 - lo) (fld w hi lo)

/-- Bit i of a word. -/
def tbit {n : Nat} (w : BitVec n) (i : Nat) : Bool := w.getLsbD i

/-- The word with field [hi:lo] holding v (modulo the field's width). -/
def putFld {n : Nat} (w : BitVec n) (hi lo v : Nat) : BitVec n :=
  BitVec.ofNat n (w.toNat - (fld w hi lo) * 2 ^ lo + (v % 2 ^ (hi + 1 - lo)) * 2 ^ lo)

/-- Bit i set to b. -/
def putBit {n : Nat} (w : BitVec n) (i : Nat) (b : Bool) : BitVec n := putFld w i i b.toNat

/-- A value as its two's complement bits. -/
def bitsOf (n : Nat) (x : Int) : BitVec n := BitVec.ofInt n x

/-- The n little-endian bytes of a number. -/
def leBytes : Nat → Nat → List Byte
  | 0, _ => []
  | n + 1, x => BitVec.ofNat 8 x :: leBytes n (x / 256)

/-- The number whose little-endian bytes are given. -/
def leNat : List Byte → Nat
  | [] => 0
  | b :: r => b.toNat + 256 * leNat r

/-- Bytes [i, i + n) of a list, short where the list ends. -/
def slice (b : List α) (i n : Nat) : List α := (b.drop i).take n

/-- The n-byte little-endian field at byte i. -/
def leAt (b : List Byte) (i n : Nat) : Nat := leNat (slice b i n)

/-- Entry i of a list of bytes of n bytes each, as a bit vector. -/
def entryAt (w n : Nat) (b : List Byte) (i : Nat) : BitVec w := BitVec.ofNat w (leAt b (i * n) n)

/-- The 64-bit canonical form of a signed 40-bit value in host memory (R9). -/
def canonS (x : Int) : BitVec 64 := BitVec.ofInt 64 (sext 40 (BitVec.ofInt 40 x).toNat)

/-- The 64-bit canonical form of an unsigned 40-bit value (R9). -/
def canonU (x : Nat) : BitVec 64 := BitVec.ofNat 64 (x % 2 ^ 40)

/-- A 64-bit word is a canonical unsigned 40-bit value: bits 63:40 zero (R95). -/
def isCanonU (x : Nat) : Bool := x % 2 ^ 64 < 2 ^ 40

/-- A 64-bit word is a canonical signed 40-bit value: bits 63:40 equal bit 39 (R95). -/
def isCanonS (x : Nat) : Bool := x % 2 ^ 64 < 2 ^ 39 || x % 2 ^ 64 ≥ 2 ^ 64 - 2 ^ 39

/-- x limited to [lo, hi]. -/
def clampI (lo hi x : Int) : Int := if x < lo then lo else if hi < x then hi else x

/-- x limited to [lo, hi]. -/
def clampN (lo hi x : Nat) : Nat := if x < lo then lo else if hi < x then hi else x

/-- A counter that saturates at cap, one up. -/
def satInc (cap n : Nat) : Nat := if n < cap then n + 1 else cap

/-- A counter that saturates at cap, k up. -/
def satAdd (cap n k : Nat) : Nat := if n + k < cap then n + k else cap

/-- Saturation to a signed b-bit value. -/
def satS (b : Nat) (x : Int) : Int := clampI (-(2 ^ (b - 1))) (2 ^ (b - 1) - 1) x

/-- Signed 40-bit difference of two short times (R47). -/
def sdiff (a b : Time) : Int := (a - b).toInt

/-- Signed 48-bit difference of two precise stamps (R49). -/
def sdiff48 (a b : Stamp) : Int := (a - b).toInt

/-- What one tick adds to a base without the free carry, in units of 2⁻³² ns: 8 ns and the rate term (R44). -/
def rateStep (rate : Int) : Int := 8 * 2 ^ 32 + rate / 32

/-- The tick of instant x on a base, counted from the present tick of that base: the tick in which a stamp of x falls (R64). -/
def Tb.tickOf (t : Tb) (x : Time) : Int := ((sdiff x t.ns + 1) * 2 ^ 32 - Int.ofNat t.frac.toNat - 1) / rateStep t.rate

/-- The short time x ns after t. -/
def tadd (t : Time) (x : Int) : Time := t + BitVec.ofInt 40 x

/-- A precise stamp of a short time with fraction 0 (R50). -/
def stampOf (t : Time) : Stamp := BitVec.ofNat 48 (t.toNat * 256)

/-- The short time of a precise stamp, fraction dropped (R49). -/
def stampNs (st : Stamp) : Time := BitVec.ofNat 40 (st.toNat / 256)

/-- Division rounded to nearest, ties away from zero. -/
def divNearest (a : Int) (b : Nat) : Int :=
  if a < 0 then -((-a + Int.ofNat (b / 2)) / Int.ofNat b) else (a + Int.ofNat (b / 2)) / Int.ofNat b

/-- n copies of f applied in turn with the index, from 0. -/
def forN (n : Nat) (f : Nat → σ → σ) (s : σ) : σ := (List.range n).foldl (fun s i => f i s) s

/-- A list with element i replaced (unchanged where it is absent). -/
def setAt (l : List α) (i : Nat) (x : α) : List α := l.set i x

/-- The first n bytes, zeros added where the list is short. -/
def padTo (n : Nat) (b : List Byte) : List Byte := (b ++ List.replicate (n - b.length) 0).take n

/-- a put before the first element it does not exceed. -/
def insertBy (le : α → α → Bool) (a : α) : List α → List α
  | [] => [a]
  | b :: r => if le a b then a :: b :: r else b :: insertBy le a r

/-- A list in rising order, equal elements in their own order. -/
def sortBy (le : α → α → Bool) : List α → List α
  | [] => []
  | a :: r => insertBy le a (sortBy le r)

/-! ### Sparse tables -/

/-- The entry at index i; an unlisted index reads as d. -/
def tget (d : α) : Sparse α → Nat → α
  | [], _ => d
  | (k, v) :: r, i => if k = i then v else tget d r i

/-- The table with v at index i, in canonical form: a value equal to d is not listed. -/
def tput [DecidableEq α] (d v : α) : Sparse α → Nat → Sparse α
  | [], i => if v = d then [] else [(i, v)]
  | (k, w) :: r, i =>
    if v = d then (if i = k then tput d v r i else (k, w) :: tput d v r i)
    else if i < k then (i, v) :: (k, w) :: r
    else if i = k then (i, v) :: r
    else (k, w) :: tput d v r i

/-- The table with the entry at i changed by f. -/
def tmod [DecidableEq α] (d : α) (t : Sparse α) (i : Nat) (f : α → α) : Sparse α := tput d (f (tget d t i)) t i

/-- Entries first, first + 1, … put in turn. -/
def tputs [DecidableEq α] (d : α) (t : Sparse α) (first : Nat) : List α → Sparse α
  | [] => t
  | v :: r => tputs d (tput d v t first) (first + 1) r

/-- Every listed entry changed by f; one that comes to equal d is not listed. -/
def tmap [DecidableEq α] (d : α) (f : α → α) (t : Sparse α) : Sparse α :=
  (t.map (fun x => (x.1, f x.2))).filter (fun x => decide (x.2 ≠ d))

/-- Canonical form: indices strictly rising, no entry equal to what an unlisted index reads as. -/
def twf [DecidableEq α] (d : Nat → α) : Sparse α → Bool
  | [] => true
  | [(k, v)] => decide (v ≠ d k)
  | (k, v) :: (k', v') :: r => decide (k < k') && decide (v ≠ d k) && twf d ((k', v') :: r)

/-! ### Bit-serial CRCs -/

/-- One bit of a reflected CRC with the given polynomial. -/
def crcBitR (poly : Nat) (c : Nat) : Nat := if c % 2 = 1 then (c / 2) ^^^ poly else c / 2

/-- One byte of a reflected CRC. -/
def crcByteR (poly : Nat) (c : Nat) (b : Byte) : Nat :=
  (List.range 8).foldl (fun c _ => crcBitR poly c) (c ^^^ b.toNat)

/-- CRC-32C (Castagnoli): reflected, initial value and final exclusive-or all ones. -/
def crc32c (b : List Byte) : Nat := (b.foldl (crcByteR 0x82F63B78) 0xFFFFFFFF) ^^^ 0xFFFFFFFF

/-- One bit of a forward (most significant bit first) CRC of width n. -/
def crcBitF (n poly : Nat) (c : Nat) : Nat :=
  if c / 2 ^ (n - 1) % 2 = 1 then (c * 2 % 2 ^ n) ^^^ poly else c * 2 % 2 ^ n

/-- One byte of a forward CRC of width n, most significant bit first. -/
def crcByteF (n poly : Nat) (c : Nat) (b : Byte) : Nat :=
  (List.range 8).foldl (fun c _ => crcBitF n poly c) (c ^^^ (b.toNat * 2 ^ (n - 8)))

end Sys2Proof.Machine
end

