-- ==== Sys2Proof/Machine/Regs.lean ====
section
/-! DEFINITION. The host-writable bits of BAR0: the Reset column, the RW and the RWL bits of every register, and the
values that read back clamped (R12, R13, R609). -/

namespace Sys2Proof.Machine

/-- The block of a BAR0 offset (R609). -/
def blockOf (off : Nat) : Nat := off / 0x1000

/-- off lies in the group of n registers that starts at base with the given stride, at byte sub of its element. -/
def inGroup (base stride n sub off : Nat) : Bool :=
  decide (base + sub ≤ off) && decide (off < base + stride * n) && decide ((off - base - sub) % stride = 0)

/-- The index of an offset in a group. -/
def groupIx (base stride off : Nat) : Nat := (off - base) / stride

/-- The class dividers at reset (R161). -/
def classDivReset : Nat → Nat
  | 0 => 1 | 1 => 2 | 2 => 5 | 3 => 10 | 4 => 25 | 5 => 50 | 6 => 100 | _ => 500

/-- The Reset column of the RW and RWL fields of a register. -/
def regDefault (off : Nat) : Word :=
  if off = 0x0100 then 0x200                                            -- PWRFAIL_EN
  else if inGroup 0x2100 0x20 4 0 off then 4                            -- BASE = TB1
  else if off = 0x3008 then 16                                          -- STEP_RESERVE
  else if inGroup 0x3400 4 128 0 off then 1                             -- COUNT
  else if inGroup 0x3800 0x10 128 8 off then 0x400                      -- SIZE_LOG2 = 4
  else if off = 0x4004 then 100
  else if off = 0x4014 then 1000
  else if inGroup 0x5040 4 8 0 off then BitVec.ofNat 32 (classDivReset (groupIx 0x5040 4 off))
  else if off = 0x6000 then 3
  else if off = 0x7000 then 4
  else if off = 0x7008 then BitVec.ofNat 32 (32 * 2 ^ 24 + 50 * 2 ^ 16 + 600)
  else if off = 0xA000 then 0x20000
  else if off = 0xA004 then 255
  else if off = 0xA400 then BitVec.ofNat 32 (500 * 2 ^ 16 + 0xFFF)
  else if off = 0xB000 then 4
  else if off = 0xB008 then 0xFFF
  else if off = 0xB00C then 0xFFF
  else if inGroup 0xE100 0x40 4 0 off then 0x80                         -- AUTO_REC
  else if inGroup 0xE200 0x20 4 0 off then 0x21140                      -- GAP 2, DE_HOLD 1, DE_LEAD 1, ECHO_SUPP
  else if inGroup 0xE200 0x20 4 4 off then BitVec.ofNat 32 (0xF * 2 ^ 28 + 108)
  else if inGroup 0xE310 4 4 0 off then BitVec.ofNat 32 (4 * 2 ^ 14 + 2 * 2 ^ 10 + 25 * 2 ^ 4 + 3)
  else if off = 0xF100 then 0xF
  else 0

/-- The RW bits of a register that a plain write changes (R13). Bits whose write is a command of its own (ENABLE,
RINGS_EN, ARM, RUN and EN of a bridge port) are stored with the others by that command. -/
def regRw (off : Nat) : Word :=
  if inGroup 0x2100 0x20 4 0 off then 0x1E                              -- POL, BASE, MODE
  else if inGroup 0x2100 0x20 4 4 off then 0xFFFFFFFF
  else if inGroup 0x2100 0x20 4 8 off then 0xFF
  else if inGroup 0x2100 0x20 4 0xC off then 0xFFFFFFFF
  else if inGroup 0x2100 0x20 4 0x10 off then 0xFFFFFFFF
  else if inGroup 0x3400 4 128 0 off then 0xFFFF00FF
  else if inGroup 0x3800 0x10 128 0 off then 0xFFFFF000
  else if inGroup 0x3800 0x10 128 4 off then 0xFFFFFFFF
  else if inGroup 0x3800 0x10 128 8 off then 0x000F1F7F
  else if off = 0xF100 then 0x10                                        -- HOLD
  else 0

/-- The RWL bits of a register (R13, R611). -/
def regRwl (off : Nat) : Word :=
  if off = 0x0100 then 0x37F
  else if off = 0x2000 then 0x7F
  else if off = 0x2020 || off = 0x2024 then 0xFFFFFFFF
  else if off = 0x3008 then 0x3F
  else if off = 0x4000 then 0xFF02
  else if off = 0x4004 then 0x3FFF
  else if off = 0x4014 then 0xFFFF
  else if off = 0x5000 then 1
  else if inGroup 0x5040 4 8 0 off && decide (off ≠ 0x5040) && decide (off ≠ 0x505C) then 0x1FF
  else if off = 0x6000 then 0x3FF
  else if off = 0x7000 then 0xE
  else if off = 0x7008 then 0xFFFFFFFF
  else if off = 0x8000 then 1
  else if off = 0x9000 then 1
  else if off = 0xA000 then 0x70FF0001
  else if off = 0xA004 then 0x3FF
  else if off = 0xA400 then 0x87FF0FFF
  else if off = 0xA410 || off = 0xA420 then 0xFFFF0003
  else if off = 0xB000 then 0xF
  else if off = 0xB008 || off = 0xB00C then 0xFFFFFF
  else if off = 0xB010 then 0x3F
  else if off = 0xB014 then 0x80000FFF
  else if off = 0xE000 then 0xFFFF
  else if inGroup 0xE100 0x40 4 0 off then 0xFE
  else if inGroup 0xE100 0x40 4 4 off then 0x3FFFFFFF
  else if inGroup 0xE100 0x40 4 8 off then 0x1FFFFFF
  else if inGroup 0xE100 0x40 4 0xC off then 0xFFFF3F3F
  else if inGroup 0xE100 0x40 4 0x10 off then 0xFFFFFFF8
  else if inGroup 0xE100 0x40 4 0x14 off then 0xFFFFFFFF
  else if inGroup 0xE100 0x40 4 0x18 off then 0x7F
  else if inGroup 0xE200 0x20 4 0 off then 0x3FFFFF7E
  else if inGroup 0xE200 0x20 4 4 off then 0xFF000FFF
  else if inGroup 0xE200 0x20 4 8 off then 0xFFFF
  else if off = 0xE300 then 6
  else if inGroup 0xE310 4 4 0 off then 0x1FFFFF
  else if off = 0xF100 then 0xF
  else 0

/-- Field [hi:lo] of w limited to [lo', hi']. -/
def clampFld (w : Word) (hi lo lo' hi' : Nat) : Word := putFld w hi lo (clampN lo' hi' (fld w hi lo))

/-- The value a written register reads back as: the limits that the register tables give. -/
def regClamp (off : Nat) (w : Word) : Word :=
  if off = 0x3008 then clampFld w 5 0 0 32
  else if off = 0x4004 then clampFld w 13 0 50 10000
  else if off = 0x4014 then clampFld w 15 0 1 65535
  else if off = 0x6000 then clampFld w 7 0 1 255
  else if off = 0x7008 then clampFld (clampFld (clampFld w 31 24 1 255) 23 16 10 255) 15 0 1 65535
  else if off = 0xA000 then clampFld w 23 16 1 255
  else if off = 0xA004 then clampFld w 7 0 1 255
  else if off = 0xA400 then clampFld w 26 16 300 2000
  else if inGroup 0xE100 0x40 4 0 off then (if fld w 2 1 = 3 then putFld w 2 1 0 else w)
  else if inGroup 0xE200 0x20 4 0 off then clampFld w 23 16 1 255
  else if inGroup 0xE200 0x20 4 4 off then clampFld w 31 28 3 15
  else if inGroup 0xE310 4 4 0 off then clampFld w 9 4 1 63
  else w

/-- The host-writable bits of the register at an offset. -/
def regAt (regs : Sparse Word) (off : Nat) : Word := tget (regDefault off) regs off

/-- The register bank with w at an offset. -/
def regSet (regs : Sparse Word) (off : Nat) (w : Word) : Sparse Word := tput (regDefault off) w regs off

end Sys2Proof.Machine
end

