-- ==== Sys2Proof/Machine/State.lean ====
section
/-! DEFINITION. The State of the AXQ-4096 block: everything the manual gives the module, as plain data, with the queue
of commands that wait; why a command can stop; and the State right after a cold power-up. -/

namespace Sys2Proof.Machine

/-- The whole module. -/
structure State where
  /-- commands waiting, first in first out -/
  pending : List Instr := []
  /-- the host-writable bits (RW, RWL) of BAR0, by offset; an unlisted offset holds its Reset column (R13, R609) -/
  regs : Sparse Word := []
  time : TimeState := {}
  pw : PowerState := {}
  hif : HifState := {}
  stp : StpState := {}
  cmb : CmbState := {}
  blk : BlkState := {}
  cnv : CnvState := {}
  fio : FioState := {}
  mir : MirState := {}
  /-- the Bog: byte offset in the 12 GiB region and byte, offsets strictly rising, no byte equal to 0 listed (R37) -/
  bog : List Host.Cell := []
  wag : WagState := {}
  twn : TwnState := {}
  saf : SafState := {}
  drn : DrnState := {}
  leg : LegState := {}
  lcy : LcyState := {}
  peat : PeatState := {}
  /-- the field side as the last valid uplink frame showed it (R17) -/
  seen : FieldView := {}
  /-- everything that has left the module, newest first (the model's own) -/
  out : List Output := []
  /-- how many free values have been taken (the model's own) -/
  freeIdx : Nat := 0
  deriving DecidableEq, Repr

/-- Why a command ends in a fault: no command of this block does, so the type has no value. -/
inductive Fault where
  deriving DecidableEq, Repr

/-- Why a command is refused. -/
inductive Refusal where
  /-- raised by an arm of exec whose meaning is not written; safe, nothing follows from it -/
  | notModelled (mnemonic : String)
  deriving DecidableEq, Repr

/-- The module at power-up: V12 in range and PRES_N asserted, the logic side still held until its PLLs are stable, the field
side not yet powered, every table and register at its reset value, no command waiting (R593, R28, R608, R615). -/
def State.reset : State := {}

end Sys2Proof.Machine
end

