-- ==== Sys2Proof/Machine/Ops.lean ====
section
/-! DEFINITION. The shared operations: time, registers, ring pairs and their entries, completions, events, interrupts,
host writes, reads in flight. Every chapter's file is built from these. -/

namespace Sys2Proof.Machine

/-! ### Registers and simple queries -/

/-- The host-writable bits of the register at an offset. -/
def State.reg (s : State) (off : Nat) : Word := regAt s.regs off

/-- Field [hi:lo] of the register at an offset. -/
def State.rfld (s : State) (off hi lo : Nat) : Nat := fld (s.reg off) hi lo

/-- Bit i of the register at an offset. -/
def State.rbit (s : State) (off i : Nat) : Bool := tbit (s.reg off) i

/-- The state with w in the host-writable bits of a register. -/
def State.setReg (s : State) (off : Nat) (w : Word) : State := { s with regs := regSet s.regs off w }

/-- TB0 short time (R52). -/
def tb0Short (t : TimeState) : Time := BitVec.ofNat 40 (t.tb0.sec.toNat * 1000000000 + t.tb0.nsec)

/-- TB2 of the present epoch as a count that does not wrap, for intervals beyond the half-wrap (R46, R47). -/
def TimeState.t2 (t : TimeState) : Nat := t.tb2Wraps * 2 ^ 40 + t.tb2.ns.toNat

/-- No event of a kind has been raised in the last gap ns of TB2. DESIGN CHOICE (log 123): the interval starts anew with a logic-side
reset. -/
def State.evtDue (s : State) (gap : Nat) (last : Option Nat) : Bool :=
  match last with
  | none => true
  | some t => decide (t + gap ≤ s.time.t2)

/-- The configured role of WAG_ROLE_CFG: 0 SKEP, 1 HIVE, 3 witness. DESIGN CHOICE (log 122): a ROLE written while RUN is 1 is read
from the register at once, while the link state stays as RUN took it; the spec does not say when such a ROLE takes effect (R6). -/
def State.role (s : State) : Nat := s.rfld 0xA004 9 8

/-- This module runs the link as HIVE (R403, R412). -/
def State.isHive (s : State) : Bool := decide (s.wag.link = .hive)

/-- This module's station number (R363). -/
def State.station (s : State) : Nat := s.rfld 0xA400 11 0

/-- Writes of BAR0 and BAR2 reach the logic side: it has left reset and is not held in its boot stage (R15, R519, R575). -/
def State.hostUp (s : State) : Bool := decide (s.pw.logic = .boot) || decide (s.pw.logic = .run)

/-- The state with one more item put out. -/
def State.emitOut (s : State) (o : Output) : State := { s with out := o :: s.out }

/-- The state with one more free value taken. -/
def State.tookFree (s : State) : State := { s with freeIdx := s.freeIdx + 1 }

/-- Host data written by the module (R103). -/
def State.hostWrite (s : State) (addr : BitVec 64) (b : List Byte) : State := s.emitOut (.hostWrite addr b)

/-! ### Vectors (R109, R110) -/

/-- Vector v fires: sent, or left pending while masked. -/
def fireVec (v : Nat) (x : Hx) : Hx :=
  let r := tget {} x.hif.vectors v
  if r.masked then
    { x with hif := { x.hif with vectors := tput {} { r with pending := true, unsignalled := 0 } x.hif.vectors v } }
  else
    { hif := { x.hif with vectors := tput {} { r with unsignalled := 0 } x.hif.vectors v }, out := .msix v r.addr r.data :: x.out }

/-- An entry has been written to a completion ring that signals vector v (R109). -/
def signalVec (c : HxCtx) (v : Nat) (x : Hx) : Hx :=
  let m := regAt c.regs (0x3400 + 4 * v)
  let r := tget {} x.hif.vectors v
  let n := r.unsignalled + 1
  if fld m 31 16 = 0 || decide (n ≥ max 1 (fld m 7 0)) then fireVec v x
  else
    { x with hif := { x.hif with vectors := tput {} { r with
        unsignalled := n, first := if r.unsignalled = 0 then c.t2 else r.first } x.hif.vectors v } }

/-! ### Pairs (R84 to R90) -/

/-- The class of pair p (R85). -/
def pairClass (regs : Sparse Word) (p : Nat) : Nat := fld (regAt regs (0x3808 + 0x10 * p)) 19 16

/-- The size of ring r in entries (R84). -/
def ringSize (regs : Sparse Word) (r : Nat) : Nat := 2 ^ fld (regAt regs (0x3808 + 0x10 * r)) 12 8

/-- The vector of completion ring 64 + p. -/
def pairVec (regs : Sparse Word) (p : Nat) : Nat := fld (regAt regs (0x3808 + 0x10 * (64 + p))) 6 0

/-- The run-time state of pair p. -/
def HifState.pair (h : HifState) (p : Nat) : PairRt := tget {} h.pairs p

/-- The host interface with pair p changed by f. -/
def modPair (p : Nat) (f : PairRt → PairRt) (x : Hx) : Hx :=
  { x with hif := { x.hif with pairs := tmod {} x.hif.pairs p f } }

/-- The completion ring of pair p takes entries and has room for n more (R104). -/
def hasRoom (c : HxCtx) (p n : Nat) (h : HifState) : Bool :=
  let r := h.pair p
  (decide (r.st = .running) || decide (r.st = .error)) &&
    decide ((r.written - r.cplDb).toNat + n ≤ ringSize c.regs (64 + p))

/-- Entry e is written to completion ring 64 + p, with its PHASE, and its vector is signalled (R100, R101, R103). -/
def writeEntry (c : HxCtx) (p : Nat) (e : Cpl) (x : Hx) : Hx :=
  let r := x.hif.pair p
  let size := ringSize c.regs (64 + p)
  let e := if e.own then { e with stampLo := canonU c.t1.toNat } else e
  let o := Output.completion (BitVec.ofNat 6 p).toFin (r.written.toNat % size)
    (decide (r.written.toNat / size % 2 = 0)) e
  signalVec c (pairVec c.regs p)
    (modPair p (fun r => { r with written := r.written + 1 }) { x with out := o :: x.out })

/-- The entry completes a descriptor: it is no ring-error entry (R104, R116). -/
def Cpl.ofDescriptor (e : Cpl) : Bool := !(e.own && decide (e.tag = 0xFFFF) && decide (e.code ≠ 0x07))

/-- An entry falls due on pair p: written, held, or discarded and counted (R104). -/
def emitEntry (c : HxCtx) (p : Nat) (e : Cpl) (x : Hx) : Hx :=
  let r := x.hif.pair p
  if r.held.isEmpty && decide (r.discarded = 0) && hasRoom c p 1 x.hif then writeEntry c p e x
  else if r.held.length < ringSize c.regs (64 + p) then modPair p (fun r => { r with held := r.held ++ [e] }) x
  else
    let x := modPair p (fun r => { r with discarded := r.discarded + 1, discardedSub := if e.ofDescriptor then e.sub else r.discardedSub }) x
    { x with hif := { x.hif with cplLost := satInc 0xFFFFFFFF x.hif.cplLost } }

/-! ### Reads in flight (R111, R112) -/

/-- HIF_RD_CFG.STEP_RESERVE. -/
def stepReserve (regs : Sparse Word) : Nat := fld (regAt regs 0x3008) 5 0

/-- A read request that pair p could have now, of at most 96 outstanding: `some true` one of the step reserve, `some false` a shared
one. -/
def freeRequest (c : HxCtx) (p : Nat) (h : HifState) : Option Bool :=
  let res := stepReserve c.regs
  if !decide (h.outstanding < 96) then none
  else if decide (pairClass c.regs p = 0) && decide (h.stepOut < res) then some true
  else if h.outstanding - h.stepOut < 96 - res then some false
  else none

/-- A request is granted to pair p, from the step reserve or shared. -/
def grantRequest (p : Nat) (reserved : Bool) (x : Hx) : Hx :=
  let x := modPair p (fun r => { r with
    inFlight := r.inFlight + 1, resFlight := r.resFlight + reserved.toNat }) x
  let n := x.hif.outstanding + 1
  { x with hif := { x.hif with
      outstanding := n, stepOut := x.hif.stepOut + reserved.toNat, peak := max x.hif.peak n } }

/-- A read has to wait for a request (R112). -/
def countStall (x : Hx) : Hx := { x with hif := { x.hif with stallCnt := satInc 0xFFFF x.hif.stallCnt } }

/-- Pair p asks for one read of host data: granted, or waiting and counted (R112). -/
def askRead (c : HxCtx) (p : Nat) (x : Hx) : Hx :=
  match freeRequest c p x.hif with
  | some r => grantRequest p r x
  | none =>
    let x := countStall x
    { x with hif := { x.hif with waiting := tmod 0 x.hif.waiting p (· + 1) } }

/-- Pair p asks for one fetch of n descriptors: granted, or waiting and counted (R112, R114). -/
def askFetch (c : HxCtx) (p n : Nat) (x : Hx) : Hx :=
  match freeRequest c p x.hif with
  | some r => modPair p (fun q => { q with fetchOut := q.fetchOut ++ [n] }) (grantRequest p r x)
  | none => modPair p (fun q => { q with fetchWait := q.fetchWait ++ [n] }) (countStall x)

/-- A read of pair p has ended and its request is free. -/
def freeRead (p : Nat) (x : Hx) : Hx :=
  let r := x.hif.pair p
  if r.inFlight = 0 then x
  else
    let res := decide (r.resFlight > 0)
    let x := modPair p (fun r => { r with inFlight := r.inFlight - 1, resFlight := r.resFlight - res.toNat }) x
    { x with hif := { x.hif with
        outstanding := x.hif.outstanding - 1, stepOut := x.hif.stepOut - res.toNat } }

/-- Every request of pair p is given up, waiting ones too. -/
def freeAllReads (p : Nat) (x : Hx) : Hx :=
  let r := x.hif.pair p
  let x := modPair p (fun r => { r with inFlight := 0, resFlight := 0, fetchOut := [], fetchWait := [] }) x
  { x with hif := { x.hif with
      outstanding := x.hif.outstanding - r.inFlight, stepOut := x.hif.stepOut - r.resFlight,
      waiting := tput 0 0 x.hif.waiting p } }

/-- A descriptor of the oldest fetch of pair p has come; with the last of it the request is free (R111, R114). -/
def fetchedOne (p : Nat) (x : Hx) : Hx :=
  match (x.hif.pair p).fetchOut with
  | [] => x
  | n :: r =>
    if n ≤ 1 then freeRead p (modPair p (fun q => { q with fetchOut := r }) x)
    else modPair p (fun q => { q with fetchOut := (n - 1) :: r }) x

/-- The completion ring of pair p holds back no entry, so that the module may fetch (R104). -/
def PairRt.mayFetch (r : PairRt) : Bool := r.held.isEmpty && decide (r.discarded = 0)

/-- How many descriptors the next fetch of pair p takes: one, or of a step ring up to four that stand together in the ring
(R114). -/
def burstOf (c : HxCtx) (p : Nat) (r : PairRt) : Nat :=
  if pairClass c.regs p = 0 then
    let size := ringSize c.regs p
    min 4 (min (r.subDb - r.issued).toNat (size - r.issued.toNat % size))
  else 1

/-- Fetches are asked for up to the accepted doorbell, while nothing is held (R92, R104, R114). -/
def pumpPair (c : HxCtx) (p : Nat) (x : Hx) : Hx :=
  forN ((x.hif.pair p).subDb - (x.hif.pair p).issued).toNat (fun _ x =>
    let r := x.hif.pair p
    if decide (r.st = .running) && r.mayFetch && decide (r.issued ≠ r.subDb) then
      let n := burstOf c p r
      askFetch c p n (modPair p (fun q => { q with issued := q.issued + BitVec.ofNat 32 n }) x)
    else x) x

/-- Held entries are written in order while there is room, then 0x0F with the number discarded (R104). -/
def flushHeld (c : HxCtx) (p : Nat) (x : Hx) : Hx :=
  let x := forN (x.hif.pair p).held.length (fun _ x =>
    match (x.hif.pair p).held with
    | e :: r => if hasRoom c p 1 x.hif then writeEntry c p e (modPair p (fun q => { q with held := r }) x) else x
    | [] => x) x
  let r := x.hif.pair p
  let x :=
    if r.held.isEmpty && decide (r.discarded > 0) && hasRoom c p 1 x.hif then
      writeEntry c p { tag := 0xFFFF, code := 0x0F, sub := r.discardedSub, result := BitVec.ofNat 64 r.discarded,
                       stampLo := 0, stampHi := 0, own := true }
        (modPair p (fun q => { q with discarded := 0, discardedSub := 0 }) x)
    else x
  pumpPair c p x

/-- Completed descriptors at the front of the pair write their entries, in submission order (R102). -/
def drainPair (c : HxCtx) (p : Nat) (x : Hx) : Hx :=
  forN (x.hif.pair p).entries.length (fun _ x =>
    match (x.hif.pair p).entries with
    | e :: r =>
      match e.stage, e.cpl with
      | .done, some k => emitEntry c p k (modPair p (fun q => { q with entries := r }) x)
      | _, _ => x
    | [] => x) x

/-- The entry of a descriptor: its TAG, the code, the submission count, RESULT, TB1 now and the class-specific bytes
(R100). DEDUCED (log 116), unsafe: an entry falls due when its descriptor is done, and its STAMP is that instant, also where R102 lets it
be written only after an earlier one. -/
def entryOf (c : HxCtx) (e : Entry) (code : Byte) (result hi : BitVec 64) : Cpl :=
  { tag := BitVec.ofNat 16 (fld e.raw 31 16), code := code, prior := e.prior, sub := e.index, result := result,
    stampLo := canonU c.t1.toNat, stampHi := hi }

/-- The first descriptor of the list with submission count sub that is not done is marked done with an entry. -/
def markDone (c : HxCtx) (sub : Word) (code : Byte) (result hi : BitVec 64) : List Entry → List Entry
  | [] => []
  | e :: r =>
    if decide (e.sub = sub) && decide (e.stage ≠ .done) then
      { e with stage := .done, data := [], cpl := some (entryOf c e code result hi) } :: r
    else e :: markDone c sub code result hi r

/-- The descriptor with submission count sub of pair p completes (R102). -/
def finishX (p : Nat) (sub : Word) (code : Byte) (result hi : BitVec 64) (c : HxCtx) (x : Hx) : Hx :=
  drainPair c p (modPair p (fun r => { r with entries := markDone c sub code result hi r.entries }) x)

/-! ### Events (R106 to R108) -/

/-- One event ring takes an event, or loses it (R106, R107). DESIGN CHOICE (log 116), unsafe: an event that two rings lose counts twice in
HIF_EVT_LOST. -/
def takeEvent (c : HxCtx) (e : Cpl) (x : Hx) (p : Nat) : Hx :=
  let r := x.hif.pair p
  let need := if r.evtLost > 0 then 2 else 1
  if r.held.isEmpty && decide (r.discarded = 0) && hasRoom c p need x.hif then
    let x := if r.evtLost > 0 then
        writeEntry c p { e with code := 0x0C, result := BitVec.ofNat 64 r.evtLost }
          (modPair p (fun q => { q with evtLost := 0 }) x)
      else x
    writeEntry c p e x
  else
    let x := modPair p (fun q => { q with evtLost := q.evtLost + 1 }) x
    { x with hif := { x.hif with evtLost := satInc 0xFFFFFFFF x.hif.evtLost } }

/-- Pair p is a RUNNING event ring whose mask passes a code (R106). -/
def passes (c : HxCtx) (h : HifState) (code : Byte) (p : Nat) : Bool :=
  let r := h.pair p
  decide (r.st = .running) && decide (pairClass c.regs p = 6) && tbit r.evtMask (code.toNat / 16)

/-- An event is raised: numbered, and taken by every event ring that passes it, or counted lost (R106, R107). -/
def raiseX (code : Byte) (result : BitVec 64) (c : HxCtx) (x : Hx) : Hx :=
  let seq := x.hif.evtSeq
  let x := { x with hif := { x.hif with evtSeq := seq + 1 } }
  let e : Cpl := { tag := 0xFFFF, code := code, tb0Unl := !c.lock0, sub := seq, result := result,
                   stampLo := BitVec.ofNat 64 c.sec.toNat, stampHi := BitVec.ofNat 64 c.nsec }
  match (List.range 64).filter (passes c x.hif code) with
  | [] => { x with hif := { x.hif with evtLost := satInc 0xFFFFFFFF x.hif.evtLost } }
  | ps => ps.foldl (takeEvent c e) x

/-! ### Ring errors and resets (R115 to R117) -/

/-- Descriptors not accepted are marked FLUSHED (R116). -/
def flushEntry (c : HxCtx) (e : Entry) : Entry :=
  match e.stage with
  | .accepted => e
  | .mirrored => e
  | .done => e
  | _ => { e with stage := .done, data := [], cpl := some { entryOf c e 0x07 0 0 with own := true } }

/-- Pair p enters ERROR with a cause (R115, R116): FLUSHED entries, the cause entry, event 0x0E. DEDUCED (log 31): a FLUSHED entry takes its
turn under R102, and the cause entry follows the last of them, at once where there is none. -/
def pairErrorX (p : Nat) (cause : Byte) (c : HxCtx) (x : Hx) : Hx :=
  if (x.hif.pair p).st = .running then
    let x := freeAllReads p x
    let n := (x.hif.pair p).fetched
    let k : Cpl := { tag := 0xFFFF, code := cause, sub := n, result := 0, stampLo := 0, stampHi := 0, own := true }
    let own : Entry := { sub := (x.hif.pair p).base + n, raw := 0xFFFF0000, cls := 0, stage := .done, cpl := some k }
    let waits := (x.hif.pair p).entries.any (fun e => decide (flushEntry c e ≠ e))
    let x := modPair p (fun r => { r with
      st := .error, errCode := cause, issued := n
      entries := r.entries.map (flushEntry c) ++ (if waits then [own] else []) }) x
    let x := drainPair c p x
    raiseX 0x0E (BitVec.ofNat 64 (p + cause.toNat * 256)) c (if waits then x else emitEntry c p k x)
  else x

/-- A descriptor that stays after a reset of its pair: one already accepted, one already sent to the standby, or one whose entry is due (R105, R117). -/
def keepEntry (e : Entry) : Option Entry :=
  match e.stage with
  | .accepted => some { e with prior := true }
  | .mirrored => some { e with prior := true }
  | .done => some { e with prior := true, cpl := e.cpl.map (fun k => { k with prior := true }) }
  | _ => none

/-- Pair p returns to DISABLED: counts zero, descriptors not accepted flushed without entries (R117, R83). The events lost on the
ring stay counted for the next 0x0C entry (R107); that its event mask returns to zero is the model's choice (log 85). -/
def resetPairX (p : Nat) (c : HxCtx) (x : Hx) : Hx :=
  let x := freeAllReads p x
  drainPair c p (modPair p (fun r => { r with
    st := .disabled, base := r.base + r.fetched, subDb := 0, fetched := 0, issued := 0, written := 0, cplDb := 0, evtMask := 0,
    entries := r.entries.filterMap keepEntry, held := r.held.map (fun k => { k with prior := true }) }) x)

/-! ### The same, on the State -/

/-- What the host-interface operations read of the State. -/
def State.hxCtx (s : State) : HxCtx :=
  { regs := s.regs, t1 := s.time.tb1.ns, t2 := s.time.tb2.ns, sec := s.time.tb0.sec, nsec := s.time.tb0.nsec,
    lock0 := s.time.tb0Lock }

/-- A host-interface operation applied to the State: it changes the host interface and the output, nothing else. -/
def State.viaHif (s : State) (f : HxCtx → Hx → Hx) : State :=
  let x := f s.hxCtx { hif := s.hif, out := s.out }
  { s with hif := x.hif, out := x.out }

/-- An event is raised (R106). -/
def State.raise (s : State) (code : Byte) (result : BitVec 64) : State := s.viaHif (raiseX code result)

/-- The descriptor with submission count sub of pair p completes with a code, RESULT and class-specific stamp bytes. -/
def State.finishWith (s : State) (p : Nat) (sub : Word) (code : Byte) (result hi : BitVec 64) : State :=
  s.viaHif (finishX p sub code result hi)

/-- The same with the class-specific stamp bytes zero. -/
def State.finish (s : State) (p : Nat) (sub : Word) (code : Byte) (result : BitVec 64) : State :=
  s.finishWith p sub code result 0

/-- An entry that belongs to no waiting descriptor falls due on pair p (step final entries, R146). -/
def State.postEntry (s : State) (p : Nat) (e : Cpl) : State := s.viaHif (fun c => emitEntry c p e)

/-- An interrupt vector without moderation (R608, R536). -/
def State.sendVec (s : State) (v : Nat) : State := s.viaHif (fun _ => fireVec v)

/-- The power interrupt, while SYS_PWR_CTRL.IRQ_EN is 1 (R608). -/
def State.powerIrq (s : State) : State := if s.rbit 0x0100 8 then s.sendVec (s.rfld 0x0100 6 0) else s

/-- The run-time state of pair p. -/
def State.pairRt (s : State) (p : Nat) : PairRt := s.hif.pair p

/-- The descriptor of pair p with submission count sub is marked accepted: its effect goes ahead (R105). -/
def State.accept (s : State) (p : Nat) (sub : Word) : State :=
  s.viaHif (fun _ => modPair p (fun r => { r with
    entries := r.entries.map (fun e => if e.sub = sub && decide (e.stage = .handed) then
      { e with stage := .accepted, data := [] } else e) }))

/-- The descriptor is taken off its pair with no entry (a step accepted into the scheduler, R146). -/
def State.dropEntry (s : State) (p : Nat) (sub : Word) : State :=
  s.viaHif (fun c x => drainPair c p (modPair p (fun r => { r with
    entries := r.entries.filter (fun e => !(e.sub = sub && decide (e.stage = .handed))) }) x))

/-- The oldest descriptor of pair p not yet accepted, if it has been handed over, is of the class and operation, and
its BARRIER lets it start (R92, R96, R120). -/
def nextEntry (cls op : Nat) (earlierDone : Bool) : List Entry → Option Entry
  | [] => none
  | e :: r =>
    match e.stage with
    | .accepted => nextEntry cls op false r
    | .done => nextEntry cls op earlierDone r
    | .reading => none
    | .mirrored => none
    | .handed =>
      if decide (e.cls = cls) && decide (fld e.raw 7 0 = op) && (earlierDone || !tbit e.raw 8 || decide (cls = 0))
      then some e else none

/-- The first pair after `last`, in turn, of those in the list. -/
def roundRobin (last : Nat) (ps : List Nat) : Option Nat :=
  (List.range 64).findSome? (fun i => let p := (last + 1 + i) % 64; if ps.contains p then some p else none)

/-- That descriptor of pair p. -/
def State.takeOp (s : State) (p : Nat) (cls op : Nat) : Option Entry := nextEntry cls op true (s.pairRt p).entries

/-! ### Counters of the ledger that other chapters advance (R582) -/

/-- Ledger counter i goes up by one in the write buffer (R582, R586). -/
def State.countLedger (s : State) (i : Nat) : State :=
  { s with peat := { s.peat with
      pending := true
      buf := { s.peat.buf with counters := tmod 0 s.peat.buf.counters i (satInc 0xFFFFFFFF) } } }

/-! ### The barrier (R17) -/

/-- A value sent over the uplink. -/
def State.sendUp (s : State) (it : UpItem) : State := { s with fio := { s.fio with up := s.fio.up ++ [it] } }

/-- A value sent over the downlink. -/
def State.sendDown (s : State) (it : DownItem) : State := { s with fio := { s.fio with down := s.fio.down ++ [it] } }

/-- The field side raises an event: it crosses the uplink, and the logic side raises it for the host (R17). -/
def State.fieldRaise (s : State) (code : Byte) (result : BitVec 64) : State := s.sendUp (.event code result)

/-- An image for the field die's update path (R571). -/
def DownItem.isUpdate : DownItem → Bool
  | .update _ _ => true
  | _ => false

/-- A value that is sent until the field die takes it: a count for the ledger, an image of an update (R571, R582). -/
def DownItem.counts : DownItem → Bool
  | .ledger _ => true
  | it => it.isUpdate

/-- The logic side counts for the ledger: over the downlink to the field die, or on the island of an AXQ-4096-L (R15, R17, R582). -/
def State.countLogic (s : State) (i : Nat) : State := if s.pw.variantL then s.countLedger i else s.sendDown (.ledger i)

/-! ### Lock states of the time bases (R56, 0x0B) -/

/-- TBb_LOCK takes a value: on a change, event 0x0B, and LOCK_LOST_SEEN when TB0 or TB1 loses lock. -/
def State.setLock (s : State) (base : Nat) (v : Bool) : State :=
  let old := if base = 0 then s.time.tb0Lock else if base = 1 then s.time.tb1Lock else s.time.tb3Lock
  if old = v then s
  else
    let t := s.time
    let t := if base = 0 then { t with tb0Lock := v } else if base = 1 then { t with tb1Lock := v }
      else { t with tb3Lock := v }
    let t := { t with lockLostSeen := t.lockLostSeen || (!v && decide (base ≠ 3)) }
    { s with time := t }.raise 0x0B (BitVec.ofNat 64 (base + v.toNat * 256))

/-! ### Locks (R611, R612, R615) -/

/-- Host writes reach the RWL fields of block b. -/
def State.rwlOpen (s : State) (b : Nat) : Bool := s.pw.cfgDone && !tbit s.pw.lock b

/-- A host write to an RWL field of block b was ignored; one that would have changed the field is noted (R612, R615). -/
def State.noteLock (s : State) (b : Nat) (changes : Bool) : State :=
  if changes && s.pw.cfgDone && tbit s.pw.lock b then { s with pw := { s.pw with lockWrSeen := true } } else s

/-! ### Values that leave an engine -/

/-- A Waggle transmit word is written (R421, R423). -/
def State.txWrite (s : State) (i : Nat) (v : Int) : State :=
  { s with wag := { s.wag with
      txWords := tput 0 (BitVec.ofInt 40 v) s.wag.txWords i, txWrites := s.wag.txWrites + 1,
      txMark := tput 0 (s.wag.txWrites + 1) s.wag.txMark i } }

/-- A value written to a destination in this base period, for the twin's output hash (R451). -/
def State.hashWrite (s : State) (t : Time) (code : Nat) (v : Int) : State :=
  { s with twn := { s.twn with hashAcc := s.twn.hashAcc ++ [(t, code, v)] } }

/-- This module acts for its role: it is in no twin, or it holds the crown lease (R259, R447). -/
def State.roleActs (s : State) : Bool := decide (s.twn.st = .solo) || decide (s.twn.st = .holder)

/-- A value for the role's DACs and high-side outputs: sent to the field side while this member acts; on one that does not, it goes to
the shadow image of its outputs alone, so that they keep their values at a handover (R308, R447, R460). -/
def State.commandOut (s : State) (it : DownItem) : State := s.sendDown (if s.roleActs then it else .shadow it)

/-- A twin's holder whose partner is its standby. -/
def State.mirrors (s : State) : Bool := decide (s.twn.st = .holder) && s.twn.inStep && s.twn.linkUp

/-- A standby replays the inputs that the holder used, so its own wait to be named by it (R447). -/
def State.replays (s : State) : Bool := decide (s.twn.st = .standby) || decide (s.twn.st = .forming)

/-- A record of the holder's inputs for the snapshot of the present base period (R446): a SNAP frame that is not the
last. -/
def State.snapOut (s : State) (rec : List Byte) : State :=
  if s.twn.st = .holder && s.twn.linkUp then
    s.emitOut (.twin 1 (leBytes 4 s.cmb.n ++ [0, 0, 0, 0] ++ rec))
  else s

end Sys2Proof.Machine
end

