-- ==== Sys2Proof/Machine/Operands.lean ====
section
/-! DEFINITION. Every operand form: the fields of a descriptor (R93, R97), table ranges and parameters, a Comb source or
destination (R173), coefficients (R167). -/

namespace Sys2Proof.Machine

/-! ### Descriptors (R93, R97): byte k is bits 8k + 7 : 8k -/

/-- OP. -/
def Entry.op (e : Entry) : Nat := fld e.raw 7 0
/-- FLAGS. -/
def Entry.flags (e : Entry) : Nat := fld e.raw 15 8
/-- FLAGS.BARRIER. -/
def Entry.barrier (e : Entry) : Bool := tbit e.raw 8
/-- FLAGS.AT. -/
def Entry.atFlag (e : Entry) : Bool := tbit e.raw 9
/-- FLAGS.TSTAMP. -/
def Entry.tstamp (e : Entry) : Bool := tbit e.raw 10
/-- TAG. -/
def Entry.tag (e : Entry) : BitVec 16 := BitVec.ofNat 16 (fld e.raw 31 16)
/-- LEN. -/
def Entry.len (e : Entry) : Nat := fld e.raw 63 32
/-- ADDR. -/
def Entry.addr (e : Entry) : BitVec 64 := BitVec.ofNat 64 (fld e.raw 127 64)
/-- Bytes [i, i + n) of the descriptor as a little-endian number. -/
def Entry.bytes (e : Entry) (i n : Nat) : Nat := fld e.raw (8 * (i + n) - 1) (8 * i)
/-- BAR0 block number of TABLE. -/
def Entry.tblBlock (e : Entry) : Nat := fld e.raw 143 140
/-- Table number of TABLE. -/
def Entry.tblNum (e : Entry) : Nat := fld e.raw 139 128
/-- FIRST. -/
def Entry.first (e : Entry) : Nat := e.bytes 20 4
/-- COUNT. -/
def Entry.count (e : Entry) : Nat := e.bytes 24 4
/-- BAR0 block number of PARAM. -/
def Entry.parBlock (e : Entry) : Nat := fld e.raw 159 156
/-- Index of PARAM. -/
def Entry.parIndex (e : Entry) : Nat := fld e.raw 155 128
/-- VALUE (an unsigned 40-bit word once the descriptor has passed R95). -/
def Entry.value (e : Entry) : Nat := e.bytes 24 8
/-- PORT, TASK or REGION: byte 16. -/
def Entry.byte16 (e : Entry) : Nat := e.bytes 16 1
/-- IMAGE_ID, FLUSH_US: bytes 20 to 23. -/
def Entry.word20 (e : Entry) : Nat := e.bytes 20 4
/-- AT instant. -/
def Entry.atInstant (e : Entry) : Time := BitVec.ofNat 40 (e.bytes 24 5)

/-- The descriptor is a table LOAD of the table. -/
def Entry.loads (e : Entry) (block num : Nat) : Bool := decide (e.tblBlock = block) && decide (e.tblNum = num)

/-- The next descriptor of pair p if it is a LOAD of the table (R97). -/
def State.takeLoad (s : State) (p : Pair) (block num : Nat) : Option Entry :=
  match s.takeOp p.val 1 1 with
  | some e => if e.loads block num then some e else none
  | none => none

/-- The next descriptor of pair p if it is a WRITE (op 1) or READ (op 2) of the parameter (R97). -/
def State.takeParam (s : State) (p : Pair) (op block index : Nat) : Option Entry :=
  match s.takeOp p.val 2 op with
  | some e => if decide (e.parBlock = block) && decide (e.parIndex = index) then some e else none
  | none => none

/-- How a table LOAD or another descriptor ends: accepted with a changed state and RESULT, or refused with a code and
RESULT, changing nothing. -/
inductive Judged (α : Type) where
  | ok (v : α)
  | refused (code : Byte) (result : BitVec 64)
  deriving DecidableEq, Repr

/-- A judged descriptor completes: with 0x00 and RESULT on the changed state, or with the refusal on the state as it
was. -/
def State.settle (s : State) (p : Pair) (e : Entry) (result : BitVec 64) : Judged State → State
  | .ok s' => s'.finish p.val e.sub 0 result
  | .refused code r => s.finish p.val e.sub code r

/-- Index of the first 8-byte word of an entry list that breaks R95, with bit 31 (host data): words lists the 40-bit
words of one entry of size bytes, each with its signedness. -/
def firstNoncanon (size : Nat) (words : List (Nat × Bool)) (data : List Byte) : Option Nat :=
  (List.range (data.length / size)).findSome? (fun i =>
    words.findSome? (fun w =>
      let x := leAt data (i * size + 8 * w.1) 8
      if (if w.2 then isCanonS x else isCanonU x) then none else some (i * (size / 8) + w.1 + 2 ^ 31)))

/-- A refusal with 0x04 sets NONCANON_SEEN (R95). -/
def State.noteNoncanon (s : State) : State := { s with hif := { s.hif with noncanonSeen := true } }

/-! ### Comb sources and destinations (R173) -/

/-- TYPE of a source or destination. -/
def srcType (w : Nat) : Nat := w / 4096 % 16
/-- INDEX of a source or destination. -/
def srcIndex (w : Nat) : Nat := w % 4096

/-- How many indices a source TYPE has (R173); 0 for an invalid TYPE. -/
def srcLimit : Nat → Nat
  | 0 => 1 | 1 => 128 | 2 => 16 | 3 => 16 | 4 => 32 | 5 => 4096 | 6 => 4096 | 7 => 4096 | _ => 0

/-- How many indices a destination TYPE has (R173). -/
def dstLimit : Nat → Nat
  | 0 => 1 | 1 => 32 | 2 => 48 | 3 => 16 | 4 => 4096 | 5 => 4096 | 6 => 4096 | 7 => 4096 | _ => 0

/-- A source names a TYPE and INDEX of R173. -/
def srcOk (w : Nat) : Bool := decide (srcIndex w < srcLimit (srcType w))
/-- A destination names a TYPE and INDEX of R173. -/
def dstOk (w : Nat) : Bool := decide (srcIndex w < dstLimit (srcType w))
/-- A field destination: DAC, high-side duty or pulse rate. -/
def dstField (w : Nat) : Bool := decide (srcType w = 1) || decide (srcType w = 2) || decide (srcType w = 3)

/-- The claim identifier of a Comb destination (R325); none for TYPE 0. -/
def dstClaim (w : Nat) : Option Nat :=
  match srcType w with
  | 1 => some (0x1000 + srcIndex w)
  | 2 => some (0x2000 + srcIndex w)
  | 3 => some (0x3000 + srcIndex w)
  | 4 => some (0xA000 + srcIndex w)
  | 5 => some (0xB000 + srcIndex w)
  | 6 => some (0xC000 + srcIndex w)
  | 7 => some (0xD000 + srcIndex w)
  | _ => none

/-! ### Coefficients and Comb numbers (R167 to R171) -/

/-- Mantissa of a 21-bit coefficient. -/
def coefK (c : Nat) : Int := sext 16 c
/-- Exponent of a 21-bit coefficient. -/
def coefE (c : Nat) : Int := sext 5 (c / 2 ^ 16)

/-- Rounded arithmetic right shift by m (R170). -/
def shrRound (x : Int) (m : Nat) : Int := if m = 0 then x else (x + 2 ^ (m - 1)) / 2 ^ m

/-- x shifted by sh bits: left for a positive count, rounded right for a negative one (R169). -/
def shiftRound (x : Int) (sh : Int) : Int := if sh ≥ 0 then x * 2 ^ sh.toNat else shrRound x (-sh).toNat

/-- prod(K, S) before saturation: coefficient bits c, 24-bit view w (R169). -/
def prodRaw (c : Nat) (w : Int) : Int := shiftRound (coefK c * w) (coefE c - 7)

/-- prod(K, S), saturated (R169, R171). -/
def prod (c : Nat) (w : Int) : Int := satS 40 (prodRaw c w)

/-- The 24-bit view of a 40-bit value with 8 fractional bits (R168). -/
def view24 (x : Int) : Int := satS 24 (shrRound x 8)

end Sys2Proof.Machine
end

