-- ==== Sys2Proof/Machine/Claims.lean ====
section
/-! DEFINITION. Resource claims (R325 to R328). An owner is a rank and a number; the number carries, above bit 15, which
kind of general owner it is, so that two owners never share one. -/

namespace Sys2Proof.Machine

/-- Rank of step owners. -/
def rankSteps : Nat := 4
/-- Rank of Mire. -/
def rankMire : Nat := 5
/-- The general rank. -/
def rankGeneral : Nat := 6

/-- Owner number of a Comb slot. -/
def ownSlot (k : Nat) : Nat := k
/-- Owner number of a block output-map entry. -/
def ownMap (w : Nat) : Nat := 0x10000 + w
/-- Owner number of a task that owns an output word. -/
def ownTask (t : Nat) : Nat := 0x20000 + t
/-- Owner number of a legacy-bridge port. -/
def ownPort (p : Nat) : Nat := 0x30000 + p
/-- Owner number of a register write (index i tells the registers apart). -/
def ownReg (i : Nat) : Nat := 0x40000 + i
/-- Owner number of an FIO table entry. -/
def ownFio (i : Nat) : Nat := 0x50000 + i

/-- The owner's number as the claim table shows it (R328). -/
def Claim.shown (c : Claim) : Nat := if c.num ≥ 0x40000 then 0 else c.num % 0x10000

/-- The resources that share contacts with id, itself first (R353). -/
def linkedIds (id : Nat) : List Nat :=
  if id ≥ 0x400C && id < 0x4010 then [id, id - 0x400C + 0x6000]
  else if id ≥ 0x6000 && id < 0x6004 then [id, id - 0x6000 + 0x400C]
  else [id]

/-- The holder of a resource. -/
def holderOf (cl : List Claim) (id : Nat) : Option Claim := cl.find? (fun c => decide (c.id = id))

/-- RESULT of a claim code: identifier, holder's rank, holder's number (R329). -/
def claimResult (c : Claim) : BitVec 64 := BitVec.ofNat 64 (c.id + c.rank * 2 ^ 16 + c.shown * 2 ^ 24)

/-- Whether a holder stands in the way of a claim of id by (rank, num): not the same owner, and not two steps (R65,
R326). -/
def blocks (id rank num : Nat) (c : Claim) : Bool :=
  (linkedIds id).contains c.id && !(decide (c.id = id) && decide (c.rank = rank) &&
    (decide (c.num = num) || decide (rank = rankSteps)))

/-- A claim, or its refusal with 0xB0 or 0xB1 (R326). -/
def claim (cl : List Claim) (id rank num : Nat) : Judged (List Claim) :=
  match cl.find? (blocks id rank num) with
  | some h => .refused (if h.rank ≤ rank then 0xB0 else 0xB1) (claimResult h)
  | none =>
    if cl.any (fun c => decide (c.id = id) && decide (c.rank = rank) && decide (c.num = num)) then .ok cl
    else .ok (cl ++ [{ id := id, rank := rank, num := num }])

/-- Several claims by one owner, all or none. -/
def claimAll (rank num : Nat) : List Nat → List Claim → Judged (List Claim)
  | [], cl => .ok cl
  | id :: r, cl =>
    match claim cl id rank num with
    | .ok cl => claimAll rank num r cl
    | .refused c w => .refused c w

/-- Every claim of one owner released (R327). -/
def releaseOwner (cl : List Claim) (rank num : Nat) : List Claim :=
  cl.filter (fun c => !(decide (c.rank = rank) && decide (c.num = num)))

/-- One claim released by its owner (R327). -/
def releaseOne (cl : List Claim) (id rank num : Nat) : List Claim :=
  cl.filter (fun c => !(decide (c.id = id) && decide (c.rank = rank) && decide (c.num = num)))

/-- The lowest free index of a pool of n resources whose identifiers start at base. -/
def poolFree (cl : List Claim) (base n : Nat) : Option Nat :=
  (List.range n).find? (fun i => (holderOf cl (base + i)).isNone)

/-- Free resources of a pool. -/
def poolCount (cl : List Claim) (base n : Nat) : Nat :=
  ((List.range n).filter (fun i => (holderOf cl (base + i)).isNone)).length

/-- The state with the claims changed. -/
def State.setClaims (s : State) (cl : List Claim) : State := { s with fio := { s.fio with claims := cl } }

/-- The identifiers of R325, in identifier order, as table 0x00F lists them (R328). -/
def claimIds : List Nat :=
  let run (kind n : Nat) := (List.range n).map (fun i => kind * 0x1000 + i)
  run 1 32 ++ run 2 48 ++ run 3 16 ++ run 4 16 ++ run 5 24 ++ run 6 4 ++ run 7 16 ++ run 8 8 ++ run 9 4096 ++
    run 0xA 4096 ++ run 0xB 4096 ++ run 0xC 4096 ++ run 0xD 4096 ++ run 0xE 4096

/-- One entry of the claim table (R328). -/
def claimEntry (cl : List Claim) (id : Nat) : BitVec 64 :=
  match holderOf cl id with
  | some c => claimResult c
  | none => BitVec.ofNat 64 id

end Sys2Proof.Machine
end

