-- ==== Sys2Proof/Machine/FenGate.lean ====
section
/-! DEFINITION. Fen Gate: the rule store and its active set (R473 to R477), the gate before each driver (R466, R490),
and the output envelopes (R478 to R482). Everything that reaches a high-side output, a DAC or a pulse output passes
through these operations. -/

namespace Sys2Proof.Machine

/-! ### Rows (R473, R474) -/

/-- WRITTEN. -/
def rowWritten (r : BitVec 128) : Bool := tbit r 0
/-- ARMED. -/
def rowArmed (r : BitVec 128) : Bool := tbit r 1
/-- RETIRED. -/
def rowRetired (r : BitVec 128) : Bool := tbit r 2
/-- KIND. -/
def rowKind (r : BitVec 128) : Nat := fld r 7 4
/-- TXN. -/
def rowTxn (r : BitVec 128) : Nat := fld r 15 8
/-- SETMASK. -/
def rowSetMask (r : BitVec 128) : Nat := fld r 31 16
/-- Operand bytes [i, i + n) of a row. -/
def rowOp (r : BitVec 128) (i n : Nat) : Nat := fld r (8 * (i + n) - 1) (8 * i)
/-- TGT, a resource identifier of R325. -/
def rowTgt (r : BitVec 128) : Nat := rowOp r 4 2
/-- CRC-16 over bytes 1 to 13 (R473). -/
def rowCrc (r : BitVec 128) : Nat := (slice (leBytes 16 r.toNat) 1 13).foldl (crcByteF 16 0x1021) 0xFFFF
/-- The row's CRC is good. -/
def rowCrcOk (r : BitVec 128) : Bool := decide (rowOp r 14 2 = rowCrc r)

/-- RSET of SEAL (R471). -/
def sealRset (w : BitVec 16) : Nat := fld w 3 0
/-- REMOTE of SEAL. -/
def sealRemote (w : BitVec 16) : Bool := tbit w 4
/-- DISC time of SEAL in ms. -/
def sealDisc (w : BitVec 16) : Nat := match fld w 7 6 with | 0 => 10 | 1 => 50 | 2 => 100 | _ => 500

/-- A row is active under a SEAL setting (R474). -/
def rowActive (w : BitVec 16) (r : BitVec 128) : Bool :=
  rowWritten r && rowArmed r && !rowRetired r && rowCrcOk r && Nat.testBit (rowSetMask r) (sealRset w) &&
    (decide (rowKind r ≠ 0xA) || sealRemote w)

/-- The active rows with their numbers, in row order. -/
def SafState.active (f : SafState) : List (Nat × BitVec 128) := f.rows.filter (fun x => rowActive f.sealRead x.2)

/-- The active rows of a kind. -/
def SafState.activeKind (f : SafState) (k : Nat) : List (Nat × BitVec 128) :=
  f.active.filter (fun x => decide (rowKind x.2 = k))

/-- The active row of a kind that names a target. -/
def SafState.rowFor (f : SafState) (k tgt : Nat) : Option (Nat × BitVec 128) :=
  f.active.find? (fun x => decide (rowKind x.2 = k) && decide (rowTgt x.2 = tgt))

/-- The operands of a row lie in their ranges (R474, R475). -/
def rowRangeOk (r : BitVec 128) : Bool :=
  let kind := rowTgt r / 0x1000
  let ix := rowTgt r % 0x1000
  let hs := decide (kind = 2) && decide (ix < 48)
  let dac := decide (kind = 1) && decide (ix < 32)
  let pul := decide (kind = 3) && decide (ix < 16)
  match rowKind r with
  | 1 => (hs || dac || pul) && decide (rowOp r 6 1 < 16) && decide (rowOp r 7 1 < 2) &&
      (dac || decide (rowOp r 8 3 = 0)) && decide (rowOp r 11 3 = 0)
  | 2 => hs && decide (rowOp r 6 4 ≥ 1) && decide (rowOp r 10 4 = 0)
  | 3 => hs && decide (rowOp r 6 4 ≥ 1) && decide (rowOp r 10 4 = 0)
  | 4 => hs && decide (rowOp r 6 2 ≥ 1) && decide (rowOp r 8 4 ≥ 1) && decide (rowOp r 12 2 = 0)
  | 5 => decide (rowOp r 10 1 ≥ 1) && decide (rowOp r 10 1 ≤ 47) && decide (rowOp r 11 3 = 0)
  | 6 => dac && decide (rowOp r 12 2 = 0)
  | 7 => dac && decide (rowOp r 6 3 ≥ 1) && decide (rowOp r 6 3 ≤ 8388607) && decide (rowOp r 9 5 = 0)
  | 8 => pul && decide (rowOp r 6 4 ≥ 1) && decide (rowOp r 6 4 ≤ 4000000) && decide (rowOp r 10 4 = 0)
  | 9 => decide (rowOp r 4 1 < 4) && decide (rowOp r 5 1 < 2) && decide (rowOp r 8 6 = 0)
  | 10 => decide (rowOp r 4 2 ≥ 1) && decide (rowOp r 4 2 ≤ 4094) && decide (rowOp r 6 1 < 16) &&
      decide (rowOp r 7 1 ≥ 1) && decide (rowOp r 7 1 ≤ 15) && decide (rowOp r 10 4 = 0)
  | _ => false

/-- A row's kind and target, for the rules that allow one such row per target. -/
def rowKey (r : BitVec 128) : Nat × Nat := (rowKind r, if rowKind r = 9 then rowOp r 4 1 else rowTgt r)

/-- Kinds of which a target has at most one active row (R475). -/
def kindUnique (k : Nat) : Bool := [1, 2, 3, 4, 6, 7, 9].contains k

/-- The signed 24-bit count at operand byte i. -/
def rowCount (r : BitVec 128) (i : Nat) : Int := sext 24 (rowOp r i 3)

/-- How many bits of the low n of x are set. -/
def popCount (n x : Nat) : Nat := ((List.range n).filter (fun i => Nat.testBit x i)).length

/-- The rest of R475 for one row of the active set. -/
def rowSetOk (all : List (Nat × BitVec 128)) (x : Nat × BitVec 128) : Bool :=
  let r := x.2
  let one := !kindUnique (rowKind r) ||
    decide ((all.filter (fun y => decide (rowKey y.2 = rowKey r))).length = 1)
  let arange := all.find? (fun y => decide (rowKind y.2 = 6) && decide (rowTgt y.2 = rowTgt r))
  let safe := match rowKind r, arange with
    | 1, some a => decide (rowTgt r / 0x1000 ≠ 1) || decide (rowOp r 7 1 = 1) ||
        (decide (rowCount a.2 6 ≤ rowCount r 8) && decide (rowCount r 8 ≤ rowCount a.2 9))
    | _, _ => true
  let lohi := decide (rowKind r ≠ 6) || decide (rowCount r 6 ≤ rowCount r 9)
  let mask := decide (rowKind r ≠ 5) || decide (popCount 48 (rowOp r 4 6) > rowOp r 10 1)
  rowRangeOk r && one && safe && lohi && mask

/-- The first offence that makes a configuration fault: a row number, or 0x1FF for SEAL (R477, 0x8A). -/
def SafState.cfgOffence (f : SafState) : Option Nat :=
  let cut : List Nat := match f.cutShort with | some p => p.left.map (·.1) | none => []
  match f.rows.find? (fun x =>
      (rowWritten x.2 && !rowCrcOk x.2) || (rowActive f.sealRead x.2 && !rowSetOk f.active x) || cut.contains x.1) with
  | some x => some x.1
  | none => if fld f.sealRead 14 8 ≠ 0 then some 0x1FF else none

/-- The check value (R476). -/
def SafState.check (f : SafState) : Nat :=
  crc32c (leBytes 2 (f.sealRead.toNat % 0x8000) ++ f.active.flatMap (fun x => leBytes 16 x.2.toNat)) % 0x10000

/-! ### The gate before a driver (R466, R477, R490, R558, R444) -/

/-- The run-time state of safety group g. -/
def SafState.group (f : SafState) (g : Nat) : GroupRt := tget {} f.groups g

/-- The group of an output, if an active GROUP row names it. -/
def SafState.groupOf (f : SafState) (id : Nat) : Option Nat := (f.rowFor 1 id).map (fun x => rowOp x.2 6 1)

/-- Both halves permit a group. -/
def SafState.permits (f : SafState) (g : Nat) : Bool := (f.group g).guardPermit && (f.group g).fgPermit

/-- The life-cycle state leaves the field outputs to Fen Gate (R558). -/
def LcyState.outputsOk (l : LcyState) : Bool :=
  match l.st with
  | .maker => true | .ownerOpen => true | .ownerLocked => true | _ => false

/-- The field side drives the role's outputs: no twin member, or one before ACT_UNTIL (R444). -/
def State.fieldDrives (s : State) : Bool := !s.twn.fieldMember || s.twn.fieldActUntil.isSome

/-- Fen Gate lets a value reach the driver of output id at all. -/
def State.gateOpen (s : State) (id : Nat) : Bool :=
  s.pw.fieldUp && s.saf.fgVerified && !s.saf.cfgFault && s.lcy.outputsOk && s.fieldDrives &&
    (match s.saf.groupOf id with
     | some g => s.saf.permits g
     | none => true)

/-- An envelope has acted for a row: 0x81, at most once per second of TB2 for each row (R482). -/
def State.envEvent (s : State) (row action : Nat) : State :=
  let last := (s.saf.lastEnv.find? (fun x => decide (x.1 = row))).map (·.2)
  if s.evtDue 1000000000 last then
    { s with saf := { s.saf with
        lastEnv := (s.saf.lastEnv.filter (fun x : Nat × Nat => decide (x.1 < row))) ++ (row, s.time.t2) ::
          s.saf.lastEnv.filter (fun x : Nat × Nat => decide (row < x.1)) } }.fieldRaise 0x81 (BitVec.ofNat 64 (row + action * 256))
  else s

/-! ### High-side outputs (R302 to R308, R479, R480) -/

/-- MODE of a high-side entry. -/
def hsMode (w : BitVec 64) : Nat := fld w 1 0
/-- SHARED. -/
def hsShared (w : BitVec 64) : Bool := tbit w 2
/-- OL_EN. -/
def hsOlEn (w : BitVec 64) : Bool := tbit w 3
/-- RETRY. -/
def hsRetry (w : BitVec 64) : Bool := tbit w 4
/-- PERIOD_US. -/
def hsPeriod (w : BitVec 64) : Nat := fld w 20 5

/-- The high-side entry in effect. -/
def State.hsCfg (s : State) (i : Nat) : BitVec 64 := tget 0 s.fio.hsEff i
/-- The run-time state of high-side output i. -/
def State.hsRt (s : State) (i : Nat) : HsRt := tget {} s.fio.hs i
/-- The state with high-side output i changed by f. -/
def State.modHs (s : State) (i : Nat) (f : HsRt → HsRt) : State :=
  { s with fio := { s.fio with hs := tmod {} s.fio.hs i f } }

/-- Whether output i counts as on at time t of GUARD_CLK: by its own switch-on, or, with SHARED, while its load carries more than 18 V
(R308, R479). -/
def HsRt.recount (h : HsRt) (shared : Bool) (t : Nat) : HsRt :=
  let on := h.own || (shared && tbit h.conds 4)
  if on = h.counts then h
  else if on then { h with counts := true, onAt := t, offAt := none }
  else { h with counts := false, offAt := some t }

/-- Output i changed by f, and what it counts as after it. -/
def State.modHsOn (s : State) (i : Nat) (f : HsRt → HsRt) : State :=
  s.modHs i (fun h => (f h).recount (hsShared (s.hsCfg i)) s.time.guardNs)

/-- The envelope times of a row in ns (unit 10 µs, R474). -/
def rowNs (x : Nat) : Nat := x * 10000

/-- Whether the OFFMIN row of an output holds a switch-on back at time t of GUARD_CLK (R480): the off-time, which runs from when
the output counts off, has not elapsed. -/
def offminHolds (f : SafState) (i : Nat) (h : HsRt) (t : Nat) : Option Nat :=
  match f.rowFor 3 (0x2000 + i) with
  | some x =>
    if h.counts then (if h.own && !h.drv then some x.1 else none)
    else match h.offAt with
      | some o => if t < o + rowNs (rowOp x.2 6 4) then some x.1 else none
      | none => none
  | none => none

/-- Switch-ons of an output within the window of its RATE row that ends at t. -/
def onsWithin (h : HsRt) (t window : Nat) : List Nat := h.ons.filter (fun o => decide (t < o + window))

/-- Whether the RATE row of an output holds a switch-on back at time t of GUARD_CLK (R480). -/
def rateHolds (f : SafState) (i : Nat) (h : HsRt) (t : Nat) : Option Nat :=
  match f.rowFor 4 (0x2000 + i) with
  | some x => if (onsWithin h t (rowNs (rowOp x.2 8 4))).length ≥ rowOp x.2 6 2 then some x.1 else none
  | none => none

/-- How many outputs of a mask count as on, output i apart. -/
def State.countOn (s : State) (mask i : Nat) : Nat :=
  ((List.range 48).filter (fun j => Nat.testBit mask j && decide (j ≠ i) && (s.hsRt j).counts)).length

/-- The FORBID row that refuses a switch-on of output i (R480): extra further outputs of each mask switch on in the same
GUARD_CLK cycle. -/
def State.forbidRow (s : State) (i : Nat) (together : List Nat) : Option Nat :=
  ((s.saf.activeKind 5).find? (fun x =>
    let mask := rowOp x.2 4 6
    let extra := (together.filter (fun j => Nat.testBit mask j && decide (j ≠ i) && !(s.hsRt j).counts)).length
    Nat.testBit mask i && !(s.hsRt i).counts && decide (s.countOn mask i + extra + 1 > rowOp x.2 10 1))).map (·.1)

/-- The hold loop in COMMAND that drives an output (R495). -/
def State.loopOn (s : State) (id : Nat) : Option LoopRt :=
  (s.drn.loops.find? (fun x => x.2.cmd && decide (x.2.dst = id))).map (·.2)

/-- The Drone commands high-side output i, as a bit output or by a hold loop (R495). -/
def State.droneHs (s : State) (i : Nat) : Bool := tbit s.drn.hsCmd i || (s.loopOn (0x2000 + i)).isSome

/-- PERIOD_US of a duty output: that of the hold loop which commands it, else that of its entry (R304, R515). -/
def State.dutyPeriod (s : State) (i : Nat) : Nat :=
  match s.loopOn (0x2000 + i) with
  | some l => l.period
  | none => hsPeriod (s.hsCfg i)

/-- The driver of output i may be on at all: its mode is not OFF or the Drone commands it, it is not tripped, cut or refused, and the gate is
open. -/
def State.hsMayDrive (s : State) (i : Nat) : Bool :=
  let h := s.hsRt i
  (decide (hsMode (s.hsCfg i) ≠ 0) || s.droneHs i) && !h.trip && !h.cut && !h.refused && s.gateOpen (0x2000 + i)

/-- The driver of output i is switched on; the switch-on is counted, in the ledger too (R479, R480, R582). -/
def State.hsOn (s : State) (i : Nat) : State :=
  let t := s.time.guardNs
  let s := s.modHsOn i (fun h => { h with drv := true, delayed := false, own := true, ons := (t :: h.ons).take 65535 })
  { s with peat := { s.peat with
      pending := true
      buf := { s.peat.buf with switchOns := tmod 0 s.peat.buf.switchOns i (satInc (2 ^ 40 - 1)) } } }

/-- The driver of output i is switched off; it goes on counting as on until its current has fallen (R479). -/
def State.hsOff (s : State) (i : Nat) : State := s.modHs i (fun h => { h with drv := false, delayed := false })

/-- A switch-on of output i passes the envelopes, or is delayed or refused by them (R480). together lists the switch-ons of the
same cycle. -/
def State.hsJudgeOn (s : State) (i : Nat) (together : List Nat) : State :=
  let h := s.hsRt i
  if h.drv || !s.hsMayDrive i then s
  else
    match s.forbidRow i together with
    | some row =>
      let s := s.modHs i (fun h => { h with refused := true, delayed := false })
      { s with saf := { s.saf with refuseCnt := satInc 0xFFFF s.saf.refuseCnt } }.countLedger 18 |>.envEvent row 4
    | none =>
      match offminHolds s.saf i h s.time.guardNs with
      | some row => (s.modHs i (fun h => { h with delayed := true })).envEvent row 2
      | none =>
        match rateHolds s.saf i h s.time.guardNs with
        | some row => (s.modHs i (fun h => { h with delayed := true })).envEvent row 3
        | none => s.hsOn i

/-- A tripped output with RETRY may switch on again at an off-to-on transition at least 10 ms after the trip (R303). -/
def hsRetryClears (cfg : BitVec 64) (h : HsRt) (t : Nat) : Bool :=
  h.trip && hsRetry cfg && !h.cmd && decide (h.tripAt + 10000000 ≤ t) && !(tbit h.conds 1)

/-- Output i is commanded off. -/
def State.hsCmdOff (s : State) (i : Nat) : State :=
  (s.modHs i (fun h => { h with cmd := false, cut := false, refused := false, written := true })).hsOff i

/-- Output i is commanded on. -/
def State.hsCmdOn (s : State) (i : Nat) (together : List Nat) : State :=
  let clear := hsRetryClears (s.hsCfg i) (s.hsRt i) s.time.guardNs
  let s := s.modHs i (fun h => { h with cmd := true, written := true, trip := h.trip && !clear })
  s.hsJudgeOn i together

/-- Several outputs are commanded at one instant: the offs first, then the ons as one cycle (R480). -/
def State.hsCommand (s : State) (cmds : List (Nat × Bool)) : State :=
  let offs := (cmds.filter (fun c => !c.2)).map (·.1)
  let ons := (cmds.filter (·.2)).map (·.1)
  let s := offs.foldl (fun s i => s.hsCmdOff i) s
  let live := ons.filter (fun i => s.hsMayDrive i || hsRetryClears (s.hsCfg i) (s.hsRt i) s.time.guardNs)
  ons.foldl (fun s i => s.hsCmdOn i live) s

/-- The gates of some outputs have changed: a closed gate switches an output off at once; open ones let their commands be judged
again, as switch-ons of one cycle (R466, R480). -/
def State.hsRegates (s : State) (l : List Nat) : State :=
  let s := (l.filter (fun i => (s.hsRt i).drv && !s.hsMayDrive i)).foldl (fun s i => s.hsOff i) s
  let ons := l.filter (fun i => (s.hsRt i).cmd && !(s.hsRt i).drv && s.hsMayDrive i)
  ons.foldl (fun s i => s.hsJudgeOn i ons) s

/-- The gate of output i has changed. -/
def State.hsRegate (s : State) (i : Nat) : State := s.hsRegates [i]

/-! ### DACs (R294 to R296, R481) -/

/-- RANGE of a DAC entry. -/
def dacRange (w : BitVec 64) : Nat := fld w 1 0
/-- The DAC entry in effect. -/
def State.dacCfg (s : State) (d : Nat) : BitVec 64 := tget 0 s.cnv.dacEff d
/-- The RANGE that DAC d runs in: that of the hold loop which commands it, else that of the table. -/
def State.dacRangeNow (s : State) (d : Nat) : Nat :=
  match s.loopOn (0x1000 + d) with
  | some l => l.range
  | none => dacRange (s.dacCfg d)
/-- A coefficient entry that nothing has loaded: GAIN 1.0, OFFSET 0 (DESIGN CHOICE: the factory values are not given). -/
def coefReset : BitVec 256 := BitVec.ofNat 256 (2 ^ 96)
/-- The run-time state of DAC d. -/
def State.dacRt (s : State) (d : Nat) : DacRt := tget {} s.fio.dac d
/-- The state with DAC d changed by f. -/
def State.modDac (s : State) (d : Nat) (f : DacRt → DacRt) : State :=
  { s with fio := { s.fio with dac := tmod {} s.fio.dac d f } }

/-- Counts per DAC LSB of a range (R295). -/
def dacLsb (range : Nat) : Nat := if range = 2 then 100 else 250

/-- OFFSET of a coefficient entry. -/
def coefOffset (c : BitVec 256) : Int := sfld c 39 0
/-- GAIN of a coefficient entry. -/
def coefGain (c : BitVec 256) : Int := Int.ofNat (fld c 103 64)

/-- The count a value becomes after the DAC correction: y in DAC LSBs, rounded and clamped to 16 bits, back in counts
(R295). The LSB code of the voltage range is two's complement, that of the current range straight binary. -/
def dacCorrect (range : Nat) (c : BitVec 256) (v : Int) : Int :=
  let y := v * 2 ^ 8 * coefGain c + coefOffset c * 2 ^ 32
  let n := Int.ofNat (dacLsb range) * 2 ^ 40
  let code := (y * 2 + n) / (2 * n)
  let code := if range = 2 then clampI 0 65535 code else clampI (-32768) 32767 code
  code * Int.ofNat (dacLsb range)

/-- The count of DAC d at instant t: on its way from applied towards target under its ASLEW row (R481), which it has reached long
before the half-wrap of its instant (R47). -/
def State.dacNow (s : State) (d : Nat) (t : Time) : Int :=
  let r := s.dacRt d
  match s.saf.rowFor 7 (0x1000 + d) with
  | some x =>
    let step := Int.ofNat (rowOp x.2 6 3) * (sdiff t r.at_ / 1000)
    if sdiff t r.at_ < 0 then r.target
    else if r.target > r.applied then min r.target (r.applied + step) else max r.target (r.applied - step)
  | none => r.target

/-- When the count of a DAC under way since instant t reaches its target under a slew limit of rate counts per µs (R481). -/
def slewEnd (t : Time) (applied target : Int) (rate : Nat) : Time :=
  tadd t (Int.ofNat (((target - applied).natAbs + rate - 1) / max 1 rate * 1000))

/-- The clamp that acts on DAC d, and when it ends: none while it stands with the value (R213, R481). -/
def State.clampEnd (s : State) (d : Nat) : Option Time :=
  let r := s.dacRt d
  if r.clamp then none
  else (s.saf.rowFor 7 (0x1000 + d)).map (fun x => slewEnd r.at_ r.applied r.target (rowOp x.2 6 3))

/-- What the value of DAC d becomes through its correction, and inside its ARANGE row (R295, R481). -/
def State.dacGoal (s : State) (d : Nat) : Int × Int :=
  let range := s.dacRangeNow d
  let y := dacCorrect range (tget coefReset s.cnv.dacCoefEff (2 * d + range - 1)) (s.dacRt d).val
  (y, match s.saf.rowFor 6 (0x1000 + d) with | some x => clampI (rowCount x.2 6) (rowCount x.2 9) y | none => y)

/-- The output of DAC d moves to its value from instant t on, inside its envelopes (R478, R481). -/
def State.dacDrive (s : State) (d : Nat) (t : Time) : State :=
  let y := s.dacGoal d
  let now := s.dacNow d t
  let slew := match s.saf.rowFor 7 (0x1000 + d) with
    | some x => if (y.2 - now).natAbs > rowOp x.2 6 3 then some x.1 else none
    | none => none
  let clamped := decide (y.2 ≠ y.1)
  let s := s.modDac d (fun r => { r with target := y.2, applied := now, at_ := t, hiz := false, clamp := clamped })
  let s := if clamped || slew.isSome then s.sendUp (.clamp d t (s.clampEnd d)) else s.sendUp (.unclamp d t)
  let s := match s.saf.rowFor 6 (0x1000 + d) with | some x => if clamped then s.envEvent x.1 5 else s | none => s
  match slew with | some row => s.envEvent row 6 | none => s

/-- DAC d takes a value at instant t: discarded for an OFF DAC, and it waits behind a closed gate, whose safe state stays (R295, R466,
R478). -/
def State.dacTake (s : State) (d : Nat) (v : Int) (t : Time) : State :=
  if s.dacRangeNow d = 0 then s
  else
    let s := s.modDac d (fun r => { r with val := v, written := true })
    if s.gateOpen (0x1000 + d) then s.dacDrive d t else s

/-- DAC d leaves its value at instant t: for a count, at once, or for high impedance, where its count stands still. DESIGN CHOICE
(log 112): an ASLEW row lets it leave high impedance from that count. No envelope acts on a safe state (R478). -/
def State.dacLeave (s : State) (d : Nat) (t : Time) (count : Option Int) : State :=
  let r := s.dacRt d
  let now := count.getD (s.dacNow d t)
  let s := s.modDac d (fun r => { r with hiz := count.isNone, target := now, applied := now, at_ := t, clamp := false })
  if r.hiz || (!r.clamp && decide (r.target = now)) then s else s.sendUp (.unclamp d t)

/-- The gate of DAC d has changed, or its envelopes: closed, it takes the SAFE count of its GROUP row or high impedance at once; open, it
takes its present value. A DAC that is OFF or not yet written stays at high impedance (R294, R466, R478, R490, R496). -/
def State.dacRegate (s : State) (t : Time) (d : Nat) : State :=
  let r := s.dacRt d
  if s.dacRangeNow d = 0 then s.dacLeave d t none
  else if s.gateOpen (0x1000 + d) then
    if !r.written then s.dacLeave d t none
    else if !r.hiz && decide (r.target = (s.dacGoal d).2) && decide (r.clamp = decide ((s.dacGoal d).2 ≠ (s.dacGoal d).1)) then s
    else s.dacDrive d t
  else
    match s.saf.rowFor 1 (0x1000 + d), s.pw.fieldUp && s.saf.fgVerified && s.fieldDrives with
    | some x, true => s.dacLeave d t (if rowOp x.2 7 1 = 1 then none else some (rowCount x.2 8))
    | _, _ => s.dacLeave d t none

/-- The DACs on their way stand where they are before their envelopes change (R481). -/
def State.settleDacs (s : State) : State :=
  let t := s.time.shadow.ns
  { s with fio := { s.fio with dac := (List.range 32).foldl (fun m d =>
      if decide ((s.dacRt d).applied = (s.dacRt d).target) then m
      else tmod {} m d (fun r => { r with applied := s.dacNow d t, at_ := t })) s.fio.dac } }

/-! ### Pulse outputs (R321 to R324, R481) -/

/-- MODE of a pulse entry. -/
def pulMode (w : BitVec 64) : Nat := fld w 1 0
/-- MAX_HZ. -/
def pulMax (w : BitVec 64) : Nat := fld w 23 2
/-- The pulse entry in effect. -/
def State.pulCfg (s : State) (p : Nat) : BitVec 64 := tget 0 s.fio.pulEff p
/-- The direction line follows the direction, inverted by DIR_POL (R321). DESIGN CHOICE (log 94), unsafe: high for the negative
direction without DIR_POL. -/
def PulRt.drawLine (r : PulRt) (inv : Bool) : PulRt := { r with line := Bool.xor r.dirNeg inv }
/-- The run-time state of pulse output p. -/
def State.pulRt (s : State) (p : Nat) : PulRt := tget {} s.fio.pul p
/-- The state with pulse output p changed by f. -/
def State.modPul (s : State) (p : Nat) (f : PulRt → PulRt) : State :=
  { s with fio := { s.fio with pul := tmod {} s.fio.pul p (fun r => (f r).drawLine (tbit (s.pulCfg p) 34)) } }

/-- The active PULSE row of output p with the lowest ceiling: all of them act (R475, R481). -/
def SafState.pulseRow (f : SafState) (p : Nat) : Option (Nat × BitVec 128) :=
  ((f.activeKind 8).filter (fun x => decide (rowTgt x.2 = 0x3000 + p))).foldl (fun a x =>
    match a with
    | some y => if rowOp x.2 6 4 < rowOp y.2 6 4 then some x else some y
    | none => some x) none

/-- A rate under MAX_HZ and under Fen Gate's ceiling (R322, R481), with the row that clamped it. -/
def State.pulClamp (s : State) (p : Nat) (hz : Int) : Int × Option Nat :=
  let m := Int.ofNat (pulMax (s.pulCfg p))
  let a := clampI (-m) m hz
  match s.saf.pulseRow p with
  | some x =>
    let c := Int.ofNat (rowOp x.2 6 4)
    let b := clampI (-c) c a
    (b, if b ≠ a then some x.1 else none)
  | none => (a, none)

/-- A RATE output takes a rate at its output instant (R322). -/
def State.pulRate (s : State) (p : Nat) (hz : Int) : State :=
  if pulMode (s.pulCfg p) ≠ 1 || !s.gateOpen (0x3000 + p) then s
  else
    let c := s.pulClamp p hz
    let s := s.modPul p (fun r => { r with
      hz := hz, rate := c.1, written := true, dirNeg := if c.1 = 0 then r.dirNeg else decide (c.1 < 0) })
    match c.2 with | some row => s.envEvent row 7 | none => s

/-! ### Axis moves (R323, R324)

DEDUCED (log 111): a move runs along linear ramps from its first rate to the cruise rate and from there to START_HZ, and its count is
the number of whole pulses of that course. -/

/-- START_HZ. -/
def profStart (w : BitVec 128) : Nat := fld w 31 0
/-- CRUISE_HZ. -/
def profCruise (w : BitVec 128) : Nat := fld w 63 32
/-- ACCEL in Hz per ms. -/
def profAccel (w : BitVec 128) : Nat := fld w 95 64
/-- DECEL in Hz per ms. -/
def profDecel (w : BitVec 128) : Nat := fld w 127 96

/-- The integer square root of a number below 2^128. -/
def isqrt (n : Nat) : Nat := (List.range 64).reverse.foldl (fun r k => if (r + 2 ^ k) * (r + 2 ^ k) ≤ n then r + 2 ^ k else r) 0

/-- Pulses of a ramp between two rates. -/
def rampPulses (u v a : Nat) : Nat := (max u v * max u v - min u v * min u v) / (2000 * max 1 a)
/-- Its time in ns. -/
def rampNs (u v a : Nat) : Nat := (max u v - min u v) * 1000000 / max 1 a
/-- Pulses of a ramp from rate u in its first t ns, upwards or downwards. -/
def rampRun (u a t : Nat) (up : Bool) : Nat :=
  (if up then 2000000 * u * t + a * t * t else 2000000 * u * t - a * t * t) / (2 * 10 ^ 15)

/-- The rate that a move of n pulses reaches: its cruise rate under the ceiling, or what its ramps leave time for. -/
def PulRt.peak (r : PulRt) (n : Nat) : Nat :=
  let a := max 1 (profAccel r.profile)
  let d := max 1 (profDecel r.profile)
  let top := min (profCruise r.profile) r.cap
  let v0 := min (profStart r.profile) top
  if r.r0 ≥ top then top else max r.r0 (min top (isqrt ((2000 * n * a * d + r.r0 * r.r0 * d + v0 * v0 * a) / (a + d))))

/-- Pulses of a move and its rate in Hz, t ns after it began; the rate is 0 once its target is reached. -/
def PulRt.course (r : PulRt) (t : Nat) : Nat × Nat :=
  let n := (r.target - r.pos.toInt).natAbs
  let peak := r.peak n
  let up := decide (peak ≥ r.r0)
  let a := if up then profAccel r.profile else profDecel r.profile
  let d := profDecel r.profile
  let v := min (profStart r.profile) peak
  let n1 := rampPulses r.r0 peak a
  let t1 := rampNs r.r0 peak a
  let n3 := rampPulses peak v d
  let n2 := n - n1 - n3
  let t2 := n2 * 10 ^ 9 / max 1 peak
  let x : Nat × Nat :=
    if t < t1 then (rampRun r.r0 a t up, if up then r.r0 + a * t / 1000000 else r.r0 - a * t / 1000000)
    else if t < t1 + t2 then (n1 + peak * (t - t1) / 10 ^ 9, peak)
    else
      let u := t - t1 - t2
      if u < rampNs peak v d then (n1 + n2 + rampRun peak d u false, peak - d * u / 1000000) else (n, 0)
  let k := min n (r.lead + x.1)
  (k, if k = n then 0 else x.2)

/-- How a move stands now. -/
def State.axisCourse (s : State) (p : Nat) : Nat × Nat := (s.pulRt p).course (s.time.guardNs - (s.pulRt p).t0)

/-- Where an axis stands (R324). -/
def State.axisPos (s : State) (p : Nat) : BitVec 40 :=
  let r := s.pulRt p
  if r.moving then r.pos + BitVec.ofInt 40 (if r.dirNeg then -Int.ofNat (s.axisCourse p).1 else Int.ofNat (s.axisCourse p).1) else r.pos

/-- The ceiling of a move: MAX_HZ and Fen Gate's (R321, R481). -/
def State.axisCap (s : State) (p : Nat) : Nat :=
  match s.saf.pulseRow p with
  | some x => min (pulMax (s.pulCfg p)) (rowOp x.2 6 4)
  | none => pulMax (s.pulCfg p)

/-- A move begins from where the axis stands: from rest at START_HZ with its first edge at once, else from the present rate (R324). -/
def State.axisBegin (s : State) (p : Nat) (profile : BitVec 128) (target : Int) : State :=
  let pos := s.axisPos p
  let cap := s.axisCap p
  let rate := if (s.pulRt p).moving then (s.axisCourse p).2 else 0
  s.modPul p (fun r => { r with
    pos := pos, t0 := s.time.guardNs, r0 := min cap (if rate = 0 then profStart profile else rate), lead := if rate = 0 then 1 else 0
    cap := cap, profile := profile, moving := true, target := target, next := none
    dirNeg := if target = pos.toInt then r.dirNeg else decide (target < pos.toInt) })

/-- A moving axis decelerates to a stop in its present direction; a move may wait for it (R309, R324). -/
def State.axisStop (s : State) (p : Nat) (next : Option (BitVec 128 × Int)) : State :=
  let r := s.pulRt p
  let pos := (s.axisPos p).toInt
  let rate := (s.axisCourse p).2
  let n := Int.ofNat (rampPulses rate (min rate (profStart r.profile)) (profDecel r.profile))
  let s := s.axisBegin p r.profile (if r.dirNeg then pos - n else pos + n)
  s.modPul p (fun r => { r with next := next })

/-- An AXIS output takes a move (R324): the same direction continues toward the new target, the opposite one first
comes to a stop. -/
def State.pulAxis (s : State) (p profile : Nat) (target : Int) : State :=
  if pulMode (s.pulCfg p) ≠ 2 || !s.gateOpen (0x3000 + p) then s
  else
    let r := s.pulRt p
    let w := tget 0 s.fio.fld.prof profile
    let s := if r.moving && decide (decide (target < (s.axisPos p).toInt) ≠ r.dirNeg) then s.axisStop p (some (w, target))
      else s.axisBegin p w target
    let s := s.modPul p (fun r => { r with written := true })
    match s.saf.pulseRow p with
    | some x => if profCruise w > rowOp x.2 6 4 then s.envEvent x.1 7 else s
    | none => s

/-- Pulse output p stops at once. -/
def State.pulStop (s : State) (p : Nat) : State :=
  let pos := s.axisPos p
  s.modPul p (fun r => { r with
    hz := 0, rate := 0, moving := false, next := none, pos := pos, target := pos.toInt })

/-- The gate of pulse output p has changed, or its envelopes: closed, it stops at once; open, a rate and a move that run come under the
ceiling as it is now (R466, R478, R481). -/
def State.pulRegate (s : State) (p : Nat) : State :=
  if !s.gateOpen (0x3000 + p) then s.pulStop p
  else
    let r := s.pulRt p
    let c := s.pulClamp p r.hz
    if c.1 ≠ r.rate then
      let s := s.modPul p (fun r => { r with rate := c.1 })
      match c.2 with | some row => s.envEvent row 7 | none => s
    else if r.moving && decide (r.cap ≠ s.axisCap p) then
      let s := s.axisBegin p r.profile r.target
      let s := s.modPul p (fun q => { q with next := r.next })
      match s.saf.pulseRow p with
      | some x => if profCruise r.profile > rowOp x.2 6 4 then s.envEvent x.1 7 else s
      | none => s
    else s

/-- The gates of every output have changed (a permit, a demand, a configuration fault, a release): each output follows
its gate at once (R466, R469). -/
def State.regate (s : State) : State :=
  let t := s.time.shadow.ns
  let s := s.hsRegates (List.range 48)
  let s := (List.range 32).foldl (fun s d => s.dacRegate t d) s
  (List.range 16).foldl (fun s p => s.pulRegate p) s

end Sys2Proof.Machine
end

