-- ==== Sys2Proof/Machine/FieldIo.lean ====
section
/-! DEFINITION. Field input and output (R302 to R330): the tables, the high-side conditions, duty periods, digital inputs,
encoders, pulse outputs, and what a value does when it reaches the field side. -/

namespace Sys2Proof.Machine

/-! ### What crosses the barrier (R17) -/

/-- The tables of field input and output as accepted. -/
def State.fioTables (s : State) : FioTables :=
  { hs := s.fio.hsTab, di := s.fio.diTab, enc := s.fio.encTab, pul := s.fio.pulTab, dac := s.cnv.dac, prof := s.fio.profTab }

/-- A load of them that is accepted goes to the field side, where it takes effect at a base period start. -/
def State.sendFio (s : State) : State := s.sendDown (.fioTables s.fioTables)

/-- The field side as it stands, which every valid uplink frame shows. DESIGN CHOICE (log 108): R17 names what the uplink carries,
not how often. -/
def State.fieldView (s : State) : FieldView :=
  { saf := s.saf, drn := s.drn, peat := s.peat, hs := s.fio.hs, dac := s.fio.dac, pul := s.fio.pul
    encFault := s.fio.encFault, tripCnt := s.fio.tripCnt, dacLate := s.cnv.dacLate }

/-- The hold loop in COMMAND that drives an output, as the logic side sees it (R495, R499). -/
def State.seenLoop (s : State) (id : Nat) : Option LoopRt :=
  (s.seen.drn.loops.find? (fun x => x.2.cmd && decide (x.2.dst = id))).map (·.2)

/-- Output id is in COMMAND, as the logic side sees it (R495, R499). -/
def State.seenCommand (s : State) (id : Nat) : Bool :=
  (s.seenLoop id).isSome || (decide (0x2000 ≤ id) && decide (id < 0x2030) && tbit s.seen.drn.hsCmd (id - 0x2000))

/-! ### Table loads (R303, R309, R313, R315, R321, R323) -/

/-- The 64-bit entries of a LOAD. -/
def Entry.words64 (e : Entry) : List (BitVec 64) := (List.range e.count).map (entryAt 64 8 e.data)
/-- The 128-bit entries of a LOAD. -/
def Entry.words128 (e : Entry) : List (BitVec 128) := (List.range e.count).map (entryAt 128 16 e.data)

/-- Every entry with its index. -/
def withIndex (first : Nat) (l : List α) : List (Nat × α) := l.zipIdx.map (fun x => (first + x.2, x.1))

/-- A table with entries first, first + 1, … replaced. -/
def tload [DecidableEq α] (d : Nat → α) (t : Sparse α) (l : List (Nat × α)) : Sparse α :=
  l.foldl (fun t x => tput (d x.1) x.2 t x.1) t

/-- A high-side entry is valid (R303). -/
def hsEntryOk (w : BitVec 64) : Bool :=
  decide (hsMode w ≠ 3) && decide (fld w 63 21 = 0) && (decide (hsMode w ≠ 2) || decide (hsPeriod w ≥ 200))

/-- The Drone commands output i in a MODE other than the entry's (R499). -/
def State.droneModeClash (s : State) (i : Nat) (w : BitVec 64) : Bool :=
  ((s.seenLoop (0x2000 + i)).isSome && decide (hsMode w ≠ 2)) || (tbit s.seen.drn.hsCmd i && decide (hsMode w ≠ 1))

/-- The duty timers after an entry: a DUTY output holds one of the 24, another mode gives it back (R304). -/
def dutyTimer (cl : List Claim) (x : Nat × BitVec 64) : Judged (List Claim) :=
  let own := ownFio x.1
  if hsMode x.2 = 2 then
    if cl.any (fun c => decide (c.rank = rankGeneral) && decide (c.num = own)) then .ok cl
    else match poolFree cl 0x5000 24 with
      | some i => .ok (cl ++ [{ id := 0x5000 + i, rank := rankGeneral, num := own }])
      | none => .refused 0xB2 0x5000
  else .ok (releaseOwner cl rankGeneral own)

/-- Claims changed entry by entry, all or none. -/
def claimEach (f : List Claim → α → Judged (List Claim)) : List α → List Claim → Judged (List Claim)
  | [], cl => .ok cl
  | x :: r, cl =>
    match f cl x with
    | .ok cl => claimEach f r cl
    | .refused c w => .refused c w

/-- A high-side table LOAD (R303 to R305, R499): outputs that leave DUTY give their timers back before others take
one. -/
def State.loadHs (s : State) (l : List (Nat × BitVec 64)) : Judged State :=
  if l.any (fun x => !hsEntryOk x.2 || s.droneModeClash x.1 x.2) then .refused 0x4A 0
  else
    let leave := l.filter (fun x => decide (hsMode x.2 ≠ 2))
    let join := l.filter (fun x => decide (hsMode x.2 = 2))
    match claimEach dutyTimer (leave ++ join) s.fio.claims with
    | .refused c w => .refused c w
    | .ok cl => .ok (State.sendFio { s with fio := { s.fio with hsTab := tload (fun _ => 0) s.fio.hsTab l, claims := cl } })

/-- A digital input entry is valid (R313). -/
def diEntryOk (w : BitVec 64) : Bool := decide (fld w 63 16 = 0) && decide (fld w 15 2 ≤ 10000)

/-- A digital input table LOAD (R313). -/
def State.loadDi (s : State) (l : List (Nat × BitVec 64)) : Judged State :=
  if l.any (fun x => !diEntryOk x.2) then .refused 0x4A 0
  else .ok (State.sendFio { s with fio := { s.fio with diTab := tload (fun _ => 0) s.fio.diTab l } })

/-- MODE of an encoder entry. -/
def encMode (w : BitVec 64) : Nat := fld w 2 0
/-- SSI_BITS: 8 to 31, and 0 for 32, which a five-bit field cannot hold otherwise (DEDUCED). -/
def encBits (w : BitVec 64) : Nat := if fld w 7 3 = 0 then 32 else fld w 7 3
/-- SSI clock in 100 kHz: SSI_RATE + 1 to 10, and 20 for 15 (R315). -/
def encRate (w : BitVec 64) : Option Nat :=
  if fld w 12 9 ≤ 9 then some (fld w 12 9 + 1) else if fld w 12 9 = 15 then some 20 else none
/-- CAP_SRC. -/
def encCapSrc (w : BitVec 64) : Nat := fld w 23 22

/-- An encoder entry is valid (R315, R318, R319): an SSI frame of bits + 1 clocks takes at most 19 µs. -/
def encEntryOk (w : BitVec 64) : Bool :=
  decide (fld w 63 31 = 0) && decide (encMode w ≤ 4) && decide (encCapSrc w ≠ 3) &&
    (decide (encMode w ≠ 4) ||
      (decide (encBits w ≥ 8) && decide (fld w 21 13 ≥ 1) && decide (500 % (fld w 21 13) = 0) &&
        decide (encCapSrc w = 0) &&
        (match encRate w with
         | some r => decide ((encBits w + 1) * 10 ≤ 19 * r)
         | none => false)))

/-- The claim of an encoder input and its Z contacts (R325). -/
def encClaim (cl : List Claim) (x : Nat × BitVec 64) : Judged (List Claim) :=
  if encMode x.2 = 0 then .ok (releaseOwner cl rankGeneral (ownFio (64 + x.1)))
  else claim cl (0x4000 + x.1) rankGeneral (ownFio (64 + x.1))

/-- An encoder table LOAD (R315). -/
def State.loadEnc (s : State) (l : List (Nat × BitVec 64)) : Judged State :=
  if l.any (fun x => !encEntryOk x.2) then .refused 0x4A 0
  else match claimEach encClaim l s.fio.claims with
    | .refused c w => .refused c w
    | .ok cl => .ok (State.sendFio { s with fio := { s.fio with encTab := tload (fun _ => 0) s.fio.encTab l, claims := cl } })

/-- A pulse entry is valid (R321); an OFF entry is judged for its unnamed bits alone. -/
def pulEntryOk (w : BitVec 64) : Bool :=
  decide (pulMode w ≠ 3) && decide (fld w 63 35 = 0) &&
    (decide (pulMode w = 0) || (decide (pulMax w ≥ 1) && decide (pulMax w ≤ 4000000) &&
      decide (fld w 33 24 ≥ 100) && decide (fld w 33 24 ≤ 1000)))

/-- A pulse table LOAD (R321). -/
def State.loadPul (s : State) (l : List (Nat × BitVec 64)) : Judged State :=
  if l.any (fun x => !pulEntryOk x.2) then .refused 0x4A 0
  else .ok (State.sendFio { s with fio := { s.fio with pulTab := tload (fun _ => 0) s.fio.pulTab l } })

/-- A motion profile LOAD (R323): profiles are judged when a step names them. -/
def State.loadProf (s : State) (l : List (Nat × BitVec 128)) : Judged State :=
  .ok (State.sendFio { s with fio := { s.fio with profTab := tload (fun _ => 0) s.fio.profTab l } })

/-- A profile is valid for pulse output p as accepted (R323, R642). -/
def State.profileOk (s : State) (p profile : Nat) : Bool :=
  let w := tget 0 s.fio.profTab profile
  decide (fld w 31 0 ≤ fld w 63 32) && decide (fld w 63 32 ≤ pulMax (tget 0 s.fio.pulTab p)) &&
    decide (fld w 95 64 ≠ 0) && decide (fld w 127 96 ≠ 0)

/-- A hold-policy entry never loaded: POLICY 0, N 1, FEED 0xFFF, SAFE 0 (R309). -/
def holdReset : BitVec 64 := BitVec.ofNat 64 (2 + 0xFFF * 2 ^ 9)
/-- POLICY. -/
def holdPolicy (w : BitVec 64) : Bool := tbit w 0
/-- N. -/
def holdN (w : BitVec 64) : Nat := fld w 8 1
/-- FEED. -/
def holdFeed (w : BitVec 64) : Nat := fld w 20 9
/-- SAFE. -/
def holdSafe (w : BitVec 64) : Int := sfld w 44 21

/-- A hold-policy entry is valid (R309): N from 1 under POLICY 0, one SAFE bit for entries that are no DAC. -/
def holdEntryOk (x : Nat × BitVec 64) : Bool :=
  decide (fld x.2 63 45 = 0) && (holdPolicy x.2 || decide (holdN x.2 ≥ 1)) &&
    ((decide (48 ≤ x.1) && decide (x.1 < 80)) || decide (fld x.2 44 22 = 0))

/-- A reload that changes FEED counts good and missing cycles of the new FEED from the next basic cycle on; the count of missing cycles
stays (R311). -/
def holdReload (old new : Sparse (BitVec 64)) (t : Sparse HoldRt) (i : Nat) : Sparse HoldRt :=
  if holdFeed (tget holdReset old i) ≠ holdFeed (tget holdReset new i) then
    tmod {} t i (fun r => { r with good := 0, skip := true })
  else t

/-- The field side takes the hold policies into its field configuration and keeps the outputs' state (R42, R309, R311). -/
def State.takeHold (s : State) (tab : Sparse (BitVec 64)) : State :=
  { s with fio := { s.fio with
      holdEff := tab, hold := (List.range 96).foldl (holdReload s.fio.holdEff tab) s.fio.hold } }

/-- A hold-policy LOAD is accepted and goes to the field side (R17, R309). -/
def State.loadHold (s : State) (l : List (Nat × BitVec 64)) : Judged State :=
  if l.any (fun x => !holdEntryOk x) then .refused 0x4A 0
  else
    let tab := tload (fun _ => holdReset) s.fio.holdTab l
    .ok (State.sendDown { s with fio := { s.fio with holdTab := tab } } (.holdTable tab))

/-! ### Which outputs the hold program names (R495) -/

/-- HS_MASK of the active hold program. -/
def DrnState.hsMask (d : DrnState) : Nat := leAt d.image 24 6
/-- The hold program names output id: the output of a hold loop, or a bit output. -/
def DrnState.names (d : DrnState) (id : Nat) : Bool :=
  (decide (d.st = .run) || decide (d.st = .failed)) && (d.loops.any (fun x => decide (x.2.dst = id)) ||
    (decide (0x2000 ≤ id) && decide (id < 0x2030) && Nat.testBit d.hsMask (id - 0x2000)))

/-! ### Values on the field side (R296, R304, R322, R324, R305, R311) -/

/-- The hold-policy entry number of a field value's output. -/
def holdIndex : DownItem → Option Nat
  | .dac d _ _ => some (48 + d)
  | .duty o _ _ => some o
  | .rate p _ _ => some (80 + p)
  | .axis a _ _ _ => some (80 + a)
  | _ => none

/-- The output stands at its hold policy's SAFE value (R311). -/
def State.atSafe (s : State) (i : Nat) : Bool := (tget {} s.fio.hold i).atSafe

/-- The on-time of a DUTY value in 100 ns (R304). -/
def dutyOn (d : Int) (periodUs : Nat) : Nat :=
  if d ≤ 0 then 0 else if d ≥ 8388607 then periodUs * 10
  else ((2 * d * Int.ofNat periodUs * 10 + 8388607) / (2 * 8388607)).toNat

/-- A named output keeps its value between the declaration of the logic side's absence and the output instant at which the Drone takes it
(R497). -/
def State.keepsValue (s : State) (id : Nat) : Bool := s.drn.takeDue && s.drn.names id

/-- A group word for high-side group g: the masked DISCRETE outputs that the logic side drives (R305, R495), with the commands it gives
them; a block publication first takes over the masked outputs from the Drone (R498). -/
def State.takeValves (s : State) (g states mask : Nat) (t : Time) (fromBlock : Bool) : State × List (Nat × Bool) :=
  let named := (List.range 8).filter (fun b =>
    Nat.testBit mask b && decide (hsMode (s.hsCfg (8 * g + b)) = 1) && !s.keepsValue (0x2000 + (8 * g + b)))
  let freed := named.foldl (fun w b => putBit w (8 * g + b) false) s.drn.hsCmd
  let s := if fromBlock then { s with drn := { s.drn with hsCmd := freed } } else s
  let go := named.filter (fun b => !s.droneHs (8 * g + b) && !s.atSafe (8 * g + b))
  let stay := named.filter (fun b => !s.droneHs (8 * g + b) && s.atSafe (8 * g + b))
  let s := stay.foldl (fun s b => { s with fio := { s.fio with hold := tmod {} s.fio.hold (8 * g + b) (fun r =>
    { r with feed := some (.valves g states (2 ^ b) t false) }) } }) s
  (s, go.map (fun b => (8 * g + b, Nat.testBit states b)))

/-- A group word acts by itself. -/
def State.applyValves (s : State) (g states mask : Nat) (t : Time) (fromBlock : Bool) : State :=
  let x := s.takeValves g states mask t fromBlock
  x.1.hsCommand x.2

/-- The logic side's value for a DAC, a duty output, a rate or an axis takes effect at its instant; one for an output
at SAFE is kept for its return (R311), one for an output in COMMAND is not applied (R495). -/
def State.applyItem (s : State) (it : DownItem) : State :=
  match it with
  | .valves g states mask t fromBlock => s.applyValves g states mask t fromBlock
  | _ =>
    match holdIndex it with
    | none => s
    | some i =>
      if s.atSafe i then
        { s with fio := { s.fio with hold := tmod {} s.fio.hold i (fun r => { r with feed := some it }) } }
      else
        match it with
        | .dac d v t =>
          if (s.loopOn (0x1000 + d)).isSome || s.keepsValue (0x1000 + d) then s
          else
            let s := s.dacTake d v t
            { s with fio := { s.fio with up := s.fio.up ++ [.dacTaken d (s.dacNow d t) t] } }
        | .duty o v _ =>
          if s.droneHs o || s.keepsValue (0x2000 + o) then s
          else s.modHs o (fun h => { h with duty := v, written := true })
        | .rate p hz _ => s.pulRate p hz
        | .axis a profile target _ => s.pulAxis a profile target
        | _ => s

/-- The module is timed: it executes launch instants (R26, R62, R145). -/
def State.timed (s : State) : Bool := s.time.tb1Lock && !s.pw.frefFb

/-- The instant of a field value. -/
def itemInstant : DownItem → Option Time
  | .launch _ it => itemInstant it
  | .dac _ _ t => some t
  | .valves _ _ _ t _ => some t
  | .duty _ _ t => some t
  | .rate _ _ t => some t
  | .axis _ _ _ t => some t
  | _ => none

/-- The earliest instant of the values that wait on the field side (R47). -/
def earliest : List DownItem → Option Time
  | [] => none
  | x :: r =>
    match itemInstant x, earliest r with
    | some a, some b => some (if sdiff b a < 0 then b else a)
    | some a, none => some a
    | none, b => b

/-- The acceptance number of a step's value. -/
def DownItem.step? : DownItem → Option Word
  | .launch q _ => some q
  | _ => none

/-- Acceptance number a came before b or is b; the numbers wrap (R65). -/
def seqLe (a b : Word) : Bool := decide ((a - b).toInt ≤ 0)

/-- The values of one tick in the order in which they take effect: those of steps last, in acceptance order (R65, R145). -/
def tickOrder (l : List DownItem) : List DownItem :=
  l.filter (fun x => x.step?.isNone) ++
    sortBy (fun a b => seqLe (a.step?.getD 0) (b.step?.getD 0)) (l.filter (fun x => x.step?.isSome))

/-- The command of output i among those of one tick, the later of two standing (R65). -/
def putCmd (l : List (Nat × Bool)) (c : Nat × Bool) : List (Nat × Bool) := l.filter (fun x => decide (x.1 ≠ c.1)) ++ [c]

/-- A value that waited takes effect; group words give their commands to those of the tick. -/
def State.takeNow (x : State × List (Nat × Bool)) (it : DownItem) : State × List (Nat × Bool) :=
  match it with
  | .valves g states mask t fromBlock =>
    let y := x.1.takeValves g states mask t fromBlock
    (y.1, y.2.foldl putCmd x.2)
  | it => (x.1.applyItem it, x.2)

/-- The same for a value of a step, which acts only where the module is timed (R26, R62, R145). -/
def State.takeItem (x : State × List (Nat × Bool)) (it : DownItem) : State × List (Nat × Bool) :=
  match it with
  | .launch _ it => if x.1.timed then State.takeNow x it else x
  | it => State.takeNow x it

/-- FIELD_OUTPUT_INSTANT: the values of the earliest tick of the TB1 shadow that has come take effect, in the order in which they
arrived, and in acceptance order for steps; the high-side outputs of the tick switch as one cycle (R20, R64, R65, R144, R145, R296,
R480). -/
def execFieldOutputInstant (s : State) : Host.Outcome State Fault Refusal :=
  match earliest s.fio.due with
  | none => .next s
  | some t =>
    let tick (u : Time) : Int := s.time.shadow.tickOf u
    if tick t > 0 then .next s
    else
      let here (x : DownItem) : Bool := (itemInstant x).any (fun u => decide (tick u = tick t))
      let later := s.fio.due.filter (fun x => !here x)
      let x := (tickOrder (s.fio.due.filter here)).foldl State.takeItem ({ s with fio := { s.fio with due := later } }, [])
      .next (x.1.hsCommand x.2)

/-! ### Table rows -/

/-- HIGH_SIDE_TABLE_LOAD: table 0x001 of FIO (R303). -/
def doHighSideTableLoad (p : Pair) (s : State) : Host.Outcome State Fault Refusal :=
  match s.takeLoad p 8 1 with
  | none => .next s
  | some e => .next (s.settle p e (BitVec.ofNat 64 e.count) (s.loadHs (withIndex e.first e.words64)))

/-- INPUT_TABLE_LOAD: table 0x002 of FIO (R313). -/
def doInputTableLoad (p : Pair) (s : State) : Host.Outcome State Fault Refusal :=
  match s.takeLoad p 8 2 with
  | none => .next s
  | some e => .next (s.settle p e (BitVec.ofNat 64 e.count) (s.loadDi (withIndex e.first e.words64)))

/-- ENCODER_TABLE_LOAD: table 0x003 of FIO (R315). -/
def doEncoderTableLoad (p : Pair) (s : State) : Host.Outcome State Fault Refusal :=
  match s.takeLoad p 8 3 with
  | none => .next s
  | some e => .next (s.settle p e (BitVec.ofNat 64 e.count) (s.loadEnc (withIndex e.first e.words64)))

/-- PULSE_TABLE_LOAD: table 0x004 of FIO (R321). -/
def doPulseTableLoad (p : Pair) (s : State) : Host.Outcome State Fault Refusal :=
  match s.takeLoad p 8 4 with
  | none => .next s
  | some e => .next (s.settle p e (BitVec.ofNat 64 e.count) (s.loadPul (withIndex e.first e.words64)))

/-- PROFILE_TABLE_LOAD: table 0x005 of FIO (R323). -/
def doProfileTableLoad (p : Pair) (s : State) : Host.Outcome State Fault Refusal :=
  match s.takeLoad p 8 5 with
  | none => .next s
  | some e => .next (s.settle p e (BitVec.ofNat 64 e.count) (s.loadProf (withIndex e.first e.words128)))

/-- HOLD_POLICY_TABLE_LOAD: table 0x006 of FIO (R309). -/
def doHoldPolicyTableLoad (p : Pair) (s : State) : Host.Outcome State Fault Refusal :=
  match s.takeLoad p 8 6 with
  | none => .next s
  | some e => .next (s.settle p e (BitVec.ofNat 64 e.count) (s.loadHold (withIndex e.first e.words64)))

/-! ### High-side events -/

/-- The on-time in 100 ns that the next period of a duty output takes: the Drone's, unless it has failed, or that of the latest value under
PERIOD_US as it stands then (R304, R510, R515). -/
def State.dutyNext (s : State) (i : Nat) : Nat :=
  if (s.loopOn (0x2000 + i)).isSome && decide (s.drn.st ≠ .failed) then (s.hsRt i).onNext
  else dutyOn (s.hsRt i).duty (s.dutyPeriod i)

/-- DUTY_PERIOD_START: the period's off-edge has passed; the new period takes the latest value and starts its on-time
(R304). -/
def execDutyPeriodStart (o : Fin 48) (s : State) : Host.Outcome State Fault Refusal :=
  let i := o.val
  let t := s.time.shadow.ns
  if hsMode (s.hsCfg i) ≠ 2 && (s.loopOn (0x2000 + i)).isNone then .next s
  else
    let h := s.hsRt i
    let whole := s.dutyPeriod i * 10
    let on := s.dutyNext i
    let s := if decide (h.onTime < whole) || decide (on = 0) then s.hsCmdOff i else s
    let s := s.modHs i (fun h => { h with onTime := on, periodAt := some t })
    .next (if on > 0 then s.hsCmdOn i [i] else s)

/-- The outputs that a condition trips: the output itself, or every output of its group (R306). -/
def tripSet (i cond : Nat) : List Nat :=
  if cond = 0 || cond = 1 then [i] else if cond = 6 then (List.range 8).map (fun b => i / 8 * 8 + b) else []

/-- Output i trips: switched off, its trip bit set, event 0x4C (R306). -/
def State.tripHs (s : State) (i cond : Nat) : State :=
  let s := (s.modHs i (fun h => { h with trip := true, tripAt := s.time.guardNs })).hsOff i
  let s := { s with fio := { s.fio with tripCnt := satInc 0xFFFF s.fio.tripCnt } }
  (s.countLedger 15).fieldRaise 0x4C (BitVec.ofNat 64 (i + cond * 256))

/-- The conditions of R306 that must hold beside the measurement. -/
def condApplies (w : BitVec 64) (h : HsRt) (cond : Nat) : Bool :=
  match cond with
  | 2 => hsOlEn w && h.drv
  | 3 => hsOlEn w && !h.drv && !hsShared w
  | 4 => !h.drv
  | _ => true

/-- The outputs that show a condition: one, or every output of the group (R306). -/
def condSet (i cond : Nat) : List Nat :=
  if cond = 5 || cond = 6 then (List.range 8).map (fun b => i / 8 * 8 + b) else [i]

/-- HS_CONDITION: a high-side condition has persisted for its time, or has ended; BACKFEED makes a SHARED output count as on (R306, R308,
R479). -/
def execHsCondition (o : Fin 48) (cond : Fin 7) (present : Bool) (s : State) : Host.Outcome State Fault Refusal :=
  let i := o.val
  let c := cond.val
  if !present then
    .next ((condSet i c).foldl (fun s j => s.modHsOn j (fun h => { h with conds := putBit h.conds c false })) s)
  else if !condApplies (s.hsCfg i) (s.hsRt i) c then .next s
  else
    let s := (condSet i c).foldl (fun s j => s.modHsOn j (fun h => { h with conds := putBit h.conds c true })) s
    match tripSet i c with
    | [] =>
      if (c = 2 || c = 3) && !s.rbit 0x8000 0 then .next s
      else .next ((condSet i c).foldl (fun s j => s.fieldRaise 0x4C (BitVec.ofNat 64 (j + c * 256))) s)
    | l => .next (l.foldl (fun s j => s.tripHs j c) s)

/-- A latched trip of output i is cleared on the field side (R306, R330). -/
def State.clearTrip (s : State) (i : Nat) : State := (s.modHs i (fun h => { h with trip := false })).hsRegate i

/-- HS_CLR_FAULT: parameter 0x001 of FIO sends the clear of a latched trip to the field side (R17, R330). -/
def doHsClrFault (p : Pair) (s : State) : Host.Outcome State Fault Refusal :=
  match s.takeParam p 1 8 1 with
  | none => .next s
  | some e =>
    if e.value ≥ 48 then .next (s.finish p.val e.sub 0x02 0)
    else .next ((s.sendDown (.clrFault e.value)).finish p.val e.sub 0 0)

/-- HS_DIAG: parameter 0x003 of FIO returns the conditions as the uplink shows them and the load current, a free value (R330). -/
def execHsDiag (p : Pair) (s : State) : Host.Outcome State Fault Refusal :=
  match s.takeParam p 2 8 3 with
  | none => .next s
  | some e =>
    if e.value ≥ 48 then .next (s.finish p.val e.sub 0x02 0)
    else
      let ma := (Config.loadMa s.freeIdx).toNat
      .next (s.tookFree.finish p.val e.sub 0 (BitVec.ofNat 64 ((tget {} s.seen.hs e.value : HsRt).conds.toNat + ma * 2 ^ 16)))

/-! ### Fen Gate's timed actions on high-side outputs (R479, R480) -/

/-- ONMAX_CUT: where the on-time has reached ONMAX, the output is cut until it has been commanded off (R480). -/
def execOnmaxCut (o : Fin 48) (s : State) : Host.Outcome State Fault Refusal :=
  let i := o.val
  match s.saf.rowFor 2 (0x2000 + i) with
  | none => .next s
  | some x =>
    let h := s.hsRt i
    if !h.counts || h.cut || decide (s.time.guardNs < h.onAt + rowNs (rowOp x.2 6 4)) then .next s
    else
      let s := (s.modHs i (fun h => { h with cut := true })).hsOff i
      .next ({ s with saf := { s.saf with cutCnt := satInc 0xFFFF s.saf.cutCnt } }.countLedger 17 |>.envEvent x.1 1)

/-- OFFMIN_END: the off-time has elapsed, so a delayed switch-on that is still commanded takes place (R480). -/
def execOffminEnd (o : Fin 48) (s : State) : Host.Outcome State Fault Refusal :=
  let h := s.hsRt o.val
  if h.delayed && h.cmd then .next (s.hsJudgeOn o.val []) else .next s

/-- RATE_DELAY_END: the sliding window allows a delayed switch-on that is still commanded (R480). -/
def execRateDelayEnd (o : Fin 48) (s : State) : Host.Outcome State Fault Refusal :=
  let h := s.hsRt o.val
  if h.delayed && h.cmd then .next (s.hsJudgeOn o.val []) else .next s

/-- HS_COUNTS_OFF: the load current has fallen below 1 mA after switch-off, so the output counts off and its off-time
runs, unless it is SHARED and its load still carries more than 18 V (R479). -/
def execHsCountsOff (o : Fin 48) (s : State) : Host.Outcome State Fault Refusal :=
  let h := s.hsRt o.val
  if h.own && !h.drv then .next (s.modHsOn o.val (fun h => { h with own := false }))
  else .next s

/-! ### Digital inputs (R313, R314) -/

/-- The digital input entry in effect. -/
def State.diCfg (s : State) (i : Nat) : BitVec 64 := tget 0 s.fio.diEff i
/-- The accepted state of input i after INV. -/
def State.diState (s : State) (i : Nat) : Bool := Bool.xor (tget {} s.fio.di i).acc (tbit (s.diCfg i) 1)

/-- DIGITAL_INPUT_TRANSITION: a raw change starts the filter; a return to the accepted level ends it (R314). -/
def execDigitalInputTransition (input : Fin 64) (level : Bool) (s : State) : Host.Outcome State Fault Refusal :=
  let now := s.time.shadow.ns
  .next { s with fio := { s.fio with di := tmod {} s.fio.di input.val (fun r =>
    if level = r.acc then { r with raw := level, since := none }
    else if level = r.raw && r.since.isSome then r
    else { r with raw := level, since := some now }) } }

/-! ### Encoders (R315 to R320) -/

/-- The encoder entry in effect. -/
def State.encCfg (s : State) (e : Nat) : BitVec 64 := tget 0 s.fio.encEff e
/-- The run-time state of encoder e. -/
def State.encRt (s : State) (e : Nat) : EncRt := tget {} s.fio.enc e

/-- The value of an n-bit Gray code. -/
def grayValue (n x : Nat) : Nat := (List.range n).foldl (fun v k => v ^^^ (x % 2 ^ n / 2 ^ (k + 1))) (x % 2 ^ n)

/-- One SSI reading: the position moves by the signed difference modulo 2^SSI_BITS (R316); the first reading only sets
the reference. -/
def ssiTake (w : BitVec 64) (r : EncRt) (raw : Word) : EncRt :=
  let n := encBits w
  let v := if tbit w 8 then grayValue n raw.toNat else raw.toNat % 2 ^ n
  match r.ssiPrev with
  | some p => { r with
      pos := r.pos + BitVec.ofInt 32 (sext n (v + 2 ^ n - p.toNat % 2 ^ n)), ssiPrev := some (BitVec.ofNat 32 v) }
  | none => { r with ssiPrev := some (BitVec.ofNat 32 v) }

/-- What an encoder brought since the last base period start (R316, R318). -/
def encTake (w : BitVec 64) (r : EncRt) (x : EncReading) : EncRt :=
  match x with
  | .none => r
  | .edges d => if encMode w ≥ 1 && encMode w ≤ 3 then { r with pos := r.pos + BitVec.ofInt 32 d } else r
  | .zEdge a b =>
    if encMode w ≥ 1 && encMode w ≤ 3 then
      if tbit w 30 && !r.zDone then { r with pos := BitVec.ofInt 32 b, zDone := true }
      else { r with pos := r.pos + BitVec.ofInt 32 (a + b) }
    else r
  | .ssi raw => if encMode w = 4 then ssiTake w r raw else r

/-- An SSI encoder sends a frame in every SSI_DIV-th base period (R315). DESIGN CHOICE (log 109): those with n mod SSI_DIV = 0. -/
def ssiDue (w : BitVec 64) (n : Nat) : Bool := decide (n % max 1 (fld w 21 13) = 0)

/-- Encoder e takes what it brought in base period n; an SSI reading only where a frame was due (R315, R316, R318). -/
def State.countEnc (s : State) (n : Nat) (readings : List EncReading) (e : Nat) : State :=
  let w := s.encCfg e
  let x := readings.getD e .none
  let x := match x with | .ssi _ => if ssiDue w n then x else .none | x => x
  { s with fio := { s.fio with enc := tmod {} s.fio.enc e (fun r => encTake w r x) } }

/-- The position latched at the last base period start. -/
def EncRt.latched (r : EncRt) : Word := r.latches.headD 0

/-- A base period start on the logic side: each position repeats until its image arrives; the last 51 latches are kept. A standby's come
with its records (R317, R447). -/
def State.shiftLatches (s : State) : State :=
  if s.replays then s
  else { s with fio := { s.fio with enc := tmap {} (fun r => { r with latches := (r.latched :: r.latches).take 51 }) s.fio.enc } }

/-- All positions are latched on the field side at the end of base period n and cross the uplink (R17, R317). -/
def State.latchEncs (s : State) (n : Nat) (readings : List EncReading) : State :=
  if !s.pw.fieldUp then s
  else
    let s := (List.range 16).foldl (fun s e => s.countEnc n readings e) s
    s.sendUp (.encoders ((List.range 16).map (fun e => (s.encRt e).pos)))

/-- The encoder image arrives: what Mire records, and the latched positions of a module that takes its own inputs (R317, R446, R447). -/
def State.takeEncoders (s : State) (pos : List Word) : State :=
  let mine := !s.replays
  let s := (List.range 16).foldl (fun s e =>
    { s with fio := { s.fio with enc := tmod {} s.fio.enc e (fun r =>
      let p := pos.getD e 0
      { r with own := p, latches := if mine then p :: r.latches.drop 1 else r.latches }) } }) s
  if mine then s.snapOut (2 :: (List.range 16).flatMap (fun e => leBytes 4 (pos.getD e 0).toNat)) else s

/-- The stamp of a capture edge of encoder e, if it is one of its CAP_SRC: a Z edge, now; an accepted edge of its digital input, at its
first raw transition, once (R314, R319). -/
def State.captureStamp (s : State) (e : Nat) (zLine : Bool) (input : Nat) : Option Time :=
  let w := s.encCfg e
  if encCapSrc w = 1 && zLine then some s.time.shadow.ns
  else if encCapSrc w = 2 && !zLine && decide (fld w 29 24 = input) then
    (tget {} s.fio.di input : DiRt).accAt.filter (fun t => decide ((s.encRt e).capAt ≠ some t))
  else none

/-- ENCODER_CAPTURE: a capture edge of the encoder's CAP_SRC: the position at the edge, as it moved since the last latch, and its stamp
go to the capture queue (R17, R314, R319). -/
def execEncoderCapture (enc : Fin 16) (zLine : Bool) (input : CaptureEdge) (s : State) : Host.Outcome State Fault Refusal :=
  match s.captureStamp enc.val zLine input.input.val with
  | none => .next s
  | some t =>
    let r := s.encRt enc.val
    let r' := { r with capAt := if zLine then r.capAt else some t }
    .next (State.sendUp { s with fio := { s.fio with enc := tput {} r' s.fio.enc enc.val } }
      (.capture enc.val (r.pos + input.moved) t))

/-- A capture arrives at its encoder's queue, or is lost on a full one (R319). DESIGN CHOICE (log 108): the queue stands on the logic
side. -/
def State.takeCapture (s : State) (e : Nat) (pos : Word) (t : Time) : State :=
  let r := s.encRt e
  if r.queue.length < 8 then { s with fio := { s.fio with enc := tput {} { r with queue := r.queue ++ [(pos, t)] } s.fio.enc e } }
  else State.raise { s with fio := { s.fio with capLost := satInc 0xFFFF s.fio.capLost } } 0x4F (BitVec.ofNat 64 e)

/-- ENCODER_FAULT: event 0x4D, and the encoder's bit of ENC_FAULT (R320). -/
def execEncoderFault (enc : Fin 16) (s : State) : Host.Outcome State Fault Refusal :=
  .next ({ s with fio := { s.fio with encFault := putBit s.fio.encFault enc.val true } }.fieldRaise 0x4D
    (BitVec.ofNat 64 enc.val))

/-- CAP_READ: parameter 0x002 of FIO returns and frees the oldest capture entry; an empty queue is refused with 0x09
(R319, R330). -/
def execCapRead (p : Pair) (s : State) : Host.Outcome State Fault Refusal :=
  match s.takeParam p 2 8 2 with
  | none => .next s
  | some e =>
    if e.value ≥ 16 then .next (s.finish p.val e.sub 0x02 0)
    else
      let r := s.encRt e.value
      match r.queue with
      | [] => .next (s.finish p.val e.sub 0x09 0)
      | (pos, t) :: rest =>
        .next (State.finishWith { s with fio := { s.fio with enc := tput {} { r with queue := rest } s.fio.enc e.value } }
          p.val e.sub 0 (BitVec.ofNat 64 pos.toNat) (canonU t.toNat))

/-! ### Pulse outputs -/

/-- AXIS_MOVE_END: the move stops on its target count; a move in the opposite direction that waited for the stop begins
from where the axis has come to rest (R324). -/
def execAxisMoveEnd (axis : Fin 16) (s : State) : Host.Outcome State Fault Refusal :=
  let r := s.pulRt axis.val
  if !r.moving then .next s
  else
    match r.next with
    | none => .next (s.modPul axis.val (fun r => { r with
        pos := BitVec.ofInt 40 r.target, moving := false }))
    | some (profile, target) =>
      let s := s.modPul axis.val (fun r => { r with pos := BitVec.ofInt 40 r.target, moving := false })
      .next (s.axisBegin axis.val profile target)

end Sys2Proof.Machine
end

