-- ==== Sys2Proof/Machine/Demand.lean ====
section
/-! DEFINITION. What demands a safety group (R466 to R468, R477, R484 to R487): causes and permits, safety inputs, the copies of remote
safety frames. -/

namespace Sys2Proof.Machine

/-! ### Causes and permits (R466, R489, R494) -/

/-- Any cause demands. -/
def Demand.any (d : Demand) : Bool :=
  d.localIn || d.remote || d.mismatch || d.absence || d.disagree || d.sealCause || d.cfgCause || d.powerUp

/-- The causes as bits, bit c for cause c of 0x80. -/
def Demand.bits (d : Demand) : Nat :=
  2 * d.localIn.toNat + 4 * d.remote.toNat + 8 * d.mismatch.toNat + 16 * d.absence.toNat + 32 * d.disagree.toNat +
    64 * d.sealCause.toNat + 128 * d.cfgCause.toNat + 256 * d.powerUp.toNat

/-- The lowest cause that is in a and not in b; 0 for none. -/
def newCause (a b : Nat) : Nat := ((List.range 9).find? (fun c => Nat.testBit a c && !Nat.testBit b c)).getD 0

/-- The state with the safety part changed. -/
def State.setSaf (s : State) (f : SafState) : State := { s with saf := f }

/-- A group takes new causes in both halves: a cause takes the half's permit away, and Fen Gate permits as soon as its own have
ended. 0x80 tells a group that stops being permitted, with the new cause, or that is permitted again, with the cause that
ended last (R466, R467, R489, R494). -/
def State.putGroup (s : State) (g : Nat) (guard fg : Demand) : State :=
  let r := s.saf.group g
  let was := r.guardPermit && r.fgPermit
  let old := r.guard.bits ||| r.fg.bits
  let new := guard.bits ||| fg.bits
  let ended := newCause old new
  let r' : GroupRt := { r with
    guard := guard, fg := fg, guardPermit := r.guardPermit && !guard.any
    fgPermit := s.saf.fgVerified && !fg.any, wait := r.wait && !guard.any
    lastCause := if ended ≠ 0 then ended else r.lastCause }
  let s := s.setSaf { s.saf with groups := tput {} r' s.saf.groups g }
  let now := r'.guardPermit && r'.fgPermit
  if was && !now then (s.countLedger 16).fieldRaise 0x80 (BitVec.ofNat 64 (g + 256 + newCause new old * 4096))
  else if !was && now then s.fieldRaise 0x80 (BitVec.ofNat 64 (g + r'.lastCause * 4096))
  else s

/-- All groups take new causes, and every output follows its gate. -/
def State.putGroups (s : State) (f : Nat → GroupRt → Demand × Demand) : State :=
  let t := (List.range 16).foldl (fun (s : State) g =>
    let x := f g (s.saf.group g)
    s.putGroup g x.1 x.2) s
  if t.saf.groups = s.saf.groups then t else t.regate

/-- Guard permits group g (R489): its causes have ended. -/
def State.guardPermits (s : State) (g : Nat) : State :=
  let r := s.saf.group g
  let r' := { r with guardPermit := true, wait := false }
  let t := s.setSaf { s.saf with groups := tput {} r' s.saf.groups g }
  if r.fgPermit && !r.guardPermit then (t.fieldRaise 0x80 (BitVec.ofNat 64 (g + r.lastCause * 4096))).regate else t

/-! ### Safety inputs (R471, R483, R484) -/

/-- The active SIN row of safety input i. -/
def SafState.sinRow (f : SafState) (i : Nat) : Option (BitVec 128) :=
  (f.active.find? (fun x => decide (rowKind x.2 = 9) && decide (rowOp x.2 4 1 = i))).map (·.2)

/-- The run-time state of safety input i. -/
def SafState.sinRt (f : SafState) (i : Nat) : SinRt := tget {} f.sin i

/-- Channel B of an input shows demand under a TYPE. -/
def sinB (type : Nat) (bClosed : Bool) : Bool := if type = 1 then bClosed else !bClosed

/-- The state of input i as SAF_INPUTS codes it (R484). -/
def SafState.sinCode (f : SafState) (i : Nat) : Nat :=
  if (f.sinRow i).isNone then 3
  else match (f.sinRt i).st with | .demand => 0 | .ok => 1 | .discrepancy => 2 | .notFitted => 0

/-- An input as its active row, of a TYPE, finds it (R484): one newly fitted starts in DEMAND, one in OK demands as soon as a channel
shows demand under the TYPE; DISC runs where one channel alone does. -/
def sinFit (type : Nat) (r : SinRt) : SinRt :=
  let dA := !r.aClosed
  let dB := sinB type r.bClosed
  let demand (both : Bool) : SinRt :=
    { r with st := .demand, waiting := Bool.xor dA dB, bothShown := (dA && dB) || (Bool.xor dA dB && both) }
  match r.st with
  | .ok => if dA || dB then demand false else r
  | .demand => demand r.bothShown
  | .discrepancy => if dA && dB then demand true else r
  | .notFitted => demand false

/-- The inputs as the active rows find them. -/
def SafState.fitInputs (f : SafState) : SafState :=
  { f with sin := (List.range 4).foldl (fun t i =>
      let r : SinRt := tget {} t i
      match f.sinRow i with
      | some w => tput {} (sinFit (rowOp w 5 1) r) t i
      | none => tput {} { r with st := .notFitted, waiting := false, bothShown := false } t i) f.sin }

/-- One channel of a fitted input has changed (R484): its new state, and whether a discrepancy has been found. -/
def sinStep (type : Nat) (r : SinRt) : SinRt × Bool :=
  let dA := !r.aClosed
  let dB := sinB type r.bClosed
  match r.st with
  | .ok => if dA || dB then ({ r with st := .demand, waiting := !(dA && dB), bothShown := dA && dB }, false) else (r, false)
  | .demand =>
    if dA && dB then ({ r with waiting := false, bothShown := true }, false)
    else if dA || dB then ({ r with waiting := true }, false)
    else if r.bothShown then ({ r with st := .ok, waiting := false, bothShown := false }, false)
    else ({ r with st := .discrepancy, waiting := false }, true)
  | .discrepancy =>
    if dA && dB then ({ r with st := .demand, waiting := false, bothShown := true }, false) else (r, false)
  | .notFitted => (r, false)

/-- A discrepancy of input i is found: 0x84 (R484). -/
def State.discrepancy (s : State) (i : Nat) : State :=
  (s.setSaf { s.saf with discrepCnt := satInc 0xFFFF s.saf.discrepCnt }).fieldRaise 0x84 (BitVec.ofNat 64 i)

/-! ### What demands a group now (R484, R486, R487) -/

/-- Local inputs demand group g. -/
def SafState.localDemand (f : SafState) (g : Nat) : Bool :=
  (List.range 4).any (fun i => match f.sinRow i with
    | some w => Nat.testBit (rowOp w 6 2) g && decide ((f.sinRt i).st ≠ .ok)
    | none => false)

/-- The active REMOTE rows that demand group g: station and remote group. -/
def SafState.remoteRows (f : SafState) (g : Nat) : List (Nat × Nat) :=
  ((f.activeKind 10).filter (fun x => Nat.testBit (rowOp x.2 8 2) g)).map (fun x => (rowOp x.2 4 2, rowOp x.2 6 1))

/-- What is kept of a remote station. -/
def SafState.rem (f : SafState) (station : Nat) : RemoteRt := tget {} f.remote station

/-- A copy shows a remote group demanded (R398). -/
def copyDemands (copy : List Byte) (group : Nat) : Bool := Nat.testBit (leAt copy 6 2) group

/-- Remote, mismatch and absence causes of group g, as Guard sees them: a demand that a copy has shown ends with two matching
copies (R487). -/
def SafState.guardRemote (f : SafState) (g : Nat) : Bool × Bool × Bool :=
  let l := f.remoteRows g
  (l.any (fun x => Nat.testBit (f.rem x.1).held.toNat x.2),
   l.any (fun x => (f.rem x.1).mismatch), l.any (fun x => (f.rem x.1).absence || (f.rem x.1).watch))

/-- Remote and absence causes of group g, as Fen Gate sees them, from the pair alone (R468, R486). -/
def SafState.fgRemote (f : SafState) (g : Nat) : Bool × Bool :=
  let l := f.remoteRows g
  (l.any (fun x => copyDemands (f.rem x.1).pairCopy x.2), l.any (fun x => (f.rem x.1).fgWatch))

/-- Both halves take up what the inputs and the remote stations demand now, at once (R467, R468). -/
def State.safUpdate (s : State) : State :=
  let f := s.saf
  s.putGroups (fun g r =>
    let loc := f.localDemand g
    let a := f.guardRemote g
    let b := f.fgRemote g
    ({ r.guard with localIn := loc, remote := a.1, mismatch := a.2.1, absence := a.2.2 },
     { r.fg with localIn := loc, remote := b.1, absence := b.2 }))

/-- A configuration fault arises, or stands, where there is an offence: both halves demand every group with cause 7, every output
in no group is held off, and 0x8A is raised (R477). -/
def State.cfgCheck (s : State) : State :=
  match s.saf.cfgOffence with
  | none => s
  | some k =>
    if s.saf.cfgFault then s
    else
      let s := (s.setSaf { s.saf with cfgFault := true }).countLedger 22
      let s := s.putGroups (fun _ r => ({ r.guard with cfgCause := true }, { r.fg with cfgCause := true }))
      s.regate.fieldRaise 0x8A (BitVec.ofNat 64 k)

/-- The groups that a rule application holds demanded, until SEAL[15] is 0 (R492). -/
def SafState.heldGroups (f : SafState) (v : BitVec 16) : BitVec 16 := if tbit v 15 then f.rulesHold else 0

/-! ### Safety frames (R398, R485 to R487) -/

/-- SCRC over bytes 0 to 27 (R398). -/
def scrc (station : Nat) (b : List Byte) : Nat :=
  ((slice b 0 28).foldl (crcByteR 0xEDB88320) (0xFFFFF000 + station)) ^^^ 0xFFFFFFFF

/-- SCNT of a copy. -/
def copyScnt (b : List Byte) : Word := BitVec.ofNat 32 (leAt b 0 4)

/-- A SCNT advances on the last one accepted. -/
def advances (last : Option Word) (x : Word) : Bool :=
  match last with
  | some l => decide ((x - l).toInt > 0)
  | none => true

/-- The newest SCNT accepted of a station on either path. -/
def RemoteRt.newest (r : RemoteRt) : Option Word :=
  match r.wagScnt, r.pairScnt with
  | some a, some b => some (if (b - a).toInt > 0 then b else a)
  | some a, none => some a
  | none, b => b

/-- An active REMOTE row names the station. -/
def SafState.hears (f : SafState) (station : Nat) : Bool := (f.activeKind 10).any (fun x => decide (rowOp x.2 4 2 = station))

/-- A path fault or watch expiry: counted in the ledger, 0x83 (R487, R494, R582). -/
def State.pathFault (s : State) (station bit : Nat) : State := (s.countLedger 23).fieldRaise 0x83 (BitVec.ofNat 64 (station + 2 ^ bit))

/-- A copy of a safety frame has arrived on a path (R486, R487). -/
def State.takeCopy (s : State) (pair : Bool) (b : List Byte) : State :=
  let stn := leAt b 12 2
  let f := s.saf
  let r := f.rem stn
  let x := copyScnt b
  if !s.pw.fieldUp || !f.fgVerified || !sealRemote f.sealRead || b.length ≠ 32 || !f.hears stn || leAt b 28 4 ≠ scrc stn b ||
      !advances (if pair then r.pairScnt else r.wagScnt) x then s
  else
    let r := if pair then { r with pairScnt := some x, pairCopy := b, fgWatch := false }
      else { r with wagScnt := some x, wagCopy := b }
    let shown := BitVec.ofNat 16 (leAt b 6 2)
    let r := { r with held := r.held ||| shown }
    let both := decide (r.pairScnt = r.wagScnt)
    if both && decide (r.pairCopy = r.wagCopy) then
      let r := { r with matched := some x, held := shown, mismatch := false }
      let r := if advances r.faultAt x then { r with absence := false, watch := false, faultAt := none } else r
      State.safUpdate (s.setSaf { f with remote := tput {} r f.remote stn })
    else if both then
      let s := s.setSaf { f with
        remote := tput {} { r with mismatch := true } f.remote stn, mismatchCnt := satInc 0xFFFF f.mismatchCnt }
      s.safUpdate.pathFault stn 12
    else State.safUpdate (s.setSaf { f with remote := tput {} r f.remote stn })

end Sys2Proof.Machine
end

