-- ==== Sys2Proof/Machine/Package.lean ====
section
/-! DEFINITION. Packages and their signatures (R562, R565 to R567), which the logic side and the field die both check. -/

namespace Sys2Proof.Machine

/-- A section of a package: where it lies (bytes 8 to 47 of the header, an offset and a length of 5 bytes for each). -/
def pkgSection (b : List Byte) (i : Nat) : Nat × Nat := (leAt b (8 + 10 * i) 5, leAt b (13 + 10 * i) 5)
/-- The bytes of section i: 0 envelope, 1 manifest, 2 signatures, 3 body. -/
def pkgBytes (b : List Byte) (i : Nat) : List Byte := slice b (pkgSection b i).1 (pkgSection b i).2

/-- One part of a manifest (R566). -/
structure PkgPart where
  type    : Nat
  flags   : Nat
  version : Word
  off     : Nat
  len     : Nat
  tgtLen  : Nat
  srcHash : BitVec 256
  tgtHash : BitVec 256
  iv      : List Byte
  tag     : List Byte
  spare   : Nat
  deriving DecidableEq, Repr

/-- Part i of a manifest. -/
def manPart (m : List Byte) (i : Nat) : PkgPart :=
  let e := slice m (64 + 128 * i) 128
  { type := leAt e 0 1, flags := leAt e 1 1, version := BitVec.ofNat 32 (leAt e 4 4), off := leAt e 8 8, len := leAt e 16 8
    tgtLen := leAt e 24 8, srcHash := BitVec.ofNat 256 (leAt e 32 32), tgtHash := BitVec.ofNat 256 (leAt e 64 32)
    iv := slice e 96 12, tag := slice e 108 16, spare := leAt e 2 2 + leAt e 124 4 }

/-- The parts of a manifest. -/
def manParts (m : List Byte) : List PkgPart := (List.range (leAt m 16 1)).map (manPart m)

/-- A part is a difference. -/
def PkgPart.diff (p : PkgPart) : Bool := decide (p.flags = 1)

/-- The signature blocks of a package: signer, key index, algorithm, signature; none where they do not parse (R565). -/
def sigBlocks : Nat → List Byte → Option (List (Nat × Nat × Nat × List Byte))
  | 0, b => if b.isEmpty then some [] else none
  | n + 1, b =>
    if b.isEmpty then some []
    else
      let alg := leAt b 2 1
      let len := if alg = 44 then 2420 else 3309
      if (alg = 44 || alg = 65) && decide (b.length ≥ 8 + len) && decide (leAt b 3 5 = 0) &&
          (decide (leAt b 0 1 = 1) || decide (leAt b 0 1 = 2)) && decide (leAt b 1 1 < 4) then
        (sigBlocks n (b.drop (8 + len))).map (fun r => (leAt b 0 1, leAt b 1 1, alg, slice b 8 len) :: r)
      else none

/-- Byte length of an ML-DSA public key (FIPS 204). -/
def keyLen (alg : Nat) : Nat := if alg = 44 then 1312 else 1952

/-- A signature block verifies over the manifest under the key it names, and is strong enough (R562, R567). -/
def LcyState.blockOk (l : LcyState) (m : List Byte) (x : Nat × Nat × Nat × List Byte) : Bool :=
  match (if x.1 = 1 then l.makerKeys else l.ownerKeys)[x.2.1]? with
  | some k => decide (k.length = keyLen x.2.2.1) && Config.mldsaVerify k m x.2.2.2 && (!l.minSig || decide (x.2.2.1 = 65))
  | none => false

/-- Parts that the owner signs (R567). -/
def ownerPart (type : Nat) : Bool := decide (type = 5) || decide (type = 7) || decide (type = 8)

/-- The signatures that a package needs are there, and every one of them verifies (R558, R567). -/
def LcyState.signedOk (l : LcyState) (m : List Byte) (sigs : List Byte) : Bool :=
  match sigBlocks 2 sigs with
  | none => false
  | some bs =>
    let has (k : Nat) : Bool := bs.any (fun x => decide (x.1 = k))
    let stands := decide (l.st = .maker) || decide (l.st = .return_) || decide (l.st = .blank)
    let owner := (manParts m).any (fun p => ownerPart p.type) || decide (l.st = .ownerLocked)
    let maker := (manParts m).any (fun p => !ownerPart p.type)
    bs.all (l.blockOk m) && (!maker || has 1) && (!owner || has 2 || (stands && has 1))

end Sys2Proof.Machine
end

