-- ==== Sys2Proof/Machine/BlkImage.lean ====
section
/-! DEFINITION. The block image (R223, R234 to R240): its header, its sections, its code, and what LOAD_IMAGE checks
(R238). An image is kept as the bytes the host loaded and read where it is used. -/

namespace Sys2Proof.Machine

/-! ### Header (R236) -/

/-- IMAGE_ID; 0 for an empty bank. -/
def iId (b : List Byte) : Nat := leAt b 8 4
/-- LENGTH. -/
def iLength (b : List Byte) : Nat := leAt b 12 4
/-- PERIOD_US. -/
def iPeriod (b : List Byte) : Nat := leAt b 16 4
/-- INST_WORDS. -/
def iInstWords (b : List Byte) : Nat := leAt b 20 4
/-- WCET_NS. -/
def iWcet (b : List Byte) : Nat := leAt b 24 4
/-- N_INST. -/
def iNInst (b : List Byte) : Nat := leAt b 28 2
/-- N_IN. -/
def iNIn (b : List Byte) : Nat := leAt b 30 2
/-- N_OUT. -/
def iNOut (b : List Byte) : Nat := leAt b 32 2
/-- N_CONST. -/
def iNConst (b : List Byte) : Nat := leAt b 34 2
/-- N_CODE. -/
def iNCode (b : List Byte) : Nat := leAt b 36 4
/-- OFF_INST. -/
def iOffInst (b : List Byte) : Nat := leAt b 40 4
/-- OFF_IN. -/
def iOffIn (b : List Byte) : Nat := leAt b 44 4
/-- OFF_OUT. -/
def iOffOut (b : List Byte) : Nat := leAt b 48 4
/-- OFF_CONST. -/
def iOffConst (b : List Byte) : Nat := leAt b 52 4
/-- OFF_CODE. -/
def iOffCode (b : List Byte) : Nat := leAt b 56 4

/-! ### Sections (R237) -/

/-- One instance: INST_ID, TYPE, WORDS, OFFSET, INIT. -/
structure Inst where
  id : Nat
  type : Nat
  words : Nat
  off : Nat
  init : Nat
  deriving DecidableEq, Repr

/-- Instance table entry i. -/
def instAt (b : List Byte) (i : Nat) : Inst :=
  let o := iOffInst b + 16 * i
  { id := leAt b o 4, type := leAt b (o + 4) 2, words := leAt b (o + 6) 2, off := leAt b (o + 8) 4
    init := leAt b (o + 12) 4 }
/-- The instance table. -/
def insts (b : List Byte) : List Inst := (List.range (iNInst b)).map (instAt b)

/-- The input list. -/
def inWordsOf (b : List Byte) : List Nat := (List.range (iNIn b)).map (fun i => leAt b (iOffIn b + 4 * i) 4 % 4096)

/-- One output-list entry: word, HOLD, safe value. -/
structure OutEntry where
  word : Nat
  hold : Bool
  safe : Int
  deriving DecidableEq, Repr

/-- The output list. -/
def outEntries (b : List Byte) : List OutEntry :=
  (List.range (iNOut b)).map (fun i =>
    let o := iOffOut b + 16 * i
    { word := leAt b o 2 % 4096, hold := decide (leAt b (o + 2) 1 % 2 = 1), safe := sext 40 (leAt b (o + 8) 8) })

/-- Constant i of the pool. -/
def constAt (b : List Byte) (i : Nat) : Int := sext 40 (leAt b (iOffConst b + 8 * i) 8)
/-- Code word i. -/
def codeAt (b : List Byte) (i : Nat) : Nat := leAt b (iOffCode b + 4 * i) 4

/-- Words of a library type; none for a TYPE that does not exist, `some 0` for VAR, whose size is its own (R235). -/
def typeWords : Nat → Option Nat
  | 0x01 => some 0
  | 0x10 => some 5 | 0x11 => some 5 | 0x12 => some 5
  | 0x20 => some 6 | 0x21 => some 6 | 0x22 => some 9
  | 0x30 => some 3 | 0x31 => some 3 | 0x40 => some 3 | 0x41 => some 3
  | 0x50 => some 4 | 0x51 => some 4
  | 0x60 => some 12 | 0x61 => some 5
  | _ => none

/-- Cost of a CALL of a type in ns, beyond the 4 ns of the operation (R235). -/
def typeCost : Nat → Nat
  | 0x10 => 40 | 0x11 => 40 | 0x12 => 40
  | 0x20 => 40 | 0x21 => 40 | 0x22 => 60
  | 0x60 => 120 | 0x61 => 60
  | _ => 20

/-- A timer type (R238). -/
def isTimer (type : Nat) : Bool := decide (type = 0x10) || decide (type = 0x11) || decide (type = 0x12)

/-! ### Checks 1 to 3 of R238 -/

/-- A size limit of R236 is exceeded. -/
def imageTooLarge (len : Nat) (b : List Byte) : Bool :=
  decide (len > 65536) || decide (iLength b > 65536) || decide (iInstWords b > 261120) || decide (iNInst b > 8192) ||
    decide (iNIn b > 4096) || decide (iNOut b > 4096) || decide (iNConst b > 8192) || decide (iNCode b > 16384)

/-- Index of the first constant or safe value, of the entries wholly inside LEN and LENGTH, that is not canonical, with
bit 31 (R95, R238). -/
def imageNoncanon (len : Nat) (b : List Byte) : Option Nat :=
  let lim := min len (iLength b)
  let cs := (List.range (iNConst b)).filterMap (fun i =>
    let o := iOffConst b + 8 * i
    if decide (o + 8 ≤ lim) && !isCanonS (leAt b o 8) then some (o / 8) else none)
  let os := (List.range (iNOut b)).filterMap (fun i =>
    let o := iOffOut b + 16 * i
    if decide (o + 16 ≤ lim) && !isCanonS (leAt b (o + 8) 8) then some ((o + 8) / 8) else none)
  match (cs ++ os) with
  | [] => none
  | x :: r => some (r.foldl min x + 2 ^ 31)

/-- One section as the header gives it: the header offset of its OFF field, its start, its bytes. -/
def imageSections (b : List Byte) : List (Nat × Nat × Nat) :=
  [(40, iOffInst b, 16 * iNInst b), (44, iOffIn b, 4 * iNIn b), (48, iOffOut b, 16 * iNOut b),
   (52, iOffConst b, 8 * iNConst b), (56, iOffCode b, 4 * iNCode b)]

/-- A section is out of place by itself. -/
def sectionMisplaced (length : Nat) (x : Nat × Nat × Nat) : Bool :=
  decide (x.2.1 % 8 ≠ 0) || decide (x.2.1 + x.2.2 > length) || (decide (x.2.2 > 0) && decide (x.2.1 < 64))

/-- Two sections that are not empty overlap. -/
def sectionsOverlap (x y : Nat × Nat × Nat) : Bool :=
  decide (x.2.2 > 0) && decide (y.2.2 > 0) && decide (x.2.1 < y.2.1 + y.2.2) && decide (y.2.1 < x.2.1 + x.2.2)

/-- OFF fields at fault: out of place, or overlapping a section that the header names before. -/
def sectionFaults (length : Nat) (before : List (Nat × Nat × Nat)) : List (Nat × Nat × Nat) → List Nat
  | [] => []
  | x :: r =>
    (if sectionMisplaced length x || before.any (sectionsOverlap x) then [x.1] else []) ++
      sectionFaults length (before ++ [x]) r

/-- The CRC of the image, its CRC field taken as zero (R236). -/
def imageCrc (b : List Byte) : Nat := crc32c (b.take 60 ++ [0, 0, 0, 0] ++ b.drop 64)

/-- Byte offsets of the header fields at fault, rising. -/
def headerFaults (id len : Nat) (b : List Byte) : List Nat :=
  let f (bad : Bool) (o : Nat) : List Nat := if bad then [o] else []
  f (decide (leAt b 0 4 ≠ 0x4B425841)) 0 ++ f (decide (leAt b 4 2 ≠ 1)) 4 ++ f (decide (leAt b 6 2 ≠ 0)) 6 ++
    f (decide (iId b = 0) || decide (iId b ≠ id)) 8 ++
    f (decide (iLength b % 8 ≠ 0) || decide (iLength b ≠ len)) 12 ++
    f (decide (iPeriod b < 100) || decide (iPeriod b > 1000000) || decide (iPeriod b % 100 ≠ 0)) 16 ++
    f (decide (iInstWords b = 0)) 20 ++ f (decide (iNInst b = 0)) 28 ++ f (decide (iNCode b = 0)) 36 ++
    sectionFaults (iLength b) [] (imageSections b) ++
    f (decide (leAt b 60 4 ≠ imageCrc b)) 60

/-- Byte offsets at fault in the instance table; before lists the entries already passed. -/
def instFaults (b : List Byte) (o : Nat) (before : List Inst) : List Inst → List Nat
  | [] => []
  | x :: r =>
    let bad : List Nat :=
      if before.any (fun y => decide (y.id = x.id)) then [o]
      else match typeWords x.type with
        | none => [o + 4]
        | some n =>
          if (if n = 0 then decide (x.words = 0) else decide (x.words ≠ n)) then [o + 6]
          else if decide (x.off + x.words > iInstWords b) ||
              before.any (fun y => decide (x.off < y.off + y.words) && decide (y.off < x.off + x.words)) then [o + 8]
          else if decide (x.init ≠ 0xFFFFFFFF) && decide (x.init + x.words > iNConst b) then [o + 12]
          else []
    bad ++ instFaults b (o + 16) (before ++ [x]) r

/-- Byte offsets at fault in the input list. -/
def inFaults (o : Nat) (before : List Nat) : List Nat → List Nat
  | [] => []
  | w :: r => (if decide (w ≥ 4096) || before.contains w then [o] else []) ++ inFaults (o + 4) (before ++ [w]) r

/-- Byte offsets at fault in the output list: each entry its word, byte 2, and bytes 3 to 7. -/
def outFaults (o : Nat) (before : List Nat) : List (Nat × Nat × Nat) → List Nat
  | [] => []
  | w :: r =>
    (if decide (w.1 ≥ 4096) || before.contains w.1 then [o]
     else if w.2.1 > 1 then [o + 2] else if w.2.2 ≠ 0 then [o + 3] else []) ++ outFaults (o + 16) (before ++ [w.1]) r

/-- Byte offset of the first fault of check 3. -/
def imageFault (id len : Nat) (b : List Byte) : Option Nat :=
  match headerFaults id len b with
  | o :: _ => some o
  | [] =>
    let l := instFaults b (iOffInst b) [] (insts b) ++
      inFaults (iOffIn b) [] ((List.range (iNIn b)).map (fun i => leAt b (iOffIn b + 4 * i) 4)) ++
      outFaults (iOffOut b) [] ((List.range (iNOut b)).map (fun i =>
        let o := iOffOut b + 16 * i
        (leAt b o 2, leAt b (o + 2) 1, leAt b (o + 3) 5)))
    match l with
    | [] => none
    | x :: r => some (r.foldl min x)

/-! ### Code words (R239, R240) -/

/-- OP. -/
def cOp (w : Nat) : Nat := w / 2 ^ 26 % 64
/-- D. -/
def cD (w : Nat) : Nat := w / 2 ^ 22 % 16
/-- A. -/
def cA (w : Nat) : Nat := w / 2 ^ 18 % 16
/-- B. -/
def cB (w : Nat) : Nat := w / 2 ^ 14 % 16
/-- Bits 13:0 of form R. -/
def cLow (w : Nat) : Nat := w % 2 ^ 14
/-- IMM of form I. -/
def cImm (w : Nat) : Nat := w % 2 ^ 18
/-- ADDR, OFF or IDX of forms M, J and C. -/
def cAddr (w : Nat) : Nat := w % 2 ^ 22

/-- Cost of an operation in ns, a CALL's type apart (R240). -/
def opCost (op : Nat) : Nat :=
  match op with
  | 0x04 => 4 | 0x05 => 4 | 0x06 => 4 | 0x07 => 6 | 0x08 => 6 | 0x09 => 4 | 0x0A => 4 | 0x0B => 4 | 0x0C => 4
  | 0x0D => 4 | 0x13 => 4 | 0x14 => 4 | 0x15 => 40 | 0x16 => 40 | 0x2D => 4 | 0x2E => 4
  | _ => 2

/-- Which of D, A, B a form R operation uses; none where the operation is not of form R. -/
def rUses (op : Nat) : Option (Bool × Bool × Bool) :=
  match op with
  | 0x01 => some (false, false, false)
  | 0x2F => some (false, false, false)
  | 0x02 => some (true, true, false)
  | 0x17 => some (true, true, false)
  | 0x18 => some (true, true, false)
  | 0x1F => some (true, true, false)
  | 0x28 => some (true, true, false)
  | 0x12 => none
  | 0x23 => none
  | _ => if (decide (0x0E ≤ op) && decide (op ≤ 0x22)) || (decide (0x24 ≤ op) && decide (op ≤ 0x29)) then
      some (true, true, true) else none

/-- What a code word is checked against: INST_WORDS, the covered ranges, the pool size, the word lists, the instances,
the code size. -/
structure CodeCtx where
  insts : List Inst
  ins : List Nat
  outs : List Nat
  nConst : Nat
  nCode : Nat
  deriving DecidableEq, Repr

/-- The instance-area word is covered by an instance (R237). -/
def covered (l : List Inst) (a : Nat) : Bool := l.any (fun x => decide (x.off ≤ a) && decide (a < x.off + x.words))

/-- Code word w at index i is valid by itself (R238 to R243). -/
def codeWordOk (c : CodeCtx) (i w : Nat) : Bool :=
  let op := cOp w
  match rUses op with
  | some (d, a, b) =>
    (d || decide (cD w = 0)) && (a || decide (cA w = 0)) && (b || decide (cB w = 0)) &&
      (if op = 0x14 then decide (cLow w ≤ 39) else decide (cLow w = 0))
  | none =>
    match op with
    | 0x03 => decide (cA w = 0)
    | 0x04 => decide (cAddr w < c.nConst)
    | 0x05 => covered c.insts (cAddr w)
    | 0x06 => covered c.insts (cAddr w)
    | 0x07 => true
    | 0x08 => true
    | 0x09 => c.ins.contains (cAddr w)
    | 0x0A => c.ins.contains (cAddr w)
    | 0x0B => c.outs.contains (cAddr w)
    | 0x0C => c.outs.contains (cAddr w)
    | 0x0D => decide (cA w = 0) && decide (cImm w ≤ 9)
    | 0x12 => true
    | 0x23 => decide (cImm w ≤ 39)
    | 0x2A => decide (cD w = 0) && decide (cAddr w ≥ 1) && decide (i + cAddr w < c.nCode)
    | 0x2B => decide (cAddr w ≥ 1) && decide (i + cAddr w < c.nCode)
    | 0x2C => decide (cAddr w ≥ 1) && decide (i + cAddr w < c.nCode)
    | 0x2D => decide (cD w = 0) &&
        (match c.insts[cAddr w]? with
         | some x => decide (x.type ≠ 1)
         | none => false)
    | 0x2E => decide (cA w = 0) && decide (cImm w < 256)
    | _ => false

/-- The paths that reach a code word: the largest cost, and the timers called on one of them. -/
structure PathIn where
  cost : Nat
  called : List Nat
  deriving DecidableEq, Repr

/-- Two sets of paths that meet. -/
def PathIn.join (a b : PathIn) : PathIn :=
  { cost := max a.cost b.cost, called := a.called ++ b.called.filter (fun x => !a.called.contains x) }

/-- The paths that meet at index i: from the word before and from the jumps waiting. -/
def pathsAt (i : Nat) (cur : Option PathIn) (jumps : List (Nat × PathIn)) : Option PathIn :=
  (jumps.filter (fun x => decide (x.1 = i))).foldl (fun c x => match c with
    | none => some x.2
    | some p => some (p.join x.2)) cur

/-- The walk over the code from index i (R223, R238): the first offending index, else the largest cost of a path to
END. -/
def codeWalk (c : CodeCtx) : Nat → Option PathIn → List (Nat × PathIn) → Nat → List Nat → Except Nat Nat
  | _, _, _, best, [] => .ok best
  | i, cur, jumps, best, w :: r =>
    let p := pathsAt i cur jumps
    let jumps := jumps.filter (fun x => decide (x.1 ≠ i))
    if !codeWordOk c i w then .error i
    else match p with
      | none => codeWalk c (i + 1) none jumps best r
      | some p =>
        let op := cOp w
        let callee := c.insts[cAddr w]?
        let timer : Bool := decide (op = 0x2D) && (match callee with | some x => isTimer x.type | none => false)
        if timer && p.called.contains (cAddr w) then .error i
        else
          let cost := p.cost + opCost op + (if op = 0x2D then (callee.map (fun x => typeCost x.type)).getD 0 else 0)
          let q : PathIn := { cost := cost, called := if timer then cAddr w :: p.called else p.called }
          if op = 0x2F then codeWalk c (i + 1) none jumps (max best cost) r
          else if op = 0x2A then codeWalk c (i + 1) none (jumps ++ [(i + cAddr w, q)]) best r
          else if r.isEmpty then .error i
          else
            codeWalk c (i + 1) (some q)
              (if op = 0x2B ∨ op = 0x2C then jumps ++ [(i + cAddr w, q)] else jumps) best r

/-- What the code of an image is checked against. -/
def codeCtx (b : List Byte) : CodeCtx :=
  { insts := insts b, ins := inWordsOf b, outs := (outEntries b).map (·.word), nConst := iNConst b, nCode := iNCode b }

/-- The code words of an image. -/
def codeWords (b : List Byte) : List Nat := (List.range (iNCode b)).map (codeAt b)

/-- Checks of R238 on an image that can hold its header: refused, or the image as it will stand in the bank. -/
def judgeImage (id len : Nat) (b : List Byte) : Judged (List Byte) :=
  if imageTooLarge len b then .refused 0x31 0
  else match imageNoncanon len b with
    | some i => .refused 0x04 (BitVec.ofNat 64 i)
    | none =>
      match imageFault id len b with
      | some o => .refused 0x30 (BitVec.ofNat 64 o)
      | none =>
        match codeWalk (codeCtx b) 0 (some { cost := 0, called := [] }) [] 0 (codeWords b) with
        | .error i => .refused 0x32 (BitVec.ofNat 64 i)
        | .ok best =>
          let wcet := 2000 + 4 * (iNIn b + iNOut b) + best
          if wcet = iWcet b then .ok b else .refused 0x33 (BitVec.ofNat 64 wcet)

/-! ### Retention (R234) -/

/-- Stores that the code can make in one scan, as R234 counts them. -/
def imageStores (b : List Byte) : Nat :=
  let is := insts b
  ((codeWords b).map (fun w =>
    match cOp w with
    | 0x06 => 1
    | 0x08 => 1
    | 0x0B => 1
    | 0x2D => (is[cAddr w]?.map (·.words)).getD 0
    | _ => 0)).foldl (· + ·) 0

/-- Retention need of an image in words; 0 for an empty bank. -/
def retNeed (b : List Byte) : Nat := if b.isEmpty then 0 else iInstWords b + 2 * iNOut b + 2 * imageStores b

end Sys2Proof.Machine
end

