-- ==== Sys2Proof/Machine/Conv.lean ====
section
/-! DEFINITION. Converters, scan lists, the sample word, spare rotation, urgent requests, calibration (R261 to R301,
R642). -/

namespace Sys2Proof.Machine

/-! ### Channel table (R264, R265, R268) -/

/-- RANGE. -/
def chRange (w : BitVec 64) : Nat := fld w 2 0
/-- DIFF. -/
def chDiff (w : BitVec 64) : Bool := tbit w 3
/-- RAW. -/
def chRaw (w : BitVec 64) : Bool := tbit w 4
/-- RALIGN. -/
def chLeft (w : BitVec 64) : Bool := tbit w 5
/-- TCTYPE. -/
def chTc (w : BitVec 64) : Nat := fld w 9 6
/-- CJC. -/
def chCjc (w : BitVec 64) : Bool := tbit w 10
/-- LIN. -/
def chLin (w : BitVec 64) : Bool := tbit w 11
/-- LIVE_ZERO. -/
def chLive (w : BitVec 64) : Bool := tbit w 12
/-- BURNOUT. -/
def chBurnout (w : BitVec 64) : Bool := tbit w 13
/-- SHUNT. -/
def chShunt (w : BitVec 64) : Bool := tbit w 14

/-- The fields of a channel entry by themselves, and DIFF against its neighbour (R264, R268). -/
def chanFieldsOk (chan : Sparse (BitVec 64)) (c : Nat) (w : BitVec 64) : Bool :=
  let r := chRange w
  let partner := chRange (tget 0 chan (c + 1))
  decide (fld w 63 15 = 0) && decide (r ≤ 5) && decide (chTc w ≤ 8) &&
    (!chDiff w || (decide (c % 2 = 0) && decide (partner = 0) && decide (r ≠ 0) && decide (r ≠ 3))) &&
    (chDiff w || (decide (r ≠ 4) && decide (r ≠ 5))) &&
    (!chCjc w || decide (chTc w ≠ 0)) &&
    (decide (r = 4) || (decide (chTc w = 0) && !chCjc w && !chBurnout w)) &&
    (!chLin w || decide (r = 5) || (decide (r = 4) && decide (chTc w ≠ 0))) &&
    (decide (r = 3) || (!chLive w && !chShunt w))

/-! ### Scan lists (R274, R275) -/

/-- The entry of list l at index e in a bank of lists. -/
def listEntry (t : Sparse (BitVec 64)) (l e : Nat) : BitVec 64 := tget 0 t (128 * l + e)
/-- EN of a header or an entry. -/
def leEn (w : BitVec 64) : Bool := tbit w 0
/-- LP of a header. -/
def lhLp (w : BitVec 64) : Bool := tbit w 1
/-- OFFS_NS of a header. -/
def lhOffs (w : BitVec 64) : Nat := fld w 15 2
/-- PIN. -/
def lePin (w : BitVec 64) : Bool := tbit w 1
/-- CHAN. -/
def leChan (w : BitVec 64) : Nat := fld w 9 2
/-- SLOT. -/
def leSlot (w : BitVec 64) : Nat := fld w 14 10
/-- OVS. -/
def leOvs (w : BitVec 64) : Nat := fld w 17 15
/-- ACC. -/
def leAcc (w : BitVec 64) : Nat := fld w 20 18
/-- DIV. -/
def leDiv (w : BitVec 64) : Nat := fld w 29 21
/-- PHASE. -/
def lePhase (w : BitVec 64) : Nat := fld w 38 30
/-- N = 2^(OVS + ACC). -/
def leN (w : BitVec 64) : Nat := 2 ^ (leOvs w + leAcc w)
/-- Slots per base period of a list (R273, R283). -/
def slotCount (h : BitVec 64) : Nat := if lhLp h then 2 else 20
/-- Slot length in ns. -/
def slotLen (h : BitVec 64) : Nat := if lhLp h then 10000 else 1000

/-- The header of a list is valid (R274). -/
def headerOk (h : BitVec 64) : Bool := decide (fld h 63 16 = 0) && decide (lhOffs h < slotLen h)

/-- A list may convert a channel (R263, R274). -/
def reachable (l c : Nat) : Bool :=
  decide (c ≤ 172) && (decide (l = 4) || decide (c ≥ 128) || decide (c / 32 = l))

/-- A scan entry with EN = 1 is valid in list l against a channel table (R275). -/
def scanEntryOk (chan : Sparse (BitVec 64)) (l : Nat) (h w : BitVec 64) : Bool :=
  let c := leChan w
  let lim := if lhLp h then 1 else 4
  decide (fld w 63 39 = 0) && reachable l c && decide (leOvs w ≤ lim) && decide (leAcc w ≤ 4) &&
    decide (leDiv w ≥ 1) && decide (500 % leDiv w = 0) && decide (lePhase w < leDiv w) &&
    decide (leSlot w + 2 ^ leOvs w ≤ slotCount h) &&
    (decide (c ≥ 128) || (decide (chRange (tget 0 chan c) ≠ 0) &&
      !(decide (c % 2 = 1) && chDiff (tget 0 chan (c - 1)))))

/-- The enabled entries of list l, with their indices. -/
def listRun (t : Sparse (BitVec 64)) (l : Nat) : List (Nat × BitVec 64) :=
  (t.filter (fun x => decide (128 * l < x.1) && decide (x.1 ≤ 128 * l + 64) && leEn x.2)).map
    (fun x => (x.1 - 128 * l, x.2))

/-- The channels that running lists name. -/
def namedChans (t : Sparse (BitVec 64)) : List Nat :=
  (List.range 5).flatMap (fun l => if leEn (listEntry t l 0) then (listRun t l).map (fun x => leChan x.2) else [])

/-- The first base period of the pattern in which two entries both execute (R274). -/
def bothDue (a b : BitVec 64) : Option Nat :=
  (List.range 500).find? (fun n => decide (n % leDiv a = lePhase a) && decide (n % leDiv b = lePhase b))

/-- The slot that two entries both claim, if any. -/
def sharedSlot (a b : BitVec 64) : Option Nat :=
  let s := max (leSlot a) (leSlot b)
  if s < min (leSlot a + 2 ^ leOvs a) (leSlot b + 2 ^ leOvs b) then some s else none

/-- The conflicts of a list: base period and slot of each pair of entries that claims one slot (R275). -/
def slotConflicts : List (Nat × BitVec 64) → List (Nat × Nat)
  | [] => []
  | a :: r =>
    (r.filterMap (fun b =>
      match sharedSlot a.2 b.2, bothDue a.2 b.2 with
      | some s, some n => some (n, s)
      | _, _ => none)) ++ slotConflicts r

/-- The first of a list of conflicts, by base period and then slot. -/
def firstConflict (l : List (Nat × Nat)) : Option (Nat × Nat) :=
  l.foldl (fun m x => match m with
    | none => some x
    | some y => if x.1 < y.1 || (decide (x.1 = y.1) && decide (x.2 < y.2)) then some x else m) none

/-- The first channel that breaks R268 in a channel table under a bank of lists. -/
def chanOffence (chan lists : Sparse (BitVec 64)) : Option Nat :=
  let named := namedChans lists
  match chan.find? (fun x => !chanFieldsOk chan x.1 x.2 ||
      (chCjc x.2 && !named.contains (160 + x.1 / 32)) ||
      (decide (chRange x.2 = 5) && !named.contains (164 + x.1 / 32))) with
  | some x => some x.1
  | none => named.find? (fun c => decide (c < 128) && (decide (chRange (tget 0 chan c) = 0) ||
      (decide (c % 2 = 1) && chDiff (tget 0 chan (c - 1)))))

/-- A channel table LOAD (R268, R276, R642): judged against the tables as accepted; it takes effect, and completes, at
a pattern start. -/
def State.loadChan (s : State) (l : List (Nat × BitVec 64)) : Judged State :=
  let chan := tload (fun _ => 0) s.cnv.chan l
  match chanOffence chan s.cnv.lists with
  | some c => .refused 0x40 (BitVec.ofNat 64 c)
  | none => .ok { s with cnv := { s.cnv with chan := chan } }

/-- A scan list LOAD (R275, R276). -/
def State.loadList (s : State) (l : Nat) (es : List (Nat × BitVec 64)) : Judged State :=
  let lists := tload (fun _ => 0) s.cnv.lists (es.map (fun x => (128 * l + x.1, x.2)))
  let h := listEntry lists l 0
  if !headerOk h || (listRun lists l).any (fun x => !scanEntryOk s.cnv.chan l h x.2) ||
      (chanOffence s.cnv.chan lists).isSome then .refused 0x40 (BitVec.ofNat 64 l)
  else match firstConflict (slotConflicts (listRun lists l)) with
    | some (n, k) => .refused 0x41 (BitVec.ofNat 64 (l + n * 2 ^ 16 + k * 2 ^ 32))
    | none => .ok { s with cnv := { s.cnv with lists := lists } }

/-- A LOAD that completes later is accepted now (R105). -/
def State.acceptLate (s : State) (p : Pair) (e : Entry) : Judged State → State
  | .ok s' => s'.accept p.val e.sub
  | .refused c r => s.finish p.val e.sub c r

/-- The scan lists and the channel table as accepted go to the field side (R17). -/
def State.sendScans (s : State) : State := s.sendDown (.scanTables s.cnv.lists s.cnv.chan s.cnv.scanNo)

/-- A load of them is accepted: it goes to the field side, and completes at the first pattern start at which it is there (R17, R276). -/
def State.pushScan (s : State) (p : Pair) (e : Entry) (list : Option Nat) : State :=
  State.sendScans { s with cnv := { s.cnv with
    scanNo := s.cnv.scanNo + 1
    patternLoads := s.cnv.patternLoads ++ [{ pair := p, sub := e.sub, count := e.count, list := list, no := s.cnv.scanNo + 1 }] } }

/-- CHANNEL_TABLE_LOAD: table 0x001 of CNV (R268, R276). -/
def doChannelTableLoad (p : Pair) (s : State) : Host.Outcome State Fault Refusal :=
  match s.takeLoad p 7 1 with
  | none => .next s
  | some e =>
    .next (s.acceptLate p e (match s.loadChan (withIndex e.first e.words64) with
      | .ok s' => .ok (s'.pushScan p e none)
      | .refused c r => .refused c r))

/-- SCAN_LIST_LOAD: tables 0x010 to 0x014 of CNV (R275, R276). -/
def doScanListLoad (p : Pair) (s : State) : Host.Outcome State Fault Refusal :=
  match s.takeOp p.val 1 1 with
  | none => .next s
  | some e =>
    if e.tblBlock ≠ 7 || e.tblNum < 0x10 || e.tblNum > 0x14 then .next s
    else
      .next (s.acceptLate p e (match s.loadList (e.tblNum - 0x10) (withIndex e.first e.words64) with
        | .ok s' => .ok (s'.pushScan p e (some (e.tblNum - 0x10)))
        | .refused c r => .refused c r))

/-! ### DAC table (R294, R499) -/

/-- A DAC entry of a LOAD: valid, and no RANGE change on a claimed or Drone-commanded DAC. -/
def dacEntryJudge (s : State) (x : Nat × BitVec 64) : Option Byte :=
  if dacRange x.2 = 3 || fld x.2 63 2 ≠ 0 then some 0x40
  else if decide (dacRange x.2 ≠ dacRange (tget 0 s.cnv.dac x.1)) && (holderOf s.fio.claims (0x1000 + x.1)).isSome then some 0x45
  else match s.seenLoop (0x1000 + x.1) with
    | some lp => if lp.range ≠ dacRange x.2 then some 0x45 else none
    | none => none

/-- A DAC table LOAD (R294). -/
def State.loadDac (s : State) (l : List (Nat × BitVec 64)) : Judged State :=
  match l.findSome? (fun x => (dacEntryJudge s x).map (fun c => (c, x.1))) with
  | some (c, d) => .refused c (BitVec.ofNat 64 d)
  | none => .ok (State.sendFio { s with cnv := { s.cnv with dac := tload (fun _ => 0) s.cnv.dac l } })

/-- DAC_TABLE_LOAD: table 0x002 of CNV (R294). -/
def doDacTableLoad (p : Pair) (s : State) : Host.Outcome State Fault Refusal :=
  match s.takeLoad p 7 2 with
  | none => .next s
  | some e => .next (s.settle p e (BitVec.ofNat 64 e.count) (s.loadDac (withIndex e.first e.words64)))

/-- The DAC table as the field side has it takes effect at a base period start: a DAC in a new range outputs count 0, at once or, where
its gate is closed, once it opens (R17, R294). -/
def State.applyDacTable (s : State) : State :=
  let old := s.cnv.dacEff
  let new := s.fio.fld.dac
  if old = new then s
  else
    (List.range 32).foldl (fun s d =>
      let r := dacRange (tget 0 new d)
      if dacRange (tget 0 old d) = r || (s.loopOn (0x1000 + d)).isSome || s.atSafe (48 + d) then s
      else if r = 0 then s.modDac d (fun q => { q with hiz := true, written := false })
      else s.dacTake d 0 s.time.shadow.ns) { s with cnv := { s.cnv with dacEff := new } }

/-! ### Calibration (R290 to R293) -/

/-- F of an input range (R265), and of a DAC range (R295). -/
def nominalF (range : Nat) : Int := match range with | 1 => 8000000 | 2 => 8000000 | 4 => 7812500 | _ => 5000000
/-- F of a DAC range: that of the input range with its scaling. -/
def nominalDacF (range : Nat) : Int := if range = 1 then 8000000 else 5000000

/-- A coefficient entry lies within the limits of R291. -/
def coefOk (f : Int) (c : BitVec 256) : Bool :=
  decide (coefGain c ≥ 4080218931) && decide (coefGain c ≤ 4509715661) &&
    decide (coefOffset c * 100 ≤ 2 * f * 256) && decide (-(2 * f * 256) ≤ coefOffset c * 100)

/-- The 256-bit entries of a LOAD. -/
def Entry.words256 (e : Entry) : List (BitVec 256) := (List.range e.count).map (entryAt 256 32 e.data)

/-- The calibration tables as accepted are the first MRAM copy, of the next generation (R291). -/
def CnvState.putCal (c : CnvState) : CnvState :=
  { c with cal0 := {
      good := true, gen := max c.cal0.gen c.cal1.gen + 1, coef := c.coef, dacCoef := c.dacCoef, skew := c.skew } }

/-- The calibration tables as accepted: written to the first copy, to apply 2 ms after acceptance (R291). -/
def State.pushCal (s : State) (p : Pair) (e : Entry) (c : CnvState) : State :=
  let due := tadd s.time.tb1.ns 2000000
  State.accept { s with cnv := { c.putCal with
    calLoads := c.calLoads ++ [{ load := { pair := p, sub := e.sub, count := e.count }, due := due, coef := c.coef,
                                 dacCoef := c.dacCoef, skew := c.skew }] } } p.val e.sub

/-- A coefficient LOAD with its canonical check (words C0 signed, C1 unsigned: R95) and limits (R291). -/
def State.coefLoad (s : State) (p : Pair) (e : Entry) (f : Nat → Int) (put : List (Nat × BitVec 256) → CnvState) : State :=
  match firstNoncanon 32 [(0, true), (1, false)] e.data with
  | some i => s.noteNoncanon.finish p.val e.sub 0x04 (BitVec.ofNat 64 i)
  | none =>
    let l := withIndex e.first e.words256
    match l.find? (fun x => !coefOk (f x.1) x.2) with
    | some x => s.finish p.val e.sub 0x44 (BitVec.ofNat 64 x.1)
    | none => s.pushCal p e (put l)

/-- COEFFICIENT_LOAD: table 0x003 of CNV, index 5 × channel + RANGE − 1 (R290, R291). -/
def doCoefficientLoad (p : Pair) (s : State) : Host.Outcome State Fault Refusal :=
  match s.takeLoad p 7 3 with
  | none => .next s
  | some e => .next (s.coefLoad p e (fun i => nominalF (i % 5 + 1))
      (fun l => { s.cnv with coef := tload (fun _ => coefReset) s.cnv.coef l }))

/-- DAC_COEFFICIENT_LOAD: table 0x004 of CNV, index 2 × DAC + RANGE − 1 (R290, R291). -/
def doDacCoefficientLoad (p : Pair) (s : State) : Host.Outcome State Fault Refusal :=
  match s.takeLoad p 7 4 with
  | none => .next s
  | some e => .next (s.coefLoad p e (fun i => nominalDacF (i % 2 + 1))
      (fun l => { s.cnv with dacCoef := tload (fun _ => coefReset) s.cnv.dacCoef l }))

/-- SKEW_LOAD: table 0x005 of CNV, stored and applied with the coefficients, without limits (R293). -/
def doSkewLoad (p : Pair) (s : State) : Host.Outcome State Fault Refusal :=
  match s.takeLoad p 7 5 with
  | none => .next s
  | some e => .next (s.pushCal p e { s.cnv with
      skew := tload (fun _ => 0) s.cnv.skew (withIndex e.first e.words128) })

/-- Calibration loads that are due at a base period start apply and complete; the second copy has been written by then (R291). -/
def State.applyCal (s : State) : State :=
  let due := s.cnv.calLoads.filter (fun c => decide (sdiff s.time.tb1.ns c.due ≥ 0))
  let later := s.cnv.calLoads.filter (fun c => !decide (sdiff s.time.tb1.ns c.due ≥ 0))
  due.foldl (fun s c =>
    State.finish { s with cnv := { s.cnv with
        coefEff := c.coef, dacCoefEff := c.dacCoef, skewEff := c.skew, cal1 := s.cnv.cal0 } }
      c.load.pair.val c.load.sub 0 (BitVec.ofNat 64 c.load.count))
    { s with cnv := { s.cnv with calLoads := later } }

/-! ### The sample word (R269 to R272) -/

/-- VALUE of a sample word. -/
def swValue (w : Val40) : Int := sfld w 39 16
/-- CHAN. -/
def swChan (w : Val40) : Nat := fld w 15 8
/-- OVR. -/
def swOvr (w : Val40) : Bool := tbit w 3
/-- URG. -/
def swUrg (w : Val40) : Bool := tbit w 2
/-- SPR. -/
def swSpr (w : Val40) : Bool := tbit w 1
/-- STL. -/
def swStl (w : Val40) : Bool := tbit w 0

/-- A sample word from its fields (R269). -/
def sampleWord (value : Int) (chan conv : Nat) (ovr urg spr stl : Bool) : Val40 :=
  BitVec.ofNat 40 ((bitsOf 24 value).toNat * 2 ^ 16 + chan % 256 * 2 ^ 8 + conv % 16 * 16 + ovr.toNat * 8 +
    urg.toNat * 4 + spr.toNat * 2 + stl.toNat)

/-- VALUE 0 with STL: what a channel reads of which there is no word (R277). -/
def noSample (c : Nat) : Sample := { word := sampleWord 0 c 0 false false false true }

/-- The newest word of a channel; a channel that no running entry converts reads VALUE 0 with STL (R277). -/
def State.newestSample (s : State) (c : Nat) : Sample :=
  let x := tget (noSample c) s.cnv.newest c
  if (namedChans s.cnv.listsEff).contains c then x else { noSample c with stamp := x.stamp }

/-- The newest word that the field side itself has made of a channel (R266, R267). -/
def State.madeSample (s : State) (c : Nat) : Sample :=
  let x := tget (noSample c) s.cnv.made c
  if (namedChans s.cnv.listsEff).contains c then x else { noSample c with stamp := x.stamp }

/-- How the 20-bit code of a channel is read: two's complement for RANGE 1, 4 and any DIFF channel and for the
bipolar internal sources, straight binary otherwise (R263, R270). -/
def codeSigned (s : State) (c : Nat) (w : BitVec 64) : Bool :=
  if c < 128 then decide (chRange w = 1) || decide (chRange w = 4) || chDiff w
  else if c < 160 then decide (s.dacRangeNow (c - 128) ≠ 2)
  else decide (168 ≤ c) && decide (c ≤ 170)

/-- The converter code is at its limit: the highest code of every span, the lowest of a two's complement one (R269). -/
def codeAtLimit (signed : Bool) (code : BitVec 20) : Bool :=
  if signed then decide (code = 0x7FFFF) || decide (code = 0x80000) else decide (code = 0xFFFFF)

/-- The code as a number. -/
def codeValue (signed : Bool) (code : BitVec 20) : Int := if signed then code.toInt else Int.ofNat code.toNat

/-- The exact ratio from raw LSB to corrected counts (R263, R265), and the offset of a span that starts at −64 °C. -/
def lsbRatio (s : State) (c : Nat) (w : BitVec 64) : Int × Nat × Int :=
  if c < 128 then
    match chRange w with
    | 1 => (125, 8, 0)
    | 2 => if chDiff w then (125, 8, 0) else (125, 16, 0)
    | 3 => (3125, 512, 0)
    | 4 => (1953125, 131072, 0)
    | _ => (625, 64, 0)
  else if c < 160 then (if s.dacRangeNow (c - 128) = 2 then (25, 4, 0) else (125, 8, 0))
  else if c < 164 then (125, 512, -64000)
  else if c < 168 then (625, 512, 0)
  else if c < 171 then (125, 8, 0)
  else if c = 171 then (125, 16, 0)
  else (125, 512, -64000)

/-- A value with 8 fractional bits lies between two counts. -/
def between (lo hi x : Int) : Bool := decide (lo * 256 ≤ x) && decide (x ≤ hi * 256)

/-- The measurable span of a range in corrected counts (R265). -/
def inSpan (w : BitVec 64) (x : Int) : Bool :=
  match chRange w with
  | 1 => between (-8192000) 8192000 x
  | 2 => between (if chDiff w then -8192000 else 0) 8192000 x
  | 3 => between 0 6400000 x
  | 4 => between (-7812500) 7812500 x
  | _ => between (-5120000) 5120000 x

/-- The span over which an internal source is converted, for a mean in raw LSB with 4 fractional bits (R263). -/
def inSource (signed : Bool) (mean4 : Int) : Bool :=
  if signed then decide (-(2 ^ 23) ≤ mean4) && decide (mean4 ≤ 2 ^ 23) else decide (0 ≤ mean4) && decide (mean4 ≤ 2 ^ 24)

/-- x with 8 fractional bits from the mean of N corrected conversions with 4 fractional bits (R271 steps 2 and 3). -/
def scaleCounts (ratio : Int × Nat × Int) (mean4 : Int) : Int :=
  divNearest (mean4 * 16 * ratio.1) ratio.2.1 + ratio.2.2 * 256

/-- A stamp lies more than a limit before an instant (R47). -/
def olderThan (stamp now : Time) (limit : Int) : Bool := decide (sdiff now stamp > limit)

/-- A cold-junction or excitation sample is stale for the word that uses it (R267): its STL, or older than 1 s. -/
def auxStale (x : Sample) (now : Time) : Bool := swStl x.word || olderThan x.stamp now 1000000000

/-- The excitation current of a group's newest sample is below 0.9 mA (R266). -/
def excLow (ex : Sample) : Bool := decide (swValue ex.word < 900000)

/-- Step 5 of R271: the functions of R266 and R267 on the channel-corrected value y (8 fractional bits); the result
with its OVR and STL, and whether the value is a free one. aux gives the newest sample of a cold junction or an excitation current. -/
def linearise (s : State) (aux : Nat → Sample) (c : Nat) (w : BitVec 64) (y : Int) (now : Time) : Int × Bool × Bool × Bool :=
  let g := c / 32
  if chRange w = 4 && (chCjc w || chLin w) then
    let cj := aux (160 + g)
    let stl := chCjc w && auxStale cj now
    let v := if chCjc w then (Config.tcVoltage (chTc w) (swValue cj.word * 256)).map (· + y) else some y
    match v with
    | none => (Config.undefinedSample s.freeIdx, true, stl, true)
    | some v =>
      if chLin w then
        match Config.tcTemperature (chTc w) v with
        | some t => (t, false, stl, false)
        | none => (Config.undefinedSample s.freeIdx, true, stl, true)
      else (v, false, stl, false)
  else if chRange w = 5 then
    let ex := aux (164 + g)
    let i := swValue ex.word
    let stl := auxStale ex now
    let low := excLow ex
    if i = 0 then (Config.undefinedSample s.freeIdx, true, stl, true)
    else
      let r := divNearest (y * 1000000 * i.sign) i.natAbs
      if chLin w then
        match Config.rtdTemperature r with
        | some t => (t, low, stl, false)
        | none => (Config.undefinedSample s.freeIdx, true, stl, true)
      else (r, low, stl, false)
  else (y, false, false, false)

/-- A finished word of channel c: VALUE, OVR, STL, and whether a free value was used (R270, R271). total is the sum of N
conversions, corrected ones with 4 fractional bits, or raw codes. DEDUCED (log 93): a raw word carries the overrange conditions
of R264 and R266 too, LIVE_ZERO judged on the raw mean itself. -/
def formValue (s : State) (aux : Nat → Sample) (c : Nat) (w : BitVec 64) (total : Int) (n : Nat)
    (now : Time) : Int × Bool × Bool × Bool :=
  let lg := Nat.log2 n
  if c < 128 && chRaw w then
    let x := scaleCounts (lsbRatio s c w) (shiftRound total (4 - Int.ofNat lg))
    let ovr := (chLive w && decide (x < 900000 * 256)) || (decide (chRange w = 5) && excLow (aux (164 + c / 32)))
    (if chLeft w then shiftRound total (4 - Int.ofNat lg) else shrRound total lg, ovr, false, false)
  else
    let mean := shrRound total lg
    let x := scaleCounts (lsbRatio s c w) mean
    if c ≥ 128 then (satS 24 (shrRound x 8), !inSource (codeSigned s c w) mean, false, false)
    else
      let k := tget coefReset s.cnv.coefEff (5 * c + chRange w - 1)
      let y := shrRound (x * coefGain k) 32 + coefOffset k
      let ovr := !inSpan w y || (chLive w && decide (y < 900000 * 256))
      let z := linearise s aux c w y now
      (satS 24 (shrRound z.1 8), ovr || z.2.1, z.2.2.1, z.2.2.2)

/-! ### The plan of a base period (R274, R280) -/

/-- The instant at which slot k of list l begins in base period n (R273). -/
def State.slotInstant (s : State) (l n k : Nat) : Time :=
  let h := listEntry s.cnv.listsEff l 0
  tadd s.cmb.epoch (Int.ofNat (n * 20000 + lhOffs h + k * slotLen h))

/-- The entries of list l that execute in base period n. -/
def State.dueEntries (s : State) (l n : Nat) : List (Nat × BitVec 64) :=
  (listRun s.cnv.listsEff l).filter (fun x => decide (n % leDiv x.2 = lePhase x.2))

/-- The slots that pinned entries hold. -/
def pinnedSlots (es : List (Nat × BitVec 64)) : List Nat :=
  es.flatMap (fun x => if lePin x.2 then (List.range (2 ^ leOvs x.2)).map (fun k => leSlot x.2 + k) else [])

/-- The slots that urgent conversions have taken on list l in this base period. -/
def State.urgentTaken (s : State) (l : Nat) : List Nat := (tget [] s.cnv.slip l).map (·.1)

/-- The slot that the pending urgent request of list l takes in base period n, the first eligible one (R280). -/
def State.urgentSlot (s : State) (l n : Nat) : Option Nat :=
  match (tget none (s.cnv.urgent.map (fun x => (x.1, some x.2))) l).bind (·.at_) with
  | none => none
  | some t =>
    let pins := pinnedSlots (s.dueEntries l n)
    (List.range (slotCount (listEntry s.cnv.listsEff l 0))).find? (fun k =>
      decide (sdiff (s.slotInstant l n k) t ≥ 2000) && !pins.contains k && !(s.urgentTaken l).contains k)

/-- The next slot after k that no pinned entry holds. -/
def nextSlot (pins : List Nat) (k : Nat) : Nat :=
  ((List.range 64).find? (fun j => decide (j > k) && !pins.contains j)).getD 64

/-- An urgent conversion takes slot u: a non-pinned conversion that falls there is interrupted, and it and every later one move to
the next slot not pinned; a free slot moves nothing (R280). A conversion is its slot, its entry, its index in the entry and
whether it is pinned. -/
def interrupt (pins : List Nat) (plan : List (Nat × Nat × Nat × Bool)) (u : Nat) : List (Nat × Nat × Nat × Bool) :=
  if plan.any (fun x => decide (x.1 = u) && !x.2.2.2) then
    plan.map (fun x => if !x.2.2.2 && decide (x.1 ≥ u) then (nextSlot pins x.1, x.2) else x)
  else plan

/-- Where each conversion of list l falls in base period n: slot, entry, its index in the entry (R274, R280). -/
def State.slotPlan (s : State) (l n : Nat) : List (Nat × Nat × Nat) :=
  let es := s.dueEntries l n
  let pins := pinnedSlots es
  let plan := es.flatMap (fun x => (List.range (2 ^ leOvs x.2)).map (fun k => (leSlot x.2 + k, x.1, k, lePin x.2)))
  ((s.urgentTaken l ++ (s.urgentSlot l n).toList).foldl (interrupt pins) plan).map (fun x => (x.1, x.2.1, x.2.2.1))

/-! ### Roles, handovers and faults (R262, R284 to R289) -/

/-- The role of converter c. -/
def CnvState.role (c : CnvState) (k : Nat) : Nat := c.roles.getD k 7
/-- The converter that holds a role. -/
def CnvState.holder (c : CnvState) (r : Nat) : Option Nat := (List.range 5).find? (fun k => decide (c.role k = r))
/-- The roles with that of converter k replaced. -/
def CnvState.setRole (c : CnvState) (k r : Nat) : CnvState := { c with roles := setAt c.roles k r }

/-- Event 0x47: a handover completed, or aborted (R285). -/
def State.handoverEvent (s : State) (aborted : Bool) (g conv : Nat) : State :=
  s.fieldRaise 0x47 (BitVec.ofNat 64 (aborted.toNat + g * 256 + conv * 4096))

/-- A handover ends before its time (R285): the shadow converter returns to the spare role, ABORT_CNT, event 0x47. -/
def State.abortHandover (s : State) : State :=
  match s.cnv.handover with
  | none => s
  | some h =>
    let c := { s.cnv with handover := none, shadowCode := none, list4Held := true, abortCnt := satInc 0xFFFF s.cnv.abortCnt }
    let c := if c.role h.to_ = 5 then c.setRole h.to_ 4 else c
    { s with cnv := c }.handoverEvent true h.group h.to_

/-- Converter k enters FAULT (R287): event 0x48 with its former role; the spare takes a served group where FAILOVER_EN
allows; a handover it takes part in ends. -/
def State.convFault (s : State) (k : Nat) : State :=
  let former := s.cnv.role k
  let inHandover : Bool := match s.cnv.handover with
    | some h => decide (h.phase ≠ .waiting) && (decide (h.to_ = k) || decide (h.from_ = some k))
    | none => false
  let s := if inHandover then s.abortHandover else s
  let s := { s with cnv := s.cnv.setRole k 7 }
  let s := match s.cnv.holder 4 with
    | some sp => if former < 4 && s.rbit 0x7000 2 then { s with cnv := { s.cnv with failover := some (former, sp) } } else s
    | none => s
  (s.countLedger 19).fieldRaise 0x48 (BitVec.ofNat 64 (k + former * 256))

/-- A handover of group g starts at the next pattern start, unless refused with 0x42 (R284). -/
def State.startHandover (s : State) (g : Nat) : Judged State :=
  match s.cnv.holder 4, s.cnv.handover with
  | some sp, none =>
    .ok { s with cnv := { s.cnv with handover := some { group := g, from_ := s.cnv.holder g, to_ := sp } } }
  | _, _ => .refused 0x42 0

/-- ROTATE: parameter 0x002 of CNV starts a spare handover of a group (R284, R301). -/
def doRotate (p : Pair) (s : State) : Host.Outcome State Fault Refusal :=
  match s.takeParam p 1 7 2 with
  | none => .next s
  | some e =>
    if e.value ≥ 4 then .next (s.finish p.val e.sub 0x02 0)
    else .next (s.settle p e 0 (s.startHandover e.value))

/-- ROTATION_INTERVAL: INTERVAL_S has passed with ROT_EN set, so a handover of the next group starts, or is skipped
(R288). -/
def execRotationInterval (s : State) : Host.Outcome State Fault Refusal :=
  if !s.rbit 0x7000 1 then .next s
  else match s.startHandover ((s.cnv.lastGroup + 1) % 4) with
    | .ok s' => .next s'
    | .refused _ _ => .next s

/-- The mean of codes of a two's complement span in raw LSB with 16 fractional bits; 0 without a code. -/
def meanCode (l : List (BitVec 20)) : Int := (l.map (·.toInt)).foldl (· + ·) 0 * 2 ^ 16 / Int.ofNat (max 1 l.length)

/-- Offset and gain from the conversions of channels 168 to 170, 0 V, +9.5 V and −9.5 V: 19 V are 972 800 raw LSB (R263, R286).
DEDUCED (log 110): the offset is the reading of 0 V, the gain the nominal difference of the others over the measured one. -/
def selfCalOf (c : SelfCalCodes) : SelfCal :=
  { offset := meanCode c.zero, gain := 972800 * 2 ^ 48 / (meanCode c.plus - meanCode c.minus) }

/-- They differ from the factory values by at most 0.05 % of span (R286). -/
def SelfCal.passes (x f : SelfCal) : Bool :=
  decide ((x.offset - f.offset).natAbs * 2000 ≤ 2 ^ 36) && decide ((x.gain - f.gain).natAbs * 2000 ≤ 2 ^ 32)

/-- Converter k holds the offset and gain of its self-calibration (R286). -/
def CnvState.calibrated (c : CnvState) (k : Nat) (x : SelfCal) : CnvState := { c with selfCal := tput {} x c.selfCal k }

/-- SELF_CALIBRATION_END: 100 ms of conversions give the converter its offset and gain, which are checked against the factory values; it
takes the spare role, or FAULT with 0x48; a handover that waited for it is complete (R284 to R286). -/
def execSelfCalibrationEnd (conv : Fin 5) (codes : SelfCalCodes) (s : State) : Host.Outcome State Fault Refusal :=
  let k := conv.val
  let x := selfCalOf codes
  let passed := x.passes { offset := Config.factoryOffset k, gain := Config.factoryGain k }
  if s.cnv.bootCal.getD k false then
    let s := { s with cnv := { s.cnv with bootCal := setAt s.cnv.bootCal k false }.calibrated k x }
    .next (if passed then s else s.convFault k)
  else if s.cnv.role k ≠ 6 then .next s
  else if !passed then .next (s.convFault k)
  else
    let s := { s with cnv := { s.cnv.setRole k 4 with list4Held := true }.calibrated k x }
    match s.cnv.handover with
    | some h =>
      if h.from_ = some k then
        .next (State.handoverEvent { s with cnv := { s.cnv with
          handover := none, handoverCnt := satInc 0xFFFF s.cnv.handoverCnt } } false h.group h.to_)
      else .next s
    | none => .next s

/-- CONVERTER_CLR_FAULT: a write of CLR_FAULT starts self-calibration of a converter in FAULT (R287). -/
def execConverterClrFault (conv : Fin 5) (s : State) : Host.Outcome State Fault Refusal :=
  if !s.hostUp then .next s else
  if s.cnv.role conv.val = 7 then .next { s with cnv := s.cnv.setRole conv.val 6 } else .next s

/-! ### Conversions (R273, R279 to R287, R504) -/

/-- One conversion check of converter k: 16 failures within 256 conversions are a FAULT (R287). -/
def State.convCheck (s : State) (k : Nat) (fail : Bool) : State :=
  let w := (fail :: tget [] s.cnv.checks k).take 256
  let n := (w.filter (fun b => b)).length
  let cnt := if fail then satInc 0xFFFF (tget 0 s.cnv.chkFail k) else tget 0 s.cnv.chkFail k
  let s := { s with cnv := { s.cnv with
    checks := tput [] (if n ≥ 16 then [] else w) s.cnv.checks k, chkFail := tput 0 cnt s.cnv.chkFail k
    chkSecond := s.cnv.chkSecond + fail.toNat } }
  if n ≥ 16 then s.convFault k else s

/-- Which range the converter correction is for: that of the channel, or 16 + the internal source. -/
def corrRange (c : Nat) (w : BitVec 64) : Nat := if c < 128 then chRange w + 8 * (chDiff w).toNat else c

/-- A code after the converter correction of converter k: offset and gain of its self-calibration and the factory segment table, in raw
LSB with 4 fractional bits (R271 step 1). -/
def State.corrected (s : State) (k c : Nat) (w : BitVec 64) (v : Int) : Int :=
  let x : SelfCal := tget {} s.cnv.selfCal k
  Config.convCorrect k x.offset x.gain (corrRange c w) v

/-- One conversion of a channel as it is accumulated: a raw code, or the corrected conversion (R270, R271 step 1). -/
def State.oneConversion (s : State) (conv c : Nat) (w : BitVec 64) (code : BitVec 20) : Int :=
  let v := codeValue (codeSigned s c w) code
  if c < 128 && chRaw w then v else s.corrected conv c w v

/-- A word is made: the newest of its channel on the field side, and on its way to the logic side with its stamp, for an urgent one with
its list (R269). -/
def State.makeWord (s : State) (w : Val40) (stamp : Time) (list : Option Nat) : State :=
  let c := swChan w
  let x : Sample := { word := w, stamp := stamp }
  State.sendUp { s with cnv := { s.cnv with made := tput (noSample c) x s.cnv.made c } } (.sample w stamp list)

/-- The same for a word of a scan entry. -/
def State.sendWord (s : State) (w : Val40) (stamp : Time) : State := s.makeWord w stamp none

/-- The midpoint of two instants, rounded down (R272). -/
def midpoint (a b : Time) : Time := tadd a (sdiff b a / 2)

/-- An accumulation starts afresh. -/
def AccRt.restart (r : AccRt) : AccRt := { lastGood := r.lastGood, got := r.got }

/-- The last good value of an entry, sent with STL (R282), and with OVR where low says so. -/
def staleWord (c : Nat) (r : AccRt) (low : Bool) : Val40 :=
  let w := match r.lastGood with
    | some w => w ||| 1
    | none => sampleWord 0 c 0 false false false true
  if low then w ||| 8 else w

/-- A word of entry e of list l was not made: its last good value is sent with STL, and the accumulation starts afresh (R282); every
RANGE 5 word carries OVR while the excitation current is below 0.9 mA (R266). -/
def State.dropEntryWord (s : State) (l e : Nat) (t : Time) : State :=
  let key := 128 * l + e
  let r : AccRt := tget {} s.cnv.acc key
  let c := leChan (listEntry s.cnv.listsEff l e)
  let s := { s with cnv := { s.cnv with acc := tput {} r.restart s.cnv.acc key } }
  let low := decide (c < 128) && decide (chRange (tget 0 s.cnv.chanEff c) = 5) && excLow (s.madeSample (164 + c / 32))
  s.sendWord (staleWord c r low) t

/-- A conversion of entry e of list l is accumulated; the Nth completes the word (R271, R272). -/
def State.convEntry (s : State) (conv l e : Nat) (code : BitVec 20) (cond : Bool) (t : Time) (spr : Bool) : State :=
  let x := listEntry s.cnv.listsEff l e
  let c := leChan x
  let w := tget 0 s.cnv.chanEff c
  let key := 128 * l + e
  let r : AccRt := tget {} s.cnv.acc key
  let lim := codeAtLimit (codeSigned s c w) code || (cond && decide (128 ≤ c) && decide (c < 160))
  let r := { r with
    sum := r.sum + s.oneConversion conv c w code, n := r.n + 1, first := if r.n = 0 then t else r.first,
    ovr := r.ovr || lim, got := r.got + 1 }
  if r.n ≥ leN x && r.gap then s.dropEntryWord l e (midpoint r.first t)
  else if r.n < leN x then { s with cnv := { s.cnv with acc := tput {} r s.cnv.acc key } }
  else
    let v := formValue s s.madeSample c w r.sum r.n t
    let word := sampleWord v.1 c conv (r.ovr || v.2.1) false spr v.2.2.1
    let s := { s with cnv := { s.cnv with acc := tput {} { lastGood := some word, got := r.got } s.cnv.acc key } }
    (if v.2.2.2 then s.tookFree else s).sendWord word (midpoint r.first t)

/-- An urgent conversion of list l: one conversion, the word with URG (R280, R281). -/
def State.convUrgent (s : State) (conv l k c : Nat) (code : BitVec 20) (cond : Bool) (t : Time) (spr : Bool) : State :=
  let w := tget 0 s.cnv.chanEff c
  let v := formValue s s.madeSample c w (s.oneConversion conv c w code) 1 t
  let lim := codeAtLimit (codeSigned s c w) code || (cond && decide (128 ≤ c) && decide (c < 160))
  let word := sampleWord v.1 c conv (lim || v.2.1) true spr v.2.2.1
  let s := { s with cnv := { s.cnv with
    urgent := s.cnv.urgent.filter (fun x => decide (x.1 ≠ l)), slip := tmod [] s.cnv.slip l (· ++ [(k, c)]) } }
  (if v.2.2.2 then s.tookFree else s).makeWord word t (some l)

/-- In the overlap, the two conversions of one slot are compared after converter correction; the third mismatch ends
the handover (R285). -/
def State.crossCheck (s : State) (slot : Nat) (v : Int) : State :=
  match s.cnv.shadowCode, s.cnv.handover with
  | some (k, o), some h =>
    if k ≠ slot then { s with cnv := { s.cnv with shadowCode := some (slot, v) } }
    else
      let s := { s with cnv := { s.cnv with shadowCode := none } }
      if (v - o).natAbs > s.rfld 0x7008 31 24 * 16 then
        if h.mismatches + 1 ≥ 3 then s.abortHandover
        else { s with cnv := { s.cnv with handover := some { h with mismatches := h.mismatches + 1 } } }
      else s
  | _, _ => { s with cnv := { s.cnv with shadowCode := some (slot, v) } }

/-- The list that a converter's conversions belong to: its role's list, or in the shadow role the handover's group. -/
def CnvState.listOf (c : CnvState) (k : Nat) : Option Nat :=
  let r := c.role k
  if r ≤ 4 then some r else if r = 5 then c.handover.map (·.group) else none

/-- CONVERSION_SLOT: at a conversion-slot instant of the present base period a converter samples and converts what its
list's plan gives it there (R273, R280, R284, R285). The hold scan while the logic side is absent is the Drone's. -/
def State.convertSlot (s : State) (k slot : Nat) (code : BitVec 20) (cond : Bool) : State :=
  match s.cnv.listOf k with
  | none => s
  | some l =>
    let held := decide (l = 4) && (s.cnv.list4Held || s.cnv.calHold)
    if !s.cnv.listsRun || held || !leEn (listEntry s.cnv.listsEff l 0) || s.cnv.bootCal.getD k false then s
    else
      let n := s.cmb.n
      let t := s.slotInstant l n slot
      let taken := (tget [] s.cnv.slip l).find? (fun x => decide (x.1 = slot))
      let use : Option (Nat × Option Nat) :=
        if s.urgentSlot l n = some slot then (s.cnv.urgent.find? (fun x => decide (x.1 = l))).map (fun x => (x.2.chan, none))
        else if taken.isSome then (if s.cnv.role k = 5 then taken.map (fun x => (x.2, none)) else none)
        else ((s.slotPlan l n).find? (fun x => decide (x.1 = slot))).map
          (fun x => (leChan (listEntry s.cnv.listsEff l x.2.1), some x.2.1))
      match use with
      | none => s
      | some (c, e) =>
        let w := tget 0 s.cnv.chanEff c
        let v := s.corrected k c w (codeValue (codeSigned s c w) code)
        let overlap : Bool := match s.cnv.handover with
          | some h => decide (h.phase = .overlap) && decide (h.group = l)
          | none => false
        let s1 :=
          if s.cnv.role k = 5 then s
          else match e with
            | some e => s.convEntry k l e code cond t (decide (s.cnv.role k = 4))
            | none => s.convUrgent k l slot c code cond t (decide (s.cnv.role k = 4))
        if overlap then s1.crossCheck slot v else s1

/-! ### What happens at a base period start (R276, R278, R282, R284, R287) -/

/-- Dropped conversions are counted; 0x49 at most once per second of TB2, with the number dropped in the last second (R282, R300). -/
def State.countDrops (s : State) (n : Nat) : State :=
  if n = 0 then s
  else
    let now := s.time.t2
    let log := (now, n) :: s.cnv.dropLog.filter (fun x => decide (now < x.1 + 1000000000))
    let c := { s.cnv with dropCnt := satAdd 0xFFFFFFFF s.cnv.dropCnt n, dropLog := log }
    if s.rbit 0x7000 3 && s.evtDue 1000000000 c.lastDropEvt then
      State.fieldRaise { s with cnv := { c with lastDropEvt := some now } } 0x49 (BitVec.ofNat 64 (log.map (·.2)).sum)
    else { s with cnv := c }

/-- Slots of a list with header h that begin within the present base period (R278). -/
def State.slotsWithin (s : State) (h : BitVec 64) : Nat :=
  match s.cnv.cutAt with
  | some c => min (slotCount h) ((c - lhOffs h + slotLen h - 1) / slotLen h)
  | none => slotCount h

/-- The conversions of entry e that base period n did not make on a vacant list are missing from its word, which is sent with STL
and its normal stamp once it would be whole (R284, R287). -/
def State.missConversions (s : State) (l n e : Nat) (x : BitVec 64) : State :=
  let key := 128 * l + e
  let r : AccRt := tget {} s.cnv.acc key
  let miss := 2 ^ leOvs x - r.got
  if miss = 0 then s
  else
    let first := if r.n = 0 then s.slotInstant l n (leSlot x) else r.first
    let s := { s with cnv := { s.cnv with acc := tput {} { r with n := r.n + miss, gap := true, first := first } s.cnv.acc key } }
    if r.n + miss ≥ leN x then s.dropEntryWord l e (midpoint first (s.slotInstant l n (leSlot x + 2 ^ leOvs x - 1))) else s

/-- A list runs, but no converter makes its conversions. -/
def State.vacantList (s : State) (l : Nat) : Bool :=
  s.cnv.listsRun && leEn (listEntry s.cnv.listsEff l 0) &&
    ((s.cnv.holder l).isNone || (decide (l = 4) && (s.cnv.list4Held || s.cnv.calHold)))

/-- The words of vacant lists whose last conversion's slot has ended by instant t are sent with STL (R284, R287). -/
def State.missDue (s : State) (n : Nat) (t : Time) : State :=
  (List.range 5).foldl (fun s l =>
    if !s.vacantList l then s
    else
      ((s.dueEntries l n).filter (fun x => decide (sdiff t (s.slotInstant l n (leSlot x.2 + 2 ^ leOvs x.2)) ≥ 0))).foldl
        (fun s x => s.missConversions l n x.1 x.2) s) s

/-- The end of base period n on list l, with the number of conversions dropped so far: those displaced beyond it are dropped (R282), and so
are those whose slots a TB1 step has cut off (R278); a list whose role is vacant sends its due words with STL (R284, R287). -/
def State.endListPeriod (n : Nat) (t : Time) (x : State × Nat) (l : Nat) : State × Nat :=
  let s := x.1
  if !leEn (listEntry s.cnv.listsEff l 0) then x
  else if s.vacantList l then ((s.dueEntries l n).foldl (fun s x => s.missConversions l n x.1 x.2) s, x.2)
  else
    let h := listEntry s.cnv.listsEff l 0
    let lost := (s.slotPlan l n).filter (fun x => decide (x.1 ≥ s.slotsWithin h))
    (((lost.map (fun x => x.2.1)).eraseDups).foldl (fun s e => s.dropEntryWord l e t) s, x.2 + lost.length)

/-- The converters at the end of base period n, if the lists run; the drops of all lists count together (R300). -/
def State.endConvPeriod (s : State) (n : Nat) (t : Time) : State :=
  let s := if s.cnv.listsRun then
      let x := (List.range 5).foldl (State.endListPeriod n t) (s, 0)
      x.1.countDrops x.2
    else s
  { s with cnv := { s.cnv with
      slip := [], cutAt := none, acc := tmap {} (fun r => { r with got := 0 }) s.cnv.acc } }

/-- At a pattern start the lists and the channel table take effect as the field side has received them; the LOADs that are there
complete, and the accumulations of the lists they load restart; list 4 resumes (R17, R276, R284). -/
def State.convPattern (s : State) : State :=
  let here (q : LateLoad) : Bool := !s.pw.fieldPresent || decide (q.no ≤ s.cnv.scanFld)
  let loads := s.cnv.patternLoads.filter here
  let again := loads.filterMap (·.list)
  let c := { s.cnv with
    listsEff := s.cnv.listsFld, chanEff := s.cnv.chanFld, list4Held := false,
    patternLoads := s.cnv.patternLoads.filter (fun q => !here q),
    acc := s.cnv.acc.map (fun (x : Nat × AccRt) => if again.contains (x.1 / 128) then (x.1, x.2.restart) else x) }
  loads.foldl (fun s q => s.finish q.pair.val q.sub 0 (BitVec.ofNat 64 q.count)) { s with cnv := c }

/-- The spare takes over the group of the converter that failed in the base period before (R287). -/
def CnvState.takeFailover (c : CnvState) : CnvState :=
  match c.failover with
  | some (g, sp) => if c.role sp = 4 then { c.setRole sp g with failover := none } else { c with failover := none }
  | none => c

/-- A pattern start on a field side that hears the logic side: the lists run from it (R276). -/
def State.startLists (s : State) : State :=
  let s := s.convPattern
  { s with cnv := { s.cnv with listsRun := true } }

/-- A handover goes through its phases at the start of base period n (R284). DEDUCED (log 92): one whose converter is no longer
the spare at its pattern start ends as R285 lays down. -/
def State.stepHandover (s : State) (n : Nat) : State :=
  match s.cnv.handover with
  | none => s
  | some h =>
    match h.phase with
    | .waiting =>
      if n % 500 ≠ 0 then s
      else if s.cnv.role h.to_ ≠ 4 then s.abortHandover
      else
        { s with cnv := { s.cnv.setRole h.to_ 5 with
          handover := some { h with phase := .overlap, startN := n, from_ := s.cnv.holder h.group }, shadowCode := none } }
    | .overlap =>
      if n - h.startN ≥ s.rfld 0x7008 23 16 then
        let c := s.cnv.setRole h.to_ h.group
        match h.from_ with
        | some a => { s with cnv := { c.setRole a 6 with
            handover := some { h with phase := .selfCal }, lastGroup := h.group, shadowCode := none } }
        | none =>
          State.handoverEvent { s with cnv := { c with
            handover := none, lastGroup := h.group, shadowCode := none,
            handoverCnt := satInc 0xFFFF c.handoverCnt } } false h.group h.to_
      else s
    | .selfCal => s

/-- The converters at the start of base period n: failover, the end of a measurement's hold on list 4, the pattern start, the
phases of a handover (R276, R278, R284, R287, R292). -/
def State.startConvPeriod (s : State) (n : Nat) : State :=
  let c := s.cnv.takeFailover
  let s : State := { s with cnv := { c with calHold := c.calHold && c.cal.isSome } }
  if n % 500 = 0 then s.startLists.stepHandover n else s.stepHandover n

/-! ### Parameters (R279, R292, R301) -/

/-- A channel that has no range to be converted in: OFF, or the odd partner of a DIFF channel. -/
def State.chanOff (s : State) (c : Nat) : Bool :=
  decide (c < 128) && (decide (chRange (tget 0 s.cnv.chan c) = 0) ||
    (decide (c % 2 = 1) && chDiff (tget 0 s.cnv.chan (c - 1))))

/-- An urgent request for a channel on a list: refused with 0x43 while one is pending (R279). -/
def State.requestUrgent (s : State) (c l : Nat) : Judged State :=
  if (s.cnv.urgent.find? (fun x => decide (x.1 = l))).isSome then .refused 0x43 (BitVec.ofNat 64 l)
  else
    let below := s.cnv.urgent.filter (fun x => decide (x.1 < l))
    let above := s.cnv.urgent.filter (fun x => decide (l < x.1))
    .ok (State.sendDown { s with cnv := { s.cnv with urgent := below ++ (l, { chan := c }) :: above } } (.urgent c l))

/-- URGENT: parameter 0x001 of CNV (R279, R301). -/
def doUrgent (p : Pair) (s : State) : Host.Outcome State Fault Refusal :=
  match s.takeParam p 1 7 1 with
  | none => .next s
  | some e =>
    let c := e.value % 256
    let l := e.value / 256 % 8
    if e.value ≥ 2048 || l > 4 || !reachable l c || s.chanOff c then .next (s.finish p.val e.sub 0x02 0)
    else .next (s.settle p e 0 (s.requestUrgent c l))

/-- CAL_MEASURE: parameter 0x003 of CNV starts N conversions on the spare converter; list 4 stops (R292). -/
def doCalMeasure (p : Pair) (s : State) : Host.Outcome State Fault Refusal :=
  match s.takeParam p 1 7 3 with
  | none => .next s
  | some e =>
    let c := e.value % 256
    let n := e.value / 256 % 65536
    if e.value ≥ 2 ^ 24 || c ≥ 128 || n = 0 || s.chanOff c then .next (s.finish p.val e.sub 0x02 0)
    else match s.cnv.holder 4, s.cnv.cal with
      | some k, none =>
        .next (State.accept { s with cnv := { s.cnv with
          cal := some { pair := p, sub := e.sub, chan := c, n := n, conv := k }, calHold := true } } p.val e.sub)
      | _, _ => .next (s.finish p.val e.sub 0x42 0)

/-- x of one conversion of a measurement (R271 steps 1 to 3). -/
def State.calX (s : State) (k c : Nat) (code : BitVec 20) : Int :=
  let w := tget 0 s.cnv.chanEff c
  scaleCounts (lsbRatio s c w) (s.corrected k c w (codeValue (codeSigned s c w) code))

/-- CAL_MEASURE_END: the measurement ends; its mean and spread are kept and its completion written; list 4 resumes at
the next base period start (R292). -/
def execCalMeasureEnd (codes : List (BitVec 20)) (s : State) : Host.Outcome State Fault Refusal :=
  match s.cnv.cal with
  | none => .next s
  | some j =>
    let xs := (codes.take j.n).map (s.calX j.conv j.chan)
    match xs with
    | [] => .next s
    | x :: r =>
      let total := r.foldl (· + ·) x
      let hi := r.foldl max x
      let lo := r.foldl min x
      let mean := (total * 2 + Int.ofNat xs.length) / (2 * Int.ofNat xs.length)
      .next (State.finish { s with cnv := { s.cnv with
        cal := none, calMean := mean, calSpread := (hi - lo).toNat } } j.pair.val j.sub 0 0)

/-- CAL_MEAN: parameter 0x004 of CNV, signed (R292). -/
def execCalMean (p : Pair) (s : State) : Host.Outcome State Fault Refusal :=
  match s.takeParam p 2 7 4 with
  | none => .next s
  | some e => .next (s.finish p.val e.sub 0 (canonS s.cnv.calMean))

/-- CAL_SPREAD: parameter 0x005 of CNV, unsigned (R292). -/
def execCalSpread (p : Pair) (s : State) : Host.Outcome State Fault Refusal :=
  match s.takeParam p 2 7 5 with
  | none => .next s
  | some e => .next (s.finish p.val e.sub 0 (canonU s.cnv.calSpread))

/-- SAMPLE_READ: parameter 0x100 + channel of CNV returns the newest sample word (R301). -/
def execSampleRead (p : Pair) (s : State) : Host.Outcome State Fault Refusal :=
  match s.takeOp p.val 2 2 with
  | none => .next s
  | some e =>
    if e.parBlock ≠ 7 || e.parIndex < 0x100 || e.parIndex > 0x1AC then .next s
    else .next (s.finish p.val e.sub 0 (canonU (s.newestSample (e.parIndex - 0x100)).word.toNat))

end Sys2Proof.Machine
end

