-- ==== Sys2Proof/Machine/CombRecord.lean ====
section
/-! DEFINITION. Comb's tables and their judgement: slot and model records, microprograms, phases, the dispatch of a base
period, the three table LOADs and the class dividers (R160 to R164, R172 to R193, R197 to R199). -/

namespace Sys2Proof.Machine

/-! ### The slot record (R172) -/

/-- Bits [hi:lo] of word i of a slot record. -/
def rw (r : BitVec 1280) (i hi lo : Nat) : Nat := fld r (64 * i + hi) (64 * i + lo)
/-- The same as a signed number. -/
def rws (r : BitVec 1280) (i hi lo : Nat) : Int := sext (hi + 1 - lo) (rw r i hi lo)

/-- EN. -/
def rEn (r : BitVec 1280) : Bool := tbit r 0
/-- CLASS. -/
def rClass (r : BitVec 1280) : Nat := rw r 0 3 1
/-- MODE. -/
def rMode (r : BitVec 1280) : Nat := rw r 0 5 4
/-- MODEL_EN. -/
def rModelEn (r : BitVec 1280) : Bool := tbit r 6
/-- SP_KEEP. -/
def rSpKeep (r : BitVec 1280) : Bool := tbit r 7
/-- BUMP_EN. -/
def rBumpEn (r : BitVec 1280) : Bool := tbit r 8
/-- PROG. -/
def rProg (r : BitVec 1280) : Nat := rw r 0 23 10
/-- HOLD. -/
def rHold (r : BitVec 1280) : Nat := rw r 0 29 24
/-- TRACK_MIN. -/
def rTrackMin (r : BitVec 1280) : Nat := rw r 0 37 30
/-- XKEEP. -/
def rXkeep (r : BitVec 1280) : Nat := rw r 0 45 38
/-- FB_SRC. -/
def rFb (r : BitVec 1280) : Nat := rw r 1 15 0
/-- FF_SRC. -/
def rFf (r : BitVec 1280) : Nat := rw r 1 31 16
/-- TRK_SRC. -/
def rTrk (r : BitVec 1280) : Nat := rw r 1 47 32
/-- OUT_DST. -/
def rDst (r : BitVec 1280) : Nat := rw r 2 15 0
/-- IN_OFFS. -/
def rInOffs (r : BitVec 1280) : Nat := rw r 2 31 16
/-- OUT_OFFS. -/
def rOutOffs (r : BitVec 1280) : Nat := rw r 2 47 32
/-- BUMP_K. -/
def rBumpK (r : BitVec 1280) : Nat := rw r 2 51 48
/-- BUMP_S. -/
def rBumpS (r : BitVec 1280) : Nat := rw r 2 56 52
/-- BUMP_X. -/
def rBumpX (r : BitVec 1280) : Nat := rw r 2 59 57
/-- SP. -/
def rSp (r : BitVec 1280) : Int := rws r 3 23 0
/-- SP_LO. -/
def rSpLo (r : BitVec 1280) : Int := rws r 3 47 24
/-- SP_HI. -/
def rSpHi (r : BitVec 1280) : Int := rws r 4 23 0
/-- SP_RATE. -/
def rSpRate (r : BitVec 1280) : Int := rws r 4 47 24
/-- OUT_LO. -/
def rOutLo (r : BitVec 1280) : Int := rws r 5 23 0
/-- OUT_HI. -/
def rOutHi (r : BitVec 1280) : Int := rws r 5 47 24
/-- OUT_RATE. -/
def rOutRate (r : BitVec 1280) : Int := rws r 6 23 0
/-- MV. -/
def rMv (r : BitVec 1280) : Int := rws r 6 47 24
/-- Coefficient Ki, its 21 bits. -/
def rK (r : BitVec 1280) (i : Nat) : Nat := rw r (7 + i / 3) (21 * (i % 3) + 20) (21 * (i % 3))
/-- Register Xi as loaded. -/
def rX (r : BitVec 1280) (i : Nat) : Int := sext 40 (rw r (11 + i) 39 0)

/-- A selector of a T or X register (R180). -/
def selReg (x : Nat) : Bool := decide (8 ≤ x) && decide (x ≤ 0x13)

/-- The fields of a record with EN = 1 by themselves (R172, R173); W19 is ignored. -/
def recFieldsOk (r : BitVec 1280) : Bool :=
  let unnamed := rw r 0 9 9 + rw r 0 63 46 + rw r 1 63 48 + rw r 2 63 60 + rw r 3 63 48 + rw r 4 63 48 + rw r 5 63 48 +
    rw r 6 63 48 + rw r 7 63 63 + rw r 8 63 63 + rw r 9 63 63 + rw r 10 63 63
  decide (unnamed = 0) && decide (rMode r ≠ 3) && (decide (rHold r ≤ 31) || decide (rHold r = 0x3F)) &&
    decide (rTrackMin r ≥ 1) && srcOk (rFb r) && srcOk (rFf r) && srcOk (rTrk r) && dstOk (rDst r) &&
    decide (rInOffs r ≤ 19999) && decide (rOutOffs r ≤ 19999) && (dstField (rDst r) || decide (rOutOffs r = 0)) &&
    decide (rBumpK r ≤ 11) && selReg (rBumpS r) &&
    decide (rSpRate r ≥ 0) && decide (rOutRate r ≥ 0) && decide (rSpLo r ≤ rSpHi r) && decide (rOutLo r ≤ rOutHi r)

/-! ### The model record (R197, R198) -/

/-- Bits [hi:lo] of word i of a model record. -/
def mw (m : BitVec 512) (i hi lo : Nat) : Nat := fld m (64 * i + hi) (64 * i + lo)
/-- A1, A2, B1, B2, KL: 21 bits each. -/
def mA1 (m : BitVec 512) : Nat := mw m 0 20 0
/-- A2. -/
def mA2 (m : BitVec 512) : Nat := mw m 0 41 21
/-- B1. -/
def mB1 (m : BitVec 512) : Nat := mw m 0 62 42
/-- B2. -/
def mB2 (m : BitVec 512) : Nat := mw m 1 20 0
/-- KL. -/
def mKl (m : BitVec 512) : Nat := mw m 1 41 21
/-- DEAD. -/
def mDead (m : BitVec 512) : Nat := mw m 1 48 42
/-- C. -/
def mC (m : BitVec 512) : Int := sext 40 (mw m 2 39 0)
/-- MU_SRC. -/
def mMu (m : BitVec 512) : Nat := mw m 3 15 0
/-- THR. -/
def mThr (m : BitVec 512) : Nat := mw m 3 39 16
/-- PERSIST. -/
def mPersist (m : BitVec 512) : Nat := mw m 3 47 40
/-- CLEAR. -/
def mClear (m : BitVec 512) : Nat := mw m 3 55 48
/-- RESP. -/
def mResp (m : BitVec 512) : Nat := mw m 3 57 56
/-- LATCH. -/
def mLatch (m : BitVec 512) : Bool := decide (mw m 3 58 58 = 1)
/-- RB_EN. -/
def mRbEn (m : BitVec 512) : Bool := decide (mw m 3 59 59 = 1)
/-- RESEED. -/
def mReseed (m : BitVec 512) : Bool := decide (mw m 3 60 60 = 1)
/-- FB_MIN. -/
def mFbMin (m : BitVec 512) : Int := sext 24 (mw m 4 23 0)
/-- FB_MAX. -/
def mFbMax (m : BitVec 512) : Int := sext 24 (mw m 4 47 24)
/-- AGE_US. -/
def mAge (m : BitVec 512) : Nat := mw m 4 63 48
/-- RIDE_N. -/
def mRideN (m : BitVec 512) : Nat := mw m 5 15 0
/-- RB_THR. -/
def mRbThr (m : BitVec 512) : Nat := mw m 5 39 16
/-- RB_PERSIST. -/
def mRbPersist (m : BitVec 512) : Nat := mw m 5 47 40

/-- The model record of every entry at a logic-side start (R197). -/
def modelReset : BitVec 512 :=
  BitVec.ofNat 512 (2 ^ 64 * 2 ^ 42 + 2 ^ 192 * (8388607 * 2 ^ 16 + 2 ^ 40 + 2 ^ 48) +
    2 ^ 256 * (2 ^ 23 + 8388607 * 2 ^ 24) + 2 ^ 320 * (1 + 8388607 * 2 ^ 16 + 2 ^ 40))

/-- A model record's own fields (R198); M6 and M7 are ignored. -/
def modelFieldsOk (m : BitVec 512) : Bool :=
  let unnamed := mw m 0 63 63 + mw m 1 63 49 + mw m 3 63 61 + mw m 5 63 48
  decide (unnamed = 0) && decide (1 ≤ mDead m) && decide (mDead m ≤ 64) && srcOk (mMu m) &&
    decide (mThr m ≤ 8388607) && decide (mPersist m ≥ 1) && decide (mClear m ≥ 1) && decide (mResp m ≠ 3) &&
    decide (mFbMin m ≤ mFbMax m) && decide (mRideN m ≥ 1) && decide (mRbThr m ≤ 8388607) &&
    decide (mRbPersist m ≥ 1)

/-- A slot record against its model record: RESP against MODEL_EN, RB_EN against OUT_DST (R198). -/
def modelFits (r : BitVec 1280) (m : BitVec 512) : Bool :=
  (decide (mResp m ≠ 2) || rModelEn r) && (!mRbEn m || decide (srcType (rDst r) = 1))

/-! ### Microprograms (R178 to R181) -/

/-- Microword w of the store. -/
def CmbState.word (c : CmbState) (a : Nat) : Nat := (tget 0 c.store a).toNat
/-- OP. -/
def uOp (w : Nat) : Nat := w / 2 ^ 26 % 64
/-- D. -/
def uD (w : Nat) : Nat := w / 2 ^ 21 % 32
/-- S. -/
def uS (w : Nat) : Nat := w / 2 ^ 16 % 32
/-- K. -/
def uK (w : Nat) : Nat := w / 2 ^ 12 % 16
/-- IMM. -/
def uImm (w : Nat) : Nat := w % 4096
/-- IMM as a signed number. -/
def uImmS (w : Nat) : Int := sext 12 w

/-- A selector names an operand (R180). -/
def selOk (x : Nat) : Bool := decide (x ≤ 0x14)

/-- A microword is valid (R179 to R181): fields that its operation does not use are zero, writable selectors only where
it writes. -/
def uwordOk (w : Nat) : Bool :=
  let d := uD w
  let s := uS w
  let k := uK w
  let i := uImm w
  let noD := decide (d = 0)
  let noS := decide (s = 0)
  let noK := decide (k = 0)
  let noI := decide (i = 0)
  let okK := decide (k ≤ 11)
  match uOp w with
  | 0x00 => noD && noS && noK && noI
  | 0x01 => noD && noS && noK && noI
  | 0x02 => noD && selOk s && noK && noI
  | 0x03 => noD && selOk s && okK && noI
  | 0x04 => noD && selOk s && okK && noI
  | 0x05 => noD && selOk s && okK && noI
  | 0x06 => noD && selOk s && noK && noI
  | 0x07 => noD && selOk s && noK && noI
  | 0x08 => selOk d && selOk s && noK && noI
  | 0x09 => noD && noS && noK
  | 0x0A => noD && noS && noK && decide ((uImmS w).natAbs ≤ 39)
  | 0x0B => noD && noS && noK && noI
  | 0x0C => noD && noS && noK && noI
  | 0x0D => noD && selOk s && noK && noI
  | 0x0E => noD && selOk s && noK && noI
  | 0x0F => selOk d && selOk s && noK && noI
  | 0x10 => noD && selOk s && noK && noI
  | 0x11 => (selReg d || decide (d = 4)) && noS && noK && noI
  | 0x12 => selReg d && noS && noK && noI
  | 0x13 => noD && selOk s && noK && noI
  | 0x14 => noD && selOk s && noK && decide (i < 8)
  | 0x15 => selReg d && selOk s && okK && noI
  | 0x16 => selReg d && noS && noK && noI
  | 0x17 => selOk d && selOk s && noK && noI
  | 0x18 => noD && selOk s && noK && decide (i ≤ 39)
  | 0x19 => noD && noS && noK && noI
  | 0x1A => noD && selOk s && noK && noI
  | 0x1B => noD && noS && noK && noI
  | 0x1C => noD && noS && noK && noI
  | 0x1D => noD && noS && noK && noI
  | 0x1E => selReg d && selReg s && noK && noI
  | 0x1F => noD && noS && noK && noI
  | _ => false

/-- Lane cycles of an operation (R181). -/
def uCycles (op : Nat) : Nat :=
  match op with
  | 0x10 => 2 | 0x15 => 2 | 0x16 => 2 | 0x17 => 2 | 0x18 => 2 | 0x19 => 8 | 0x1A => 24 | 0x1B => 10 | 0x1C => 4
  | 0x1D => 2 | 0x1E => 2 | _ => 1

/-- The cycles of a valid program of at most fuel microwords from address a, and the address of its END (R178). -/
def progWalk (c : CmbState) : Nat → Nat → Option (Nat × Nat)
  | 0, _ => none
  | fuel + 1, a =>
    if a ≥ 16384 then none
    else
      let w := c.word a
      if !uwordOk w then none
      else if uOp w = 0x1F then some (1, a)
      else (progWalk c fuel (a + 1)).map (fun x => (x.1 + uCycles (uOp w), x.2))

/-- How many OUTW a program holds, from address a to last. -/
def outwCount (c : CmbState) (a last : Nat) : Nat :=
  ((List.range (last + 1 - a)).filter (fun i => decide (uOp (c.word (a + i)) = 0x1D))).length

/-- The evaluation cost of a program (R164), if it is valid under R178. -/
def progCost (c : CmbState) (a : Nat) : Option Nat :=
  match progWalk c 256 a with
  | some (n, last) => if outwCount c a last ≤ 1 && decide (n + 9 ≤ 1024) then some (n + 9) else none
  | none => none

/-! ### Phases and dispatch (R161 to R164, R185, R186) -/

/-- The start of base period n on TB1 (R160). -/
def State.baseStart (s : State) (n : Nat) : Time := tadd s.cmb.epoch (Int.ofNat (n * 20000))

/-- DIV of a class (R161). -/
def State.classDiv (s : State) (c : Nat) : Nat :=
  if c = 0 then 1 else if c = 7 then 500 else fld (s.reg (0x5040 + 4 * c)) 8 0

/-- What the dispatch needs to know of an enabled slot. -/
structure Disp where
  slot : Nat
  div : Nat
  phase : Nat
  inOffs : Nat
  outOffs : Nat
  cost : Nat
  field : Bool
  deriving DecidableEq, Repr

/-- The dispatch entry of an accepted record. -/
def State.dispOf (s : State) (k : Nat) (r : BitVec 1280) (phase : Nat) : Disp :=
  { slot := k, div := s.classDiv (rClass r), phase := phase, inOffs := rInOffs r, outOffs := rOutOffs r,
    cost := (progCost s.cmb (rProg r)).getD 9, field := dstField (rDst r) }

/-- The slot is due in base period n. -/
def Disp.due (d : Disp) (n : Nat) : Bool := decide (n % d.div = d.phase)

/-- Lane cycles of each of the 500 base periods of the pattern. -/
def patternCycles (l : List Disp) : List Nat :=
  (List.range 500).map (fun n => ((l.filter (fun d => d.due n)).map (·.cost)).foldl (· + ·) 0)

/-- The heaviest of the base periods that a slot of a DIV and phase joins. -/
def heaviestOf (cyc : List Nat) (div phase : Nat) : Nat :=
  (List.range (500 / div)).foldl (fun m i => max m (cyc.getD (phase + i * div) 0)) 0

/-- The phase of R163 among candidates: the one whose heaviest base period is lightest, the lowest among equals. -/
def choosePhase (cyc : List Nat) (div : Nat) : List Nat → Nat
  | [] => 0
  | p :: r =>
    let best := r.foldl (fun (b : Nat × Nat) q =>
      let h := heaviestOf cyc div q
      if h < b.2 then (q, h) else b) (p, heaviestOf cyc div p)
    best.1

/-- A slot earlier in the order of R164: by IN_OFFS, then by number. -/
def dispBefore (a b : Disp) : Bool :=
  decide (a.inOffs < b.inOffs) || (decide (a.inOffs = b.inOffs) && decide (a.slot < b.slot))

/-- A dispatch entry put in its place. -/
def dispInsert (d : Disp) : List Disp → List Disp
  | [] => [d]
  | x :: r => if dispBefore d x then d :: x :: r else x :: dispInsert d r

/-- Dispatch order (R164). -/
def dispOrder (l : List Disp) : List Disp := l.foldr dispInsert []

/-- The lane that is free first: its index and its free instant. -/
def freeLane (lanes : List Nat) : Nat × Nat :=
  lanes.zipIdx.foldl (fun b x => if x.1 < b.2 then (x.2, x.1) else b) (0, lanes.headD 0)

/-- Start and finish of each slot of an ordered dispatch, in ns after the base period start (R164: 2 ns a cycle). -/
def laneRun : List Nat → List Disp → List (Nat × Nat × Nat × Disp)
  | _, [] => []
  | lanes, d :: r =>
    let l := freeLane lanes
    let st := max l.2 d.inOffs
    let fin := st + 2 * d.cost
    (d.slot, st, fin, d) :: laneRun (setAt lanes l.1 fin) r

/-- The dispatch of base period n over slots in dispatch order. -/
def dispatchOf (order : List Disp) (n : Nat) : List (Nat × Nat × Nat × Disp) :=
  laneRun (List.replicate 16 0) (order.filter (fun d => d.due n))

/-- A slot that finishes after its limit (R185 condition 6): the lowest one. -/
def deadlineOffence (order : List Disp) : Option Nat :=
  let bad := (List.range 500).flatMap (fun n => (dispatchOf order n).filterMap (fun x =>
    if x.2.2.1 > 20000 || (x.2.2.2.field && decide (x.2.2.1 + 580 > x.2.2.2.outOffs)) then some x.1 else none))
  match bad with
  | [] => none
  | b :: r => some (r.foldl min b)

/-! ### The accepted table -/

/-- The accepted record of a slot. -/
def CmbState.rec_ (c : CmbState) (k : Nat) : BitVec 1280 := tget 0 c.slots k
/-- The run-time state of a slot. -/
def CmbState.slotRt (c : CmbState) (k : Nat) : SlotRt := tget {} c.rt k
/-- The state with slot k's run-time state changed by f. -/
def State.modSlot (s : State) (k : Nat) (f : SlotRt → SlotRt) : State :=
  { s with cmb := { s.cmb with rt := tmod {} s.cmb.rt k f } }

/-- A slot counts as enabled: its accepted record has EN (R187). -/
def State.slotEnabled (s : State) (k : Nat) : Bool := rEn (s.cmb.rec_ k)

/-- The dispatch entries of the accepted table. -/
def State.accepted (s : State) : List Disp :=
  (s.cmb.slots.filter (fun x => rEn x.2)).map (fun x => s.dispOf x.1 x.2 (s.cmb.slotRt x.1).phase)

/-- Slots that run but whose accepted record disables them: the record takes effect at the next evaluation, which takes no lane time
any more (R187). -/
def State.leaving (s : State) : List Disp :=
  (s.cmb.rt.filter (fun x => x.2.on && !s.slotEnabled x.1)).map (fun x => { s.dispOf x.1 x.2.eff x.2.phase with cost := 0 })

/-- Lane cycles of the heaviest base period of the accepted table (CMB_CAP_STAT). -/
def State.peakCycles (s : State) : Nat := (patternCycles s.accepted).foldl max 0

/-- What is due in base period n in dispatch order, with starts and finishes (R164). -/
def State.dispatch (s : State) (n : Nat) : List (Nat × Nat × Nat × Disp) := dispatchOf (dispOrder (s.accepted ++ s.leaving)) n

/-- The slots due in base period n with their starts and finishes, in dispatch order (R164). -/
def State.duePlan (s : State) (n : Nat) : List (Nat × Nat × Nat) := (s.dispatch n).map (fun x => (x.1, x.2.1, x.2.2.1))

/-! ### Loads that take effect record by record (R187, R190) -/

/-- Load id has one record less to wait for; sup names the slot where that record was replaced. -/
def loadDone (id : Nat) (sup : Option Nat) (l : CombLoad) : CombLoad :=
  if l.id = id then { l with left := l.left - 1, superseded := l.superseded.or sup } else l

/-- Loads with nothing left complete: 0x00, or 0x26 with the first slot replaced (R187, R190). -/
def State.settleLoads (s : State) : State :=
  let ready := s.cmb.loads.filter (fun l => decide (l.left = 0))
  ready.foldl (fun s l => match l.superseded with
    | some k => s.finish l.pair.val l.sub 0x26 (BitVec.ofNat 64 k)
    | none => s.finish l.pair.val l.sub 0 (BitVec.ofNat 64 l.count))
    { s with cmb := { s.cmb with loads := s.cmb.loads.filter (fun l => decide (l.left ≠ 0)) } }

/-- One record of load id is through: in effect, disabled, or replaced (sup: its slot). -/
def State.recordDone (s : State) (id : Nat) (sup : Option Nat) : State :=
  { s with cmb := { s.cmb with loads := s.cmb.loads.map (loadDone id sup) } }

/-! ### Judging a slot LOAD (R185, R186, R193, R198) -/

/-- The model record that a slot would run with. -/
def CmbState.modelOf (c : CmbState) (k : Nat) : BitVec 512 := tget modelReset c.models k

/-- A slot claims the FF destination of another: the slot's FF_SRC must be none (R175). -/
def ffConflict (claims : List Claim) (slots : Sparse (BitVec 1280)) (k : Nat) (r : BitVec 1280) : Bool :=
  (decide (rFf r ≠ 0) && ((holderOf claims (0xC000 + k)).isSome ||
    slots.any (fun x => rEn x.2 && decide (rDst x.2 = 0x6000 + k)))) ||
  (decide (srcType (rDst r) = 6) && (let t := tget 0 slots (srcIndex (rDst r)); rEn t && decide (rFf t ≠ 0)))

/-- A hold link is valid (R193): the hold program has the loop, no other slot links it, and OUT_DST is its output.
loopDst gives the output identifier of each loop of the program. -/
def holdLinkOk (loopDst : Nat → Option Nat) (slots : Sparse (BitVec 1280)) (k : Nat) (r : BitVec 1280) : Bool :=
  decide (rHold r = 0x3F) ||
    (decide (loopDst (rHold r) ≠ none) && decide (loopDst (rHold r) = dstClaim (rDst r)) &&
      !slots.any (fun x => decide (x.1 ≠ k) && rEn x.2 && decide (rHold x.2 = rHold r)))

/-- The record keeps an enabled slot in a way that R186 exempts: the same offsets and destination, no higher cost, the
same class or one whose DIV is a multiple of the old one. -/
def exemptRec (s : State) (old new : BitVec 1280) : Bool :=
  !rEn new || (rEn old && decide (rInOffs new = rInOffs old) && decide (rOutOffs new = rOutOffs old) &&
    decide (rDst new = rDst old) &&
    decide ((progCost s.cmb (rProg new)).getD 9 ≤ (progCost s.cmb (rProg old)).getD 9) &&
    (decide (rClass new = rClass old) || decide (s.classDiv (rClass new) % s.classDiv (rClass old) = 0)))

/-- The phases after a load (R163): slots that keep theirs, then each newly enabled one in slot-number order. Answers the
dispatch entries of the whole table. -/
def assignPhases (s : State) (slots : Sparse (BitVec 1280)) : List Disp :=
  let en := slots.filter (fun x => rEn x.2)
  let keeps (x : Nat × BitVec 1280) : Bool := s.slotEnabled x.1 && decide (rClass (s.cmb.rec_ x.1) = rClass x.2)
  let kept := (en.filter keeps).map (fun x => s.dispOf x.1 x.2 (s.cmb.slotRt x.1).phase)
  let fresh := en.filter (fun x => !keeps x)
  (fresh.foldl (fun (a : List Disp × List Nat) x =>
    let d := s.dispOf x.1 x.2 0
    let old := s.cmb.rec_ x.1
    let all := List.range d.div
    let cand := if s.slotEnabled x.1 && exemptRec s old x.2 then
        all.filter (fun p => decide (p % s.classDiv (rClass old) = (s.cmb.slotRt x.1).phase)) else all
    let d := { d with phase := choosePhase a.2 d.div cand }
    (a.1 ++ [d], a.2.zipIdx.map (fun y => if d.due y.2 then y.1 + d.cost else y.1)))
    (kept, patternCycles kept)).1

/-- The claims of a load's records, in slot order (R174): claimed from acceptance. -/
def loadClaims (l : List (Nat × BitVec 1280)) (cl : List Claim) : Judged (List Claim) :=
  claimEach (fun cl x => match rEn x.2, dstClaim (rDst x.2) with
    | true, some id => claim cl id rankGeneral (ownSlot x.1)
    | _, _ => .ok cl) l cl

/-- A destination of TYPE 0x2 names an output whose MODE as accepted is not DUTY (R303, R305, R642). -/
def notDuty (hsTab : Sparse (BitVec 64)) (r : BitVec 1280) : Bool :=
  decide (srcType (rDst r) = 2) && decide (hsMode (tget 0 hsTab (srcIndex (rDst r))) ≠ 2)

/-- A slot load judged in the order of R185: the claims and the dispatch entries it makes, or its refusal; a record without a hold link
takes no output that is in COMMAND (R499). DEDUCED (log 98): a
destination that is no DUTY output is refused between the steps 1 and 2. -/
def judgeSlots (s : State) (loopDst : Nat → Option Nat) (l : List (Nat × BitVec 1280)) :
    Judged (List Claim × List Disp × Nat) :=
  let slots := tload (fun _ => 0) s.cmb.slots l
  let en := l.filter (fun x => rEn x.2)
  let no (code : Byte) (n : Nat) : Judged (List Claim × List Disp × Nat) := .refused code (BitVec.ofNat 64 n)
  match en.find? (fun x => !recFieldsOk x.2 || !modelFits x.2 (s.cmb.modelOf x.1) ||
      ffConflict s.fio.claims slots x.1 x.2) with
  | some x => no 0x24 x.1
  | none =>
    match en.find? (fun x => notDuty s.fio.hsTab x.2) with
    | some x => no 0x4A x.1
    | none =>
    match en.find? (fun x => (progCost s.cmb (rProg x.2)).isNone) with
    | some x => no 0x22 x.1
    | none =>
      match en.find? (fun x => !holdLinkOk loopDst slots x.1 x.2 ||
        (decide (rHold x.2 = 0x3F) && (dstClaim (rDst x.2)).any s.seenCommand)) with
      | some x => no 0x25 x.1
      | none =>
        match loadClaims l s.fio.claims with
        | .refused c w => .refused c w
        | .ok cl =>
          let ds := assignPhases s slots
          let peak := (patternCycles ds).foldl max 0
          if l.all (fun x => exemptRec s (s.cmb.rec_ x.1) x.2) then .ok (cl, ds, peak)
          else if peak > 136000 then no 0x20 peak
          else match deadlineOffence (dispOrder ds) with
            | some k => no 0x21 k
            | none => .ok (cl, ds, peak)

/-- A record of an accepted load waits for its slot's evaluation, or is in effect at once where it leaves a slot that
does not run disabled, whose model record then is held in the table (R187, R199); a record that waited is replaced (R190). -/
def State.pendRecord (s : State) (id : Nat) (x : Nat × BitVec 1280) : State :=
  let r := s.cmb.slotRt x.1
  let s := match r.pend with
    | some (_, old) => s.recordDone old (some x.1)
    | none => s
  if !rEn x.2 && !r.on then
    let s := match r.pendModel with
      | some (_, mid) => s.recordDone mid none
      | none => s
    (s.modSlot x.1 (fun r => { r with pend := none, pendModel := none, heldSp := none })).recordDone id none
  else s.modSlot x.1 (fun r => { r with pend := some (x.2, id), bridgedMode := false, bridgedMv := false })

/-- A claim of a slot that no accepted or waiting record of it names is released (R174). -/
def State.dropSlotClaims (s : State) (k : Nat) : State :=
  let keep := if s.slotEnabled k then dstClaim (rDst (s.cmb.rec_ k)) else none
  s.setClaims (s.fio.claims.filter (fun c =>
    !(decide (c.rank = rankGeneral) && decide (c.num = ownSlot k) && decide (some c.id ≠ keep))))

/-- An accepted slot LOAD: the table, phases and claims as from now; each record takes effect at its slot's evaluation, and with it what
it changes of the claims (R174). -/
def State.acceptSlots (s : State) (p : Pair) (sub : Word) (l : List (Nat × BitVec 1280)) (cl : List Claim)
    (ds : List Disp) (peak : Nat) : State :=
  let id := s.cmb.nextLoad + 1
  let s := s.setClaims cl
  let s : State := { s with cmb := { s.cmb with
    slots := tload (fun _ => 0) s.cmb.slots l, nextLoad := id, peakCyc := peak
    loads := s.cmb.loads ++ [{ id := id, pair := p, sub := sub, count := l.length, left := l.length }] } }
  let s := ds.foldl (fun s d => s.modSlot d.slot (fun r => { r with phase := d.phase })) s
  let s := l.foldl (fun s x => s.pendRecord id x) s
  let s := l.foldl (fun s x =>
    if (s.cmb.slotRt x.1).on || (s.cmb.slotRt x.1).pend.isSome then s else s.dropSlotClaims x.1) s
  (s.accept p.val sub).settleLoads

/-- The 1280-bit entries of a LOAD. -/
def Entry.words1280 (e : Entry) : List (BitVec 1280) := (List.range e.count).map (entryAt 1280 160 e.data)
/-- The 512-bit entries of a LOAD. -/
def Entry.words512 (e : Entry) : List (BitVec 512) := (List.range e.count).map (entryAt 512 64 e.data)

/-- The output identifier of a hold loop of the hold program in force, as the logic side sees it (R193, R499). -/
def State.loopDst (s : State) (i : Nat) : Option Nat :=
  match s.seen.drn.loops.find? (fun x => decide (x.1 = i)) with
  | some x => if x.2.dst = 0 then none else some x.2.dst
  | none => none

/-- SLOT_TABLE_LOAD: table 0x001 of CMB (R172, R185 to R190). X0 to X7 are canonical signed words (R95). -/
def doSlotTableLoad (p : Pair) (s : State) : Host.Outcome State Fault Refusal :=
  match s.takeLoad p 5 1 with
  | none => .next s
  | some e =>
    match firstNoncanon 160 ((List.range 8).map (fun i => (11 + i, true))) e.data with
    | some i => .next (s.noteNoncanon.finish p.val e.sub 0x04 (BitVec.ofNat 64 i))
    | none =>
      let l := withIndex e.first e.words1280
      match judgeSlots s s.loopDst l with
      | .refused c r => .next (s.finish p.val e.sub c r)
      | .ok (cl, ds, peak) => .next (s.acceptSlots p e.sub l cl ds peak)

/-! ### The microprogram store (R178, R191) -/

/-- Store addresses of a program that an enabled slot names. -/
def State.programSpan (s : State) (r : BitVec 1280) : Option (Nat × Nat) :=
  (progWalk s.cmb 256 (rProg r)).map (fun x => (rProg r, x.2))

/-- The records whose programs are in use: of enabled slots and of slots that run. -/
def State.programsInUse (s : State) : List (Nat × Nat) :=
  (((s.cmb.slots.filter (fun x => rEn x.2)).map (·.2)) ++ ((s.cmb.rt.filter (fun x => x.2.on)).map (·.2.eff))).filterMap
    s.programSpan

/-- MICROPROGRAM_LOAD: table 0x002 of CMB; a change inside a program in use is refused with 0x23 (R191). -/
def doMicroprogramLoad (p : Pair) (s : State) : Host.Outcome State Fault Refusal :=
  match s.takeLoad p 5 2 with
  | none => .next s
  | some e =>
    let ws : List (Nat × Word) := withIndex e.first ((List.range e.count).map (entryAt 32 4 e.data))
    let used := s.programsInUse
    match ws.find? (fun x => decide (tget 0 s.cmb.store x.1 ≠ x.2) &&
        used.any (fun u => decide (u.1 ≤ x.1) && decide (x.1 ≤ u.2))) with
    | some x => .next (s.finish p.val e.sub 0x23 (BitVec.ofNat 64 x.1))
    | none => .next (State.finish { s with cmb := { s.cmb with store := tload (fun _ => 0) s.cmb.store ws } } p.val e.sub 0
        (BitVec.ofNat 64 e.count))

/-! ### The model table (R197 to R199) -/

/-- A model record of an accepted load: for a slot that counts as enabled it waits for the slot's evaluation; else it is
held in the table (R199). -/
def State.pendModelRec (s : State) (id : Nat) (x : Nat × BitVec 512) : State :=
  let r := s.cmb.slotRt x.1
  let s := match r.pendModel with
    | some (_, old) => s.recordDone old (some x.1)
    | none => s
  if r.on || s.slotEnabled x.1 then s.modSlot x.1 (fun r => { r with pendModel := some (x.2, id) })
  else s.recordDone id none

/-- MODEL_TABLE_LOAD: table 0x003 of CMB; M2 is a canonical signed word (R95, R197 to R199). -/
def doModelTableLoad (p : Pair) (s : State) : Host.Outcome State Fault Refusal :=
  match s.takeLoad p 5 3 with
  | none => .next s
  | some e =>
    match firstNoncanon 64 [(2, true)] e.data with
    | some i => .next (s.noteNoncanon.finish p.val e.sub 0x04 (BitVec.ofNat 64 i))
    | none =>
      let l := withIndex e.first e.words512
      match l.find? (fun x => !modelFieldsOk x.2 || (s.slotEnabled x.1 && !modelFits (s.cmb.rec_ x.1) x.2)) with
      | some x => .next (s.finish p.val e.sub 0x24 (BitVec.ofNat 64 x.1))
      | none =>
        let id := s.cmb.nextLoad + 1
        let s : State := { s with cmb := { s.cmb with
          models := tload (fun _ => modelReset) s.cmb.models l, nextLoad := id
          loads := s.cmb.loads ++ [{ id := id, pair := p, sub := e.sub, count := l.length, left := l.length }] } }
        .next ((l.foldl (fun s x => s.pendModelRec id x) s).accept p.val e.sub).settleLoads

/-! ### Class dividers (R162) -/

/-- A class holds an enabled slot. -/
def State.classInUse (s : State) (c : Nat) : Bool :=
  s.cmb.slots.any (fun x => rEn x.2 && decide (rClass x.2 = c)) ||
    s.cmb.rt.any (fun x => x.2.on && decide (rClass x.2.eff = c))

/-- CMB_CLASS_WRITE: DIV of a class; a DIV that does not divide 500, or one that changes a class in use, is ignored and
sets CFG_ERR (R162). Classes 0 and 7 are read-only. -/
def execCmbClassWrite (c : Fin 8) (w : Word) (s : State) : Host.Outcome State Fault Refusal :=
  if !s.hostUp then .next s else
  let i := c.val
  let div := fld w 8 0
  if i = 0 || i = 7 then .next s
  else if !s.rwlOpen 5 then .next (s.noteLock 5 (decide (div ≠ s.classDiv i)))
  else if decide (div = 0) || decide (500 % div ≠ 0) || (decide (div ≠ s.classDiv i) && s.classInUse i) then
    .next { s with cmb := { s.cmb with cfgErr := true } }
  else .next (s.setReg (0x5040 + 4 * i) (BitVec.ofNat 32 div))

end Sys2Proof.Machine
end

