-- ==== Sys2Proof/Machine/Mire.lean ====
section
/-! DEFINITION. Mire: capture regions, lines, masks, triggers, frames in the Bog, delivery to record buffers (R331 to
R361, R38, R99). -/

namespace Sys2Proof.Machine

/-! ### The region record (R331) -/

/-- Bits [hi:lo] of word i of a region record. -/
def gw (g : BitVec 512) (i hi lo : Nat) : Nat := fld g (64 * i + hi) (64 * i + lo)
/-- Bit b of word i of a region record. -/
def gb (g : BitVec 512) (i b : Nat) : Bool := tbit g (64 * i + b)
/-- EN. -/
def gEn (g : BitVec 512) : Bool := gb g 0 0
/-- MODE: 0 STREAM, 1 SINGLE, 2 REARM. -/
def gMode (g : BitVec 512) : Nat := gw g 0 2 1
/-- SPILL. -/
def gSpill (g : BitVec 512) : Bool := gb g 0 3
/-- MASK_STOP. -/
def gMaskStop (g : BitVec 512) : Bool := gb g 0 4
/-- LATCH_EARLY. -/
def gLatchEarly (g : BitVec 512) : Bool := gb g 0 5
/-- URG_EN. -/
def gUrgEn (g : BitVec 512) : Bool := gb g 0 6
/-- RING. -/
def gRing (g : BitVec 512) : Nat := gw g 0 12 7
/-- BOG_BASE in MiB. -/
def gBase (g : BitVec 512) : Nat := gw g 0 27 13
/-- BOG_SIZE in MiB. -/
def gSize (g : BitVec 512) : Nat := gw g 0 41 28
/-- N_LINES. -/
def gLines (g : BitVec 512) : Nat := gw g 0 47 42
/-- PRE. -/
def gPre (g : BitVec 512) : Nat := gw g 1 31 0
/-- POST. -/
def gPost (g : BitVec 512) : Nat := gw g 1 63 32
/-- REDUCE as base periods per frame. -/
def gReduce (g : BitVec 512) : Nat := max 1 (gw g 2 15 0)
/-- The frames are REDUCED. -/
def gReduced (g : BitVec 512) : Bool := decide (gw g 2 15 0 ≥ 2)
/-- N_MASK. -/
def gNmask (g : BitVec 512) : Nat := gw g 2 22 16
/-- COMB. -/
def gComb (g : BitVec 512) : Nat := gw g 2 26 24
/-- WIN_NS. -/
def gWin (g : BitVec 512) : Nat := gw g 2 63 32
/-- TRIG_A or TRIG_B. -/
def gTrig (g : BitVec 512) (b : Bool) : Nat := if b then gw g 3 63 32 else gw g 3 31 0
/-- LEVEL_A or LEVEL_B. -/
def gLevel (g : BitVec 512) (b : Bool) : Int := sext 24 (if b then gw g 4 47 24 else gw g 4 23 0)
/-- URG_CHAN. -/
def gUrgChan (g : BitVec 512) : Nat := gw g 4 55 48
/-- URG_LIST. -/
def gUrgList (g : BitVec 512) : Nat := gw g 4 58 56
/-- HYST. -/
def gHyst (g : BitVec 512) : Int := Int.ofNat (gw g 5 23 0)

/-- KIND of a trigger descriptor (R350). -/
def tKind (d : Nat) : Nat := d % 16
/-- INDEX. -/
def tIndex (d : Nat) : Nat := d / 16 % 4096
/-- EDGE: 0 rising, 1 falling, 2 either. -/
def tEdge (d : Nat) : Nat := d / 2 ^ 16 % 4
/-- ITEM: 0 SP, 1 FB, 2 OUT, 3 RES. -/
def tItem (d : Nat) : Nat := d / 2 ^ 18 % 4

/-- KIND of a line (R334). -/
def lnKind (w : BitVec 64) : Nat := fld w 3 0
/-- FIRST. -/
def lnFirst (w : BitVec 64) : Nat := fld w 15 4
/-- COUNT. -/
def lnCount (w : BitVec 64) : Nat := fld w 28 16
/-- How many items a line kind has. -/
def lnItems : Nat → Nat
  | 1 => 4096 | 2 => 173 | 3 => 5 | 4 => 64 | 5 => 16 | 6 => 6 | 7 => 32 | 8 => 4096 | _ => 0

/-- A line is valid (R334). -/
def lineOk (w : BitVec 64) : Bool :=
  decide (fld w 63 29 = 0) && decide (lnCount w ≥ 1) && decide (lnFirst w + lnCount w ≤ lnItems (lnKind w))

/-- A region captures: FILLING, ARMED, POST or STREAMING. -/
def RegionSt.captures : RegionSt → Bool
  | .filling | .armed | .post | .streaming => true
  | .idle | .delivering | .done => false

/-- The region record and run-time state. -/
def State.region (s : State) (r : Nat) : BitVec 512 := tget 0 s.mir.regions r
/-- The run-time state of region r. -/
def State.regRt (s : State) (r : Nat) : RegionRt := tget {} s.mir.rt r
/-- The state with region r's run-time state changed by f. -/
def State.modReg (s : State) (r : Nat) (f : RegionRt → RegionRt) : State :=
  { s with mir := { s.mir with rt := tmod {} s.mir.rt r f } }
/-- The lines of region r, in line order. -/
def State.linesOf (s : State) (r : Nat) : List (BitVec 64) :=
  (List.range (gLines (s.region r))).map (fun l => tget 0 s.mir.lines (32 * r + l))

/-- A line of the list records item i of a kind. -/
def recorded (ls : List (BitVec 64)) (kind i : Nat) : Bool :=
  ls.any (fun w => decide (lnKind w = kind) && decide (lnFirst w ≤ i) && decide (i < lnFirst w + lnCount w))

/-! ### Frame sizes (R340 to R342) -/

/-- Slots in force: those that run. -/
def State.running (s : State) : List Disp :=
  (s.cmb.rt.filter (fun x => x.2.on)).map (fun x => s.dispOf x.1 x.2.eff x.2.phase)

/-- Scan entries of channel c due in base period n (R334). -/
def State.chanDue (s : State) (c n : Nat) : Nat :=
  ((List.range 5).map (fun l => if leEn (listEntry s.cnv.listsEff l 0) then
    ((s.dueEntries l n).filter (fun x => decide (leChan x.2 = c))).length else 0)).foldl (· + ·) 0

/-- Bytes of a line in a DATA frame of base period n, its count included. -/
def State.lineBytes (s : State) (run : List Disp) (n : Nat) (w : BitVec 64) : Nat :=
  let f := lnFirst w
  let c := lnCount w
  2 + match lnKind w with
  | 1 => 21 * (run.filter (fun d => decide (f ≤ d.slot) && decide (d.slot < f + c) && d.due n)).length
  | 2 => 8 * ((List.range c).map (fun i => s.chanDue (f + i) n)).foldl (· + ·) 0
  | 3 => 160 * c
  | 4 => 256
  | 5 => 5 * c
  | 6 => 5 * c
  | 7 => 32 * c
  | 8 => 9 * c
  | _ => 0

/-- Bytes of an entry in a REDUCED frame (R340). -/
def reducedEntry : Nat → Nat
  | 1 => 41 | 2 => 11 | 3 => 11 | 4 => 5 | 5 => 10 | 6 => 5 | 7 => 11 | 8 => 10 | _ => 0

/-- FMAX (R341). -/
def State.fmax (s : State) (g : BitVec 512) (ls : List (BitVec 64)) : Nat :=
  if gReduced g then 12 + (ls.map (fun w => 2 + lnCount w * reducedEntry (lnKind w))).foldl (· + ·) 0
  else
    let run := s.running
    (List.range 500).foldl (fun m n => max m (12 + (ls.map (s.lineBytes run n)).foldl (· + ·) 0)) 0

/-- V: one CAPTURE and one LAYOUT frame (R341). -/
def layoutSize (ls : List (BitVec 64)) : Nat :=
  ((ls.filter (fun w => decide (lnKind w = 1))).map (fun w => 8 * lnCount w)).foldl (· + ·) 0

/-- CAP (R341). -/
def State.capOf (s : State) (g : BitVec 512) (ls : List (BitVec 64)) : Nat :=
  (gSize g * 2 ^ 20 - 4096 - (72 + layoutSize ls)) / s.fmax g ls

/-- POST_EFF (R345, R346). -/
def postEff (g : BitVec 512) (cap : Nat) : Nat := if gSpill g then gPost g else min (gPost g) (cap - gPre g)

/-- What each enabled region writes: its bytes per second times REDUCE, and REDUCE (R342). -/
def State.writeRates (s : State) (regions : Sparse (BitVec 512)) : List (Nat × Nat) :=
  (regions.filter (fun x => gEn x.2)).map (fun x =>
    (s.fmax x.2 ((List.range (gLines x.2)).map (fun l => tget 0 s.mir.lines (32 * x.1 + l))) * 50000, gReduce x.2))

/-- A sum of fractions as numerator and denominator. -/
def sumRates (l : List (Nat × Nat)) : Nat × Nat :=
  let d := l.foldl (fun d x => Nat.lcm d x.2) 1
  ((l.map (fun x => x.1 * (d / x.2))).foldl (· + ·) 0, d)

/-- The total over enabled regions in bytes per second, rounded down (R342). -/
def State.totalRate (s : State) (regions : Sparse (BitVec 512)) : Nat :=
  (sumRates (s.writeRates regions)).1 / (sumRates (s.writeRates regions)).2

/-- The total exceeds 6.0 × 10⁹ bytes per second, no fraction of it left out (R342). -/
def State.rateTooHigh (s : State) (regions : Sparse (BitVec 512)) : Bool :=
  decide ((sumRates (s.writeRates regions)).1 > 6000000000 * (sumRates (s.writeRates regions)).2)

/-! ### The Bog (R33, R37, R333, R337) -/

/-- The region offset after a. -/
def regNext (size a : Nat) : Nat := if a + 1 ≥ size then 4096 else a + 1

/-- n region offsets from a on, round the circle of the store. -/
def regOffs (size : Nat) : Nat → Nat → List Nat
  | 0, _ => []
  | n + 1, a => a :: regOffs size n (regNext size a)

/-- The region offset n bytes after a in the store. -/
def regSkip (size a n : Nat) : Nat := 4096 + (a - 4096 + n) % (size - 4096)

/-- Region bytes at offsets, written in turn. -/
def State.regWrite (s : State) (r : Nat) (offs : List Nat) (b : List Byte) : State :=
  let base := gBase (s.region r) * 2 ^ 20
  { s with bog := (offs.zip b).foldl (fun m x => tput 0 x.2 m (base + x.1)) s.bog }

/-- Region bytes at offsets, with ECC set in the header of a frame that met a link error (R358). -/
def State.regRead (s : State) (r : Nat) (offs : List Nat) : List Byte :=
  let base := gBase (s.region r) * 2 ^ 20
  let ecc := (s.regRt r).eccOff
  offs.map (fun o => let b := tget 0 s.bog (base + o); if ecc.contains o then b ||| 8 else b)

/-- The store's size in bytes, header page included. -/
def regSize (g : BitVec 512) : Nat := gSize g * 2 ^ 20

/-- Bytes still to be delivered. -/
def undelivered (q : RegionRt) : Nat := (q.toSend.map (·.len)).foldl (· + ·) 0

/-- The header page is made zero (R333). -/
def State.clearHeader (s : State) (r : Nat) : State :=
  let base := gBase (s.region r) * 2 ^ 20
  { s with bog := s.bog.filter (fun c => decide (c.1 < base) || decide (base + 4096 ≤ c.1)) }

/-- The four words of the header page, the rest of which is zero since the region armed (R333). -/
def State.writeHeader (s : State) (r : Nat) : State :=
  let q := s.regRt r
  let oldest := match q.frames with | f :: _ => f.off | [] => q.next
  s.regWrite r (List.range 32) (leBytes 8 oldest ++ leBytes 8 q.next ++ leBytes 8 q.capt.toNat ++ leBytes 8 q.first)

/-- The oldest frames are given up until the store holds at most room bytes. -/
def trimFrames (room : Nat) : Nat → List FrameIx → List FrameIx
  | 0, l => l
  | n + 1, l => if (l.map (·.len)).foldl (· + ·) 0 ≤ room then l else trimFrames room n (l.drop 1)

/-- Frames queue for delivery as they are written: STREAM, and SPILL after the trigger (R346, R357). -/
def queues (g : BitVec 512) (q : RegionRt) : Bool :=
  decide (q.st = .streaming) || (gSpill g && decide (q.st = .post))

/-- A frame written at the region's NEXT (R337); none where it finds no room (R357). -/
def State.putFrame (s : State) (r type flags : Nat) (stamp : Time) (payload : List Byte) (last : Bool) : Option State :=
  let g := s.region r
  let q := s.regRt r
  let len := 12 + payload.length
  let room := regSize g - 4096
  if queues g q && decide (undelivered q + len > room) then none
  else
    let flags := flags ||| (if q.lostNow > 0 then 2 else 0)
    let bytes := leBytes 1 type ++ leBytes 1 flags ++ leBytes 3 payload.length ++ leBytes 5 stamp.toNat ++
      leBytes 2 q.seq.toNat ++ payload
    let data := decide (type ≤ 2)
    let s := s.regWrite r (regOffs (regSize g) len q.next) bytes
    let s := s.modReg r (fun q => { q with
      frames := trimFrames room (q.frames.length + 1)
        (q.frames ++ [{ off := q.next, len := len, idx := q.count, data := data }])
      next := regSkip (regSize g) q.next len, lostNow := 0
      toSend := if queues g q then q.toSend ++ [{ off := q.next, len := len, head := true, last := last }] else q.toSend })
    some (s.writeHeader r)

/-- A frame that found no room: counted, GAP in the next, 0x5A at most once per second of TB2 (R357). -/
def State.frameLost (s : State) (r : Nat) : State :=
  let q := s.regRt r
  let s := { s with mir := { s.mir with lost := satInc 0xFFFFFFFF s.mir.lost } }
  let n := q.lostEvt + 1
  let due := s.evtDue 1000000000 q.lastLostEvt
  let s := s.modReg r (fun q => { q with
    lostNow := q.lostNow + 1, anyLost := true, lostEvt := if due then 0 else n
    lastLostEvt := if due then some s.time.t2 else q.lastLostEvt })
  if due then s.raise 0x5A (BitVec.ofNat 64 (r + n * 2 ^ 16)) else s

/-- A frame other than DATA or REDUCED is written, or lost. -/
def State.putOther (s : State) (r type : Nat) (payload : List Byte) (last : Bool) : State :=
  match s.putFrame r type 0 s.time.tb1.ns payload last with
  | some s' => s'
  | none => s.frameLost r

/-! ### Delivery (R347, R349, R357) -/

/-- The front buffer of region r completes, with or without END. -/
def State.closeBuf (s : State) (r : Nat) (end_ : Bool) : State :=
  match (s.regRt r).bufs with
  | b :: rest =>
    (s.modReg r (fun q => { q with bufs := rest })).finish b.pair.val b.sub 0
      (BitVec.ofNat 64 (b.filled + end_.toNat * 2 ^ 32))
  | [] => s

/-- One stretch of bytes goes from the store to the front buffer (R357). -/
def State.deliverOne (s : State) (r : Nat) : State :=
  let q := s.regRt r
  match q.toSend, q.bufs with
  | sp :: rest, b :: bs =>
    let n := min sp.len (b.size - b.filled)
    let size := regSize (s.region r)
    let offs := regOffs size n sp.off
    let s := s.hostWrite (b.addr + BitVec.ofNat 64 b.filled) (s.regRead r offs)
    let whole := decide (n = sp.len)
    let s := s.modReg r (fun q => { q with
      eccOff := q.eccOff.filter (fun e => !offs.contains e)
      toSend := if whole then rest else { sp with off := regSkip size sp.off n, len := sp.len - n, head := false } :: rest
      bufs := { b with filled := b.filled + n } :: bs })
    if whole && sp.last then s.closeBuf r true
    else if b.filled + n = b.size then s.closeBuf r false else s
  | _, _ => s

/-- Delivery goes on while there are bytes and buffers; then the region is DONE, and a REARM region arms again (R343,
R347, R349). -/
def State.deliver (s : State) (r : Nat) : State :=
  let q := s.regRt r
  let s := forN (q.toSend.length + q.bufs.length) (fun _ s => s.deliverOne r) s
  let q := s.regRt r
  if q.st = .delivering then
    if q.toSend.isEmpty then
      s.modReg r (fun q => { q with st := .done, armPend := decide (gMode (s.region r) = 2) })
    else if q.bufs.isEmpty then s.modReg r (fun q => { q with st := .done })
    else s
  else if q.st = .done && !q.toSend.isEmpty && !q.bufs.isEmpty then s.modReg r (fun q => { q with st := .delivering })
  else s

/-! ### The end of a capture (R347 to R349, R356) -/

/-- Frames of the store from the DATA or REDUCED frame k on, before frame m, become undelivered, later LAYOUT and MARK frames in their
place (R349). -/
def spansFrom (k m : Nat) (l : List FrameIx) : List Span :=
  ((l.dropWhile (fun f => !(f.data && decide (f.idx ≥ k)))).filter (fun f => decide (f.idx < m))).map
    (fun f => { off := f.off, len := f.len, head := true, last := false })

/-- The frame after the last one of a capture whose trigger frame is f, and whether a mask ends it there: POST_EFF frames from f on
(R343), or with MASK_STOP as far as the first that holds a violation (R356). -/
def captureEnd (g : BitVec 512) (q : RegionRt) (f : Nat) : Nat × Bool :=
  match if gMaskStop g then q.viols.find? (fun v => decide (f ≤ v)) else none with
  | some v => if v < f + q.postEff then (v + 1, true) else (f + q.postEff, false)
  | none => (f + q.postEff, false)

/-- The end of the present capture by its frame count or a mask, where the last frame of it is written. -/
def RegionRt.ends (q : RegionRt) (g : BitVec 512) : Option Bool :=
  match q.trig with
  | some t => if (captureEnd g q t.frame).1 ≤ q.count then some (captureEnd g q t.frame).2 else none
  | none => none

/-- The frames written that the capture takes in: none after its last one, though a late trigger finds more of them (R343). -/
def RegionRt.upTo (q : RegionRt) (g : BitVec 512) : Nat :=
  match q.trig with
  | some t => min q.count (captureEnd g q t.frame).1
  | none => q.count

/-- CAPTURE payload (R348). What refers to a trigger or a violation that the capture does not have is a free value. -/
def State.capturePayload (s : State) (r : Nat) (byMask : Bool) : List Byte :=
  let g := s.region r
  let q := s.regRt r
  let free := (Config.noTrigger s.freeIdx).toNat
  let inst := match q.trig with | some t => t.stamp.toNat | none => free % 2 ^ 48
  let how := match q.trig with | some t => t.fromA.toNat + t.fromB.toNat * 2 + t.method % 4 * 4 | none => 0
  let before := match q.trig with | some _ => gPre g | none => q.count
  let after := match q.trig with | some t => q.upTo g - t.frame | none => 0
  let rel : Nat := match q.viol, q.trig with
    | some v, some t => (bitsOf 32 (Int.ofNat v.2 - Int.ofNat t.frame)).toNat
    | _, _ => free / 2 ^ 16 % 2 ^ 32
  leBytes 4 q.captures ++ leBytes 8 inst ++ leBytes 1 how ++
    leBytes 1 (q.clamped.toNat + (gSpill g).toNat * 2 + byMask.toNat * 4 + q.stopReq.toNat * 8 +
      q.earlyStamp.isSome.toNat * 16 + q.anyLost.toNat * 32) ++ [0, 0] ++ leBytes 4 before ++ leBytes 4 after ++
    leBytes 8 ((q.earlyStamp.map (·.toNat)).getD 0) ++ leBytes 2 q.earlyCnt ++ leBytes 2 q.rearmCnt ++
    leBytes 2 ((q.viol.map (·.1)).getD 0xFFFF) ++ [0, 0] ++ leBytes 4 rel ++ [0, 0, 0, 0]

/-- The last stretch to be delivered ends the last frame of a capture. -/
def lastSpan : List Span → List Span
  | [] => []
  | [x] => [{ x with last := true }]
  | x :: r => x :: lastSpan r

/-- The LAYOUT payloads that frames from k on can need: those later than k, and the one in force at it. -/
def layoutsFrom (k : Nat) : List (Nat × List Byte) → List (Nat × List Byte)
  | [] => []
  | x :: r => if x.1 ≤ k then [x] else x :: layoutsFrom k r

/-- The capture ends (R347): CAPTURE and LAYOUT frames, CAPT and FIRST, delivery, 0x56, DONE. A frame of these that finds no room is
lost (R357), and CAPT then stays as it is. -/
def State.endCapture (s : State) (r : Nat) (byMask : Bool) : State :=
  let g := s.region r
  let q := s.regRt r
  let spilled := gSpill g && q.trig.isSome
  let from_ := match q.trig with | some t => t.frame - gPre g | none => 0
  let upTo := q.upTo g
  let oldest := (q.frames.find? (fun f => f.data && decide (f.idx ≥ from_))).getD { off := q.next, len := 0, idx := q.count, data := true }
  let lay := ((q.layouts.find? (fun l => decide (l.1 ≤ oldest.idx))).map (·.2)).getD []
  let stream := decide (q.st = .streaming) || spilled
  let needFree := q.trig.isNone || q.viol.isNone
  let payload := s.capturePayload r byMask
  let capAt := q.next
  let s := match s.putFrame r 5 0 s.time.tb1.ns payload false with
    | some s' => s'.modReg r (fun q => { q with capt := BitVec.ofNat 40 capAt })
    | none => s.frameLost r
  let layAt := (s.regRt r).next
  let s := s.putOther r 3 lay false
  let s := if needFree then s.tookFree else s
  let len (n : Nat) : Nat := 12 + n
  let s := s.modReg r (fun q => { q with
    first := oldest.off, captures := (q.captures + 1) % 2 ^ 32, st := .delivering
    toSend := if stream then lastSpan q.toSend else
      let body := spansFrom from_ upTo (q.frames.filter (fun f => decide (f.off ≠ capAt) && decide (f.off ≠ layAt)))
      let l := { off := capAt, len := len payload.length, head := true, last := false } ::
        { off := layAt, len := len lay.length, head := true, last := false } :: body
      lastSpan l })
  let s := s.writeHeader r
  let s := { s with mir := { s.mir with done := putBit s.mir.done r true } }
  (s.raise 0x56 (BitVec.ofNat 64 (r + q.captures * 2 ^ 16))).deliver r

/-! ### Triggers (R344, R345, R350 to R354) -/

/-- Floor division of a signed number. -/
def floorDiv (a : Int) (b : Nat) : Int := a / Int.ofNat b

/-- The frame of a region whose base periods contain an instant; negative before k₀ (R345). -/
def State.frameAt (s : State) (r : Nat) (t : Stamp) : Int :=
  let n := s.cmb.n
  let bp := Int.ofNat n + floorDiv (sdiff48 t (stampOf (s.baseStart n))) 5120000
  floorDiv (bp - Int.ofNat (s.regRt r).k0) (gReduce (s.region r))

/-- The DATA or REDUCED frame with an index, where the store still holds it. -/
def frameWith (q : RegionRt) (idx : Nat) : Option FrameIx := q.frames.find? (fun f => f.data && decide (f.idx = idx))

/-- TRIG is set in a frame that has been written (R345). -/
def State.setTrigFlag (s : State) (r idx : Nat) : State :=
  match frameWith (s.regRt r) idx with
  | some f =>
    let o := [regNext (regSize (s.region r)) f.off]
    s.regWrite r o ((s.regRead r o).map (· ||| 1))
  | none => s

/-- The urgent request of a trigger (R354, R279). -/
def State.mirUrgent (s : State) (r : Nat) : State :=
  let g := s.region r
  if gUrgEn g then
    match s.requestUrgent (gUrgChan g) (gUrgList g) with
    | .ok s' => s'
    | .refused _ _ => s.raise 0x5D (BitVec.ofNat 64 r)
  else s

/-- What a trigger does to its region (R344, R345, R351, R354); true where it was taken. One that is detected when the last frame of its
capture is already written ends it at once (R343, R347, R356). DESIGN CHOICE (log 118): the triggers of one MARK frame are those
detected while its frame is in progress, and a trigger that an earlier one of its frame replaces is not counted in REARM_CNT. -/
def State.regionTrigger (s : State) (r : Nat) (st : Stamp) (a b : Bool) (method : Nat) : State × Bool :=
  let g := s.region r
  let q := s.regRt r
  let f := s.frameAt r st
  match q.st with
  | .streaming =>
    match q.mark with
    | some (o, _) =>
      (if sdiff48 st o < 0 then s.modReg r (fun q => { q with mark := some (st, method) }) else s, false)
    | none =>
      let s := s.modReg r (fun q => { q with mark := some (st, method) })
      ((s.raise 0x57 (BitVec.ofNat 64 (r + st.toNat * 2 ^ 16))).mirUrgent r, true)
  | .post =>
    match q.trig with
    | some t =>
      if decide (f = Int.ofNat t.frame) && (decide (sdiff48 st t.stamp < 0) || (decide (st = t.stamp) && a && !t.fromA)) then
        (s.modReg r (fun q => { q with trig := some { t with stamp := st, fromA := a, fromB := b, method := method } }),
          false)
      else (s.modReg r (fun q => { q with rearmCnt := satInc 0xFFFF q.rearmCnt }), false)
    | none => (s, false)
  | .idle => (s, false)
  | .delivering => (s.modReg r (fun q => { q with rearmCnt := satInc 0xFFFF q.rearmCnt }), false)
  | .done => (s.modReg r (fun q => { q with rearmCnt := satInc 0xFFFF q.rearmCnt }), false)
  | _ =>
    if f < Int.ofNat (gPre g) || decide (q.st = .filling) then
      let first := !q.earlyRaised && s.rbit 0x9000 0
      let s := s.modReg r (fun q => { q with
        earlyCnt := satInc 0xFFFF q.earlyCnt, earlyRaised := q.earlyRaised || first
        earlyStamp := if gLatchEarly g && q.earlyStamp.isNone then some st else q.earlyStamp })
      (if first then s.raise 0x58 (BitVec.ofNat 64 r) else s, false)
    else
      let s := s.modReg r (fun q => { q with
        st := .post, trig := some { stamp := st, fromA := a, fromB := b, method := method, frame := f.toNat }
        toSend := if gSpill g then spansFrom (f.toNat - gPre g) (captureEnd g q f.toNat).1 q.frames else q.toSend })
      let s := ((s.setTrigFlag r f.toNat).raise 0x57 (BitVec.ofNat 64 (r + st.toNat * 2 ^ 16))).mirUrgent r
      (match (s.regRt r).ends g with | some byMask => s.endCapture r byMask | none => s, true)

/-- How COMB joins a source event with what is pending (R351): the region's state, and the trigger it makes. -/
def joinSources (g : BitVec 512) (q : RegionRt) (isB : Bool) (st : Stamp) (m : Nat) :
    RegionRt × Option (Stamp × Bool × Bool × Nat) :=
  let win := Int.ofNat (gWin g) * 256
  match gComb g with
  | 0 => (q, if isB then none else some (st, true, false, m))
  | 1 => (q, some (st, !isB, isB, m))
  | 2 =>
    match if isB then q.pendA else q.pendB with
    | some (o, mo) =>
      let d := sdiff48 st o
      if decide (d ≤ win) && decide (-win ≤ d) then
        let later : Stamp × Nat := if d > 0 then (st, m) else if d < 0 then (o, mo) else (st, if isB then mo else m)
        ({ q with pendA := none, pendB := none }, some (later.1, true, true, later.2))
      else (if isB then { q with pendB := some (st, m) } else { q with pendA := some (st, m) }, none)
    | none => (if isB then { q with pendB := some (st, m) } else { q with pendA := some (st, m) }, none)
  | _ =>
    if !isB then ({ q with pendA := some (st, m) }, none)
    else match q.pendA with
      | some (o, _) =>
        let d := sdiff48 st o
        (q, if decide (0 ≤ d) && decide (d ≤ win) then some (st, true, true, m) else none)
      | none => (q, none)

/-- A source event of region r, and of the regions that follow its triggers (KIND 0x8), at most 16 deep (R350). -/
def State.sourceEvent : Nat → Nat → Bool → Stamp → Nat → State → State
  | 0, _, _, _, _, s => s
  | fuel + 1, r, isB, st, m, s =>
    let g := s.region r
    let j := joinSources g (s.regRt r) isB st m
    let s := s.modReg r (fun _ => j.1)
    match j.2 with
    | none => s
    | some (t, a, b, m) =>
      let x := s.regionTrigger r t a b m
      if x.2 then
        (List.range 16).foldl (fun s k =>
          let d (b : Bool) := gTrig (s.region k) b
          let hit (b : Bool) : Bool := decide (k ≠ r) && gEn (s.region k) && decide (tKind (d b) = 8) && decide (tIndex (d b) = r)
          let s := if hit false then State.sourceEvent fuel k false t m s else s
          if hit true then State.sourceEvent fuel k true t m s else s) x.1
      else x.1

/-- Every trigger source of every enabled region that p matches has an event, A before B (R351). -/
def State.fireSources (s : State) (p : Nat → Bool → Nat → Bool) (st : Stamp) (m : Nat) : State :=
  (List.range 16).foldl (fun s r =>
    let g := s.region r
    if gEn g && decide ((s.regRt r).st ≠ .idle) then
      let s := if p r false (gTrig g false) then s.sourceEvent 16 r false st m else s
      if p r true (gTrig g true) then s.sourceEvent 16 r true st m else s
    else s) s

/-- The edge of a descriptor takes a rising or falling edge (R350). -/
def edgeTakes (d : Nat) (rising : Bool) : Bool :=
  decide (tEdge d = 2) || (decide (tEdge d = 0) && rising) || (decide (tEdge d = 1) && !rising)

/-- The level test of one item between its last value and v at instant t (R352): the memory after it, and the instant
of a crossing that is taken. -/
def levelTest (x : LevelRt) (level hyst : Int) (edge : Nat) (v : Int) (t : Stamp) : LevelRt × Option Stamp :=
  match x.prev with
  | none => ({ prev := some (v, t), upOk := decide (v ≤ level - hyst), downOk := decide (v ≥ level + hyst) }, none)
  | some (v1, t1) =>
    let up := decide (v1 < level) && decide (level ≤ v)
    let down := decide (v1 > level) && decide (level ≥ v)
    let at_ : Stamp := t1 + BitVec.ofInt 48 (Int.fdiv (sdiff48 t t1 * (level - v1)) (v - v1))
    let upTaken := up && x.upOk && decide (edge ≠ 1)
    let downTaken := down && x.downOk && decide (edge ≠ 0)
    ({ prev := some (v, t)
       upOk := (if up then false else x.upOk) || decide (v ≤ level - hyst)
       downOk := (if down then false else x.downOk) || decide (v ≥ level + hyst) },
      if upTaken || downTaken then some at_ else none)

/-- The level sources A and B of every region that name an item (R350, R352): v is the item's value in the form that a
descriptor asks for. -/
def State.levelSources (s : State) (v : Nat → Option Int) (t : Stamp) : State :=
  (List.range 16).foldl (fun s r =>
    let g := s.region r
    if gEn g && decide ((s.regRt r).st ≠ .idle) then
      [false, true].foldl (fun s b =>
        let d := gTrig g b
        match v d with
        | none => s
        | some x =>
          let q := s.regRt r
          let z := levelTest (if b then q.levelB else q.levelA) (gLevel g b) (gHyst g) (tEdge d) x t
          let s := s.modReg r (fun q => if b then { q with levelB := z.1 } else { q with levelA := z.1 })
          match z.2 with
          | some st => s.sourceEvent 16 r b st 1
          | none => s) s
    else s) s

/-! ### Masks (R355, R356) -/

/-- The item of a mask entry is that of a value: kind 1 slot or 2 channel. -/
def maskItem (w : BitVec 128) (kind index : Nat) : Bool :=
  tbit w 23 && decide (fld w 15 12 = kind) && decide (fld w 11 0 = index)

/-- WIN_START is 0xFF_FFFF: the window starts at arming (R355). -/
def maskFromArming (w : BitVec 128) : Bool := decide (fld w 103 80 = 0xFFFFFF)

/-- The frame in progress lies in a mask entry's window (R355). -/
def maskWindow (w : BitVec 128) (q : RegionRt) : Bool :=
  let start := fld w 103 80
  let len := fld w 127 104
  if maskFromArming w then decide (len = 0) || decide (q.count < len)
  else match q.trig with
    | some t => decide (q.count ≥ t.frame + start) && (decide (len = 0) || decide (q.count < t.frame + start + len))
    | none => false

/-- A value handed over is tested by the masks of every region (R356): v gives the value an ITEM names. -/
def State.maskTest (s : State) (kind index : Nat) (v : Nat → Int) (ovr : Bool) (t : Stamp) : State :=
  (List.range 16).foldl (fun s r =>
    let g := s.region r
    let q := s.regRt r
    if gEn g && q.st.captures then
      let bad := (List.range (gNmask g)).find? (fun i =>
        let w := tget 0 s.mir.masks (64 * r + i)
        maskItem w kind index && maskWindow w q &&
          (ovr || decide (v (fld w 17 16) < sext 24 (fld w 55 32)) || decide (v (fld w 17 16) > sext 24 (fld w 79 56))))
      match bad with
      | none => s
      | some i =>
        let first := q.viol.isNone
        let s := s.modReg r (fun q => { q with
          violNow := true, viol := if first then some (i, q.count) else q.viol })
        let s := if first then s.raise 0x59 (BitVec.ofNat 64 (r + i * 2 ^ 16)) else s
        let s := if tKind (gTrig g false) = 7 then s.sourceEvent 16 r false t 3 else s
        if tKind (gTrig g true) = 7 then s.sourceEvent 16 r true t 3 else s
    else s) s

/-! ### Values handed over (R192, R335, R336) -/

/-- The skew of a channel in its present range, in 1/256 ns (R293). -/
def State.skewOf (s : State) (c : Nat) : Nat :=
  if c ≥ 128 then 0
  else
    let w := tget 0 s.cnv.skewEff c
    match chRange (tget 0 s.cnv.chanEff c) with
    | 1 => fld w 31 0 | 2 => fld w 31 0 | 3 => fld w 63 32 | 4 => fld w 95 64 | 5 => fld w 127 96 | _ => 0

/-- The skew-corrected instant of a sample word (R336). -/
def State.wordInstant (s : State) (w : Val40) (stamp : Time) : Stamp :=
  stampOf stamp - BitVec.ofNat 48 (s.skewOf (swChan w))

/-- The flags byte of a slot entry (R335). -/
def slotFlags (r : SlotRt) (skip : Bool) : Byte :=
  let code := match r.sup.st with | .ok => 0 | .suspect => 1 | .alarm => 2 | .ride => 3 | .hold => 4
  BitVec.ofNat 8 (code + (tbit r.flags 0 || tbit r.flags 1).toNat * 8 + (tbit r.flags 4).toNat * 16 + skip.toNat * 32 +
    r.sup.rbFault.toNat * 64)

/-- A value is handed to Mire: recorded in the present base period, tested for triggers and by masks. -/
def State.mirTake (s : State) (it : MirItem) : State :=
  let s := { s with mir := { s.mir with items := s.mir.items ++ [it] } }
  match it with
  | .slot k _ sp fb out res t entered =>
    let v (item : Nat) : Int := match item with | 0 => sp | 1 => fb | 2 => out | _ => res
    let s := s.levelSources (fun d => if decide (tKind d = 4) && decide (tIndex d = k) then some (v (tItem d)) else none)
      (stampOf t)
    let s := if entered then
        s.fireSources (fun _ _ d => decide (tKind d = 6) && decide (tIndex d = k)) (stampOf t) 3 else s
    s.maskTest 1 k v false (stampOf t)
  | .word w stamp _ =>
    let t := s.wordInstant w stamp
    if swStl w then s
    else
      let s := if swOvr w then s else
        s.levelSources (fun d => if decide (tKind d = 3) && decide (tIndex d = swChan w) then some (swValue w) else none) t
      s.maskTest 2 (swChan w) (fun _ => swValue w) (swOvr w) t
  | .di i state stamp =>
    s.fireSources (fun _ _ d => decide (tKind d = 2) && decide (tIndex d = i) && edgeTakes d state) (stampOf stamp) 3
  | _ => s

/-- A step TRIGGER action names a region (R124, R350 KIND 0x5). -/
def State.mirStepTrigger (s : State) (region : Nat) (t : Time) : State :=
  s.fireSources (fun r _ d => decide (r = region) && decide (tKind d = 5)) (stampOf t) 2

/-! ### Frames (R335 to R340) -/

/-- A 40-bit value as 5 bytes. -/
def v40 (x : Int) : List Byte := leBytes 5 (bitsOf 40 x).toNat
/-- The instant t relative to a STAMP in 1/16 ns, rounded by R170 (R336). -/
def offsOf (t : Stamp) (base : Time) : Int := shrRound (sdiff48 t (stampOf base)) 4

/-- OFFS holds an instant (R336). -/
def offsFits (t : Stamp) (base : Time) : Bool := decide (-(2 ^ 23) ≤ offsOf t base) && decide (offsOf t base < 2 ^ 23)

/-- OFFS of an instant relative to a STAMP (R336); a free value beyond its range. -/
def State.offs (s : State) (t : Stamp) (base : Time) : List Byte :=
  leBytes 3 (if offsFits t base then bitsOf 24 (offsOf t base) else Config.farOffs s.freeIdx).toNat

/-- The item number of a value on a line of a kind, if it is one of that kind. -/
def itemOf (kind : Nat) : MirItem → Option Nat
  | .slot k _ _ _ _ _ _ _ => if kind = 1 then some k else none
  | .word w _ none => if kind = 2 then some (swChan w) else none
  | .word _ _ (some l) => if kind = 3 then some l else none
  | .di i _ _ => if kind = 4 then some i else none
  | .enc e _ => if kind = 5 then some e else none
  | .hs g _ _ => if kind = 6 then some g else none
  | .dac d _ _ => if kind = 7 then some d else none
  | .rx i _ _ _ => if kind = 8 then some i else none

/-- The entry of a value in a DATA frame whose STAMP is base (R335). -/
def State.dataEntry (s : State) (base : Time) : MirItem → List Byte
  | .slot _ f sp fb out res _ _ => f :: (v40 sp ++ v40 fb ++ v40 out ++ v40 res)
  | .word w stamp _ => leBytes 5 w.toNat ++ s.offs (s.wordInstant w stamp) base
  | .di i st stamp => leBytes 1 i ++ leBytes 1 st.toNat ++ [0, 0, 0] ++ s.offs (stampOf stamp) base
  | .enc _ v => v40 v
  | .hs _ d t => leBytes 5 (d + t * 256)
  | .dac _ v t => v40 v ++ s.offs (stampOf t) base
  | .rx _ v fresh stamp => leBytes 1 fresh.toNat ++ v40 v ++ s.offs (stampOf stamp) base

/-- At most how many entries an item, or the whole line for inputs, may have in base period n (R334). -/
def State.lineLimit (s : State) (kind item n : Nat) : Nat :=
  match kind with
  | 2 => s.chanDue item n | 3 => 20 | 4 => 32 | 7 => 4 | _ => 1

/-- The instant by which the entries of one item are ordered. -/
def State.itemStamp (s : State) : MirItem → Stamp
  | .word w stamp _ => s.wordInstant w stamp
  | .di _ _ stamp => stampOf stamp
  | .dac _ _ t => stampOf t
  | _ => 0

/-- A value put in stamp order among those of its item. -/
def State.insertItem (s : State) (x : MirItem) : List MirItem → List MirItem
  | [] => [x]
  | y :: r => if sdiff48 (s.itemStamp x) (s.itemStamp y) < 0 then x :: y :: r else y :: s.insertItem x r

/-- The values of item i of a kind among the items, in stamp order. -/
def State.itemsOf (s : State) (kind i : Nat) (items : List MirItem) : List MirItem :=
  (items.filter (fun x => decide (itemOf kind x = some i))).foldl (fun l x => s.insertItem x l) []

/-- A line of a DATA frame of base period n, and whether entries were dropped (R338). -/
def State.dataLine (s : State) (n : Nat) (base : Time) (items : List MirItem) (w : BitVec 64) : List Byte × Bool :=
  let kind := lnKind w
  let per := (List.range (lnCount w)).map (fun i =>
    let l := s.itemsOf kind (lnFirst w + i) items
    if kind = 4 then l else l.take (s.lineLimit kind (lnFirst w + i) n))
  let all := per.flatMap (fun l => l)
  let full := ((List.range (lnCount w)).map (fun i => (s.itemsOf kind (lnFirst w + i) items).length)).foldl (· + ·) 0
  let kept := if kind = 4 then all.take 32 else all
  (leBytes 2 kept.length ++ kept.flatMap (s.dataEntry base), decide (kept.length < full))

/-- A pair, minimum first; with no value 2³⁹ − 1 and −2³⁹ (R340). -/
def minMax (l : List Int) : List Byte :=
  match l with
  | [] => v40 (2 ^ 39 - 1) ++ v40 (-(2 ^ 39))
  | x :: r => v40 (r.foldl min x) ++ v40 (r.foldl max x)

/-- The entry of one item in a REDUCED frame (R340). -/
def reducedItem (kind : Nat) (l : List MirItem) : List Byte :=
  let vals (f : MirItem → Option Int) : List Byte := minMax (l.filterMap f)
  let orOf (f : MirItem → Nat) : Nat := l.foldl (fun a x => a ||| f x) 0
  let seen (hi lo : MirItem → Nat) : List Byte := leBytes 5 (orOf hi + orOf lo * 256)
  match kind with
  | 1 => leBytes 1 (orOf (fun | .slot _ f _ _ _ _ _ _ => f.toNat | _ => 0)) ++
      vals (fun | .slot _ _ a _ _ _ _ _ => some a | _ => none) ++ vals (fun | .slot _ _ _ a _ _ _ _ => some a | _ => none) ++
      vals (fun | .slot _ _ _ _ a _ _ _ => some a | _ => none) ++ vals (fun | .slot _ _ _ _ _ a _ _ => some a | _ => none)
  | 4 => seen (fun | .di _ b _ => b.toNat | _ => 0) (fun | .di _ b _ => (!b).toNat | _ => 0)
  | 5 => vals (fun | .enc _ v => some v | _ => none)
  | 6 => seen (fun | .hs _ d _ => d | _ => 0) (fun | .hs _ d _ => 255 - d | _ => 0)
  | 7 => 0 :: vals (fun | .dac _ v _ => some v | _ => none)
  | 8 => vals (fun | .rx _ v _ _ => some v | _ => none)
  | _ => leBytes 1 (orOf (fun | .word w _ _ => w.toNat % 16 | _ => 0)) ++
      vals (fun | .word w _ _ => if swStl w then none else some (swValue w) | _ => none)

/-- A line of a REDUCED frame (R340). -/
def reducedLine (items : List MirItem) (w : BitVec 64) : List Byte :=
  leBytes 2 (lnCount w) ++ (List.range (lnCount w)).flatMap (fun i =>
    reducedItem (lnKind w) (items.filter (fun x => decide (itemOf (lnKind w) x = some (lnFirst w + i)))))

/-- The payload of a DATA or REDUCED frame of region r that ends with base period n, and OVF. -/
def State.framePayload (s : State) (r n : Nat) (base : Time) (items : List MirItem) : List Byte × Bool :=
  let ls := s.linesOf r
  if gReduced (s.region r) then (ls.flatMap (reducedLine items), false)
  else
    let xs := ls.map (s.dataLine n base items)
    (xs.flatMap (·.1), xs.any (·.2))

/-- LAYOUT payload (R339): the evaluation start in the first base period of the pattern in which the slot is due. -/
def State.layoutPayload (s : State) (r : Nat) : List Byte :=
  let run := s.running
  let order := dispOrder run
  ((s.linesOf r).filter (fun w => decide (lnKind w = 1))).flatMap (fun w =>
    (List.range (lnCount w)).flatMap (fun i =>
      match run.find? (fun d => decide (d.slot = lnFirst w + i)) with
      | some d =>
        let st := ((dispatchOf order d.phase).find? (fun x => decide (x.1 = d.slot))).map (fun x => x.2.1)
        leBytes 2 (st.getD 0) ++ leBytes 2 d.outOffs ++ leBytes 2 d.div ++ leBytes 2 d.phase
      | none => leBytes 8 0))

/-- A LAYOUT frame where the layout of region r is no longer the one of its newest LAYOUT frame; the region keeps the payload as long as a
frame under it stands (R339, R347). -/
def State.noteLayout (s : State) (r : Nat) : State :=
  let q := s.regRt r
  let lay := s.layoutPayload r
  if gEn (s.region r) && q.st.captures && decide ((q.layouts.head?.map (·.2)) ≠ some lay) then
    let oldest := ((q.frames.head?).map (·.idx)).getD q.count
    (s.modReg r (fun q => { q with layouts := layoutsFrom oldest ((q.count, lay) :: q.layouts) })).putOther r 3 lay false
  else s

/-- A Comb load has taken effect: every capturing region whose recorded slots it changes writes its LAYOUT frame (R339). -/
def State.noteLayouts (s : State) : State := (List.range 16).foldl (fun s r => s.noteLayout r) s

/-- The states of a high-side group by the uplink's read-back: driven, tripped (R17, R335). -/
def State.hsStates (s : State) (g : Nat) : MirItem :=
  let bits (f : HsRt → Bool) : Nat :=
    ((List.range 8).map (fun b => if f (tget {} s.seen.hs (8 * g + b)) then 2 ^ b else 0)).foldl (· + ·) 0
  .hs g (bits (·.drv)) (bits (·.trip))

/-- The standing state of each input that a REDUCED frame records (R340): every state seen in its interval counts, the one at its
start too. -/
def State.standing (s : State) (r : Nat) : List MirItem :=
  if gReduced (s.region r) then
    (s.linesOf r).flatMap (fun w => if lnKind w = 4 then
      (List.range (lnCount w)).map (fun i => .di (lnFirst w + i) (tbit s.fio.diImage (lnFirst w + i)) 0) else [])
  else []

/-- The state of an input changes without an edge, as a load of INV does: a REDUCED frame in progress has seen it (R340). -/
def State.noteInput (s : State) (i : Nat) (v : Bool) : State :=
  (List.range 16).foldl (fun s r =>
    if gEn (s.region r) && (s.regRt r).st.captures && gReduced (s.region r) && recorded (s.linesOf r) 4 i then
      s.modReg r (fun q => { q with gathered := q.gathered ++ [.di i v 0] })
    else s) s

/-- What a base period holds at its end beside the values handed over: encoders, high-side groups and receive words (R334). -/
def State.endItems (s : State) (r : Nat) : List MirItem :=
  (s.linesOf r).flatMap (fun w =>
    let is := (List.range (lnCount w)).map (fun i => lnFirst w + i)
    match lnKind w with
    | 5 => is.map (fun e => .enc e (s.encRt e).own.toInt)
    | 6 => is.map s.hsStates
    | 8 => is.map (fun i =>
        let x := tget {} s.wag.rxWords i
        let e := tget 0 s.wag.rxMap i
        let st := tget {} s.wag.stations (fld e 11 0)
        .rx i x.val.toInt (tbit e 24 && !st.stale && !st.discord) x.stamp)
    | _ => [])

/-! ### Arming and the end of a capture (R343 to R349) -/

/-- Region r arms at the start of base period n: frame k₀ (R344), with its LAYOUT frame (R339). Its store and its header page begin
anew; FIRST, with no capture there, is a free value (R333). -/
def State.armRegion (s : State) (r n : Nat) : State :=
  let g := s.region r
  let first := (Config.noTrigger s.freeIdx).toNat % 2 ^ 40
  let s := s.tookFree.clearHeader r
  let s := s.modReg r (fun q => { q with
    st := if gMode g = 0 then .streaming else if gPre g = 0 then .armed else .filling
    armPend := false, k0 := n, count := 0, frames := [], next := 4096, trig := none, earlyStamp := none
    earlyRaised := false, earlyCnt := 0, rearmCnt := 0, viol := none, viols := [], violNow := false, stopReq := false, lostNow := 0
    lostEvt := 0, anyLost := false, mark := none, layouts := [], pendA := none, pendB := none, levelA := {}, levelB := {}
    toSend := [], eccOff := [], gathered := s.standing r, periods := 0, capt := 0xFFFFFFFFFF, first := first })
  let lay := s.layoutPayload r
  (s.modReg r (fun q => { q with layouts := [(0, lay)] })).putOther r 3 lay false

/-- After a frame of region r is written: the end of its capture, or ARMED once PRE frames stand (R337, R345, R347). -/
def State.frameEnds (s : State) (r : Nat) : State :=
  let q : RegionRt := s.regRt r
  let how := q.ends (s.region r)
  if q.stopReq || how.isSome then s.endCapture r (how.getD false)
  else if q.st = .filling && decide (q.count ≥ gPre (s.region r)) then s.modReg r (fun q => { q with st := .armed })
  else s

/-- The frame of region r that ends with base period n is written, and what follows it (R337, R347, R354). -/
def State.writeRegionFrame (s : State) (r n : Nat) : State :=
  let g := s.region r
  let q := s.regRt r
  let base := s.baseStart (n + 1 - gReduce g)
  let p := s.framePayload r n base q.gathered
  let far := !gReduced g && q.gathered.any (fun x => match x with
    | .rx _ _ _ stamp => !offsFits (stampOf stamp) base
    | .word w stamp _ => !offsFits (s.wordInstant w stamp) base
    | _ => false)
  let s := if far then s.tookFree else s
  let trigHere : Bool := match q.trig with | some t => decide (t.frame = q.count) | none => false
  let flags := trigHere.toNat + q.violNow.toNat * 4 + p.2.toNat * 16
  let s := match s.putFrame r (if gReduced g then 2 else 1) flags base p.1 false with
    | some s' => s'
    | none => s.frameLost r
  let s := s.modReg r (fun q => { q with
    viols := if q.violNow then q.viols ++ [q.count] else q.viols
    count := q.count + 1, seq := q.seq + 1, violNow := false, gathered := s.standing r, periods := 0, mark := none })
  let s := match q.mark with
    | some (st, m) => s.putOther r 4 (leBytes 8 st.toNat ++ leBytes 1 (1 + m % 4 * 4) ++ List.replicate 7 0) false
    | none => s
  s.frameEnds r

/-- Region r arms at the start of base period n where that waits (R344). -/
def State.armPending (s : State) (n r : Nat) : State :=
  if gEn (s.region r) && (s.regRt r).armPend then s.armRegion r n else s

/-- Mire at the start of base period 0, with which Comb starts (R344). -/
def State.mirStart (s : State) : State := (List.range 16).foldl (State.armPending · 0) s

/-- A pending source lapses WIN_NS after its instant (R351); values reach Mire at most 1 ms after theirs, and joinSources has the exact
limit. -/
def State.lapse (s : State) (r : Nat) : State :=
  let now := stampOf s.time.tb1.ns
  let keeps (p : Option (Stamp × Nat)) : Option (Stamp × Nat) :=
    p.filter (fun x => decide (sdiff48 now x.1 ≤ Int.ofNat (gWin (s.region r) + 1000000) * 256))
  let q := s.regRt r
  if q.pendA.isSome || q.pendB.isSome then s.modReg r (fun q => { q with pendA := keeps q.pendA, pendB := keeps q.pendB }) else s

/-- Region r at the start of base period n + 1, with the values of base period n (R337, R344). -/
def State.regionPeriod (s : State) (n : Nat) (r : Nat) : State :=
  let s := s.lapse r
  let g := s.region r
  let q := s.regRt r
  let s :=
    if gEn g && q.st.captures then
      let s := s.modReg r (fun q => { q with gathered := q.gathered ++ s.mir.items ++ s.endItems r, periods := q.periods + 1 })
      if q.periods + 1 ≥ gReduce g then s.writeRegionFrame r n else s
    else s
  let s := s.armPending (n + 1) r
  if (s.regRt r).bufs.isEmpty || (s.regRt r).toSend.isEmpty then s else s.deliver r

/-- CAP and POST_EFF of an enabled region computed anew at a pattern start; one that can no longer hold PRE frames stops, whatever it
is doing (R341). -/
def State.recompute (s : State) (r : Nat) : State :=
  let g := s.region r
  if !gEn g then s
  else
    let cap := s.capOf g (s.linesOf r)
    let s := s.modReg r (fun q => { q with
      cap := cap, postEff := postEff g cap, clamped := decide (postEff g cap < gPost g) })
    let q := s.regRt r
    if gMode g ≠ 0 && (decide (q.st ≠ .idle) || q.armPend) && decide (cap ≤ gPre g) then
      (s.modReg r (fun q => { q with st := .idle, armPend := false, toSend := [] })).raise 0x5C (BitVec.ofNat 64 r)
    else s

/-- CAP and POST_EFF of every region at a pattern start, with the loads that take effect there (R341). -/
def State.mirPattern (s : State) (n : Nat) : State :=
  if n % 500 = 0 then (List.range 16).foldl (fun s r => s.recompute r) s else s

/-- Mire at the start of base period n + 1 (R337, R344). -/
def State.mirPeriod (s : State) (n : Nat) : State :=
  let s := (List.range 16).foldl (fun s r => s.regionPeriod n r) s
  { s with mir := { s.mir with items := [] } }

/-! ### Table loads (R332, R334, R350, R355) -/

/-- A trigger descriptor is valid for region r (R350). -/
def trigOk (r : Nat) (ls : List (BitVec 64)) (d : Nat) : Bool :=
  let i := tIndex d
  decide (d < 2 ^ 20) && decide (tEdge d ≠ 3) && match tKind d with
  | 0 => decide (i = 0)
  | 1 => decide (i ≤ 3)
  | 2 => decide (i ≤ 63)
  | 3 => decide (i ≤ 172) && recorded ls 2 i
  | 4 => recorded ls 1 i
  | 5 => decide (i = 0)
  | 6 => true
  | 7 => decide (i = 0)
  | 8 => decide (i ≤ 15) && decide (i ≠ r)
  | 9 => decide (i = 0)
  | _ => false

/-- The unnamed bits of a region record are zero; G6 and G7 are ignored (R331). -/
def regionBitsOk (g : BitVec 512) : Bool :=
  decide (gw g 0 63 48 + gw g 2 23 23 + gw g 2 31 27 + gw g 4 63 59 + gw g 5 63 24 = 0)

/-- A region record with EN = 1 has valid fields (R331, R332, R350). -/
def regionOk (s : State) (r : Nat) (g : BitVec 512) : Bool :=
  let ls := (List.range (gLines g)).map (fun l => tget 0 s.mir.lines (32 * r + l))
  regionBitsOk g && decide (gMode g ≠ 3) && decide (gRing g < 64) && decide (pairClass s.regs (gRing g) = 4) &&
    decide (gBase g ≤ 12287) && decide (1 ≤ gSize g) && decide (gSize g ≤ 12288) && decide (1 ≤ gLines g) &&
    decide (gLines g ≤ 32) && decide (gPost g ≥ 1) && decide (gNmask g ≤ 64) && decide (gComb g ≤ 3) &&
    decide (gHyst g ≤ 8388607) && (!gUrgEn g || (decide (gUrgList g ≤ 4) && reachable (gUrgList g) (gUrgChan g))) &&
    trigOk r ls (gTrig g false) && trigOk r ls (gTrig g true) &&
    (decide (gMode g ≠ 0) || (decide (tKind (gTrig g true) = 0) && decide (gComb g = 0)))

/-- A region overlaps another enabled one in the Bog, or extends beyond it (R332). -/
def bogOverlap (regions : Sparse (BitVec 512)) (r : Nat) (g : BitVec 512) : Bool :=
  decide (gBase g + gSize g > 12288) || regions.any (fun x =>
    decide (x.1 ≠ r) && gEn x.2 && decide (gBase x.2 < gBase g + gSize g) && decide (gBase g < gBase x.2 + gSize x.2))

/-- The resources that a region claims: itself, and the external inputs of its triggers (R332, R353). -/
def regionClaims (r : Nat) (g : BitVec 512) : List Nat :=
  (0x7000 + r) :: ([false, true].filterMap (fun b =>
    if tKind (gTrig g b) = 1 then some (0x6000 + tIndex (gTrig g b)) else none)).eraseDups

/-- The mask entry in use of a STREAM region whose WIN_START is not 0xFF_FFFF, the first of them (R355). -/
def streamMask (s : State) (x : Nat × BitVec 512) : Option Nat :=
  if gMode x.2 ≠ 0 then none
  else ((List.range (gNmask x.2)).map (fun i => 64 * x.1 + i)).find? (fun i =>
    tbit (tget 0 s.mir.masks i) 23 && !maskFromArming (tget 0 s.mir.masks i))

/-- A region load judged (R332, R342, R355): the claims, or the refusal. DESIGN CHOICE (log 118): a region that the load would make
STREAM over an enabled mask entry with another WIN_START is refused with 0x55 as the entry would be, after the refusals of R332. -/
def judgeRegions (s : State) (l : List (Nat × BitVec 512)) : Judged (List Claim) :=
  let regions := tload (fun _ => 0) s.mir.regions l
  let en := l.filter (fun x => gEn x.2)
  let lines (x : Nat × BitVec 512) := (List.range (gLines x.2)).map (fun i => tget 0 s.mir.lines (32 * x.1 + i))
  let busy (r : Nat) : Bool := decide ((s.regRt r).st ≠ .idle) && decide ((s.regRt r).st ≠ .done)
  match en.find? (fun x => !regionOk s x.1 x.2) with
  | some x => .refused 0x50 (BitVec.ofNat 64 x.1)
  | none =>
    match en.find? (fun x => bogOverlap regions x.1 x.2) with
    | some x => .refused 0x51 (BitVec.ofNat 64 x.1)
    | none =>
      match en.find? (fun x => decide (gMode x.2 ≠ 0) && decide (gPre x.2 ≥ s.capOf x.2 (lines x))) with
      | some x => .refused 0x52 (BitVec.ofNat 64 (s.capOf x.2 (lines x)))
      | none =>
        match en.find? (fun x => busy x.1) with
        | some x => .refused 0x53 (BitVec.ofNat 64 x.1)
        | none =>
          let rate := s.totalRate regions
          match en.findSome? (streamMask s) with
          | some i => .refused 0x55 (BitVec.ofNat 64 i)
          | none =>
          if !en.isEmpty && s.rateTooHigh regions then .refused 0x5E (BitVec.ofNat 64 (rate / 1000000))
          else
            let cl := l.foldl (fun cl x => releaseOwner cl rankMire x.1) s.fio.claims
            claimEach (fun cl x => if gEn x.2 then claimAll rankMire x.1 (regionClaims x.1 x.2) cl else .ok cl) l cl

/-- Every outstanding buffer of a region completes with END (R332). -/
def State.endBuffers (s : State) (r : Nat) : State :=
  forN (s.regRt r).bufs.length (fun _ s => s.closeBuf r true) s

/-- A region record takes effect: stopped at once, or armed at the next base period start (R332, R344). -/
def State.applyRegion (s : State) (x : Nat × BitVec 512) : State :=
  if gEn x.2 then
    let cap := s.capOf x.2 (s.linesOf x.1)
    s.modReg x.1 (fun q => { q with
      st := .idle, armPend := true, cap := cap, postEff := postEff x.2 cap, clamped := decide (postEff x.2 cap < gPost x.2) })
  else (s.endBuffers x.1).modReg x.1 (fun q => { q with st := .idle, armPend := false, toSend := [] })

/-- REGION_TABLE_LOAD: table 0x001 of MIR (R332). -/
def doRegionTableLoad (p : Pair) (s : State) : Host.Outcome State Fault Refusal :=
  match s.takeLoad p 9 1 with
  | none => .next s
  | some e =>
    let l := withIndex e.first e.words512
    match judgeRegions s l with
    | .refused c r => .next (s.finish p.val e.sub c r)
    | .ok cl =>
      let s := s.setClaims cl
      let s := { s with mir := { s.mir with regions := tload (fun _ => 0) s.mir.regions l } }
      .next ((l.foldl (fun s x => s.applyRegion x) s).finish p.val e.sub 0 (BitVec.ofNat 64 e.count))

/-- LINE_TABLE_LOAD: table 0x002 of MIR (R334). -/
def doLineTableLoad (p : Pair) (s : State) : Host.Outcome State Fault Refusal :=
  match s.takeLoad p 9 2 with
  | none => .next s
  | some e =>
    let l := withIndex e.first e.words64
    let busy (r : Nat) : Bool := decide ((s.regRt r).st ≠ .idle) && decide ((s.regRt r).st ≠ .done)
    match l.find? (fun x => busy (x.1 / 32)), l.find? (fun x => !lineOk x.2) with
    | some x, _ => .next (s.finish p.val e.sub 0x53 (BitVec.ofNat 64 (x.1 / 32)))
    | none, some x => .next (s.finish p.val e.sub 0x54 (BitVec.ofNat 64 x.1))
    | none, none =>
      .next (State.finish { s with mir := { s.mir with lines := tload (fun _ => 0) s.mir.lines l } } p.val e.sub 0
        (BitVec.ofNat 64 e.count))

/-- A mask entry is valid for its region, enabled or not (R355). -/
def maskOk (s : State) (x : Nat × BitVec 128) : Bool :=
  let r := x.1 / 64
  let w := x.2
  let kind := fld w 15 12
  let ls := s.linesOf r
  decide (fld w 22 18 = 0) && decide (fld w 31 24 = 0) &&
    decide (sext 24 (fld w 55 32) ≤ sext 24 (fld w 79 56)) &&
    ((decide (kind = 1) && recorded ls 1 (fld w 11 0)) || (decide (kind = 2) && recorded ls 2 (fld w 11 0))) &&
    (decide (gMode (s.region r) ≠ 0) || maskFromArming w)

/-- MASK_TABLE_LOAD: table 0x003 of MIR (R355). -/
def doMaskTableLoad (p : Pair) (s : State) : Host.Outcome State Fault Refusal :=
  match s.takeLoad p 9 3 with
  | none => .next s
  | some e =>
    let l := withIndex e.first e.words128
    match l.find? (fun x => !maskOk s x) with
    | some x => .next (s.finish p.val e.sub 0x55 (BitVec.ofNat 64 x.1))
    | none =>
      .next (State.finish { s with mir := { s.mir with masks := tload (fun _ => 0) s.mir.masks l } } p.val e.sub 0
        (BitVec.ofNat 64 e.count))

/-! ### Parameters (R361) -/

/-- MIRE_ARM: parameter 0x001 of MIR arms an enabled region that is IDLE or DONE (R344, R361). -/
def doMireArm (p : Pair) (s : State) : Host.Outcome State Fault Refusal :=
  match s.takeParam p 1 9 1 with
  | none => .next s
  | some e =>
    let r := e.value
    if r ≥ 16 then .next (s.finish p.val e.sub 0x02 0)
    else if !gEn (s.region r) || (decide ((s.regRt r).st ≠ .idle) && decide ((s.regRt r).st ≠ .done)) then
      .next (s.finish p.val e.sub 0x53 (BitVec.ofNat 64 r))
    else .next ((s.modReg r (fun q => { q with armPend := true })).finish p.val e.sub 0 0)

/-- The region is ARMED, POST or STREAMING. -/
def canForce (q : RegionRt) : Bool := decide (q.st = .armed) || decide (q.st = .post) || decide (q.st = .streaming)

/-- FORCE: parameter 0x002 of MIR is a source event at the acceptance tick (R350 KIND 0x9, R361). -/
def doForce (p : Pair) (s : State) : Host.Outcome State Fault Refusal :=
  match s.takeParam p 1 9 2 with
  | none => .next s
  | some e =>
    let r := e.value
    if r ≥ 16 then .next (s.finish p.val e.sub 0x02 0)
    else if !canForce (s.regRt r) then .next (s.finish p.val e.sub 0x53 (BitVec.ofNat 64 r))
    else
      .next ((s.fireSources (fun k _ d => decide (k = r) && decide (tKind d = 9)) (stampOf s.time.tb1.ns) 3).finish p.val
        e.sub 0 0)

/-- MIRE_STOP: parameter 0x003 of MIR ends the capture with the frame in progress (R347, R361). -/
def doMireStop (p : Pair) (s : State) : Host.Outcome State Fault Refusal :=
  match s.takeParam p 1 9 3 with
  | none => .next s
  | some e =>
    let r := e.value
    if r ≥ 16 then .next (s.finish p.val e.sub 0x02 0)
    else if !canForce (s.regRt r) then .next (s.finish p.val e.sub 0x53 (BitVec.ofNat 64 r))
    else .next ((s.modReg r (fun q => { q with stopReq := true })).finish p.val e.sub 0 0)

/-! ### Triggers from outside, buffers, reads -/

/-- EXTERNAL_TRIGGER: an external input's edge with its TDC stamp reaches Mire (R353). -/
def execExternalTrigger (input : Fin 4) (rising : Bool) (stamp : Stamp) (s : State) : Host.Outcome State Fault Refusal :=
  .next (s.fireSources (fun _ _ d => decide (tKind d = 1) && decide (tIndex d = input.val) && edgeTakes d rising) stamp 0)

/-- RECORD_BUFFER: an empty buffer joins its region, whose ring must be this pair (R99, R357). -/
def execRecordBuffer (p : Pair) (s : State) : Host.Outcome State Fault Refusal :=
  match s.takeOp p.val 4 1 with
  | none => .next s
  | some e =>
    let r := e.byte16
    if r ≥ 16 || gRing (s.region r) ≠ p.val then .next (s.finish p.val e.sub 0x02 0)
    else
      let s := (s.modReg r (fun q => { q with
        bufs := q.bufs ++ [{ pair := p, sub := e.sub, addr := e.addr, size := e.len, flushUs := e.word20 }] })).accept p.val e.sub
      let s := if (s.regRt r).st = .done && !(s.regRt r).toSend.isEmpty then s.modReg r (fun q => { q with st := .delivering }) else s
      .next (s.deliver r)

/-- RECORD_BUFFER_FLUSH: FLUSH_US has passed since the front buffer's first byte (R357). -/
def execRecordBufferFlush (region : Fin 16) (s : State) : Host.Outcome State Fault Refusal :=
  match (s.regRt region.val).bufs with
  | b :: _ => if b.flushUs > 0 && b.filled > 0 then .next (s.closeBuf region.val false) else .next s
  | [] => .next s

/-- RECORD_READ: bytes of a region from OFFSET on, as far as the region goes (R358). -/
def execRecordRead (p : Pair) (s : State) : Host.Outcome State Fault Refusal :=
  match s.takeOp p.val 4 2 with
  | none => .next s
  | some e =>
    let r := e.byte16
    if r ≥ 16 then .next (s.finish p.val e.sub 0x02 0)
    else
      let n := min e.len (regSize (s.region r) - e.value)
      let offs := (List.range n).map (fun i => e.value + i)
      let s := s.hostWrite e.addr (s.regRead r offs)
      let s := s.modReg r (fun q => { q with eccOff := q.eccOff.filter (fun o => !offs.contains o) })
      .next (s.finish p.val e.sub 0 (BitVec.ofNat 64 n))

/-- A link error on the Bog meets the frame at an offset of a region (R39, R358): counted, 0x5B, ECC at its next read. -/
def State.bogLinkError (s : State) (r offset : Nat) : State :=
  let q := s.regRt r
  let size := regSize (s.region r)
  let hit := q.frames.find? (fun f => (regOffs size f.len f.off).contains offset)
  let s := { s with mir := { s.mir with eccCnt := satInc 0xFFFFFFFF s.mir.eccCnt } }
  let s := match hit with
    | some f => s.modReg r (fun q => { q with eccOff := q.eccOff ++ [regNext size f.off] })
    | none => s
  s.raise 0x5B (BitVec.ofNat 64 r)

end Sys2Proof.Machine
end

