-- ==== Sys2Proof/Machine/Phase.lean ====
section
/-! DEFINITION. Phase P3 (R519, R641) and what reaching it does: the measured interval of reduced service (R520), the
confirmation of a new activation (R576). -/

namespace Sys2Proof.Machine

/-- The logic-side slot in force. -/
def LcyState.active (l : LcyState) : Activation := tget {} l.slots l.slotB.toNat

/-- A new activation has proved itself: SVN_MIN becomes its SVN_FLOOR if that is higher, and 0xAA is raised (R576). -/
def State.confirmActivation (s : State) : State :=
  if !s.lcy.trial then s
  else
    let a := s.lcy.active
    let l := { s.lcy with trial := false, phase := .idle, svnMin := max s.lcy.svnMin a.svnFloor }
    { s with lcy := l }.raise 0xAA (BitVec.ofNat 64 a.pkgId.toNat)

/-- An activation ends before its commit with a code: the package stays installed, every part stays on its old version (R574). -/
def State.refuseActivation (s : State) (code : Byte) : State :=
  { s with lcy := { s.lcy with activating := false, phase := .installed, lastCode := code } }

/-- The link conditions of P3: none while RUN is 0 (R641); else TB1_LOCK, or the link run as HIVE, and on a SKEP that it has
joined, as far as it can tell (R418, R519). -/
def State.linkReady (s : State) : Bool :=
  !s.rbit 0xA000 31 || ((s.time.tb1Lock || decide (s.wag.link = .hive)) &&
    (decide (s.role ≠ 0) || (decide (s.wag.link = .follow) && tbit s.wag.validModes s.wag.mode)))

/-- Every condition of full service holds, P2 among them (R519). -/
def State.fullService (s : State) : Bool :=
  decide (s.pw.logic = .run) && (s.pw.variantL || !s.pw.logicAbsent) && s.linkReady && s.cmb.running &&
    s.cmb.slots.all (fun x => !rEn x.2 || decide (rHold x.2 = 0x3F) || decide ((s.cmb.slotRt x.1).ho = .handed)) &&
    s.blk.tasks.all (fun x => decide (x.2.st = .empty) || x.2.published)

/-- Phase P3 begins once every condition holds, and lasts until the next restart: the interval of reduced service ends (R520),
and on a member that acts the activation is confirmed (R576). -/
def State.judgePhase (s : State) : State :=
  if s.pw.p3 || !s.fullService then s
  else
    let d := match s.drn.rsRun with
      | some n => { s.drn with rsMs := n, rsRun := none }
      | none => s.drn
    let s : State := { s with pw := { s.pw with p3 := true }, drn := d }
    if s.roleActs then s.confirmActivation else s

/-- A command after which phase P3 may begin. -/
def thenPhase (o : Host.Outcome State Fault Refusal) : Host.Outcome State Fault Refusal :=
  match o with
  | .next s => .next s.judgePhase
  | .fault f => .fault f
  | .refused r => .refused r

end Sys2Proof.Machine
end

