-- ==== Sys2Proof/Machine/CombEval.lean ====
section
/-! DEFINITION. A slot evaluation: records taking effect, sources, supervision, the loop microprogram, the model, outputs,
the handover from a hold loop (R165 to R189, R192, R194, R199 to R220). -/

namespace Sys2Proof.Machine

/-! ### Sources (R165, R173, R206) -/

/-- What a source gives: its 24-bit value, stale, overrange, and whether the value is a free one. -/
structure SrcVal where
  v : Int := 0
  stale : Bool := false
  ovr : Bool := false
  free : Bool := false
  deriving DecidableEq, Repr

/-- A stamp lies more than age µs before t (R206); age 0 is no test. -/
def tooOld (stamp t : Time) (age : Nat) : Bool := decide (age ≠ 0) && olderThan stamp t (Int.ofNat (age * 1000))

/-- A receive word carries STALE quality: its station is STALE or in DISCORD (R427, R434). -/
def State.rxStale (s : State) (i : Nat) : Bool :=
  let st := tget {} s.wag.stations (fld (tget 0 s.wag.rxMap i) 11 0)
  st.stale || st.discord

/-- A sample word as a source. -/
def sampleSrc (x : Sample) (t : Time) (age : Nat) : SrcVal :=
  { v := swValue x.word, stale := swStl x.word || tooOld x.stamp t age, ovr := swOvr x.word }

/-- The velocity of encoder e for a slot whose last evaluation saw the latches prev (R317). -/
def State.velocity (s : State) (e : Nat) (prev : List Word) : SrcVal :=
  match prev[e]? with
  | some p => { v := satS 24 ((s.encRt e).latched - p).toInt }
  | none => { v := (Config.firstVelocity s.freeIdx e).toInt, free := true }

/-- A source read at instant t by a slot (R173, R206). -/
def State.source (s : State) (src : Nat) (prev : List Word) (t : Time) (age : Nat) : SrcVal :=
  let i := srcIndex src
  match srcType src with
  | 1 => sampleSrc (s.newestSample i) t age
  | 2 => { v := sext 24 (s.encRt i).latched.toNat }
  | 3 => s.velocity i prev
  | 4 => sampleSrc (s.newestSample (128 + i)) t age
  | 5 =>
    let r := tget {} s.wag.rxWords i
    { v := satS 24 r.val.toInt, stale := s.rxStale i || tooOld r.stamp t age }
  | 6 => { v := (s.cmb.slotRt i).out }
  | 7 => { v := satS 24 (tget 0 s.blk.outWords i) }
  | _ => {}

/-! ### Supervision (R203 to R215) -/

/-- Cause bits of R220. -/
def causeRes : Nat := 1
/-- Stale. -/
def causeStale : Nat := 2
/-- Range. -/
def causeRange : Nat := 4
/-- Read-back. -/
def causeRb : Nat := 8

/-- STATE as R217 codes it. -/
def supCode : SupSt → Nat
  | .ok => 0 | .suspect => 1 | .alarm => 2 | .ride => 3 | .hold => 4

/-- The slot is in OK or SUSPECT. -/
def supFine (st : SupSt) : Bool := decide (st = .ok) || decide (st = .suspect)

/-- The state that RESP leads to. -/
def respState (m : BitVec 512) : SupSt := match mResp m with | 1 => .hold | 2 => .ride | _ => .alarm

/-- A supervision event: code, cause bits, state. -/
abbrev SupEvt := Nat × Nat × SupSt

/-- Entry of a state through a cause (R208 to R211). -/
def supEnter (m : BitVec 512) (st : SupSt) (cause : Nat) (x : SupRt) : SupRt × List SupEvt :=
  let ev := if supFine x.st then [(0x2C, cause, st)] else []
  ({ x with
      st := st, cnt := 0, rideLeft := if st = .ride then mRideN m else 0, cause := cause
      fbCause := x.fbCause || decide (cause ≠ causeRb), rbCause := x.rbCause || decide (cause = causeRb) }, ev)

/-- What waits from the last evaluation takes effect: a release (R215), a read-back fault's state (R213, R214), a return
to OK (R210) or the end of a ride-through (R211). The good-evaluation count goes on: only a bad evaluation clears it. DESIGN CHOICE
(log 100, 101), unsafe: 0x2D carries the cause that brought RIDE, or read-back with both, 0x2F none; a read-back fault under
RESP = ALARM leaves a slot in HOLD there. -/
def supBegin (m : BitVec 512) (x : SupRt) : SupRt × List SupEvt :=
  if x.release then
    ({ lastEvt := x.lastEvt, rbLast := x.rbLast }, if x.st = .ok then [] else [(0x2F, 0, .ok)])
  else
    let ovr := decide (x.next = some .hold)
    match x.rbNext with
    | some st =>
      let y := { x with rbNext := none, next := none }
      let z := if supFine y.st then supEnter m st causeRb y
        else if y.st = .hold || y.st = st then ({ y with rbCause := true }, [])
        else ({ y with st := st, rideLeft := 0, rbCause := true, cause := causeRb }, [])
      if ovr then (z.1, z.2 ++ [(0x2D, z.1.cause, z.1.st)]) else z
    | none =>
      match x.next with
      | some .ok =>
        ({ x with next := none, st := .ok, cnt := 0, rideLeft := 0, fbCause := false, rbCause := false, cause := 0 },
          [(0x2F, 0, .ok)])
      | some .hold => ({ x with next := none, st := .hold, rideLeft := 0 }, [(0x2D, x.cause, .hold)])
      | _ => (x, [])

/-- The stale and range tests at the start of an evaluation, and the response to them (R204, R209, R214). -/
def supTests (m : BitVec 512) (stale range : Bool) (x : SupRt) : SupRt × List SupEvt :=
  let x := { x with staleFb := stale, rangeFb := range, resOver := false }
  if !stale && !range then (x, [])
  else if supFine x.st then
    supEnter m (respState m) (stale.toNat * causeStale + range.toNat * causeRange) x
  else ({ x with fbCause := true }, [])

/-- The read-back comparison of an evaluation: none without a usable sample, else mismatch (R213, R214). DESIGN CHOICE (log 101),
unsafe: STATE of 0x2E is the state that RESP leads to. -/
def supReadback (m : BitVec 512) (mis : Option Bool) (x : SupRt) : SupRt × List SupEvt :=
  match mis with
  | none => (x, [])
  | some true =>
    let n := satInc 255 x.rbMis
    let x := { x with rbMis := n, rbMatch := 0 }
    if !x.rbFault && decide (n ≥ mRbPersist m) then
      let st : SupSt := if mResp m = 0 then .alarm else .hold
      ({ x with rbFault := true, rbNext := some st }, [(0x2E, causeRb, st)])
    else (x, [])
  | some false =>
    let n := satInc 255 x.rbMatch
    let x := { x with rbMatch := n, rbMis := 0 }
    (if x.rbFault && decide (n ≥ mClear m) then { x with rbFault := false, rbCause := false } else x, [])

/-- The end of an evaluation: the residual's outcome, the counts, and what the next evaluation starts in (R209 to R211,
R214). -/
def supEnd (m : BitVec 512) (resOver : Bool) (x : SupRt) : SupRt × List SupEvt :=
  let x := { x with resOver := resOver }
  let bad := resOver || x.staleFb || x.rangeFb
  if supFine x.st then
    if resOver then
      let n := x.cnt + 1
      if n ≥ mPersist m then supEnter m (respState m) causeRes { x with cnt := n }
      else ({ x with st := .suspect, cnt := n }, [])
    else if x.st = .suspect && !bad then ({ x with st := .ok, cnt := 0 }, [])
    else (x, [])
  else
    let n := if bad then 0 else satInc 255 x.cnt
    let x := { x with cnt := n, fbCause := if bad then true else x.fbCause && decide (n < mClear m) }
    let x := if x.st = .ride then { x with rideLeft := x.rideLeft - 1 } else x
    if x.rbNext.isNone && !x.fbCause && !x.rbFault && !(decide (x.st = .hold) && mLatch m) then
      ({ x with next := some .ok }, [])
    else if x.st = .ride && decide (x.rideLeft = 0) && x.fbCause then ({ x with next := some .hold }, [])
    else (x, [])

/-- RESULT of a supervision event (R220). -/
def supResult (k : Nat) (res : Int) (e : SupEvt) : BitVec 64 :=
  BitVec.ofNat 64 (k + supCode e.2.2 * 2 ^ 12 + e.2.1 * 2 ^ 16 + (bitsOf 24 res).toNat * 2 ^ 40)

/-- A supervision event of slot k is raised, or dropped within 10 ms of TB2 of the last (R219); the counters of R211 and
R213 count in any case. -/
def State.supEvent (s : State) (k : Nat) (res : Int) (e : SupEvt) : State :=
  let c := s.cmb
  let c := if e.1 = 0x2D then { c with rideExpCnt := satInc 0xFFFF c.rideExpCnt } else c
  let c := if e.1 = 0x2E then { c with rbFaultCnt := satInc 0xFFFF c.rbFaultCnt } else c
  if s.evtDue 10000000 (c.slotRt k).sup.lastEvt then
    let s := { s with cmb := c }.modSlot k (fun r => { r with sup := { r.sup with lastEvt := some s.time.t2 } })
    s.raise (BitVec.ofNat 8 e.1) (supResult k res e)
  else { s with cmb := { c with supDropCnt := satInc 0xFFFFFFFF c.supDropCnt } }

/-- The SUP field of W19 (R217). -/
def supWord (m : BitVec 512) (x : SupRt) : Nat :=
  supCode x.st + x.staleFb.toNat * 8 + x.rangeFb.toNat * 16 + x.resOver.toNat * 32 + x.rbFault.toNat * 64 +
    (decide (x.st = .hold) && mLatch m).toNat * 128 + min 255 x.cnt * 256 +
    (if x.st = .ride then min 65535 x.rideLeft else 0) * 65536

/-! ### The lane (R168 to R171, R180 to R184, R200 to R205) -/

/-- What an evaluation works on and does not change. -/
structure EvIn where
  r : BitVec 1280
  m : BitVec 512
  sp : Int
  fb : Int
  /-- the raw feedback (R206) -/
  fbr : Int
  ff : Int
  trk : Int
  est : Int
  outp : Int
  /-- the model input from MU_SRC; none: OUT -/
  mu : Option Int
  auto : Bool
  /-- tracking for handover (R194), in HOLD (R212) -/
  handTrack : Bool
  hold : Bool
  /-- supervision is in OK; the stale or range test failed -/
  isOk : Bool
  srBad : Bool
  deriving DecidableEq, Repr

/-- What an evaluation changes. -/
structure Ev where
  a : Int := 0
  c : Bool := false
  x : List Int
  t : List Int := [0, 0, 0, 0]
  err : Int
  out : Int
  sata : Bool := false
  sat24 : Bool := false
  divz : Bool := false
  sqrtn : Bool := false
  wind : Bool := false
  /-- LIMITED in this evaluation, and from the last OUTW -/
  limNow : Bool := false
  limited : Bool
  outw : Bool := false
  mdl : ModelRt
  res : Option Int := none
  deriving DecidableEq, Repr

/-- The slot is not in AUTO, or tracks for handover, or its held output (R183, R184, R212). -/
def EvIn.tracks (i : EvIn) : Bool := !i.auto || i.handTrack || i.hold

/-- The signal of a selector (R180). -/
def sigOf (i : EvIn) (e : Ev) (sel : Nat) : Int :=
  match sel with
  | 0 => i.sp | 1 => i.fb | 2 => i.ff | 3 => e.out | 4 => e.err | 5 => i.outp | 6 => i.trk | 7 => i.est | _ => 0

/-- v(S) (R168). -/
def vOf (i : EvIn) (e : Ev) (sel : Nat) : Int :=
  if 8 ≤ sel && decide (sel ≤ 0xF) then e.x.getD (sel - 8) 0
  else if 0x10 ≤ sel && decide (sel ≤ 0x13) then e.t.getD (sel - 0x10) 0
  else sigOf i e sel * 256

/-- w(S) (R168). -/
def wOf (i : EvIn) (e : Ev) (sel : Nat) : Int := if selReg sel then view24 (vOf i e sel) else sigOf i e sel

/-- x beyond the 40-bit bounds sets SATA (R171). -/
def sataIf (x : Int) (e : Ev) : Ev := if satS 40 x = x then e else { e with sata := true }

/-- A := x, saturated (R171). -/
def setA (x : Int) (e : Ev) : Ev := { sataIf x e with a := satS 40 x }

/-- A register of the slot := x, saturated. -/
def setReg (sel : Nat) (x : Int) (e : Ev) : Ev :=
  let e := sataIf x e
  let v := satS 40 x
  if sel < 0x10 then { e with x := setAt e.x (sel - 8) v } else { e with t := setAt e.t (sel - 0x10) v }

/-- prod(K, S) with its SATA (R169, R171). -/
def prodE (c : Nat) (w : Int) (e : Ev) : Int × Ev := (prod c w, sataIf (prodRaw c w) e)

/-- The floor of a square root below 2^24. -/
def isqrt24 (n : Nat) : Nat :=
  (List.range 24).foldl (fun r i => let q := r + 2 ^ (23 - i); if q * q ≤ n then q else r) 0

/-- The condition of SEL (R181). -/
def selCond (i : EvIn) (e : Ev) (c : Nat) : Bool :=
  match c with
  | 0 => decide (e.a < 0)
  | 1 => decide (e.a = 0)
  | 2 => decide (e.a > 0)
  | 3 => e.c
  | 4 => e.sata
  | 5 => e.limited
  | 6 => e.wind
  | _ => i.tracks

/-- MDL (R201, R202). -/
def mdlStep (i : EvIn) (e : Ev) : Ev :=
  if !rModelEn i.r then e
  else
    let d := e.mdl
    let u := i.mu.getD e.out
    if !d.seeded && i.srBad then e
    else
      let er := satS 24 (i.fbr - i.est)
      let bad := i.srBad || (d.seeded && decide (er.natAbs > mThr i.m))
      let y0 := if d.seeded then satS 40 (d.y0 + (if i.isOk && !bad then prod (mKl i.m) er else 0)) else i.fbr * 256
      let y1 := if d.seeded then d.y1 else y0
      let hist := if d.seeded then (u :: d.hist).take 65 else List.replicate 65 u
      let dd := mDead i.m
      let yn := satS 40 (prod (mA1 i.m) (view24 y0) + prod (mA2 i.m) (view24 y1))
      let yn := satS 40 (yn + prod (mB1 i.m) (hist.getD (dd - 1) 0))
      let yn := satS 40 (yn + prod (mB2 i.m) (hist.getD dd 0))
      let yn := satS 40 (yn + mC i.m)
      { e with mdl := { d with y0 := yn, y1 := y0, hist := hist, seeded := true } }

/-- RES (R203, R205). -/
def resStep (i : EvIn) (e : Ev) : Ev :=
  if rModelEn i.r && e.mdl.seeded then { e with res := some (i.fbr - i.est) } else e

/-- OUTW (R183, R212). -/
def outwStep (i : EvIn) (e : Ev) : Ev :=
  let u0 := shrRound e.a 8
  let e := if satS 24 u0 = u0 then e else { e with sat24 := true }
  let u1 := if i.tracks then i.trk else satS 24 u0
  let u2 := clampI (rOutLo i.r) (rOutHi i.r) u1
  let rate := rOutRate i.r
  let u3 := if !i.tracks && decide (rate ≠ 0) then clampI (i.outp - rate) (i.outp + rate) u2 else u2
  let lim := decide (u2 ≠ u1) || decide (u3 ≠ u2)
  { e with out := u3, outw := true, limited := lim, limNow := lim }

/-- One microword (R181). -/
def microStep (i : EvIn) (w : Nat) (e : Ev) : Ev :=
  let d := uD w
  let s := uS w
  let k := rK i.r (uK w)
  match uOp w with
  | 0x01 => { e with a := 0 }
  | 0x02 => { e with a := vOf i e s }
  | 0x03 => let p := prodE k (wOf i e s) e; { p.2 with a := p.1 }
  | 0x04 => let p := prodE k (wOf i e s) e; setA (e.a + p.1) p.2
  | 0x05 => let p := prodE k (wOf i e s) e; setA (e.a - p.1) p.2
  | 0x06 => setA (e.a + vOf i e s) e
  | 0x07 => setA (e.a - vOf i e s) e
  | 0x08 => setA (vOf i e s - vOf i e d) e
  | 0x09 => setA (e.a + uImmS w * 256) e
  | 0x0A => setA (shiftRound e.a (uImmS w)) e
  | 0x0B => setA (-e.a) e
  | 0x0C => setA (Int.ofNat e.a.natAbs) e
  | 0x0D => { e with a := min e.a (vOf i e s) }
  | 0x0E => { e with a := max e.a (vOf i e s) }
  | 0x0F => { e with a := min (max e.a (vOf i e s)) (vOf i e d) }
  | 0x10 =>
    let h := max (vOf i e s) 0
    { e with a := if Int.ofNat e.a.natAbs ≤ h then 0 else if e.a > 0 then e.a - h else e.a + h }
  | 0x11 =>
    if d = 4 then
      let v := shrRound e.a 8
      { (if satS 24 v = v then e else { e with sat24 := true }) with err := satS 24 v }
    else setReg d e.a e
  | 0x12 => { setReg d e.a e with a := vOf i e d }
  | 0x13 => { e with c := decide (e.a > vOf i e s) }
  | 0x14 => if selCond i e (uImm w) then { e with a := vOf i e s } else e
  | 0x15 =>
    let df := vOf i e s - vOf i e d
    let p := prodE k (view24 df) (sataIf df e)
    setReg d (vOf i e d + p.1) p.2
  | 0x16 =>
    let v := vOf i e d + e.a
    let c := clampI (rOutLo i.r * 256) (rOutHi i.r * 256) (satS 40 v)
    let e := sataIf v e
    setReg d c (if c = satS 40 v then e else { e with wind := true })
  | 0x17 =>
    let h := max (vOf i e s) 0
    let lo := vOf i e d - h
    let hi := vOf i e d + h
    { sataIf lo (sataIf hi e) with a := clampI (satS 40 lo) (satS 40 hi) e.a }
  | 0x18 => setA (shrRound (view24 e.a * wOf i e s * 256) (uImm w)) e
  | 0x19 => if e.a < 0 then { e with a := 0, sqrtn := true } else { e with a := Int.ofNat (isqrt24 (e.a * 256).toNat) }
  | 0x1A =>
    let v := vOf i e s
    if v = 0 then { e with divz := true, a := if e.a > 0 then 2 ^ 39 - 1 else if e.a < 0 then -(2 ^ 39) else 0 }
    else setA (Int.tdiv (e.a * 256) v) e
  | 0x1B => mdlStep i e
  | 0x1C => resStep i e
  | 0x1D => outwStep i e
  | 0x1E =>
    if i.tracks then
      let o := e.out * 256
      setReg s o (setReg d (vOf i e d + o - vOf i e s) e)
    else e
  | _ => e

/-- The program from store address a to its END (R178: at most 256 microwords). -/
def runProgram (c : CmbState) (i : EvIn) : Nat → Nat → Ev → Ev
  | 0, _, e => e
  | fuel + 1, a, e =>
    let w := c.word a
    if uOp w = 0x1F then e else runProgram c i fuel (a + 1) (microStep i w e)

/-! ### Records taking effect (R187 to R189, R199, R215, R216) -/

/-- X after a reload (R188), with the integrator rescaled (R189). DESIGN CHOICE (log 97), unsafe: the spec gives no order between the
two; the registers are loaded first, so where XKEEP of BUMP_X is 0 the rescale acts on the loaded value. DESIGN CHOICE (log 114), unsafe:
the rescale saturates once, at its end, and raises no SATA and no SAT_CNT, since it belongs to no evaluation's program. -/
def reloadX (r : SlotRt) (new : BitVec 1280) : List Int :=
  let x := (List.range 8).map (fun i => if Nat.testBit (rXkeep new) i then r.x.getD i 0 else rX new i)
  let ko := rK r.eff (rBumpK new)
  let kn := rK new (rBumpK new)
  if rBumpEn new && decide (ko ≠ kn) then
    let sel := rBumpS new
    let sv := view24 (if sel < 0x10 then r.x.getD (sel - 8) 0 else r.t.getD (sel - 0x10) 0)
    let b := rBumpX new
    setAt x b (satS 40 (x.getD b 0 + prod ko sv - prod kn sv))
  else x

/-- The values that an evaluation in base period n may take (R175). -/
def takeable (n : Nat) (q : List (Int × Option Nat)) : List (Int × Option Nat) :=
  q.filter (fun x => match x.2 with | none => true | some m => decide (m < n))

/-- The values left for later base periods. -/
def notYet (n : Nat) (q : List (Int × Option Nat)) : List (Int × Option Nat) :=
  q.filter (fun x => match x.2 with | none => false | some m => !decide (m < n))

/-- The set-point clamped to the limits of a record. -/
def clampSp (r : BitVec 1280) (v : Int) : Int := clampI (rSpLo r) (rSpHi r) v

/-- A slot starts with its first record, in base period n (R176, R187, R216). -/
def enableSlot (r : SlotRt) (new : BitVec 1280) (model : BitVec 512) (n : Nat) : SlotRt :=
  let sp0 := clampSp new (rSp new)
  let base := { r with
    on := true, eff := new, model := model, pend := none, pendModel := none, mode := rMode new, mv := rMv new
    spLast := rSp new, spEff := sp0, ramp := none, heldSp := none, spIn := notYet n r.spIn, encPrev := [], x := (List.range 8).map (rX new)
    satCnt := 0, sup := { lastEvt := r.sup.lastEvt }, mdl := { r.mdl with seeded := false }, track := 0, ho := .tracking
    hoFails := 0, recent := [], bridgedMode := false, bridgedMv := false }
  match r.heldSp with
  | some (v, none) => { base with spLast := v }
  | some (v, some (dur, t)) => { base with ramp := some { start := sp0, stop := v, from_ := t, duration := dur } }
  | none => base

/-- A running slot takes a new record in base period n (R176, R177, R187 to R189). launched: a SETPOINT or RAMP has launched on it in
the tick in which the record takes effect. A record that replaces the set-point replaces what a cascade wrote before it. -/
def reloadSlot (r : SlotRt) (new : BitVec 1280) (launched : Bool) (n : Nat) : SlotRt :=
  let keepSp := rSpKeep new || launched
  { r with
    eff := new, spIn := if rSpKeep new then r.spIn else notYet n r.spIn, pend := none, x := reloadX r new
    mode := if r.bridgedMode then r.mode else rMode new, mv := if r.bridgedMv then r.mv else rMv new
    bridgedMode := false, bridgedMv := false
    spLast := if keepSp then r.spLast else rSp new, ramp := if keepSp then r.ramp else none
    mdl := if rModelEn new && !rModelEn r.eff then { r.mdl with seeded := false } else r.mdl
    ho := if rHold new = rHold r.eff then r.ho else .tracking, track := if rHold new = rHold r.eff then r.track else 0
    recent := if rDst new = rDst r.eff then r.recent else [] }

/-- A running slot takes a model record (R199, R215). -/
def reloadModel (r : SlotRt) (m : BitVec 512) : SlotRt :=
  { r with model := m, pendModel := none
           sup := { r.sup with release := r.sup.release || mReseed m || decide (mDead m ≠ mDead r.model) } }

/-- The value last written to a destination, whoever wrote it (R212). -/
def State.lastWritten (s : State) (dst : Nat) (none_ : Int) : Int :=
  let i := srcIndex dst
  match srcType dst with
  | 1 => (tget {} s.seen.dac i : DacRt).val
  | 2 => (tget {} s.seen.hs i : HsRt).duty
  | 3 => (tget {} s.seen.pul i : PulRt).rate
  | 4 => (tget (0 : Val40) s.wag.txWords i).toInt
  | 5 => (s.cmb.slotRt i).spLast
  | 6 => (s.cmb.slotRt i).ff
  | 7 => tget 0 s.blk.inWords i
  | _ => none_

/-- The records that wait for slot k take effect at the start of its evaluation (R187, R199). -/
def State.takeRecords (s : State) (k : Nat) : State :=
  let r := s.cmb.slotRt k
  let s := match r.pend with
    | none => s
    | some (new, id) =>
      let s :=
        if !rEn new then
          let s := match r.pendModel with | some (_, mid) => s.recordDone mid none | none => s
          s.modSlot k (fun r => { r with
            on := false, eff := new, pend := none, pendModel := none, heldSp := none, ramp := none
            sup := { lastEvt := r.sup.lastEvt } })
        else if r.on then
          let w := if rDst new = rDst r.eff then r.written else s.lastWritten (rDst new) r.out
          let launched (r : SlotRt) : Bool := r.spTick.any (fun t => decide (s.time.tb1.tickOf t = 0))
          s.modSlot k (fun r => { reloadSlot r new (launched r) s.cmb.n with written := w })
        else
          let s := match r.pendModel with | some (_, mid) => s.recordDone mid none | none => s
          let w := s.lastWritten (rDst new) r.out
          s.modSlot k (fun r => { enableSlot r new (s.cmb.modelOf k) s.cmb.n with written := w })
      ((s.dropSlotClaims k).recordDone id none).noteLayouts
  let r := s.cmb.slotRt k
  match r.on, r.pendModel with
  | true, some (m, id) => (s.modSlot k (fun r => reloadModel r m)).recordDone id none
  | _, _ => s

/-! ### Set-point and feedforward (R128, R175, R176) -/

/-- The value of a ramp at instant t, and whether it has ended (R128: nearest integer). -/
def rampAt (r : Ramp) (t : Time) : Int × Bool :=
  let el := sdiff t r.from_
  if r.duration = 0 || decide (el ≥ Int.ofNat r.duration) then (r.stop, true)
  else
    let el := max el 0
    (r.start + ((r.stop - r.start) * el * 2 + Int.ofNat r.duration) / (2 * Int.ofNat r.duration), false)

/-- The set-point and the written feedforward at an evaluation in base period n at instant t (R175, R176). -/
def takeInputs (n : Nat) (t : Time) (r : SlotRt) : SlotRt :=
  let r := match (takeable n r.spIn).getLast? with
    | some x => { r with spLast := x.1, ramp := none }
    | none => r
  let r := match (takeable n r.ffIn).getLast? with
    | some x => { r with ff := x.1 }
    | none => r
  let r := { r with spIn := notYet n r.spIn, ffIn := notYet n r.ffIn }
  let r := match r.ramp with
    | some q => let v := rampAt q t; { r with spLast := v.1, ramp := if v.2 then none else some q }
    | none => r
  let c := clampSp r.eff r.spLast
  let rate := rSpRate r.eff
  { r with spEff := if rate = 0 then c else r.spEff + clampI (-rate) rate (c - r.spEff) }

/-! ### DAC read-back (R213) -/

/-- What is kept of a slot's output instants, newest first, after another one: those that a sample newer than the last one compared may
need (R213). -/
def keepRecent (last : Option Time) : List (Time × Int) → List (Time × Int)
  | [] => []
  | y :: r => if last.any (fun t => decide (sdiff t y.1 ≥ 10000)) then [y] else y :: keepRecent last r

/-- One read-back sample against what the slot wrote: none where it is not usable, else whether it differs by more than
RB_THR. clamps are the clamps that Fen Gate has reported on the DAC. -/
def rbCompare (recent : List (Time × Int)) (clamps : List (Time × Option Time)) (thr : Nat) (x : Sample) : Option Bool :=
  let ago (t : Time) : Int := sdiff x.stamp t
  let clamped := clamps.any (fun c => decide (0 ≤ ago c.1) && c.2.all (fun u => decide (ago u ≤ 10000)))
  let near := recent.any (fun y => decide (0 ≤ ago y.1) && decide (ago y.1 < 10000))
  if swStl x.word || clamped || near then none
  else (recent.find? (fun y => decide (ago y.1 ≥ 10000))).map (fun y => decide ((swValue x.word - y.2).natAbs > thr))

/-- The comparison of an evaluation: a mismatch where any new usable sample differs (R213). -/
def State.readback (s : State) (r : SlotRt) : Option Bool :=
  if !mRbEn r.model || srcType (rDst r.eff) ≠ 1 then none
  else
    let d := srcIndex (rDst r.eff)
    let new := (tget [] s.cnv.readBack d).filter (fun x => match r.sup.rbLast with
      | some t => decide (sdiff x.stamp t > 0)
      | none => true)
    let cs := new.filterMap (rbCompare r.recent (tget [] s.fio.clampAt d) (mRbThr r.model))
    if cs.isEmpty then none else some (cs.any (fun b => b))

/-- The stamp of the newest read-back sample of a slot's DAC. -/
def State.newestRb (s : State) (r : SlotRt) : Option Time :=
  if srcType (rDst r.eff) ≠ 1 then r.sup.rbLast
  else match tget [] s.cnv.readBack (srcIndex (rDst r.eff)) with
    | x :: _ => some x.stamp
    | [] => r.sup.rbLast

/-! ### Outputs (R175, R183) -/

/-- A slot's output goes to its destination (R173, R183, R451); n is the base period of the evaluation, t its output instant, which
is that of a field destination, and fin its end, which is that of every other (R183, R230). A member of a twin that does not act
drives no output and sends nothing on Waggle (R447, R459). -/
def State.writeOut (s : State) (dst n : Nat) (v : Int) (t fin : Time) : State :=
  let i := srcIndex dst
  let s := if dst = 0 then s else s.hashWrite (if srcType dst < 4 then t else fin) dst v
  match srcType dst with
  | 1 => s.commandOut (.dac i v t)
  | 2 => s.commandOut (.duty i v t)
  | 3 => if s.roleActs then s.sendDown (.rate i v t) else s
  | 4 => if s.roleActs then s.txWrite i v else s
  | 5 => s.modSlot i (fun r => { r with spIn := r.spIn ++ [(v, some n)] })
  | 6 => s.modSlot i (fun r => { r with ffIn := r.ffIn ++ [(v, some n)] })
  | 7 => { s with blk := { s.blk with inWords := tput 0 v s.blk.inWords i } }
  | _ => s

/-! ### The handover from a hold loop (R194) -/

/-- The read-back of a hold-linked slot's destination: the DAC's newest read-back sample, else the loop's own output in
the counts of a duty destination (R304). -/
def State.holdReadback (s : State) (r : BitVec 1280) : Int :=
  if srcType (rDst r) = 1 then swValue (s.newestSample (128 + srcIndex (rDst r))).word
  else divNearest ((tget {} s.seen.drn.loops (rHold r) : LoopRt).u * 8388607) 32767

/-- The first output instant of a slot at least 2 ms after instant t, from the evaluation whose base period starts at
t0 (R194). -/
def handInstant (div outOffs : Nat) (t0 t : Time) : Time :=
  let per := div * 20000
  let inst (k : Nat) : Time := tadd t0 (Int.ofNat (k * per + outOffs))
  match (List.range 202).find? (fun k => decide (sdiff (inst k) t ≥ 2000000)) with
  | some k => inst k
  | none => inst 202

/-- Event 0x29 or 0x2A of slot k. -/
def State.handEvent (s : State) (code : Byte) (k loop : Nat) : State := s.raise code (BitVec.ofNat 64 (k + loop * 2 ^ 16))

/-- After an evaluation of a hold-linked slot that is not yet HANDED: the count, the request, success or failure at t_h
(R194, R212). tOut is its output instant, fin its finish. -/
def State.handoverStep (s : State) (k : Nat) (t0 tOut fin : Time) : State :=
  let r := s.cmb.slotRt k
  let loop := rHold r.eff
  let ask (s : State) : State :=
    let th := handInstant (s.classDiv (rClass r.eff)) (rOutOffs r.eff) t0 fin
    (s.modSlot k (fun r => { r with ho := .requested th false })).sendDown (.holdReq loop th)
  let fine := supFine r.sup.st
  let s := if fine then s else s.modSlot k (fun r => { r with track := 0 })
  match r.ho with
  | .handed => s
  | .requested th ok =>
    if sdiff tOut th < 0 then s
    else if ok then
      (s.modSlot k (fun r => { r with ho := .handed, hoFails := 0 })).handEvent 0x2A k loop
    else
      let n := r.hoFails + 1
      let s := s.modSlot k (fun r => { r with ho := .tracking, hoFails := if n ≥ 3 then 0 else n })
      if n ≥ 3 then
        State.handEvent { s with cmb := { s.cmb with hofailCnt := satInc 0xFFFF s.cmb.hofailCnt } } 0x29 k loop
      else s
  | .tracking =>
    if fine then
      let n := satInc 255 r.track
      let s := s.modSlot k (fun r => { r with track := n })
      if n ≥ rTrackMin r.eff then ask s else s
    else s

/-! ### Counters (R171, R196) -/

/-- A saturating evaluation of slot k counts, and 0x27 is raised at most once per second of TB2, with the slots of the last second;
DEDUCED (log 102): its first slot is the lowest of them (R171, R196). -/
def State.countSat (s : State) (k : Nat) : State :=
  let now := s.time.t2
  let l := (k, now) :: s.cmb.satNew.filter (fun x => decide (x.1 ≠ k) && decide (now < x.2 + 1000000000))
  let c := { s.cmb with satCnt := satInc 0xFFFFFFFF s.cmb.satCnt, satNew := l }
  if s.rbit 0x5000 0 && s.evtDue 1000000000 c.lastSatEvt then
    State.raise { s with cmb := { c with lastSatEvt := some now } } 0x27
      (BitVec.ofNat 64 ((l.map (·.1)).foldl min k + l.length * 2 ^ 16))
  else { s with cmb := c }

/-- An evaluation counts in its second of TB2 (CMB_EVAL_RATE). -/
def State.countEval (s : State) : State :=
  let sec := s.time.t2 / 1000000000
  let c := s.cmb
  if c.evalAt = sec then { s with cmb := { c with evalSecond := c.evalSecond + 1 } }
  else { s with cmb := { c with
    evalRate := if sec = c.evalAt + 1 then c.evalSecond else 0, evalSecond := 1, evalAt := sec } }

/-! ### SLOT_EVALUATION -/

/-- The lane inputs of an evaluation of slot k at instant t, after takeRecords, the start tests and takeInputs. DESIGN CHOICE (log 114),
unsafe: selector 0x06 TRK reads 0 in AUTO, where R177 gives TRK no value. -/
def State.evIn (s : State) (r : SlotRt) (fbr : SrcVal) (t : Time) : EvIn :=
  let hand := decide (rHold r.eff ≠ 0x3F) && decide (r.ho ≠ .handed)
  let hold := decide (r.sup.st = .hold)
  let est := if rModelEn r.eff && r.mdl.seeded then view24 r.mdl.y0 else fbr.v
  { r := r.eff, m := r.model, sp := r.spEff, fb := if r.sup.st = .ride then est else fbr.v, fbr := fbr.v
    ff := if rFf r.eff = 0 then r.ff else (s.source (rFf r.eff) r.encPrev t 0).v
    trk := if hand then s.holdReadback r.eff else if hold then r.written
      else if r.mode = 1 then r.mv else if r.mode = 2 then (s.source (rTrk r.eff) r.encPrev t 0).v else 0
    est := est, outp := r.out, mu := if mMu r.model = 0 then none else some (s.source (mMu r.model) r.encPrev t 0).v
    auto := decide (r.mode = 0), handTrack := hand, hold := hold, isOk := decide (r.sup.st = .ok)
    srBad := r.sup.staleFb || r.sup.rangeFb }

/-- The evaluation used a free velocity: its first, with a TYPE 0x3 source. -/
def usesFree (r : SlotRt) : Bool :=
  r.encPrev.isEmpty && [rFb r.eff, rFf r.eff, rTrk r.eff, mMu r.model].any (fun x => decide (srcType x = 3))

/-- FLAGS of W19 after an evaluation (R172). DESIGN CHOICE (log 96), unsafe: the spec does not say what TRACKING means; here the slot
tracks for handover or its held output, not MANUAL or TRACK mode. -/
def evFlags (i : EvIn) (e : Ev) (handed : Bool) : BitVec 8 :=
  BitVec.ofNat 8 (e.sata.toNat + e.sat24.toNat * 2 + e.divz.toNat * 4 + e.sqrtn.toNat * 8 + e.limNow.toNat * 16 +
    e.wind.toNat * 32 + (i.handTrack || i.hold).toNat * 64 + handed.toNat * 128)

/-- A slot's run-time state after the program. -/
def afterRun (e : Ev) (est fbr : Int) (latches : List Word) (r : SlotRt) : SlotRt :=
  { r with
    fbr := fbr, x := e.x, t := e.t, err := e.err, out := e.out, limited := e.limited, encPrev := latches
    satCnt := if e.sata || e.sat24 then satInc 255 r.satCnt else r.satCnt
    mdl := { e.mdl with resLast := satS 24 (e.res.getD 0), estLast := est } }

/-- Supervision events of slot k with one residual, in turn (R218). -/
def State.supEvents (s : State) (k : Nat) (res : Int) (l : List SupEvt) : State := l.foldl (fun s x => s.supEvent k res x) s

/-- What the run of slot k wrote: its FLAGS, the output where OUTW wrote it and neither HOLD nor TRACKING withholds it, and the
saturation count (R172, R192, R193, R194). -/
def State.evalOutput (s : State) (k n : Nat) (r : SlotRt) (i : EvIn) (e : Ev) (tOut tEnd : Time) : State :=
  let handed := decide ((s.cmb.slotRt k).ho = .handed) && decide (rHold r.eff ≠ 0x3F)
  let flags := evFlags i e handed
  let writes := e.outw && !i.hold && (!i.handTrack || handed)
  let s := s.modSlot k (fun r => { r with
    flags := flags
    written := if writes then e.out else r.written
    recent := if writes && decide (srcType (rDst r.eff) = 1) then (tOut, e.out) :: keepRecent r.sup.rbLast r.recent
      else r.recent })
  let s := if writes then s.writeOut (rDst r.eff) n e.out tOut tEnd else s
  if e.sata || e.sat24 then s.countSat k else s

/-- A slot enters ALARM, RIDE or HOLD (R350). -/
def enters (a b : SupSt) : Bool := decide (a ≠ b) && (decide (b = .alarm) || decide (b = .ride) || decide (b = .hold))

/-- An evaluation of slot k in base period n, starting and finishing at the instants of the dispatch (R164). -/
def State.evaluate (s : State) (k n : Nat) (start fin : Nat) : State :=
  let t0 := s.baseStart n
  let t := tadd t0 (Int.ofNat start)
  let s := s.modSlot k (takeInputs n t)
  let r := s.cmb.slotRt k
  let st0 := r.sup.st
  let b := supBegin r.model r.sup
  let r := { r with sup := b.1, mdl := if r.sup.release then { r.mdl with seeded := false } else r.mdl }
  let fbr := s.source (rFb r.eff) r.encPrev t (mAge r.model)
  let range := decide (fbr.v < mFbMin r.model) || decide (fbr.v > mFbMax r.model) || fbr.ovr
  let q := supTests r.model fbr.stale range r.sup
  let r := { r with sup := q.1 }
  let i := s.evIn r fbr t
  let e := runProgram s.cmb i 256 (rProg r.eff)
    { x := r.x, err := r.err, out := r.out, limited := r.limited, mdl := r.mdl }
  let z := supReadback r.model (s.readback r) r.sup
  let w := supEnd r.model (match e.res with | some x => decide (x.natAbs > mThr r.model) | none => false)
    { z.1 with rbLast := s.newestRb r }
  let latches := (List.range 16).map (fun x => (s.encRt x).latched)
  let free := usesFree r
  let res0 := r.mdl.resLast
  let r := afterRun e i.est fbr.v latches { r with sup := w.1 }
  let tOut := tadd t0 (Int.ofNat (rOutOffs r.eff))
  let tEnd := tadd t0 (Int.ofNat fin)
  let s := s.modSlot k (fun _ => r)
  let s := if free then s.tookFree else s
  let s := (s.supEvents k res0 (b.2 ++ q.2)).supEvents k r.mdl.resLast (z.2 ++ w.2)
  let s := if i.handTrack then s.handoverStep k t0 tOut tEnd else s
  let s := s.evalOutput k n r i e tOut tEnd
  let entered := enters st0 b.1.st || enters b.1.st q.1.st || enters q.1.st z.1.st || enters z.1.st w.1.st
  (s.mirTake (.slot k (slotFlags (s.cmb.slotRt k) false) r.spEff fbr.v e.out r.mdl.resLast t entered)).countEval

/-- SLOT_EVALUATION: a lane starts a slot that is due in the present base period and runs it to END (R164, R187). -/
def execSlotEvaluation (slot : Fin 4096) (s : State) : Host.Outcome State Fault Refusal :=
  let k := slot.val
  match s.cmb.due.find? (fun x => decide (x.1 = k)) with
  | none => .next s
  | some x =>
    let s : State := { s with cmb := { s.cmb with due := s.cmb.due.filter (fun y => decide (y.1 ≠ k)) } }
    let s := s.takeRecords k
    let s := if (s.cmb.slotRt k).on then s.evaluate k s.cmb.n x.2.1 x.2.2 else s
    .next s.settleLoads.judgePhase

end Sys2Proof.Machine
end

