-- ==== Sys2Proof/Machine/BlkScan.lean ====
section
/-! DEFINITION. One scan of a block program: the process image (R229), the operations of the expression code (R239 to
R244) and the library types (R245 to R249). -/

namespace Sys2Proof.Machine

/-! ### The process image (R229) -/

/-- SRC or DST of a map entry. -/
def mapSrc (w : BitVec 64) : Nat := fld w 15 0

/-- How many indices an input-map TYPE has; 0 for an invalid TYPE. -/
def inLimit : Nat → Nat
  | 0 => 1 | 1 => 128 | 2 => 16 | 3 => 16 | 4 => 32 | 5 => 4096 | 6 => 4096 | 8 => 2 | 9 => 6 | _ => 0

/-- How many indices an output-map TYPE has; 0 for an invalid TYPE. -/
def outLimit : Nat → Nat
  | 0 => 1 | 1 => 32 | 4 => 4096 | 5 => 4096 | 6 => 4096 | 8 => 6 | _ => 0

/-- What an input word's source shows: the value, its quality bit, and whether the value is free. -/
structure InVal where
  v : Int := 0
  good : Bool := true
  free : Bool := false
  deriving DecidableEq, Repr

/-- The block velocity of an encoder: the latch less the latch 50 base periods earlier, in counts per second (R317); free
before there is one. -/
def State.blockVelocity (s : State) (e : Nat) : InVal :=
  match (s.encRt e).latches[50]? with
  | some p => { v := ((s.encRt e).latched - p).toInt * 1000 }
  | none => { v := (Config.firstVelocity s.freeIdx e).toInt * 1000, free := true }

/-- Input word w at the input-image instant (R224, R229), digital inputs and high-side states from di and hs. -/
def State.inputWord (s : State) (di : BitVec 64) (hs : BitVec 48) (w : Nat) : InVal :=
  let src := mapSrc (tget 0 s.blk.inMap w)
  let i := srcIndex src
  match srcType src with
  | 1 => let x := s.newestSample i; { v := swValue x.word, good := !swStl x.word }
  | 2 => { v := (s.encRt i).latched.toInt }
  | 3 => s.blockVelocity i
  | 4 => let x := s.newestSample (128 + i); { v := swValue x.word, good := !swStl x.word }
  | 5 => { v := (tget {} s.wag.rxWords i : RxWord).val.toInt, good := !s.rxStale i }
  | 6 => { v := (s.cmb.slotRt i).out }
  | 8 => { v := Int.ofNat (fld di (32 * i + 31) (32 * i)) }
  | 9 => { v := Int.ofNat (fld hs (8 * i + 7) (8 * i)) }
  | _ => { v := tget 0 s.blk.inWords w }

/-- High-side outputs as driven, by the uplink's read-back (R17, R229). -/
def State.hsDriven (s : State) : BitVec 48 :=
  (List.range 48).foldl (fun w i => if (tget {} s.seen.hs i : HsRt).drv then w ||| BitVec.ofNat 48 (2 ^ i) else w) 0

/-! ### The scan -/

/-- What a scan works on and does not change: the image, the snapshot, the system words 0 to 6, Δ, the slots and block
events as they stood at the input-image instant. -/
structure ScanIn where
  img : List Byte
  insts : List Inst
  fixed : Sparse Int
  snap : List (Nat × InVal)
  sys : List Int
  delta : Nat
  ovrCnt : Nat

/-- What a scan changes. -/
structure Scan where
  e : List Int := List.replicate 16 0
  v : Sparse Int
  outp : Sparse Int
  ovf : Bool := false
  divz : Bool := false
  idx : Bool := false
  evts : List (Nat × Int) := []
  dropped : Nat := 0
  bridge : List BridgeReq := []
  fresh : List Nat
  freshEv : List Nat
  deriving DecidableEq, Repr

/-- E register i. -/
def Scan.r (x : Scan) (i : Nat) : Int := x.e.getD i 0
/-- E register i takes a value. -/
def Scan.put (x : Scan) (i : Nat) (v : Int) : Scan := { x with e := setAt x.e i v }
/-- Instance word a. -/
def Scan.w (x : Scan) (a : Nat) : Int := tget 0 x.v a
/-- Instance word a takes a value. -/
def Scan.setW (x : Scan) (a : Nat) (v : Int) : Scan := { x with v := tput 0 v x.v a }
/-- A saturating result: OVF where it is beyond 40 bits (R241). -/
def Scan.putSat (x : Scan) (i : Nat) (v : Int) : Scan :=
  { x.put i (satS 40 v) with ovf := x.ovf || decide (satS 40 v ≠ v) }
/-- The 40-bit pattern of a value read as signed. -/
def wrap40 (v : Int) : Int := sext 40 (bitsOf 40 v).toNat
/-- The shift count c(B) (R241). -/
def shCount (b : Int) : Nat := if 0 ≤ b ∧ b ≤ 39 then b.toNat else 40
/-- OVF, DIVZ, IDX as bits 0, 1, 2. -/
def Scan.flags (x : Scan) : BitVec 3 := BitVec.ofNat 3 (x.ovf.toNat + 2 * x.divz.toNat + 4 * x.idx.toNat)

/-- A two-operand operation of form R on A and B (R240, R241). -/
def Scan.alu (x : Scan) (op d : Nat) (a b : Int) (sh : Nat) : Scan :=
  let bits (f : BitVec 40 → BitVec 40 → BitVec 40) : Scan := x.put d (f (bitsOf 40 a) (bitsOf 40 b)).toInt
  let bool (c : Bool) : Scan := x.put d (Int.ofNat c.toNat)
  match op with
  | 0x02 => x.put d a
  | 0x0E => x.putSat d (a + b)
  | 0x0F => x.putSat d (a - b)
  | 0x10 => x.put d (wrap40 (a + b))
  | 0x11 => x.put d (wrap40 (a - b))
  | 0x13 => x.putSat d (a * b)
  | 0x14 => x.putSat d (shrRound (a * b) sh)
  | 0x15 =>
    if b = 0 then
      { x.put d (if a > 0 then 2 ^ 39 - 1 else if a < 0 then -(2 ^ 39) else 0) with divz := true }
    else x.putSat d (Int.tdiv a b)
  | 0x16 => if b = 0 then { x.put d 0 with divz := true } else x.put d (a - b * satS 40 (Int.tdiv a b))
  | 0x17 => x.putSat d (-a)
  | 0x18 => x.putSat d (Int.ofNat a.natAbs)
  | 0x19 => x.put d (min a b)
  | 0x1A => x.put d (max a b)
  | 0x1B => x.put d (min (max (x.r d) a) b)
  | 0x1C => bits (· &&& ·)
  | 0x1D => bits (· ||| ·)
  | 0x1E => bits (· ^^^ ·)
  | 0x1F => bits (fun p _ => ~~~p)
  | 0x20 => bits (fun p _ => p <<< shCount b)
  | 0x21 => bits (fun p _ => p >>> shCount b)
  | 0x22 => bits (fun p _ => p.sshiftRight (shCount b))
  | 0x24 => bool (decide (a = b))
  | 0x25 => bool (decide (a ≠ b))
  | 0x26 => bool (decide (a < b))
  | 0x27 => bool (decide (a ≤ b))
  | 0x28 => bool (decide (a = 0))
  | 0x29 => if b ≠ 0 then x.put d a else x
  | _ => x

/-! ### Library types (R245 to R247) -/

/-- A BOOL input (R233). -/
def isOn (v : Int) : Bool := decide (v ≠ 0)
/-- A BOOL a block writes. -/
def b01 (b : Bool) : Int := Int.ofNat b.toNat
/-- A word of state bits with bit i set to b. -/
def stBit (w : Int) (i : Nat) (b : Bool) : Int := (putBit (bitsOf 40 w) i b).toInt
/-- Bit i of a word of state bits. -/
def stGet (w : Int) (i : Nat) : Bool := tbit (bitsOf 40 w) i

/-- Q, ET, RUN of a timer; Q as it stands in its word, which the code can have set to any value. -/
structure TimerRt where
  q : Int
  et : Int
  run : Bool
  deriving DecidableEq, Repr

/-- TON (R245). -/
def tonStep (on : Bool) (pt delta : Int) (t : TimerRt) : TimerRt :=
  if !on then { q := 0, et := 0, run := false }
  else if !t.run then { q := b01 (decide (pt = 0)), et := 0, run := true }
  else { t with et := min (t.et + delta) pt, q := b01 (decide (min (t.et + delta) pt ≥ pt)) }

/-- TOF (R245). -/
def tofStep (on : Bool) (pt delta : Int) (t : TimerRt) : TimerRt :=
  if on then { q := 1, et := 0, run := false }
  else if t.q = 1 then
    let u : TimerRt := if !t.run then { t with et := 0, run := true } else { t with et := min (t.et + delta) pt }
    if u.et ≥ pt then { u with q := 0, run := false } else u
  else t

/-- TP (R245); m is the edge memory before the call. -/
def tpStep (on m : Bool) (pt delta : Int) (t : TimerRt) : TimerRt :=
  if t.run then
    let et := min (t.et + delta) pt
    if et ≥ pt then { q := 0, et := et, run := false } else { t with et := et }
  else if on && !m then { q := b01 (decide (pt > 0)), et := 0, run := decide (pt > 0) }
  else if !on && decide (t.q = 0) then { t with et := 0 }
  else t

/-- A call of a timer at instance offset o. -/
def callTimer (type o : Nat) (fresh : Bool) (delta : Int) (x : Scan) : Scan :=
  let on := isOn (x.w o)
  let st := x.w (o + 4)
  let t : TimerRt := { q := x.w (o + 2), et := x.w (o + 3), run := stGet st 1 }
  let pt := max (x.w (o + 1)) 0
  let u := match type with
    | 0x10 => tonStep on pt delta t
    | 0x11 => tofStep on pt delta t
    | _ => tpStep on (if fresh then on else stGet st 0) pt delta t
  let st := stBit st 1 u.run
  ((x.setW (o + 2) u.q).setW (o + 3) u.et).setW (o + 4) (if type = 0x12 then stBit st 0 on else st)

/-- A count one up or one down within the 40-bit bounds (R246). -/
def countBy (up down : Bool) (cv : Int) : Int :=
  if up && !down then (if cv = 2 ^ 39 - 1 then cv else cv + 1)
  else if down && !up then (if cv = -(2 ^ 39) then cv else cv - 1)
  else cv

/-- A call of CTU or CTD at instance offset o (R246). -/
def callCount (up : Bool) (o : Nat) (fresh : Bool) (x : Scan) : Scan :=
  let inp := isOn (x.w o)
  let bit := if up then 0 else 1
  let st := x.w (o + 5)
  let m := if fresh then inp else stGet st bit
  let edge := inp && !m
  let pv := x.w (o + 2)
  let cv := if isOn (x.w (o + 1)) then (if up then 0 else pv) else countBy (up && edge) (!up && edge) (x.w (o + 4))
  let q := if up then decide (cv ≥ pv) else decide (cv ≤ 0)
  ((x.setW (o + 3) (b01 q)).setW (o + 4) cv).setW (o + 5) (stBit st bit inp)

/-- A call of CTUD at instance offset o (R246). -/
def callCtud (o : Nat) (fresh : Bool) (x : Scan) : Scan :=
  let cu := isOn (x.w o)
  let cd := isOn (x.w (o + 1))
  let st := x.w (o + 8)
  let up := cu && !(if fresh then cu else stGet st 0)
  let down := cd && !(if fresh then cd else stGet st 1)
  let pv := x.w (o + 4)
  let cv := if isOn (x.w (o + 2)) then 0 else if isOn (x.w (o + 3)) then pv else countBy up down (x.w (o + 7))
  (((x.setW (o + 5) (b01 (decide (cv ≥ pv)))).setW (o + 6) (b01 (decide (cv ≤ 0)))).setW (o + 7) cv).setW (o + 8)
    (stBit (stBit st 0 cu) 1 cd)

/-- A call of R_TRIG or F_TRIG at instance offset o (R247). -/
def callTrig (rising : Bool) (o : Nat) (fresh : Bool) (x : Scan) : Scan :=
  let clk := isOn (x.w o)
  let m := if fresh then b01 clk else x.w (o + 2)
  let q := if rising then clk && decide (m = 0) else !clk && decide (m = 1)
  (x.setW (o + 1) (b01 q)).setW (o + 2) (b01 clk)

/-- A call of SR or RS at instance offset o (R247). -/
def callLatch (sr : Bool) (o : Nat) (x : Scan) : Scan :=
  let s := isOn (x.w o)
  let r := isOn (x.w (o + 1))
  let q := isOn (x.w (o + 2))
  x.setW (o + 2) (b01 (if sr then s || (q && !r) else !r && (s || q)))

/-! ### Library types of this module (R248, R249) -/

/-- The outputs of a LOOP_BRIDGE for its slot: SUP, OK, RES, EST, OUTV, MODE (R218, R248). -/
def State.bridgeView (s : State) (slot : Int) : List Int :=
  if 0 ≤ slot ∧ slot < 4096 then
    let r := s.cmb.slotRt slot.toNat
    if r.on then
      [Int.ofNat (supWord r.model r.sup), b01 (supFine r.sup.st), r.mdl.resLast, r.mdl.estLast, r.out, Int.ofNat r.mode]
    else [0, 0, 0, 0, 0, 0]
  else [0, 0, 0, 0, 0, 0]

/-- A call of LOOP_BRIDGE at instance offset o (R248). -/
def callBridge (s : State) (slot : Int) (o : Nat) (fresh : Bool) (x : Scan) : Scan :=
  let out := s.bridgeView slot
  let rel := isOn (x.w (o + 4))
  let st := x.w (o + 11)
  let edge := rel && !(if fresh then rel else stGet st 0)
  let en := isOn (x.w (o + 1))
  let mode := x.w (o + 2)
  let q : BridgeReq := {
    slot := slot.toNat
    mode := if en && decide (1 ≤ mode) && decide (mode ≤ 3) then some (mode.toNat - 1) else none
    mv := if en then some (satS 24 (x.w (o + 3))) else none
    release := edge }
  let x := (out.zipIdx.foldl (fun x y => x.setW (o + 5 + y.2) y.1) (x.setW o slot))
  let x := x.setW (o + 11) (stBit st 0 rel)
  let ok : Bool := decide (0 ≤ slot) && decide (slot < 4096)
  { x with bridge := if ok then x.bridge.filter (fun y => decide (y.slot ≠ q.slot)) ++ [q] else x.bridge }

/-- A call of STEP_EVENT at instance offset o (R249); an EVT beyond 255 names no event. DESIGN CHOICE (log 115), unsafe: SEQ of a new or
retyped instance, and of every one after a restart, is first set to the count at its first call. -/
def callEvent (s : State) (evt : Int) (o : Nat) (first : Bool) (x : Scan) : Scan :=
  let r : Int × Int := if 0 ≤ evt ∧ evt < 256 then tget (0, 0) s.blk.events evt.toNat else (0, 0)
  let seq := if first then wrap40 r.1 else x.w (o + 4)
  let n := wrap40 (r.1 - seq)
  let x := (x.setW (o + 1) (b01 (decide (n > 0)))).setW (o + 3) (min n 255)
  let x := if n > 0 then x.setW (o + 2) r.2 else x
  x.setW (o + 4) (wrap40 r.1)

/-- A CALL of instance-table entry i (R240, R244 to R249). -/
def callInst (s : State) (c : ScanIn) (i : Nat) (x : Scan) : Scan :=
  match c.insts[i]? with
  | none => x
  | some n =>
    let f := x.fresh.contains i
    let fe := x.freshEv.contains i
    let o := n.off
    let y := match n.type with
      | 0x10 => callTimer 0x10 o f (Int.ofNat c.delta) x
      | 0x11 => callTimer 0x11 o f (Int.ofNat c.delta) x
      | 0x12 => callTimer 0x12 o f (Int.ofNat c.delta) x
      | 0x20 => callCount true o f x
      | 0x21 => callCount false o f x
      | 0x22 => callCtud o f x
      | 0x30 => callTrig true o f x
      | 0x31 => callTrig false o f x
      | 0x40 => callLatch true o x
      | 0x41 => callLatch false o x
      | 0x50 => x.setW (o + 3) (if isOn (x.w o) then x.w (o + 2) else x.w (o + 1))
      | 0x51 => x.setW (o + 3) (min (max (x.w (o + 1)) (x.w o)) (x.w (o + 2)))
      | 0x60 => callBridge s (tget 0 c.fixed n.id) o f x
      | 0x61 => callEvent s (tget 0 c.fixed n.id) o fe x
      | _ => x
    { y with fresh := y.fresh.filter (fun k => decide (k ≠ i)), freshEv := y.freshEv.filter (fun k => decide (k ≠ i)) }

/-! ### The operations (R240) -/

/-- A word of the snapshot. -/
def ScanIn.input (c : ScanIn) (w : Nat) : InVal :=
  match c.snap.find? (fun y => decide (y.1 = w)) with
  | some y => y.2
  | none => {}

/-- System word i (R243). -/
def sysWord (c : ScanIn) (x : Scan) (i : Nat) : Int :=
  if i = 8 then Int.ofNat x.flags.toNat else if i = 9 then Int.ofNat c.ovrCnt else c.sys.getD i 0

/-- One operation that is no jump and no END (R240). DESIGN CHOICE (log 115), unsafe: an LDVX or STVX address below 0, for which R241 says
nothing, is treated as one beyond INST_WORDS. -/
def codeStep (s : State) (c : ScanIn) (w : Nat) (x : Scan) : Scan :=
  let d := cD w
  let a := x.r (cA w)
  let imm := cImm w
  let at_ := Int.ofNat imm + a
  let inArea : Bool := decide (0 ≤ at_) && decide (at_ < Int.ofNat (iInstWords c.img))
  match cOp w with
  | 0x03 => x.put d (sext 18 imm)
  | 0x04 => x.put d (constAt c.img (cAddr w))
  | 0x05 => x.put d (x.w (cAddr w))
  | 0x06 => x.setW (cAddr w) (x.r d)
  | 0x07 => if inArea then x.put d (x.w at_.toNat) else { x.put d 0 with idx := true }
  | 0x08 => if inArea then x.setW at_.toNat (x.r d) else { x with idx := true }
  | 0x09 => x.put d (c.input (cAddr w)).v
  | 0x0A => x.put d (b01 (c.input (cAddr w)).good)
  | 0x0B => { x with outp := tput 0 (x.r d) x.outp (cAddr w) }
  | 0x0C => x.put d (tget 0 x.outp (cAddr w))
  | 0x0D => x.put d (sysWord c x imm)
  | 0x12 => x.putSat d (a + sext 18 imm)
  | 0x23 => x.put d (b01 (tbit (bitsOf 40 a) imm))
  | 0x2D => callInst s c (cAddr w) x
  | 0x2E =>
    if x.evts.length < 16 then { x with evts := x.evts ++ [(imm % 256, x.r d)] } else { x with dropped := x.dropped + 1 }
  | op => x.alu op d a (x.r (cB w)) (cLow w)

/-- The code from word i on, with fuel for the words that are left: jumps only go forward (R223). -/
def runCode (s : State) (c : ScanIn) : Nat → Nat → Scan → Scan
  | 0, _, x => x
  | fuel + 1, i, x =>
    let w := codeAt c.img i
    match cOp w with
    | 0x2F => x
    | 0x2A => runCode s c fuel (i + cAddr w) x
    | 0x2B => runCode s c fuel (if x.r (cD w) = 0 then i + cAddr w else i + 1) x
    | 0x2C => runCode s c fuel (if x.r (cD w) ≠ 0 then i + cAddr w else i + 1) x
    | _ => runCode s c fuel (i + 1) (codeStep s c w x)

/-- A scan of task k at the present instant with Δ in µs, digital inputs and high-side states from di and hs
(R224 to R226, R239, R243); what it changes stands in the undo log until its end (R256). -/
def State.scan (s : State) (k delta : Nat) (di : BitVec 64) (hs : BitVec 48) : State :=
  let r := tget {} s.blk.tasks k
  let b := r.active
  let snap := (inWordsOf b).map (fun w => (w, s.inputWord di hs w))
  let holds : Bool := decide (s.twn.st = .solo) || decide (s.twn.st = .holder)
  let sys : List Int := [b01 r.first, b01 (r.first && r.warm), Int.ofNat delta, Int.ofNat (iPeriod b),
    s.time.tb1.ns.toInt, s.time.tb2.ns.toInt, Int.ofNat s.station, b01 holds]
  let c : ScanIn := { img := b, insts := insts b, fixed := r.fixed, snap := snap, sys := sys, delta := delta
                      ovrCnt := r.ovrCnt }
  let x := runCode s c (iNCode b) 0 { v := r.v, outp := r.outp, fresh := r.fresh, freshEv := r.freshEv }
  let s : State := { s with blk := { s.blk with
    tasks := tput {} { r with
      undo := some (r.v, r.outp, r.fresh), v := x.v, outp := x.outp, flags := x.flags, userEvts := x.evts, bridge := x.bridge
      fresh := x.fresh, freshEv := x.freshEv, scanning := true, ended := false, late := false
      lastRel := some s.time.t2, first := false, warm := false } s.blk.tasks k
    uevtDrop := satAdd 0xFFFF s.blk.uevtDrop x.dropped } }
  if snap.any (fun y => y.2.free) then s.tookFree else s

end Sys2Proof.Machine
end

