-- ==== Sys2Proof/Machine/Blk.lean ====
section
/-! DEFINITION. The block runtime (R221 to R260): the process-image maps, images and their exchange, task releases,
publication, overruns and the end of a scan. -/

namespace Sys2Proof.Machine

/-! ### Simple queries -/

/-- The run-time state of task t. -/
def State.task (s : State) (t : Nat) : TaskRt := tget {} s.blk.tasks t

/-- The state with task t changed by f. -/
def State.modTask (s : State) (t : Nat) (f : TaskRt → TaskRt) : State :=
  { s with blk := { s.blk with tasks := tmod {} s.blk.tasks t f } }

/-- Cores available to tasks (R222). DESIGN CHOICE (log 105): a module whose ROLE is witness or reserved, for which the spec gives no
number, has those of a SKEP. -/
def State.cores (s : State) : Nat := if s.role = 1 then 4 else 6

/-- The image that a pending exchange brings; empty for a removal and where none is pending. -/
def TaskRt.incoming (r : TaskRt) : List Byte :=
  match r.exch with
  | some q => if q.imageId = 0 then [] else r.inactive
  | none => []

/-- Retention words in use, both images of a pending exchange counted (BLK_RET_USED). -/
def State.retUsed (s : State) : Nat :=
  ((List.range 8).map (fun t => retNeed (s.task t).active + retNeed (s.task t).incoming)).foldl (· + ·) 0

/-! ### The maps (R229, R231) -/

/-- Entry x of a map LOAD is invalid: bytes 2 to 7, TYPE or INDEX. -/
def mapEntryBad (limit : Nat → Nat) (w : BitVec 64) : Bool :=
  decide (fld w 63 16 ≠ 0) || decide (srcIndex (mapSrc w) ≥ limit (srcType (mapSrc w)))

/-- Words that an active image, or one loaded for exchange, names. -/
def State.namedWords (s : State) (words : List Byte → List Nat) : List Nat :=
  (List.range 8).flatMap (fun t => words (s.task t).active ++ words (s.task t).inactive)

/-- Words of an image's output list. -/
def outWordsOf (b : List Byte) : List Nat := (outEntries b).map (·.word)

/-- INPUT_MAP_LOAD: table 0x001 of BLK (R229, R231). -/
def doInputMapLoad (p : Pair) (s : State) : Host.Outcome State Fault Refusal :=
  match s.takeLoad p 6 1 with
  | none => .next s
  | some e =>
    let l := withIndex e.first e.words64
    let named := s.namedWords inWordsOf
    if l.any (fun x => mapEntryBad inLimit x.2) then .next (s.finish p.val e.sub 0x02 0)
    else match l.find? (fun x => named.contains x.1 && decide (tget 0 s.blk.inMap x.1 ≠ x.2)) with
      | some x => .next (s.finish p.val e.sub 0x38 (BitVec.ofNat 64 x.1))
      | none =>
        .next ({ s with blk := { s.blk with inMap := tload (fun _ => 0) s.blk.inMap l } }.finish p.val e.sub 0
          (BitVec.ofNat 64 e.count))

/-- The claims of an output-map destination (R231, R305). -/
def mapClaims (dst : Nat) : List Nat :=
  let i := srcIndex dst
  match srcType dst with
  | 1 => [0x1000 + i]
  | 4 => [0xA000 + i]
  | 5 => [0xB000 + i]
  | 6 => [0xC000 + i]
  | 8 => (List.range 8).map (fun b => 0x2000 + 8 * i + b)
  | _ => []

/-- The destination is the FF of an enabled slot that has a source of its own (R175). -/
def State.ffTaken (s : State) (dst : Nat) : Bool :=
  decide (srcType dst = 6) && s.slotEnabled (srcIndex dst) && decide (rFf (s.cmb.rec_ (srcIndex dst)) ≠ 0)

/-- The claims after an output-map LOAD: the replaced entries give theirs up, then the new ones are made. -/
def mapLoadClaims (cl : List Claim) (l : List (Nat × BitVec 64)) : Judged (List Claim) :=
  claimEach (fun cl x => claimAll rankGeneral (ownMap x.1) (mapClaims (mapSrc x.2)) cl) l
    (l.foldl (fun cl x => releaseOwner cl rankGeneral (ownMap x.1)) cl)

/-- OUTPUT_MAP_LOAD: table 0x002 of BLK (R229, R231, R175). -/
def doOutputMapLoad (p : Pair) (s : State) : Host.Outcome State Fault Refusal :=
  match s.takeLoad p 6 2 with
  | none => .next s
  | some e =>
    let l := withIndex e.first e.words64
    let named := s.namedWords outWordsOf
    if l.any (fun x => mapEntryBad outLimit x.2 || s.ffTaken (mapSrc x.2)) then .next (s.finish p.val e.sub 0x02 0)
    else match l.find? (fun x => named.contains x.1 && decide (tget 0 s.blk.outMap x.1 ≠ x.2)) with
      | some x => .next (s.finish p.val e.sub 0x38 (BitVec.ofNat 64 x.1))
      | none =>
        match mapLoadClaims s.fio.claims l with
        | .refused c w => .next (s.finish p.val e.sub c w)
        | .ok cl =>
          let s := s.setClaims cl
          .next ({ s with blk := { s.blk with outMap := tload (fun _ => 0) s.blk.outMap l } }.finish p.val e.sub 0
            (BitVec.ofNat 64 e.count))

/-! ### Images (R236 to R238, R250) -/

/-- LOAD_IMAGE (R238, R250). -/
def doLoadImage (p : Pair) (s : State) : Host.Outcome State Fault Refusal :=
  match s.takeOp p.val 3 1 with
  | none => .next s
  | some e =>
    let t := e.byte16
    if t ≥ 8 then .next (s.finish p.val e.sub 0x02 0)
    else if e.len < 64 then .next (s.finish p.val e.sub 0x03 0)
    else if (s.task t).exch.isSome || (s.task t).restartReq.isSome then .next (s.finish p.val e.sub 0x37 0)
    else match judgeImage e.word20 e.len e.data with
      | .refused c w =>
        .next ((if c = 0x04 then s.noteNoncanon else s).finish p.val e.sub c w)
      | .ok b => .next ((s.modTask t (fun r => { r with inactive := b })).finish p.val e.sub 0 (BitVec.ofNat 64 e.len))

/-! ### Placement (R222) -/

/-- A task of period p and worst-case time w fits on a core with the tasks ts: harmonic periods, load at most 0.80. -/
def coreFits (ts : List (Nat × Nat)) (p w : Nat) : Bool :=
  let l := ((p, w) :: ts).foldl (fun l x => Nat.lcm l x.1) 1
  ts.all (fun x => decide (x.1 % p = 0) || decide (p % x.1 = 0)) &&
    decide ((((p, w) :: ts).map (fun x => x.2 * (l / x.1))).foldl (· + ·) 0 ≤ 800 * l)

/-- The placement of tasks (task, period, WCET): the core of each, or the task that fits nowhere. -/
def placeTasks (n : Nat) : List (Nat × Nat × Nat) → List (Nat × List (Nat × Nat)) → Except Nat (List (Nat × Nat))
  | [], _ => .ok []
  | x :: r, cores =>
    let on (c : Nat) : List (Nat × Nat) := (cores.filter (fun y => decide (y.1 = c))).flatMap (·.2)
    match (List.range n).find? (fun c => coreFits (on c) x.2.1 x.2.2) with
    | none => .error x.1
    | some c =>
      match placeTasks n r (cores ++ [(c, [(x.2.1, x.2.2)])]) with
      | .ok l => .ok ((x.1, c) :: l)
      | .error t => .error t

/-- The tasks as placement sees them, task t with an image of its own period and time in place of what it has. DESIGN CHOICE (log
105): another task counts with its active image while an exchange is pending on it. -/
def State.placement (s : State) (t : Nat) (new : Option (Nat × Nat)) : Except Nat (List (Nat × Nat)) :=
  placeTasks s.cores ((List.range 8).filterMap (fun k =>
    if k = t then new.map (fun x => (k, x.1, x.2))
    else
      let b := (s.task k).active
      if b.isEmpty then none else some (k, iPeriod b, iWcet b))) []

/-! ### Instances across an exchange (R253) -/

/-- The old instance that a new one matches: INST_ID, TYPE and WORDS. -/
def matchInst (old : List Inst) (n : Inst) : Option Inst :=
  old.find? (fun o => decide (o.id = n.id) && decide (o.type = n.type) && decide (o.words = n.words))

/-- Initial value of word i of an instance (R237). -/
def initWord (b : List Byte) (n : Inst) (i : Nat) : Int := if n.init = 0xFFFFFFFF then 0 else constAt b (n.init + i)

/-- The instance words of an image whose instances match those of old, area v. -/
def newArea (b : List Byte) (old : List Inst) (v : Sparse Int) : Sparse Int :=
  (insts b).foldl (fun a n => (List.range n.words).foldl (fun a i =>
    tput 0 (match matchInst old n with
      | some o => tget 0 v (o.off + i)
      | none => initWord b n i) a (n.off + i)) a) []

/-- SLOT and EVT of an image's instances: kept where they match, else as INIT gives them. -/
def newFixed (b : List Byte) (old : List Inst) (f : Sparse Int) : Sparse Int :=
  (insts b).foldl (fun a n =>
    if n.type = 0x60 ∨ n.type = 0x61 then
      tput 0 (if (matchInst old n).isSome then tget 0 f n.id else initWord b n 0) a n.id
    else a) []

/-- Slots that the LOOP_BRIDGE instances of an image name. -/
def bridgeSlots (b : List Byte) (f : Sparse Int) : List Int :=
  ((insts b).filter (fun n => decide (n.type = 0x60))).map (fun n => tget 0 f n.id)

/-- Words of instances that match, for the time their copying takes (R251). -/
def matchedWords (b : List Byte) (old : List Inst) : Nat :=
  ((insts b).map (fun n => if (matchInst old n).isSome then n.words else 0)).foldl (· + ·) 0

/-- Indices of new or retyped instances, and of matched ones whose first call is still to come. -/
def freshInsts (b : List Byte) (old : List Inst) (was : List Nat) : List Nat :=
  (insts b).zipIdx.filterMap (fun x =>
    match matchInst old x.1 with
    | none => if x.1.type = 1 then none else some x.2
    | some o => if was.any (fun i => decide (old[i]? = some o)) then some x.2 else none)

/-! ### Publication (R225, R232, R244, R248) -/

/-- Output word w is published with value v. -/
def State.publishWord (s : State) (w : Nat) (v : Int) : State :=
  let dst := mapSrc (tget 0 s.blk.outMap w)
  let i := srcIndex dst
  let tick := s.time.tb1.ns
  let field := tadd tick 1000
  match srcType dst with
  | 1 =>
    (s.hashWrite field dst (satS 24 v)).commandOut (.dac i (satS 24 v) field)
  | 4 =>
    let s := s.hashWrite tick dst v
    if s.roleActs then s.txWrite i v else s
  | 5 => (s.hashWrite tick dst (satS 24 v)).modSlot i (fun r => { r with spIn := r.spIn ++ [(satS 24 v, none)] })
  | 6 => (s.hashWrite tick dst (satS 24 v)).modSlot i (fun r => { r with ffIn := r.ffIn ++ [(satS 24 v, none)] })
  | 8 =>
    let g := bitsOf 40 v
    let s := s.hashWrite field dst (Int.ofNat (fld g 15 0))
    s.commandOut (.valves i (fld g 7 0) (fld g 15 8) field true)
  | _ =>
    let s := s.hashWrite tick dst v
    { s with blk := { s.blk with outWords := tput 0 v s.blk.outWords w } }

/-- A LOOP_BRIDGE request reaches Comb (R177, R215, R248); a disabled slot takes none. DESIGN CHOICE (log 114), unsafe: neither does a
slot whose enabling record is accepted and not yet in effect. -/
def State.bridgeRequest (s : State) (q : BridgeReq) : State :=
  if (s.cmb.slotRt q.slot).on then
    s.modSlot q.slot (fun r => { r with
      mode := q.mode.getD r.mode, mv := q.mv.getD r.mv
      bridgedMode := r.bridgedMode || q.mode.isSome, bridgedMv := r.bridgedMv || q.mv.isSome
      sup := { r.sup with release := r.sup.release || q.release } })
  else s

/-- Releases execute here: the module acts, or takes over and runs on its own inputs (R447, R459). -/
def State.runsOwnTasks (s : State) : Bool :=
  decide (s.pw.logic = .run) && (s.roleActs || decide (s.twn.st = .taking))

/-- The scan that has ended is published: its user events, its requests, and value v for each word of its image. A standby, which
publishes nothing, raises no user event (R244, R259). -/
def State.publishScan (s : State) (t : Nat) (v : OutEntry → Int) : State :=
  let r := s.task t
  let s := if s.runsOwnTasks then r.userEvts.foldl (fun s x =>
      s.raise 0x3D (BitVec.ofNat 64 (x.1 + t * 2 ^ 8 + (bitsOf 40 x.2).toNat * 2 ^ 24))) s
    else s
  let s := r.bridge.foldl State.bridgeRequest s
  let s := (outEntries r.active).foldl (fun s x => s.publishWord x.word (v x)) s
  s.modTask t (fun r => { r with
    published := true, scanning := false, ended := false, userEvts := [], bridge := [] })

/-- Event 0x3F at the first release after a start (R259). -/
def State.runtimeStart (s : State) : State :=
  if s.blk.started then s
  else
    let mask := ((List.range 8).map (fun t => (s.task t).coldLast.toNat * 2 ^ t)).foldl (· + ·) 0
    { s with blk := { s.blk with started := true } }.raise 0x3F (BitVec.ofNat 64 (s.blk.warmStart.toNat + mask * 2 ^ 8))

/-- An overrun of task t (R227). -/
def State.overrun (s : State) (t : Nat) : State :=
  let s := s.modTask t (fun r => { r with
    late := true, ovrRun := satInc 0xFFFF r.ovrRun, ovrCnt := satInc 0xFFFF r.ovrCnt })
  let r := s.task t
  if s.evtDue 1000000000 r.lastOvrEvt then
    (s.modTask t (fun r => { r with lastOvrEvt := some s.time.t2 })).raise 0x3A (BitVec.ofNat 64 (t + r.ovrCnt * 2 ^ 16))
  else s

/-- BLK_CTRL.OVR_ACT stops task t at the publication of its late scan (R228). -/
def State.overrunStops (s : State) (t : Nat) : Bool :=
  let r := s.task t
  r.late && s.rbit 0x6000 8 && decide (r.ovrRun ≥ s.rfld 0x6000 7 0)

/-- Of the output words claimed for task t only those of the list stay its own. -/
def State.keepWords (s : State) (t : Nat) (words : List Nat) : State :=
  s.setClaims (s.fio.claims.filter (fun c =>
    !(decide (c.rank = rankGeneral) && decide (c.num = ownTask t) && !words.contains (c.id - 0xE000))))

/-- Task t stops: each word publishes its safe value or keeps its last, and is released, but for the words that a pending exchange
has claimed (R228, R232, R251). -/
def State.stopTask (s : State) (t : Nat) : State :=
  let s := s.publishScan t (fun x => if x.hold then tget 0 (s.task t).outp x.word else x.safe)
  let s := s.keepWords t (outWordsOf (s.task t).incoming)
  let s := s.modTask t (fun r => { r with st := .stopped, undo := none })
  s.raise 0x3B (BitVec.ofNat 64 t)

/-- µs from O to the release that stands now, on the grid of 100 µs: on TB2, or, in a replay, from the last known point of the holder's
grid on TB1 (R221, R447). -/
def State.gridNow (s : State) : Nat :=
  if s.runsOwnTasks then (s.time.t2 - s.blk.origin + 50000) / 100000 * 100
  else s.blk.gridUs + ((sdiff s.time.tb1.ns s.blk.gridT1 + 50000) / 100000).toNat * 100

/-- Δ in µs of the scan that a release of task t starts: the TB2 interval from the release of the last executed scan; in a replay that
of the holder, whose releases lie on its grid (R226, R447). -/
def State.scanDelta (s : State) (t : Nat) : Nat :=
  match (s.task t).lastRel with
  | none => 0
  | some t2 => if s.runsOwnTasks then (s.time.t2 - t2) / 1000 else (s.time.t2 - t2 + 50000) / 100000 * 100

/-- A standby keeps a point of its holder's grid that lies near the present (R221, R447). -/
def State.keepGrid (s : State) : State :=
  if s.runsOwnTasks then s
  else
    let k := (sdiff s.time.tb1.ns s.blk.gridT1 / 100000).toNat
    { s with blk := { s.blk with gridT1 := tadd s.blk.gridT1 (Int.ofNat (k * 100000)), gridUs := s.blk.gridUs + k * 100 } }

/-- A release of a RUNNING task (R224 to R228), with the digital inputs and high-side states that its snapshot sees. -/
def State.releaseTask (s : State) (t : Nat) (di : BitVec 64) (hs : BitVec 48) : State :=
  let s := (s.runtimeStart).modTask t (fun r => { r with core := r.coreNext })
  let r := s.task t
  if r.scanning && !r.ended then s.overrun t
  else if r.scanning && s.overrunStops t then s.stopTask t
  else
    let s := if r.scanning then s.publishScan t (fun x => tget 0 r.outp x.word) else s
    s.scan t (s.scanDelta t) di hs

/-- A stopped task restarts at its release (R255): its instances are kept and its first scan has Δ 0. -/
def State.restartTask (s : State) (t : Nat) (p : Pair) (sub : Word) (di : BitVec 64) (hs : BitVec 48) : State :=
  let s := s.modTask t (fun r => { r with
    st := .running, restartReq := none, lastRel := none, first := true, late := false, ovrRun := 0 })
  (s.releaseTask t di hs).finish p.val sub 0 (canonU s.time.tb2.ns.toNat)

/-- A release of task t on this module's own inputs, or on those of a twin's holder. -/
def State.taskRelease (s : State) (t : Nat) (di : BitVec 64) (hs : BitVec 48) : State :=
  let r := s.task t
  match r.st with
  | .empty => s
  | .stopped =>
    match r.restartReq with
    | some (p, sub) => s.restartTask t p sub di hs
    | none => s
  | .running => s.releaseTask t di hs

/-- A release as a record of the holder's snapshot (R446). -/
def State.releaseOut (s : State) (t : Nat) : State :=
  s.snapOut ([4, BitVec.ofNat 8 t] ++ leBytes 5 s.time.tb1.ns.toNat ++ leBytes 8 s.fio.diImage.toNat ++
    leBytes 6 s.hsDriven.toNat)

/-- TASK_RELEASE: the release instant of a task (R221, R224). In a base period that an orderly handover skips, it is
taken at the next release (R460); the standby of a twin releases its tasks in its replay (R447). -/
def execTaskRelease (t : Fin 8) (s : State) : Host.Outcome State Fault Refusal :=
  if s.cmb.skip || !s.runsOwnTasks then .next s
  else .next ((s.releaseOut t.val).taskRelease t.val s.fio.diImage s.hsDriven).judgePhase

/-- SCAN_END: the scan of a task reaches END after ns nanoseconds (R227, R228, R242, R256). -/
def execScanEnd (t : Fin 8) (ns : Nat) (s : State) : Host.Outcome State Fault Refusal :=
  let r := s.task t.val
  if !(r.scanning && !r.ended) then .next s
  else
    let s := s.modTask t.val (fun r => { r with
      ended := true, undo := none, maxNs := max r.maxNs (min ns 0xFFFFFFFF), ovrRun := if r.late then r.ovrRun else 0
      rtfCnt := if r.flags = 0 then r.rtfCnt else satInc 0xFFFF r.rtfCnt })
    if decide (r.flags ≠ 0) && s.rbit 0x6000 9 && s.evtDue 1000000000 r.lastRtfEvt then
      .next ((s.modTask t.val (fun r => { r with lastRtfEvt := some s.time.t2 })).raise 0x3C
        (BitVec.ofNat 64 (t.val + r.flags.toNat * 2 ^ 8)))
    else .next s

/-! ### Exchange (R250 to R255) -/

/-- The first slot that two LOOP_BRIDGE instances would name. -/
def bridgeClash (others mine : List Int) : Option Int :=
  match mine with
  | [] => none
  | x :: r => if others.contains x then some x else bridgeClash (x :: others) r

/-- Slots bridged by the tasks other than t, those of pending exchanges with them. -/
def State.otherBridges (s : State) (t : Nat) : List Int :=
  ((List.range 8).filter (fun k => decide (k ≠ t))).flatMap (fun k =>
    let r := s.task k
    bridgeSlots r.active r.fixed ++ bridgeSlots r.incoming (newFixed r.incoming (insts r.active) r.fixed))

/-- The EXCHANGE of task t to image b, [] for a removal: its refusal, or the cores and claims it takes (R251). -/
def State.judgeExchange (s : State) (t : Nat) (b : List Byte) : Judged (List (Nat × Nat) × List Claim) :=
  let r := s.task t
  let old := insts r.active
  let new := if b.isEmpty then none else some (iPeriod b, iWcet b + 2 * matchedWords b old)
  match s.placement t new with
  | .error k => .refused 0x34 (BitVec.ofNat 64 k)
  | .ok cores =>
    let need := s.retUsed + retNeed b
    if need > 261120 then .refused 0x35 (BitVec.ofNat 64 (need - 261120))
    else match bridgeClash (s.otherBridges t) (bridgeSlots b (newFixed b old r.fixed)) with
      | some k => .refused 0x39 (BitVec.ofInt 64 k)
      | none =>
        match claimAll rankGeneral (ownTask t) ((outWordsOf b).map (fun w => 0xE000 + w)) s.fio.claims with
        | .refused c w => .refused c w
        | .ok cl => .ok (cores, cl)

/-- When a change is accepted, on TB1: the start of the base period at which a mirrored one takes effect, the same on both members of a
twin (R252, R449). -/
def State.acceptT1 (s : State) : Time := if s.mirrors || s.replays then s.baseStart s.cmb.n else s.time.tb1.ns

/-- EXCHANGE (R250, R251, R255). -/
def doExchange (p : Pair) (s : State) : Host.Outcome State Fault Refusal :=
  match s.takeOp p.val 3 2 with
  | none => .next s
  | some e =>
    let t := e.byte16
    let id := e.word20
    let r := s.task t
    let no (c : Byte) : Host.Outcome State Fault Refusal := .next (s.finish p.val e.sub c 0)
    let active := decide (id ≠ 0) && !r.active.isEmpty && decide (iId r.active = id)
    if t ≥ 8 then no 0x02
    else if decide (id ≠ 0) && !active && (r.inactive.isEmpty || decide (iId r.inactive ≠ id)) then no 0x36
    else if r.exch.isSome || r.restartReq.isSome || (active && decide (r.st = .running)) then no 0x37
    else if active then
      match claimAll rankGeneral (ownTask t) ((outWordsOf r.active).map (fun w => 0xE000 + w)) s.fio.claims with
      | .refused c w => .next (s.finish p.val e.sub c w)
      | .ok cl => .next (((s.setClaims cl).modTask t (fun r => { r with restartReq := some (p, e.sub) })).accept p.val e.sub)
    else
      match s.judgeExchange t (if id = 0 then [] else r.inactive) with
      | .refused c w => .next (s.finish p.val e.sub c w)
      | .ok (cores, cl) =>
        let s := cores.foldl (fun s x => s.modTask x.1 (fun r => { r with coreNext := x.2 })) (s.setClaims cl)
        .next ((s.modTask t (fun r => { r with exch := some {
          imageId := id, pair := p, sub := e.sub, at_ := s.acceptT1, mine := s.runsOwnTasks } })).accept p.val e.sub)

/-- What a word of the old image publishes at the boundary: carried where the new image owns it, else safe or last
(R254). -/
def boundaryValue (outp : Sparse Int) (new : List OutEntry) (x : OutEntry) : Int :=
  if new.any (fun y => decide (y.word = x.word)) || x.hold then tget 0 outp x.word else x.safe

/-- Words of the new image that the old one did not own publish their safe value (R254). -/
def State.publishNew (s : State) (old new : List OutEntry) : State :=
  new.foldl (fun s y =>
    if old.any (fun x => decide (x.word = y.word)) then s else s.publishWord y.word y.safe) s

/-- The pending output words after the boundary. -/
def boundaryOutp (outp : Sparse Int) (old new : List OutEntry) : Sparse Int :=
  new.foldl (fun a y =>
    tput 0 (if old.any (fun x => decide (x.word = y.word)) then tget 0 outp y.word else y.safe) a y.word) []

/-- The task boundary (R252 to R255), with the inputs that the new program's snapshot sees. A late scan at which the old program has
to stop is published as R228 lays down, and the new program then follows a stopped one. -/
def State.exchangeAt (s : State) (t : Nat) (q : ExchReq) (di : BitVec 64) (hs : BitVec 48) : State :=
  let s := s.runtimeStart
  let s := if decide ((s.task t).st = .running) && (s.task t).scanning && s.overrunStops t then s.stopTask t else s
  let r := s.task t
  let b := r.incoming
  let olds := if r.st = .running then outEntries r.active else []
  let news := outEntries b
  let delta := if r.st = .running then s.scanDelta t else 0
  let s :=
    if r.st = .running then s.publishScan t (boundaryValue r.outp news) else s
  let s := s.publishNew olds news
  let old := insts r.active
  let next : TaskRt := { r with
    st := if b.isEmpty then .empty else .running
    active := b
    inactive := if b.isEmpty then r.inactive else r.active
    exch := none, restartReq := none, core := r.coreNext
    v := newArea b old r.v
    fixed := newFixed b old r.fixed
    outp := boundaryOutp r.outp olds news
    undo := none
    fresh := freshInsts b old r.fresh
    freshEv := ((insts b).zipIdx.filter (fun x => decide (x.1.type = 0x61) &&
      ((matchInst old x.1).isNone || r.freshEv.any (fun i => decide (old[i]? = matchInst old x.1))))).map (·.2)
    lastRel := if r.st = .running then r.lastRel else none, scanning := false, ended := false, late := false
    first := true, published := decide (r.st = .running) && r.published
    userEvts := [], bridge := [] }
  let s := (s.modTask t (fun _ => next)).keepWords t (outWordsOf b)
  let s := if b.isEmpty then s else s.scan t delta di hs
  if q.mine then s.finish q.pair.val q.sub 0 (canonU s.time.tb2.ns.toNat) else s

/-- The release that stands now is the boundary of the exchange pending on task t: at least 100 µs after its acceptance, the old scan
finished, on the grid of the new period (R221, R252). -/
def State.boundaryHere (s : State) (t : Nat) (q : ExchReq) : Bool :=
  let r := s.task t
  decide (sdiff s.time.tb1.ns q.at_ ≥ 100000) && !(r.scanning && !r.ended) &&
    (decide (q.imageId = 0) || decide (s.gridNow % iPeriod r.incoming = 0))

/-- A release of the holder replayed on the standby: a boundary, or the release of a task (R252, R447). -/
def State.replayRelease (s : State) (t : Nat) (di : BitVec 64) (hs : BitVec 48) : State :=
  match (s.task t).exch with
  | some q => if s.boundaryHere t q then s.exchangeAt t q di hs else s.taskRelease t di hs
  | none => s.taskRelease t di hs

/-- EXCHANGE_BOUNDARY: the release of a task at which its pending exchange takes effect (R252). A release less than 100 µs after the
acceptance, off the new grid, or at which the old scan has not finished is no boundary. -/
def execExchangeBoundary (t : Fin 8) (s : State) : Host.Outcome State Fault Refusal :=
  let r := s.task t.val
  match r.exch with
  | none => .next s
  | some q =>
    if !s.runsOwnTasks || !s.boundaryHere t.val q then .next s
    else .next ((s.releaseOut t.val).exchangeAt t.val q s.fio.diImage s.hsDriven)

/-! ### Block events (R249) -/

/-- Block event n is raised with an argument (R144, R156, R249). -/
def State.blockEvent (s : State) (n : Nat) (arg : Int) : State :=
  { s with blk := { s.blk with
      events := tmod (0, 0) s.blk.events n (fun x => ((x.1 + 1) % 2 ^ 40, arg)) } }

/-! ### Starts and restarts (R255 to R258) -/

/-- A task with image b that starts cold (R258): initial values, safe values, Δ 0. -/
def TaskRt.cold (r : TaskRt) (b : List Byte) : TaskRt :=
  let is := insts b
  { active := b, inactive := r.inactive, st := if b.isEmpty then .empty else .running
    v := newArea b [] [], fixed := newFixed b [] []
    outp := (outEntries b).foldl (fun a y => tput 0 y.safe a y.word) []
    freshEv := (is.zipIdx.filter (fun x => decide (x.1.type = 0x61))).map (·.2)
    coldLast := !b.isEmpty, ovrCnt := r.ovrCnt, rtfCnt := r.rtfCnt, core := r.core, coreNext := r.coreNext }

/-- A task whose instances and pending words are kept over a warm restart (R256, R257). -/
def TaskRt.warmed (r : TaskRt) : TaskRt :=
  let u := r.undo.getD (r.v, r.outp, r.fresh)
  { active := r.active, inactive := r.inactive, st := .running, v := u.1, fixed := r.fixed, outp := u.2.1
    fresh := u.2.2
    freshEv := ((insts r.active).zipIdx.filter (fun x => decide (x.1.type = 0x61))).map (·.2)
    warm := true, ovrCnt := r.ovrCnt, rtfCnt := r.rtfCnt, core := r.core, coreNext := r.coreNext }

end Sys2Proof.Machine
end

