-- ==== Sys2Proof/Machine/WagSched.lean ====
section
/-! DEFINITION. What the Waggle schedule says (R402 to R411): windows, segments, frame times, gaps, the timing check of a
mode, and the relay bounds that follow (R129, R158). -/

namespace Sys2Proof.Machine

/-! ### Schedule entries (R407) -/

/-- Entry w of the schedule of mode m. -/
def WagState.entry (g : WagState) (m w : Nat) : BitVec 256 := tget 0 g.sched (256 * m + w)
/-- BC_NS of a header. -/
def shBc (e : BitVec 256) : Nat := fld e 31 0
/-- MLEN. -/
def shMlen (e : BitVec 256) : Nat := fld e 39 32
/-- NWIN. -/
def shNwin (e : BitVec 256) : Nat := fld e 47 40
/-- SHIFT_MAX. -/
def shShift (e : BitVec 256) : Nat := fld e 55 48
/-- START_NS of a window. -/
def wStart (e : BitVec 256) : Nat := fld e 22 0
/-- LEN_NS. -/
def wLen (e : BitVec 256) : Nat := fld e 46 24
/-- TYPE: 0 unused, 1 EXCLUSIVE, 2 ARBITRATING, 3 FREE. -/
def wType (e : BitVec 256) : Nat := fld e 49 48
/-- STATUS. -/
def wStatus (e : BitVec 256) : Bool := tbit e 50
/-- SAFETY. -/
def wSafety (e : BitVec 256) : Bool := tbit e 51
/-- REP. -/
def wRep (e : BitVec 256) : Nat := fld e 63 56
/-- BASE. -/
def wBase (e : BitVec 256) : Nat := fld e 71 64
/-- ORIGIN, or OPEN_LO. -/
def wOrigin (e : BitVec 256) : Nat := fld e 91 80
/-- DST, or OPEN_HI. -/
def wDst (e : BitVec 256) : Nat := fld e 107 96
/-- PRIO. -/
def wPrio (e : BitVec 256) : Nat := fld e 123 112
/-- FIRST: both its bytes. -/
def wFirst (e : BitVec 256) : Nat := fld e 143 128
/-- N_WORDS. -/
def wWords (e : BitVec 256) : Nat := fld e 159 144

/-- The window is present in the basic cycle with position mpos (R403). -/
def wPresent (e : BitVec 256) (mpos : Nat) : Bool := decide (wType e ≠ 0) && decide (mpos % wRep e = wBase e)

/-- Station k may send in an ARBITRATING window. -/
def wOpen (e : BitVec 256) (k : Nat) : Bool :=
  decide (wType e = 2) && decide (wOrigin e ≤ k) && decide (k ≤ wDst e)

/-- Windows of mode m, with their numbers, window 0 apart. -/
def WagState.windows (g : WagState) (m : Nat) : List (Nat × BitVec 256) :=
  (List.range (shNwin (g.entry m 0))).map (fun i => (i + 1, g.entry m (i + 1)))

/-- A window of the active mode. -/
def WagState.window (g : WagState) (w : Nat) : BitVec 256 := g.entry g.mode w

/-- Mode m has a valid schedule here. -/
def WagState.hasMode (g : WagState) (m : Nat) : Bool := tbit g.validModes m

/-! ### Stations and segments (R408) -/

/-- SEGMENT of a station. -/
def WagState.segmentOf (g : WagState) (k : Nat) : Nat := fld (tget 0 g.stnTab k) 5 0
/-- LISTED. -/
def WagState.listed (g : WagState) (k : Nat) : Bool := tbit (tget 0 g.stnTab k) 10
/-- EXPECT. -/
def WagState.expect (g : WagState) (k : Nat) : Nat := fld (tget 0 g.stnTab k) 9 8
/-- PARENT of a segment. -/
def segParent (t : Sparse (BitVec 64)) (b : Nat) : Nat := fld (tget 0 t b) 5 0
/-- USED. -/
def segUsed (t : Sparse (BitVec 64)) (b : Nat) : Bool := tbit (tget 0 t b) 8

/-- The segments from b up to segment 0, b first; none where a cycle keeps it from segment 0. -/
def segPath (t : Sparse (BitVec 64)) : Nat → Nat → Option (List Nat)
  | _, 0 => some [0]
  | 0, _ => none
  | n + 1, b => (segPath t n (segParent t b)).map (b :: ·)

/-- The depth of a segment. -/
def segDepth (t : Sparse (BitVec 64)) (b : Nat) : Nat := ((segPath t 64 b).getD []).length - 1

/-- Trunk hops between two segments through the tree (R404). -/
def segHops (t : Sparse (BitVec 64)) (o b : Nat) : Nat :=
  let po := (segPath t 64 o).getD []
  let pb := (segPath t 64 b).getD []
  (po.filter (fun x => !pb.contains x)).length + (pb.filter (fun x => !po.contains x)).length

/-- k(o, b) (R404). -/
def segShift (t : Sparse (BitVec 64)) (o b : Nat) : Nat := segDepth t o + segHops t o b - segDepth t b

/-- A segment table is a tree: no cycle, no used segment under an unused parent (R408). -/
def segTableOk (t : Sparse (BitVec 64)) : Bool :=
  (List.range 64).all (fun b =>
    !segUsed t b || decide (b = 0) || (segUsed t (segParent t b) && (segPath t 64 b).isSome))

/-! ### Frame times (R370, R375) -/

/-- T(L) for a guard time. -/
def frameTime (guard l : Nat) : Nat := 2 * guard + 3400 + 40 * l

/-- Slots of an ARBITRATING or FREE window. -/
def wSlots (guard : Nat) (e : BitVec 256) : Nat := wLen e / frameTime guard 512

/-- Words in each DATA frame of an EXCLUSIVE window. -/
def dataFrames (n : Nat) : List Nat :=
  (List.range ((n + 101) / 102)).map (fun i => min 102 (n - 102 * i))

/-- The time that the content of an EXCLUSIVE window takes (R410). -/
def wContent (guard : Nat) (e : BitVec 256) : Nat :=
  (if wSafety e then frameTime guard 32 else 0) + (if wStatus e then frameTime guard 32 else 0) +
    ((dataFrames (wWords e)).map (fun n => frameTime guard (max 8 (5 * n)))).foldl (· + ·) 0

/-! ### Frames on the wire (R372, R373, R380, R393) -/

/-- A frame of a station's own, with HOPS 0. -/
def ownFrame (prio kind src dst win : Nat) (seq : BitVec 8) (payload : List Byte) : WagFrame :=
  { ident := prio * 4096 + src, kind := BitVec.ofNat 8 kind, src := src, dst := dst, hops := 0, win := win, seq := seq, payload := payload }

/-- The 64-bit header. -/
def frameHeader (f : WagFrame) : Nat :=
  f.kind.toNat + f.src * 2 ^ 8 + f.dst * 2 ^ 20 + f.payload.length * 2 ^ 32 + f.hops * 2 ^ 42 + f.win * 2 ^ 48 + f.seq.toNat * 2 ^ 56

/-- The CRC over identifier, header and payload. -/
def frameCrc (f : WagFrame) : Nat := crc32c (leBytes 3 f.ident ++ leBytes 8 (frameHeader f) ++ f.payload)

/-- The bytes in the order in which they are sent, with the CRC or its bitwise inverse. -/
def frameWire (f : WagFrame) (stomped : Bool) : List Byte :=
  leBytes 3 f.ident ++ leBytes 8 (frameHeader f) ++ f.payload ++ leBytes 4 (if stomped then frameCrc f ^^^ 0xFFFFFFFF else frameCrc f)

/-! ### Taking frames (R376, R393 to R395, R425) -/

/-- The state with the Waggle part changed. -/
def State.setWag (s : State) (g : WagState) : State := { s with wag := g }

/-- WAG_LINK_CFG.SEG_EN. -/
def State.segEn (s : State) : Bool := s.rbit 0xA400 31
/-- The module runs its link part: the logic side in P2 or later, outside the life-cycle states that keep it off the
link (R558). -/
def State.linkRuns (s : State) : Bool :=
  decide (s.pw.logic = .run) && decide (s.lcy.st ≠ .blank) && decide (s.lcy.st ≠ .return_) && decide (s.lcy.st ≠ .end_)

/-- The module hears its segment. -/
def State.hears (s : State) : Bool := s.linkRuns && s.segEn

/-- The frame's LEN suits its KIND (R394). -/
def lenOk (kind len : Nat) : Bool :=
  match kind with
  | 0x01 => decide (len = 40)
  | 0x03 => decide (len = 32)
  | 0x04 => decide (len = 32)
  | 0x05 => decide (len = 8)
  | 0x06 => decide (len = 16)
  | 0x10 => decide (40 ≤ len) && decide (len ≤ 504) && decide (len % 16 = 8)
  | 0x11 => decide (8 ≤ len) && decide (len ≤ 512) && decide (len % 8 = 0)
  | 0x12 => decide (8 ≤ len) && decide (len ≤ 512) && decide (len % 8 = 0)
  | _ => decide (8 ≤ len) && decide (len ≤ 512)

/-- Window w may carry a frame of the kind from the sender (R394, R405). -/
def kindFits (e : BitVec 256) (kind src : Nat) : Bool :=
  match wType e with
  | 1 => decide (wOrigin e = src) && ((decide (kind = 3) && wSafety e) || (decide (kind = 4) && wStatus e) ||
      (decide (kind = 2) && decide (wWords e > 0)))
  | 2 => wOpen e src && (decide (kind = 2) || decide (kind = 4) || (decide (0x10 ≤ kind) && decide (kind ≤ 0x13)))
  | 3 => decide (kind = 5) || decide (kind = 6)
  | _ => false

/-- The frame is valid in everything but its CRC (R376): a reference belongs in window 0, every other kind in a window of the mode. -/
def State.frameFits (s : State) (h : FrameHdr) (kind : Nat) : Bool :=
  let e := s.wag.window h.win.val
  decide (h.kind.toNat = kind) && lenOk kind h.len && decide (h.src = h.identSrc) && decide (h.heard = some h.win) && h.inWindow &&
    (if h.win.val = 0 then decide (kind = 1) else wPresent e s.wag.mpos && kindFits e kind h.src.val)

/-- This module takes frames: it follows or runs the link, hears its segment and holds the mode's schedule. -/
def State.takesFrames (s : State) : Bool :=
  s.hears && s.wag.hasMode s.wag.mode &&
    (decide (s.wag.link = .hive) || decide (s.wag.link = .follow) || decide (s.wag.link = .standby))

/-- A frame is noted in the occurrence of the EXCLUSIVE window in which it was heard (R425). -/
def WagState.noteFrame (g : WagState) (h : FrameHdr) (ok : Bool) : WagState :=
  match h.heard with
  | none => g
  | some w =>
    let e := g.window w.val
    if decide (w.val ≠ 0) && decide (wType e = 1) && wPresent e g.mpos then
      let r := tget {} g.winRx w.val
      { g with winRx := tput {} { r with kinds := r.kinds ++ [if ok then h.kind else 0], bad := r.bad || !ok } g.winRx w.val }
    else g

/-- A frame has arrived: whether it is valid; its errors counted, its place in its window noted (R376, R425). -/
def State.takeFrame (s : State) (h : FrameHdr) (kind : Nat) : State × Bool :=
  let ok := h.crcOk && s.frameFits h kind
  let g := s.wag.noteFrame h ok
  (s.setWag { g with
    crcErr := if h.crcOk then g.crcErr else satInc 0xFFFF g.crcErr
    kindErr := if h.crcOk && !ok then satInc 0xFFFF g.kindErr else g.kindErr }, ok)

/-- A frame of a kind is received: one that is valid has its effect (R376). -/
def State.received (s : State) (h : FrameHdr) (kind : Nat) (f : State → State) : Host.Outcome State Fault Refusal :=
  let x := s.takeFrame h kind
  .next (if !s.takesFrames then s else if x.2 then f x.1 else x.1)

/-! ### Gaps (R129, R411) -/

/-- Starts, in the matrix cycle, of the ARBITRATING windows of mode m open to station k, rising. -/
def WagState.arbStarts (g : WagState) (m k : Nat) : List Nat :=
  let h := g.entry m 0
  let l := (List.range (shMlen h)).flatMap (fun mpos =>
    ((g.windows m).filter (fun x => wOpen x.2 k && wPresent x.2 mpos)).map (fun x => mpos * shBc h + wStart x.2))
  sortBy (fun a b => decide (a ≤ b)) l

/-- Differences of neighbours. -/
def stepsOf : List Nat → List Nat
  | a :: b :: r => (b - a) :: stepsOf (b :: r)
  | _ => []

/-- The longest interval between consecutive starts, across the matrix; 0 where there is none. -/
def WagState.gap (g : WagState) (m k : Nat) : Nat :=
  let h := g.entry m 0
  match g.arbStarts m k with
  | [] => 0
  | a :: r => (stepsOf (a :: r) ++ [a + shMlen h * shBc h - (a :: r).getLast (by simp)]).foldl max 0

/-- Q of mode m: relay frames in the shortest ARBITRATING window open to station 0, its first slot kept (R411). -/
def WagState.relayQ (g : WagState) (m guard : Nat) : Nat :=
  match ((g.windows m).filter (fun x => wOpen x.2 0)).map (fun x => wSlots guard x.2 - 1) with
  | [] => 0
  | a :: r => min 15 (r.foldl min a)

/-! ### The timing check of a mode (R410) -/

/-- Windows present at mpos with window 0, by START: number, start, end. -/
def WagState.plan (g : WagState) (m guard mpos : Nat) : List (Nat × Nat × Nat) :=
  sortBy (fun a b => decide (a.2.1 ≤ b.2.1))
    ((0, 0, frameTime guard 40) :: ((g.windows m).filter (fun x => wPresent x.2 mpos)).map (fun x =>
      (x.1, wStart x.2, wStart x.2 + wLen x.2)))

/-- Windows that break checks 1 and 2 in one basic cycle. -/
def planFaults (bc shift : Nat) : List (Nat × Nat × Nat) → List Nat
  | a :: b :: r => (if b.2.1 ≥ a.2.2 + shift then [] else [b.1]) ++ planFaults bc shift (b :: r)
  | [a] => if a.2.2 + shift ≤ bc then [] else [a.1]
  | [] => []

/-- A window that breaks checks 3 to 5 by itself. -/
def WagState.windowFault (g : WagState) (guard : Nat) (e : BitVec 256) : Bool :=
  match wType e with
  | 1 => decide (wLen e < wContent guard e) || !g.listed (wOrigin e)
  | 2 =>
    let l := (List.range (wDst e + 1 - wOrigin e)).map (fun i => wOrigin e + i)
    decide (wLen e < frameTime guard 512) ||
      l.any (fun k => !g.listed k || decide (g.segmentOf k ≠ g.segmentOf (wOrigin e)))
  | _ => false

/-- The pair instants of the SAFETY windows present at mpos, in ns after the basic cycle's start, rising (R485). -/
def WagState.pairInstants (g : WagState) (m mpos : Nat) : List (Nat × Nat) :=
  sortBy (fun a b => decide (a.2 ≤ b.2)) (((g.windows m).filter (fun x =>
    decide (wType x.2 = 1) && wSafety x.2 && wPresent x.2 mpos)).map (fun x =>
      (x.1, wStart x.2 + 1200 * segDepth g.segTab (g.segmentOf (wOrigin x.2)))))

/-- Windows whose pair instant lies less than 180 000 ns after the one before it (R485). -/
def pairFaults : List (Nat × Nat) → List Nat
  | a :: b :: r => (if b.2 ≥ a.2 + 180000 then [] else [b.1]) ++ pairFaults (b :: r)
  | _ => []

/-- The first failing window of mode m, 0 for a failure of the whole plan (R410, R485). -/
def WagState.modeFault (g : WagState) (m guard : Nat) : Option Nat :=
  let h := g.entry m 0
  let ws := g.windows m
  let used := (List.range 64).filter (segUsed g.segTab)
  let shift := (used.flatMap (fun o => used.map (fun b => segShift g.segTab o b))).foldl max 0
  let whole : List Nat :=
    if decide (shShift h < shift) || !(ws.any (fun x => wOpen x.2 0 && decide (wSlots guard x.2 ≥ 2))) then [0] else []
  let l := whole ++ (List.range (shMlen h)).flatMap (fun mpos => planFaults (shBc h) (shShift h * 1200) (g.plan m guard mpos)) ++
    (ws.filter (fun x => g.windowFault guard x.2)).map (·.1) ++
    (List.range (shMlen h)).flatMap (fun mpos => pairFaults (g.pairInstants m mpos))
  match l with
  | [] => none
  | a :: r => some (r.foldl min a)

/-! ### The relay bounds (R129, R158) -/

/-- GUARD_NS as the HIVE configures it. -/
def State.guardCfg (s : State) : Nat := s.rfld 0xA400 26 16

/-- Stations that the HIVE counts joined. -/
def WagState.joinedStns (g : WagState) : List Nat := (g.stations.filter (fun x => x.2.joined)).map (·.1)

/-- The run-time state of a station. -/
def WagState.stn (g : WagState) (k : Nat) : StnRt := tget {} g.stations k

/-- D(s), Q and G_H follow the active mode and the joined stations (R129, R411, R433). -/
def State.recomputeRelay (s : State) : State :=
  let g := s.wag
  let gH := g.gap g.mode 0
  let one (k : Nat) : Relay :=
    let r := g.stn k
    { d := if k = 0 then 0 else max gH (g.gap g.mode k) + frameTime g.guardNs 512 + r.hops * 1200 + 2000
      hops := r.hops, joined := true, twinned := r.twinned }
  { s with stp := { s.stp with
      relay := g.joinedStns.foldl (fun t k => tput {} (one k) t k) []
      q := g.relayQ g.mode g.guardNs, gH := gH } }

/-- The state with station k changed. -/
def State.modStn (s : State) (k : Nat) (f : StnRt → StnRt) : State :=
  s.setWag { s.wag with stations := tmod {} s.wag.stations k f }

/-- Station k leaves: 0x66, not listed any more, the relay table follows (R420, R430). -/
def State.leaveStation (s : State) (k : Nat) : State :=
  let s := s.modStn k (fun r => { r with joined := false, badMc := 0 })
  let s := s.setWag { s.wag with
    modeReq := s.wag.modeReq.map (fun q => { q with listed := q.listed.filter (· ≠ k) }) }
  let s := if s.isHive then s.raise 0x66 (BitVec.ofNat 64 k) else s
  s.recomputeRelay

/-- D(s) of a station. -/
def State.relayBound (s : State) (k : Nat) : Nat := (tget {} s.stp.relay k : Relay).d

/-- A station takes new step actions: joined and not in DISCORD (R152, R434). -/
def State.stationThere (s : State) (k : Nat) : Bool := (s.wag.stn k).joined && !(s.wag.stn k).discord

end Sys2Proof.Machine
end

