-- ==== Sys2Proof/Machine/Steps.lean ====
section
/-! DEFINITION. Recipe steps (R119 to R158): acceptance and the lead test on the HIVE, parts on a station, commit, abort
and cancellation, launch, reports and final entries. -/

namespace Sys2Proof.Machine

/-! ### Actions (R124, R125) -/

/-- STATION, TARGET and VALUE of an action as numbers. -/
def aStn (a : Action) : Nat := a.station.toNat % 4096
/-- TARGET. -/
def aTgt (a : Action) : Nat := a.target.toNat
/-- VALUE as a signed 40-bit number. -/
def aVal (a : Action) : Int := sext 40 a.value.toNat

/-- Action i of a list of 16-byte entries. -/
def actionAt (b : List Byte) (i : Nat) : Action :=
  let o := 16 * i
  { kind := BitVec.ofNat 8 (leAt b o 1), kind1 := BitVec.ofNat 8 (leAt b (o + 1) 1)
    station := BitVec.ofNat 16 (leAt b (o + 2) 2), target := BitVec.ofNat 32 (leAt b (o + 4) 4)
    value := BitVec.ofNat 64 (leAt b (o + 8) 8) }

/-- The bytes of an action. -/
def aBytes (a : Action) : List Byte :=
  [a.kind, a.kind1] ++ leBytes 2 a.station.toNat ++ leBytes 4 a.target.toNat ++ leBytes 8 a.value.toNat

/-- The value is one of the 24-bit scaling. -/
def is24 (v : Int) : Bool := decide (-(2 ^ 23) ≤ v) && decide (v < 2 ^ 23)

/-- The action's kind, field ranges and station are in order (R125). -/
def aOk (a : Action) : Bool :=
  let t := (aTgt a)
  let v := (aVal a)
  decide (a.kind1 = 0) && decide (a.station.toNat < 4095) &&
    (match a.kind.toNat with
     | 1 => decide (t < 4096) && is24 v
     | 2 => decide (t / 4096 ≥ 1) && is24 v
     | 3 => decide (t < 32) && is24 v
     | 4 => decide (t < 6) && decide (0 ≤ v) && decide (v < 65536)
     | 5 => decide (t < 65536) && decide (t / 16 % 16 = 0)
     | 6 => decide (t < 256)
     | 7 => decide (t < 16) && decide (v = 0)
     | _ => false)

/-- The high-side outputs that a VALVES action changes. -/
def aOutputs (a : Action) : List Nat :=
  ((List.range 8).filter (fun b => Nat.testBit (a.value.toNat / 256) b)).map (fun b => 8 * ((aTgt a) % 8) + b)

/-- The resources that a step claims for an action (R326). -/
def aClaims (a : Action) : List Nat :=
  match a.kind.toNat with
  | 1 => [0xB000 + (aTgt a) % 4096]
  | 2 => [0xB000 + (aTgt a) % 4096]
  | 3 => [0x1000 + (aTgt a) % 32]
  | 4 => (aOutputs a).map (fun i => 0x2000 + i)
  | 5 => [0x3000 + (aTgt a) % 16]
  | _ => []

/-- An action's target is owned elsewhere: claimed, or in the Drone's command (R125, R499). -/
def State.actionOwned (s : State) (a : Action) : Bool :=
  (aClaims a).any (fun id => s.fio.claims.any (fun c => blocks id rankSteps 0 c)) ||
    (match a.kind.toNat with
     | 3 => s.seenCommand (0x1000 + (aTgt a) % 32)
     | 4 => (aOutputs a).any (fun i => s.seenCommand (0x2000 + i))
     | _ => false)

/-- The target check that an action fails, with the reason of R400: 1 not configured, 2 owned elsewhere, 3 in a mode that
excludes the action, 4 invalid profile (R125, R136, R322, R323, R642). -/
def State.targetFault (s : State) (a : Action) : Option Nat :=
  let pul := pulMode (tget 0 s.fio.pulTab ((aTgt a) % 16))
  if s.actionOwned a then some 2
  else match a.kind.toNat with
    | 1 => if s.slotEnabled ((aTgt a) % 4096) then none else some 1
    | 2 => if s.slotEnabled ((aTgt a) % 4096) then none else some 1
    | 3 => if dacRange (tget 0 s.cnv.dac ((aTgt a) % 32)) = 0 then some 1 else none
    | 4 => if (aOutputs a).any (fun i => decide (hsMode (tget 0 s.fio.hsTab i) ≠ 1)) then some 1 else none
    | 5 =>
      if pul = 1 then some 3 else if pul ≠ 2 then some 1
      else if s.profileOk ((aTgt a) % 16) ((aTgt a) / 256 % 256) then none else some 4
    | _ => none

/-- The claims of a step's actions, held until it launches or closes. -/
def State.claimActions (s : State) (seq : Word) (l : List Action) : State :=
  s.setClaims ((l.flatMap aClaims).foldl (fun cl id =>
    match claim cl id rankSteps (seq.toNat % 65536) with
    | .ok cl => cl
    | .refused _ _ => cl) s.fio.claims)

/-- They are given back (R327). -/
def State.unclaimActions (s : State) (seq : Word) : State :=
  s.setClaims (releaseOwner s.fio.claims rankSteps (seq.toNat % 65536))

/-! ### Launch effects (R127, R128, R144) -/

/-- A SETPOINT on a slot (R127, R187, R188). -/
def State.launchSetpoint (s : State) (k : Nat) (v : Int) : State :=
  let now := s.time.tb1.ns
  s.modSlot k (fun r =>
    if r.on then { r with spLast := v, ramp := none, spTick := some now }
    else if r.pend.isSome then { r with heldSp := some (v, none) } else r)

/-- A RAMP on a slot: from its value in this tick (R128, R187). -/
def State.launchRamp (s : State) (k : Nat) (v : Int) (dur : Nat) (instant : Time) : State :=
  let now := s.time.tb1.ns
  s.modSlot k (fun r =>
    if r.on then
      let start := match r.ramp with
        | some q => (rampAt q instant).1
        | none => r.spLast
      { r with ramp := some { start := start, stop := v, from_ := instant, duration := dur }, spTick := some now }
    else if r.pend.isSome then { r with heldSp := some (v, some (dur, instant)) } else r)

/-- The value that an action sends to the field side for its instant (R124, R144). -/
def aField (instant : Time) (a : Action) : Option DownItem :=
  let t := (aTgt a)
  let v := (aVal a)
  match a.kind.toNat with
  | 3 => some (.dac (t % 32) v instant)
  | 4 => some (.valves (t % 8) (a.value.toNat % 256) (a.value.toNat / 256 % 256) instant false)
  | 5 => some (.axis (t % 16) (t / 256 % 256) v instant)
  | _ => none

/-- The values of a step's actions go over the downlink, ahead of their instant (R17, R144); a standby's go nowhere (R447). -/
def State.handOver (s : State) (seq : Word) (instant : Time) (l : List Action) : State :=
  if s.roleActs then (l.filterMap (aField instant)).foldl (fun s it => s.sendDown (.launch seq it)) s else s

/-- Values of a step that wait on the field side are called back. -/
def State.recallStep (s : State) (seq : Word) : State := s.sendDown (.recall seq)

/-- One action launches at its instant (R124, R144, R451); what it has for the field side waits there already, and the DAC values and
VALVES of a member that does not act go to the shadow image (R308, R460). -/
def State.launchAction (s : State) (instant : Time) (a : Action) : State :=
  let t := (aTgt a)
  let v := (aVal a)
  match a.kind.toNat with
  | 1 => (s.hashWrite instant (0x5000 + t % 4096) v).launchSetpoint (t % 4096) v
  | 2 => (s.hashWrite instant (0x5000 + t % 4096) v).launchRamp (t % 4096) v (t / 4096 * 10000) instant
  | 3 =>
    let s := s.hashWrite instant (0x1000 + t % 32) v
    if s.roleActs then s else s.commandOut (.dac (t % 32) v instant)
  | 4 =>
    let s := s.hashWrite instant (0x8000 + t % 8) v
    if s.roleActs then s
    else s.commandOut (.valves (t % 8) (a.value.toNat % 256) (a.value.toNat / 256 % 256) instant false)
  | 5 => s.hashWrite instant (0x3000 + t % 16) v
  | 6 => s.blockEvent (t % 256) v
  | 7 => s.mirStepTrigger (t % 16) instant
  | _ => s

/-! ### Step entries on the HIVE -/

/-- This module accepts steps (R119). -/
def State.roleHive (s : State) : Bool := s.isHive && s.roleActs

/-- Indices of a step's actions for station k. -/
def StepEntry.mine (e : StepEntry) (k : Nat) : List Nat :=
  e.actions.zipIdx.filterMap (fun x => if (aStn x.1) = k then some x.2 else none)
/-- Its actions for station 0. -/
def StepEntry.local0 (e : StepEntry) : List Action := e.actions.filter (fun a => decide ((aStn a) = 0))

/-- Its actions for other stations that are relayed, in list order: those whose station was there at acceptance. -/
def StepEntry.relayed (e : StepEntry) : List Action :=
  (e.actions.zip e.status).filterMap (fun x =>
    if (aStn x.1) = 0 ∨ x.2 = some 0x02 then none else some x.1)

/-- Stations that take part, in list order. -/
def StepEntry.stations (e : StepEntry) : List Nat := (e.relayed.map aStn).eraseDups

/-- Relay frame i of the step (R135, R399). -/
def StepEntry.frame (e : StepEntry) (i : Nat) : RelayFrame :=
  { seq := e.seq, instant := e.instant, flags := BitVec.ofNat 8 (e.atomic.toNat + 2 * e.lateBest.toNat)
    index := i, nf := e.nf, actions := (e.relayed.drop (30 * i)).take 30 }

/-- Station k is named in a relay frame that has been sent. -/
def StepEntry.reached (e : StepEntry) (k : Nat) : Bool :=
  (e.relayed.take (30 * (e.nf - e.unsent))).any (fun a => decide ((aStn a) = k))

/-- The part deadline of a step (R130). -/
def stepPartDeadline (instant : Time) : Time := tadd instant (-2000)
/-- The part deadline. -/
def StepEntry.partDeadline (e : StepEntry) : Time := stepPartDeadline e.instant
/-- Cancel cut-off and commit decision. -/
def StepEntry.cutOff (e : StepEntry) : Time := tadd e.instant (-2000 - Int.ofNat e.dmax)
/-- The report deadline. -/
def StepEntry.reportDeadline (e : StepEntry) : Time := tadd e.instant (2 * Int.ofNat e.dmax)

/-- An instant on TB1 falls in the present tick, or has passed (R63, R64). -/
def State.reached (s : State) (t : Time) : Bool := decide (s.time.tb1.tickOf t ≤ 0)

/-- Nothing more is to come of station k: it has reported; or its answer shows that it keeps nothing; or no frame that names it has
been sent and none will be (R136, R148; DEDUCED, log 87). -/
def StepEntry.heard (e : StepEntry) (k : Nat) : Bool :=
  e.reported.contains k || e.answers.contains (k, 2) || e.answers.contains (k, 3) || (!e.relaying && !e.reached k)

/-- Every action has its outcome and every named station has reported (R148). -/
def StepEntry.over (e : StepEntry) : Bool := e.status.all (fun x => x.isSome) && e.stations.all e.heard

/-- Open status bytes at some indices take a value. -/
def StepEntry.setStatus (e : StepEntry) (idx : List Nat) (c : Byte) : StepEntry :=
  { e with status := e.status.zipIdx.map (fun x => if idx.contains x.2 && x.1.isNone then some c else x.1) }

/-- The state with step seq changed by f. -/
def State.modStep (s : State) (seq : Word) (f : StepEntry → StepEntry) : State :=
  { s with stp := { s.stp with steps := s.stp.steps.map (fun e => if e.seq = seq then f e else e) } }

/-- The pending step with an acceptance sequence number. -/
def State.findStep (s : State) (seq : Word) : Option StepEntry := s.stp.steps.find? (fun e => decide (e.seq = seq))

/-! ### Final entries (R146 to R149) -/

/-- How many status bytes equal c. -/
def countOf (c : Byte) (l : List Byte) : Nat := (l.filter (fun x => decide (x = c))).length

/-- The final CODE (R148). -/
def finalCode (aborted : Bool) (l : List Byte) : Byte :=
  if countOf 0 l = l.length then 0x00
  else if countOf 1 l = l.length then 0x1A
  else if aborted then 0x1D
  else if countOf 0 l = 0 then 0x19
  else 0x18

/-- RESULT of a final entry (R146, R147). -/
def finalResult (l : List Byte) : BitVec 64 :=
  let launched := countOf 0 l
  let unconf := countOf 9 l
  BitVec.ofNat 64 (launched + (l.length - launched - unconf) * 2 ^ 16 + unconf * 2 ^ 32 + 2 * 2 ^ 62)

/-- A CHANGE frame of a twin's holder: sequence, effective base period, descriptor and data (R445, R449, R450). -/
def State.sendChange (s : State) (eff : Nat) (desc data : List Byte) : State :=
  let seq := s.twn.changeSeq + 1
  { s with twn := { s.twn with changeSeq := seq } }.emitOut
    (.twin 4 (leBytes 4 seq.toNat ++ leBytes 4 eff ++ desc ++ data))

/-- A HIVE twin mirrors a step's acceptance, cancellation or close without waiting (R450). -/
def State.mirrorStep (s : State) (desc data : List Byte) : State :=
  if s.mirrors then s.sendChange s.cmb.n desc data else s

/-- The CANCEL descriptor that names a step, as a mirrored cancellation carries it (R97, R450). -/
def cancelDesc (id : Word) : List Byte := leBytes 64 (2 + id.toNat * 2 ^ 192)

/-- A step's final entry and action report are written, and it is pending no more (R142, R148, R149). A standby writes
none (R447). -/
def State.closeStepWith (s : State) (e : StepEntry) (code : Byte) (l : List Byte) : State :=
  let s := (s.mirrorStep [] (leBytes 4 e.seq.toNat)).unclaimActions e.seq
  let keep := match e.ctrl with
    | some op => if e.ctrlOpen then [(op, e.seq, e.partDeadline)] else []
    | none => []
  let s : State := { s with stp := { s.stp with
    steps := s.stp.steps.filter (fun x => decide (x.seq ≠ e.seq)), tail := s.stp.tail ++ keep
    unconfCnt := if countOf 9 l > 0 then satInc 0xFFFF s.stp.unconfCnt else s.stp.unconfCnt } }
  let s : State := { s with stp := { s.stp with dryRuns := s.stp.steps.isEmpty } }
  if !s.roleActs then s
  else
    let s := if e.reportAddr = 0 then s
      else s.hostWrite e.reportAddr (padTo ((l.length + 7) / 8 * 8) l)
    let pair := if e.carried then s.rfld 0xB010 5 0 else e.pair.val
    s.postEntry pair { tag := if e.carried then BitVec.ofNat 16 e.stepId.toNat else e.tag, code := code, prior := e.prior
                       sub := if e.carried then e.seq else e.index, result := finalResult l
                       stampLo := canonU s.time.tb1.ns.toNat, stampHi := canonU e.instant.toNat }

/-- A step closes with the status bytes it has, open ones unconfirmed. -/
def State.closeStep (s : State) (e : StepEntry) : State :=
  let l := e.status.map (fun x => x.getD 0x09)
  s.closeStepWith e (finalCode e.aborted l) l

/-- A step whose every action has its outcome, and whose every station has reported, closes (R148). -/
def State.checkStep (s : State) (seq : Word) : State :=
  match s.findStep seq with
  | some e => if e.over then s.closeStep e else s
  | none => s

/-! ### Acceptance (R119 to R133) -/

/-- A refusal of a step-class descriptor: a final entry that carries the code, with none of its actions launched (R146, R147). -/
def State.refuseStep (s : State) (p : Pair) (e : Entry) (code : Byte) : State :=
  s.finishWith p.val e.sub code (BitVec.ofNat 64 (e.bytes 28 2 * 2 ^ 16 + 2 * 2 ^ 62)) (canonU (e.bytes 16 5))

/-- What a step asks of the lead test: its instant, lead, unsent frames, acceptance order. -/
structure LeadAsk where
  instant : Time
  lead : Nat
  unsent : Nat
  new : Bool
  deriving DecidableEq, Repr

/-- The lead test over the queue in order; gives the slack of the new step (R131). With no frame to send the number of windows to
wait for is ceil(0 / Q) − 1 = −1, as the test has it. -/
def leadTest (q gH : Nat) (now : Time) : Nat → Option Int → List LeadAsk → Option Int
  | _, mine, [] => mine
  | sent, mine, k :: r =>
    let sent := sent + k.unsent
    if decide (sent > 0) && decide (q = 0) then none
    else
      let waits : Int := Int.ofNat ((sent + q - 1) / q) - 1
      let slack := sdiff k.instant now - Int.ofNat k.lead - Int.ofNat gH * waits
      if slack < 0 then none else leadTest q gH now sent (if k.new then some slack else mine) r

/-- The lead test of a new step on this HIVE. -/
def State.admittedAs (s : State) (ask : LeadAsk) : Option Int :=
  let now := s.time.tb1.ns
  let old := (s.stp.steps.filter (fun e => e.counted && e.relaying && decide (e.unsent > 0))).map (fun e =>
    ({ instant := e.instant, lead := e.lead, unsent := e.unsent, new := false } : LeadAsk))
  leadTest s.stp.q s.stp.gH now 0 none
    (sortBy (fun a b => decide (sdiff a.instant now ≤ sdiff b.instant now)) (old ++ [ask]))

/-- What is checked of a STEP before its lead, in order: the code of the first failure (R122, R123, R125, R133, R152). -/
def State.stepFault (s : State) (e : Entry) (acts : List Action) (instant : Time) (atomic : Bool) : Option Byte :=
  let id := e.bytes 24 4
  let n := e.bytes 28 2
  let ahead := sdiff instant s.time.tb1.ns
  if decide (n < 1) || decide (n > 256) || decide (e.len ≠ 16 * n) then some 0x03
  else if !s.time.tb1Lock then some 0x13
  else if ahead > 500000000000 then some 0x08
  else if ahead ≤ 0 then some 0x11
  else if decide (id = 0) || s.stp.steps.any (fun k => decide (k.stepId.toNat = id)) then some 0x14
  else if acts.any (fun a => !(aOk a)) then some 0x15
  else if atomic && acts.any (fun a => decide ((aStn a) ≠ 0) && !s.stationThere (aStn a)) then some 0x16
  else
    let faults := (acts.filter (fun a => decide ((aStn a) = 0))).filterMap s.targetFault
    match faults with
    | [] => none
    | f :: _ => if f = 4 then some 0x4B else some 0x17

/-- The entry of a STEP that has passed its checks (R130). -/
def State.stepEntry (s : State) (p : Pair) (e : Entry) (acts : List Action) : StepEntry :=
  let atomic := tbit e.raw 240
  let status : List (Option Byte) := acts.map (fun a =>
    if (aStn a) ≠ 0 ∧ ¬ s.stationThere (aStn a) then some 0x02 else none)
  let there := acts.filter (fun a => decide ((aStn a) ≠ 0) && s.stationThere (aStn a))
  let dmax := (there.map (fun a => s.relayBound (aStn a))).foldl max 0
  let nf := (there.length + 29) / 30
  { seq := s.stp.accSeq + 1, stepId := BitVec.ofNat 32 (e.bytes 24 4), pair := p, sub := e.sub, index := e.index, tag := e.tag
    instant := BitVec.ofNat 40 (e.bytes 16 5), atomic := atomic, lateBest := tbit e.raw 241, actions := acts
    status := status, reportAddr := BitVec.ofNat 64 (e.bytes 32 8)
    lead := s.rfld 0x4004 13 0 * 1000 + (if atomic then 3 * dmax else dmax), dmax := dmax, nf := nf, unsent := nf
    counted := true, relaying := decide (nf > 0) }

/-- A step enters the scheduler (R142, R326): pending, its own targets claimed, and armed unless it is atomic. -/
def State.enterStep (s : State) (k : StepEntry) : State :=
  let alone := k.stations.isEmpty
  let k := { k with committed := k.atomic && alone, armed := (!k.atomic || alone) && !k.local0.isEmpty }
  let n := s.stp.steps.length + 1
  let s := s.claimActions k.seq k.local0
  { s with stp := { s.stp with
      steps := s.stp.steps ++ [k], accSeq := k.seq, peak := max s.stp.peak n, dry := false, dryRuns := false } }

/-- An accepted STEP: its acceptance entry, and the step pending (R146, R147). -/
def State.acceptStep (s : State) (p : Pair) (e : Entry) (k : StepEntry) (slack : Int) : State :=
  let us := min (slack.toNat / 1000) (2 ^ 30 - 1)
  let s := s.finishWith p.val e.sub 0 (BitVec.ofNat 64 (k.seq.toNat + us * 2 ^ 32 + 2 ^ 62)) (canonU k.cutOff.toNat)
  ((s.mirrorStep (leBytes 64 e.raw.toNat) e.data).enterStep k).checkStep k.seq

/-- A STEP descriptor is judged and accepted or refused (R119 to R133, R152). One with LATE_BEST that passes the test is counted by
later tests like any other; only one accepted below its lead stays out of q (DEDUCED, log 88). -/
def State.takeStep (s : State) (p : Pair) (e : Entry) : State :=
  if !s.roleHive then s.refuseStep p e 0x10
  else
    let acts := (List.range (e.bytes 28 2)).map (actionAt e.data)
    let k := s.stepEntry p e acts
    match s.stepFault e acts k.instant k.atomic with
    | some c => s.refuseStep p e c
    | none =>
      match s.admittedAs { instant := k.instant, lead := k.lead, unsent := k.nf, new := true } with
      | some slack => s.acceptStep p e k slack
      | none =>
        if k.lateBest && !k.atomic then s.acceptStep p e { k with counted := false } 0
        else
          { s with stp := { s.stp with lateCnt := satInc 0xFFFF s.stp.lateCnt } }.refuseStep p e 0x12

/-- Host data of a STEP with a VALUE that is no canonical signed word (R95). -/
def stepNoncanon (e : Entry) : Option Nat := firstNoncanon 16 [(1, true)] e.data

/-- A STEP at the front of a step ring; held while 96 steps are pending (R142). -/
def State.stepFront (s : State) (p : Pair) : State :=
  match s.takeOp p.val 0 1 with
  | none => s
  | some e =>
    if s.roleHive && decide (s.stp.steps.length ≥ 96) then s
    else match stepNoncanon e with
      | some i =>
        if s.roleHive then
          s.noteNoncanon.finishWith p.val e.sub 0x04 (BitVec.ofNat 64 (i + 2 * 2 ^ 62)) (canonU (e.bytes 16 5))
        else s.refuseStep p e 0x10
      | none => s.takeStep p e

/-- Ring p has a descriptor at its front that the scheduler can take; a STEP is held while 96 are pending (R120, R142). -/
def State.stepWaits (s : State) (p : Nat) : Bool :=
  (s.takeOp p 0 2).isSome || (s.takeOp p 0 3).isSome ||
    ((s.takeOp p 0 1).isSome && !(s.roleHive && decide (s.stp.steps.length ≥ 96)))

/-- It is the turn of step ring p: the first after the one served last that has a descriptor to take (R120). -/
def State.stepTurn (s : State) (p : Pair) : Bool :=
  decide (roundRobin s.stp.lastRing ((List.range 64).filter s.stepWaits) = some p.val)

/-- Step ring p has had its turn. -/
def State.turnTaken (s : State) (p : Pair) : State := { s with stp := { s.stp with lastRing := p.val } }

/-- STEP: the scheduler takes the STEP at the front of a step ring in its turn (R119 to R133, R142). -/
def execStep (p : Pair) (s : State) : Host.Outcome State Fault Refusal :=
  .next (if s.stepTurn p then (s.turnTaken p).stepFront p else s)

/-- STEP_DEFERRED_ADMIT: an entry has freed, and the STEP held at the front of a ring is judged now (R142). -/
def execStepDeferredAdmit (p : Pair) (s : State) : Host.Outcome State Fault Refusal :=
  .next (if decide (s.stp.steps.length < 96) && s.stepTurn p then (s.turnTaken p).stepFront p else s)

/-! ### Commit, abort, cancel (R139, R140, R150) -/

/-- Station-0 actions of a step are dropped with a status; what the field side has of them is called back. -/
def State.dropLocal (s : State) (seq : Word) (c : Byte) : State :=
  let handed : Bool := match s.findStep seq with
    | some e => e.handed
    | none => false
  let s := if handed then s.recallStep seq else s
  (s.modStep seq (fun e => { (e.setStatus (e.mine 0) c) with armed := false, handed := false })).unclaimActions seq

/-- Stations that no sent relay frame names, or that hold no part, report nothing: their open actions take a status. -/
def StepEntry.closeUnreached (e : StepEntry) (c : Byte) : StepEntry :=
  e.stations.foldl (fun e k =>
    if !e.reached k || e.answers.any (fun x => decide (x.1 = k) && decide (x.2 ≠ 1)) then e.setStatus (e.mine k) c else e) e

/-- The HIVE sends ABORT for a step (R139, R150). -/
def State.abortStep (s : State) (seq : Word) (c : Byte) : State :=
  let s := s.dropLocal seq c
  let s := s.modStep seq (fun e =>
    { (e.closeUnreached c) with
      aborted := true, relaying := false, ctrl := if e.stations.isEmpty then none else some .abort })
  s.checkStep seq

/-- Every named station is ready: COMMIT is decided, and the station-0 actions are armed (R139). -/
def State.commitStep (s : State) (seq : Word) : State :=
  s.modStep seq (fun e => { e with
    committed := true, armed := !e.local0.isEmpty, ctrl := if e.stations.isEmpty then none else some .commit })

/-- A step is cancelled (R150). -/
def State.cancelStep (s : State) (k : StepEntry) : State :=
  let s := (s.modStep k.seq (fun e => { e with cancelled := true, relaying := false })).dropLocal k.seq 0x01
  if k.atomic && !k.commitSent then
    (s.modStep k.seq (fun e => { e with cancelAbort := true })).abortStep k.seq 0x01
  else
    (s.modStep k.seq (fun e => { (e.closeUnreached 0x01) with
      ctrl := if e.stations.isEmpty then none else some .cancel })).checkStep k.seq

/-- The cut-off of a step has not passed: a CANCEL in its tick is in time (R63, R64, R150). -/
def State.cancelInTime (s : State) (k : StepEntry) : Bool := decide (s.time.tb1.tickOf k.cutOff ≥ 0)

/-- RESULT of a CANCEL or FLUSH (R146). -/
def cancelResult (x : Nat) : BitVec 64 := BitVec.ofNat 64 (x + 3 * 2 ^ 62)

/-- STEP_CANCEL: CANCEL at the front of a step ring, in its turn (R120, R150). -/
def execStepCancel (p : Pair) (s : State) : Host.Outcome State Fault Refusal :=
  match s.takeOp p.val 0 2 with
  | none => .next s
  | some e =>
    if !s.stepTurn p then .next s else
    let s := s.turnTaken p
    let id := e.bytes 24 4
    let done (c : Byte) (s : State) : State := s.finish p.val e.sub c (cancelResult id)
    if !s.roleHive then .next (s.finish p.val e.sub 0x10 (cancelResult 0))
    else match s.stp.steps.find? (fun k => decide (k.stepId.toNat = id)) with
      | none => .next (done 0x1C s)
      | some k =>
        if !s.cancelInTime k then .next (done 0x1B s)
        else
          let s := done 0x00 s
          .next (if k.cancelled then s else (s.mirrorStep (cancelDesc k.stepId) []).cancelStep k)

/-- STEP_FLUSH: FLUSH at the front of a step ring, in its turn (R120, R151). -/
def execStepFlush (p : Pair) (s : State) : Host.Outcome State Fault Refusal :=
  match s.takeOp p.val 0 3 with
  | none => .next s
  | some e =>
    if !s.stepTurn p then .next s else
    let s := s.turnTaken p
    if !s.roleHive then .next (s.finish p.val e.sub 0x10 (cancelResult 0))
    else
      let mine := s.stp.steps.filter (fun k => decide (k.pair = p))
      let ok := mine.filter s.cancelInTime
      let s := s.finish p.val e.sub 0 (cancelResult (ok.length + (mine.length - ok.length) * 2 ^ 16))
      .next (ok.foldl (fun s k =>
        if k.cancelled then s else (s.mirrorStep (cancelDesc k.stepId) []).cancelStep k) s)

/-- COMMIT_DECISION: the commit decision instant of an atomic step passes (R130, R139). -/
def execCommitDecision (seq : Word) (s : State) : Host.Outcome State Fault Refusal :=
  match s.findStep seq with
  | some e => .next (if s.reached e.cutOff && e.atomic && !e.committed && !e.aborted then s.abortStep seq 0x08 else s)
  | none => .next s

/-- CANCEL_CUT_OFF: the cut-off of a step passes. What a later CANCEL does follows from the instants (R150), so the state
stays as it is. -/
def execCancelCutOff (_seq : Word) (s : State) : Host.Outcome State Fault Refusal := .next s

/-! ### Parts: what their answers do (R136 to R140) -/

/-- The state with part seq changed by f. -/
def State.modPart (s : State) (seq : Word) (f : Part → Part) : State :=
  { s with stp := { s.stp with parts := s.stp.parts.map (fun x => if x.seq = seq then f x else x) } }

/-- The part with an acceptance sequence number. -/
def State.findPart (s : State) (seq : Word) : Option Part := s.stp.parts.find? (fun x => decide (x.seq = seq))

/-- The entries of a part's frames in list order, with their place in the relayed list. -/
def Part.entries (x : Part) : List (Nat × Action) :=
  (sortBy (fun a b => decide (a.1 ≤ b.1)) x.got).flatMap (fun f => f.2.zipIdx.map (fun a => (30 * f.1 + a.2, a.1)))

/-- The part's actions on station k. -/
def Part.actionsOf (x : Part) (k : Nat) : List (Nat × Action) := x.entries.filter (fun a => decide ((aStn a.2) = k))

/-- A part is armed: its targets are claimed until it launches (R138, R140, R326). -/
def State.armPart (s : State) (x : Part) : State :=
  (s.modPart x.seq (fun x => { x with st := .armed })).claimActions x.seq ((x.actionsOf s.station).map (·.2))

/-- The part's answer has been sent: a READY of an atomic part waits for COMMIT, another READY arms the part, any other
answer ends it (R136 to R138). -/
def State.answerSent (s : State) (x : Part) : State :=
  match x.answer with
  | .ready _ => if x.atomic then s.modPart x.seq (fun x => { x with st := .waiting }) else s.armPart x
  | _ => s.modPart x.seq (fun x => { x with st := .done })

/-- A standby's part goes on as its role's answer has been sent by the holder (R126, R447). -/
def State.heardAnswer (s : State) (seq : Word) : State :=
  match s.findPart seq with
  | some x => if x.st = .answering then s.answerSent x else s
  | none => s

/-! ### Answers and reports on the HIVE (R136 to R139, R148) -/

/-- One entry of a STEP_ANSWER frame of station k (R136 to R139). A standby hears its role's answer from the holder, and holds the same
part on (R126, R447; DEDUCED, log 89). -/
def State.takeAnswer (s : State) (k : Nat) (answer : Answer) (seq : Word) : State :=
  if k = s.station && !s.roleActs then s.heardAnswer seq
  else match s.findStep seq with
  | none => s
  | some e =>
    if !e.stations.contains k || e.answers.any (fun x => decide (x.1 = k)) then s
    else
      let note (n : Nat) : State := s.modStep seq (fun e => { e with answers := e.answers ++ [(k, n)] })
      let refuse (n : Nat) (c : Byte) : State :=
        let s := (note n).modStep seq (fun e => e.setStatus (e.mine k) c)
        if e.atomic && !e.aborted then s.abortStep seq 0x08 else s
      let s := match answer with
        | .ready _ => note 1
        | .refused _ _ => refuse 2 0x05
        | .full => refuse 3 0x04
      let s := match s.findStep seq with
        | none => s
        | some e =>
          let all := e.stations.all (fun k => e.answers.any (fun x => decide (x.1 = k)))
          let ready := e.stations.all (fun k => e.answers.contains (k, 1))
          let s := if all then s.modStep seq (fun e => { e with relaying := false }) else s
          if e.atomic && !e.committed && !e.aborted && ready then s.commitStep seq else s
      s.checkStep seq

/-- STEP_ANSWER_RECEIVE: a STEP_ANSWER frame with its entries (R136 to R139, R376, R400). -/
def execStepAnswerReceive (hdr : FrameHdr) (first : Answer × Word) (rest : List (Answer × Word)) (s : State) :
    Host.Outcome State Fault Refusal :=
  s.received hdr 0x12 (fun s => (first :: rest).foldl (fun s x => s.takeAnswer hdr.src.val x.1 x.2) s)

/-- A station's report gives its actions their status (R148, R150, R154). -/
def StepEntry.report (e : StepEntry) (k : Nat) (r : StepReport) : StepEntry :=
  let idx := e.mine k
  let at_ (i : Nat) : Option Byte :=
    match idx.idxOf? i with
    | some j =>
      if r.removed then some 0x07
      else (r.status[j]?).map (fun c => if e.cancelAbort && decide (c = 0x08) then 0x01 else c)
    | none => none
  { e with reported := e.reported ++ [k]
           status := e.status.zipIdx.map (fun x => match at_ x.2 with | some c => some c | none => x.1) }

/-- One report of a STEP_REPORT frame of station k (R148, R154). On a standby the report that it hears of its own role ends its part
(R126, R461). -/
def State.takeReport (s : State) (k : Nat) (report : StepReport) : State :=
  if k = s.station && !s.roleActs then s.modPart report.seq (fun x => if x.st = .report then { x with st := .done } else x)
  else match s.findStep report.seq with
  | none => s
  | some e =>
    if !e.stations.contains k || e.reported.contains k then s
    else (s.modStep report.seq (fun e => e.report k report)).checkStep report.seq

/-- STEP_REPORT_RECEIVE: a STEP_REPORT frame with its reports (R148, R154, R376, R401). -/
def execStepReportReceive (hdr : FrameHdr) (reports : List StepReport) (s : State) : Host.Outcome State Fault Refusal :=
  s.received hdr 0x13 (fun s => reports.foldl (fun s r => s.takeReport hdr.src.val r) s)

/-- Station k has announced its removal: actions that it has not answered for are reported removed (R154). -/
def StepEntry.stationRemoved (e : StepEntry) (k : Nat) : StepEntry :=
  if e.stations.contains k && !e.reported.contains k && !e.answers.any (fun x => decide (x.1 = k)) then
    { e.setStatus (e.mine k) 0x07 with reported := e.reported ++ [k], answers := e.answers ++ [(k, 0)] }
  else e

/-- The same on every pending step (R154). -/
def State.stationRemoved (s : State) (k : Nat) : State :=
  s.stp.steps.foldl (fun s e => (s.modStep e.seq (fun e => e.stationRemoved k)).checkStep e.seq) s

/-- REPORT_DEADLINE: where the report deadline has come, a step closes with what it has (R130, R148). -/
def execReportDeadline (seq : Word) (s : State) : Host.Outcome State Fault Refusal :=
  match s.findStep seq with
  | some e => .next (if s.reached e.reportDeadline then s.closeStep e else s)
  | none => .next s

/-! ### Parts on a station (R136 to R140, R143) -/

/-- Parts pending on this station: from the first frame that names it to its report (R143). -/
def State.partCount (s : State) : Nat :=
  (s.stp.parts.filter (fun x => decide (x.st ≠ .notMine) && decide (x.st ≠ .done) &&
    !(decide (x.st = .answering) && decide (x.answer = .full)))).length

/-- A part ends with one status for all its actions, to be reported. -/
def Part.endWith (x : Part) (k : Nat) (c : Byte) : Part :=
  { x with st := .report, status := (x.actionsOf k).map (fun _ => c) }

/-- All frames are held: targets are checked, and the answer waits for a window (R136). -/
def State.completePart (s : State) (x : Part) : State :=
  let mine := x.actionsOf s.station
  let answer := match mine.find? (fun a => (s.targetFault a.2).isSome) with
    | some a => Answer.refused ((s.targetFault a.2).getD 1) a.1
    | none => Answer.ready mine.length
  s.modPart x.seq (fun x => { x with st := .answering, answer := answer })

/-- A relay frame reaches this station (R135 to R137). A frame of a step whose part deadline has passed brings nothing. -/
def State.takeRelay (s : State) (frame : RelayFrame) : State :=
  let k := s.station
  let new : Part := { seq := frame.seq, instant := frame.instant, atomic := tbit frame.flags 0, nf := frame.nf }
  let old := s.findPart frame.seq
  let x := old.getD new
  let late := old.isNone && decide (s.time.tb1.tickOf (tadd frame.instant (-2000)) < 0)
  let ovr := decide (x.st ≠ .notMine) && decide (x.st ≠ .collecting)
  if late || ovr || x.got.any (fun f => decide (f.1 = frame.index)) then s
  else
    let s : State := if old.isSome then s else { s with stp := { s.stp with parts := s.stp.parts ++ [new] } }
    let named := frame.actions.any (fun a => decide ((aStn a) = k))
    if named && decide (x.st = .notMine) && decide (s.partCount ≥ 96) then
      s.modPart x.seq (fun x => { x with st := .answering, answer := .full, got := [] })
    else
      let x := { x with got := x.got ++ [(frame.index, frame.actions)]
                        st := if named then .collecting else x.st }
      let s := s.modPart x.seq (fun _ => x)
      if decide (x.st = .collecting) && decide (x.got.length ≥ x.nf) then s.completePart x else s

/-- STEP_RELAY_RECEIVE: a STEP_RELAY frame (R135 to R137, R376). -/
def execStepRelayReceive (frame : RelayArrival) (s : State) : Host.Outcome State Fault Refusal :=
  s.received frame.hdr 0x10 (fun s => s.takeRelay frame.frame)

/-- The part is held no more. -/
def State.dropPart (s : State) (seq : Word) : State :=
  { s with stp := { s.stp with parts := s.stp.parts.filter (fun x => decide (x.seq ≠ seq)) } }

/-- A pending part is discarded with a status to report; one whose table was full keeps its answer, one not held yet has none to
report (R55, R140, R143, R150). -/
def State.discardPart (s : State) (x : Part) (c : Byte) : State :=
  let k := s.station
  let s := if x.st = .armed then s.unclaimActions x.seq else s
  let s := if x.handed then s.recallStep x.seq else s
  match x.st with
  | .report => s
  | .notMine => s.modPart x.seq (fun x => { x with st := .done, got := [] })
  | .done => s
  | .answering => if x.answer = .full then s else s.modPart x.seq (fun x => x.endWith k c)
  | _ => s.modPart x.seq (fun x => x.endWith k c)

/-- One entry of a STEP_CTRL frame (R139, R140, R150). -/
def State.takeCtrl (s : State) (op : CtrlOp) (seq : Word) : State :=
  match s.findPart seq with
  | none => s
  | some x =>
    match op with
    | .commit => if x.st = .waiting then s.armPart x else s
    | .abort => if x.st = .armed then s else s.discardPart x 0x08
    | .cancel => s.discardPart x 0x01

/-- STEP_CTRL_RECEIVE: a STEP_CTRL frame with its entries (R139, R140, R150, R376, R400). -/
def execStepCtrlReceive (hdr : FrameHdr) (entries : List (CtrlOp × Word)) (s : State) : Host.Outcome State Fault Refusal :=
  s.received hdr 0x11 (fun s => entries.foldl (fun s x => s.takeCtrl x.1 x.2) s)

/-- The values of an armed part go to the field side (R144). -/
def State.handPart (s : State) (x : Part) : State :=
  if x.handed || !s.roleActs then s
  else (s.handOver x.seq x.instant ((x.actionsOf s.station).map (·.2))).modPart x.seq (fun x => { x with handed := true })

/-- The values of a step's own armed actions go to the field side (R144). -/
def State.handStep (s : State) (e : StepEntry) : State :=
  if e.handed || !e.armed || !s.roleActs then s
  else (s.handOver e.seq e.instant e.local0).modStep e.seq (fun e => { e with handed := true })

/-- The part deadline on a station (R137, R140): an armed part's values cross the barrier (R144); an atomic part with neither COMMIT
nor ABORT is discarded; one that lacks frames is forgotten; another answer that waits for its window still goes out. -/
def State.partDeadlineHere (s : State) (x : Part) : State :=
  match x.st with
  | .armed => s.handPart x
  | .report => s
  | .waiting => s.discardPart x 0x08
  | .answering =>
    match x.answer with
    | .ready _ => if x.atomic then s.discardPart x 0x08 else s
    | _ => s
  | _ => s.dropPart x.seq

/-- PART_DEADLINE: the part deadline of a step has come on this module (R130, R132, R137, R140): armed values go to the field side
(R144); for the HIVE the stations without an answer have not the part complete, unless their report says otherwise (R148), and
nothing of the step is sent any more. -/
def execPartDeadline (seq : Word) (s : State) : Host.Outcome State Fault Refusal :=
  let s : State := { s with stp := { s.stp with
    tail := s.stp.tail.filter (fun x => decide (x.2.1 ≠ seq) || !s.reached x.2.2) } }
  let s := match s.findPart seq with
    | some x => if s.reached (stepPartDeadline x.instant) then s.partDeadlineHere x else s
    | none => s
  match s.findStep seq with
  | none => .next s
  | some e =>
    if !s.reached e.partDeadline then .next s else
    let c : Byte := if e.cancelled then 0x01 else if e.aborted then 0x08 else 0x03
    let mute := e.stations.filter (fun k => !e.answers.any (fun x => decide (x.1 = k)))
    .next (((s.handStep e).modStep seq (fun e =>
      { mute.foldl (fun e k => e.setStatus (e.mine k) c) e with
        relaying := false, ctrlOpen := false, answers := e.answers ++ mute.map (fun k => (k, 0)) })).checkStep seq)

/-! ### Launch (R144, R145, R153) -/

/-- What is due at an instant: acceptance number, instant, actions, whether it is a step of this HIVE. -/
structure DueActions where
  seq : Word
  instant : Time
  actions : List Action
  own : Bool
  deriving DecidableEq, Repr

/-- One launches before another: in an earlier tick of TB1, or in the same tick with the earlier acceptance number (R64, R65,
R145). -/
def dueLe (t : Tb) (a b : DueActions) : Bool :=
  decide (t.tickOf a.instant < t.tickOf b.instant) ||
    (decide (t.tickOf a.instant = t.tickOf b.instant) && seqLe a.seq b.seq)

/-- Armed actions whose instant falls in tick k of TB1 from now or before, in the order in which they launch (R65, R145). -/
def State.dueActions (s : State) (k : Int) : List DueActions :=
  let due (x : Time) : Bool := decide (s.time.tb1.tickOf x ≤ k)
  let own := (s.stp.steps.filter (fun e => e.armed && due e.instant)).map (fun e =>
    ({ seq := e.seq, instant := e.instant, actions := e.local0, own := true } : DueActions))
  let parts := (s.stp.parts.filter (fun x => decide (x.st = .armed) && due x.instant)).map (fun x =>
    ({ seq := x.seq, instant := x.instant, actions := (x.actionsOf s.station).map (·.2), own := false } : DueActions))
  sortBy (dueLe s.time.tb1) (own ++ parts)

/-- The actions of one step launch, or are reported untimed and what the field side has of them is called back (R145). -/
def State.launchDue (s : State) (d : DueActions) : State :=
  let ok := s.timed
  let s :=
    if !ok then s.recallStep d.seq
    else if d.own then match s.findStep d.seq with | some e => s.handStep e | none => s
    else match s.findPart d.seq with | some x => s.handPart x | none => s
  let c : Byte := if ok then 0x00 else 0x06
  let s := if ok then d.actions.foldl (fun s a => s.launchAction d.instant a) s else s
  let s := s.unclaimActions d.seq
  if d.own then
    (s.modStep d.seq (fun e => { e.setStatus (e.mine 0) c with armed := false })).checkStep d.seq
  else
    s.modPart d.seq (fun x => { x with st := .report, status := d.actions.map (fun _ => c) })

/-- STEP_LAUNCH: every armed action whose instant falls in this tick or has passed executes, in acceptance order (R65, R127, R128, R144, R145).
On a standby they launch in its replay (R447). -/
def execStepLaunch (s : State) : Host.Outcome State Fault Refusal :=
  if s.replays then .next s else .next ((s.dueActions 0).foldl State.launchDue s)

/-- STEP_DRY: TIME_MS have passed since the last pending step closed and none was accepted (R156). -/
def execStepDry (s : State) : Host.Outcome State Fault Refusal :=
  if s.roleHive && s.stp.dryRuns && s.stp.steps.isEmpty && s.rbit 0x4000 1 && !s.stp.dry then
    let s : State := { s with stp := { s.stp with dry := true, dryRuns := false } }
    .next ((s.raise 0x1F 0).blockEvent (s.rfld 0x4000 15 8) 0)
  else .next s

/-! ### What other chapters do to steps and parts -/

/-- A TB1 step voids what is pending by instant: every pending part and station-0 action is reported untimed (R55, R143). -/
def State.voidLaunches (s : State) : State :=
  let s := s.stp.parts.foldl (fun s x =>
    match x.st with
    | .notMine => s.dropPart x.seq
    | .done => s.dropPart x.seq
    | _ => s.discardPart x 0x06) s
  s.stp.steps.foldl (fun s e =>
    if e.local0.isEmpty then s else (s.dropLocal e.seq 0x06).checkStep e.seq) s

/-- The eject notice on a station: its parts are discarded, to be reported removed (R154, R461). -/
def State.ejectParts (s : State) : State :=
  s.stp.parts.foldl (fun s x =>
    match x.st with
    | .report => s
    | .notMine => s.dropPart x.seq
    | .done => s.dropPart x.seq
    | _ =>
      let s := if x.st = .armed then s.unclaimActions x.seq else s
      let s := if x.handed then s.recallStep x.seq else s
      s.modPart x.seq (fun x => { (x.endWith s.station 0x07) with removed := true })) s

/-- The eject notice on a HIVE that is not twinned: a final entry 0x1E for every pending step, and nothing more is sent
(R155). -/
def State.ejectSteps (s : State) : State :=
  let s := s.stp.steps.foldl (fun s e =>
    let e := { e with ctrl := none }
    s.closeStepWith e 0x1E (e.status.map (fun x => x.getD 0x07))) s
  { s with stp := { s.stp with tail := [] } }

end Sys2Proof.Machine
end

