-- ==== Sys2Proof/Machine/TimeBase.lean ====
section
/-! DEFINITION. The time bases and what lives on them (R43 to R77): ticks, steps and steering of TB0 and TB1 by reference
frames and PTP, host-set time, the transmit time-stamp queue and the programmed pulse outputs. -/

namespace Sys2Proof.Machine

/-! ### Counting (R44 to R46) -/

/-- The whole of a base in units of 2⁻³² ns. -/
def Tb.whole (t : Tb) : Int := Int.ofNat (t.ns.toNat * 2 ^ 32 + t.frac.toNat)

/-- A base x units of 2⁻³² ns further. -/
def Tb.plus (t : Tb) (x : Int) : Tb :=
  let w := t.whole + x
  { t with ns := BitVec.ofInt 40 (w / 2 ^ 32), frac := BitVec.ofInt 32 (w % 2 ^ 32) }

/-- What one TIME_CLK tick adds, in units of 2⁻³² ns: 8 ns and the rate term, which leaves a rest below the fraction
that a free carry bit settles (R44). -/
def tickStep (rate : Int) (carry : Bool) : Int :=
  rateStep rate + (if carry && decide (rate % 32 ≠ 0) then 1 else 0)

/-- A rate term within its range (R45). -/
def clampRate (r : Int) : Int := clampI (-549755813) 549755813 r

/-- TB0 as full time x units of 2⁻³² ns further. -/
def Tb0.plus (t : Tb0) (x : Int) : Tb0 :=
  let w := Int.ofNat ((t.sec.toNat * 1000000000 + t.nsec) * 2 ^ 32 + t.frac.toNat) + x
  let ns := w / 2 ^ 32
  { t with sec := BitVec.ofInt 48 (ns / 1000000000), nsec := (ns % 1000000000).toNat, frac := BitVec.ofInt 32 (w % 2 ^ 32) }

/-- One TIME_CLK tick with nothing commanded: every base that runs advances (R44), the field side's shadow on FTIME_CLK
with it (R20). -/
def State.tick (s : State) : State :=
  let t := s.time
  let c (k : Nat) := Config.rateCarry (s.freeIdx + k)
  let t := if s.pw.lpllLock && decide (s.pw.logic ≠ .off) then
      { t with tb0 := t.tb0.plus (tickStep t.tb0.rate (c 0)), tb1 := t.tb1.plus (tickStep t.tb1.rate (c 1))
               tb2 := t.tb2.plus (tickStep 0 false), tb3 := t.tb3.plus (tickStep t.tb3.rate (c 2))
               tb2Wraps := t.tb2Wraps + (if t.tb2.ns.toNat + 8 ≥ 2 ^ 40 then 1 else 0) }
    else t
  let t := if s.pw.fieldUp then
      { t with shadow := t.shadow.plus (tickStep t.shadow.rate (c 3)), guardNs := t.guardNs + 8 }
    else t
  { s with time := t, freeIdx := s.freeIdx + 4 }

/-- The state with the time bases changed. -/
def State.setTime (s : State) (t : TimeState) : State := { s with time := t }

/-! ### TB0 (R52, R57 to R59) -/

/-- This module defines TB0 for its link: its ROLE is HIVE, and it is neither a standby HIVE nor a twin member that follows
references, nor has it left the link (R57, R58, R70, R416). The host sets TB0 before the link starts (R412). -/
def State.tb0Master (s : State) : Bool :=
  decide (s.role = 1) && decide (s.wag.link ≠ .standby) && decide (s.wag.link ≠ .follow) && decide (s.wag.link ≠ .stopped)

/-- TB0 takes a full time (a step), which is noted. -/
def State.putTb0 (s : State) (sec : BitVec 48) (nsec : Nat) : State :=
  let t := s.time
  s.setTime { t with tb0 := { t.tb0 with sec := sec, nsec := nsec, frac := 0 }, tb0StepSeen := true }

/-- The module that defines TB0 steps it: STEP_TGL shows it to the followers, and a further step that was permitted is used up (R57,
R58, R385). -/
def State.stepTb0 (s : State) (sec : BitVec 48) (nsec : Nat) : State :=
  let s := s.putTb0 sec nsec
  s.setTime { s.time with restepOk := false, stepTgl := !s.time.stepTgl }

/-- TB1 of a HIVE runs at the rate of TB0 (R43, R56). -/
def State.rateFromTb0 (s : State) : State :=
  s.setTime { s.time with tb1 := { s.time.tb1 with rate := s.time.tb0.rate } }

/-- TB0 is steered: its rate term is what the servo gives; on the HIVE TB1 takes it over (R55). -/
def State.steerTb0 (s : State) : State :=
  let r := clampRate (Config.servoRate s.freeIdx)
  let t := s.time
  State.tookFree { s with time := { t with
    tb0 := { t.tb0 with rate := r }, tb1 := if s.isHive then { t.tb1 with rate := r } else t.tb1 } }

/-- TB0 moves by an offset in 1/256 ns (a step). -/
def State.shiftTb0 (s : State) (off : Int) : State :=
  let t := s.time.tb0.plus (off * 2 ^ 24)
  s.stepTb0 t.sec t.nsec

/-- One completed PTP offset measurement (TB0 minus the master's time, in 1/256 ns) on the HIVE with TB0_SRC = 0: TB0 steps at the
first one and where a further step is permitted, else it is steered; every measured offset counts for TB0_LOCK (R57). -/
def State.ptpOffset (s : State) (off : Int) : State :=
  let s := if !s.time.tb0Stepped || s.time.restepOk then s.shiftTb0 (-off) else s.steerTb0
  let s := s.setTime { s.time with tb0Stepped := true }
  let run := if off.natAbs ≤ 50 * 256 then s.time.ptpRun + 1 else 0
  let s := s.setTime { s.time with ptpRun := min run 4 }
  if off.natAbs > 1000 * 256 then s.setLock 0 false
  else if run ≥ 4 then s.setLock 0 true
  else s

/-- The PTP service runs on a plant port (TIM_CTRL.PTP_PORTS). -/
def State.ptpOn (s : State) (port : Nat) : Bool :=
  match s.rfld 0x2000 2 1 with
  | 1 => decide (port = 0)
  | 2 => decide (port = 1)
  | 3 => true
  | _ => false

/-- TIM_PHY_LATn.RX_LAT in 1/256 ns. -/
def State.rxLat (s : State) (port : Nat) : Int := Int.ofNat (s.rfld (0x2020 + 4 * port) 31 16 * 16)
/-- TIM_PHY_LATn.TX_LAT in 1/256 ns. -/
def State.txLat (s : State) (port : Nat) : Int := Int.ofNat (s.rfld (0x2020 + 4 * port) 15 0 * 16)

/-- An offset measurement by stamps at the MAC, corrected to the wire: by either delay mechanism the receive latency enters it
once and is taken back by half the round trip, so half the difference of the two latencies stays (R69). -/
def State.ptpCorrected (s : State) (port : Nat) (off : Int) : Int := off + (s.txLat port - s.rxLat port) / 2

/-- PTP_MESSAGE: a message of the transport and delay mechanism in use is received; an event message is stamped at the MAC and
the stamp corrected by RX_LAT; a message that completes an offset measurement corrects TB0 on the HIVE with TB0_SRC = 0, and on no
other module (R50, R57, R69, R70). -/
def execPtpMessage (port : Fin 2) (m : PtpArrival) (s : State) : Host.Outcome State Fault Refusal :=
  if !s.hostUp || !s.ptpOn port.val || decide (m.layer2 ≠ s.rbit 0x2000 5) || decide (m.p2p ≠ s.rbit 0x2000 4) then .next s
  else
    let s := match m.mac with
      | some x => s.setTime { s.time with ptpRx := tput 0 (x - BitVec.ofInt 48 (s.rxLat port.val)) s.time.ptpRx port.val }
      | none => s
    match m.offset with
    | none => .next s
    | some off => .next (if s.tb0Master && !s.rbit 0x2000 0 then s.ptpOffset (s.ptpCorrected port.val off) else s)

/-- PTP_MESSAGE_SEND: the PTP service sends a message on a port, by the mechanism and transport set; an event message is one-step
where PTP_ONESTEP is 1, and its stamp is the one at the MAC corrected by TX_LAT; it stays out of the queue (R50, R69 to R71). -/
def execPtpMessageSend (port : Fin 2) (mac : Option Stamp) (s : State) : Host.Outcome State Fault Refusal :=
  if s.hostUp && s.ptpOn port.val then
    .next ((s.setTime { s.time with ptpSent := s.time.ptpSent + 1 }).emitOut
      (.ptp port.val mac.isSome (mac.isSome && s.rbit 0x2000 3) (s.rbit 0x2000 4) (s.rbit 0x2000 5)
        (mac.map (fun m => m + BitVec.ofInt 48 (s.txLat port.val)))))
  else .next s

/-- TB0_RESTEP: a write of 1 permits one further step of TB0, on the HIVE (R57, R58). -/
def execTb0Restep (s : State) : Host.Outcome State Fault Refusal :=
  if !s.hostUp then .next s else
  .next (if s.tb0Master then s.setTime { s.time with restepOk := true } else s)

/-- Seconds and nanoseconds of a TIME_SET (R51, R97). -/
def Entry.fullTime (e : Entry) : BitVec 48 × Nat := (BitVec.ofNat 48 (e.bytes 16 6), e.bytes 24 4 % 2 ^ 30)

/-- The effect of TIME_SET: TB0 takes the time on the HIVE with TB0_SRC = 1, once and then once after each TB0_RESTEP;
its rate term is zero and TB0_LOCK is 1 (R58, R98). Elsewhere, and without permission, its target is locked (R98). -/
def doTimeSet (p : Pair) (s : State) : Host.Outcome State Fault Refusal :=
  match s.takeOp p.val 2 3 with
  | none => .next s
  | some e =>
    let f := e.fullTime
    if f.2 ≥ 1000000000 then .next (s.finish p.val e.sub 0x02 0)
    else if !s.tb0Master || !s.rbit 0x2000 0 || (s.time.tb0Set && !s.time.restepOk) then
      .next (s.finish p.val e.sub 0x0A 0)
    else
      let s := s.stepTb0 f.1 f.2
      let t := s.time
      let s := s.setTime { t with tb0 := { t.tb0 with rate := 0 }, tb1 := { t.tb1 with rate := 0 }, tb0Set := true }
      .next ((s.setLock 0 true).finish p.val e.sub 0 0)

/-- TB0 follows the pair that a valid reference carries (R52, R59): stepped at the first one and when STEP_TGL differs
from the last one received, steered by rate otherwise; its lock is the HIVE's, as carried. DEDUCED (log 104): a head copies the TB0
fields unchanged (R384), so they hold at the T_REF of the HIVE's own frame, DEPTH hops of 1 200 ns before that of the copy. -/
def State.followTb0 (s : State) (r : RefPayload) : State :=
  let first := s.time.stepTglSeen.isNone
  let toggled := match s.time.stepTglSeen with
    | some b => decide (b ≠ r.stepTgl)
    | none => false
  let began := tadd r.tRef (-(1200 * Int.ofNat r.depth.val))
  let s := s.setTime { s.time with
    stepTglSeen := some r.stepTgl, refPair := some (r.tb0Sec, r.tb0Ns.toNat, began) }
  let s :=
    if first || toggled then
      let here := ({ sec := r.tb0Sec, nsec := r.tb0Ns.toNat } : Tb0).plus (sdiff s.time.tb1.ns began * 2 ^ 32)
      s.putTb0 here.sec here.nsec
    else s.steerTb0
  s.setLock 0 r.tb0Lock

/-! ### TB1 (R53 to R56) -/

/-- Base periods after a step of TB1: the next one starts at the next grid point of CMB_EPOCH on the stepped TB1, n counts
on, and the present one is as long as that makes it (R160, R278). -/
def State.realign (s : State) (before : Time) : State :=
  if !s.cmb.running then s
  else
    let now := s.time.tb1.ns
    let rest := 20000 - sdiff now (s.baseStart s.cmb.n) % 20000
    let gone := sdiff before (s.baseStart s.cmb.n)
    let epoch := tadd now (rest - Int.ofNat ((s.cmb.n + 1) * 20000))
    let len := (gone + rest).toNat
    { s with cmb := { s.cmb with epoch := epoch }
             cnv := { s.cnv with cutAt := if len < 20000 then some len else s.cnv.cutAt } }

/-- TB1 moves by x units of 2⁻³² ns (a step): base periods realign, event 0x2B carries the step in ns (R55, R160). -/
def State.stepTb1 (s : State) (x : Int) : State :=
  let before := s.time.tb1.ns
  let t := s.time
  let s := s.setTime { t with tb1 := t.tb1.plus x, tb1Stepped := true }
  let s := s.realign before
  if s.cmb.running then s.raise 0x2B (BitVec.ofInt 64 (sdiff s.time.tb1.ns before)) else s

/-- TB1 is steered by rate alone. -/
def State.steerTb1 (s : State) : State :=
  State.tookFree { s with time := { s.time with
    tb1 := { s.time.tb1 with rate := clampRate (Config.servoRate s.freeIdx) } } }

/-- The lock conditions after an offset in 1/256 ns (R53, R54). -/
def State.judgeTb1 (s : State) (off : Int) : State :=
  let good := if off.natAbs ≤ 5 * 256 then min 2 (s.time.goodRun + 1) else 0
  let bad := if off.natAbs > 20 * 256 then min 3 (s.time.badRun + 1) else 0
  let s := s.setTime { s.time with goodRun := good, badRun := bad }
  if bad ≥ 3 then s.setLock 1 false else if good ≥ 2 then s.setLock 1 true else s

/-- A module other than the HIVE takes the offset of TB1 at a valid reference (R53 to R55): stepped at the first one;
unlocked, or after a guardian resynchronisation (R391), and beyond ±200 ns, pending parts are void and TB1 is stepped
again; steered otherwise. The offset of a reference that steps TB1 is none of the two that set TB1_LOCK (DESIGN CHOICE, log 106). -/
def State.takeOffset (s : State) (off : Int) (resync : Bool) : State :=
  let s := s.setTime { s.time with tb1Offs := off }
  if !s.time.tb1Stepped then
    let s := s.stepTb1 (-off * 2 ^ 24)
    s.setTime { s.time with goodRun := 0, badRun := 0 }
  else if (resync || !s.time.tb1Lock) && decide (off.natAbs > 200 * 256) then
    let s := s.voidLaunches.stepTb1 (-off * 2 ^ 24)
    s.setTime { s.time with tb1Resteps := satInc 0xFF s.time.tb1Resteps, goodRun := 0, badRun := 0 }
  else s.steerTb1.judgeTb1 off

/-! ### Transmit time-stamp queue (R71 to R73) -/

/-- A transmit stamp, TB0 at the MAC corrected by TX_LAT, enters the queue, or is discarded and counted; TSQ_EN enables the queue
(R69, R71, R72). -/
def State.pushTsq (s : State) (ident : BitVec 16) (port : Fin 2) : State :=
  let t := s.time
  if !s.rbit 0x2000 6 then s
  else if t.tsq.length < 16 then
    let b := t.tb0.plus (s.txLat port.val * 2 ^ 24)
    s.setTime { t with
      tsq := t.tsq ++ [{ sec := b.sec, nsec := b.nsec, ident := ident, port := port
                         frac := BitVec.ofNat 8 (b.frac.toNat / 2 ^ 24) }] }
  else s.setTime { t with tsqOvf := satInc 0xFFFF t.tsqOvf }

/-- The 16 bytes of a queue entry (R73). -/
def TsqEntry.bytes (q : TsqEntry) : List Byte :=
  leBytes 6 q.sec.toNat ++ leBytes 2 q.ident.toNat ++ leBytes 4 (q.nsec % 2 ^ 30 + q.port.val * 2 ^ 30 + 2 ^ 31) ++
    [q.frac, 0, 0, 0]

/-- TSQ_READ: every entry is returned and freed (R73). -/
def execTsqRead (p : Pair) (s : State) : Host.Outcome State Fault Refusal :=
  match s.takeOp p.val 5 3 with
  | none => .next s
  | some e =>
    let q := s.time.tsq
    let s := if q.isEmpty then s else s.hostWrite e.addr (q.flatMap TsqEntry.bytes)
    .next ((s.setTime { s.time with tsq := [] }).finish p.val e.sub 0 (BitVec.ofNat 64 q.length))

/-! ### Programmed pulse outputs (R74 to R77) -/

/-- MODE of pulse output n: 0 single, 1 periodic. -/
def State.tpoPeriodic (s : State) (n : Nat) : Bool := s.rbit (0x2100 + 0x20 * n) 1
/-- BASE. -/
def State.tpoBase (s : State) (n : Nat) : Nat := s.rfld (0x2100 + 0x20 * n) 3 2
/-- POL. -/
def State.tpoPol (s : State) (n : Nat) : Bool := s.rbit (0x2100 + 0x20 * n) 4
/-- START. -/
def State.tpoStart (s : State) (n : Nat) : Time :=
  BitVec.ofNat 40 ((s.reg (0x2104 + 0x20 * n)).toNat + s.rfld (0x2108 + 0x20 * n) 7 0 * 2 ^ 32)
/-- PERIOD. -/
def State.tpoPeriod (s : State) (n : Nat) : Nat := (s.reg (0x210C + 0x20 * n)).toNat
/-- WIDTH. -/
def State.tpoWidth (s : State) (n : Nat) : Nat := (s.reg (0x2110 + 0x20 * n)).toNat
/-- The present value of base b. -/
def State.baseNow (s : State) (b : Nat) : Time :=
  match b with
  | 0 => tb0Short s.time
  | 1 => s.time.tb1.ns
  | 2 => s.time.tb2.ns
  | _ => s.time.tb3.ns
/-- Base b counts as locked (R76). -/
def State.baseLocked (s : State) (b : Nat) : Bool :=
  match b with
  | 0 => s.time.tb0Lock
  | 1 => s.time.tb1Lock
  | 2 => true
  | _ => s.time.tb3Lock
/-- The run-time state of pulse output n. -/
def State.tpo (s : State) (n : Nat) : PulseRt := tget {} s.time.pulses n
/-- The state with pulse output n changed. -/
def State.modTpo (s : State) (n : Nat) (f : PulseRt → PulseRt) : State :=
  { s with time := { s.time with pulses := tmod {} s.time.pulses n f } }

/-- The first instant of the series start + k × period that is not past at now (R75). -/
def seriesNext (start : Time) (period : Nat) (now : Time) : Time :=
  let late := sdiff now start
  if late ≤ 0 then start else tadd start (Int.ofNat ((late.toNat + period - 1) / period * period))

/-- The level of the pin while the pulse is driven or not (POL). -/
def State.tpoLevel (s : State) (n : Nat) (high : Bool) : Bool := Bool.xor high (s.tpoPol n)

/-- What a write stores of the pulse register: POL, BASE and MODE, of which BASE and MODE keep their values while the output is
armed (R77); the pin follows POL at once. -/
def State.writeTpo (s : State) (n : Nat) (w : Word) : State :=
  let off := 0x2100 + 0x20 * n
  let r := s.tpo n
  let m : Word := if r.armed then regRw off &&& 0x10 else regRw off
  let t := s.setReg off ((w &&& m) ||| (s.reg off &&& ~~~ m))
  if s.tpoPol n = t.tpoPol n then t else t.emitOut (.pulse n (t.tpoLevel n r.high))

/-- A write of 1 clears the W1C bits of the pulse register. -/
def State.clearTpo (s : State) (n : Nat) (w : Word) : State :=
  s.modTpo n (fun r => { r with
    cfgErr := r.cfgErr && !tbit w 7, past := r.past && !tbit w 6, fired := r.fired && !tbit w 5 })

/-- The settings with which arming is refused (R75). -/
def State.tpoBad (s : State) (n : Nat) : Bool :=
  decide (s.tpoWidth n < 8) ||
    (s.tpoPeriodic n && (decide (s.tpoPeriod n < 16) || decide (s.tpoWidth n ≥ s.tpoPeriod n)))

/-- PULSE_OUTPUT_ARM: a write with ARM = 1 to the register of output n (R74, R75, R77). The fields written with it apply
first; on an armed output it changes POL and the W1C bits. -/
def execPulseOutputArm (n : Fin 4) (w : Word) (s : State) : Host.Outcome State Fault Refusal :=
  if !s.hostUp then .next s else
  let i := n.val
  let old := (s.tpo i).armed
  let s := (s.clearTpo i w).writeTpo i w
  if old then .next s
  else
    let now := s.baseNow (s.tpoBase i)
    let start := s.tpoStart i
    if s.tpoBad i then .next (s.modTpo i (fun r => { r with cfgErr := true }))
    else if s.tpoPeriodic i then
      .next (s.modTpo i (fun r => { r with armed := true, next := seriesNext start (s.tpoPeriod i) now }))
    else if sdiff start now < 0 then .next (s.modTpo i (fun r => { r with past := true }))
    else .next (s.modTpo i (fun r => { r with armed := true, next := start }))

/-- PULSE_OUTPUT_DISARM: a write with ARM = 0 disarms output n at once and ends a pulse in progress; BASE and MODE are
stored only where the output was not armed (R77). -/
def execPulseOutputDisarm (n : Fin 4) (w : Word) (s : State) : Host.Outcome State Fault Refusal :=
  if !s.hostUp then .next s else
  let i := n.val
  let r := s.tpo i
  let s := (s.clearTpo i w).writeTpo i w
  let s := if r.high then s.emitOut (.pulse i (s.tpoLevel i false)) else s
  .next (s.modTpo i (fun r => { r with armed := false, high := false }))

/-- PULSE_OUTPUT_EDGE: an armed output has reached its instant, or the end of its pulse (R74, R76). An instant met while
the base is unlocked is missed. -/
def execPulseOutputEdge (n : Fin 4) (s : State) : Host.Outcome State Fault Refusal :=
  let i := n.val
  let r := s.tpo i
  let base := s.tpoBase i
  if r.high then
    .next ((s.emitOut (.pulse i (s.tpoLevel i false))).modTpo i (fun r => { r with high := false }))
  else if !r.armed then .next s
  else if !s.baseLocked base then
    .next (if s.tpoPeriodic i then s.modTpo i (fun r => { r with next := tadd r.next (Int.ofNat (s.tpoPeriod i)) })
      else s)
  else
    let s := s.emitOut (.pulse i (s.tpoLevel i true))
    .next (s.modTpo i (fun r =>
      if s.tpoPeriodic i then { r with high := true, next := tadd r.next (Int.ofNat (s.tpoPeriod i)) }
      else { r with high := true, fired := true, armed := false }))

end Sys2Proof.Machine
end

