-- ==== Sys2Proof/Machine/WagLink.lean ====
section
/-! DEFINITION. The Waggle link (R362 to R392, R402 to R418, R429 to R435): starting, following and leaving it, reference
frames, segment heads, clashes, trunks, the guardian and mode changes. -/

namespace Sys2Proof.Machine

/-! ### Who may send (R363, R388 to R392, R418, R435) -/

/-- RANK. -/
def State.rank (s : State) : Nat := s.rfld 0xA004 7 0
/-- LEASE_STN, and whether this module is a twin member (TWN_CTRL.EN). -/
def State.leaseStn (s : State) : Nat := s.rfld 0xB008 11 0
/-- TWN_CTRL.EN. -/
def State.twinEn (s : State) : Bool := s.rbit 0xB000 0

/-- A driver may be enabled at all: the guardian has its reference, the module has not withdrawn for its eject, and it
takes part in the link (R389, R391, R604). -/
def State.driverOk (s : State) : Bool :=
  s.hears && !s.wag.grdClosed && !s.wag.grdResync && !s.pw.ejectGone && s.wag.hasMode s.wag.mode &&
    (decide (s.wag.link = .hive) || decide (s.wag.link = .follow))

/-- This module sends in the windows of its station (R363, R392). -/
def State.canSend (s : State) : Bool := s.driverOk && s.roleActs && decide (s.station < 4095)

/-- A twin member sends in its lease window whatever the lease (R440). -/
def State.canSendLease (s : State) : Bool := s.driverOk && s.twinEn && decide (s.leaseStn < 4095)

/-- It has joined as far as it can tell: from then on it sends its DATA and JOIN_REQ = 0 (R418). -/
def State.dataOk (s : State) : Bool := s.isHive || s.wag.joinDone

/-- Ports through which the module's own frames leave beside the segment: its FORWARDING trunks (R364). -/
def State.fwdPorts (s : State) : List Nat :=
  (List.range 2).filter (fun k => decide ((tget {} s.wag.trunks k : TrunkRt).st = .forwarding))

/-- A frame enters trunks, with HOPS one more (R364, R380). -/
def State.toTrunks (s : State) (ports : List Nat) (f : WagFrame) (stomped : Bool) : State :=
  ports.foldl (fun s k => s.emitOut (.trunk k (frameWire { f with hops := f.hops + 1 } stomped))) s

/-- A frame of a scheduled window is put on the segment and enters every FORWARDING trunk (R364). -/
def State.sendFrame (s : State) (f : WagFrame) : State := (s.emitOut (.waggle f false)).toTrunks s.fwdPorts f false

/-! ### The twin's lease windows (R442) -/

/-- Starts, in the matrix cycle of mode m, of the EXCLUSIVE windows of a station that carry a transmit word. -/
def WagState.wordStarts (g : WagState) (m stn word : Nat) : List Nat :=
  let h := g.entry m 0
  let carries (e : BitVec 256) : Bool := decide (wType e = 1) && decide (wOrigin e = stn) &&
    decide (wFirst e ≤ word) && decide (word < wFirst e + wWords e)
  sortBy (fun a b => decide (a ≤ b)) ((List.range (shMlen h)).flatMap (fun mpos =>
    ((g.windows m).filter (fun x => carries x.2 && wPresent x.2 mpos)).map (fun x => mpos * shBc h + wStart x.2)))

/-- Such a window is present at least once in every 250 µs. -/
def WagState.wordOften (g : WagState) (m stn word : Nat) : Bool :=
  let h := g.entry m 0
  match g.wordStarts m stn word with
  | [] => false
  | a :: r =>
    decide ((stepsOf (a :: r) ++ [a + shMlen h * shBc h - (a :: r).getLast (by simp)]).foldl max 0 ≤ 250000)

/-- A twin member can serve its lease in mode m (R442). -/
def State.leaseModeOk (s : State) (m : Nat) : Bool :=
  s.wag.wordOften m s.leaseStn (s.rfld 0xB008 23 12) && s.wag.wordOften m (s.rfld 0xB00C 11 0) (s.rfld 0xB00C 23 12)

/-- This module acknowledges mode m (R431, R442). -/
def State.acksMode (s : State) (m : Nat) : Bool := s.wag.hasMode m && (!s.twinEn || s.leaseModeOk m)

/-! ### A mode comes into force (R433) -/

/-- Mode m in force: window counters reset, suppressed identifiers lifted, SEQ and refusals judged afresh; the HIVE's
relay bounds follow. -/
def State.enterMode (s : State) (m : Nat) : State :=
  let g := s.wag
  let s := s.setWag { g with
    mode := m, winCnt := [], suppressed := [], clashes := [], rxSeq := [], winRx := [], doneNow := []
    stations := tmap {} (fun r => { r with refused := false }) g.stations }
  if s.isHive then s.recomputeRelay else s

/-- A mode change takes effect at a CYCLE: CHANGE_CNT and 0x63. -/
def State.changeMode (s : State) (m : Nat) (cycle : Word) : State :=
  let s := s.enterMode m
  (s.setWag { s.wag with changeCnt := satInc 0xFFFF s.wag.changeCnt }).raise 0x63
    (BitVec.ofNat 64 (m + cycle.toNat * 2 ^ 32))

/-- A matrix cycle begins: clashes and guardian cuts are counted anew, probe results age (R378, R386, R391). -/
def State.matrixStart (s : State) : State :=
  s.setWag { s.wag with clashes := [], grdCuts := 0, probeMc := s.wag.probeMc + 1, probeOut := none }

/-! ### The HIVE's mode change (R429 to R432) -/

/-- Stations listed at the announcement: joined, not in DISCORD, ORIGIN of an EXCLUSIVE window with STATUS (R430,
R434). -/
def WagState.listedNow (g : WagState) : List Nat :=
  g.joinedStns.filter (fun k => !(g.stn k).discord &&
    (g.windows g.mode).any (fun x => decide (wType x.2 = 1) && decide (wOrigin x.2 = k) && wStatus x.2))

/-- The request ends without the change: 0x64 as completion and event, with what is missing (R432). -/
def State.abandonMode (s : State) (q : ModeReq) (missing : List Nat) : State :=
  let r := BitVec.ofNat 64 (missing.headD 0 + missing.length * 2 ^ 16)
  let s := s.setWag { s.wag with
    modeReq := none, pend := false, nextMode := 0, changeAt := 0, abandonCnt := satInc 0xFFFF s.wag.abandonCnt }
  (s.finish q.pair.val q.sub 0x64 r).raise 0x64 r

/-- The decision at C_{CHANGE_AT − 1} (R432), taken once. -/
def State.decideMode (s : State) : State :=
  match s.wag.modeReq with
  | some q =>
    if !q.announced || q.decided then s
    else
      let missing := q.listed.filter (fun k => !q.acked.contains k)
      if missing.isEmpty then s.setWag { s.wag with modeReq := some { q with decided := true } }
      else s.abandonMode q missing
  | none => s

/-- A pending mode change of a HIVE that leaves its role is abandoned with nothing missing. -/
def State.dropMode (s : State) : State :=
  match s.wag.modeReq with
  | some q => s.abandonMode q []
  | none => s

/-! ### The reference frame (R383 to R385) -/

/-- The reference of the HIVE's present basic cycle. -/
def State.reference (s : State) : RefPayload :=
  let g := s.wag
  let h := g.entry g.mode 0
  let tRef := tadd g.cStart (Int.ofNat g.guardNs)
  let tb0 := s.time.tb0.plus (sdiff tRef s.time.tb1.ns * 2 ^ 32)
  { tRef := tRef, depth := 0, mode := (BitVec.ofNat 3 g.mode).toFin
    pend := g.pend, nextMode := (BitVec.ofNat 3 g.nextMode).toFin, mpos := (BitVec.ofNat 6 g.mpos).toFin
    cycle := g.cycle, changeAt := g.changeAt, tb0Sec := tb0.sec, tb0Ns := BitVec.ofNat 30 tb0.nsec
    tb0Lock := s.time.tb0Lock, stepTgl := s.time.stepTgl, rank := BitVec.ofNat 8 s.rank
    twinned := decide (s.twn.st = .holder), bcNs := BitVec.ofNat 32 (shBc h), mlen := shMlen h
    nwin := (BitVec.ofNat 8 (shNwin h)).toFin, guardNs := g.guardNs }

/-- The 40 bytes of a reference payload (R384). -/
def refBytes (r : RefPayload) : List Byte :=
  leBytes 5 r.tRef.toNat ++ leBytes 1 r.depth.val ++ leBytes 1 (r.mode.val + 8 * r.pend.toNat + 16 * r.nextMode.val) ++
    leBytes 1 r.mpos.val ++ leBytes 4 r.cycle.toNat ++ leBytes 4 r.changeAt.toNat ++ leBytes 6 r.tb0Sec.toNat ++
    leBytes 4 (r.tb0Ns.toNat + r.tb0Lock.toNat * 2 ^ 30 + r.stepTgl.toNat * 2 ^ 31) ++ leBytes 1 r.rank.toNat ++
    leBytes 1 r.twinned.toNat ++ leBytes 4 r.bcNs.toNat ++ leBytes 1 r.mlen ++ leBytes 1 r.nwin.val ++ leBytes 2 r.guardNs ++ [0, 0, 0, 0]

/-- A reference frame of this station (R394). -/
def State.refFrame (s : State) (r : RefPayload) (hops : Nat) : WagFrame :=
  { ownFrame 0xFFF 1 s.station 4095 0 0 (refBytes r) with hops := hops }

/-- The HIVE sends its reference; its TB1_LOCK is 1 while it does (R56, R383). -/
def State.sendReference (s : State) : State :=
  let r := s.reference
  let s := s.setWag { s.wag with lastRef := some r, refSrc := s.station, refHops := 0 }
  (s.sendFrame (s.refFrame r 0)).setLock 1 true

/-! ### Entering and leaving a role (R412 to R417) -/

/-- What this module holds of the link is dropped: it is neither HIVE nor joined. DESIGN CHOICE (log 119): every station that it counts
joined leaves with that, as in R420. -/
def State.leaveLink (s : State) (l : LinkSt) : State :=
  let s := s.dropMode
  let s := (s.wag.joinedStns.foldl State.leaveStation s).setLock 1 false
  let s := s.setTime { s.time with tb1Stepped := false, goodRun := 0, badRun := 0, stepTglSeen := none }
  s.setWag { s.wag with
    link := l, lastRef := none, refOk := false, refThisCycle := false, missedRefs := 0, pend := false, nextMode := 0
    changeAt := 0, grdClosed := true, grdResync := false, grdCuts := 0, standbyWasLocked := false, joinDone := false
    fromStandby := false, noSched := [], stations := tmap {} (fun r => { r with badMc := 0, refused := false }) s.wag.stations }

/-- A HIVE withdraws to standby: 0x68 with cause 0 (R413 to R415). -/
def State.becomeStandby (s : State) (rank : Nat) : State :=
  (s.leaveLink .standby).raise 0x68 (BitVec.ofNat 64 (rank * 256))

/-- A HIVE of equal RANK has been heard: STOPPED until RUN is written again, 0x68 with cause 2 (R413, R414). -/
def State.stopEqual (s : State) (rank : Nat) : State :=
  (s.leaveLink .stopped).raise 0x68 (BitVec.ofNat 64 (2 + rank * 256))

/-- TB1 takes the TB0 short time (R412). -/
def State.tb1FromTb0 (s : State) : State :=
  let x := Int.ofNat ((tb0Short s.time).toNat * 2 ^ 32 + s.time.tb0.frac.toNat) - s.time.tb1.whole
  s.stepTb1 (if x ≥ 2 ^ 71 then x - 2 ^ 72 else if x < -(2 ^ 71) then x + 2 ^ 72 else x)

/-- The HIVE starts the link in START_MODE: C₀ is now, CYCLE 0; the first reference leaves (R56, R412), though the guardian keeps every
window closed until it reads that reference back (R389). A mode that fails its timing check refuses the start with 0x60 and leaves
LINK_STATE STOPPED (R410). -/
def State.startLink (s : State) (setTb1 : Bool) : State :=
  let m := s.rfld 0xA000 30 28
  let g := s.wag
  let refuse (w : Nat) : State :=
    (s.setWag { g with link := .stopped, fromStandby := false }).raise 0x60 (BitVec.ofNat 64 (m + w * 256))
  if !g.hasMode m then refuse 0
  else match g.modeFault m s.guardCfg with
    | some w => refuse w
    | none =>
      if s.station ≥ 4095 || !s.segEn then s.setWag { g with link := .stopped, fromStandby := false }
      else
        let s := if setTb1 then s.tb1FromTb0 else s
        let t := s.time
        let s := s.setTime { t with tb1 := { t.tb1 with rate := t.tb0.rate }, tb1Stepped := true, tb1Offs := 0 }
        let h := g.entry m 0
        let was := g.fromStandby
        let foreign := match g.lastRef with | some r => r.rank.toNat | none => 0
        let s := (s.setWag { g with
          link := .hive, cStart := s.time.tb1.ns, cycle := 0, mpos := 0, pend := false, nextMode := 0, changeAt := 0
          modeReq := none, bcNs := shBc h, mlen := shMlen h, guardNs := s.guardCfg, depth := 0, grdClosed := true
          grdResync := false, grdCuts := 0, missedRefs := 0, fromStandby := false, standbyWasLocked := false }).enterMode m
        let s := s.matrixStart.sendReference
        if was then s.raise 0x68 (BitVec.ofNat 64 (1 + foreign * 256)) else s

/-- The role that a write of RUN takes up (R412, R416, R417, R458): a twin member that does not act follows. -/
def State.takeRole (s : State) : State :=
  match s.role with
  | 1 => if s.roleActs then s.leaveLink .listen else s.leaveLink .follow
  | 0 =>
    if s.pw.variantL then (s.leaveLink .stopped).raise 0x65 (BitVec.ofNat 64 (s.station + 2 ^ 16))
    else s.leaveLink .follow
  | 3 => s.leaveLink .follow
  | _ => s.leaveLink .stopped

/-- A host write of a register whose RW bits change at once and whose RWL bits change while they are open (R13, R611,
R612). -/
def State.writeBits (s : State) (off : Nat) (w : Word) : State :=
  let b := blockOf off
  let old := s.reg off
  let m := regRw off ||| (if s.rwlOpen b then regRwl off else 0)
  let new := regClamp off ((w &&& m) ||| (old &&& ~~~ m))
  (s.noteLock b (decide ((w ^^^ old) &&& regRwl off ≠ 0))).setReg off new

/-- HIVE_LISTEN_END: 200 µs have passed with no reference that stops the start (R412). -/
def execHiveListenEnd (s : State) : Host.Outcome State Fault Refusal :=
  .next (if s.wag.link = .listen && s.linkRuns then (s.startLink true).judgePhase else s)

/-- HIVE_BACKOFF_END: the link starts afresh, with a new C₀ (R415). -/
def execHiveBackoffEnd (s : State) : Host.Outcome State Fault Refusal :=
  .next (if s.wag.link = .backoff && s.linkRuns then (s.startLink false).judgePhase else s)

/-! ### DISCORD (R434) -/

/-- RESULT of 0x6A. Bits 8 and 9 lie inside the station's bits 11:0, so they stand in for the station's there. -/
def discordResult (k : Nat) (entered present : Bool) : BitVec 64 :=
  putBit (putBit (BitVec.ofNat 64 k) 8 entered) 9 present

/-- The data view and the management view of station k are compared at a basic cycle start; with no view to hold against
it, the two cannot differ. -/
def State.compareViews (s : State) (k : Nat) : State :=
  let r := s.wag.stn k
  let x := s.wag.expect k
  let differ := (decide (x = 1) && decide (r.last ≠ .good)) || (decide (x = 2) && decide (r.last = .good))
  let put (r : StnRt) : State := s.setWag { s.wag with stations := tput {} r s.wag.stations k }
  if differ then
    if r.discord then put { r with agree := 0 }
    else (put { r with discord := true, agree := 0 }).raise 0x6A (discordResult k true (decide (x = 1)))
  else if r.discord then
    if r.agree + 1 ≥ 3 then
      (put { r with discord := false, agree := 0 }).raise 0x6A (discordResult k false (decide (x = 1)))
    else put { r with agree := r.agree + 1 }
  else s

/-- Stations whose views are compared: those with an EXPECT and those in DISCORD. -/
def WagState.viewed (g : WagState) : List Nat :=
  (((g.stnTab.filter (fun x => decide (g.expect x.1 ≠ 0))).map (·.1)) ++
    ((g.stations.filter (fun x => x.2.discord)).map (·.1))).eraseDups

/-! ### Basic cycles (R402, R430, R433) -/

/-- The announced mode takes effect with basic cycle `cycle`: its entry 0 gives the cycle, and the MODE_CHANGE that asked for it
completes (R402, R430, R432). -/
def State.takeMode (s : State) (cycle : Word) : State :=
  let g := s.wag
  let h := g.entry g.nextMode 0
  let s := s.setWag { g with bcNs := shBc h, mlen := shMlen h, pend := false, nextMode := 0, changeAt := 0, modeReq := none }
  let s := s.changeMode g.nextMode cycle
  match g.modeReq with
  | some q => s.finish q.pair.val q.sub 0 0
  | none => s

/-- A mode change that waits is announced with the first cycle of a matrix (R430). A HIVE whose lease the mode does not serve raises
0x7B and counts itself among the stations listed, whose acknowledgement stays missing (R432, R442). -/
def State.announceMode (s : State) : State :=
  match s.wag.modeReq with
  | some q =>
    if !q.announced && decide (s.wag.mpos = 0) then
      let bars := s.twinEn && !s.leaseModeOk q.mode
      let s := s.setWag { s.wag with
        pend := true, nextMode := q.mode, changeAt := s.wag.cycle + BitVec.ofNat 32 (2 * s.wag.mlen)
        modeReq := some { q with announced := true, listed := s.wag.listedNow ++ (if bars then [s.station] else []) } }
      if bars then s.raise 0x7B (BitVec.ofNat 64 q.mode) else s
    else s
  | none => s

/-- The HIVE moves on to its next basic cycle: mode change, decision or announcement where it falls due, then the
reference, while its guardian lets it out (R383, R389, R430 to R433). -/
def State.nextCycle (s : State) : State :=
  let g := s.wag
  let cycle := g.cycle + 1
  let change := g.pend && decide (cycle = g.changeAt)
  let s := s.setWag { g with
    cStart := tadd g.cStart (Int.ofNat g.bcNs), cycle := cycle, mpos := if change then 0 else (g.mpos + 1) % max 1 g.mlen }
  let s :=
    if change then s.takeMode cycle
    else if g.pend && decide (cycle + 1 = g.changeAt) then s.decideMode
    else s
  let s := if s.wag.mpos = 0 then s.matrixStart else s
  let s := s.announceMode
  if s.canSend then s.sendReference else s.setLock 1 false

/-- A module that follows moves on to the next basic cycle, whose reference, if it comes, says the same. Without it CYCLE and MPOS go on
as R402 has them, and the mode stays that of the last reference (DEDUCED, log 121). -/
def State.followCycle (s : State) : State :=
  let g := s.wag
  if g.lastRef.isNone then s
  else s.setWag { g with
    cStart := tadd g.cStart (Int.ofNat g.bcNs), cycle := g.cycle + 1, mpos := (g.mpos + 1) % max 1 g.mlen }

/-- BASIC_CYCLE_START: a basic cycle begins. What the last one heard decides REF_OK; views are compared; the HIVE sends its
reference (R383, R402, R430, R433, R434). -/
def execBasicCycleStart (s : State) : Host.Outcome State Fault Refusal :=
  if s.wag.link = .off || s.wag.link = .stopped || s.wag.link = .listen || s.wag.link = .backoff then .next s
  else
    let g := s.wag
    let s := s.setWag { g with
      refOk := g.refThisCycle, refThisCycle := false, missedRefs := if g.refThisCycle then 0 else min 2 (g.missedRefs + 1)
      wdrnLeft := g.wdrnLeft - 1, winRx := []
      otherHead := match g.otherHead with
        | some (k, n + 1) => if n = 0 then none else some (k, n)
        | _ => none }
    let s := s.wag.viewed.foldl (fun s k => s.compareViews k) s
    .next (if s.isHive then s.nextCycle else s.followCycle)

/-- MODE_CHANGE_DECISION: at C_{CHANGE_AT − 1} (R432). -/
def execModeChangeDecision (s : State) : Host.Outcome State Fault Refusal :=
  .next (if s.isHive && s.wag.pend then s.decideMode else s)

/-- The effect of MODE_CHANGE on the HIVE (R429, R410). -/
def doModeChange (p : Pair) (s : State) : Host.Outcome State Fault Refusal :=
  match s.takeParam p 1 10 1 with
  | none => .next s
  | some e =>
    let m := e.value
    let g := s.wag
    if m ≥ 8 then .next (s.finish p.val e.sub 0x02 0)
    else if !s.isHive || !s.roleActs || g.modeReq.isSome || decide (m = g.mode) || !g.hasMode m then
      .next (s.finish p.val e.sub 0x62 (BitVec.ofNat 64 m))
    else match g.modeFault m g.guardNs with
      | some w => .next (s.finish p.val e.sub 0x60 (BitVec.ofNat 64 (m + w * 256)))
      | none =>
        let s := s.setWag { g with modeReq := some { mode := m, pair := p, sub := e.sub } }
        .next (s.accept p.val e.sub)

/-! ### Trunks (R362, R366, R379 to R382) -/

/-- ROLE of trunk port k: 0 OFF, 1 UPSTREAM, 2 DOWNSTREAM, 3 ALT. -/
def State.trunkRole (s : State) (k : Nat) : Nat := s.rfld (0xA410 + 0x10 * k) 1 0
/-- The run-time state of trunk port k. -/
def WagState.trunk (g : WagState) (k : Nat) : TrunkRt := tget {} g.trunks k
/-- The port leads towards the HIVE's segment: this end measures and marks the link. -/
def State.trunkUp (s : State) (k : Nat) : Bool := decide (s.trunkRole k = 1) || decide (s.trunkRole k = 3)

/-- The code of a trunk state (WAG_TRK_STAT, 0x6D). -/
def trunkCode : TrunkSt → Nat
  | .down => 0 | .aligned => 1 | .measured => 2 | .forwarding => 3 | .tooLong => 4

/-- d in 1/256 ns: the mean of the last eight measurements. -/
def TrunkRt.delay (r : TrunkRt) : Int :=
  if r.delays.isEmpty then 0 else (r.delays.foldl (· + ·) 0) / Int.ofNat r.delays.length

/-- Eight measurements whose largest minus smallest is at most 2 ns. -/
def TrunkRt.steady (r : TrunkRt) : Bool :=
  decide (r.delays.length ≥ 8) &&
    decide (r.delays.foldl max (r.delays.headD 0) - r.delays.foldl min (r.delays.headD 0) ≤ 512)

/-- The state of a port that is at least ALIGNED (R366, R379): the upstream-facing end measures; the other end forwards
while its partner marks the link ACTIVE. -/
def trunkNext (role : Nat) (up active : Bool) (r : TrunkRt) : TrunkSt :=
  if !up then (if active && decide (role ≠ 0) then .forwarding else .aligned)
  else if r.st = .aligned && !r.steady then .aligned
  else if r.delay > 600 * 256 then .tooLong
  else if active && decide (role ≠ 0) then .forwarding else .measured

/-- The port takes a state: 0x6D on a change. -/
def State.setTrunk (s : State) (k : Nat) (r : TrunkRt) (st : TrunkSt) : State :=
  let old := (s.wag.trunk k).st
  let s := s.setWag { s.wag with trunks := tput {} { r with st := st } s.wag.trunks k }
  if old = st then s else s.raise 0x6D (BitVec.ofNat 64 (k + trunkCode st * 256))

/-- The port's state follows its measurements and the ACTIVE mark. -/
def State.judgeTrunk (s : State) (k : Nat) : State :=
  let r := s.wag.trunk k
  if r.st = .down then s
  else
    let active := if s.trunkUp k then decide (s.wag.activePort = some k) else r.active
    s.setTrunk k { r with active := active } (trunkNext (s.trunkRole k) (s.trunkUp k) active r)

/-- The module has no role on the link, or was stopped in it: it sends nothing and marks no trunk (R6, R413, R417). -/
def State.silent (s : State) : Bool := decide (s.wag.link = .off) || decide (s.wag.link = .stopped)

/-- A head without an ACTIVE port marks its UPSTREAM port as soon as that can forward (R366), unless it has withdrawn
(R367). -/
def State.markUpstream (s : State) (k : Nat) : State :=
  let r := s.wag.trunk k
  if decide (s.trunkRole k = 1) && !s.silent && s.wag.activePort.isNone && !s.wag.headWdrn && decide (r.st = .measured) then
    (s.setWag { s.wag with activePort := some k }).judgeTrunk k
  else s

/-- A host write of WAG_TRK_CFGn: the port takes what its ROLE now lets it be (R362, R366, R379). -/
def State.trunkWritten (s : State) (k : Nat) : State :=
  let s := if decide (s.wag.activePort = some k) && !s.trunkUp k then s.setWag { s.wag with activePort := none } else s
  (s.judgeTrunk k).markUpstream k

/-- Invalid code groups are counted (R379). -/
def TrunkRt.codeErrors (r : TrunkRt) (n : Nat) : TrunkRt := { r with codeErr := satAdd 0xFFFF r.codeErr n }

/-- The state with the invalid code groups that a trunk command tells of counted. -/
def State.codeErrors (s : State) (p : TrunkPort) : State :=
  s.setWag { s.wag with trunks := tmod {} s.wag.trunks p.port.val (fun r => r.codeErrors p.invalid) }

/-- The mark of the upstream port follows the role: a silent module marks no port, every other one as soon as it can (R6, R366). -/
def State.markPorts (s : State) : State :=
  if s.silent then (((s.setWag { s.wag with activePort := none }).judgeTrunk 0).judgeTrunk 1)
  else (s.markUpstream 0).markUpstream 1

/-- WAG_RUN: a write of WAG_CTRL. RUN = 1 takes up the configured role, or takes it up again after STOPPED; RUN = 0 takes
the module off the link; from RUN = 1 on the module is judged by R519 again (R412, R417, R641). -/
def execWagRun (w : Word) (s : State) : Host.Outcome State Fault Refusal :=
  if !s.hostUp then .next s else
  let s := s.writeBits 0xA000 w
  let s := s.setReg 0xA000 (putBit (s.reg 0xA000) 31 (tbit w 31))
  let s := if tbit w 31 then { s with pw := { s.pw with p3 := false } } else s
  if !tbit w 31 then .next (if s.wag.link = .off then s else (s.leaveLink .off).markPorts).judgePhase
  else if (s.wag.link = .off || s.wag.link = .stopped) && s.linkRuns then .next s.takeRole.markPorts
  else .next s

/-- TRUNK_ALIGNED: three consecutive /I/ sets without a code error (R379). -/
def execTrunkAligned (port : TrunkPort) (s : State) : Host.Outcome State Fault Refusal :=
  let s := s.codeErrors port
  let k := port.port.val
  let r := s.wag.trunk k
  if r.st = .down then .next (s.setTrunk k { r with delays := [], active := false } .aligned) else .next s

/-- TRUNK_ALIGNMENT_LOST: four invalid code groups within any 16 (R379). -/
def execTrunkAlignmentLost (port : TrunkPort) (s : State) : Host.Outcome State Fault Refusal :=
  let s := s.codeErrors port
  let k := port.port.val
  let s := s.setTrunk k { s.wag.trunk k with delays := [], active := false } .down
  .next (if s.wag.activePort = some k && s.trunkRole k = 1 then s.setWag { s.wag with activePort := none } else s)

/-- TRUNK_DQ_SEND: the upstream-facing end sends /DQ/ with its sequence byte and ACTIVE, and notes t₁ (R381). -/
def execTrunkDqSend (port : Fin 2) (t1 : Stamp) (s : State) : Host.Outcome State Fault Refusal :=
  let k := port.val
  let r := s.wag.trunk k
  if r.st = .down || !s.trunkUp k || s.wag.link = .stopped then .next s
  else
    let seq := r.dqSeq + 1
    let s := s.setWag { s.wag with trunks := tput {} { r with dqSeq := seq, t1 := t1 } s.wag.trunks k }
    .next (s.emitOut (.trunkDq k seq (decide (s.wag.activePort = some k))))

/-- TRUNK_DQ_RECEIVE: the far end answers with its turnaround and takes the ACTIVE mark (R366, R381); a port whose ROLE is OFF is not
used (R362). -/
def execTrunkDqReceive (port : TrunkPort) (seq : BitVec 8) (active : Bool) (turnaround : Stamp) (s : State) :
    Host.Outcome State Fault Refusal :=
  let s := s.codeErrors port
  let k := port.port.val
  let r := s.wag.trunk k
  if r.st = .down || s.trunkRole k ≠ 2 then .next s
  else
    let s := s.setWag { s.wag with trunks := tput {} { r with active := active } s.wag.trunks k }
    let s := s.judgeTrunk k
    .next (if s.wag.link = .stopped then s else s.emitOut (.trunkDr k seq turnaround))

/-- TRUNK_DR_RECEIVE: one delay measurement (R381), and the port's state after it (R366, R379). -/
def execTrunkDrReceive (port : TrunkPort) (seq : BitVec 8) (turnaround : Stamp) (t4 : Stamp) (s : State) :
    Host.Outcome State Fault Refusal :=
  let s := s.codeErrors port
  let k := port.port.val
  let r := s.wag.trunk k
  if r.st = .down || !s.trunkUp k || r.dqSeq ≠ seq then .next s
  else
    let asym := sext 16 (s.rfld (0xA410 + 0x10 * k) 31 16)
    let m := (sdiff48 t4 r.t1 - Int.ofNat turnaround.toNat + asym) / 2
    let r := { r with delays := (m :: r.delays).take 8 }
    let s := s.setWag { s.wag with trunks := tput {} r s.wag.trunks k }
    let s := s.judgeTrunk k
    let lost := decide ((s.wag.trunk k).st = .tooLong) && decide (s.wag.activePort = some k) && decide (s.trunkRole k = 1)
    .next (if lost then (s.setWag { s.wag with activePort := none }).judgeTrunk k else s.markUpstream k)

/-- UPSTREAM_SWITCH: no reference for two basic cycles through the ACTIVE port, so ACTIVE moves to the other one: to an ALT
port that is MEASURED, or back to an UPSTREAM port that could forward (R366). A head that has withdrawn marks none (R367). -/
def execUpstreamSwitch (s : State) : Host.Outcome State Fault Refusal :=
  let role := match s.wag.activePort with
    | some k => s.trunkRole k
    | none => 1
  let want := if role = 3 then 1 else 3
  match if s.wag.headWdrn then none
    else (List.range 2).find? (fun k => decide (s.trunkRole k = want) && decide ((s.wag.trunk k).st = .measured)) with
  | none => .next s
  | some k =>
    let s := s.setWag { s.wag with activePort := some k, refThisCycle := false }
    .next (((s.judgeTrunk 0).judgeTrunk 1).raise 0x6E (BitVec.ofNat 64 k))

/-- A frame has left a trunk's port, or come from it, with the inverse CRC (R380). -/
def State.countStomp (s : State) (k : Nat) (bad : Bool) : State :=
  if bad then s.setWag { s.wag with trunks := tmod {} s.wag.trunks k (fun r => { r with stomp := satInc 0xFFFF r.stomp }) } else s

/-- TRUNK_FORWARD: a frame of an EXCLUSIVE or ARBITRATING window goes out through every other port that forwards, HOPS one more on each
trunk crossing; one whose CRC fails leaves with the inverse CRC (R364, R365, R380). A reference that comes by a trunk goes on as its
head's own copy alone (R383); after two guardian cuts nothing leaves (R391). -/
def execTrunkForward (port : RxPort) (frame : CrossFrame) (s : State) : Host.Outcome State Fault Refusal :=
  let from_ : Nat := match port with | .segment => 2 | .trunk0 => 0 | .trunk1 => 1
  let f := frame.frame
  let inOk := decide (from_ = 2) || decide ((s.wag.trunk from_).st = .forwarding)
  let free := decide (f.win ≠ 0) && decide (wType (s.wag.window f.win) = 3)
  if !s.linkRuns || s.silent || !inOk || free || decide (f.hops ≥ 63) || s.wag.grdResync || (decide (from_ ≠ 2) && decide (f.kind = 1)) then
    .next s
  else
    let bad := !frame.crcOk
    let ports := s.fwdPorts.filter (fun k => decide (k ≠ from_))
    let s := (ports.foldl (fun s k => s.countStomp k bad) s).toTrunks ports f bad
    if from_ ≠ 2 && s.segEn && !s.wag.grdClosed then .next ((s.countStomp from_ bad).emitOut (.waggle f bad)) else .next s

/-! ### Receiving a reference (R387, R413 to R416, R433) -/

/-- This module is head of its segment (R362). -/
def State.isHead (s : State) : Bool := s.isHive || (s.wag.activePort.isSome && !s.wag.headWdrn)

/-- Its drop delay in 1/256 ns (R386). -/
def State.dropDelay (s : State) : Nat := if s.isHead then 0 else s.wag.dropDly

/-- The guardian takes its edges from a valid reference: its count restarts at the SOF, windows open, and a silence after two cuts
ends (R388, R389, R391). -/
def State.guardianRef (s : State) (sof : Stamp) : State :=
  let g := s.wag
  s.setWag { g with
    grdSof := s.time.t2 - (sdiff48 (stampOf s.time.tb1.ns) sof / 256).toNat
    grdClosed := false, grdResync := false, missedRefs := 0
    resyncCnt := if g.grdResync then satInc 0xFFFF g.resyncCnt else g.resyncCnt
    grdCuts := if g.grdResync then 0 else g.grdCuts }

/-- A follower takes a valid reference: time, schedule position and mode (R53 to R55, R59, R387, R418, R433). -/
def State.followRef (s : State) (h : FrameHdr) (r : RefPayload) (stamp : Stamp) : State :=
  let g := s.wag
  let off := sdiff48 stamp (stampOf r.tRef + BitVec.ofNat 48 s.dropDelay)
  let s := ((s.guardianRef stamp).takeOffset off g.grdResync).followTb0 r
  let newPend := r.pend && !(g.pend && decide (g.nextMode = r.nextMode.val))
  let s := s.setWag { s.wag with
    cStart := tadd r.tRef (-Int.ofNat (r.guardNs + 1200 * r.depth.val)), cycle := r.cycle, mpos := r.mpos.val
    pend := r.pend, nextMode := r.nextMode.val, changeAt := r.changeAt, bcNs := r.bcNs.toNat, mlen := r.mlen
    guardNs := r.guardNs, depth := if g.activePort.isSome then r.depth.val + 1 else r.depth.val
    lastRef := some r, refSrc := h.src.val, refHops := h.hops.val, refThisCycle := true, refOk := true
    standbyWasLocked := g.standbyWasLocked || (decide (g.link = .standby) && s.time.tb1Lock) }
  let s := if g.lastRef.isNone then s.enterMode r.mode.val
    else if r.mode.val ≠ g.mode then s.changeMode r.mode.val r.cycle
    else s
  let s := if r.mpos.val = 0 then s.matrixStart else s
  let s := s.setWag { s.wag with joinDone := s.wag.joinDone || (s.time.tb1Lock && s.wag.hasMode s.wag.mode) }
  let s :=
    if s.wag.link = .follow && newPend && s.twinEn && s.wag.hasMode r.nextMode.val &&
        !s.leaseModeOk r.nextMode.val then s.raise 0x7B (BitVec.ofNat 64 r.nextMode.val)
    else s
  if s.wag.link = .follow && !s.wag.hasMode s.wag.mode && !s.wag.noSched.contains s.wag.mode then
    (s.setWag { s.wag with noSched := s.wag.noSched ++ [s.wag.mode] }).raise 0x65
      (BitVec.ofNat 64 (s.station + 5 * 2 ^ 16))
  else s

/-- A reference that a HIVE did not send is heard while it listens, backs off or runs (R413 to R415). -/
def State.foreignRef (s : State) (h : FrameHdr) (r : RefPayload) (stamp : Stamp) : State :=
  let theirs := r.rank.toNat
  let s := if s.isHive then s.setWag { s.wag with foreignCnt := satInc 0xFFFF s.wag.foreignCnt } else s
  if theirs < s.rank then (s.becomeStandby theirs).followRef h r stamp
  else if theirs = s.rank then s.stopEqual theirs
  else s

/-- A HIVE listens on its segment and on every trunk port whose ROLE is not OFF (R412). -/
def State.listensOn (s : State) : RxPort → Bool
  | .segment => s.segEn
  | .trunk0 => decide (s.trunkRole 0 ≠ 0)
  | .trunk1 => decide (s.trunkRole 1 ≠ 0)

/-- A reference arrives by a port through which this module takes references (R366). -/
def State.takesRef (s : State) (port : RxPort) : Bool :=
  match port, s.wag.activePort with
  | .segment, none => s.segEn
  | .segment, some _ => s.segEn && s.wag.headWdrn
  | .trunk0, some k => decide (k = 0) && !s.wag.headWdrn
  | .trunk1, some k => decide (k = 1) && !s.wag.headWdrn
  | _, none => false

/-- A valid reference arrives with its precise stamp (R387); echo: it is the module's own, read back (R389, R415). -/
def State.heardReference (s : State) (a : RefArrival) (ref : RefPayload) (stamp : Stamp) (echo : Bool) : State :=
  if echo then
    if s.isHive then
      let s := s.guardianRef stamp
      s.setWag { s.wag with collRun := 0, refThisCycle := true, refOk := true }
    else s
  else
    let otherHead : State :=
      if decide (a.port = .segment) && s.wag.activePort.isSome then
        s.setWag { s.wag with otherHead := some (a.hdr.src.val, 2) }
      else s
    match s.wag.link with
    | .listen => if s.listensOn a.port then s.foreignRef a.hdr ref stamp else s
    | .backoff => if s.listensOn a.port then s.foreignRef a.hdr ref stamp else s
    | .hive => if s.listensOn a.port then s.foreignRef a.hdr ref stamp else s
    | .follow => if s.takesRef a.port then s.followRef a.hdr ref stamp else otherHead
    | .standby => if s.takesRef a.port then s.followRef a.hdr ref stamp else otherHead
    | .off => s
    | .stopped => s

/-- REFERENCE_FRAME: a reference is judged (R376) and, where it is valid, taken (R387); with its lock the last condition of P3 may hold
(R519). -/
def execReferenceFrame (arrival : RefArrival) (ref : RefPayload) (stamp : Stamp) (echo : Bool) (s : State) :
    Host.Outcome State Fault Refusal :=
  if !s.linkRuns then .next s
  else
    let x := s.takeFrame arrival.hdr 1
    .next (if x.2 then (x.1.heardReference arrival ref stamp echo).judgePhase else x.1)

/-- REFERENCE_TIMEOUT: no valid reference for two consecutive basic cycles: TB1_LOCK clears, the guardian closes every
window, and a standby HIVE that has been locked runs the start (R54, R56, R389, R416). -/
def execReferenceTimeout (s : State) : Host.Outcome State Fault Refusal :=
  let g := s.wag
  match g.link with
  | .off => .next s
  | .stopped => .next s
  | .listen => .next s
  | .backoff => .next s
  | _ =>
    let s := s.setTime { s.time with goodRun := 0, badRun := 0 }
    let s := (s.setWag { g with grdClosed := true, refOk := false, refThisCycle := false, missedRefs := 2 }).setLock 1 false
    if g.link = .standby && g.standbyWasLocked then
      .next (s.setWag { s.wag with link := .listen, fromStandby := true, standbyWasLocked := false })
    else .next s

/-- HEAD_REFERENCE_COPY: a head that has a valid reference for this basic cycle sends its copy, 1 200 ns after the upper
head's, with its own T_REF and DEPTH one more, every other field unchanged (R382 to R384), under its own station number and with the
HOPS of the frame that it copies (R364, R393). DEDUCED (log 104): TB0_S and TB0_NS are
among these, though their own row and R52 give them as TB0 at T_REF; a receiver counts the hops (State.followTb0). -/
def execHeadReferenceCopy (s : State) : Host.Outcome State Fault Refusal :=
  match s.wag.lastRef, s.wag.activePort with
  | some r, some k =>
    if s.hears && s.roleActs && decide (s.station < 4095) && s.wag.refThisCycle && !s.wag.withdrawn && !s.wag.headWdrn &&
        !s.wag.grdClosed && !s.wag.grdResync && !s.pw.ejectGone && decide (s.wag.link = .follow) && decide (s.wag.refHops < 63) then
      let f := s.refFrame { r with tRef := tadd r.tRef 1200, depth := r.depth + 1 } s.wag.refHops
      .next ((s.emitOut (.waggle f false)).toTrunks (s.fwdPorts.filter (fun j => decide (j ≠ k))) f false)
    else .next s
  | _, _ => .next s

/-! ### Clashes (R367, R377, R378, R415) -/

/-- The backoff in µs of the nth consecutive collision, rounded down (R415). -/
def State.backoffUs (s : State) (n : Nat) : Nat :=
  let b := if n ≥ 2 then (tbit s.pw.serial ((n - 2) % 128)).toNat else 0
  (s.rank * 37000 + b * 18500) / 1000

/-- The HIVE's own reference has collided (R415, R56). -/
def State.collide (s : State) : State :=
  let n := s.wag.collRun + 1
  let s := s.leaveLink .backoff
  (s.setWag { s.wag with collRun := n, collCnt := satInc 0xFFFF s.wag.collCnt }).raise 0x69
    (BitVec.ofNat 64 (s.backoffUs n))

/-- Three clashes on an identifier within a matrix cycle suppress it (R378). -/
def State.countClash (s : State) (ident : Nat) : State :=
  let n := tget 0 s.wag.clashes ident + 1
  let s := s.setWag { s.wag with clashes := tput 0 n s.wag.clashes ident }
  if n ≥ 3 && !s.wag.suppressed.contains ident then
    (s.setWag { s.wag with suppressed := s.wag.suppressed ++ [ident] }).raise 0x6C (BitVec.ofNat 64 ident)
  else s

/-- A part whose answer or report has not got through has it still to send. -/
def State.unsendPart (s : State) (seq : Word) (report : Bool) : State :=
  match s.findPart seq with
  | some x =>
    if report then s.modPart seq (fun x => { x with st := .report })
    else
      let s := if x.st = .armed then s.unclaimActions seq else s
      s.modPart seq (fun x => { x with st := .answering })
  | none => s

/-- A frame that has been cut off has not been sent. -/
def State.unsend (s : State) (f : TxFrame) : State :=
  match f with
  | .data w mark =>
    let g := s.wag
    s.setWag { g with winMark := tput 0 mark g.winMark w, txSeq := tput 0 (tget 0 g.txSeq w - 1) g.txSeq w }
  | .relay seq _ fresh => s.modStep seq (fun e => { e with unsent := e.unsent + fresh.toNat })
  | .answers l => l.foldl (fun s q => s.unsendPart q false) s
  | .reports l => l.foldl (fun s q => s.unsendPart q true) s
  | .probe _ => s.setWag { s.wag with probeOut := none }
  | .probeResp i k t => s.setWag { s.wag with probeReplies := (i, k, t) :: s.wag.probeReplies }
  | _ => s

/-- ECHO_CHECK_FAIL: the sender of an identifier sees other data than its own and releases the bus. A HIVE's reference has
collided, a head's copy makes it withdraw, any other frame is not retried in its window (R367, R374, R377, R378,
R415). -/
def execEchoCheckFail (ident : BitVec 24) (s : State) : Host.Outcome State Fault Refusal :=
  let s := s.setWag { s.wag with clashCnt := satInc 0xFFFF s.wag.clashCnt }
  if fld ident 23 12 = 0xFFF then
    if s.isHive then .next s.collide
    else if s.wag.activePort.isSome then
      .next (s.setWag { s.wag with withdrawn := true, wdrnLeft := s.station })
    else .next s
  else
    let s := match s.wag.lastTx with
      | some (i, f) =>
        if i = ident.toNat then (s.setWag { s.wag with lastTx := none, doneNow := s.wag.doneNow ++ [f] }).unsend f else s
      | none => s
    .next (s.countClash ident.toNat)

/-- HEAD_WITHDRAWAL_END: the withdrawal has lasted its basic cycles. The head resumes if no other head's copy was received in
the last two of them; otherwise it stays withdrawn (R367). -/
def execHeadWithdrawalEnd (s : State) : Host.Outcome State Fault Refusal :=
  if !s.wag.withdrawn then .next s
  else match s.wag.otherHead with
    | none => .next (s.setWag { s.wag with withdrawn := false, wdrnLeft := 0 })
    | some (k, _) =>
      let s := s.setWag { s.wag with headWdrn := true, wdrnLeft := 0, activePort := none }
      .next (((s.judgeTrunk 0).judgeTrunk 1).raise 0x6F (BitVec.ofNat 64 k))

/-- HEAD_WDRN_CLEAR: a write of 1 to HEAD_WDRN lets the head resume (R367). -/
def execHeadWdrnClear (s : State) : Host.Outcome State Fault Refusal :=
  if !s.hostUp then .next s else
  if s.wag.headWdrn then
    let s := s.setWag { s.wag with headWdrn := false, withdrawn := false }
    .next s.markPorts
  else .next s

/-- CLASH_CLR: a write of WAG_CLASH.CLR lifts every suppression (R378). -/
def execClashClr (s : State) : Host.Outcome State Fault Refusal :=
  if !s.hostUp then .next s else
  .next (s.setWag { s.wag with suppressed := [], clashes := [] })

/-- The guardian's time since the segment's cycle start, in ns: the SOF of the last valid reference less δ less GUARD_NS (R388). -/
def State.grdNow (s : State) : Int :=
  Int.ofNat s.time.t2 - Int.ofNat s.wag.grdSof + Int.ofNat (s.dropDelay / 256 + s.wag.guardNs)

/-- Edges WS and WE of window w on this segment, from its cycle start, by the guardian's own copy of the schedule (R388, R403,
R404). -/
def State.grdEdges (s : State) (w : Nat) : Nat × Nat :=
  let g := s.wag
  let e := tget 0 g.grdSched (256 * g.mode + w)
  if w = 0 then (0, frameTime g.guardNs 40)
  else
    let shift := if wType e = 3 then 0 else 1200 * segShift g.segTab (g.segmentOf (wOrigin e)) (g.segmentOf s.station)
    (wStart e + shift, wStart e + shift + wLen e)

/-- This module sends or forwards in window w: its role's windows while it acts, its lease window whatever the lease (R388, R392,
R440). -/
def State.grdServes (s : State) (w : Nat) : Bool :=
  let e := tget 0 s.wag.grdSched (256 * s.wag.mode + w)
  if w = 0 then s.isHead
  else wPresent e s.wag.mpos &&
    ((decide (wType e ≠ 3) && !s.fwdPorts.isEmpty) ||
      (s.roleActs && (decide (wType e = 3) || wOpen e s.station || (decide (wType e = 1) && decide (wOrigin e = s.station)))) ||
      (s.twinEn && decide (wType e = 1) && decide (wOrigin e = s.leaseStn)))

/-- The guardian enables the driver now for window w: from WS + 250 ns to WE − 250 ns of a window that it has open (R388 to R391). -/
def State.grdEnables (s : State) (w : Nat) : Bool :=
  s.grdServes w && !s.wag.grdClosed && !s.wag.grdResync &&
    decide (Int.ofNat ((s.grdEdges w).1 + 250) ≤ s.grdNow) && decide (s.grdNow < Int.ofNat (s.grdEdges w).2 - 250)

/-- GUARDIAN_CUT: the module drives in a window outside the interval that the guardian enables; after two cuts in a matrix cycle it
sends nothing until the next valid reference (R390, R391). -/
def execGuardianCut (win : Fin 256) (s : State) : Host.Outcome State Fault Refusal :=
  let g := s.wag
  if s.grdEnables win.val then .next s else
  let n := g.grdCuts + 1
  let r := tget {} g.winRx win.val
  .next ((s.setWag { g with
    cutCnt := satInc 0xFFFF g.cutCnt, grdCuts := n, grdResync := g.grdResync || decide (n ≥ 2)
    winRx := tput {} { r with cut := true } g.winRx win.val }).raise 0x6B (BitVec.ofNat 64 win.val))

end Sys2Proof.Machine
end

