-- ==== Sys2Proof/Machine/WagMatrix.lean ====
section
/-! DEFINITION. The Waggle matrix at work (R393 to R401, R406 to R409, R418 to R428, R438): tables, windows, the frames a
module sends and takes, joining and leaving, station quality. -/

namespace Sys2Proof.Machine

/-! ### Tables (R406 to R409) -/

/-- A schedule header is in range (R407). -/
def headerInRange (e : BitVec 256) : Bool :=
  decide (31250 ≤ shBc e) && decide (shBc e ≤ 8000000) && decide (shBc e % 250 = 0) && decide (1 ≤ shMlen e) &&
    decide (shMlen e ≤ 64) && decide (shShift e ≤ 126) && decide (fld e 63 56 = 0) && decide (fld e 255 96 = 0)

/-- A window entry is in range (R407); of an unused one only the unnamed bits are judged. -/
def windowInRange (mlen : Nat) (e : BitVec 256) : Bool :=
  decide (fld e 23 23 = 0) && decide (fld e 47 47 = 0) && decide (fld e 55 52 = 0) && decide (fld e 79 72 = 0) &&
    decide (fld e 95 92 = 0) && decide (fld e 111 108 = 0) && decide (fld e 127 124 = 0) && decide (fld e 255 160 = 0) &&
    (decide (wType e = 0) ||
      (decide (1 ≤ wRep e) && decide (wRep e ≤ 64) && decide (mlen % wRep e = 0) && decide (wBase e < wRep e) &&
        (!wSafety e || decide (wType e = 1)) && decide (wFirst e ≤ 4095) && decide (wWords e ≤ 4096) &&
        decide (wFirst e + wWords e ≤ 4096) && (decide (wType e ≠ 2) || decide (wWords e ≤ 102)) &&
        (decide (wType e ≠ 3) || decide (wWords e = 0))))

/-- The bytes of a schedule with the CRC field zero. -/
def schedBytes (t : Sparse (BitVec 256)) (m : Nat) : List Byte :=
  (List.range 256).flatMap (fun w =>
    let e := tget 0 t (256 * m + w)
    leBytes 32 (if w = 0 then putFld e 95 64 0 else e).toNat)

/-- The first entry of a schedule that breaks R407; 0 stands for the header and the CRC. -/
def schedOffence (t : Sparse (BitVec 256)) (m : Nat) : Option Nat :=
  let h := tget 0 t (256 * m)
  if !headerInRange h || decide (crc32c (schedBytes t m) ≠ fld h 95 64) then some 0
  else (List.range 255).findSome? (fun i =>
    let e := tget 0 t (256 * m + i + 1)
    if (if i + 1 ≤ shNwin h then windowInRange (shMlen h) e else decide (e = 0)) then none else some (i + 1))

/-- Mode m is active or announced here (R409). -/
def State.modeInUse (s : State) (m : Nat) : Bool :=
  let g := s.wag
  (decide (g.link = .hive) || (g.lastRef.isSome && (decide (g.link = .follow) || decide (g.link = .standby)))) &&
    (decide (m = g.mode) || (g.pend && decide (m = g.nextMode)))

/-- The effect of SCHEDULE_LOAD: table 0x010 + m of WAG (R407, R409). -/
def doScheduleLoad (p : Pair) (s : State) : Host.Outcome State Fault Refusal :=
  match s.takeOp p.val 1 1 with
  | none => .next s
  | some e =>
    if e.tblBlock ≠ 10 || e.tblNum < 16 || e.tblNum > 23 then .next s
    else
      let m := e.tblNum - 16
      let t := tload (fun _ => 0) s.wag.sched (withIndex (256 * m + e.first) e.words256)
      if s.modeInUse m then .next (s.finish p.val e.sub 0x61 (BitVec.ofNat 64 m))
      else match schedOffence t m with
        | some w => .next (s.finish p.val e.sub 0x60 (BitVec.ofNat 64 (m + w * 256)))
        | none =>
          let s := s.setWag { s.wag with
            sched := t, grdSched := t, validModes := putBit s.wag.validModes m true, noSched := s.wag.noSched.filter (· ≠ m) }
          .next (s.finish p.val e.sub 0 (BitVec.ofNat 64 e.count))

/-- The effect of RECEIVE_MAP_LOAD: table 0x001 of WAG (R408). -/
def doReceiveMapLoad (p : Pair) (s : State) : Host.Outcome State Fault Refusal :=
  match s.takeLoad p 10 1 with
  | none => .next s
  | some e =>
    let l := withIndex e.first e.words64
    if l.any (fun x => decide (fld x.2 63 25 ≠ 0)) then .next (s.finish p.val e.sub 0x02 0)
    else .next ((s.setWag { s.wag with rxMap := tload (fun _ => 0) s.wag.rxMap l }).finish p.val e.sub 0
      (BitVec.ofNat 64 e.count))

/-- The effect of STATION_TABLE_LOAD: table 0x002 of WAG (R408). -/
def doStationTableLoad (p : Pair) (s : State) : Host.Outcome State Fault Refusal :=
  match s.takeLoad p 10 2 with
  | none => .next s
  | some e =>
    let l := withIndex e.first e.words64
    if l.any (fun x => decide (fld x.2 7 6 ≠ 0) || decide (fld x.2 9 8 = 3) || decide (fld x.2 63 11 ≠ 0)) then
      .next (s.finish p.val e.sub 0x02 0)
    else .next ((s.setWag { s.wag with stnTab := tload (fun _ => 0) s.wag.stnTab l }).finish p.val e.sub 0
      (BitVec.ofNat 64 e.count))

/-- The first used segment on a cycle or under an unused parent (R408). -/
def segOffence (t : Sparse (BitVec 64)) : Option Nat :=
  (List.range 64).find? (fun b =>
    segUsed t b && decide (b ≠ 0) && !(segUsed t (segParent t b) && (segPath t 64 b).isSome))

/-- The effect of SEGMENT_TABLE_LOAD: table 0x003 of WAG (R408). -/
def doSegmentTableLoad (p : Pair) (s : State) : Host.Outcome State Fault Refusal :=
  match s.takeLoad p 10 3 with
  | none => .next s
  | some e =>
    let l := withIndex e.first e.words64
    let t := tload (fun _ => 0) s.wag.segTab l
    if l.any (fun x => decide (fld x.2 7 6 ≠ 0) || decide (fld x.2 63 9 ≠ 0)) then .next (s.finish p.val e.sub 0x02 0)
    else match segOffence t with
      | some b => .next (s.finish p.val e.sub 0x60 (BitVec.ofNat 64 (b * 256)))
      | none => .next ((s.setWag { s.wag with segTab := t }).finish p.val e.sub 0 (BitVec.ofNat 64 e.count))

/-- The code of a window outcome (R438). -/
def outcomeCode : WinOutcome → Nat
  | .none => 0 | .good => 1 | .empty => 2 | .invalid => 3

/-- The station status entry of station k (R438). -/
def State.stationStatus (s : State) (k : Nat) : BitVec 64 :=
  let r := s.wag.stn k
  BitVec.ofNat 64 ((!r.stale).toNat + 2 * r.joined.toNat + 4 * r.discord.toNat + 8 * outcomeCode r.last +
    256 * min 255 r.goodRun)

/-- STATION_STAT: parameter 0x002 of WAG (R438). -/
def execStationStat (p : Pair) (s : State) : Host.Outcome State Fault Refusal :=
  match s.takeParam p 2 10 2 with
  | none => .next s
  | some e =>
    if e.value ≥ 4096 then .next (s.finish p.val e.sub 0x02 0)
    else .next (s.finish p.val e.sub 0 (s.stationStatus e.value))

/-! ### Taking frames (R376, R393 to R395) -/

/-- The words of transmit word order: those of the map that a frame with n words from T = first brings. -/
def State.storeWords (s : State) (src first : Nat) (words : List Val40) : State :=
  let now := s.time.tb1.ns
  let hit := s.wag.rxMap.filter (fun x => tbit x.2 24 && decide (fld x.2 11 0 = src) && decide (first ≤ fld x.2 23 12) &&
    decide (fld x.2 23 12 < first + words.length))
  s.setWag { s.wag with rxWords := hit.foldl (fun t x =>
    tput {} { val := words.getD (fld x.2 23 12 - first) 0, stamp := now, got := true } t x.1) s.wag.rxWords }

/-- The 5-byte words of a DATA payload, at least 8 bytes (R395). -/
def dataBytes (words : List Val40) : List Byte :=
  let b := words.flatMap (fun w => leBytes 5 w.toNat)
  padTo (max 8 b.length) b

/-- SEQ is judged and noted: a gap counts, but for the first frame since the mode change (R424). -/
def State.judgeSeq (s : State) (h : FrameHdr) : State :=
  let key := 256 * h.src.val + h.win.val
  let old := tget 0 s.wag.rxSeq key
  let gap := decide (old ≠ 0) && decide (h.seq.toNat ≠ old % 256)
  s.setWag { s.wag with
    rxSeq := tput 0 (h.seq.toNat + 1) s.wag.rxSeq key
    seqGap := if gap then satInc 0xFFFFFFFF s.wag.seqGap else s.wag.seqGap }

/-- The kinds that an EXCLUSIVE window calls for, in order (R422). -/
def wExpected (e : BitVec 256) : List (BitVec 8) :=
  (if wSafety e then [3] else []) ++ (if wStatus e then [4] else []) ++ (dataFrames (wWords e)).map (fun _ => 2)

/-- The frame of a header with its payload. -/
def hdrFrame (h : FrameHdr) (prio : Nat) (payload : List Byte) : WagFrame :=
  { ident := prio * 4096 + h.src.val, kind := h.kind, src := h.src.val, dst := h.dst.val, hops := h.hops.val, win := h.win.val
    seq := h.seq, payload := payload }

/-- DATA_FRAME: a DATA frame is handed over: the words that the receive map names change together (R376, R395, R424). The place of its
SOF in an EXCLUSIVE window says which of the window's words it brings (R375, R422). -/
def execDataFrame (h : FrameHdr) (words : List Val40) (s : State) : Host.Outcome State Fault Refusal :=
  if !s.takesFrames then .next s
  else
    let g := s.wag
    let e := g.window h.win.val
    let before := (tget {} g.winRx h.win.val : WinRx).kinds
    let place := h.place - (wSafety e).toNat - (wStatus e).toNat
    let first := wFirst e + (if wType e = 1 then 102 * place else 0)
    let fits := decide (max 8 (5 * words.length) = h.len) && decide (first + words.length ≤ wFirst e + wWords e) &&
      (decide (wType e ≠ 1) || decide ((wExpected e)[h.place]? = some 2))
    let h := if fits then h else { h with inWindow := false }
    let x := s.takeFrame h 2
    if !x.2 then .next x.1
    else
      let s := if wType e = 1 && before.contains 2 then x.1 else x.1.judgeSeq h
      let crc := frameCrc (hdrFrame h (wPrio e) (dataBytes words))
      if s.replays then
        let x : OwnFrame :=
          { win := h.win.val, src := h.src.val, seq := h.seq.toNat, crc := crc, first := first, words := words }
        .next { s with twn := { s.twn with
          ownFrames := (s.twn.ownFrames ++ [x]).drop (s.twn.ownFrames.length - 255) } }
      else
        let s := s.snapOut ([0x03] ++ leBytes 1 h.win.val ++ leBytes 2 h.src.val ++ [h.seq] ++ leBytes 4 crc ++
          leBytes 5 s.time.tb1.ns.toNat)
        .next (s.storeWords h.src.val first words)

/-! ### STATUS (R396, R418 to R420, R430, R431) -/

/-- The check that station k's join fails (R419). -/
def State.joinFault (s : State) (k : Nat) (x : StatusPayload) : Option Nat :=
  if !s.wag.listed k then some 2
  else if x.depth ≠ segDepth s.wag.segTab (s.wag.segmentOf k) then some 3
  else if x.role.val ≠ 0 && x.role.val ≠ 3 then some 4
  else none

/-- Station k asks to be joined (R419). -/
def State.joinStation (s : State) (k hops : Nat) (x : StatusPayload) : State :=
  match s.joinFault k x with
  | some c =>
    if (s.wag.stn k).refused then s
    else
      let s := s.modStn k (fun r => { r with refused := true })
      if s.isHive then s.raise 0x65 (BitVec.ofNat 64 (k + c * 2 ^ 16)) else s
  | none =>
    let s := s.modStn k (fun r => { r with joined := true, hops := hops, twinned := x.twinned, badMc := 0 })
    let s := if s.isHive then s.raise 0x66 (BitVec.ofNat 64 (k + 4096)) else s
    s.recomputeRelay

/-- The HIVE, and the partner in a HIVE twin, take a station's STATUS (R419, R420, R431). -/
def State.takeStatus (s : State) (k hops : Nat) (x : StatusPayload) : State :=
  let s := match s.wag.modeReq with
    | some q =>
      if q.announced && x.ackValid && decide (x.ackMode.val = q.mode) && !q.acked.contains k then
        s.setWag { s.wag with modeReq := some { q with acked := q.acked ++ [k] } }
      else s
    | none => s
  let r := s.wag.stn k
  if r.joined then
    if x.eject then (s.leaveStation k).stationRemoved k
    else if r.twinned ≠ x.twinned || r.hops ≠ hops then
      (s.modStn k (fun r => { r with twinned := x.twinned, hops := hops })).recomputeRelay
    else s
  else if x.tb1Lock && !x.joinReq && !x.eject then s.joinStation k hops x
  else s

/-- STATUS_FRAME: a station's STATUS is handed over (R376, R396, R419, R420, R431). -/
def execStatusFrame (h : FrameHdr) (x : StatusPayload) (s : State) : Host.Outcome State Fault Refusal :=
  if !s.takesFrames then .next s
  else
    let y := s.takeFrame h 4
    if !y.2 then .next y.1
    else
      let s := y.1
      if (s.isHive || (decide (s.role = 1) && s.twinEn)) && decide (h.src.val ≠ s.station) then
        .next (s.takeStatus h.src.val h.hops.val x)
      else .next s

/-- The STATUS payload of this module (R396). -/
def State.statusBytes (s : State) : List Byte :=
  let g := s.wag
  let role := if s.isHive then 1 else if g.link = .standby then 2 else s.role
  let ack := !s.isHive && g.pend && s.acksMode g.nextMode
  let b2 := role + 8 * s.twinEn.toNat + 16 * (decide (s.twn.st = .holder)).toNat + 32 * s.pw.variantL.toNat +
    64 * s.time.tb1Lock.toNat + 128 * s.pw.frefFb.toNat
  let cyc := match g.lastRef with | some r => r.cycle.toNat | none => 0
  leBytes 2 s.station ++ leBytes 1 b2 ++ leBytes 1 g.depth ++ leBytes 1 (if ack then g.nextMode + 8 else 0) ++
    leBytes 1 ((!s.dataOk).toNat + 2 * s.pw.eject.toNat) ++ leBytes 2 s.partCount ++ leBytes 4 s.dropDelay ++
    leBytes 4 cyc ++ leBytes 4 (BitVec.ofInt 32 s.time.tb1Offs).toNat ++ List.replicate 12 0

/-! ### Sending in EXCLUSIVE windows (R375, R418, R421, R422) -/

/-- WINDOW_SWAP: the window's transmit words are copied into its bank (R421); whether one of them has been written since the window's
last DATA frame is judged with that (R423). -/
def execWindowSwap (win : Fin 256) (s : State) : Host.Outcome State Fault Refusal :=
  let g := s.wag
  let e := g.window win.val
  let mine := (decide (wType e = 1) && (decide (wOrigin e = s.station) || (s.twinEn && decide (wOrigin e = s.leaseStn)))) ||
    wOpen e s.station
  if win.val = 0 || !mine || !g.hasMode g.mode then .next s
  else
    let words := (List.range (wWords e)).map (fun i => tget 0 g.txWords (wFirst e + i))
    let fresh := (List.range (wWords e)).any (fun i => decide (tget 0 g.txMark (wFirst e + i) > tget 0 g.winMark win.val))
    .next (s.setWag { g with
      banks := tput [] words g.banks win.val, swapMark := tput 0 g.txWrites g.swapMark win.val
      swapDirty := tput false fresh g.swapDirty win.val })

/-- The words that the window's bank holds; a bank that no swap has filled holds zeros. -/
def WagState.bank (g : WagState) (w : Nat) : List Val40 :=
  let l : List Val40 := tget [] g.banks w
  l ++ List.replicate (wWords (g.window w) - l.length) 0

/-- The DATA frames of window w with a station's number, each as far as its occupancy ends in the window; gives the time
used (R375, R422). -/
def State.sendData (s : State) (w stn used : Nat) : State :=
  let g := s.wag
  let e := g.window w
  let seq := tget 0 g.txSeq w + 1
  let suppressed := g.suppressed.contains (wPrio e * 4096 + stn)
  if wWords e = 0 || suppressed then s
  else
    let s := s.setWag { g with txSeq := tput 0 seq g.txSeq w }
    let frames := (List.range ((wWords e + 101) / 102)).map (fun i => ((g.bank w).drop (102 * i)).take 102)
    (frames.foldl (fun (x : State × Nat) ws =>
      let t := x.2 + frameTime g.guardNs (max 8 (5 * ws.length))
      if t ≤ wLen e then (x.1.sendFrame (ownFrame (wPrio e) 2 stn (wDst e) w seq (dataBytes ws)), t) else (x.1, t)) (s, used)).1

/-- EXCLUSIVE_WINDOW_START: the window's sender transmits SAFETY if flagged, as Guard has composed it for this occurrence, STATUS if
flagged and its DATA, each as far as its occupancy ends in the window (R375, R418, R422, R485). A twin member sends in its lease
window whatever the lease (R440). -/
def execExclusiveWindowStart (win : Fin 256) (s : State) : Host.Outcome State Fault Refusal :=
  let g := s.wag
  let w := win.val
  let e := g.window w
  if w = 0 || wType e ≠ 1 || !wPresent e g.mpos then .next s
  else if wOrigin e = s.station && s.canSend then
    let safe := if wSafety e then frameTime g.guardNs 32 else 0
    let used := safe + (if wStatus e then frameTime g.guardNs 32 else 0)
    let b := tget [] g.safOut w
    let s := s.setWag { g with safOut := tput [] [] g.safOut w, lastTx := none }
    let sf := wSafety e && !b.isEmpty && s.dataOk && decide (safe ≤ wLen e) && !g.suppressed.contains (0xF00 * 4096 + s.station)
    let s := if sf then s.sendFrame (ownFrame 0xF00 3 s.station 4095 w 0 b) else s
    let st := wStatus e && decide (used ≤ wLen e) && !g.suppressed.contains (0xC00 * 4096 + s.station)
    let s := if st then s.sendFrame (ownFrame 0xC00 4 s.station 4095 w 0 s.statusBytes) else s
    .next (if s.dataOk then s.sendData w s.station used else s)
  else if wOrigin e = s.leaseStn && s.canSendLease then
    let s := s.setWag { g with lastTx := none }
    .next (if s.dataOk then s.sendData w s.leaseStn 0 else s)
  else .next s

/-! ### Slots of ARBITRATING and FREE windows (R135, R136, R139, R141, R375, R386, R423) -/

/-- A relay frame that this window still lets out (R131, R135, R137): unsent ones of steps by INSTANT, those accepted below
their lead after the others, then re-sends, each once per window. -/
def State.nextRelay (s : State) : Option TxFrame :=
  let now := s.time.tb1.ns
  let by_ (l : List StepEntry) := sortBy (fun (a b : StepEntry) => decide (sdiff a.instant now ≤ sdiff b.instant now)) l
  let live := s.stp.steps.filter (fun e => e.relaying)
  let cut (q : Word) (i : Nat) : Bool :=
    s.wag.doneNow.any (fun f => match f with | .relay a b _ => decide (a = q) && decide (b = i) | _ => false)
  let fresh (l : List StepEntry) : Option TxFrame :=
    (by_ l).findSome? (fun e =>
      let i := e.nf - e.unsent
      if e.unsent > 0 && !cut e.seq i then some (.relay e.seq i true) else none)
  let again : Option TxFrame := (by_ live).findSome? (fun e =>
    ((List.range (e.nf - e.unsent)).find? (fun i => !s.stp.sentNow.contains (e.seq, i) && !cut e.seq i)).map
      (fun i => .relay e.seq i false))
  ((fresh (live.filter (fun e => e.counted))).or (fresh (live.filter (fun e => !e.counted)))).or again

/-- STEP_CTRL entries that the present window has not carried, at most 64 (R139, R150, R400). DESIGN CHOICE (log 117), unsafe: with more
open than the one kept slot of a window carries (R411), the windows carry the oldest 64, and the others as those close. -/
def State.nextCtrl (s : State) : List (CtrlOp × Word) :=
  let own := s.stp.steps.filterMap (fun e =>
    match e.ctrl with
    | some op => if e.ctrlOpen then some (op, e.seq) else none
    | none => none)
  let tail := s.stp.tail.map (fun x => (x.1, x.2.1))
  ((own ++ tail).filter (fun x => !s.stp.ctrlNow.contains x.2)).take 64

/-- Parts whose answer waits, at most 64 (R136, R400). -/
def State.nextAnswers (s : State) : List Word :=
  let cut : List Word := s.wag.doneNow.flatMap (fun f => match f with | .answers l => l | _ => [])
  (((s.stp.parts.filter (fun x => decide (x.st = .answering))).map (·.seq)).filter (fun q => !cut.contains q)).take 64

/-- Parts whose report waits, as many as a frame of 512 bytes holds (R148, R401). -/
def State.nextReports (s : State) : List Word :=
  let cut : List Word := s.wag.doneNow.flatMap (fun f => match f with | .reports l => l | _ => [])
  let l := s.stp.parts.filter (fun x => decide (x.st = .report) && !cut.contains x.seq)
  (l.foldl (fun (a : List Word × Nat) x =>
    let n := 8 + (x.status.length + 7) / 8 * 8
    if a.2 + n ≤ 512 then (a.1 ++ [x.seq], a.2 + n) else (a.1, 512)) ([], 0)).1

/-- The last swap of the window found a word written since its last DATA frame (R423). -/
def WagState.dirty (g : WagState) (w : Nat) : Bool := tget false g.swapDirty w

/-- A kind of frame that the present window has carried once already. -/
def doneKind (l : List TxFrame) (status : Bool) : Bool :=
  l.any (fun f => match f with | .status => status | .data _ _ => !status | _ => false)

/-- A HIVE that is not twinned and has had its eject notice sends nothing further of its steps (R155). -/
def State.hiveLeaves (s : State) : Bool := s.pw.eject && decide (s.twn.st ≠ .holder)

/-- What this module offers in a slot of an ARBITRATING window, with its PRIO (R394): STEP_CTRL in the slot kept for it, so that it
takes no share of Q (R141, R411). -/
def State.offers (s : State) (w slot : Nat) : List (Nat × TxFrame) :=
  let g := s.wag
  let e := g.window w
  let kept := decide (slot = 0) && wOpen e 0
  let ctrl := s.nextCtrl
  let hive := if ctrl.isEmpty || s.hiveLeaves then [] else [(0xE80, TxFrame.ctrl ctrl)]
  let relay := match s.nextRelay with | some f => if s.hiveLeaves then [] else [(0xE00, f)] | none => []
  let ans := s.nextAnswers
  let rep := s.nextReports
  let stn := (if ans.isEmpty then [] else [(0xD80, TxFrame.answers ans)]) ++
    (if rep.isEmpty then [] else [(0xD00, TxFrame.reports rep)])
  let status := if wStatus e && s.dataOk && !doneKind g.doneNow true then [(0xC00, TxFrame.status)] else []
  let data := if s.dataOk && g.dirty w && !doneKind g.doneNow false then
      [(wPrio e, TxFrame.data w (tget 0 g.winMark w))] else []
  if kept then (if s.isHive then hive else [])
  else (if s.isHive then relay else stn) ++ status ++ data

/-- What it offers in a FREE window: an answer to a probe, or a probe (R386). -/
def State.freeOffers (s : State) : List (Nat × TxFrame) :=
  let g := s.wag
  match g.probeReplies with
  | (i, k, t) :: _ => if s.isHead then [(0x100, .probeResp i k t)] else []
  | [] =>
    if !s.isHead && g.lastRef.isSome && g.probeOut.isNone && (decide (g.probes.length < 8) || decide (g.probeMc ≥ 64)) then
      [(0x100, .probe (g.probeId + 1))]
    else []

/-- The offer with the highest identifier that is not suppressed (R372, R378). -/
def bestOffer (suppressed : List Nat) (stn : Nat) : List (Nat × TxFrame) → Option (Nat × TxFrame)
  | [] => none
  | x :: r =>
    let ident := x.1 * 4096 + stn
    if suppressed.contains ident then bestOffer suppressed stn r
    else match bestOffer suppressed stn r with
      | some y => if y.1 > ident then some y else some (ident, x.2)
      | none => some (ident, x.2)

/-- OP of an entry (R400). -/
def ctrlCode : CtrlOp → Nat
  | .commit => 1 | .abort => 2 | .cancel => 3

/-- The entries of a STEP_CTRL payload (R400). -/
def ctrlBytes (l : List (CtrlOp × Word)) : List Byte := l.flatMap (fun x => leBytes 4 (ctrlCode x.1) ++ leBytes 4 x.2.toNat)

/-- An entry of a STEP_ANSWER payload (R400). -/
def answerBytes (a : Answer) (seq : Word) : List Byte :=
  (match a with
    | .ready n => [1, 0] ++ leBytes 2 n
    | .refused reason i => [2, BitVec.ofNat 8 reason] ++ leBytes 2 i
    | .full => [3, 0, 0, 0]) ++ leBytes 4 seq.toNat

/-- A report of a STEP_REPORT payload (R401). -/
def reportBytes (r : StepReport) : List Byte :=
  leBytes 4 r.seq.toNat ++ leBytes 2 r.status.length ++ leBytes 1 r.removed.toNat ++ [0] ++
    padTo ((r.status.length + 7) / 8 * 8) r.status

/-- The 16 bytes of an action entry (R124). -/
def actionBytes (a : Action) : List Byte :=
  [a.kind, a.kind1] ++ leBytes 2 a.station.toNat ++ leBytes 4 a.target.toNat ++ leBytes 8 a.value.toNat

/-- A STEP_RELAY payload (R399). -/
def relayBytes (f : RelayFrame) : List Byte :=
  leBytes 4 f.seq.toNat ++ leBytes 5 f.instant.toNat ++ [f.flags] ++ leBytes 1 f.index ++ leBytes 1 f.nf ++
    leBytes 1 f.actions.length ++ List.replicate 11 0 ++ f.actions.flatMap actionBytes

/-- A frame that has won its slot is sent. -/
def State.sendSlot (s : State) (w : Nat) (f : TxFrame) : State :=
  let g := s.wag
  let e := g.window w
  let own (prio kind dst : Nat) (seq : BitVec 8) (b : List Byte) : WagFrame := ownFrame prio kind s.station dst w seq b
  match f with
  | .status =>
    (s.setWag { g with doneNow := g.doneNow ++ [f] }).sendFrame (own 0xC00 4 4095 0 s.statusBytes)
  | .data _ _ =>
    let seq := tget 0 g.txSeq w + 1
    let s := s.setWag { g with
      txSeq := tput 0 seq g.txSeq w, winMark := tput 0 (tget 0 g.swapMark w) g.winMark w, doneNow := g.doneNow ++ [f] }
    s.sendFrame (own (wPrio e) 2 4095 seq (dataBytes ((g.bank w).take (wWords e))))
  | .relay seq i fresh =>
    match s.findStep seq with
    | none => s
    | some k =>
      let s := s.modStep seq (fun k => { k with unsent := k.unsent - fresh.toNat })
      let s : State := { s with stp := { s.stp with sentNow := s.stp.sentNow ++ [(seq, i)] } }
      s.sendFrame (own 0xE00 0x10 4095 0 (relayBytes (k.frame i)))
  | .ctrl l =>
    let s : State := { s with stp := { s.stp with ctrlNow := s.stp.ctrlNow ++ l.map (·.2) } }
    let s := l.foldl (fun s x => if x.1 = .commit then s.modStep x.2 (fun k => { k with commitSent := true }) else s) s
    s.sendFrame (own 0xE80 0x11 4095 0 (ctrlBytes l))
  | .answers l =>
    let ps := l.filterMap s.findPart
    (ps.foldl State.answerSent s).sendFrame (own 0xD80 0x12 0 0 (ps.flatMap (fun x => answerBytes x.answer x.seq)))
  | .reports l =>
    let ps := l.filterMap s.findPart
    let s := s.setWag { g with doneNow := g.doneNow ++ [f] }
    let s := ps.foldl (fun s x => s.modPart x.seq (fun x => if x.removed then x else { x with st := .done })) s
    s.sendFrame (own 0xD00 0x13 0 0
      (ps.flatMap (fun x => reportBytes { seq := x.seq, removed := x.removed, status := x.status })))
  | .probe i =>
    (s.setWag { g with probeOut := some i, probeId := i }).emitOut
      (.waggle (own 0x100 5 g.refSrc 0 (leBytes 4 i.toNat ++ leBytes 4 0)) false)
  | .probeResp i k t =>
    let turn := stampOf (tadd s.time.tb1.ns (Int.ofNat g.guardNs)) - t
    (s.setWag { g with probeReplies := g.probeReplies.drop 1 }).emitOut
      (.waggle (own 0x100 6 k 0 (leBytes 4 i.toNat ++ leBytes 2 k ++ leBytes 2 0 ++ leBytes 8 turn.toNat)) false)

/-- WINDOW_SLOT_START: an arbitration round: the frame with this module's highest identifier contends with the highest
identifier of another contender, rival; the numerically highest wins, equal ones both (R371, R372, R375). The first slot
of a window open to station 0 is kept for STEP_CTRL (R141). -/
def execWindowSlotStart (win : Fin 256) (slot : Nat) (rival : Option (BitVec 24)) (s : State) :
    Host.Outcome State Fault Refusal :=
  let g := s.wag
  let w := win.val
  let e := g.window w
  let free := decide (wType e = 3)
  let present := decide (w ≠ 0) && wPresent e g.mpos && (decide (wType e = 2) || free) &&
    decide (slot < wSlots g.guardNs e)
  if !present then .next s
  else
    let s : State := if slot = 0 then
        { s.setWag { g with doneNow := [], lastTx := none } with stp := { s.stp with sentNow := [], ctrlNow := [] } }
      else s
    if !s.canSend || !(free || wOpen e s.station) then .next s
    else match bestOffer g.suppressed s.station (if free then s.freeOffers else s.offers w slot) with
      | none => .next s
      | some (ident, f) =>
        let lost := match rival with
          | some r => decide (r.toNat > ident)
          | none => false
        if lost then .next (s.setWag { s.wag with arbLost := satInc 0xFFFFFFFF s.wag.arbLost })
        else
          let s := s.sendSlot w f
          .next (s.setWag { s.wag with lastTx := some (ident, f) })

/-- PROBE: a head takes a probe, to answer it in a later FREE window (R386, R397). -/
def execProbe (h : FrameHdr) (ident : Word) (stamp : Stamp) (s : State) : Host.Outcome State Fault Refusal :=
  if !s.takesFrames then .next s
  else
    let x := s.takeFrame h 5
    if x.2 && x.1.isHead && decide (h.dst.val = x.1.station) then
      .next (x.1.setWag { x.1.wag with probeReplies := x.1.wag.probeReplies ++ [(ident, h.src.val, stamp)] })
    else .next x.1

/-- PROBE_RESP: a prober takes the answer to its probe: δ is half of the round trip less the turnaround, over the last
eight (R386, R397). -/
def execProbeResp (h : FrameHdr) (ident : Word) (prober : Fin 4096) (turnaround : Stamp) (roundTrip : Stamp) (s : State) :
    Host.Outcome State Fault Refusal :=
  if !s.takesFrames then .next s
  else
    let x := s.takeFrame h 6
    let s := x.1
    if x.2 && decide (prober.val = s.station) && decide (s.wag.probeOut = some ident) then
      let l := ((sdiff48 roundTrip turnaround / 2) :: s.wag.probes).take 8
      .next (s.setWag { s.wag with
        probes := l, probeOut := none, probeMc := 0
        dropDly := ((l.foldl (· + ·) 0) / Int.ofNat l.length).toNat % 2 ^ 23 })
    else .next s

/-! ### Window outcomes and station quality (R420, R425 to R427) -/

/-- The outcome of the occurrence (R425). -/
def judgeWindow (e : BitVec 256) (r : WinRx) (sof : Bool) : WinOutcome :=
  if !r.bad && !r.cut && decide (r.kinds = wExpected e) then .good
  else if !sof && r.kinds.isEmpty && !r.cut then .empty
  else .invalid

/-- 0x67, at most once per station and direction per second of TB2 (R427). -/
def State.qualityEvent (s : State) (k : Nat) (stale : Bool) : State :=
  let r := s.wag.stn k
  if s.rbit 0xA000 0 && s.evtDue 1000000000 (if stale then r.staleEvt else r.freshEvt) then
    (s.modStn k (fun r =>
      if stale then { r with staleEvt := some s.time.t2 } else { r with freshEvt := some s.time.t2 })).raise 0x67
      (BitVec.ofNat 64 (k + stale.toNat * 4096))
  else s

/-- Station k's quality after an outcome: STALE at the first bad window, FRESH after two good ones (R427). -/
def State.judgeStation (s : State) (k : Nat) (o : WinOutcome) : State :=
  let r := s.wag.stn k
  let good := decide (o = .good)
  let run := if good then min 255 (r.goodRun + 1) else 0
  let stale := if good then r.stale && decide (run < 2) else true
  let s := s.modStn k (fun r => { r with
    last := o, goodRun := run, stale := stale, anyWin := true, anyGood := r.anyGood || good })
  if !r.stale && stale then s.qualityEvent k true
  else if r.stale && !stale then s.qualityEvent k false
  else s

/-- Station k has no further EXCLUSIVE window in the present matrix cycle after one that starts at START in the present
basic cycle. -/
def WagState.lastInMatrix (g : WagState) (k start : Nat) : Bool :=
  !(List.range (max 1 g.mlen)).any (fun m => decide (m ≥ g.mpos) && (g.windows g.mode).any (fun x =>
    decide (wType x.2 = 1) && decide (wOrigin x.2 = k) && wPresent x.2 m &&
      (decide (m > g.mpos) || decide (wStart x.2 > start))))

/-- At the end of a joined station's last window of a matrix cycle, LEAVE_MC cycles without a GOOD window unjoin it
(R420). -/
def State.judgeMatrix (s : State) (k start : Nat) : State :=
  if !s.wag.lastInMatrix k start then s
  else
    let r := s.wag.stn k
    let bad := if r.anyWin && !r.anyGood then r.badMc + 1 else 0
    let s := s.modStn k (fun r => { r with badMc := bad, anyWin := false, anyGood := false })
    if r.joined && decide (bad ≥ s.rfld 0xA000 23 16) then s.leaveStation k else s

/-- The counters of a window after an outcome (R425, R426). -/
def WinCnt.count (c : WinCnt) (o : WinOutcome) : WinCnt :=
  match o with
  | .good => { c with good := satInc 0xFFFFFFFF c.good }
  | .empty => { c with empty := satInc 0xFFFFFFFF c.empty }
  | .invalid => { c with invalid := satInc 0xFFFFFFFF c.invalid }
  | .none => c

/-- EXCLUSIVE_WINDOW_END: the occurrence is judged on this module's segment (R425); sof: a SOF was detected in it. -/
def execExclusiveWindowEnd (win : Fin 256) (sof : Bool) (s : State) : Host.Outcome State Fault Refusal :=
  let g := s.wag
  let w := win.val
  let e := g.window w
  if !s.takesFrames || w = 0 || wType e ≠ 1 || !wPresent e g.mpos then .next s
  else
    let o := judgeWindow e (tget {} g.winRx w) sof
    let s := s.setWag { g with
      winRx := tput {} {} g.winRx w, winCnt := tmod {} g.winCnt w (fun c => c.count o), winOut := tput .none o g.winOut w }
    let s := s.judgeStation (wOrigin e) o
    .next (if s.isHive || (decide (s.role = 1) && s.twinEn) then s.judgeMatrix (wOrigin e) (wStart e) else s)

end Sys2Proof.Machine
end

