-- ==== Sys2Proof/Machine/Field.lean ====
section
/-! DEFINITION. The barrier and what the field side does by itself (R17 to R21, R309 to R314, R604): time marks, downlink
and uplink frames, absence, hold policies at a basic cycle's end, accepted digital inputs. -/

namespace Sys2Proof.Machine

/-! ### What the Drone commands (R495) -/

/-- The Drone commands output id. -/
def State.droneCommands (s : State) (id : Nat) : Bool :=
  (s.loopOn id).isSome || (decide (0x2000 ≤ id) && decide (id < 0x2030) && tbit s.drn.hsCmd (id - 0x2000))

/-- The output of a hold-policy entry, as an identifier of R325 (R309). -/
def holdOutput (i : Nat) : Nat := if i < 48 then 0x2000 + i else if i < 80 then 0x1000 + (i - 48) else 0x3000 + (i - 80)

/-- The output of a hold-policy entry has been given a value since field power-up (R496). -/
def State.outWritten (s : State) (i : Nat) : Bool :=
  if i < 48 then (s.hsRt i).written else if i < 80 then (s.dacRt (i - 48)).written else (s.pulRt (i - 80)).written

/-! ### Hold policies (R309 to R312) -/

/-- A pulse output takes its SAFE value: a stop at once, or an axis stops with its profile's deceleration, which ends where
AXIS_MOVE_END finds it (R309). -/
def State.pulSafe (s : State) (p : Nat) (decel : Bool) : State :=
  if decel && (s.pulRt p).moving then s.axisStop p none else s.pulStop p

/-- The output of entry i takes SAFE at instant t, inside Fen Gate's envelopes (R309, R311, R312). -/
def State.takeSafe (s : State) (i : Nat) (t : Time) : State :=
  let w := tget holdReset s.fio.holdEff i
  if i < 48 then
    let on := decide (holdSafe w % 2 = 1)
    let s := s.modHs i (fun h => { h with duty := if on then 8388607 else 0 })
    s.hsCommand [(i, on)]
  else if i < 80 then
    let s := s.dacTake (i - 48) (holdSafe w) t
    s.sendUp (.dacTaken (i - 48) (s.dacNow (i - 48) t) t)
  else s.pulSafe (i - 80) (decide (holdSafe w % 2 = 1))

/-- The output of entry i moves to SAFE: event 0x4E with bit 8 (R311). -/
def State.toSafe (s : State) (i : Nat) (t : Time) : State :=
  let s := { s with fio := { s.fio with hold := tmod {} s.fio.hold i (fun r => { r with atSafe := true, good := 0, feed := none }) } }
  (s.takeSafe i t).fieldRaise 0x4E (BitVec.ofNat 64 (i + 256))

/-- The output of entry i follows its feed again, from the value last fed: event 0x4E (R311). -/
def State.fromSafe (s : State) (i : Nat) : State :=
  let r : HoldRt := tget {} s.fio.hold i
  let s := { s with fio := { s.fio with hold := tmod {} s.fio.hold i (fun r => { r with
    atSafe := false, good := 0, miss := 0, feed := none }) } }
  let s := match r.feed with | some it => s.applyItem it | none => s
  s.fieldRaise 0x4E (BitVec.ofNat 64 i)

/-- What a basic cycle was for the feed of an output: missing, good, or neither where its window was not present. -/
inductive CycleView where
  | missing | good | neither
  deriving DecidableEq, Repr

/-- The station whose transmit word a receive word takes, and the windows of the active mode that carry it (R310, R408). -/
def WagState.feedWindows (g : WagState) (feed : Nat) : Nat × List Nat :=
  let e := tget 0 g.rxMap feed
  let carries (x : Nat × BitVec 256) : Bool := tbit e 24 && decide (wType x.2 = 1) && decide (wOrigin x.2 = fld e 11 0) &&
    decide (wFirst x.2 ≤ fld e 23 12) && decide (fld e 23 12 < wFirst x.2 + wWords x.2)
  (fld e 11 0, ((g.windows g.mode).filter carries).map (·.1))

/-- How the basic cycle that ends counts for an output fed by a receive word (R310, R434). -/
def State.cycleView (s : State) (feed : Nat) : CycleView :=
  if s.pw.logicAbsent || s.fio.ejectCycle then .missing
  else if feed = 0xFFF then .good
  else
    let x := s.wag.feedWindows feed
    let outs := (x.2.map (fun w => tget .none s.wag.winOut w)).filter (fun o => decide (o ≠ .none))
    if outs.isEmpty then .neither
    else if (s.wag.stn x.1).discord || outs.any (fun o => decide (o ≠ .good)) then .missing
    else .good

/-- Entry i at the end of a basic cycle (R311). -/
def State.holdCycle (s : State) (i : Nat) : State :=
  let id := holdOutput i
  let w := tget holdReset s.fio.holdEff i
  let r : HoldRt := tget {} s.fio.hold i
  let put (s : State) (r : HoldRt) : State := { s with fio := { s.fio with hold := tput {} r s.fio.hold i } }
  let drones := s.droneCommands id || (s.pw.logicAbsent && s.drn.names id && !s.twn.fieldMember)
  if drones || !s.outWritten i then s
  else if r.skip then put s { r with skip := false }
  else
    match s.cycleView (holdFeed w) with
    | .neither => s
    | .missing =>
      let n := satInc 0xFFFF r.miss
      let s := put s { r with miss := n, good := 0 }
      if !r.atSafe && (holdPolicy w || decide (n ≥ holdN w)) then s.toSafe i s.time.shadow.ns else s
    | .good =>
      if !r.atSafe then put s { r with miss := 0 }
      else if r.good + 1 ≥ 2 then s.fromSafe i
      else put s { r with good := r.good + 1, miss := 0 }

/-- HOLD_POLICY_CYCLE_END: at the end of a basic cycle the missing and good cycles of every output are counted (R310,
R311). -/
def execHoldPolicyCycleEnd (s : State) : Host.Outcome State Fault Refusal :=
  if !s.pw.fieldUp then .next s
  else
    let s := (List.range 96).foldl (fun s i => s.holdCycle i) s
    .next { s with
      fio := { s.fio with ejectCycle := s.fio.ejected }
      wag := { s.wag with winOut := [] } }

/-! ### Digital inputs (R314) -/

/-- DIGITAL_INPUT_ACCEPT: where the raw level has held for FILT_US as it stands now, the change is accepted, stamped with its first
raw transition, and sent to the logic side (R313, R314). -/
def execDigitalInputAccept (input : Fin 64) (s : State) : Host.Outcome State Fault Refusal :=
  let i := input.val
  let r : DiRt := tget {} s.fio.di i
  match r.since with
  | none => .next s
  | some t =>
    if sdiff s.time.shadow.ns t < max 1000 (Int.ofNat (fld (s.diCfg i) 15 2) * 1000) then .next s
    else
    let s := { s with fio := { s.fio with di := tput {} { r with acc := r.raw, since := none, accAt := some t } s.fio.di i } }
    .next (s.sendUp (.diChange i (s.diState i) t))

/-! ### The downlink (R17 to R21) -/

/-- DOWNLINK_TIME_MARK: the logic side sends a mark with its TB1 every 5 µs while it serves (R20, R519). -/
def execDownlinkTimeMark (s : State) : Host.Outcome State Fault Refusal :=
  if decide (s.pw.logic = .run) && !s.pw.variantL then .next (s.sendDown (.timeMark s.time.tb1.ns)) else .next s

/-- A time mark is taken: the shadow follows it by the crossing delay, and the logic side counts as present (R19, R20). -/
def State.takeMark (s : State) (t : Time) : State :=
  { s with
    time := { s.time with shadow := { s.time.shadow with ns := tadd t 480, frac := 0, rate := s.time.tb1.rate } }
    pw := { s.pw with missedMarks := 0, logicAbsent := false } }

/-- CNV_DAC_LATE counts a DAC value (R296). -/
def State.dacLate (s : State) : State := { s with cnv := { s.cnv with dacLate := satInc 0xFFFFFFFF s.cnv.dacLate } }

/-- A field value arrives: kept for its instant, or discarded after the tick of that instant, which CNV_DAC_LATE counts for
a DAC (R21, R296). -/
def State.fieldArrive (s : State) (it : DownItem) (t : Time) : State :=
  if sdiff t s.time.shadow.ns < 0 then
    match it with
    | .dac _ _ _ => s.dacLate
    | .launch _ (.dac _ _ _) => s.dacLate
    | _ => s
  else { s with fio := { s.fio with due := s.fio.due ++ [it] } }

/-- A handover request reaches the Drone (R194, R498). -/
def State.takeHoldReq (s : State) (loop : Nat) (th : Time) : State :=
  if (s.drn.loops.find? (fun x => decide (x.1 = loop))).isSome then
    { s with drn := { s.drn with loops := tmod {} s.drn.loops loop (fun l => { l with req := some th }) } }
  else s

/-- An image of an INSTALL reaches the field die, which checks the manifest's signatures and the image's hash itself before it writes
it (R18, R571). -/
def State.takeUpdate (s : State) (type : Nat) (image : List Byte) : State :=
  match s.lcy.job with
  | none => s
  | some j =>
    let j :=
      if !s.lcy.signedOk j.manifest j.sigs then { j with fieldBad := some 0xA1 }
      else if j.hashes.any (fun h => decide (h.1 = type) && decide (Config.sha3 image ≠ h.2)) then { j with fieldBad := some 0xA3 }
      else { j with fieldOk := type :: j.fieldOk }
    { s with lcy := { s.lcy with job := some j } }

/-- One downlink value on the field side (R17). -/
def State.downTake (s : State) (it : DownItem) : State :=
  match it with
  | .timeMark t => s.takeMark t
  | .actUntil t drive =>
    if !s.twn.fieldMember then s
    else if drive.any (fun f => decide (sdiff f s.time.shadow.ns > 0)) then s.sendDown (.actUntil t drive)
    else State.regate { s with twn := { s.twn with fieldActUntil := some t } }
  | .holdReq loop th => s.takeHoldReq loop th
  | .ejectNotice => { s with fio := { s.fio with ejected := true } }
  | .bcNs n => { s with fio := { s.fio with bcNs := n } }
  | .urgent c l =>
    { s with cnv := { s.cnv with urgent := s.cnv.urgent.map (fun x =>
      if x.1 = l && decide (x.2.chan = c) && x.2.at_.isNone then (x.1, { x.2 with at_ := some s.time.shadow.ns }) else x) } }
  | .dac _ _ t => s.fieldArrive it t
  | .valves _ _ _ t _ => s.fieldArrive it t
  | .duty _ _ t => s.fieldArrive it t
  | .rate _ _ t => s.fieldArrive it t
  | .axis _ _ _ t => s.fieldArrive it t
  | .launch _ v => match itemInstant v with | some t => s.fieldArrive it t | none => s
  | .recall q => { s with fio := { s.fio with due := s.fio.due.filter (fun x => decide (x.step? ≠ some q)) } }
  | .scanTables l c k => { s with cnv := { s.cnv with listsFld := l, chanFld := c, scanFld := k } }
  | .holdTable l => s.takeHold l
  | .fioTables t => { s with fio := { s.fio with fld := t } }
  | .clrFault i => s.clearTrip i
  | .guardCopy b => s.takeCopy false b
  | .update t b => s.takeUpdate t b
  | .shadow it => if s.fieldDrives then s else s.applyItem it
  | .ledger i => s.countLedger i

/-- The field side counts the logic side absent after 20 marks in a row missing or invalid: the lists stop and their accumulations
end, a handover in overlap is aborted, and the named outputs return to COMMAND at the next Drone output instant (R20, R278, R285,
R497, R520). -/
def State.loseLogic (s : State) : State :=
  if !s.pw.fieldUp || s.pw.logicAbsent then s
  else
    let overlap : Bool := match s.cnv.handover with
      | some h => decide (h.phase = .overlap)
      | none => false
    let s := if overlap then s.abortHandover else s
    { s with
      pw := { s.pw with logicAbsent := true, missedMarks := 20 }
      cnv := { s.cnv with
        listsRun := false, slip := [], acc := tmap {} AccRt.restart s.cnv.acc }
      drn := { s.drn with takeDue := !s.twn.fieldMember, scanOn := false, rsRun := some 0 } }

/-- DOWNLINK_FRAME: the field side takes the oldest value of the downlink after its crossing; an invalid frame is lost, and
a mark in it counts as missing (R17, R20). -/
def execDownlinkFrame (valid : Bool) (s : State) : Host.Outcome State Fault Refusal :=
  match s.fio.down with
  | [] => .next s
  | it :: r =>
    let s := { s with fio := { s.fio with down := r } }
    if !s.pw.fieldUp then .next (if it.counts then s.sendDown it else s)
    else if valid then .next (s.downTake it)
    else
      match it with
      | .timeMark _ =>
        let s := { s with pw := { s.pw with missedMarks := satInc 20 s.pw.missedMarks } }
        .next (if s.pw.missedMarks = 20 then s.loseLogic else s)
      | .scanTables _ _ _ => .next s.sendScans
      | .holdTable _ => .next (s.sendDown (.holdTable s.fio.holdTab))
      | .fioTables _ => .next s.sendFio
      | _ => .next (if it.counts then s.sendDown it else s)

/-! ### The uplink (R17, R446, R447) -/

/-- A sample word reaches the logic side: newest of its channel, a read-back of its DAC, a record of the holder's
snapshot; a standby's own words feed only its own Mire (R269, R277, R298, R447). -/
def State.takeSample (s : State) (w : Val40) (stamp : Time) (list : Option Nat) : State :=
  let s :=
    if s.replays then s
    else
      let c := swChan w
      let x : Sample := { word := w, stamp := stamp }
      let cn := { s.cnv with
        newest := tput (noSample c) x s.cnv.newest c
        readBack := if 128 ≤ c && c < 160 then tmod [] s.cnv.readBack (c - 128) (fun l => (x :: l).take 512)
          else s.cnv.readBack }
      State.snapOut { s with cnv := cn } (1 :: (leBytes 5 w.toNat ++ leBytes 5 stamp.toNat))
  s.mirTake (.word w stamp list)

/-- The Drone's confirmation of a handover reaches the slot that asked (R194). -/
def State.takeConfirm (s : State) (loop : Nat) (th : Time) : State :=
  let f (r : SlotRt) : SlotRt :=
    if decide (rHold r.eff = loop) && decide (r.ho = .requested th false) then { r with ho := .requested th true } else r
  { s with cmb := { s.cmb with rt := tmap {} f s.cmb.rt } }

/-- The newest clamp ends at an instant, if it lasts beyond it. -/
def endClamp (t : Time) : List (Time × Option Time) → List (Time × Option Time)
  | (a, u) :: r => if u.all (fun u => decide (sdiff u t > 0)) then (a, some t) :: r else (a, u) :: r
  | [] => []

/-- A clamp from an instant to its end, newest first: it goes on with the newest one where that has not ended before it. -/
def addClamp (t : Time) (u : Option Time) : List (Time × Option Time) → List (Time × Option Time)
  | (a, e) :: r => if e.all (fun e => decide (sdiff e t ≥ 0)) then (a, u) :: r else (t, u) :: (a, e) :: r
  | [] => [(t, u)]

/-- One uplink value on the logic side (R17). -/
def State.upTake (s : State) (it : UpItem) : State :=
  match it with
  | .sample w stamp list => s.takeSample w stamp list
  | .holdConfirm loop th => s.takeConfirm loop th
  | .diChange i v t =>
    State.mirTake { s with fio := { s.fio with diImage := putBit s.fio.diImage i v } } (.di i v t)
  | .diImage i v => State.noteInput { s with fio := { s.fio with diImage := putBit s.fio.diImage i v } } i v
  | .dacTaken d v t => s.mirTake (.dac d v t)
  | .encoders l => s.takeEncoders l
  | .capture e p t => s.takeCapture e p t
  | .event c w => s.raise c w
  | .safetyFrame w b => s.setWag { s.wag with safOut := tput [] b s.wag.safOut w }
  | .clamp d t u =>
    { s with fio := { s.fio with
        clampSeen := putBit s.fio.clampSeen d true, clampAt := tmod [] s.fio.clampAt d (fun l => (addClamp t u l).take 512) } }
  | .unclamp d t => { s with fio := { s.fio with clampAt := tmod [] s.fio.clampAt d (endClamp t) } }

/-- The field side is present again: its tables go to it once more (R17). -/
def State.resendField (s : State) : State := (s.sendScans.sendDown (.holdTable s.fio.holdTab)).sendFio

/-- UPLINK_FRAME: a valid frame shows the field side present and how it stands, and brings its oldest value; an invalid one is lost (R17,
R20). -/
def execUplinkFrame (valid : Bool) (s : State) : Host.Outcome State Fault Refusal :=
  if s.pw.variantL || !s.pw.fieldUp then .next s
  else
    let it := s.fio.up.head?
    let s := { s with fio := { s.fio with up := s.fio.up.drop 1 } }
    if !valid || s.pw.logic = .off || s.pw.logic = .held then .next s
    else
      let s := if s.pw.fieldPresent then s else State.resendField { s with pw := { s.pw with fieldPresent := true } }
      let s := { s with seen := s.fieldView }
      match it with
      | some it => if s.pw.logic = .run then .next (s.upTake it) else .next s
      | none => .next s

/-! ### Absence (R20, R278, R285, R497) -/

/-- LOGIC_SIDE_ABSENT: 20 marks in a row are missing (R20). -/
def execLogicSideAbsent (s : State) : Host.Outcome State Fault Refusal := .next s.loseLogic

/-- FIELD_SIDE_ABSENT: no valid uplink frame for 100 µs, so the logic side counts the field side absent: its mirrors read
0 (R20). -/
def execFieldSideAbsent (s : State) : Host.Outcome State Fault Refusal :=
  .next { s with pw := { s.pw with fieldPresent := false } }

end Sys2Proof.Machine
end

