-- ==== Sys2Proof/Machine/Legacy.lean ====
section
/-! DEFINITION. The legacy bridge (R521 to R552) and the plant ports' message frames (R71, R72, R97): CAN FD channels,
RS-485 UARTs, the parallel bus and the general-purpose lines. -/

namespace Sys2Proof.Machine

/-! ### Registers and ports -/

/-- The register offset of CAN channel c. -/
def canOff (c : Nat) : Nat := 0xE100 + 0x40 * c
/-- The register offset of UART u. -/
def uartOff (u : Nat) : Nat := 0xE200 + 0x20 * u
/-- PORT of R97. -/
def portCode : Port → Nat
  | .can c => c.val
  | .uart u => 0x10 + u.val
  | .pb => 0x20
  | .plant p => 0x30 + p.val
/-- The port that a PORT value names (R97). -/
def portOf (x : Nat) : Option Port :=
  if x < 4 then some (.can (Fin.ofNat 4 x))
  else if x ≥ 0x10 && x < 0x14 then some (.uart (Fin.ofNat 4 x))
  else if x = 0x20 then some .pb
  else if x ≥ 0x30 && x < 0x32 then some (.plant (Fin.ofNat 2 x))
  else none

/-- The state with the bridge changed. -/
def State.setLeg (s : State) (l : LegState) : State := { s with leg := l }
/-- The run-time state of CAN channel c. -/
def State.canRt (s : State) (c : Nat) : CanRt := tget {} s.leg.can c
/-- The state with CAN channel c changed by f. -/
def State.modCan (s : State) (c : Nat) (f : CanRt → CanRt) : State :=
  s.setLeg { s.leg with can := tmod {} s.leg.can c f }
/-- The run-time state of UART u. -/
def State.uartRt (s : State) (u : Nat) : UartRt := tget {} s.leg.uart u
/-- The state with UART u changed by f. -/
def State.modUart (s : State) (u : Nat) (f : UartRt → UartRt) : State :=
  s.setLeg { s.leg with uart := tmod {} s.leg.uart u f }

/-- TSC of a tick: floor(TB2 / 8) mod 2³² (R531). -/
def tscOf (t2 : Time) : Nat := t2.toNat / 8 % 2 ^ 32

/-- The next descriptor of pair p, if it is a SEND on the port (R97). -/
def State.takeSend (s : State) (p : Pair) (ok : Port → Bool) : Option (Entry × Port) :=
  match s.takeOp p.val 5 1 with
  | some e =>
    match portOf e.byte16 with
    | some q => if ok q then some (e, q) else none
    | none => none
  | none => none

/-- The AT instant of a SEND lies beyond the horizon (R48, R98). -/
def State.atBeyond (s : State) (e : Entry) : Bool :=
  e.atFlag && decide (sdiff e.atInstant s.time.tb1.ns > 500000000000)

/-- The AT instant of a descriptor, none without FLAGS.AT. -/
def Entry.at? (e : Entry) : Option Time := if e.atFlag then some e.atInstant else none

/-- A list of descriptors completes with one code and RESULT 0. -/
def State.finishAll (s : State) (code : Byte) (l : List (Pair × Word)) : State :=
  l.foldl (fun s x => s.finish x.1.val x.2 code 0) s

/-! ### Receive buffers (R532) -/

/-- The ring that queue q of a port delivers to; none for a port with no such queue. -/
def State.rxRing (s : State) (port : Port) (q : Nat) : Option Nat :=
  match port with
  | .can c => some (if q = 0 then s.rfld (canOff c.val + 0xC) 5 0 else s.rfld (canOff c.val + 0xC) 13 8)
  | .uart u => if q = 0 then some (s.rfld (uartOff u.val) 29 24) else none
  | _ => none

/-- The oldest buffer of a port on a ring. -/
def LegState.bufOf (l : LegState) (port : Port) (ring : Nat) : Option RxBuf :=
  l.rxBufs.find? (fun b => decide (b.port = port) && decide (b.pair.val = ring))

/-- A buffer completes with the bytes it has received (R97). -/
def State.closeRx (s : State) (b : RxBuf) : State :=
  (s.setLeg { s.leg with rxBufs := s.leg.rxBufs.filter (fun x => !(decide (x.pair = b.pair) && decide (x.sub = b.sub))) }).finish
    b.pair.val b.sub 0 (BitVec.ofNat 64 b.filled)

/-- One record is written into a buffer that has room for it. -/
def State.fillRx (s : State) (b : RxBuf) (rec : List Byte) : State :=
  let s := s.hostWrite (b.addr + BitVec.ofNat 64 b.filled) rec
  let put (x : RxBuf) : RxBuf :=
    if decide (x.pair = b.pair) && decide (x.sub = b.sub) then
      { x with filled := x.filled + rec.length, first := if x.filled = 0 then s.time.t2 else x.first }
    else x
  s.setLeg { s.leg with rxBufs := s.leg.rxBufs.map put }

/-- Records, oldest first, go into the buffers of a port on a ring while there are any; what is left stays queued. Fuel
bounds the records and the buffers together. -/
def State.deliverRx (port : Port) (ring : Nat) : Nat → List (List Byte) → State → State × List (List Byte)
  | 0, recs, s => (s, recs)
  | _, [], s => (s, [])
  | n + 1, r :: rest, s =>
    match s.leg.bufOf port ring with
    | none => (s, r :: rest)
    | some b =>
      if b.filled + r.length ≤ b.size then State.deliverRx port ring n rest (s.fillRx b r)
      else State.deliverRx port ring n (r :: rest) (s.closeRx b)

/-- The queues of a port deliver what they can (R532). -/
def State.drainRx (s : State) (port : Port) : State :=
  let fuel (n : Nat) := n + s.leg.rxBufs.length
  match port with
  | .can c =>
    let q0 := (s.canRt c.val).q0
    let x := State.deliverRx port (s.rfld (canOff c.val + 0xC) 5 0) (fuel q0.length) q0 s
    let s := x.1.modCan c.val (fun r => { r with q0 := x.2 })
    let q1 := (s.canRt c.val).q1
    let y := State.deliverRx port (s.rfld (canOff c.val + 0xC) 13 8) (fuel q1.length) q1 s
    y.1.modCan c.val (fun r => { r with q1 := y.2 })
  | .uart u =>
    let q := (s.uartRt u.val).queue
    let x := State.deliverRx port (s.rfld (uartOff u.val) 29 24) (fuel q.length) q s
    x.1.modUart u.val (fun r => { r with queue := x.2 })
  | _ => s

/-- RX_BUFFER: an empty buffer joins its port. On a bridge port its ring must be bound to a receive queue and it must hold a
CAN record (R532). -/
def execRxBuffer (p : Pair) (s : State) : Host.Outcome State Fault Refusal :=
  match s.takeOp p.val 5 2 with
  | none => .next s
  | some e =>
    match portOf e.byte16 with
    | none => .next (s.finish p.val e.sub 0x02 0)
    | some port =>
      let plant : Bool := match port with | .plant _ => true | _ => false
      let bound := decide (s.rxRing port 0 = some p.val) || decide (s.rxRing port 1 = some p.val)
      if !plant && !bound then .next (s.finish p.val e.sub 0x02 0)
      else if !plant && e.len < 88 then .next (s.finish p.val e.sub 0x09 0)
      else
        let b : RxBuf := { pair := p, sub := e.sub, port := port, addr := e.addr, size := e.len }
        .next (((s.setLeg { s.leg with rxBufs := s.leg.rxBufs ++ [b] }).accept p.val e.sub).drainRx port)

/-- MESSAGE_RX_FLUSH: FLUSH_US have passed since the first record of the buffer that queue 0 or 1 of a port fills (R532). -/
def execMessageRxFlush (port : Port) (queue : Bool) (s : State) : Host.Outcome State Fault Refusal :=
  match port with
  | .can c =>
    let us := s.rfld (canOff c.val + 0xC) 31 16
    if us = 0 then .next s
    else
      match (s.rxRing port queue.toNat).bind (fun ring => s.leg.bufOf port ring) with
      | some b => if b.filled > 0 && decide (b.first + us * 1000 ≤ s.time.t2) then .next ((s.closeRx b).drainRx port) else .next s
      | none => .next s
  | _ => .next s

/-! ### CAN: filters and records (R528 to R536) -/

/-- EN of a filter pair. -/
def fpEn (w : BitVec 128) : Bool := tbit w 64
/-- TARGET. -/
def fpTarget (w : BitVec 128) : Nat := fld w 66 65
/-- COPY. -/
def fpCopy (w : BitVec 128) : Bool := tbit w 67
/-- The entry has no unnamed bit set, and COPY only with TARGET 3 (R528). -/
def fpOk (w : BitVec 128) : Bool :=
  decide (fld w 31 30 = 0) && decide (fld w 63 62 = 0) && decide (fld w 127 68 = 0) && (!fpCopy w || decide (fpTarget w = 3))

/-- The filter entries claimed or released as a load leaves them (R524). -/
def filterClaims : List (Nat × BitVec 128) → List Claim → Judged (List Claim)
  | [], cl => .ok cl
  | x :: r, cl =>
    if fpEn x.2 then
      match claim cl (0x9000 + x.1) rankGeneral (ownPort (x.1 / 64)) with
      | .ok cl => filterClaims r cl
      | .refused c w => .refused c w
    else filterClaims r (releaseOne cl (0x9000 + x.1) rankGeneral (ownPort (x.1 / 64)))

/-- FILTER_TABLE_LOAD: table 0x001 of LEG (R528). -/
def doFilterTableLoad (p : Pair) (s : State) : Host.Outcome State Fault Refusal :=
  match s.takeLoad p 14 1 with
  | none => .next s
  | some e =>
    let l := withIndex e.first e.words128
    match l.find? (fun x => !fpOk x.2) with
    | some x => .next (s.finish p.val e.sub 0x90 (BitVec.ofNat 64 x.1))
    | none =>
      match filterClaims l s.fio.claims with
      | .refused c w => .next (s.finish p.val e.sub c w)
      | .ok cl =>
        let s := (s.setClaims cl).setLeg { s.leg with filters := tputs 0 s.leg.filters e.first e.words128 }
        .next (s.finish p.val e.sub 0 (BitVec.ofNat 64 e.count))

/-- Identifier and IDE of a frame as MATCH holds them. -/
def canMatchBits (f : CanFrame) : Nat := f.ident.toNat + f.ide.toNat * 2 ^ 29

/-- A frame matches a pair (R529). -/
def fpMatches (w : BitVec 128) (f : CanFrame) : Bool :=
  decide ((canMatchBits f ^^^ fld w 29 0) &&& fld w 61 32 = 0)

/-- The first enabled pair of channel c that matches (R529). -/
def LegState.filterOf (l : LegState) (c : Nat) (f : CanFrame) : Option (Nat × BitVec 128) :=
  (List.range 64).findSome? (fun i =>
    let w := tget 0 l.filters (64 * c + i)
    if fpEn w && fpMatches w f then some (i, w) else none)

/-- Zeros added up to a multiple of 8 bytes. -/
def padEight (b : List Byte) : List Byte := padTo ((b.length + 7) / 8 * 8) b

/-- The record of a received frame (R530). -/
def canRecord (f : CanFrame) (pair : Nat) (hp loss : Bool) (st : LineStamp) : List Byte :=
  leBytes 4 (f.ident.toNat + f.ide.toNat * 2 ^ 29 + f.rtr.toNat * 2 ^ 30) ++
    [BitVec.ofNat 8 (f.dlc.toNat + f.fdf.toNat * 16 + f.brs.toNat * 32 + f.esi.toNat * 64),
     BitVec.ofNat 8 (if f.rtr then 0 else f.data.length), BitVec.ofNat 8 pair,
     BitVec.ofNat 8 (hp.toNat + loss.toNat * 2)] ++
    leBytes 4 (tscOf st.tb2) ++ leBytes 4 0 ++ leBytes 8 st.tb1.toNat ++
    (if f.rtr then [] else padEight f.data)

/-- Event 0x95 of a port with the frames or characters lost since the last one (R533). -/
def State.lostEvent (s : State) (port count : Nat) : State := s.raise 0x95 (BitVec.ofNat 64 (port + count * 2 ^ 16))

/-- A frame goes into receive queue q of channel c, or is lost where it is full (R532, R533). -/
def State.canQueue (s : State) (c : Nat) (q1 : Bool) (f : CanFrame) (pair : Nat) (hp : Bool) (st : LineStamp) : State :=
  let r := s.canRt c
  let len := if q1 then r.q1.length else r.q0.length
  if len ≥ 64 then
    let due := s.evtDue 1000000000 r.lastLostEvt
    let n := r.lost0 + 1
    let s := s.modCan c (fun r => { r with
      rxLost := satInc 0xFFFF r.rxLost, loss0 := r.loss0 || !q1, loss1 := r.loss1 || q1
      lost0 := if due then 0 else n, lastLostEvt := if due then some s.time.t2 else r.lastLostEvt })
    if due then s.lostEvent c n else s
  else
    let rec_ := canRecord f pair hp (if q1 then r.loss1 else r.loss0) st
    s.modCan c (fun r =>
      if q1 then { r with q1 := r.q1 ++ [rec_], loss1 := false } else { r with q0 := r.q0 ++ [rec_], loss0 := false })

/-- A frame goes into the high-priority buffer: HEAD, the record, TAIL, then HP_VEC (R534, R535). -/
def State.canHp (s : State) (c : Nat) (f : CanFrame) (pair : Nat) (st : LineStamp) : State :=
  let r := s.canRt c
  let seq := r.hpSeq + 1
  let addr : BitVec 64 := BitVec.ofNat 64 ((s.reg (canOff c + 0x10)).toNat + (s.reg (canOff c + 0x14)).toNat * 2 ^ 32)
  let s := s.modCan c (fun r => { r with
    hpSeq := seq, ndat := true, hpOvwr := if r.ndat then satInc 0xFFFF r.hpOvwr else r.hpOvwr })
  let s := s.hostWrite addr (leBytes 8 seq.toNat)
  let s := s.hostWrite (addr + 8) (padTo 88 (canRecord f pair true false st))
  let s := s.hostWrite (addr + 96) (leBytes 8 (seq.toNat + r.ndat.toNat * 2 ^ 32))
  s.sendVec (s.rfld (canOff c + 0x18) 6 0)

/-- The channel takes part in traffic: enabled, neither bus-off nor recovering (R541). -/
def CanRt.onBus (r : CanRt) : Bool := decide (r.st = .active) || decide (r.st = .passive)

/-! ### CAN: offering (R537 to R539) -/

/-- The place of a frame in arbitration: lower wins (ISO 11898-1). -/
def canArbKey (f : CanFrame) : Nat :=
  let base := if f.ide then f.ident.toNat / 2 ^ 18 else f.ident.toNat % 2 ^ 11
  if f.ide then base * 2 ^ 21 + 2 ^ 20 + 2 ^ 19 + f.ident.toNat % 2 ^ 18 * 2 + f.rtr.toNat
  else base * 2 ^ 21 + f.rtr.toNat * 2 ^ 20

/-- The frame that the controller would offer at instant t of TB2: eligible by then, of the highest priority, accepted first
(R539). -/
def canBest (t : Nat) : List CanTx → Option CanTx
  | [] => none
  | x :: r =>
    match x.eligible.any (fun e => decide (e ≤ t)), canBest t r with
    | false, b => b
    | true, none => some x
    | true, some y =>
      if canArbKey x.frame < canArbKey y.frame || (canArbKey x.frame = canArbKey y.frame && x.order < y.order) then some x else some y

/-- The age of a frame at instant t of TB2. -/
def CanTx.ageNs (x : CanTx) (t : Nat) : Nat := t - x.eligible.getD t

/-- The frame leaves the transmit queue of channel c. -/
def State.canDrop (s : State) (c : Nat) (x : CanTx) : State :=
  s.modCan c (fun r => { r with tx := r.tx.filter (fun y => decide (y.order ≠ x.order)) })

/-- Before an offering at instant t of TB2, stale frames at its head are discarded with 0x93; fuel bounds the queue
(R539). -/
def State.canOffer (c : Nat) (t : Nat) : Nat → State → State
  | 0, s => s
  | n + 1, s =>
    match canBest t (s.canRt c).tx with
    | none => s
    | some x =>
      if x.staleUs ≠ 0 && decide (x.ageNs t > x.staleUs * 1000) then
        let s := (s.canDrop c x).modCan c (fun r => { r with staleCnt := satInc 0xFFFF r.staleCnt })
        State.canOffer c t n (s.finish x.pair.val x.sub 0x93 (BitVec.ofNat 64 (x.ageNs t / 1000)))
      else s

/-- An offering of channel c now, if it may send: a frame on the bus has ended, an error has ended one, or the channel has recovered.
A frame that joins the queue between these is offered with the others at the next one, and alone it is too young to be stale. -/
def State.canOfferNow (s : State) (c : Nat) : State :=
  if (s.canRt c).onBus && !s.rbit (canOff c) 4 then State.canOffer c s.time.t2 (s.canRt c).tx.length s else s

/-- CAN_FRAME_RECEIVE: a frame that passed its CRC goes where the filter table in force, or DEFAULT, sends it (R529 to R535). -/
def execCanFrameReceive (c : Fin 4) (frame : CanFrame) (crcOk : Bool) (start : LineStamp) (s : State) :
    Host.Outcome State Fault Refusal :=
  if !crcOk || !(s.canRt c.val).onBus then .next s
  else
    let c := c.val
    let x : Nat × Nat × Bool := match s.leg.filterOf c frame with
      | some (i, w) => (i, fpTarget w, fpCopy w)
      | none => (0xFF, s.rfld (canOff c) 2 1, false)
    let s := match x.2.1 with
      | 1 => s.canQueue c false frame x.1 false start
      | 2 => s.canQueue c true frame x.1 false start
      | 3 =>
        let s := s.canHp c frame x.1 start
        if x.2.2 then s.canQueue c false frame x.1 true start else s
      | _ => s
    .next ((s.drainRx (.can (Fin.ofNat 4 c))).canOfferNow c)

/-- HP_ACK: parameter 0x001 of LEG clears NDAT for the latest SEQ (R536). -/
def doHpAck (p : Pair) (s : State) : Host.Outcome State Fault Refusal :=
  match s.takeParam p 1 14 1 with
  | none => .next s
  | some e =>
    let c := e.value % 4
    let seq := (s.canRt c).hpSeq
    if e.value % 256 ≥ 4 then .next (s.finish p.val e.sub 0x02 0)
    else if e.value / 256 = seq.toNat then
      .next ((s.modCan c (fun r => { r with ndat := false })).finish p.val e.sub 0 0)
    else .next (s.finish p.val e.sub 0x98 (BitVec.ofNat 64 seq.toNat))

/-! ### CAN: enabling (R524 to R527) -/

/-- The configuration of channel c, as the registers now hold it, may be enabled (R526). -/
def State.canCfgOk (s : State) (c : Nat) : Bool :=
  let f (off hi lo : Nat) := s.rfld (canOff c + off) hi lo
  let nq := 3 + f 4 15 8 + f 4 22 16
  let nominal := nq * (f 4 7 0 + 1) * 5
  let dq := 3 + f 8 9 5 + f 8 13 10
  let data := dq * (f 8 4 0 + 1) * 5
  let triple := s.rbit (canOff c) 5
  decide (nominal ≥ 1000) && decide (data ≥ 125) && decide (nq ≥ 8) && decide (dq ≥ 5) &&
    decide (f 4 29 23 ≤ f 4 22 16) && decide (f 8 17 14 ≤ f 8 13 10) &&
    !(triple && (decide (nominal < 4000) || s.rbit (canOff c) 3)) && decide (f 0xC 5 0 ≠ f 0xC 13 8)

/-- The buffers that an enabled channel claims (R524). -/
def canBufs (c : Nat) : List Nat := [0x9100 + c, 0x9110 + 2 * c, 0x9111 + 2 * c, 0x9120 + c]

/-- Channel c is switched off: its queued SENDs complete with 0x99 and its buffers are released. -/
def State.canOffNow (s : State) (c : Nat) : State :=
  let tx := (s.canRt c).tx
  let s := s.modCan c (fun r => { r with
    st := .off, tec := 0, rec_ := 0, q0 := [], q1 := [], loss0 := false, loss1 := false, ndat := false, tx := [] })
  let s := s.setClaims ((canBufs c).foldl (fun cl id => releaseOne cl id rankGeneral (ownPort c)) s.fio.claims)
  s.finishAll 0x99 (tx.map (fun t => (t.pair, t.sub)))

/-- CAN_ENABLE: a write of a channel's first register. EN = 1 enables the channel, or the write is ignored and CFG_ERR set
(R526). -/
def execCanEnable (c : Fin 4) (w : Word) (s : State) : Host.Outcome State Fault Refusal :=
  if !s.hostUp then .next s else
  let c := c.val
  let n := s.writeBits (canOff c) w
  let n := n.setReg (canOff c) (putBit (n.reg (canOff c)) 0 (tbit w 0))
  if tbit w 0 then
    match n.canCfgOk c, claimAll rankGeneral (ownPort c) (canBufs c) s.fio.claims with
    | true, .ok cl =>
      .next ((n.setClaims cl).modCan c (fun r =>
        if r.st = .off then { r with st := .active, tec := 0, rec_ := 0 } else r))
    | _, _ => .next (s.modCan c (fun r => { r with cfgErr := true }))
  else .next (if (s.canRt c).st = .off then n else n.canOffNow c)

/-! ### CAN: transmission (R537 to R541) -/

/-- The data length that a DLC codes (ISO 11898-1). -/
def dlcLen (fdf : Bool) (dlc : Nat) : Nat :=
  if dlc ≤ 8 then dlc
  else if !fdf then 8
  else match dlc with | 9 => 12 | 10 => 16 | 11 => 20 | 12 => 24 | 13 => 32 | 14 => 48 | _ => 64

/-- The frame of a CAN SEND (R537). -/
def canFrameOf (b : List Byte) : CanFrame :=
  let w : Word := BitVec.ofNat 32 (leAt b 0 4)
  let k : Byte := b.getD 4 0
  { ident := BitVec.ofNat 29 w.toNat, ide := tbit w 29, rtr := tbit w 30, dlc := BitVec.ofNat 4 k.toNat, fdf := tbit k 4,
    brs := tbit k 5, esi := tbit k 6, data := slice b 24 (leAt b 5 1) }

/-- The frame's N, DLC, flags and unnamed bytes are as R537 and R538 ask. N is the length that the DLC codes for a remote frame too,
whose data bytes are not sent (R530). -/
def canSendOk (fdEn : Bool) (b : List Byte) : Bool :=
  let f := canFrameOf b
  let n := leAt b 5 1
  decide (n = dlcLen f.fdf f.dlc.toNat) && !(f.brs && !f.fdf) && !(f.fdf && !fdEn) && !(f.rtr && f.fdf) && (f.ide || decide (fld f.ident 28 11 = 0)) &&
    decide (leAt b 0 4 < 2 ^ 31) && !f.esi && !tbit (b.getD 4 0) 7 && decide (leAt b 6 2 = 0) && decide (leAt b 12 12 = 0)

/-- CAN_SEND: a SEND queues a frame of a CAN channel, or is refused (R537 to R539). -/
def execCanSend (p : Pair) (s : State) : Host.Outcome State Fault Refusal :=
  match s.takeSend p (fun q => match q with | .can _ => true | _ => false) with
  | none => .next s
  | some (e, q) =>
    let c := portCode q
    let r := s.canRt c
    let n := leAt e.data 5 1
    if r.st = .off then .next (s.finish p.val e.sub 0x99 0)
    else if s.rbit (canOff c) 4 then .next (s.finish p.val e.sub 0x92 0)
    else if e.len < 24 || e.len ≠ 24 + (n + 7) / 8 * 8 then .next (s.finish p.val e.sub 0x03 0)
    else if s.atBeyond e then .next (s.finish p.val e.sub 0x08 0)
    else if !canSendOk (s.rbit (canOff c) 3) e.data then .next (s.finish p.val e.sub 0x91 0)
    else if r.tx.length ≥ 32 then .next (s.finish p.val e.sub 0x94 0)
    else
      let x : CanTx := { pair := p, sub := e.sub, frame := canFrameOf e.data, staleUs := leAt e.data 8 4, at_ := e.at?,
                         eligible := if e.atFlag then none else some s.time.t2, order := r.nextOrder }
      .next ((s.modCan c (fun r => { r with tx := r.tx ++ [x], nextOrder := r.nextOrder + 1 })).accept p.val e.sub)

/-- CAN_FRAME_SENT: the frame offered at the successful start of frame ends; it completes with 0x00 and that instant, and the
next is offered (R539). -/
def execCanFrameSent (c : Fin 4) (start : LineStamp) (s : State) : Host.Outcome State Fault Refusal :=
  let c := c.val
  if !(s.canRt c).onBus || s.rbit (canOff c) 4 then .next s
  else
    let t := s.time.t2 - (s.time.tb2.ns - start.tb2).toNat
    let s := State.canOffer c t (s.canRt c).tx.length s
    match canBest t (s.canRt c).tx with
    | none => .next s
    | some x =>
      let s := (s.canDrop c x).emitOut (.can c x.frame)
      let s := s.finishWith x.pair.val x.sub 0 0 (canonU start.tb1.toNat)
      .next (s.canOfferNow c)

/-- STATE of a channel as LEG_CANn shows it. -/
def canCode : CanSt → Nat
  | .off => 0 | .active => 1 | .passive => 2 | .busOff => 3 | .recovering => 4

/-- Event 0x97 (R540). -/
def State.canEvent (s : State) (c : Nat) (st : CanSt) (tec : Nat) : State :=
  s.raise 0x97 (BitVec.ofNat 64 (c + canCode st * 2 ^ 8 + min tec 255 * 2 ^ 16))

/-- CAN_STATE: the error counters take new values; the confinement state follows them. One that rises has counted an error, after which
a channel that is still on the bus offers its queue again (R539 to R541). -/
def execCanState (c : Fin 4) (tec : Nat) (rec_ : Nat) (s : State) : Host.Outcome State Fault Refusal :=
  let c := c.val
  let r := s.canRt c
  if !r.onBus then .next s
  else
    let st : CanSt := if tec > 255 then .busOff else if tec > 127 || rec_ > 127 then .passive else .active
    let s := s.modCan c (fun r => { r with st := st, tec := min tec 255, rec_ := min rec_ 255 })
    let s := if st = r.st then s else s.canEvent c st tec
    if st = .busOff then
      .next (s.modCan c (fun r => { r with
        busoffCnt := satInc 0xFFFF r.busoffCnt, st := if s.rbit (canOff c) 7 then .recovering else .busOff }))
    else .next (if decide (tec > r.tec) || decide (rec_ > r.rec_) then s.canOfferNow c else s)

/-- CAN_RECOVERY_END: 128 × 11 recessive bits have passed; the channel is error-active and offers its queue (R541). -/
def execCanRecoveryEnd (c : Fin 4) (s : State) : Host.Outcome State Fault Refusal :=
  let c := c.val
  if (s.canRt c).st = .recovering then
    let s := s.modCan c (fun r => { r with st := .active, tec := 0, rec_ := 0 })
    .next ((s.canEvent c .active 0).canOfferNow c)
  else .next s

/-- RECOVER: parameter 0x002 of LEG starts the recovery of a bus-off channel (R541). -/
def doRecover (p : Pair) (s : State) : Host.Outcome State Fault Refusal :=
  match s.takeParam p 1 14 2 with
  | none => .next s
  | some e =>
    let c := e.value
    if c ≥ 4 then .next (s.finish p.val e.sub 0x02 0)
    else if (s.canRt c).st = .busOff then
      .next ((s.modCan c (fun r => { r with st := .recovering })).finish p.val e.sub 0 0)
    else .next (s.finish p.val e.sub 0x9A 0)

/-! ### UARTs (R542 to R546) -/

/-- The configuration of UART u, as the registers now hold it, may be enabled (R542). -/
def State.uartCfgOk (s : State) (u : Nat) : Bool :=
  let f (off hi lo : Nat) := s.rfld (uartOff u + off) hi lo
  let ovs := f 4 31 28 + 1
  let parity := f 0 4 3
  decide (ovs * (16 * f 4 11 0 + f 4 27 24) ≥ 200) && decide (f 4 11 0 ≠ 0) && decide (parity ≠ 3) &&
    !(s.rbit (uartOff u) 1 && (decide (parity ≠ 0) || s.rbit (uartOff u) 2))

/-- The buffers that an enabled UART claims (R524). -/
def uartBufs (u : Nat) : List Nat := [0x9130 + u, 0x9138 + u]

/-- UART u is switched off: its queued SENDs complete with 0x99 and its buffers are released. -/
def State.uartOffNow (s : State) (u : Nat) : State :=
  let tx := (s.uartRt u).tx
  let s := s.modUart u (fun r => { r with
    on := false, tx := [], sending := false, chars := [], flags := 0, skip := false, queue := [], lossDue := false })
  let s := s.setClaims ((uartBufs u).foldl (fun cl id => releaseOne cl id rankGeneral (ownPort (0x10 + u))) s.fio.claims)
  s.finishAll 0x99 (tx.map (fun t => (t.pair, t.sub)))

/-- UART_ENABLE: a write of a port's first register. EN = 1 enables the port, or the write is ignored and CFG_ERR set; CFG_ERR
is cleared by writing 1 (R542). -/
def execUartEnable (u : Fin 4) (w : Word) (s : State) : Host.Outcome State Fault Refusal :=
  if !s.hostUp then .next s else
  let u := u.val
  let n := s.writeBits (uartOff u) w
  let n := n.setReg (uartOff u) (putBit (n.reg (uartOff u)) 0 (tbit w 0))
  let n := n.modUart u (fun r => { r with cfgErr := r.cfgErr && !tbit w 31 })
  if tbit w 0 then
    match n.uartCfgOk u, claimAll rankGeneral (ownPort (0x10 + u)) (uartBufs u) s.fio.claims with
    | true, .ok cl => .next ((n.setClaims cl).modUart u (fun r => { r with on := true }))
    | _, _ => .next (s.modUart u (fun r => { r with cfgErr := true }))
  else .next (if (s.uartRt u).on then n.uartOffNow u else n)

/-- UART_SEND: a SEND queues the characters of its frame, or is refused (R544). -/
def execUartSend (p : Pair) (s : State) : Host.Outcome State Fault Refusal :=
  match s.takeSend p (fun q => match q with | .uart _ => true | _ => false) with
  | none => .next s
  | some (e, q) =>
    let u := portCode q - 0x10
    let r := s.uartRt u
    let n := leAt e.data 0 2
    if !r.on then .next (s.finish p.val e.sub 0x99 0)
    else if e.len < 8 || e.len ≠ 8 + (n + 7) / 8 * 8 then .next (s.finish p.val e.sub 0x03 0)
    else if s.atBeyond e then .next (s.finish p.val e.sub 0x08 0)
    else if n = 0 || n > 4096 || leAt e.data 2 6 > 1 then .next (s.finish p.val e.sub 0x91 0)
    else if r.tx.length ≥ 16 then .next (s.finish p.val e.sub 0x94 0)
    else
      let x : UartTx := { pair := p, sub := e.sub, chars := slice e.data 8 n, firstAddr := decide (leAt e.data 2 1 = 1),
                          at_ := e.at?, eligible := !e.atFlag }
      .next ((s.modUart u (fun r => { r with tx := r.tx ++ [x] })).accept p.val e.sub)

/-- The first eligible SEND moved to the front. -/
def uartFront (l : List UartTx) : Option (UartTx × List UartTx) :=
  match l.find? (·.eligible) with
  | some x => some (x, l.filter (fun y => !(decide (y.pair = x.pair) && decide (y.sub = x.sub))))
  | none => none

/-- UART_SEND_START: the line has been idle for one character time, so the next SEND in acceptance order starts (R543). -/
def execUartSendStart (u : Fin 4) (s : State) : Host.Outcome State Fault Refusal :=
  let r := s.uartRt u.val
  if !r.on || r.sending then .next s
  else
    match uartFront r.tx with
    | none => .next s
    | some (x, rest) =>
      .next ((s.modUart u.val (fun r => { r with tx := x :: rest, sending := true })).emitOut (.uart u.val x.chars x.firstAddr))

/-- UART_SEND_END: the driver is released, and the SEND in progress completes (R543, R544). -/
def execUartSendEnd (u : Fin 4) (s : State) : Host.Outcome State Fault Refusal :=
  let r := s.uartRt u.val
  match r.sending, r.tx with
  | true, x :: rest =>
    .next ((s.modUart u.val (fun r => { r with tx := rest, sending := false })).finish x.pair.val x.sub 0 0)
  | _, _ => .next s

/-- The bytes of a UART record (R546). -/
def uartRecord (r : UartRt) : List Byte :=
  leBytes 2 r.chars.length ++ [r.flags, 0] ++ leBytes 4 (tscOf r.start.tb2) ++ leBytes 8 r.start.tb1.toNat ++
    padEight r.chars.reverse

/-- The record in progress on UART u ends and enters the receive queue (R546). -/
def State.uartClose (s : State) (u : Nat) : State :=
  let r := s.uartRt u
  if r.chars.isEmpty then s
  else s.modUart u (fun r => { r with queue := r.queue ++ [uartRecord r], chars := [], flags := 0 })

/-- Bytes of the 16 KiB receive queue that are taken, the record in progress among them. -/
def UartRt.used (r : UartRt) : Nat :=
  (r.queue.map (·.length)).foldl (· + ·) 0 + (if r.chars.isEmpty then 0 else 16 + (r.chars.length + 7) / 8 * 8)

/-- One character joins the record of UART u, or is lost where the queue is full (R546). -/
def State.uartTake (s : State) (u : Nat) (ch : Byte) (addr parityErr framingErr : Bool) (st : LineStamp) : State :=
  let r := s.uartRt u
  let more := if r.chars.isEmpty then 24 else if r.chars.length % 8 = 0 then 8 else 0
  if r.used + more > 16384 then
    let due := s.evtDue 1000000000 r.lastLostEvt
    let n := r.lost0 + 1
    let s := s.modUart u (fun r => { r with
      rxLost := satInc 0xFFFF r.rxLost, lossDue := true, lost0 := if due then 0 else n
      lastLostEvt := if due then some s.time.t2 else r.lastLostEvt })
    if due then s.lostEvent (0x10 + u) n else s
  else
    let fl (old : BitVec 8) : BitVec 8 :=
      old ||| BitVec.ofNat 8 (parityErr.toNat * 2 + framingErr.toNat * 4)
    let s := s.modUart u (fun r =>
      if r.chars.isEmpty then { r with
        chars := [ch], start := st, flags := fl (BitVec.ofNat 8 (addr.toNat + r.lossDue.toNat * 8)), lossDue := false }
      else { r with chars := ch :: r.chars, flags := fl r.flags })
    if (s.uartRt u).chars.length ≥ 4096 then s.uartClose u else s

/-- A parity or framing error is counted, and raises 0x9B at most once per second of TB2 (R546). -/
def State.uartError (s : State) (u : Nat) : State :=
  let r := s.uartRt u
  let due := s.evtDue 1000000000 r.lastErrEvt
  let s := s.modUart u (fun r => { r with
    errCnt := satInc 0xFFFF r.errCnt, lastErrEvt := if due then some s.time.t2 else r.lastErrEvt })
  if due then s.raise 0x9B (BitVec.ofNat 64 u) else s

/-- UART_CHARACTER: a character has been received; start is the stamp of its start bit (R543, R545, R546). -/
def execUartCharacter (u : Fin 4) (ch : BitVec 8) (ninth parityErr framingErr own : Bool) (start : LineStamp) (s : State) :
    Host.Outcome State Fault Refusal :=
  let u := u.val
  if !(s.uartRt u).on || (own && s.rbit (uartOff u) 6) then .next s
  else
    let ch := if s.rbit (uartOff u) 2 then ch &&& 0x7F else ch
    let addr := ninth && s.rbit (uartOff u) 1
    let amask : Byte := BitVec.ofNat 8 (s.rfld (uartOff u + 8) 15 8)
    let own : Byte := BitVec.ofNat 8 (s.rfld (uartOff u + 8) 7 0)
    let s := if addr then
        (s.uartClose u).modUart u (fun r => { r with skip := decide ((ch ^^^ own) &&& amask ≠ 0) })
      else s
    let open_ := !s.rbit (uartOff u) 1 || decide (amask = 0)
    if (s.uartRt u).skip && !open_ then .next (s.drainRx (.uart (Fin.ofNat 4 u)))
    else
      let s := if parityErr || framingErr then s.uartError u else s
      .next ((s.uartTake u ch addr parityErr framingErr start).drainRx (.uart (Fin.ofNat 4 u)))

/-- UART_GAP: GAP character times of idle line end the record (R546). -/
def execUartGap (u : Fin 4) (s : State) : Host.Outcome State Fault Refusal :=
  .next ((s.uartClose u.val).drainRx (.uart u))

/-! ### General-purpose lines (R550) -/

/-- GPn is an input line now: DIR 0. -/
def State.gpInput (s : State) (n : Nat) : Bool := !s.rbit 0xE000 n

/-- A chip-select line that the running parallel-bus cycle drives (R550): CS2 on GP6, CS3 on GP7. -/
def State.csDriven (s : State) (n : Nat) : Bool :=
  match s.leg.pb with
  | x :: _ => x.started && decide (fld (x.entries.getD x.doneN 0) 27 26 = n - 4)
  | [] => false

/-- The input states: a line that serves as a chip select reads its chip-select state (R550). -/
def State.gpRead (s : State) : BitVec 8 :=
  let a := if s.rbit 0xE300 1 then putBit s.leg.gpIn 6 (s.csDriven 6) else s.leg.gpIn
  if s.rbit 0xE300 2 then putBit a 7 (s.csDriven 7) else a

/-- Line n may raise 0x9C: its last one is at least 1 ms old. -/
def State.gpDue (s : State) (n : Nat) : Bool := s.evtDue 1000000 (tget none s.leg.gpLastEvt n)

/-- The input states were old; each change of an enabled input line raises 0x9C, at most once per ms for each line
(R550). -/
def State.gpChanged (s : State) (old : BitVec 8) : State :=
  let new := s.gpRead
  let lines := (List.range 8).filter (fun n =>
    decide (tbit old n ≠ tbit new n) && s.rbit 0xE000 (8 + n) && s.gpInput n && s.gpDue n)
  if lines.isEmpty then s
  else
    let s := s.setLeg { s.leg with gpLastEvt := lines.foldl (fun t n => tput none (some s.time.t2) t n) s.leg.gpLastEvt }
    let mask := (lines.map (fun n => 2 ^ n)).foldl (· + ·) 0
    s.raise 0x9C (BitVec.ofNat 64 (new.toNat + mask * 256))

/-- GP_INPUT_CHANGE: the lines take new levels (R550). -/
def execGpInputChange (states : BitVec 8) (s : State) : Host.Outcome State Fault Refusal :=
  .next ((s.setLeg { s.leg with gpIn := states }).gpChanged s.gpRead)

/-- GP_WRITE: parameter 0x003 of LEG sets the masked output states (R550). -/
def doGpWrite (p : Pair) (s : State) : Host.Outcome State Fault Refusal :=
  match s.takeParam p 1 14 3 with
  | none => .next s
  | some e =>
    if e.value ≥ 2 ^ 16 then .next (s.finish p.val e.sub 0x02 0)
    else
      let mask : Byte := BitVec.ofNat 8 (e.value / 256)
      let out := (s.leg.gpOut &&& ~~~ mask) ||| (BitVec.ofNat 8 e.value &&& mask)
      .next ((s.setLeg { s.leg with gpOut := out }).finish p.val e.sub 0 0)

/-- GP_READ: parameter 0x004 of LEG returns the input states (R550). -/
def execGpRead (p : Pair) (s : State) : Host.Outcome State Fault Refusal :=
  match s.takeParam p 2 14 4 with
  | none => .next s
  | some e =>
    if e.value ≠ 0 then .next (s.finish p.val e.sub 0x02 0)
    else .next (s.finish p.val e.sub 0 (BitVec.ofNat 64 s.gpRead.toNat))

/-! ### The parallel bus (R547 to R549) -/

/-- The entry is valid and its chip select is enabled (R548). -/
def State.pbEntryOk (s : State) (e : BitVec 64) : Bool :=
  let op := fld e 25 24
  let cs := fld e 27 26
  decide (fld e 31 28 = 0) && decide (fld e 63 48 = 0) && (decide (op % 2 = 1) || !tbit e 0) &&
    (decide (op < 2) || decide (fld e 47 32 = 0)) && (decide (cs < 2) || s.rbit 0xE300 (cs - 1))

/-- Operation list i, by its first eligible list, becomes the one that runs; its first cycle starts. -/
def State.pbStart (s : State) : State :=
  let l := s.leg.pb
  if l.any (·.started) then s
  else
    match l.find? (fun x => x.at_.isNone) with
    | none => s
    | some x =>
      let old := s.gpRead
      let rest := l.filter (fun y => !(decide (y.pair = x.pair) && decide (y.sub = x.sub)))
      let s := s.setLeg { s.leg with pb := { x with started := true } :: rest }
      (s.emitOut (.pbCycle (x.entries.getD 0 0))).gpChanged old

/-- PB_SEND: a SEND queues an operation list, or is refused (R548). -/
def execPbSend (p : Pair) (s : State) : Host.Outcome State Fault Refusal :=
  match s.takeSend p (fun q => decide (q = .pb)) with
  | none => .next s
  | some (e, _) =>
    let es := (List.range (e.len / 8)).map (entryAt 64 8 e.data)
    if !s.rbit 0xE300 0 then .next (s.finish p.val e.sub 0x99 0)
    else if e.len < 8 || e.len > 4096 || e.len % 8 ≠ 0 then .next (s.finish p.val e.sub 0x03 0)
    else if s.atBeyond e then .next (s.finish p.val e.sub 0x08 0)
    else
      match es.findIdx? (fun x => !s.pbEntryOk x) with
      | some i => .next (s.finish p.val e.sub 0x91 (BitVec.ofNat 64 i))
      | none =>
        let x : PbRun := { pair := p, sub := e.sub, addr := e.addr, entries := es, at_ := e.at? }
        .next (((s.setLeg { s.leg with pb := s.leg.pb ++ [x] }).accept p.val e.sub).pbStart)

/-- WAIT_EN of an entry's chip select. -/
def State.pbWaits (s : State) (e : BitVec 64) : Bool := s.rbit (0xE310 + 4 * fld e 27 26) 20

/-- PB_READY: READY has been sampled high after T_STB, so the strobe releases two cycles later (R549). -/
def execPbReady (s : State) : Host.Outcome State Fault Refusal :=
  match s.leg.pb with
  | x :: rest =>
    if x.started && s.pbWaits (x.entries.getD x.doneN 0) then
      .next (s.setLeg { s.leg with pb := { x with ready := true } :: rest })
    else .next s
  | [] => .next s

/-- Entry i of an operation list as the module writes it back: data for a read, and the status (R548). -/
def pbPut (e : BitVec 64) (data : Nat) (status : Nat) : BitVec 64 :=
  putFld (if fld e 25 24 ≥ 2 then putFld e 47 32 data else e) 55 48 status

/-- The operation list that runs ends: bytes 4–5 of each read entry and byte 6 of every entry are written to the host, the
SEND completes, and the next list starts (R548). -/
def State.pbFinish (s : State) (x : PbRun) (code : Byte) (result : Nat) : State :=
  let write (s : State) (k : BitVec 64 × Nat) : State :=
    let a := x.addr + BitVec.ofNat 64 (8 * k.2)
    let s := if fld k.1 25 24 ≥ 2 then s.hostWrite (a + 4) (leBytes 2 (fld k.1 47 32)) else s
    s.hostWrite (a + 6) (leBytes 1 (fld k.1 55 48))
  let old := s.gpRead
  let s := x.entries.zipIdx.foldl write s
  let s := (s.setLeg { s.leg with pb := s.leg.pb.drop 1 }).gpChanged old
  (s.finish x.pair.val x.sub code (BitVec.ofNat 64 result)).pbStart

/-- PB_CYCLE_END: the cycle of the present entry has ended, with the data latched at the release for a read (R548, R549). -/
def execPbCycleEnd (data : BitVec 16) (s : State) : Host.Outcome State Fault Refusal :=
  match s.leg.pb with
  | x :: rest =>
    let e := x.entries.getD x.doneN 0
    if !x.started || (s.pbWaits e && !x.ready) then .next s
    else
      let d := if fld e 25 24 = 3 then data.toNat % 256 else data.toNat
      let x : PbRun := { x with entries := setAt x.entries x.doneN (pbPut e d 1), doneN := x.doneN + 1, ready := false }
      if x.doneN ≥ x.entries.length then .next (s.pbFinish x 0 0)
      else
        let s' := s.setLeg { s.leg with pb := x :: rest }
        .next ((s'.emitOut (.pbCycle (x.entries.getD x.doneN 0))).gpChanged s.gpRead)
  | [] => .next s

/-- BUS_TIMEOUT: a strobe has been asserted for 10 µs, READY sampled in its last two cycles or not; the entry reads 0xFFFF, the entries after it are not executed, and the
SEND completes with 0x96 (R549). -/
def execBusTimeout (s : State) : Host.Outcome State Fault Refusal :=
  match s.leg.pb with
  | x :: _ =>
    if !x.started || !s.pbWaits (x.entries.getD x.doneN 0) then .next s
    else
      let es := x.entries.zipIdx.map (fun k =>
        if k.2 < x.doneN then k.1 else if k.2 = x.doneN then pbPut k.1 0xFFFF 2 else pbPut k.1 0 0xFF)
      let s := s.setLeg { s.leg with pbTimeouts := satInc 0xFFFF s.leg.pbTimeouts }
      .next (s.pbFinish { x with entries := es } 0x96 x.doneN)
  | [] => .next s

/-! ### Claims of the general-purpose lines (R550) -/

/-- Claims of one register: the lines it newly takes, by index, and those it gives up. -/
def gpClaims (owner : Nat) (old new : List Nat) (cl : List Claim) : Judged (List Claim) :=
  let cl := (old.filter (fun n => !new.contains n)).foldl (fun cl n => releaseOne cl (0x8000 + n) rankGeneral owner) cl
  claimAll rankGeneral owner (new.map (fun n => 0x8000 + n)) cl

/-- The lines that a value of LEG_GP_CFG takes. -/
def dirLines (w : Word) : List Nat := (List.range 8).filter (fun n => tbit w n)
/-- The lines that a value of LEG_PB takes. -/
def csLines (w : Word) : List Nat := (if tbit w 1 then [6] else []) ++ (if tbit w 2 then [7] else [])

/-- The parallel bus is switched off: its SENDs complete with 0x99 and its queue is released. -/
def State.pbOffNow (s : State) : State :=
  let l := s.leg.pb
  let s := s.setLeg { s.leg with pb := [] }
  let s := s.setClaims (releaseOne s.fio.claims 0x9140 rankGeneral (ownPort 0x20))
  s.finishAll 0x99 (l.map (fun x => (x.pair, x.sub)))

/-- GP_CONFIG_WRITE: a write of LEG_GP_CFG or of LEG_PB's first register. One that would claim a line already held is ignored
and raises 0xB0 (R550). -/
def execGpConfigWrite (reg : GpReg) (w : Word) (s : State) : Host.Outcome State Fault Refusal :=
  if !s.hostUp then .next s else
  match reg with
  | .gpCfg =>
    let n := s.writeBits 0xE000 w
    match gpClaims (ownReg 0) (dirLines (s.reg 0xE000)) (dirLines (n.reg 0xE000)) s.fio.claims with
    | .ok cl => .next (n.setClaims cl)
    | .refused _ r => .next (s.raise 0xB0 r)
  | .pbCtrl =>
    let n := s.writeBits 0xE300 w
    let n := n.setReg 0xE300 (putBit (n.reg 0xE300) 0 (tbit w 0))
    match gpClaims (ownReg 1) (csLines (s.reg 0xE300)) (csLines (n.reg 0xE300)) s.fio.claims with
    | .refused _ r => .next (s.raise 0xB0 r)
    | .ok cl =>
      if tbit w 0 then
        match claim cl 0x9140 rankGeneral (ownPort 0x20) with
        | .ok cl => .next ((n.setClaims cl).gpChanged s.gpRead)
        | .refused _ r => .next (s.raise 0xB0 r)
      else .next ((n.setClaims cl).pbOffNow.gpChanged s.gpRead)

/-! ### Plant ports (R71, R72, R97) -/

/-- A plant frame leaves, and its transmit stamp enters the queue where TSTAMP asks for it (R71, R72). -/
def State.plantOut (s : State) (port : Fin 2) (bytes : List Byte) (tstamp : Bool) (tag : BitVec 16) : State :=
  let s := s.emitOut (.plant port.val bytes)
  if tstamp then s.pushTsq tag port else s

/-- PLANT_SEND: a SEND on a plant port transmits its frame, at once or at its AT instant (R71, R97). -/
def execPlantSend (p : Pair) (s : State) : Host.Outcome State Fault Refusal :=
  match s.takeSend p (fun q => match q with | .plant _ => true | _ => false) with
  | some (e, .plant port) =>
    if s.atBeyond e then .next (s.finish p.val e.sub 0x08 0)
    else if e.atFlag then
      let x : PlantTx := { pair := p, sub := e.sub, port := port, tag := e.tag, tstamp := e.tstamp, at_ := e.atInstant,
                           bytes := e.data }
      .next ((s.setLeg { s.leg with plantTx := s.leg.plantTx ++ [x] }).accept p.val e.sub)
    else .next ((s.plantOut port e.data e.tstamp e.tag).finish p.val e.sub 0 0)
  | _ => .next s

/-- PLANT_MESSAGE_RECEIVE: a plant frame arrives and fills the oldest buffer of its port, which completes with the bytes
received (R97). -/
def execPlantMessageReceive (port : Fin 2) (bytes : List Byte) (s : State) : Host.Outcome State Fault Refusal :=
  match s.leg.rxBufs.find? (fun b => decide (b.port = .plant port)) with
  | none => .next s
  | some b =>
    let s := s.setLeg { s.leg with
      rxBufs := s.leg.rxBufs.filter (fun x => !(decide (x.pair = b.pair) && decide (x.sub = b.sub))) }
    if bytes.length > b.size then .next (s.finish b.pair.val b.sub 0x09 0)
    else .next ((s.hostWrite b.addr bytes).finish b.pair.val b.sub 0 (BitVec.ofNat 64 bytes.length))

/-! ### AT instants (R539, R544) -/

/-- An AT instant falls in the present tick of TB1, or has passed (R62, R64). -/
def State.atDue (s : State) (t : Option Time) : Bool :=
  match t with
  | some t => decide (s.time.tb1.tickOf t ≤ 0)
  | none => false

/-- MESSAGE_AT_LAUNCH: the SENDs of a port whose AT instant has come become eligible, as a launch (R62, R539, R544). -/
def execMessageAtLaunch (port : Port) (s : State) : Host.Outcome State Fault Refusal :=
  if !s.time.tb1Lock then .next s
  else
    match port with
    | .can c =>
      let go (x : CanTx) : CanTx :=
        if s.atDue x.at_ && x.eligible.isNone then { x with eligible := some s.time.t2 } else x
      .next (s.modCan c.val (fun r => { r with tx := r.tx.map go }))
    | .uart u =>
      let go (x : UartTx) : UartTx := { x with eligible := x.eligible || s.atDue x.at_ }
      .next (s.modUart u.val (fun r => { r with tx := r.tx.map go }))
    | .pb =>
      let go (x : PbRun) : PbRun := if s.atDue x.at_ then { x with at_ := none } else x
      .next ((s.setLeg { s.leg with pb := s.leg.pb.map go }).pbStart)
    | .plant k =>
      let mine (x : PlantTx) : Bool := decide (x.port = k) && s.atDue (some x.at_)
      let due := s.leg.plantTx.filter mine
      let s := s.setLeg { s.leg with plantTx := s.leg.plantTx.filter (fun x => !mine x) }
      .next (due.foldl (fun s x => (s.plantOut k x.bytes x.tstamp x.tag).finish x.pair.val x.sub 0 0) s)

/-! ### Reset (R523) -/

/-- A logic-side reset discards what the bridge holds; SENDs not completed complete with 0x99 (R523). -/
def State.resetBridge (s : State) : State :=
  let f := (List.range 4).flatMap (fun c => (s.canRt c).tx.map (fun t => (t.pair, t.sub)))
  let g := (List.range 4).flatMap (fun u => (s.uartRt u).tx.map (fun t => (t.pair, t.sub)))
  let h := s.leg.pb.map (fun x => (x.pair, x.sub)) ++ s.leg.plantTx.map (fun x => (x.pair, x.sub))
  let can (r : CanRt) : CanRt := { r with
    st := .off, cfgErr := false, tec := 0, rec_ := 0, q0 := [], q1 := [], loss0 := false, loss1 := false, lost0 := 0, ndat := false, tx := []
    lastLostEvt := none }
  let uart (r : UartRt) : UartRt := { r with
    on := false, cfgErr := false, tx := [], sending := false, chars := [], flags := 0, skip := false, queue := [],
    lossDue := false, lost0 := 0, lastLostEvt := none, lastErrEvt := none }
  let s := s.setLeg { s.leg with
    filters := [], can := tmap {} can s.leg.can, uart := tmap {} uart s.leg.uart, pb := [], plantTx := [], rxBufs := [], gpOut := 0
    gpLastEvt := [] }
  s.finishAll 0x99 (f ++ g ++ h)

end Sys2Proof.Machine
end

