-- ==== Sys2Proof/Machine/Changes.lean ====
section
/-! DEFINITION. The descriptors that change a module (R449): refused on a member of a twin that does not act, mirrored to
the standby of a holder, carried out at once elsewhere. With them the shape of every table, the witness table, and what
runs a descriptor that did not come from a ring: a mirrored change, an item of the persistent configuration. -/

namespace Sys2Proof.Machine

/-! ### Tables (R97, R406) -/

/-- Entries, bytes per entry and whether a LOAD is taken, for each table; none for a table that is not there. The safety
parameters have no path from the logic side (R18). -/
def tableShape (block num : Nat) : Option (Nat × Nat × Bool) :=
  match block, num with
  | 4, 1 => some (4095, 16, false)
  | 5, 1 => some (4096, 160, true)
  | 5, 2 => some (16384, 4, true)
  | 5, 3 => some (4096, 64, true)
  | 6, 1 => some (4096, 8, true)
  | 6, 2 => some (4096, 8, true)
  | 7, 1 => some (128, 8, true)
  | 7, 2 => some (32, 8, true)
  | 7, 3 => some (640, 32, true)
  | 7, 4 => some (64, 32, true)
  | 7, 5 => some (128, 16, true)
  | 8, 1 => some (48, 8, true)
  | 8, 2 => some (64, 8, true)
  | 8, 3 => some (16, 8, true)
  | 8, 4 => some (16, 8, true)
  | 8, 5 => some (256, 16, true)
  | 8, 6 => some (96, 8, true)
  | 8, 15 => some (claimIds.length, 8, false)
  | 9, 1 => some (16, 64, true)
  | 9, 2 => some (512, 8, true)
  | 9, 3 => some (1024, 16, true)
  | 10, 1 => some (4096, 8, true)
  | 10, 2 => some (4096, 8, true)
  | 10, 3 => some (64, 8, true)
  | 10, 4 => some (4096, 8, false)
  | 10, 32 => some (256, 16, false)
  | 11, 1 => some (16, 8, true)
  | 12, 1 => some (256, 16, false)
  | 12, 2 => some (16, 8, false)
  | 14, 1 => some (256, 16, true)
  | 15, 0x101 => some (1, 1024, false)
  | 15, 0x102 => some (254, 1024, false)
  | 7, n => if 16 ≤ n && n ≤ 20 then some (65, 8, true) else none
  | 10, n => if 16 ≤ n && n ≤ 23 then some (256, 32, true) else none
  | _, _ => none

/-! ### The witness table (R465) -/

/-- The effect of WITNESS_TABLE_LOAD: table 0x001 of TWN (R465). -/
def doWitnessTableLoad (p : Pair) (s : State) : Host.Outcome State Fault Refusal :=
  match s.takeLoad p 11 1 with
  | none => .next s
  | some e =>
    let l := withIndex e.first e.words64
    if l.any (fun x => decide (fld x.2 63 49 ≠ 0) || decide (fld x.2 11 0 = s.station)) then .next (s.finish p.val e.sub 0x02 0)
    else
      .next ({ s with twn := { s.twn with witTab := tload (fun _ => 0) s.twn.witTab l } }.finish p.val e.sub 0
        (BitVec.ofNat 64 e.count))

/-! ### Which meaning a descriptor has -/

/-- The state that an outcome leaves. -/
def after (s : State) : Host.Outcome State Fault Refusal → State
  | .next t => t
  | .fault _ => s
  | .refused _ => s

/-- A table LOAD takes effect by its table. -/
def runTable (p : Pair) (block num : Nat) (s : State) : State :=
  match block, num with
  | 5, 1 => after s (doSlotTableLoad p s)
  | 5, 2 => after s (doMicroprogramLoad p s)
  | 5, 3 => after s (doModelTableLoad p s)
  | 6, 1 => after s (doInputMapLoad p s)
  | 6, 2 => after s (doOutputMapLoad p s)
  | 7, 1 => after s (doChannelTableLoad p s)
  | 7, 2 => after s (doDacTableLoad p s)
  | 7, 3 => after s (doCoefficientLoad p s)
  | 7, 4 => after s (doDacCoefficientLoad p s)
  | 7, 5 => after s (doSkewLoad p s)
  | 8, 1 => after s (doHighSideTableLoad p s)
  | 8, 2 => after s (doInputTableLoad p s)
  | 8, 3 => after s (doEncoderTableLoad p s)
  | 8, 4 => after s (doPulseTableLoad p s)
  | 8, 5 => after s (doProfileTableLoad p s)
  | 8, 6 => after s (doHoldPolicyTableLoad p s)
  | 9, 1 => after s (doRegionTableLoad p s)
  | 9, 2 => after s (doLineTableLoad p s)
  | 9, 3 => after s (doMaskTableLoad p s)
  | 10, 1 => after s (doReceiveMapLoad p s)
  | 10, 2 => after s (doStationTableLoad p s)
  | 10, 3 => after s (doSegmentTableLoad p s)
  | 11, 1 => after s (doWitnessTableLoad p s)
  | 14, 1 => after s (doFilterTableLoad p s)
  | 7, _ => after s (doScanListLoad p s)
  | 10, _ => after s (doScheduleLoad p s)
  | _, _ => s

/-- A parameter WRITE takes effect by its parameter. -/
def runParam (p : Pair) (block index : Nat) (s : State) : State :=
  match block, index with
  | 7, 1 => after s (doUrgent p s)
  | 7, 2 => after s (doRotate p s)
  | 7, 3 => after s (doCalMeasure p s)
  | 8, 1 => after s (doHsClrFault p s)
  | 9, 1 => after s (doMireArm p s)
  | 9, 2 => after s (doForce p s)
  | 9, 3 => after s (doMireStop p s)
  | 10, 1 => after s (doModeChange p s)
  | 14, 1 => after s (doHpAck p s)
  | 14, 2 => after s (doRecover p s)
  | 14, 3 => after s (doGpWrite p s)
  | _, _ => s

/-- The change that descriptor e at the front of pair p asks for takes effect. -/
def State.runDesc (s : State) (p : Pair) (e : Entry) : State :=
  match e.cls, e.op with
  | 1, 1 => runTable p e.tblBlock e.tblNum s
  | 2, 1 => runParam p e.parBlock e.parIndex s
  | 2, 3 => after s (doTimeSet p s)
  | 3, 1 => after s (doLoadImage p s)
  | 3, 2 => after s (doExchange p s)
  | _, _ => s

/-- A change that came from no ring is carried out, with the code and RESULT it would have completed with: none while its
completion is still open. It runs as a descriptor before those of pair 63, under a submission count that no descriptor of
that pair is near, and leaves no entry. -/
def State.runApart (s : State) (cls : Nat) (raw : BitVec 512) (data : List Byte) : State × Option (Byte × BitVec 64) :=
  let sub := (s.pairRt 63).base + (s.pairRt 63).fetched + 0x80000000
  let lead : Entry := { sub := sub + 1, raw := 0, cls := cls, stage := .accepted }
  let e : Entry := { sub := sub, raw := putBit raw 8 false, cls := cls, data := data }
  let t := (s.viaHif (fun _ => modPair 63 (fun r => { r with entries := lead :: e :: r.entries }))).runDesc 63 e
  let cpl := ((t.pairRt 63).entries.find? (fun x => decide (x.sub = sub))).bind (·.cpl)
  (t.viaHif (fun c x => drainPair c 63 (modPair 63 (fun r => { r with
    entries := r.entries.filter (fun x => decide (x.sub ≠ sub) && decide (x.sub ≠ sub + 1)) }) x)),
   cpl.map (fun k => (k.code, k.result)))

/-- Class of a 32-byte change descriptor, whose class field its ring gave: TIME_SET and EXCHANGE by their operations, a
parameter WRITE uses no host data, a table LOAD has a COUNT, an image LOAD has none (R97). -/
def classOfDesc (raw : BitVec 512) : Nat :=
  match fld raw 7 0 with
  | 3 => 2
  | 2 => 3
  | _ => if fld raw 63 32 = 0 then 2 else if fld raw 223 192 ≠ 0 then 1 else 3

/-! ### Tables of the persistent configuration (R40, R327) -/

/-- The LOAD_IMAGE or EXCHANGE descriptor (op 1, 2) of a task's image (R235). -/
def imageDesc (op len task id : Nat) : BitVec 512 :=
  BitVec.ofNat 512 (op + len * 2 ^ 32 + task * 2 ^ 128 + id * 2 ^ 160)

/-- A descriptor of an item of the persistent configuration takes effect; a claim refused raises 0xB4 and leaves the item
unloaded (R327). -/
def State.loadApart (s : State) (cls : Nat) (raw : BitVec 512) (data : List Byte) : State :=
  let x := s.runApart cls raw data
  match x.2 with
  | some (c, w) => if c = 0xB0 || c = 0xB1 || c = 0xB2 then s.raise 0xB4 w else x.1
  | none => x.1

/-- An item of the persistent configuration other than a register value is loaded (R327). -/
def State.loadItem (s : State) (it : PersistItem) : State :=
  match it with
  | .reg _ _ => s
  | .table t first data =>
    match tableShape (fld t 15 12) (fld t 11 0) with
    | some (_, size, true) =>
      s.loadApart 1 (BitVec.ofNat 512 (1 + data.length * 2 ^ 32 + t.toNat * 2 ^ 128 + first * 2 ^ 160 + data.length / size * 2 ^ 192)) data
    | _ => s
  | .image task bytes =>
    let id := iId bytes
    let s' := s.loadApart 3 (imageDesc 1 bytes.length task.val id) bytes
    (s'.runApart 3 (imageDesc 2 0 task.val id) []).1

/-! ### Changes of a twin (R449) -/

/-- A descriptor that changes the module: 0x70 on a member that does not act; on a holder whose partner is its standby a
CHANGE that waits for its acknowledgement, unless the descriptor is refused; else its effect. DESIGN CHOICE (log 107): the base
period that the CHANGE names is the first that begins after the 1 ms for the acknowledgement. -/
def State.asChange (s : State) (p : Pair) (mine : Option Entry) (f : State → Host.Outcome State Fault Refusal) :
    Host.Outcome State Fault Refusal :=
  match mine with
  | none => .next s
  | some e =>
    if !s.roleActs then .next (s.finish p.val e.sub 0x70 0)
    else
      let refused : Bool := match (s.runApart e.cls e.raw e.data).2 with
        | some (c, _) => decide (c ≠ 0)
        | none => false
      if !s.mirrors || refused then f s
      else
        let eff := s.cmb.n + 51
        let s := s.sendChange eff (leBytes 32 e.raw.toNat) e.data
        let ch : TwinChange := { seq := s.twn.changeSeq, pair := p, sub := e.sub, eff := eff }
        let s : State := { s with twn := { s.twn with changes := s.twn.changes ++ [ch] } }
        .next (s.viaHif (fun _ => modPair p.val (fun r => { r with
          entries := r.entries.map (fun x => if x.sub = e.sub && decide (x.stage = .handed) then
            { x with stage := .mirrored } else x) })))

/-- A descriptor that changes only what is no part of a twin's role: 0x70 on a member that does not act, never mirrored
(R449, R522). -/
def State.asOwnChange (s : State) (p : Pair) (mine : Option Entry) (f : State → Host.Outcome State Fault Refusal) :
    Host.Outcome State Fault Refusal :=
  match mine with
  | none => .next s
  | some e => if !s.roleActs then .next (s.finish p.val e.sub 0x70 0) else f s

/-- A mirrored change goes on: its descriptor is handed over again and takes effect, or is refused where the member acts
no more before it was accepted (R449). -/
def State.resumeChange (s : State) (seq : Word) : State :=
  match s.twn.changes.find? (fun x => decide (x.seq = seq)) with
  | none => s
  | some ch =>
    let s := { s with twn := { s.twn with changes := s.twn.changes.filter (fun x => decide (x.seq ≠ seq)) } }
    match (s.pairRt ch.pair.val).entries.find? (fun x => decide (x.sub = ch.sub) && decide (x.stage = .mirrored)) with
    | none => s
    | some e =>
      let s := s.viaHif (fun _ => modPair ch.pair.val (fun r => { r with
        entries := r.entries.map (fun x => if x.sub = ch.sub && decide (x.stage = .mirrored) then
          { x with stage := .handed } else x) }))
      if s.roleActs || ch.acked then s.runDesc ch.pair e else s.finish ch.pair.val ch.sub 0x70 0

/-- The changes accepted for base period n or an earlier one take effect, in their order (R449). -/
def State.dueChanges (s : State) (n : Nat) : State :=
  (s.twn.changes.filter (fun x => x.acked && decide (x.eff ≤ n))).foldl (fun s x => s.resumeChange x.seq) s

/-- A mirrored change is accepted; it waits for its base period where that has not begun (R449). -/
def State.acceptChange (s : State) (seq : Word) : State :=
  State.dueChanges { s with twn := { s.twn with
    changes := s.twn.changes.map (fun x => if x.seq = seq then { x with acked := true } else x) } } s.cmb.n

/-! ### The rows -/

/-- SLOT_TABLE_LOAD: a LOAD of table 0x001 of CMB (R172, R187). -/
def execSlotTableLoad (p : Pair) (s : State) : Host.Outcome State Fault Refusal :=
  s.asChange p (s.takeLoad p 5 1) (doSlotTableLoad p)

/-- MICROPROGRAM_LOAD: a LOAD of table 0x002 of CMB (R178). -/
def execMicroprogramLoad (p : Pair) (s : State) : Host.Outcome State Fault Refusal :=
  s.asChange p (s.takeLoad p 5 2) (doMicroprogramLoad p)

/-- MODEL_TABLE_LOAD: a LOAD of table 0x003 of CMB (R197). -/
def execModelTableLoad (p : Pair) (s : State) : Host.Outcome State Fault Refusal :=
  s.asChange p (s.takeLoad p 5 3) (doModelTableLoad p)

/-- INPUT_MAP_LOAD: a LOAD of table 0x001 of BLK (R229). -/
def execInputMapLoad (p : Pair) (s : State) : Host.Outcome State Fault Refusal :=
  s.asChange p (s.takeLoad p 6 1) (doInputMapLoad p)

/-- OUTPUT_MAP_LOAD: a LOAD of table 0x002 of BLK (R229). -/
def execOutputMapLoad (p : Pair) (s : State) : Host.Outcome State Fault Refusal :=
  s.asChange p (s.takeLoad p 6 2) (doOutputMapLoad p)

/-- CHANNEL_TABLE_LOAD: a LOAD of table 0x001 of CNV (R264, R276). -/
def execChannelTableLoad (p : Pair) (s : State) : Host.Outcome State Fault Refusal :=
  s.asChange p (s.takeLoad p 7 1) (doChannelTableLoad p)

/-- DAC_TABLE_LOAD: a LOAD of table 0x002 of CNV (R294). -/
def execDacTableLoad (p : Pair) (s : State) : Host.Outcome State Fault Refusal :=
  s.asChange p (s.takeLoad p 7 2) (doDacTableLoad p)

/-- COEFFICIENT_LOAD: a LOAD of table 0x003 of CNV (R290, R291). -/
def execCoefficientLoad (p : Pair) (s : State) : Host.Outcome State Fault Refusal :=
  s.asChange p (s.takeLoad p 7 3) (doCoefficientLoad p)

/-- DAC_COEFFICIENT_LOAD: a LOAD of table 0x004 of CNV (R290, R291). -/
def execDacCoefficientLoad (p : Pair) (s : State) : Host.Outcome State Fault Refusal :=
  s.asChange p (s.takeLoad p 7 4) (doDacCoefficientLoad p)

/-- SKEW_LOAD: a LOAD of table 0x005 of CNV (R293). -/
def execSkewLoad (p : Pair) (s : State) : Host.Outcome State Fault Refusal :=
  s.asChange p (s.takeLoad p 7 5) (doSkewLoad p)

/-- HIGH_SIDE_TABLE_LOAD: a LOAD of table 0x001 of FIO (R303). -/
def execHighSideTableLoad (p : Pair) (s : State) : Host.Outcome State Fault Refusal :=
  s.asChange p (s.takeLoad p 8 1) (doHighSideTableLoad p)

/-- INPUT_TABLE_LOAD: a LOAD of table 0x002 of FIO (R313). -/
def execInputTableLoad (p : Pair) (s : State) : Host.Outcome State Fault Refusal :=
  s.asChange p (s.takeLoad p 8 2) (doInputTableLoad p)

/-- ENCODER_TABLE_LOAD: a LOAD of table 0x003 of FIO (R315). -/
def execEncoderTableLoad (p : Pair) (s : State) : Host.Outcome State Fault Refusal :=
  s.asChange p (s.takeLoad p 8 3) (doEncoderTableLoad p)

/-- PULSE_TABLE_LOAD: a LOAD of table 0x004 of FIO (R321). -/
def execPulseTableLoad (p : Pair) (s : State) : Host.Outcome State Fault Refusal :=
  s.asChange p (s.takeLoad p 8 4) (doPulseTableLoad p)

/-- PROFILE_TABLE_LOAD: a LOAD of table 0x005 of FIO (R323). -/
def execProfileTableLoad (p : Pair) (s : State) : Host.Outcome State Fault Refusal :=
  s.asChange p (s.takeLoad p 8 5) (doProfileTableLoad p)

/-- HOLD_POLICY_TABLE_LOAD: a LOAD of table 0x006 of FIO (R309). -/
def execHoldPolicyTableLoad (p : Pair) (s : State) : Host.Outcome State Fault Refusal :=
  s.asChange p (s.takeLoad p 8 6) (doHoldPolicyTableLoad p)

/-- REGION_TABLE_LOAD: a LOAD of table 0x001 of MIR (R331). -/
def execRegionTableLoad (p : Pair) (s : State) : Host.Outcome State Fault Refusal :=
  s.asChange p (s.takeLoad p 9 1) (doRegionTableLoad p)

/-- LINE_TABLE_LOAD: a LOAD of table 0x002 of MIR (R334). -/
def execLineTableLoad (p : Pair) (s : State) : Host.Outcome State Fault Refusal :=
  s.asChange p (s.takeLoad p 9 2) (doLineTableLoad p)

/-- MASK_TABLE_LOAD: a LOAD of table 0x003 of MIR (R355). -/
def execMaskTableLoad (p : Pair) (s : State) : Host.Outcome State Fault Refusal :=
  s.asChange p (s.takeLoad p 9 3) (doMaskTableLoad p)

/-- RECEIVE_MAP_LOAD: a LOAD of table 0x001 of WAG (R408). -/
def execReceiveMapLoad (p : Pair) (s : State) : Host.Outcome State Fault Refusal :=
  s.asChange p (s.takeLoad p 10 1) (doReceiveMapLoad p)

/-- STATION_TABLE_LOAD: a LOAD of table 0x002 of WAG (R408). -/
def execStationTableLoad (p : Pair) (s : State) : Host.Outcome State Fault Refusal :=
  s.asChange p (s.takeLoad p 10 2) (doStationTableLoad p)

/-- SEGMENT_TABLE_LOAD: a LOAD of table 0x003 of WAG (R408). -/
def execSegmentTableLoad (p : Pair) (s : State) : Host.Outcome State Fault Refusal :=
  s.asChange p (s.takeLoad p 10 3) (doSegmentTableLoad p)

/-- WITNESS_TABLE_LOAD: a LOAD of table 0x001 of TWN (R465). -/
def execWitnessTableLoad (p : Pair) (s : State) : Host.Outcome State Fault Refusal :=
  s.asChange p (s.takeLoad p 11 1) (doWitnessTableLoad p)

/-- FILTER_TABLE_LOAD: a LOAD of table 0x001 of LEG (R528). -/
def execFilterTableLoad (p : Pair) (s : State) : Host.Outcome State Fault Refusal :=
  s.asOwnChange p (s.takeLoad p 14 1) (doFilterTableLoad p)

/-- URGENT: parameter URGENT of CNV (R279) is written. -/
def execUrgent (p : Pair) (s : State) : Host.Outcome State Fault Refusal :=
  s.asChange p (s.takeParam p 1 7 1) (doUrgent p)

/-- ROTATE: parameter ROTATE of CNV (R284) is written. -/
def execRotate (p : Pair) (s : State) : Host.Outcome State Fault Refusal :=
  s.asChange p (s.takeParam p 1 7 2) (doRotate p)

/-- CAL_MEASURE: parameter CAL_MEASURE of CNV (R292) is written. -/
def execCalMeasure (p : Pair) (s : State) : Host.Outcome State Fault Refusal :=
  s.asChange p (s.takeParam p 1 7 3) (doCalMeasure p)

/-- HS_CLR_FAULT: parameter 0x001 of FIO (R303) is written. -/
def execHsClrFault (p : Pair) (s : State) : Host.Outcome State Fault Refusal :=
  s.asChange p (s.takeParam p 1 8 1) (doHsClrFault p)

/-- MIRE_ARM: parameter ARM of MIR (R361) is written. -/
def execMireArm (p : Pair) (s : State) : Host.Outcome State Fault Refusal :=
  s.asChange p (s.takeParam p 1 9 1) (doMireArm p)

/-- FORCE: parameter FORCE of MIR (R361) is written. -/
def execForce (p : Pair) (s : State) : Host.Outcome State Fault Refusal :=
  s.asChange p (s.takeParam p 1 9 2) (doForce p)

/-- MIRE_STOP: parameter STOP of MIR (R361) is written. -/
def execMireStop (p : Pair) (s : State) : Host.Outcome State Fault Refusal :=
  s.asChange p (s.takeParam p 1 9 3) (doMireStop p)

/-- MODE_CHANGE: parameter MODE_CHANGE of WAG (R429) is written. -/
def execModeChange (p : Pair) (s : State) : Host.Outcome State Fault Refusal :=
  s.asChange p (s.takeParam p 1 10 1) (doModeChange p)

/-- HP_ACK: parameter HP_ACK of LEG (R536) is written. -/
def execHpAck (p : Pair) (s : State) : Host.Outcome State Fault Refusal :=
  s.asOwnChange p (s.takeParam p 1 14 1) (doHpAck p)

/-- RECOVER: parameter RECOVER of LEG (R541) is written. -/
def execRecover (p : Pair) (s : State) : Host.Outcome State Fault Refusal :=
  s.asOwnChange p (s.takeParam p 1 14 2) (doRecover p)

/-- GP_WRITE: parameter GP_WRITE of LEG (R550) is written. -/
def execGpWrite (p : Pair) (s : State) : Host.Outcome State Fault Refusal :=
  s.asOwnChange p (s.takeParam p 1 14 3) (doGpWrite p)

/-- The next descriptor of pair p if it is a LOAD of one of the tables [lo, hi] of a block. -/
def State.takeLoadIn (s : State) (p : Pair) (block lo hi : Nat) : Option Entry :=
  match s.takeOp p.val 1 1 with
  | some e => if e.tblBlock = block && decide (lo ≤ e.tblNum) && decide (e.tblNum ≤ hi) then some e else none
  | none => none

/-- SCAN_LIST_LOAD: a LOAD of table 0x010 to 0x014 of CNV (R274, R276). -/
def execScanListLoad (p : Pair) (s : State) : Host.Outcome State Fault Refusal :=
  s.asChange p (s.takeLoadIn p 7 16 20) (doScanListLoad p)

/-- SCHEDULE_LOAD: a LOAD of table 0x010 + m of WAG (R407, R409). -/
def execScheduleLoad (p : Pair) (s : State) : Host.Outcome State Fault Refusal :=
  s.asChange p (s.takeLoadIn p 10 16 23) (doScheduleLoad p)

/-- LOAD_IMAGE: a program image for a task (R238, R250). -/
def execLoadImage (p : Pair) (s : State) : Host.Outcome State Fault Refusal :=
  s.asChange p (s.takeOp p.val 3 1) (doLoadImage p)

/-- EXCHANGE: a task takes its inactive image at its next release (R250 to R255). -/
def execExchange (p : Pair) (s : State) : Host.Outcome State Fault Refusal :=
  s.asChange p (s.takeOp p.val 3 2) (doExchange p)

/-- TIME_SET: TB0 is set (R58, R98). -/
def execTimeSet (p : Pair) (s : State) : Host.Outcome State Fault Refusal :=
  s.asChange p (s.takeOp p.val 2 3) (doTimeSet p)

/-- READ_ONLY_TABLE_LOAD: a LOAD of a table that can only be read is refused with 0x02, on a member that does not act with
0x70 (R158, R328, R406, R449, R473). -/
def execReadOnlyTableLoad (p : Pair) (s : State) : Host.Outcome State Fault Refusal :=
  match s.takeOp p.val 1 1 with
  | none => .next s
  | some e =>
    match tableShape e.tblBlock e.tblNum with
    | some (_, _, false) => .next (s.finish p.val e.sub (if s.roleActs then 0x02 else 0x70) 0)
    | _ => .next s

end Sys2Proof.Machine
end

