-- ==== Sys2Proof/Machine/Twin.lean ====
section
/-! DEFINITION. Twins and the crown lease (R439 to R465): the twin link, snapshots and their replay, changes, state images,
lease words, grants, handover and take-over. -/

namespace Sys2Proof.Machine

/-- What a state image carries from a holder (R453). -/
structure TwinImage where
  /-- the base period at whose end it was taken -/
  n       : Nat
  /-- TB1 and TB2 of the holder when it was taken -/
  tb1     : Time
  t2      : Nat
  epoch   : Time
  slots   : Sparse (BitVec 1280)
  store   : Sparse Word
  models  : Sparse (BitVec 512)
  rt      : Sparse SlotRt
  blk     : BlkState
  txWords : Sparse Val40
  rxWords : Sparse RxWord
  stations : Sparse StnRt
  stp     : StpState
  hold    : Sparse HoldRt
  persist : List PersistItem
  deriving DecidableEq, Repr

end Sys2Proof.Machine

/-- The bytes in which a state image crosses the link: R453 gives what it holds, no format. -/
opaque Sys2Proof.Config.encodeImage : Sys2Proof.Machine.TwinImage → List Sys2Proof.Byte
/-- The state image that received bytes hold, none where they hold none. -/
opaque Sys2Proof.Config.decodeImage : List Sys2Proof.Byte → Option Sys2Proof.Machine.TwinImage

namespace Sys2Proof.Machine

/-! ### Plain helpers -/

/-- The state with the twin's part changed. -/
def State.setTwn (s : State) (t : TwnState) : State := { s with twn := t }

/-- MEMBER of TWN_CTRL. -/
def State.member (s : State) : Bool := s.rbit 0xB000 1

/-- The active firmware activation's identity. -/
def State.actId (s : State) : Word := ((tget {} s.lcy.slots s.lcy.slotB.toNat : Activation)).pkgId

/-- Own HEALTH bits 2:0 (R445). -/
def State.health (s : State) : BitVec 3 :=
  let link := s.time.tb1Lock && s.wag.refOk
  let field := s.pw.variantL || (s.pw.fieldPresent && !s.pw.frefFb)
  let inStep := decide (s.twn.st = .standby) || (decide (s.twn.st = .holder) && s.twn.inStep)
  BitVec.ofNat 3 (link.toNat + 2 * field.toNat + 4 * inStep.toNat)

/-- A frame of the twin link has been received in this base period (R445). -/
def State.linkFrame (s : State) : State := s.setTwn { s.twn with frameThis := true }

/-- A standby leaves step: UNSYNCED, and what it had for its replay is gone (R448, R449, R452). -/
def State.leaveStep (s : State) : State :=
  s.setTwn { s.twn with
    st := .unsynced, snaps := [], mirrored := [], ownFrames := [], image := [], loaded := false, accepted := false, hashAcc := [] }

/-- HEALTH of the partner (R445). A holder takes from it that its partner has left step: IN_STEP has gone from 1 to 0, or is 0
500 ms after the state image (R453). A standby that has not accepted a handover takes from its holder's IN_STEP = 0 that the
holder found a mismatch or left a change unmirrored, and becomes UNSYNCED (R449, R452). DESIGN CHOICE (log 67): the spec gives no
other frame that tells either. -/
def State.takeHealth (s : State) (h : BitVec 3) : State :=
  let t := s.twn
  let left := !tbit h 2 && (tbit t.peerHealth 2 || decide (t.imageAt + 500000000 ≤ s.time.t2))
  let s := s.setTwn { t with peerHealth := h, inStep := t.inStep && !(left && decide (t.st = .holder)) }
  if t.st = .standby && !t.accepted && !tbit h 2 then s.leaveStep else s

/-- A lease word (R455). -/
def leaseWord (type role : Nat) (member : Bool) (seq n : Nat) : Val40 :=
  BitVec.ofNat 40 (type + role * 2 ^ 4 + member.toNat * 2 ^ 16 + seq % 256 * 2 ^ 24 + n % 256 * 2 ^ 32)

/-- A lease word of this member leaves on the link, with its HEALTH (R445, R455). -/
def State.sendLease (s : State) (type : Nat) (member : Bool) (seq : BitVec 8) (n : Nat) : State :=
  s.emitOut (.lease type s.station member seq (BitVec.ofNat 8 n) s.health)

/-- A lease word of this member goes into its lease window (R440). -/
def State.leaseWindow (s : State) (type : Nat) (seq : BitVec 8) (n : Nat) : State :=
  s.txWrite (s.rfld 0xB008 23 12) (Int.ofNat (leaseWord type s.station s.member seq.toNat n).toNat)

/-- The number nearest to near whose low 8 bits are given. -/
def nearByte (near : Nat) (n : BitVec 8) : Nat :=
  let d := (BitVec.ofNat 8 near - n).toInt
  (Int.ofNat near - d).toNat

/-- The output hash of a base period (R451): values in the order of their instants, those of one tick of TB1 as they came (R64). -/
def outputHash (t : Tb) (acc : List (Time × Nat × Int)) : Word :=
  let l := sortBy (fun a b => decide (t.tickOf a.1 ≤ t.tickOf b.1)) acc
  BitVec.ofNat 32 (crc32c (l.flatMap (fun x => leBytes 2 x.2.1 ++ leBytes 5 (bitsOf 40 x.2.2).toNat)))

/-! ### Grants (R454 to R458) -/

/-- A grant's end has not been reached on TB2. -/
def State.unexpired (s : State) (e : Option Nat) : Bool := e.any (fun t => decide (s.time.t2 < t))

/-- This member holds a grant that it sees as unexpired (R454). -/
def State.hasGrant (s : State) : Bool := s.unexpired s.twn.peerEnd || s.unexpired s.twn.witEnd

/-- The latest end of the grants held, on TB2. -/
def State.grantEnd (s : State) : Option Nat :=
  match s.twn.peerEnd.filter (fun t => decide (s.time.t2 < t)), s.twn.witEnd.filter (fun t => decide (s.time.t2 < t)) with
  | some a, some b => some (max a b)
  | some a, none => some a
  | none, e => e

/-- ACT_UNTIL from the grants held: 100 µs before the latest end, as a TB1 instant (R444, R457). -/
def State.grantActUntil (s : State) : Option Time :=
  s.grantEnd.map (fun e => tadd s.time.tb1.ns (Int.ofNat e - Int.ofNat s.time.t2 - 100000))

/-- ACT_UNTIL is refreshed on the logic side and sent to the field side, which waits for the handover instant and 100 ns before it
drives (R444, R458). -/
def State.refreshAct (s : State) : State :=
  let drive := if s.twn.driveFrom.any (fun f => decide (sdiff f s.time.tb1.ns > 0)) then s.twn.driveFrom else none
  match s.grantActUntil with
  | some t => (s.setTwn { s.twn with actUntil := some t, driveFrom := drive }).sendDown (.actUntil t drive)
  | none => s

/-! ### Entering and leaving the state of acting -/

/-- Changes that have not taken effect go on as they can: an accepted one takes effect, any other is refused (R449). -/
def State.releaseChanges (s : State) : State :=
  s.twn.changes.foldl (fun s x => s.resumeChange x.seq) s

/-- A mirrored change takes effect on the standby (R449, R450). -/
def State.applyChange (s : State) (c : Word × Nat × List Byte × List Byte) : State :=
  let desc := c.2.2.1
  let data := c.2.2.2
  let raw : BitVec 512 := BitVec.ofNat 512 (leNat desc)
  if desc.isEmpty then
    { s with stp := { s.stp with steps := s.stp.steps.filter (fun e => decide (e.seq.toNat ≠ leNat data)) } }
  else if desc.length = 64 then
    let e : Entry := { sub := 0, raw := raw, cls := 0, data := data }
    if fld raw 7 0 = 1 then
      s.enterStep { s.stepEntry 63 e ((List.range (e.bytes 28 2)).map (actionAt data)) with carried := true }
    else
      match s.stp.steps.find? (fun k => decide (k.stepId.toNat = e.bytes 24 4)) with
      | some k => if k.cancelled then s else s.cancelStep k
      | none => s
  else (s.runApart (classOfDesc raw) raw data).1

/-- A standby that is to act applies the changes it has acknowledged for later base periods at once (R449). DESIGN CHOICE
(log 107). -/
def State.applyMirrored (s : State) : State :=
  let l := s.twn.mirrored
  l.foldl (fun s c => s.applyChange c) (s.setTwn { s.twn with mirrored := [] })

/-- The member acts no more: a HIVE gives up its link and follows (R417, R454). -/
def State.stopActing (s : State) (st : TwinSt) : State :=
  let s := s.setTwn { s.twn with st := st, inStep := false, offer := none, accepted := false, hashes := [], hashAcc := [] }
  let s := if s.wag.link = .hive || s.wag.link = .listen || s.wag.link = .backoff then s.leaveLink .follow else s
  { s with cmb := { s.cmb with due := [] } }.releaseChanges

/-- A new holder of a HIVE role runs the link on: basic cycles, mode and CYCLE continue, and its TB1 takes TB0's rate (R43,
R463). -/
def State.carryLink (s : State) : State :=
  let g := s.wag
  if s.role = 1 && decide (g.link = .follow) then
    let k := if g.bcNs = 0 then 0 else (sdiff s.time.tb1.ns g.cStart).toNat / g.bcNs
    let s := s.setWag { g with
      link := .hive, cStart := tadd g.cStart (Int.ofNat (k * g.bcNs)), cycle := g.cycle + BitVec.ofNat 32 k
      mpos := (g.mpos + k) % max 1 g.mlen, depth := 0, grdClosed := false, grdResync := false, missedRefs := 0 }
    s.recomputeRelay.rateFromTb0.setLock 1 true
  else s

/-- This member becomes HOLDER (R458, R463): a former standby evaluates the slots of the present base period. -/
def State.becomeHolder (s : State) : State :=
  let s := s.applyMirrored
  let s : State := if s.twn.st = .standby && s.cmb.running then
      { s with cmb := { s.cmb with due := s.duePlan s.cmb.n } } else s
  let s := s.setTwn { s.twn with
    st := .holder, inStep := false, accepted := false, offer := none, tookFromUnsynced := false, loaded := false, snaps := []
    ownFrames := [], image := [], hashAcc := [], hashes := [], witHeard := s.time.t2, witSilent := false }
  State.refreshAct (State.carryLink { s with cmb := { s.cmb with skip := false } })

/-- This member may act on the grants it holds: 100 µs before the latest end lie ahead (R457). -/
def State.mayAct (s : State) : Bool := s.grantEnd.any (fun e => decide (s.time.t2 + 100000 < e))

/-- TAKEOVER: a member in TAKING, or a standby that its holder handed over to, holds a grant and its own occupancy has ended, so
it acts from this base period start (R460, R462, R463). -/
def execTakeover (s : State) : Host.Outcome State Fault Refusal :=
  let t := s.twn
  let orderly := t.accepted && decide (t.st = .standby ∨ t.st = .taking)
  if !(t.st = .taking || orderly) || t.occ.isSome || !s.mayAct then .next s
  else
    let cause := if orderly then 0 else if t.tookFromUnsynced then 2 else 1
    let us := if orderly then 0 else (Config.undrivenUs s.freeIdx).toNat
    let s := if orderly then s else s.tookFree
    let s := s.becomeHolder
    let s := s.setTwn { s.twn with takeoverCnt := satInc 0xFFFF s.twn.takeoverCnt }
    .next ((s.countLogic 20).raise 0x73 (BitVec.ofNat 64 (cause + us * 2 ^ 16)))

/-! ### Requests and grants (R456, R457) -/

/-- This member asks for grants: alone but enabled, TAKING, holding, or handed over to. -/
def State.asks (s : State) : Bool :=
  s.twinEn && (decide (s.twn.st = .solo) || decide (s.twn.st = .taking) || decide (s.twn.st = .holder) || s.twn.accepted)

/-- A REQUEST leaves on the link and in the lease window, with the next SEQ; requests older than a grant's length are
forgotten (R457). -/
def State.sendRequest (s : State) : State :=
  let seq := s.twn.reqSeq + 1
  let now := s.time.t2
  let s := s.setTwn { s.twn with
    reqSeq := seq, reqs := (s.twn.reqs.filter (fun r => decide (now < r.q + 2000000))) ++ [{ seq := seq, q := now }] }
  (s.sendLease 1 s.member seq 0).leaseWindow 1 seq 0

/-- LEASE_REQUEST_SEND: every 250 µs, and in each lease window (R457). -/
def execLeaseRequestSend (s : State) : Host.Outcome State Fault Refusal :=
  .next (if s.asks && decide (s.pw.logic = .run) then s.sendRequest else s)

/-- The run-time state of witness-table entry e. -/
def State.wit (s : State) (e : Nat) : WitnessRt := tget {} s.twn.witness e

/-- The witness grants a request of entry e: occupied from now for 2 100 µs, and its grant word shows it; a request that is held
stays held (R441, R456, R457). -/
def State.witGrant (s : State) (e : Nat) (member : Bool) (seq : BitVec 8) : State :=
  let now := s.time.t2
  let role := fld (tget 0 s.twn.witTab e) 11 0
  let occ : Occupancy := { member := member, at_ := now, until_ := now + 2100000, free := (s.wit e).occ.isNone }
  let s := s.setTwn { s.twn with witness := tmod {} s.twn.witness e (fun r => { r with
    occ := some occ, granted := some (member, seq) }) }
  s.txWrite (s.rfld 0xB014 11 0 + e) (Int.ofNat (leaseWord 2 role member seq.toNat 0).toNat)

/-- A REQUEST reaches the witness: granted while no grant to the other member occupies it, else held pending. Of two requests
in one tick member 0 is granted (R456). -/
def State.witRequest (s : State) (e : Nat) (member : Bool) (seq : BitVec 8) : State :=
  let w := s.wit e
  match w.occ with
  | none => s.witGrant e member seq
  | some o =>
    if o.member = member then s.witGrant e member seq
    else if !member && o.free && decide (o.at_ / 8 = s.time.t2 / 8) then
      let other := w.granted
      let s := s.witGrant e member seq
      s.setTwn { s.twn with witness := tmod {} s.twn.witness e (fun r => { r with pend := other }) }
    else
      s.setTwn { s.twn with witness := tmod {} s.twn.witness e (fun r => { r with pend := some (member, seq) }) }

/-- The witness serves entry e for a role (R441, R465). -/
def State.witServes (s : State) (e : Nat) (role : Nat) : Bool :=
  let w := tget 0 s.twn.witTab e
  s.rbit 0xB014 31 && tbit w 48 && decide (fld w 11 0 = role)

/-- REQUEST: an issuer takes a request of a member for a role. The peer grants it while it is neither acting nor TAKING
(R456, R458). -/
def execRequest (path : LeasePath) (role : Fin 4096) (member : Bool) (seq : BitVec 8) (s : State) :
    Host.Outcome State Fault Refusal :=
  match path with
  | .link h =>
    let s := s.linkFrame.takeHealth h
    let grants := decide (s.twn.st = .forming) || decide (s.twn.st = .standby) || decide (s.twn.st = .unsynced)
    if grants && decide (role.val = s.station) && decide (member ≠ s.member) then
      let occ : Occupancy := { member := member, at_ := s.time.t2, until_ := s.time.t2 + 2100000 }
      .next ((s.setTwn { s.twn with occ := some occ }).sendLease 2 member seq 0)
    else .next s
  | .window e => if s.witServes e.val role.val then .next (s.witRequest e.val member seq) else .next s

/-- GRANT: a member takes a grant that answers one of its requests: it ends 2 000 µs after the request. An enabled member that
is alone becomes HOLDER on a witness grant (R457, R458). -/
def execGrant (path : LeasePath) (seq : BitVec 8) (s : State) : Host.Outcome State Fault Refusal :=
  let now := s.time.t2
  let later (old : Option Nat) (e : Nat) : Option Nat := some (max (old.getD 0) e)
  let req := s.twn.reqs.find? (fun r => decide (r.seq = seq) && decide (now < r.q + 2000000))
  let s := match path with
    | .link h => s.linkFrame.takeHealth h
    | .window _ => s.setTwn { s.twn with witHeard := now, witSilent := false }
  match req, path with
  | none, _ => .next s
  | some r, .link _ =>
    let s := s.setTwn { s.twn with peerEnd := later s.twn.peerEnd (r.q + 2000000) }
    .next (if s.twn.st = .holder then s.setTwn { s.twn with actUntil := s.grantActUntil } else s)
  | some r, .window _ =>
    let s := s.setTwn { s.twn with witEnd := later s.twn.witEnd (r.q + 2000000) }
    .next (if s.twn.st = .holder then s.setTwn { s.twn with actUntil := s.grantActUntil }
      else if s.twn.st = .solo && s.twinEn then s.becomeHolder else s)

/-- An occupancy has run its time on TB2, or the handover instant of its RELINQUISH is reached (R457, R458). -/
def State.occOver (s : State) (o : Option Occupancy) : Bool :=
  o.any (fun o => decide (o.until_ ≤ s.time.t2) || o.th.any (fun t => decide (sdiff t s.time.tb1.ns ≤ 0)))

/-- ISSUER_OCCUPANCY_END: an issuer's occupancy has ended; a member that was an issuer drives, where it then acts, from 100 ns
after the handover instant; the witness grants the request it held (R456, R458). -/
def execIssuerOccupancyEnd (issuer : Issuer) (s : State) : Host.Outcome State Fault Refusal :=
  match issuer with
  | .peer =>
    if !s.occOver s.twn.occ then .next s
    else .next (s.setTwn { s.twn with
      occ := none, driveFrom := (s.twn.occ.bind (fun o => o.th)).map (fun t => tadd t 100) })
  | .witness e =>
    let w := s.wit e.val
    if !s.occOver w.occ then .next s
    else
    let s := s.setTwn { s.twn with witness := tmod {} s.twn.witness e.val (fun r => { r with occ := none, pend := none }) }
    match w.pend with
    | some (m, q) => .next (s.witGrant e.val m q)
    | none => .next s

/-- ACT_UNTIL: the instant is reached: the field side releases the role's outputs, and a holder stops acting with 0x78 (R444,
R458). -/
def execActUntil (s : State) : Host.Outcome State Fault Refusal :=
  let s := match s.twn.fieldActUntil with
    | some t => if sdiff s.time.shadow.ns t ≥ 0 then State.regate (s.setTwn { s.twn with fieldActUntil := none }) else s
    | none => s
  match s.twn.actUntil with
  | some t =>
    if sdiff s.time.tb1.ns t ≥ 0 then
      let s := s.setTwn { s.twn with actUntil := none }
      if s.twn.st = .holder then .next ((s.stopActing .unsynced).raise 0x78 0) else .next s
    else .next s
  | none => .next s

/-- WITNESS_SILENT: a holder has had no grant word of its witness for 2 ms (R459). -/
def execWitnessSilent (s : State) : Host.Outcome State Fault Refusal :=
  if s.twn.st = .holder && !s.twn.witSilent && decide (s.twn.witHeard + 2000000 ≤ s.time.t2) then
    .next ((s.setTwn { s.twn with witSilent := true }).raise 0x79 (BitVec.ofNat 64 (s.rfld 0xB00C 11 0)))
  else .next s

/-! ### The orderly handover (R460) -/

/-- A handover is started: an OFFER two base periods ahead, or 0x74 where the partner is not in STANDBY (R460). -/
def State.offerHandover (s : State) (why : HandoverWhy) : State :=
  if s.twn.st ≠ .holder then (if why = .host then s.raise 0x74 2 else s)
  else if s.twn.offer.isSome then s
  else if !(s.twn.inStep && s.twn.linkUp && tbit s.twn.peerHealth 2) then s.raise 0x74 0
  else
    let n := s.cmb.n + 2
    (s.setTwn { s.twn with offer := some n, accepted := false, why := why }).sendLease 4 s.member 0 n

/-- HANDOVER: a write of TWN_CTRL.HANDOVER (R460). -/
def execHandover (s : State) : Host.Outcome State Fault Refusal :=
  if !s.hostUp then .next s else .next (s.offerHandover .host)

/-- OFFER: a partner in STANDBY answers ACCEPT with the same n (R460). -/
def execOffer (n : BitVec 8) (s : State) : Host.Outcome State Fault Refusal :=
  let s := s.linkFrame
  if s.twn.st = .standby then
    .next ((s.setTwn { s.twn with offer := some (nearByte s.cmb.n n), accepted := true }).sendLease 5 s.member 0 n.toNat)
  else .next s

/-- ACCEPT: the holder takes it for the period it offered, before that begins (R460). -/
def execAccept (n : BitVec 8) (s : State) : Host.Outcome State Fault Refusal :=
  let s := s.linkFrame
  match s.twn.st, s.twn.offer with
  | .holder, some k =>
    if k % 256 = n.toNat && decide (s.cmb.n < k) then .next (s.setTwn { s.twn with accepted := true }) else .next s
  | _, _ => .next s

/-- HANDOVER_ABANDONED: the offered period begins without ACCEPT: 0x74 with cause 1, and the holder keeps acting (R460);
an activation that waited for it is refused with 0xAE (R574), and an ejected member discards its parts (R604). -/
def execHandoverAbandoned (s : State) : Host.Outcome State Fault Refusal :=
  if s.twn.st = .holder && s.twn.offer.isSome && !s.twn.accepted then
    let s := (s.setTwn { s.twn with offer := none }).raise 0x74 1
    .next (if s.twn.why = .activation && s.lcy.activating then s.refuseActivation 0xAE
      else if s.twn.why = .eject && s.pw.eject then s.ejectParts.ejectSteps else s)
  else .next s

/-- The offered and accepted period n has ended: RELINQUISH on the link and in the lease window, ACT_UNTIL at t_h, the start of
n + 2, and the member grants its peer (R460). -/
def State.relinquish (s : State) (n : Nat) : State :=
  let th := s.baseStart (n + 2)
  let s := (s.sendLease 3 s.member 0 n).leaseWindow 3 0 n
  let s := (s.setTwn { s.twn with actUntil := some th, peerEnd := none, witEnd := none, reqs := [] }).sendDown
    (.actUntil th none)
  s.stopActing .unsynced

/-- RELINQUISH: an issuer's occupancy by the member ends at t_h, the start of base period n + 2; a partner that accepted asks
for the grant at once, and the Comb evaluations of n + 1 are skipped for the role (R458, R460). -/
def execRelinquish (path : LeasePath) (member : Bool) (n : BitVec 8) (s : State) : Host.Outcome State Fault Refusal :=
  let th := s.baseStart (nearByte s.cmb.n n + 2)
  match path with
  | .link h =>
    let s := s.linkFrame.takeHealth h
    let s := s.setTwn { s.twn with occ := s.twn.occ.map (fun o => if o.member = member then { o with th := some th } else o) }
    if s.twn.accepted && decide (member ≠ s.member) then .next (State.sendRequest { s with cmb := { s.cmb with skip := true } })
    else .next s
  | .window e =>
    .next (s.setTwn { s.twn with witness := tmod {} s.twn.witness e.val (fun r =>
      { r with occ := r.occ.map (fun o => if o.member = member then { o with th := some th } else o) }) })

/-! ### The twin link (R439, R445) -/

/-- A standby leaves step with a fault of its replay: SNAP_FAULT_CNT, 0x76 (R448). -/
def State.snapFault (s : State) (cause : Nat) : State :=
  let s := s.leaveStep
  (s.setTwn { s.twn with snapFaultCnt := satInc 0xFFFF s.twn.snapFaultCnt }).raise 0x76 (BitVec.ofNat 64 cause)

/-- TB3 moves by x units of 2⁻³² ns (a step). -/
def TimeState.shiftTb3 (t : TimeState) (x : Int) : TimeState := { t with tb3 := t.tb3.plus x, tb3Stepped := true }

/-- A measurement of TB3 over the twin link: this member's less its partner's, in 1/256 ns, a free value. The holder's TB3 is the
defining one and is not corrected; its partner steps once and then steers by rate. TB3_LOCK is 1 while the two agree within ±8 ns;
a standby whose lock clears leaves step (R60, R448). -/
def State.takeTb3 (s : State) : State :=
  if s.twn.partner.isNone then s
  else
    let off := Config.tb3Diff s.freeIdx
    let s := s.tookFree
    let s : State :=
      if s.twn.st = .holder then s
      else if !s.time.tb3Stepped then s.setTime (s.time.shiftTb3 (-off * 2 ^ 24))
      else State.tookFree { s with time := { s.time with tb3 := { s.time.tb3 with rate := clampRate (Config.servoRate s.freeIdx) } } }
    let agree := decide (off.natAbs ≤ 8 * 256)
    let left := s.time.tb3Lock && !agree && decide (s.twn.st = .standby)
    let s := s.setLock 3 agree
    if left then s.snapFault 4 else s

/-- IDLE: a frame that keeps the link valid (R445); the TB3 measurement over the link comes with it (R60, log 86). -/
def execIdle (s : State) : Host.Outcome State Fault Refusal := .next s.linkFrame.takeTb3

/-- TB3 is a member's own again: its lock is gone until the two agree once more (R60, log 86). -/
def State.loseTb3 (s : State) : State := (s.setTime { s.time with tb3Stepped := false }).setLock 3 false

/-- TWIN_LINK_LOST: 100 µs without a valid frame: a member that does not act takes over on its own inputs (R445, R458). -/
def execTwinLinkLost (s : State) : Host.Outcome State Fault Refusal :=
  if !s.twn.linkUp then .next s
  else
    let s := if s.twn.st = .standby then s.applyMirrored else s
    let t := s.twn
    let takes := decide (t.st = .forming) || decide (t.st = .standby) || decide (t.st = .unsynced)
    let s := s.setTwn { t with
      linkUp := false, goodPeriods := 0, partner := none, inStep := false, linkLossCnt := satInc 0xFFFF t.linkLossCnt
      st := if takes then .taking else t.st
      tookFromUnsynced := if takes then decide (t.st = .unsynced) else t.tookFromUnsynced
      accepted := t.accepted && (match t.occ with | some o => o.th.isSome | none => false)
      snaps := if takes then [] else t.snaps, mirrored := if takes then [] else t.mirrored
      image := [], loaded := false, hashAcc := if takes then [] else t.hashAcc }
    .next (s.loseTb3.raise 0x77 0)

/-- A twin can form with the partner (R439, R442). -/
def State.mayForm (s : State) : Bool := s.twn.partner.isSome && (!s.hears || s.leaseModeOk s.wag.mode)

/-- What stands against a twin with a partner, by the bits of 0x71; none where every condition is met (R439). -/
def State.twinFault (s : State) (p : PartnerInfo) : Option Nat :=
  let v := decide (p.variantL ≠ s.pw.variantL)
  let seg := !p.sameSegment
  let stn := decide (p.station.val ≠ s.station)
  let mem := decide (p.member = s.member)
  let lease := decide (p.leaseStn.val = s.leaseStn)
  let bits := v.toNat + 2 * seg.toNat + 4 * stn.toNat + 8 * mem.toNat + 16 * lease.toNat
  if bits = 0 && p.enabled then none else some bits

/-- A member alone becomes FORMING: it stops acting and waits for the persistent configuration and a state image (R453, R458). -/
def State.startForming (s : State) : State :=
  let s := s.stopActing .forming
  (s.setTwn { s.twn with image := [], loaded := false, formed := false }).loseTb3

/-- TWIN_LINK_UP: ten base periods of valid frames: the link is UP, and a twin forms where the partner meets R439 and the mode
serves the lease (R439, R442, R445, R458). -/
def execTwinLinkUp (p : PartnerInfo) (s : State) : Host.Outcome State Fault Refusal :=
  let s := s.linkFrame
  let s := if s.twn.linkUp then s else (s.setTwn { s.twn with linkUp := true }).raise 0x77 1
  if !s.twinEn then .next s
  else
    match s.twinFault p with
    | some bits => .next ((s.setTwn { s.twn with partner := none }).raise 0x71 (BitVec.ofNat 64 bits))
    | none =>
      let s := s.setTwn { s.twn with
        partner := some p, peerHealth := p.health, versionDiff := decide (p.actId ≠ s.actId) }
      match s.twn.st with
      | .solo => .next (if p.acting && s.mayForm then s.startForming else s)
      | .taking => if p.acting then .next (s.stopActing .unsynced) else .next s
      | _ => .next s

/-! ### Snapshots, hashes, changes (R446 to R453) -/

/-- SNAP: the standby takes records for replay; one that fails its CRC or layout is a fault of cause 3 (R446, R448). -/
def execSnap (n : Word) (final : Bool) (records : List SnapRecord) (intact : Bool) (s : State) :
    Host.Outcome State Fault Refusal :=
  let s := s.linkFrame
  if !s.replays then .next s
  else if !intact then .next (s.snapFault 3)
  else .next (s.setTwn { s.twn with snaps := s.twn.snaps ++ [(n.toNat, final, records)] })

/-- HASH: the holder compares the standby's output hash with its own (R452). -/
def execHash (n : Word) (h : Word) (s : State) : Host.Outcome State Fault Refusal :=
  let s := s.linkFrame
  match s.twn.st, s.twn.hashes.find? (fun x => decide (x.1 = n.toNat)) with
  | .holder, some x =>
    let s := s.setTwn { s.twn with hashes := s.twn.hashes.filter (fun y => decide (y.1 ≠ n.toNat)) }
    if x.2 = h then .next s
    else
      let s := s.setTwn { s.twn with
        hashMisCnt := satInc 0xFFFF s.twn.hashMisCnt, inStep := s.twn.inStep && s.twn.versionDiff }
      .next (s.raise 0x75 (BitVec.ofNat 64 (n.toNat + s.twn.versionDiff.toNat * 2 ^ 32)))
  | _, _ => .next s

/-- CHANGE: the standby takes a mirrored change for its base period, and acknowledges it (R449, R450). -/
def execChange (seq : Word) (n : Word) (desc : List Byte) (data : List Byte) (s : State) : Host.Outcome State Fault Refusal :=
  let s := s.linkFrame
  if !s.replays then .next s
  else
    let s := s.setTwn { s.twn with mirrored := s.twn.mirrored ++ [(seq, n.toNat, desc, data)] }
    .next (s.emitOut (.twin 5 (leBytes 4 seq.toNat)))

/-- CHANGE_ACK: the holder's acceptance of the change is complete; it takes effect from its base period (R449). -/
def execChangeAck (seq : Word) (s : State) : Host.Outcome State Fault Refusal := .next (s.linkFrame.acceptChange seq)

/-- CHANGE_ACK_TIMEOUT: 1 ms without the acknowledgement: the change is accepted on the holder alone, its standby, which HEALTH
tells, is UNSYNCED, and 0x7A is raised (R449). -/
def execChangeAckTimeout (seq : Word) (s : State) : Host.Outcome State Fault Refusal :=
  if s.twn.changes.any (fun x => decide (x.seq = seq) && !x.acked) then
    let s := s.acceptChange seq
    .next ((s.setTwn { s.twn with inStep := false }).raise 0x7A (BitVec.ofNat 64 seq.toNat))
  else .next s

/-! ### State images (R453) -/

/-- The state image of this holder at the end of base period n. -/
def State.twinImage (s : State) (n : Nat) : TwinImage :=
  { n := n, tb1 := s.time.tb1.ns, t2 := s.time.t2, epoch := s.cmb.epoch, slots := s.cmb.slots, store := s.cmb.store, models := s.cmb.models, rt := s.cmb.rt
    blk := s.blk, txWords := s.wag.txWords, rxWords := s.wag.rxWords, stations := s.wag.stations, stp := s.stp
    hold := s.fio.hold, persist := s.pw.persist }

/-- The holder sends a state image at the end of base period n: its partner is not in step, and AUTO_RESYNC or the host asks for
it (R453). -/
def State.sendImage (s : State) (n : Nat) : State :=
  let t := s.twn
  if t.st = .holder && t.linkUp && s.mayForm && !t.inStep && (s.rbit 0xB000 2 || t.resyncReq) then
    (s.setTwn { t with inStep := true, resyncReq := false, imageAt := s.time.t2, peerHealth := putBit t.peerHealth 2 false }).emitOut
      (.twin 6 (Config.encodeImage (s.twinImage n)))
  else s

/-- The image with the holder's instants of TB2 as instants of the TB2 of time t; its exchanges were not asked for on this member's
rings. -/
def TwinImage.rebased (i : TwinImage) (t : TimeState) : TwinImage :=
  let d : Int := Int.ofNat t.t2 - sdiff t.tb1.ns i.tb1 - Int.ofNat i.t2
  let at_ (x : Nat) : Nat := (Int.ofNat x + d).toNat
  { i with
    rt := tmap {} (fun r => { r with sup := { r.sup with lastEvt := r.sup.lastEvt.map at_ } }) i.rt
    blk := { i.blk with tasks := tmap {} (fun r => { r with
      lastRel := r.lastRel.map at_, lastOvrEvt := r.lastOvrEvt.map at_, lastRtfEvt := r.lastRtfEvt.map at_
      exch := r.exch.map (fun q => { q with mine := false }) }) i.blk.tasks }
    stations := tmap {} (fun r => { r with staleEvt := r.staleEvt.map at_, freshEvt := r.freshEvt.map at_ }) i.stations }

/-- The steps of a holder as its standby keeps them (R463). -/
def StpState.carry (p : StpState) : StpState := { p with steps := p.steps.map (fun e => { e with carried := true }) }

/-- A loaded image takes the place of this member's state; at formation the persistent configuration first (R453). -/
def State.applyImage (s : State) (i : TwinImage) : State :=
  let i := i.rebased s.time
  let s := if s.twn.formed then s
    else
      let s := { s with pw := { s.pw with persist := i.persist } }
      i.persist.foldl (fun s it => s.loadItem it) s
  let s : State := { s with
    cmb := { s.cmb with
      slots := i.slots, store := i.store, models := i.models, rt := i.rt, epoch := i.epoch, n := i.n + 1, running := true
      due := [], loads := [] }
    blk := { i.blk with
      origin := s.blk.origin, gridT1 := tadd i.tb1 (-Int.ofNat ((i.t2 - i.blk.origin) % 100000))
      gridUs := (i.t2 - i.blk.origin) / 100000 * 100 }
    wag := { s.wag with txWords := i.txWords, rxWords := i.rxWords, stations := i.stations }
    stp := i.stp.carry
    fio := { s.fio with hold := i.hold } }
  s.noteLayouts.setTwn { s.twn with
    image := [], loaded := true, replayN := i.n + 1, hashAcc := []
    snaps := s.twn.snaps.filter (fun x => decide (x.1 > i.n)) }

/-- STATE: part of a state image reaches a member that does not act; with its first part the member is FORMING, with its last the
image is loaded (R453, R458). -/
def execState (n : Word) (last : Bool) (bytes : List Byte) (s : State) : Host.Outcome State Fault Refusal :=
  let s := s.linkFrame
  let t := s.twn
  if !s.twinEn || t.st = .holder || t.st = .taking || t.partner.isNone || (decide (t.st = .solo) && !s.mayForm) then .next s
  else
    let s := if t.st = .solo then s.stopActing .forming else s
    let t := s.twn
    let fresh := decide (t.imageN ≠ n.toNat) || t.image.isEmpty
    let s := s.setTwn { t with
      st := .forming, imageN := n.toNat, image := (if fresh then [] else t.image) ++ bytes, loaded := false }
    if !last then .next s
    else
      match Config.decodeImage s.twn.image with
      | some i => .next (s.applyImage i)
      | none => .next (s.setTwn { s.twn with st := .unsynced, image := [] })

/-- RESYNC: a write of TWN_CTRL.RESYNC asks the holder for a state image, for a partner whose HEALTH shows it out of step
(R453). -/
def execResync (s : State) : Host.Outcome State Fault Refusal :=
  if !s.hostUp then .next s else
  if s.twn.st = .holder && !(s.twn.inStep && tbit s.twn.peerHealth 2) then
    .next (s.setTwn { s.twn with resyncReq := true, inStep := false })
  else .next s

/-! ### Replay (R447, R448) -/

/-- One thing that a replayed base period does. -/
inductive ReplayAct where
  | record (r : SnapRecord)
  | launch
  | slot (k start fin : Nat)
  deriving DecidableEq, Repr

/-- f runs with TB1 at a base value, and TB2 as far from its present value. -/
def State.withTb1 (s : State) (b : Tb) (f : State → State) : State :=
  let time := s.time
  let t2 := (Int.ofNat time.t2 - sdiff time.tb1.ns b.ns).toNat
  let s := f (s.setTime { time with
    tb1 := b, tb2 := { time.tb2 with ns := BitVec.ofNat 40 t2 }, tb2Wraps := t2 / 2 ^ 40 })
  s.setTime { s.time with tb1 := time.tb1, tb2 := time.tb2, tb2Wraps := time.tb2Wraps }

/-- A value acts at an instant: TB1, and TB2 with it, stand there while f runs. -/
def State.atTb1 (s : State) (t : Time) (f : State → State) : State := s.withTb1 { s.time.tb1 with ns := t } f

/-- A sample of the holder's snapshot becomes the newest of its channel (R269, R446). -/
def State.replaySample (s : State) (w : Val40) (stamp : Time) : State :=
  let c := swChan w
  let x : Sample := { word := w, stamp := stamp }
  { s with cnv := { s.cnv with
      newest := tput (noSample c) x s.cnv.newest c
      readBack := if 128 ≤ c && c < 160 then tmod [] s.cnv.readBack (c - 128) (fun l => (x :: l).take 512)
        else s.cnv.readBack } }

/-- The own frame that a WFRAME record names (R447). -/
def OwnFrame.is (f : OwnFrame) (win : Fin 256) (src : Fin 4096) (seq : BitVec 8) (crc : Word) : Bool :=
  decide (f.win = win.val) && decide (f.src = src.val) && decide (f.seq = seq.toNat) && decide (f.crc = crc.toNat)

/-- One record acts as an arrival (R447). -/
def State.replayRecord (s : State) : SnapRecord → State
  | .sample w t => s.replaySample w t
  | .enc ps =>
    (List.range 16).foldl (fun s e => { s with fio := { s.fio with
      enc := tmod {} s.fio.enc e (fun r => { r with latches := (ps.getD e 0 :: r.latches).take 51 }) } }) s
  | .wframe win src seq crc t =>
    match s.twn.ownFrames.find? (fun f => f.is win src seq crc) with
    | some f =>
      (s.setTwn { s.twn with ownFrames := s.twn.ownFrames.filter (fun g => decide (g ≠ f)) }).atTb1 t
        (fun s => s.storeWords f.src f.first f.words)
    | none => s
  | .release task t di hs => s.atTb1 t (fun s => s.replayRelease task.val di hs)
  | .clamp dacs =>
    (List.range 32).foldl (fun s d => if tbit dacs d then { s with fio := { s.fio with
      clampSeen := putBit s.fio.clampSeen d true
      clampAt := tmod [] s.fio.clampAt d (fun l =>
        (addClamp (s.baseStart s.cmb.n) (some (s.baseStart (s.cmb.n + 1))) l).take 512) } } else s) s

/-- When a record acts, in ns after the start of base period n of the holder. -/
def State.recordAt (s : State) (n : Nat) : SnapRecord → Int
  | .sample _ t => sdiff t (s.baseStart n) + 1480
  | .enc _ => 0
  | .wframe _ _ _ _ t => sdiff t (s.baseStart n)
  | .release _ t _ _ => sdiff t (s.baseStart n)
  | .clamp _ => 20000

/-- The class of a record in its tick: a release comes after the launches, whatever else is an arrival (R63, R224). -/
def recordRank : SnapRecord → Nat
  | .release _ _ _ _ => 2
  | _ => 0

/-- What base period n does, with its tick of TB1 from the present one and its class of R63: arrivals, launches, releases,
evaluations (R64). -/
def State.replayPlan (s : State) (n : Nat) (recs : List SnapRecord) : List (Int × Nat × ReplayAct) :=
  let tick (x : Int) : Int := s.time.tb1.tickOf (tadd (s.baseStart n) x)
  let rs := recs.map (fun r => (tick (s.recordAt n r), recordRank r, ReplayAct.record r))
  let ls := (s.dueActions (s.time.tb1.tickOf (tadd (s.baseStart (n + 1)) (-1)))).map (fun d =>
    (s.time.tb1.tickOf d.instant, 1, ReplayAct.launch))
  let es := ((s.dispatch n).filter (fun x => x.2.2.2.due n)).map (fun x =>
    (tick (Int.ofNat x.2.1), 3, ReplayAct.slot x.1 x.2.1 x.2.2.1))
  sortBy (fun a b => decide (a.1 < b.1) || (decide (a.1 = b.1) && decide (a.2.1 ≤ b.2.1))) (rs ++ ls ++ es)

/-- One part of the plan is done. -/
def State.replayAct (s : State) (n : Nat) (x : Int × Nat × ReplayAct) : State :=
  match x.2.2 with
  | .record r => s.replayRecord r
  | .launch =>
    s.withTb1 (s.time.tb1.plus (x.1 * rateStep s.time.tb1.rate)) (fun s => (s.dueActions 0).foldl State.launchDue s)
  | .slot k start fin =>
    s.withTb1 (s.time.tb1.plus (x.1 * rateStep s.time.tb1.rate)) (fun s =>
      let s := s.takeRecords k
      (if (s.cmb.slotRt k).on then s.evaluate k n start fin else s).settleLoads)

/-- The records of base period n that have arrived, none before its last frame. -/
def TwnState.recordsOf (t : TwnState) (n : Nat) : Option (List SnapRecord) :=
  let l := t.snaps.filter (fun x => decide (x.1 = n % 2 ^ 32))
  if l.any (fun x => x.2.1) then some (l.flatMap (fun x => x.2.2)) else none

/-- Every WFRAME of the records has a frame of this member's own receiver (R447). -/
def TwnState.framesMatch (t : TwnState) (recs : List SnapRecord) : Bool :=
  recs.all (fun r => match r with
    | .wframe win src seq crc _ => t.ownFrames.any (fun f => f.is win src seq crc)
    | _ => true)

/-- STANDBY_REPLAY: a standby, or a member that forms and has its image, replays the next base period of the holder and sends its
hash. A standby whose records are missing leaves step; a forming member that has caught up enters STANDBY (R447, R448, R451,
R453). -/
def execStandbyReplay (s : State) : Host.Outcome State Fault Refusal :=
  let t := s.twn
  let n := t.replayN
  if !s.replays || (t.st = .forming && !t.loaded) then .next s
  else if !s.time.tb3Lock then .next (s.snapFault 4)
  else
    match t.recordsOf n with
    | none => .next (if t.st = .standby then s.snapFault 1 else s)
    | some recs =>
      if !t.framesMatch recs then .next (s.snapFault 2)
      else
        let own := s.cmb.n
        let now := t.mirrored.filter (fun c => decide (c.2.1 ≤ n))
        let s := s.setTwn { t with
          mirrored := t.mirrored.filter (fun c => decide (c.2.1 > n)), hashAcc := []
          snaps := t.snaps.filter (fun x => decide (x.1 ≠ n % 2 ^ 32)) }
        let s : State := { s with cmb := { s.cmb with n := n } }
        let s := now.foldl (fun s c => s.applyChange c) s
        let s := (s.replayPlan n recs).foldl (fun s x => s.replayAct n x) s
        let h := outputHash s.time.tb1 s.twn.hashAcc
        let s : State := { s with cmb := { s.cmb with n := own } }
        let s := (s.setTwn { s.twn with replayN := n + 1, hashAcc := [] }).emitOut
          (.twin 2 (leBytes 4 n ++ leBytes 4 h.toNat))
        if s.twn.st = .forming && (s.twn.recordsOf (n + 1)).isNone then
          let first := !s.twn.formed
          .next ((s.setTwn { s.twn with st := .standby, formed := true }).raise 0x72 (BitVec.ofNat 64 first.toNat)).confirmActivation
        else .next s

end Sys2Proof.Machine
end

