-- ==== Sys2Proof/Machine/Period.lean ====
section
/-! DEFINITION. BASE_PERIOD_START (R160): what one base period ends and what the next one begins, for Comb, the converters, field
input and output, Mire and a twin. -/

namespace Sys2Proof.Machine

/-- High-side output i changes MODE at a base period start: it is commanded off until it is given its next value (R303). -/
def State.hsModeChange (s : State) (i : Nat) : State :=
  if s.droneHs i || s.atSafe i then s.hsRegate i
  else
    let w := (s.hsRt i).written
    let s := s.hsCmdOff i
    s.modHs i (fun h => { h with onNext := 0, duty := 0, onTime := 0, periodAt := none, written := w })

/-- Outputs, inputs, encoders and pulse outputs take effect as the field side has received them (R17, R303, R313, R315, R321). -/
def State.applyFioTables (s : State) : State :=
  let f := s.fio
  let t := f.fld
  let s : State := { s with fio := { f with hsEff := t.hs, diEff := t.di, encEff := t.enc, pulEff := t.pul } }
  let s := if t.hs = f.hsEff then s
    else (List.range 48).foldl (fun s i =>
      if hsMode (tget 0 t.hs i) = hsMode (tget 0 f.hsEff i) then s.modHsOn i (fun h => h) else s.hsModeChange i) s
  let s := if t.di = f.diEff then s
    else (List.range 64).foldl (fun (s : State) i =>
      if tget 0 t.di i = tget 0 f.diEff i then s else s.sendUp (.diImage i (s.diState i))) s
  let s := if t.enc = f.encEff then s
    else (List.range 16).foldl (fun (s : State) i =>
      if fld (tget 0 t.enc i) 8 0 = fld (tget 0 f.encEff i) 8 0 then s
      else
        let enable := decide (encMode (tget 0 t.enc i) ≠ encMode (tget 0 f.encEff i))
        { s with fio := { s.fio with
          enc := tmod {} s.fio.enc i (fun r => { r with ssiPrev := none, zDone := r.zDone && !enable }) } }) s
  if t.pul = f.pulEff then s
  else (List.range 16).foldl (fun s i =>
    if pulMode (tget 0 t.pul i) = pulMode (tget 0 f.pulEff i) then (s.modPul i (fun r => r)).pulRegate i else s.pulStop i) s

/-- DACs whose value stands clamped, or is still on its way under a slew limit, are reported again (R213, R481). -/
def State.reportClamps (s : State) : State :=
  (List.range 32).foldl (fun s d =>
    let r := s.dacRt d
    if r.written && !r.hiz && (r.clamp || decide (s.dacNow d s.time.shadow.ns ≠ r.target)) then
      s.sendUp (.clamp d s.time.shadow.ns (s.clampEnd d))
    else s) s

/-- Slots not started in the base period that ends are skipped: OVR_CNT, 0x28 (R166). -/
def State.baseOverrun (s : State) : State :=
  let left := s.cmb.due
  if left.isEmpty then s
  else
    let s := left.foldl (fun s x =>
      let r := s.cmb.slotRt x.1
      s.mirTake (.slot x.1 (slotFlags r true) r.spEff r.fbr r.out r.mdl.resLast (s.baseStart s.cmb.n) false)) s
    let s : State := { s with cmb := { s.cmb with due := [], ovrSeen := true, ovrCnt := satInc 0xFFFF s.cmb.ovrCnt } }
    s.raise 0x28 (BitVec.ofNat 64 left.length)

/-- The last frame of a holder's snapshot of base period n, with its CLAMP record, and its own output hash (R446, R451). -/
def State.endSnapshot (s : State) (n : Nat) : State :=
  let h := outputHash s.time.tb1 s.twn.hashAcc
  let s := if s.twn.st = .holder && s.twn.linkUp then
      (s.setTwn { s.twn with hashes := (s.twn.hashes ++ [(n % 2 ^ 32, h)]).drop (s.twn.hashes.length - 1023) }).emitOut
        (.twin 1 (leBytes 4 n ++ [1, 0, 0, 0] ++ [5] ++ leBytes 4 s.fio.clampSeen.toNat))
    else s
  { s with twn := { s.twn with hashAcc := [] }, fio := { s.fio with clampSeen := 0 } }

/-- The health rule of AUTO_HO over ten base periods in a row (R459). -/
def State.healthRule (s : State) : State :=
  let bad := s.rbit 0xB000 3 && decide (s.twn.st = .holder) && tbit s.twn.peerHealth 0 && !tbit s.health 0
  let n := if bad then s.twn.healthRun + 1 else 0
  let s := s.setTwn { s.twn with healthRun := if n ≥ 10 then 0 else n }
  if n ≥ 10 then s.offerHandover .auto else s

/-- A twin at the end of base period n: RELINQUISH of an accepted handover, a state image, a frame in every base period, the
link's run of good base periods (R445, R453, R459, R460). -/
def State.twinPeriod (s : State) (n : Nat) : State :=
  if !s.twinEn then s
  else
    let s := if s.twn.st = .holder && s.twn.accepted && decide (s.twn.offer = some n) then s.relinquish n else s
    let s := (s.sendImage n).emitOut (.twin 7 [])
    let s := s.setTwn { s.twn with
      goodPeriods := if s.twn.frameThis then min 10 (s.twn.goodPeriods + 1) else 0, frameThis := false }
    let s := s.healthRule
    if s.twn.st = .holder then s.refreshAct else s

/-- Base period n begins (R160, R164, R276, R317, R341). -/
def State.beginPeriod (s : State) (n : Nat) (enc : List EncReading) : State :=
  let s := (State.dueChanges { s with cmb := { s.cmb with n := n } } n).keepGrid
  let s := s.shiftLatches.latchEncs (n - 1) enc
  let s := s.applyFioTables.applyDacTable
  let s := if s.pw.fieldUp && !s.pw.logicAbsent then s.startConvPeriod n else if n % 500 = 0 then s.convPattern else s
  let s := s.applyCal.mirPattern n
  let due := if s.runsOwnTasks && !s.cmb.skip then s.duePlan n else []
  let s : State := { s with cmb := { s.cmb with due := due } }
  s.reportClamps

/-- BASE_PERIOD_START: the next base period begins; with the first one after a logic-side start Comb starts, at the TB1 of that
instant (R160, R166, R317, R337, R446). -/
def execBasePeriodStart (enc : List EncReading) (s : State) : Host.Outcome State Fault Refusal :=
  if s.pw.logic ≠ .run then .next s
  else if !s.cmb.running then
    let s : State := { s with cmb := { s.cmb with running := true, epoch := s.time.tb1.ns, due := [] } }
    .next (s.mirStart.beginPeriod 0 enc).judgePhase
  else
    let n := s.cmb.n
    let s := (s.baseOverrun.mirPeriod n).endConvPeriod n s.time.shadow.ns
    let s := (s.endSnapshot n).twinPeriod n
    .next (s.beginPeriod (n + 1) enc).judgePhase

end Sys2Proof.Machine
end

