-- ==== Sys2Proof/Machine/Guard.lean ====
section
/-! DEFINITION. Guard and the decisions of Fen Gate (R466 to R494): the sealed switches, safety inputs, restart, sending and taking
safety frames, and the rule store's changes. -/

namespace Sys2Proof.Machine

/-! ### The rows of switches and inputs -/

/-- SEAL_CHANGE: a switch of SEAL has changed (R470 to R472, R477, R492). -/
def execSealChange (v : BitVec 16) (s : State) : Host.Outcome State Fault Refusal :=
  if v = s.saf.sealNow then .next s
  else
    let old := s.saf.sealRead
    let s := s.settleDacs
    let s := (s.setSaf { s.saf with sealNow := v, sealLatch := true }).countLedger 9
    let s := s.fieldRaise 0x85 (BitVec.ofNat 64 v.toNat)
    if !s.pw.fieldUp || !s.saf.fgVerified then .next s
    else
      let held := s.saf.heldGroups v
      let s := s.setSaf { s.saf with sealRead := v, rulesHold := held }
      let moved := decide (fld v 14 0 ≠ fld old 14 0)
      let s := if moved then
          State.regate (s.putGroups (fun _ r => ({ r.guard with sealCause := true }, { r.fg with sealCause := true })))
        else s
      let s := State.safUpdate (s.setSaf s.saf.fitInputs)
      let s := s.putGroups (fun g r =>
        ({ r.guard with sealCause := tbit held g }, { r.fg with sealCause := tbit held g }))
      .next s.cfgCheck

/-- SAFETY_INPUT_CHANGE: a filtered channel of a safety input changes (R484). -/
def execSafetyInputChange (input : Fin 4) (chanB closed : Bool) (s : State) : Host.Outcome State Fault Refusal :=
  let i := input.val
  if !s.pw.fieldUp then .next s
  else
    let old := s.saf.sinRt i
    let r := if chanB then { old with bClosed := closed } else { old with aClosed := closed }
    if r = old then .next s
    else match s.saf.fgVerified, s.saf.sinRow i with
    | true, some w =>
      let x := sinStep (rowOp w 5 1) r
      let s := s.setSaf { s.saf with sin := tput {} x.1 s.saf.sin i }
      .next (if x.2 then s.discrepancy i else s).safUpdate
    | _, _ => .next (s.setSaf { s.saf with sin := tput {} r s.saf.sin i })

/-- SAFETY_INPUT_DISC_TIMEOUT: the second channel has not followed within DISC (R484). -/
def execSafetyInputDiscTimeout (input : Fin 4) (s : State) : Host.Outcome State Fault Refusal :=
  let r := s.saf.sinRt input.val
  if r.st = .demand && r.waiting then
    let s := s.setSaf { s.saf with
      sin := tput {} { r with st := .discrepancy, waiting := false, bothShown := false } s.saf.sin input.val }
    .next (s.discrepancy input.val).safUpdate
  else .next s

/-- TEST_PULSE: a test source gives its off-pulse. A closed channel must follow its own source and no other's (R483). -/
def execTestPulse (srcB : Bool) (follows : BitVec 8) (s : State) : Host.Outcome State Fault Refusal :=
  if !s.pw.fieldUp || !s.saf.fgVerified then .next s
  else
    .next ((List.range 4).foldl (fun (s : State) i =>
      let r := s.saf.sinRt i
      let a := tbit follows (2 * i)
      let b := tbit follows (2 * i + 1)
      let own := if srcB then r.bClosed && !b else r.aClosed && !a
      let other := if srcB then a else b
      if (s.saf.sinRow i).isSome && (own || other) && decide (r.st ≠ .discrepancy) then
        let s := s.setSaf { s.saf with
          sin := tput {} { r with st := .discrepancy, waiting := false, bothShown := false } s.saf.sin i }
        (s.discrepancy i).safUpdate
      else s) s)

/-! ### Start, self-test, restart (R488 to R490) -/

/-- FEN_GATE_VERIFIED: the rule store is verified; Fen Gate applies its envelopes and its own demands, judges the configuration, and
holds on to the groups of a rule application while SEAL[15] is 1 (R472, R477, R490, R492). -/
def execFenGateVerified (s : State) : Host.Outcome State Fault Refusal :=
  if !s.pw.fieldUp || s.saf.fgVerified then .next s
  else
    let held := s.saf.heldGroups s.saf.sealNow
    let s := s.setSaf (SafState.fitInputs { s.saf with
      fgVerified := true, sealRead := s.saf.sealNow, cfgFault := false, rulesHold := held })
    let lc := decide (s.lcy.st = .return_) || decide (s.lcy.st = .end_)
    let s := s.putGroups (fun g r =>
      ({ r.guard with cfgCause := lc, sealCause := tbit held g }, { r.fg with powerUp := false, cfgCause := lc, sealCause := tbit held g }))
    .next s.safUpdate.cfgCheck.regate

/-- A self-test or an element test has failed: every group is demanded, 0x89, GUARD_FAULT (R490). -/
def State.guardFails (s : State) (test : BitVec 8) : State :=
  let s := s.setSaf { s.saf with guardFault := true }
  let s := s.putGroups (fun _ r => ({ r.guard with powerUp := true }, { r.fg with powerUp := true }))
  s.fieldRaise 0x89 (BitVec.ofNat 64 test.toNat)

/-- GUARD_SELF_TEST_DONE: Guard runs its safety cycle from here, or fails (R490). -/
def execGuardSelfTestDone (passed : Bool) (test : BitVec 8) (s : State) : Host.Outcome State Fault Refusal :=
  if !s.pw.fieldUp then .next s
  else if passed then
    let s := s.setSaf { s.saf with guardRun := true }
    .next (s.putGroups (fun _ r => ({ r.guard with powerUp := r.guard.powerUp && s.saf.guardFault }, r.fg)))
  else .next (s.guardFails test)

/-- ELEMENT_TEST: the off-pulse of a series element, which its load does not notice, or its failure (R490, R493). -/
def execElementTest (_out : Fin 48) (passed : Bool) (test : BitVec 8) (s : State) : Host.Outcome State Fault Refusal :=
  if passed || !s.pw.fieldUp then .next s else .next (s.guardFails test)

/-- The group's restart is manual (R471, R489). -/
def SafState.manual (f : SafState) (g : Nat) : Bool := tbit f.sealRead 5 || tbit (tget 0 f.guardTab g) 6

/-- Two matching copies have arrived from each station of the group's REMOTE rows (R490). -/
def SafState.matchedAll (f : SafState) (g : Nat) : Bool := (f.remoteRows g).all (fun x => (f.rem x.1).matched.isSome)

/-- GUARD_SAFETY_CYCLE: groups whose causes have ended are permitted, or wait for their manual restart (R489, R490). -/
def execGuardSafetyCycle (s : State) : Host.Outcome State Fault Refusal :=
  if !s.pw.fieldUp || !s.saf.guardRun || s.saf.guardFault then .next s
  else
    .next ((List.range 16).foldl (fun (s : State) g =>
      let r := s.saf.group g
      if r.guardPermit || r.guard.any || !s.saf.matchedAll g then s
      else if s.saf.manual g then s.setSaf { s.saf with groups := tput {} { r with wait := true } s.saf.groups g }
      else s.guardPermits g) s)

/-- MANUAL_RESTART: the falling edge of a pulse on the group's restart input; 100 ms to 5 s permit the group. It clears a
disagreement where neither half has a cause left for the two to differ in (R488, R489). -/
def execManualRestart (group : Fin 16) (pulseMs : Nat) (s : State) : Host.Outcome State Fault Refusal :=
  let g := group.val
  let r := s.saf.group g
  let rest : Demand := { r.guard with disagree := false }
  let differ := r.guard.disagree && ({ r.fg with disagree := false } : Demand).any
  if !s.pw.fieldUp || !s.saf.guardRun || s.saf.guardFault || pulseMs < 100 || pulseMs > 5000 then .next s
  else if r.guardPermit || rest.any || differ || !s.saf.matchedAll g || !(s.saf.manual g || r.guard.disagree) then .next s
  else
    let s := s.putGroups (fun k q => if k = g then (rest, { q.fg with disagree := false }) else (q.guard, q.fg))
    .next ((s.guardPermits g).fieldRaise 0x8C (BitVec.ofNat 64 g))

/-- DISAGREE: the halves' demands for a group have differed for 1 ms (R488). -/
def execDisagree (group : Fin 16) (s : State) : Host.Outcome State Fault Refusal :=
  if !s.pw.fieldUp then .next s
  else
    let s := s.setSaf { s.saf with disagreeCnt := satInc 0xFFFF s.saf.disagreeCnt }
    let s := s.putGroups (fun k r =>
      if k = group.val then ({ r.guard with disagree := true }, { r.fg with disagree := true }) else (r.guard, r.fg))
    .next (s.fieldRaise 0x82 (BitVec.ofNat 64 group.val))

/-! ### Safety frames (R398, R485 to R487) -/

/-- SAFETY_FRAME: a SAFETY frame is handed over to Guard, over the downlink (R17, R376, R394, R486). -/
def execSafetyFrame (hdr : FrameHdr) (bytes : List Byte) (s : State) : Host.Outcome State Fault Refusal :=
  if !s.takesFrames then .next s
  else
    let x := s.takeFrame hdr 3
    if x.2 && decide (leAt bytes 12 2 = hdr.src.val) then .next (x.1.sendDown (.guardCopy bytes)) else .next x.1

/-- SAFETY_PAIR_COPY: a copy arrives on the safety pair, or a pair instant ends in a framing error; sixteen in a row raise 0x8B
(R485, R486, R494). -/
def execSafetyPairCopy (bytes : List Byte) (framed : Bool) (s : State) : Host.Outcome State Fault Refusal :=
  if !s.pw.fieldUp then .next s
  else if framed then
    .next (State.takeCopy (s.setSaf { s.saf with pairBad := 0, pairUp := s.saf.pairUp || decide (leAt bytes 28 4 = scrc (leAt bytes 12 2) bytes) }) true bytes)
  else
    let n := s.saf.pairBad + 1
    let s := s.setSaf { s.saf with pairBad := min 16 n, pairUp := s.saf.pairUp && decide (n < 16) }
    .next (if n = 16 then s.fieldRaise 0x8B 0 else s)

/-- SAFETY_PATH_ABSENCE: a copy has had no matching copy by the end of the second basic cycle (R486, R487). -/
def execSafetyPathAbsence (station : Fin 4096) (missing : SafetyPath) (s : State) : Host.Outcome State Fault Refusal :=
  let k := station.val
  if !s.pw.fieldUp || !s.saf.hears k then .next s
  else
    let s := s.setSaf { s.saf with
      remote := tmod {} s.saf.remote k (fun r => { r with absence := true, faultAt := r.newest }), absentCnt := satInc 0xFFFF s.saf.absentCnt }
    .next (s.safUpdate.pathFault k (match missing with | .waggle => 13 | .pair => 14))

/-- SAFETY_WATCH_EXPIRY: WATCH occurrences have passed without a new SCNT: on either path, as Guard judges it, or on the pair, as
Fen Gate does (R486, R487). -/
def execSafetyWatchExpiry (station : Fin 4096) (path : SafetyPath) (s : State) : Host.Outcome State Fault Refusal :=
  let k := station.val
  if !s.pw.fieldUp || !s.saf.hears k then .next s
  else
    let s := s.setSaf { s.saf with
      remote := tmod {} s.saf.remote k (fun r => match path with
        | .waggle => { r with watch := true, faultAt := r.newest }
        | .pair => { r with fgWatch := true })
      absentCnt := satInc 0xFFFF s.saf.absentCnt }
    .next (s.safUpdate.pathFault k 15)

/-- Groups that GROUP rows give outputs to. -/
def SafState.served (f : SafState) : Nat :=
  ((List.range 16).filter (fun g => (f.activeKind 1).any (fun x => decide (rowOp x.2 6 1 = g)))).foldl (fun n g => n + 2 ^ g) 0

/-- Groups whose safe state is demanded: a half does not permit them. -/
def SafState.demandBits (f : SafState) : Nat :=
  ((List.range 16).filter (fun g => !f.permits g)).foldl (fun n g => n + 2 ^ g) 0

/-- The states of the four inputs, two bits each (R484). -/
def SafState.sinBits (f : SafState) : Nat := (List.range 4).foldl (fun n i => n + f.sinCode i * 4 ^ i) 0

/-- The safety frame of this station with a SCNT (R398). -/
def State.safetyBytes (s : State) (scnt : Word) : List Byte :=
  let f := s.saf
  let b := leBytes 4 scnt.toNat ++ leBytes 2 f.served ++ leBytes 2 f.demandBits ++ leBytes 1 f.sinBits ++
    [Config.guardStatus s.freeIdx] ++ leBytes 2 f.check ++ leBytes 2 s.station ++ leBytes 5 s.time.shadow.ns.toNat ++
    List.replicate 9 0
  b ++ leBytes 4 (scrc s.station b)

/-- The SAFETY window of this station whose occurrence is next: the first present in the basic cycle that Guard has composed no frame for
yet (R485). -/
def State.safetyWindow (s : State) : Option Nat :=
  let done := if s.saf.sendCycle = s.wag.cycle then s.saf.sendWins else []
  let mine := (s.wag.windows s.wag.mode).filter (fun x =>
    decide (wType x.2 = 1) && wSafety x.2 && decide (wOrigin x.2 = s.station) && wPresent x.2 s.wag.mpos && !done.contains x.1)
  (sortBy (fun a b => decide (wStart a.2 ≤ wStart b.2)) mine).head?.map (·.1)

/-- SAFETY_FRAME_SEND: Guard composes one frame for the next occurrence of its station's SAFETY window. It crosses to the logic side,
which sends it in that window, and the same bytes go out on the pair (R17, R485; DESIGN CHOICE, log 120: when the pair's copy starts is
timing). -/
def execSafetyFrameSend (s : State) : Host.Outcome State Fault Refusal :=
  let f := s.saf
  if !s.pw.fieldUp || s.pw.logicAbsent || !f.guardRun || !sealRemote f.sealRead then .next s
  else
    let n := f.scnt + 1
    let b := s.safetyBytes n
    match s.safetyWindow with
    | none => .next s
    | some w =>
      let done := if f.sendCycle = s.wag.cycle then f.sendWins else []
      let s := (s.setSaf { f with scnt := n, sendCycle := s.wag.cycle, sendWins := done ++ [w] }).tookFree
      let s := s.sendUp (.safetyFrame w b)
      .next (if s.fieldDrives then s.emitOut (.safetyPair ([0x7E] ++ b ++ [0x7E])) else s)

/-! ### The rule store (R492) -/

/-- The numbers of the rows that nothing has written. -/
def SafState.unwritten (f : SafState) : List Nat := (List.range 256).filter (fun i => !rowWritten (tget 0 f.rows i))

/-- The outputs that a row names. -/
def rowTargets (r : BitVec 128) : List Nat :=
  if rowKind r = 5 then ((List.range 48).filter (fun i => Nat.testBit (rowOp r 4 6) i)).map (fun i => 0x2000 + i)
  else if rowKind r = 9 || rowKind r = 10 then [] else [rowTgt r]

/-- The output is off, at high impedance or idle. -/
def State.outputIdle (s : State) (id : Nat) : Bool :=
  let i := id % 0x1000
  match id / 0x1000 with
  | 1 => (s.dacRt i).hiz
  | 2 => !(s.hsRt i).drv
  | 3 => decide ((s.pulRt i).rate = 0) && !(s.pulRt i).moving
  | _ => true

/-- A row as it is written: WRITTEN set, not yet ARMED, the application's number, its CRC (R473, R492). -/
def rowAs (txn : Nat) (r : BitVec 128) : BitVec 128 :=
  let r := putFld (putFld r 3 0 1) 15 8 txn
  putFld r 127 112 (rowCrc r)

/-- The groups that changed rows affect: those of the outputs they name, and those that added GROUP rows give them. -/
def SafState.affected (f : SafState) (adds changed : List (BitVec 128)) : List Nat :=
  (changed.flatMap rowTargets).filterMap f.groupOf ++ (adds.filter (fun r => decide (rowKind r = 1))).map (fun r => rowOp r 6 1)

/-- Why a rule store part is not applied: the value of 0x87 (R492, R494). -/
def State.ruleRefusal (s : State) (need : Nat) (groups : List Nat) (changed : List (BitVec 128)) : Option (BitVec 64) :=
  let f := s.saf
  if !tbit f.sealRead 15 then some 1
  else if groups.any (fun g => f.permits g) then some 2
  else if (changed.flatMap rowTargets).any (fun id => (f.groupOf id).isNone && !s.outputIdle id) then some 3
  else if f.unwritten.length < need then some 4
  else none

/-- Rows written, unarmed (R492). -/
def SafState.writeRows (f : SafState) (txn : Nat) (l : List (BitVec 128 × Nat)) : SafState :=
  { f with rows := l.foldl (fun t x => tput 0 (rowAs txn x.1) t x.2) f.rows }

/-- Bits programmed by the pass: ARMED of a new row, RETIRED of an old one (R492). -/
def SafState.programBits (f : SafState) (l : List (Nat × Nat)) : SafState :=
  { f with rows := l.foldl (fun t x => tmod 0 t x.1 (fun r => putBit r x.2 true)) f.rows }

/-- The applied part is in force: inputs, demands and outputs follow it, the affected groups stay demanded until SEAL[15] is 0, 0x86, and
0x88 where fewer than 32 rows remain (R492). -/
def State.rulesApplied (s : State) (groups : List Nat) (added retired : Nat) (params : List (BitVec 64)) : State :=
  let f := s.saf
  let held := groups.foldl (fun (h : BitVec 16) g => putBit h g true) f.rulesHold
  let s := s.setSaf (SafState.fitInputs { f with
    rulesHold := held, guardTab := tputs 0 f.guardTab 0 (params.take 16), cutShort := none })
  let s := s.putGroups (fun g r =>
    ({ r.guard with sealCause := r.guard.sealCause || tbit held g }, { r.fg with sealCause := r.fg.sealCause || tbit held g }))
  let s := s.safUpdate.cfgCheck.regate
  let s := s.fieldRaise 0x86 (BitVec.ofNat 64 (added + retired * 2 ^ 16 + s.saf.check * 2 ^ 32))
  let left := s.saf.unwritten.length
  if left < 32 then s.fieldRaise 0x88 (BitVec.ofNat 64 left) else s

/-- How an application of a rule store part ends: in force; refused, with the value of 0x87; or the field side loses its power in it
(R492). -/
inductive RuleEnd where
  | applied (s : State)
  | refused (s : State) (value : BitVec 64)
  | powerLost (s : State)

/-- Fen Gate applies a rule store part (R492): it writes the new rows unarmed, reads them back, and arms and retires in one pass. The
part whose pass a loss of power cut short completes it. What the programming meets is a free outcome (DESIGN CHOICE, log 113). -/
def State.applyRules (s : State) (part : List Byte) : RuleEnd :=
  match Config.rulePart part with
  | none => .applied s
  | some (adds, retires, params) =>
    let again : Option RulePass := s.saf.cutShort.filter (fun p => decide (p.part = part))
    let need := if again.isSome then 0 else adds.length
    let changed := adds ++ retires.map (fun i => tget 0 s.saf.rows i)
    let groups := s.saf.affected adds changed
    match s.ruleRefusal need groups changed with
    | some v => .refused s v
    | none =>
      let rows := (adds.take need).zip s.saf.unwritten
      let txn := (s.saf.rows.map (fun x => rowTxn x.2)).foldl max 0 + 1
      let pass := match again with
        | some p => p.left
        | none => rows.map (fun x => (x.2, 1)) ++ retires.map (fun i => (i, 2))
      let good := Config.rulesReadBack s.freeIdx
      let power := Config.rulesPower s.freeIdx
      let s := s.tookFree.settleDacs
      let full := s.saf.writeRows txn rows
      match power with
      | some k =>
        if k < rows.length then .powerLost (s.setSaf (s.saf.writeRows txn (rows.take k)))
        else if !again.isSome && !good then .refused (s.setSaf full) 5
        else
          let left := pass.drop (k - rows.length)
          .powerLost (s.setSaf { full.programBits (pass.take (k - rows.length)) with
            cutShort := if left.isEmpty then none else some { part := part, left := left } })
      | none =>
        if !again.isSome && !good then .refused (s.setSaf full) 5
        else .applied ((s.setSaf (full.programBits pass)).rulesApplied groups adds.length retires.length params)

/-! ### Field power (R472, R490) -/

/-- Guard and Fen Gate lose their supply: nothing is verified, every group is demanded with cause 8 when it returns, those of a rule
application with cause 6 too while SEAL[15] is 1, and the counters since field power-up end (R490, R492). -/
def SafState.powerDown (f : SafState) : SafState :=
  { f with
    groups := (List.range 16).foldl (fun t g =>
      if tbit (f.heldGroups f.sealNow) g then
        tput {} { guard := { powerUp := true, sealCause := true }, fg := { powerUp := true, sealCause := true } } t g
      else t) []
    sin := tmap {} (fun r => { r with st := .demand, waiting := false, bothShown := false }) f.sin, remote := []
    fgVerified := false, guardRun := false, guardFault := false, cfgFault := false, scnt := 0, pairUp := false, pairBad := 0
    lastEnv := [], cutCnt := 0, refuseCnt := 0, mismatchCnt := 0, absentCnt := 0, disagreeCnt := 0, discrepCnt := 0 }

end Sys2Proof.Machine
end

