-- ==== Sys2Proof/Machine/Drone.lean ====
section
/-! DEFINITION. The Drone (R495 to R520): the hold-program image and its check, the 1 ms cycle, the hold scan, the bit logic,
the hold loops, COMMAND and SHADOW. CONVERSION_SLOT stands here, since a slot serves the scan lists or the hold scan. -/

namespace Sys2Proof.Machine

/-! ### The image (R516, R517) -/

/-- The next multiple of 8. -/
def align8 (n : Nat) : Nat := (n + 7) / 8 * 8
/-- N_SCAN, N_CMP, N_TMR, N_LOOP and N_CODE for k from 0 to 4. -/
def holdCount (b : List Byte) (k : Nat) : Nat := leAt b (12 + 2 * k) 2
/-- Where the compare section starts. -/
def holdCmpAt (b : List Byte) : Nat := 40 + 8 * holdCount b 0
/-- Where the timer section starts. -/
def holdTmrAt (b : List Byte) : Nat := holdCmpAt b + 8 * holdCount b 1
/-- Where the loop section starts. -/
def holdLoopAt (b : List Byte) : Nat := align8 (holdTmrAt b + 4 * holdCount b 2)
/-- Where the code section starts. -/
def holdCodeAt (b : List Byte) : Nat := holdLoopAt b + 32 * holdCount b 3
/-- Where the image ends. -/
def holdEnd (b : List Byte) : Nat := align8 (holdCodeAt b + 2 * holdCount b 4)

/-- One scan entry: its channel, the channel-table entry that its fields make, OVS and SHIFT. -/
structure HoldScan where
  chan : Nat
  cfg : BitVec 64
  ovs : Nat
  shift : Nat
  deriving DecidableEq, Repr

/-- Scan entry i. -/
def holdScan (b : List Byte) (i : Nat) : HoldScan :=
  let w := leAt b (40 + 8 * i) 8
  let f := w / 2 ^ 8
  let cfg := f % 16 + w / 2 ^ 16 % 16 * 2 ^ 6 + f / 16 % 4 * 2 ^ 10 + f / 64 % 2 * 2 ^ 14
  { chan := w % 256, cfg := BitVec.ofNat 64 cfg, ovs := w / 2 ^ 20 % 8, shift := w / 2 ^ 24 % 256 }

/-- The scan entries. -/
def holdScans (b : List Byte) : List HoldScan := (List.range (holdCount b 0)).map (holdScan b)

/-- One compare entry. -/
structure HoldCmp where
  entry : Nat
  dir : Bool
  failv : Bool
  level : Int
  hyst : Nat
  deriving DecidableEq, Repr

/-- Compare entry i. -/
def holdCmp (b : List Byte) (i : Nat) : HoldCmp :=
  let a := holdCmpAt b + 8 * i
  { entry := leAt b a 1, dir := decide (leAt b (a + 1) 1 % 2 = 1), failv := decide (leAt b (a + 1) 1 / 2 % 2 = 1)
    level := sext 16 (leAt b (a + 2) 2), hyst := leAt b (a + 4) 2 }

/-- PT of timer i in ms. -/
def holdPt (b : List Byte) (i : Nat) : Nat := leAt b (holdTmrAt b + 4 * i) 2

/-- One loop entry. -/
structure HoldLoop where
  entry : Nat
  dac : Bool
  reverse : Bool
  en0 : Bool
  index : Nat
  range : Nat
  sp0 : Int
  sp1 : Int
  kp : Int
  ki : Int
  lo : Int
  hi : Int
  init : Int
  period : Nat
  off : Int
  deriving DecidableEq, Repr

/-- Loop entry i. -/
def holdLoop (b : List Byte) (i : Nat) : HoldLoop :=
  let a := holdLoopAt b + 32 * i
  let f := leAt b (a + 1) 1
  let s16 (k : Nat) : Int := sext 16 (leAt b (a + k) 2)
  { entry := leAt b a 1, dac := decide (f % 4 = 1), reverse := decide (f / 4 % 2 = 1), en0 := decide (f / 8 % 2 = 1)
    index := leAt b (a + 2) 1, range := leAt b (a + 3) 1, sp0 := s16 4, sp1 := s16 6, kp := s16 8, ki := s16 10
    lo := s16 12, hi := s16 14, init := s16 16, period := leAt b (a + 18) 2, off := s16 20 }

/-- The loop entries. -/
def holdLoops (b : List Byte) : List HoldLoop := (List.range (holdCount b 3)).map (holdLoop b)

/-- The output that a loop drives, as an identifier of R325. -/
def HoldLoop.dst (l : HoldLoop) : Nat := if l.dac then 0x1000 + l.index else 0x2000 + l.index

/-- HS_MASK. -/
def holdMask (b : List Byte) : Nat := leAt b 24 6

/-- The instructions. -/
def holdCode (b : List Byte) : List (BitVec 16) :=
  (List.range (holdCount b 4)).map (fun i => BitVec.ofNat 16 (leAt b (holdCodeAt b + 2 * i) 2))

/-! ### The image check (R507 to R509, R518) -/

/-- Bytes [i, i + n) are zero. -/
def zeroBytes (b : List Byte) (i n : Nat) : Bool := (slice b i n).all (fun x => decide (x = 0))

/-- A scan entry is valid: its channel, its fields, DIFF against the other entries, and the cold-junction or excitation entry
that it needs (R268, R517, R518). -/
def holdScanOk (b : List Byte) (i : Nat) : Bool :=
  let e := holdScan b i
  let all := holdScans b
  let partner := all.any (fun x => decide (x.chan = e.chan + 1))
  let f := leAt b (40 + 8 * i + 1) 1
  (decide (e.chan < 128) || (decide (160 ≤ e.chan) && decide (e.chan ≤ 172))) &&
    decide (1 ≤ chRange e.cfg) && decide (chRange e.cfg ≤ 5) && decide (f < 128) &&
    decide (leAt b (40 + 8 * i + 2) 1 < 128) && decide (e.ovs ≤ 4) && decide (e.shift ≤ 8) &&
    zeroBytes b (40 + 8 * i + 4) 4 &&
    chanFieldsOk (if partner then tput 0 1 [] (e.chan + 1) else []) e.chan e.cfg &&
    (decide (e.chan ≥ 128) || ((!chCjc e.cfg || all.any (fun x => decide (x.chan = 160 + e.chan / 32))) &&
      (decide (chRange e.cfg ≠ 5) || all.any (fun x => decide (x.chan = 164 + e.chan / 32)))))

/-- A compare entry is valid. -/
def holdCmpOk (b : List Byte) (i : Nat) : Bool :=
  let a := holdCmpAt b + 8 * i
  decide ((holdCmp b i).entry < holdCount b 0) && decide (leAt b (a + 1) 1 < 4) && zeroBytes b (a + 6) 2

/-- A timer entry is valid. -/
def holdTmrOk (b : List Byte) (i : Nat) : Bool :=
  decide (1 ≤ holdPt b i) && zeroBytes b (holdTmrAt b + 4 * i + 2) 2

/-- A loop entry is valid, and alone on its output (R517, R518). -/
def holdLoopOk (b : List Byte) (i : Nat) : Bool :=
  let a := holdLoopAt b + 32 * i
  let l := holdLoop b i
  let t := leAt b (a + 1) 1
  decide (l.entry < holdCount b 0) && (decide (t % 4 = 1) || decide (t % 4 = 2)) && decide (t < 16) &&
    (if l.dac then decide (l.index < 32) && (decide (l.range = 1) || decide (l.range = 2)) && decide (l.period = 0)
     else decide (l.index < 48) && decide (l.range = 0) && decide (l.period ≥ 200) && !Nat.testBit (holdMask b) l.index) &&
    decide (l.lo ≤ l.init) && decide (l.init ≤ l.hi) && decide (l.lo ≤ l.off) && decide (l.off ≤ l.hi) &&
    zeroBytes b (a + 22) 10 &&
    decide (((holdLoops b).filter (fun x => decide (x.dst = l.dst))).length = 1)

/-- An operand may be read, each reference below its count (R507, R518). -/
def holdReadOk (b : List Byte) (space ix : Nat) : Bool :=
  match space with
  | 0 => decide (ix < 64)
  | 1 => decide (ix < 48)
  | 2 => true
  | 3 => decide (ix < holdCount b 2)
  | 4 => decide (ix < holdCount b 1)
  | 5 => decide (ix < 128) && decide (ix % 32 < holdCount b 3)
  | 6 => decide (ix ≤ 5) || (decide (16 ≤ ix) && decide (ix ≤ 35))
  | _ => false

/-- An operand may be written (R507). -/
def holdWriteOk (b : List Byte) (space ix : Nat) : Bool :=
  match space with
  | 1 => decide (ix < 48) && Nat.testBit (holdMask b) ix
  | 2 => true
  | 5 => decide (ix < 64) && decide (ix % 32 < holdCount b 3)
  | _ => false

/-- OP of an instruction. -/
def hwOp (w : BitVec 16) : Nat := fld w 15 11
/-- SPACE. -/
def hwSpace (w : BitVec 16) : Nat := fld w 10 8
/-- INDEX. -/
def hwIndex (w : BitVec 16) : Nat := fld w 7 0
/-- OFF. -/
def hwOff (w : BitVec 16) : Nat := fld w 10 0

/-- An instruction at index i of n is valid by itself (R508). -/
def holdWordOk (b : List Byte) (n i : Nat) (w : BitVec 16) : Bool :=
  let op := hwOp w
  if op = 0 || op = 8 || op = 9 || op = 10 || op = 11 || op = 20 then decide (hwOff w = 0)
  else if op ≤ 7 then holdReadOk b (hwSpace w) (hwIndex w)
  else if op ≤ 14 then holdWriteOk b (hwSpace w) (hwIndex w)
  else if op = 15 then decide (hwSpace w = 2)
  else if op = 16 then decide (hwSpace w = 0) && decide (hwIndex w < holdCount b 2)
  else if op ≤ 19 then decide (hwOff w ≥ 1) && decide (i + hwOff w < n)
  else false

/-- What is known of the paths that reach an instruction: their stack depth, and the timers that some of them execute. -/
structure PathInfo where
  depth : Nat
  timers : List Nat
  deriving DecidableEq, Repr

/-- Paths that come together at an index: none where their depths differ. -/
def joinPaths (a : Option PathInfo) (p : PathInfo) : Option (Option PathInfo) :=
  match a with
  | none => some (some p)
  | some q =>
    if q.depth = p.depth then some (some { q with timers := q.timers ++ p.timers.filter (fun x => !q.timers.contains x) })
    else none

/-- The paths through the code from index i on (R509): here is what reaches i by falling through, marks what jumps have
brought to later indices. Jumps lead forward alone, so one pass covers every path. -/
def holdPaths : List (BitVec 16) → Nat → Option PathInfo → Sparse (Option PathInfo) → Bool
  | [], _, here, _ => here.isNone
  | w :: r, i, fall, marks =>
    let here : Option (Option PathInfo) := match tget none marks i, fall with
      | m, none => some m
      | m, some p => joinPaths m p
    match here with
    | none => false
    | some none => holdPaths r (i + 1) none marks
    | some (some p) =>
      let op := hwOp w
      let jump (f : Option PathInfo) : Bool :=
        match joinPaths (tget none marks (i + hwOff w)) p with
        | none => false
        | some x => holdPaths r (i + 1) f (tput none x marks (i + hwOff w))
      if op = 9 then decide (p.depth < 8) && holdPaths r (i + 1) (some { p with depth := p.depth + 1 }) marks
      else if op = 10 || op = 11 then decide (p.depth ≥ 1) && holdPaths r (i + 1) (some { p with depth := p.depth - 1 }) marks
      else if op = 16 then
        !p.timers.contains (hwIndex w) && holdPaths r (i + 1) (some { p with timers := hwIndex w :: p.timers }) marks
      else if op = 17 then jump none
      else if op = 18 || op = 19 then jump (some p)
      else if op = 20 then decide (p.depth = 0) && holdPaths r (i + 1) none marks
      else holdPaths r (i + 1) (some p) marks

/-- Conversions that the hold scan makes (R504). -/
def holdConversions (b : List Byte) : Nat := (holdScans b).foldl (fun n e => n + 2 ^ e.ovs) 0

/-- A hold-program image is valid (R518). -/
def holdImageOk (b : List Byte) : Bool :=
  let code := holdCode b
  let tmrEnd := holdTmrAt b + 4 * holdCount b 2
  let codeEnd := holdCodeAt b + 2 * holdCount b 4
  decide (b.length ≥ 40) && decide (b.length ≤ 65536) && decide (b.length % 8 = 0) && decide (leAt b 0 4 = 0x4E524448) &&
    decide (leAt b 4 2 = 1) && zeroBytes b 6 2 && decide (leAt b 8 4 = b.length) &&
    decide (holdCount b 0 ≤ 64) && decide (holdCount b 1 ≤ 64) && decide (holdCount b 2 ≤ 32) &&
    decide (holdCount b 3 ≤ 32) && decide (1 ≤ holdCount b 4) && decide (holdCount b 4 ≤ 4096) &&
    zeroBytes b 22 2 && zeroBytes b 30 2 && zeroBytes b 36 4 && decide (holdEnd b = b.length) &&
    decide (leAt b 32 4 = crc32c (b.take 32 ++ [0, 0, 0, 0] ++ b.drop 36)) &&
    zeroBytes b tmrEnd (holdLoopAt b - tmrEnd) && zeroBytes b codeEnd (b.length - codeEnd) &&
    (List.range (holdCount b 0)).all (holdScanOk b) && (List.range (holdCount b 1)).all (holdCmpOk b) &&
    (List.range (holdCount b 2)).all (holdTmrOk b) && (List.range (holdCount b 3)).all (holdLoopOk b) &&
    decide (holdConversions b ≤ 512) &&
    (code.zipIdx).all (fun x => holdWordOk b code.length x.2 x.1) && holdPaths code 0 (some { depth := 0, timers := [] }) []

/-! ### A hold program comes into force (R511, R518) -/

/-- The Drone's state with a program: markers and timers zero, loops as their entries give them, FIRST 1. cmd tells which
outputs stay in COMMAND. -/
def DrnState.load (d : DrnState) (b : List Byte) (cmd : Nat → Bool) : DrnState :=
  let ls := (holdLoops b).zipIdx
  { d with
    image := b, nextImage := none, first := true, m := [], timers := [], done := [], cmp := [], latch := [], scanWords := []
    scanAt := [], stkRun := 0, hsVal := 0
    hsCmd := (List.range 48).foldl (fun w i => putBit w i (Nat.testBit (holdMask b) i && cmd (0x2000 + i))) 0
    loops := ls.foldl (fun t x => tput {} ({
      enable := x.1.en0, dst := x.1.dst, range := x.1.range, period := x.1.period, cmd := cmd x.1.dst } : LoopRt) t x.2) [] }

/-- The Drone at field power-up (R496, R511, R518): the active image is checked; an invalid one leaves the Drone IDLE. -/
def droneAtPower (b : List Byte) : DrnState :=
  if holdImageOk b then { ({} : DrnState).load b (fun _ => false) with st := .run, rsRun := some 0 }
  else { st := .idle, image := b, imgFault := true, rsRun := some 0 }

/-- A new program takes effect at a Drone cycle start: outputs that both programs name keep their state (R511, R574). While the
logic side is absent the newly named ones enter COMMAND at the next output instant. -/
def State.adoptProgram (s : State) : State :=
  match s.drn.nextImage with
  | none => s
  | some b =>
    let d := s.drn.load b (fun id => s.droneCommands id)
    { s with drn := { d with
        st := if d.st = .idle then .run else d.st, imgFault := false
        takeDue := d.takeDue || (s.pw.logicAbsent && !s.twn.fieldMember) } }

/-! ### The hold scan (R504 to R506) -/

/-- A sample word of the hold scan that no conversion has made yet: VALUE 0 with STL. -/
def DrnState.scanWord (d : DrnState) (i : Nat) : Sample := tget {} d.scanWords i

/-- The hold-scan entries that converter k makes: all of them in the spare role; its group's own where the spare role is vacant
(R289, R504). -/
def State.scanOf (s : State) (k : Nat) : List Nat :=
  let es := holdScans s.drn.image
  let group (c : Nat) : Nat := if c < 128 then c / 32 else if c < 168 then c % 4 else 0
  if s.cnv.role k = 4 then List.range es.length
  else if (s.cnv.holder 4).isNone && decide (s.cnv.role k < 4) then
    (es.zipIdx.filter (fun x => decide (group x.1.chan = s.cnv.role k))).map (·.2)
  else []

/-- The newest word that the hold scan has of a channel, for a cold junction or an excitation current. -/
def State.scanNewest (s : State) (c : Nat) : Sample :=
  match (holdScans s.drn.image).zipIdx.find? (fun x => decide (x.1.chan = c)) with
  | some x => s.drn.scanWord x.2
  | none => noSample c

/-- One hold-scan conversion of converter k (R271, R504). -/
def State.scanConvert (s : State) (k : Nat) (code : BitVec 20) (cond : Bool) : State :=
  let mine := s.scanOf k
  let at_ := tget ((0 : Nat), (0 : Int), (0 : Nat), (0 : Time), false) s.drn.scanAt k
  match mine[at_.1]? with
  | none => s
  | some i =>
    let e := holdScan s.drn.image i
    let t := s.time.shadow.ns
    let sum := at_.2.1 + s.oneConversion k e.chan e.cfg code
    let n := at_.2.2.1 + 1
    let first := if at_.2.2.1 = 0 then t else at_.2.2.2.1
    let lim := at_.2.2.2.2 || codeAtLimit (codeSigned s e.chan e.cfg) code || (cond && decide (128 ≤ e.chan) && decide (e.chan < 160))
    let put (d : DrnState) (x : Nat × Int × Nat × Time × Bool) : DrnState :=
      { d with scanAt := tput (0, 0, 0, 0, false) x d.scanAt k }
    if n < 2 ^ e.ovs then { s with drn := put s.drn (at_.1, sum, n, first, lim) }
    else
      let v := formValue s s.scanNewest e.chan e.cfg sum n t
      let w := sampleWord v.1 e.chan k (lim || v.2.1) false (decide (s.cnv.role k = 4)) v.2.2.1
      let d := put s.drn (at_.1 + 1, 0, 0, 0, false)
      let d := { d with scanWords := tput {} { word := w, stamp := midpoint first t } d.scanWords i }
      { (if v.2.2.2 then s.tookFree else s) with drn := d }

/-- A converter converts at all: the field side is powered, it holds a serving, spare or shadow role, and its self-calibration
after field power-up has ended (R287, R289). -/
def State.converts (s : State) (k : Nat) : Bool :=
  s.pw.fieldUp && !s.pw.variantL && decide (s.cnv.role k ≤ 5) && !s.cnv.bootCal.getD k false

/-- CONVERSION_SLOT: a converter samples and converts: for its list, or for the hold scan while the logic side is absent; the
conversion is checked (R273, R287, R289, R502, R504). -/
def execConversionSlot (conv : Fin 5) (slot : Fin 20) (code : BitVec 20) (cond checkFail : Bool) (s : State) :
    Host.Outcome State Fault Refusal :=
  let k := conv.val
  if !s.converts k then .next s
  else
    let s := if s.pw.logicAbsent then (if s.drn.scanOn then s.scanConvert k code cond else s)
      else (s.missDue s.cmb.n s.time.shadow.ns).convertSlot k slot.val code cond
    .next (s.convCheck k checkFail)

/-! ### DRONE_CYCLE_START -/

/-- DRONE_CYCLE_START: a 1 ms cycle begins; a new program takes effect; the hold scan starts while the logic side is absent (R501,
R502, R504, R511). -/
def execDroneCycleStart (s : State) : Host.Outcome State Fault Refusal :=
  if !s.pw.fieldUp || s.pw.variantL then .next s
  else
    let s := s.adoptProgram
    let d : DrnState := { s.drn with rsRun := s.drn.rsRun.map (satInc 0xFFFFFFFF) }
    let d := if d.st = .idle then d
      else { d with d0 := if d.cycle = 0 then s.time.shadow.ns else d.d0, cycle := d.cycle + 1, faulted := false, scanAt := [],
                    scanOn := s.pw.logicAbsent }
    .next { s with drn := d }

/-! ### The input latch (R502, R505 to R512) -/

/-- What the latch takes for a scan entry, from the words that the field side itself has made: its 16-bit view and whether it is stale
(R505, R506). -/
def State.latchScan (s : State) (i : Nat) : Int × Bool :=
  let e := holdScan s.drn.image i
  let now := s.time.shadow.ns
  let x := if s.pw.logicAbsent then s.drn.scanWord i else s.madeSample e.chan
  let served := s.pw.logicAbsent || ((namedChans s.cnv.listsEff).contains e.chan &&
    (decide (e.chan ≥ 128) || decide (chRange (tget 0 s.cnv.chanEff e.chan) = chRange e.cfg)))
  (satS 16 (shrRound (swValue x.word) e.shift),
   !served || swStl x.word || swOvr x.word || olderThan x.stamp now 2000000)

/-- A compare bit after the latch (R512). -/
def cmpNext (c : HoldCmp) (y : Int) (stale was : Bool) : Bool :=
  if stale then c.failv
  else if c.dir then
    if y ≤ c.level then true else if y > c.level + Int.ofNat c.hyst then false else was
  else
    if y ≥ c.level then true else if y < c.level - Int.ofNat c.hyst then false else was

/-- The value of an operand (R507). -/
def State.droneRead (s : State) (d : DrnState) (space ix : Nat) : Bool :=
  match space with
  | 0 => s.diState ix
  | 1 => (s.hsRt ix).drv
  | 2 => tget false d.m ix
  | 3 => tget false d.done ix
  | 4 => tget false d.cmp ix
  | 5 =>
    let l : LoopRt := tget {} d.loops (ix % 32)
    if ix < 32 then l.enable else if ix < 64 then l.spSel else if ix < 96 then l.limit else l.stale
  | 6 =>
    if ix = 1 then true
    else if ix = 2 then d.first
    else if ix = 3 then !s.pw.logicAbsent
    else if ix = 4 then s.pw.frefFb
    else if ix = 5 then s.twn.fieldMember
    else if 16 ≤ ix && ix < 32 then s.saf.permits (ix - 16)
    else if 32 ≤ ix && ix < 36 then decide ((s.saf.sinRt (ix - 32)).st = .ok)
    else false
  | _ => false

/-- An operand takes a value (R507). -/
def DrnState.write (d : DrnState) (space ix : Nat) (v : Bool) : DrnState :=
  match space with
  | 1 => { d with hsVal := putBit d.hsVal ix v }
  | 2 => { d with m := tput false v d.m ix }
  | 5 =>
    if ix < 32 then { d with loops := tmod {} d.loops ix (fun l => { l with enable := v }) }
    else if ix < 64 then { d with loops := tmod {} d.loops (ix - 32) (fun l => { l with spSel := v }) }
    else d
  | _ => d

/-- The bit-logic section while it runs: ACC, the stack, and the words that a jump still skips. -/
structure BitRun where
  acc : Bool := false
  stack : List Bool := []
  skip : Nat := 0
  ended : Bool := false
  fault : Bool := false
  d : DrnState
  deriving DecidableEq, Repr

/-- TMR (R508): ET and the done bit of timer ix. -/
def DrnState.tmr (d : DrnState) (ix : Nat) (acc : Bool) : DrnState :=
  let pt := holdPt d.image ix
  let et := if acc then min (tget 0 d.timers ix + 1) pt else 0
  { d with timers := tput 0 et d.timers ix, done := tput false (decide (et ≥ pt)) d.done ix }

/-- One instruction (R508, R510). -/
def State.bitStep (s : State) (r : BitRun) (w : BitVec 16) : BitRun :=
  if r.ended || r.fault then r
  else if r.skip > 0 then { r with skip := r.skip - 1 }
  else
    let sp := hwSpace w
    let ix := hwIndex w
    let x := s.droneRead r.d sp ix
    let jump : BitRun := { r with skip := hwOff w - 1 }
    match hwOp w with
    | 1 => { r with acc := x }
    | 2 => { r with acc := !x }
    | 3 => { r with acc := r.acc && x }
    | 4 => { r with acc := r.acc && !x }
    | 5 => { r with acc := r.acc || x }
    | 6 => { r with acc := r.acc || !x }
    | 7 => { r with acc := Bool.xor r.acc x }
    | 8 => { r with acc := !r.acc }
    | 9 => if r.stack.length < 8 then { r with stack := r.acc :: r.stack } else { r with fault := true }
    | 10 =>
      match r.stack with
      | a :: t => { r with acc := a && r.acc, stack := t }
      | [] => { r with fault := true }
    | 11 =>
      match r.stack with
      | a :: t => { r with acc := a || r.acc, stack := t }
      | [] => { r with fault := true }
    | 12 => { r with d := r.d.write sp ix r.acc }
    | 13 => if r.acc then { r with d := r.d.write sp ix true } else r
    | 14 => if r.acc then { r with d := r.d.write sp ix false } else r
    | 15 => { r with acc := r.acc && !tget false r.d.m ix, d := { r.d with m := tput false r.acc r.d.m ix } }
    | 16 => { r with d := r.d.tmr ix r.acc }
    | 17 => jump
    | 18 => if r.acc then r else jump
    | 19 => if r.acc then jump else r
    | 20 => { r with ended := true }
    | _ => r

/-! ### The hold loops (R513, R514) -/

/-- The value that a loop's output presently applies, in the loop's own scaling; behind a closed gate that is the count of its safe
state (R466, R514). -/
def State.droneApplied (s : State) (l : LoopRt) : Int :=
  let i := l.dst % 0x1000
  if l.dst < 0x2000 then
    let r := s.dacRt i
    let now := s.dacNow i s.time.shadow.ns
    shrRound (if decide (now = r.target) && !r.clamp && s.gateOpen l.dst then r.val else now) 8
  else
    let h := s.hsRt i
    if decide (hsMode (s.hsCfg i) = 2) || (s.loopOn l.dst).isSome then
      divNearest (Int.ofNat h.onTime * 32767) (max 1 (s.dutyPeriod i * 10))
    else if h.drv then 32767 else 0

/-- The PI law of R513 from integrator I and error e: the new integrator, u, and whether u is at a limit. -/
def holdLaw (p : HoldLoop) (i e : Int) : Int × Int × Bool :=
  let i1 := clampI (p.lo * 4096) (p.hi * 4096) (satS 32 (i + p.ki * e))
  let ur := shrRound (satS 32 (p.kp * e + i1)) 12
  let u := clampI p.lo p.hi ur
  let further := (decide (ur > u) && decide (p.ki * e > 0)) || (decide (ur < u) && decide (p.ki * e < 0))
  (if further then i else i1, u, decide (ur ≠ u))

/-- One loop in one cycle (R513, R514, R518). -/
def State.loopCycle (s : State) (d : DrnState) (i : Nat) : LoopRt :=
  let p := holdLoop d.image i
  let l : LoopRt := tget {} d.loops i
  let x := tget ((0 : Int), true) d.latch p.entry
  let stale := x.2
  let sp := if l.spSel then p.sp1 else p.sp0
  let e := if p.reverse then x.1 - sp else sp - x.1
  let e0 := if stale then 0 else e
  let l := { l with stale := stale }
  let law (i : Int) : LoopRt :=
    let r := holdLaw p i e
    { l with i := r.1, u := r.2.1, limit := r.2.2 }
  let a := s.droneApplied l
  let track := a * 4096 - p.kp * e0
  if l.confirmed.isSome then l
  else if !l.enable then { l with u := p.off, i := p.off * 4096 - p.kp * e0, limit := false }
  else if d.first && !d.firstOut && p.en0 then
    let i := p.init * 4096 - p.kp * e0
    if stale then { l with i := i, u := a, limit := false } else law i
  else if !l.cmd || d.first then
    if stale then { l with i := track, u := a, limit := false } else law track
  else if stale then { l with u := a, limit := false }
  else law l.i

/-! ### DRONE_INPUT_LATCH -/

/-- Handover requests that have come are confirmed, and sent back (R194, R498): one whose t_h has passed is not. -/
def State.confirmHandovers (s : State) : State :=
  s.drn.loops.foldl (fun s x =>
    match x.2.req with
    | none => s
    | some th =>
      let ok := decide (sdiff th s.time.shadow.ns > 0)
      let s : State := { s with drn := { s.drn with loops := tmod {} s.drn.loops x.1 (fun l => { l with
        req := none, confirmed := if ok then some th else l.confirmed }) } }
      if ok then s.sendUp (.holdConfirm x.1 th) else s) s

/-- The hold-policy entry of an output (R309). -/
def holdEntryOf (id : Nat) : Nat :=
  if id < 0x2000 then 48 + id % 0x1000 else if id < 0x3000 then id % 0x1000 else 80 + id % 0x1000

/-- Outputs that the hold program names. -/
def DrnState.named (d : DrnState) : List Nat :=
  d.loops.map (fun x => x.2.dst) ++ ((List.range 48).filter (fun i => Nat.testBit (holdMask d.image) i)).map (0x2000 + ·)

/-- The Drone fails after three stack faults in a row: every output in COMMAND takes SAFE (R510, R582). -/
def State.droneFails (s : State) : State :=
  let t := s.time.shadow.ns
  let s : State := { s with drn := { s.drn with st := .failed } }
  let s := s.countLedger 21
  (s.drn.named.filter (fun id => s.droneCommands id)).foldl (fun s id => s.takeSafe (holdEntryOf id) t) s

/-- A cycle ended by a stack fault: no output of it is written (R510). -/
def State.stackFault (s : State) (d : DrnState) : State :=
  let n := d.stkRun + 1
  let s : State := { s with drn := { d with
    stkRun := n, stkFault := satInc 0xFFFF d.stkFault, faulted := true, first := false } }
  if n ≥ 3 then s.droneFails else s

/-- DRONE_INPUT_LATCH: inputs are latched, compare bits formed, requests confirmed; the bit logic runs from word 0 to END, then every
loop in order (R498, R502, R505 to R514). -/
def execDroneInputLatch (s : State) : Host.Outcome State Fault Refusal :=
  if !s.pw.fieldUp || s.pw.variantL || s.drn.st = .idle then .next s
  else
    let s := s.confirmHandovers
    if s.drn.st ≠ .run then .next s
    else
      let b := s.drn.image
      let latch := (List.range (holdCount b 0)).foldl (fun t i => tput (0, true) (s.latchScan i) t i) []
      let d := { s.drn with latch := latch }
      let d := { d with cmp := (List.range (holdCount b 1)).foldl (fun t i =>
        let c := holdCmp b i
        let x := tget ((0 : Int), true) latch c.entry
        tput false (cmpNext c x.1 x.2 (tget false d.cmp i)) t i) [] }
      let r := (holdCode b).foldl (s.bitStep) { d := d }
      if r.fault then .next (s.stackFault { r.d with hsVal := d.hsVal })
      else
        let d := (List.range (holdCount b 3)).foldl (fun d i =>
          { d with loops := tput {} (s.loopCycle d i) d.loops i }) r.d
        .next { s with drn := { d with stkRun := 0, first := false } }

/-! ### DRONE_OUTPUT_INSTANT and HOLD_LOOP_RELEASE -/

/-- Every named output enters COMMAND: at the first output instant after field power-up, and after the logic side has been
counted absent (R496, R497). Its hold policy starts afresh when it is released. -/
def State.takeCommand (s : State) : State :=
  let d := s.drn
  let again := d.takeDue && d.firstOut
  let s : State := { s with
    fio := { s.fio with hold := d.named.foldl (fun t id => tput {} {} t (holdEntryOf id)) s.fio.hold }
    drn := { d with
      loops := tmap {} (fun l => { l with cmd := true, req := none, confirmed := none }) d.loops
      hsCmd := BitVec.ofNat 48 (holdMask d.image), firstOut := true, takeDue := false
      takeCnt := if again then satInc 0xFFFF d.takeCnt else d.takeCnt } }
  if d.st = .failed then d.named.foldl (fun s id => s.takeSafe (holdEntryOf id) s.time.shadow.ns) s else s

/-- The on-time of a duty loop in 100 ns (R515). -/
def holdOnTime (u : Int) (period : Nat) : Nat := ((max u 0).toNat * period * 10 * 2 + 32767) / 65534

/-- The value of a loop reaches its output (R515). -/
def State.loopOutput (s : State) (l : LoopRt) : State :=
  let i := l.dst % 0x1000
  let t := s.time.shadow.ns
  if l.dst < 0x2000 then
    let s := s.dacTake i (l.u * 256) t
    s.sendUp (.dacTaken i (s.dacNow i t) t)
  else s.modHs i (fun h => { h with onNext := holdOnTime l.u l.period, written := true })

/-- DRONE_OUTPUT_INSTANT: named outputs enter COMMAND where that is due, and the values of the outputs in COMMAND take effect
through Fen Gate's envelopes (R495 to R497, R500, R502, R510, R515). -/
def execDroneOutputInstant (s : State) : Host.Outcome State Fault Refusal :=
  let d := s.drn
  if !s.pw.fieldUp || s.pw.variantL || d.st = .idle then .next s
  else
    let s := if !s.twn.fieldMember && (!d.firstOut || d.takeDue) then s.takeCommand
      else { s with drn := { d with firstOut := true, takeDue := false } }
    if s.drn.st ≠ .run || s.drn.faulted then .next s
    else
      let s := (s.drn.loops.filter (fun x => x.2.cmd)).foldl (fun s x => s.loopOutput x.2) s
      let bits := (List.range 48).filter (fun i => tbit s.drn.hsCmd i)
      .next (s.hsCommand (bits.map (fun i => (i, tbit s.drn.hsVal i))))

/-- HOLD_LOOP_RELEASE: once the TB1 shadow has come to t_h of a confirmed handover the loop's output goes to SHADOW (R498, R501). -/
def execHoldLoopRelease (loop : Fin 32) (s : State) : Host.Outcome State Fault Refusal :=
  let l : LoopRt := tget {} s.drn.loops loop.val
  if !l.confirmed.any (fun th => decide (sdiff th s.time.shadow.ns ≤ 0)) then .next s
  else .next { s with drn := { s.drn with
    loops := tput {} { l with cmd := false, confirmed := none } s.drn.loops loop.val } }

end Sys2Proof.Machine
end

