-- ==== Sys2Proof/Machine/Ledger.lean ====
section
/-! DEFINITION. The Peat Ledger (R579 to R591): sampling, the record's layout, commits, snapshots, what a power-up continues from. -/

namespace Sys2Proof.Machine

/-! ### Sampling (R579 to R583) -/

/-- Bin of a LIN item with origin lo and width w (R580). -/
def linBin (lo w x : Int) : Nat :=
  if x < lo then 0 else if x ≥ lo + 14 * w then 15 else ((x - lo) / w).toNat + 1

/-- Bin of a LOG item (R580). -/
def logBin (x : Nat) : Nat := if x = 0 then 0 else min 15 (Nat.log2 x + 1)

/-- Origin and width of a LIN item in the unit of its extremes (R581); none for a LOG item. -/
def itemScale (item : Nat) : Option (Int × Int) :=
  match item with
  | 0 => some (-2000, 1000)
  | 1 => some (-2000, 1000)
  | 2 => some (10400, 250)
  | 3 => some (16000, 4000)
  | 4 => some (2000, 100)
  | 5 => some (0, 2000)
  | _ => none

/-- The bin of a sample of an item. -/
def itemBin (item : Nat) (x : Int) : Nat :=
  match itemScale item with
  | some (lo, w) => linBin lo w x
  | none => logBin x.toNat

/-- One sample of a histogram item (R580). -/
def Histo.add (h : Histo) (item : Nat) (x : Int) : Histo :=
  let i := itemBin item x
  { bins := setAt h.bins i (satInc 0xFFFFFFFF (h.bins.getD i 0)), min := Min.min h.min x, max := Max.max h.max x }

/-- The item's source is powered (R579): the field die's and the field supply's with the field side, the logic side's with the
logic side, the backup always. -/
def State.itemPowered (s : State) (item : Nat) : Bool :=
  if item = 4 then true
  else if item = 1 || item = 2 || item = 6 then decide (s.pw.logic ≠ .off)
  else s.pw.fieldUp && !s.pw.variantL

/-- What an item is sampled as in this second: SRAM corrections and check failures as the module has counted them, the others as
measured. -/
def State.itemValue (s : State) (x : LedgerInputs) (item : Nat) : Option Int :=
  if !s.itemPowered item then none
  else if item = 6 then some (Int.ofNat s.pw.ceSecond)
  else if item = 7 then some (Int.ofNat s.cnv.chkSecond)
  else (x.items[item]?).getD none

/-- The backup supply as this second has measured it, the last measurement where it has none (R581, R608). -/
def PeatState.backupMv (p : PeatState) (x : LedgerInputs) : BitVec 16 :=
  match (x.items[4]?).getD none with
  | some v => BitVec.ofInt 16 v
  | none => p.vbakMv

/-- Every powered item takes its sample. -/
def State.sampleItems (s : State) (x : LedgerInputs) : State :=
  let items := (List.range 8).foldl (fun t i =>
    match s.itemValue x i with
    | some v => tmod {} t i (fun h => h.add i v)
    | none => t) s.peat.buf.items
  { s with
    peat := { s.peat with buf := { s.peat.buf with items := items }, pending := true, vbakMv := s.peat.backupMv x }
    pw := { s.pw with ceSecond := 0 }, cnv := { s.cnv with chkSecond := 0 } }

/-- The main supply of the PEAT domain's side is present (R15, R593). -/
def State.peatMain (s : State) : Bool := if s.pw.variantL then decide (s.pw.logic ≠ .off) else s.pw.fieldUp

/-- Counters 0 to 2 (R582). -/
def State.countSecond (s : State) : State :=
  let s := if s.pw.logic ≠ .off then s.countLedger 0 else s
  let s := if s.pw.fieldUp then s.countLedger 1 else s
  if s.peatMain then s else s.countLedger 2

/-! ### Commits and snapshots (R585 to R588) -/

/-- The live image with the higher COMMITS, first among equals. -/
def PeatState.newest (p : PeatState) : Option LedgerRec :=
  match p.live0, p.live1 with
  | some a, some b => some (if a.commits ≥ b.commits then a else b)
  | some a, none => some a
  | none, b => b

/-- The write buffer goes to the older live image (R586). -/
def PeatState.commit (p : PeatState) (lc tcount : Nat) : PeatState :=
  let r := { p.buf with commits := p.buf.commits + 1, lc := lc, tcount := tcount, recovered := p.recovered, lost := p.lost }
  let first : Bool := match p.live0, p.live1 with
    | none, _ => true
    | some _, none => false
    | some a, some b => decide (a.commits < b.commits)
  let p := if first then { p with live0 := some r } else { p with live1 := some r }
  { p with buf := r, commits := r.commits, pending := false }

/-- Code of a life-cycle state (R553). -/
def LcState.code : LcState → Nat
  | .blank => 0 | .maker => 1 | .ownerOpen => 2 | .ownerLocked => 3 | .return_ => 4 | .end_ => 5

/-- The buffer is committed, where the ledger's MRAM is powered. -/
def State.commitLedger (s : State) : State :=
  if s.peatMain then { s with peat := s.peat.commit s.lcy.st.code s.lcy.count } else s

/-- A snapshot cause is noted: one snapshot at the end of the second holds them all (R587). -/
def State.noteCause (s : State) (bit : Nat) : State :=
  { s with peat := { s.peat with causes := putBit s.peat.causes bit true } }

/-- The snapshot of the causes noted is written from the newly committed live image (R587). -/
def State.writeSnapshot (s : State) : State :=
  if s.peat.causes = 0 || !s.peatMain then s
  else
    let s := s.commitLedger
    let p := s.peat
    let seq := p.seq + 1
    let r := { p.buf with seq := seq, cause := p.causes }
    { s with peat := { p with seq := seq, causes := 0, ring := tput {} r p.ring (seq.toNat % 254) } }

/-- A periodic snapshot falls due with this second of counter 1, or of counter 0 on an AXQ-4096-L (R587). -/
def State.snapshotDue (s : State) : Bool :=
  let n := tget 0 s.peat.buf.counters (if s.pw.variantL then 0 else 1)
  s.itemPowered (if s.pw.variantL then 2 else 0) && decide (n % 2592000 = 0) && decide (n > 0)

/-- LEDGER_SAMPLE: a second ends: its counters and samples are taken, then the snapshot that fell due in it (R579, R583, R587). -/
def execLedgerSample (inputs : LedgerInputs) (s : State) : Host.Outcome State Fault Refusal :=
  if s.pw.peatLost then .next s
  else
    let s := (s.countSecond).sampleItems inputs
    let s := if s.snapshotDue then s.noteCause 0 else s
    .next s.writeSnapshot

/-- LEDGER_COMMIT: 64 s have passed, or the supply of the ledger's side falls: the buffer is committed, and a snapshot that has
fallen due is written from it (R586, R587). -/
def execLedgerCommit (s : State) : Host.Outcome State Fault Refusal := 
  .next (if s.peat.causes = 0 then s.commitLedger else s.writeSnapshot)

/-- The newest valid snapshot. -/
def PeatState.newestSnap (p : PeatState) : Option LedgerRec :=
  p.ring.foldl (fun (m : Option LedgerRec) (x : Nat × LedgerRec) =>
    if x.2.seq = 0 then m
    else match m with
      | none => some x.2
      | some y => if x.2.seq.toNat > y.seq.toNat then some x.2 else m) none

/-- The highest value of counter i in the live images and snapshots (R597). -/
def PeatState.highest (p : PeatState) (i : Nat) : Nat :=
  ((p.live0.toList ++ p.live1.toList ++ p.ring.map (·.2)).map (fun r => tget 0 r.counters i)).foldl max 0

/-- The ledger at a power-up of its side (R588): it goes on from the buffer that the backup has held, which is committed (R586);
after PEAT loss from the newer live image, or the newest snapshot, or zero, with counters 0 to 2 and SEQ from the highest values
held (R597). -/
def State.ledgerPowerUp (s : State) (lost : Bool) : State :=
  if !lost then (if s.peat.pending then s.commitLedger else s)
  else
    let p := s.peat
    let seq := ((p.live0.toList ++ p.live1.toList ++ p.ring.map (·.2)).map (fun r => r.seq.toNat)).foldl max 0
    let base : PeatState := match p.newest, p.newestSnap with
      | some r, _ => { p with buf := r }
      | none, some r => { p with buf := r, recovered := true }
      | none, none => { p with buf := {}, lost := true }
    let counters := [0, 1, 2].foldl (fun t i => tput 0 (p.highest i) t i) base.buf.counters
    { s with peat := { base with
        buf := { base.buf with counters := counters }, seq := BitVec.ofNat 32 seq, pending := false, causes := 0 } }

/-! ### The record (R584) -/

/-- A histogram item's 72 bytes. -/
def Histo.bytes (h : Histo) : List Byte :=
  h.bins.flatMap (leBytes 4) ++ leBytes 4 (bitsOf 32 h.min).toNat ++ leBytes 4 (bitsOf 32 h.max).toNat

/-- A record's 1 024 bytes. -/
def LedgerRec.bytes (r : LedgerRec) (variantL : Bool) (serial : BitVec 128) : List Byte :=
  let body := leBytes 4 r.seq.toNat ++ [r.cause, BitVec.ofNat 8 r.lc,
      BitVec.ofNat 8 (variantL.toNat + 2 * r.recovered.toNat + 4 * r.lost.toNat), 0] ++
    leBytes 16 serial.toNat ++ leBytes 4 r.tcount ++ leBytes 4 r.commits ++
    (List.range 8).flatMap (fun i => (tget {} r.items i : Histo).bytes) ++
    (List.range 24).flatMap (fun i => leBytes 4 (tget 0 r.counters i)) ++
    (List.range 48).flatMap (fun i => leBytes 5 (tget 0 r.switchOns i)) ++ List.replicate 76 0
  body ++ leBytes 4 (crc32c body)

/-- The ledger as the logic side has it: its own on an AXQ-4096-L, else by the uplink (R15, R17). -/
def State.ledgerView (s : State) : PeatState := if s.pw.variantL then s.peat else s.seen.peat

/-- The live record: the newer live image as a live read gives it. -/
def State.liveRecord (s : State) : List Byte :=
  let p := s.ledgerView
  ({ p.newest.getD {} with seq := p.seq, cause := 0x80, lc := s.lcy.st.code, tcount := s.lcy.count, recovered := p.recovered
                           lost := p.lost } : LedgerRec).bytes s.pw.variantL s.pw.serial

/-- The snapshot in a ring slot as bytes, none where none has been written. -/
def State.snapshotAt (s : State) (slot : Nat) : Option (List Byte) :=
  let r : LedgerRec := tget {} s.ledgerView.ring slot
  if r.seq = 0 then none else some (r.bytes s.pw.variantL s.pw.serial)

/-- The snapshots with SEQ first, first + 1, … that the ring still holds (R590). -/
def State.snapshotsFrom (s : State) (first count : Nat) : List Byte :=
  (List.range count).flatMap (fun k =>
    let r : LedgerRec := tget {} s.ledgerView.ring ((first + k) % 254)
    if r.seq.toNat = first + k && decide (r.seq ≠ 0) then r.bytes s.pw.variantL s.pw.serial else [])

end Sys2Proof.Machine
end

