-- ==== Sys2Proof/Machine/Reset.lean ====
section
/-! DEFINITION. What a reset of one side leaves, shared by every cause: the rings (R83, R117, R613), the logic side (R31, R46,
R523, R598, R613, R615), the field side (R490, R496, R593), the copies of the life-cycle state (R555). -/

namespace Sys2Proof.Machine

/-! ### The host interface (R83) -/

/-- Pair p returns to DISABLED; the final entries of its pending steps carry PRIOR (R100, R117). -/
def State.resetPair (s : State) (p : Nat) : State :=
  let s := s.viaHif (resetPairX p)
  { s with stp := { s.stp with
      steps := s.stp.steps.map (fun e => if e.pair.val = p then { e with prior := true } else e) } }

/-- Every pair returns to DISABLED, descriptors not accepted flushed without entries (R83, R117). -/
def State.resetPairs (s : State) : State := (List.range 64).foldl State.resetPair s

/-- Registers of the HIF block return to their reset values (R83). -/
def hifRegsReset (regs : Sparse Word) : Sparse Word := regs.filter (fun x => decide (blockOf x.1 ≠ 3))

/-- Link-down, hot reset, function-level reset or a clear of Bus Master Enable: pairs DISABLED, the HIF registers reset but for
counters since cold start, LOCK bit 3 clear (R83, R613). -/
def State.resetHif (s : State) : State :=
  let s := s.resetPairs
  let h := s.hif
  { s with
    regs := hifRegsReset s.regs
    hif := { h with
      pairs := tmap {} (fun r => { r with errCode := 0, dbIgn := 0 }) h.pairs
      flrSeen := false, badAccSeen := false, noncanonSeen := false, peak := 0 }
    pw := { s.pw with lock := putBit s.pw.lock 3 false } }

/-- MSI-X enables and masks return to their reset state with the function. -/
def State.resetVectors (s : State) : State := { s with hif := { s.hif with vectors := [] } }

/-! ### Derived keys (R559, R560) -/

/-- A derived key: the SHA3-256 of the die's OTP secret, a label in ASCII and a context of 4 bytes (R560). -/
def deriveKey (secret label : List Byte) (ctx : Nat) : BitVec 256 := Config.sha3 (secret ++ label ++ leBytes 4 ctx)

/-- The label AXQ-STORE in ASCII (R560). -/
def storeLabel : List Byte := [0x41, 0x58, 0x51, 0x2D, 0x53, 0x54, 0x4F, 0x52, 0x45]

/-- The logic storage key of a slot (R560). -/
def logicKey (slot : Nat) : BitVec 256 := deriveKey Config.logicSecret storeLabel slot

/-- The logic storage keys at a boot: none in END, which has zeroised what they are derived from (R556, R559, R560). -/
def LcyState.bootKeys (l : LcyState) : LcyState := { l with logicKeys := if l.endFuse then [] else [logicKey 0, logicKey 1] }

/-- The field storage key at a field power-up (R559, R560). -/
def LcyState.fieldKeys (l : LcyState) : LcyState :=
  { l with
    fieldKey := if l.endFuse then none else some (deriveKey Config.fieldSecret Config.fieldLabel Config.fieldContext) }

/-! ### Debug ports (R558) -/

/-- A debug port is open: always in BLANK, else once a token has opened it (R558). -/
def LcyState.portOpen (l : LcyState) (field : Bool) : Bool := decide (l.st = .blank) || (if field then l.fdbg else l.ldbg)

/-- An opened debug port is open until the next reset of either side (R558). -/
def State.closeDebug (s : State) : State :=
  let s := if s.lcy.ldbg then s.emitOut (.debug false false) else s
  let s := if s.lcy.fdbg then s.emitOut (.debug true false) else s
  { s with lcy := { s.lcy with ldbg := false, fdbg := false } }

/-! ### The logic side -/

/-- The rings at a logic-side reset: what they hold is lost, but for the SENDs on the bridge, which complete with 0x99 once their
rings run again (R523). -/
def State.resetRings (s : State) : State :=
  let sends (e : Entry) : Bool := decide (e.cls = 5) && decide (e.op = 1) && decide (e.stage = .accepted)
  let s := s.resetPairs.viaHif (fun _ x => { x with hif := { x.hif with
    pairs := tmap {} (fun r => { r with held := [], discarded := 0, discardedSub := 0, entries := r.entries.filter sends })
      x.hif.pairs } })
  let s := s.resetBridge
  { s with hif := {
      pairs := tmap {} (fun r => { r with entries := [], errCode := 0, dbIgn := 0 }) s.hif.pairs
      evtLost := s.hif.evtLost, cplLost := s.hif.cplLost, stallCnt := s.hif.stallCnt } }

/-- The time bases at a logic-side reset: they count on while the logic PLL stays locked, and their locks, the stamp queue and the
pulse outputs are lost (R46). -/
def TimeState.logicReset (t : TimeState) : TimeState :=
  { tb0 := t.tb0, tb1 := t.tb1, tb2 := t.tb2, tb3 := t.tb3, shadow := t.shadow, tb2Epoch := t.tb2Epoch, tb2Wraps := t.tb2Wraps
    guardNs := t.guardNs, tsqOvf := t.tsqOvf }

/-- Tasks at a logic-side reset: the retention region keeps them as they stand; exchanges under way are abandoned (R31, R255). -/
def BlkState.logicReset (b : BlkState) : BlkState :=
  { tasks := tmap {} (fun r => { r with exch := none, restartReq := none, lastOvrEvt := none, lastRtfEvt := none }) b.tasks
    uevtDrop := b.uevtDrop }

/-- Converters at a logic-side reset: the field side keeps what has taken effect; table loads that wait are lost, calibration loads
stand in MRAM and apply (R291). -/
def CnvState.logicReset (c : CnvState) : CnvState :=
  { c with
    chan := c.chanEff, lists := c.listsEff, dac := c.dacEff, coefEff := c.coef, dacCoefEff := c.dacCoef, skewEff := c.skew
    cal1 := c.cal0, patternLoads := [], calLoads := [], newest := [], readBack := [], dropLog := [], lastDropEvt := none, cutAt := none
    cal := none, calMean := 0, calSpread := 0 }

/-- Field input and output at a logic-side reset: the field side keeps its tables and outputs; what was crossing the barrier and
every claim but those of its tables are lost. -/
def FioState.logicReset (f : FioState) : FioState :=
  { f with
    hsTab := f.hsEff, diTab := f.diEff, encTab := f.encEff, pulTab := f.pulEff, profTab := f.fld.prof, holdTab := f.holdEff
    down := f.down.filter DownItem.counts, up := []
    enc := tmap {} (fun r => { r with latches := [], own := 0, queue := [] }) f.enc
    claims := f.claims.filter (fun c => decide (c.rank = rankGeneral) && decide (c.num ≥ 0x50000))
    diImage := 0, clampSeen := 0, clampAt := [] }

/-- The link at a logic-side reset: only the counters since cold start stay. -/
def WagState.logicReset (g : WagState) : WagState :=
  { trunks := tmap {} (fun r => { codeErr := r.codeErr, stomp := r.stomp }) g.trunks
    clashCnt := g.clashCnt, crcErr := g.crcErr, kindErr := g.kindErr, arbLost := g.arbLost, cutCnt := g.cutCnt
    resyncCnt := g.resyncCnt, collCnt := g.collCnt, foreignCnt := g.foreignCnt, seqGap := g.seqGap
    abandonCnt := g.abandonCnt, changeCnt := g.changeCnt }

/-- The twin at a logic-side reset: what the field side holds and the counters stay (R444). -/
def TwnState.logicReset (t : TwnState) : TwnState :=
  { fieldActUntil := t.fieldActUntil, fieldMember := t.fieldMember, takeoverCnt := t.takeoverCnt, hashMisCnt := t.hashMisCnt
    linkLossCnt := t.linkLossCnt, snapFaultCnt := t.snapFaultCnt }

/-- The update path at a logic-side reset: staged bytes are lost, an INSTALL under way has failed, an activation that was not
committed is given up (R563, R569, R572, R575). -/
def LcyState.logicReset (l : LcyState) : LcyState :=
  { l with
    staging := [], staged := 0, lastSeq := none, lastResp := none, nonceLive := false, job := none, activating := false
    logicKeys := [], lastCode := 0, progress := 0
    phase := match l.phase with | .staging => .idle | .installing => .failed | .activating => .installed | p => p }

/-- Power and reset status at a logic-side reset (R613, R615). -/
def PowerState.logicReset (p : PowerState) : PowerState :=
  { p with
    p3 := false, lock := 0, lockWrSeen := false, cfgDone := false, retValid := false, retInval := false, stuck := false
    stuckSeen := false, holdupLowSeen := false, pwrfail := false, frefFbSeen := false, restart := none, starting := none, rstSeen := true
    fieldPresent := false }

/-- The logic side goes into reset: everything it holds outside the retention region and the counters is lost, every register
takes its reset value, every lock clears (R31, R523, R613, R615). The field side is not touched. -/
def State.logicReset (s : State) : State :=
  let s := s.resetRings.closeDebug
  let c := s.cmb
  { s with
    regs := []
    seen := {}
    time := s.time.logicReset
    pw := s.pw.logicReset
    stp := { lateCnt := s.stp.lateCnt, unconfCnt := s.stp.unconfCnt }
    cmb := {
      hofailCnt := c.hofailCnt, ovrCnt := c.ovrCnt, satCnt := c.satCnt, rideExpCnt := c.rideExpCnt
      rbFaultCnt := c.rbFaultCnt, supDropCnt := c.supDropCnt }
    blk := s.blk.logicReset
    cnv := s.cnv.logicReset
    fio := s.fio.logicReset
    mir := { lost := s.mir.lost, eccCnt := s.mir.eccCnt }
    wag := s.wag.logicReset
    twn := s.twn.logicReset
    lcy := s.lcy.logicReset }

/-- The counters that run since cold start are zero. -/
def State.coldCounters (s : State) : State :=
  { s with
    pw := { s.pw with ueCnt := 0, ceCnt := 0, rstCnt := 0, clkFbCnt := 0 }
    time := { s.time with tsqOvf := 0 }
    hif := { s.hif with evtLost := 0, cplLost := 0, stallCnt := 0 }
    stp := { s.stp with lateCnt := 0, unconfCnt := 0 }
    cmb := { s.cmb with hofailCnt := 0, ovrCnt := 0, satCnt := 0, rideExpCnt := 0, rbFaultCnt := 0, supDropCnt := 0 }
    blk := { s.blk with uevtDrop := 0, tasks := tmap {} (fun r => { r with rtfCnt := 0, ovrCnt := 0 }) s.blk.tasks }
    cnv := { s.cnv with abortCnt := 0, handoverCnt := 0, dropCnt := 0, dacLate := 0, chkFail := [] }
    fio := { s.fio with tripCnt := 0, capLost := 0 }
    mir := { s.mir with lost := 0, eccCnt := 0 }
    wag := {
      s.wag with
      trunks := tmap {} (fun r => { r with codeErr := 0, stomp := 0 }) s.wag.trunks
      clashCnt := 0, crcErr := 0, kindErr := 0, arbLost := 0, cutCnt := 0, resyncCnt := 0, collCnt := 0, foreignCnt := 0
      seqGap := 0, abandonCnt := 0, changeCnt := 0 }
    twn := { s.twn with takeoverCnt := 0, hashMisCnt := 0, linkLossCnt := 0, snapFaultCnt := 0 }
    leg := { s.leg with
      can := tmap {} (fun r => { r with rxLost := 0, hpOvwr := 0, busoffCnt := 0, staleCnt := 0 }) s.leg.can
      uart := tmap {} (fun r => { r with rxLost := 0, errCnt := 0 }) s.leg.uart, pbTimeouts := 0 } }

/-- The logic side is reset and held: it leaves reset when its clocks have been stable again (R28, R599). -/
def State.holdLogic (s : State) (cold : Bool) (cause : Nat) : State :=
  let s := s.logicReset
  { s with pw := { s.pw with
      logic := .held, restart := some { cold := cold, cause := cause }, retention := s.pw.retention && !cold } }

/-- The logic side loses its supply: the retention region with it, so the next start is cold (R31, R593). -/
def State.logicOff (s : State) (cause : Nat) : State :=
  let s := if s.pw.variantL then s.commitLedger else s
  let s := s.logicReset
  { s with
    pw := { s.pw with
      logic := .off, restart := some { cold := true, cause := cause }, retention := false, lpllLock := false, mpllLock := false
      eject := false, ejectGone := false }
    bog := [] }

/-! ### The life-cycle copies (R555, R556, R597) -/

/-- The better of two copies: good CRC, then the higher count. -/
def LcCopy.better (a b : LcCopy) : LcCopy := if a.good && (!b.good || decide (a.count ≥ b.count)) then a else b

/-- Life-cycle state and transition count come from the copy with good CRC and the highest count, and the others are rewritten from
it; the END fuse overrides them (R555, R556). -/
def LcyState.reconcile (l : LcyState) : LcyState :=
  let c := (l.peat.better l.mram).better l.nor
  let c := if c.good then c else { c with st := l.st, count := l.count, good := true }
  { l with st := if l.endFuse then .end_ else c.st, count := c.count, peat := c, mram := c, nor := c }

/-- A power-up of the side that carries the PEAT domain (R555, R588, R597): after PEAT loss its copy is lost, the tamper latch sets,
ledger counter 10 counts and PEAT_LOSS sets. -/
def State.peatPowerUp (s : State) : State :=
  let lost := s.pw.peatLost
  let l := if lost then { s.lcy with peat := { s.lcy.peat with good := false } } else s.lcy
  let s : State := { s with lcy := l.reconcile }
  let s := s.ledgerPowerUp lost
  if lost then
    let s := { s with pw := { s.pw with peatLost := false, tamper := true, peatLossSeen := true } }
    (s.countLedger 10).powerIrq
  else s

/-! ### The field side -/

/-- Field input and output as a field power-up finds it: every output off, at high impedance or idle and not yet written, tables to
be sent again (R490, R496, R593). -/
def FioState.fieldReset (f : FioState) : FioState :=
  { f with
    hsEff := [], diEff := [], encEff := [], pulEff := [], fld := {}, down := f.down.filter DownItem.counts, up := [], due := [], hs := []
    hold := [], di := [], enc := tmap {} (fun r => { latches := r.latches, own := r.own, queue := r.queue }) f.enc, pul := [], dac := [], encFault := 0, ejected := false, ejectCycle := false, diImage := 0
    clampSeen := 0, clampAt := [] }

/-- The calibration copy that a field power-up uses: the valid one of the higher generation (R291). -/
def CnvState.bestCal (c : CnvState) : CalCopy :=
  if c.cal0.good && (!c.cal1.good || decide (c.cal0.gen ≥ c.cal1.gen)) then c.cal0 else c.cal1

/-- The converters as a field power-up finds them: C0 to C3 serve their groups, all calibrate themselves, the coefficients of the
better copy apply (R262, R289, R291). -/
def CnvState.fieldReset (c : CnvState) : CnvState :=
  { c with
    coefEff := c.bestCal.coef, dacCoefEff := c.bestCal.dacCoef, skewEff := c.bestCal.skew
    roles := [0, 1, 2, 3, 4], bootCal := [true, true, true, true, true], handover := none, failover := none, lastGroup := 3
    chanEff := [], listsEff := [], chanFld := [], listsFld := [], scanFld := 0, dacEff := [], selfCal := [], made := [], acc := [], urgent := [], slip := [], checks := [], shadowCode := none
    cutAt := none, listsRun := false, list4Held := false, calHold := false }

/-- The tables that only the field side still held are lost with it (R15): those of a logic side that does not run. -/
def State.loseTables (s : State) : State :=
  if s.pw.logic = .run then s
  else { s with
    fio := { s.fio with hsTab := [], diTab := [], encTab := [], pulTab := [], profTab := [], claims := [] }
    cnv := { s.cnv with chan := [], lists := [], dac := [] } }

/-- The field side goes down: drivers off, DACs at high impedance, pulse outputs idle, the ledger buffer committed (R593). -/
def State.fieldDown (s : State) : State :=
  let s := s.commitLedger.closeDebug.loseTables
  { s with
    lcy := { s.lcy with fieldKey := none }
    pw := { s.pw with fieldUp := false, p3 := false, fpllLock := false, frefFb := false, frefReturn := false, logicAbsent := true }
    fio := s.fio.fieldReset
    cnv := s.cnv.fieldReset
    saf := s.saf.powerDown
    drn := {}
    twn := { s.twn with fieldActUntil := none }
    time := { s.time with shadow := {}, guardNs := 0 } }

/-- The field side starts into phase P0: every group demanded, the Drone on the hold program of the active half, the rules not yet
verified; FIELD_REF is used until FIELD_REF_LOST finds it missing (R25, R490, R496, R511, R519). -/
def State.fieldStart (s : State) : State :=
  let s := s.closeDebug
  { s with
    lcy := s.lcy.fieldKeys
    pw := { s.pw with
      fieldUp := true, p0 := true, p3 := false, logicAbsent := true, missedMarks := 20, fpllLock := true, frefFb := false, frefReturn := false }
    fio := s.fio.fieldReset
    cnv := s.cnv.fieldReset
    saf := { s.saf.powerDown with sealRead := s.saf.sealNow, sealPwrUp := s.saf.sealNow, rulesHold := s.saf.heldGroups s.saf.sealNow }
    drn := droneAtPower (tget [] s.lcy.active.images 5)
    twn := { s.twn with fieldActUntil := none }
    time := { s.time with shadow := {} } }

/-- A group demand of the life-cycle states in which both halves demand every group, as under a configuration fault (R558). -/
def State.lifeCycleGroups (s : State) : State :=
  if !s.pw.fieldUp then s
  else if s.lcy.st = .return_ || s.lcy.st = .end_ then
    (s.putGroups (fun _ r => ({ r.guard with cfgCause := true }, { r.fg with cfgCause := true }))).regate
  else
    let c := s.saf.cfgFault
    (s.putGroups (fun _ r => ({ r.guard with cfgCause := c }, { r.fg with cfgCause := c }))).regate

end Sys2Proof.Machine
end

