-- ==== Sys2Proof/Machine/LifeCycle.lean ====
section
/-! DEFINITION. Life cycle, keys and in-service update (R553 to R578) and what the service port asks for: tokens, packages,
activation, status, ledger reads, EXPECT. -/

namespace Sys2Proof.Machine

/-! ### Status (R573, R577) -/

/-- Refusal conditions that hold now, by their bits (R573). -/
def State.updCond (s : State) : Nat :=
  let axes := s.fio.pul.any (fun x => x.2.moving || decide (x.2.rate ≠ 0))
  let recipe := !s.stp.steps.isEmpty || decide (s.partCount > 0)
  axes.toNat + 2 * recipe.toNat + 4 * s.pw.holdupLow.toNat + 8 * (s.rbit 0xF100 4).toNat

/-- The conditions that refuse an activation: those whose REFUSE bit is set (R573). -/
def State.updRefused (s : State) : Nat := s.updCond &&& s.rfld 0xF100 3 0

/-- Code of PHASE (R577). -/
def UpdPhase.code : UpdPhase → Nat
  | .idle => 0 | .staging => 1 | .installing => 2 | .installed => 3 | .activating => 4 | .trial => 5 | .failed => 6

/-- The logic-side slot that is not in force. -/
def LcyState.inactive (l : LcyState) : Activation := tget {} l.slots (!l.slotB).toNat

/-- The Guard or field firmware of two activations differs, so that the field side has to restart (R574). -/
def fieldDiffers (a b : Activation) : Bool :=
  decide (tget [] a.images 4 ≠ tget [] b.images 4) || decide (tget [] a.images 6 ≠ tget [] b.images 6)

/-- UPD_STAT. -/
def State.updStat (s : State) : Word :=
  BitVec.ofNat 32 (s.lcy.phase.code + 8 * s.lcy.slotB.toNat + 16 * s.lcy.fallbackOk.toNat + s.updCond * 2 ^ 8 +
    s.lcy.lastCode.toNat * 2 ^ 24)

/-- The bytes that INSTALL writes. -/
def InstallJob.total (j : InstallJob) : Nat := (j.act.images.map (fun (x : Nat × List Byte) => x.2.length)).foldl (· + ·) 0

/-- INSTALL progress: while targets are being written, as much of them as the writing has reached, which is a free value (R577). -/
def State.progressNow (s : State) : Nat :=
  match s.lcy.job with
  | some j => Config.installProgress s.freeIdx % (j.total + 1)
  | none => s.lcy.progress

/-- The 64-byte status record (R577). -/
def State.statusRecord (s : State) : List Byte :=
  let l := s.lcy
  let rst := l.installed && fieldDiffers l.active l.inactive
  [BitVec.ofNat 8 l.st.code, BitVec.ofNat 8 l.phase.code, l.lastCode,
    BitVec.ofNat 8 (l.fallbackOk.toNat + 2 * rst.toNat + 16 * s.updCond)] ++
    leBytes 4 l.staged ++ leBytes 4 s.progressNow ++ leBytes 4 l.active.pkgId.toNat ++
    leBytes 4 (if l.installed then l.inactive.pkgId.toNat else 0) ++ leBytes 4 l.active.svn ++ leBytes 4 l.svnMin ++
    leBytes 4 l.actCnt ++ List.replicate 32 0

/-! ### The service port (R563) -/

/-- The state with the life-cycle part changed. -/
def State.setLcy (s : State) (l : LcyState) : State := { s with lcy := l }

/-- The logic side serves the service port: it runs, or stays in its boot stage (R519, R575). -/
def State.serves (s : State) : Bool := decide (s.pw.logic = .run) || decide (s.pw.logic = .failed)

/-- A request is executed: the first since a start or a bus reset, the next in sequence, or one with SEQ 0 (R563). -/
def LcyState.takesSeq (l : LcyState) (seq : Word) : Bool :=
  match l.lastSeq with
  | none => true
  | some n => decide (seq = n + 1) || decide (seq = 0)

/-- A response as it leaves: the header with MAGIC, OP, result code, SEQ, LEN and the CRC of the payload, then the payload (R563). -/
def Response.bytes (r : Response) : List Byte :=
  leBytes 2 0x5853 ++ [r.op, r.code] ++ leBytes 4 r.seq.toNat ++ leBytes 4 r.payload.length ++ leBytes 4 (crc32c r.payload) ++ r.payload

/-- A request of the service port: executed and answered, or answered with the last response again (R563). -/
def State.service (s : State) (op : Byte) (seq : Word) (f : State → State × Byte × List Byte) : State :=
  if !s.serves then s
  else if s.lcy.takesSeq seq then
    let x := f s
    let r : Response := { op := op ||| 0x80, code := x.2.1, seq := seq, payload := x.2.2 }
    (x.1.setLcy { x.1.lcy with lastSeq := some seq, lastResp := some r }).emitOut (.usb r.bytes)
  else match s.lcy.lastResp with
    | some r => s.emitOut (.usb r.bytes)
    | none => s

/-- An update request ends with a code, which is the last result code. -/
def State.updEnds (s : State) (code : Byte) : State × Byte × List Byte := (s.setLcy { s.lcy with lastCode := code }, code, [])

/-- HELLO: the certificate, the state, MIN_SIG, a new nonce and UPD_STAT (R561, R563). -/
def execHello (seq : Word) (s : State) : Host.Outcome State Fault Refusal :=
  .next (s.service 0x01 seq (fun s =>
    let n := Config.nonce s.freeIdx
    let s := State.tookFree (s.setLcy { s.lcy with nonce := n, nonceLive := true, helloCnt := s.lcy.helloCnt + 1 })
    (s, 0, Config.certificate s.pw.serial s.pw.variantL s.lcy.device ++ leBytes 1 s.lcy.st.code ++ leBytes 1 s.lcy.minSig.toNat ++
      leBytes 16 n.toNat ++ leBytes 4 s.updStat.toNat)))

/-- STAGE: package bytes go into the staging area of 256 MiB (R569, 0xA8). -/
def execStage (seq : Word) (offset : Nat) (bytes : List Byte) (s : State) : Host.Outcome State Fault Refusal :=
  .next (s.service 0x02 seq (fun s =>
    if offset + bytes.length > 2 ^ 28 then s.updEnds 0xA8
    else
      let l := s.lcy
      State.updEnds (s.setLcy { l with
        staging := tputs 0 l.staging offset bytes, staged := max l.staged (offset + bytes.length)
        phase := match l.phase with | .idle => .staging | .failed => .staging | p => p }) 0))

/-- DISCARD: the staged package is dropped (R569). -/
def execDiscard (seq : Word) (s : State) : Host.Outcome State Fault Refusal :=
  .next (s.service 0x07 seq (fun s =>
    State.updEnds (s.setLcy { s.lcy with
      staging := [], staged := 0
      phase := match s.lcy.phase with | .staging => .idle | p => p }) 0))

/-- STATUS: the status record (R577). -/
def execServiceStatus (seq : Word) (s : State) : Host.Outcome State Fault Refusal :=
  .next (s.service 0x05 seq (fun s => (s.tookFree, 0, s.statusRecord)))

/-- LEDGER: the live record or snapshots, signed with the latest nonce (R590). -/
def execLedger (seq : Word) (what : BitVec 8) (first : Word) (count : Nat) (s : State) : Host.Outcome State Fault Refusal :=
  .next (s.service 0x08 seq (fun s =>
    if what.toNat > 1 || count = 0 || count > 60 then (s, 0xA0, [])
    else
      let recs := if what = 0 then s.liveRecord else s.snapshotsFrom first.toNat count
      (s.tookFree, 0, recs ++ Config.mldsaSign (recs ++ leBytes 16 s.lcy.nonce.toNat) s.freeIdx)))

/-- EXPECT: the management view of stations (R434, R563). -/
def execExpect (seq : Word) (entries : List ExpectEntry) (s : State) : Host.Outcome State Fault Refusal :=
  .next (s.service 0x09 seq (fun s =>
    if s.lcy.st = .return_ || s.lcy.st = .end_ then (s, 0xA7, [])
    else if entries.any (fun e => decide (e.view = 3)) then (s, 0xA0, [])
    else
      (s.setWag { s.wag with
        stnTab := entries.foldl (fun t e => tmod 0 t e.station.val (fun w => putFld w 9 8 e.view.val)) s.wag.stnTab }, 0, [])))

/-- USB_BUS_RESET: the next request is executed whatever its SEQ (R563). -/
def execUsbBusReset (s : State) : Host.Outcome State Fault Refusal :=
  .next (s.setLcy { s.lcy with lastSeq := none, lastResp := none })

/-! ### Packages (R565 to R568) -/

/-- Header, sections and manifest are well formed (R565, R566). -/
def State.pkgOk (s : State) (b : List Byte) : Bool :=
  let m := pkgBytes b 1
  let ps := manParts m
  let body := (pkgSection b 3).2
  decide (b.length ≥ 64) && decide (leAt b 0 4 = 0x4B505841) && decide (leAt b 4 2 = 1) && decide (leAt b 48 16 = 0) &&
    (List.range 4).all (fun i => decide ((pkgSection b i).1 ≥ 64) && decide ((pkgSection b i).1 + (pkgSection b i).2 ≤ b.length)) &&
    decide ((pkgSection b 0).2 = 1168) && decide (leAt (pkgBytes b 0) 1148 20 = 0) && decide (m.length = 64 + 128 * ps.length) && decide (ps.length ≥ 1) &&
    decide (ps.length ≤ 8) && decide (leAt m 0 4 = 0x4E4D5841) && decide (leAt m 4 4 ≠ 0) && decide (leAt m 8 4 ≠ 0) &&
    decide (leAt m 12 4 ≤ leAt m 8 4) && decide (leAt m 19 45 = 0) &&
    (match sigBlocks 2 (pkgBytes b 2) with | some (_ :: _) => true | _ => false) &&
    decide ((ps.map (·.type)).eraseDups.length = ps.length) &&
    ps.all (fun p => decide (1 ≤ p.type) && decide (p.type ≤ 8) && decide (p.flags ≤ 1) && decide (p.spare = 0) &&
      decide (p.off + p.len ≤ body) && (p.diff || decide (p.srcHash = 0)) && (!s.pw.variantL || decide (p.type < 4)))

/-- A difference stream applied to an empty target: the image it makes, none where it is invalid (R568). -/
def applyDiff (src : List Byte) : Nat → List Byte → List Byte → Option (List Byte)
  | 0, _, _ => none
  | n + 1, stream, out =>
    match stream with
    | [] => none
    | c :: r =>
      if c = 0 then some out
      else if c = 1 then
        let off := leAt r 0 5
        let len := leAt r 5 3
        if r.length < 8 || len = 0 || off + len > src.length then none
        else applyDiff src n (r.drop 8) (out ++ slice src off len)
      else if c = 2 then
        let len := leAt r 0 3
        if r.length < 3 + len || len = 0 then none else applyDiff src n (r.drop (3 + len)) (out ++ slice r 3 len)
      else none

/-- The image of a part, decrypted and with its difference applied to the active image of its type, or the check that it fails
(R568, R569). -/
def partImage (active : Activation) (key body : List Byte) (p : PkgPart) : Judged (List Byte) :=
  match Config.openPart key p.iv p.tag (slice body p.off p.len) with
  | none => .refused 0xA3 (BitVec.ofNat 64 p.type)
  | some plain =>
    if !p.diff then .ok plain
    else
      let src := tget [] active.images p.type
      if Config.sha3 src ≠ p.srcHash then .refused 0xA4 (BitVec.ofNat 64 p.type)
      else match applyDiff src (plain.length + 1) plain [] with
        | some out => if out.length = p.tgtLen then .ok out else .refused 0xA0 0
        | none => .refused 0xA0 0

/-- The images of all parts by type; a tag failure of any part comes before a source failure of any (R569). -/
def partImages (active : Activation) (key body : List Byte) (ps : List PkgPart) : Judged (List (Nat × List Byte)) :=
  let rs := ps.map (fun p => (p.type, partImage active key body p))
  let bad (c : Byte) : Option (Judged (List (Nat × List Byte))) := rs.findSome? (fun (x : Nat × Judged (List Byte)) =>
    match x.2 with
    | .refused d w => if d = c then some (.refused d w) else none
    | .ok _ => none)
  match bad 0xA3, bad 0xA4, bad 0xA0 with
  | some r, _, _ => r
  | none, some r, _ => r
  | none, none, some r => r
  | none, none, none => .ok (rs.filterMap (fun (x : Nat × Judged (List Byte)) => match x.2 with | .ok b => some (x.1, b) | .refused _ _ => none))

/-- The bytes staged, from offset 0. -/
def LcyState.package (l : LcyState) : List Byte := (List.range l.staged).map (tget 0 l.staging)

/-- The checks of INSTALL in their order: the job, or the first failure (R569). -/
def State.judgePackage (s : State) : Judged InstallJob :=
  let l := s.lcy
  let b := l.package
  let m := pkgBytes b 1
  let ps := manParts m
  if !s.pkgOk b then .refused 0xA0 0
  else if !tbit (BitVec.ofNat 8 (leAt m 17 1)) s.pw.variantL.toNat || leAt m 18 1 > 2 then .refused 0xA0 17
  else match Config.openEnvelope (pkgBytes b 0) with
    | none => .refused 0xA2 0
    | some key =>
      if !l.signedOk m (pkgBytes b 2) then .refused 0xA1 0
      else if leAt m 8 4 < l.svnMin then .refused 0xA5 (BitVec.ofNat 64 l.svnMin)
      else match partImages l.active key (pkgBytes b 3) ps with
        | .refused c w => .refused c w
        | .ok imgs =>
          .ok {
            manifest := m, sigs := pkgBytes b 2
            hashes := ps.map (fun p => (p.type, p.tgtHash))
            act := {
              valid := true, pkgId := BitVec.ofNat 32 (leAt m 4 4), svn := leAt m 8 4, svnFloor := leAt m 12 4
              images := imgs.foldl (fun (t : Sparse (List Byte)) (x : Nat × List Byte) => tput [] x.2 t x.1) l.active.images
              versions := ps.foldl (fun t p => tput 0 p.version t p.type) l.active.versions
              calPending := ps.any (fun p => decide (p.type = 7)), rules := ps.any (fun p => decide (p.type = 8)) } }

/-- The inactive slot and half hold an activation. -/
def LcyState.putInactive (l : LcyState) (a : Activation) : LcyState :=
  { l with slots := tput {} a l.slots (!l.slotB).toNat }

/-- The images of an INSTALL that cross the barrier for the field die (R571). -/
def InstallJob.fieldParts (j : InstallJob) : List Nat := (j.hashes.map (·.1)).filter (fun t => decide (4 ≤ t))

/-- The images for the field die are sent, in place of those of an INSTALL before (R571, R572). -/
def State.sendImages (s : State) (j : InstallJob) : State :=
  let s := { s with fio := { s.fio with down := s.fio.down.filter (fun x => !x.isUpdate) } }
  j.fieldParts.foldl (fun s t => s.sendDown (.update t (tget [] j.act.images t))) s

/-- INSTALL: the staged package is checked; accepted, it starts to be written to the inactive slot and half, which hold no previous
activation any more (R569 to R572). DESIGN CHOICE (log 90), unsafe: the spec gives no outcome for logic images that exceed the
slot's 112 MiB (R40) or for Guard firmware, field firmware and hold program that exceed the half's 1 MiB (R41); images of any length
are accepted. -/
def execInstall (seq : Word) (s : State) : Host.Outcome State Fault Refusal :=
  .next (s.service 0x03 seq (fun s =>
    if s.lcy.st = .end_ then s.updEnds 0xA7
    else match s.judgePackage with
      | .refused c _ => s.updEnds c
      | .ok j =>
        let l := s.lcy.putInactive {}
        State.updEnds ((s.setLcy { l with
          phase := .installing, job := some j, installed := false, activating := false, fallbackOk := false, progress := 0 }).sendImages j) 0))

/-- INSTALL_DONE: every target is written: the field die has checked the signatures and its images, every target has its hash, and the
package is installed, or the INSTALL has failed (R570 to R572). While an image for the field die is still on its way nothing is
done. The slot is encrypted under the logic storage key of its number, the half under the field storage key (R570). -/
def execInstallDone (s : State) : Host.Outcome State Fault Refusal :=
  match s.lcy.job with
  | none => .next s
  | some j =>
    let l : LcyState := { s.lcy with job := none, progress := j.total }
    let fail (c : Byte) : State := s.setLcy { l with phase := .failed, lastCode := c }
    if let some c := j.fieldBad then .next (fail c)
    else if !j.fieldParts.all (fun t => j.fieldOk.contains t) then .next s
    else if j.hashes.any (fun h => decide (Config.sha3 (tget [] j.act.images h.1) ≠ h.2)) then .next (fail 0xA3)
    else .next (s.setLcy { l.putInactive { j.act with
        slotKey := l.logicKeys[(!l.slotB).toNat]?, halfKey := l.fieldKey } with
      phase := .installed, installed := true, lastCode := 0 })

/-! ### Activation (R573 to R576) -/

/-- ACTIVATE: an installed package, no refusal condition; a holder first hands over (R573, R574). -/
def execActivate (seq : Word) (fieldRst : Bool) (s : State) : Host.Outcome State Fault Refusal :=
  .next (s.service 0x04 seq (fun s =>
    if s.lcy.st = .end_ then s.updEnds 0xA7
    else if !s.lcy.installed then s.updEnds 0xA8
    else if s.updRefused ≠ 0 then s.updEnds 0xA6
    else
      let s := s.setLcy { s.lcy with activating := true, fieldRst := fieldRst, phase := .activating, lastCode := 0 }
      if s.twn.st = .holder then
        let s := s.offerHandover .activation
        ((if s.twn.offer.isSome then s else s.refuseActivation 0xAE), 0, [])
      else (s, 0, [])))

/-- The rule store part of an activation is applied, where the package holds one (R492); a field side that is down refuses it. -/
def State.activationRules (s : State) (a : Activation) : RuleEnd :=
  if !a.rules then .applied s
  else if !s.pw.fieldUp then .powerLost s
  else s.applyRules (tget [] a.images 8)

/-- The field side adopts its new half: a restart into P0 where the Guard or field firmware differs, else the new hold program at the
next Drone cycle start (R574). -/
def State.adoptHalf (s : State) (old new : Activation) : State :=
  if s.pw.variantL || !s.pw.fieldUp then s
  else if fieldDiffers old new then s.fieldDown.fieldStart
  else if tget [] old.images 5 = tget [] new.images 5 then s
  else { s with drn := { s.drn with nextImage := some (tget [] new.images 5) } }

/-- Calibration tables that an activation brings become the next generation, without limit checks (R291, R574). -/
def State.applyCalPart (s : State) (a : Activation) : State :=
  if !a.calPending then s
  else match Config.calPart (tget [] a.images 7) with
    | none => s
    | some (coef, dac, skew) =>
      let c := s.cnv
      let put {α : Type} [DecidableEq α] (d : Nat → α) (t : Sparse α) (l : List (Nat × α)) : Sparse α :=
        l.foldl (fun t x => tput (d x.1) x.2 t x.1) t
      let coefT := put (fun _ => coefReset) c.coefEff coef
      let dacT := put (fun _ => coefReset) c.dacCoefEff dac
      let skewT := put (fun _ => 0) c.skewEff skew
      let c := CnvState.putCal { c with
        coef := coefT, coefEff := coefT, dacCoef := dacT, dacCoefEff := dacT, skew := skewT, skewEff := skewT }
      { s with cnv := { c with cal1 := c.cal0 } }

/-- The commit of an activation and what follows it: the record names the new slot and half, the field side adopts them, the
logic side restarts with cause 6 (R572, R574). -/
def State.commitActivation (s : State) : State :=
  let old := s.lcy.active
  let new := s.lcy.inactive
  let l := s.lcy
  let s := s.setLcy { l with
    slotB := !l.slotB, actCnt := satInc 0xFFFF l.actCnt, fallbackOk := true, trial := true, installed := false
    activating := false, phase := .trial, lastCode := 0 }
  let s := ((s.countLogic 11).noteCause 2).adoptHalf old new
  (s.applyCalPart new).holdLogic false 6

/-- ACTIVATION_COMMIT: the handover is over: the field restart check, the hold program's check, the rule store, the retest, the
commit (R518, R573, R574). -/
def execActivationCommit (s : State) : Host.Outcome State Fault Refusal :=
  if !s.lcy.activating || !s.lcy.installed || s.twn.st = .holder then .next s
  else
    let old := s.lcy.active
    let new := s.lcy.inactive
    let hold := tget [] new.images 5
    if fieldDiffers old new && !s.lcy.fieldRst && !s.twn.fieldMember && !s.pw.variantL then .next (s.refuseActivation 0xAF)
    else if !s.pw.variantL && hold ≠ tget [] old.images 5 && !holdImageOk hold then .next (s.refuseActivation 0xA9)
    else match s.activationRules new with
      | .refused s v => .next ((s.fieldRaise 0x87 v).refuseActivation 0xA9)
      | .powerLost s => .next ((if s.pw.fieldUp then s.fieldDown else s).refuseActivation 0xA9)
      | .applied s => if s.updRefused ≠ 0 then .next (s.refuseActivation 0xA6) else .next s.commitActivation

/-! ### Tokens (R554 to R558, R562, R564) -/

/-- A life-cycle state by its code. -/
def lcOfCode : Nat → Option LcState
  | 0 => some .blank | 1 => some .maker | 2 => some .ownerOpen | 3 => some .ownerLocked | 4 => some .return_ | 5 => some .end_
  | _ => none

/-- Who signs a token. -/
inductive Signer where
  | root | maker | owner
  deriving DecidableEq, Repr

/-- The authority over a transition; none for one that is not listed (R554). -/
def transitionBy : LcState → LcState → Option Signer
  | .blank, .maker => some .root
  | .maker, .ownerOpen => some .maker
  | .ownerOpen, .ownerLocked => some .owner
  | .ownerLocked, .ownerOpen => some .owner
  | .ownerOpen, .return_ => some .owner
  | .ownerLocked, .return_ => some .owner
  | .return_, .maker => some .maker
  | .blank, .end_ => some .maker
  | .maker, .end_ => some .maker
  | .return_, .end_ => some .maker
  | .ownerOpen, .end_ => some .owner
  | .ownerLocked, .end_ => some .owner
  | _, _ => none

/-- The authority over a debug port in a state; none where no token opens it: it is closed, or open already in BLANK (R558). -/
def debugBy (field : Bool) : LcState → Option Signer
  | .maker => some .maker
  | .return_ => some .maker
  | .ownerOpen => if field then none else some .owner
  | _ => none

/-- What a token asks for. -/
inductive TokenOp where
  | transition (to_ : LcState)
  | debug (field : Bool)
  | addKey
  | removeKey
  deriving DecidableEq, Repr

/-- The operation of a token body; none for an OP or a state that is not there (R564). -/
def tokenOp (b : List Byte) : Option TokenOp :=
  match leAt b 4 1 with
  | 1 => (lcOfCode (leAt b 6 1)).map .transition
  | 2 => some (.debug false)
  | 3 => some (.debug true)
  | 4 => some .addKey
  | 5 => some .removeKey
  | _ => none

/-- The authority that a token needs in a state; none where the state forbids it (R554, R558). -/
def tokenBy (st : LcState) : TokenOp → Option Signer
  | .transition t => transitionBy st t
  | .debug field => debugBy field st
  | _ => if st = .ownerOpen || st = .ownerLocked then some .owner else none

/-- The token supplies a public key after its body: an owner key to add, the first owner key, the root key at the factory (R554,
R559, R564). -/
def tokenHasKey (st : LcState) (op : TokenOp) : Bool :=
  decide (op = .addKey) || (decide (op = .transition .ownerOpen) && decide (st = .maker)) ||
    (decide (op = .transition .maker) && decide (st = .blank))

/-- Key and signature that follow a token's body, by the token's length. -/
def tokenParts (hasKey : Bool) (b : List Byte) : Option (List Byte × List Byte) :=
  let n := b.length - 64
  let sig := [2420, 3309]
  let keys := if hasKey then [1312, 1952] else [0]
  (keys.flatMap (fun k => sig.map (fun g => (k, g)))).findSome? (fun x =>
    if x.1 + x.2 = n && decide (b.length ≥ 64) then some (slice b 64 x.1, b.drop (64 + x.1)) else none)

/-- The keys of an authority: for the root, the supplied key where its hash is the one in OTP (R559). -/
def LcyState.keysOf (l : LcyState) (who : Signer) (given : List Byte) : List (List Byte) :=
  match who with
  | .maker => l.makerKeys
  | .owner => l.ownerKeys
  | .root => if leBytes 32 (Config.sha3 given).toNat = l.rootHash then [given] else []

/-- The signature of a token verifies under a key of the authority, and is strong enough (R562, R564). -/
def LcyState.tokenSigned (l : LcyState) (who : Signer) (body given sig : List Byte) : Bool :=
  (l.keysOf who given).any (fun k => decide (k.length = (if sig.length = 2420 then 1312 else 1952)) &&
    Config.mldsaVerify k body sig) && (!l.minSig || decide (sig.length = 3309))

/-- The SHA3-256 of a key is the token's KEYHASH. -/
def namedKey (body key : List Byte) : Bool := decide ((Config.sha3 key).toNat = leAt body 32 32)

/-- MIN_SIG after a token: its flags set it, raising it in any owner state and lowering it only in OWNER_OPEN; RETURN sets it to 0
(R562). -/
def minSigAfter (l : LcyState) (op : TokenOp) (flags : Nat) : Bool :=
  let owner := decide (l.st = .ownerOpen) || decide (l.st = .ownerLocked) ||
    (decide (l.st = .maker) && decide (op = .transition .ownerOpen))
  let v := Nat.testBit flags 0
  if op = .transition .return_ then false
  else if !(owner && Nat.testBit flags 1) then l.minSig
  else if v then true
  else if l.st = .ownerLocked then l.minSig else false

/-- Host rings that a life-cycle state leaves no service to return to DISABLED, and the link is left (R558). -/
def State.accessLost (s : State) : State :=
  let keeps (p : Nat) : Bool :=
    match s.lcy.st with
    | .blank => false | .end_ => false | .return_ => decide (pairClass s.regs p = 7) | _ => true
  let s := (List.range 64).foldl (fun s p => if keeps p then s else s.resetPair p) s
  if s.linkRuns || s.wag.link = .off then s else s.leaveLink .off

/-- A transition: the count, the three copies, the keys it makes or zeroises, 0xAD, and what the new state closes (R554 to R558). -/
def State.transition (s : State) (to_ : LcState) (key : List Byte) : State :=
  let l := s.lcy
  let n := (l.count + 1) % 2 ^ 32
  let copy : LcCopy := { good := true, st := to_, count := n }
  let l := { l with st := to_, count := n, peat := copy, mram := copy, nor := copy }
  let l := match to_ with
    | .maker => { l with device := true, ownerKeys := [] }
    | .ownerOpen => if l.ownerKeys.isEmpty then { l with ownerKeys := [key] } else l
    | .return_ => { l with ownerKeys := [] }
    | .end_ => { l with
        endFuse := true, makerKeys := [], ownerKeys := [], device := false, logicKeys := [], fieldKey := none }
    | _ => l
  let s := if s.lcy.st = .blank then (s.emitOut (.debug false false)).emitOut (.debug true false) else s
  let s := s.setLcy l
  let s := if to_ = .return_ then { s with pw := { s.pw with persist := [] } } else s
  let s := s.closeDebug
  let s := (s.noteCause 3).raise 0xAD (BitVec.ofNat 64 (to_.code + n * 2 ^ 32))
  s.accessLost.lifeCycleGroups

/-- An accepted token acts; none where what it asks of the owner keys is refused (R564). -/
def State.tokenActs (s : State) (op : TokenOp) (body key : List Byte) : Option State :=
  let l := s.lcy
  match op with
  | .transition t =>
    if tokenHasKey l.st op && !namedKey body key && decide (t = .ownerOpen) then none else some (s.transition t key)
  | .debug field =>
    some ((s.setLcy (if field then { l with fdbg := true } else { l with ldbg := true })).emitOut (.debug field true))
  | .addKey =>
    if namedKey body key && decide (l.ownerKeys.length < 4) then some (s.setLcy { l with ownerKeys := l.ownerKeys ++ [key] })
    else none
  | .removeKey =>
    let rest := l.ownerKeys.filter (fun k => !namedKey body k)
    if rest.isEmpty || rest.length = l.ownerKeys.length then none else some (s.setLcy { l with ownerKeys := rest })

/-- A token judged and carried out: the code it is answered with (R554, R564). -/
def State.takeToken (s : State) (b : List Byte) : State × Byte :=
  let l := s.lcy
  let body := slice b 0 64
  match tokenOp body with
  | none => (s, 0xAC)
  | some op =>
    if b.length < 64 || leAt body 0 4 ≠ 0x4E4B5458 || leAt body 5 1 ≠ l.st.code ||
        leAt body 8 8 ≠ fld s.pw.serial 63 0 || !l.nonceLive || leAt body 16 16 ≠ l.nonce.toNat then (s, 0xAC)
    else match tokenBy l.st op, tokenParts (tokenHasKey l.st op) b with
      | none, _ => (s, 0xA7)
      | _, none => (s, 0xAC)
      | some who, some (key, sig) =>
        if !l.tokenSigned who body key sig then (s, 0xAC)
        else
          let weak := minSigAfter l op (leAt body 7 1)
          match s.tokenActs op body key with
          | none => (s, 0xAC)
          | some t => (t.setLcy { t.lcy with minSig := weak, nonceLive := false }, 0)

/-- TOKEN: a signed token performs its transition, opens a debug port or changes the owner keys (R564). -/
def execToken (seq : Word) (bytes : List Byte) (s : State) : Host.Outcome State Fault Refusal :=
  .next (s.service 0x06 seq (fun s =>
    let x := s.takeToken bytes
    (x.1, x.2, [])))

end Sys2Proof.Machine
end

