-- ==== Sys2Proof/Machine/Host.lean ====
section
/-! DEFINITION. The host interface (R78 to R118): the endpoint's events, rings and doorbells, fetched descriptors and their
checks, reads of host memory, table READs, event masks, status requests, moderation. -/

namespace Sys2Proof.Machine

/-- The state with the host interface changed. -/
def State.setHif (s : State) (h : HifState) : State := { s with hif := h }

/-! ### The endpoint (R78, R80, R83) -/

/-- Event 0x0D with the present link state (R108). -/
def State.linkEvent (s : State) (reset : Bool) : State :=
  s.raise 0x0D (BitVec.ofNat 64 (s.hif.linkSpeed + s.hif.linkUp.toNat * 2 ^ 8 + reset.toNat * 2 ^ 9))

/-- PCIE_LINK_UP: the link has trained at ×4, or has changed speed (R78, R108). -/
def execPcieLinkUp (speed : Fin 5) (s : State) : Host.Outcome State Fault Refusal :=
  if speed = 0 || s.pw.logic = .off || s.pw.logic = .held || (s.hif.linkUp && decide (s.hif.linkSpeed = speed.val)) then .next s
  else .next ((s.setHif { s.hif with linkUp := true, linkSpeed := speed.val }).linkEvent false)

/-- PCIE_LINK_DOWN (R83, R108). -/
def execPcieLinkDown (s : State) : Host.Outcome State Fault Refusal :=
  if !s.hif.linkUp then .next s
  else
    let s := s.resetHif
    .next ((s.setHif { s.hif with linkUp := false, linkSpeed := 0 }).linkEvent false)

/-- A hot reset or a function-level reset: the register reset, then FLR_SEEN (R83). -/
def State.functionReset (s : State) : State :=
  let s := s.resetHif.resetVectors
  (s.setHif { s.hif with flrSeen := true }).linkEvent true

/-- PCIE_HOT_RESET (R83). -/
def execPcieHotReset (s : State) : Host.Outcome State Fault Refusal := .next s.functionReset

/-- FUNCTION_LEVEL_RESET (R83). -/
def execFunctionLevelReset (s : State) : Host.Outcome State Fault Refusal := .next s.functionReset

/-- BUS_MASTER_DISABLE: a clear of Bus Master Enable (R83). -/
def execBusMasterDisable (s : State) : Host.Outcome State Fault Refusal := .next s.resetHif

/-- BAD_ACCESS: an access of BAR0 or BAR2 that is not aligned 32 bits is dropped, or reads all ones (R80). -/
def execBadAccess (write : Bool) (s : State) : Host.Outcome State Fault Refusal :=
  let s := s.setHif { s.hif with badAccSeen := true }
  .next (if write then s else s.emitOut (.readData 0xFFFFFFFF))

/-! ### Rings (R84 to R87, R117) -/

/-- RINGS_EN_SET: ring traffic is permitted (R87). -/
def execRingsEnSet (s : State) : Host.Outcome State Fault Refusal :=
  if !s.hostUp then .next s else .next (s.setReg 0x3000 (putBit (s.reg 0x3000) 0 true))

/-- RINGS_EN_CLEAR: every pair stops as under R83, and no register is reset (R83). -/
def execRingsEnClear (s : State) : Host.Outcome State Fault Refusal :=
  if !s.hostUp then .next s else .next (State.resetPairs (s.setReg 0x3000 (putBit (s.reg 0x3000) 0 false)))

/-- ENABLE of pair p reads 1: it has been enabled and not reset since (R87). -/
def State.pairEnabled (s : State) (p : Nat) : Bool :=
  decide ((s.pairRt p).st = .running) || decide ((s.pairRt p).st = .error)

/-- The life-cycle state lets pair p run (R558). -/
def State.ringServed (s : State) (p : Nat) : Bool :=
  match s.lcy.st with
  | .blank => false
  | .end_ => false
  | .return_ => decide (pairClass s.regs p = 7)
  | _ => true

/-- The configuration of pair p can be enabled (R87, R121); a base is aligned by its register. -/
def ringConfigOk (regs : Sparse Word) (p : Nat) : Bool :=
  let size (r : Nat) : Nat := fld (regAt regs (0x3808 + 0x10 * r)) 12 8
  let inRange (x : Nat) : Bool := decide (4 ≤ x) && decide (x ≤ 16)
  decide (pairClass regs p < 8) && inRange (size p) && inRange (size (64 + p)) &&
    decide (ringSize regs (64 + p) ≥ (if pairClass regs p = 0 then 2 else 1) * ringSize regs p)

/-- RING_ENABLE: a write of +0x8 of submission ring p with ENABLE = 1 (R87, R121, R558). The fields written with it apply first;
an enabled pair ignores the write. -/
def execRingEnable (p : Pair) (w : Word) (s : State) : Host.Outcome State Fault Refusal :=
  if !s.hostUp || s.pairEnabled p.val then .next s
  else
    let s := s.writeBits (0x3808 + 0x10 * p.val) w
    if !s.rbit 0x3000 0 || !s.ringServed p.val then .next s
    else if !ringConfigOk s.regs p.val then .next (s.viaHif (fun _ => modPair p.val (fun r => { r with errCode := 0x03 })))
    else .next (s.viaHif (fun c x => flushHeld c p.val (modPair p.val (fun r => { r with st := .running }) x)))

/-- RING_RESET: a write of 1 to RESET of pair p (R117). -/
def execRingReset (p : Pair) (s : State) : Host.Outcome State Fault Refusal :=
  if !s.hostUp then .next s
  else .next ((s.resetPair p.val).viaHif (fun _ => modPair p.val (fun r => { r with dbIgn := 0 })))

/-! ### Doorbells (R89, R90) -/

/-- A doorbell of pair p is ignored and counted (R90). -/
def ignoreDoorbell (p : Nat) (x : Hx) : Hx := modPair p (fun r => { r with dbIgn := satInc 0xFFFF r.dbIgn }) x

/-- A new submission count v is acceptable: within one ring of the last one and of the fetched count (R90). -/
def subDoorbellOk (size : Nat) (r : PairRt) (v : Word) : Bool :=
  decide ((v - r.subDb).toNat ≤ size) && decide ((v - r.fetched).toNat ≤ size)

/-- A new completion count v is acceptable: within one ring of the last one and of the written count (R90). -/
def cplDoorbellOk (size : Nat) (r : PairRt) (v : Word) : Bool :=
  decide ((v - r.cplDb).toNat ≤ size) && decide ((r.written - v).toNat ≤ size)

/-- SUBMISSION_DOORBELL (R89, R90, R92, R116). -/
def execSubmissionDoorbell (p : Pair) (v : Word) (s : State) : Host.Outcome State Fault Refusal :=
  if !s.hostUp then .next s
  else .next (s.viaHif (fun c x =>
    let r := x.hif.pair p.val
    if r.st ≠ .running then ignoreDoorbell p.val x
    else if subDoorbellOk (ringSize c.regs p.val) r v then
      pumpPair c p.val (modPair p.val (fun r => { r with subDb := v }) x)
    else pairErrorX p.val 0x0E c x))

/-- COMPLETION_DOORBELL (R89, R90, R104, R116). -/
def execCompletionDoorbell (p : Pair) (v : Word) (s : State) : Host.Outcome State Fault Refusal :=
  if !s.hostUp then .next s
  else .next (s.viaHif (fun c x =>
    let r := x.hif.pair p.val
    let ok := cplDoorbellOk (ringSize c.regs (64 + p.val)) r v
    if r.st ≠ .running && r.st ≠ .error then ignoreDoorbell p.val x
    else if ok then flushHeld c p.val (modPair p.val (fun r => { r with cplDb := v }) x)
    else if r.st = .running then pairErrorX p.val 0x0E c x
    else ignoreDoorbell p.val x))

/-- HELD_COMPLETION_FLUSH: held entries are written in order while the ring has room, then 0x0F (R104). -/
def execHeldCompletionFlush (p : Pair) (s : State) : Host.Outcome State Fault Refusal :=
  .next (s.viaHif (fun c => flushHeld c p.val))

/-! ### Vectors (R109, R110) -/

/-- MSIX_MODERATION_TIMEOUT: TIME µs have passed since the first unsignalled entry of vector v (R109). -/
def execMsixModerationTimeout (v : Fin 128) (s : State) : Host.Outcome State Fault Refusal :=
  if (tget {} s.hif.vectors v.val).unsignalled > 0 then .next (s.viaHif (fun _ => fireVec v.val)) else .next s

/-- MSIX_UNMASK: a write of the entry of a vector in the MSI-X table of BAR4 (R79, R80): its message address, its data, its mask. A
vector that is unmasked fires where its pending bit is set (R110). -/
def execMsixUnmask (v : MsixAccess) (s : State) : Host.Outcome State Fault Refusal :=
  let r := tget {} s.hif.vectors v.vector.val
  let set (r : MsixVec) : State := s.setHif { s.hif with vectors := tput {} r s.hif.vectors v.vector.val }
  match v.what with
  | .address a => .next (set { r with addr := a })
  | .data d => .next (set { r with data := d })
  | .mask => .next (set { r with masked := true })
  | .unmask =>
    let s := set { r with masked := false, pending := false }
    .next (if r.pending then s.viaHif (fun _ => fireVec v.vector.val) else s)

/-! ### What a descriptor asks for (R93, R97, R122) -/

/-- How an operation uses ADDR and LEN. -/
inductive HostUse where
  | unused | reads | writes
  deriving DecidableEq, Repr

/-- The operations of each class and their use of host memory; none for an OP that is not defined (R94, R97, R122). -/
def hostUse : Nat → Nat → Option HostUse
  | 0, 1 => some .reads
  | 0, 2 => some .unused
  | 0, 3 => some .unused
  | 1, 1 => some .reads
  | 1, 2 => some .writes
  | 2, 1 => some .unused
  | 2, 2 => some .unused
  | 2, 3 => some .unused
  | 3, 1 => some .reads
  | 3, 2 => some .unused
  | 4, 1 => some .writes
  | 4, 2 => some .writes
  | 5, 1 => some .reads
  | 5, 2 => some .writes
  | 5, 3 => some .writes
  | 6, 1 => some .unused
  | 7, 1 => some .writes
  | _, _ => none

/-- The bytes after the header that an operation names, as (first, number). -/
def namedBytes : Nat → Nat → List (Nat × Nat)
  | 0, 1 => [(16, 15), (32, 8)]
  | 0, 2 => [(24, 4)]
  | 1, _ => [(16, 2), (20, 8)]
  | 2, 3 => [(16, 6), (24, 4)]
  | 2, _ => [(16, 4), (24, 8)]
  | 3, _ => [(16, 1), (20, 4)]
  | 4, 1 => [(16, 1), (20, 4)]
  | 4, _ => [(16, 1), (24, 8)]
  | 5, 1 => [(16, 1), (24, 8)]
  | 5, 2 => [(16, 1)]
  | 6, _ => [(16, 2)]
  | _, _ => []

/-- Every byte after the header that the operation does not name is zero (R94). -/
def Entry.restZero (e : Entry) : Bool :=
  let named := namedBytes e.cls e.op
  (List.range 48).all (fun i =>
    named.any (fun x => decide (x.1 ≤ 16 + i) && decide (16 + i < x.1 + x.2)) || decide (e.bytes (16 + i) 1 = 0))

/-- FLAGS are as R93 has them: AT and TSTAMP on a message SEND only. -/
def Entry.flagsOk (e : Entry) : Bool :=
  decide (e.flags < 8) && (decide (e.flags < 2) || (decide (e.cls = 5) && decide (e.op = 1)))

/-- A parameter is there, for a WRITE (op 1) or a READ (op 2) (R97, R301, R361, R438, R552, R599). -/
def paramOk (op block index : Nat) : Bool :=
  match op, block with
  | 1, 0 => decide (index = 1)
  | 1, 7 => decide (1 ≤ index) && decide (index ≤ 3)
  | 2, 7 => decide (index = 4) || decide (index = 5) || (decide (0x100 ≤ index) && decide (index ≤ 0x1AC))
  | 1, 8 => decide (index = 1)
  | 2, 8 => decide (index = 2) || decide (index = 3)
  | 1, 9 => decide (1 ≤ index) && decide (index ≤ 3)
  | 1, 10 => decide (index = 1)
  | 2, 10 => decide (index = 2)
  | 1, 14 => decide (1 ≤ index) && decide (index ≤ 3)
  | 2, 14 => decide (index = 4)
  | _, _ => false

/-- A READ of the parameter takes a selector in VALUE (R97). -/
def paramSelects (block index : Nat) : Bool :=
  (decide (block = 8) && (decide (index = 2) || decide (index = 3))) || (decide (block = 10) && decide (index = 2))

/-- The block's tables and parameters are served: CNV, FIO and SAF are not on an AXQ-4096-L (R610). -/
def blockServed (variantL : Bool) (block : Nat) : Bool :=
  !variantL || !(decide (block = 7) || decide (block = 8) || decide (block = 12))

/-- The identifiers and the values of single fields are ones that their owner has (R94, R97, R98). -/
def Entry.fieldsOk (e : Entry) (variantL : Bool) : Bool :=
  match e.cls, e.op with
  | 0, 1 => decide (e.bytes 30 1 < 4) && decide (e.bytes 32 8 % 8 = 0)
  | 1, _ => blockServed variantL e.tblBlock && (tableShape e.tblBlock e.tblNum).isSome
  | 2, 3 => decide (e.bytes 24 4 < 1000000000)
  | 2, op => blockServed variantL e.parBlock && paramOk op e.parBlock e.parIndex &&
      (decide (op = 1) || paramSelects e.parBlock e.parIndex || decide (e.value = 0))
  | 3, _ => decide (e.byte16 < 8)
  | 4, _ => decide (e.byte16 < 16)
  | 5, 3 => true
  | 5, _ => (portOf e.byte16).isSome
  | 6, _ => decide (e.bytes 16 2 < 2 ^ 12)
  | _, _ => true

/-- ADDR and LEN suit the operation: an unused pair is zero, a used ADDR is aligned to 8 bytes (R93, R94). -/
def Entry.hostOk (e : Entry) (u : HostUse) : Bool :=
  match u with
  | .unused => decide (e.addr = 0) && decide (e.len = 0)
  | _ => decide (e.addr.toNat % 8 = 0)

/-- The 40-bit field of a descriptor, by the index of its 8-byte word; all are unsigned (R95, R97, R122). -/
def wordField : Nat → Nat → Option Nat
  | 0, 1 => some 2
  | 2, 1 => some 3
  | 2, 2 => some 3
  | 4, 2 => some 3
  | 5, 1 => some 3
  | _, _ => none

/-- The 40-bit field of the descriptor that is not canonical. -/
def Entry.badWord (e : Entry) : Option Nat :=
  match wordField e.cls e.op with
  | some i => if isCanonU (e.bytes (8 * i) 8) then none else some i
  | none => none

/-- The lengths that are judged before a descriptor is handed on (R97, R98). -/
def Entry.lengthFault (e : Entry) : Option Byte :=
  match e.cls, e.op with
  | 1, op =>
    match tableShape e.tblBlock e.tblNum with
    | some (n, size, loads) =>
      if op = 1 && !loads then none
      else if e.count = 0 || e.first + e.count > n then some 0x03
      else if op = 1 then (if e.len = e.count * size then none else some 0x03)
      else if e.len < e.count * size then some 0x09 else none
    | none => none
  | 4, 1 => if e.len % 4096 = 0 && decide (4096 ≤ e.len) && decide (e.len ≤ 2 ^ 24) then none else some 0x03
  | 5, 3 => if e.len < 256 then some 0x09 else none
  | 7, _ => if e.len > 4096 then some 0x03 else if e.len < 64 then some 0x09 else none
  | _, _ => none

/-- The checks of a fetched descriptor, in the order undefined OP, fields, canonical form, lengths (R94, R95, R98): the code and the
RESULT it is refused with. -/
def Entry.fault (e : Entry) (variantL : Bool) : Option (Byte × Nat) :=
  match hostUse e.cls e.op with
  | none => some (0x01, 0)
  | some u =>
    if !e.flagsOk || !e.restZero || !e.hostOk u then some (0x02, 0)
    else match e.badWord with
      | some i => if e.fieldsOk variantL || decide (e.cls = 2) then some (0x04, i) else some (0x02, 0)
      | none =>
        if !e.fieldsOk variantL then some (0x02, 0)
        else (e.lengthFault).map (fun c => (c, 0))

/-- Bytes of host data that are read before the descriptor is handed on: none where its length alone refuses it. -/
def Entry.reads (e : Entry) : Nat :=
  match e.cls, e.op with
  | 0, 1 => if e.len ≤ 4096 then e.len else 0
  | 1, 1 => match tableShape e.tblBlock e.tblNum with
    | some (_, _, true) => e.len
    | _ => 0
  | 3, 1 => e.len
  | 5, 1 => e.len
  | _, _ => 0

/-! ### Fetches and reads (R92, R111, R112, R115) -/

/-- RESULT and class-specific bytes of a refusal: a step-class completion tells its kind (R146); that of a STEP counts its actions as
not launched (R147), but for the code 0x04, whose RESULT is the index of the offending word (R95). -/
def Entry.refusal (e : Entry) (code : Byte) (result : Nat) : BitVec 64 × BitVec 64 :=
  if e.cls ≠ 0 then (BitVec.ofNat 64 result, 0)
  else if e.op = 2 || e.op = 3 then (BitVec.ofNat 64 (result + 3 * 2 ^ 62), 0)
  else
    let r := if e.op = 1 && decide (code ≠ 0x04) then e.bytes 28 2 * 2 ^ 16 else result
    (BitVec.ofNat 64 (r + 2 * 2 ^ 62), canonU (e.bytes 16 5))

/-- A descriptor of pair p is refused before it is handed on (R115). -/
def State.refuseEntry (s : State) (p : Nat) (e : Entry) (code : Byte) (result : Nat) : State :=
  let s := if code = 0x04 then s.noteNoncanon else s
  s.finishWith p e.sub code (e.refusal code result).1 (e.refusal code result).2

/-- A descriptor joins its pair; its host data is asked for in reads of at most 512 bytes (R81, R92). -/
def State.pushEntry (s : State) (p : Nat) (e : Entry) : State :=
  s.viaHif (fun c x =>
    forN e.need (fun _ => askRead c p) (modPair p (fun r => { r with entries := r.entries ++ [e] }) x))

/-- A fetched descriptor is checked, and handed to its owner, or its host data is asked for, or it is refused (R93 to R95, R115). A
step descriptor is judged only where steps are accepted: every other module refuses it with 0x10 (R119). DESIGN CHOICE (log 103): the
spec does not say whether the reading of its host data is part of the start of a BARRIER descriptor (R96); the data is read before
earlier descriptors have completed, and only what is done with it waits. -/
def State.takeDescriptor (s : State) (p : Nat) (e : Entry) : State :=
  if e.cls = 0 && !s.roleHive then
    if e.op = 1 || e.op = 2 || e.op = 3 then s.pushEntry p e
    else (s.pushEntry p e).refuseEntry p e 0x10 0
  else match e.fault s.pw.variantL with
    | some (code, result) => (s.pushEntry p e).refuseEntry p e code result
    | none =>
      let n := (e.reads + 511) / 512
      s.pushEntry p { e with need := n, stage := if n = 0 then .handed else .reading }

/-- DESCRIPTOR_FETCH: a descriptor of pair p has been fetched, or its fetch has ended in an error (R92 to R95, R115). -/
def execDescriptorFetch (p : Pair) (r : ReadResult) (s : State) : Host.Outcome State Fault Refusal :=
  let q := s.pairRt p.val
  if q.st ≠ .running || q.fetchOut = [] then .next s
  else
    let s := s.viaHif (fun _ => fetchedOne p.val)
    match r with
    | .error => .next (s.viaHif (pairErrorX p.val 0x05))
    | .data b =>
      let cls := pairClass s.regs p.val
      let raw := BitVec.ofNat 512 (leNat (b.take (if cls = 0 then 64 else 32)))
      let e : Entry := { sub := q.base + q.fetched, index := q.fetched, raw := raw, cls := cls }
      let s := s.viaHif (fun _ => modPair p.val (fun r => { r with fetched := r.fetched + 1 }))
      .next (s.takeDescriptor p.val e)

/-- A read of host data of the pair is outstanding (R111). -/
def PairRt.readsData (q : PairRt) : Bool := decide (q.fetchOut.length < q.inFlight)

/-- The oldest descriptor of pair p whose host data is being read. -/
def State.readingEntry (s : State) (p : Nat) : Option Entry :=
  (s.pairRt p).entries.find? (fun e => decide (e.stage = .reading))

/-- The descriptor of pair p with submission number sub changed by f. -/
def State.modEntry (s : State) (p : Nat) (sub : Word) (f : Entry → Entry) : State :=
  s.viaHif (fun _ => modPair p (fun r => { r with
    entries := r.entries.map (fun e => if decide (e.sub = sub) && decide (e.stage = .reading) then f e else e) }))

/-- Read n more of the requests of pair p are given up: waiting ones first. -/
def giveUpReads (p n : Nat) (x : Hx) : Hx :=
  let w := tget 0 x.hif.waiting p
  let k := min n w
  let x := { x with hif := { x.hif with waiting := tput 0 (w - k) x.hif.waiting p } }
  forN (n - k) (fun _ => freeRead p) x

/-- A read of host data of pair p has failed: its descriptor is refused with the code, and what it still asked for is given up
(R115). -/
def State.readFailed (s : State) (p : Nat) (code : Byte) : State :=
  match s.readingEntry p with
  | none => s
  | some e =>
    let s := s.viaHif (fun _ x => giveUpReads p (e.need - 1) (freeRead p x))
    s.refuseEntry p e code 0

/-- HOST_READ_COMPLETION: up to 512 bytes of the oldest descriptor of pair p whose host data is being read have come, or the read has
ended in an error; with its last bytes the descriptor is handed to its owner (R111, R115). -/
def execHostReadCompletion (p : Pair) (r : ReadResult) (s : State) : Host.Outcome State Fault Refusal :=
  if !(s.pairRt p.val).readsData then .next s
  else match s.readingEntry p.val with
    | none => .next s
    | some e =>
      match r with
      | .error => .next (s.readFailed p.val 0x05)
      | .data b =>
        let n := min 512 (e.reads - e.data.length)
        let s := s.viaHif (fun _ => freeRead p.val)
        .next (s.modEntry p.val e.sub (fun e => { e with
          need := e.need - 1, data := e.data ++ padTo n b, stage := if e.need ≤ 1 then .handed else .reading }))

/-- HOST_READ_TIMEOUT: a read of host data of pair p, or a fetch, has timed out (R115). -/
def execHostReadTimeout (p : Pair) (fetch : Bool) (s : State) : Host.Outcome State Fault Refusal :=
  let q := s.pairRt p.val
  if fetch then
    if q.st ≠ .running || q.fetchOut = [] then .next s
    else .next (s.viaHif (fun c x => pairErrorX p.val 0x06 c (fetchedOne p.val x)))
  else if q.readsData then .next (s.readFailed p.val 0x06)
  else .next s

/-- Pair p has a read that waits and may be granted: one of host data, or a fetch while none of its entries is held (R104, R112). -/
def readWaits (h : HifState) (p : Nat) : Bool :=
  decide (tget 0 h.waiting p > 0) || (decide ((h.pair p).fetchWait ≠ []) && (h.pair p).mayFetch)

/-- The read of pair p that waits has its request: one of host data, else the oldest fetch (R112). DESIGN CHOICE (log 33): reserved grants
go round-robin among the step-class rings. -/
def grantWaiting (p : Nat) (reserved : Bool) (x : Hx) : Hx :=
  let x := grantRequest p reserved x
  let x := { x with hif := { x.hif with
    lastGrant := if reserved then x.hif.lastGrant else p, lastStep := if reserved then p else x.hif.lastStep } }
  if tget 0 x.hif.waiting p > 0 then { x with hif := { x.hif with waiting := tmod 0 x.hif.waiting p (· - 1) } }
  else modPair p (fun q => { q with fetchOut := q.fetchOut ++ q.fetchWait.take 1, fetchWait := q.fetchWait.drop 1 }) x

/-- HOST_READ_GRANT: a free request of the 96 is granted to a waiting read: one of the step reserve to a step-class ring, else a
shared one, round-robin (R111, R112). -/
def execHostReadGrant (s : State) : Host.Outcome State Fault Refusal :=
  .next (s.viaHif (fun c x =>
    let ps := (List.range 64).filter (readWaits x.hif)
    let res := stepReserve c.regs
    let shared : Option Nat :=
      if decide (x.hif.outstanding - x.hif.stepOut < 96 - res) then roundRobin x.hif.lastGrant ps else none
    let reserved : Option Nat :=
      if x.hif.stepOut < res then
        roundRobin x.hif.lastStep (ps.filter (fun p => decide (pairClass c.regs p = 0)))
      else none
    if x.hif.outstanding < 96 then
      match reserved, shared with
      | some p, _ => grantWaiting p true x
      | none, some p => grantWaiting p false x
      | none, none => x
    else x))

/-! ### Table READs (R97) -/

/-- A slot record as READ returns it: as loaded, with W19 as it stands (R172). -/
def State.slotEntry (s : State) (k : Nat) : BitVec 1280 :=
  let r := s.cmb.slotRt k
  let w19 := min 255 r.satCnt + r.flags.toNat * 2 ^ 8 + r.phase % 2 ^ 9 * 2 ^ 16 +
    supWord r.model r.sup % 2 ^ 32 * 2 ^ 32
  putFld (tget 0 s.cmb.slots k) 1279 1216 w19

/-- A model record as READ returns it: as loaded, with M6 and M7 as they stand (R197). -/
def State.modelEntry (s : State) (k : Nat) : BitVec 512 :=
  let m := (s.cmb.slotRt k).mdl
  putFld (putFld (s.cmb.modelOf k) 447 384 (canonS m.y0).toNat) 511 448
    ((bitsOf 24 m.resLast).toNat + (bitsOf 24 m.estLast).toNat * 2 ^ 24)

/-- Code of a region's state (R331). -/
def regionCode : RegionSt → Nat
  | .idle => 0 | .filling => 1 | .armed => 2 | .post => 3 | .delivering => 4 | .done => 5 | .streaming => 6

/-- A region record as READ returns it: as loaded, with G6 and G7 as they stand (R331). -/
def State.regionEntry (s : State) (r : Nat) : BitVec 512 :=
  let q := s.regRt r
  putFld (putFld (s.region r) 447 384 (q.cap % 2 ^ 32 + q.postEff % 2 ^ 32 * 2 ^ 32)) 511 448
    (regionCode q.st + q.clamped.toNat * 8 + min 65535 q.earlyCnt * 2 ^ 16 + min 65535 q.rearmCnt * 2 ^ 32 +
      q.captures % 65536 * 2 ^ 48)

/-- A relay-table entry (R158). -/
def State.relayEntry (s : State) (k : Nat) : List Byte :=
  let r : Relay := tget {} s.stp.relay k
  leBytes 8 (if k = 0 || !r.joined then 0 else r.d) ++ leBytes 2 r.hops ++ leBytes 1 (r.joined.toNat + 2 * r.twinned.toNat) ++
    List.replicate 5 0

/-- Entry i of a table, as READ returns it (R97, R158, R172, R197, R328, R331, R406, R426, R473, R591). -/
def State.tableEntry (s : State) (block num i : Nat) : List Byte :=
  match block, num with
  | 4, 1 => s.relayEntry i
  | 5, 1 => leBytes 160 (s.slotEntry i).toNat
  | 5, 2 => leBytes 4 (tget 0 s.cmb.store i).toNat
  | 5, 3 => leBytes 64 (s.modelEntry i).toNat
  | 6, 1 => leBytes 8 (tget 0 s.blk.inMap i).toNat
  | 6, 2 => leBytes 8 (tget 0 s.blk.outMap i).toNat
  | 7, 1 => leBytes 8 (tget 0 s.cnv.chan i).toNat
  | 7, 2 => leBytes 8 (tget 0 s.cnv.dac i).toNat
  | 7, 3 => leBytes 32 (tget coefReset s.cnv.coef i).toNat
  | 7, 4 => leBytes 32 (tget coefReset s.cnv.dacCoef i).toNat
  | 7, 5 => leBytes 16 (tget 0 s.cnv.skew i).toNat
  | 8, 1 => leBytes 8 (tget 0 s.fio.hsTab i).toNat
  | 8, 2 => leBytes 8 (tget 0 s.fio.diTab i).toNat
  | 8, 3 => leBytes 8 (tget 0 s.fio.encTab i).toNat
  | 8, 4 => leBytes 8 (tget 0 s.fio.pulTab i).toNat
  | 8, 5 => leBytes 16 (tget 0 s.fio.profTab i).toNat
  | 8, 6 => leBytes 8 (tget holdReset s.fio.holdTab i).toNat
  | 8, 15 => leBytes 8 (claimEntry s.fio.claims (claimIds.getD i 0)).toNat
  | 9, 1 => leBytes 64 (s.regionEntry i).toNat
  | 9, 2 => leBytes 8 (tget 0 s.mir.lines i).toNat
  | 9, 3 => leBytes 16 (tget 0 s.mir.masks i).toNat
  | 10, 1 => leBytes 8 (tget 0 s.wag.rxMap i).toNat
  | 10, 2 => leBytes 8 (tget 0 s.wag.stnTab i).toNat
  | 10, 3 => leBytes 8 (tget 0 s.wag.segTab i).toNat
  | 10, 4 => leBytes 8 (s.stationStatus i).toNat
  | 10, 32 =>
    let c : WinCnt := tget {} s.wag.winCnt i
    leBytes 4 c.good ++ leBytes 4 c.empty ++ leBytes 4 c.invalid ++ [0, 0, 0, 0]
  | 11, 1 => leBytes 8 (tget 0 s.twn.witTab i).toNat
  | 12, 1 => leBytes 16 (tget 0 s.seen.saf.rows i).toNat
  | 12, 2 => leBytes 8 (tget 0 s.seen.saf.guardTab i).toNat
  | 14, 1 => leBytes 16 (tget 0 s.leg.filters i).toNat
  | 15, 0x101 => s.liveRecord
  | 15, 0x102 => (s.snapshotAt i).getD (List.replicate 1024 0)
  | 7, n => leBytes 8 (tget 0 s.cnv.lists (128 * (n - 16) + i)).toNat
  | 10, n => leBytes 32 (tget 0 s.wag.sched (256 * (n - 16) + i)).toNat
  | _, _ => []

/-- TABLE_READ: entries FIRST to FIRST + COUNT − 1 of a table go to host memory (R97). -/
def execTableRead (p : Pair) (s : State) : Host.Outcome State Fault Refusal :=
  match s.takeOp p.val 1 2 with
  | none => .next s
  | some e =>
    let b := (List.range e.count).flatMap (fun i => s.tableEntry e.tblBlock e.tblNum (e.first + i))
    .next ((s.hostWrite e.addr b).finish p.val e.sub 0 (BitVec.ofNat 64 e.count))

/-! ### Event masks and status requests (R97, R106, R577) -/

/-- EVENT_MASK: the mask of an event ring (R97, R106). -/
def execEventMask (p : Pair) (s : State) : Host.Outcome State Fault Refusal :=
  match s.takeOp p.val 6 1 with
  | none => .next s
  | some e =>
    let s := s.viaHif (fun _ => modPair p.val (fun r => { r with evtMask := BitVec.ofNat 12 (e.bytes 16 2) }))
    .next (s.finish p.val e.sub 0 0)

/-- UPDATE_STATUS: the 64-byte status record goes to host memory (R88, R97, R577). -/
def execUpdateStatus (p : Pair) (s : State) : Host.Outcome State Fault Refusal :=
  match s.takeOp p.val 7 1 with
  | none => .next s
  | some e => .next ((s.tookFree.hostWrite e.addr s.statusRecord).finish p.val e.sub 0 64)

end Sys2Proof.Machine
end

