-- ==== Sys2Proof/Machine/RegWrite.lean ====
section
/-! DEFINITION. Plain writes of BAR0 registers: RW, RWL and W1C fields under the lock rules (R12, R13, R87, R610 to R615). -/

namespace Sys2Proof.Machine

/-- A register whose writes have a row of their own: LOCK_SET, RING_RESET's word, CMB_CLASS_WRITE, WAG_RUN, PULSE_OUTPUT_ARM and
_DISARM, CAN_ENABLE, UART_ENABLE, GP_CONFIG_WRITE, RINGS_EN_SET and _CLEAR. -/
def ownRow (off : Nat) : Bool :=
  decide (off = 0x0014) || decide (off = 0x3000) || inGroup 0x3800 0x10 64 0xC off || inGroup 0x5040 4 8 0 off ||
    decide (off = 0xA000) || inGroup 0x2100 0x20 4 0 off || inGroup 0xE100 0x40 4 0 off || inGroup 0xE200 0x20 4 0 off ||
    decide (off = 0xE000) || decide (off = 0xE300)

/-- The pair whose configuration a register of HIF_RING_n holds. -/
def ringOf (off : Nat) : Option Nat := if 0x3800 ≤ off && off < 0x4000 then some ((off - 0x3800) / 0x10 % 64) else none

/-- START, PERIOD or WIDTH of a pulse output that is armed: a write to it is ignored (R77). -/
def State.armedTpo (s : State) (off : Nat) : Bool :=
  decide (0x2100 ≤ off) && decide (off < 0x2180) && (s.tpo ((off - 0x2100) / 0x20)).armed

/-- The register belongs to a block that is not on an AXQ-4096-L (R610). -/
def absentReg (variantL : Bool) (off : Nat) : Bool := !blockServed variantL (blockOf off)

/-- W1C bits of the SYS and CLK registers. -/
def PowerState.clearSeen (p : PowerState) (off : Nat) (w : Word) : PowerState :=
  if off = 0x0018 then { p with lockWrSeen := p.lockWrSeen && !tbit w 1 }
  else if off = 0x0080 then { p with retInval := p.retInval && !tbit w 30 }
  else if off = 0x0104 then
    { p with holdupLowSeen := p.holdupLowSeen && !tbit w 7, peatLossSeen := p.peatLossSeen && !tbit w 6 }
  else if off = 0x010C then { p with rstSeen := p.rstSeen && !tbit w 8, stuckSeen := p.stuckSeen && !tbit w 7 }
  else if off = 0x1010 then { p with frefFbSeen := p.frefFbSeen && !tbit w 5 }
  else p

/-- A write of 1 clears the W1C bits of a register; any 1 written to a field that is cleared whole clears it (R13). -/
def State.clearW1c (s : State) (off : Nat) (w : Word) : State :=
  let s : State := { s with pw := s.pw.clearSeen off w }
  if off = 0x2004 then
    s.setTime { s.time with lockLostSeen := s.time.lockLostSeen && !tbit w 4, tb0StepSeen := s.time.tb0StepSeen && !tbit w 3 }
  else if off = 0x3004 then
    s.setHif { s.hif with
      flrSeen := s.hif.flrSeen && !tbit w 8, badAccSeen := s.hif.badAccSeen && !tbit w 7
      noncanonSeen := s.hif.noncanonSeen && !tbit w 6 }
  else if off = 0x300C then s.setHif { s.hif with peak := if fld w 14 8 = 0 then s.hif.peak else 0 }
  else if off = 0x4008 then { s with stp := { s.stp with peak := if fld w 14 8 = 0 then s.stp.peak else 0 } }
  else if off = 0x5004 then
    { s with cmb := { s.cmb with ovrSeen := s.cmb.ovrSeen && !tbit w 2, cfgErr := s.cmb.cfgErr && !tbit w 1 } }
  else if inGroup 0x6100 0x20 8 0x14 off then
    if w = 0 then s else s.modTask (groupIx 0x6100 0x20 off) (fun r => { r with maxNs := 0 })
  else if off = 0x8004 then { s with fio := { s.fio with encFault := s.fio.encFault &&& ~~~ (BitVec.ofNat 16 (fld w 31 16)) } }
  else if off = 0x9004 then { s with mir := { s.mir with done := s.mir.done &&& ~~~ (BitVec.ofNat 16 (fld w 15 0)) } }
  else if inGroup 0xE100 0x40 4 0x1C off then
    s.modCan (groupIx 0xE100 0x40 off) (fun r => { r with cfgErr := r.cfgErr && !tbit w 3 })
  else s

/-- REGISTER_WRITE: the RW, RWL and W1C fields of a register take effect under the lock rules, ROLE of a trunk port on the port (R362); reserved and read-only bits, the
configuration of an enabled pair, the instants of an armed pulse output, and registers that are not there ignore the write (R12,
R13, R77, R87, R610, R612, R615). -/
def execRegisterWrite (offset : BitVec 16) (w : Word) (s : State) : Host.Outcome State Fault Refusal :=
  let off := offset.toNat
  if !s.hostUp || ownRow off || decide (off % 4 ≠ 0) || absentReg s.pw.variantL off || s.armedTpo off then .next s
  else match ringOf off with
    | some p => .next (if s.pairEnabled p then s else s.writeBits off w)
    | none =>
    let s := (s.writeBits off w).clearW1c off w
    .next (if off = 0xA410 then s.trunkWritten 0 else if off = 0xA420 then s.trunkWritten 1 else s)

/-- LOCK_SET: bits of LOCK are set by a write of 1 (R611). -/
def execLockSet (w : Word) (s : State) : Host.Outcome State Fault Refusal :=
  if !s.hostUp then .next s
  else .next { s with pw := { s.pw with lock := s.pw.lock ||| BitVec.ofNat 16 (fld w 15 0) } }

end Sys2Proof.Machine
end

