-- ==== Sys2Proof/Machine/Power.lean ====
section
/-! DEFINITION. Power, reset, clocks and memory errors (R24 to R39, R46, R592 to R608): supplies and presence, restarts, boot, the
reset input, the eject lever, the field reference. -/

namespace Sys2Proof.Machine

/-- The state with the power part changed. -/
def State.setPw (s : State) (p : PowerState) : State := { s with pw := p }

/-! ### Restarts (R34, R598, R599, R602) -/

/-- Two restarts asked for together: a cold request makes it cold (R599). -/
def RestartReq.merge (a b : RestartReq) : RestartReq := if b.cold && !a.cold then b else a

/-- A restart is asked for. -/
def State.askRestart (s : State) (r : RestartReq) : State :=
  s.setPw { s.pw with restart := some (match s.pw.restart with | some a => a.merge r | none => r) }

/-- The restart asked for is taken: the logic side goes into reset. -/
def State.takeRestart (s : State) : State :=
  match s.pw.restart with
  | some r => s.holdLogic r.cold r.cause
  | none => s

/-- A warm restart for a cause: a twin's holder hands over first, and its reset follows as RESTART_RESET (R34, R602). -/
def State.warmRestart (s : State) (cause : Nat) (why : HandoverWhy) : State :=
  let s := s.askRestart { cold := false, cause := cause }
  if s.twn.st = .holder then s.offerHandover why else s.takeRestart

/-- The effect of RESTART (R599, R605): the completion first; then a holder hands over. -/
def doRestart (p : Pair) (s : State) : Host.Outcome State Fault Refusal :=
  match s.takeParam p 1 0 1 with
  | none => .next s
  | some e =>
    if e.value ≠ 0x5A && e.value ≠ 0xC5 then .next (s.finish p.val e.sub 0x02 0)
    else if s.pw.eject then .next (s.finish p.val e.sub 0x0A 0)
    else
      let cold := decide (e.value = 0xC5)
      let s := (s.finish p.val e.sub 0 0).askRestart { cold := cold, cause := if cold then 3 else 2 }
      .next (s.offerHandover .restart)

/-- RESTART: parameter 0x001 of SYS is written (R599). -/
def execRestart (p : Pair) (s : State) : Host.Outcome State Fault Refusal :=
  s.asOwnChange p (s.takeParam p 1 0 1) (doRestart p)

/-- RESTART_RESET: the reset that was asked for is taken, not before the end of the handover that the request began (R599); a reset
request of the reset input waits for it 2 ms at most (R602). -/
def execRestartReset (s : State) : Host.Outcome State Fault Refusal :=
  let hands := decide (s.twn.st = .holder) && s.twn.offer.isSome && decide (s.twn.why = .restart)
  .next (if s.pw.logic = .run && !hands then s.takeRestart else s)

/-! ### Supplies and presence (R593, R597, R636) -/

/-- LOGIC_POWER_UP: V12 and PRES_N have been good for 20 ms: the logic side begins to come up, held until its clocks are stable; the
life-cycle copies are compared (R555, R593, R597). -/
def execLogicPowerUp (s : State) : Host.Outcome State Fault Refusal :=
  if s.pw.logic ≠ .off then .next s
  else
    let s := s.setPw { s.pw with logic := .held, v12Ok := true, pres := true }
    .next (if s.pw.variantL then s.peatPowerUp else s.setLcy s.lcy.reconcile)

/-- The spacing of the field side's events starts anew with TB2, whose stamps of another epoch say nothing of it (R482). -/
def SafState.newEpoch (f : SafState) : SafState := { f with lastEnv := [] }

/-- LOGIC_RESET_RELEASE: the PLLs and the reference have been stable for 10 ms: phase P1 begins, with the storage keys (R560). TB2 starts from zero after a cold
start and after a loss of the logic PLL, and a new epoch with it (R28, R46, R598). -/
def execLogicResetRelease (s : State) : Host.Outcome State Fault Refusal :=
  if s.pw.logic ≠ .held || !s.pw.v12Ok || !s.pw.pres then .next s
  else
    let r := s.pw.restart.getD { cold := true, cause := 0 }
    let t := s.time
    let zero := r.cold || !s.pw.lpllLock
    let t : TimeState := if zero then
        { t with tb0 := {}, tb1 := {}, tb2 := {}, tb3 := {}, tb2Wraps := 0
                 tb2Epoch := if r.cause = 0 then 0 else t.tb2Epoch + 1 }
      else t
    let s : State := if zero then { s with saf := s.saf.newEpoch } else s
    .next (State.setPw ((s.setLcy s.lcy.bootKeys).setTime t) { s.pw with
      logic := .boot, p0 := false, cause := r.cause, restart := none, starting := some r, rstSeen := true, lpllLock := true, mpllLock := true
      holdupLowSeen := s.pw.holdupLow })

/-- V12_OUT_OF_RANGE: V12 has been outside its range for 10 µs: held in reset, the retention region lost (R31, R593). -/
def execV12OutOfRange (s : State) : Host.Outcome State Fault Refusal :=
  let s := s.setPw { s.pw with v12Ok := false }
  .next (if s.pw.logic = .off then s else s.logicOff 7)

/-- LOGIC_OVERTEMP: the PMIC removes the logic supply, as when V12 leaves its range (R636). -/
def execLogicOvertemp (s : State) : Host.Outcome State Fault Refusal :=
  .next (if s.pw.logic = .off then s else s.logicOff 7)

/-- PRESENCE_RELEASE: a presence contact is released, so its domain goes down at once (R593, R606). -/
def execPresenceRelease (side : Side) (s : State) : Host.Outcome State Fault Refusal :=
  match side with
  | .logic =>
    let s := s.setPw { s.pw with pres := false }
    .next (if s.pw.logic = .off then s else s.logicOff 0)
  | .field =>
    let s := s.setPw { s.pw with presFx := false }
    .next (if s.pw.fieldUp then s.fieldDown else s)

/-- FIELD_POWER_GOOD: the field side enters P0 with every group demanded; ledger counter 3 and a snapshot (R490, R587, R593). -/
def execFieldPowerGood (s : State) : Host.Outcome State Fault Refusal :=
  if s.pw.variantL || s.pw.fieldUp then .next s
  else
    let s := State.peatPowerUp (State.fieldStart (s.setPw { s.pw with presFx := true }))
    .next ((s.countLedger 3).noteCause 1)

/-- FIELD_POWER_LOSS: VFLD has been below 16 V for 1 ms (R593). -/
def execFieldPowerLoss (s : State) : Host.Outcome State Fault Refusal :=
  .next (if s.pw.fieldUp then s.fieldDown else s)

/-- PEAT_LOSS: the PEAT supply has fallen below 2.0 V, which with the main supply of its side present it cannot; the loss is dealt
with at the next power-up (R597). DEDUCED (log 81): of the main supplies that R597 calls both, only that of its side feeds the PEAT
domain (R15), and R593 has it go down with that one and VBAK absent. -/
def execPeatLoss (s : State) : Host.Outcome State Fault Refusal :=
  .next (if s.peatMain then s else s.setPw { s.pw with peatLost := true })

/-- The logic side is out of reset, its memories and registers in use: also in P1 and in a boot stage that found no slot (R519, R575). -/
def State.logicAwake (s : State) : Bool := decide (s.pw.logic ≠ .off) && decide (s.pw.logic ≠ .held)

/-- HOLDUP_CHANGE: HOLDUP_OK or V12 has changed (R594, R608). A logic side in reset keeps no register to hold HOLDUP_LOW_SEEN. -/
def execHoldupChange (holdupOk : Bool) (v12Mv : BitVec 16) (s : State) : Host.Outcome State Fault Refusal :=
  let low := !holdupOk || decide (v12Mv.toNat < 11400)
  let change := decide (low ≠ s.pw.holdupLow)
  let s := s.setPw { s.pw with
    holdupOk := holdupOk, v12Mv := v12Mv, holdupLow := low, holdupLowSeen := s.pw.holdupLowSeen || (low && s.logicAwake) }
  .next (if change then s.powerIrq else s)

/-- PWRFAIL: PWRFAIL_N has been accepted as asserted: the bit and its interrupt show it, and where PWRFAIL_EN is 1 a twin's holder
hands over, and nothing else (R595, R608). -/
def execPwrfail (s : State) : Host.Outcome State Fault Refusal :=
  if s.pw.pwrfail || s.pw.logic = .off || s.pw.logic = .held then .next s
  else
    let s := (s.setPw { s.pw with pwrfail := true }).powerIrq
    .next (if s.rbit 0x0100 9 then s.offerHandover .powerFail else s)

/-- PWRFAIL_RELEASE: PWRFAIL_N is released while V12 stays in range (R595, R608). -/
def execPwrfailRelease (s : State) : Host.Outcome State Fault Refusal :=
  .next (if s.pw.pwrfail then (s.setPw { s.pw with pwrfail := false }).powerIrq else s)

/-- PLL_LOCK_LOSS: the logic side holds itself in reset until its clocks have been stable again (R28, R46). -/
def execPllLockLoss (s : State) : Host.Outcome State Fault Refusal :=
  if s.pw.logic = .off then .next s
  else
    let s := s.setPw { s.pw with lpllLock := false, mpllLock := false }
    .next (if s.pw.logic = .held then s else s.holdLogic false 5)

/-! ### Boot (R32, R256 to R258, R327, R519, R575, R615) -/

/-- One register value of the persistent configuration is written (R615); a claim that it makes and that is refused raises 0xB4 and
leaves it unwritten (R327). -/
def State.persistReg (s : State) (off : Nat) (w : Word) : State :=
  let cl := s.fio.claims
  let claimed (j : Judged (List Claim)) (t : State) : State :=
    match j with
    | .refused _ r => s.raise 0xB4 r
    | .ok _ => t
  let en (own : Nat) (ids : List Nat) : Judged (List Claim) := if tbit w 0 then claimAll rankGeneral own ids cl else .ok cl
  if inGroup 0xE100 0x40 4 0 off then
    let c := groupIx 0xE100 0x40 off
    claimed (en (ownPort c) (canBufs c)) (after s (execCanEnable (Fin.ofNat 4 c) w s))
  else if inGroup 0xE200 0x20 4 0 off then
    let u := groupIx 0xE200 0x20 off
    claimed (en (ownPort (0x10 + u)) (uartBufs u)) (after s (execUartEnable (Fin.ofNat 4 u) w s))
  else if off = 0xE000 then
    claimed (gpClaims (ownReg 0) (dirLines (s.reg off)) (dirLines ((s.writeBits off w).reg off)) cl)
      (after s (execGpConfigWrite .gpCfg w s))
  else if off = 0xE300 then
    match gpClaims (ownReg 1) (csLines (s.reg off)) (csLines ((s.writeBits off w).reg off)) cl with
    | .refused _ r => s.raise 0xB4 r
    | .ok cl =>
      claimed (if tbit w 0 then claim cl 0x9140 rankGeneral (ownPort 0x20) else .ok cl) (after s (execGpConfigWrite .pbCtrl w s))
  else if off = 0xA000 then
    let t := s.writeBits off w
    t.setReg off (putBit (t.reg off) 31 (tbit w 31))
  else if inGroup 0x2100 0x20 4 0 off then s.writeTpo (groupIx 0x2100 0x20 off) w
  else if inGroup 0x5040 4 8 0 off then after s (execCmbClassWrite (Fin.ofNat 8 (groupIx 0x5040 4 off)) w s)
  else after s (execRegisterWrite (BitVec.ofNat 16 off) w s)

/-- A register value that makes claims (R326, R550). -/
def claimsReg (off : Nat) : Bool :=
  inGroup 0xE100 0x40 4 0 off || inGroup 0xE200 0x20 4 0 off || decide (off = 0xE000) || decide (off = 0xE300)

/-- When an item of the persistent configuration is loaded: registers that claim nothing, Mire's regions, the general rank, images
(R326, R327, R615). -/
def PersistItem.turn : PersistItem → Nat
  | .reg off _ => if claimsReg off then 2 else 0
  | .table t _ _ => if t = 0x9001 then 1 else 2
  | .image _ _ => 3

/-- An image loaded at boot becomes the task's program, or raises 0xB4 where its claims are refused: on a warm start a task that held
the same image keeps its words, any other is cold (R256 to R258, R327). -/
def State.adoptImage (s : State) (warm : Bool) (old : TaskRt) (t id : Nat) : State :=
  let b := (s.task t).inactive
  match s.judgeExchange t b with
  | .refused c w => if c = 0xB0 || c = 0xB1 then s.raise 0xB4 w else s
  | .ok (cores, cl) =>
    let s := cores.foldl (fun s y => s.modTask y.1 (fun r => { r with core := y.2, coreNext := y.2 })) (s.setClaims cl)
    let kept := warm && !old.active.isEmpty && decide (iId old.active = id)
    s.modTask t (fun r =>
      let o := { old with inactive := [], active := if kept then b else old.active, core := r.core, coreNext := r.coreNext }
      if kept then o.warmed else o.cold b)

/-- What follows the LOAD_IMAGE of a boot image: accepted, the image becomes the task's program. -/
def State.bootTake (s : State) (warm : Bool) (old : TaskRt) (t id : Nat) (x : State × Option (Byte × BitVec 64)) : State :=
  match x.2 with
  | some (c, _) => if c = 0 then x.1.adoptImage warm old t id else s
  | none => s

/-- A task takes its image of the persistent configuration: the claims of its words, its core, and its instances as the retention
region has them where the restart is warm and the IMAGE_ID is the same, else cold (R251, R256 to R258, R327). -/
def State.bootImage (s : State) (warm : Bool) (old : TaskRt) (task : Fin 8) (bytes : List Byte) : State :=
  s.bootTake warm old task.val (iId bytes) (s.runApart 3 (imageDesc 1 bytes.length task.val (iId bytes)) bytes)

/-- One item of the persistent configuration is loaded. -/
def State.bootItem (s : State) (warm : Bool) (old : Sparse TaskRt) (it : PersistItem) : State :=
  match it with
  | .reg off w => s.persistReg off w
  | .table _ _ _ => s.loadItem it
  | .image t b => s.bootImage warm (tget {} old t.val) t b

/-- Tasks as a start finds them before its images are loaded: only the counters since cold start. -/
def TaskRt.emptied (r : TaskRt) : TaskRt := { ovrCnt := r.ovrCnt, rtfCnt := r.rtfCnt }

/-- The persistent configuration is loaded, and the runtime starts: its releases count from the next multiple of 100 µs of TB2 (R221,
R327, R615). -/
def State.loadPersistent (s : State) (warm : Bool) : State :=
  let old := s.blk.tasks
  let s : State := { s with blk := { s.blk with
    tasks := tmap {} TaskRt.emptied old, origin := (s.time.t2 / 100000 + 1) * 100000, warmStart := warm, started := false } }
  let items := sortBy (fun (a b : PersistItem) => decide (a.turn ≤ b.turn)) s.pw.persist
  items.foldl (fun s it => s.bootItem warm old it) s

/-- The boot stage starts the previous slot and half, which the activation record then names (R575). -/
def State.bootFallback (s : State) : State :=
  let old := s.lcy.active
  let l := s.lcy
  let s := s.setLcy { l with
    slotB := !l.slotB, fallbackOk := false, fallbackCnt := satInc 0xFFFF l.fallbackCnt, trial := false
    phase := if l.phase = .trial then .idle else l.phase }
  let s := (s.countLogic 12).adoptHalf old s.lcy.active
  s.raise 0xAB (BitVec.ofNat 64 s.lcy.active.pkgId.toNat)

/-- The digital input image as the field side shows it. -/
def State.diNow (s : State) : BitVec 64 :=
  if s.pw.fieldUp then (List.range 64).foldl (fun w i => putBit w i (s.diState i)) 0 else 0

/-- A restart that was to be warm turns into a cold one, because the retention region is not intact: 0x3E, and TB2 starts again from
zero in a new epoch (R32, R46, R257). -/
def State.turnCold (s : State) : State :=
  let s : State := { s with saf := s.saf.newEpoch }
  (s.setTime { s.time with tb2 := {}, tb2Wraps := 0, tb2Epoch := s.time.tb2Epoch + 1 }).raise 0x3E 0

/-- LOGIC_BOOT_VERIFIED: secure boot has checked the slot. Verified, the retention region decides whether the start is warm, the
persistent configuration is loaded, and phase P2 begins; else the previous slot starts, or the boot stage stays (R32, R257, R258,
R327, R519, R575, R615). -/
def execLogicBootVerified (slotOk retentionOk : Bool) (s : State) : Host.Outcome State Fault Refusal :=
  if s.pw.logic ≠ .boot then .next s
  else if !slotOk then
    .next (if s.lcy.fallbackOk then s.bootFallback else s.setPw { s.pw with logic := .failed })
  else
    let r := s.pw.starting.getD { cold := true, cause := 0 }
    let warm := !r.cold && s.pw.retention && retentionOk
    let s := if !r.cold && !warm then s.turnCold else s
    let s := if warm then s else s.coldCounters
    let s := s.countLogic (if warm then 4 else 5)
    let s := State.loadPersistent (s.setPw { s.pw with
      cfgDone := true, warm := warm, retValid := warm, retention := true, starting := none }) warm
    let s : State := { s with
      pw := { s.pw with logic := .run }
      fio := { s.fio with
        diImage := s.diNow, ejected := s.fio.ejected && s.pw.eject, ejectCycle := s.fio.ejectCycle && s.pw.eject } }
    let s := if s.rbit 0xA000 31 && s.linkRuns then s.takeRole else s
    .next s.judgePhase

/-! ### The reset input (R600 to R602) -/

/-- RESET_INPUT_RELEASE: RST_REQ_N has been released after heldNs: a press of 20 ms to 8 s is a reset request, which a module in
reset, in P1 or after an eject notice ignores (R600, R602). -/
def execResetInputRelease (heldNs : Nat) (s : State) : Host.Outcome State Fault Refusal :=
  if heldNs < 20000000 || heldNs > 8000000000 || s.pw.logic ≠ .run || s.pw.eject || s.pw.stuck then .next s
  else
    let s := (s.setPw { s.pw with rstCnt := satInc 0xFFFF s.pw.rstCnt }).countLogic 6
    .next (s.warmRestart 1 .reset)

/-- RESET_INPUT_STUCK: a press has reached 8 s (R601). -/
def execResetInputStuck (s : State) : Host.Outcome State Fault Refusal :=
  if s.pw.logic = .off || s.pw.logic = .held || s.pw.stuck then .next s
  else .next ((s.setPw { s.pw with stuck := true, stuckSeen := true }).countLogic 7).powerIrq

/-- RESET_INPUT_STUCK_CLEAR: the stuck input has been released for 100 ms (R601). -/
def execResetInputStuckClear (s : State) : Host.Outcome State Fault Refusal := .next (s.setPw { s.pw with stuck := false })

/-! ### The eject lever (R154, R155, R420, R604, R605) -/

/-- What a module that does not hand over does with its pending steps and parts on the notice (R154, R155, R604). -/
def State.ejectPending (s : State) : State :=
  if s.twn.st = .holder then
    let s := s.offerHandover .eject
    if s.twn.offer.isSome then s else s.ejectParts.ejectSteps
  else if s.roleActs then s.ejectParts.ejectSteps
  else s

/-- EJECT_NOTICE: the notice is accepted: STATUS carries EJECT, the field side is told, a holder hands over, every other module that
acts discards its parts and closes its steps (R604, R608). -/
def execEjectNotice (s : State) : Host.Outcome State Fault Refusal :=
  if s.pw.eject || s.pw.logic = .off || s.pw.logic = .held then .next s
  else
    let s := ((s.setPw { s.pw with eject := true }).countLogic 8).powerIrq
    let s := if s.pw.variantL then s else s.sendDown .ejectNotice
    .next s.ejectPending

/-- EJECT_WITHDRAW: 20 ms after the notice the module leaves every window (R604); a HIVE that is not twinned has closed every step
by then, those accepted since the notice too (R155). -/
def execEjectWithdraw (s : State) : Host.Outcome State Fault Refusal :=
  if !s.pw.eject then .next s
  else
    let s := if s.isHive && s.hiveLeaves && s.roleActs then s.ejectSteps else s
    .next (s.setPw { s.pw with ejectGone := true })

/-- EJECT_FORCE_SAFE: 40 ms after the notice every output not at SAFE takes its SAFE value, those of the Drone too, and pulse outputs
that still move stop at once (R604). -/
def execEjectForceSafe (s : State) : Host.Outcome State Fault Refusal :=
  if !s.pw.fieldUp || !(s.pw.eject || s.fio.ejected) then .next s
  else
    let d := s.drn
    let s : State := { s with
      fio := { s.fio with ejected := true }
      drn := { d with hsCmd := 0, takeDue := false, loops := tmap {} (fun r => { r with cmd := false }) d.loops } }
    let s := (List.range 96).foldl (fun (s : State) i =>
      if (tget {} s.fio.hold i : HoldRt).atSafe then s else s.toSafe i s.time.shadow.ns) s
    .next ((List.range 16).foldl (fun s p => if (s.pulRt p).moving || decide ((s.pulRt p).rate ≠ 0) then s.pulStop p else s) s)

/-- EJECT_LEVER_RETURNED: EJECT_N has been high for 1 s with both presence contacts asserted: a warm restart with cause 8 (R605). -/
def execEjectLeverReturned (s : State) : Host.Outcome State Fault Refusal :=
  if !s.pw.eject || !s.pw.pres || (!s.pw.variantL && !s.pw.presFx) || s.pw.logic = .off then .next s
  else .next (State.holdLogic (State.powerIrq (s.setPw { s.pw with eject := false, ejectGone := false })) false 8)

/-! ### The field reference (R25 to R27) -/

/-- FIELD_REF_LOST: no edge for 200 ns: the field side runs on its backup oscillator (R25, R27). -/
def execFieldRefLost (s : State) : Host.Outcome State Fault Refusal :=
  if !s.pw.fieldUp || s.pw.frefFb then .next { s with pw := { s.pw with frefReturn := false } }
  else
    let s := s.setPw { s.pw with
      frefFb := true, frefFbSeen := true, frefReturn := false, clkFbCnt := satInc 0xFFFF s.pw.clkFbCnt }
    .next ((s.countLedger 13).fieldRaise 0x46 1)

/-- FIELD_REF_RESTORED: FIELD_REF has been whole for 1 ms and the field PLL locked: the return is due at the next conversion-slot
boundary (R27). -/
def execFieldRefRestored (s : State) : Host.Outcome State Fault Refusal :=
  .next (if s.pw.fieldUp && s.pw.frefFb then s.setPw { s.pw with frefReturn := true } else s)

/-- FIELD_REF_SWITCH_BACK: at that boundary the field side returns to FIELD_REF (R27). -/
def execFieldRefSwitchBack (s : State) : Host.Outcome State Fault Refusal :=
  if s.pw.frefFb && s.pw.frefReturn then
    .next ((s.setPw { s.pw with frefFb := false, frefReturn := false }).fieldRaise 0x46 0)
  else .next s

/-! ### Memory errors (R33, R34, R39) -/

/-- SCRUB: a pass of the scrubber has corrected so many words (R33). -/
def execScrub (corrected : Nat) (s : State) : Host.Outcome State Fault Refusal :=
  if !s.logicAwake then .next s
  else .next (s.setPw { s.pw with
    ceCnt := satAdd 0xFFFF s.pw.ceCnt corrected, ceSecond := s.pw.ceSecond + corrected })

/-- SRAM_UNCORRECTABLE: in banks 8 to 31 a warm restart with cause 4; in banks 0 to 7 the retention region is invalid and 0x3E is
raised (R34). -/
def execSramUncorrectable (bank : Fin 32) (s : State) : Host.Outcome State Fault Refusal :=
  if !s.logicAwake then .next s
  else
    let s := (s.setPw { s.pw with ueCnt := satInc 0xFFFF s.pw.ueCnt }).countLogic 14
    if bank.val < 8 then .next (State.raise (s.setPw { s.pw with retention := false, retInval := true }) 0x3E 0)
    else .next (s.warmRestart 4 .memory)

/-- LPDDR5_LINK_ERROR: on working memory a warm restart with cause 4, on the Bog a flag on the record it met (R39, R358). -/
def execLpddr5LinkError (at_ : LinkErrorAt) (s : State) : Host.Outcome State Fault Refusal :=
  if !s.logicAwake then .next s
  else match at_ with
    | .working => .next (s.warmRestart 4 .memory)
    | .bog r offset => .next (s.bogLinkError r.val offset)

end Sys2Proof.Machine
end

