-- ==== Sys2Proof/Machine/Dispatch.lean ====
section
/-! DEFINITION. The dispatch: one arm per constructor of Instr, each one direct call of that command's meaning. -/

namespace Sys2Proof.Machine

def exec (i : Instr) (s : State) : Host.Outcome State Fault Refusal :=
  match i with
  | .logicPowerUp => Sys2Proof.Machine.execLogicPowerUp s
  | .logicResetRelease => Sys2Proof.Machine.execLogicResetRelease s
  | .v12OutOfRange => Sys2Proof.Machine.execV12OutOfRange s
  | .presenceRelease side => Sys2Proof.Machine.execPresenceRelease side s
  | .fieldPowerGood => Sys2Proof.Machine.execFieldPowerGood s
  | .fieldPowerLoss => Sys2Proof.Machine.execFieldPowerLoss s
  | .peatLoss => Sys2Proof.Machine.execPeatLoss s
  | .holdupChange holdupOk v12Mv => Sys2Proof.Machine.execHoldupChange holdupOk v12Mv s
  | .pwrfail => Sys2Proof.Machine.execPwrfail s
  | .pllLockLoss => Sys2Proof.Machine.execPllLockLoss s
  | .logicBootVerified slotOk retentionOk => Sys2Proof.Machine.execLogicBootVerified slotOk retentionOk s
  | .resetInputRelease heldNs => Sys2Proof.Machine.execResetInputRelease heldNs s
  | .resetInputStuck => Sys2Proof.Machine.execResetInputStuck s
  | .resetInputStuckClear => Sys2Proof.Machine.execResetInputStuckClear s
  | .ejectNotice => Sys2Proof.Machine.execEjectNotice s
  | .ejectWithdraw => Sys2Proof.Machine.execEjectWithdraw s
  | .ejectForceSafe => Sys2Proof.Machine.execEjectForceSafe s
  | .ejectLeverReturned => Sys2Proof.Machine.execEjectLeverReturned s
  | .logicOvertemp => Sys2Proof.Machine.execLogicOvertemp s
  | .restart pair => Sys2Proof.Machine.execRestart pair s
  | .restartReset => Sys2Proof.Machine.execRestartReset s
  | .fieldRefLost => Sys2Proof.Machine.execFieldRefLost s
  | .fieldRefRestored => Sys2Proof.Machine.execFieldRefRestored s
  | .fieldRefSwitchBack => Sys2Proof.Machine.execFieldRefSwitchBack s
  | .downlinkTimeMark => Sys2Proof.Machine.execDownlinkTimeMark s
  | .downlinkFrame valid => Sys2Proof.Machine.execDownlinkFrame valid s
  | .uplinkFrame valid => Sys2Proof.Machine.execUplinkFrame valid s
  | .logicSideAbsent => Sys2Proof.Machine.execLogicSideAbsent s
  | .fieldSideAbsent => Sys2Proof.Machine.execFieldSideAbsent s
  | .scrub corrected => Sys2Proof.Machine.execScrub corrected s
  | .sramUncorrectable bank => Sys2Proof.Machine.execSramUncorrectable bank s
  | .lpddr5LinkError at_ => Sys2Proof.Machine.execLpddr5LinkError at_ s
  | .referenceFrame port ref stamp echo => Sys2Proof.Machine.execReferenceFrame port ref stamp echo s
  | .referenceTimeout => Sys2Proof.Machine.execReferenceTimeout s
  | .ptpMessage port m => Sys2Proof.Machine.execPtpMessage port m s
  | .ptpMessageSend port mac => Sys2Proof.Machine.execPtpMessageSend port mac s
  | .tb0Restep => Sys2Proof.Machine.execTb0Restep s
  | .timeSet pair => Sys2Proof.Machine.execTimeSet pair s
  | .pulseOutputArm n w => Sys2Proof.Machine.execPulseOutputArm n w s
  | .pulseOutputDisarm n w => Sys2Proof.Machine.execPulseOutputDisarm n w s
  | .pulseOutputEdge n => Sys2Proof.Machine.execPulseOutputEdge n s
  | .pcieLinkUp speed => Sys2Proof.Machine.execPcieLinkUp speed s
  | .pcieLinkDown => Sys2Proof.Machine.execPcieLinkDown s
  | .pcieHotReset => Sys2Proof.Machine.execPcieHotReset s
  | .functionLevelReset => Sys2Proof.Machine.execFunctionLevelReset s
  | .busMasterDisable => Sys2Proof.Machine.execBusMasterDisable s
  | .badAccess write => Sys2Proof.Machine.execBadAccess write s
  | .ringsEnSet => Sys2Proof.Machine.execRingsEnSet s
  | .ringsEnClear => Sys2Proof.Machine.execRingsEnClear s
  | .ringEnable pair w => Sys2Proof.Machine.execRingEnable pair w s
  | .ringReset pair => Sys2Proof.Machine.execRingReset pair s
  | .submissionDoorbell pair v => Sys2Proof.Machine.execSubmissionDoorbell pair v s
  | .completionDoorbell pair v => Sys2Proof.Machine.execCompletionDoorbell pair v s
  | .descriptorFetch pair r => Sys2Proof.Machine.execDescriptorFetch pair r s
  | .hostReadCompletion pair r => Sys2Proof.Machine.execHostReadCompletion pair r s
  | .hostReadTimeout pair fetch => Sys2Proof.Machine.execHostReadTimeout pair fetch s
  | .hostReadGrant => Sys2Proof.Machine.execHostReadGrant s
  | .heldCompletionFlush pair => Sys2Proof.Machine.execHeldCompletionFlush pair s
  | .msixModerationTimeout v => Sys2Proof.Machine.execMsixModerationTimeout v s
  | .msixUnmask v => Sys2Proof.Machine.execMsixUnmask v s
  | .tableRead pair => Sys2Proof.Machine.execTableRead pair s
  | .readOnlyTableLoad pair => Sys2Proof.Machine.execReadOnlyTableLoad pair s
  | .eventMask pair => Sys2Proof.Machine.execEventMask pair s
  | .tsqRead pair => Sys2Proof.Machine.execTsqRead pair s
  | .updateStatus pair => Sys2Proof.Machine.execUpdateStatus pair s
  | .plantSend pair => Sys2Proof.Machine.execPlantSend pair s
  | .rxBuffer pair => Sys2Proof.Machine.execRxBuffer pair s
  | .recordBuffer pair => Sys2Proof.Machine.execRecordBuffer pair s
  | .recordRead pair => Sys2Proof.Machine.execRecordRead pair s
  | .step pair => Sys2Proof.Machine.execStep pair s
  | .stepCancel pair => Sys2Proof.Machine.execStepCancel pair s
  | .stepFlush pair => Sys2Proof.Machine.execStepFlush pair s
  | .stepDeferredAdmit pair => Sys2Proof.Machine.execStepDeferredAdmit pair s
  | .stepRelayReceive frame => Sys2Proof.Machine.execStepRelayReceive frame s
  | .stepCtrlReceive hdr entries => Sys2Proof.Machine.execStepCtrlReceive hdr entries s
  | .stepAnswerReceive hdr first rest => Sys2Proof.Machine.execStepAnswerReceive hdr first rest s
  | .stepReportReceive hdr reports => Sys2Proof.Machine.execStepReportReceive hdr reports s
  | .commitDecision seq => Sys2Proof.Machine.execCommitDecision seq s
  | .partDeadline seq => Sys2Proof.Machine.execPartDeadline seq s
  | .cancelCutOff seq => Sys2Proof.Machine.execCancelCutOff seq s
  | .reportDeadline seq => Sys2Proof.Machine.execReportDeadline seq s
  | .stepLaunch => Sys2Proof.Machine.execStepLaunch s
  | .stepDry => Sys2Proof.Machine.execStepDry s
  | .basePeriodStart enc => Sys2Proof.Machine.execBasePeriodStart enc s
  | .slotEvaluation slot => Sys2Proof.Machine.execSlotEvaluation slot s
  | .cmbClassWrite c w => Sys2Proof.Machine.execCmbClassWrite c w s
  | .slotTableLoad pair => Sys2Proof.Machine.execSlotTableLoad pair s
  | .microprogramLoad pair => Sys2Proof.Machine.execMicroprogramLoad pair s
  | .modelTableLoad pair => Sys2Proof.Machine.execModelTableLoad pair s
  | .taskRelease task => Sys2Proof.Machine.execTaskRelease task s
  | .scanEnd task ns => Sys2Proof.Machine.execScanEnd task ns s
  | .inputMapLoad pair => Sys2Proof.Machine.execInputMapLoad pair s
  | .outputMapLoad pair => Sys2Proof.Machine.execOutputMapLoad pair s
  | .loadImage pair => Sys2Proof.Machine.execLoadImage pair s
  | .exchange pair => Sys2Proof.Machine.execExchange pair s
  | .exchangeBoundary task => Sys2Proof.Machine.execExchangeBoundary task s
  | .conversionSlot conv slot code cond checkFail => Sys2Proof.Machine.execConversionSlot conv slot code cond checkFail s
  | .channelTableLoad pair => Sys2Proof.Machine.execChannelTableLoad pair s
  | .scanListLoad pair => Sys2Proof.Machine.execScanListLoad pair s
  | .dacTableLoad pair => Sys2Proof.Machine.execDacTableLoad pair s
  | .coefficientLoad pair => Sys2Proof.Machine.execCoefficientLoad pair s
  | .dacCoefficientLoad pair => Sys2Proof.Machine.execDacCoefficientLoad pair s
  | .skewLoad pair => Sys2Proof.Machine.execSkewLoad pair s
  | .urgent pair => Sys2Proof.Machine.execUrgent pair s
  | .rotate pair => Sys2Proof.Machine.execRotate pair s
  | .rotationInterval => Sys2Proof.Machine.execRotationInterval s
  | .selfCalibrationEnd conv codes => Sys2Proof.Machine.execSelfCalibrationEnd conv codes s
  | .converterClrFault conv => Sys2Proof.Machine.execConverterClrFault conv s
  | .calMeasure pair => Sys2Proof.Machine.execCalMeasure pair s
  | .calMeasureEnd codes => Sys2Proof.Machine.execCalMeasureEnd codes s
  | .calMean pair => Sys2Proof.Machine.execCalMean pair s
  | .calSpread pair => Sys2Proof.Machine.execCalSpread pair s
  | .sampleRead pair => Sys2Proof.Machine.execSampleRead pair s
  | .fieldOutputInstant => Sys2Proof.Machine.execFieldOutputInstant s
  | .highSideTableLoad pair => Sys2Proof.Machine.execHighSideTableLoad pair s
  | .inputTableLoad pair => Sys2Proof.Machine.execInputTableLoad pair s
  | .encoderTableLoad pair => Sys2Proof.Machine.execEncoderTableLoad pair s
  | .pulseTableLoad pair => Sys2Proof.Machine.execPulseTableLoad pair s
  | .profileTableLoad pair => Sys2Proof.Machine.execProfileTableLoad pair s
  | .holdPolicyTableLoad pair => Sys2Proof.Machine.execHoldPolicyTableLoad pair s
  | .dutyPeriodStart out => Sys2Proof.Machine.execDutyPeriodStart out s
  | .hsCondition out cond present => Sys2Proof.Machine.execHsCondition out cond present s
  | .holdPolicyCycleEnd => Sys2Proof.Machine.execHoldPolicyCycleEnd s
  | .digitalInputTransition input level => Sys2Proof.Machine.execDigitalInputTransition input level s
  | .digitalInputAccept input => Sys2Proof.Machine.execDigitalInputAccept input s
  | .encoderCapture enc zLine input => Sys2Proof.Machine.execEncoderCapture enc zLine input s
  | .encoderFault enc => Sys2Proof.Machine.execEncoderFault enc s
  | .axisMoveEnd axis => Sys2Proof.Machine.execAxisMoveEnd axis s
  | .hsClrFault pair => Sys2Proof.Machine.execHsClrFault pair s
  | .capRead pair => Sys2Proof.Machine.execCapRead pair s
  | .hsDiag pair => Sys2Proof.Machine.execHsDiag pair s
  | .regionTableLoad pair => Sys2Proof.Machine.execRegionTableLoad pair s
  | .lineTableLoad pair => Sys2Proof.Machine.execLineTableLoad pair s
  | .maskTableLoad pair => Sys2Proof.Machine.execMaskTableLoad pair s
  | .mireArm pair => Sys2Proof.Machine.execMireArm pair s
  | .force pair => Sys2Proof.Machine.execForce pair s
  | .mireStop pair => Sys2Proof.Machine.execMireStop pair s
  | .externalTrigger input rising stamp => Sys2Proof.Machine.execExternalTrigger input rising stamp s
  | .recordBufferFlush region => Sys2Proof.Machine.execRecordBufferFlush region s
  | .wagRun w => Sys2Proof.Machine.execWagRun w s
  | .hiveListenEnd => Sys2Proof.Machine.execHiveListenEnd s
  | .hiveBackoffEnd => Sys2Proof.Machine.execHiveBackoffEnd s
  | .basicCycleStart => Sys2Proof.Machine.execBasicCycleStart s
  | .headReferenceCopy => Sys2Proof.Machine.execHeadReferenceCopy s
  | .echoCheckFail ident => Sys2Proof.Machine.execEchoCheckFail ident s
  | .headWithdrawalEnd => Sys2Proof.Machine.execHeadWithdrawalEnd s
  | .headWdrnClear => Sys2Proof.Machine.execHeadWdrnClear s
  | .clashClr => Sys2Proof.Machine.execClashClr s
  | .upstreamSwitch => Sys2Proof.Machine.execUpstreamSwitch s
  | .windowSwap win => Sys2Proof.Machine.execWindowSwap win s
  | .exclusiveWindowStart win => Sys2Proof.Machine.execExclusiveWindowStart win s
  | .windowSlotStart win slot rival => Sys2Proof.Machine.execWindowSlotStart win slot rival s
  | .exclusiveWindowEnd win sof => Sys2Proof.Machine.execExclusiveWindowEnd win sof s
  | .dataFrame hdr words => Sys2Proof.Machine.execDataFrame hdr words s
  | .statusFrame hdr status => Sys2Proof.Machine.execStatusFrame hdr status s
  | .probe hdr ident stamp => Sys2Proof.Machine.execProbe hdr ident stamp s
  | .probeResp hdr ident prober turnaround roundTrip => Sys2Proof.Machine.execProbeResp hdr ident prober turnaround roundTrip s
  | .safetyFrame hdr bytes => Sys2Proof.Machine.execSafetyFrame hdr bytes s
  | .guardianCut win => Sys2Proof.Machine.execGuardianCut win s
  | .trunkAligned port => Sys2Proof.Machine.execTrunkAligned port s
  | .trunkAlignmentLost port => Sys2Proof.Machine.execTrunkAlignmentLost port s
  | .trunkDqSend port t1 => Sys2Proof.Machine.execTrunkDqSend port t1 s
  | .trunkDqReceive port seq active turnaround => Sys2Proof.Machine.execTrunkDqReceive port seq active turnaround s
  | .trunkDrReceive port seq turnaround t4 => Sys2Proof.Machine.execTrunkDrReceive port seq turnaround t4 s
  | .trunkForward port hdr => Sys2Proof.Machine.execTrunkForward port hdr s
  | .modeChange pair => Sys2Proof.Machine.execModeChange pair s
  | .modeChangeDecision => Sys2Proof.Machine.execModeChangeDecision s
  | .stationStat pair => Sys2Proof.Machine.execStationStat pair s
  | .scheduleLoad pair => Sys2Proof.Machine.execScheduleLoad pair s
  | .receiveMapLoad pair => Sys2Proof.Machine.execReceiveMapLoad pair s
  | .stationTableLoad pair => Sys2Proof.Machine.execStationTableLoad pair s
  | .segmentTableLoad pair => Sys2Proof.Machine.execSegmentTableLoad pair s
  | .snap n final records intact => Sys2Proof.Machine.execSnap n final records intact s
  | .hash n h => Sys2Proof.Machine.execHash n h s
  | .change seq n desc data => Sys2Proof.Machine.execChange seq n desc data s
  | .changeAck seq => Sys2Proof.Machine.execChangeAck seq s
  | .state n last bytes => Sys2Proof.Machine.execState n last bytes s
  | .idle => Sys2Proof.Machine.execIdle s
  | .twinLinkLost => Sys2Proof.Machine.execTwinLinkLost s
  | .twinLinkUp partner => Sys2Proof.Machine.execTwinLinkUp partner s
  | .leaseRequestSend => Sys2Proof.Machine.execLeaseRequestSend s
  | .request path role member seq => Sys2Proof.Machine.execRequest path role member seq s
  | .grant path seq => Sys2Proof.Machine.execGrant path seq s
  | .relinquish path member n => Sys2Proof.Machine.execRelinquish path member n s
  | .offer n => Sys2Proof.Machine.execOffer n s
  | .accept n => Sys2Proof.Machine.execAccept n s
  | .issuerOccupancyEnd issuer => Sys2Proof.Machine.execIssuerOccupancyEnd issuer s
  | .actUntil => Sys2Proof.Machine.execActUntil s
  | .witnessSilent => Sys2Proof.Machine.execWitnessSilent s
  | .handover => Sys2Proof.Machine.execHandover s
  | .handoverAbandoned => Sys2Proof.Machine.execHandoverAbandoned s
  | .resync => Sys2Proof.Machine.execResync s
  | .standbyReplay => Sys2Proof.Machine.execStandbyReplay s
  | .changeAckTimeout seq => Sys2Proof.Machine.execChangeAckTimeout seq s
  | .takeover => Sys2Proof.Machine.execTakeover s
  | .witnessTableLoad pair => Sys2Proof.Machine.execWitnessTableLoad pair s
  | .sealChange v => Sys2Proof.Machine.execSealChange v s
  | .safetyInputChange input chanB closed => Sys2Proof.Machine.execSafetyInputChange input chanB closed s
  | .safetyInputDiscTimeout input => Sys2Proof.Machine.execSafetyInputDiscTimeout input s
  | .testPulse srcB follows => Sys2Proof.Machine.execTestPulse srcB follows s
  | .safetyFrameSend => Sys2Proof.Machine.execSafetyFrameSend s
  | .safetyPairCopy bytes framed => Sys2Proof.Machine.execSafetyPairCopy bytes framed s
  | .safetyPathAbsence station missing => Sys2Proof.Machine.execSafetyPathAbsence station missing s
  | .safetyWatchExpiry station path => Sys2Proof.Machine.execSafetyWatchExpiry station path s
  | .disagree group => Sys2Proof.Machine.execDisagree group s
  | .guardSafetyCycle => Sys2Proof.Machine.execGuardSafetyCycle s
  | .manualRestart group pulseMs => Sys2Proof.Machine.execManualRestart group pulseMs s
  | .onmaxCut out => Sys2Proof.Machine.execOnmaxCut out s
  | .offminEnd out => Sys2Proof.Machine.execOffminEnd out s
  | .rateDelayEnd out => Sys2Proof.Machine.execRateDelayEnd out s
  | .hsCountsOff out => Sys2Proof.Machine.execHsCountsOff out s
  | .fenGateVerified => Sys2Proof.Machine.execFenGateVerified s
  | .guardSelfTestDone passed test => Sys2Proof.Machine.execGuardSelfTestDone passed test s
  | .elementTest out passed test => Sys2Proof.Machine.execElementTest out passed test s
  | .droneCycleStart => Sys2Proof.Machine.execDroneCycleStart s
  | .droneInputLatch => Sys2Proof.Machine.execDroneInputLatch s
  | .droneOutputInstant => Sys2Proof.Machine.execDroneOutputInstant s
  | .holdLoopRelease loop => Sys2Proof.Machine.execHoldLoopRelease loop s
  | .canEnable c w => Sys2Proof.Machine.execCanEnable c w s
  | .canSend pair => Sys2Proof.Machine.execCanSend pair s
  | .canFrameReceive c frame crcOk start => Sys2Proof.Machine.execCanFrameReceive c frame crcOk start s
  | .canFrameSent c start => Sys2Proof.Machine.execCanFrameSent c start s
  | .canState c tec rec_ => Sys2Proof.Machine.execCanState c tec rec_ s
  | .canRecoveryEnd c => Sys2Proof.Machine.execCanRecoveryEnd c s
  | .messageAtLaunch port => Sys2Proof.Machine.execMessageAtLaunch port s
  | .messageRxFlush port queue => Sys2Proof.Machine.execMessageRxFlush port queue s
  | .hpAck pair => Sys2Proof.Machine.execHpAck pair s
  | .recover pair => Sys2Proof.Machine.execRecover pair s
  | .uartEnable u w => Sys2Proof.Machine.execUartEnable u w s
  | .uartSend pair => Sys2Proof.Machine.execUartSend pair s
  | .uartSendStart u => Sys2Proof.Machine.execUartSendStart u s
  | .uartSendEnd u => Sys2Proof.Machine.execUartSendEnd u s
  | .uartCharacter u ch ninth parityErr framingErr own start => Sys2Proof.Machine.execUartCharacter u ch ninth parityErr framingErr own start s
  | .uartGap u => Sys2Proof.Machine.execUartGap u s
  | .pbSend pair => Sys2Proof.Machine.execPbSend pair s
  | .pbReady => Sys2Proof.Machine.execPbReady s
  | .pbCycleEnd data => Sys2Proof.Machine.execPbCycleEnd data s
  | .busTimeout => Sys2Proof.Machine.execBusTimeout s
  | .gpConfigWrite reg w => Sys2Proof.Machine.execGpConfigWrite reg w s
  | .gpInputChange states => Sys2Proof.Machine.execGpInputChange states s
  | .gpWrite pair => Sys2Proof.Machine.execGpWrite pair s
  | .gpRead pair => Sys2Proof.Machine.execGpRead pair s
  | .filterTableLoad pair => Sys2Proof.Machine.execFilterTableLoad pair s
  | .hello seq => Sys2Proof.Machine.execHello seq s
  | .stage seq offset bytes => Sys2Proof.Machine.execStage seq offset bytes s
  | .install seq => Sys2Proof.Machine.execInstall seq s
  | .installDone => Sys2Proof.Machine.execInstallDone s
  | .activate seq fieldRst => Sys2Proof.Machine.execActivate seq fieldRst s
  | .activationCommit => Sys2Proof.Machine.execActivationCommit s
  | .serviceStatus seq => Sys2Proof.Machine.execServiceStatus seq s
  | .token seq bytes => Sys2Proof.Machine.execToken seq bytes s
  | .discard seq => Sys2Proof.Machine.execDiscard seq s
  | .ledger seq what first count => Sys2Proof.Machine.execLedger seq what first count s
  | .expect seq entries => Sys2Proof.Machine.execExpect seq entries s
  | .usbBusReset => Sys2Proof.Machine.execUsbBusReset s
  | .ledgerSample inputs => Sys2Proof.Machine.execLedgerSample inputs s
  | .ledgerCommit => Sys2Proof.Machine.execLedgerCommit s
  | .lockSet w => Sys2Proof.Machine.execLockSet w s
  | .registerWrite offset w => Sys2Proof.Machine.execRegisterWrite offset w s
  | .pwrfailRelease => Sys2Proof.Machine.execPwrfailRelease s
  | .plantMessageReceive port bytes => Sys2Proof.Machine.execPlantMessageReceive port bytes s

end Sys2Proof.Machine
end

