-- ==== Sys2Proof/Machine/RegView.lean ====
section
/-! DEFINITION. What the module shows without a command: the doorbells in BAR2 (R91), the LEASE_OUT contact (R443), the
pending bits of BAR4 (R79, R110), and what BAR0 registers read as: the host-writable bits as they are stored, and the read-only and W1C fields
mirrored from the parts of the State that own them (R12, R13, R609 to R616). A read changes nothing, so no row of the
table reads a register; this view says what each State shows. -/

namespace Sys2Proof.Machine

/-- A register whose fields (highest bit, lowest bit, value) are given; the other bits are 0. -/
def pack (l : List (Nat × Nat × Nat)) : Word := l.foldl (fun w x => putFld w x.1 x.2.1 x.2.2) 0

/-- A 32-bit counter as it reads. -/
def cnt32 (n : Nat) : Word := BitVec.ofNat 32 n

/-- Two 16-bit counters as they read. -/
def cnt16 (hi lo : Nat) : Word := pack [(31, 16, hi), (15, 0, lo)]

/-- The bits of a list of numbers below n that satisfy p. -/
def bitsWhere (n : Nat) (p : Nat → Bool) : Nat := ((List.range n).filter p).foldl (fun w i => w + 2 ^ i) 0

/-! ### SYS and CLK (R593 to R616) -/

/-- Registers of the SYS block. -/
def State.readSys (s : State) (off : Nat) : Word :=
  let p := s.pw
  if off = 0x0000 then pack [(31, 16, 0x4096), (15, 8, if p.variantL then 0x4C else 0x46), (7, 4, p.gradeE.toNat), (3, 0, 2)]
  else if off = 0x0004 then tget 0 s.lcy.active.versions 1
  else if off = 0x0008 then pack [(31, 31, (!p.variantL).toNat), (30, 24, 96), (23, 16, 8), (12, 0, 4096)]
  else if off = 0x000C then pack [(31, 24, 16), (23, 16, 8), (15, 0, 12288)]
  else if off = 0x0010 then pack [(15, 0, p.lock.toNat)]
  else if off = 0x0018 then pack [(1, 1, p.lockWrSeen.toNat), (0, 0, p.cfgDone.toNat)]
  else if off = 0x0080 then
    pack [(31, 31, p.retValid.toNat), (30, 30, p.retInval.toNat), (23, 16, p.repairMax), (15, 8, p.repairBanks)]
  else if off = 0x0084 then cnt16 p.ueCnt p.ceCnt
  else if off = 0x0100 then s.reg off
  else if off = 0x0104 then
    pack [(7, 7, p.holdupLowSeen.toNat), (6, 6, p.peatLossSeen.toNat), (5, 5, p.eject.toNat), (4, 4, p.pwrfail.toNat),
      (3, 3, p.holdupLow.toNat), (2, 2, (p.fieldPresent && !p.variantL).toNat), (1, 1, p.pres.toNat), (0, 0, p.v12Ok.toNat)]
  else if off = 0x0108 then cnt16 s.ledgerView.vbakMv.toNat p.v12Mv.toNat
  else if off = 0x010C then
    pack [(31, 16, p.rstCnt), (8, 8, p.rstSeen.toNat), (7, 7, p.stuckSeen.toNat), (6, 6, p.stuck.toNat), (5, 5, p.warm.toNat),
      (3, 0, p.cause)]
  else 0

/-- Registers of the CLK block. -/
def State.readClk (s : State) (off : Nat) : Word :=
  let p := s.pw
  let f := p.fieldPresent && !p.variantL
  if off = 0x1000 then 0x017D7840
  else if off = 0x1004 then pack [(23, 16, if p.variantL then 0 else 16), (15, 8, 128), (7, 0, 80)]
  else if off = 0x1008 then pack [(31, 16, 20000), (7, 0, 8)]
  else if off = 0x1010 then
    pack [(31, 16, p.clkFbCnt), (5, 5, p.frefFbSeen.toNat), (4, 4, p.frefFb.toNat), (3, 3, (f && p.fpllLock).toNat),
      (2, 2, p.mpllLock.toNat), (1, 1, p.lpllLock.toNat), (0, 0, f.toNat)]
  else 0

/-! ### TIM and HIF (R43 to R118) -/

/-- Registers of the TIM block. -/
def State.readTim (s : State) (off : Nat) : Word :=
  let t := s.time
  if off = 0x2004 then
    pack [(31, 24, t.tb1Resteps), (15, 8, t.tb2Epoch.toNat), (4, 4, t.lockLostSeen.toNat), (3, 3, t.tb0StepSeen.toNat),
      (2, 2, t.tb3Lock.toNat), (1, 1, t.tb1Lock.toNat), (0, 0, t.tb0Lock.toNat)]
  else if off = 0x2008 then pack [(31, 16, t.tsqOvf), (4, 0, t.tsq.length)]
  else if off = 0x2010 then bitsOf 32 t.tb0.rate
  else if off = 0x2014 then bitsOf 32 t.tb1.rate
  else if off = 0x2018 then bitsOf 32 t.tb3.rate
  else if off = 0x201C then (if s.isHive then 0 else bitsOf 32 t.tb1Offs)
  else if inGroup 0x2100 0x20 4 0 off then
    let r : PulseRt := tget {} t.pulses (groupIx 0x2100 0x20 off)
    putFld (putFld (putFld (putFld (s.reg off) 0 0 r.armed.toNat) 5 5 r.fired.toNat) 6 6 r.past.toNat) 7 7 r.cfgErr.toNat
  else s.reg off

/-- Registers of HIF_RING_n: BASE and the configuration as stored, ENABLE as the pair stands, STATE and the counters; rings 64
to 127 mirror the pair's ENABLE and state (R84, R87, R90). -/
def State.readRing (s : State) (off : Nat) : Word :=
  let n := groupIx 0x3800 0x10 off
  let r := s.pairRt (n % 64)
  let st := match r.st with | .disabled => 0 | .running => 1 | .error => 2 | .resetting => 3
  if off % 0x10 = 8 then putFld (s.reg off) 31 31 (decide (r.st = .running) || decide (r.st = .error)).toNat
  else if off % 0x10 = 0xC then pack [(25, 24, st), (23, 16, r.errCode.toNat), (15, 0, r.dbIgn)]
  else s.reg off

/-- Registers of the HIF block. -/
def State.readHif (s : State) (off : Nat) : Word :=
  let h := s.hif
  if off = 0x3004 then
    pack [(15, 9, (h.pairs.filter (fun x => decide (x.2.st = .error))).length), (8, 8, h.flrSeen.toNat),
      (7, 7, h.badAccSeen.toNat), (6, 6, h.noncanonSeen.toNat), (5, 5, h.linkUp.toNat), (3, 0, h.linkSpeed)]
  else if off = 0x300C then pack [(31, 16, h.stallCnt), (14, 8, h.peak), (6, 0, h.outstanding)]
  else if off = 0x3010 then cnt32 h.cplLost
  else if off = 0x3014 then cnt32 h.evtLost
  else if off = 0x3018 then pack [(31, 24, 128), (23, 16, 128), (15, 8, 96), (7, 0, 9)]
  else if off = 0x301C then 0x40961F5D
  else if off = 0x3020 then 0x11800002
  else if decide (0x3800 ≤ off) && decide (off < 0x4000) then s.readRing off
  else s.reg off

/-! ### STP, CMB and BLK (R119 to R260) -/

/-- Registers of the STP block. -/
def State.readStp (s : State) (off : Nat) : Word :=
  let t := s.stp
  if off = 0x4000 then putBit (s.reg off) 0 s.roleHive
  else if off = 0x4008 then pack [(31, 31, t.dry.toNat), (22, 16, s.partCount), (14, 8, t.peak), (6, 0, t.steps.length)]
  else if off = 0x400C then pack [(31, 28, min 15 t.q), (22, 0, min 8388607 ((t.gH + 999) / 1000))]
  else if off = 0x4010 then cnt32 ((t.relay.map (fun x => if x.2.joined then x.2.d else 0)).foldl max 0)
  else if off = 0x4018 then cnt16 t.lateCnt t.unconfCnt
  else if off = 0x401C then t.accSeq
  else s.reg off

/-- Enabled slots whose supervision stands in a state. -/
def State.supIn (s : State) (x : SupSt) : Nat :=
  (s.cmb.slots.filter (fun k => rEn k.2 && decide ((s.cmb.slotRt k.1).sup.st = x))).length

/-- Registers of the CMB block. -/
def State.readCmb (s : State) (off : Nat) : Word :=
  let c := s.cmb
  if off = 0x5004 then pack [(24, 16, c.n % 500), (2, 2, c.ovrSeen.toNat), (1, 1, c.cfgErr.toNat), (0, 0, c.running.toNat)]
  else if off = 0x5008 then pack [(17, 0, c.peakCyc)]
  else if off = 0x500C then
    let on := c.slots.filter (fun k => rEn k.2)
    pack [(28, 16, (on.filter (fun k => decide (rHold k.2 ≠ 0x3F) && decide ((c.slotRt k.1).ho ≠ .handed))).length),
      (12, 0, on.length)]
  else if off = 0x5010 then cnt32 c.epoch.toNat
  else if off = 0x5014 then pack [(7, 0, c.epoch.toNat / 2 ^ 32)]
  else if off = 0x5018 then cnt16 c.hofailCnt c.ovrCnt
  else if off = 0x501C then cnt32 c.satCnt
  else if off = 0x5020 then
    let sec := s.time.t2 / 1000000000
    cnt32 (if sec = c.evalAt then c.evalRate else if sec = c.evalAt + 1 then c.evalSecond else 0)
  else if off = 0x5060 then pack [(28, 16, s.supIn .alarm), (12, 0, s.supIn .ride)]
  else if off = 0x5064 then pack [(28, 16, s.supIn .suspect), (12, 0, s.supIn .hold)]
  else if off = 0x5068 then cnt16 c.rideExpCnt c.rbFaultCnt
  else if off = 0x506C then cnt32 c.supDropCnt
  else s.reg off

/-- Register sub of BLK_TASK_k. -/
def State.readTask (s : State) (k sub : Nat) : Word :=
  let r := s.task k
  let st := match r.st with | .empty => 0 | .running => 1 | .stopped => 2
  if sub = 0x00 then
    pack [(31, 16, r.ovrRun), (7, 7, r.coldLast.toNat), (6, 4, r.core), (3, 3, r.exch.isSome.toNat), (2, 0, st)]
  else if sub = 0x04 then pack [(19, 0, iPeriod r.active)]
  else if sub = 0x08 then cnt32 (iId r.active)
  else if sub = 0x0C then cnt32 (iId r.inactive)
  else if sub = 0x10 then cnt32 (iWcet r.active)
  else if sub = 0x14 then cnt32 r.maxNs
  else if sub = 0x18 then cnt16 r.rtfCnt r.ovrCnt
  else if sub = 0x1C then pack [(17, 0, retNeed r.active)]
  else 0

/-- Registers of the BLK block. -/
def State.readBlk (s : State) (off : Nat) : Word :=
  if off = 0x6004 then
    pack [(31, 24, bitsWhere 8 (fun k => decide ((s.task k).st = .stopped))),
      (23, 16, bitsWhere 8 (fun k => decide ((s.task k).st = .running))), (4, 4, s.blk.warmStart.toNat), (2, 0, s.cores)]
  else if off = 0x6008 then pack [(17, 0, s.retUsed)]
  else if off = 0x600C then cnt16 s.blk.uevtDrop 0
  else if decide (0x6100 ≤ off) && decide (off < 0x6200) then s.readTask ((off - 0x6100) / 0x20) (off % 0x20)
  else s.reg off

/-! ### CNV, FIO and MIR (R261 to R361) -/

/-- Registers of the CNV block. -/
def State.readCnv (s : State) (off : Nat) : Word :=
  let c := s.cnv
  if off = 0x7004 then
    pack ((17, 15, match c.handover with | some h => h.group | none => 0) ::
      (List.range 5).map (fun k => (3 * k + 2, 3 * k, c.roles.getD k 7)))
  else if off = 0x700C then cnt16 c.abortCnt c.handoverCnt
  else if off = 0x7010 then cnt32 c.dropCnt
  else if off = 0x7014 then cnt32 s.seen.dacLate
  else if inGroup 0x7020 4 5 0 off then pack [(15, 0, tget 0 c.chkFail (groupIx 0x7020 4 off))]
  else s.reg off

/-- Registers of the FIO block. -/
def State.readFio (s : State) (off : Nat) : Word :=
  let trip (i : Nat) : Bool := (tget {} s.seen.hs i : HsRt).trip
  if off = 0x8004 then pack [(31, 16, s.seen.encFault.toNat), (4, 0, poolCount s.fio.claims 0x5000 24)]
  else if off = 0x8008 then cnt32 (bitsWhere 32 trip)
  else if off = 0x800C then cnt32 (bitsWhere 16 (fun i => trip (32 + i)))
  else if off = 0x8010 then cnt16 s.fio.capLost s.seen.tripCnt
  else s.reg off

/-- Registers of the MIR block. -/
def State.readMir (s : State) (off : Nat) : Word :=
  if off = 0x9004 then cnt16 (bitsWhere 16 (fun r => (s.regRt r).st.captures)) s.mir.done.toNat
  else if off = 0x9008 then cnt32 (s.totalRate s.mir.regions / 1000000)
  else if off = 0x900C then cnt32 s.mir.lost
  else if off = 0x9010 then cnt32 s.mir.eccCnt
  else s.reg off

/-! ### WAG and TWN (R362 to R465) -/

/-- LINK_STATE of WAG_STAT. -/
def LinkSt.code : LinkSt → Nat
  | .off => 0 | .listen => 1 | .backoff => 2 | .hive => 3 | .standby => 4 | .follow => 5 | .stopped => 6

/-- STATE of WAG_TRK_STATn. -/
def TrunkSt.code : TrunkSt → Nat
  | .down => 0 | .aligned => 1 | .measured => 2 | .forwarding => 3 | .tooLong => 4

/-- Registers of trunk port n. -/
def State.readTrunk (s : State) (n sub : Nat) : Word :=
  let t : TrunkRt := tget {} s.wag.trunks n
  if sub = 4 then pack [(31, 8, t.delay.toNat), (4, 4, t.active.toNat), (3, 0, t.st.code)]
  else if sub = 8 then cnt16 t.codeErr t.stomp
  else 0

/-- Registers of the WAG block. -/
def State.readWag (s : State) (off : Nat) : Word :=
  let g := s.wag
  if off = 0xA008 then
    pack [(31, 28, g.link.code), (21, 16, g.mpos), (11, 11, g.pend.toNat), (10, 8, g.nextMode), (2, 0, g.mode)]
  else if off = 0xA00C then g.cycle
  else if off = 0xA010 then
    pack [(28, 16, if s.isHive then g.joinedStns.length else 0), (12, 0, (g.stations.filter (fun x => x.2.stale)).length)]
  else if off = 0xA014 then cnt16 g.abandonCnt g.changeCnt
  else if off = 0xA018 then cnt16 g.collCnt g.foreignCnt
  else if off = 0xA01C then cnt32 g.seqGap
  else if off = 0xA020 then pack [(12, 0, (g.stations.filter (fun x => x.2.discord)).length)]
  else if off = 0xA404 then
    pack [(31, 31, g.refOk.toNat), (30, 30, s.isHead.toNat), (29, 24, g.depth), (23, 23, g.headWdrn.toNat), (22, 0, s.dropDelay)]
  else if inGroup 0xA410 0x10 2 4 off then s.readTrunk ((off - 0xA410) / 0x10) 4
  else if inGroup 0xA410 0x10 2 8 off then s.readTrunk ((off - 0xA410) / 0x10) 8
  else if off = 0xA430 then cnt16 g.cutCnt g.resyncCnt
  else if off = 0xA434 then pack [(23, 16, g.suppressed.length), (15, 0, g.clashCnt)]
  else if off = 0xA438 then cnt16 g.crcErr g.kindErr
  else if off = 0xA43C then cnt32 g.arbLost
  else s.reg off

/-- STATE of TWN_STAT. -/
def TwinSt.code : TwinSt → Nat
  | .solo => 0 | .forming => 1 | .standby => 2 | .unsynced => 3 | .taking => 4 | .holder => 5

/-- Registers of the TWN block. -/
def State.readTwn (s : State) (off : Nat) : Word :=
  let t := s.twn
  let live (e : Option Nat) : Bool := e.any (fun x => decide (s.time.t2 < x))
  if off = 0xB004 then
    pack [(14, 12, t.peerHealth.toNat), (10, 8, s.health.toNat), (6, 6, t.versionDiff.toNat), (5, 5, (live t.witEnd).toNat),
      (4, 4, (live t.peerEnd).toNat), (3, 3, t.linkUp.toNat), (2, 0, t.st.code)]
  else if off = 0xB018 then cnt16 t.takeoverCnt t.hashMisCnt
  else if off = 0xB01C then cnt16 t.linkLossCnt t.snapFaultCnt
  else s.reg off

/-! ### SAF, DRN, LEG, LCY (R466 to R591) -/

/-- Registers of the SAF block, a mirror filled from the uplink: all 0 while the field side is absent (R18). -/
def State.readSaf (s : State) (off : Nat) : Word :=
  let f := s.seen.saf
  if !s.pw.fieldPresent then 0
  else if off = 0xC000 then
    pack [(31, 16, f.check), (3, 3, f.pairUp.toNat), (2, 2, f.guardFault.toNat), (1, 1, f.cfgFault.toNat), (0, 0, f.guardRun.toNat)]
  else if off = 0xC004 then cnt16 f.sealPwrUp.toNat f.sealNow.toNat
  else if off = 0xC008 then
    cnt16 (bitsWhere 16 (fun g => (f.group g).fgPermit)) (bitsWhere 16 (fun g => (f.group g).guardPermit))
  else if off = 0xC00C then cnt16 (bitsWhere 16 (fun g => (f.group g).wait)) f.demandBits
  else if off = 0xC010 then cnt32 f.sinBits
  else if off = 0xC014 then
    pack [(26, 18, (f.rows.filter (fun x => rowRetired x.2)).length), (17, 9, f.active.length),
      (8, 0, 256 - (f.rows.filter (fun x => rowWritten x.2)).length)]
  else if off = 0xC018 then cnt16 f.cutCnt f.refuseCnt
  else if off = 0xC01C then cnt16 f.mismatchCnt f.absentCnt
  else if off = 0xC020 then cnt16 f.disagreeCnt f.discrepCnt
  else 0

/-- The phase of R519: P0 from field power good until the logic side is released from reset or is present, P1 until its time marks flow
after the boot, P2, P3. -/
def State.phaseNow (s : State) : Nat :=
  match s.pw.logic with
  | .off => 0 | .held => 0 | .boot => 1 | .failed => 1
  | .run => if s.pw.p3 then 3 else if !s.pw.logicAbsent then 2 else if s.pw.p0 then 0 else 1

/-- STATE of DRN_STAT. -/
def State.droneCode (s : State) : Nat :=
  let d := s.seen.drn
  match d.st with
  | .idle => 0 | .failed => 3 | .notFitted => 4
  | .run => if d.hsCmd ≠ 0 || d.loops.any (fun x => x.2.cmd) then 2 else 1

/-- Registers of the DRN block: on an AXQ-4096-L STATE reads 4 and all else 0; all 0 while the field side is absent. -/
def State.readDrn (s : State) (off : Nat) : Word :=
  let d := s.seen.drn
  if s.pw.variantL then (if off = 0xD000 then 4 else 0)
  else if !s.pw.fieldPresent then 0
  else if off = 0xD000 then
    pack [(21, 16, (d.loops.filter (fun x => x.2.cmd)).length), (7, 7, s.twn.fieldMember.toNat), (6, 6, d.imgFault.toNat),
      (5, 4, s.phaseNow), (2, 0, s.droneCode)]
  else if off = 0xD004 then cnt32 (bitsWhere 32 (fun l => (tget {} d.loops l : LoopRt).cmd))
  else if off = 0xD008 then cnt32 d.hsCmd.toNat
  else if off = 0xD00C then pack [(15, 0, d.hsCmd.toNat / 2 ^ 32)]
  else if off = 0xD010 then cnt32 (leAt d.image 32 4)
  else if off = 0xD014 then cnt16 d.takeCnt d.stkFault
  else if off = 0xD018 then d.cycle
  else if off = 0xD01C then cnt32 d.rsMs
  else 0

/-- STATE of LEG_CANn. -/
def CanSt.code : CanSt → Nat
  | .off => 0 | .active => 1 | .passive => 2 | .busOff => 3 | .recovering => 4

/-- Register sub of LEG_CANn. -/
def State.readCan (s : State) (c sub off : Nat) : Word :=
  let r := s.canRt c
  if sub = 0x00 then putBit (s.reg off) 0 (decide (r.st ≠ .off))
  else if sub = 0x1C then
    pack [(31, 24, if r.st = .busOff then 255 else r.tec), (23, 16, r.rec_), (4, 4, r.ndat.toNat), (3, 3, r.cfgErr.toNat),
      (2, 0, r.st.code)]
  else if sub = 0x20 then cnt16 r.rxLost r.hpOvwr
  else if sub = 0x24 then cnt16 r.busoffCnt r.staleCnt
  else s.reg off

/-- Registers of the LEG block. -/
def State.readLeg (s : State) (off : Nat) : Word :=
  if off = 0xE004 then pack [(15, 8, s.leg.gpOut.toNat), (7, 0, s.gpRead.toNat)]
  else if decide (0xE100 ≤ off) && decide (off < 0xE200) then s.readCan ((off - 0xE100) / 0x40) (off % 0x40) off
  else if inGroup 0xE200 0x20 4 0 off then
    let r := s.uartRt (groupIx 0xE200 0x20 off)
    putBit (putBit (s.reg off) 31 r.cfgErr) 0 r.on
  else if inGroup 0xE200 0x20 4 0xC off then
    let r := s.uartRt (groupIx 0xE200 0x20 off)
    cnt16 r.errCnt r.rxLost
  else if off = 0xE320 then cnt16 s.leg.pbTimeouts 0
  else s.reg off

/-- Registers of the LCY block. -/
def State.readLcy (s : State) (off : Nat) : Word :=
  let l := s.lcy
  let owned := decide (l.st = .ownerOpen) || decide (l.st = .ownerLocked)
  if off = 0xF000 then
    pack [(31, 11, l.count), (10, 8, if owned then l.ownerKeys.length else 0), (7, 7, l.endFuse.toNat), (6, 6, (l.portOpen true).toNat),
      (5, 5, (l.portOpen false).toNat), (2, 0, l.st.code)]
  else if inGroup 0xF004 4 4 0 off then cnt32 (s.pw.serial.toNat / 2 ^ (32 * groupIx 0xF004 4 off))
  else if off = 0xF014 then pack [(0, 0, l.minSig.toNat)]
  else if off = 0xF104 then s.updStat
  else if off = 0xF108 then cnt32 l.svnMin
  else if off = 0xF10C then l.active.pkgId
  else if off = 0xF110 then cnt16 l.fallbackCnt l.actCnt
  else if off = 0xF200 then s.ledgerView.seq
  else if off = 0xF204 then
    let p := s.ledgerView
    pack [(15, 8, (p.ring.filter (fun x => decide (x.2.seq ≠ 0))).length), (3, 3, p.lost.toNat), (2, 2, p.recovered.toNat),
      (1, 1, p.pending.toNat), (0, 0, (p.live0.isSome && p.live1.isSome).toNat)]
  else s.reg off

/-- What the register at a BAR0 offset reads as; the CNV, FIO and SAF blocks read 0 on an AXQ-4096-L (R609, R610). -/
def State.readReg (s : State) (off : Nat) : Word :=
  let b := blockOf off
  if s.pw.variantL && (decide (b = 7) || decide (b = 8) || decide (b = 12)) then 0
  else match b with
    | 0 => s.readSys off
    | 1 => s.readClk off
    | 2 => s.readTim off
    | 3 => s.readHif off
    | 4 => s.readStp off
    | 5 => s.readCmb off
    | 6 => s.readBlk off
    | 7 => s.readCnv off
    | 8 => s.readFio off
    | 9 => s.readMir off
    | 10 => s.readWag off
    | 11 => s.readTwn off
    | 12 => s.readSaf off
    | 13 => s.readDrn off
    | 14 => s.readLeg off
    | 15 => s.readLcy off
    | _ => 0

/-- What doorbell n reads as: the fetched count of a submission ring, the written count of a completion ring (R91). -/
def State.readDoorbell (s : State) (n : Fin 128) : Word :=
  if n.val < 64 then (s.pairRt n.val).fetched else (s.pairRt (n.val - 64)).written

/-- Word k of the pending-bit array of BAR4: bit b is vector 32 * k + b (R79, R110). -/
def State.readPending (s : State) (k : Fin 4) : Word :=
  BitVec.ofNat 32 (bitsWhere 32 (fun b => (tget {} s.hif.vectors (32 * k.val + b) : MsixVec).pending))

/-- The entry of vector v in the MSI-X table of BAR4, as PCIe lays it out: message address, data, vector control with the mask bit
(R79, R80). -/
def State.readMsix (s : State) (v : Fin 128) : List Byte :=
  let r : MsixVec := tget {} s.hif.vectors v.val
  leBytes 8 r.addr.toNat ++ leBytes 4 r.data.toNat ++ leBytes 4 r.masked.toNat

/-- LEASE_OUT is high exactly while the field side of a twin member drives the role's outputs; the contact is absent on an
AXQ-4096-L (R443, R621). -/
def State.leaseOut (s : State) : Bool := s.pw.fieldUp && !s.pw.variantL && s.twn.fieldMember && s.fieldDrives

end Sys2Proof.Machine
end

