-- ==== Sys2Proof/WellFormed.lean ====
section
/-! DEFINITION. Which commands can reach the module: the bounds of a command's operands that their types do not carry.
The meanings are total and do not ask for these bounds; a statement that needs one names it. -/

namespace Sys2Proof

/-- Host data comes in at most n bytes to a completion (R81, R93). -/
def ReadResult.sized (n : Nat) : ReadResult → Bool
  | .data b => decide (b.length ≤ n)
  | .error => true

/-- The bounds of R384: nanoseconds of a second, GUARD_NS, a matrix of 1 to 64 cycles. -/
def RefPayload.wf (r : RefPayload) : Bool :=
  decide (r.tb0Ns.toNat < 1000000000) && decide (300 ≤ r.guardNs) && decide (r.guardNs ≤ 2000) &&
    decide (1 ≤ r.mlen) && decide (r.mlen ≤ 64)

/-- LEN of a header has ten bits (R393). -/
def FrameHdr.wf (h : FrameHdr) : Bool := decide (h.len < 1024)

/-- The fields of a frame have the widths of R372 and R393, and its payload 8 to 512 bytes. -/
def WagFrame.wf (f : WagFrame) : Bool :=
  decide (f.ident < 2 ^ 24) && decide (f.src < 4096) && decide (f.dst < 4096) && decide (f.hops < 64) && decide (f.win < 256) &&
    decide (8 ≤ f.payload.length) && decide (f.payload.length ≤ 512)

/-- A relay frame holds 1 to 30 entries and stands among its NF frames, at most 9 (R135, R399). -/
def RelayFrame.wf (f : RelayFrame) : Bool :=
  decide (1 ≤ f.actions.length) && decide (f.actions.length ≤ 30) && decide (f.index < f.nf) && decide (f.nf ≤ 9)

/-- READY carries an action count of at most 200, REFUSED a reason of one byte (R400). -/
def Answer.wf : Answer → Bool
  | .ready n => decide (n ≤ 200)
  | .refused reason _ => decide (reason < 256)
  | .full => true

/-- The data length that a DLC gives (R530). -/
def dlcBytes (fdf : Bool) (dlc : Nat) : Nat :=
  if dlc ≤ 8 then dlc
  else if !fdf then 8
  else match dlc with
    | 9 => 12 | 10 => 16 | 11 => 20 | 12 => 24 | 13 => 32 | 14 => 48 | _ => 64

/-- A frame of the bus: an 11-bit identifier in base format, and as many bytes as DLC says, none in a remote frame (R530). -/
def CanFrame.wf (f : CanFrame) : Bool :=
  (f.ide || decide (f.ident.toNat < 2048)) &&
    (if f.rtr then decide (f.data = []) else decide (f.data.length = dlcBytes f.fdf f.dlc.toNat))

/-- The command can reach the module. -/
def Instr.wellFormed : Instr → Bool
  | .referenceFrame a r _ _ => a.hdr.wf && r.wf
  | .descriptorFetch _ r => r.sized 64
  | .hostReadCompletion _ r => r.sized 512
  | .stepRelayReceive f => f.hdr.wf && f.frame.wf && decide (f.hdr.len = 24 + 16 * f.frame.actions.length)
  | .stepCtrlReceive h l => h.wf && decide (8 * l.length ≤ h.len)
  | .stepAnswerReceive h a l => h.wf && a.1.wf && l.all (fun x => x.1.wf) && decide (8 + 8 * l.length ≤ h.len)
  | .stepReportReceive h l => h.wf && l.all (fun r => decide (r.status.length ≤ 200))
  | .basePeriodStart enc => decide (enc.length ≤ 16)
  | .calMeasureEnd codes => !codes.isEmpty
  | .dataFrame h w => h.wf && decide (w.length * 5 ≤ h.len)
  | .statusFrame h x => h.wf && decide (x.depth < 64) && decide (x.parts ≤ 96)
  | .probe h _ _ => h.wf
  | .probeResp h _ _ _ _ => h.wf
  | .safetyFrame h b => h.wf && decide (b.length = 32)
  | .trunkForward _ x => x.frame.wf
  | .change _ _ d _ => decide (d.length = 32) || decide (d.length = 64)
  | .safetyPairCopy b _ => decide (b.length = 32)
  | .canFrameReceive _ f _ _ => f.wf
  | .canState _ t r => decide (t ≤ 256) && decide (r ≤ 255)
  | .stage _ o b => decide (o < 2 ^ 64) && decide (b.length ≤ 65536)
  | .ledger _ _ _ n => decide (n < 2 ^ 32)
  | .ledgerSample x => decide (x.items.length = 8)
  | .logicPowerUp | .logicResetRelease | .v12OutOfRange | .presenceRelease _ | .fieldPowerGood | .fieldPowerLoss
  | .peatLoss | .holdupChange _ _ | .pwrfail | .pllLockLoss | .logicBootVerified _ _ | .resetInputRelease _
  | .resetInputStuck | .resetInputStuckClear | .ejectNotice | .ejectWithdraw | .ejectForceSafe | .ejectLeverReturned
  | .logicOvertemp | .restart _ | .restartReset | .fieldRefLost | .fieldRefRestored | .fieldRefSwitchBack
  | .downlinkTimeMark | .downlinkFrame _ | .uplinkFrame _ | .logicSideAbsent | .fieldSideAbsent | .scrub _
  | .sramUncorrectable _ | .lpddr5LinkError _ | .referenceTimeout | .ptpMessage _ _ | .ptpMessageSend _ _ | .tb0Restep
  | .timeSet _ | .pulseOutputArm _ _ | .pulseOutputDisarm _ _ | .pulseOutputEdge _ | .pcieLinkUp _ | .pcieLinkDown
  | .pcieHotReset | .functionLevelReset | .busMasterDisable | .badAccess _ | .ringsEnSet | .ringsEnClear
  | .ringEnable _ _ | .ringReset _ | .submissionDoorbell _ _ | .completionDoorbell _ _ | .hostReadTimeout _ _
  | .hostReadGrant | .heldCompletionFlush _ | .msixModerationTimeout _ | .msixUnmask _ | .tableRead _
  | .readOnlyTableLoad _ | .eventMask _ | .tsqRead _ | .updateStatus _ | .plantSend _ | .rxBuffer _ | .recordBuffer _
  | .recordRead _ | .step _ | .stepCancel _ | .stepFlush _ | .stepDeferredAdmit _
  | .commitDecision _ | .partDeadline _ | .cancelCutOff _ | .reportDeadline _ | .stepLaunch | .stepDry
  | .slotEvaluation _ | .cmbClassWrite _ _ | .slotTableLoad _ | .microprogramLoad _ | .modelTableLoad _
  | .taskRelease _ | .scanEnd _ _ | .inputMapLoad _ | .outputMapLoad _ | .loadImage _ | .exchange _
  | .exchangeBoundary _ | .conversionSlot _ _ _ _ _ | .channelTableLoad _ | .scanListLoad _ | .dacTableLoad _
  | .coefficientLoad _ | .dacCoefficientLoad _ | .skewLoad _ | .urgent _ | .rotate _ | .rotationInterval
  | .selfCalibrationEnd _ _ | .converterClrFault _ | .calMeasure _ | .calMean _ | .calSpread _ | .sampleRead _
  | .fieldOutputInstant | .highSideTableLoad _ | .inputTableLoad _ | .encoderTableLoad _ | .pulseTableLoad _
  | .profileTableLoad _ | .holdPolicyTableLoad _ | .dutyPeriodStart _ | .hsCondition _ _ _ | .holdPolicyCycleEnd
  | .digitalInputTransition _ _ | .digitalInputAccept _ | .encoderCapture _ _ _ | .encoderFault _ | .axisMoveEnd _
  | .hsClrFault _ | .capRead _ | .hsDiag _ | .regionTableLoad _ | .lineTableLoad _ | .maskTableLoad _ | .mireArm _
  | .force _ | .mireStop _ | .externalTrigger _ _ _ | .recordBufferFlush _ | .wagRun _ | .hiveListenEnd
  | .hiveBackoffEnd | .basicCycleStart | .headReferenceCopy | .echoCheckFail _ | .headWithdrawalEnd | .headWdrnClear
  | .clashClr | .upstreamSwitch | .windowSwap _ | .exclusiveWindowStart _ | .windowSlotStart _ _ _
  | .exclusiveWindowEnd _ _ | .guardianCut _ | .trunkAligned _ | .trunkAlignmentLost _ | .trunkDqSend _ _
  | .trunkDqReceive _ _ _ _ | .trunkDrReceive _ _ _ _ | .modeChange _ | .modeChangeDecision | .stationStat _
  | .scheduleLoad _ | .receiveMapLoad _ | .stationTableLoad _ | .segmentTableLoad _ | .snap _ _ _ _ | .hash _ _
  | .changeAck _ | .state _ _ _ | .idle | .twinLinkLost | .twinLinkUp _ | .leaseRequestSend | .request _ _ _ _
  | .grant _ _ | .relinquish _ _ _ | .offer _ | .accept _ | .issuerOccupancyEnd _ | .actUntil | .witnessSilent
  | .handover | .handoverAbandoned | .resync | .standbyReplay | .changeAckTimeout _ | .takeover | .witnessTableLoad _
  | .sealChange _ | .safetyInputChange _ _ _ | .safetyInputDiscTimeout _ | .testPulse _ _ | .safetyFrameSend
  | .safetyPathAbsence _ _ | .safetyWatchExpiry _ _ | .disagree _ | .guardSafetyCycle | .manualRestart _ _
  | .onmaxCut _ | .offminEnd _ | .rateDelayEnd _ | .hsCountsOff _ | .fenGateVerified | .guardSelfTestDone _ _
  | .elementTest _ _ _ | .droneCycleStart | .droneInputLatch | .droneOutputInstant | .holdLoopRelease _
  | .canEnable _ _ | .canSend _ | .canFrameSent _ _ | .canRecoveryEnd _ | .messageAtLaunch _ | .messageRxFlush _ _
  | .hpAck _ | .recover _ | .uartEnable _ _ | .uartSend _ | .uartSendStart _ | .uartSendEnd _
  | .uartCharacter _ _ _ _ _ _ _ | .uartGap _ | .pbSend _ | .pbReady | .pbCycleEnd _ | .busTimeout | .gpConfigWrite _ _
  | .gpInputChange _ | .gpWrite _ | .gpRead _ | .filterTableLoad _ | .hello _ | .install _ | .installDone
  | .activate _ _ | .activationCommit | .serviceStatus _ | .token _ _ | .discard _ | .expect _ _ | .usbBusReset
  | .ledgerCommit | .lockSet _ | .registerWrite _ _ | .pwrfailRelease | .plantMessageReceive _ _ => true

end Sys2Proof
end

