-- ==== Sys2Proof/Safety.lean ====
section
/-! DEFINITION. The terms claims are made in: the parts of the State and what a command leaves alone, and what a good State is. -/

namespace Sys2Proof.Machine

/-- The parts of the State, one to each of its fields. -/
inductive Area where
  | pending | regs | time | pw | hif | stp | cmb | blk | cnv | fio | mir | bog | wag | twn | saf | drn | leg | lcy | peat
  | seen | out | freeIdx
  deriving DecidableEq, Repr

/-- s with the named parts at their values after reset. -/
def State.mask (ps : List Area) (s : State) : State :=
  { pending := if ps.contains .pending then [] else s.pending
    regs := if ps.contains .regs then [] else s.regs
    time := if ps.contains .time then {} else s.time
    pw := if ps.contains .pw then {} else s.pw
    hif := if ps.contains .hif then {} else s.hif
    stp := if ps.contains .stp then {} else s.stp
    cmb := if ps.contains .cmb then {} else s.cmb
    blk := if ps.contains .blk then {} else s.blk
    cnv := if ps.contains .cnv then {} else s.cnv
    fio := if ps.contains .fio then {} else s.fio
    mir := if ps.contains .mir then {} else s.mir
    bog := if ps.contains .bog then [] else s.bog
    wag := if ps.contains .wag then {} else s.wag
    twn := if ps.contains .twn then {} else s.twn
    saf := if ps.contains .saf then {} else s.saf
    drn := if ps.contains .drn then {} else s.drn
    leg := if ps.contains .leg then {} else s.leg
    lcy := if ps.contains .lcy then {} else s.lcy
    peat := if ps.contains .peat then {} else s.peat
    seen := if ps.contains .seen then {} else s.seen
    out := if ps.contains .out then [] else s.out
    freeIdx := if ps.contains .freeIdx then 0 else s.freeIdx }

/-- t is s but for the named parts. -/
def State.only (ps : List Area) (s t : State) : Prop := t.mask ps = s.mask ps

/-- Command c, run on s, answers a next state: one that has P and is s but for the named parts. -/
def Completes (ps : List Area) (c : Instr) (s : State) (P : State → Prop) : Prop :=
  ∃ t, exec c s = .next t ∧ P t ∧ State.only ps s t

/-- Command c, run on s, answers a next state in which descriptor e of pair p has completed with a code and RESULT (R100, R102);
before that completion the state has P and is s but for the named parts. -/
def Ends (ps : List Area) (c : Instr) (s : State) (p : Pair) (e : Entry) (code : Byte) (result : BitVec 64) (P : State → Prop) :
    Prop :=
  ∃ t, exec c s = .next (t.finish p.val e.sub code result) ∧ P t ∧ State.only ps s t

/-- The Bog in canonical form: offsets strictly rising, no byte listed that reads as an unlisted one does. -/
def Memory.wf (m : List Host.Cell) : Bool := twf (fun _ => 0) m

/-- What every step keeps: the Bog stands in canonical form. -/
def State.Inv (s : State) : Prop := Memory.wf s.bog = true

end Sys2Proof.Machine
end

