-- ==== Sys2Proof/Certificates/Slice0/Obligations.lean ====
section
/-! DEFINITION. What the provers are asked to show: for each family of commands when a command completes and what it then leaves,
for the module as a whole what every step keeps. Completes and Ends (Safety.lean) state the next state and its frame in one: every
part of the State that is not named is unchanged. A clause that says a command changes nothing where nothing waits for it rests on
log entry 4, and one about a command that names an elapsed time or an instant on log entry 3. -/

open Sys2Proof Sys2Proof.Machine

/-- The logic side from no power to its run state, a boot that fails, and the reset that a restart asked for. LOGIC_POWER_UP
of an unpowered logic side leaves it held in reset with V12 and PRES_N good and the three copies of the life-cycle record
equal; LOGIC_RESET_RELEASE with V12 and PRES_N good begins the boot stage with the cause of the restart asked for (0 where
none was), and sets TB2 to zero after a cold restart or a loss of the logic PLL, else leaves every time base;
LOGIC_BOOT_VERIFIED with a good slot enters the run state, warm where the start was to be warm, the retention region valid
and found intact, else cold; with no good slot and no fallback the boot stage has failed, and nothing else changes; with a
fallback the boot stage goes on with the other slot and no further fallback; RESTART_RESET of a running module that is no
holder takes the restart asked for: it is held in reset, its registers at reset, its locks clear, the retention region lost
where the restart is cold. Rests on log entries 9, 15, 16, 17, 18. (R593, R28, R46, R32, R575, R599.) -/
def Obligations.PowerUpOfTheLogicSide : Prop :=
  (∀ (s : State), s.pw.logic = .off → Completes [.pw, .hif, .lcy, .peat, .out] (.logicPowerUp) s fun t => t.pw.logic = .held ∧
    t.pw.v12Ok = true ∧ t.pw.pres = true ∧ t.lcy.mram = t.lcy.peat ∧ t.lcy.nor = t.lcy.peat) ∧
  (∀ (s : State), s.pw.logic = .held → s.pw.v12Ok = true → s.pw.pres = true → Completes [.time, .pw, .saf, .lcy]
    (.logicResetRelease) s fun t => t.pw.logic = .boot ∧ t.pw.restart = none ∧ t.pw.rstSeen = true ∧ t.pw.lpllLock = true ∧
    t.pw.cause = (s.pw.restart.getD { cold := true, cause := 0 }).cause ∧ (if (s.pw.restart.getD
    { cold := true, cause := 0 }).cold = true ∨ s.pw.lpllLock = false then t.time.tb2 = {} else t.time = s.time)) ∧
  (∀ (s : State) (retentionOk : Bool), s.pw.logic = .boot → Completes [.regs, .time, .pw, .hif, .stp, .cmb, .blk, .cnv, .fio,
    .mir, .bog, .wag, .twn, .saf, .drn, .leg, .lcy, .peat, .out, .freeIdx] (.logicBootVerified true retentionOk) s fun t =>
    t.pw.logic = .run ∧ t.pw.cfgDone = true ∧ t.pw.retention = true ∧ t.pw.warm = (!(s.pw.starting.getD
    { cold := true, cause := 0 }).cold && s.pw.retention && retentionOk)) ∧
  (∀ (s : State) (retentionOk : Bool), s.pw.logic = .boot → s.lcy.fallbackOk = false → exec (.logicBootVerified false
    retentionOk) s = .next { s with pw := { s.pw with logic := .failed } }) ∧
  (∀ (s : State) (retentionOk : Bool), s.pw.logic = .boot → s.lcy.fallbackOk = true → Completes [.time, .pw, .hif, .cnv, .fio,
    .twn, .saf, .drn, .lcy, .peat, .out] (.logicBootVerified false retentionOk) s fun t => t.pw.logic = .boot ∧ t.lcy.slotB =
    !s.lcy.slotB ∧ t.lcy.fallbackOk = false) ∧
  (∀ (s : State) (r : RestartReq), s.pw.logic = .run → s.pw.restart = some r → s.twn.st ≠ .holder → Completes [.regs, .time,
    .pw, .hif, .stp, .cmb, .blk, .cnv, .fio, .mir, .wag, .twn, .leg, .lcy, .seen, .out] (.restartReset) s fun t => t.pw.logic
    = .held ∧ t.pw.restart = some r ∧ t.regs = [] ∧ t.pw.lock = 0 ∧ t.pw.retention = (s.pw.retention && !r.cold))

/-- A domain that loses its supply or its presence contact goes down. V12_OUT_OF_RANGE, LOGIC_OVERTEMP and the release of
PRES_N leave the logic side without power, with the retention region, the registers, the locks and the Bog lost and the
next start cold; FIELD_POWER_LOSS and the release of PRES_FX_N take the field side down and leave the power state of the
logic side, with every high-side driver off, every DAC and pulse output as at power-up; PEAT_LOSS while the main supply of
its side is absent is remembered; FIELD_POWER_GOOD of an unpowered field side powers it with every high-side driver off and
every DAC and pulse output as at power-up. Rests on log entries 12, 16, 18. (R593, R31, R636, R597.) -/
def Obligations.LossOfPower : Prop :=
  (∀ (s : State), s.pw.logic ≠ .off → Completes [.regs, .time, .pw, .hif, .stp, .cmb, .blk, .cnv, .fio, .mir, .bog, .wag,
    .twn, .leg, .lcy, .peat, .seen, .out] (.v12OutOfRange) s fun t => t.pw.logic = .off ∧ t.pw.v12Ok = false ∧ t.pw.restart =
    some { cold := true, cause := 7 } ∧ t.pw.retention = false ∧ t.pw.lock = 0 ∧ t.regs = [] ∧ t.bog = []) ∧
  (∀ (s : State), s.pw.logic ≠ .off → Completes [.regs, .time, .pw, .hif, .stp, .cmb, .blk, .cnv, .fio, .mir, .bog, .wag,
    .twn, .leg, .lcy, .peat, .seen, .out] (.logicOvertemp) s fun t => t.pw.logic = .off ∧ t.pw.restart = some
    { cold := true, cause := 7 } ∧ t.pw.retention = false ∧ t.pw.lock = 0 ∧ t.regs = [] ∧ t.bog = []) ∧
  (∀ (s : State), s.pw.logic ≠ .off → Completes [.regs, .time, .pw, .hif, .stp, .cmb, .blk, .cnv, .fio, .mir, .bog, .wag,
    .twn, .saf, .drn, .leg, .lcy, .peat, .seen, .out] (.presenceRelease .logic) s fun t => t.pw.logic = .off ∧ t.pw.pres =
    false ∧ t.pw.restart = some { cold := true, cause := 0 } ∧ t.pw.retention = false ∧ t.pw.lock = 0 ∧ t.regs = [] ∧ t.bog =
    []) ∧
  (∀ (s : State), s.pw.fieldUp = true → Completes [.time, .pw, .cnv, .fio, .twn, .saf, .drn, .lcy, .peat, .out]
    (.presenceRelease .field) s fun t => t.pw.fieldUp = false ∧ t.pw.presFx = false ∧ t.fio.hs = [] ∧ t.fio.dac = [] ∧
    t.fio.pul = [] ∧ t.pw.logic = s.pw.logic) ∧
  (∀ (s : State), s.pw.fieldUp = true → Completes [.time, .pw, .cnv, .fio, .twn, .saf, .drn, .lcy, .peat, .out]
    (.fieldPowerLoss) s fun t => t.pw.fieldUp = false ∧ t.fio.hs = [] ∧ t.fio.dac = [] ∧ t.fio.pul = [] ∧ t.pw.logic =
    s.pw.logic) ∧
  (∀ (s : State), s.peatMain = false → exec .peatLoss s = .next { s with pw := { s.pw with peatLost := true } }) ∧
  (∀ (s : State), s.pw.variantL = false → s.pw.fieldUp = false → Completes [.time, .pw, .hif, .cnv, .fio, .twn, .saf, .drn,
    .lcy, .peat, .out] (.fieldPowerGood) s fun t => t.pw.fieldUp = true ∧ t.pw.presFx = true ∧ t.fio.hs = [] ∧ t.fio.dac = []
    ∧ t.fio.pul = [] ∧ t.pw.logic = s.pw.logic)

/-- HOLDUP_CHANGE, PWRFAIL and its release, and the loss of the logic PLL. HOLDUP_CHANGE sets HOLDUP_OK, the V12 reading,
HOLDUP_LOW (HOLDUP_OK is 0 or V12 is below 11.4 V) and, on a logic side out of reset, HOLDUP_LOW_SEEN with it; a change of
HOLDUP_LOW sends the power interrupt, and nothing else changes. PWRFAIL to a logic side out of reset sets PWRFAIL and sends
the power interrupt, nothing else where PWRFAIL_EN is 0, and where it is 1 a handover is offered after it. PWRFAIL_RELEASE
clears PWRFAIL and sends the power interrupt. PLL_LOCK_LOSS of a running or booting logic side holds it in reset with a
warm restart of cause 5 asked for, its registers at reset, the retention region as it was. Rests on log entries 17, 22.
(R594, R595, R608, R28, R46.) -/
def Obligations.SupplyAndPowerFailSignals : Prop :=
  (∀ (s : State) (ok : Bool) (mv : BitVec 16), s.pw.holdupLow = (!ok || decide (mv.toNat < 11400)) → exec (.holdupChange ok
    mv) s = .next
    { s with pw := { s.pw with holdupOk := ok, v12Mv := mv, holdupLowSeen := s.pw.holdupLowSeen || (s.pw.holdupLow && s.logicAwake) } })
    ∧
  (∀ (s : State) (ok : Bool) (mv : BitVec 16), s.pw.holdupLow ≠ (!ok || decide (mv.toNat < 11400)) → exec (.holdupChange ok
    mv) s = .next (State.powerIrq
    { s with pw := { s.pw with holdupOk := ok, v12Mv := mv, holdupLow := !s.pw.holdupLow, holdupLowSeen := s.pw.holdupLowSeen || (!s.pw.holdupLow && s.logicAwake) } }))
    ∧
  (∀ (s : State), s.pw.pwrfail = false → (s.pw.logic = .boot ∨ s.pw.logic = .run) → s.rbit 0x0100 9 = true → exec .pwrfail s =
    .next ((State.powerIrq { s with pw := { s.pw with pwrfail := true } }).offerHandover .powerFail)) ∧
  (∀ (s : State), s.pw.pwrfail = false → (s.pw.logic = .boot ∨ s.pw.logic = .run) → s.rbit 0x0100 9 = false → exec .pwrfail s
    = .next (State.powerIrq { s with pw := { s.pw with pwrfail := true } })) ∧
  (∀ (s : State), s.pw.pwrfail = true → exec .pwrfailRelease s = .next (State.powerIrq
    { s with pw := { s.pw with pwrfail := false } })) ∧
  (∀ (s : State), (s.pw.logic = .boot ∨ s.pw.logic = .run) → Completes [.regs, .time, .pw, .hif, .stp, .cmb, .blk, .cnv, .fio,
    .mir, .wag, .twn, .leg, .lcy, .seen, .out] (.pllLockLoss) s fun t => t.pw.logic = .held ∧ t.pw.restart = some
    { cold := false, cause := 5 } ∧ t.pw.lpllLock = false ∧ t.pw.retention = s.pw.retention ∧ t.regs = [])

/-- The reset input and the eject lever. A press of 20 ms to 8 s on a running module that is no holder, with no eject notice,
no stuck input and no restart asked for, holds it in reset with a warm restart of cause 1 asked for, and RST_CNT counts it;
RESET_INPUT_STUCK on a logic side out of reset sets RST_STUCK and its seen bit, RESET_INPUT_STUCK_CLEAR clears it;
EJECT_NOTICE on a logic side out of reset sets EJECT and no other power state; EJECT_WITHDRAW after it marks the module
withdrawn from its windows, which for a module that is no HIVE is all; EJECT_FORCE_SAFE leaves every hold-policy entry at
SAFE, no moving pulse output, and the Drone with no high-side output in COMMAND; EJECT_LEVER_RETURNED with both contacts
asserted clears EJECT and holds the logic side in reset with a warm restart of cause 8 asked for. Rests on log entries 15,
22. (R600, R601, R602, R604, R605.) -/
def Obligations.ResetInputAndEject : Prop :=
  (∀ (s : State) (ns : Nat), 20000000 ≤ ns → ns ≤ 8000000000 → s.pw.logic = .run → s.pw.eject = false → s.pw.stuck = false →
    s.pw.restart = none → s.twn.st ≠ .holder → Completes [.regs, .time, .pw, .hif, .stp, .cmb, .blk, .cnv, .fio, .mir, .wag,
    .twn, .leg, .lcy, .peat, .seen, .out] (.resetInputRelease ns) s fun t => t.pw.logic = .held ∧ t.pw.restart = some
    { cold := false, cause := 1 } ∧ t.pw.rstCnt = satInc 0xFFFF s.pw.rstCnt ∧ t.regs = []) ∧
  (∀ (s : State), (s.pw.logic = .boot ∨ s.pw.logic = .run) → s.pw.stuck = false → Completes [.pw, .hif, .fio, .peat, .out]
    (.resetInputStuck) s fun t => t.pw = { s.pw with stuck := true, stuckSeen := true }) ∧
  (∀ (s : State), exec .resetInputStuckClear s = .next { s with pw := { s.pw with stuck := false } }) ∧
  (∀ (s : State), (s.pw.logic = .boot ∨ s.pw.logic = .run) → s.pw.eject = false → Completes [.pw, .hif, .stp, .fio, .twn,
    .peat, .out] (.ejectNotice) s fun t => t.pw = { s.pw with eject := true }) ∧
  (∀ (s : State), s.pw.eject = true → s.isHive = false → exec .ejectWithdraw s = .next
    { s with pw := { s.pw with ejectGone := true } }) ∧
  (∀ (s : State), s.pw.fieldUp = true → s.pw.eject = true → Completes [.fio, .saf, .drn, .peat] (.ejectForceSafe) s fun t =>
    t.fio.ejected = true ∧ t.drn.hsCmd = 0 ∧ (∀ i : Fin 96, (tget {} t.fio.hold i.val).atSafe = true) ∧ (∀ p : Fin 16,
    (t.pulRt p.val).moving = false)) ∧
  (∀ (s : State), s.pw.eject = true → s.pw.pres = true → (s.pw.variantL = true ∨ s.pw.presFx = true) → s.pw.logic ≠ .off →
    Completes [.regs, .time, .pw, .hif, .stp, .cmb, .blk, .cnv, .fio, .mir, .wag, .twn, .leg, .lcy, .seen, .out]
    (.ejectLeverReturned) s fun t => t.pw.logic = .held ∧ t.pw.eject = false ∧ t.pw.restart = some
    { cold := false, cause := 8 } ∧ t.regs = [])

/-- The field reference, the scrubber and memory errors. FIELD_REF_LOST puts a powered field side on its backup oscillator,
sets the seen bit and counts in CLK_FB_CNT; FIELD_REF_RESTORED makes the return due, FIELD_REF_SWITCH_BACK returns; SCRUB
on a logic side out of reset adds the corrected words to CE_CNT and to the count of the second; an uncorrectable SRAM error
there in banks 0 to 7 counts in UE_CNT and invalidates the retention region, and the module goes on; one in banks 8 to 31,
and an LPDDR5 link error on working memory, hold a module that is no holder, with no restart asked for, in reset with a
warm restart of cause 4 asked for and its registers at reset; one on the Bog counts in the Bog error counter and leaves the
stored bytes as they were. Rests on log entries 17, 58. (R25, R27, R33, R34, R39, R358.) -/
def Obligations.FieldReferenceAndMemoryErrors : Prop :=
  (∀ (s : State), s.pw.fieldUp = true → s.pw.frefFb = false → Completes [.pw, .fio, .peat] (.fieldRefLost) s fun t => t.pw =
    { s.pw with frefFb := true, frefFbSeen := true, frefReturn := false, clkFbCnt := satInc 0xFFFF s.pw.clkFbCnt }) ∧
  (∀ (s : State), s.pw.fieldUp = true → s.pw.frefFb = true → exec .fieldRefRestored s = .next
    { s with pw := { s.pw with frefReturn := true } }) ∧
  (∀ (s : State), s.pw.frefFb = true → s.pw.frefReturn = true → Completes [.pw, .fio] (.fieldRefSwitchBack) s fun t => t.pw =
    { s.pw with frefFb := false, frefReturn := false }) ∧
  (∀ (s : State) (n : Nat), s.logicAwake = true → exec (.scrub n) s = .next
    { s with pw := { s.pw with ceCnt := satAdd 0xFFFF s.pw.ceCnt n, ceSecond := s.pw.ceSecond + n } }) ∧
  (∀ (s : State) (b : Fin 32), s.logicAwake = true → b.val < 8 → Completes [.pw, .hif, .fio, .peat, .out] (.sramUncorrectable
    b) s fun t => t.pw = { s.pw with ueCnt := satInc 0xFFFF s.pw.ueCnt, retention := false, retInval := true }) ∧
  (∀ (s : State) (b : Fin 32), s.logicAwake = true → 8 ≤ b.val → s.pw.restart = none → s.twn.st ≠ .holder → Completes [.regs,
    .time, .pw, .hif, .stp, .cmb, .blk, .cnv, .fio, .mir, .wag, .twn, .leg, .lcy, .peat, .seen, .out] (.sramUncorrectable b) s
    fun t => t.pw.logic = .held ∧ t.pw.restart = some { cold := false, cause := 4 } ∧ t.regs = []) ∧
  (∀ (s : State), s.logicAwake = true → s.pw.restart = none → s.twn.st ≠ .holder → Completes [.regs, .time, .pw, .hif, .stp,
    .cmb, .blk, .cnv, .fio, .mir, .wag, .twn, .leg, .lcy, .seen, .out] (.lpddr5LinkError .working) s fun t => t.pw.logic =
    .held ∧ t.pw.restart = some { cold := false, cause := 4 } ∧ t.regs = []) ∧
  (∀ (s : State) (r : Fin 16) (k : Nat), s.logicAwake = true → Completes [.hif, .mir, .out] (.lpddr5LinkError (.bog r k)) s
    fun t => t.mir.eccCnt = satInc 0xFFFFFFFF s.mir.eccCnt)

/-- RESTART: a write of parameter 0x001 of SYS on a member that acts. With no eject notice and no restart asked for, a write
of 0x5A or 0xC5 completes with 0x00, asks for a warm restart with cause 2 or a cold one with cause 3, and a handover is
offered, which leaves the power state but that; any other value completes with 0x02, and 0x5A or 0xC5 after an eject notice
with 0x0A, changing nothing else; on a member that does not act every write completes with 0x70. Rests on log entry 15.
(R599, R605.) -/
def Obligations.RestartByTheHost : Prop :=
  (∀ (s : State) (p : Pair) (e : Entry), s.takeParam p 1 0 1 = some e → s.roleActs = true → s.pw.eject = false → (e.value =
    0x5A ∨ e.value = 0xC5) → s.pw.restart = none → exec (.restart p) s = .next (State.offerHandover
    { (s.finish p.val e.sub 0 0) with pw := { s.pw with restart := some { cold := decide (e.value = 0xC5), cause := if e.value = 0xC5 then 3 else 2 } } }
    .restart)) ∧
  (∀ (s : State) (p : Pair) (e : Entry), s.takeParam p 1 0 1 = some e → s.roleActs = true → e.value ≠ 0x5A → e.value ≠ 0xC5 →
    exec (.restart p) s = .next (s.finish p.val e.sub 0x02 0)) ∧
  (∀ (s : State) (p : Pair) (e : Entry), s.takeParam p 1 0 1 = some e → s.roleActs = true → (e.value = 0x5A ∨ e.value = 0xC5)
    → s.pw.eject = true → exec (.restart p) s = .next (s.finish p.val e.sub 0x0A 0)) ∧
  (∀ (s : State) (p : Pair) (e : Entry), s.takeParam p 1 0 1 = some e → s.roleActs = false → exec (.restart p) s = .next
    (s.finish p.val e.sub 0x70 0))

/-- TB0: PTP, host-set time, one further step. The first PTP offset measured on the HIVE with TB0_SRC = 0, corrected by half
the difference of the two latencies, steps TB0, a later one steers its rate; an event message received leaves its stamp
less RX_LAT, one of the other form or delay mechanism is not served; TB0_RESTEP on the module that defines TB0 permits one
more step; a TIME_SET that no partner mirrors, on the module that defines TB0 with TB0_SRC = 1, sets TB0 with its rate
zero, and is refused with 0x0A where no set is permitted or this module does not define TB0, with 0x02 for a nanosecond
field of 10⁹ or more; the PTP service sends its messages on its ports in the form and mechanism of TIM_CTRL, with the stamp
of an event message plus TX_LAT. Rests on log entries 24, 34. (R57, R58, R69, R98.) -/
def Obligations.TimeOfDayTB0 : Prop :=
  (∀ (s : State) (port : Fin 2) (off : Int), s.hostUp = true → s.ptpOn port.val = true → s.tb0Master = true → s.rbit 0x2000 0
    = false → s.time.tb0Stepped = false → Completes [.time, .hif, .out] (.ptpMessage port ⟨s.rbit 0x2000 5, s.rbit 0x2000 4,
    none, some off⟩) s fun t => t.time.tb0.sec = (s.time.tb0.plus (-(off + (s.txLat port.val - s.rxLat port.val) / 2) * 2 ^
    24)).sec ∧ t.time.tb0.nsec = (s.time.tb0.plus (-(off + (s.txLat port.val - s.rxLat port.val) / 2) * 2 ^ 24)).nsec ∧
    t.time.tb0Stepped = true ∧ t.time.tb0StepSeen = true ∧ t.time.tb1 = s.time.tb1) ∧
  (∀ (s : State) (port : Fin 2) (off : Int), s.hostUp = true → s.ptpOn port.val = true → s.tb0Master = true → s.rbit 0x2000 0
    = false → s.time.tb0Stepped = true → s.time.restepOk = false → Completes [.time, .hif, .out, .freeIdx] (.ptpMessage port
    ⟨s.rbit 0x2000 5, s.rbit 0x2000 4, none, some off⟩) s fun t => t.time.tb0 =
    { s.time.tb0 with rate := clampRate (Config.servoRate s.freeIdx) } ∧ t.freeIdx = s.freeIdx + 1) ∧
  (∀ (s : State) (port : Fin 2) (m : Stamp), s.hostUp = true → s.ptpOn port.val = true → exec (.ptpMessage port ⟨s.rbit 0x2000
    5, s.rbit 0x2000 4, some m, none⟩) s = .next
    { s with time := { s.time with ptpRx := tput 0 (m - BitVec.ofInt 48 (s.rxLat port.val)) s.time.ptpRx port.val } }) ∧
  (∀ (s : State) (port : Fin 2) (m : PtpArrival), (m.layer2 ≠ s.rbit 0x2000 5 ∨ m.p2p ≠ s.rbit 0x2000 4) → exec (.ptpMessage
    port m) s = .next s) ∧
  (∀ (s : State) (port : Fin 2) (m : Stamp), s.hostUp = true → s.ptpOn port.val = true → exec (.ptpMessageSend port (some m))
    s = .next
    { s with time := { s.time with ptpSent := s.time.ptpSent + 1 }, out := .ptp port.val true (s.rbit 0x2000 3) (s.rbit 0x2000 4) (s.rbit 0x2000 5) (some (m + BitVec.ofInt 48 (s.txLat port.val))) :: s.out })
    ∧
  (∀ (s : State) (port : Fin 2), s.hostUp = true → s.ptpOn port.val = true → exec (.ptpMessageSend port none) s = .next
    { s with time := { s.time with ptpSent := s.time.ptpSent + 1 }, out := .ptp port.val false false (s.rbit 0x2000 4) (s.rbit 0x2000 5) none :: s.out })
    ∧
  (∀ (s : State), s.hostUp = true → s.tb0Master = true → exec .tb0Restep s = .next
    { s with time := { s.time with restepOk := true } }) ∧
  (∀ (s : State) (p : Pair) (e : Entry), s.takeOp p.val 2 3 = some e → s.roleActs = true → s.mirrors = false → e.fullTime.2 <
    1000000000 → s.tb0Master = true → s.rbit 0x2000 0 = true → (s.time.tb0Set = false ∨ s.time.restepOk = true) → Completes
    [.time, .hif, .out] (.timeSet p) s fun t => t.time.tb0 =
    { sec := e.fullTime.1, nsec := e.fullTime.2, frac := 0, rate := 0 } ∧ t.time.tb0Set = true ∧ t.time.tb0Lock = true ∧
    t.time.restepOk = false) ∧
  (∀ (s : State) (p : Pair) (e : Entry), s.takeOp p.val 2 3 = some e → s.roleActs = true → s.mirrors = false → e.fullTime.2 <
    1000000000 → (s.tb0Master = false ∨ s.rbit 0x2000 0 = false ∨ s.time.tb0Set = true ∧ s.time.restepOk = false) → exec
    (.timeSet p) s = .next (s.finish p.val e.sub 0x0A 0)) ∧
  (∀ (s : State) (p : Pair) (e : Entry), s.takeOp p.val 2 3 = some e → s.roleActs = true → s.mirrors = false → e.fullTime.2 ≥
    1000000000 → exec (.timeSet p) s = .next (s.finish p.val e.sub 0x02 0))

/-- Pulse outputs: arming, disarming, edges; the transmit stamp queue. Arming an output that is not armed stores its fields;
with a bad setting it sets CFG_ERR, in single mode with START past it sets PAST, else it arms with its next instant;
disarming disarms at once and ends a pulse; at its instant, its base locked, an armed output that is not in a pulse drives
its pin, in single mode then FIRED and disarmed, in periodic mode armed for an instant one period on; the end of a pulse
takes its pin back; TSQ_READ writes every queued stamp to host memory, frees it and completes with their count. Rests on
log entry 26. (R73, R74, R75, R76, R77.) -/
def Obligations.ProgrammedPulseOutputs : Prop :=
  (∀ (s : State) (n : Fin 4) (w : Word), s.hostUp = true → (s.tpo n.val).armed = false → ((s.clearTpo n.val w).writeTpo n.val
    w).tpoBad n.val = false → ((s.clearTpo n.val w).writeTpo n.val w).tpoPeriodic n.val = false → 0 ≤ sdiff (((s.clearTpo
    n.val w).writeTpo n.val w).tpoStart n.val) (((s.clearTpo n.val w).writeTpo n.val w).baseNow (((s.clearTpo n.val
    w).writeTpo n.val w).tpoBase n.val)) → Completes [.regs, .time, .out] (.pulseOutputArm n w) s fun t => (t.tpo n.val).armed
    = true ∧ (t.tpo n.val).next = ((s.clearTpo n.val w).writeTpo n.val w).tpoStart n.val ∧ t.reg (0x2100 + 0x20 * n.val) &&&
    regRw (0x2100 + 0x20 * n.val) = w &&& regRw (0x2100 + 0x20 * n.val)) ∧
  (∀ (s : State) (n : Fin 4) (w : Word), s.hostUp = true → (s.tpo n.val).armed = false → ((s.clearTpo n.val w).writeTpo n.val
    w).tpoBad n.val = false → ((s.clearTpo n.val w).writeTpo n.val w).tpoPeriodic n.val = true → Completes [.regs, .time,
    .out] (.pulseOutputArm n w) s fun t => (t.tpo n.val).armed = true ∧ (t.tpo n.val).next = seriesNext (((s.clearTpo n.val
    w).writeTpo n.val w).tpoStart n.val) (((s.clearTpo n.val w).writeTpo n.val w).tpoPeriod n.val) (((s.clearTpo n.val
    w).writeTpo n.val w).baseNow (((s.clearTpo n.val w).writeTpo n.val w).tpoBase n.val))) ∧
  (∀ (s : State) (n : Fin 4) (w : Word), s.hostUp = true → (s.tpo n.val).armed = false → ((s.clearTpo n.val w).writeTpo n.val
    w).tpoBad n.val = true → Completes [.regs, .time, .out] (.pulseOutputArm n w) s fun t => (t.tpo n.val).armed = false ∧
    (t.tpo n.val).cfgErr = true) ∧
  (∀ (s : State) (n : Fin 4) (w : Word), s.hostUp = true → (s.tpo n.val).armed = false → ((s.clearTpo n.val w).writeTpo n.val
    w).tpoBad n.val = false → ((s.clearTpo n.val w).writeTpo n.val w).tpoPeriodic n.val = false → sdiff (((s.clearTpo n.val
    w).writeTpo n.val w).tpoStart n.val) (((s.clearTpo n.val w).writeTpo n.val w).baseNow (((s.clearTpo n.val w).writeTpo
    n.val w).tpoBase n.val)) < 0 → Completes [.regs, .time, .out] (.pulseOutputArm n w) s fun t => (t.tpo n.val).armed = false
    ∧ (t.tpo n.val).past = true) ∧
  (∀ (s : State) (n : Fin 4) (w : Word), s.hostUp = true → Completes [.regs, .time, .out] (.pulseOutputDisarm n w) s fun t =>
    (t.tpo n.val).armed = false ∧ (t.tpo n.val).high = false) ∧
  (∀ (s : State) (n : Fin 4), (s.tpo n.val).armed = true → (s.tpo n.val).high = false → s.baseLocked (s.tpoBase n.val) = true
    → s.tpoPeriodic n.val = false → Completes [.time, .out] (.pulseOutputEdge n) s fun t => t.tpo n.val =
    { s.tpo n.val with high := true, fired := true, armed := false } ∧ t.out = .pulse n.val (s.tpoLevel n.val true) :: s.out)
    ∧
  (∀ (s : State) (n : Fin 4), (s.tpo n.val).armed = true → (s.tpo n.val).high = false → s.baseLocked (s.tpoBase n.val) = true
    → s.tpoPeriodic n.val = true → Completes [.time, .out] (.pulseOutputEdge n) s fun t => t.tpo n.val =
    { s.tpo n.val with high := true, next := tadd (s.tpo n.val).next (Int.ofNat (s.tpoPeriod n.val)) } ∧ t.out = .pulse n.val
    (s.tpoLevel n.val true) :: s.out) ∧
  (∀ (s : State) (n : Fin 4), (s.tpo n.val).high = true → Completes [.time, .out] (.pulseOutputEdge n) s fun t => t.tpo n.val
    = { s.tpo n.val with high := false } ∧ t.out = .pulse n.val (s.tpoLevel n.val false) :: s.out) ∧
  (∀ (s : State) (p : Pair) (e : Entry), s.takeOp p.val 5 3 = some e → s.time.tsq ≠ [] → exec (.tsqRead p) s = .next
    (State.finish { (s.hostWrite e.addr (s.time.tsq.flatMap TsqEntry.bytes)) with time := { s.time with tsq := [] } } p.val
    e.sub 0 (BitVec.ofNat 64 s.time.tsq.length))) ∧
  (∀ (s : State) (p : Pair) (e : Entry), s.takeOp p.val 5 3 = some e → s.time.tsq = [] → exec (.tsqRead p) s = .next (s.finish
    p.val e.sub 0 0))

/-- The endpoint: link up and down, hot reset, function-level reset, Bus Master Enable, bad accesses. A trained link is noted
with its speed; link-down, hot reset, function-level reset and a clear of Bus Master Enable return every pair to DISABLED,
reset the HIF registers and clear LOCK bit 3; the function resets set FLR_SEEN and reset the MSI-X vectors; a malformed
access sets BAD_ACC_SEEN and does nothing else but, on a read, answer 0xFFFF_FFFF. Rests on log entries 20, 21, 30. (R78,
R80, R83, R108, R613.) -/
def Obligations.EndpointEvents : Prop :=
  (∀ (s : State) (v : Fin 5), v ≠ 0 → (s.pw.logic = .boot ∨ s.pw.logic = .run) → s.hif.linkUp = false → Completes [.hif, .out]
    (.pcieLinkUp v) s fun t => t.hif.linkUp = true ∧ t.hif.linkSpeed = v.val) ∧
  (∀ (s : State), s.hif.linkUp = true → Completes [.regs, .pw, .hif, .stp, .out] (.pcieLinkDown) s fun t => (∀ p : Fin 64,
    (t.pairRt p.val).st = .disabled) ∧ t.hif.linkUp = false ∧ t.hif.linkSpeed = 0 ∧ t.regs = hifRegsReset s.regs ∧ t.pw =
    { s.pw with lock := putBit s.pw.lock 3 false }) ∧
  (∀ (s : State), Completes [.regs, .pw, .hif, .stp, .out] (.pcieHotReset) s fun t => (∀ p : Fin 64, (t.pairRt p.val).st =
    .disabled) ∧ t.hif.flrSeen = true ∧ t.hif.vectors = [] ∧ t.regs = hifRegsReset s.regs ∧ t.pw =
    { s.pw with lock := putBit s.pw.lock 3 false }) ∧
  (∀ (s : State), Completes [.regs, .pw, .hif, .stp, .out] (.functionLevelReset) s fun t => (∀ p : Fin 64, (t.pairRt p.val).st
    = .disabled) ∧ t.hif.flrSeen = true ∧ t.hif.vectors = [] ∧ t.regs = hifRegsReset s.regs ∧ t.pw =
    { s.pw with lock := putBit s.pw.lock 3 false }) ∧
  (∀ (s : State), Completes [.regs, .pw, .hif, .stp, .out] (.busMasterDisable) s fun t => (∀ p : Fin 64, (t.pairRt p.val).st =
    .disabled) ∧ t.regs = hifRegsReset s.regs ∧ t.pw = { s.pw with lock := putBit s.pw.lock 3 false }) ∧
  (∀ (s : State), exec (.badAccess true) s = .next { s with hif := { s.hif with badAccSeen := true } }) ∧
  (∀ (s : State), exec (.badAccess false) s = .next
    { s with hif := { s.hif with badAccSeen := true }, out := .readData 0xFFFFFFFF :: s.out })

/-- Rings: RINGS_EN, ENABLE, RESET, doorbells. RINGS_EN is set; its clear returns every pair to DISABLED and resets no other
register; a pair with a good configuration that the life cycle serves is enabled, one with a bad configuration gets
ERR_CODE 0x03; RESET returns a pair to DISABLED with its counts at zero; an acceptable submission or completion doorbell of
a RUNNING pair sets its count and leaves it RUNNING, another puts the pair in ERROR with 0x0E; a submission doorbell of a
pair that is not RUNNING is only counted. Rests on log entries 29, 30, 31, 85, 116. (R83, R87, R89, R90, R116, R117.) -/
def Obligations.RingsAndDoorbells : Prop :=
  (∀ (s : State), s.hostUp = true → exec .ringsEnSet s = .next (s.setReg 0x3000 (putBit (s.reg 0x3000) 0 true))) ∧
  (∀ (s : State), s.hostUp = true → Completes [.regs, .hif, .stp, .out] (.ringsEnClear) s fun t => (∀ p : Fin 64, (t.pairRt
    p.val).st = .disabled) ∧ t.regs = regSet s.regs 0x3000 (putBit (s.reg 0x3000) 0 false)) ∧
  (∀ (s : State) (p : Pair) (w : Word), s.hostUp = true → s.pairEnabled p.val = false → (s.writeBits (0x3808 + 0x10 * p.val)
    w).rbit 0x3000 0 = true → (s.writeBits (0x3808 + 0x10 * p.val) w).ringServed p.val = true → ringConfigOk (s.writeBits
    (0x3808 + 0x10 * p.val) w).regs p.val = true → Completes [.regs, .pw, .hif, .out] (.ringEnable p w) s fun t => (t.pairRt
    p.val).st = .running ∧ t.regs = (s.writeBits (0x3808 + 0x10 * p.val) w).regs) ∧
  (∀ (s : State) (p : Pair) (w : Word), s.hostUp = true → s.pairEnabled p.val = false → (s.writeBits (0x3808 + 0x10 * p.val)
    w).rbit 0x3000 0 = true → (s.writeBits (0x3808 + 0x10 * p.val) w).ringServed p.val = true → ringConfigOk (s.writeBits
    (0x3808 + 0x10 * p.val) w).regs p.val = false → Completes [.regs, .pw, .hif, .out] (.ringEnable p w) s fun t => (t.pairRt
    p.val).errCode = 0x03 ∧ (t.pairRt p.val).st = (s.pairRt p.val).st) ∧
  (∀ (s : State) (p : Pair), s.hostUp = true → Completes [.hif, .stp, .out] (.ringReset p) s fun t => (t.pairRt p.val).st =
    .disabled ∧ (t.pairRt p.val).fetched = 0 ∧ (t.pairRt p.val).written = 0 ∧ (t.pairRt p.val).subDb = 0 ∧ (t.pairRt
    p.val).cplDb = 0 ∧ (t.pairRt p.val).dbIgn = 0) ∧
  (∀ (s : State) (p : Pair) (v : Word), s.hostUp = true → (s.pairRt p.val).st = .running → subDoorbellOk (ringSize s.regs
    p.val) (s.pairRt p.val) v = true → Completes [.hif, .out] (.submissionDoorbell p v) s fun t => (t.pairRt p.val).subDb = v
    ∧ (t.pairRt p.val).st = .running) ∧
  (∀ (s : State) (p : Pair) (v : Word), s.hostUp = true → (s.pairRt p.val).st = .running → subDoorbellOk (ringSize s.regs
    p.val) (s.pairRt p.val) v = false → Completes [.hif, .out] (.submissionDoorbell p v) s fun t => (t.pairRt p.val).st =
    .error ∧ (t.pairRt p.val).errCode = 0x0E) ∧
  (∀ (s : State) (p : Pair) (v : Word), s.hostUp = true → (s.pairRt p.val).st ≠ .running → Completes [.hif, .out]
    (.submissionDoorbell p v) s fun t => t.hif.pairs = tmod {} s.hif.pairs p.val (fun r =>
    { r with dbIgn := satInc 0xFFFF r.dbIgn }) ∧ t.out = s.out) ∧
  (∀ (s : State) (p : Pair) (v : Word), s.hostUp = true → (s.pairRt p.val).st = .running → cplDoorbellOk (ringSize s.regs (64
    + p.val)) (s.pairRt p.val) v = true → Completes [.hif, .out] (.completionDoorbell p v) s fun t => (t.pairRt p.val).cplDb =
    v ∧ (t.pairRt p.val).st = .running) ∧
  (∀ (s : State) (p : Pair) (v : Word), s.hostUp = true → (s.pairRt p.val).st = .running → cplDoorbellOk (ringSize s.regs (64
    + p.val)) (s.pairRt p.val) v = false → Completes [.hif, .out] (.completionDoorbell p v) s fun t => (t.pairRt p.val).st =
    .error ∧ (t.pairRt p.val).errCode = 0x0E)

/-- Fetched descriptors, host data, grants, held entries. A fetched descriptor of a RUNNING pair counts on it; its fetch that
ends in an error or a timeout puts the pair in ERROR with 0x05 or 0x06; the last read of a descriptor hands it over, a
failed or timed-out one frees its request; a grant, of a request that is not reserved for step-class rings, goes to the one
pair of another class that waits; a held entry is written once there is room, and no longer held. Rests on log entries 33,
34, 103. (R92, R104, R111, R112, R115.) -/
def Obligations.FetchesAndReadsOfHostMemory : Prop :=
  (∀ (s : State) (p : Pair) (b : List Byte), (s.pairRt p.val).st = .running → (s.pairRt p.val).fetchOut ≠ [] → Completes
    [.hif, .out] (.descriptorFetch p (.data b)) s fun t => (t.pairRt p.val).fetched = (s.pairRt p.val).fetched + 1) ∧
  (∀ (s : State) (p : Pair), (s.pairRt p.val).st = .running → (s.pairRt p.val).fetchOut ≠ [] → Completes [.hif, .out]
    (.descriptorFetch p .error) s fun t => (t.pairRt p.val).st = .error ∧ (t.pairRt p.val).errCode = 0x05) ∧
  (∀ (s : State) (p : Pair), (s.pairRt p.val).st = .running → (s.pairRt p.val).fetchOut ≠ [] → Completes [.hif, .out]
    (.hostReadTimeout p true) s fun t => (t.pairRt p.val).st = .error ∧ (t.pairRt p.val).errCode = 0x06) ∧
  (∀ (s : State) (p : Pair) (e : Entry) (b : List Byte), (s.pairRt p.val).readsData = true → s.readingEntry p.val = some e →
    e.need ≤ 1 → Completes [.hif, .out] (.hostReadCompletion p (.data b)) s fun t => (t.pairRt p.val).entries.any (fun x =>
    decide (x.sub = e.sub) && decide (x.stage = .handed)) = true ∧ (t.pairRt p.val).inFlight = (s.pairRt p.val).inFlight - 1)
    ∧
  (∀ (s : State) (p : Pair) (e : Entry), (s.pairRt p.val).readsData = true → s.readingEntry p.val = some e → e.need ≤ 1 →
    Completes [.hif, .out] (.hostReadCompletion p .error) s fun t => (t.pairRt p.val).inFlight = (s.pairRt p.val).inFlight - 1
    ∧ t.hif.outstanding = s.hif.outstanding - 1) ∧
  (∀ (s : State) (p : Pair) (e : Entry), (s.pairRt p.val).readsData = true → s.readingEntry p.val = some e → e.need ≤ 1 →
    Completes [.hif, .out] (.hostReadTimeout p false) s fun t => (t.pairRt p.val).inFlight = (s.pairRt p.val).inFlight - 1 ∧
    t.hif.outstanding = s.hif.outstanding - 1) ∧
  (∀ (s : State) (p : Pair) (k : Nat), s.hif.waiting = [(p.val, k + 1)] → (∀ q : Fin 64, q ≠ p → (s.pairRt q.val).fetchWait =
    []) → pairClass s.regs p.val ≠ 0 → s.hif.outstanding < 96 → s.hif.outstanding - s.hif.stepOut < 96 - stepReserve s.regs →
    Completes [.hif, .out] (.hostReadGrant) s fun t => t.hif.outstanding = s.hif.outstanding + 1 ∧ t.hif.waiting = tmod 0
    s.hif.waiting p.val (· - 1) ∧ t.hif.lastGrant = p.val ∧ (t.pairRt p.val).inFlight = (s.pairRt p.val).inFlight + 1) ∧
  (∀ (s : State) (p : Pair) (k : Nat) (r : List Nat), s.hif.waiting = [] → (∀ q : Fin 64, q ≠ p → (s.pairRt q.val).fetchWait =
    []) → (s.pairRt p.val).fetchWait = k :: r → (s.pairRt p.val).mayFetch = true → pairClass s.regs p.val ≠ 0 →
    s.hif.outstanding < 96 → s.hif.outstanding - s.hif.stepOut < 96 - stepReserve s.regs → Completes [.hif, .out]
    (.hostReadGrant) s fun t => t.hif.outstanding = s.hif.outstanding + 1 ∧ t.hif.lastGrant = p.val ∧ (t.pairRt
    p.val).fetchOut = (s.pairRt p.val).fetchOut ++ [k] ∧ (t.pairRt p.val).fetchWait = r) ∧
  (∀ (s : State) (p : Pair) (k : Cpl), (s.pairRt p.val).held = [k] → (s.pairRt p.val).discarded = 0 → hasRoom s.hxCtx p.val 1
    s.hif = true → Completes [.hif, .out] (.heldCompletionFlush p) s fun t => (t.pairRt p.val).held = [] ∧ (t.pairRt
    p.val).written = (s.pairRt p.val).written + 1)

/-- Interrupt vectors, table READs, event masks, status requests. A moderated vector with unsignalled entries fires at its
timeout, or becomes pending while masked; a write of a vector table entry sets its address, its data or its mask, unmasking
sends a pending vector; TABLE_READ and UPDATE_STATUS write their bytes to host memory and complete; EVENT_MASK sets the
mask of its event ring; a LOAD of a read-only table is refused with 0x02. Rests on log entries 21, 32, 34. (R97, R106,
R109, R110, R577.) -/
def Obligations.VectorsReadsAndMasks : Prop :=
  (∀ (s : State) (v : Fin 128), (tget {} s.hif.vectors v.val).unsignalled > 0 → (tget {} s.hif.vectors v.val).masked = false →
    Completes [.hif, .out] (.msixModerationTimeout v) s fun t => t.out = .msix v.val (tget {} s.hif.vectors v.val).addr (tget
    {} s.hif.vectors v.val).data :: s.out ∧ (tget {} t.hif.vectors v.val).unsignalled = 0) ∧
  (∀ (s : State) (v : Fin 128), (tget {} s.hif.vectors v.val).unsignalled > 0 → (tget {} s.hif.vectors v.val).masked = true →
    Completes [.hif, .out] (.msixModerationTimeout v) s fun t => t.out = s.out ∧ (tget {} t.hif.vectors v.val).pending = true)
    ∧
  (∀ (s : State) (v : Fin 128) (a : BitVec 64), exec (.msixUnmask ⟨v, .address a⟩) s = .next
    { s with hif := { s.hif with vectors := tput {} { (tget {} s.hif.vectors v.val) with addr := a } s.hif.vectors v.val } })
    ∧
  (∀ (s : State) (v : Fin 128) (d : Word), exec (.msixUnmask ⟨v, .data d⟩) s = .next
    { s with hif := { s.hif with vectors := tput {} { (tget {} s.hif.vectors v.val) with data := d } s.hif.vectors v.val } })
    ∧
  (∀ (s : State) (v : Fin 128), exec (.msixUnmask ⟨v, .mask⟩) s = .next
    { s with hif := { s.hif with vectors := tput {} { (tget {} s.hif.vectors v.val) with masked := true } s.hif.vectors v.val } })
    ∧
  (∀ (s : State) (v : Fin 128), (tget {} s.hif.vectors v.val).pending = true → Completes [.hif, .out] (.msixUnmask ⟨v,
    .unmask⟩) s fun t => (tget {} t.hif.vectors v.val).masked = false ∧ (tget {} t.hif.vectors v.val).pending = false ∧ t.out
    = .msix v.val (tget {} s.hif.vectors v.val).addr (tget {} s.hif.vectors v.val).data :: s.out) ∧
  (∀ (s : State) (v : Fin 128), (tget {} s.hif.vectors v.val).pending = false → Completes [.hif, .out] (.msixUnmask ⟨v,
    .unmask⟩) s fun t => (tget {} t.hif.vectors v.val).masked = false ∧ t.out = s.out) ∧
  (∀ (s : State) (p : Pair) (e : Entry), s.takeOp p.val 1 2 = some e → exec (.tableRead p) s = .next ((s.hostWrite e.addr
    ((List.range e.count).flatMap (fun i => s.tableEntry e.tblBlock e.tblNum (e.first + i)))).finish p.val e.sub 0
    (BitVec.ofNat 64 e.count))) ∧
  (∀ (s : State) (p : Pair) (e : Entry), s.takeOp p.val 7 1 = some e → exec (.updateStatus p) s = .next ((s.tookFree.hostWrite
    e.addr s.statusRecord).finish p.val e.sub 0 64)) ∧
  (∀ (s : State) (p : Pair) (e : Entry), s.takeOp p.val 6 1 = some e → Completes [.hif, .out] (.eventMask p) s fun t =>
    (t.pairRt p.val).evtMask = BitVec.ofNat 12 (e.bytes 16 2)) ∧
  (∀ (s : State) (p : Pair) (e : Entry) (n size : Nat), s.takeOp p.val 1 1 = some e → tableShape e.tblBlock e.tblNum = some
    (n, size, false) → s.roleActs = true → exec (.readOnlyTableLoad p) s = .next (s.finish p.val e.sub 0x02 0))

/-- STEP, its deferred admission, CANCEL and FLUSH. On the HIVE a STEP that passes every check of acceptance and the lead
test takes the next acceptance number and, with an action still open, is pending; a STEP held at the front is judged the
same way once fewer than 96 are pending; elsewhere it is refused with 0x10. CANCEL in time leaves the step it names
cancelled or closed, late it completes with 0x1B, of an unknown step with 0x1C; FLUSH leaves every step of its ring that is
in time cancelled or closed. Each is taken in the turn of its ring among the step rings, which is then the ring served
last. Rests on log entries 35, 37, 38, 88, 117. (R119, R122, R131, R142, R146, R150, R151.) -/
def Obligations.StepsOnTheHive : Prop :=
  (∀ (s : State) (p : Pair) (e : Entry) (k : StepEntry) (slack : Int), s.takeOp p.val 0 1 = some e → s.stepTurn p = true →
    s.roleHive = true → s.stp.steps.length < 96 → stepNoncanon e = none → s.stepEntry p e ((List.range (e.bytes 28 2)).map
    (actionAt e.data)) = k → s.stepFault e ((List.range (e.bytes 28 2)).map (actionAt e.data)) k.instant k.atomic = none →
    s.admittedAs { instant := k.instant, lead := k.lead, unsent := k.nf, new := true } = some slack → s.findStep k.seq = none
    → k.status.any (fun x => x.isNone) = true → Completes [.hif, .stp, .fio, .twn, .out] (.step p) s fun t => t.stp.accSeq =
    s.stp.accSeq + 1 ∧ (t.findStep k.seq).isSome = true ∧ t.stp.lateCnt = s.stp.lateCnt ∧ t.stp.lastRing = p.val) ∧
  (∀ (s : State) (p : Pair) (e : Entry) (k : StepEntry) (slack : Int), s.takeOp p.val 0 1 = some e → s.stepTurn p = true →
    s.roleHive = true → s.stp.steps.length < 96 → stepNoncanon e = none → s.stepEntry p e ((List.range (e.bytes 28 2)).map
    (actionAt e.data)) = k → s.stepFault e ((List.range (e.bytes 28 2)).map (actionAt e.data)) k.instant k.atomic = none →
    s.admittedAs { instant := k.instant, lead := k.lead, unsent := k.nf, new := true } = some slack → s.findStep k.seq = none
    → k.status.any (fun x => x.isNone) = true → Completes [.hif, .stp, .fio, .twn, .out] (.stepDeferredAdmit p) s fun t =>
    t.stp.accSeq = s.stp.accSeq + 1 ∧ (t.findStep k.seq).isSome = true ∧ t.stp.lateCnt = s.stp.lateCnt ∧ t.stp.lastRing =
    p.val) ∧
  (∀ (s : State) (p : Pair) (e : Entry), s.takeOp p.val 0 1 = some e → s.stepTurn p = true → s.roleHive = false → exec (.step
    p) s = .next ((s.turnTaken p).refuseStep p e 0x10)) ∧
  (∀ (s : State) (p : Pair) (e : Entry) (k : StepEntry), s.takeOp p.val 0 2 = some e → s.stepTurn p = true → s.roleHive = true
    → s.stp.steps.find? (fun k => decide (k.stepId.toNat = e.bytes 24 4)) = some k → s.cancelInTime k = true → Completes
    [.hif, .stp, .fio, .twn, .out] (.stepCancel p) s fun t => (t.stp.steps.all (fun x => decide (x.seq ≠ k.seq) ||
    x.cancelled) = true ∨ k.cancelled = true) ∧ t.stp.lastRing = p.val) ∧
  (∀ (s : State) (p : Pair) (e : Entry), s.takeOp p.val 0 2 = some e → s.stepTurn p = true → s.roleHive = true →
    s.stp.steps.find? (fun k => decide (k.stepId.toNat = e.bytes 24 4)) = none → exec (.stepCancel p) s = .next ((s.turnTaken
    p).finish p.val e.sub 0x1C (cancelResult (e.bytes 24 4)))) ∧
  (∀ (s : State) (p : Pair) (e : Entry) (k : StepEntry), s.takeOp p.val 0 2 = some e → s.stepTurn p = true → s.roleHive = true
    → s.stp.steps.find? (fun k => decide (k.stepId.toNat = e.bytes 24 4)) = some k → s.cancelInTime k = false → exec
    (.stepCancel p) s = .next ((s.turnTaken p).finish p.val e.sub 0x1B (cancelResult (e.bytes 24 4)))) ∧
  (∀ (s : State) (p : Pair) (e : Entry), s.takeOp p.val 0 3 = some e → s.stepTurn p = true → s.roleHive = true → Completes
    [.hif, .stp, .fio, .twn, .out] (.stepFlush p) s fun t => t.stp.steps.all (fun x => decide (x.pair ≠ p) || !s.cancelInTime
    x || x.cancelled) = true ∧ t.stp.lastRing = p.val)

/-- Relay frames, STEP_CTRL entries and the part deadline on a station. A valid relay frame of a step not seen before, its
part deadline not passed, opens a part: where it names this station, fewer than 96 parts are held and it is complete, the
part answers; where it does not name this station, the part only keeps what it has got. One whose CRC is bad is only
counted as such. A valid COMMIT arms a waiting part, ABORT ends a waiting one with status 0x08 to report, CANCEL an armed
one with 0x01. At the part deadline a waiting part ends with 0x08, a part that lacks frames is held no more, and the step
of that number is neither relayed nor decided on any more on its HIVE; before it nothing of either happens. Rests on log
entries 38, 39. (R135, R136, R137, R139, R140, R143, R376.) -/
def Obligations.StepsOnAStation : Prop :=
  (∀ (s : State) (h : FrameHdr) (f : RelayFrame), s.takesFrames = true → h.crcOk = true → s.frameFits h 0x10 = true →
    s.findPart f.seq = none → 0 ≤ s.time.tb1.tickOf (tadd f.instant (-2000)) → f.actions.any (fun a => decide (aStn a =
    s.station)) = false → Completes [.stp, .wag] (.stepRelayReceive ⟨h, f⟩) s fun t => t.stp =
    { s.stp with parts := s.stp.parts ++ [{ seq := f.seq, instant := f.instant, atomic := tbit f.flags 0, nf := f.nf, got := [(f.index, f.actions)] }] })
    ∧
  (∀ (s : State) (h : FrameHdr) (f : RelayFrame), s.takesFrames = true → h.crcOk = true → s.frameFits h 0x10 = true →
    s.findPart f.seq = none → 0 ≤ s.time.tb1.tickOf (tadd f.instant (-2000)) → f.actions.any (fun a => decide (aStn a =
    s.station)) = true → s.partCount < 96 → f.nf ≤ 1 → Completes [.stp, .wag] (.stepRelayReceive ⟨h, f⟩) s fun t =>
    (t.findPart f.seq).map (fun x => x.st) = some .answering) ∧
  (∀ (s : State) (h : FrameHdr) (f : RelayFrame), s.takesFrames = true → h.crcOk = false → exec (.stepRelayReceive ⟨h, f⟩) s =
    .next { s with wag := { (s.wag.noteFrame h false) with crcErr := satInc 0xFFFF s.wag.crcErr } }) ∧
  (∀ (s : State) (h : FrameHdr) (seq : Word) (x : Part), s.takesFrames = true → h.crcOk = true → s.frameFits h 0x11 = true →
    s.findPart seq = some x → x.st = .waiting → Completes [.stp, .fio, .wag] (.stepCtrlReceive h [(.commit, seq)]) s fun t =>
    (t.findPart seq).map (fun x => x.st) = some .armed) ∧
  (∀ (s : State) (h : FrameHdr) (seq : Word) (x : Part), s.takesFrames = true → h.crcOk = true → s.frameFits h 0x11 = true →
    s.findPart seq = some x → x.st = .waiting → Completes [.stp, .fio, .wag] (.stepCtrlReceive h [(.abort, seq)]) s fun t =>
    t.findPart seq = some (x.endWith s.station 0x08)) ∧
  (∀ (s : State) (h : FrameHdr) (seq : Word) (x : Part), s.takesFrames = true → h.crcOk = true → s.frameFits h 0x11 = true →
    s.findPart seq = some x → x.st = .armed → Completes [.stp, .fio, .wag] (.stepCtrlReceive h [(.cancel, seq)]) s fun t =>
    t.findPart seq = some (x.endWith s.station 0x01)) ∧
  (∀ (s : State) (seq : Word) (e : StepEntry), s.findPart seq = none → s.findStep seq = some e → s.reached e.partDeadline =
    true → Completes [.hif, .stp, .fio, .twn, .out] (.partDeadline seq) s fun t => t.stp.steps.all (fun x => decide (x.seq ≠
    seq) || (!x.relaying && !x.ctrlOpen)) = true) ∧
  (∀ (s : State) (seq : Word) (x : Part), s.findPart seq = some x → x.st = .waiting → s.findStep seq = none → s.reached
    (stepPartDeadline x.instant) = true → Completes [.hif, .stp, .fio, .twn, .out] (.partDeadline seq) s fun t => t.findPart
    seq = some (x.endWith s.station 0x08)) ∧
  (∀ (s : State) (seq : Word) (x : Part), s.findPart seq = some x → x.st = .collecting → s.findStep seq = none → s.reached
    (stepPartDeadline x.instant) = true → Completes [.hif, .stp, .fio, .twn, .out] (.partDeadline seq) s fun t => t.findPart
    seq = none) ∧
  (∀ (s : State) (seq : Word) (e : StepEntry) (x : Part), s.stp.tail = [] → s.findPart seq = some x → s.findStep seq = some e
    → s.reached (stepPartDeadline x.instant) = false → s.reached e.partDeadline = false → exec (.partDeadline seq) s = .next
    s)

/-- What a HIVE does with answers, reports and the instants of a step. A valid READY of a station of the step that has not
answered is noted; its valid refusal of a step that is not atomic is noted and gives the open actions of that station
status 0x05; its valid report, the first, gives its actions their status: each where actions stay open after it. At the
commit decision an atomic step without commit or abort is aborted or closed, none of it armed or relayed; before that
instant it is left alone. The cut-off changes nothing by itself. At the report deadline the step is pending no more, before
it it is left alone. Rests on log entries 38, 87, 89. (R136, R137, R138, R139, R148, R150.) -/
def Obligations.AnswersReportsAndCloses : Prop :=
  (∀ (s : State) (h : FrameHdr) (n : Nat) (seq : Word) (e : StepEntry), s.takesFrames = true → h.crcOk = true → s.frameFits h
    0x12 = true → (h.src.val ≠ s.station ∨ s.roleActs = true) → s.findStep seq = some e → e.stations.contains h.src.val = true
    → e.answers.any (fun x => decide (x.1 = h.src.val)) = false → e.status.any (fun x => x.isNone) = true → Completes [.hif,
    .stp, .fio, .wag, .twn, .out] (.stepAnswerReceive h (.ready n, seq) []) s fun t => (t.findStep seq).map (fun x =>
    x.answers) = some (e.answers ++ [(h.src.val, 1)])) ∧
  (∀ (s : State) (h : FrameHdr) (r i : Nat) (seq : Word) (e : StepEntry), s.takesFrames = true → h.crcOk = true → s.frameFits
    h 0x12 = true → (h.src.val ≠ s.station ∨ s.roleActs = true) → s.findStep seq = some e → e.stations.contains h.src.val =
    true → e.answers.any (fun x => decide (x.1 = h.src.val)) = false → e.atomic = false → (e.setStatus (e.mine h.src.val)
    0x05).status.any (fun x => x.isNone) = true → Completes [.hif, .stp, .fio, .wag, .twn, .out] (.stepAnswerReceive h
    (.refused r i, seq) []) s fun t => (t.findStep seq).map (fun x => (x.answers, x.status)) = some (e.answers ++ [(h.src.val,
    2)], (e.setStatus (e.mine h.src.val) 0x05).status)) ∧
  (∀ (s : State) (h : FrameHdr) (r : StepReport) (e : StepEntry), s.takesFrames = true → h.crcOk = true → s.frameFits h 0x13 =
    true → (h.src.val ≠ s.station ∨ s.roleActs = true) → s.findStep r.seq = some e → e.stations.contains h.src.val = true →
    e.reported.contains h.src.val = false → (e.report h.src.val r).status.any (fun x => x.isNone) = true → Completes [.hif,
    .stp, .fio, .wag, .twn, .out] (.stepReportReceive h [r]) s fun t => t.findStep r.seq = some (e.report h.src.val r)) ∧
  (∀ (s : State) (seq : Word) (e : StepEntry), s.findStep seq = some e → e.atomic = true → e.committed = false → e.aborted =
    false → s.reached e.cutOff = true → Completes [.hif, .stp, .fio, .twn, .out] (.commitDecision seq) s fun t =>
    t.stp.steps.all (fun x => decide (x.seq ≠ seq) || (x.aborted && !x.armed && !x.relaying)) = true) ∧
  (∀ (s : State) (seq : Word) (e : StepEntry), s.findStep seq = some e → s.reached e.cutOff = false → exec (.commitDecision
    seq) s = .next s) ∧
  (∀ (s : State) (seq : Word), exec (.cancelCutOff seq) s = .next s) ∧
  (∀ (s : State) (seq : Word) (e : StepEntry), s.findStep seq = some e → s.reached e.reportDeadline = true → Completes [.hif,
    .stp, .fio, .twn, .out] (.reportDeadline seq) s fun t => t.findStep seq = none) ∧
  (∀ (s : State) (seq : Word) (e : StepEntry), s.findStep seq = some e → s.reached e.reportDeadline = false → exec
    (.reportDeadline seq) s = .next s)

/-- Launches, the dry event and base periods. STEP_LAUNCH on a module that replays no holder, with one part and no step of
its own, armed and its instant reached, leaves that part to report its actions launched with 0x00, or untimed with 0x06
where TB1 is not usable; STEP_DRY on a HIVE with the dry count running, an empty scheduler and the dry event enabled and
not yet raised marks it raised, raises event 0x1F and tells the block runtime; a base period start of a running Comb counts
the base period, the first one starts Comb at the TB1 of that instant. Rests on log entries 28, 39, 40. (R144, R145, R156,
R160, R166.) -/
def Obligations.LaunchesDryAndBasePeriods : Prop :=
  (∀ (s : State) (x : Part), s.replays = false → s.stp.steps = [] → s.stp.parts = [x] → x.st = .armed → s.time.tb1.tickOf
    x.instant ≤ 0 → Completes [.hif, .stp, .cmb, .blk, .cnv, .fio, .mir, .bog, .twn, .out, .freeIdx] (.stepLaunch) s fun t =>
    t.stp.parts =
    [{ x with handed := x.handed || (s.timed && s.roleActs), st := .report, status := (x.actionsOf s.station).map (fun _ => if s.timed then 0x00 else 0x06) }])
    ∧
  (∀ (s : State), s.roleHive = true → s.stp.dryRuns = true → s.stp.steps = [] → s.rbit 0x4000 1 = true → s.stp.dry = false →
    exec .stepDry s = .next (State.blockEvent (State.raise { s with stp := { s.stp with dry := true, dryRuns := false } } 0x1F
    0) (s.rfld 0x4000 15 8) 0)) ∧
  (∀ (s : State) (enc : List EncReading), s.pw.logic = .run → s.cmb.running = true → Completes [.time, .pw, .hif, .stp, .cmb,
    .blk, .cnv, .fio, .mir, .bog, .wag, .twn, .saf, .drn, .leg, .lcy, .peat, .out, .freeIdx] (.basePeriodStart enc) s fun t =>
    t.cmb.n = s.cmb.n + 1 ∧ t.cmb.running = true ∧ t.cmb.epoch = s.cmb.epoch) ∧
  (∀ (s : State) (enc : List EncReading), s.pw.logic = .run → s.cmb.running = false → Completes [.time, .pw, .hif, .stp, .cmb,
    .blk, .cnv, .fio, .mir, .bog, .wag, .twn, .saf, .drn, .leg, .lcy, .peat, .out, .freeIdx] (.basePeriodStart enc) s fun t =>
    t.cmb.n = 0 ∧ t.cmb.running = true ∧ t.cmb.epoch = s.time.tb1.ns)

/-- Comb: evaluations, class dividers, slot, microprogram and model loads. A due slot is due no more, takes the records that
wait for it and, where it is then enabled, is evaluated in this base period from its dispatch on; a class divider that
divides 500, of a class with no enabled slot, is stored, one that does not divide 500 sets CFG_ERR, and a locked one is not
stored, its change noted; on a member that acts and mirrors to no standby an accepted slot load replaces its records and
the peak of lane cycles, a microprogram load its words, a model load its records, no slot record changed. Rests on log
entries 32, 40, 41, 42, 95, 96, 97, 98, 100, 101, 114. (R162, R164, R172, R178, R187, R191, R197.) -/
def Obligations.CombTablesAndEvaluations : Prop :=
  (∀ (s : State) (k : Fin 4096) (x : Nat × Nat × Nat), s.cmb.due.find? (fun x => decide (x.1 = k.val)) = some x →
    ((State.takeRecords { s with cmb := { s.cmb with due := s.cmb.due.filter (fun y => decide (y.1 ≠ k.val)) } }
    k.val).cmb.slotRt k.val).on = true → exec (.slotEvaluation k) s = .next (((State.takeRecords
    { s with cmb := { s.cmb with due := s.cmb.due.filter (fun y => decide (y.1 ≠ k.val)) } } k.val).evaluate k.val s.cmb.n
    x.2.1 x.2.2).settleLoads.judgePhase)) ∧
  (∀ (s : State) (k : Fin 4096) (x : Nat × Nat × Nat), s.cmb.due.find? (fun x => decide (x.1 = k.val)) = some x →
    ((State.takeRecords { s with cmb := { s.cmb with due := s.cmb.due.filter (fun y => decide (y.1 ≠ k.val)) } }
    k.val).cmb.slotRt k.val).on = false → exec (.slotEvaluation k) s = .next (State.takeRecords
    { s with cmb := { s.cmb with due := s.cmb.due.filter (fun y => decide (y.1 ≠ k.val)) } } k.val).settleLoads.judgePhase) ∧
  (∀ (s : State) (c : Fin 8) (w : Word), s.hostUp = true → c.val ≠ 0 → c.val ≠ 7 → s.rwlOpen 5 = true → fld w 8 0 ≠ 0 → 500 %
    fld w 8 0 = 0 → s.classInUse c.val = false → exec (.cmbClassWrite c w) s = .next (s.setReg (0x5040 + 4 * c.val)
    (BitVec.ofNat 32 (fld w 8 0)))) ∧
  (∀ (s : State) (c : Fin 8) (w : Word), s.hostUp = true → c.val ≠ 0 → c.val ≠ 7 → s.rwlOpen 5 = true → (fld w 8 0 = 0 ∨ 500 %
    fld w 8 0 ≠ 0) → exec (.cmbClassWrite c w) s = .next { s with cmb := { s.cmb with cfgErr := true } }) ∧
  (∀ (s : State) (c : Fin 8) (w : Word), s.hostUp = true → c.val ≠ 0 → c.val ≠ 7 → s.rwlOpen 5 = false → exec (.cmbClassWrite
    c w) s = .next (s.noteLock 5 (decide (fld w 8 0 ≠ s.classDiv c.val)))) ∧
  (∀ (s : State) (p : Pair) (e : Entry) (cl : List Claim) (ds : List Disp) (peak : Nat), s.takeLoad p 5 1 = some e →
    s.roleActs = true → s.mirrors = false → firstNoncanon 160 ((List.range 8).map (fun i => (11 + i, true))) e.data = none →
    judgeSlots s s.loopDst (withIndex e.first e.words1280) = .ok (cl, ds, peak) → Completes [.hif, .cmb, .fio, .out]
    (.slotTableLoad p) s fun t => t.cmb.slots = tload (fun _ => 0) s.cmb.slots (withIndex e.first e.words1280) ∧ t.cmb.peakCyc
    = peak) ∧
  (∀ (s : State) (p : Pair) (e : Entry), s.takeLoad p 5 2 = some e → s.roleActs = true → s.mirrors = false → (withIndex
    e.first ((List.range e.count).map (entryAt 32 4 e.data))).find? (fun x => decide (tget 0 s.cmb.store x.1 ≠ x.2) &&
    s.programsInUse.any (fun u => decide (u.1 ≤ x.1) && decide (x.1 ≤ u.2))) = none → Ends [.cmb] (.microprogramLoad p) s p e
    0 (BitVec.ofNat 64 e.count) fun t => t.cmb =
    { s.cmb with store := tload (fun _ => 0) s.cmb.store (withIndex e.first ((List.range e.count).map (entryAt 32 4 e.data))) })
    ∧
  (∀ (s : State) (p : Pair) (e : Entry), s.takeLoad p 5 3 = some e → s.roleActs = true → s.mirrors = false → firstNoncanon 64
    [(2, true)] e.data = none → (withIndex e.first e.words512).find? (fun x => !modelFieldsOk x.2 || (s.slotEnabled x.1 &&
    !modelFits (s.cmb.rec_ x.1) x.2)) = none → Completes [.hif, .cmb, .out] (.modelTableLoad p) s fun t => t.cmb.models =
    tload (fun _ => modelReset) s.cmb.models (withIndex e.first e.words512) ∧ t.cmb.slots = s.cmb.slots)

/-- The block runtime: releases, scan ends, maps, images, exchanges. On a module that runs its own tasks a release of a
RUNNING task starts a scan, of one whose scan has not ended it counts an overrun, the scan going on as a late one with its
last executed release unchanged; in a skipped base period there is no release; SCAN_END ends a scan and keeps the longest
time. On a member that acts and mirrors to no standby an input or output map load that changes no word an image names
replaces its entries; a judged image goes into the inactive bank; an accepted exchange to no image waits for its boundary.
At a release at least 100 µs after its acceptance, the old scan ended, a pending exchange to no image makes the task EMPTY;
one to an image makes it RUNNING with that image, in a release on the grid of the new period; an earlier release is no
boundary. Rests on log entries 43, 44, 46, 47, 105, 115. (R221, R224, R227, R229, R238, R250, R252.) -/
def Obligations.BlockTasks : Prop :=
  (∀ (s : State) (k : Fin 8), s.cmb.skip = false → s.runsOwnTasks = true → (s.task k.val).st = .running → (s.task
    k.val).scanning = false → Completes [.pw, .hif, .cmb, .blk, .fio, .wag, .twn, .drn, .lcy, .out, .freeIdx] (.taskRelease k)
    s fun t => (t.task k.val).scanning = true ∧ (t.task k.val).ended = false) ∧
  (∀ (s : State) (k : Fin 8), s.cmb.skip = false → s.runsOwnTasks = true → (s.task k.val).st = .running → (s.task
    k.val).scanning = true → (s.task k.val).ended = false → Completes [.pw, .hif, .cmb, .blk, .fio, .wag, .twn, .drn, .lcy,
    .out, .freeIdx] (.taskRelease k) s fun t => (t.task k.val).scanning = true ∧ (t.task k.val).lastRel = (s.task
    k.val).lastRel ∧ (t.task k.val).ovrCnt = satInc 0xFFFF (s.task k.val).ovrCnt ∧ (t.task k.val).late = true) ∧
  (∀ (s : State) (k : Fin 8), s.cmb.skip = true → exec (.taskRelease k) s = .next s) ∧
  (∀ (s : State) (k : Fin 8) (ns : Nat), (s.task k.val).scanning = true → (s.task k.val).ended = false → Completes [.hif,
    .blk, .out] (.scanEnd k ns) s fun t => (t.task k.val).ended = true ∧ (t.task k.val).maxNs = max (s.task k.val).maxNs (min
    ns 0xFFFFFFFF)) ∧
  (∀ (s : State) (p : Pair) (e : Entry), s.takeLoad p 6 1 = some e → s.roleActs = true → s.mirrors = false → (withIndex
    e.first e.words64).any (fun x => mapEntryBad inLimit x.2) = false → (withIndex e.first e.words64).find? (fun x =>
    (s.namedWords inWordsOf).contains x.1 && decide (tget 0 s.blk.inMap x.1 ≠ x.2)) = none → Ends [.blk] (.inputMapLoad p) s p
    e 0 (BitVec.ofNat 64 e.count) fun t => t.blk =
    { s.blk with inMap := tload (fun _ => 0) s.blk.inMap (withIndex e.first e.words64) }) ∧
  (∀ (s : State) (p : Pair) (e : Entry) (cl : List Claim), s.takeLoad p 6 2 = some e → s.roleActs = true → s.mirrors = false →
    (withIndex e.first e.words64).any (fun x => mapEntryBad outLimit x.2 || s.ffTaken (mapSrc x.2)) = false → (withIndex
    e.first e.words64).find? (fun x => (s.namedWords outWordsOf).contains x.1 && decide (tget 0 s.blk.outMap x.1 ≠ x.2)) =
    none → mapLoadClaims s.fio.claims (withIndex e.first e.words64) = .ok cl → Ends [.blk, .fio] (.outputMapLoad p) s p e 0
    (BitVec.ofNat 64 e.count) fun t => t.blk =
    { s.blk with outMap := tload (fun _ => 0) s.blk.outMap (withIndex e.first e.words64) } ∧ t.fio =
    { s.fio with claims := cl }) ∧
  (∀ (s : State) (p : Pair) (e : Entry) (b : List Byte), s.takeOp p.val 3 1 = some e → s.roleActs = true → s.mirrors = false →
    e.byte16 < 8 → 64 ≤ e.len → (s.task e.byte16).exch = none → (s.task e.byte16).restartReq = none → judgeImage e.word20
    e.len e.data = .ok b → Ends [.blk] (.loadImage p) s p e 0 (BitVec.ofNat 64 e.len) fun t => t.blk =
    { s.blk with tasks := tmod {} s.blk.tasks e.byte16 (fun r => { r with inactive := b }) }) ∧
  (∀ (s : State) (p : Pair) (e : Entry) (cores : List (Nat × Nat)) (cl : List Claim), s.takeOp p.val 3 2 = some e → s.roleActs
    = true → s.mirrors = false → e.byte16 < 8 → e.word20 = 0 → (s.task e.byte16).exch = none → (s.task e.byte16).restartReq =
    none → s.judgeExchange e.byte16 [] = .ok (cores, cl) → Completes [.hif, .blk, .fio, .out] (.exchange p) s fun t => (t.task
    e.byte16).exch = some { imageId := 0, pair := p, sub := e.sub, at_ := s.time.tb1.ns, mine := s.runsOwnTasks } ∧ t.fio =
    { s.fio with claims := cl }) ∧
  (∀ (s : State) (k : Fin 8) (q : ExchReq), (s.task k.val).exch = some q → ((s.task k.val).scanning = false ∨ (s.task
    k.val).ended = true) → s.runsOwnTasks = true → 100000 ≤ sdiff s.time.tb1.ns q.at_ → q.imageId = 0 → (s.task
    k.val).incoming = [] → Completes [.hif, .cmb, .blk, .fio, .wag, .twn, .out, .freeIdx] (.exchangeBoundary k) s fun t =>
    (t.task k.val).exch = none ∧ (t.task k.val).st = .empty ∧ (t.task k.val).active = []) ∧
  (∀ (s : State) (k : Fin 8) (q : ExchReq), (s.task k.val).exch = some q → ((s.task k.val).scanning = false ∨ (s.task
    k.val).ended = true) → s.runsOwnTasks = true → 100000 ≤ sdiff s.time.tb1.ns q.at_ → s.gridNow % iPeriod (s.task
    k.val).incoming = 0 → (s.task k.val).incoming ≠ [] → Completes [.hif, .cmb, .blk, .fio, .wag, .twn, .out, .freeIdx]
    (.exchangeBoundary k) s fun t => (t.task k.val).exch = none ∧ (t.task k.val).st = .running ∧ (t.task k.val).active =
    (s.task k.val).incoming ∧ (t.task k.val).core = (s.task k.val).coreNext) ∧
  (∀ (s : State) (k : Fin 8) (q : ExchReq), (s.task k.val).exch = some q → sdiff s.time.tb1.ns q.at_ < 100000 → exec
    (.exchangeBoundary k) s = .next s)

/-- LOCK_SET, and register writes under the lock rules. A write of LOCK sets the bits written as 1 and clears none; a write
of a present register that no command of its own serves, no ring register and none of an armed pulse output stores the RW
bits and, where the lock of the block lets them be written, the RWL bits, within the range of the register, and no other
register changes; with the lock set after the configuration is done a write that would change RWL bits is noted. Rests on
log entries 20, 26, 36. (R12, R13, R611, R612, R615.) -/
def Obligations.RegisterWritesUnderLocks : Prop :=
  (∀ (s : State) (w : Word), s.hostUp = true → exec (.lockSet w) s = .next
    { s with pw := { s.pw with lock := s.pw.lock ||| BitVec.ofNat 16 (fld w 15 0) } }) ∧
  (∀ (s : State) (o : BitVec 16) (w : Word), s.hostUp = true → ownRow o.toNat = false → o.toNat % 4 = 0 → absentReg
    s.pw.variantL o.toNat = false → ringOf o.toNat = none → s.armedTpo o.toNat = false → Completes [.regs, .time, .pw, .hif,
    .stp, .cmb, .blk, .fio, .mir, .wag, .leg, .out] (.registerWrite o w) s fun t => t.reg o.toNat = regClamp o.toNat ((w &&&
    (regRw o.toNat ||| (if s.rwlOpen (blockOf o.toNat) then regRwl o.toNat else 0))) ||| (s.reg o.toNat &&& ~~~ (regRw o.toNat
    ||| (if s.rwlOpen (blockOf o.toNat) then regRwl o.toNat else 0)))) ∧ t.regs = regSet s.regs o.toNat (t.reg o.toNat)) ∧
  (∀ (s : State) (o : BitVec 16) (w : Word), s.hostUp = true → ownRow o.toNat = false → o.toNat % 4 = 0 → absentReg
    s.pw.variantL o.toNat = false → ringOf o.toNat = none → s.armedTpo o.toNat = false → s.pw.cfgDone = true → tbit s.pw.lock
    (blockOf o.toNat) = true → (w ^^^ s.reg o.toNat) &&& regRwl o.toNat ≠ 0 → o.toNat ≠ 0x0018 → Completes [.regs, .time, .pw,
    .hif, .stp, .cmb, .blk, .fio, .mir, .wag, .leg, .out] (.registerWrite o w) s fun t => t.pw.lockWrSeen = true)

/-- Time marks, the downlink, the uplink, absence, hold cycles and accepted inputs. A running logic side sends a time mark
with its TB1. On a powered field side a valid frame brings the oldest value of the downlink: a mark moves the shadow to its
TB1 plus 480 ns, ends the run of missed marks and shows the logic side present; a DAC value whose instant has not passed
waits for it, one whose instant has passed is discarded and CNV_DAC_LATE counts it; an eject notice is noted. An invalid
frame loses a mark and counts it as missed, at the twentieth the logic side counts as absent, the lists stop and the
interval of reduced service begins. A valid uplink frame brings the oldest value of the uplink to a running logic side, an
input change into the input image, and shows the field side present; an invalid one loses it. LOGIC_SIDE_ABSENT with no
handover under way is that absence, FIELD_SIDE_ABSENT clears the presence of the field side. At the end of a basic cycle
the view of the eject notice follows and the window results are judged anew; where one output alone is written, its feed
missing, the cycle is counted, and at the N-th or under policy 1 it goes to SAFE. An input change that has lasted the
filter time is accepted and sent up with its first raw transition. Rests on log entries 28, 50, 51, 55, 108. (R17, R19,
R20, R21, R296, R310, R311, R314.) -/
def Obligations.TheBarrier : Prop :=
  (∀ (s : State), s.pw.logic = .run → s.pw.variantL = false → Completes [.fio] (.downlinkTimeMark) s fun t => t.fio =
    { s.fio with down := s.fio.down ++ [.timeMark s.time.tb1.ns] }) ∧
  (∀ (s : State) (m : Time) (r : List DownItem), s.fio.down = .timeMark m :: r → s.pw.fieldUp = true → Completes [.time, .pw,
    .cnv, .fio, .twn, .saf, .drn, .lcy, .peat] (.downlinkFrame true) s fun t => t.fio = { s.fio with down := r } ∧
    t.time.shadow.ns = tadd m 480 ∧ t.pw.missedMarks = 0 ∧ t.pw.logicAbsent = false) ∧
  (∀ (s : State) (m : Time) (r : List DownItem), s.fio.down = .timeMark m :: r → s.pw.fieldUp = true → s.pw.missedMarks < 19 →
    Completes [.time, .pw, .cnv, .fio, .twn, .saf, .drn, .lcy, .peat] (.downlinkFrame false) s fun t => t.fio =
    { s.fio with down := r } ∧ t.time = s.time ∧ t.pw = { s.pw with missedMarks := s.pw.missedMarks + 1 }) ∧
  (∀ (s : State) (m : Time) (r : List DownItem), s.fio.down = .timeMark m :: r → s.pw.fieldUp = true → s.pw.missedMarks = 19 →
    s.pw.logicAbsent = false → Completes [.time, .pw, .cnv, .fio, .twn, .saf, .drn, .lcy, .peat] (.downlinkFrame false) s fun
    t => t.pw = { s.pw with missedMarks := 20, logicAbsent := true } ∧ t.cnv.listsRun = false ∧ t.drn.rsRun = some 0) ∧
  (∀ (s : State) (d : Nat) (v : Int) (x : Time) (r : List DownItem), s.fio.down = .dac d v x :: r → s.pw.fieldUp = true →
    sdiff x s.time.shadow.ns < 0 → Completes [.time, .pw, .cnv, .fio, .twn, .saf, .drn, .lcy, .peat] (.downlinkFrame true) s
    fun t => t.fio = { s.fio with down := r } ∧ t.cnv = { s.cnv with dacLate := satInc 0xFFFFFFFF s.cnv.dacLate }) ∧
  (∀ (s : State) (d : Nat) (v : Int) (x : Time) (r : List DownItem), s.fio.down = .dac d v x :: r → s.pw.fieldUp = true → 0 ≤
    sdiff x s.time.shadow.ns → Completes [.time, .pw, .cnv, .fio, .twn, .saf, .drn, .lcy, .peat] (.downlinkFrame true) s fun t
    => t.fio = { s.fio with down := r, due := s.fio.due ++ [.dac d v x] } ∧ t.cnv = s.cnv) ∧
  (∀ (s : State) (r : List DownItem), s.fio.down = .ejectNotice :: r → s.pw.fieldUp = true → Completes [.time, .pw, .cnv,
    .fio, .twn, .saf, .drn, .lcy, .peat] (.downlinkFrame true) s fun t => t.fio = { s.fio with down := r, ejected := true }) ∧
  (∀ (s : State) (i : Nat) (v : Bool) (x : Time) (r : List UpItem), s.fio.up = .diChange i v x :: r → s.pw.fieldUp = true →
    s.pw.variantL = false → s.pw.logic = .run → Completes [.pw, .hif, .cmb, .cnv, .fio, .mir, .bog, .wag, .seen, .out,
    .freeIdx] (.uplinkFrame true) s fun t => t.fio.up = r ∧ t.fio.diImage = putBit s.fio.diImage i v ∧ t.pw.fieldPresent =
    true) ∧
  (∀ (s : State), s.pw.fieldUp = true → s.pw.variantL = false → exec (.uplinkFrame false) s = .next
    { s with fio := { s.fio with up := s.fio.up.drop 1 } }) ∧
  (∀ (s : State), s.pw.fieldUp = true → s.pw.logicAbsent = false → s.cnv.handover = none → Completes [.pw, .cnv, .fio, .drn]
    (.logicSideAbsent) s fun t => t.pw = { s.pw with logicAbsent := true, missedMarks := 20 } ∧ t.cnv.listsRun = false ∧
    t.drn.takeDue = (!s.twn.fieldMember) ∧ t.drn.rsRun = some 0) ∧
  (∀ (s : State), exec .fieldSideAbsent s = .next { s with pw := { s.pw with fieldPresent := false } }) ∧
  (∀ (s : State), s.pw.fieldUp = true → Completes [.fio, .wag, .saf, .drn, .peat] (.holdPolicyCycleEnd) s fun t =>
    t.fio.ejectCycle = s.fio.ejected ∧ t.wag = { s.wag with winOut := [] }) ∧
  (∀ (s : State) (i : Fin 96), s.pw.fieldUp = true → (∀ j : Fin 96, j ≠ i → s.outWritten j.val = false) → s.outWritten i.val =
    true → s.droneCommands (holdOutput i.val) = false → (s.pw.logicAbsent && s.drn.names (holdOutput i.val) &&
    !s.twn.fieldMember) = false → (tget {} s.fio.hold i.val : HoldRt).skip = false → (tget {} s.fio.hold i.val :
    HoldRt).atSafe = false → s.cycleView (holdFeed (tget holdReset s.fio.holdEff i.val)) = .missing → holdPolicy (tget
    holdReset s.fio.holdEff i.val) = false → satInc 0xFFFF (tget {} s.fio.hold i.val : HoldRt).miss < holdN (tget holdReset
    s.fio.holdEff i.val) → Completes [.fio, .wag, .saf, .drn, .peat] (.holdPolicyCycleEnd) s fun t => t.fio =
    { s.fio with ejectCycle := s.fio.ejected, hold := tput {} { (tget {} s.fio.hold i.val : HoldRt) with miss := satInc 0xFFFF (tget {} s.fio.hold i.val : HoldRt).miss, good := 0 } s.fio.hold i.val })
    ∧
  (∀ (s : State) (i : Fin 96), s.pw.fieldUp = true → (∀ j : Fin 96, j ≠ i → s.outWritten j.val = false) → s.outWritten i.val =
    true → s.droneCommands (holdOutput i.val) = false → (s.pw.logicAbsent && s.drn.names (holdOutput i.val) &&
    !s.twn.fieldMember) = false → (tget {} s.fio.hold i.val : HoldRt).skip = false → (tget {} s.fio.hold i.val :
    HoldRt).atSafe = false → s.cycleView (holdFeed (tget holdReset s.fio.holdEff i.val)) = .missing → (holdPolicy (tget
    holdReset s.fio.holdEff i.val) = true ∨ holdN (tget holdReset s.fio.holdEff i.val) ≤ satInc 0xFFFF (tget {} s.fio.hold
    i.val : HoldRt).miss) → Completes [.fio, .wag, .saf, .drn, .peat] (.holdPolicyCycleEnd) s fun t => (tget {} t.fio.hold
    i.val : HoldRt).atSafe = true ∧ (tget {} t.fio.hold i.val : HoldRt).miss = satInc 0xFFFF (tget {} s.fio.hold i.val :
    HoldRt).miss) ∧
  (∀ (s : State) (i : Fin 64) (x : Time), (tget {} s.fio.di i.val : DiRt).since = some x → max 1000 (Int.ofNat (fld (s.diCfg
    i.val) 15 2) * 1000) ≤ sdiff s.time.shadow.ns x → Completes [.fio] (.digitalInputAccept i) s fun t => (tget {} t.fio.di
    i.val : DiRt) =
    { (tget {} s.fio.di i.val : DiRt) with acc := (tget {} s.fio.di i.val : DiRt).raw, since := none, accAt := some x } ∧
    t.fio.up = s.fio.up ++ [.diChange i.val (t.diState i.val) x])

/-- RUN, the HIVE start, basic cycles and mode changes. RUN = 0 takes the module off the link, clears TB1_LOCK and closes the
guardian; RUN = 1 of a stopped module that is configured as witness starts following; a HIVE whose start mode has no
schedule ends its listening stopped, with event 0x60; one whose start mode has a schedule that passes its checks, with a
station number and a segment, starts with its cycle 0 now, in that mode, TB1_LOCK set and its guardian closed until its own
reference is read back; the end of the backoff starts it afresh with TB1 as it was; the loss of references clears TB1_LOCK
and REF_OK and closes the guardian of a follower, and lets a standby that has been locked listen to start the link. With no
view compared, a basic cycle of a follower takes over REF_OK and moves CYCLE on where it has had a reference, one of a HIVE
with no mode change in hand moves CYCLE, its start and its position on. A head copies the reference of this basic cycle, 1
200 ns later and one deeper, under its own station, with its HOPS. The decision on an announced mode change holds it where
every listed station has acknowledged, else it is abandoned and counted. MODE_CHANGE is refused with 0x62 on a module that
is not the HIVE; on a HIVE with none in hand, of another mode with a schedule that passes its checks, it waits. Rests on
log entries 25, 59, 65, 119, 121, 122. (R56, R383, R389, R410, R412, R413, R415, R416, R417, R429, R430, R432.) -/
def Obligations.WaggleRoles : Prop :=
  (∀ (s : State) (w : Word), s.hostUp = true → tbit w 31 = false → s.wag.link ≠ .off → Completes [.regs, .time, .pw, .hif,
    .stp, .wag, .drn, .lcy, .out] (.wagRun w) s fun t => t.wag.link = .off ∧ t.time.tb1Lock = false ∧ t.wag.lastRef = none ∧
    t.wag.grdClosed = true) ∧
  (∀ (s : State) (w : Word), s.hostUp = true → tbit w 31 = true → s.wag.link = .stopped → s.linkRuns = true → (s.writeBits
    0xA000 w).role = 3 → Completes [.regs, .time, .pw, .hif, .stp, .wag, .drn, .lcy, .out] (.wagRun w) s fun t => t.wag.link =
    .follow ∧ t.time.tb1Lock = false ∧ tbit (t.reg 0xA000) 31 = true) ∧
  (∀ (s : State), s.wag.link = .listen → s.linkRuns = true → s.wag.hasMode (s.rfld 0xA000 30 28) = false → exec .hiveListenEnd
    s = .next (State.raise { s with wag := { s.wag with link := .stopped, fromStandby := false } } 0x60 (BitVec.ofNat 64
    (s.rfld 0xA000 30 28))).judgePhase) ∧
  (∀ (s : State), s.wag.link = .listen → s.linkRuns = true → s.wag.hasMode (s.rfld 0xA000 30 28) = true → s.wag.modeFault
    (s.rfld 0xA000 30 28) s.guardCfg = none → s.station < 4095 → s.segEn = true → Completes [.time, .pw, .hif, .stp, .cmb,
    .cnv, .wag, .drn, .lcy, .out] (.hiveListenEnd) s fun t => t.wag.link = .hive ∧ t.wag.cStart = t.time.tb1.ns ∧ t.wag.cycle
    = 0 ∧ t.wag.mpos = 0 ∧ t.wag.mode = s.rfld 0xA000 30 28 ∧ t.wag.bcNs = shBc (s.wag.entry (s.rfld 0xA000 30 28) 0) ∧
    t.time.tb1Lock = true ∧ t.wag.grdClosed = true) ∧
  (∀ (s : State), s.wag.link ≠ .listen → exec .hiveListenEnd s = .next s) ∧
  (∀ (s : State), s.wag.link = .backoff → s.linkRuns = true → s.wag.hasMode (s.rfld 0xA000 30 28) = true → s.wag.modeFault
    (s.rfld 0xA000 30 28) s.guardCfg = none → s.station < 4095 → s.segEn = true → Completes [.time, .pw, .hif, .stp, .cmb,
    .cnv, .wag, .drn, .lcy, .out] (.hiveBackoffEnd) s fun t => t.wag.link = .hive ∧ t.wag.cStart = s.time.tb1.ns ∧ t.wag.cycle
    = 0 ∧ t.time.tb1.ns = s.time.tb1.ns ∧ t.time.tb1Lock = true) ∧
  (∀ (s : State), s.wag.link = .follow → Completes [.time, .hif, .wag, .out] (.referenceTimeout) s fun t => t.time.tb1Lock =
    false ∧ t.wag = { s.wag with grdClosed := true, refOk := false, refThisCycle := false, missedRefs := 2 }) ∧
  (∀ (s : State), s.wag.link = .standby → s.wag.standbyWasLocked = true → Completes [.time, .hif, .wag, .out]
    (.referenceTimeout) s fun t => t.wag.link = .listen ∧ t.wag.fromStandby = true ∧ t.time.tb1Lock = false) ∧
  (∀ (s : State), s.wag.link = .follow → s.wag.viewed = [] → Completes [.time, .hif, .stp, .wag, .out] (.basicCycleStart) s
    fun t => t.wag.refOk = s.wag.refThisCycle ∧ t.wag.refThisCycle = false ∧ t.wag.missedRefs = (if s.wag.refThisCycle then 0
    else min 2 (s.wag.missedRefs + 1)) ∧ t.wag.cycle = (if s.wag.lastRef.isNone then s.wag.cycle else s.wag.cycle + 1)) ∧
  (∀ (s : State), s.wag.link = .hive → s.wag.viewed = [] → s.wag.pend = false → s.wag.modeReq = none → Completes [.time, .hif,
    .stp, .wag, .out] (.basicCycleStart) s fun t => t.wag.cycle = s.wag.cycle + 1 ∧ t.wag.cStart = tadd s.wag.cStart
    (Int.ofNat s.wag.bcNs) ∧ t.wag.mpos = (s.wag.mpos + 1) % max 1 s.wag.mlen) ∧
  (∀ (s : State) (r : RefPayload) (k : Nat), s.wag.lastRef = some r → s.wag.activePort = some k → s.wag.link = .follow →
    s.hears = true → s.roleActs = true → s.station < 4095 → s.wag.refThisCycle = true → s.wag.withdrawn = false →
    s.wag.headWdrn = false → s.wag.grdClosed = false → s.wag.grdResync = false → s.wag.refHops < 63 → s.pw.ejectGone = false →
    s.fwdPorts = [k] → exec .headReferenceCopy s = .next (s.emitOut (.waggle (s.refFrame
    { r with tRef := tadd r.tRef 1200, depth := r.depth + 1 } s.wag.refHops) false))) ∧
  (∀ (s : State) (q : ModeReq), s.wag.link = .hive → s.wag.pend = true → s.wag.modeReq = some q → q.announced = true →
    q.decided = false → q.listed.all (fun k => q.acked.contains k) = true → Completes [.hif, .wag, .out] (.modeChangeDecision)
    s fun t => t = { s with wag := { s.wag with modeReq := some { q with decided := true } } }) ∧
  (∀ (s : State) (q : ModeReq), s.wag.link = .hive → s.wag.pend = true → s.wag.modeReq = some q → q.announced = true →
    q.decided = false → q.listed.all (fun k => q.acked.contains k) = false → Completes [.hif, .wag, .out]
    (.modeChangeDecision) s fun t => t.wag =
    { s.wag with modeReq := none, pend := false, nextMode := 0, changeAt := 0, abandonCnt := satInc 0xFFFF s.wag.abandonCnt })
    ∧
  (∀ (s : State) (p : Pair) (e : Entry), s.takeParam p 1 10 1 = some e → s.roleActs = true → s.mirrors = false → e.value < 8 →
    s.isHive = false → exec (.modeChange p) s = .next (s.finish p.val e.sub 0x62 (BitVec.ofNat 64 e.value))) ∧
  (∀ (s : State) (p : Pair) (e : Entry), s.takeParam p 1 10 1 = some e → s.roleActs = true → s.mirrors = false → e.value < 8 →
    s.isHive = true → s.wag.modeReq = none → e.value ≠ s.wag.mode → s.wag.hasMode e.value = true → s.wag.modeFault e.value
    s.wag.guardNs = none → Completes [.time, .hif, .cmb, .blk, .cnv, .fio, .mir, .bog, .wag, .twn, .leg, .out, .freeIdx]
    (.modeChange p) s fun t => t.wag = { s.wag with modeReq := some { mode := e.value, pair := p, sub := e.sub } })

/-- Taking references, clashes, withdrawal and the guardian. A valid reference that comes by the port through which a
follower takes references gives it the start, number, position and mode of the basic cycle and what the mode change says,
opens its guardian and is its last reference; one that a listening HIVE hears makes it standby where its RANK is lower than
its own, and stops it where it is equal; its own, read back, ends the run of collisions of a HIVE and opens its guardian.
An invalid one is judged and brings nothing. An echo failure of a reference is a collision of the HIVE, which backs off and
clears TB1_LOCK; one of another identifier, with no frame of its own under way, is counted, and at the third of a matrix
cycle suppresses it. At the end of a withdrawal a head resumes where no other head was heard, else HEAD_WDRN is set and it
marks no port; HEAD_WDRN and the clashes clear by their writes. A guardian cut outside the interval that the guardian
enables is counted, notes the window as cut and at the second of a matrix cycle silences the module; inside it there is
none. Rests on log entries 24, 25, 27, 59, 104, 106. (R366, R367, R378, R387, R389, R390, R391, R413, R414, R415.) -/
def Obligations.WaggleReferencesAndClashes : Prop :=
  (∀ (s : State) (a : RefArrival) (r : RefPayload) (x : Stamp), s.linkRuns = true → a.hdr.crcOk = true → s.frameFits a.hdr 1 =
    true → s.wag.link = .follow → s.takesRef a.port = true → Completes [.time, .pw, .hif, .stp, .cmb, .cnv, .fio, .wag, .twn,
    .drn, .lcy, .out, .freeIdx] (.referenceFrame a r x false) s fun t => t.wag.cStart = tadd r.tRef (-Int.ofNat (r.guardNs +
    1200 * r.depth.val)) ∧ t.wag.cycle = r.cycle ∧ t.wag.mpos = r.mpos.val ∧ t.wag.mode = r.mode.val ∧ t.wag.pend = r.pend ∧
    t.wag.nextMode = r.nextMode.val ∧ t.wag.changeAt = r.changeAt ∧ t.wag.lastRef = some r ∧ t.wag.refOk = true ∧
    t.wag.grdClosed = false) ∧
  (∀ (s : State) (a : RefArrival) (r : RefPayload) (x : Stamp), s.linkRuns = true → a.hdr.crcOk = true → s.frameFits a.hdr 1 =
    true → s.wag.link = .listen → s.listensOn a.port = true → r.rank.toNat = s.rank → Completes [.time, .pw, .hif, .stp, .cmb,
    .cnv, .fio, .wag, .twn, .drn, .lcy, .out, .freeIdx] (.referenceFrame a r x false) s fun t => t.wag.link = .stopped ∧
    t.time.tb1Lock = false) ∧
  (∀ (s : State) (a : RefArrival) (r : RefPayload) (x : Stamp), s.linkRuns = true → a.hdr.crcOk = true → s.frameFits a.hdr 1 =
    true → s.wag.link = .listen → s.listensOn a.port = true → r.rank.toNat < s.rank → Completes [.time, .pw, .hif, .stp, .cmb,
    .cnv, .fio, .wag, .twn, .drn, .lcy, .out, .freeIdx] (.referenceFrame a r x false) s fun t => t.wag.link = .standby ∧
    t.wag.cycle = r.cycle) ∧
  (∀ (s : State) (a : RefArrival) (r : RefPayload) (x : Stamp), s.linkRuns = true → a.hdr.crcOk = true → s.frameFits a.hdr 1 =
    true → s.wag.link = .hive → Completes [.time, .pw, .hif, .stp, .cmb, .cnv, .fio, .wag, .twn, .drn, .lcy, .out, .freeIdx]
    (.referenceFrame a r x true) s fun t => t.wag.collRun = 0 ∧ t.wag.refOk = true ∧ t.wag.grdClosed = false) ∧
  (∀ (s : State) (a : RefArrival) (r : RefPayload) (x : Stamp) (echo : Bool), s.linkRuns = true → s.frameFits a.hdr 1 = false
    → exec (.referenceFrame a r x echo) s = .next (s.takeFrame a.hdr 1).1) ∧
  (∀ (s : State) (i : BitVec 24), fld i 23 12 = 0xFFF → s.wag.link = .hive → Completes [.time, .hif, .stp, .fio, .wag, .out]
    (.echoCheckFail i) s fun t => t.wag.link = .backoff ∧ t.wag.collRun = s.wag.collRun + 1 ∧ t.time.tb1Lock = false ∧
    t.wag.clashCnt = satInc 0xFFFF s.wag.clashCnt) ∧
  (∀ (s : State) (i : BitVec 24), fld i 23 12 ≠ 0xFFF → s.wag.lastTx = none → tget 0 s.wag.clashes i.toNat + 1 < 3 → Completes
    [.time, .hif, .stp, .fio, .wag, .out] (.echoCheckFail i) s fun t => t.wag =
    { s.wag with clashCnt := satInc 0xFFFF s.wag.clashCnt, clashes := tput 0 (tget 0 s.wag.clashes i.toNat + 1) s.wag.clashes i.toNat })
    ∧
  (∀ (s : State) (i : BitVec 24), fld i 23 12 ≠ 0xFFF → s.wag.lastTx = none → 3 ≤ tget 0 s.wag.clashes i.toNat + 1 → Completes
    [.time, .hif, .stp, .fio, .wag, .out] (.echoCheckFail i) s fun t => t.wag.suppressed.contains i.toNat = true) ∧
  (∀ (s : State), s.wag.withdrawn = true → s.wag.otherHead = none → exec .headWithdrawalEnd s = .next (s.setWag
    { s.wag with withdrawn := false, wdrnLeft := 0 })) ∧
  (∀ (s : State) (k n : Nat), s.wag.withdrawn = true → s.wag.otherHead = some (k, n) → Completes [.hif, .wag, .out]
    (.headWithdrawalEnd) s fun t => t.wag.headWdrn = true ∧ t.wag.wdrnLeft = 0 ∧ t.wag.activePort = none) ∧
  (∀ (s : State), s.hostUp = true → s.wag.headWdrn = true → Completes [.hif, .wag, .out] (.headWdrnClear) s fun t =>
    t.wag.headWdrn = false ∧ t.wag.withdrawn = false) ∧
  (∀ (s : State), s.hostUp = true → exec .clashClr s = .next (s.setWag { s.wag with suppressed := [], clashes := [] })) ∧
  (∀ (s : State) (w : Fin 256), s.grdEnables w.val = true → exec (.guardianCut w) s = .next s) ∧
  (∀ (s : State) (w : Fin 256), s.grdEnables w.val = false → Completes [.hif, .wag, .out] (.guardianCut w) s fun t =>
    t.wag.cutCnt = satInc 0xFFFF s.wag.cutCnt ∧ t.wag.grdCuts = s.wag.grdCuts + 1 ∧ t.wag.grdResync = (s.wag.grdResync ||
    decide (s.wag.grdCuts + 1 ≥ 2)) ∧ (tget {} t.wag.winRx w.val : WinRx).cut = true)

/-- Trunk ports: alignment, delay measurement, switching and forwarding. Every trunk command counts the invalid code groups
that it tells of. Alignment takes a DOWN port to ALIGNED with no measurements and does nothing else on another, its loss
takes a port DOWN; the upstream-facing end of a port that is not DOWN numbers its queries and keeps t1, the DOWNSTREAM end
takes the ACTIVE mark and answers; an answer to the last query adds a delay measurement to the last eight, one to another
query adds none. An upstream switch of a head that has not withdrawn moves ACTIVE from the UPSTREAM to a MEASURED ALT port,
which forwards then, the other no more. A frame other than a reference, of a scheduled window, with fewer than 63 HOPS,
that comes from a forwarding trunk goes out through the other one with HOPS one more, and on the segment where the guardian
is open; one from the segment whose CRC fails goes out through a forwarding trunk with the inverse CRC and STOMP_CNT counts
it. Rests on log entry 62. (R364, R365, R366, R379, R380, R381.) -/
def Obligations.WaggleTrunks : Prop :=
  (∀ (s : State) (p : TrunkPort), (s.wag.trunk p.port.val).st = .down → Completes [.hif, .wag, .out] (.trunkAligned p) s fun t
    => t.wag.trunk p.port.val =
    { (s.wag.trunk p.port.val).codeErrors p.invalid with st := .aligned, delays := [], active := false }) ∧
  (∀ (s : State) (p : TrunkPort), (s.wag.trunk p.port.val).st ≠ .down → exec (.trunkAligned p) s = .next (s.codeErrors p)) ∧
  (∀ (s : State) (p : TrunkPort), Completes [.hif, .wag, .out] (.trunkAlignmentLost p) s fun t => t.wag.trunk p.port.val =
    { (s.wag.trunk p.port.val).codeErrors p.invalid with st := .down, delays := [], active := false }) ∧
  (∀ (s : State) (k : Fin 2) (x : Stamp), (s.wag.trunk k.val).st ≠ .down → s.trunkUp k.val = true → s.wag.link ≠ .stopped →
    exec (.trunkDqSend k x) s = .next ((s.setWag
    { s.wag with trunks := tput {} { s.wag.trunk k.val with dqSeq := (s.wag.trunk k.val).dqSeq + 1, t1 := x } s.wag.trunks k.val }).emitOut
    (.trunkDq k.val ((s.wag.trunk k.val).dqSeq + 1) (decide (s.wag.activePort = some k.val))))) ∧
  (∀ (s : State) (p : TrunkPort) (q : BitVec 8) (a : Bool) (x : Stamp), (s.wag.trunk p.port.val).st ≠ .down → s.trunkRole
    p.port.val = 2 → s.wag.link ≠ .stopped → Completes [.hif, .wag, .out] (.trunkDqReceive p q a x) s fun t => (t.wag.trunk
    p.port.val).active = a ∧ t.out.head? = some (.trunkDr p.port.val q x)) ∧
  (∀ (s : State) (p : TrunkPort) (q : BitVec 8) (x y : Stamp), (s.wag.trunk p.port.val).st ≠ .down → s.trunkUp p.port.val =
    true → (s.wag.trunk p.port.val).dqSeq = q → Completes [.hif, .wag, .out] (.trunkDrReceive p q x y) s fun t => (t.wag.trunk
    p.port.val).delays = (((sdiff48 y (s.wag.trunk p.port.val).t1 - Int.ofNat x.toNat + sext 16 (s.rfld (0xA410 + 0x10 *
    p.port.val) 31 16)) / 2) :: (s.wag.trunk p.port.val).delays).take 8) ∧
  (∀ (s : State) (p : TrunkPort) (q : BitVec 8) (x y : Stamp), (s.wag.trunk p.port.val).dqSeq ≠ q → exec (.trunkDrReceive p q
    x y) s = .next (s.codeErrors p)) ∧
  (∀ (s : State), s.wag.headWdrn = false → s.wag.activePort = some 0 → s.trunkRole 0 = 1 → s.trunkRole 1 = 3 → (s.wag.trunk
    1).st = .measured → (s.wag.trunk 1).delay ≤ 600 * 256 → Completes [.hif, .wag, .out] (.upstreamSwitch) s fun t =>
    t.wag.activePort = some 1 ∧ (t.wag.trunk 1).st = .forwarding ∧ (t.wag.trunk 0).st ≠ .forwarding) ∧
  (∀ (s : State) (f : CrossFrame), s.linkRuns = true → s.silent = false → s.wag.grdResync = false → (s.wag.trunk 0).st =
    .forwarding → s.fwdPorts = [0, 1] → (f.frame.win = 0 ∨ wType (s.wag.window f.frame.win) ≠ 3) → f.frame.hops < 63 → f.crcOk
    = true → f.frame.kind ≠ 1 → exec (.trunkForward .trunk0 f) s = .next (let u := s.emitOut (.trunk 1 (frameWire
    { f.frame with hops := f.frame.hops + 1 } false)); if s.segEn && !s.wag.grdClosed then u.emitOut (.waggle f.frame false)
    else u)) ∧
  (∀ (s : State) (f : CrossFrame), s.linkRuns = true → s.silent = false → s.wag.grdResync = false → s.fwdPorts = [0] →
    (f.frame.win = 0 ∨ wType (s.wag.window f.frame.win) ≠ 3) → f.frame.hops < 63 → f.crcOk = false → exec (.trunkForward
    .segment f) s = .next ((s.countStomp 0 true).emitOut (.trunk 0 (frameWire { f.frame with hops := f.frame.hops + 1 }
    true))))

/-- Loads of the channel, scan list, DAC and calibration tables. On a member that acts and mirrors to no standby: a channel
or scan list load whose tables are judged good changes the accepted table, goes to the field side with the number of the
load and stays open for a pattern start, the effective table unchanged; a channel that a list may not have refuses it with
0x40, a list that is not good with the code found. A DAC load whose entries are good changes the accepted table, goes to
the field side and completes with its COUNT, one with an entry that is not is refused with the code for it and its DAC. A
calibration load within its limits is stored, written to the first calibration copy under the next generation and waits,
the coefficients in use unchanged (of the channels: until 2 ms after acceptance); a channel coefficient outside its limits
is refused with 0x44. Rests on log entries 11, 48, 52, 91. (R268, R275, R276, R290, R291, R293, R294.) -/
def Obligations.ConverterTables : Prop :=
  (∀ (s : State) (p : Pair) (e : Entry), s.takeLoad p 7 1 = some e → s.roleActs = true → s.mirrors = false → chanOffence
    (tload (fun _ => 0) s.cnv.chan (withIndex e.first e.words64)) s.cnv.lists = none → exec (.channelTableLoad p) s = .next
    (State.accept
    { s with cnv := { s.cnv with chan := tload (fun _ => 0) s.cnv.chan (withIndex e.first e.words64), scanNo := s.cnv.scanNo + 1, patternLoads := s.cnv.patternLoads ++ [{ pair := p, sub := e.sub, count := e.count, no := s.cnv.scanNo + 1 }] }, fio := { s.fio with down := s.fio.down ++ [.scanTables s.cnv.lists (tload (fun _ => 0) s.cnv.chan (withIndex e.first e.words64)) (s.cnv.scanNo + 1)] } }
    p.val e.sub)) ∧
  (∀ (s : State) (p : Pair) (e : Entry) (c : Nat), s.takeLoad p 7 1 = some e → s.roleActs = true → s.mirrors = false →
    chanOffence (tload (fun _ => 0) s.cnv.chan (withIndex e.first e.words64)) s.cnv.lists = some c → exec (.channelTableLoad
    p) s = .next (s.finish p.val e.sub 0x40 (BitVec.ofNat 64 c))) ∧
  (∀ (s : State) (p : Pair) (e : Entry) (s' : State), s.takeLoadIn p 7 16 20 = some e → s.roleActs = true → s.mirrors = false
    → s.loadList (e.tblNum - 0x10) (withIndex e.first e.words64) = .ok s' → exec (.scanListLoad p) s = .next (State.accept
    { s with cnv := { s.cnv with lists := (tload (fun _ => 0) s.cnv.lists ((withIndex e.first e.words64).map (fun x => (128 * (e.tblNum - 0x10) + x.1, x.2)))), scanNo := s.cnv.scanNo + 1, patternLoads := s.cnv.patternLoads ++ [{ pair := p, sub := e.sub, count := e.count, list := some (e.tblNum - 0x10), no := s.cnv.scanNo + 1 }] }, fio := { s.fio with down := s.fio.down ++ [.scanTables (tload (fun _ => 0) s.cnv.lists ((withIndex e.first e.words64).map (fun x => (128 * (e.tblNum - 0x10) + x.1, x.2)))) s.cnv.chan (s.cnv.scanNo + 1)] } }
    p.val e.sub)) ∧
  (∀ (s : State) (p : Pair) (e : Entry) (c : Byte) (w : BitVec 64), s.takeLoadIn p 7 16 20 = some e → s.roleActs = true →
    s.mirrors = false → s.loadList (e.tblNum - 0x10) (withIndex e.first e.words64) = .refused c w → exec (.scanListLoad p) s =
    .next (s.finish p.val e.sub c w)) ∧
  (∀ (s : State) (p : Pair) (e : Entry), s.takeLoad p 7 2 = some e → s.roleActs = true → s.mirrors = false → (withIndex
    e.first e.words64).findSome? (fun x => (dacEntryJudge s x).map (fun c => (c, x.1))) = none → Ends [.cnv, .fio]
    (.dacTableLoad p) s p e 0 (BitVec.ofNat 64 e.count) fun t => t.cnv =
    { s.cnv with dac := tload (fun _ => 0) s.cnv.dac (withIndex e.first e.words64) } ∧ t.fio =
    { s.fio with down := s.fio.down ++ [.fioTables t.fioTables] }) ∧
  (∀ (s : State) (p : Pair) (e : Entry) (c : Byte) (d : Nat), s.takeLoad p 7 2 = some e → s.roleActs = true → s.mirrors =
    false → (withIndex e.first e.words64).findSome? (fun x => (dacEntryJudge s x).map (fun c => (c, x.1))) = some (c, d) →
    exec (.dacTableLoad p) s = .next (s.finish p.val e.sub c (BitVec.ofNat 64 d))) ∧
  (∀ (s : State) (p : Pair) (e : Entry), s.takeLoad p 7 3 = some e → s.roleActs = true → s.mirrors = false → firstNoncanon 32
    [(0, true), (1, false)] e.data = none → (withIndex e.first e.words256).find? (fun x => !coefOk (nominalF (x.1 % 5 + 1))
    x.2) = none → Completes [.hif, .cnv] (.coefficientLoad p) s fun t => t.cnv.coef = tload (fun _ => coefReset) s.cnv.coef
    (withIndex e.first e.words256) ∧ t.cnv.cal0 =
    { good := true, gen := max s.cnv.cal0.gen s.cnv.cal1.gen + 1, coef := t.cnv.coef, dacCoef := t.cnv.dacCoef, skew := t.cnv.skew }
    ∧ t.cnv.coefEff = s.cnv.coefEff ∧ t.cnv.calLoads.length = s.cnv.calLoads.length + 1 ∧ t.cnv.calLoads.getLast?.map (fun c
    => c.due) = some (tadd s.time.tb1.ns 2000000)) ∧
  (∀ (s : State) (p : Pair) (e : Entry) (x : Nat × BitVec 256), s.takeLoad p 7 3 = some e → s.roleActs = true → s.mirrors =
    false → firstNoncanon 32 [(0, true), (1, false)] e.data = none → (withIndex e.first e.words256).find? (fun x => !coefOk
    (nominalF (x.1 % 5 + 1)) x.2) = some x → exec (.coefficientLoad p) s = .next (s.finish p.val e.sub 0x44 (BitVec.ofNat 64
    x.1))) ∧
  (∀ (s : State) (p : Pair) (e : Entry), s.takeLoad p 7 4 = some e → s.roleActs = true → s.mirrors = false → firstNoncanon 32
    [(0, true), (1, false)] e.data = none → (withIndex e.first e.words256).find? (fun x => !coefOk (nominalDacF (x.1 % 2 + 1))
    x.2) = none → Completes [.hif, .cnv] (.dacCoefficientLoad p) s fun t => t.cnv.dacCoef = tload (fun _ => coefReset)
    s.cnv.dacCoef (withIndex e.first e.words256) ∧ t.cnv.cal0 =
    { good := true, gen := max s.cnv.cal0.gen s.cnv.cal1.gen + 1, coef := t.cnv.coef, dacCoef := t.cnv.dacCoef, skew := t.cnv.skew }
    ∧ t.cnv.dacCoefEff = s.cnv.dacCoefEff) ∧
  (∀ (s : State) (p : Pair) (e : Entry), s.takeLoad p 7 5 = some e → s.roleActs = true → s.mirrors = false → Completes [.hif,
    .cnv] (.skewLoad p) s fun t => t.cnv.skew = tload (fun _ => 0) s.cnv.skew (withIndex e.first e.words128) ∧ t.cnv.skewEff =
    s.cnv.skewEff ∧ t.cnv.cal0 =
    { good := true, gen := max s.cnv.cal0.gen s.cnv.cal1.gen + 1, coef := t.cnv.coef, dacCoef := t.cnv.dacCoef, skew := t.cnv.skew })

/-- Conversion slots, urgent requests, spare rotation, self-calibration, measurements. While the lists do not run a
conversion slot only checks its converter. A slot in which its list has a conversion due, the logic side present, no
handover and no urgent request there, adds it to the word of its entry; the last conversion of a word, none missing, sends
the word up and starts the next. Fewer than 16 failed checks of the last 256 are only counted, 16 put the converter in
FAULT with its checks forgotten. On a member that acts and mirrors to no standby: an urgent request of a reachable channel
in use is stored and sent down, a second one for its list is refused with 0x43; a rotation with a spare and no handover
under way waits for a pattern start, else it is refused with 0x42, and one that the interval brings is then skipped; a
measurement takes the spare converter and holds list 4. A self-calibration gives its converter the offset and gain of its
conversions; one that passes the check makes the converter spare and holds list 4 where it was calibrating with no
handover, and ends the first calibration after power-up, one that does not puts it in FAULT; a cleared FAULT starts it. The
end of a measurement of one conversion keeps its mean, with spread 0, and the parameters answer the mean, the spread and
the newest sample word. Rests on log entries 48, 49, 92, 93, 110. (R262, R277, R279, R284, R286, R287, R288, R289, R292,
R301.) -/
def Obligations.ConversionsAndRotation : Prop :=
  (∀ (s : State) (k : Fin 5) (n : Fin 20) (c : BitVec 20) (x f : Bool), s.converts k.val = true → s.pw.logicAbsent = false →
    s.cnv.listsRun = false → exec (.conversionSlot k n c x f) s = .next (s.convCheck k.val f)) ∧
  (∀ (s : State) (k : Fin 5) (n : Fin 20) (c : BitVec 20) (x f : Bool) (l i j : Nat), s.converts k.val = true →
    s.pw.logicAbsent = false → s.cnv.listOf k.val = some l → s.cnv.role k.val ≠ 5 → s.cnv.listsRun = true → l ≠ 4 → leEn
    (listEntry s.cnv.listsEff l 0) = true → s.urgentSlot l s.cmb.n ≠ some n.val → (tget [] s.cnv.slip l).find? (fun x =>
    decide (x.1 = n.val)) = none → (s.slotPlan l s.cmb.n).find? (fun x => decide (x.1 = n.val)) = some (n.val, i, j) →
    s.cnv.handover = none → (tget {} s.cnv.acc (128 * l + i) : AccRt).n + 1 < leN (listEntry s.cnv.listsEff l i) → Completes
    [.cnv, .fio, .drn, .peat, .freeIdx] (.conversionSlot k n c x f) s fun t => (tget {} t.cnv.acc (128 * l + i) : AccRt).n =
    (tget {} s.cnv.acc (128 * l + i) : AccRt).n + 1 ∧ (tget {} t.cnv.acc (128 * l + i) : AccRt).got = (tget {} s.cnv.acc (128
    * l + i) : AccRt).got + 1 ∧ (tget {} t.cnv.acc (128 * l + i) : AccRt).sum = (tget {} s.cnv.acc (128 * l + i) : AccRt).sum
    + s.oneConversion k.val (leChan (listEntry s.cnv.listsEff l i)) (tget 0 s.cnv.chanEff (leChan (listEntry s.cnv.listsEff l
    i))) c) ∧
  (∀ (s : State) (k : Fin 5) (n : Fin 20) (c : BitVec 20) (x f : Bool) (l i j : Nat), s.converts k.val = true →
    s.pw.logicAbsent = false → s.cnv.listOf k.val = some l → s.cnv.role k.val ≠ 5 → s.cnv.listsRun = true → l ≠ 4 → leEn
    (listEntry s.cnv.listsEff l 0) = true → s.urgentSlot l s.cmb.n ≠ some n.val → (tget [] s.cnv.slip l).find? (fun x =>
    decide (x.1 = n.val)) = none → (s.slotPlan l s.cmb.n).find? (fun x => decide (x.1 = n.val)) = some (n.val, i, j) →
    s.cnv.handover = none → (tget {} s.cnv.acc (128 * l + i) : AccRt).n + 1 = leN (listEntry s.cnv.listsEff l i) → (tget {}
    s.cnv.acc (128 * l + i) : AccRt).gap = false → Completes [.cnv, .fio, .drn, .peat, .freeIdx] (.conversionSlot k n c x f) s
    fun t => (tget {} t.cnv.acc (128 * l + i) : AccRt).n = 0 ∧ (tget {} t.cnv.acc (128 * l + i) : AccRt).sum = 0 ∧ (tget {}
    t.cnv.acc (128 * l + i) : AccRt).lastGood.isSome = true ∧ s.fio.up.length < t.fio.up.length) ∧
  (∀ (s : State) (k : Nat) (f : Bool), ((f :: tget [] s.cnv.checks k).take 256).countP (fun b => b) < 16 → s.convCheck k f =
    { s with cnv := { s.cnv with checks := tput [] ((f :: tget [] s.cnv.checks k).take 256) s.cnv.checks k, chkFail := tput 0 (if f then satInc 0xFFFF (tget 0 s.cnv.chkFail k) else tget 0 s.cnv.chkFail k) s.cnv.chkFail k, chkSecond := s.cnv.chkSecond + f.toNat } })
    ∧
  (∀ (s : State) (k : Nat) (f : Bool), k < 5 → s.cnv.roles.length = 5 → s.cnv.handover = none → 16 ≤ ((f :: tget []
    s.cnv.checks k).take 256).countP (fun b => b) → (s.convCheck k f).cnv.role k = 7 ∧ tget [] (s.convCheck k f).cnv.checks k
    = []) ∧
  (∀ (s : State) (p : Pair) (e : Entry), s.takeParam p 1 7 1 = some e → s.roleActs = true → s.mirrors = false → e.value < 2048
    → e.value / 256 % 8 ≤ 4 → reachable (e.value / 256 % 8) (e.value % 256) = true → s.chanOff (e.value % 256) = false →
    s.cnv.urgent = [] → Ends [.cnv, .fio] (.urgent p) s p e 0 0 fun t => t.cnv =
    { s.cnv with urgent := [(e.value / 256 % 8, { chan := e.value % 256 })] } ∧ t.fio =
    { s.fio with down := s.fio.down ++ [.urgent (e.value % 256) (e.value / 256 % 8)] }) ∧
  (∀ (s : State) (p : Pair) (e : Entry) (x : Nat × UrgentReq), s.takeParam p 1 7 1 = some e → s.roleActs = true → s.mirrors =
    false → e.value < 2048 → e.value / 256 % 8 ≤ 4 → reachable (e.value / 256 % 8) (e.value % 256) = true → s.chanOff (e.value
    % 256) = false → s.cnv.urgent.find? (fun x => decide (x.1 = e.value / 256 % 8)) = some x → exec (.urgent p) s = .next
    (s.finish p.val e.sub 0x43 (BitVec.ofNat 64 (e.value / 256 % 8)))) ∧
  (∀ (s : State) (p : Pair) (e : Entry) (k : Nat), s.takeParam p 1 7 2 = some e → s.roleActs = true → s.mirrors = false →
    e.value < 4 → s.cnv.holder 4 = some k → s.cnv.handover = none → Ends [.cnv] (.rotate p) s p e 0 0 fun t => t.cnv =
    { s.cnv with handover := some { group := e.value, from_ := s.cnv.holder e.value, to_ := k } }) ∧
  (∀ (s : State) (p : Pair) (e : Entry), s.takeParam p 1 7 2 = some e → s.roleActs = true → s.mirrors = false → e.value < 4 →
    (s.cnv.holder 4 = none ∨ s.cnv.handover.isSome = true) → exec (.rotate p) s = .next (s.finish p.val e.sub 0x42 0)) ∧
  (∀ (s : State) (k : Nat), s.rbit 0x7000 1 = true → s.cnv.holder 4 = some k → s.cnv.handover = none → exec .rotationInterval
    s = .next
    { s with cnv := { s.cnv with handover := some { group := (s.cnv.lastGroup + 1) % 4, from_ := s.cnv.holder ((s.cnv.lastGroup + 1) % 4), to_ := k } } })
    ∧
  (∀ (s : State), (s.rbit 0x7000 1 = false ∨ s.cnv.holder 4 = none ∨ s.cnv.handover.isSome = true) → exec .rotationInterval s
    = .next s) ∧
  (∀ (s : State) (k : Fin 5) (c : SelfCalCodes), s.cnv.bootCal.getD k.val false = true → exec (.selfCalibrationEnd k c) s =
    .next (let u : State :=
    { s with cnv := CnvState.calibrated { s.cnv with bootCal := setAt s.cnv.bootCal k.val false } k.val (selfCalOf c) }; if
    (selfCalOf c).passes { offset := Config.factoryOffset k.val, gain := Config.factoryGain k.val } then u else u.convFault
    k.val)) ∧
  (∀ (s : State) (k : Fin 5) (c : SelfCalCodes), s.cnv.bootCal.getD k.val false = false → s.cnv.role k.val = 6 →
    s.cnv.handover = none → exec (.selfCalibrationEnd k c) s = .next (if (selfCalOf c).passes
    { offset := Config.factoryOffset k.val, gain := Config.factoryGain k.val } then
    { s with cnv := CnvState.calibrated { s.cnv.setRole k.val 4 with list4Held := true } k.val (selfCalOf c) } else
    s.convFault k.val)) ∧
  (∀ (s : State) (k : Fin 5), s.hostUp = true → s.cnv.role k.val = 7 → exec (.converterClrFault k) s = .next
    { s with cnv := s.cnv.setRole k.val 6 }) ∧
  (∀ (s : State) (p : Pair) (e : Entry) (k : Nat), s.takeParam p 1 7 3 = some e → s.roleActs = true → s.mirrors = false →
    e.value < 2 ^ 24 → e.value % 256 < 128 → e.value / 256 % 65536 ≠ 0 → s.chanOff (e.value % 256) = false → s.cnv.holder 4 =
    some k → s.cnv.cal = none → Completes [.hif, .cnv] (.calMeasure p) s fun t => t.cnv =
    { s.cnv with cal := some { pair := p, sub := e.sub, chan := e.value % 256, n := e.value / 256 % 65536, conv := k }, calHold := true })
    ∧
  (∀ (s : State) (j : CalJob) (c : BitVec 20), s.cnv.cal = some j → j.n = 1 → Completes [.hif, .cnv, .out] (.calMeasureEnd
    [c]) s fun t => t.cnv = { s.cnv with cal := none, calMean := (s.calX j.conv j.chan c * 2 + 1) / 2, calSpread := 0 }) ∧
  (∀ (s : State) (p : Pair) (e : Entry), s.takeParam p 2 7 4 = some e → exec (.calMean p) s = .next (s.finish p.val e.sub 0
    (canonS s.cnv.calMean))) ∧
  (∀ (s : State) (p : Pair) (e : Entry), s.takeParam p 2 7 5 = some e → exec (.calSpread p) s = .next (s.finish p.val e.sub 0
    (canonU s.cnv.calSpread))) ∧
  (∀ (s : State) (p : Pair) (e : Entry), s.takeOp p.val 2 2 = some e → e.parBlock = 7 → 0x100 ≤ e.parIndex → e.parIndex ≤
    0x1AC → exec (.sampleRead p) s = .next (s.finish p.val e.sub 0 (canonU (s.newestSample (e.parIndex - 0x100)).word.toNat)))

/-- Loads of the high-side, input, encoder, pulse, profile and hold-policy tables. On a member that acts and mirrors to no
standby: a load of the high-side, input, encoder, pulse or profile table whose entries are valid, and whose claims are
granted, replaces its entries of the accepted table, the effective table unchanged, sends the accepted tables to the field
side and completes with its COUNT; a hold-policy load does so with its own table. An invalid entry of the high-side, input,
encoder, pulse or hold-policy table refuses it with 0x4A, an encoder input that another owner has claimed with the code of
the claim, changing nothing. Rests on log entries 52, 53. (R303, R304, R309, R313, R315, R321, R323, R325.) -/
def Obligations.FieldTables : Prop :=
  (∀ (s : State) (p : Pair) (e : Entry) (cl : List Claim), s.takeLoad p 8 1 = some e → s.roleActs = true → s.mirrors = false →
    (withIndex e.first e.words64).any (fun x => !hsEntryOk x.2 || s.droneModeClash x.1 x.2) = false → claimEach dutyTimer
    (((withIndex e.first e.words64).filter (fun x => decide (hsMode x.2 ≠ 2))) ++ ((withIndex e.first e.words64).filter (fun x
    => decide (hsMode x.2 = 2)))) s.fio.claims = .ok cl → Ends [.fio] (.highSideTableLoad p) s p e 0 (BitVec.ofNat 64 e.count)
    fun t => t.fio =
    { s.fio with hsTab := tload (fun _ => 0) s.fio.hsTab (withIndex e.first e.words64), claims := cl, down := s.fio.down ++ [.fioTables t.fioTables] })
    ∧
  (∀ (s : State) (p : Pair) (e : Entry), s.takeLoad p 8 1 = some e → s.roleActs = true → s.mirrors = false → (withIndex
    e.first e.words64).any (fun x => !hsEntryOk x.2) = true → exec (.highSideTableLoad p) s = .next (s.finish p.val e.sub 0x4A
    0)) ∧
  (∀ (s : State) (p : Pair) (e : Entry), s.takeLoad p 8 2 = some e → s.roleActs = true → s.mirrors = false → (withIndex
    e.first e.words64).any (fun x => !diEntryOk x.2) = false → Ends [.fio] (.inputTableLoad p) s p e 0 (BitVec.ofNat 64
    e.count) fun t => t.fio =
    { s.fio with diTab := tload (fun _ => 0) s.fio.diTab (withIndex e.first e.words64), down := s.fio.down ++ [.fioTables t.fioTables] })
    ∧
  (∀ (s : State) (p : Pair) (e : Entry), s.takeLoad p 8 2 = some e → s.roleActs = true → s.mirrors = false → (withIndex
    e.first e.words64).any (fun x => !diEntryOk x.2) = true → exec (.inputTableLoad p) s = .next (s.finish p.val e.sub 0x4A
    0)) ∧
  (∀ (s : State) (p : Pair) (e : Entry) (cl : List Claim), s.takeLoad p 8 3 = some e → s.roleActs = true → s.mirrors = false →
    (withIndex e.first e.words64).any (fun x => !encEntryOk x.2) = false → claimEach encClaim (withIndex e.first e.words64)
    s.fio.claims = .ok cl → Ends [.fio] (.encoderTableLoad p) s p e 0 (BitVec.ofNat 64 e.count) fun t => t.fio =
    { s.fio with encTab := tload (fun _ => 0) s.fio.encTab (withIndex e.first e.words64), claims := cl, down := s.fio.down ++ [.fioTables t.fioTables] })
    ∧
  (∀ (s : State) (p : Pair) (e : Entry), s.takeLoad p 8 3 = some e → s.roleActs = true → s.mirrors = false → (withIndex
    e.first e.words64).any (fun x => !encEntryOk x.2) = true → exec (.encoderTableLoad p) s = .next (s.finish p.val e.sub 0x4A
    0)) ∧
  (∀ (s : State) (p : Pair) (e : Entry) (c : Byte) (w : BitVec 64), s.takeLoad p 8 3 = some e → s.roleActs = true → s.mirrors
    = false → (withIndex e.first e.words64).any (fun x => !encEntryOk x.2) = false → claimEach encClaim (withIndex e.first
    e.words64) s.fio.claims = .refused c w → exec (.encoderTableLoad p) s = .next (s.finish p.val e.sub c w)) ∧
  (∀ (s : State) (p : Pair) (e : Entry), s.takeLoad p 8 4 = some e → s.roleActs = true → s.mirrors = false → (withIndex
    e.first e.words64).any (fun x => !pulEntryOk x.2) = false → Ends [.fio] (.pulseTableLoad p) s p e 0 (BitVec.ofNat 64
    e.count) fun t => t.fio =
    { s.fio with pulTab := tload (fun _ => 0) s.fio.pulTab (withIndex e.first e.words64), down := s.fio.down ++ [.fioTables t.fioTables] })
    ∧
  (∀ (s : State) (p : Pair) (e : Entry), s.takeLoad p 8 4 = some e → s.roleActs = true → s.mirrors = false → (withIndex
    e.first e.words64).any (fun x => !pulEntryOk x.2) = true → exec (.pulseTableLoad p) s = .next (s.finish p.val e.sub 0x4A
    0)) ∧
  (∀ (s : State) (p : Pair) (e : Entry), s.takeLoad p 8 5 = some e → s.roleActs = true → s.mirrors = false → Ends [.fio]
    (.profileTableLoad p) s p e 0 (BitVec.ofNat 64 e.count) fun t => t.fio =
    { s.fio with profTab := tload (fun _ => 0) s.fio.profTab (withIndex e.first e.words128), down := s.fio.down ++ [.fioTables t.fioTables] })
    ∧
  (∀ (s : State) (p : Pair) (e : Entry), s.takeLoad p 8 6 = some e → s.roleActs = true → s.mirrors = false → (withIndex
    e.first e.words64).any (fun x => !holdEntryOk x) = false → Ends [.fio] (.holdPolicyTableLoad p) s p e 0 (BitVec.ofNat 64
    e.count) fun t => t.fio =
    { s.fio with holdTab := tload (fun _ => holdReset) s.fio.holdTab (withIndex e.first e.words64), down := s.fio.down ++ [.holdTable t.fio.holdTab] })
    ∧
  (∀ (s : State) (p : Pair) (e : Entry), s.takeLoad p 8 6 = some e → s.roleActs = true → s.mirrors = false → (withIndex
    e.first e.words64).any (fun x => !holdEntryOk x) = true → exec (.holdPolicyTableLoad p) s = .next (s.finish p.val e.sub
    0x4A 0))

/-- Output instants, duty periods, high-side conditions and their timed envelopes. A rate value that alone waits, its instant
reached on the shadow of TB1 and its gate open, is taken: the pulse output takes its clamped rate, and no high-side output
or DAC changes; before that nothing happens. A period of an output in DUTY takes the latest on-time and begins now, with
on-time 0 it is switched off; one of an output that is not in DUTY and no Drone loop has is none. An overcurrent trips its
output, switches it off and TRIP_CNT counts it, its end clears the condition alone. An output at ONMAX is cut and counted;
OFFMIN and the sliding window end a delay, where the output is still commanded, by judging its switch-on anew, which with
nothing against it switches it on; one no longer commanded stays as it is; a current that has fallen after switch-off ends
the on-time of the output itself, and a SHARED one may go on counting as on. HS_CLR_FAULT goes to the field side; HS_DIAG
answers the conditions and a free load current (assumption log). Rests on log entries 50, 51, 54, 112. (R296, R303, R304,
R306, R308, R322, R330, R479, R480.) -/
def Obligations.FieldOutputs : Prop :=
  (∀ (s : State) (a : Nat) (hz : Int) (x : Time), s.fio.due = [.rate a hz x] → s.time.shadow.tickOf x ≤ 0 → s.atSafe (80 + a)
    = false → pulMode (s.pulCfg a) = 1 → s.gateOpen (0x3000 + a) = true → Completes [.fio, .saf, .drn, .peat]
    (.fieldOutputInstant) s fun t => t.fio.due = [] ∧ (t.pulRt a).rate = (s.pulClamp a hz).1 ∧ (t.pulRt a).written = true ∧
    t.fio.hs = s.fio.hs ∧ t.fio.dac = s.fio.dac) ∧
  (∀ (s : State), s.fio.due = [] → exec .fieldOutputInstant s = .next s) ∧
  (∀ (s : State) (a : Nat) (hz : Int) (x : Time), s.fio.due = [.rate a hz x] → 0 < s.time.shadow.tickOf x → exec
    .fieldOutputInstant s = .next s) ∧
  (∀ (s : State) (o : Fin 48), hsMode (s.hsCfg o.val) ≠ 2 → s.loopOn (0x2000 + o.val) = none → exec (.dutyPeriodStart o) s =
    .next s) ∧
  (∀ (s : State) (o : Fin 48), hsMode (s.hsCfg o.val) = 2 → Completes [.fio, .saf, .peat] (.dutyPeriodStart o) s fun t =>
    (t.hsRt o.val).onTime = s.dutyNext o.val ∧ (t.hsRt o.val).periodAt = some s.time.shadow.ns ∧ (s.dutyNext o.val = 0 →
    (t.hsRt o.val).drv = false)) ∧
  (∀ (s : State) (o : Fin 48), Completes [.fio, .peat] (.hsCondition o 0 false) s fun t => (t.hsRt o.val).conds = putBit
    (s.hsRt o.val).conds 0 false ∧ (t.hsRt o.val).drv = (s.hsRt o.val).drv ∧ (t.hsRt o.val).trip = (s.hsRt o.val).trip ∧
    t.fio.tripCnt = s.fio.tripCnt) ∧
  (∀ (s : State) (o : Fin 48), Completes [.fio, .peat] (.hsCondition o 0 true) s fun t => (t.hsRt o.val).conds = putBit
    (s.hsRt o.val).conds 0 true ∧ (t.hsRt o.val).trip = true ∧ (t.hsRt o.val).tripAt = s.time.guardNs ∧ (t.hsRt o.val).drv =
    false ∧ t.fio.tripCnt = satInc 0xFFFF s.fio.tripCnt) ∧
  (∀ (s : State) (p : Pair) (e : Entry), s.takeParam p 1 8 1 = some e → s.roleActs = true → s.mirrors = false → e.value < 48 →
    Ends [.fio] (.hsClrFault p) s p e 0 0 fun t => t.fio = { s.fio with down := s.fio.down ++ [.clrFault e.value] }) ∧
  (∀ (s : State) (p : Pair) (e : Entry), s.takeParam p 2 8 3 = some e → e.value < 48 → Ends [.freeIdx] (.hsDiag p) s p e 0
    (BitVec.ofNat 64 ((s.hsRt e.value).conds.toNat + (Config.loadMa s.freeIdx).toNat * 2 ^ 16)) fun t => t = s.tookFree) ∧
  (∀ (s : State) (o : Fin 48) (x : Nat × BitVec 128), s.saf.rowFor 2 (0x2000 + o.val) = some x → (s.hsRt o.val).counts = true
    → (s.hsRt o.val).cut = false → (s.hsRt o.val).onAt + rowNs (rowOp x.2 6 4) ≤ s.time.guardNs → Completes [.fio, .saf,
    .peat] (.onmaxCut o) s fun t => (t.hsRt o.val) = { s.hsRt o.val with cut := true, drv := false, delayed := false } ∧
    t.saf.cutCnt = satInc 0xFFFF s.saf.cutCnt) ∧
  (∀ (s : State) (o : Fin 48), s.saf.rowFor 2 (0x2000 + o.val) = none → exec (.onmaxCut o) s = .next s) ∧
  (∀ (s : State) (o : Fin 48), (s.hsRt o.val).delayed = true → (s.hsRt o.val).cmd = true → exec (.offminEnd o) s = .next
    (s.hsJudgeOn o.val []) ∧ exec (.rateDelayEnd o) s = .next (s.hsJudgeOn o.val [])) ∧
  (∀ (s : State) (o : Fin 48), ((s.hsRt o.val).delayed = false ∨ (s.hsRt o.val).cmd = false) → exec (.offminEnd o) s = .next s
    ∧ exec (.rateDelayEnd o) s = .next s) ∧
  (∀ (s : State) (o : Fin 48), (s.hsRt o.val).drv = false → (s.hsRt o.val).delayed = true → (s.hsRt o.val).cmd = true →
    s.hsMayDrive o.val = true → s.forbidRow o.val [] = none → offminHolds s.saf o.val (s.hsRt o.val) s.time.guardNs = none →
    rateHolds s.saf o.val (s.hsRt o.val) s.time.guardNs = none → Completes [.fio, .saf, .peat] (.offminEnd o) s fun t =>
    (t.hsRt o.val).drv = true ∧ (t.hsRt o.val).counts = true ∧ (t.hsRt o.val).delayed = false ∧ (t.hsRt o.val).offAt = none) ∧
  (∀ (s : State) (o : Fin 48), (s.hsRt o.val).own = true → (s.hsRt o.val).drv = false → Completes [.fio] (.hsCountsOff o) s
    fun t => (t.hsRt o.val).own = false ∧ (t.hsRt o.val).counts = (hsShared (s.hsCfg o.val) && tbit (s.hsRt o.val).conds 4)) ∧
  (∀ (s : State) (o : Fin 48), ((s.hsRt o.val).own = false ∨ (s.hsRt o.val).drv = true) → exec (.hsCountsOff o) s = .next s)

/-- Digital input filters, encoder captures and faults, capture reads, the end of a move. A raw level away from the accepted
one starts the filter at its first transition and a return ends it. A capture edge of the configured source, a Z edge now
or an accepted edge of the configured input at its first raw transition and once, sends the position that it moved to and
its stamp up; another edge, and one with CAP_SRC 0, sends nothing. A capture that arrives is queued while fewer than 8
wait, the ninth is lost and counted; an encoder fault sets its bit and sends up its event; a capture read frees the oldest
entry, an empty queue is refused with 0x09; a move with no other waiting ends on its target. Rests on log entries 53, 55,
56, 94, 109, 111. (R314, R316, R319, R320, R324, R330.) -/
def Obligations.InputsEncodersAndAxes : Prop :=
  (∀ (s : State) (i : Fin 64) (v : Bool), (tget {} s.fio.di i.val : DiRt).acc = v → Completes [.fio] (.digitalInputTransition
    i v) s fun t => (tget {} t.fio.di i.val : DiRt) = { acc := v, raw := v, since := none }) ∧
  (∀ (s : State) (i : Fin 64) (v : Bool), (tget {} s.fio.di i.val : DiRt).acc ≠ v → (tget {} s.fio.di i.val : DiRt).since =
    none → Completes [.fio] (.digitalInputTransition i v) s fun t => (tget {} t.fio.di i.val : DiRt) =
    { (tget {} s.fio.di i.val : DiRt) with raw := v, since := some s.time.shadow.ns }) ∧
  (∀ (s : State) (k : Fin 16) (i : Fin 64) (m : Word), encCapSrc (s.encCfg k.val) = 1 → Completes [.fio] (.encoderCapture k
    true ⟨i, m⟩) s fun t => t.encRt k.val = s.encRt k.val ∧ t.fio.up = s.fio.up ++ [.capture k.val ((s.encRt k.val).pos + m)
    s.time.shadow.ns]) ∧
  (∀ (s : State) (k : Fin 16) (i : Fin 64) (m : Word) (x : Time), encCapSrc (s.encCfg k.val) = 2 → fld (s.encCfg k.val) 29 24
    = i.val → (tget {} s.fio.di i.val : DiRt).accAt = some x → (s.encRt k.val).capAt ≠ some x → Completes [.fio]
    (.encoderCapture k false ⟨i, m⟩) s fun t => t.encRt k.val = { s.encRt k.val with capAt := some x } ∧ t.fio.up = s.fio.up
    ++ [.capture k.val ((s.encRt k.val).pos + m) x]) ∧
  (∀ (s : State) (k : Fin 16) (i : Fin 64) (m : Word), encCapSrc (s.encCfg k.val) = 2 → (fld (s.encCfg k.val) 29 24 ≠ i.val ∨
    (tget {} s.fio.di i.val : DiRt).accAt = (s.encRt k.val).capAt) → exec (.encoderCapture k false ⟨i, m⟩) s = .next s) ∧
  (∀ (s : State) (k : Fin 16) (x : Word) (y : Time) (r : List UpItem), s.pw.variantL = false → s.pw.fieldUp = true →
    s.pw.logic = .run → s.fio.up = .capture k.val x y :: r → (s.encRt k.val).queue.length < 8 → Completes [.pw, .hif, .cmb,
    .cnv, .fio, .mir, .bog, .wag, .seen, .out, .freeIdx] (.uplinkFrame true) s fun t => t.encRt k.val =
    { s.encRt k.val with queue := (s.encRt k.val).queue ++ [(x, y)] } ∧ t.fio.up = r ∧ t.fio.capLost = s.fio.capLost) ∧
  (∀ (s : State) (k : Fin 16) (x : Word) (y : Time) (r : List UpItem), s.pw.variantL = false → s.pw.fieldUp = true →
    s.pw.logic = .run → s.fio.up = .capture k.val x y :: r → 8 ≤ (s.encRt k.val).queue.length → Completes [.pw, .hif, .cmb,
    .cnv, .fio, .mir, .bog, .wag, .seen, .out, .freeIdx] (.uplinkFrame true) s fun t => t.encRt k.val = s.encRt k.val ∧
    t.fio.up = r ∧ t.fio.capLost = satInc 0xFFFF s.fio.capLost) ∧
  (∀ (s : State) (k : Fin 16) (i : Fin 64) (m : Word), encCapSrc (s.encCfg k.val) = 0 → exec (.encoderCapture k true ⟨i, m⟩) s
    = .next s ∧ exec (.encoderCapture k false ⟨i, m⟩) s = .next s) ∧
  (∀ (s : State) (k : Fin 16), Completes [.fio] (.encoderFault k) s fun t => t.fio =
    { s.fio with encFault := putBit s.fio.encFault k.val true, up := s.fio.up ++ [.event 0x4D (BitVec.ofNat 64 k.val)] }) ∧
  (∀ (s : State) (p : Pair) (e : Entry) (x : Word) (y : Time) (r : List (Word × Time)), s.takeParam p 2 8 2 = some e → e.value
    < 16 → (s.encRt e.value).queue = (x, y) :: r → exec (.capRead p) s = .next (State.finishWith
    { s with fio := { s.fio with enc := tput {} { s.encRt e.value with queue := r } s.fio.enc e.value } } p.val e.sub 0
    (BitVec.ofNat 64 x.toNat) (canonU y.toNat))) ∧
  (∀ (s : State) (p : Pair) (e : Entry), s.takeParam p 2 8 2 = some e → e.value < 16 → (s.encRt e.value).queue = [] → exec
    (.capRead p) s = .next (s.finish p.val e.sub 0x09 0)) ∧
  (∀ (s : State) (a : Fin 16), (s.pulRt a.val).moving = true → (s.pulRt a.val).next = none → Completes [.fio] (.axisMoveEnd a)
    s fun t => t.pulRt a.val = PulRt.drawLine
    { s.pulRt a.val with pos := BitVec.ofInt 40 (s.pulRt a.val).target, moving := false } (tbit (s.pulCfg a.val) 34)) ∧
  (∀ (s : State) (a : Fin 16), (s.pulRt a.val).moving = false → exec (.axisMoveEnd a) s = .next s)

/-- The Drone: its cycle, latch, output instant and the release of a loop. On a powered field side of an AXQ-4096: a cycle
start takes a new program, which starts an idle Drone and begins with its first cycle, and of an active Drone counts the
cycle, with the hold scan on where the logic side is absent; an idle Drone latches and outputs nothing; the latch of a
running Drone that holds no loop state, its program with neither compare entries nor code, latches every scanned input,
runs every loop and clears the first-cycle flag; at the first output instant of a module that is no twin member every named
output enters COMMAND; a loop with a confirmed handover is released once the shadow of TB1 has come to its instant, before
it and without one it is not. Rests on log entries 55, 73, 74. (R495, R496, R497, R498, R501, R502, R505, R510.) -/
def Obligations.TheDrone : Prop :=
  (∀ (s : State), s.pw.fieldUp = true → s.pw.variantL = false → s.drn.nextImage = none → s.drn.st ≠ .idle → exec
    .droneCycleStart s = .next
    { s with drn := { s.drn with cycle := s.drn.cycle + 1, faulted := false, scanAt := [], scanOn := s.pw.logicAbsent, d0 := if s.drn.cycle = 0 then s.time.shadow.ns else s.drn.d0, rsRun := s.drn.rsRun.map (satInc 0xFFFFFFFF) } })
    ∧
  (∀ (s : State) (b : List Byte), s.pw.fieldUp = true → s.pw.variantL = false → s.drn.nextImage = some b → Completes [.drn]
    (.droneCycleStart) s fun t => t.drn.image = b ∧ t.drn.nextImage = none ∧ t.drn.first = true ∧ t.drn.cycle = s.drn.cycle +
    1 ∧ t.drn.st = (if s.drn.st = .idle then .run else s.drn.st)) ∧
  (∀ (s : State), s.drn.st = .idle → exec .droneInputLatch s = .next s ∧ exec .droneOutputInstant s = .next s) ∧
  (∀ (s : State), s.pw.fieldUp = true → s.pw.variantL = false → s.drn.st = .run → s.drn.loops = [] → holdCount s.drn.image 1 =
    0 → holdCount s.drn.image 4 = 0 → Completes [.fio, .saf, .drn, .peat] (.droneInputLatch) s fun t => t.drn.latch =
    ((List.range (holdCount s.drn.image 0)).foldl (fun t i => tput ((0 : Int), true) (s.latchScan i) t i) []) ∧ t.drn.stkRun =
    0 ∧ t.drn.first = false ∧ (∀ i : Fin 32, i.val < holdCount s.drn.image 3 → tget {} t.drn.loops i.val = s.loopCycle
    { s.drn with latch := ((List.range (holdCount s.drn.image 0)).foldl (fun t i => tput ((0 : Int), true) (s.latchScan i) t i) []), cmp := [] }
    i.val)) ∧
  (∀ (s : State), s.pw.fieldUp = true → s.pw.variantL = false → s.drn.st = .run → s.twn.fieldMember = false → s.drn.firstOut =
    false → s.drn.faulted = true → Completes [.fio, .saf, .drn, .peat] (.droneOutputInstant) s fun t => t.drn.firstOut = true
    ∧ t.drn.takeDue = false ∧ t.drn.hsCmd = BitVec.ofNat 48 (holdMask s.drn.image) ∧ t.drn.loops = tmap {} (fun l =>
    { l with cmd := true, req := none, confirmed := none }) s.drn.loops) ∧
  (∀ (s : State) (l : Fin 32) (x : Time), (tget {} s.drn.loops l.val : LoopRt).confirmed = some x → sdiff x s.time.shadow.ns ≤
    0 → exec (.holdLoopRelease l) s = .next
    { s with drn := { s.drn with loops := tput {} { (tget {} s.drn.loops l.val : LoopRt) with cmd := false, confirmed := none } s.drn.loops l.val } })
    ∧
  (∀ (s : State) (l : Fin 32) (x : Time), (tget {} s.drn.loops l.val : LoopRt).confirmed = some x → 0 < sdiff x
    s.time.shadow.ns → exec (.holdLoopRelease l) s = .next s) ∧
  (∀ (s : State) (l : Fin 32), (tget {} s.drn.loops l.val : LoopRt).confirmed = none → exec (.holdLoopRelease l) s = .next s)

/-- Receive buffers, plant frames, AT launches and the message flush. A buffer for a plant port joins its buffers, one for
another port on a ring that is not bound to it is refused with 0x02, one for a CAN queue that is shorter than a record with
0x09. A plant SEND without AT and without a stamp transmits its bytes at once and completes, one with an instant in reach
waits for it, one with an instant too far ahead is refused with 0x08. A plant frame that meets one buffer, of its port,
completes it with its length, or with 0x09 where it is too long, and is lost where there is none. With TB1 unlocked nothing
is launched; with TB1 locked a launch sends the one plant frame that waits, its instant due, and completes it, and makes
the one frame that a UART or CAN queue holds eligible where its instant is due. On a CAN channel a flush closes the buffer
that its first queue fills once FLUSH_US have passed since its first record, with FLUSH_US 0 it closes none. Rests on log
entries 34, 75. (R62, R71, R72, R97, R532, R539, R544.) -/
def Obligations.BuffersAndPlantPorts : Prop :=
  (∀ (s : State) (p : Pair) (e : Entry) (k : Fin 2), s.takeOp p.val 5 2 = some e → portOf e.byte16 = some (.plant k) →
    Completes [.hif, .leg, .out] (.rxBuffer p) s fun t => t.leg =
    { s.leg with rxBufs := s.leg.rxBufs ++ [{ pair := p, sub := e.sub, port := .plant k, addr := e.addr, size := e.len }] }) ∧
  (∀ (s : State) (p : Pair) (e : Entry) (q : Port), s.takeOp p.val 5 2 = some e → portOf e.byte16 = some q → s.rxRing q 0 ≠
    some p.val → s.rxRing q 1 ≠ some p.val → (match q with | .plant _ => true | _ => false) = false → exec (.rxBuffer p) s =
    .next (s.finish p.val e.sub 0x02 0)) ∧
  (∀ (s : State) (p : Pair) (e : Entry) (c : Fin 4), s.takeOp p.val 5 2 = some e → portOf e.byte16 = some (.can c) → s.rxRing
    (.can c) 0 = some p.val → e.len < 88 → exec (.rxBuffer p) s = .next (s.finish p.val e.sub 0x09 0)) ∧
  (∀ (s : State) (p : Pair) (e : Entry) (k : Fin 2), s.takeSend p (fun q => match q with | .plant _ => true | _ => false) =
    some (e, .plant k) → e.atFlag = false → e.tstamp = false → exec (.plantSend p) s = .next ((s.emitOut (.plant k.val
    e.data)).finish p.val e.sub 0 0)) ∧
  (∀ (s : State) (p : Pair) (e : Entry) (k : Fin 2), s.takeSend p (fun q => match q with | .plant _ => true | _ => false) =
    some (e, .plant k) → e.atFlag = true → s.atBeyond e = false → Completes [.time, .hif, .leg, .out] (.plantSend p) s fun t
    => t.leg =
    { s.leg with plantTx := s.leg.plantTx ++ [{ pair := p, sub := e.sub, port := k, tag := e.tag, tstamp := e.tstamp, at_ := e.atInstant, bytes := e.data }] }
    ∧ t.out = s.out) ∧
  (∀ (s : State) (p : Pair) (e : Entry) (k : Fin 2), s.takeSend p (fun q => match q with | .plant _ => true | _ => false) =
    some (e, .plant k) → s.atBeyond e = true → exec (.plantSend p) s = .next (s.finish p.val e.sub 0x08 0)) ∧
  (∀ (s : State) (k : Fin 2) (b : RxBuf) (d : List Byte), s.leg.rxBufs = [b] → b.port = .plant k → d.length ≤ b.size → exec
    (.plantMessageReceive k d) s = .next (((s.setLeg { s.leg with rxBufs := [] }).hostWrite b.addr d).finish b.pair.val b.sub
    0 (BitVec.ofNat 64 d.length))) ∧
  (∀ (s : State) (k : Fin 2) (b : RxBuf) (d : List Byte), s.leg.rxBufs = [b] → b.port = .plant k → b.size < d.length → exec
    (.plantMessageReceive k d) s = .next ((s.setLeg { s.leg with rxBufs := [] }).finish b.pair.val b.sub 0x09 0)) ∧
  (∀ (s : State) (k : Fin 2) (d : List Byte), s.leg.rxBufs = [] → exec (.plantMessageReceive k d) s = .next s) ∧
  (∀ (s : State) (q : Port), s.time.tb1Lock = false → exec (.messageAtLaunch q) s = .next s) ∧
  (∀ (s : State) (k : Fin 2) (x : PlantTx), s.time.tb1Lock = true → s.leg.plantTx = [x] → x.port = k → x.tstamp = false →
    s.atDue (some x.at_) = true → exec (.messageAtLaunch (.plant k)) s = .next (((s.setLeg
    { s.leg with plantTx := [] }).emitOut (.plant k.val x.bytes)).finish x.pair.val x.sub 0 0)) ∧
  (∀ (s : State) (u : Fin 4) (x : UartTx), s.time.tb1Lock = true → (s.uartRt u.val).tx = [x] → Completes [.leg]
    (.messageAtLaunch (.uart u)) s fun t => (t.uartRt u.val) =
    { s.uartRt u.val with tx := [{ x with eligible := x.eligible || s.atDue x.at_ }] }) ∧
  (∀ (s : State) (c : Fin 4) (x : CanTx), s.time.tb1Lock = true → (s.canRt c.val).tx = [x] → x.eligible = none → s.atDue x.at_
    = true → Completes [.leg] (.messageAtLaunch (.can c)) s fun t => (t.canRt c.val) =
    { s.canRt c.val with tx := [{ x with eligible := some s.time.t2 }] }) ∧
  (∀ (s : State) (c : Fin 4) (b : RxBuf) (ring : Nat), s.rfld (canOff c.val + 0xC) 31 16 ≠ 0 → s.rxRing (.can c) 0 = some ring
    → s.leg.bufOf (.can c) ring = some b → 0 < b.filled → b.first + s.rfld (canOff c.val + 0xC) 31 16 * 1000 ≤ s.time.t2 →
    exec (.messageRxFlush (.can c) false) s = .next ((s.closeRx b).drainRx (.can c))) ∧
  (∀ (s : State) (c : Fin 4) (q : Bool), s.rfld (canOff c.val + 0xC) 31 16 = 0 → exec (.messageRxFlush (.can c) q) s = .next
    s)

/-- CAN channels: enabling, frames in and out, confinement, filters. EN = 1 with a permitted configuration and free buffers
makes an OFF channel error-active with its counters at 0, with a configuration that is not permitted it sets CFG_ERR alone;
EN = 0 takes a channel off with its queues empty. A SEND on an OFF channel is refused with 0x99, a good one beyond 32 with
0x94, and one without AT on an empty queue is queued, eligible now. The one frame offered, once sent, leaves the queue and
completes with its start of frame; a frame received with a bad CRC or by a channel off the bus is not taken, one that no
filter names goes into receive queue 0 where DEFAULT says so, with its record. Counters of at most 127 are kept by an
error-active channel, a transmit counter above 255 takes it bus-off, counted, and with automatic recovery into recovery;
the end of recovery makes it error-active. On a member that acts: filters whose bits all have a meaning and whose buffers
are free are stored, another is refused with 0x90; HP_ACK of the latest SEQ clears NDAT, another is refused with 0x98;
RECOVER of a bus-off channel starts recovery, another is refused with 0x9A. Rests on log entries 75, 123. (R524, R526,
R528, R529, R530, R533, R536, R537, R539, R540, R541.) -/
def Obligations.CanChannels : Prop :=
  (∀ (s : State) (c : Fin 4) (w : Word) (cl : List Claim), s.hostUp = true → tbit w 0 = true → (s.canRt c.val).st = .off →
    ((s.writeBits (canOff c.val) w).setReg (canOff c.val) (putBit ((s.writeBits (canOff c.val) w).reg (canOff c.val)) 0
    true)).canCfgOk c.val = true → claimAll rankGeneral (ownPort c.val) (canBufs c.val) s.fio.claims = .ok cl → Completes
    [.regs, .pw, .hif, .fio, .leg, .out] (.canEnable c w) s fun t => (t.canRt c.val) =
    { s.canRt c.val with st := .active, tec := 0, rec_ := 0 } ∧ t.fio.claims = cl ∧ tbit (t.reg (canOff c.val)) 0 = true) ∧
  (∀ (s : State) (c : Fin 4) (w : Word), s.hostUp = true → tbit w 0 = true → ((s.writeBits (canOff c.val) w).setReg (canOff
    c.val) (putBit ((s.writeBits (canOff c.val) w).reg (canOff c.val)) 0 true)).canCfgOk c.val = false → exec (.canEnable c w)
    s = .next (s.modCan c.val (fun r => { r with cfgErr := true }))) ∧
  (∀ (s : State) (c : Fin 4) (w : Word), s.hostUp = true → tbit w 0 = false → (s.canRt c.val).st ≠ .off → Completes [.regs,
    .pw, .hif, .fio, .leg, .out] (.canEnable c w) s fun t => (t.canRt c.val).st = .off ∧ (t.canRt c.val).tx = [] ∧ (t.canRt
    c.val).q0 = [] ∧ (t.canRt c.val).q1 = [] ∧ tbit (t.reg (canOff c.val)) 0 = false) ∧
  (∀ (s : State) (p : Pair) (e : Entry) (c : Fin 4), s.takeSend p (fun q => match q with | .can _ => true | _ => false) = some
    (e, .can c) → (s.canRt c.val).st = .off → exec (.canSend p) s = .next (s.finish p.val e.sub 0x99 0)) ∧
  (∀ (s : State) (p : Pair) (e : Entry) (c : Fin 4), s.takeSend p (fun q => match q with | .can _ => true | _ => false) = some
    (e, .can c) → (s.canRt c.val).st = .active → s.rbit (canOff c.val) 4 = false → 24 ≤ e.len → e.len = 24 + (leAt e.data 5 1
    + 7) / 8 * 8 → s.atBeyond e = false → canSendOk (s.rbit (canOff c.val) 3) e.data = true → 32 ≤ (s.canRt c.val).tx.length →
    exec (.canSend p) s = .next (s.finish p.val e.sub 0x94 0)) ∧
  (∀ (s : State) (p : Pair) (e : Entry) (c : Fin 4), s.takeSend p (fun q => match q with | .can _ => true | _ => false) = some
    (e, .can c) → (s.canRt c.val).st = .active → s.rbit (canOff c.val) 4 = false → 24 ≤ e.len → e.len = 24 + (leAt e.data 5 1
    + 7) / 8 * 8 → e.atFlag = false → canSendOk (s.rbit (canOff c.val) 3) e.data = true → (s.canRt c.val).tx = [] → Completes
    [.hif, .leg, .out] (.canSend p) s fun t => (t.canRt c.val).tx =
    [{ pair := p, sub := e.sub, frame := canFrameOf e.data, staleUs := leAt e.data 8 4, at_ := none, eligible := some s.time.t2, order := (s.canRt c.val).nextOrder }])
    ∧
  (∀ (s : State) (c : Fin 4) (x : CanTx) (a : LineStamp) (n : Nat), (s.canRt c.val).st = .active → s.rbit (canOff c.val) 4 =
    false → (s.canRt c.val).tx = [x] → x.eligible = some n → n ≤ s.time.t2 - (s.time.tb2.ns - a.tb2).toNat → x.staleUs = 0 →
    exec (.canFrameSent c a) s = .next ((((s.canDrop c.val x).emitOut (.can c.val x.frame)).finishWith x.pair.val x.sub 0 0
    (canonU a.tb1.toNat)).canOfferNow c.val)) ∧
  (∀ (s : State) (c : Fin 4) (f : CanFrame) (v : Bool) (a : LineStamp), (v = false ∨ (s.canRt c.val).onBus = false) → exec
    (.canFrameReceive c f v a) s = .next s) ∧
  (∀ (s : State) (c : Fin 4) (f : CanFrame) (a : LineStamp), (s.canRt c.val).onBus = true → s.leg.filterOf c.val f = none →
    s.rfld (canOff c.val) 2 1 = 1 → (s.canRt c.val).q0 = [] → (s.canRt c.val).q1 = [] → (s.canRt c.val).tx = [] → s.leg.rxBufs
    = [] → Completes [.hif, .leg, .out] (.canFrameReceive c f true a) s fun t => (t.canRt c.val) =
    { s.canRt c.val with q0 := [canRecord f 0xFF false (s.canRt c.val).loss0 a], loss0 := false }) ∧
  (∀ (s : State) (c : Fin 4) (a b : Nat), (s.canRt c.val).st = .active → (s.canRt c.val).tx = [] → a ≤ 127 → b ≤ 127 → exec
    (.canState c a b) s = .next (s.modCan c.val (fun r => { r with tec := a, rec_ := b }))) ∧
  (∀ (s : State) (c : Fin 4) (a b : Nat), (s.canRt c.val).st = .active → 255 < a → s.rbit (canOff c.val) 7 = true → Completes
    [.hif, .leg, .out] (.canState c a b) s fun t => (t.canRt c.val).st = .recovering ∧ (t.canRt c.val).busoffCnt = satInc
    0xFFFF (s.canRt c.val).busoffCnt) ∧
  (∀ (s : State) (c : Fin 4), (s.canRt c.val).st = .recovering → (s.canRt c.val).tx = [] → Completes [.hif, .leg, .out]
    (.canRecoveryEnd c) s fun t => (t.canRt c.val) = { s.canRt c.val with st := .active, tec := 0, rec_ := 0 }) ∧
  (∀ (s : State) (p : Pair) (e : Entry) (cl : List Claim), s.takeLoad p 14 1 = some e → s.roleActs = true → (withIndex e.first
    e.words128).find? (fun x => !fpOk x.2) = none → filterClaims (withIndex e.first e.words128) s.fio.claims = .ok cl → Ends
    [.leg, .fio] (.filterTableLoad p) s p e 0 (BitVec.ofNat 64 e.count) fun t => t.leg.filters = tputs 0 s.leg.filters e.first
    e.words128 ∧ t.fio.claims = cl) ∧
  (∀ (s : State) (p : Pair) (e : Entry) (x : Nat × BitVec 128), s.takeLoad p 14 1 = some e → s.roleActs = true → (withIndex
    e.first e.words128).find? (fun x => !fpOk x.2) = some x → exec (.filterTableLoad p) s = .next (s.finish p.val e.sub 0x90
    (BitVec.ofNat 64 x.1))) ∧
  (∀ (s : State) (p : Pair) (e : Entry), s.takeParam p 1 14 1 = some e → s.roleActs = true → e.value % 256 < 4 → e.value / 256
    = (s.canRt (e.value % 4)).hpSeq.toNat → Ends [.leg] (.hpAck p) s p e 0 0 fun t => t = s.modCan (e.value % 4) (fun r =>
    { r with ndat := false })) ∧
  (∀ (s : State) (p : Pair) (e : Entry), s.takeParam p 1 14 1 = some e → s.roleActs = true → e.value % 256 < 4 → e.value / 256
    ≠ (s.canRt (e.value % 4)).hpSeq.toNat → exec (.hpAck p) s = .next (s.finish p.val e.sub 0x98 (BitVec.ofNat 64 (s.canRt
    (e.value % 4)).hpSeq.toNat))) ∧
  (∀ (s : State) (p : Pair) (e : Entry), s.takeParam p 1 14 2 = some e → s.roleActs = true → e.value < 4 → (s.canRt
    e.value).st = .busOff → Ends [.leg] (.recover p) s p e 0 0 fun t => t = s.modCan e.value (fun r =>
    { r with st := .recovering })) ∧
  (∀ (s : State) (p : Pair) (e : Entry), s.takeParam p 1 14 2 = some e → s.roleActs = true → e.value < 4 → (s.canRt
    e.value).st ≠ .busOff → exec (.recover p) s = .next (s.finish p.val e.sub 0x9A 0))

/-- UARTs: enabling, sending and receiving characters. EN = 1 with a permitted configuration and free buffers switches the
port on, with a configuration that is not permitted it sets CFG_ERR alone; EN = 0 switches a port that is on off with its
queues empty. A SEND on a port that is off is refused with 0x99, a valid one without AT, fewer than 16 waiting, is queued;
the one queued, eligible SEND starts on an idle line and completes at its end, and none starts while one is under way. A
character without error on a port that is on, in 8-bit mode and not skipping, with no record begun, begins one with its
stamp; a port that is off takes none; a gap ends the record in progress and queues it. Rests on log entries 75, 123. (R524,
R542, R543, R544, R545, R546.) -/
def Obligations.Uarts : Prop :=
  (∀ (s : State) (u : Fin 4) (w : Word) (cl : List Claim), s.hostUp = true → tbit w 0 = true → ((s.writeBits (uartOff u.val)
    w).setReg (uartOff u.val) (putBit ((s.writeBits (uartOff u.val) w).reg (uartOff u.val)) 0 true)).uartCfgOk u.val = true →
    claimAll rankGeneral (ownPort (0x10 + u.val)) (uartBufs u.val) s.fio.claims = .ok cl → Completes [.regs, .pw, .hif, .fio,
    .leg, .out] (.uartEnable u w) s fun t => (t.uartRt u.val).on = true ∧ t.fio.claims = cl ∧ tbit (t.reg (uartOff u.val)) 0 =
    true) ∧
  (∀ (s : State) (u : Fin 4) (w : Word), s.hostUp = true → tbit w 0 = true → ((s.writeBits (uartOff u.val) w).setReg (uartOff
    u.val) (putBit ((s.writeBits (uartOff u.val) w).reg (uartOff u.val)) 0 true)).uartCfgOk u.val = false → exec (.uartEnable
    u w) s = .next (s.modUart u.val (fun r => { r with cfgErr := true }))) ∧
  (∀ (s : State) (u : Fin 4) (w : Word), s.hostUp = true → tbit w 0 = false → (s.uartRt u.val).on = true → Completes [.regs,
    .pw, .hif, .fio, .leg, .out] (.uartEnable u w) s fun t => (t.uartRt u.val).on = false ∧ (t.uartRt u.val).tx = [] ∧
    (t.uartRt u.val).queue = [] ∧ tbit (t.reg (uartOff u.val)) 0 = false) ∧
  (∀ (s : State) (p : Pair) (e : Entry) (u : Fin 4), s.takeSend p (fun q => match q with | .uart _ => true | _ => false) =
    some (e, .uart u) → (s.uartRt u.val).on = false → exec (.uartSend p) s = .next (s.finish p.val e.sub 0x99 0)) ∧
  (∀ (s : State) (p : Pair) (e : Entry) (u : Fin 4), s.takeSend p (fun q => match q with | .uart _ => true | _ => false) =
    some (e, .uart u) → (s.uartRt u.val).on = true → 8 ≤ e.len → e.len = 8 + (leAt e.data 0 2 + 7) / 8 * 8 → e.atFlag = false
    → leAt e.data 0 2 ≠ 0 → leAt e.data 0 2 ≤ 4096 → leAt e.data 2 6 ≤ 1 → (s.uartRt u.val).tx.length < 16 → Completes [.hif,
    .leg, .out] (.uartSend p) s fun t => (t.uartRt u.val) =
    { s.uartRt u.val with tx := (s.uartRt u.val).tx ++ [{ pair := p, sub := e.sub, chars := slice e.data 8 (leAt e.data 0 2), firstAddr := decide (leAt e.data 2 1 = 1), at_ := none, eligible := true }] })
    ∧
  (∀ (s : State) (u : Fin 4) (x : UartTx), (s.uartRt u.val).on = true → (s.uartRt u.val).sending = false → (s.uartRt u.val).tx
    = [x] → x.eligible = true → Completes [.leg, .out] (.uartSendStart u) s fun t => (t.uartRt u.val) =
    { s.uartRt u.val with sending := true } ∧ t.out = .uart u.val x.chars x.firstAddr :: s.out) ∧
  (∀ (s : State) (u : Fin 4), (s.uartRt u.val).sending = true → exec (.uartSendStart u) s = .next s) ∧
  (∀ (s : State) (u : Fin 4) (x : UartTx) (r : List UartTx), (s.uartRt u.val).sending = true → (s.uartRt u.val).tx = x :: r →
    exec (.uartSendEnd u) s = .next ((s.modUart u.val (fun y => { y with tx := r, sending := false })).finish x.pair.val x.sub
    0 0)) ∧
  (∀ (s : State) (u : Fin 4) (ch : BitVec 8) (a : LineStamp), (s.uartRt u.val).on = true → s.rbit (uartOff u.val) 2 = false →
    (s.uartRt u.val).skip = false → (s.uartRt u.val).chars = [] → (s.uartRt u.val).queue = [] → Completes [.hif, .leg, .out]
    (.uartCharacter u ch false false false false a) s fun t => (t.uartRt u.val).chars = [ch] ∧ (t.uartRt u.val).start = a ∧
    (t.uartRt u.val).queue = [] ∧ (t.uartRt u.val).lossDue = false) ∧
  (∀ (s : State) (u : Fin 4) (ch : BitVec 8) (n x f o : Bool) (a : LineStamp), (s.uartRt u.val).on = false → exec
    (.uartCharacter u ch n x f o a) s = .next s) ∧
  (∀ (s : State) (u : Fin 4), (s.uartRt u.val).chars ≠ [] → s.leg.rxBufs = [] → Completes [.hif, .leg, .out] (.uartGap u) s
    fun t => (t.uartRt u.val).queue = (s.uartRt u.val).queue ++ [uartRecord (s.uartRt u.val)] ∧ (t.uartRt u.val).chars = [])

/-- The parallel bus and the general-purpose lines. A SEND on a bus that is off is refused with 0x99, one with an invalid
entry with 0x91 and its index, a valid list without AT starts on a bus with nothing queued. READY releases a cycle that
waits for it; the end of a cycle writes data and status of its entry, that of the last entry ends the list with its
results; a cycle that waits for READY at its timeout ends the list with 0x96 and the number of entries done, its own
reading 0xFFFF. With an empty queue none of these does anything. On a member that acts GP_WRITE changes the masked outputs
alone; with no chip select in use the input states are read as they stand, and with no interrupt line enabled a change of
them raises nothing; a line configuration is stored where its claims are granted, else it is ignored with event 0xB0. Rests
on log entry 75. (R547, R548, R549, R550.) -/
def Obligations.ParallelBusAndLines : Prop :=
  (∀ (s : State) (p : Pair) (e : Entry), s.takeSend p (fun q => decide (q = .pb)) = some (e, .pb) → s.rbit 0xE300 0 = false →
    exec (.pbSend p) s = .next (s.finish p.val e.sub 0x99 0)) ∧
  (∀ (s : State) (p : Pair) (e : Entry) (i : Nat), s.takeSend p (fun q => decide (q = .pb)) = some (e, .pb) → s.rbit 0xE300 0
    = true → 8 ≤ e.len → e.len ≤ 4096 → e.len % 8 = 0 → s.atBeyond e = false → ((List.range (e.len / 8)).map (entryAt 64 8
    e.data)).findIdx? (fun x => !s.pbEntryOk x) = some i → exec (.pbSend p) s = .next (s.finish p.val e.sub 0x91 (BitVec.ofNat
    64 i))) ∧
  (∀ (s : State) (p : Pair) (e : Entry), s.takeSend p (fun q => decide (q = .pb)) = some (e, .pb) → s.rbit 0xE300 0 = true → 8
    ≤ e.len → e.len ≤ 4096 → e.len % 8 = 0 → e.atFlag = false → ((List.range (e.len / 8)).map (entryAt 64 8 e.data)).findIdx?
    (fun x => !s.pbEntryOk x) = none → s.leg.pb = [] → Completes [.hif, .leg, .out] (.pbSend p) s fun t => t.leg.pb =
    [{ pair := p, sub := e.sub, addr := e.addr, entries := (List.range (e.len / 8)).map (entryAt 64 8 e.data), started := true }])
    ∧
  (∀ (s : State) (x : PbRun) (r : List PbRun), s.leg.pb = x :: r → x.started = true → s.pbWaits (x.entries.getD x.doneN 0) =
    true → exec .pbReady s = .next (s.setLeg { s.leg with pb := { x with ready := true } :: r })) ∧
  (∀ (s : State), s.leg.pb = [] → exec .pbReady s = .next s ∧ exec .busTimeout s = .next s ∧ ∀ d, exec (.pbCycleEnd d) s =
    .next s) ∧
  (∀ (s : State) (x : PbRun) (r : List PbRun) (d : BitVec 16), s.leg.pb = x :: r → x.started = true → s.pbWaits
    (x.entries.getD x.doneN 0) = false → x.entries.length ≤ x.doneN + 1 → exec (.pbCycleEnd d) s = .next (s.pbFinish
    { x with entries := setAt x.entries x.doneN (pbPut (x.entries.getD x.doneN 0) (if fld (x.entries.getD x.doneN 0) 25 24 = 3 then d.toNat % 256 else d.toNat) 1), doneN := x.doneN + 1, ready := false }
    0 0)) ∧
  (∀ (s : State) (x : PbRun) (r : List PbRun) (d : BitVec 16), s.leg.pb = x :: r → x.started = true → s.pbWaits
    (x.entries.getD x.doneN 0) = false → x.doneN + 1 < x.entries.length → Completes [.hif, .leg, .out] (.pbCycleEnd d) s fun t
    => t.leg.pb =
    { x with entries := setAt x.entries x.doneN (pbPut (x.entries.getD x.doneN 0) (if fld (x.entries.getD x.doneN 0) 25 24 = 3 then d.toNat % 256 else d.toNat) 1), doneN := x.doneN + 1, ready := false }
    :: r) ∧
  (∀ (s : State) (x : PbRun) (r : List PbRun), s.leg.pb = x :: r → x.started = true → s.pbWaits (x.entries.getD x.doneN 0) =
    true → exec .busTimeout s = .next ((s.setLeg { s.leg with pbTimeouts := satInc 0xFFFF s.leg.pbTimeouts }).pbFinish
    { x with entries := x.entries.zipIdx.map (fun k => if k.2 < x.doneN then k.1 else if k.2 = x.doneN then pbPut k.1 0xFFFF 2 else pbPut k.1 0 0xFF) }
    0x96 x.doneN)) ∧
  (∀ (s : State) (p : Pair) (e : Entry), s.takeParam p 1 14 3 = some e → s.roleActs = true → e.value < 2 ^ 16 → Ends [.leg]
    (.gpWrite p) s p e 0 0 fun t => t = s.setLeg
    { s.leg with gpOut := (s.leg.gpOut &&& ~~~ BitVec.ofNat 8 (e.value / 256)) ||| (BitVec.ofNat 8 e.value &&& BitVec.ofNat 8 (e.value / 256)) })
    ∧
  (∀ (s : State) (p : Pair) (e : Entry), s.takeParam p 2 14 4 = some e → e.value = 0 → s.rbit 0xE300 1 = false → s.rbit 0xE300
    2 = false → exec (.gpRead p) s = .next (s.finish p.val e.sub 0 (BitVec.ofNat 64 s.leg.gpIn.toNat))) ∧
  (∀ (s : State) (x : BitVec 8), s.rfld 0xE000 15 8 = 0 → exec (.gpInputChange x) s = .next (s.setLeg
    { s.leg with gpIn := x })) ∧
  (∀ (s : State) (w : Word) (cl : List Claim), s.hostUp = true → gpClaims (ownReg 0) (dirLines (s.reg 0xE000)) (dirLines
    ((s.writeBits 0xE000 w).reg 0xE000)) s.fio.claims = .ok cl → exec (.gpConfigWrite .gpCfg w) s = .next ((s.writeBits 0xE000
    w).setClaims cl)) ∧
  (∀ (s : State) (w : Word) (c : Byte) (r : BitVec 64), s.hostUp = true → gpClaims (ownReg 0) (dirLines (s.reg 0xE000))
    (dirLines ((s.writeBits 0xE000 w).reg 0xE000)) s.fio.claims = .refused c r → exec (.gpConfigWrite .gpCfg w) s = .next
    (s.raise 0xB0 r))

/-- Loads of the schedule, the receive map, the station and the segment table; station status. On a member that acts: a
schedule load of a mode that is not in use, in which the check finds no offence, replaces the entries in the schedule and
in the copy of the guardian, makes the mode valid, ends the wait for its schedule and completes with COUNT; one with an
offence at a window is refused with 0x60, the mode and the window in RESULT, one of a mode in use with 0x61 and the mode. A
load of the receive map, the station table or the segment table whose entries set no unnamed bit (and whose segments form a
tree) replaces its entries and completes with COUNT; one with an unnamed bit (in the station table also SCHED_ACK 3) is
refused with 0x02, segments that are no tree with 0x60. A status read of a station up to 4095 answers its status entry, one
beyond is refused with 0x02. Rests on log entries 32, 65, 66. (R406, R407, R408, R409, R438.) -/
def Obligations.WaggleTables : Prop :=
  (∀ (s : State) (p : Pair) (e : Entry), s.takeLoadIn p 10 16 23 = some e → s.roleActs = true → s.mirrors = false →
    s.modeInUse (e.tblNum - 16) = false → schedOffence (tload (fun _ => 0) s.wag.sched (withIndex (256 * (e.tblNum - 16) +
    e.first) e.words256)) (e.tblNum - 16) = none → Ends [.wag] (.scheduleLoad p) s p e 0 (BitVec.ofNat 64 e.count) fun t =>
    t.wag =
    { s.wag with sched := tload (fun _ => 0) s.wag.sched (withIndex (256 * (e.tblNum - 16) + e.first) e.words256), grdSched := tload (fun _ => 0) s.wag.sched (withIndex (256 * (e.tblNum - 16) + e.first) e.words256), validModes := putBit s.wag.validModes (e.tblNum - 16) true, noSched := s.wag.noSched.filter (fun x => decide (x ≠ e.tblNum - 16)) })
    ∧
  (∀ (s : State) (p : Pair) (e : Entry) (w : Nat), s.takeLoadIn p 10 16 23 = some e → s.roleActs = true → s.mirrors = false →
    s.modeInUse (e.tblNum - 16) = false → schedOffence (tload (fun _ => 0) s.wag.sched (withIndex (256 * (e.tblNum - 16) +
    e.first) e.words256)) (e.tblNum - 16) = some w → exec (.scheduleLoad p) s = .next (s.finish p.val e.sub 0x60 (BitVec.ofNat
    64 ((e.tblNum - 16) + w * 256)))) ∧
  (∀ (s : State) (p : Pair) (e : Entry), s.takeLoadIn p 10 16 23 = some e → s.roleActs = true → s.mirrors = false →
    s.modeInUse (e.tblNum - 16) = true → exec (.scheduleLoad p) s = .next (s.finish p.val e.sub 0x61 (BitVec.ofNat 64
    (e.tblNum - 16)))) ∧
  (∀ (s : State) (p : Pair) (e : Entry), s.takeLoad p 10 1 = some e → s.roleActs = true → s.mirrors = false → (withIndex
    e.first e.words64).any (fun x => decide (fld x.2 63 25 ≠ 0)) = false → Ends [.wag] (.receiveMapLoad p) s p e 0
    (BitVec.ofNat 64 e.count) fun t => t.wag =
    { s.wag with rxMap := tload (fun _ => 0) s.wag.rxMap (withIndex e.first e.words64) }) ∧
  (∀ (s : State) (p : Pair) (e : Entry), s.takeLoad p 10 1 = some e → s.roleActs = true → s.mirrors = false → (withIndex
    e.first e.words64).any (fun x => decide (fld x.2 63 25 ≠ 0)) = true → exec (.receiveMapLoad p) s = .next (s.finish p.val
    e.sub 0x02 0)) ∧
  (∀ (s : State) (p : Pair) (e : Entry), s.takeLoad p 10 2 = some e → s.roleActs = true → s.mirrors = false → (withIndex
    e.first e.words64).any (fun x => decide (fld x.2 7 6 ≠ 0) || decide (fld x.2 9 8 = 3) || decide (fld x.2 63 11 ≠ 0)) =
    false → Ends [.wag] (.stationTableLoad p) s p e 0 (BitVec.ofNat 64 e.count) fun t => t.wag =
    { s.wag with stnTab := tload (fun _ => 0) s.wag.stnTab (withIndex e.first e.words64) }) ∧
  (∀ (s : State) (p : Pair) (e : Entry), s.takeLoad p 10 2 = some e → s.roleActs = true → s.mirrors = false → (withIndex
    e.first e.words64).any (fun x => decide (fld x.2 7 6 ≠ 0) || decide (fld x.2 9 8 = 3) || decide (fld x.2 63 11 ≠ 0)) =
    true → exec (.stationTableLoad p) s = .next (s.finish p.val e.sub 0x02 0)) ∧
  (∀ (s : State) (p : Pair) (e : Entry), s.takeLoad p 10 3 = some e → s.roleActs = true → s.mirrors = false → (withIndex
    e.first e.words64).any (fun x => decide (fld x.2 7 6 ≠ 0) || decide (fld x.2 63 9 ≠ 0)) = false → segOffence (tload (fun _
    => 0) s.wag.segTab (withIndex e.first e.words64)) = none → Ends [.wag] (.segmentTableLoad p) s p e 0 (BitVec.ofNat 64
    e.count) fun t => t.wag = { s.wag with segTab := tload (fun _ => 0) s.wag.segTab (withIndex e.first e.words64) }) ∧
  (∀ (s : State) (p : Pair) (e : Entry), s.takeLoad p 10 3 = some e → s.roleActs = true → s.mirrors = false → (withIndex
    e.first e.words64).any (fun x => decide (fld x.2 7 6 ≠ 0) || decide (fld x.2 63 9 ≠ 0)) = true → exec (.segmentTableLoad
    p) s = .next (s.finish p.val e.sub 0x02 0)) ∧
  (∀ (s : State) (p : Pair) (e : Entry) (b : Nat), s.takeLoad p 10 3 = some e → s.roleActs = true → s.mirrors = false →
    (withIndex e.first e.words64).any (fun x => decide (fld x.2 7 6 ≠ 0) || decide (fld x.2 63 9 ≠ 0)) = false → segOffence
    (tload (fun _ => 0) s.wag.segTab (withIndex e.first e.words64)) = some b → exec (.segmentTableLoad p) s = .next (s.finish
    p.val e.sub 0x60 (BitVec.ofNat 64 (b * 256)))) ∧
  (∀ (s : State) (p : Pair) (e : Entry), s.takeParam p 2 10 2 = some e → e.value < 4096 → exec (.stationStat p) s = .next
    (s.finish p.val e.sub 0 (s.stationStatus e.value))) ∧
  (∀ (s : State) (p : Pair) (e : Entry), s.takeParam p 2 10 2 = some e → 4096 ≤ e.value → exec (.stationStat p) s = .next
    (s.finish p.val e.sub 0x02 0))

/-- Window swaps, EXCLUSIVE windows and arbitration slots. A swap of an EXCLUSIVE window of this station, in a mode it holds,
copies its transmit words into the bank and notes whether one of them was written since the DATA frame before; one of a
window of another station, outside a twin, does nothing. At the start of its EXCLUSIVE window a module that may send and
has joined sends, on a segment without trunks: nothing where the window has neither SAFETY, STATUS nor words; with the
STATUS flag and 2 to 102 words, where both end in the window, its STATUS and one DATA frame of its bank, with the SEQ after
the one before. The end of a window judges the occurrence, counts it, clears what was received in it and makes it the last
outcome of its station: GOOD with the frames called for, EMPTY with none and no SOF, INVALID with none and a SOF or with a
frame that was not valid; the second GOOD one in a row makes the station no longer STALE. In a slot of a FREE window after
the first a module without a frame sends nothing; one with a probe to send that a higher identifier beats counts a lost
arbitration and sends nothing, and without a rival sends it. Rests on log entries 60, 64, 65, 99. (R371, R372, R418, R421,
R422, R425, R426, R427.) -/
def Obligations.WaggleWindows : Prop :=
  (∀ (s : State) (w : Fin 256), w.val ≠ 0 → s.wag.hasMode s.wag.mode = true → wType (s.wag.window w.val) = 1 → wOrigin
    (s.wag.window w.val) = s.station → exec (.windowSwap w) s = .next (s.setWag
    { s.wag with banks := tput [] ((List.range (wWords (s.wag.window w.val))).map (fun i => tget 0 s.wag.txWords (wFirst (s.wag.window w.val) + i))) s.wag.banks w.val, swapMark := tput 0 s.wag.txWrites s.wag.swapMark w.val, swapDirty := tput false ((List.range (wWords (s.wag.window w.val))).any (fun i => decide (tget 0 s.wag.winMark w.val < tget 0 s.wag.txMark (wFirst (s.wag.window w.val) + i)))) s.wag.swapDirty w.val }))
    ∧
  (∀ (s : State) (w : Fin 256), wType (s.wag.window w.val) = 1 → wOrigin (s.wag.window w.val) ≠ s.station → s.twinEn = false →
    exec (.windowSwap w) s = .next s) ∧
  (∀ (s : State) (w : Fin 256), w.val ≠ 0 → wType (s.wag.window w.val) = 1 → wPresent (s.wag.window w.val) s.wag.mpos = true →
    wOrigin (s.wag.window w.val) = s.station → s.canSend = true → s.dataOk = true → wSafety (s.wag.window w.val) = false →
    wStatus (s.wag.window w.val) = false → wWords (s.wag.window w.val) = 0 → exec (.exclusiveWindowStart w) s = .next
    (s.setWag { s.wag with safOut := tput [] [] s.wag.safOut w.val, lastTx := none })) ∧
  (∀ (s : State) (w : Fin 256), w.val ≠ 0 → wType (s.wag.window w.val) = 1 → wPresent (s.wag.window w.val) s.wag.mpos = true →
    wOrigin (s.wag.window w.val) = s.station → s.canSend = true → s.dataOk = true → wSafety (s.wag.window w.val) = false →
    wStatus (s.wag.window w.val) = true → 2 ≤ wWords (s.wag.window w.val) → wWords (s.wag.window w.val) ≤ 102 →
    s.wag.suppressed = [] → s.fwdPorts = [] → frameTime s.wag.guardNs 32 + frameTime s.wag.guardNs (5 * wWords (s.wag.window
    w.val)) ≤ wLen (s.wag.window w.val) → (s.wag.bank w.val).length = wWords (s.wag.window w.val) → Completes [.wag, .out]
    (.exclusiveWindowStart w) s fun t => t.out = .waggle (ownFrame (wPrio (s.wag.window w.val)) 2 s.station (wDst
    (s.wag.window w.val)) w.val (tget 0 s.wag.txSeq w.val + 1) (dataBytes (s.wag.bank w.val))) false :: .waggle (ownFrame
    0xC00 4 s.station 4095 w.val 0 s.statusBytes) false :: s.out ∧ t.wag =
    { s.wag with safOut := tput [] [] s.wag.safOut w.val, lastTx := none, txSeq := tput 0 (tget 0 s.wag.txSeq w.val + 1) s.wag.txSeq w.val })
    ∧
  (∀ (s : State) (w : Fin 256) (f : Bool), s.takesFrames = true → w.val ≠ 0 → wType (s.wag.window w.val) = 1 → wPresent
    (s.wag.window w.val) s.wag.mpos = true → Completes [.hif, .stp, .wag, .out] (.exclusiveWindowEnd w f) s fun t =>
    t.wag.winRx = tput {} {} s.wag.winRx w.val ∧ t.wag.winCnt = tmod {} s.wag.winCnt w.val (fun c => c.count (judgeWindow
    (s.wag.window w.val) (tget {} s.wag.winRx w.val) f)) ∧ (t.wag.stn (wOrigin (s.wag.window w.val))).last = judgeWindow
    (s.wag.window w.val) (tget {} s.wag.winRx w.val) f) ∧
  (∀ (e : BitVec 256) (f : Bool), wExpected e ≠ [] → judgeWindow e { kinds := wExpected e } f = .good ∧ judgeWindow e {} false
    = .empty ∧ judgeWindow e {} true = .invalid ∧ judgeWindow e { kinds := wExpected e, bad := true } f = .invalid) ∧
  (∀ (s : State) (w : Fin 256) (f : Bool), s.takesFrames = true → w.val ≠ 0 → wType (s.wag.window w.val) = 1 → wPresent
    (s.wag.window w.val) s.wag.mpos = true → judgeWindow (s.wag.window w.val) (tget {} s.wag.winRx w.val) f = .good →
    (s.wag.stn (wOrigin (s.wag.window w.val))).goodRun = 1 → Completes [.hif, .stp, .wag, .out] (.exclusiveWindowEnd w f) s
    fun t => (t.wag.stn (wOrigin (s.wag.window w.val))).stale = false ∧ (t.wag.stn (wOrigin (s.wag.window w.val))).goodRun =
    2) ∧
  (∀ (s : State) (w : Fin 256) (n : Nat) (r : Option (BitVec 24)), w.val ≠ 0 → wType (s.wag.window w.val) = 3 → wPresent
    (s.wag.window w.val) s.wag.mpos = true → 0 < n → n < wSlots s.wag.guardNs (s.wag.window w.val) → s.canSend = true →
    s.freeOffers = [] → exec (.windowSlotStart w n r) s = .next s) ∧
  (∀ (s : State) (w : Fin 256) (n : Nat) (r : BitVec 24), w.val ≠ 0 → wType (s.wag.window w.val) = 3 → wPresent (s.wag.window
    w.val) s.wag.mpos = true → 0 < n → n < wSlots s.wag.guardNs (s.wag.window w.val) → s.canSend = true → s.freeOffers =
    [(0x100, .probe (s.wag.probeId + 1))] → s.wag.suppressed = [] → 0x100 * 4096 + s.station < r.toNat → exec
    (.windowSlotStart w n (some r)) s = .next (s.setWag { s.wag with arbLost := satInc 0xFFFFFFFF s.wag.arbLost })) ∧
  (∀ (s : State) (w : Fin 256) (n : Nat), w.val ≠ 0 → wType (s.wag.window w.val) = 3 → wPresent (s.wag.window w.val)
    s.wag.mpos = true → 0 < n → n < wSlots s.wag.guardNs (s.wag.window w.val) → s.canSend = true → s.freeOffers = [(0x100,
    .probe (s.wag.probeId + 1))] → s.wag.suppressed = [] → Completes [.stp, .fio, .wag, .out] (.windowSlotStart w n none) s
    fun t => t.wag =
    { s.wag with probeOut := some (s.wag.probeId + 1), probeId := s.wag.probeId + 1, lastTx := some (0x100 * 4096 + s.station, .probe (s.wag.probeId + 1)) }
    ∧ t.out = .waggle (ownFrame 0x100 5 s.station s.wag.refSrc w.val 0 (leBytes 4 (s.wag.probeId + 1).toNat ++ leBytes 4 0))
    false :: s.out)

/-- DATA, STATUS and probe frames received. On a module that takes frames: a DATA frame with a bad CRC is counted and leaves
receive words and SEQs as they are; a valid one of an ARBITRATING window, where the member does not replay, brings its
words from FIRST of the window on to the receive words that map to them and its SEQ is noted, and with one entry in the
map, of the first of those words, that receive word takes it with the present TB1 and no other changes. A HIVE with no mode
change asked for joins a station whose STATUS shows TB1_LOCK, asks for no join and no eject, and fits, and unjoins a joined
one that shows its eject; a module that takes no frames leaves a STATUS. A head keeps a probe for it to answer; a prober
with no measurement so far takes the answer to its probe as half of the round trip less the turnaround. Rests on log
entries 61, 64, 65. (R376, R386, R395, R396, R397, R419, R420, R424.) -/
def Obligations.WaggleFrames : Prop :=
  (∀ (s : State) (h : FrameHdr) (l : List Val40), s.takesFrames = true → h.crcOk = false → Completes [.wag, .twn, .out]
    (.dataFrame h l) s fun t => t.wag.crcErr = satInc 0xFFFF s.wag.crcErr ∧ t.wag.rxWords = s.wag.rxWords ∧ t.wag.rxSeq =
    s.wag.rxSeq) ∧
  (∀ (s : State) (h : FrameHdr) (l : List Val40), s.takesFrames = true → h.crcOk = true → s.frameFits h 2 = true → h.len = max
    8 (5 * l.length) → wType (s.wag.window h.win.val) = 2 → l.length ≤ wWords (s.wag.window h.win.val) → s.replays = false →
    Completes [.wag, .twn, .out] (.dataFrame h l) s fun t => t.wag.rxWords = (s.storeWords h.src.val (wFirst (s.wag.window
    h.win.val)) l).wag.rxWords ∧ tget 0 t.wag.rxSeq (256 * h.src.val + h.win.val) = h.seq.toNat + 1 ∧ t.wag.crcErr =
    s.wag.crcErr) ∧
  (∀ (s : State) (k f : Nat) (l : List Val40) (i : Nat), s.wag.rxMap = [(i, BitVec.ofNat 64 (k + f * 4096 + 2 ^ 24))] → k <
    4096 → f < 4096 → l ≠ [] → s.storeWords k f l = s.setWag
    { s.wag with rxWords := tput {} { val := l.headD 0, stamp := s.time.tb1.ns, got := true } s.wag.rxWords i }) ∧
  (∀ (s : State) (h : FrameHdr) (x : StatusPayload), s.takesFrames = true → h.crcOk = true → s.frameFits h 4 = true → s.isHive
    = true → h.src.val ≠ s.station → s.wag.modeReq = none → (s.wag.stn h.src.val).joined = false → x.tb1Lock = true →
    x.joinReq = false → x.eject = false → s.joinFault h.src.val x = none → Completes [.hif, .stp, .fio, .wag, .twn, .out]
    (.statusFrame h x) s fun t => (t.wag.stn h.src.val) =
    { s.wag.stn h.src.val with joined := true, hops := h.hops.val, twinned := x.twinned, badMc := 0 }) ∧
  (∀ (s : State) (h : FrameHdr) (x : StatusPayload), s.takesFrames = true → h.crcOk = true → s.frameFits h 4 = true → s.isHive
    = true → h.src.val ≠ s.station → s.wag.modeReq = none → (s.wag.stn h.src.val).joined = true → x.eject = true → Completes
    [.hif, .stp, .fio, .wag, .twn, .out] (.statusFrame h x) s fun t => (t.wag.stn h.src.val).joined = false) ∧
  (∀ (s : State) (h : FrameHdr) (x : StatusPayload), s.takesFrames = false → exec (.statusFrame h x) s = .next s) ∧
  (∀ (s : State) (h : FrameHdr) (i : Word) (x : Stamp), s.takesFrames = true → h.crcOk = true → s.frameFits h 5 = true → wType
    (s.wag.window h.win.val) = 3 → s.isHead = true → h.dst.val = s.station → Completes [.wag] (.probe h i x) s fun t => t.wag
    = { s.wag with probeReplies := s.wag.probeReplies ++ [(i, h.src.val, x)] }) ∧
  (∀ (s : State) (h : FrameHdr) (i : Word) (q : Fin 4096) (x y : Stamp), s.takesFrames = true → h.crcOk = true → s.frameFits h
    6 = true → wType (s.wag.window h.win.val) = 3 → q.val = s.station → s.wag.probeOut = some i → s.wag.probes = [] →
    Completes [.wag] (.probeResp h i q x y) s fun t => t.wag =
    { s.wag with probes := [sdiff48 y x / 2], probeOut := none, probeMc := 0, dropDly := (sdiff48 y x / 2).toNat % 2 ^ 23 })

/-- Loads of the region, line and mask tables of Mire. On a member that acts: a load of one region record that is accepted
replaces it and the claims and completes with COUNT; with EN = 1 the region is IDLE, to be armed at the next base period
start, with EN = 0 and no buffers it is IDLE, not to be armed, with nothing to deliver. A region load that the checks
refuse completes with their code and value. A line load is refused with 0x53 and the region while that region is neither
IDLE nor DONE, with 0x54 and its index for an invalid line, a mask load with 0x55 and its index for an invalid entry;
otherwise they replace their entries and complete with COUNT. Rests on log entries 32, 57, 118. (R331, R332, R334, R344,
R350, R355.) -/
def Obligations.MireTables : Prop :=
  (∀ (s : State) (p : Pair) (e : Entry) (cl : List Claim) (g : BitVec 512), s.takeLoad p 9 1 = some e → s.roleActs = true →
    s.mirrors = false → withIndex e.first e.words512 = [(e.first, g)] → gEn g = true → judgeRegions s [(e.first, g)] = .ok cl
    → Ends [.mir, .fio] (.regionTableLoad p) s p e 0 (BitVec.ofNat 64 e.count) fun t => t.mir.regions = tput 0 g s.mir.regions
    e.first ∧ t.fio = { s.fio with claims := cl } ∧ (t.regRt e.first).st = .idle ∧ (t.regRt e.first).armPend = true) ∧
  (∀ (s : State) (p : Pair) (e : Entry) (cl : List Claim) (g : BitVec 512), s.takeLoad p 9 1 = some e → s.roleActs = true →
    s.mirrors = false → withIndex e.first e.words512 = [(e.first, g)] → gEn g = false → judgeRegions s [(e.first, g)] = .ok cl
    → (s.regRt e.first).bufs = [] → Ends [.mir, .fio] (.regionTableLoad p) s p e 0 (BitVec.ofNat 64 e.count) fun t =>
    t.mir.regions = tput 0 g s.mir.regions e.first ∧ (t.regRt e.first) =
    { s.regRt e.first with st := .idle, armPend := false, toSend := [] }) ∧
  (∀ (s : State) (p : Pair) (e : Entry) (c : Byte) (w : BitVec 64), s.takeLoad p 9 1 = some e → s.roleActs = true → s.mirrors
    = false → judgeRegions s (withIndex e.first e.words512) = .refused c w → exec (.regionTableLoad p) s = .next (s.finish
    p.val e.sub c w)) ∧
  (∀ (s : State) (p : Pair) (e : Entry), s.takeLoad p 9 2 = some e → s.roleActs = true → s.mirrors = false → (withIndex
    e.first e.words64).find? (fun x => decide ((s.regRt (x.1 / 32)).st ≠ .idle) && decide ((s.regRt (x.1 / 32)).st ≠ .done)) =
    none → (withIndex e.first e.words64).find? (fun x => !lineOk x.2) = none → Ends [.mir] (.lineTableLoad p) s p e 0
    (BitVec.ofNat 64 e.count) fun t => t.mir =
    { s.mir with lines := tload (fun _ => 0) s.mir.lines (withIndex e.first e.words64) }) ∧
  (∀ (s : State) (p : Pair) (e : Entry) (x : Nat × BitVec 64), s.takeLoad p 9 2 = some e → s.roleActs = true → s.mirrors =
    false → (withIndex e.first e.words64).find? (fun x => decide ((s.regRt (x.1 / 32)).st ≠ .idle) && decide ((s.regRt (x.1 /
    32)).st ≠ .done)) = none → (withIndex e.first e.words64).find? (fun x => !lineOk x.2) = some x → exec (.lineTableLoad p) s
    = .next (s.finish p.val e.sub 0x54 (BitVec.ofNat 64 x.1))) ∧
  (∀ (s : State) (p : Pair) (e : Entry) (x : Nat × BitVec 64), s.takeLoad p 9 2 = some e → s.roleActs = true → s.mirrors =
    false → (withIndex e.first e.words64).find? (fun x => decide ((s.regRt (x.1 / 32)).st ≠ .idle) && decide ((s.regRt (x.1 /
    32)).st ≠ .done)) = some x → exec (.lineTableLoad p) s = .next (s.finish p.val e.sub 0x53 (BitVec.ofNat 64 (x.1 / 32)))) ∧
  (∀ (s : State) (p : Pair) (e : Entry), s.takeLoad p 9 3 = some e → s.roleActs = true → s.mirrors = false → (withIndex
    e.first e.words128).find? (fun x => !maskOk s x) = none → Ends [.mir] (.maskTableLoad p) s p e 0 (BitVec.ofNat 64 e.count)
    fun t => t.mir = { s.mir with masks := tload (fun _ => 0) s.mir.masks (withIndex e.first e.words128) }) ∧
  (∀ (s : State) (p : Pair) (e : Entry) (x : Nat × BitVec 128), s.takeLoad p 9 3 = some e → s.roleActs = true → s.mirrors =
    false → (withIndex e.first e.words128).find? (fun x => !maskOk s x) = some x → exec (.maskTableLoad p) s = .next (s.finish
    p.val e.sub 0x55 (BitVec.ofNat 64 x.1)))

/-- Arming, forcing, stopping and triggering a region, its buffers and reads. On a member that acts: ARM of an enabled region
that is IDLE or DONE asks for its arming and is else refused with 0x53; STOP of a region that is ARMED, POST or STREAMING
asks for the end of its capture, and STOP and FORCE of another are refused with 0x53. In the one enabled region, ARMED with
enough frames before the trigger, source A alone, no SPILL, MASK_STOP or urgent list and frames of the capture yet to come,
a FORCE with KIND 0x9 or an edge of the external input of KIND 0x1 makes the trigger, with its stamp and frame, and the
region goes to POST; with no region enabled an external edge does nothing. A record buffer on the ring of its region joins
its buffers where nothing waits to be delivered, one on another ring is refused with 0x02; a flush completes the front
buffer, if it holds bytes and has a flush time, with their count, and without a buffer does nothing. A read that lies
inside a region with no failed frame gives its bytes and completes with LEN. Rests on log entries 57, 58, 118. (R343, R344,
R345, R347, R350, R353, R357, R358, R361.) -/
def Obligations.MireCaptures : Prop :=
  (∀ (s : State) (p : Pair) (e : Entry), s.takeParam p 1 9 1 = some e → s.roleActs = true → s.mirrors = false → e.value < 16 →
    gEn (s.region e.value) = true → ((s.regRt e.value).st = .idle ∨ (s.regRt e.value).st = .done) → Ends [.mir] (.mireArm p) s
    p e 0 0 fun t => t = s.modReg e.value (fun q => { q with armPend := true })) ∧
  (∀ (s : State) (p : Pair) (e : Entry), s.takeParam p 1 9 1 = some e → s.roleActs = true → s.mirrors = false → e.value < 16 →
    (gEn (s.region e.value) = false ∨ ((s.regRt e.value).st ≠ .idle ∧ (s.regRt e.value).st ≠ .done)) → exec (.mireArm p) s =
    .next (s.finish p.val e.sub 0x53 (BitVec.ofNat 64 e.value))) ∧
  (∀ (s : State) (p : Pair) (e : Entry), s.takeParam p 1 9 3 = some e → s.roleActs = true → s.mirrors = false → e.value < 16 →
    canForce (s.regRt e.value) = true → Ends [.mir] (.mireStop p) s p e 0 0 fun t => t = s.modReg e.value (fun q =>
    { q with stopReq := true })) ∧
  (∀ (s : State) (p : Pair) (e : Entry), (s.takeParam p 1 9 3 = some e ∨ s.takeParam p 1 9 2 = some e) → s.roleActs = true →
    s.mirrors = false → e.value < 16 → canForce (s.regRt e.value) = false → (s.takeParam p 1 9 3 = some e → exec (.mireStop p)
    s = .next (s.finish p.val e.sub 0x53 (BitVec.ofNat 64 e.value))) ∧ (s.takeParam p 1 9 2 = some e → exec (.force p) s =
    .next (s.finish p.val e.sub 0x53 (BitVec.ofNat 64 e.value)))) ∧
  (∀ (s : State) (p : Pair) (e : Entry) (r : Fin 16), s.takeParam p 1 9 2 = some e → s.roleActs = true → s.mirrors = false →
    e.value = r.val → gEn (s.region r.val) = true → (List.range 16).all (fun k => decide (k = r.val) || !gEn (s.region k)) =
    true → (s.regRt r.val).st = .armed → gComb (s.region r.val) = 0 → gSpill (s.region r.val) = false → gUrgEn (s.region
    r.val) = false → gMaskStop (s.region r.val) = false → tKind (gTrig (s.region r.val) false) = 9 → tKind (gTrig (s.region
    r.val) true) ≠ 9 → Int.ofNat (gPre (s.region r.val)) ≤ s.frameAt r.val (stampOf s.time.tb1.ns) → (s.regRt r.val).count <
    (s.frameAt r.val (stampOf s.time.tb1.ns)).toNat + (s.regRt r.val).postEff → Completes [.hif, .mir, .bog, .out] (.force p)
    s fun t => (t.regRt r.val).st = .post ∧ (t.regRt r.val).trig = some
    { stamp := stampOf s.time.tb1.ns, fromA := true, fromB := false, method := 3, frame := (s.frameAt r.val (stampOf s.time.tb1.ns)).toNat })
    ∧
  (∀ (s : State) (i : Fin 4) (v : Bool) (x : Stamp) (r : Fin 16), gEn (s.region r.val) = true → (List.range 16).all (fun k =>
    decide (k = r.val) || !gEn (s.region k)) = true → (s.regRt r.val).st = .armed → gComb (s.region r.val) = 0 → gSpill
    (s.region r.val) = false → gUrgEn (s.region r.val) = false → gMaskStop (s.region r.val) = false → gTrig (s.region r.val)
    false = 1 + 16 * i.val + (if v then 0 else 2 ^ 16) → gTrig (s.region r.val) true = 0 → Int.ofNat (gPre (s.region r.val)) ≤
    s.frameAt r.val x → (s.regRt r.val).count < (s.frameAt r.val x).toNat + (s.regRt r.val).postEff → Completes [.hif, .cnv,
    .fio, .mir, .bog, .out, .freeIdx] (.externalTrigger i v x) s fun t => (t.regRt r.val).st = .post ∧ (t.regRt r.val).trig =
    some { stamp := x, fromA := true, fromB := false, method := 0, frame := (s.frameAt r.val x).toNat }) ∧
  (∀ (s : State) (i : Fin 4) (v : Bool) (x : Stamp), (List.range 16).all (fun k => !gEn (s.region k)) = true → exec
    (.externalTrigger i v x) s = .next s) ∧
  (∀ (s : State) (p : Pair) (e : Entry), s.takeOp p.val 4 1 = some e → e.byte16 < 16 → gRing (s.region e.byte16) = p.val →
    (s.regRt e.byte16).toSend = [] → (s.regRt e.byte16).st ≠ .delivering → Completes [.hif, .mir, .out] (.recordBuffer p) s
    fun t => (t.regRt e.byte16) =
    { s.regRt e.byte16 with bufs := (s.regRt e.byte16).bufs ++ [{ pair := p, sub := e.sub, addr := e.addr, size := e.len, flushUs := e.word20 }] })
    ∧
  (∀ (s : State) (p : Pair) (e : Entry), s.takeOp p.val 4 1 = some e → e.byte16 < 16 → gRing (s.region e.byte16) ≠ p.val →
    exec (.recordBuffer p) s = .next (s.finish p.val e.sub 0x02 0)) ∧
  (∀ (s : State) (r : Fin 16) (b : RecBuf) (l : List RecBuf), (s.regRt r.val).bufs = b :: l → 0 < b.flushUs → 0 < b.filled →
    exec (.recordBufferFlush r) s = .next ((s.modReg r.val (fun q => { q with bufs := l })).finish b.pair.val b.sub 0
    (BitVec.ofNat 64 b.filled))) ∧
  (∀ (s : State) (r : Fin 16), (s.regRt r.val).bufs = [] → exec (.recordBufferFlush r) s = .next s) ∧
  (∀ (s : State) (p : Pair) (e : Entry), s.takeOp p.val 4 2 = some e → e.byte16 < 16 → e.value + e.len ≤ regSize (s.region
    e.byte16) → (s.regRt e.byte16).eccOff = [] → exec (.recordRead p) s = .next ((s.hostWrite e.addr ((List.range e.len).map
    (fun i => tget 0 s.bog (gBase (s.region e.byte16) * 2 ^ 20 + (e.value + i))))).modReg e.byte16 (fun q =>
    { q with eccOff := [] }) |>.finish p.val e.sub 0 (BitVec.ofNat 64 e.len)))

/-- The twin link: its loss and return, idle frames, state images, resync, the witness table. Without a partner an IDLE frame
only keeps the link valid. With one, the first measurement steps the TB3 of a FORMING member by the measured difference, a
free value, and locks it where that is within 8 ns; the stepped and locked TB3 of a standby takes a rate of the servo, a
free value, and a difference beyond 8 ns takes the standby out of step, counted; a holder keeps TB3. The loss of a link
that is up drops the partner: a standby with no change waiting goes to TAKING and unlocks TB3, counted, a holder stays
HOLDER with its partner out of step; a link that is down loses nothing. A module that is not enabled counts the link up
alone; on an enabled one whose link is up a partner that breaks a condition is dropped with 0x71, and one that meets them
is kept, with its HEALTH and whether its activation differs, on a HOLDER. With a partner, an UNSYNCED member goes FORMING
with a part of a state image that is not the last, kept as the first or after those before it; with the last part the image
is loaded where it decodes, else the member is UNSYNCED; a holder leaves it. With the host up, RESYNC on a holder whose
partner is not in step asks for an image and counts the partner out of step, elsewhere it does nothing. On a member that
acts, a witness table load whose entries set no unnamed bit and name no role of the own station replaces its entries and
completes with COUNT, another is refused with 0x02. Rests on log entries 67, 86. (R439, R442, R445, R453, R458, R465.) -/
def Obligations.TwinLinkAndImages : Prop :=
  (∀ (s : State), s.twn.partner = none → exec .idle s = .next (s.setTwn { s.twn with frameThis := true })) ∧
  (∀ (s : State), s.twn.partner.isSome = true → s.twn.st = .forming → s.time.tb3Stepped = false → Completes [.time, .hif,
    .twn, .out, .freeIdx] (.idle) s fun t => t.time.tb3 = s.time.tb3.plus (-(Config.tb3Diff s.freeIdx) * 2 ^ 24) ∧
    t.time.tb3Stepped = true ∧ t.time.tb3Lock = decide ((Config.tb3Diff s.freeIdx).natAbs ≤ 2048) ∧ t.twn =
    { s.twn with frameThis := true } ∧ t.freeIdx = s.freeIdx + 1) ∧
  (∀ (s : State), s.twn.partner.isSome = true → s.twn.st = .standby → s.time.tb3Stepped = true → s.time.tb3Lock = true →
    Completes [.time, .hif, .twn, .out, .freeIdx] (.idle) s fun t => t.time.tb3 =
    { s.time.tb3 with rate := clampRate (Config.servoRate (s.freeIdx + 1)) } ∧ t.time.tb3Lock = decide ((Config.tb3Diff
    s.freeIdx).natAbs ≤ 2048) ∧ ((Config.tb3Diff s.freeIdx).natAbs ≤ 2048 → t.twn = { s.twn with frameThis := true }) ∧ (2048
    < (Config.tb3Diff s.freeIdx).natAbs → t.twn.st = .unsynced ∧ t.twn.snapFaultCnt = satInc 0xFFFF s.twn.snapFaultCnt)) ∧
  (∀ (s : State), s.twn.partner.isSome = true → s.twn.st = .holder → Completes [.time, .hif, .twn, .out, .freeIdx] (.idle) s
    fun t => t.time.tb3 = s.time.tb3 ∧ t.time.tb3Lock = decide ((Config.tb3Diff s.freeIdx).natAbs ≤ 2048)) ∧
  (∀ (s : State), s.twn.linkUp = true → s.twn.st = .standby → s.twn.mirrored = [] → Completes [.time, .hif, .stp, .cmb, .blk,
    .cnv, .fio, .mir, .bog, .wag, .twn, .leg, .out, .freeIdx] (.twinLinkLost) s fun t => t.twn.st = .taking ∧ t.twn.linkUp =
    false ∧ t.twn.partner = none ∧ t.twn.tookFromUnsynced = false ∧ t.twn.linkLossCnt = satInc 0xFFFF s.twn.linkLossCnt ∧
    t.time.tb3Lock = false) ∧
  (∀ (s : State), s.twn.linkUp = true → s.twn.st = .holder → Completes [.time, .hif, .stp, .cmb, .blk, .cnv, .fio, .mir, .bog,
    .wag, .twn, .leg, .out, .freeIdx] (.twinLinkLost) s fun t => t.twn.st = .holder ∧ t.twn.linkUp = false ∧ t.twn.inStep =
    false ∧ t.time = s.time) ∧
  (∀ (s : State), s.twn.linkUp = false → exec .twinLinkLost s = .next s) ∧
  (∀ (s : State) (q : PartnerInfo), s.twinEn = false → s.twn.linkUp = false → Completes [.time, .hif, .stp, .cmb, .blk, .cnv,
    .fio, .mir, .bog, .wag, .twn, .leg, .out, .freeIdx] (.twinLinkUp q) s fun t => t.twn =
    { s.twn with frameThis := true, linkUp := true }) ∧
  (∀ (s : State) (q : PartnerInfo) (n : Nat), s.twinEn = true → s.twn.linkUp = true → s.twinFault q = some n → exec
    (.twinLinkUp q) s = .next ((s.setTwn { s.twn with frameThis := true, partner := none }).raise 0x71 (BitVec.ofNat 64 n))) ∧
  (∀ (s : State) (q : PartnerInfo), s.twinEn = true → s.twn.linkUp = true → s.twinFault q = none → s.twn.st = .holder →
    Completes [.time, .hif, .stp, .cmb, .blk, .cnv, .fio, .mir, .bog, .wag, .twn, .leg, .out, .freeIdx] (.twinLinkUp q) s fun
    t => t.twn =
    { s.twn with frameThis := true, partner := some q, peerHealth := q.health, versionDiff := decide (q.actId ≠ s.actId) } ∧
    t.time = s.time) ∧
  (∀ (s : State) (n : Word) (b : List Byte), s.twinEn = true → s.twn.partner.isSome = true → s.twn.st = .unsynced →
    s.twn.imageN = n.toNat → s.twn.image ≠ [] → Completes [.time, .pw, .hif, .stp, .cmb, .blk, .cnv, .fio, .mir, .bog, .wag,
    .twn, .leg, .out, .freeIdx] (.state n false b) s fun t => t.twn =
    { s.twn with frameThis := true, st := .forming, image := s.twn.image ++ b, loaded := false }) ∧
  (∀ (s : State) (n : Word) (b : List Byte), s.twinEn = true → s.twn.partner.isSome = true → s.twn.st = .unsynced →
    s.twn.image = [] → Completes [.time, .pw, .hif, .stp, .cmb, .blk, .cnv, .fio, .mir, .bog, .wag, .twn, .leg, .out,
    .freeIdx] (.state n false b) s fun t => t.twn =
    { s.twn with frameThis := true, st := .forming, imageN := n.toNat, image := b, loaded := false }) ∧
  (∀ (s : State) (n : Word) (b : List Byte), s.twinEn = true → s.twn.partner.isSome = true → s.twn.st = .unsynced →
    s.twn.image = [] → Completes [.time, .pw, .hif, .stp, .cmb, .blk, .cnv, .fio, .mir, .bog, .wag, .twn, .leg, .out,
    .freeIdx] (.state n true b) s fun t => t.twn.image = [] ∧ (if (Config.decodeImage b).isSome then t.twn.loaded = true else
    t.twn.st = .unsynced)) ∧
  (∀ (s : State) (n : Word) (l : Bool) (b : List Byte), s.twn.st = .holder → exec (.state n l b) s = .next s.linkFrame) ∧
  (∀ (s : State), s.hostUp = true → s.twn.st = .holder → (s.twn.inStep = false ∨ tbit s.twn.peerHealth 2 = false) → exec
    .resync s = .next (s.setTwn { s.twn with resyncReq := true, inStep := false })) ∧
  (∀ (s : State), s.hostUp = true → (s.twn.st ≠ .holder ∨ (s.twn.inStep = true ∧ tbit s.twn.peerHealth 2 = true)) → exec
    .resync s = .next s) ∧
  (∀ (s : State) (p : Pair) (e : Entry), s.takeLoad p 11 1 = some e → s.roleActs = true → s.mirrors = false → (withIndex
    e.first e.words64).any (fun x => decide (fld x.2 63 49 ≠ 0) || decide (fld x.2 11 0 = s.station)) = false → Ends [.twn]
    (.witnessTableLoad p) s p e 0 (BitVec.ofNat 64 e.count) fun t => t.twn =
    { s.twn with witTab := tload (fun _ => 0) s.twn.witTab (withIndex e.first e.words64) }) ∧
  (∀ (s : State) (p : Pair) (e : Entry), s.takeLoad p 11 1 = some e → s.roleActs = true → s.mirrors = false → (withIndex
    e.first e.words64).any (fun x => decide (fld x.2 63 49 ≠ 0) || decide (fld x.2 11 0 = s.station)) = true → exec
    (.witnessTableLoad p) s = .next (s.finish p.val e.sub 0x02 0))

/-- Lease requests, the issuers that grant them, and the end of an occupancy. A member that asks, its logic side running,
sends a REQUEST with the next SEQ and keeps its instant; one that does not ask sends nothing. By the link, a STANDBY whose
holder shows IN_STEP grants a request of the other member for its role, is occupied for 2 100 µs and returns the GRANT; a
HOLDER, TAKING or SOLO member takes HEALTH from it and no more. By a window, a witness that serves the role grants a
request while it is free and is occupied for 2 100 µs, and holds a request of member 1 while member 0 occupies it; one that
does not serve the role does nothing. A grant by the link that answers a request of less than 2 000 µs ago gives a TAKING
member without a grant of its peer one that ends 2 000 µs after that request; one that answers none leaves HEALTH alone. A
grant of the witness that answers one makes an enabled member that is alone, and no HIVE, HOLDER. An occupancy of the peer
without RELINQUISH ends at its time; one with it ends at t_h, after which the member drives, where it acts, from 100 ns on;
while none is over nothing ends. At the end of the occupancy of a witness the request it holds is granted, and without one
it is free. A holder that has heard no witness for 2 000 µs raises 0x79 once; else nothing happens. Rests on log entry 67.
(R441, R454, R456, R457, R458, R459.) -/
def Obligations.LeasesAndGrants : Prop :=
  (∀ (s : State), s.asks = true → s.pw.logic = .run → Completes [.wag, .twn, .out] (.leaseRequestSend) s fun t => t.twn.reqSeq
    = s.twn.reqSeq + 1 ∧ t.twn.reqs.getLast? = some { seq := s.twn.reqSeq + 1, q := s.time.t2 } ∧ t.out = .lease 1 s.station
    s.member (s.twn.reqSeq + 1) 0 s.health :: s.out) ∧
  (∀ (s : State), s.asks = false → exec .leaseRequestSend s = .next s) ∧
  (∀ (s : State) (h : BitVec 3) (r : Fin 4096) (m : Bool) (q : BitVec 8), s.twn.st = .standby → tbit h 2 = true → r.val =
    s.station → m ≠ s.member → Completes [.wag, .twn, .out] (.request (.link h) r m q) s fun t => t.twn =
    { s.twn with frameThis := true, peerHealth := h, occ := some { member := m, at_ := s.time.t2, until_ := s.time.t2 + 2100000 } }
    ∧ t.out = .lease 2 s.station m q 0 s.health :: s.out) ∧
  (∀ (s : State) (h : BitVec 3) (r : Fin 4096) (m : Bool) (q : BitVec 8), (s.twn.st = .holder ∨ s.twn.st = .taking ∨ s.twn.st
    = .solo) → exec (.request (.link h) r m q) s = .next (s.linkFrame.takeHealth h)) ∧
  (∀ (s : State) (k : Fin 16) (r : Fin 4096) (m : Bool) (q : BitVec 8), s.witServes k.val r.val = true → (s.wit k.val).occ =
    none → Completes [.wag, .twn, .out] (.request (.window k) r m q) s fun t => (t.wit k.val) =
    { s.wit k.val with occ := some { member := m, at_ := s.time.t2, until_ := s.time.t2 + 2100000, free := true }, granted := some (m, q) })
    ∧
  (∀ (s : State) (k : Fin 16) (r : Fin 4096) (q : BitVec 8) (o : Occupancy), s.witServes k.val r.val = true → (s.wit
    k.val).occ = some o → o.member = false → Completes [.wag, .twn, .out] (.request (.window k) r true q) s fun t => (t.wit
    k.val) = { s.wit k.val with pend := some (true, q) }) ∧
  (∀ (s : State) (k : Fin 16) (r : Fin 4096) (m : Bool) (q : BitVec 8), s.witServes k.val r.val = false → exec (.request
    (.window k) r m q) s = .next s) ∧
  (∀ (s : State) (h : BitVec 3) (q : BitVec 8) (x : LeaseReq), s.twn.reqs.find? (fun r => decide (r.seq = q) && decide
    (s.time.t2 < r.q + 2000000)) = some x → s.twn.peerEnd = none → s.twn.st = .taking → Completes [.time, .hif, .stp, .cmb,
    .blk, .cnv, .fio, .mir, .bog, .wag, .twn, .leg, .out, .freeIdx] (.grant (.link h) q) s fun t => t.twn =
    { s.twn with frameThis := true, peerHealth := h, peerEnd := some (x.q + 2000000) }) ∧
  (∀ (s : State) (h : BitVec 3) (q : BitVec 8), s.twn.reqs.find? (fun r => decide (r.seq = q) && decide (s.time.t2 < r.q +
    2000000)) = none → exec (.grant (.link h) q) s = .next (s.linkFrame.takeHealth h)) ∧
  (∀ (s : State) (k : Fin 16) (q : BitVec 8) (x : LeaseReq), s.twn.reqs.find? (fun r => decide (r.seq = q) && decide
    (s.time.t2 < r.q + 2000000)) = some x → s.twn.st = .solo → s.twinEn = true → s.role ≠ 1 → Completes [.time, .hif, .stp,
    .cmb, .blk, .cnv, .fio, .mir, .bog, .wag, .twn, .leg, .out, .freeIdx] (.grant (.window k) q) s fun t => t.twn.st = .holder
    ∧ t.twn.witHeard = s.time.t2) ∧
  (∀ (s : State) (o : Occupancy), s.twn.occ = some o → o.th = none → o.until_ ≤ s.time.t2 → exec (.issuerOccupancyEnd .peer) s
    = .next (s.setTwn { s.twn with occ := none, driveFrom := none })) ∧
  (∀ (s : State) (o : Occupancy) (x : Time), s.twn.occ = some o → o.th = some x → sdiff x s.time.tb1.ns ≤ 0 → exec
    (.issuerOccupancyEnd .peer) s = .next (s.setTwn { s.twn with occ := none, driveFrom := some (tadd x 100) })) ∧
  (∀ (s : State) (k : Fin 16), s.occOver s.twn.occ = false → s.occOver (s.wit k.val).occ = false → exec (.issuerOccupancyEnd
    .peer) s = .next s ∧ exec (.issuerOccupancyEnd (.witness k)) s = .next s) ∧
  (∀ (s : State) (k : Fin 16) (m : Bool) (q : BitVec 8), s.occOver (s.wit k.val).occ = true → (s.wit k.val).pend = some (m, q)
    → Completes [.wag, .twn] (.issuerOccupancyEnd (.witness k)) s fun t => (t.wit k.val) =
    { occ := some { member := m, at_ := s.time.t2, until_ := s.time.t2 + 2100000, free := true }, granted := some (m, q), pend := none })
    ∧
  (∀ (s : State) (k : Fin 16), s.occOver (s.wit k.val).occ = true → (s.wit k.val).pend = none → Completes [.wag, .twn]
    (.issuerOccupancyEnd (.witness k)) s fun t => (t.wit k.val) = { s.wit k.val with occ := none, pend := none }) ∧
  (∀ (s : State), s.twn.st = .holder → s.twn.witSilent = false → s.twn.witHeard + 2000000 ≤ s.time.t2 → exec .witnessSilent s
    = .next ((s.setTwn { s.twn with witSilent := true }).raise 0x79 (BitVec.ofNat 64 (s.rfld 0xB00C 11 0)))) ∧
  (∀ (s : State), (s.twn.st ≠ .holder ∨ s.twn.witSilent = true ∨ s.time.t2 < s.twn.witHeard + 2000000) → exec .witnessSilent s
    = .next s)

/-- The orderly handover, ACT_UNTIL and the take-over. With the host up, HANDOVER on a holder that has no offer out, its
standby in step and its link up, offers the base period after the next; with its partner out of step it raises 0x74 with
cause 0, on a member that is not HOLDER with cause 2. A STANDBY answers an OFFER with ACCEPT for the same period and keeps
it; another member only keeps the link valid. A holder takes an ACCEPT that names its offered period before that begins,
and no other. An offer of the host that is not accepted is withdrawn with 0x74 and cause 1; without an offer, or with an
accepted one, nothing is. A RELINQUISH by the member that occupies it ends the occupancy of a peer that accepted nothing,
or of a witness, at the start of base period n + 2. A holder at ACT_UNTIL with no change waiting becomes UNSYNCED and
evaluates nothing more of the base period; before that instant nothing happens. A TAKING member with no change waiting, in
a role other than HIVE, with a grant that has more than 100 µs to run and without an occupancy becomes HOLDER, counts a
take-over and keeps its steps; without such a grant, or with an occupancy, nothing happens. Rests on log entries 67, 68.
(R444, R454, R458, R460, R462, R463.) -/
def Obligations.HandoverAndTakeover : Prop :=
  (∀ (s : State), s.hostUp = true → s.twn.st = .holder → s.twn.offer = none → s.twn.inStep = true → s.twn.linkUp = true → tbit
    s.twn.peerHealth 2 = true → exec .handover s = .next ((s.setTwn
    { s.twn with offer := some (s.cmb.n + 2), accepted := false, why := .host }).emitOut (.lease 4 s.station s.member 0
    (BitVec.ofNat 8 (s.cmb.n + 2)) s.health))) ∧
  (∀ (s : State), s.hostUp = true → s.twn.st ≠ .holder → exec .handover s = .next (s.raise 0x74 2)) ∧
  (∀ (s : State), s.hostUp = true → s.twn.st = .holder → s.twn.offer = none → s.twn.inStep = false → exec .handover s = .next
    (s.raise 0x74 0)) ∧
  (∀ (s : State) (n : BitVec 8), s.twn.st = .standby → Completes [.twn, .out] (.offer n) s fun t => t.twn.accepted = true ∧
    t.twn.offer = some (nearByte s.cmb.n n) ∧ t.out = .lease 5 s.station s.member 0 n s.health :: s.out) ∧
  (∀ (s : State) (n : BitVec 8), s.twn.st ≠ .standby → exec (.offer n) s = .next (s.setTwn { s.twn with frameThis := true }))
    ∧
  (∀ (s : State) (n : BitVec 8) (k : Nat), s.twn.st = .holder → s.twn.offer = some k → k % 256 = n.toNat → s.cmb.n < k → exec
    (.accept n) s = .next (s.setTwn { s.twn with frameThis := true, accepted := true })) ∧
  (∀ (s : State) (n : BitVec 8) (k : Nat), s.twn.st = .holder → s.twn.offer = some k → (k % 256 ≠ n.toNat ∨ k ≤ s.cmb.n) →
    exec (.accept n) s = .next (s.setTwn { s.twn with frameThis := true })) ∧
  (∀ (s : State), s.twn.st = .holder → s.twn.offer.isSome = true → s.twn.accepted = false → s.twn.why = .host → exec
    .handoverAbandoned s = .next ((s.setTwn { s.twn with offer := none }).raise 0x74 1)) ∧
  (∀ (s : State), (s.twn.offer = none ∨ s.twn.accepted = true) → exec .handoverAbandoned s = .next s) ∧
  (∀ (s : State) (h : BitVec 3) (m : Bool) (n : BitVec 8) (o : Occupancy), s.twn.occ = some o → o.member = m → s.twn.accepted
    = false → exec (.relinquish (.link h) m n) s = .next ((s.linkFrame.takeHealth h).setTwn
    { (s.linkFrame.takeHealth h).twn with occ := some { o with th := some (s.baseStart (nearByte s.cmb.n n + 2)) } })) ∧
  (∀ (s : State) (k : Fin 16) (m : Bool) (n : BitVec 8) (o : Occupancy), (s.wit k.val).occ = some o → o.member = m → Completes
    [.cmb, .wag, .twn, .out] (.relinquish (.window k) m n) s fun t => (t.wit k.val) =
    { s.wit k.val with occ := some { o with th := some (s.baseStart (nearByte s.cmb.n n + 2)) } }) ∧
  (∀ (s : State) (x : Time), s.twn.fieldActUntil = none → s.twn.actUntil = some x → 0 ≤ sdiff s.time.tb1.ns x → s.twn.st =
    .holder → s.twn.changes = [] → Completes [.time, .hif, .stp, .cmb, .blk, .cnv, .fio, .mir, .bog, .wag, .twn, .saf, .leg,
    .peat, .out, .freeIdx] (.actUntil) s fun t => t.twn.st = .unsynced ∧ t.twn.actUntil = none ∧ t.cmb.due = []) ∧
  (∀ (s : State) (x : Time), s.twn.fieldActUntil = none → s.twn.actUntil = some x → sdiff s.time.tb1.ns x < 0 → exec .actUntil
    s = .next s) ∧
  (∀ (s : State), s.twn.st = .taking → s.twn.occ = none → s.mayAct = true → s.role ≠ 1 → s.twn.mirrored = [] → Completes
    [.time, .hif, .stp, .cmb, .blk, .cnv, .fio, .mir, .bog, .wag, .twn, .leg, .peat, .out, .freeIdx] (.takeover) s fun t =>
    t.twn.st = .holder ∧ t.twn.takeoverCnt = satInc 0xFFFF s.twn.takeoverCnt ∧ t.stp = s.stp) ∧
  (∀ (s : State), (s.mayAct = false ∨ s.twn.occ.isSome = true) → exec .takeover s = .next s)

/-- Snapshots, hashes, mirrored changes and the replay of a standby. A member that replays keeps the records of an intact
SNAP frame, in order, and with a broken one leaves step, counted; another only keeps the link valid. A holder whose hash of
the base period equals that of the standby forgets it; one that differs is counted and takes the standby out of step,
unless its activation differs. A member that replays keeps a CHANGE and acknowledges it. The acknowledgement of the one
change that waits accepts it: it waits for its base period where that has not begun, and else takes effect at once, with
its descriptor handed over again, or with nothing where that descriptor is gone; without a change neither an
acknowledgement nor its timeout does anything. A change whose time is over before its base period is accepted on the holder
alone, its standby out of step, with 0x7A. The replay of a standby with TB3 unlocked or with the records of its base period
missing leaves step, counted; one with no records in it, no change, no step and no slot goes on to the next base period; a
member that does not replay does nothing. Rests on log entries 68, 107. (R446, R447, R448, R449, R450, R452.) -/
def Obligations.TwinChangesAndReplay : Prop :=
  (∀ (s : State) (n : Word) (f : Bool) (l : List SnapRecord), s.replays = true → exec (.snap n f l true) s = .next (s.setTwn
    { s.twn with frameThis := true, snaps := s.twn.snaps ++ [(n.toNat, f, l)] })) ∧
  (∀ (s : State) (n : Word) (f : Bool) (l : List SnapRecord), s.replays = true → Completes [.hif, .twn, .out] (.snap n f l
    false) s fun t => t.twn.st = .unsynced ∧ t.twn.snaps = [] ∧ t.twn.snapFaultCnt = satInc 0xFFFF s.twn.snapFaultCnt) ∧
  (∀ (s : State) (n : Word) (f : Bool) (l : List SnapRecord) (b : Bool), s.replays = false → exec (.snap n f l b) s = .next
    (s.setTwn { s.twn with frameThis := true })) ∧
  (∀ (s : State) (n h : Word), s.twn.st = .holder → s.twn.hashes = [(n.toNat, h)] → exec (.hash n h) s = .next (s.setTwn
    { s.twn with frameThis := true, hashes := [] })) ∧
  (∀ (s : State) (n h k : Word), s.twn.st = .holder → s.twn.hashes = [(n.toNat, k)] → k ≠ h → Completes [.hif, .twn, .out]
    (.hash n h) s fun t => t.twn =
    { s.twn with frameThis := true, hashes := [], hashMisCnt := satInc 0xFFFF s.twn.hashMisCnt, inStep := s.twn.inStep && s.twn.versionDiff })
    ∧
  (∀ (s : State) (q n : Word) (d x : List Byte), s.replays = true → exec (.change q n d x) s = .next ((s.setTwn
    { s.twn with frameThis := true, mirrored := s.twn.mirrored ++ [(q, n.toNat, d, x)] }).emitOut (.twin 5 (leBytes 4
    q.toNat)))) ∧
  (∀ (s : State) (q : Word) (c : TwinChange), s.twn.changes = [c] → c.seq = q → c.acked = false → s.cmb.n < c.eff → exec
    (.changeAck q) s = .next (s.setTwn { s.twn with frameThis := true, changes := [{ c with acked := true }] })) ∧
  (∀ (s : State) (q : Word) (c : TwinChange), s.twn.changes = [c] → c.seq = q → c.eff ≤ s.cmb.n → (s.pairRt
    c.pair.val).entries = [] → exec (.changeAck q) s = .next (s.setTwn { s.twn with frameThis := true, changes := [] })) ∧
  (∀ (s : State) (q : Word) (c : TwinChange) (e : Entry), s.twn.changes = [c] → c.seq = q → c.eff ≤ s.cmb.n → (s.pairRt
    c.pair.val).entries = [e] → e.sub = c.sub → e.stage = .mirrored → exec (.changeAck q) s = .next ((State.viaHif
    { s with twn := { s.twn with frameThis := true, changes := [] } } (fun _ => modPair c.pair.val (fun r =>
    { r with entries := [{ e with stage := .handed }] }))).runDesc c.pair e)) ∧
  (∀ (s : State) (q : Word), s.twn.changes = [] → exec (.changeAck q) s = .next (s.setTwn { s.twn with frameThis := true }) ∧
    exec (.changeAckTimeout q) s = .next s) ∧
  (∀ (s : State) (q : Word) (c : TwinChange), s.twn.changes = [c] → c.seq = q → c.acked = false → s.cmb.n < c.eff → exec
    (.changeAckTimeout q) s = .next ((s.setTwn { s.twn with changes := [{ c with acked := true }], inStep := false }).raise
    0x7A (BitVec.ofNat 64 q.toNat))) ∧
  (∀ (s : State), s.twn.st = .standby → s.time.tb3Lock = false → Completes [.time, .hif, .stp, .cmb, .blk, .cnv, .fio, .mir,
    .bog, .wag, .twn, .leg, .lcy, .out, .freeIdx] (.standbyReplay) s fun t => t.twn.st = .unsynced ∧ t.twn.snapFaultCnt =
    satInc 0xFFFF s.twn.snapFaultCnt) ∧
  (∀ (s : State), s.twn.st = .standby → s.time.tb3Lock = true → s.twn.recordsOf s.twn.replayN = none → Completes [.time, .hif,
    .stp, .cmb, .blk, .cnv, .fio, .mir, .bog, .wag, .twn, .leg, .lcy, .out, .freeIdx] (.standbyReplay) s fun t => t.twn.st =
    .unsynced ∧ t.twn.snapFaultCnt = satInc 0xFFFF s.twn.snapFaultCnt) ∧
  (∀ (s : State), s.twn.st = .standby → s.time.tb3Lock = true → s.twn.recordsOf s.twn.replayN = some [] → s.twn.mirrored = []
    → s.stp = {} → s.cmb.rt = [] → s.cmb.slots = [] → Completes [.time, .hif, .stp, .cmb, .blk, .cnv, .fio, .mir, .bog, .wag,
    .twn, .leg, .lcy, .out, .freeIdx] (.standbyReplay) s fun t => t.twn.st = .standby ∧ t.twn.replayN = s.twn.replayN + 1 ∧
    t.cmb = s.cmb ∧ t.time = s.time) ∧
  (∀ (s : State), s.replays = false → exec .standbyReplay s = .next s)

/-- The sealed switches, the safety inputs and their test pulses. A SEAL that has not changed does nothing. A change while
the field side is down sets the PEAT latch, counts ledger counter 9 and raises 0x85; on a verified field side a changed
SEAL[14:0] is adopted, sets the latch and takes the permit of Guard from every group. With the field side down a change of
a safety input does nothing. On a verified field side, of a fitted input: in OK, channel A that opens takes it to DEMAND
and neither half permits its groups; in DEMAND, channel A that closes over a channel B that shows none takes it to OK where
both have shown demand, and else to DISCREPANCY, counted, with neither half permitting its groups. An input in DEMAND that
waits for its second channel is in DISCREPANCY after DISC, counted; another stays as it is. A test pulse does nothing on a
field side that is not verified, nor where every closed channel A follows source A and no channel B does; a closed channel
A of a fitted input that does not follow takes it to DISCREPANCY, with neither half permitting its groups. Rests on log
entries 70, 71, 82. (R466, R470, R472, R483, R484.) -/
def Obligations.SafetyInputsAndSeal : Prop :=
  (∀ (s : State) (v : BitVec 16), v = s.saf.sealNow → exec (.sealChange v) s = .next s) ∧
  (∀ (s : State) (v : BitVec 16), v ≠ s.saf.sealNow → s.pw.fieldUp = false → exec (.sealChange v) s = .next
    (((s.settleDacs.setSaf { s.saf with sealNow := v, sealLatch := true }).countLedger 9).fieldRaise 0x85 (BitVec.ofNat 64
    v.toNat))) ∧
  (∀ (s : State) (v : BitVec 16), v ≠ s.saf.sealNow → s.pw.fieldUp = true → s.saf.fgVerified = true → fld v 14 0 ≠ fld
    s.saf.sealRead 14 0 → Completes [.fio, .saf, .peat] (.sealChange v) s fun t => t.saf.sealNow = v ∧ t.saf.sealRead = v ∧
    t.saf.sealLatch = true ∧ ∀ g : Fin 16, (t.saf.group g.val).guardPermit = false) ∧
  (∀ (s : State) (i : Fin 4) (b c : Bool), s.pw.fieldUp = false → exec (.safetyInputChange i b c) s = .next s) ∧
  (∀ (s : State) (i : Fin 4) (w : BitVec 128), s.pw.fieldUp = true → s.saf.fgVerified = true → s.saf.sinRow i.val = some w →
    (s.saf.sinRt i.val).st = .ok → (s.saf.sinRt i.val).aClosed = true → Completes [.fio, .saf, .peat] (.safetyInputChange i
    false false) s fun t => (t.saf.sinRt i.val).st = .demand ∧ (t.saf.sinRt i.val).aClosed = false ∧ ∀ g : Fin 16, Nat.testBit
    (rowOp w 6 2) g.val = true → (t.saf.group g.val).guardPermit = false ∧ (t.saf.group g.val).fgPermit = false) ∧
  (∀ (s : State) (i : Fin 4) (w : BitVec 128), s.pw.fieldUp = true → s.saf.fgVerified = true → s.saf.sinRow i.val = some w →
    (s.saf.sinRt i.val).st = .demand → (s.saf.sinRt i.val).bothShown = true → sinB (rowOp w 5 1) (s.saf.sinRt i.val).bClosed =
    false → (s.saf.sinRt i.val).aClosed = false → Completes [.fio, .saf, .peat] (.safetyInputChange i false true) s fun t =>
    (t.saf.sinRt i.val).st = .ok ∧ (t.saf.sinRt i.val).aClosed = true ∧ (t.saf.sinRt i.val).bothShown = false) ∧
  (∀ (s : State) (i : Fin 4) (w : BitVec 128), s.pw.fieldUp = true → s.saf.fgVerified = true → s.saf.sinRow i.val = some w →
    (s.saf.sinRt i.val).st = .demand → (s.saf.sinRt i.val).bothShown = false → sinB (rowOp w 5 1) (s.saf.sinRt i.val).bClosed
    = false → (s.saf.sinRt i.val).aClosed = false → Completes [.fio, .saf, .peat] (.safetyInputChange i false true) s fun t =>
    (t.saf.sinRt i.val).st = .discrepancy ∧ t.saf.discrepCnt = satInc 0xFFFF s.saf.discrepCnt ∧ ∀ g : Fin 16, Nat.testBit
    (rowOp w 6 2) g.val = true → (t.saf.group g.val).guardPermit = false ∧ (t.saf.group g.val).fgPermit = false) ∧
  (∀ (s : State) (i : Fin 4), (s.saf.sinRt i.val).st = .demand → (s.saf.sinRt i.val).waiting = true → Completes [.fio, .saf,
    .peat] (.safetyInputDiscTimeout i) s fun t => (t.saf.sinRt i.val).st = .discrepancy ∧ t.saf.discrepCnt = satInc 0xFFFF
    s.saf.discrepCnt) ∧
  (∀ (s : State) (i : Fin 4), ((s.saf.sinRt i.val).st ≠ .demand ∨ (s.saf.sinRt i.val).waiting = false) → exec
    (.safetyInputDiscTimeout i) s = .next s) ∧
  (∀ (s : State) (b : Bool) (f : BitVec 8), (s.pw.fieldUp = false ∨ s.saf.fgVerified = false) → exec (.testPulse b f) s =
    .next s) ∧
  (∀ (s : State) (f : BitVec 8), (∀ i : Fin 4, ((s.saf.sinRt i.val).aClosed = true → tbit f (2 * i.val) = true) ∧ tbit f (2 *
    i.val + 1) = false) → exec (.testPulse false f) s = .next s) ∧
  (∀ (s : State) (i : Fin 4) (f : BitVec 8) (w : BitVec 128), s.pw.fieldUp = true → s.saf.fgVerified = true → s.saf.sinRow
    i.val = some w → (s.saf.sinRt i.val).st ≠ .discrepancy → (s.saf.sinRt i.val).aClosed = true → tbit f (2 * i.val) = false →
    Completes [.fio, .saf, .peat] (.testPulse false f) s fun t => (t.saf.sinRt i.val).st = .discrepancy ∧ ∀ g : Fin 16,
    Nat.testBit (rowOp w 6 2) g.val = true → (t.saf.group g.val).guardPermit = false ∧ (t.saf.group g.val).fgPermit = false)

/-- Verification, self-test, the safety cycle, disagreement and the manual restart. Verifying the rule store of a field side
that is up makes Fen Gate adopt SEAL and ends its power-up cause, once. A self-test that has passed, without a fault of
Guard, starts the safety cycle of Guard and ends its power-up cause; one that fails is a fault of Guard and gives every
group the power-up cause and no permit in both halves, an element test that fails likewise leaves no group a permit, and
one that passes does nothing. In a running safety cycle a group that Guard does not permit, without causes in Guard and
with matching copies of its remote stations, is permitted, or with a manual restart waits; a group that is permitted, has a
cause or lacks such copies stays as it is. A disagreement is a cause in both halves, takes both permits away and is
counted. On a field side that is down, tests, verification and disagreement do nothing. A restart pulse under 100 ms or
over 5 s does nothing, nor one to a group that has another cause, lacks matching copies, or disagrees while Fen Gate has
another cause; one of 100 ms to 5 s permits a group without other causes, with matching copies, that restarts manually or
disagrees while Fen Gate has no other cause. Rests on log entries 70, 71. (R472, R488, R489, R490.) -/
def Obligations.SafetyGroupsAndRestart : Prop :=
  (∀ (s : State), (s.pw.fieldUp = false ∨ s.saf.fgVerified = true) → exec .fenGateVerified s = .next s) ∧
  (∀ (s : State), s.pw.fieldUp = true → s.saf.fgVerified = false → Completes [.fio, .saf, .peat] (.fenGateVerified) s fun t =>
    t.saf.fgVerified = true ∧ t.saf.sealRead = s.saf.sealNow ∧ ∀ g : Fin 16, (t.saf.group g.val).fg.powerUp = false) ∧
  (∀ (s : State) (p : Bool) (n : BitVec 8), s.pw.fieldUp = false → exec (.guardSelfTestDone p n) s = .next s) ∧
  (∀ (s : State) (n : BitVec 8), s.pw.fieldUp = true → s.saf.guardFault = false → Completes [.fio, .saf, .peat]
    (.guardSelfTestDone true n) s fun t => t.saf.guardRun = true ∧ ∀ g : Fin 16, (t.saf.group g.val).guard.powerUp = false) ∧
  (∀ (s : State) (n : BitVec 8), s.pw.fieldUp = true → Completes [.fio, .saf, .peat] (.guardSelfTestDone false n) s fun t =>
    t.saf.guardFault = true ∧ ∀ g : Fin 16, (t.saf.group g.val).guard.powerUp = true ∧ (t.saf.group g.val).fg.powerUp = true ∧
    (t.saf.group g.val).guardPermit = false ∧ (t.saf.group g.val).fgPermit = false) ∧
  (∀ (s : State) (o : Fin 48) (n : BitVec 8), s.pw.fieldUp = true → Completes [.fio, .saf, .peat] (.elementTest o false n) s
    fun t => t.saf.guardFault = true ∧ ∀ g : Fin 16, (t.saf.group g.val).guardPermit = false ∧ (t.saf.group g.val).fgPermit =
    false) ∧
  (∀ (s : State) (o : Fin 48) (n : BitVec 8), exec (.elementTest o true n) s = .next s) ∧
  (∀ (s : State), (s.pw.fieldUp = false ∨ s.saf.guardRun = false ∨ s.saf.guardFault = true) → exec .guardSafetyCycle s = .next
    s) ∧
  (∀ (s : State) (g : Fin 16), s.pw.fieldUp = true → s.saf.guardRun = true → s.saf.guardFault = false → (s.saf.group
    g.val).guardPermit = false → (s.saf.group g.val).guard.any = false → s.saf.matchedAll g.val = true → s.saf.manual g.val =
    false → Completes [.fio, .saf, .peat] (.guardSafetyCycle) s fun t => (t.saf.group g.val) =
    { s.saf.group g.val with guardPermit := true, wait := false }) ∧
  (∀ (s : State) (g : Fin 16), s.pw.fieldUp = true → s.saf.guardRun = true → s.saf.guardFault = false → (s.saf.group
    g.val).guardPermit = false → (s.saf.group g.val).guard.any = false → s.saf.matchedAll g.val = true → s.saf.manual g.val =
    true → Completes [.fio, .saf, .peat] (.guardSafetyCycle) s fun t => (t.saf.group g.val) =
    { s.saf.group g.val with wait := true }) ∧
  (∀ (s : State) (g : Fin 16), ((s.saf.group g.val).guardPermit = true ∨ (s.saf.group g.val).guard.any = true ∨
    s.saf.matchedAll g.val = false) → Completes [.fio, .saf, .peat] (.guardSafetyCycle) s fun t => (t.saf.group g.val) =
    s.saf.group g.val) ∧
  (∀ (s : State) (g : Fin 16), s.pw.fieldUp = false → exec (.disagree g) s = .next s) ∧
  (∀ (s : State) (g : Fin 16), s.pw.fieldUp = true → Completes [.fio, .saf, .peat] (.disagree g) s fun t => (t.saf.group
    g.val).guard.disagree = true ∧ (t.saf.group g.val).fg.disagree = true ∧ (t.saf.group g.val).guardPermit = false ∧
    (t.saf.group g.val).fgPermit = false ∧ t.saf.disagreeCnt = satInc 0xFFFF s.saf.disagreeCnt) ∧
  (∀ (s : State) (g : Fin 16) (n : Nat), (n < 100 ∨ 5000 < n) → exec (.manualRestart g n) s = .next s) ∧
  (∀ (s : State) (g : Fin 16) (n : Nat), (({ (s.saf.group g.val).guard with disagree := false } : Demand).any = true ∨
    s.saf.matchedAll g.val = false ∨ ((s.saf.group g.val).guard.disagree = true ∧
    ({ (s.saf.group g.val).fg with disagree := false } : Demand).any = true)) → exec (.manualRestart g n) s = .next s) ∧
  (∀ (s : State) (g : Fin 16) (n : Nat), s.pw.fieldUp = true → s.saf.guardRun = true → s.saf.guardFault = false → 100 ≤ n → n
    ≤ 5000 → (s.saf.group g.val).guardPermit = false → ({ (s.saf.group g.val).guard with disagree := false } : Demand).any =
    false → s.saf.matchedAll g.val = true → ((s.saf.manual g.val = true ∧ (s.saf.group g.val).guard.disagree = false) ∨
    ((s.saf.group g.val).guard.disagree = true ∧ ({ (s.saf.group g.val).fg with disagree := false } : Demand).any = false)) →
    Completes [.fio, .saf, .peat] (.manualRestart g n) s fun t => (t.saf.group g.val).guardPermit = true ∧ (t.saf.group
    g.val).guard.any = false ∧ (t.saf.group g.val).wait = false)

/-- Safety frames sent, taken from Waggle and from the safety pair, and their supervision. With the field side up: a framing
error on the pair counts, the sixteenth in a row takes the pair down and raises 0x8B. With REMOTE set, a copy on the pair
of 32 bytes from a station that a REMOTE row names, with a good SCRC and a SCNT that advances, is kept with its SCNT and
ends the watch of Fen Gate, and the pair is up; where the copy of the other path has that SCNT, equal copies match and,
with a SCNT newer than that of the last fault, end mismatch, absence and watch, and copies that differ are a mismatch,
counted. A valid SAFETY frame whose station is its sender goes down to Guard, another changes nothing there; such a copy,
taken from the downlink under the same conditions, is kept for its path. Absence of a copy takes the permit of Guard from
the groups that the station demands, and is counted; an expired watch does so too, the watch on the pair with the permit of
Fen Gate. A station that no row names, or a field side that is down, changes nothing. Guard, in its safety cycle with
REMOTE set and the logic side there, composes one frame with the next SCNT for the next SAFETY window of its station and
sends the same bytes on the pair where its field side drives; otherwise it sends none. Rests on log entries 7, 71, 120.
(R398, R485, R486, R487, R494.) -/
def Obligations.SafetyFramesOnTwoPaths : Prop :=
  (∀ (s : State) (b : List Byte) (f : Bool), s.pw.fieldUp = false → exec (.safetyPairCopy b f) s = .next s) ∧
  (∀ (s : State) (b : List Byte), s.pw.fieldUp = true → s.saf.pairBad + 1 ≠ 16 → Completes [.fio, .saf, .peat]
    (.safetyPairCopy b false) s fun t => t.saf =
    { s.saf with pairBad := min 16 (s.saf.pairBad + 1), pairUp := s.saf.pairUp && decide (s.saf.pairBad + 1 < 16) }) ∧
  (∀ (s : State) (b : List Byte), s.pw.fieldUp = true → s.saf.pairBad = 15 → exec (.safetyPairCopy b false) s = .next
    ((s.setSaf { s.saf with pairBad := 16, pairUp := false }).fieldRaise 0x8B 0)) ∧
  (∀ (s : State) (b : List Byte), s.pw.fieldUp = true → s.saf.fgVerified = true → sealRemote s.saf.sealRead = true → b.length
    = 32 → s.saf.hears (leAt b 12 2) = true → leAt b 28 4 = scrc (leAt b 12 2) b → advances (s.saf.rem (leAt b 12 2)).pairScnt
    (copyScnt b) = true → Completes [.fio, .saf, .peat] (.safetyPairCopy b true) s fun t => t.saf.pairBad = 0 ∧ t.saf.pairUp =
    true ∧ (t.saf.rem (leAt b 12 2)).pairCopy = b ∧ (t.saf.rem (leAt b 12 2)).pairScnt = some (copyScnt b) ∧ (t.saf.rem (leAt
    b 12 2)).fgWatch = false) ∧
  (∀ (s : State) (b : List Byte), s.pw.fieldUp = true → s.saf.fgVerified = true → sealRemote s.saf.sealRead = true → b.length
    = 32 → s.saf.hears (leAt b 12 2) = true → leAt b 28 4 = scrc (leAt b 12 2) b → advances (s.saf.rem (leAt b 12 2)).pairScnt
    (copyScnt b) = true → (s.saf.rem (leAt b 12 2)).wagScnt = some (copyScnt b) → (s.saf.rem (leAt b 12 2)).wagCopy = b →
    advances (s.saf.rem (leAt b 12 2)).faultAt (copyScnt b) = true → Completes [.fio, .saf, .peat] (.safetyPairCopy b true) s
    fun t => (t.saf.rem (leAt b 12 2)).matched = some (copyScnt b) ∧ (t.saf.rem (leAt b 12 2)).mismatch = false ∧ (t.saf.rem
    (leAt b 12 2)).absence = false ∧ (t.saf.rem (leAt b 12 2)).watch = false) ∧
  (∀ (s : State) (b : List Byte), s.pw.fieldUp = true → s.saf.fgVerified = true → sealRemote s.saf.sealRead = true → b.length
    = 32 → s.saf.hears (leAt b 12 2) = true → leAt b 28 4 = scrc (leAt b 12 2) b → advances (s.saf.rem (leAt b 12 2)).pairScnt
    (copyScnt b) = true → (s.saf.rem (leAt b 12 2)).wagScnt = some (copyScnt b) → (s.saf.rem (leAt b 12 2)).wagCopy ≠ b →
    Completes [.fio, .saf, .peat] (.safetyPairCopy b true) s fun t => (t.saf.rem (leAt b 12 2)).mismatch = true ∧
    t.saf.mismatchCnt = satInc 0xFFFF s.saf.mismatchCnt) ∧
  (∀ (s : State) (h : FrameHdr) (b : List Byte), s.takesFrames = false → exec (.safetyFrame h b) s = .next s) ∧
  (∀ (s : State) (h : FrameHdr) (b : List Byte), s.takesFrames = true → leAt b 12 2 ≠ h.src.val → Completes [.fio, .wag]
    (.safetyFrame h b) s fun t => t.saf = s.saf ∧ t.fio = s.fio) ∧
  (∀ (s : State) (h : FrameHdr) (b : List Byte), s.takesFrames = true → (s.takeFrame h 3).2 = true → leAt b 12 2 = h.src.val →
    Completes [.fio, .wag] (.safetyFrame h b) s fun t => t.saf = s.saf ∧ t.fio =
    { s.fio with down := s.fio.down ++ [.guardCopy b] }) ∧
  (∀ (s : State) (b : List Byte) (r : List DownItem), s.fio.down = .guardCopy b :: r → s.pw.fieldUp = true → s.saf.fgVerified
    = true → sealRemote s.saf.sealRead = true → b.length = 32 → s.saf.hears (leAt b 12 2) = true → leAt b 28 4 = scrc (leAt b
    12 2) b → advances (s.saf.rem (leAt b 12 2)).wagScnt (copyScnt b) = true → Completes [.time, .pw, .cnv, .fio, .twn, .saf,
    .drn, .lcy, .peat] (.downlinkFrame true) s fun t => (t.saf.rem (leAt b 12 2)).wagCopy = b ∧ (t.saf.rem (leAt b 12
    2)).wagScnt = some (copyScnt b)) ∧
  (∀ (s : State) (k : Fin 4096) (m : SafetyPath), (s.pw.fieldUp = false ∨ s.saf.hears k.val = false) → exec
    (.safetyPathAbsence k m) s = .next s ∧ exec (.safetyWatchExpiry k m) s = .next s) ∧
  (∀ (s : State) (k : Fin 4096) (m : SafetyPath) (g : Fin 16), s.pw.fieldUp = true → s.saf.hears k.val = true →
    (s.saf.remoteRows g.val).any (fun x => decide (x.1 = k.val)) = true → Completes [.fio, .saf, .peat] (.safetyPathAbsence k
    m) s fun t => (t.saf.rem k.val).absence = true ∧ t.saf.absentCnt = satInc 0xFFFF s.saf.absentCnt ∧ (t.saf.group
    g.val).guardPermit = false ∧ (t.saf.group g.val).guard.absence = true) ∧
  (∀ (s : State) (k : Fin 4096) (g : Fin 16), s.pw.fieldUp = true → s.saf.hears k.val = true → (s.saf.remoteRows g.val).any
    (fun x => decide (x.1 = k.val)) = true → Completes [.fio, .saf, .peat] (.safetyWatchExpiry k .waggle) s fun t =>
    (t.saf.rem k.val).watch = true ∧ (t.saf.group g.val).guardPermit = false ∧ (t.saf.group g.val).guard.absence = true) ∧
  (∀ (s : State) (k : Fin 4096) (g : Fin 16), s.pw.fieldUp = true → s.saf.hears k.val = true → (s.saf.remoteRows g.val).any
    (fun x => decide (x.1 = k.val)) = true → Completes [.fio, .saf, .peat] (.safetyWatchExpiry k .pair) s fun t => (t.saf.rem
    k.val).fgWatch = true ∧ (t.saf.group g.val).fgPermit = false ∧ (t.saf.group g.val).fg.absence = true) ∧
  (∀ (s : State), (s.saf.guardRun = false ∨ sealRemote s.saf.sealRead = false ∨ s.pw.logicAbsent = true) → exec
    .safetyFrameSend s = .next s) ∧
  (∀ (s : State) (w : Nat), s.pw.fieldUp = true → s.pw.logicAbsent = false → s.saf.guardRun = true → sealRemote s.saf.sealRead
    = true → s.safetyWindow = some w → Completes [.fio, .saf, .out, .freeIdx] (.safetyFrameSend) s fun t => t.saf =
    { s.saf with scnt := s.saf.scnt + 1, sendCycle := s.wag.cycle, sendWins := (if s.saf.sendCycle = s.wag.cycle then s.saf.sendWins else []) ++ [w] }
    ∧ t.fio = { s.fio with up := s.fio.up ++ [.safetyFrame w (s.safetyBytes (s.saf.scnt + 1))] } ∧ t.freeIdx = s.freeIdx + 1 ∧
    t.out = (if s.fieldDrives then [.safetyPair ([0x7E] ++ s.safetyBytes (s.saf.scnt + 1) ++ [0x7E])] else []) ++ s.out) ∧
  (∀ (s : State), s.safetyWindow = none → exec .safetyFrameSend s = .next s)

/-- Requests of the service port: answered once, staging, status, the ledger, EXPECT and tokens. Where the port is not served
nothing happens; a request out of sequence is answered with the last response again. In sequence: HELLO takes a new nonce,
a free value; STAGE keeps bytes that end within 256 MiB and refuses others with 0xA8; DISCARD drops them; STATUS answers
the status record; LEDGER of the live record answers it with its signature over it and the nonce, and 0xA0 for an undefined
WHAT; EXPECT of one station sets its view, and answers 0xA7 in RETURN and END. A token of no operation changes neither
state, debug port nor owner keys and is answered 0xAC; in MAKER with one maker key, a token for the debug port of the logic
side, for this module, state and nonce, opens that port, uses up the nonce and is answered 0 where its signature verifies,
and is answered 0xAC where not. A bus reset forgets SEQ and the last response. Rests on log entries 7, 13, 79, 80. (R434,
R558, R561, R563, R564, R569, R577, R590.) -/
def Obligations.ServicePortAndTokens : Prop :=
  (∀ (s : State) (q : Word) (o : Nat) (b : List Byte) (f : Bool) (w : BitVec 8) (x : Word) (n : Nat) (l : List ExpectEntry),
    s.serves = false → exec (.hello q) s = .next s ∧ exec (.stage q o b) s = .next s ∧ exec (.install q) s = .next s ∧ exec
    (.activate q f) s = .next s ∧ exec (.serviceStatus q) s = .next s ∧ exec (.token q b) s = .next s ∧ exec (.discard q) s =
    .next s ∧ exec (.ledger q w x n) s = .next s ∧ exec (.expect q l) s = .next s) ∧
  (∀ (s : State) (q : Word) (r : Response) (o : Nat) (b : List Byte) (f : Bool) (w : BitVec 8) (x : Word) (n : Nat) (l : List
    ExpectEntry), s.serves = true → s.lcy.takesSeq q = false → s.lcy.lastResp = some r → exec (.hello q) s = .next (s.emitOut
    (.usb r.bytes)) ∧ exec (.stage q o b) s = .next (s.emitOut (.usb r.bytes)) ∧ exec (.install q) s = .next (s.emitOut (.usb
    r.bytes)) ∧ exec (.activate q f) s = .next (s.emitOut (.usb r.bytes)) ∧ exec (.serviceStatus q) s = .next (s.emitOut (.usb
    r.bytes)) ∧ exec (.token q b) s = .next (s.emitOut (.usb r.bytes)) ∧ exec (.discard q) s = .next (s.emitOut (.usb
    r.bytes)) ∧ exec (.ledger q w x n) s = .next (s.emitOut (.usb r.bytes)) ∧ exec (.expect q l) s = .next (s.emitOut (.usb
    r.bytes))) ∧
  (∀ (s : State) (q : Word), s.serves = true → s.lcy.takesSeq q = true → Completes [.lcy, .out, .freeIdx] (.hello q) s fun t
    => t.lcy.nonce = Config.nonce s.freeIdx ∧ t.lcy.nonceLive = true ∧ t.lcy.helloCnt = s.lcy.helloCnt + 1 ∧ t.lcy.lastSeq =
    some q ∧ t.freeIdx = s.freeIdx + 1 ∧ t.lcy.lastResp.map (·.code) = some 0) ∧
  (∀ (s : State) (q : Word) (o : Nat) (b : List Byte), s.serves = true → s.lcy.takesSeq q = true → o + b.length ≤ 2 ^ 28 →
    Completes [.lcy, .out] (.stage q o b) s fun t => t.lcy.staging = tputs 0 s.lcy.staging o b ∧ t.lcy.staged = max
    s.lcy.staged (o + b.length) ∧ t.lcy.lastCode = 0 ∧ t.lcy.lastResp.map (·.code) = some 0) ∧
  (∀ (s : State) (q : Word) (o : Nat) (b : List Byte), s.serves = true → s.lcy.takesSeq q = true → 2 ^ 28 < o + b.length →
    Completes [.lcy, .out] (.stage q o b) s fun t => t.lcy.staging = s.lcy.staging ∧ t.lcy.staged = s.lcy.staged ∧
    t.lcy.lastCode = 0xA8 ∧ t.lcy.lastResp.map (·.code) = some 0xA8) ∧
  (∀ (s : State) (q : Word), s.serves = true → s.lcy.takesSeq q = true → Completes [.lcy, .out] (.discard q) s fun t =>
    t.lcy.staging = [] ∧ t.lcy.staged = 0 ∧ t.lcy.lastCode = 0 ∧ t.lcy.lastResp.map (·.code) = some 0) ∧
  (∀ (s : State) (q : Word), s.serves = true → s.lcy.takesSeq q = true → Completes [.lcy, .out, .freeIdx] (.serviceStatus q) s
    fun t => t.lcy =
    { s.lcy with lastSeq := some q, lastResp := some { op := 0x85, code := 0, seq := q, payload := s.statusRecord } }) ∧
  (∀ (s : State) (q x : Word) (n : Nat), s.serves = true → s.lcy.takesSeq q = true → 1 ≤ n → n ≤ 60 → Completes [.lcy, .out,
    .freeIdx] (.ledger q 0 x n) s fun t => t.lcy.lastResp = some
    { op := 0x88, code := 0, seq := q, payload := s.liveRecord ++ Config.mldsaSign (s.liveRecord ++ leBytes 16 s.lcy.nonce.toNat) s.freeIdx })
    ∧
  (∀ (s : State) (q x : Word) (w : BitVec 8) (n : Nat), s.serves = true → s.lcy.takesSeq q = true → 2 ≤ w.toNat → Completes
    [.lcy, .out, .freeIdx] (.ledger q w x n) s fun t => t.lcy.lastResp.map (·.code) = some 0xA0) ∧
  (∀ (s : State) (q : Word) (e : ExpectEntry), s.serves = true → s.lcy.takesSeq q = true → e.view ≠ 3 → s.lcy.st ≠ .return_ →
    s.lcy.st ≠ .end_ → Completes [.wag, .lcy, .out] (.expect q [e]) s fun t => fld (tget 0 t.wag.stnTab e.station.val) 9 8 =
    e.view.val ∧ t.lcy.lastResp.map (·.code) = some 0) ∧
  (∀ (s : State) (q : Word) (l : List ExpectEntry), s.serves = true → s.lcy.takesSeq q = true → (s.lcy.st = .return_ ∨
    s.lcy.st = .end_) → Completes [.wag, .lcy, .out] (.expect q l) s fun t => t.wag = s.wag ∧ t.lcy.lastResp.map (·.code) =
    some 0xA7) ∧
  (∀ (s : State), exec .usbBusReset s = .next (s.setLcy { s.lcy with lastSeq := none, lastResp := none })) ∧
  (∀ (s : State) (q : Word) (b : List Byte), s.serves = true → s.lcy.takesSeq q = true → tokenOp (slice b 0 64) = none →
    Completes [.time, .pw, .hif, .stp, .fio, .wag, .saf, .lcy, .peat, .out] (.token q b) s fun t => t.lcy.st = s.lcy.st ∧
    t.lcy.ldbg = s.lcy.ldbg ∧ t.lcy.ownerKeys = s.lcy.ownerKeys ∧ t.lcy.lastResp.map (·.code) = some 0xAC) ∧
  (∀ (s : State) (q : Word) (b k g : List Byte), s.serves = true → s.lcy.takesSeq q = true → s.lcy.st = .maker →
    s.lcy.makerKeys = [k] → s.lcy.minSig = false → s.lcy.nonceLive = true → 64 ≤ b.length → leAt (slice b 0 64) 0 4 =
    0x4E4B5458 → leAt (slice b 0 64) 4 1 = 2 → leAt (slice b 0 64) 5 1 = 1 → leAt (slice b 0 64) 7 1 = 0 → leAt (slice b 0 64)
    8 8 = fld s.pw.serial 63 0 → leAt (slice b 0 64) 16 16 = s.lcy.nonce.toNat → tokenParts false b = some ([], g) → k.length
    = (if g.length = 2420 then 1312 else 1952) → Completes [.time, .pw, .hif, .stp, .fio, .wag, .saf, .lcy, .peat, .out]
    (.token q b) s fun t => if Config.mldsaVerify k (slice b 0 64) g then t.lcy.ldbg = true ∧ t.lcy.nonceLive = false ∧
    t.lcy.lastResp.map (·.code) = some 0 else t.lcy.ldbg = s.lcy.ldbg ∧ t.lcy.nonceLive = true ∧ t.lcy.lastResp.map (·.code) =
    some 0xAC)

/-- INSTALL, the end of its writing, ACTIVATE and the commit of an activation. INSTALL in END answers 0xA7; else the package
is judged: a refusal is its last result code and changes no phase, an accepted one starts to be written, and one that is no
package is answered 0xA0. The field die checks the signatures and the hash of an image that the downlink brings it and
notes the failure or the image. The end of the writing does nothing without a job, or while an image for the field die is
not checked; a failure there fails the INSTALL with its code, slots and activation as they were; with every image checked,
a hash that differs fails it likewise with 0xA3, and else the package is installed in the inactive slot with its keys.
ACTIVATE answers 0xA7 in END, 0xA8 with nothing installed, 0xA6 under a refusal condition; on a member that is not HOLDER
it begins, and a HOLDER whose partner is out of step refuses it with 0xAE. Without an activation, or on a HOLDER, nothing
is committed; one that needs a field restart that was not asked for is refused with 0xAF; one with the field firmware,
Guard firmware and hold program of before, no rule store and no refusal condition brings the other slot into force, on
trial and counted, and the logic side is held in reset, to restart warm with cause 6. Rests on log entries 76, 77, 90, 113.
(R569, R570, R571, R572, R573, R574.) -/
def Obligations.InstallAndActivation : Prop :=
  (∀ (s : State) (q : Word), s.serves = true → s.lcy.takesSeq q = true → s.lcy.st = .end_ → Completes [.fio, .lcy, .out]
    (.install q) s fun t => t.lcy.phase = s.lcy.phase ∧ t.lcy.lastCode = 0xA7 ∧ t.lcy.lastResp.map (·.code) = some 0xA7) ∧
  (∀ (s : State) (q : Word), s.serves = true → s.lcy.takesSeq q = true → s.lcy.st ≠ .end_ → Completes [.fio, .lcy, .out]
    (.install q) s fun t => (∀ c r, s.judgePackage = .refused c r → t.lcy.phase = s.lcy.phase ∧ t.lcy.job = s.lcy.job ∧
    t.lcy.lastCode = c) ∧ ∀ j, s.judgePackage = .ok j → t.lcy.phase = .installing ∧ t.lcy.job = some j ∧ t.lcy.fallbackOk =
    false ∧ t.lcy.lastCode = 0) ∧
  (∀ (s : State) (q : Word), s.serves = true → s.lcy.takesSeq q = true → s.lcy.st ≠ .end_ → s.pkgOk s.lcy.package = false →
    Completes [.fio, .lcy, .out] (.install q) s fun t => t.lcy.phase = s.lcy.phase ∧ t.lcy.lastCode = 0xA0 ∧
    t.lcy.lastResp.map (·.code) = some 0xA0) ∧
  (∀ (s : State), s.lcy.job = none → exec .installDone s = .next s) ∧
  (∀ (s : State) (j : InstallJob) (c : Byte), s.lcy.job = some j → j.fieldBad = some c → Completes [.lcy] (.installDone) s fun
    t => t.lcy.job = none ∧ t.lcy.phase = .failed ∧ t.lcy.lastCode = c ∧ t.lcy.slots = s.lcy.slots ∧ t.lcy.installed =
    s.lcy.installed) ∧
  (∀ (s : State) (j : InstallJob) (t : Nat), s.lcy.job = some j → j.fieldBad = none → j.fieldParts.contains t = true →
    j.fieldOk.contains t = false → exec .installDone s = .next s) ∧
  (∀ (s : State) (j : InstallJob), s.lcy.job = some j → j.fieldBad = none → j.fieldParts.all (fun t => j.fieldOk.contains t) =
    true → Completes [.lcy] (.installDone) s fun t => t.lcy.job = none ∧ t.lcy.active = s.lcy.active ∧ (if j.hashes.any (fun h
    => decide (Config.sha3 (tget [] j.act.images h.1) ≠ h.2)) = true then t.lcy.phase = .failed ∧ t.lcy.lastCode = 0xA3 ∧
    t.lcy.slots = s.lcy.slots ∧ t.lcy.installed = s.lcy.installed else t.lcy.phase = .installed ∧ t.lcy.installed = true ∧
    t.lcy.lastCode = 0 ∧ t.lcy.inactive =
    { j.act with slotKey := s.lcy.logicKeys[(!s.lcy.slotB).toNat]?, halfKey := s.lcy.fieldKey })) ∧
  (∀ (s : State) (j : InstallJob) (k : Nat) (b : List Byte) (r : List DownItem), s.fio.down = .update k b :: r → s.pw.fieldUp
    = true → s.lcy.job = some j → Completes [.fio, .lcy] (.downlinkFrame true) s fun t => t.fio = { s.fio with down := r } ∧
    t.lcy.job = some (if s.lcy.signedOk j.manifest j.sigs = false then { j with fieldBad := some 0xA1 } else if j.hashes.any
    (fun h => decide (h.1 = k) && decide (Config.sha3 b ≠ h.2)) = true then { j with fieldBad := some 0xA3 } else
    { j with fieldOk := k :: j.fieldOk })) ∧
  (∀ (s : State) (q : Word) (f : Bool), s.serves = true → s.lcy.takesSeq q = true → s.lcy.st = .end_ → Completes [.hif, .twn,
    .lcy, .out] (.activate q f) s fun t => t.lcy.activating = s.lcy.activating ∧ t.lcy.lastResp.map (·.code) = some 0xA7) ∧
  (∀ (s : State) (q : Word) (f : Bool), s.serves = true → s.lcy.takesSeq q = true → s.lcy.st ≠ .end_ → s.lcy.installed = false
    → Completes [.hif, .twn, .lcy, .out] (.activate q f) s fun t => t.lcy.activating = s.lcy.activating ∧ t.lcy.lastResp.map
    (·.code) = some 0xA8) ∧
  (∀ (s : State) (q : Word) (f : Bool), s.serves = true → s.lcy.takesSeq q = true → s.lcy.st ≠ .end_ → s.lcy.installed = true
    → s.updRefused ≠ 0 → Completes [.hif, .twn, .lcy, .out] (.activate q f) s fun t => t.lcy.activating = s.lcy.activating ∧
    t.lcy.lastResp.map (·.code) = some 0xA6) ∧
  (∀ (s : State) (q : Word) (f : Bool), s.serves = true → s.lcy.takesSeq q = true → s.lcy.st ≠ .end_ → s.lcy.installed = true
    → s.updRefused = 0 → s.twn.st ≠ .holder → Completes [.hif, .twn, .lcy, .out] (.activate q f) s fun t => t.lcy.activating =
    true ∧ t.lcy.fieldRst = f ∧ t.lcy.phase = .activating ∧ t.twn = s.twn ∧ t.lcy.lastResp.map (·.code) = some 0) ∧
  (∀ (s : State) (q : Word) (f : Bool), s.serves = true → s.lcy.takesSeq q = true → s.lcy.st ≠ .end_ → s.lcy.installed = true
    → s.updRefused = 0 → s.twn.st = .holder → s.twn.offer = none → s.twn.inStep = false → Completes [.hif, .twn, .lcy, .out]
    (.activate q f) s fun t => t.lcy.activating = false ∧ t.lcy.phase = .installed ∧ t.lcy.lastCode = 0xAE) ∧
  (∀ (s : State), (s.lcy.activating = false ∨ s.lcy.installed = false ∨ s.twn.st = .holder) → exec .activationCommit s = .next
    s) ∧
  (∀ (s : State), s.lcy.activating = true → s.lcy.installed = true → s.twn.st ≠ .holder → fieldDiffers s.lcy.active
    s.lcy.inactive = true → s.lcy.fieldRst = false → s.twn.fieldMember = false → s.pw.variantL = false → Completes [.lcy]
    (.activationCommit) s fun t => t.lcy = { s.lcy with activating := false, phase := .installed, lastCode := 0xAF } ∧ t.pw =
    s.pw) ∧
  (∀ (s : State), s.lcy.activating = true → s.lcy.installed = true → s.twn.st ≠ .holder → fieldDiffers s.lcy.active
    s.lcy.inactive = false → tget [] s.lcy.inactive.images 5 = tget [] s.lcy.active.images 5 → s.lcy.inactive.rules = false →
    s.updRefused = 0 → Completes [.regs, .time, .pw, .hif, .stp, .cmb, .blk, .cnv, .fio, .mir, .wag, .twn, .saf, .drn, .leg,
    .lcy, .peat, .seen, .out, .freeIdx] (.activationCommit) s fun t => t.lcy.slotB = !s.lcy.slotB ∧ t.lcy.active =
    s.lcy.inactive ∧ t.lcy.trial = true ∧ t.lcy.fallbackOk = true ∧ t.lcy.actCnt = satInc 0xFFFF s.lcy.actCnt ∧ t.pw.logic =
    .held ∧ t.pw.restart = some { cold := false, cause := 6 })

/-- A second of the Peat Ledger, its commits and its snapshots. With PEAT lost no second is taken. In a second without a
snapshot due counters 0 to 2 count, saturating, the logic side, the field side, and the absence of the main supply of the
PEAT side, every item that is powered and measured takes its sample into its histogram, and the counts of the second start
anew; with a cause noted and that supply present one snapshot is written with the next SEQ into its slot of the ring, over
one commit, and the causes are cleared. Without that supply nothing is committed; with it and no cause the buffer is
committed: over two live images into the one with the lower COMMITS, with COMMITS one higher and the life-cycle state and
transition count; with a cause a commit writes the snapshot. Rests on log entry 81. (R579, R580, R582, R583, R585, R586,
R587.) -/
def Obligations.PeatLedger : Prop :=
  (∀ (s : State) (x : LedgerInputs), s.pw.peatLost = true → exec (.ledgerSample x) s = .next s) ∧
  (∀ (s : State) (x : LedgerInputs), s.pw.peatLost = false → s.peat.causes = 0 → (s.countSecond.sampleItems x).snapshotDue =
    false → Completes [.pw, .cnv, .peat] (.ledgerSample x) s fun t => t.peat.seq = s.peat.seq ∧ t.peat.live0 = s.peat.live0 ∧
    t.peat.live1 = s.peat.live1 ∧ tget 0 t.peat.buf.counters 0 = (if s.pw.logic = .off then tget 0 s.peat.buf.counters 0 else
    satInc 0xFFFFFFFF (tget 0 s.peat.buf.counters 0)) ∧ tget 0 t.peat.buf.counters 1 = (if s.pw.fieldUp then satInc 0xFFFFFFFF
    (tget 0 s.peat.buf.counters 1) else tget 0 s.peat.buf.counters 1) ∧ tget 0 t.peat.buf.counters 2 = (if s.peatMain then
    tget 0 s.peat.buf.counters 2 else satInc 0xFFFFFFFF (tget 0 s.peat.buf.counters 2))) ∧
  (∀ (s : State) (x : LedgerInputs) (i : Fin 8), s.pw.peatLost = false → s.peat.causes = 0 → (s.countSecond.sampleItems
    x).snapshotDue = false → Completes [.pw, .cnv, .peat] (.ledgerSample x) s fun t => tget {} t.peat.buf.items i.val =
    (match s.itemValue x i.val with | some v => (tget {} s.peat.buf.items i.val : Histo).add i.val v | none => tget {} s.peat.buf.items i.val)
    ∧ t.pw.ceSecond = 0 ∧ t.cnv.chkSecond = 0) ∧
  (∀ (s : State) (x : LedgerInputs), s.pw.peatLost = false → s.peat.causes ≠ 0 → s.peatMain = true → Completes [.pw, .cnv,
    .peat] (.ledgerSample x) s fun t => t.peat.seq = s.peat.seq + 1 ∧ t.peat.causes = 0 ∧ (tget {} t.peat.ring ((s.peat.seq +
    1).toNat % 254)).seq = s.peat.seq + 1 ∧ t.peat.buf.commits = s.peat.buf.commits + 1) ∧
  (∀ (s : State), s.peatMain = false → exec .ledgerCommit s = .next s) ∧
  (∀ (s : State), s.peatMain = true → s.peat.causes = 0 → exec .ledgerCommit s = .next
    { s with peat := s.peat.commit s.lcy.st.code s.lcy.count }) ∧
  (∀ (s : State) (a b : LedgerRec), s.peatMain = true → s.peat.causes = 0 → s.peat.live0 = some a → s.peat.live1 = some b →
    Completes [.peat] (.ledgerCommit) s fun t => t.peat.buf.commits = s.peat.buf.commits + 1 ∧ t.peat.buf.lc = s.lcy.st.code ∧
    t.peat.buf.tcount = s.lcy.count ∧ t.peat.pending = false ∧ (if a.commits < b.commits then t.peat.live0 = some t.peat.buf ∧
    t.peat.live1 = some b else t.peat.live0 = some a ∧ t.peat.live1 = some t.peat.buf)) ∧
  (∀ (s : State), s.peatMain = true → s.peat.causes ≠ 0 → Completes [.peat] (.ledgerCommit) s fun t => t.peat.seq = s.peat.seq
    + 1 ∧ t.peat.causes = 0 ∧ (tget {} t.peat.ring ((s.peat.seq + 1).toNat % 254)).seq = s.peat.seq + 1)

/-- A step runs the command at the front of the queue; with none waiting one tick of TIME_CLK passes. For every command,
queue and state, the step of a state whose queue starts with the command is exec of the command on the state with the
queue's rest. With an empty queue the step is one TIME_CLK tick (the model's choice, log entry 1). Rests on log entry 1.
(R44, R63.) -/
def Obligations.FrontCommandRuns : Prop :=
  (∀ (c : Instr) (r : List Instr) (s : State), step { s with pending := c :: r } = exec c { s with pending := r }) ∧
  (∀ (s : State), s.pending = [] → step s = .next s.tick)

/-- One TIME_CLK tick advances each base by 8 ns plus its rate term, by 7, 8 or 9 ns. While the logic PLL is locked, one tick
advances TB1, TB2 and TB3, and TB0 as full time, by 8 ns and the rate term in units of 2⁻⁴⁰, with the carry from the 32-bit
fraction: for every rate within ±549 755 813 the count goes up by 7, 8 or 9 ns, and TB2, which has no rate term, by 8. The
tick changes nothing but the bases and the index of free values. (R44.) -/
def Obligations.TickAdvancesTheBases : Prop :=
  (∀ (s : State), s.pw.lpllLock = true → s.pw.logic ≠ .off → -549755813 ≤ s.time.tb1.rate → s.time.tb1.rate ≤ 549755813 →
    (s.tick.time.tb1.ns = s.time.tb1.ns + 7 ∨ s.tick.time.tb1.ns = s.time.tb1.ns + 8 ∨ s.tick.time.tb1.ns = s.time.tb1.ns + 9)
    ∧ ∃ k : Bool, s.tick.time.tb1 = s.time.tb1.plus (8 * 2 ^ 32 + s.time.tb1.rate / 32 + (if k && decide (s.time.tb1.rate % 32
    ≠ 0) then 1 else 0))) ∧
  (∀ (s : State), s.pw.lpllLock = true → s.pw.logic ≠ .off → -549755813 ≤ s.time.tb3.rate → s.time.tb3.rate ≤ 549755813 →
    (s.tick.time.tb3.ns = s.time.tb3.ns + 7 ∨ s.tick.time.tb3.ns = s.time.tb3.ns + 8 ∨ s.tick.time.tb3.ns = s.time.tb3.ns + 9)
    ∧ ∃ k : Bool, s.tick.time.tb3 = s.time.tb3.plus (8 * 2 ^ 32 + s.time.tb3.rate / 32 + (if k && decide (s.time.tb3.rate % 32
    ≠ 0) then 1 else 0))) ∧
  (∀ (s : State), s.pw.lpllLock = true → s.pw.logic ≠ .off → s.tick.time.tb2.ns = s.time.tb2.ns + 8 ∧ s.tick.time.tb2.frac =
    s.time.tb2.frac ∧ ∃ k : Bool, s.tick.time.tb0 = s.time.tb0.plus (8 * 2 ^ 32 + s.time.tb0.rate / 32 + (if k && decide
    (s.time.tb0.rate % 32 ≠ 0) then 1 else 0))) ∧
  (∀ (s : State), s.pw.lpllLock = true → s.pw.logic ≠ .off → -549755813 ≤ s.time.tb0.rate → s.time.tb0.rate ≤ 549755813 →
    s.time.tb0.nsec < 1000000000 → s.time.tb0.sec.toNat < 2 ^ 48 - 1 → ∃ n : Nat, 7 ≤ n ∧ n ≤ 9 ∧ s.tick.time.tb0.sec.toNat *
    1000000000 + s.tick.time.tb0.nsec = s.time.tb0.sec.toNat * 1000000000 + s.time.tb0.nsec + n) ∧
  (∀ (s : State), State.only [.time, .freeIdx] s s.tick)

/-- Two short times compare only by their signed 40-bit difference. The difference of two short times is (a − b) modulo 2^40,
less 2^40 where that is 2^39 or more: a is later than b when it is positive, the same instant when it is zero, and earlier
otherwise. It is zero only for equal times, and it is the time added where that lies within ±2^39. (R47.) -/
def Obligations.ShortTimesCompareBySignedDifference : Prop :=
  (∀ (a b : Time), sdiff a b = (let d : Nat := (a.toNat + 2 ^ 40 - b.toNat) % 2 ^ 40; if 0x8000000000 ≤ d then (d : Int) -
    0x10000000000 else (d : Int))) ∧
  (∀ (a b : Time), (sdiff a b = 0 ↔ a = b) ∧ -(2 ^ 39) ≤ sdiff a b ∧ sdiff a b ≤ 2 ^ 39 - 1) ∧
  (∀ (a : Time) (x : Int), -(2 ^ 39) ≤ x → x ≤ 2 ^ 39 - 1 → sdiff (tadd a x) a = x)

/-- Every command answers a next state and leaves the queue as it is. Whatever the command and the state, exec neither faults
nor refuses: it answers a next state whose queue is the one it was given. So a step on a waiting command answers a next
state whose queue is the rest. Rests on log entry 4. (R63, R94, R115.) -/
def Obligations.EveryCommandAnswersANextState : Prop :=
  (∀ (c : Instr) (s : State), ∃ t, exec c s = .next t ∧ t.pending = s.pending) ∧
  (∀ (c : Instr) (r : List Instr) (s : State), ∃ t, step { s with pending := c :: r } = .next t ∧ t.pending = r)

/-- Every step keeps the canonical form of the Bog. From every state whose Bog is in canonical form (offsets strictly rising,
no byte listed that reads as an unlisted one), every step leads to a state whose Bog is in canonical form. Rests on log
entries 1, 12. (R37, R333.) -/
def Obligations.StepKeepsTheBogCanonical : Prop :=
  (∀ (s t : State), s.Inv → step s = .next t → t.Inv)

/-- What reset leaves, and that it satisfies the invariant of every step. After reset nothing waits, the Bog lists nothing
and is canonical, the supply is in range and presence asserted, no PLL of the logic side is locked and the field side is
down, every ring pair is DISABLED, no step, slot or task is held, no output is driven, and no safety group is permitted.
(Registers the spec gives no value for hold what the assumption log names.) Rests on log entries 9, 10. (R490, R519, R598.)
-/
def Obligations.ResetLeaves : Prop :=
  (State.reset.Inv ∧ State.reset.pending = [] ∧ State.reset.bog = [] ∧ State.reset.pw.v12Ok = true ∧ State.reset.pw.lpllLock =
    false ∧ State.reset.pw.fieldUp = false) ∧
  (∀ (p : Nat), (State.reset.pairRt p).st = .disabled ∧ (State.reset.pairRt p).entries = []) ∧
  (∀ (g i : Nat), (State.reset.saf.group g).guardPermit = false ∧ (State.reset.saf.group g).fgPermit = false ∧
    (State.reset.saf.group g).guard.powerUp = true ∧ (State.reset.hsRt i).drv = false) ∧
  (State.reset.stp.steps = [] ∧ State.reset.cmb.slots = [] ∧ State.reset.blk.tasks = [] ∧ State.reset.time.tb1Lock = false)

/-- No command but a change of its switches writes SEAL. Whatever the command, if it is not SEAL_CHANGE the state it leads to
has the same SEAL; a SEAL_CHANGE leads to a state whose SEAL is the value given, and, if it is another value than before,
whose seal latch is set. Rests on log entry 82. (R18, R470.) -/
def Obligations.SealMovesOnlyByItsSwitches : Prop :=
  (∀ (c : Instr) (s t : State), (∀ v, c ≠ .sealChange v) → exec c s = .next t → t.saf.sealNow = s.saf.sealNow) ∧
  (∀ (v : BitVec 16) (s t : State), exec (.sealChange v) s = .next t → t.saf.sealNow = v ∧ (v ≠ s.saf.sealNow →
    t.saf.sealLatch = true))

/-- Entry to END blows the fuse and zeroises the keys, and no command leaves END. A transition to END sets the END fuse and
leaves no owner key, no maker key and no device key. From then on every command leads to a state that is in END with its
fuse blown; and a power-up takes END from the fuse, whatever the three copies hold. (R556.) -/
def Obligations.EndCannotBeLeft : Prop :=
  (∀ (k : List Byte) (s : State), (s.transition .end_ k).lcy.endFuse = true ∧ (s.transition .end_ k).lcy.st = .end_ ∧
    (s.transition .end_ k).lcy.ownerKeys = [] ∧ (s.transition .end_ k).lcy.makerKeys = [] ∧ (s.transition .end_ k).lcy.device
    = false) ∧
  (∀ (c : Instr) (s t : State), s.lcy.endFuse = true → s.lcy.st = .end_ → exec c s = .next t → t.lcy.endFuse = true ∧ t.lcy.st
    = .end_) ∧
  (∀ (l : LcyState), l.endFuse = true → l.reconcile.st = .end_)

/-- Where a histogram item places a sample, and what a sample changes. A LIN item places x in bin 0 below LO, in bin i from
LO + (i − 1) W up to LO + i W, and in bin 15 from LO + 14 W; a LOG item places 0 in bin 0, x in bin i from 2^(i−1) up to
2^i, and in bin 15 from 2^14. A sample adds 1 to that bin, saturating, leaves the other bins, and takes the minimum and the
maximum. (R580.) -/
def Obligations.HistogramSamples : Prop :=
  (∀ (lo w x : Int), 0 < w → linBin lo w x < 16 ∧ (x < lo → linBin lo w x = 0) ∧ (lo + 14 * w ≤ x → linBin lo w x = 15)) ∧
  (∀ (lo w x : Int) (i : Nat), 0 < w → 1 ≤ i → i ≤ 14 → lo + (i - 1) * w ≤ x → x < lo + i * w → linBin lo w x = i) ∧
  (∀ (x i : Nat), 1 ≤ i → i ≤ 14 → 2 ^ (i - 1) ≤ x → x < 2 ^ i → logBin x = i) ∧
  (∀ (x : Nat), logBin 0 = 0 ∧ logBin x < 16 ∧ (2 ^ 14 ≤ x → logBin x = 15)) ∧
  (∀ (h : Histo) (k : Nat) (x : Int), h.bins.length = 16 → (h.add k x).bins.length = 16 ∧ (h.add k x).min = min h.min x ∧
    (h.add k x).max = max h.max x ∧ ∀ j < 16, (h.add k x).bins.getD j 0 = if j = itemBin k x then satInc 0xFFFFFFFF
    (h.bins.getD j 0) else h.bins.getD j 0) ∧
  (∀ (n x : Nat), (x < n → satInc n x = x + 1) ∧ (n ≤ x → satInc n x = n))

/-- The product of a Comb coefficient, and how every right shift rounds. A right shift by m bits gives (x + 2^(m−1)) shifted
right arithmetically: the result is within half a unit of x / 2^m, halves going up. The product of a coefficient with a
24-bit view is k w, which fits in 39 bits of magnitude, shifted left by E − 7 with saturation to 40 bits or right by 7 − E
with rounding. Saturation gives the value itself within the bounds and the bound beyond them; a 24-bit view is the rounded,
saturated count. (R169, R170.) -/
def Obligations.CombRoundingAndShifts : Prop :=
  (∀ (x : Int) (m : Nat), 1 ≤ m → shrRound x m = (x + 2 ^ (m - 1)) / 2 ^ m ∧ 2 * (2 ^ m * shrRound x m - x) ≤ 2 ^ m ∧ -(2 ^ m)
    < 2 * (2 ^ m * shrRound x m - x)) ∧
  (∀ (c : Nat) (w : Int), -(2 ^ 23) ≤ w → w < 2 ^ 23 → (coefK c * w).natAbs ≤ 2 ^ 38 ∧ prod c w = satS 40 (if 7 ≤ coefE c then
    coefK c * w * 2 ^ (coefE c - 7).toNat else shrRound (coefK c * w) (7 - coefE c).toNat)) ∧
  (∀ (x : Int) (b : Nat), 1 ≤ b → satS b x = if x < -(2 ^ (b - 1)) then -(2 ^ (b - 1)) else if 2 ^ (b - 1) - 1 < x then 2 ^ (b
    - 1) - 1 else x) ∧
  (∀ (x : Int), view24 x = satS 24 ((x + 128) / 256))

/-- A descriptor that changes the module is refused with 0x70 on a member of a twin that does not act. On a member of an
enabled twin that does not act, a descriptor handed over that would change the module completes with 0x70 and changes
nothing else: every table LOAD (of a read-only table too), every parameter WRITE, TIME_SET, LOAD_IMAGE and EXCHANGE. Rests
on log entry 69. (R449, R464.) -/
def Obligations.ChangesNeedTheActingMember : Prop :=
  (∀ (s : State) (p : Pair) (e : Entry), s.roleActs = false → s.takeLoad p 5 1 = some e → exec (.slotTableLoad p) s = .next
    (s.finish p.val e.sub 0x70 0)) ∧
  (∀ (s : State) (p : Pair) (e : Entry), s.roleActs = false → s.takeLoad p 5 2 = some e → exec (.microprogramLoad p) s = .next
    (s.finish p.val e.sub 0x70 0)) ∧
  (∀ (s : State) (p : Pair) (e : Entry), s.roleActs = false → s.takeLoad p 5 3 = some e → exec (.modelTableLoad p) s = .next
    (s.finish p.val e.sub 0x70 0)) ∧
  (∀ (s : State) (p : Pair) (e : Entry), s.roleActs = false → s.takeLoad p 6 1 = some e → exec (.inputMapLoad p) s = .next
    (s.finish p.val e.sub 0x70 0)) ∧
  (∀ (s : State) (p : Pair) (e : Entry), s.roleActs = false → s.takeLoad p 6 2 = some e → exec (.outputMapLoad p) s = .next
    (s.finish p.val e.sub 0x70 0)) ∧
  (∀ (s : State) (p : Pair) (e : Entry), s.roleActs = false → s.takeLoad p 7 1 = some e → exec (.channelTableLoad p) s = .next
    (s.finish p.val e.sub 0x70 0)) ∧
  (∀ (s : State) (p : Pair) (e : Entry), s.roleActs = false → s.takeLoad p 7 2 = some e → exec (.dacTableLoad p) s = .next
    (s.finish p.val e.sub 0x70 0)) ∧
  (∀ (s : State) (p : Pair) (e : Entry), s.roleActs = false → s.takeLoad p 7 3 = some e → exec (.coefficientLoad p) s = .next
    (s.finish p.val e.sub 0x70 0)) ∧
  (∀ (s : State) (p : Pair) (e : Entry), s.roleActs = false → s.takeLoad p 7 4 = some e → exec (.dacCoefficientLoad p) s =
    .next (s.finish p.val e.sub 0x70 0)) ∧
  (∀ (s : State) (p : Pair) (e : Entry), s.roleActs = false → s.takeLoad p 7 5 = some e → exec (.skewLoad p) s = .next
    (s.finish p.val e.sub 0x70 0)) ∧
  (∀ (s : State) (p : Pair) (e : Entry), s.roleActs = false → s.takeLoad p 8 1 = some e → exec (.highSideTableLoad p) s =
    .next (s.finish p.val e.sub 0x70 0)) ∧
  (∀ (s : State) (p : Pair) (e : Entry), s.roleActs = false → s.takeLoad p 8 2 = some e → exec (.inputTableLoad p) s = .next
    (s.finish p.val e.sub 0x70 0)) ∧
  (∀ (s : State) (p : Pair) (e : Entry), s.roleActs = false → s.takeLoad p 8 3 = some e → exec (.encoderTableLoad p) s = .next
    (s.finish p.val e.sub 0x70 0)) ∧
  (∀ (s : State) (p : Pair) (e : Entry), s.roleActs = false → s.takeLoad p 8 4 = some e → exec (.pulseTableLoad p) s = .next
    (s.finish p.val e.sub 0x70 0)) ∧
  (∀ (s : State) (p : Pair) (e : Entry), s.roleActs = false → s.takeLoad p 8 5 = some e → exec (.profileTableLoad p) s = .next
    (s.finish p.val e.sub 0x70 0)) ∧
  (∀ (s : State) (p : Pair) (e : Entry), s.roleActs = false → s.takeLoad p 8 6 = some e → exec (.holdPolicyTableLoad p) s =
    .next (s.finish p.val e.sub 0x70 0)) ∧
  (∀ (s : State) (p : Pair) (e : Entry), s.roleActs = false → s.takeLoad p 9 1 = some e → exec (.regionTableLoad p) s = .next
    (s.finish p.val e.sub 0x70 0)) ∧
  (∀ (s : State) (p : Pair) (e : Entry), s.roleActs = false → s.takeLoad p 9 2 = some e → exec (.lineTableLoad p) s = .next
    (s.finish p.val e.sub 0x70 0)) ∧
  (∀ (s : State) (p : Pair) (e : Entry), s.roleActs = false → s.takeLoad p 9 3 = some e → exec (.maskTableLoad p) s = .next
    (s.finish p.val e.sub 0x70 0)) ∧
  (∀ (s : State) (p : Pair) (e : Entry), s.roleActs = false → s.takeLoad p 10 1 = some e → exec (.receiveMapLoad p) s = .next
    (s.finish p.val e.sub 0x70 0)) ∧
  (∀ (s : State) (p : Pair) (e : Entry), s.roleActs = false → s.takeLoad p 10 2 = some e → exec (.stationTableLoad p) s =
    .next (s.finish p.val e.sub 0x70 0)) ∧
  (∀ (s : State) (p : Pair) (e : Entry), s.roleActs = false → s.takeLoad p 10 3 = some e → exec (.segmentTableLoad p) s =
    .next (s.finish p.val e.sub 0x70 0)) ∧
  (∀ (s : State) (p : Pair) (e : Entry), s.roleActs = false → s.takeLoad p 11 1 = some e → exec (.witnessTableLoad p) s =
    .next (s.finish p.val e.sub 0x70 0)) ∧
  (∀ (s : State) (p : Pair) (e : Entry), s.roleActs = false → s.takeLoad p 14 1 = some e → exec (.filterTableLoad p) s = .next
    (s.finish p.val e.sub 0x70 0)) ∧
  (∀ (s : State) (p : Pair) (e : Entry), s.roleActs = false → s.takeParam p 1 7 1 = some e → exec (.urgent p) s = .next
    (s.finish p.val e.sub 0x70 0)) ∧
  (∀ (s : State) (p : Pair) (e : Entry), s.roleActs = false → s.takeParam p 1 7 2 = some e → exec (.rotate p) s = .next
    (s.finish p.val e.sub 0x70 0)) ∧
  (∀ (s : State) (p : Pair) (e : Entry), s.roleActs = false → s.takeParam p 1 7 3 = some e → exec (.calMeasure p) s = .next
    (s.finish p.val e.sub 0x70 0)) ∧
  (∀ (s : State) (p : Pair) (e : Entry), s.roleActs = false → s.takeParam p 1 8 1 = some e → exec (.hsClrFault p) s = .next
    (s.finish p.val e.sub 0x70 0)) ∧
  (∀ (s : State) (p : Pair) (e : Entry), s.roleActs = false → s.takeParam p 1 9 1 = some e → exec (.mireArm p) s = .next
    (s.finish p.val e.sub 0x70 0)) ∧
  (∀ (s : State) (p : Pair) (e : Entry), s.roleActs = false → s.takeParam p 1 9 2 = some e → exec (.force p) s = .next
    (s.finish p.val e.sub 0x70 0)) ∧
  (∀ (s : State) (p : Pair) (e : Entry), s.roleActs = false → s.takeParam p 1 9 3 = some e → exec (.mireStop p) s = .next
    (s.finish p.val e.sub 0x70 0)) ∧
  (∀ (s : State) (p : Pair) (e : Entry), s.roleActs = false → s.takeParam p 1 10 1 = some e → exec (.modeChange p) s = .next
    (s.finish p.val e.sub 0x70 0)) ∧
  (∀ (s : State) (p : Pair) (e : Entry), s.roleActs = false → s.takeParam p 1 14 1 = some e → exec (.hpAck p) s = .next
    (s.finish p.val e.sub 0x70 0)) ∧
  (∀ (s : State) (p : Pair) (e : Entry), s.roleActs = false → s.takeParam p 1 14 2 = some e → exec (.recover p) s = .next
    (s.finish p.val e.sub 0x70 0)) ∧
  (∀ (s : State) (p : Pair) (e : Entry), s.roleActs = false → s.takeParam p 1 14 3 = some e → exec (.gpWrite p) s = .next
    (s.finish p.val e.sub 0x70 0)) ∧
  (∀ (s : State) (p : Pair) (e : Entry), s.roleActs = false → s.takeLoadIn p 7 16 20 = some e → exec (.scanListLoad p) s =
    .next (s.finish p.val e.sub 0x70 0)) ∧
  (∀ (s : State) (p : Pair) (e : Entry), s.roleActs = false → s.takeLoadIn p 10 16 23 = some e → exec (.scheduleLoad p) s =
    .next (s.finish p.val e.sub 0x70 0)) ∧
  (∀ (s : State) (p : Pair) (e : Entry), s.roleActs = false → s.takeOp p.val 3 1 = some e → exec (.loadImage p) s = .next
    (s.finish p.val e.sub 0x70 0)) ∧
  (∀ (s : State) (p : Pair) (e : Entry), s.roleActs = false → s.takeOp p.val 3 2 = some e → exec (.exchange p) s = .next
    (s.finish p.val e.sub 0x70 0)) ∧
  (∀ (s : State) (p : Pair) (e : Entry), s.roleActs = false → s.takeOp p.val 2 3 = some e → exec (.timeSet p) s = .next
    (s.finish p.val e.sub 0x70 0)) ∧
  (∀ (s : State) (p : Pair) (e : Entry) (n k : Nat), s.roleActs = false → s.takeOp p.val 1 1 = some e → tableShape e.tblBlock
    e.tblNum = some (n, k, false) → exec (.readOnlyTableLoad p) s = .next (s.finish p.val e.sub 0x70 0))
end

