-- ==== Sys2Proof/Laws/Frame.lean ====
section
/-! SUPPORT. How frames compose: what State.only says of record updates, of choices, of folds and of one operation after another. -/

namespace Sys2Proof.Machine

/-- Every part of ps is among qs. -/
def covers (qs ps : List Area) : Bool := ps.all qs.contains

theorem State.mask_mono {ps qs : List Area} {s t : State} (h : covers qs ps = true) (e : t.mask ps = s.mask ps) :
    t.mask qs = s.mask qs := by
  have hc (a : Area) (ha : qs.contains a = false) : ps.contains a = false := by
    by_contra hp
    simp only [covers, List.all_eq_true] at h
    simp only [Bool.not_eq_false, List.contains_iff_mem] at hp
    rw [h a hp] at ha
    exact absurd ha (by decide)
  have key {α : Type} (a : Area) (d x y : α) (w : (if ps.contains a then d else x) = if ps.contains a then d else y) :
      (if qs.contains a then d else x) = if qs.contains a then d else y := by
    by_cases ha : qs.contains a = true
    · rw [if_pos ha, if_pos ha]
    · have hp := hc a (Bool.eq_false_iff.mpr ha)
      rw [hp] at w
      rw [if_neg ha, if_neg ha]
      exact w
  simp only [State.mask, State.mk.injEq] at e ⊢
  obtain ⟨e1, e2, e3, e4, e5, e6, e7, e8, e9, e10, e11, e12, e13, e14, e15, e16, e17, e18, e19, e20, e21, e22⟩ := e
  exact ⟨key _ _ _ _ e1, key _ _ _ _ e2, key _ _ _ _ e3, key _ _ _ _ e4, key _ _ _ _ e5, key _ _ _ _ e6,
    key _ _ _ _ e7, key _ _ _ _ e8, key _ _ _ _ e9, key _ _ _ _ e10, key _ _ _ _ e11, key _ _ _ _ e12,
    key _ _ _ _ e13, key _ _ _ _ e14, key _ _ _ _ e15, key _ _ _ _ e16, key _ _ _ _ e17, key _ _ _ _ e18,
    key _ _ _ _ e19, key _ _ _ _ e20, key _ _ _ _ e21, key _ _ _ _ e22⟩

theorem State.only_refl (ps : List Area) (s : State) : State.only ps s s := rfl

theorem State.only_trans {ps : List Area} {s t u : State} (h : State.only ps s t) (g : State.only ps t u) :
    State.only ps s u := Eq.trans g h

theorem State.only_mono {ps qs : List Area} {s t : State} (h : State.only ps s t) (c : covers qs ps = true) :
    State.only qs s t := State.mask_mono c h

/-- A fold whose step changes only ps changes only ps. -/
theorem foldl_mask {α : Type} {ps : List Area} (f : State → α → State) (h : ∀ s x, (f s x).mask ps = s.mask ps)
    (l : List α) (s : State) : (l.foldl f s).mask ps = s.mask ps := by
  induction l generalizing s with
  | nil => rfl
  | cons a l ih => rw [List.foldl_cons, ih, h]

/-- A fold that carries a value beside the State. -/
theorem foldl_mask_fst {α β : Type} {ps : List Area} (f : State × β → α → State × β)
    (h : ∀ x a, (f x a).1.mask ps = x.1.mask ps) (l : List α) (x : State × β) : (l.foldl f x).1.mask ps = x.1.mask ps := by
  induction l generalizing x with
  | nil => rfl
  | cons a l ih => rw [List.foldl_cons, ih, h]

theorem forN_mask {ps : List Area} (n : Nat) (f : Nat → State → State) (h : ∀ i s, (f i s).mask ps = s.mask ps) (s : State) :
    (forN n f s).mask ps = s.mask ps := foldl_mask _ (fun s i => h i s) _ s

/-- The State in which an application of rules ends. -/
def RuleEnd.state : RuleEnd → State
  | .applied t => t
  | .refused t _ => t
  | .powerLost t => t
@[simp] theorem RuleEnd.state_applied (t : State) : (RuleEnd.applied t).state = t := rfl
@[simp] theorem RuleEnd.state_refused (t : State) (v : BitVec 64) : (RuleEnd.refused t v).state = t := rfl
@[simp] theorem RuleEnd.state_powerLost (t : State) : (RuleEnd.powerLost t).state = t := rfl

/-- What a judged change leaves of s: of the changed state where it is accepted, of s where it is refused. -/
def Judged.maskOr (qs : List Area) (s : State) : Judged State → State
  | .ok t => t.mask qs
  | .refused _ _ => s.mask qs

@[simp] theorem Judged.maskOr_ok (qs : List Area) (s t : State) : Judged.maskOr qs s (.ok t) = t.mask qs := rfl
@[simp] theorem Judged.maskOr_refused (qs : List Area) (s : State) (c : Byte) (r : BitVec 64) :
    Judged.maskOr qs s (.refused c r) = s.mask qs := rfl

/-- What a command leaves of s: of the next state where it answers one. -/
def nextMask (qs : List Area) (s : State) : Host.Outcome State Fault Refusal → State
  | .next t => t.mask qs
  | .fault _ => s.mask qs
  | .refused _ => s.mask qs

@[simp] theorem nextMask_next (qs : List Area) (s t : State) : nextMask qs s (.next t) = t.mask qs := rfl
@[simp] theorem nextMask_fault (qs : List Area) (s : State) (r : Fault) : nextMask qs s (.fault r) = s.mask qs := rfl
@[simp] theorem nextMask_refused (qs : List Area) (s : State) (r : Refusal) : nextMask qs s (.refused r) = s.mask qs := rfl

theorem only_of_nextMask {qs : List Area} {s t : State} {o : Host.Outcome State Fault Refusal}
    (h : nextMask qs s o = s.mask qs) (e : o = .next t) : State.only qs s t := by rw [e] at h; exact h

/-- What an operation that may find nothing to do leaves of s. -/
def optMask (qs : List Area) (s : State) : Option State → State
  | some t => t.mask qs
  | none => s.mask qs

@[simp] theorem optMask_some (qs : List Area) (s t : State) : optMask qs s (some t) = t.mask qs := rfl
@[simp] theorem optMask_none (qs : List Area) (s : State) : optMask qs s none = s.mask qs := rfl

theorem mask_of_some {qs : List Area} {s t : State} {o : Option State} (h : optMask qs s o = s.mask qs) (e : o = some t) :
    t.mask qs = s.mask qs := by rw [e] at h; exact h

theorem mask_of_ok {qs : List Area} {s t : State} {o : Judged State} (h : Judged.maskOr qs s o = s.mask qs) (e : o = .ok t) :
    t.mask qs = s.mask qs := by rw [e] at h; exact h

theorem covers_trans {ps qs rs : List Area} (h : covers qs ps = true) (g : covers ps rs = true) : covers qs rs = true := by
  simp only [covers, List.all_eq_true, List.contains_iff_mem] at *
  exact fun x hx => h x (g x hx)

/-! ### The parts that stay -/

theorem State.only_pending {ps : List Area} {s t : State} (h : State.only ps s t) (n : ps.contains .pending = false) : t.pending = s.pending := by
  have e := congrArg State.pending h
  simp only [State.mask, n] at e
  exact e

theorem State.only_regs {ps : List Area} {s t : State} (h : State.only ps s t) (n : ps.contains .regs = false) : t.regs = s.regs := by
  have e := congrArg State.regs h
  simp only [State.mask, n] at e
  exact e

theorem State.only_time {ps : List Area} {s t : State} (h : State.only ps s t) (n : ps.contains .time = false) : t.time = s.time := by
  have e := congrArg State.time h
  simp only [State.mask, n] at e
  exact e

theorem State.only_pw {ps : List Area} {s t : State} (h : State.only ps s t) (n : ps.contains .pw = false) : t.pw = s.pw := by
  have e := congrArg State.pw h
  simp only [State.mask, n] at e
  exact e

theorem State.only_hif {ps : List Area} {s t : State} (h : State.only ps s t) (n : ps.contains .hif = false) : t.hif = s.hif := by
  have e := congrArg State.hif h
  simp only [State.mask, n] at e
  exact e

theorem State.only_stp {ps : List Area} {s t : State} (h : State.only ps s t) (n : ps.contains .stp = false) : t.stp = s.stp := by
  have e := congrArg State.stp h
  simp only [State.mask, n] at e
  exact e

theorem State.only_cmb {ps : List Area} {s t : State} (h : State.only ps s t) (n : ps.contains .cmb = false) : t.cmb = s.cmb := by
  have e := congrArg State.cmb h
  simp only [State.mask, n] at e
  exact e

theorem State.only_blk {ps : List Area} {s t : State} (h : State.only ps s t) (n : ps.contains .blk = false) : t.blk = s.blk := by
  have e := congrArg State.blk h
  simp only [State.mask, n] at e
  exact e

theorem State.only_cnv {ps : List Area} {s t : State} (h : State.only ps s t) (n : ps.contains .cnv = false) : t.cnv = s.cnv := by
  have e := congrArg State.cnv h
  simp only [State.mask, n] at e
  exact e

theorem State.only_fio {ps : List Area} {s t : State} (h : State.only ps s t) (n : ps.contains .fio = false) : t.fio = s.fio := by
  have e := congrArg State.fio h
  simp only [State.mask, n] at e
  exact e

theorem State.only_mir {ps : List Area} {s t : State} (h : State.only ps s t) (n : ps.contains .mir = false) : t.mir = s.mir := by
  have e := congrArg State.mir h
  simp only [State.mask, n] at e
  exact e

theorem State.only_bog {ps : List Area} {s t : State} (h : State.only ps s t) (n : ps.contains .bog = false) : t.bog = s.bog := by
  have e := congrArg State.bog h
  simp only [State.mask, n] at e
  exact e

theorem State.only_wag {ps : List Area} {s t : State} (h : State.only ps s t) (n : ps.contains .wag = false) : t.wag = s.wag := by
  have e := congrArg State.wag h
  simp only [State.mask, n] at e
  exact e

theorem State.only_twn {ps : List Area} {s t : State} (h : State.only ps s t) (n : ps.contains .twn = false) : t.twn = s.twn := by
  have e := congrArg State.twn h
  simp only [State.mask, n] at e
  exact e

theorem State.only_saf {ps : List Area} {s t : State} (h : State.only ps s t) (n : ps.contains .saf = false) : t.saf = s.saf := by
  have e := congrArg State.saf h
  simp only [State.mask, n] at e
  exact e

theorem State.only_drn {ps : List Area} {s t : State} (h : State.only ps s t) (n : ps.contains .drn = false) : t.drn = s.drn := by
  have e := congrArg State.drn h
  simp only [State.mask, n] at e
  exact e

theorem State.only_leg {ps : List Area} {s t : State} (h : State.only ps s t) (n : ps.contains .leg = false) : t.leg = s.leg := by
  have e := congrArg State.leg h
  simp only [State.mask, n] at e
  exact e

theorem State.only_lcy {ps : List Area} {s t : State} (h : State.only ps s t) (n : ps.contains .lcy = false) : t.lcy = s.lcy := by
  have e := congrArg State.lcy h
  simp only [State.mask, n] at e
  exact e

theorem State.only_peat {ps : List Area} {s t : State} (h : State.only ps s t) (n : ps.contains .peat = false) : t.peat = s.peat := by
  have e := congrArg State.peat h
  simp only [State.mask, n] at e
  exact e

theorem State.only_seen {ps : List Area} {s t : State} (h : State.only ps s t) (n : ps.contains .seen = false) : t.seen = s.seen := by
  have e := congrArg State.seen h
  simp only [State.mask, n] at e
  exact e

theorem State.only_out {ps : List Area} {s t : State} (h : State.only ps s t) (n : ps.contains .out = false) : t.out = s.out := by
  have e := congrArg State.out h
  simp only [State.mask, n] at e
  exact e

theorem State.only_freeIdx {ps : List Area} {s t : State} (h : State.only ps s t) (n : ps.contains .freeIdx = false) : t.freeIdx = s.freeIdx := by
  have e := congrArg State.freeIdx h
  simp only [State.mask, n] at e
  exact e

end Sys2Proof.Machine
end

