-- ==== Sys2Proof/Laws/FrameOps.lean ====
section
/-! SUPPORT. Which parts of the State the definitions of Machine/Ops.lean leave alone: one lemma each, for every set of parts
that covers those it changes. -/

set_option linter.unusedSimpArgs false
set_option linter.unreachableTactic false
set_option linter.unusedTactic false

namespace Sys2Proof.Machine

theorem State.mask_blk {qs : List Area} (h : covers qs [.blk] = true) (s : State) (blk' : BlkState) :
    State.mask qs { s with blk := blk' } = State.mask qs s := State.mask_mono h rfl
theorem State.mask_bog {qs : List Area} (h : covers qs [.bog] = true) (s : State) (bog' : List Host.Cell) :
    State.mask qs { s with bog := bog' } = State.mask qs s := State.mask_mono h rfl
theorem State.mask_cmb {qs : List Area} (h : covers qs [.cmb] = true) (s : State) (cmb' : CmbState) :
    State.mask qs { s with cmb := cmb' } = State.mask qs s := State.mask_mono h rfl
theorem State.mask_cmb_cnv {qs : List Area} (h : covers qs [.cmb, .cnv] = true) (s : State) (cmb' : CmbState) (cnv' : CnvState) :
    State.mask qs { s with cmb := cmb', cnv := cnv' } = State.mask qs s := State.mask_mono h rfl
theorem State.mask_cnv {qs : List Area} (h : covers qs [.cnv] = true) (s : State) (cnv' : CnvState) :
    State.mask qs { s with cnv := cnv' } = State.mask qs s := State.mask_mono h rfl
theorem State.mask_cnv_fio {qs : List Area} (h : covers qs [.cnv, .fio] = true) (s : State) (cnv' : CnvState) (fio' : FioState) :
    State.mask qs { s with cnv := cnv', fio := fio' } = State.mask qs s := State.mask_mono h rfl
theorem State.mask_drn {qs : List Area} (h : covers qs [.drn] = true) (s : State) (drn' : DrnState) :
    State.mask qs { s with drn := drn' } = State.mask qs s := State.mask_mono h rfl
theorem State.mask_fio {qs : List Area} (h : covers qs [.fio] = true) (s : State) (fio' : FioState) :
    State.mask qs { s with fio := fio' } = State.mask qs s := State.mask_mono h rfl
theorem State.mask_fio_drn {qs : List Area} (h : covers qs [.fio, .drn] = true) (s : State) (fio' : FioState) (drn' : DrnState) :
    State.mask qs { s with fio := fio', drn := drn' } = State.mask qs s := State.mask_mono h rfl
theorem State.mask_fio_twn {qs : List Area} (h : covers qs [.fio, .twn] = true) (s : State) (fio' : FioState) (twn' : TwnState) :
    State.mask qs { s with fio := fio', twn := twn' } = State.mask qs s := State.mask_mono h rfl
theorem State.mask_fio_wag {qs : List Area} (h : covers qs [.fio, .wag] = true) (s : State) (fio' : FioState) (wag' : WagState) :
    State.mask qs { s with fio := fio', wag := wag' } = State.mask qs s := State.mask_mono h rfl
theorem State.mask_freeIdx {qs : List Area} (h : covers qs [.freeIdx] = true) (s : State) (freeIdx' : Nat) :
    State.mask qs { s with freeIdx := freeIdx' } = State.mask qs s := State.mask_mono h rfl
theorem State.mask_hif {qs : List Area} (h : covers qs [.hif] = true) (s : State) (hif' : HifState) :
    State.mask qs { s with hif := hif' } = State.mask qs s := State.mask_mono h rfl
theorem State.mask_hif_out {qs : List Area} (h : covers qs [.hif, .out] = true) (s : State) (hif' : HifState) (out' : List Output) :
    State.mask qs { s with hif := hif', out := out' } = State.mask qs s := State.mask_mono h rfl
theorem State.mask_lcy {qs : List Area} (h : covers qs [.lcy] = true) (s : State) (lcy' : LcyState) :
    State.mask qs { s with lcy := lcy' } = State.mask qs s := State.mask_mono h rfl
theorem State.mask_leg {qs : List Area} (h : covers qs [.leg] = true) (s : State) (leg' : LegState) :
    State.mask qs { s with leg := leg' } = State.mask qs s := State.mask_mono h rfl
theorem State.mask_mir {qs : List Area} (h : covers qs [.mir] = true) (s : State) (mir' : MirState) :
    State.mask qs { s with mir := mir' } = State.mask qs s := State.mask_mono h rfl
theorem State.mask_out {qs : List Area} (h : covers qs [.out] = true) (s : State) (out' : List Output) :
    State.mask qs { s with out := out' } = State.mask qs s := State.mask_mono h rfl
theorem State.mask_peat {qs : List Area} (h : covers qs [.peat] = true) (s : State) (peat' : PeatState) :
    State.mask qs { s with peat := peat' } = State.mask qs s := State.mask_mono h rfl
theorem State.mask_pending {qs : List Area} (h : covers qs [.pending] = true) (s : State) (pending' : List Instr) :
    State.mask qs { s with pending := pending' } = State.mask qs s := State.mask_mono h rfl
theorem State.mask_pending_regs_time_pw_hif_stp_cmb_blk_cnv_fio_mir_bog_wag_twn_saf_drn_leg_lcy_peat_seen_out_freeIdx {qs : List Area} (h : covers qs [.pending, .regs, .time, .pw, .hif, .stp, .cmb, .blk, .cnv, .fio, .mir, .bog, .wag, .twn, .saf, .drn, .leg, .lcy, .peat, .seen, .out, .freeIdx] = true) (s : State) (pending' : List Instr) (regs' : Sparse Word) (time' : TimeState) (pw' : PowerState) (hif' : HifState) (stp' : StpState) (cmb' : CmbState) (blk' : BlkState) (cnv' : CnvState) (fio' : FioState) (mir' : MirState) (bog' : List Host.Cell) (wag' : WagState) (twn' : TwnState) (saf' : SafState) (drn' : DrnState) (leg' : LegState) (lcy' : LcyState) (peat' : PeatState) (seen' : FieldView) (out' : List Output) (freeIdx' : Nat) :
    State.mask qs { s with pending := pending', regs := regs', time := time', pw := pw', hif := hif', stp := stp', cmb := cmb', blk := blk', cnv := cnv', fio := fio', mir := mir', bog := bog', wag := wag', twn := twn', saf := saf', drn := drn', leg := leg', lcy := lcy', peat := peat', seen := seen', out := out', freeIdx := freeIdx' } = State.mask qs s := State.mask_mono h rfl
theorem State.mask_pw {qs : List Area} (h : covers qs [.pw] = true) (s : State) (pw' : PowerState) :
    State.mask qs { s with pw := pw' } = State.mask qs s := State.mask_mono h rfl
theorem State.mask_pw_bog {qs : List Area} (h : covers qs [.pw, .bog] = true) (s : State) (pw' : PowerState) (bog' : List Host.Cell) :
    State.mask qs { s with pw := pw', bog := bog' } = State.mask qs s := State.mask_mono h rfl
theorem State.mask_pw_cnv_drn {qs : List Area} (h : covers qs [.pw, .cnv, .drn] = true) (s : State) (pw' : PowerState) (cnv' : CnvState) (drn' : DrnState) :
    State.mask qs { s with pw := pw', cnv := cnv', drn := drn' } = State.mask qs s := State.mask_mono h rfl
theorem State.mask_pw_cnv_peat {qs : List Area} (h : covers qs [.pw, .cnv, .peat] = true) (s : State) (pw' : PowerState) (cnv' : CnvState) (peat' : PeatState) :
    State.mask qs { s with pw := pw', cnv := cnv', peat := peat' } = State.mask qs s := State.mask_mono h rfl
theorem State.mask_pw_drn {qs : List Area} (h : covers qs [.pw, .drn] = true) (s : State) (pw' : PowerState) (drn' : DrnState) :
    State.mask qs { s with pw := pw', drn := drn' } = State.mask qs s := State.mask_mono h rfl
theorem State.mask_pw_fio {qs : List Area} (h : covers qs [.pw, .fio] = true) (s : State) (pw' : PowerState) (fio' : FioState) :
    State.mask qs { s with pw := pw', fio := fio' } = State.mask qs s := State.mask_mono h rfl
theorem State.mask_regs {qs : List Area} (h : covers qs [.regs] = true) (s : State) (regs' : Sparse Word) :
    State.mask qs { s with regs := regs' } = State.mask qs s := State.mask_mono h rfl
theorem State.mask_regs_pw_hif {qs : List Area} (h : covers qs [.regs, .pw, .hif] = true) (s : State) (regs' : Sparse Word) (pw' : PowerState) (hif' : HifState) :
    State.mask qs { s with regs := regs', pw := pw', hif := hif' } = State.mask qs s := State.mask_mono h rfl
theorem State.mask_regs_time_pw_stp_cmb_blk_cnv_fio_mir_wag_twn_lcy_seen {qs : List Area} (h : covers qs [.regs, .time, .pw, .stp, .cmb, .blk, .cnv, .fio, .mir, .wag, .twn, .lcy, .seen] = true) (s : State) (regs' : Sparse Word) (time' : TimeState) (pw' : PowerState) (stp' : StpState) (cmb' : CmbState) (blk' : BlkState) (cnv' : CnvState) (fio' : FioState) (mir' : MirState) (wag' : WagState) (twn' : TwnState) (lcy' : LcyState) (seen' : FieldView) :
    State.mask qs { s with regs := regs', time := time', pw := pw', stp := stp', cmb := cmb', blk := blk', cnv := cnv', fio := fio', mir := mir', wag := wag', twn := twn', lcy := lcy', seen := seen' } = State.mask qs s := State.mask_mono h rfl
theorem State.mask_saf {qs : List Area} (h : covers qs [.saf] = true) (s : State) (saf' : SafState) :
    State.mask qs { s with saf := saf' } = State.mask qs s := State.mask_mono h rfl
theorem State.mask_seen {qs : List Area} (h : covers qs [.seen] = true) (s : State) (seen' : FieldView) :
    State.mask qs { s with seen := seen' } = State.mask qs s := State.mask_mono h rfl
theorem State.mask_stp {qs : List Area} (h : covers qs [.stp] = true) (s : State) (stp' : StpState) :
    State.mask qs { s with stp := stp' } = State.mask qs s := State.mask_mono h rfl
theorem State.mask_stp_cmb_blk_fio_wag {qs : List Area} (h : covers qs [.stp, .cmb, .blk, .fio, .wag] = true) (s : State) (stp' : StpState) (cmb' : CmbState) (blk' : BlkState) (fio' : FioState) (wag' : WagState) :
    State.mask qs { s with stp := stp', cmb := cmb', blk := blk', fio := fio', wag := wag' } = State.mask qs s := State.mask_mono h rfl
theorem State.mask_time {qs : List Area} (h : covers qs [.time] = true) (s : State) (time' : TimeState) :
    State.mask qs { s with time := time' } = State.mask qs s := State.mask_mono h rfl
theorem State.mask_time_freeIdx {qs : List Area} (h : covers qs [.time, .freeIdx] = true) (s : State) (time' : TimeState) (freeIdx' : Nat) :
    State.mask qs { s with time := time', freeIdx := freeIdx' } = State.mask qs s := State.mask_mono h rfl
theorem State.mask_time_pw {qs : List Area} (h : covers qs [.time, .pw] = true) (s : State) (time' : TimeState) (pw' : PowerState) :
    State.mask qs { s with time := time', pw := pw' } = State.mask qs s := State.mask_mono h rfl
theorem State.mask_time_pw_cnv_fio_twn_saf_drn_lcy {qs : List Area} (h : covers qs [.time, .pw, .cnv, .fio, .twn, .saf, .drn, .lcy] = true) (s : State) (time' : TimeState) (pw' : PowerState) (cnv' : CnvState) (fio' : FioState) (twn' : TwnState) (saf' : SafState) (drn' : DrnState) (lcy' : LcyState) :
    State.mask qs { s with time := time', pw := pw', cnv := cnv', fio := fio', twn := twn', saf := saf', drn := drn', lcy := lcy' } = State.mask qs s := State.mask_mono h rfl
theorem State.mask_time_pw_hif_stp_cmb_blk_cnv_fio_mir_wag_twn_leg {qs : List Area} (h : covers qs [.time, .pw, .hif, .stp, .cmb, .blk, .cnv, .fio, .mir, .wag, .twn, .leg] = true) (s : State) (time' : TimeState) (pw' : PowerState) (hif' : HifState) (stp' : StpState) (cmb' : CmbState) (blk' : BlkState) (cnv' : CnvState) (fio' : FioState) (mir' : MirState) (wag' : WagState) (twn' : TwnState) (leg' : LegState) :
    State.mask qs { s with time := time', pw := pw', hif := hif', stp := stp', cmb := cmb', blk := blk', cnv := cnv', fio := fio', mir := mir', wag := wag', twn := twn', leg := leg' } = State.mask qs s := State.mask_mono h rfl
theorem State.mask_twn {qs : List Area} (h : covers qs [.twn] = true) (s : State) (twn' : TwnState) :
    State.mask qs { s with twn := twn' } = State.mask qs s := State.mask_mono h rfl
theorem State.mask_wag {qs : List Area} (h : covers qs [.wag] = true) (s : State) (wag' : WagState) :
    State.mask qs { s with wag := wag' } = State.mask qs s := State.mask_mono h rfl

theorem State.countLedger_mask {qs : List Area} (hc : covers qs [.peat] = true) (s : State) (i : Nat) :
    (State.countLedger s i).mask qs = s.mask qs := by
  simp (disch := exact covers_trans hc rfl) only [State.countLedger, State.mask_peat, apply_ite (State.mask qs),
    ite_self]

theorem State.viaHif_mask {qs : List Area} (hc : covers qs [.hif, .out] = true) (s : State) (f : HxCtx → Hx → Hx) :
    (State.viaHif s f).mask qs = s.mask qs := by
  simp (disch := exact covers_trans hc rfl) only [State.viaHif, State.mask_hif_out, apply_ite (State.mask qs),
    ite_self]

theorem State.raise_mask {qs : List Area} (hc : covers qs [.hif, .out] = true) (s : State) (code : Byte)
    (result : BitVec 64) :
    (State.raise s code result).mask qs = s.mask qs := by
  simp (disch := first | exact hc | exact covers_trans hc rfl) only [State.raise, State.viaHif_mask,
    apply_ite (State.mask qs), ite_self]

theorem State.accept_mask {qs : List Area} (hc : covers qs [.hif, .out] = true) (s : State) (p : Nat) (sub : Word) :
    (State.accept s p sub).mask qs = s.mask qs := by
  simp (disch := first | exact hc | exact covers_trans hc rfl) only [State.accept, State.viaHif_mask,
    apply_ite (State.mask qs), ite_self]

theorem State.sendDown_mask {qs : List Area} (hc : covers qs [.fio] = true) (s : State) (it : DownItem) :
    (State.sendDown s it).mask qs = s.mask qs := by
  simp (disch := exact covers_trans hc rfl) only [State.sendDown, State.mask_fio, apply_ite (State.mask qs), ite_self]

theorem State.countLogic_mask {qs : List Area} (hc : covers qs [.fio, .peat] = true) (s : State) (i : Nat) :
    (State.countLogic s i).mask qs = s.mask qs := by
  simp (disch := first | exact hc | exact covers_trans hc rfl) only [State.countLogic, State.sendDown_mask,
    State.countLedger_mask, apply_ite (State.mask qs), ite_self]

theorem State.sendUp_mask {qs : List Area} (hc : covers qs [.fio] = true) (s : State) (it : UpItem) :
    (State.sendUp s it).mask qs = s.mask qs := by
  simp (disch := exact covers_trans hc rfl) only [State.sendUp, State.mask_fio, apply_ite (State.mask qs), ite_self]

theorem State.commandOut_mask {qs : List Area} (hc : covers qs [.fio] = true) (s : State) (it : DownItem) :
    (State.commandOut s it).mask qs = s.mask qs := by
  simp (disch := first | exact hc | exact covers_trans hc rfl) only [State.commandOut, State.sendDown_mask,
    apply_ite (State.mask qs), ite_self]

theorem State.setReg_mask {qs : List Area} (hc : covers qs [.regs] = true) (s : State) (off : Nat) (w : Word) :
    (State.setReg s off w).mask qs = s.mask qs := by
  simp (disch := exact covers_trans hc rfl) only [State.setReg, State.mask_regs, apply_ite (State.mask qs), ite_self]

theorem State.tookFree_mask {qs : List Area} (hc : covers qs [.freeIdx] = true) (s : State) :
    (State.tookFree s).mask qs = s.mask qs := by
  simp (disch := exact covers_trans hc rfl) only [State.tookFree, State.mask_freeIdx, apply_ite (State.mask qs),
    ite_self]

theorem State.hashWrite_mask {qs : List Area} (hc : covers qs [.twn] = true) (s : State) (t : Time) (code : Nat)
    (v : Int) :
    (State.hashWrite s t code v).mask qs = s.mask qs := by
  simp (disch := exact covers_trans hc rfl) only [State.hashWrite, State.mask_twn, apply_ite (State.mask qs),
    ite_self]

theorem State.sendVec_mask {qs : List Area} (hc : covers qs [.hif, .out] = true) (s : State) (v : Nat) :
    (State.sendVec s v).mask qs = s.mask qs := by
  simp (disch := first | exact hc | exact covers_trans hc rfl) only [State.sendVec, State.viaHif_mask,
    apply_ite (State.mask qs), ite_self]

theorem State.setLock_mask {qs : List Area} (hc : covers qs [.time, .hif, .out] = true) (s : State) (base : Nat)
    (v : Bool) :
    (State.setLock s base v).mask qs = s.mask qs := by
  simp (disch := first | exact hc | exact covers_trans hc rfl) only [State.setLock, State.mask_time, State.raise_mask,
    apply_ite (State.mask qs), ite_self]

theorem State.finishWith_mask {qs : List Area} (hc : covers qs [.hif, .out] = true) (s : State) (p : Nat)
    (sub : Word) (code : Byte) (result hi : BitVec 64) :
    (State.finishWith s p sub code result hi).mask qs = s.mask qs := by
  simp (disch := first | exact hc | exact covers_trans hc rfl) only [State.finishWith, State.viaHif_mask,
    apply_ite (State.mask qs), ite_self]

theorem State.finish_mask {qs : List Area} (hc : covers qs [.hif, .out] = true) (s : State) (p : Nat) (sub : Word)
    (code : Byte) (result : BitVec 64) :
    (State.finish s p sub code result).mask qs = s.mask qs := by
  simp (disch := first | exact hc | exact covers_trans hc rfl) only [State.finish, State.finishWith_mask,
    apply_ite (State.mask qs), ite_self]

theorem State.fieldRaise_mask {qs : List Area} (hc : covers qs [.fio] = true) (s : State) (code : Byte)
    (result : BitVec 64) :
    (State.fieldRaise s code result).mask qs = s.mask qs := by
  simp (disch := first | exact hc | exact covers_trans hc rfl) only [State.fieldRaise, State.sendUp_mask,
    apply_ite (State.mask qs), ite_self]

theorem State.postEntry_mask {qs : List Area} (hc : covers qs [.hif, .out] = true) (s : State) (p : Nat) (e : Cpl) :
    (State.postEntry s p e).mask qs = s.mask qs := by
  simp (disch := first | exact hc | exact covers_trans hc rfl) only [State.postEntry, State.viaHif_mask,
    apply_ite (State.mask qs), ite_self]

theorem State.txWrite_mask {qs : List Area} (hc : covers qs [.wag] = true) (s : State) (i : Nat) (v : Int) :
    (State.txWrite s i v).mask qs = s.mask qs := by
  simp (disch := exact covers_trans hc rfl) only [State.txWrite, State.mask_wag, apply_ite (State.mask qs), ite_self]

theorem State.noteLock_mask {qs : List Area} (hc : covers qs [.pw] = true) (s : State) (b : Nat) (changes : Bool) :
    (State.noteLock s b changes).mask qs = s.mask qs := by
  simp (disch := exact covers_trans hc rfl) only [State.noteLock, State.mask_pw, apply_ite (State.mask qs), ite_self]

theorem State.dropEntry_mask {qs : List Area} (hc : covers qs [.hif, .out] = true) (s : State) (p : Nat) (sub : Word) :
    (State.dropEntry s p sub).mask qs = s.mask qs := by
  simp (disch := first | exact hc | exact covers_trans hc rfl) only [State.dropEntry, State.viaHif_mask,
    apply_ite (State.mask qs), ite_self]

theorem State.emitOut_mask {qs : List Area} (hc : covers qs [.out] = true) (s : State) (o : Output) :
    (State.emitOut s o).mask qs = s.mask qs := by
  simp (disch := exact covers_trans hc rfl) only [State.emitOut, State.mask_out, apply_ite (State.mask qs), ite_self]

theorem State.hostWrite_mask {qs : List Area} (hc : covers qs [.out] = true) (s : State) (addr : BitVec 64)
    (b : List Byte) :
    (State.hostWrite s addr b).mask qs = s.mask qs := by
  simp (disch := first | exact hc | exact covers_trans hc rfl) only [State.hostWrite, State.emitOut_mask,
    apply_ite (State.mask qs), ite_self]

theorem State.snapOut_mask {qs : List Area} (hc : covers qs [.out] = true) (s : State) (rec : List Byte) :
    (State.snapOut s rec).mask qs = s.mask qs := by
  simp (disch := first | exact hc | exact covers_trans hc rfl) only [State.snapOut, State.emitOut_mask,
    apply_ite (State.mask qs), ite_self]

theorem State.powerIrq_mask {qs : List Area} (hc : covers qs [.hif, .out] = true) (s : State) :
    (State.powerIrq s).mask qs = s.mask qs := by
  simp (disch := first | exact hc | exact covers_trans hc rfl) only [State.powerIrq, State.sendVec_mask,
    apply_ite (State.mask qs), ite_self]

end Sys2Proof.Machine
end

