-- ==== Sys2Proof/Laws/FrameOperands.lean ====
section
/-! SUPPORT. Which parts of the State the definitions of Machine/Operands.lean leave alone: one lemma each, for every set of parts
that covers those it changes. -/

set_option linter.unusedSimpArgs false
set_option linter.unreachableTactic false
set_option linter.unusedTactic false

namespace Sys2Proof.Machine

theorem State.settle_mask {qs : List Area} (hc : covers qs [.hif, .out] = true) (s : State) (p : Pair) (e : Entry)
    (result : BitVec 64) (j : Judged State) : (s.settle p e result j).mask qs = Judged.maskOr qs s j := by
  cases j <;> simp (disch := first | exact hc | exact covers_trans hc rfl) only [State.settle, State.finish_mask, Judged.maskOr_ok, Judged.maskOr_refused]

theorem State.noteNoncanon_mask {qs : List Area} (hc : covers qs [.hif] = true) (s : State) :
    (State.noteNoncanon s).mask qs = s.mask qs := by
  simp (disch := exact covers_trans hc rfl) only [State.noteNoncanon, State.mask_hif, apply_ite (State.mask qs),
    ite_self]

end Sys2Proof.Machine
end

