-- ==== Sys2Proof/Laws/FrameClaims.lean ====
section
/-! SUPPORT. Which parts of the State the definitions of Machine/Claims.lean leave alone: one lemma each, for every set of parts
that covers those it changes. -/

set_option linter.unusedSimpArgs false
set_option linter.unreachableTactic false
set_option linter.unusedTactic false

namespace Sys2Proof.Machine

theorem State.setClaims_mask {qs : List Area} (hc : covers qs [.fio] = true) (s : State) (cl : List Claim) :
    (State.setClaims s cl).mask qs = s.mask qs := by
  simp (disch := exact covers_trans hc rfl) only [State.setClaims, State.mask_fio, apply_ite (State.mask qs),
    ite_self]

end Sys2Proof.Machine
end

