-- ==== Sys2Proof/Laws/FrameFenGate.lean ====
section
/-! SUPPORT. Which parts of the State the definitions of Machine/FenGate.lean leave alone: one lemma each, for every set of parts
that covers those it changes. -/

set_option linter.unusedSimpArgs false
set_option linter.unreachableTactic false
set_option linter.unusedTactic false

namespace Sys2Proof.Machine

theorem State.settleDacs_mask {qs : List Area} (hc : covers qs [.fio] = true) (s : State) :
    (State.settleDacs s).mask qs = s.mask qs := by
  simp (disch := exact covers_trans hc rfl) only [State.settleDacs, State.mask_fio, apply_ite (State.mask qs),
    ite_self]

theorem State.modHs_mask {qs : List Area} (hc : covers qs [.fio] = true) (s : State) (i : Nat) (f : HsRt → HsRt) :
    (State.modHs s i f).mask qs = s.mask qs := by
  simp (disch := exact covers_trans hc rfl) only [State.modHs, State.mask_fio, apply_ite (State.mask qs), ite_self]

theorem State.modHsOn_mask {qs : List Area} (hc : covers qs [.fio] = true) (s : State) (i : Nat) (f : HsRt → HsRt) :
    (State.modHsOn s i f).mask qs = s.mask qs := by
  simp (disch := first | exact hc | exact covers_trans hc rfl) only [State.modHsOn, State.modHs_mask,
    apply_ite (State.mask qs), ite_self]

theorem State.hsOn_mask {qs : List Area} (hc : covers qs [.fio, .peat] = true) (s : State) (i : Nat) :
    (State.hsOn s i).mask qs = s.mask qs := by
  simp (disch := first | exact hc | exact covers_trans hc rfl) only [State.hsOn, State.mask_peat, State.modHsOn_mask,
    apply_ite (State.mask qs), ite_self]

theorem State.envEvent_mask {qs : List Area} (hc : covers qs [.fio, .saf] = true) (s : State) (row action : Nat) :
    (State.envEvent s row action).mask qs = s.mask qs := by
  simp (disch := first | exact hc | exact covers_trans hc rfl) only [State.envEvent, State.mask_saf,
    State.fieldRaise_mask, apply_ite (State.mask qs), ite_self]

theorem State.hsJudgeOn_mask {qs : List Area} (hc : covers qs [.fio, .saf, .peat] = true) (s : State) (i : Nat)
    (together : List Nat) :
    (State.hsJudgeOn s i together).mask qs = s.mask qs := by
  unfold State.hsJudgeOn
  try dsimp only
  repeat' first
    | with_reducible rfl
    | simp (disch := first | exact hc | exact covers_trans hc rfl) only [State.mask_saf, State.hsOn_mask,
        State.countLedger_mask, State.envEvent_mask, State.modHs_mask, apply_ite (State.mask qs), ite_self]
    | split

theorem State.hsCmdOn_mask {qs : List Area} (hc : covers qs [.fio, .saf, .peat] = true) (s : State) (i : Nat)
    (together : List Nat) :
    (State.hsCmdOn s i together).mask qs = s.mask qs := by
  simp (disch := first | exact hc | exact covers_trans hc rfl) only [State.hsCmdOn, State.hsJudgeOn_mask,
    State.modHs_mask, apply_ite (State.mask qs), ite_self]

theorem State.hsOff_mask {qs : List Area} (hc : covers qs [.fio] = true) (s : State) (i : Nat) :
    (State.hsOff s i).mask qs = s.mask qs := by
  simp (disch := first | exact hc | exact covers_trans hc rfl) only [State.hsOff, State.modHs_mask,
    apply_ite (State.mask qs), ite_self]

theorem State.modDac_mask {qs : List Area} (hc : covers qs [.fio] = true) (s : State) (d : Nat) (f : DacRt → DacRt) :
    (State.modDac s d f).mask qs = s.mask qs := by
  simp (disch := exact covers_trans hc rfl) only [State.modDac, State.mask_fio, apply_ite (State.mask qs), ite_self]

theorem State.dacLeave_mask {qs : List Area} (hc : covers qs [.fio] = true) (s : State) (d : Nat) (t : Time)
    (count : Option Int) :
    (State.dacLeave s d t count).mask qs = s.mask qs := by
  simp (disch := first | exact hc | exact covers_trans hc rfl) only [State.dacLeave, State.sendUp_mask,
    State.modDac_mask, apply_ite (State.mask qs), ite_self]

theorem State.hsRegates_mask {qs : List Area} (hc : covers qs [.fio, .saf, .peat] = true) (s : State) (l : List Nat) :
    (State.hsRegates s l).mask qs = s.mask qs := by
  unfold State.hsRegates
  try dsimp only
  repeat' first
    | with_reducible rfl
    | simp (disch := first | exact hc | exact covers_trans hc rfl) only [State.hsJudgeOn_mask, State.hsOff_mask,
        apply_ite (State.mask qs), ite_self]
    | split
    | with_reducible refine (foldl_mask _ (fun s x => ?_) _ _).trans ?_
    | with_reducible refine (foldl_mask_fst _ (fun x a => ?_) _ _).trans ?_

theorem State.dacDrive_mask {qs : List Area} (hc : covers qs [.fio, .saf] = true) (s : State) (d : Nat) (t : Time) :
    (State.dacDrive s d t).mask qs = s.mask qs := by
  unfold State.dacDrive
  try dsimp only
  repeat' first
    | with_reducible rfl
    | simp (disch := first | exact hc | exact covers_trans hc rfl) only [State.envEvent_mask, State.sendUp_mask,
        State.modDac_mask, apply_ite (State.mask qs), ite_self]
    | split

theorem State.modPul_mask {qs : List Area} (hc : covers qs [.fio] = true) (s : State) (p : Nat) (f : PulRt → PulRt) :
    (State.modPul s p f).mask qs = s.mask qs := by
  simp (disch := exact covers_trans hc rfl) only [State.modPul, State.mask_fio, apply_ite (State.mask qs), ite_self]

theorem State.axisBegin_mask {qs : List Area} (hc : covers qs [.fio] = true) (s : State) (p : Nat)
    (profile : BitVec 128) (target : Int) :
    (State.axisBegin s p profile target).mask qs = s.mask qs := by
  simp (disch := first | exact hc | exact covers_trans hc rfl) only [State.axisBegin, State.modPul_mask,
    apply_ite (State.mask qs), ite_self]

theorem State.axisStop_mask {qs : List Area} (hc : covers qs [.fio] = true) (s : State) (p : Nat) (next : Option
    (BitVec 128 × Int)) :
    (State.axisStop s p next).mask qs = s.mask qs := by
  simp (disch := first | exact hc | exact covers_trans hc rfl) only [State.axisStop, State.modPul_mask,
    State.axisBegin_mask, apply_ite (State.mask qs), ite_self]

theorem State.pulAxis_mask {qs : List Area} (hc : covers qs [.fio, .saf] = true) (s : State) (p profile : Nat)
    (target : Int) :
    (State.pulAxis s p profile target).mask qs = s.mask qs := by
  unfold State.pulAxis
  try dsimp only
  repeat' first
    | with_reducible rfl
    | simp (disch := first | exact hc | exact covers_trans hc rfl) only [State.envEvent_mask, State.modPul_mask,
        State.axisBegin_mask, State.axisStop_mask, apply_ite (State.mask qs), ite_self]
    | split

theorem State.hsRegate_mask {qs : List Area} (hc : covers qs [.fio, .saf, .peat] = true) (s : State) (i : Nat) :
    (State.hsRegate s i).mask qs = s.mask qs := by
  simp (disch := first | exact hc | exact covers_trans hc rfl) only [State.hsRegate, State.hsRegates_mask,
    apply_ite (State.mask qs), ite_self]

theorem State.dacTake_mask {qs : List Area} (hc : covers qs [.fio, .saf] = true) (s : State) (d : Nat) (v : Int)
    (t : Time) :
    (State.dacTake s d v t).mask qs = s.mask qs := by
  simp (disch := first | exact hc | exact covers_trans hc rfl) only [State.dacTake, State.dacDrive_mask,
    State.modDac_mask, apply_ite (State.mask qs), ite_self]

theorem State.hsCmdOff_mask {qs : List Area} (hc : covers qs [.fio] = true) (s : State) (i : Nat) :
    (State.hsCmdOff s i).mask qs = s.mask qs := by
  simp (disch := first | exact hc | exact covers_trans hc rfl) only [State.hsCmdOff, State.modHs_mask,
    State.hsOff_mask, apply_ite (State.mask qs), ite_self]

theorem State.dacRegate_mask {qs : List Area} (hc : covers qs [.fio, .saf] = true) (s : State) (t : Time) (d : Nat) :
    (State.dacRegate s t d).mask qs = s.mask qs := by
  unfold State.dacRegate
  repeat' split
  all_goals first | rfl | simp (disch := first | exact hc | exact covers_trans hc rfl) only [State.dacDrive_mask, State.dacLeave_mask,
      apply_ite (State.mask qs), ite_self]

theorem State.hsCommand_mask {qs : List Area} (hc : covers qs [.fio, .saf, .peat] = true) (s : State) (cmds : List
    (Nat × Bool)) :
    (State.hsCommand s cmds).mask qs = s.mask qs := by
  unfold State.hsCommand
  try dsimp only
  repeat' first
    | with_reducible rfl
    | simp (disch := first | exact hc | exact covers_trans hc rfl) only [State.hsCmdOn_mask, State.hsCmdOff_mask,
        apply_ite (State.mask qs), ite_self]
    | split
    | with_reducible refine (foldl_mask _ (fun s x => ?_) _ _).trans ?_
    | with_reducible refine (foldl_mask_fst _ (fun x a => ?_) _ _).trans ?_

theorem State.pulStop_mask {qs : List Area} (hc : covers qs [.fio] = true) (s : State) (p : Nat) :
    (State.pulStop s p).mask qs = s.mask qs := by
  simp (disch := first | exact hc | exact covers_trans hc rfl) only [State.pulStop, State.modPul_mask,
    apply_ite (State.mask qs), ite_self]

theorem State.pulRegate_mask {qs : List Area} (hc : covers qs [.fio, .saf] = true) (s : State) (p : Nat) :
    (State.pulRegate s p).mask qs = s.mask qs := by
  unfold State.pulRegate
  try dsimp only
  repeat' first
    | with_reducible rfl
    | simp (disch := first | exact hc | exact covers_trans hc rfl) only [State.axisBegin_mask, State.envEvent_mask,
        State.modPul_mask, State.pulStop_mask, apply_ite (State.mask qs), ite_self]
    | split

theorem State.regate_mask {qs : List Area} (hc : covers qs [.fio, .saf, .peat] = true) (s : State) :
    (State.regate s).mask qs = s.mask qs := by
  unfold State.regate
  try dsimp only
  repeat' first
    | with_reducible rfl
    | simp (disch := first | exact hc | exact covers_trans hc rfl) only [State.pulRegate_mask, State.dacRegate_mask,
        State.hsRegates_mask, apply_ite (State.mask qs), ite_self]
    | split
    | with_reducible refine (foldl_mask _ (fun s x => ?_) _ _).trans ?_
    | with_reducible refine (foldl_mask_fst _ (fun x a => ?_) _ _).trans ?_

theorem State.pulRate_mask {qs : List Area} (hc : covers qs [.fio, .saf] = true) (s : State) (p : Nat) (hz : Int) :
    (State.pulRate s p hz).mask qs = s.mask qs := by
  unfold State.pulRate
  try dsimp only
  repeat' first
    | with_reducible rfl
    | simp (disch := first | exact hc | exact covers_trans hc rfl) only [State.envEvent_mask, State.modPul_mask,
        apply_ite (State.mask qs), ite_self]
    | split

end Sys2Proof.Machine
end

