-- ==== Sys2Proof/Laws/FrameFieldIo.lean ====
section
/-! SUPPORT. Which parts of the State the definitions of Machine/FieldIo.lean leave alone: one lemma each, for every set of parts
that covers those it changes. -/

set_option linter.unusedSimpArgs false
set_option linter.unreachableTactic false
set_option linter.unusedTactic false

namespace Sys2Proof.Machine

theorem State.sendFio_mask {qs : List Area} (hc : covers qs [.fio] = true) (s : State) :
    (State.sendFio s).mask qs = s.mask qs := by
  simp (disch := first | exact hc | exact covers_trans hc rfl) only [State.sendFio, State.sendDown_mask,
    apply_ite (State.mask qs), ite_self]

theorem State.loadEnc_mask {qs : List Area} (hc : covers qs [.fio] = true) (s : State) (l : List (Nat × BitVec 64)) :
    Judged.maskOr qs s (State.loadEnc s l) = s.mask qs := by
  unfold State.loadEnc
  repeat' split
  all_goals first | rfl | simp (disch := first | exact hc | exact covers_trans hc rfl) only [State.mask_fio, State.sendFio_mask,
      apply_ite (State.mask qs), ite_self, Judged.maskOr_ok, Judged.maskOr_refused, apply_ite (Judged.maskOr qs s)]

theorem execDutyPeriodStart_mask {qs : List Area} (hc : covers qs [.fio, .saf, .peat] = true) (o : Fin 48) (s : State) :
    nextMask qs s (execDutyPeriodStart o s) = s.mask qs := by
  simp (disch := first | exact hc | exact covers_trans hc rfl) only [execDutyPeriodStart, State.hsCmdOn_mask,
    State.modHs_mask, State.hsCmdOff_mask, apply_ite (State.mask qs), ite_self, apply_ite (nextMask qs s),
    nextMask_next]

theorem execHsDiag_mask {qs : List Area} (hc : covers qs [.hif, .out, .freeIdx] = true) (p : Pair) (s : State) :
    nextMask qs s (execHsDiag p s) = s.mask qs := by
  unfold execHsDiag
  repeat' split
  all_goals first | rfl | simp (disch := first | exact hc | exact covers_trans hc rfl) only [State.tookFree_mask, State.finish_mask,
      apply_ite (State.mask qs), ite_self, apply_ite (nextMask qs s), nextMask_next]

theorem State.takeCapture_mask {qs : List Area} (hc : covers qs [.hif, .fio, .out] = true) (s : State) (e : Nat)
    (pos : Word) (t : Time) :
    (State.takeCapture s e pos t).mask qs = s.mask qs := by
  simp (disch := first | exact hc | exact covers_trans hc rfl) only [State.takeCapture, State.mask_fio,
    State.raise_mask, apply_ite (State.mask qs), ite_self]

theorem execDigitalInputTransition_mask {qs : List Area} (hc : covers qs [.fio] = true) (input : Fin 64)
    (level : Bool) (s : State) :
    nextMask qs s (execDigitalInputTransition input level s) = s.mask qs := by
  simp (disch := exact covers_trans hc rfl) only [execDigitalInputTransition, State.mask_fio,
    apply_ite (State.mask qs), ite_self, apply_ite (nextMask qs s), nextMask_next]

theorem execAxisMoveEnd_mask {qs : List Area} (hc : covers qs [.fio] = true) (axis : Fin 16) (s : State) :
    nextMask qs s (execAxisMoveEnd axis s) = s.mask qs := by
  unfold execAxisMoveEnd
  try dsimp only
  repeat' first
    | with_reducible rfl
    | simp (disch := first | exact hc | exact covers_trans hc rfl) only [State.axisBegin_mask, State.modPul_mask,
        apply_ite (State.mask qs), ite_self, apply_ite (nextMask qs s), nextMask_next]
    | split

theorem State.loadPul_mask {qs : List Area} (hc : covers qs [.fio] = true) (s : State) (l : List (Nat × BitVec 64)) :
    Judged.maskOr qs s (State.loadPul s l) = s.mask qs := by
  simp (disch := first | exact hc | exact covers_trans hc rfl) only [State.loadPul, State.mask_fio,
    State.sendFio_mask, apply_ite (State.mask qs), ite_self, Judged.maskOr_ok, Judged.maskOr_refused,
    apply_ite (Judged.maskOr qs s)]

theorem doPulseTableLoad_mask {qs : List Area} (hc : covers qs [.hif, .fio, .out] = true) (p : Pair) (s : State) :
    nextMask qs s (doPulseTableLoad p s) = s.mask qs := by
  unfold doPulseTableLoad
  repeat' split
  all_goals first | rfl | simp (disch := first | exact hc | exact covers_trans hc rfl) only [State.loadPul_mask, State.settle_mask,
      apply_ite (State.mask qs), ite_self, apply_ite (nextMask qs s), nextMask_next, Judged.maskOr_ok,
      Judged.maskOr_refused]

theorem State.loadHold_mask {qs : List Area} (hc : covers qs [.fio] = true) (s : State) (l : List (Nat × BitVec 64)) :
    Judged.maskOr qs s (State.loadHold s l) = s.mask qs := by
  simp (disch := first | exact hc | exact covers_trans hc rfl) only [State.loadHold, State.mask_fio,
    State.sendDown_mask, apply_ite (State.mask qs), ite_self, Judged.maskOr_ok, Judged.maskOr_refused,
    apply_ite (Judged.maskOr qs s)]

theorem execOnmaxCut_mask {qs : List Area} (hc : covers qs [.fio, .saf, .peat] = true) (o : Fin 48) (s : State) :
    nextMask qs s (execOnmaxCut o s) = s.mask qs := by
  unfold execOnmaxCut
  try dsimp only
  repeat' first
    | with_reducible rfl
    | simp (disch := first | exact hc | exact covers_trans hc rfl) only [State.mask_saf, State.countLedger_mask,
        State.envEvent_mask, State.modHs_mask, State.hsOff_mask, apply_ite (State.mask qs), ite_self,
        apply_ite (nextMask qs s), nextMask_next]
    | split

theorem execRateDelayEnd_mask {qs : List Area} (hc : covers qs [.fio, .saf, .peat] = true) (o : Fin 48) (s : State) :
    nextMask qs s (execRateDelayEnd o s) = s.mask qs := by
  simp (disch := first | exact hc | exact covers_trans hc rfl) only [execRateDelayEnd, State.hsJudgeOn_mask,
    apply_ite (State.mask qs), ite_self, apply_ite (nextMask qs s), nextMask_next]

theorem State.loadProf_mask {qs : List Area} (hc : covers qs [.fio] = true) (s : State) (l : List (Nat × BitVec 128)) :
    Judged.maskOr qs s (State.loadProf s l) = s.mask qs := by
  simp (disch := first | exact hc | exact covers_trans hc rfl) only [State.loadProf, State.mask_fio,
    State.sendFio_mask, apply_ite (State.mask qs), ite_self, Judged.maskOr_ok, Judged.maskOr_refused,
    apply_ite (Judged.maskOr qs s)]

theorem State.loadDi_mask {qs : List Area} (hc : covers qs [.fio] = true) (s : State) (l : List (Nat × BitVec 64)) :
    Judged.maskOr qs s (State.loadDi s l) = s.mask qs := by
  simp (disch := first | exact hc | exact covers_trans hc rfl) only [State.loadDi, State.mask_fio, State.sendFio_mask,
    apply_ite (State.mask qs), ite_self, Judged.maskOr_ok, Judged.maskOr_refused, apply_ite (Judged.maskOr qs s)]

theorem doInputTableLoad_mask {qs : List Area} (hc : covers qs [.hif, .fio, .out] = true) (p : Pair) (s : State) :
    nextMask qs s (doInputTableLoad p s) = s.mask qs := by
  unfold doInputTableLoad
  repeat' split
  all_goals first | rfl | simp (disch := first | exact hc | exact covers_trans hc rfl) only [State.loadDi_mask, State.settle_mask,
      apply_ite (State.mask qs), ite_self, apply_ite (nextMask qs s), nextMask_next, Judged.maskOr_ok,
      Judged.maskOr_refused]

theorem State.loadHs_mask {qs : List Area} (hc : covers qs [.fio] = true) (s : State) (l : List (Nat × BitVec 64)) :
    Judged.maskOr qs s (State.loadHs s l) = s.mask qs := by
  unfold State.loadHs
  try dsimp only
  repeat' first
    | with_reducible rfl
    | simp (disch := first | exact hc | exact covers_trans hc rfl) only [State.mask_fio, State.sendFio_mask,
        apply_ite (State.mask qs), ite_self, Judged.maskOr_ok, Judged.maskOr_refused, apply_ite (Judged.maskOr qs s)]
    | split

theorem execOffminEnd_mask {qs : List Area} (hc : covers qs [.fio, .saf, .peat] = true) (o : Fin 48) (s : State) :
    nextMask qs s (execOffminEnd o s) = s.mask qs := by
  simp (disch := first | exact hc | exact covers_trans hc rfl) only [execOffminEnd, State.hsJudgeOn_mask,
    apply_ite (State.mask qs), ite_self, apply_ite (nextMask qs s), nextMask_next]

theorem State.shiftLatches_mask {qs : List Area} (hc : covers qs [.fio] = true) (s : State) :
    (State.shiftLatches s).mask qs = s.mask qs := by
  simp (disch := exact covers_trans hc rfl) only [State.shiftLatches, State.mask_fio, apply_ite (State.mask qs),
    ite_self]

theorem State.takeEncoders_mask {qs : List Area} (hc : covers qs [.fio, .out] = true) (s : State) (pos : List Word) :
    (State.takeEncoders s pos).mask qs = s.mask qs := by
  unfold State.takeEncoders
  try dsimp only
  repeat' first
    | with_reducible rfl
    | simp (disch := first | exact hc | exact covers_trans hc rfl) only [State.mask_fio, State.snapOut_mask,
        apply_ite (State.mask qs), ite_self]
    | split
    | with_reducible refine (foldl_mask _ (fun s x => ?_) _ _).trans ?_
    | with_reducible refine (foldl_mask_fst _ (fun x a => ?_) _ _).trans ?_

theorem State.takeValves_mask {qs : List Area} (hc : covers qs [.fio, .drn] = true) (s : State)
    (g states mask : Nat) (t : Time) (fromBlock : Bool) :
    (State.takeValves s g states mask t fromBlock).1.mask qs = s.mask qs := by
  unfold State.takeValves
  try dsimp only
  repeat' first
    | with_reducible rfl
    | simp (disch := exact covers_trans hc rfl) only [State.mask_blk, State.mask_bog, State.mask_cmb,
        State.mask_cmb_cnv, State.mask_cnv, State.mask_cnv_fio, State.mask_drn, State.mask_fio, State.mask_fio_drn,
        State.mask_fio_twn, State.mask_fio_wag, State.mask_freeIdx, State.mask_hif, State.mask_hif_out,
        State.mask_lcy, State.mask_leg, State.mask_mir, State.mask_out, State.mask_peat, State.mask_pending,
        State.mask_pw, State.mask_pw_bog, State.mask_pw_cnv_drn, State.mask_pw_cnv_peat, State.mask_pw_drn,
        State.mask_pw_fio, State.mask_regs, State.mask_regs_pw_hif,
        State.mask_regs_time_pw_stp_cmb_blk_cnv_fio_mir_wag_twn_lcy_seen, State.mask_saf, State.mask_seen,
        State.mask_stp, State.mask_stp_cmb_blk_fio_wag, State.mask_time, State.mask_time_freeIdx, State.mask_time_pw,
        State.mask_time_pw_cnv_fio_twn_saf_drn_lcy, State.mask_time_pw_hif_stp_cmb_blk_cnv_fio_mir_wag_twn_leg,
        State.mask_twn, State.mask_wag, apply_ite (State.mask qs), ite_self, apply_ite Prod.fst]
    | split
    | with_reducible refine (foldl_mask _ (fun s x => ?_) _ _).trans ?_
    | with_reducible refine (foldl_mask_fst _ (fun x a => ?_) _ _).trans ?_

theorem State.applyValves_mask {qs : List Area} (hc : covers qs [.fio, .saf, .drn, .peat] = true) (s : State)
    (g states mask : Nat) (t : Time) (fromBlock : Bool) :
    (State.applyValves s g states mask t fromBlock).mask qs = s.mask qs := by
  simp (disch := first | exact hc | exact covers_trans hc rfl) only [State.applyValves, State.hsCommand_mask,
    State.takeValves_mask, apply_ite (State.mask qs), ite_self]

theorem State.applyItem_mask {qs : List Area} (hc : covers qs [.fio, .saf, .drn, .peat] = true) (s : State)
    (it : DownItem) :
    (State.applyItem s it).mask qs = s.mask qs := by
  unfold State.applyItem
  repeat' split
  all_goals first | rfl | simp (disch := first | exact hc | exact covers_trans hc rfl) only [State.mask_fio, State.pulAxis_mask,
      State.pulRate_mask, State.modHs_mask, State.dacTake_mask, State.applyValves_mask, apply_ite (State.mask qs),
      ite_self]

theorem State.takeNow_mask {qs : List Area} (hc : covers qs [.fio, .saf, .drn, .peat] = true) (x : State × List
    (Nat × Bool)) (it : DownItem) :
    (State.takeNow x it).1.mask qs = x.1.mask qs := by
  unfold State.takeNow
  repeat' split
  all_goals first | rfl | simp (disch := first | exact hc | exact covers_trans hc rfl) only [State.applyItem_mask, State.takeValves_mask,
      apply_ite (State.mask qs), ite_self, apply_ite Prod.fst]

theorem State.takeItem_mask {qs : List Area} (hc : covers qs [.fio, .saf, .drn, .peat] = true) (x : State × List
    (Nat × Bool)) (it : DownItem) :
    (State.takeItem x it).1.mask qs = x.1.mask qs := by
  unfold State.takeItem
  repeat' split
  all_goals first | rfl | simp (disch := first | exact hc | exact covers_trans hc rfl) only [State.takeNow_mask, apply_ite (State.mask qs),
      ite_self, apply_ite Prod.fst]

theorem State.tripHs_mask {qs : List Area} (hc : covers qs [.fio, .peat] = true) (s : State) (i cond : Nat) :
    (State.tripHs s i cond).mask qs = s.mask qs := by
  simp (disch := first | exact hc | exact covers_trans hc rfl) only [State.tripHs, State.mask_fio,
    State.countLedger_mask, State.fieldRaise_mask, State.modHs_mask, State.hsOff_mask, apply_ite (State.mask qs),
    ite_self]

theorem State.countEnc_mask {qs : List Area} (hc : covers qs [.fio] = true) (s : State) (n : Nat)
    (readings : List EncReading) (e : Nat) :
    (State.countEnc s n readings e).mask qs = s.mask qs := by
  simp (disch := exact covers_trans hc rfl) only [State.countEnc, State.mask_fio, apply_ite (State.mask qs), ite_self]

theorem doEncoderTableLoad_mask {qs : List Area} (hc : covers qs [.hif, .fio, .out] = true) (p : Pair) (s : State) :
    nextMask qs s (doEncoderTableLoad p s) = s.mask qs := by
  unfold doEncoderTableLoad
  repeat' split
  all_goals first | rfl | simp (disch := first | exact hc | exact covers_trans hc rfl) only [State.loadEnc_mask, State.settle_mask,
      apply_ite (State.mask qs), ite_self, apply_ite (nextMask qs s), nextMask_next, Judged.maskOr_ok,
      Judged.maskOr_refused]

theorem execHsCountsOff_mask {qs : List Area} (hc : covers qs [.fio] = true) (o : Fin 48) (s : State) :
    nextMask qs s (execHsCountsOff o s) = s.mask qs := by
  simp (disch := first | exact hc | exact covers_trans hc rfl) only [execHsCountsOff, State.modHsOn_mask,
    apply_ite (State.mask qs), ite_self, apply_ite (nextMask qs s), nextMask_next]

theorem execFieldOutputInstant_mask {qs : List Area} (hc : covers qs [.fio, .saf, .drn, .peat] = true) (s : State) :
    nextMask qs s (execFieldOutputInstant s) = s.mask qs := by
  unfold execFieldOutputInstant
  try dsimp only
  repeat' first
    | with_reducible rfl
    | simp (disch := first | exact hc | exact covers_trans hc rfl) only [State.mask_fio, State.hsCommand_mask,
        State.takeItem_mask, apply_ite (State.mask qs), ite_self, apply_ite (nextMask qs s), nextMask_next]
    | split
    | with_reducible refine (foldl_mask _ (fun s x => ?_) _ _).trans ?_
    | with_reducible refine (foldl_mask_fst _ (fun x a => ?_) _ _).trans ?_

theorem doHighSideTableLoad_mask {qs : List Area} (hc : covers qs [.hif, .fio, .out] = true) (p : Pair) (s : State) :
    nextMask qs s (doHighSideTableLoad p s) = s.mask qs := by
  unfold doHighSideTableLoad
  repeat' split
  all_goals first | rfl | simp (disch := first | exact hc | exact covers_trans hc rfl) only [State.loadHs_mask, State.settle_mask,
      apply_ite (State.mask qs), ite_self, apply_ite (nextMask qs s), nextMask_next, Judged.maskOr_ok,
      Judged.maskOr_refused]

theorem execEncoderCapture_mask {qs : List Area} (hc : covers qs [.fio] = true) (enc : Fin 16) (zLine : Bool)
    (input : CaptureEdge) (s : State) :
    nextMask qs s (execEncoderCapture enc zLine input s) = s.mask qs := by
  unfold execEncoderCapture
  repeat' split
  all_goals first | rfl | simp (disch := first | exact hc | exact covers_trans hc rfl) only [State.mask_fio, State.sendUp_mask,
      apply_ite (State.mask qs), ite_self, apply_ite (nextMask qs s), nextMask_next]

theorem execHsCondition_mask {qs : List Area} (hc : covers qs [.fio, .peat] = true) (o : Fin 48) (cond : Fin 7)
    (present : Bool) (s : State) :
    nextMask qs s (execHsCondition o cond present s) = s.mask qs := by
  unfold execHsCondition
  try dsimp only
  repeat' first
    | with_reducible rfl
    | simp (disch := first | exact hc | exact covers_trans hc rfl) only [State.tripHs_mask, State.fieldRaise_mask,
        State.modHsOn_mask, apply_ite (State.mask qs), ite_self, apply_ite (nextMask qs s), nextMask_next]
    | split
    | with_reducible refine (foldl_mask _ (fun s x => ?_) _ _).trans ?_
    | with_reducible refine (foldl_mask_fst _ (fun x a => ?_) _ _).trans ?_

theorem doHoldPolicyTableLoad_mask {qs : List Area} (hc : covers qs [.hif, .fio, .out] = true) (p : Pair) (s : State) :
    nextMask qs s (doHoldPolicyTableLoad p s) = s.mask qs := by
  unfold doHoldPolicyTableLoad
  repeat' split
  all_goals first | rfl | simp (disch := first | exact hc | exact covers_trans hc rfl) only [State.loadHold_mask, State.settle_mask,
      apply_ite (State.mask qs), ite_self, apply_ite (nextMask qs s), nextMask_next, Judged.maskOr_ok,
      Judged.maskOr_refused]

theorem State.latchEncs_mask {qs : List Area} (hc : covers qs [.fio] = true) (s : State) (n : Nat)
    (readings : List EncReading) :
    (State.latchEncs s n readings).mask qs = s.mask qs := by
  unfold State.latchEncs
  try dsimp only
  repeat' first
    | with_reducible rfl
    | simp (disch := first | exact hc | exact covers_trans hc rfl) only [State.sendUp_mask, State.countEnc_mask,
        apply_ite (State.mask qs), ite_self]
    | split
    | with_reducible refine (foldl_mask _ (fun s x => ?_) _ _).trans ?_
    | with_reducible refine (foldl_mask_fst _ (fun x a => ?_) _ _).trans ?_

theorem execEncoderFault_mask {qs : List Area} (hc : covers qs [.fio] = true) (enc : Fin 16) (s : State) :
    nextMask qs s (execEncoderFault enc s) = s.mask qs := by
  simp (disch := first | exact hc | exact covers_trans hc rfl) only [execEncoderFault, State.mask_fio,
    State.fieldRaise_mask, apply_ite (State.mask qs), ite_self, apply_ite (nextMask qs s), nextMask_next]

theorem doProfileTableLoad_mask {qs : List Area} (hc : covers qs [.hif, .fio, .out] = true) (p : Pair) (s : State) :
    nextMask qs s (doProfileTableLoad p s) = s.mask qs := by
  unfold doProfileTableLoad
  repeat' split
  all_goals first | rfl | simp (disch := first | exact hc | exact covers_trans hc rfl) only [State.loadProf_mask, State.settle_mask,
      apply_ite (State.mask qs), ite_self, apply_ite (nextMask qs s), nextMask_next, Judged.maskOr_ok,
      Judged.maskOr_refused]

theorem State.clearTrip_mask {qs : List Area} (hc : covers qs [.fio, .saf, .peat] = true) (s : State) (i : Nat) :
    (State.clearTrip s i).mask qs = s.mask qs := by
  simp (disch := first | exact hc | exact covers_trans hc rfl) only [State.clearTrip, State.modHs_mask,
    State.hsRegate_mask, apply_ite (State.mask qs), ite_self]

theorem State.takeHold_mask {qs : List Area} (hc : covers qs [.fio] = true) (s : State) (tab : Sparse (BitVec 64)) :
    (State.takeHold s tab).mask qs = s.mask qs := by
  simp (disch := exact covers_trans hc rfl) only [State.takeHold, State.mask_fio, apply_ite (State.mask qs), ite_self]

theorem execCapRead_mask {qs : List Area} (hc : covers qs [.hif, .fio, .out] = true) (p : Pair) (s : State) :
    nextMask qs s (execCapRead p s) = s.mask qs := by
  unfold execCapRead
  try dsimp only
  repeat' first
    | with_reducible rfl
    | simp (disch := first | exact hc | exact covers_trans hc rfl) only [State.mask_fio, State.finishWith_mask,
        State.finish_mask, apply_ite (State.mask qs), ite_self, apply_ite (nextMask qs s), nextMask_next]
    | split

theorem doHsClrFault_mask {qs : List Area} (hc : covers qs [.hif, .fio, .out] = true) (p : Pair) (s : State) :
    nextMask qs s (doHsClrFault p s) = s.mask qs := by
  unfold doHsClrFault
  repeat' split
  all_goals first | rfl | simp (disch := first | exact hc | exact covers_trans hc rfl) only [State.sendDown_mask, State.finish_mask,
      apply_ite (State.mask qs), ite_self, apply_ite (nextMask qs s), nextMask_next]

end Sys2Proof.Machine
end

