-- ==== Sys2Proof/Laws/FrameDemand.lean ====
section
/-! SUPPORT. Which parts of the State the definitions of Machine/Demand.lean leave alone: one lemma each, for every set of parts
that covers those it changes. -/

set_option linter.unusedSimpArgs false
set_option linter.unreachableTactic false
set_option linter.unusedTactic false

namespace Sys2Proof.Machine

theorem State.pathFault_mask {qs : List Area} (hc : covers qs [.fio, .peat] = true) (s : State) (station bit : Nat) :
    (State.pathFault s station bit).mask qs = s.mask qs := by
  simp (disch := first | exact hc | exact covers_trans hc rfl) only [State.pathFault, State.countLedger_mask,
    State.fieldRaise_mask, apply_ite (State.mask qs), ite_self]

theorem State.setSaf_mask {qs : List Area} (hc : covers qs [.saf] = true) (s : State) (f : SafState) :
    (State.setSaf s f).mask qs = s.mask qs := by
  simp (disch := exact covers_trans hc rfl) only [State.setSaf, State.mask_saf, apply_ite (State.mask qs), ite_self]

theorem State.putGroup_mask {qs : List Area} (hc : covers qs [.fio, .saf, .peat] = true) (s : State) (g : Nat)
    (guard fg : Demand) :
    (State.putGroup s g guard fg).mask qs = s.mask qs := by
  simp (disch := first | exact hc | exact covers_trans hc rfl) only [State.putGroup, State.countLedger_mask,
    State.fieldRaise_mask, State.setSaf_mask, apply_ite (State.mask qs), ite_self]

theorem State.guardPermits_mask {qs : List Area} (hc : covers qs [.fio, .saf, .peat] = true) (s : State) (g : Nat) :
    (State.guardPermits s g).mask qs = s.mask qs := by
  simp (disch := first | exact hc | exact covers_trans hc rfl) only [State.guardPermits, State.fieldRaise_mask,
    State.regate_mask, State.setSaf_mask, apply_ite (State.mask qs), ite_self]

theorem State.putGroups_mask {qs : List Area} (hc : covers qs [.fio, .saf, .peat] = true) (s : State)
    (f : Nat → GroupRt → Demand × Demand) :
    (State.putGroups s f).mask qs = s.mask qs := by
  unfold State.putGroups
  try dsimp only
  repeat' first
    | with_reducible rfl
    | simp (disch := first | exact hc | exact covers_trans hc rfl) only [State.regate_mask, State.putGroup_mask,
        apply_ite (State.mask qs), ite_self]
    | split
    | with_reducible refine (foldl_mask _ (fun s x => ?_) _ _).trans ?_
    | with_reducible refine (foldl_mask_fst _ (fun x a => ?_) _ _).trans ?_

theorem State.safUpdate_mask {qs : List Area} (hc : covers qs [.fio, .saf, .peat] = true) (s : State) :
    (State.safUpdate s).mask qs = s.mask qs := by
  simp (disch := first | exact hc | exact covers_trans hc rfl) only [State.safUpdate, State.putGroups_mask,
    apply_ite (State.mask qs), ite_self]

theorem State.takeCopy_mask {qs : List Area} (hc : covers qs [.fio, .saf, .peat] = true) (s : State) (pair : Bool)
    (b : List Byte) :
    (State.takeCopy s pair b).mask qs = s.mask qs := by
  simp (disch := first | exact hc | exact covers_trans hc rfl) only [State.takeCopy, State.pathFault_mask,
    State.setSaf_mask, State.safUpdate_mask, apply_ite (State.mask qs), ite_self]

theorem State.discrepancy_mask {qs : List Area} (hc : covers qs [.fio, .saf] = true) (s : State) (i : Nat) :
    (State.discrepancy s i).mask qs = s.mask qs := by
  simp (disch := first | exact hc | exact covers_trans hc rfl) only [State.discrepancy, State.setSaf_mask,
    State.fieldRaise_mask, apply_ite (State.mask qs), ite_self]

theorem State.cfgCheck_mask {qs : List Area} (hc : covers qs [.fio, .saf, .peat] = true) (s : State) :
    (State.cfgCheck s).mask qs = s.mask qs := by
  unfold State.cfgCheck
  try dsimp only
  repeat' first
    | with_reducible rfl
    | simp (disch := first | exact hc | exact covers_trans hc rfl) only [State.regate_mask, State.fieldRaise_mask,
        State.putGroups_mask, State.setSaf_mask, State.countLedger_mask, apply_ite (State.mask qs), ite_self]
    | split

end Sys2Proof.Machine
end

