-- ==== Sys2Proof/Laws/FrameConv.lean ====
section
/-! SUPPORT. Which parts of the State the definitions of Machine/Conv.lean leave alone: one lemma each, for every set of parts
that covers those it changes. -/

set_option linter.unusedSimpArgs false
set_option linter.unreachableTactic false
set_option linter.unusedTactic false

namespace Sys2Proof.Machine

theorem State.applyDacTable_mask {qs : List Area} (hc : covers qs [.cnv, .fio, .saf] = true) (s : State) :
    (State.applyDacTable s).mask qs = s.mask qs := by
  unfold State.applyDacTable
  try dsimp only
  repeat' first
    | with_reducible rfl
    | simp (disch := first | exact hc | exact covers_trans hc rfl) only [State.mask_cnv, State.dacTake_mask,
        State.modDac_mask, apply_ite (State.mask qs), ite_self]
    | split
    | with_reducible refine (foldl_mask _ (fun s x => ?_) _ _).trans ?_
    | with_reducible refine (foldl_mask_fst _ (fun x a => ?_) _ _).trans ?_

theorem State.acceptLate_mask {qs : List Area} (hc : covers qs [.hif, .out] = true) (s : State) (p : Pair) (e : Entry)
    (j : Judged State) : (s.acceptLate p e j).mask qs = Judged.maskOr qs s j := by
  cases j <;> simp (disch := first | exact hc | exact covers_trans hc rfl) only [State.acceptLate, State.finish_mask, State.accept_mask, Judged.maskOr_ok, Judged.maskOr_refused]

theorem State.countDrops_mask {qs : List Area} (hc : covers qs [.cnv, .fio] = true) (s : State) (n : Nat) :
    (State.countDrops s n).mask qs = s.mask qs := by
  simp (disch := first | exact hc | exact covers_trans hc rfl) only [State.countDrops, State.mask_cnv,
    State.fieldRaise_mask, apply_ite (State.mask qs), ite_self]

theorem State.pushCal_mask {qs : List Area} (hc : covers qs [.hif, .cnv, .out] = true) (s : State) (p : Pair)
    (e : Entry) (c : CnvState) :
    (State.pushCal s p e c).mask qs = s.mask qs := by
  simp (disch := first | exact hc | exact covers_trans hc rfl) only [State.pushCal, State.mask_cnv, State.accept_mask,
    apply_ite (State.mask qs), ite_self]

theorem doCalMeasure_mask {qs : List Area} (hc : covers qs [.hif, .cnv, .out] = true) (p : Pair) (s : State) :
    nextMask qs s (doCalMeasure p s) = s.mask qs := by
  unfold doCalMeasure
  repeat' split
  all_goals first | rfl | simp (disch := first | exact hc | exact covers_trans hc rfl) only [State.mask_cnv, State.accept_mask,
      State.finish_mask, apply_ite (State.mask qs), ite_self, apply_ite (nextMask qs s), nextMask_next]

theorem doSkewLoad_mask {qs : List Area} (hc : covers qs [.hif, .cnv, .out] = true) (p : Pair) (s : State) :
    nextMask qs s (doSkewLoad p s) = s.mask qs := by
  unfold doSkewLoad
  repeat' split
  all_goals first | rfl | simp (disch := first | exact hc | exact covers_trans hc rfl) only [State.pushCal_mask, apply_ite (State.mask qs),
      ite_self, apply_ite (nextMask qs s), nextMask_next]

theorem State.coefLoad_mask {qs : List Area} (hc : covers qs [.hif, .cnv, .out] = true) (s : State) (p : Pair)
    (e : Entry) (f : Nat → Int) (put : List (Nat × BitVec 256) → CnvState) :
    (State.coefLoad s p e f put).mask qs = s.mask qs := by
  unfold State.coefLoad
  try dsimp only
  repeat' first
    | with_reducible rfl
    | simp (disch := first | exact hc | exact covers_trans hc rfl) only [State.pushCal_mask, State.noteNoncanon_mask,
        State.finish_mask, apply_ite (State.mask qs), ite_self]
    | split

theorem doCoefficientLoad_mask {qs : List Area} (hc : covers qs [.hif, .cnv, .out] = true) (p : Pair) (s : State) :
    nextMask qs s (doCoefficientLoad p s) = s.mask qs := by
  unfold doCoefficientLoad
  repeat' split
  all_goals first | rfl | simp (disch := first | exact hc | exact covers_trans hc rfl) only [State.coefLoad_mask, apply_ite (State.mask qs),
      ite_self, apply_ite (nextMask qs s), nextMask_next]

theorem State.handoverEvent_mask {qs : List Area} (hc : covers qs [.fio] = true) (s : State) (aborted : Bool)
    (g conv : Nat) :
    (State.handoverEvent s aborted g conv).mask qs = s.mask qs := by
  simp (disch := first | exact hc | exact covers_trans hc rfl) only [State.handoverEvent, State.fieldRaise_mask,
    apply_ite (State.mask qs), ite_self]

theorem State.abortHandover_mask {qs : List Area} (hc : covers qs [.cnv, .fio] = true) (s : State) :
    (State.abortHandover s).mask qs = s.mask qs := by
  unfold State.abortHandover
  repeat' split
  all_goals first | rfl | simp (disch := first | exact hc | exact covers_trans hc rfl) only [State.mask_cnv, State.handoverEvent_mask,
      apply_ite (State.mask qs), ite_self]

theorem State.convFault_mask {qs : List Area} (hc : covers qs [.cnv, .fio, .peat] = true) (s : State) (k : Nat) :
    (State.convFault s k).mask qs = s.mask qs := by
  unfold State.convFault
  try dsimp only
  repeat' first
    | with_reducible rfl
    | simp (disch := first | exact hc | exact covers_trans hc rfl) only [State.mask_cnv, State.countLedger_mask,
        State.fieldRaise_mask, State.abortHandover_mask, apply_ite (State.mask qs), ite_self]
    | split

theorem State.crossCheck_mask {qs : List Area} (hc : covers qs [.cnv, .fio] = true) (s : State) (slot : Nat) (v : Int) :
    (State.crossCheck s slot v).mask qs = s.mask qs := by
  unfold State.crossCheck
  repeat' split
  all_goals first | rfl | simp (disch := first | exact hc | exact covers_trans hc rfl) only [State.mask_cnv, State.abortHandover_mask,
      apply_ite (State.mask qs), ite_self]

theorem State.makeWord_mask {qs : List Area} (hc : covers qs [.cnv, .fio] = true) (s : State) (w : Val40)
    (stamp : Time) (list : Option Nat) :
    (State.makeWord s w stamp list).mask qs = s.mask qs := by
  simp (disch := first | exact hc | exact covers_trans hc rfl) only [State.makeWord, State.mask_cnv,
    State.sendUp_mask, apply_ite (State.mask qs), ite_self]

theorem State.convUrgent_mask {qs : List Area} (hc : covers qs [.cnv, .fio, .freeIdx] = true) (s : State)
    (conv l k c : Nat) (code : BitVec 20) (cond : Bool) (t : Time) (spr : Bool) :
    (State.convUrgent s conv l k c code cond t spr).mask qs = s.mask qs := by
  simp (disch := first | exact hc | exact covers_trans hc rfl) only [State.convUrgent, State.mask_cnv,
    State.tookFree_mask, State.makeWord_mask, apply_ite (State.mask qs), ite_self]

theorem State.sendWord_mask {qs : List Area} (hc : covers qs [.cnv, .fio] = true) (s : State) (w : Val40)
    (stamp : Time) :
    (State.sendWord s w stamp).mask qs = s.mask qs := by
  simp (disch := first | exact hc | exact covers_trans hc rfl) only [State.sendWord, State.makeWord_mask,
    apply_ite (State.mask qs), ite_self]

theorem State.dropEntryWord_mask {qs : List Area} (hc : covers qs [.cnv, .fio] = true) (s : State) (l e : Nat)
    (t : Time) :
    (State.dropEntryWord s l e t).mask qs = s.mask qs := by
  simp (disch := first | exact hc | exact covers_trans hc rfl) only [State.dropEntryWord, State.mask_cnv,
    State.sendWord_mask, apply_ite (State.mask qs), ite_self]

theorem State.convEntry_mask {qs : List Area} (hc : covers qs [.cnv, .fio, .freeIdx] = true) (s : State)
    (conv l e : Nat) (code : BitVec 20) (cond : Bool) (t : Time) (spr : Bool) :
    (State.convEntry s conv l e code cond t spr).mask qs = s.mask qs := by
  simp (disch := first | exact hc | exact covers_trans hc rfl) only [State.convEntry, State.mask_cnv,
    State.tookFree_mask, State.sendWord_mask, State.dropEntryWord_mask, apply_ite (State.mask qs), ite_self]

theorem State.convertSlot_mask {qs : List Area} (hc : covers qs [.cnv, .fio, .freeIdx] = true) (s : State)
    (k slot : Nat) (code : BitVec 20) (cond : Bool) :
    (State.convertSlot s k slot code cond).mask qs = s.mask qs := by
  unfold State.convertSlot
  try dsimp only
  repeat' first
    | with_reducible rfl
    | simp (disch := first | exact hc | exact covers_trans hc rfl) only [State.crossCheck_mask, State.convUrgent_mask,
        State.convEntry_mask, apply_ite (State.mask qs), ite_self]
    | split

theorem State.loadChan_mask {qs : List Area} (hc : covers qs [.cnv] = true) (s : State) (l : List (Nat × BitVec 64)) :
    Judged.maskOr qs s (State.loadChan s l) = s.mask qs := by
  unfold State.loadChan
  try dsimp only
  repeat' first
    | with_reducible rfl
    | simp (disch := exact covers_trans hc rfl) only [State.mask_cnv, apply_ite (State.mask qs), ite_self,
        Judged.maskOr_ok, Judged.maskOr_refused, apply_ite (Judged.maskOr qs s)]
    | split

theorem State.missConversions_mask {qs : List Area} (hc : covers qs [.cnv, .fio] = true) (s : State) (l n e : Nat)
    (x : BitVec 64) :
    (State.missConversions s l n e x).mask qs = s.mask qs := by
  simp (disch := first | exact hc | exact covers_trans hc rfl) only [State.missConversions, State.mask_cnv,
    State.dropEntryWord_mask, apply_ite (State.mask qs), ite_self]

theorem State.missDue_mask {qs : List Area} (hc : covers qs [.cnv, .fio] = true) (s : State) (n : Nat) (t : Time) :
    (State.missDue s n t).mask qs = s.mask qs := by
  unfold State.missDue
  try dsimp only
  repeat' first
    | with_reducible rfl
    | simp (disch := first | exact hc | exact covers_trans hc rfl) only [State.missConversions_mask,
        apply_ite (State.mask qs), ite_self]
    | split
    | with_reducible refine (foldl_mask _ (fun s x => ?_) _ _).trans ?_
    | with_reducible refine (foldl_mask_fst _ (fun x a => ?_) _ _).trans ?_

theorem State.sendScans_mask {qs : List Area} (hc : covers qs [.fio] = true) (s : State) :
    (State.sendScans s).mask qs = s.mask qs := by
  simp (disch := first | exact hc | exact covers_trans hc rfl) only [State.sendScans, State.sendDown_mask,
    apply_ite (State.mask qs), ite_self]

theorem State.pushScan_mask {qs : List Area} (hc : covers qs [.cnv, .fio] = true) (s : State) (p : Pair) (e : Entry)
    (list : Option Nat) :
    (State.pushScan s p e list).mask qs = s.mask qs := by
  simp (disch := first | exact hc | exact covers_trans hc rfl) only [State.pushScan, State.mask_cnv,
    State.sendScans_mask, apply_ite (State.mask qs), ite_self]

theorem State.startHandover_mask {qs : List Area} (hc : covers qs [.cnv] = true) (s : State) (g : Nat) :
    Judged.maskOr qs s (State.startHandover s g) = s.mask qs := by
  unfold State.startHandover
  repeat' split
  all_goals first | rfl | simp (disch := exact covers_trans hc rfl) only [State.mask_cnv, apply_ite (State.mask qs), ite_self, Judged.maskOr_ok,
      Judged.maskOr_refused, apply_ite (Judged.maskOr qs s)]

theorem execRotationInterval_mask {qs : List Area} (hc : covers qs [.cnv] = true) (s : State) :
    nextMask qs s (execRotationInterval s) = s.mask qs := by
  unfold execRotationInterval
  try dsimp only
  repeat' first
    | with_reducible rfl
    | simp (disch := first | exact hc | exact covers_trans hc rfl) only [State.startHandover_mask,
        apply_ite (State.mask qs), ite_self, apply_ite (nextMask qs s), nextMask_next, Judged.maskOr_ok,
        Judged.maskOr_refused]
    | split
    | with_reducible refine (mask_of_ok (State.startHandover_mask (by first | exact hc | exact covers_trans hc rfl) _ _) (by assumption)).trans ?_

theorem State.loadDac_mask {qs : List Area} (hc : covers qs [.cnv, .fio] = true) (s : State) (l : List
    (Nat × BitVec 64)) :
    Judged.maskOr qs s (State.loadDac s l) = s.mask qs := by
  unfold State.loadDac
  repeat' split
  all_goals first | rfl | simp (disch := first | exact hc | exact covers_trans hc rfl) only [State.mask_cnv, State.sendFio_mask,
      apply_ite (State.mask qs), ite_self, Judged.maskOr_ok, Judged.maskOr_refused, apply_ite (Judged.maskOr qs s)]

theorem State.applyCal_mask {qs : List Area} (hc : covers qs [.hif, .cnv, .out] = true) (s : State) :
    (State.applyCal s).mask qs = s.mask qs := by
  unfold State.applyCal
  try dsimp only
  repeat' first
    | with_reducible rfl
    | simp (disch := first | exact hc | exact covers_trans hc rfl) only [State.mask_cnv, State.finish_mask,
        apply_ite (State.mask qs), ite_self]
    | split
    | with_reducible refine (foldl_mask _ (fun s x => ?_) _ _).trans ?_
    | with_reducible refine (foldl_mask_fst _ (fun x a => ?_) _ _).trans ?_

theorem State.requestUrgent_mask {qs : List Area} (hc : covers qs [.cnv, .fio] = true) (s : State) (c l : Nat) :
    Judged.maskOr qs s (State.requestUrgent s c l) = s.mask qs := by
  simp (disch := first | exact hc | exact covers_trans hc rfl) only [State.requestUrgent, State.mask_cnv,
    State.sendDown_mask, apply_ite (State.mask qs), ite_self, Judged.maskOr_ok, Judged.maskOr_refused,
    apply_ite (Judged.maskOr qs s)]

theorem State.loadList_mask {qs : List Area} (hc : covers qs [.cnv] = true) (s : State) (l : Nat) (es : List
    (Nat × BitVec 64)) :
    Judged.maskOr qs s (State.loadList s l es) = s.mask qs := by
  unfold State.loadList
  try dsimp only
  repeat' first
    | with_reducible rfl
    | simp (disch := exact covers_trans hc rfl) only [State.mask_cnv, apply_ite (State.mask qs), ite_self,
        Judged.maskOr_ok, Judged.maskOr_refused, apply_ite (Judged.maskOr qs s)]
    | split

theorem doScanListLoad_mask {qs : List Area} (hc : covers qs [.hif, .cnv, .fio, .out] = true) (p : Pair) (s : State) :
    nextMask qs s (doScanListLoad p s) = s.mask qs := by
  unfold doScanListLoad
  try dsimp only
  repeat' first
    | with_reducible rfl
    | simp (disch := first | exact hc | exact covers_trans hc rfl) only [State.pushScan_mask, State.loadList_mask,
        State.acceptLate_mask, apply_ite (State.mask qs), ite_self, apply_ite (nextMask qs s), nextMask_next,
        Judged.maskOr_ok, Judged.maskOr_refused]
    | split
    | with_reducible refine (mask_of_ok (State.loadList_mask (by first | exact hc | exact covers_trans hc rfl) _ _ _) (by assumption)).trans ?_

theorem State.convPattern_mask {qs : List Area} (hc : covers qs [.hif, .cnv, .out] = true) (s : State) :
    (State.convPattern s).mask qs = s.mask qs := by
  unfold State.convPattern
  try dsimp only
  repeat' first
    | with_reducible rfl
    | simp (disch := first | exact hc | exact covers_trans hc rfl) only [State.mask_cnv, State.finish_mask,
        apply_ite (State.mask qs), ite_self]
    | split
    | with_reducible refine (foldl_mask _ (fun s x => ?_) _ _).trans ?_
    | with_reducible refine (foldl_mask_fst _ (fun x a => ?_) _ _).trans ?_

theorem execConverterClrFault_mask {qs : List Area} (hc : covers qs [.cnv] = true) (conv : Fin 5) (s : State) :
    nextMask qs s (execConverterClrFault conv s) = s.mask qs := by
  simp (disch := exact covers_trans hc rfl) only [execConverterClrFault, State.mask_cnv, apply_ite (State.mask qs),
    ite_self, apply_ite (nextMask qs s), nextMask_next]

theorem execSelfCalibrationEnd_mask {qs : List Area} (hc : covers qs [.cnv, .fio, .peat] = true) (conv : Fin 5)
    (codes : SelfCalCodes) (s : State) :
    nextMask qs s (execSelfCalibrationEnd conv codes s) = s.mask qs := by
  unfold execSelfCalibrationEnd
  try dsimp only
  repeat' first
    | with_reducible rfl
    | simp (disch := first | exact hc | exact covers_trans hc rfl) only [State.mask_cnv, State.handoverEvent_mask,
        State.convFault_mask, apply_ite (State.mask qs), ite_self, apply_ite (nextMask qs s), nextMask_next]
    | split

theorem execSampleRead_mask {qs : List Area} (hc : covers qs [.hif, .out] = true) (p : Pair) (s : State) :
    nextMask qs s (execSampleRead p s) = s.mask qs := by
  unfold execSampleRead
  repeat' split
  all_goals first | rfl | simp (disch := first | exact hc | exact covers_trans hc rfl) only [State.finish_mask, apply_ite (State.mask qs),
      ite_self, apply_ite (nextMask qs s), nextMask_next]

theorem State.convCheck_mask {qs : List Area} (hc : covers qs [.cnv, .fio, .peat] = true) (s : State) (k : Nat)
    (fail : Bool) :
    (State.convCheck s k fail).mask qs = s.mask qs := by
  simp (disch := first | exact hc | exact covers_trans hc rfl) only [State.convCheck, State.mask_cnv,
    State.convFault_mask, apply_ite (State.mask qs), ite_self]

theorem doDacCoefficientLoad_mask {qs : List Area} (hc : covers qs [.hif, .cnv, .out] = true) (p : Pair) (s : State) :
    nextMask qs s (doDacCoefficientLoad p s) = s.mask qs := by
  unfold doDacCoefficientLoad
  repeat' split
  all_goals first | rfl | simp (disch := first | exact hc | exact covers_trans hc rfl) only [State.coefLoad_mask, apply_ite (State.mask qs),
      ite_self, apply_ite (nextMask qs s), nextMask_next]

theorem State.startLists_mask {qs : List Area} (hc : covers qs [.hif, .cnv, .out] = true) (s : State) :
    (State.startLists s).mask qs = s.mask qs := by
  simp (disch := first | exact hc | exact covers_trans hc rfl) only [State.startLists, State.mask_cnv,
    State.convPattern_mask, apply_ite (State.mask qs), ite_self]

theorem doRotate_mask {qs : List Area} (hc : covers qs [.hif, .cnv, .out] = true) (p : Pair) (s : State) :
    nextMask qs s (doRotate p s) = s.mask qs := by
  unfold doRotate
  repeat' split
  all_goals first | rfl | simp (disch := first | exact hc | exact covers_trans hc rfl) only [State.startHandover_mask, State.settle_mask,
      State.finish_mask, apply_ite (State.mask qs), ite_self, apply_ite (nextMask qs s), nextMask_next,
      Judged.maskOr_ok, Judged.maskOr_refused]

theorem execCalMeasureEnd_mask {qs : List Area} (hc : covers qs [.hif, .cnv, .out] = true) (codes : List
    (BitVec 20)) (s : State) :
    nextMask qs s (execCalMeasureEnd codes s) = s.mask qs := by
  unfold execCalMeasureEnd
  try dsimp only
  repeat' first
    | with_reducible rfl
    | simp (disch := first | exact hc | exact covers_trans hc rfl) only [State.mask_cnv, State.finish_mask,
        apply_ite (State.mask qs), ite_self, apply_ite (nextMask qs s), nextMask_next]
    | split
    | with_reducible refine (foldl_mask _ (fun s x => ?_) _ _).trans ?_
    | with_reducible refine (foldl_mask_fst _ (fun x a => ?_) _ _).trans ?_

theorem doUrgent_mask {qs : List Area} (hc : covers qs [.hif, .cnv, .fio, .out] = true) (p : Pair) (s : State) :
    nextMask qs s (doUrgent p s) = s.mask qs := by
  unfold doUrgent
  repeat' split
  all_goals first | rfl | simp (disch := first | exact hc | exact covers_trans hc rfl) only [State.requestUrgent_mask, State.settle_mask,
      State.finish_mask, apply_ite (State.mask qs), ite_self, apply_ite (nextMask qs s), nextMask_next,
      Judged.maskOr_ok, Judged.maskOr_refused]

theorem State.stepHandover_mask {qs : List Area} (hc : covers qs [.cnv, .fio] = true) (s : State) (n : Nat) :
    (State.stepHandover s n).mask qs = s.mask qs := by
  unfold State.stepHandover
  repeat' split
  all_goals first | rfl | simp (disch := first | exact hc | exact covers_trans hc rfl) only [State.mask_cnv, State.handoverEvent_mask,
      State.abortHandover_mask, apply_ite (State.mask qs), ite_self]

theorem State.startConvPeriod_mask {qs : List Area} (hc : covers qs [.hif, .cnv, .fio, .out] = true) (s : State)
    (n : Nat) :
    (State.startConvPeriod s n).mask qs = s.mask qs := by
  simp (disch := first | exact hc | exact covers_trans hc rfl) only [State.startConvPeriod, State.mask_cnv,
    State.startLists_mask, State.stepHandover_mask, apply_ite (State.mask qs), ite_self]

theorem doChannelTableLoad_mask {qs : List Area} (hc : covers qs [.hif, .cnv, .fio, .out] = true) (p : Pair)
    (s : State) :
    nextMask qs s (doChannelTableLoad p s) = s.mask qs := by
  unfold doChannelTableLoad
  try dsimp only
  repeat' first
    | with_reducible rfl
    | simp (disch := first | exact hc | exact covers_trans hc rfl) only [State.pushScan_mask, State.loadChan_mask,
        State.acceptLate_mask, apply_ite (State.mask qs), ite_self, apply_ite (nextMask qs s), nextMask_next,
        Judged.maskOr_ok, Judged.maskOr_refused]
    | split
    | with_reducible refine (mask_of_ok (State.loadChan_mask (by first | exact hc | exact covers_trans hc rfl) _ _) (by assumption)).trans ?_

theorem State.endListPeriod_mask {qs : List Area} (hc : covers qs [.cnv, .fio] = true) (n : Nat) (t : Time)
    (x : State × Nat) (l : Nat) :
    (State.endListPeriod n t x l).1.mask qs = x.1.mask qs := by
  unfold State.endListPeriod
  try dsimp only
  repeat' first
    | with_reducible rfl
    | simp (disch := first | exact hc | exact covers_trans hc rfl) only [State.dropEntryWord_mask,
        State.missConversions_mask, apply_ite (State.mask qs), ite_self, apply_ite Prod.fst]
    | split
    | with_reducible refine (foldl_mask _ (fun s x => ?_) _ _).trans ?_
    | with_reducible refine (foldl_mask_fst _ (fun x a => ?_) _ _).trans ?_

theorem doDacTableLoad_mask {qs : List Area} (hc : covers qs [.hif, .cnv, .fio, .out] = true) (p : Pair) (s : State) :
    nextMask qs s (doDacTableLoad p s) = s.mask qs := by
  unfold doDacTableLoad
  repeat' split
  all_goals first | rfl | simp (disch := first | exact hc | exact covers_trans hc rfl) only [State.loadDac_mask, State.settle_mask,
      apply_ite (State.mask qs), ite_self, apply_ite (nextMask qs s), nextMask_next, Judged.maskOr_ok,
      Judged.maskOr_refused]

theorem execCalMean_mask {qs : List Area} (hc : covers qs [.hif, .out] = true) (p : Pair) (s : State) :
    nextMask qs s (execCalMean p s) = s.mask qs := by
  unfold execCalMean
  repeat' split
  all_goals first | rfl | simp (disch := first | exact hc | exact covers_trans hc rfl) only [State.finish_mask, apply_ite (State.mask qs),
      ite_self, apply_ite (nextMask qs s), nextMask_next]

theorem State.endConvPeriod_mask {qs : List Area} (hc : covers qs [.cnv, .fio] = true) (s : State) (n : Nat)
    (t : Time) :
    (State.endConvPeriod s n t).mask qs = s.mask qs := by
  unfold State.endConvPeriod
  try dsimp only
  repeat' first
    | with_reducible rfl
    | simp (disch := first | exact hc | exact covers_trans hc rfl) only [State.mask_cnv, State.countDrops_mask,
        State.endListPeriod_mask, apply_ite (State.mask qs), ite_self]
    | split
    | with_reducible refine (foldl_mask _ (fun s x => ?_) _ _).trans ?_
    | with_reducible refine (foldl_mask_fst _ (fun x a => ?_) _ _).trans ?_

theorem execCalSpread_mask {qs : List Area} (hc : covers qs [.hif, .out] = true) (p : Pair) (s : State) :
    nextMask qs s (execCalSpread p s) = s.mask qs := by
  unfold execCalSpread
  repeat' split
  all_goals first | rfl | simp (disch := first | exact hc | exact covers_trans hc rfl) only [State.finish_mask, apply_ite (State.mask qs),
      ite_self, apply_ite (nextMask qs s), nextMask_next]

end Sys2Proof.Machine
end

