-- ==== Sys2Proof/Laws/FrameCombRecord.lean ====
section
/-! SUPPORT. Which parts of the State the definitions of Machine/CombRecord.lean leave alone: one lemma each, for every set of parts
that covers those it changes. -/

set_option linter.unusedSimpArgs false
set_option linter.unreachableTactic false
set_option linter.unusedTactic false

namespace Sys2Proof.Machine

theorem State.dropSlotClaims_mask {qs : List Area} (hc : covers qs [.fio] = true) (s : State) (k : Nat) :
    (State.dropSlotClaims s k).mask qs = s.mask qs := by
  simp (disch := first | exact hc | exact covers_trans hc rfl) only [State.dropSlotClaims, State.setClaims_mask,
    apply_ite (State.mask qs), ite_self]

theorem State.modSlot_mask {qs : List Area} (hc : covers qs [.cmb] = true) (s : State) (k : Nat) (f : SlotRt → SlotRt) :
    (State.modSlot s k f).mask qs = s.mask qs := by
  simp (disch := exact covers_trans hc rfl) only [State.modSlot, State.mask_cmb, apply_ite (State.mask qs), ite_self]

theorem State.recordDone_mask {qs : List Area} (hc : covers qs [.cmb] = true) (s : State) (id : Nat)
    (sup : Option Nat) :
    (State.recordDone s id sup).mask qs = s.mask qs := by
  simp (disch := exact covers_trans hc rfl) only [State.recordDone, State.mask_cmb, apply_ite (State.mask qs),
    ite_self]

theorem State.pendModelRec_mask {qs : List Area} (hc : covers qs [.cmb] = true) (s : State) (id : Nat)
    (x : Nat × BitVec 512) :
    (State.pendModelRec s id x).mask qs = s.mask qs := by
  unfold State.pendModelRec
  try dsimp only
  repeat' first
    | with_reducible rfl
    | simp (disch := first | exact hc | exact covers_trans hc rfl) only [State.modSlot_mask, State.recordDone_mask,
        apply_ite (State.mask qs), ite_self]
    | split

theorem State.settleLoads_mask {qs : List Area} (hc : covers qs [.hif, .cmb, .out] = true) (s : State) :
    (State.settleLoads s).mask qs = s.mask qs := by
  unfold State.settleLoads
  try dsimp only
  repeat' first
    | with_reducible rfl
    | simp (disch := first | exact hc | exact covers_trans hc rfl) only [State.mask_cmb, State.finish_mask,
        apply_ite (State.mask qs), ite_self]
    | split
    | with_reducible refine (foldl_mask _ (fun s x => ?_) _ _).trans ?_
    | with_reducible refine (foldl_mask_fst _ (fun x a => ?_) _ _).trans ?_

theorem doModelTableLoad_mask {qs : List Area} (hc : covers qs [.hif, .cmb, .out] = true) (p : Pair) (s : State) :
    nextMask qs s (doModelTableLoad p s) = s.mask qs := by
  unfold doModelTableLoad
  try dsimp only
  repeat' first
    | with_reducible rfl
    | simp (disch := first | exact hc | exact covers_trans hc rfl) only [State.mask_cmb, State.pendModelRec_mask,
        State.accept_mask, State.settleLoads_mask, State.noteNoncanon_mask, State.finish_mask,
        apply_ite (State.mask qs), ite_self, apply_ite (nextMask qs s), nextMask_next]
    | split
    | with_reducible refine (foldl_mask _ (fun s x => ?_) _ _).trans ?_
    | with_reducible refine (foldl_mask_fst _ (fun x a => ?_) _ _).trans ?_

theorem State.pendRecord_mask {qs : List Area} (hc : covers qs [.cmb] = true) (s : State) (id : Nat)
    (x : Nat × BitVec 1280) :
    (State.pendRecord s id x).mask qs = s.mask qs := by
  unfold State.pendRecord
  try dsimp only
  repeat' first
    | with_reducible rfl
    | simp (disch := first | exact hc | exact covers_trans hc rfl) only [State.modSlot_mask, State.recordDone_mask,
        apply_ite (State.mask qs), ite_self]
    | split

theorem doMicroprogramLoad_mask {qs : List Area} (hc : covers qs [.hif, .cmb, .out] = true) (p : Pair) (s : State) :
    nextMask qs s (doMicroprogramLoad p s) = s.mask qs := by
  unfold doMicroprogramLoad
  try dsimp only
  repeat' first
    | with_reducible rfl
    | simp (disch := first | exact hc | exact covers_trans hc rfl) only [State.mask_cmb, State.finish_mask,
        apply_ite (State.mask qs), ite_self, apply_ite (nextMask qs s), nextMask_next]
    | split

theorem State.acceptSlots_mask {qs : List Area} (hc : covers qs [.hif, .cmb, .fio, .out] = true) (s : State)
    (p : Pair) (sub : Word) (l : List (Nat × BitVec 1280)) (cl : List Claim) (ds : List Disp) (peak : Nat) :
    (State.acceptSlots s p sub l cl ds peak).mask qs = s.mask qs := by
  unfold State.acceptSlots
  try dsimp only
  repeat' first
    | with_reducible rfl
    | simp (disch := first | exact hc | exact covers_trans hc rfl) only [State.mask_cmb, State.accept_mask,
        State.settleLoads_mask, State.dropSlotClaims_mask, State.pendRecord_mask, State.modSlot_mask,
        State.setClaims_mask, apply_ite (State.mask qs), ite_self]
    | split
    | with_reducible refine (foldl_mask _ (fun s x => ?_) _ _).trans ?_
    | with_reducible refine (foldl_mask_fst _ (fun x a => ?_) _ _).trans ?_

theorem doSlotTableLoad_mask {qs : List Area} (hc : covers qs [.hif, .cmb, .fio, .out] = true) (p : Pair) (s : State) :
    nextMask qs s (doSlotTableLoad p s) = s.mask qs := by
  unfold doSlotTableLoad
  try dsimp only
  repeat' first
    | with_reducible rfl
    | simp (disch := first | exact hc | exact covers_trans hc rfl) only [State.acceptSlots_mask,
        State.noteNoncanon_mask, State.finish_mask, apply_ite (State.mask qs), ite_self, apply_ite (nextMask qs s),
        nextMask_next]
    | split

theorem execCmbClassWrite_mask {qs : List Area} (hc : covers qs [.regs, .pw, .cmb] = true) (c : Fin 8) (w : Word)
    (s : State) :
    nextMask qs s (execCmbClassWrite c w s) = s.mask qs := by
  simp (disch := first | exact hc | exact covers_trans hc rfl) only [execCmbClassWrite, State.mask_cmb,
    State.setReg_mask, State.noteLock_mask, apply_ite (State.mask qs), ite_self, apply_ite (nextMask qs s),
    nextMask_next]

end Sys2Proof.Machine
end

