-- ==== Sys2Proof/Laws/FramePhase.lean ====
section
/-! SUPPORT. Which parts of the State the definitions of Machine/Phase.lean leave alone: one lemma each, for every set of parts
that covers those it changes. -/

set_option linter.unusedSimpArgs false
set_option linter.unreachableTactic false
set_option linter.unusedTactic false

namespace Sys2Proof.Machine

theorem State.confirmActivation_mask {qs : List Area} (hc : covers qs [.hif, .lcy, .out] = true) (s : State) :
    (State.confirmActivation s).mask qs = s.mask qs := by
  simp (disch := first | exact hc | exact covers_trans hc rfl) only [State.confirmActivation, State.mask_lcy,
    State.raise_mask, apply_ite (State.mask qs), ite_self]

theorem State.judgePhase_mask {qs : List Area} (hc : covers qs [.pw, .hif, .drn, .lcy, .out] = true) (s : State) :
    (State.judgePhase s).mask qs = s.mask qs := by
  simp (disch := first | exact hc | exact covers_trans hc rfl) only [State.judgePhase, State.mask_pw_drn,
    State.confirmActivation_mask, apply_ite (State.mask qs), ite_self]

theorem State.refuseActivation_mask {qs : List Area} (hc : covers qs [.lcy] = true) (s : State) (code : Byte) :
    (State.refuseActivation s code).mask qs = s.mask qs := by
  simp (disch := exact covers_trans hc rfl) only [State.refuseActivation, State.mask_lcy, apply_ite (State.mask qs),
    ite_self]

theorem thenPhase_mask {qs : List Area} (hc : covers qs [.pw, .hif, .drn, .lcy, .out] = true) (s : State)
    (o : Host.Outcome State Fault Refusal) : nextMask qs s (thenPhase o) = nextMask qs s o := by
  cases o <;> simp (disch := first | exact hc | exact covers_trans hc rfl) only [thenPhase, nextMask_next, nextMask_fault, nextMask_refused, State.judgePhase_mask]

end Sys2Proof.Machine
end

