-- ==== Sys2Proof/Laws/FrameMire.lean ====
section
/-! SUPPORT. Which parts of the State the definitions of Machine/Mire.lean leave alone: one lemma each, for every set of parts
that covers those it changes. -/

set_option linter.unusedSimpArgs false
set_option linter.unreachableTactic false
set_option linter.unusedTactic false

namespace Sys2Proof.Machine

theorem State.modReg_mask {qs : List Area} (hc : covers qs [.mir] = true) (s : State) (r : Nat)
    (f : RegionRt → RegionRt) :
    (State.modReg s r f).mask qs = s.mask qs := by
  simp (disch := exact covers_trans hc rfl) only [State.modReg, State.mask_mir, apply_ite (State.mask qs), ite_self]

theorem State.noteInput_mask {qs : List Area} (hc : covers qs [.mir] = true) (s : State) (i : Nat) (v : Bool) :
    (State.noteInput s i v).mask qs = s.mask qs := by
  unfold State.noteInput
  try dsimp only
  repeat' first
    | with_reducible rfl
    | simp (disch := first | exact hc | exact covers_trans hc rfl) only [State.modReg_mask, apply_ite (State.mask qs),
        ite_self]
    | split
    | with_reducible refine (foldl_mask _ (fun s x => ?_) _ _).trans ?_
    | with_reducible refine (foldl_mask_fst _ (fun x a => ?_) _ _).trans ?_

theorem State.closeBuf_mask {qs : List Area} (hc : covers qs [.hif, .mir, .out] = true) (s : State) (r : Nat)
    (end_ : Bool) :
    (State.closeBuf s r end_).mask qs = s.mask qs := by
  unfold State.closeBuf
  repeat' split
  all_goals first | rfl | simp (disch := first | exact hc | exact covers_trans hc rfl) only [State.modReg_mask, State.finish_mask,
      apply_ite (State.mask qs), ite_self]

theorem State.endBuffers_mask {qs : List Area} (hc : covers qs [.hif, .mir, .out] = true) (s : State) (r : Nat) :
    (State.endBuffers s r).mask qs = s.mask qs := by
  unfold State.endBuffers
  try dsimp only
  repeat' first
    | with_reducible rfl
    | simp (disch := first | exact hc | exact covers_trans hc rfl) only [State.closeBuf_mask,
        apply_ite (State.mask qs), ite_self]
    | split
    | with_reducible refine (forN_mask _ _ (fun i s => ?_) _).trans ?_

theorem State.deliverOne_mask {qs : List Area} (hc : covers qs [.hif, .mir, .out] = true) (s : State) (r : Nat) :
    (State.deliverOne s r).mask qs = s.mask qs := by
  unfold State.deliverOne
  try dsimp only
  repeat' first
    | with_reducible rfl
    | simp (disch := first | exact hc | exact covers_trans hc rfl) only [State.closeBuf_mask, State.modReg_mask,
        State.hostWrite_mask, apply_ite (State.mask qs), ite_self]
    | split

theorem State.deliver_mask {qs : List Area} (hc : covers qs [.hif, .mir, .out] = true) (s : State) (r : Nat) :
    (State.deliver s r).mask qs = s.mask qs := by
  unfold State.deliver
  try dsimp only
  repeat' first
    | with_reducible rfl
    | simp (disch := first | exact hc | exact covers_trans hc rfl) only [State.modReg_mask, State.deliverOne_mask,
        apply_ite (State.mask qs), ite_self]
    | split
    | with_reducible refine (forN_mask _ _ (fun i s => ?_) _).trans ?_

theorem State.regWrite_mask {qs : List Area} (hc : covers qs [.bog] = true) (s : State) (r : Nat) (offs : List Nat)
    (b : List Byte) :
    (State.regWrite s r offs b).mask qs = s.mask qs := by
  simp (disch := exact covers_trans hc rfl) only [State.regWrite, State.mask_bog, apply_ite (State.mask qs), ite_self]

theorem State.writeHeader_mask {qs : List Area} (hc : covers qs [.bog] = true) (s : State) (r : Nat) :
    (State.writeHeader s r).mask qs = s.mask qs := by
  simp (disch := first | exact hc | exact covers_trans hc rfl) only [State.writeHeader, State.regWrite_mask,
    apply_ite (State.mask qs), ite_self]

theorem State.frameLost_mask {qs : List Area} (hc : covers qs [.hif, .mir, .out] = true) (s : State) (r : Nat) :
    (State.frameLost s r).mask qs = s.mask qs := by
  simp (disch := first | exact hc | exact covers_trans hc rfl) only [State.frameLost, State.mask_mir,
    State.raise_mask, State.modReg_mask, apply_ite (State.mask qs), ite_self]

theorem State.putFrame_mask {qs : List Area} (hc : covers qs [.mir, .bog] = true) (s : State) (r type flags : Nat)
    (stamp : Time) (payload : List Byte) (last : Bool) :
    optMask qs s (State.putFrame s r type flags stamp payload last) = s.mask qs := by
  simp (disch := first | exact hc | exact covers_trans hc rfl) only [State.putFrame, State.writeHeader_mask,
    State.modReg_mask, State.regWrite_mask, apply_ite (State.mask qs), ite_self, apply_ite (optMask qs s),
    optMask_some, optMask_none]

theorem State.putOther_mask {qs : List Area} (hc : covers qs [.hif, .mir, .bog, .out] = true) (s : State)
    (r type : Nat) (payload : List Byte) (last : Bool) :
    (State.putOther s r type payload last).mask qs = s.mask qs := by
  unfold State.putOther
  try dsimp only
  repeat' first
    | with_reducible rfl
    | simp (disch := first | exact hc | exact covers_trans hc rfl) only [State.frameLost_mask, State.putFrame_mask,
        apply_ite (State.mask qs), ite_self]
    | split
    | with_reducible refine (mask_of_some (State.putFrame_mask (by first | exact hc | exact covers_trans hc rfl) _ _ _ _ _ _ _) (by assumption)).trans ?_

theorem State.endCapture_mask {qs : List Area} (hc : covers qs [.hif, .mir, .bog, .out, .freeIdx] = true)
    (s : State) (r : Nat) (byMask : Bool) :
    (State.endCapture s r byMask).mask qs = s.mask qs := by
  unfold State.endCapture
  try dsimp only
  repeat' first
    | with_reducible rfl
    | simp (disch := first | exact hc | exact covers_trans hc rfl) only [State.mask_mir, State.raise_mask,
        State.deliver_mask, State.writeHeader_mask, State.tookFree_mask, State.putOther_mask, State.frameLost_mask,
        State.modReg_mask, State.putFrame_mask, apply_ite (State.mask qs), ite_self]
    | split
    | with_reducible refine (mask_of_some (State.putFrame_mask (by first | exact hc | exact covers_trans hc rfl) _ _ _ _ _ _ _) (by assumption)).trans ?_

theorem State.setTrigFlag_mask {qs : List Area} (hc : covers qs [.bog] = true) (s : State) (r idx : Nat) :
    (State.setTrigFlag s r idx).mask qs = s.mask qs := by
  unfold State.setTrigFlag
  repeat' split
  all_goals first | rfl | simp (disch := first | exact hc | exact covers_trans hc rfl) only [State.regWrite_mask, apply_ite (State.mask qs),
      ite_self]

theorem State.mirUrgent_mask {qs : List Area} (hc : covers qs [.hif, .cnv, .fio, .out] = true) (s : State) (r : Nat) :
    (State.mirUrgent s r).mask qs = s.mask qs := by
  unfold State.mirUrgent
  try dsimp only
  repeat' first
    | with_reducible rfl
    | simp (disch := first | exact hc | exact covers_trans hc rfl) only [State.raise_mask, State.requestUrgent_mask,
        apply_ite (State.mask qs), ite_self, Judged.maskOr_ok, Judged.maskOr_refused]
    | split
    | with_reducible refine (mask_of_ok (State.requestUrgent_mask (by first | exact hc | exact covers_trans hc rfl) _ _ _) (by assumption)).trans ?_

theorem State.regionTrigger_mask {qs : List Area}
    (hc : covers qs [.hif, .cnv, .fio, .mir, .bog, .out, .freeIdx] = true) (s : State) (r : Nat) (st : Stamp)
    (a b : Bool) (method : Nat) :
    (State.regionTrigger s r st a b method).1.mask qs = s.mask qs := by
  unfold State.regionTrigger
  try dsimp only
  repeat' first
    | with_reducible rfl
    | simp (disch := first | exact hc | exact covers_trans hc rfl) only [State.endCapture_mask,
        State.setTrigFlag_mask, State.raise_mask, State.mirUrgent_mask, State.modReg_mask, apply_ite (State.mask qs),
        ite_self, apply_ite Prod.fst]
    | split

theorem State.sourceEvent_mask {qs : List Area} (hc : covers qs [.hif, .cnv, .fio, .mir, .bog, .out, .freeIdx] = true) (fuel r : Nat) (isB : Bool) (st : Stamp)
    (m : Nat) (s : State) : (State.sourceEvent fuel r isB st m s).mask qs = s.mask qs := by
  induction fuel generalizing r isB st m s with
  | zero => rfl
  | succ fuel ih =>
    unfold State.sourceEvent
    try dsimp only
    repeat' first
      | with_reducible rfl
      | simp (disch := first | exact hc | exact covers_trans hc rfl) only [ih, State.modReg_mask, State.regionTrigger_mask, apply_ite (State.mask qs), ite_self]
      | split
      | with_reducible refine (foldl_mask _ (fun s x => ?_) _ _).trans ?_

theorem State.levelSources_mask {qs : List Area}
    (hc : covers qs [.hif, .cnv, .fio, .mir, .bog, .out, .freeIdx] = true) (s : State) (v : Nat → Option Int)
    (t : Stamp) :
    (State.levelSources s v t).mask qs = s.mask qs := by
  unfold State.levelSources
  try dsimp only
  repeat' first
    | with_reducible rfl
    | simp (disch := first | exact hc | exact covers_trans hc rfl) only [State.sourceEvent_mask, State.modReg_mask,
        apply_ite (State.mask qs), ite_self]
    | split
    | with_reducible refine (foldl_mask _ (fun s x => ?_) _ _).trans ?_
    | with_reducible refine (foldl_mask_fst _ (fun x a => ?_) _ _).trans ?_

theorem doLineTableLoad_mask {qs : List Area} (hc : covers qs [.hif, .mir, .out] = true) (p : Pair) (s : State) :
    nextMask qs s (doLineTableLoad p s) = s.mask qs := by
  unfold doLineTableLoad
  try dsimp only
  repeat' first
    | with_reducible rfl
    | simp (disch := first | exact hc | exact covers_trans hc rfl) only [State.mask_mir, State.finish_mask,
        apply_ite (State.mask qs), ite_self, apply_ite (nextMask qs s), nextMask_next]
    | split

theorem doMireStop_mask {qs : List Area} (hc : covers qs [.hif, .mir, .out] = true) (p : Pair) (s : State) :
    nextMask qs s (doMireStop p s) = s.mask qs := by
  unfold doMireStop
  repeat' split
  all_goals first | rfl | simp (disch := first | exact hc | exact covers_trans hc rfl) only [State.modReg_mask, State.finish_mask,
      apply_ite (State.mask qs), ite_self, apply_ite (nextMask qs s), nextMask_next]

theorem State.bogLinkError_mask {qs : List Area} (hc : covers qs [.hif, .mir, .out] = true) (s : State)
    (r offset : Nat) :
    (State.bogLinkError s r offset).mask qs = s.mask qs := by
  unfold State.bogLinkError
  try dsimp only
  repeat' first
    | with_reducible rfl
    | simp (disch := first | exact hc | exact covers_trans hc rfl) only [State.mask_mir, State.raise_mask,
        State.modReg_mask, apply_ite (State.mask qs), ite_self]
    | split

theorem State.clearHeader_mask {qs : List Area} (hc : covers qs [.bog] = true) (s : State) (r : Nat) :
    (State.clearHeader s r).mask qs = s.mask qs := by
  simp (disch := exact covers_trans hc rfl) only [State.clearHeader, State.mask_bog, apply_ite (State.mask qs),
    ite_self]

theorem State.armRegion_mask {qs : List Area} (hc : covers qs [.hif, .mir, .bog, .out, .freeIdx] = true) (s : State)
    (r n : Nat) :
    (State.armRegion s r n).mask qs = s.mask qs := by
  simp (disch := first | exact hc | exact covers_trans hc rfl) only [State.armRegion, State.putOther_mask,
    State.modReg_mask, State.tookFree_mask, State.clearHeader_mask, apply_ite (State.mask qs), ite_self]

theorem State.armPending_mask {qs : List Area} (hc : covers qs [.hif, .mir, .bog, .out, .freeIdx] = true)
    (s : State) (n r : Nat) :
    (State.armPending s n r).mask qs = s.mask qs := by
  simp (disch := first | exact hc | exact covers_trans hc rfl) only [State.armPending, State.armRegion_mask,
    apply_ite (State.mask qs), ite_self]

theorem State.frameEnds_mask {qs : List Area} (hc : covers qs [.hif, .mir, .bog, .out, .freeIdx] = true) (s : State)
    (r : Nat) :
    (State.frameEnds s r).mask qs = s.mask qs := by
  simp (disch := first | exact hc | exact covers_trans hc rfl) only [State.frameEnds, State.modReg_mask,
    State.endCapture_mask, apply_ite (State.mask qs), ite_self]

theorem State.writeRegionFrame_mask {qs : List Area} (hc : covers qs [.hif, .mir, .bog, .out, .freeIdx] = true)
    (s : State) (r n : Nat) :
    (State.writeRegionFrame s r n).mask qs = s.mask qs := by
  unfold State.writeRegionFrame
  try dsimp only
  repeat' first
    | with_reducible rfl
    | simp (disch := first | exact hc | exact covers_trans hc rfl) only [State.frameEnds_mask, State.putOther_mask,
        State.modReg_mask, State.frameLost_mask, State.putFrame_mask, State.tookFree_mask, apply_ite (State.mask qs),
        ite_self]
    | split
    | with_reducible refine (mask_of_some (State.putFrame_mask (by first | exact hc | exact covers_trans hc rfl) _ _ _ _ _ _ _) (by assumption)).trans ?_

theorem State.lapse_mask {qs : List Area} (hc : covers qs [.mir] = true) (s : State) (r : Nat) :
    (State.lapse s r).mask qs = s.mask qs := by
  simp (disch := first | exact hc | exact covers_trans hc rfl) only [State.lapse, State.modReg_mask,
    apply_ite (State.mask qs), ite_self]

theorem State.regionPeriod_mask {qs : List Area} (hc : covers qs [.hif, .mir, .bog, .out, .freeIdx] = true)
    (s : State) (n : Nat) (r : Nat) :
    (State.regionPeriod s n r).mask qs = s.mask qs := by
  simp (disch := first | exact hc | exact covers_trans hc rfl) only [State.regionPeriod, State.deliver_mask,
    State.armPending_mask, State.writeRegionFrame_mask, State.modReg_mask, State.lapse_mask,
    apply_ite (State.mask qs), ite_self]

theorem State.mirPeriod_mask {qs : List Area} (hc : covers qs [.hif, .mir, .bog, .out, .freeIdx] = true) (s : State)
    (n : Nat) :
    (State.mirPeriod s n).mask qs = s.mask qs := by
  unfold State.mirPeriod
  try dsimp only
  repeat' first
    | with_reducible rfl
    | simp (disch := first | exact hc | exact covers_trans hc rfl) only [State.mask_mir, State.regionPeriod_mask,
        apply_ite (State.mask qs), ite_self]
    | split
    | with_reducible refine (foldl_mask _ (fun s x => ?_) _ _).trans ?_
    | with_reducible refine (foldl_mask_fst _ (fun x a => ?_) _ _).trans ?_

theorem State.noteLayout_mask {qs : List Area} (hc : covers qs [.hif, .mir, .bog, .out] = true) (s : State) (r : Nat) :
    (State.noteLayout s r).mask qs = s.mask qs := by
  simp (disch := first | exact hc | exact covers_trans hc rfl) only [State.noteLayout, State.modReg_mask,
    State.putOther_mask, apply_ite (State.mask qs), ite_self]

theorem State.applyRegion_mask {qs : List Area} (hc : covers qs [.hif, .mir, .out] = true) (s : State)
    (x : Nat × BitVec 512) :
    (State.applyRegion s x).mask qs = s.mask qs := by
  simp (disch := first | exact hc | exact covers_trans hc rfl) only [State.applyRegion, State.endBuffers_mask,
    State.modReg_mask, apply_ite (State.mask qs), ite_self]

theorem State.fireSources_mask {qs : List Area}
    (hc : covers qs [.hif, .cnv, .fio, .mir, .bog, .out, .freeIdx] = true) (s : State) (p : Nat → Bool → Nat → Bool)
    (st : Stamp) (m : Nat) :
    (State.fireSources s p st m).mask qs = s.mask qs := by
  unfold State.fireSources
  try dsimp only
  repeat' first
    | with_reducible rfl
    | simp (disch := first | exact hc | exact covers_trans hc rfl) only [State.sourceEvent_mask,
        apply_ite (State.mask qs), ite_self]
    | split
    | with_reducible refine (foldl_mask _ (fun s x => ?_) _ _).trans ?_
    | with_reducible refine (foldl_mask_fst _ (fun x a => ?_) _ _).trans ?_

theorem doForce_mask {qs : List Area} (hc : covers qs [.hif, .cnv, .fio, .mir, .bog, .out, .freeIdx] = true)
    (p : Pair) (s : State) :
    nextMask qs s (doForce p s) = s.mask qs := by
  unfold doForce
  repeat' split
  all_goals first | rfl | simp (disch := first | exact hc | exact covers_trans hc rfl) only [State.fireSources_mask, State.finish_mask,
      apply_ite (State.mask qs), ite_self, apply_ite (nextMask qs s), nextMask_next]

theorem State.recompute_mask {qs : List Area} (hc : covers qs [.hif, .mir, .out] = true) (s : State) (r : Nat) :
    (State.recompute s r).mask qs = s.mask qs := by
  simp (disch := first | exact hc | exact covers_trans hc rfl) only [State.recompute, State.raise_mask,
    State.modReg_mask, apply_ite (State.mask qs), ite_self]

theorem doMireArm_mask {qs : List Area} (hc : covers qs [.hif, .mir, .out] = true) (p : Pair) (s : State) :
    nextMask qs s (doMireArm p s) = s.mask qs := by
  unfold doMireArm
  repeat' split
  all_goals first | rfl | simp (disch := first | exact hc | exact covers_trans hc rfl) only [State.modReg_mask, State.finish_mask,
      apply_ite (State.mask qs), ite_self, apply_ite (nextMask qs s), nextMask_next]

theorem execExternalTrigger_mask {qs : List Area}
    (hc : covers qs [.hif, .cnv, .fio, .mir, .bog, .out, .freeIdx] = true) (input : Fin 4) (rising : Bool)
    (stamp : Stamp) (s : State) :
    nextMask qs s (execExternalTrigger input rising stamp s) = s.mask qs := by
  simp (disch := first | exact hc | exact covers_trans hc rfl) only [execExternalTrigger, State.fireSources_mask,
    apply_ite (State.mask qs), ite_self, apply_ite (nextMask qs s), nextMask_next]

theorem execRecordBuffer_mask {qs : List Area} (hc : covers qs [.hif, .mir, .out] = true) (p : Pair) (s : State) :
    nextMask qs s (execRecordBuffer p s) = s.mask qs := by
  unfold execRecordBuffer
  repeat' split
  all_goals first | rfl | simp (disch := first | exact hc | exact covers_trans hc rfl) only [State.deliver_mask, State.modReg_mask,
      State.accept_mask, State.finish_mask, apply_ite (State.mask qs), ite_self, apply_ite (nextMask qs s),
      nextMask_next]

theorem doRegionTableLoad_mask {qs : List Area} (hc : covers qs [.hif, .fio, .mir, .out] = true) (p : Pair)
    (s : State) :
    nextMask qs s (doRegionTableLoad p s) = s.mask qs := by
  unfold doRegionTableLoad
  try dsimp only
  repeat' first
    | with_reducible rfl
    | simp (disch := first | exact hc | exact covers_trans hc rfl) only [State.mask_mir, State.applyRegion_mask,
        State.setClaims_mask, State.finish_mask, apply_ite (State.mask qs), ite_self, apply_ite (nextMask qs s),
        nextMask_next]
    | split
    | with_reducible refine (foldl_mask _ (fun s x => ?_) _ _).trans ?_
    | with_reducible refine (foldl_mask_fst _ (fun x a => ?_) _ _).trans ?_

theorem doMaskTableLoad_mask {qs : List Area} (hc : covers qs [.hif, .mir, .out] = true) (p : Pair) (s : State) :
    nextMask qs s (doMaskTableLoad p s) = s.mask qs := by
  unfold doMaskTableLoad
  try dsimp only
  repeat' first
    | with_reducible rfl
    | simp (disch := first | exact hc | exact covers_trans hc rfl) only [State.mask_mir, State.finish_mask,
        apply_ite (State.mask qs), ite_self, apply_ite (nextMask qs s), nextMask_next]
    | split

theorem State.noteLayouts_mask {qs : List Area} (hc : covers qs [.hif, .mir, .bog, .out] = true) (s : State) :
    (State.noteLayouts s).mask qs = s.mask qs := by
  unfold State.noteLayouts
  try dsimp only
  repeat' first
    | with_reducible rfl
    | simp (disch := first | exact hc | exact covers_trans hc rfl) only [State.noteLayout_mask,
        apply_ite (State.mask qs), ite_self]
    | split
    | with_reducible refine (foldl_mask _ (fun s x => ?_) _ _).trans ?_
    | with_reducible refine (foldl_mask_fst _ (fun x a => ?_) _ _).trans ?_

theorem execRecordRead_mask {qs : List Area} (hc : covers qs [.hif, .mir, .out] = true) (p : Pair) (s : State) :
    nextMask qs s (execRecordRead p s) = s.mask qs := by
  unfold execRecordRead
  repeat' split
  all_goals first | rfl | simp (disch := first | exact hc | exact covers_trans hc rfl) only [State.modReg_mask, State.hostWrite_mask,
      State.finish_mask, apply_ite (State.mask qs), ite_self, apply_ite (nextMask qs s), nextMask_next]

theorem State.maskTest_mask {qs : List Area} (hc : covers qs [.hif, .cnv, .fio, .mir, .bog, .out, .freeIdx] = true)
    (s : State) (kind index : Nat) (v : Nat → Int) (ovr : Bool) (t : Stamp) :
    (State.maskTest s kind index v ovr t).mask qs = s.mask qs := by
  unfold State.maskTest
  try dsimp only
  repeat' first
    | with_reducible rfl
    | simp (disch := first | exact hc | exact covers_trans hc rfl) only [State.sourceEvent_mask, State.raise_mask,
        State.modReg_mask, apply_ite (State.mask qs), ite_self]
    | split
    | with_reducible refine (foldl_mask _ (fun s x => ?_) _ _).trans ?_
    | with_reducible refine (foldl_mask_fst _ (fun x a => ?_) _ _).trans ?_

theorem State.mirTake_mask {qs : List Area} (hc : covers qs [.hif, .cnv, .fio, .mir, .bog, .out, .freeIdx] = true)
    (s : State) (it : MirItem) :
    (State.mirTake s it).mask qs = s.mask qs := by
  unfold State.mirTake
  repeat' split
  all_goals first | rfl | simp (disch := first | exact hc | exact covers_trans hc rfl) only [State.mask_mir, State.maskTest_mask,
      State.fireSources_mask, State.levelSources_mask, apply_ite (State.mask qs), ite_self]

theorem State.mirStart_mask {qs : List Area} (hc : covers qs [.hif, .mir, .bog, .out, .freeIdx] = true) (s : State) :
    (State.mirStart s).mask qs = s.mask qs := by
  unfold State.mirStart
  try dsimp only
  repeat' first
    | with_reducible rfl
    | simp (disch := first | exact hc | exact covers_trans hc rfl) only [State.armPending_mask,
        apply_ite (State.mask qs), ite_self]
    | split
    | with_reducible refine (foldl_mask _ (fun s x => ?_) _ _).trans ?_
    | with_reducible refine (foldl_mask_fst _ (fun x a => ?_) _ _).trans ?_

theorem State.mirPattern_mask {qs : List Area} (hc : covers qs [.hif, .mir, .out] = true) (s : State) (n : Nat) :
    (State.mirPattern s n).mask qs = s.mask qs := by
  unfold State.mirPattern
  try dsimp only
  repeat' first
    | with_reducible rfl
    | simp (disch := first | exact hc | exact covers_trans hc rfl) only [State.recompute_mask,
        apply_ite (State.mask qs), ite_self]
    | split
    | with_reducible refine (foldl_mask _ (fun s x => ?_) _ _).trans ?_
    | with_reducible refine (foldl_mask_fst _ (fun x a => ?_) _ _).trans ?_

theorem execRecordBufferFlush_mask {qs : List Area} (hc : covers qs [.hif, .mir, .out] = true) (region : Fin 16)
    (s : State) :
    nextMask qs s (execRecordBufferFlush region s) = s.mask qs := by
  unfold execRecordBufferFlush
  repeat' split
  all_goals first | rfl | simp (disch := first | exact hc | exact covers_trans hc rfl) only [State.closeBuf_mask, apply_ite (State.mask qs),
      ite_self, apply_ite (nextMask qs s), nextMask_next]

theorem State.mirStepTrigger_mask {qs : List Area}
    (hc : covers qs [.hif, .cnv, .fio, .mir, .bog, .out, .freeIdx] = true) (s : State) (region : Nat) (t : Time) :
    (State.mirStepTrigger s region t).mask qs = s.mask qs := by
  simp (disch := first | exact hc | exact covers_trans hc rfl) only [State.mirStepTrigger, State.fireSources_mask,
    apply_ite (State.mask qs), ite_self]

end Sys2Proof.Machine
end

