-- ==== Sys2Proof/Laws/FrameCombEval.lean ====
section
/-! SUPPORT. Which parts of the State the definitions of Machine/CombEval.lean leave alone: one lemma each, for every set of parts
that covers those it changes. -/

set_option linter.unusedSimpArgs false
set_option linter.unreachableTactic false
set_option linter.unusedTactic false

namespace Sys2Proof.Machine

theorem State.countEval_mask {qs : List Area} (hc : covers qs [.cmb] = true) (s : State) :
    (State.countEval s).mask qs = s.mask qs := by
  simp (disch := exact covers_trans hc rfl) only [State.countEval, State.mask_cmb, apply_ite (State.mask qs),
    ite_self]

theorem State.countSat_mask {qs : List Area} (hc : covers qs [.hif, .cmb, .out] = true) (s : State) (k : Nat) :
    (State.countSat s k).mask qs = s.mask qs := by
  simp (disch := first | exact hc | exact covers_trans hc rfl) only [State.countSat, State.mask_cmb, State.raise_mask,
    apply_ite (State.mask qs), ite_self]

theorem State.writeOut_mask {qs : List Area} (hc : covers qs [.cmb, .blk, .fio, .wag, .twn] = true) (s : State)
    (dst n : Nat) (v : Int) (t fin : Time) :
    (State.writeOut s dst n v t fin).mask qs = s.mask qs := by
  unfold State.writeOut
  repeat' split
  all_goals first | rfl | simp (disch := first | exact hc | exact covers_trans hc rfl) only [State.mask_blk, State.modSlot_mask,
      State.txWrite_mask, State.sendDown_mask, State.commandOut_mask, State.hashWrite_mask, apply_ite (State.mask qs),
      ite_self]

theorem State.evalOutput_mask {qs : List Area} (hc : covers qs [.hif, .cmb, .blk, .fio, .wag, .twn, .out] = true)
    (s : State) (k n : Nat) (r : SlotRt) (i : EvIn) (e : Ev) (tOut tEnd : Time) :
    (State.evalOutput s k n r i e tOut tEnd).mask qs = s.mask qs := by
  simp (disch := first | exact hc | exact covers_trans hc rfl) only [State.evalOutput, State.countSat_mask,
    State.writeOut_mask, State.modSlot_mask, apply_ite (State.mask qs), ite_self]

theorem State.handEvent_mask {qs : List Area} (hc : covers qs [.hif, .out] = true) (s : State) (code : Byte)
    (k loop : Nat) :
    (State.handEvent s code k loop).mask qs = s.mask qs := by
  simp (disch := first | exact hc | exact covers_trans hc rfl) only [State.handEvent, State.raise_mask,
    apply_ite (State.mask qs), ite_self]

theorem State.handoverStep_mask {qs : List Area} (hc : covers qs [.hif, .cmb, .fio, .out] = true) (s : State)
    (k : Nat) (t0 tOut fin : Time) :
    (State.handoverStep s k t0 tOut fin).mask qs = s.mask qs := by
  unfold State.handoverStep
  try dsimp only
  repeat' first
    | with_reducible rfl
    | simp (disch := first | exact hc | exact covers_trans hc rfl) only [State.mask_cmb, State.handEvent_mask,
        State.modSlot_mask, State.sendDown_mask, apply_ite (State.mask qs), ite_self]
    | split

theorem State.supEvent_mask {qs : List Area} (hc : covers qs [.hif, .cmb, .out] = true) (s : State) (k : Nat)
    (res : Int) (e : SupEvt) :
    (State.supEvent s k res e).mask qs = s.mask qs := by
  simp (disch := first | exact hc | exact covers_trans hc rfl) only [State.supEvent, State.mask_cmb, State.raise_mask,
    State.modSlot_mask, apply_ite (State.mask qs), ite_self]

theorem State.supEvents_mask {qs : List Area} (hc : covers qs [.hif, .cmb, .out] = true) (s : State) (k : Nat)
    (res : Int) (l : List SupEvt) :
    (State.supEvents s k res l).mask qs = s.mask qs := by
  unfold State.supEvents
  try dsimp only
  repeat' first
    | with_reducible rfl
    | simp (disch := first | exact hc | exact covers_trans hc rfl) only [State.supEvent_mask,
        apply_ite (State.mask qs), ite_self]
    | split
    | with_reducible refine (foldl_mask _ (fun s x => ?_) _ _).trans ?_
    | with_reducible refine (foldl_mask_fst _ (fun x a => ?_) _ _).trans ?_

theorem State.evaluate_mask {qs : List Area}
    (hc : covers qs [.hif, .cmb, .blk, .cnv, .fio, .mir, .bog, .wag, .twn, .out, .freeIdx] = true) (s : State)
    (k n : Nat) (start fin : Nat) :
    (State.evaluate s k n start fin).mask qs = s.mask qs := by
  simp (disch := first | exact hc | exact covers_trans hc rfl) only [State.evaluate, State.mirTake_mask,
    State.countEval_mask, State.evalOutput_mask, State.handoverStep_mask, State.supEvents_mask, State.tookFree_mask,
    State.modSlot_mask, apply_ite (State.mask qs), ite_self]

theorem State.takeRecords_mask {qs : List Area} (hc : covers qs [.hif, .cmb, .fio, .mir, .bog, .out] = true)
    (s : State) (k : Nat) :
    (State.takeRecords s k).mask qs = s.mask qs := by
  unfold State.takeRecords
  try dsimp only
  repeat' first
    | with_reducible rfl
    | simp (disch := first | exact hc | exact covers_trans hc rfl) only [State.dropSlotClaims_mask,
        State.noteLayouts_mask, State.modSlot_mask, State.recordDone_mask, apply_ite (State.mask qs), ite_self]
    | split

theorem execSlotEvaluation_mask {qs : List Area}
    (hc : covers qs [.pw, .hif, .cmb, .blk, .cnv, .fio, .mir, .bog, .wag, .twn, .drn, .lcy, .out, .freeIdx] = true)
    (slot : Fin 4096) (s : State) :
    nextMask qs s (execSlotEvaluation slot s) = s.mask qs := by
  unfold execSlotEvaluation
  try dsimp only
  repeat' first
    | with_reducible rfl
    | simp (disch := first | exact hc | exact covers_trans hc rfl) only [State.mask_cmb, State.settleLoads_mask,
        State.judgePhase_mask, State.evaluate_mask, State.takeRecords_mask, apply_ite (State.mask qs), ite_self,
        apply_ite (nextMask qs s), nextMask_next]
    | split

end Sys2Proof.Machine
end

