-- ==== Sys2Proof/Laws/FrameBlkScan.lean ====
section
/-! SUPPORT. Which parts of the State the definitions of Machine/BlkScan.lean leave alone: one lemma each, for every set of parts
that covers those it changes. -/

set_option linter.unusedSimpArgs false
set_option linter.unreachableTactic false
set_option linter.unusedTactic false

namespace Sys2Proof.Machine

theorem State.scan_mask {qs : List Area} (hc : covers qs [.blk, .freeIdx] = true) (s : State) (k delta : Nat)
    (di : BitVec 64) (hs : BitVec 48) :
    (State.scan s k delta di hs).mask qs = s.mask qs := by
  simp (disch := first | exact hc | exact covers_trans hc rfl) only [State.scan, State.mask_blk, State.tookFree_mask,
    apply_ite (State.mask qs), ite_self]

end Sys2Proof.Machine
end

