-- ==== Sys2Proof/Laws/FrameBlk.lean ====
section
/-! SUPPORT. Which parts of the State the definitions of Machine/Blk.lean leave alone: one lemma each, for every set of parts
that covers those it changes. -/

set_option linter.unusedSimpArgs false
set_option linter.unreachableTactic false
set_option linter.unusedTactic false

namespace Sys2Proof.Machine

theorem State.modTask_mask {qs : List Area} (hc : covers qs [.blk] = true) (s : State) (t : Nat) (f : TaskRt → TaskRt) :
    (State.modTask s t f).mask qs = s.mask qs := by
  simp (disch := exact covers_trans hc rfl) only [State.modTask, State.mask_blk, apply_ite (State.mask qs), ite_self]

theorem doInputMapLoad_mask {qs : List Area} (hc : covers qs [.hif, .blk, .out] = true) (p : Pair) (s : State) :
    nextMask qs s (doInputMapLoad p s) = s.mask qs := by
  unfold doInputMapLoad
  try dsimp only
  repeat' first
    | with_reducible rfl
    | simp (disch := first | exact hc | exact covers_trans hc rfl) only [State.mask_blk, State.finish_mask,
        apply_ite (State.mask qs), ite_self, apply_ite (nextMask qs s), nextMask_next]
    | split

theorem State.overrun_mask {qs : List Area} (hc : covers qs [.hif, .blk, .out] = true) (s : State) (t : Nat) :
    (State.overrun s t).mask qs = s.mask qs := by
  simp (disch := first | exact hc | exact covers_trans hc rfl) only [State.overrun, State.raise_mask,
    State.modTask_mask, apply_ite (State.mask qs), ite_self]

theorem State.keepWords_mask {qs : List Area} (hc : covers qs [.fio] = true) (s : State) (t : Nat) (words : List Nat) :
    (State.keepWords s t words).mask qs = s.mask qs := by
  simp (disch := first | exact hc | exact covers_trans hc rfl) only [State.keepWords, State.setClaims_mask,
    apply_ite (State.mask qs), ite_self]

theorem State.publishWord_mask {qs : List Area} (hc : covers qs [.cmb, .blk, .fio, .wag, .twn] = true) (s : State)
    (w : Nat) (v : Int) :
    (State.publishWord s w v).mask qs = s.mask qs := by
  unfold State.publishWord
  try dsimp only
  repeat' first
    | with_reducible rfl
    | simp (disch := first | exact hc | exact covers_trans hc rfl) only [State.mask_blk, State.modSlot_mask,
        State.txWrite_mask, State.hashWrite_mask, State.commandOut_mask, apply_ite (State.mask qs), ite_self]
    | split

theorem State.bridgeRequest_mask {qs : List Area} (hc : covers qs [.cmb] = true) (s : State) (q : BridgeReq) :
    (State.bridgeRequest s q).mask qs = s.mask qs := by
  simp (disch := first | exact hc | exact covers_trans hc rfl) only [State.bridgeRequest, State.modSlot_mask,
    apply_ite (State.mask qs), ite_self]

theorem State.publishScan_mask {qs : List Area} (hc : covers qs [.hif, .cmb, .blk, .fio, .wag, .twn, .out] = true)
    (s : State) (t : Nat) (v : OutEntry → Int) :
    (State.publishScan s t v).mask qs = s.mask qs := by
  unfold State.publishScan
  try dsimp only
  repeat' first
    | with_reducible rfl
    | simp (disch := first | exact hc | exact covers_trans hc rfl) only [State.modTask_mask, State.publishWord_mask,
        State.bridgeRequest_mask, State.raise_mask, apply_ite (State.mask qs), ite_self]
    | split
    | with_reducible refine (foldl_mask _ (fun s x => ?_) _ _).trans ?_
    | with_reducible refine (foldl_mask_fst _ (fun x a => ?_) _ _).trans ?_

theorem State.stopTask_mask {qs : List Area} (hc : covers qs [.hif, .cmb, .blk, .fio, .wag, .twn, .out] = true)
    (s : State) (t : Nat) :
    (State.stopTask s t).mask qs = s.mask qs := by
  simp (disch := first | exact hc | exact covers_trans hc rfl) only [State.stopTask, State.raise_mask,
    State.modTask_mask, State.keepWords_mask, State.publishScan_mask, apply_ite (State.mask qs), ite_self]

theorem State.runtimeStart_mask {qs : List Area} (hc : covers qs [.hif, .blk, .out] = true) (s : State) :
    (State.runtimeStart s).mask qs = s.mask qs := by
  simp (disch := first | exact hc | exact covers_trans hc rfl) only [State.runtimeStart, State.mask_blk,
    State.raise_mask, apply_ite (State.mask qs), ite_self]

theorem State.releaseTask_mask {qs : List Area}
    (hc : covers qs [.hif, .cmb, .blk, .fio, .wag, .twn, .out, .freeIdx] = true) (s : State) (t : Nat)
    (di : BitVec 64) (hs : BitVec 48) :
    (State.releaseTask s t di hs).mask qs = s.mask qs := by
  simp (disch := first | exact hc | exact covers_trans hc rfl) only [State.releaseTask, State.scan_mask,
    State.publishScan_mask, State.stopTask_mask, State.overrun_mask, State.runtimeStart_mask, State.modTask_mask,
    apply_ite (State.mask qs), ite_self]

theorem State.restartTask_mask {qs : List Area}
    (hc : covers qs [.hif, .cmb, .blk, .fio, .wag, .twn, .out, .freeIdx] = true) (s : State) (t : Nat) (p : Pair)
    (sub : Word) (di : BitVec 64) (hs : BitVec 48) :
    (State.restartTask s t p sub di hs).mask qs = s.mask qs := by
  simp (disch := first | exact hc | exact covers_trans hc rfl) only [State.restartTask, State.releaseTask_mask,
    State.finish_mask, State.modTask_mask, apply_ite (State.mask qs), ite_self]

theorem State.taskRelease_mask {qs : List Area}
    (hc : covers qs [.hif, .cmb, .blk, .fio, .wag, .twn, .out, .freeIdx] = true) (s : State) (t : Nat)
    (di : BitVec 64) (hs : BitVec 48) :
    (State.taskRelease s t di hs).mask qs = s.mask qs := by
  unfold State.taskRelease
  try dsimp only
  repeat' first
    | with_reducible rfl
    | simp (disch := first | exact hc | exact covers_trans hc rfl) only [State.releaseTask_mask,
        State.restartTask_mask, apply_ite (State.mask qs), ite_self]
    | split

theorem State.publishNew_mask {qs : List Area} (hc : covers qs [.cmb, .blk, .fio, .wag, .twn] = true) (s : State)
    (old new : List OutEntry) :
    (State.publishNew s old new).mask qs = s.mask qs := by
  unfold State.publishNew
  try dsimp only
  repeat' first
    | with_reducible rfl
    | simp (disch := first | exact hc | exact covers_trans hc rfl) only [State.publishWord_mask,
        apply_ite (State.mask qs), ite_self]
    | split
    | with_reducible refine (foldl_mask _ (fun s x => ?_) _ _).trans ?_
    | with_reducible refine (foldl_mask_fst _ (fun x a => ?_) _ _).trans ?_

theorem State.exchangeAt_mask {qs : List Area}
    (hc : covers qs [.hif, .cmb, .blk, .fio, .wag, .twn, .out, .freeIdx] = true) (s : State) (t : Nat) (q : ExchReq)
    (di : BitVec 64) (hs : BitVec 48) :
    (State.exchangeAt s t q di hs).mask qs = s.mask qs := by
  simp (disch := first | exact hc | exact covers_trans hc rfl) only [State.exchangeAt, State.finish_mask,
    State.scan_mask, State.modTask_mask, State.keepWords_mask, State.publishNew_mask, State.publishScan_mask,
    State.stopTask_mask, State.runtimeStart_mask, apply_ite (State.mask qs), ite_self]

theorem State.replayRelease_mask {qs : List Area}
    (hc : covers qs [.hif, .cmb, .blk, .fio, .wag, .twn, .out, .freeIdx] = true) (s : State) (t : Nat)
    (di : BitVec 64) (hs : BitVec 48) :
    (State.replayRelease s t di hs).mask qs = s.mask qs := by
  unfold State.replayRelease
  repeat' split
  all_goals first | rfl | simp (disch := first | exact hc | exact covers_trans hc rfl) only [State.taskRelease_mask, State.exchangeAt_mask,
      apply_ite (State.mask qs), ite_self]

theorem State.releaseOut_mask {qs : List Area} (hc : covers qs [.out] = true) (s : State) (t : Nat) :
    (State.releaseOut s t).mask qs = s.mask qs := by
  simp (disch := first | exact hc | exact covers_trans hc rfl) only [State.releaseOut, State.snapOut_mask,
    apply_ite (State.mask qs), ite_self]

theorem execTaskRelease_mask {qs : List Area}
    (hc : covers qs [.pw, .hif, .cmb, .blk, .fio, .wag, .twn, .drn, .lcy, .out, .freeIdx] = true) (t : Fin 8)
    (s : State) :
    nextMask qs s (execTaskRelease t s) = s.mask qs := by
  simp (disch := first | exact hc | exact covers_trans hc rfl) only [execTaskRelease, State.releaseOut_mask,
    State.taskRelease_mask, State.judgePhase_mask, apply_ite (State.mask qs), ite_self, apply_ite (nextMask qs s),
    nextMask_next]

theorem doLoadImage_mask {qs : List Area} (hc : covers qs [.hif, .blk, .out] = true) (p : Pair) (s : State) :
    nextMask qs s (doLoadImage p s) = s.mask qs := by
  unfold doLoadImage
  repeat' split
  all_goals first | rfl | simp (disch := first | exact hc | exact covers_trans hc rfl) only [State.modTask_mask, State.noteNoncanon_mask,
      State.finish_mask, apply_ite (State.mask qs), ite_self, apply_ite (nextMask qs s), nextMask_next]

theorem doOutputMapLoad_mask {qs : List Area} (hc : covers qs [.hif, .blk, .fio, .out] = true) (p : Pair) (s : State) :
    nextMask qs s (doOutputMapLoad p s) = s.mask qs := by
  unfold doOutputMapLoad
  try dsimp only
  repeat' first
    | with_reducible rfl
    | simp (disch := first | exact hc | exact covers_trans hc rfl) only [State.mask_blk, State.setClaims_mask,
        State.finish_mask, apply_ite (State.mask qs), ite_self, apply_ite (nextMask qs s), nextMask_next]
    | split

theorem State.blockEvent_mask {qs : List Area} (hc : covers qs [.blk] = true) (s : State) (n : Nat) (arg : Int) :
    (State.blockEvent s n arg).mask qs = s.mask qs := by
  simp (disch := exact covers_trans hc rfl) only [State.blockEvent, State.mask_blk, apply_ite (State.mask qs),
    ite_self]

theorem execScanEnd_mask {qs : List Area} (hc : covers qs [.hif, .blk, .out] = true) (t : Fin 8) (ns : Nat)
    (s : State) :
    nextMask qs s (execScanEnd t ns s) = s.mask qs := by
  simp (disch := first | exact hc | exact covers_trans hc rfl) only [execScanEnd, State.raise_mask,
    State.modTask_mask, apply_ite (State.mask qs), ite_self, apply_ite (nextMask qs s), nextMask_next]

theorem doExchange_mask {qs : List Area} (hc : covers qs [.hif, .blk, .fio, .out] = true) (p : Pair) (s : State) :
    nextMask qs s (doExchange p s) = s.mask qs := by
  unfold doExchange
  try dsimp only
  repeat' first
    | with_reducible rfl
    | simp (disch := first | exact hc | exact covers_trans hc rfl) only [State.setClaims_mask, State.modTask_mask,
        State.accept_mask, State.finish_mask, apply_ite (State.mask qs), ite_self, apply_ite (nextMask qs s),
        nextMask_next]
    | split
    | with_reducible refine (foldl_mask _ (fun s x => ?_) _ _).trans ?_
    | with_reducible refine (foldl_mask_fst _ (fun x a => ?_) _ _).trans ?_

theorem execExchangeBoundary_mask {qs : List Area}
    (hc : covers qs [.hif, .cmb, .blk, .fio, .wag, .twn, .out, .freeIdx] = true) (t : Fin 8) (s : State) :
    nextMask qs s (execExchangeBoundary t s) = s.mask qs := by
  unfold execExchangeBoundary
  try dsimp only
  repeat' first
    | with_reducible rfl
    | simp (disch := first | exact hc | exact covers_trans hc rfl) only [State.releaseOut_mask, State.exchangeAt_mask,
        apply_ite (State.mask qs), ite_self, apply_ite (nextMask qs s), nextMask_next]
    | split

theorem State.keepGrid_mask {qs : List Area} (hc : covers qs [.blk] = true) (s : State) :
    (State.keepGrid s).mask qs = s.mask qs := by
  simp (disch := exact covers_trans hc rfl) only [State.keepGrid, State.mask_blk, apply_ite (State.mask qs), ite_self]

end Sys2Proof.Machine
end

