-- ==== Sys2Proof/Laws/FrameWagSched.lean ====
section
/-! SUPPORT. Which parts of the State the definitions of Machine/WagSched.lean leave alone: one lemma each, for every set of parts
that covers those it changes. -/

set_option linter.unusedSimpArgs false
set_option linter.unreachableTactic false
set_option linter.unusedTactic false

namespace Sys2Proof.Machine

theorem State.setWag_mask {qs : List Area} (hc : covers qs [.wag] = true) (s : State) (g : WagState) :
    (State.setWag s g).mask qs = s.mask qs := by
  simp (disch := exact covers_trans hc rfl) only [State.setWag, State.mask_wag, apply_ite (State.mask qs), ite_self]

theorem State.modStn_mask {qs : List Area} (hc : covers qs [.wag] = true) (s : State) (k : Nat) (f : StnRt → StnRt) :
    (State.modStn s k f).mask qs = s.mask qs := by
  simp (disch := first | exact hc | exact covers_trans hc rfl) only [State.modStn, State.setWag_mask,
    apply_ite (State.mask qs), ite_self]

theorem State.takeFrame_mask {qs : List Area} (hc : covers qs [.wag] = true) (s : State) (h : FrameHdr) (kind : Nat) :
    (State.takeFrame s h kind).1.mask qs = s.mask qs := by
  simp (disch := first | exact hc | exact covers_trans hc rfl) only [State.takeFrame, State.setWag_mask,
    apply_ite (State.mask qs), ite_self, apply_ite Prod.fst]

theorem State.recomputeRelay_mask {qs : List Area} (hc : covers qs [.stp] = true) (s : State) :
    (State.recomputeRelay s).mask qs = s.mask qs := by
  simp (disch := exact covers_trans hc rfl) only [State.recomputeRelay, State.mask_stp, apply_ite (State.mask qs),
    ite_self]

theorem State.leaveStation_mask {qs : List Area} (hc : covers qs [.hif, .stp, .wag, .out] = true) (s : State)
    (k : Nat) :
    (State.leaveStation s k).mask qs = s.mask qs := by
  simp (disch := first | exact hc | exact covers_trans hc rfl) only [State.leaveStation, State.recomputeRelay_mask,
    State.raise_mask, State.setWag_mask, State.modStn_mask, apply_ite (State.mask qs), ite_self]

end Sys2Proof.Machine
end

