-- ==== Sys2Proof/Laws/FrameSteps.lean ====
section
/-! SUPPORT. Which parts of the State the definitions of Machine/Steps.lean leave alone: one lemma each, for every set of parts
that covers those it changes. -/

set_option linter.unusedSimpArgs false
set_option linter.unreachableTactic false
set_option linter.unusedTactic false

namespace Sys2Proof.Machine

theorem State.modStep_mask {qs : List Area} (hc : covers qs [.stp] = true) (s : State) (seq : Word)
    (f : StepEntry → StepEntry) :
    (State.modStep s seq f).mask qs = s.mask qs := by
  simp (disch := exact covers_trans hc rfl) only [State.modStep, State.mask_stp, apply_ite (State.mask qs), ite_self]

theorem State.commitStep_mask {qs : List Area} (hc : covers qs [.stp] = true) (s : State) (seq : Word) :
    (State.commitStep s seq).mask qs = s.mask qs := by
  simp (disch := first | exact hc | exact covers_trans hc rfl) only [State.commitStep, State.modStep_mask,
    apply_ite (State.mask qs), ite_self]

theorem State.claimActions_mask {qs : List Area} (hc : covers qs [.fio] = true) (s : State) (seq : Word)
    (l : List Action) :
    (State.claimActions s seq l).mask qs = s.mask qs := by
  simp (disch := first | exact hc | exact covers_trans hc rfl) only [State.claimActions, State.setClaims_mask,
    apply_ite (State.mask qs), ite_self]

theorem State.modPart_mask {qs : List Area} (hc : covers qs [.stp] = true) (s : State) (seq : Word) (f : Part → Part) :
    (State.modPart s seq f).mask qs = s.mask qs := by
  simp (disch := exact covers_trans hc rfl) only [State.modPart, State.mask_stp, apply_ite (State.mask qs), ite_self]

theorem State.sendChange_mask {qs : List Area} (hc : covers qs [.twn, .out] = true) (s : State) (eff : Nat)
    (desc data : List Byte) :
    (State.sendChange s eff desc data).mask qs = s.mask qs := by
  simp (disch := first | exact hc | exact covers_trans hc rfl) only [State.sendChange, State.mask_twn,
    State.emitOut_mask, apply_ite (State.mask qs), ite_self]

theorem State.mirrorStep_mask {qs : List Area} (hc : covers qs [.twn, .out] = true) (s : State)
    (desc data : List Byte) :
    (State.mirrorStep s desc data).mask qs = s.mask qs := by
  simp (disch := first | exact hc | exact covers_trans hc rfl) only [State.mirrorStep, State.sendChange_mask,
    apply_ite (State.mask qs), ite_self]

theorem State.unclaimActions_mask {qs : List Area} (hc : covers qs [.fio] = true) (s : State) (seq : Word) :
    (State.unclaimActions s seq).mask qs = s.mask qs := by
  simp (disch := first | exact hc | exact covers_trans hc rfl) only [State.unclaimActions, State.setClaims_mask,
    apply_ite (State.mask qs), ite_self]

theorem State.closeStepWith_mask {qs : List Area} (hc : covers qs [.hif, .stp, .fio, .twn, .out] = true) (s : State)
    (e : StepEntry) (code : Byte) (l : List Byte) :
    (State.closeStepWith s e code l).mask qs = s.mask qs := by
  simp (disch := first | exact hc | exact covers_trans hc rfl) only [State.closeStepWith, State.mask_stp,
    State.postEntry_mask, State.hostWrite_mask, State.mirrorStep_mask, State.unclaimActions_mask,
    apply_ite (State.mask qs), ite_self]

theorem State.closeStep_mask {qs : List Area} (hc : covers qs [.hif, .stp, .fio, .twn, .out] = true) (s : State)
    (e : StepEntry) :
    (State.closeStep s e).mask qs = s.mask qs := by
  simp (disch := first | exact hc | exact covers_trans hc rfl) only [State.closeStep, State.closeStepWith_mask,
    apply_ite (State.mask qs), ite_self]

theorem State.checkStep_mask {qs : List Area} (hc : covers qs [.hif, .stp, .fio, .twn, .out] = true) (s : State)
    (seq : Word) :
    (State.checkStep s seq).mask qs = s.mask qs := by
  unfold State.checkStep
  repeat' split
  all_goals first | rfl | simp (disch := first | exact hc | exact covers_trans hc rfl) only [State.closeStep_mask, apply_ite (State.mask qs),
      ite_self]

theorem State.launchRamp_mask {qs : List Area} (hc : covers qs [.cmb] = true) (s : State) (k : Nat) (v : Int)
    (dur : Nat) (instant : Time) :
    (State.launchRamp s k v dur instant).mask qs = s.mask qs := by
  simp (disch := first | exact hc | exact covers_trans hc rfl) only [State.launchRamp, State.modSlot_mask,
    apply_ite (State.mask qs), ite_self]

theorem State.launchSetpoint_mask {qs : List Area} (hc : covers qs [.cmb] = true) (s : State) (k : Nat) (v : Int) :
    (State.launchSetpoint s k v).mask qs = s.mask qs := by
  simp (disch := first | exact hc | exact covers_trans hc rfl) only [State.launchSetpoint, State.modSlot_mask,
    apply_ite (State.mask qs), ite_self]

theorem State.launchAction_mask {qs : List Area}
    (hc : covers qs [.hif, .cmb, .blk, .cnv, .fio, .mir, .bog, .twn, .out, .freeIdx] = true) (s : State)
    (instant : Time) (a : Action) :
    (State.launchAction s instant a).mask qs = s.mask qs := by
  unfold State.launchAction
  repeat' split
  all_goals first | rfl | simp (disch := first | exact hc | exact covers_trans hc rfl) only [State.mirStepTrigger_mask, State.blockEvent_mask,
      State.commandOut_mask, State.launchRamp_mask, State.hashWrite_mask, State.launchSetpoint_mask,
      apply_ite (State.mask qs), ite_self]

theorem State.handOver_mask {qs : List Area} (hc : covers qs [.fio] = true) (s : State) (seq : Word)
    (instant : Time) (l : List Action) :
    (State.handOver s seq instant l).mask qs = s.mask qs := by
  unfold State.handOver
  try dsimp only
  repeat' first
    | with_reducible rfl
    | simp (disch := first | exact hc | exact covers_trans hc rfl) only [State.sendDown_mask,
        apply_ite (State.mask qs), ite_self]
    | split
    | with_reducible refine (foldl_mask _ (fun s x => ?_) _ _).trans ?_
    | with_reducible refine (foldl_mask_fst _ (fun x a => ?_) _ _).trans ?_

theorem State.handPart_mask {qs : List Area} (hc : covers qs [.stp, .fio] = true) (s : State) (x : Part) :
    (State.handPart s x).mask qs = s.mask qs := by
  simp (disch := first | exact hc | exact covers_trans hc rfl) only [State.handPart, State.handOver_mask,
    State.modPart_mask, apply_ite (State.mask qs), ite_self]

theorem State.handStep_mask {qs : List Area} (hc : covers qs [.stp, .fio] = true) (s : State) (e : StepEntry) :
    (State.handStep s e).mask qs = s.mask qs := by
  simp (disch := first | exact hc | exact covers_trans hc rfl) only [State.handStep, State.handOver_mask,
    State.modStep_mask, apply_ite (State.mask qs), ite_self]

theorem State.recallStep_mask {qs : List Area} (hc : covers qs [.fio] = true) (s : State) (seq : Word) :
    (State.recallStep s seq).mask qs = s.mask qs := by
  simp (disch := first | exact hc | exact covers_trans hc rfl) only [State.recallStep, State.sendDown_mask,
    apply_ite (State.mask qs), ite_self]

theorem State.launchDue_mask {qs : List Area}
    (hc : covers qs [.hif, .stp, .cmb, .blk, .cnv, .fio, .mir, .bog, .twn, .out, .freeIdx] = true) (s : State)
    (d : DueActions) :
    (State.launchDue s d).mask qs = s.mask qs := by
  unfold State.launchDue
  try dsimp only
  repeat' first
    | with_reducible rfl
    | simp (disch := first | exact hc | exact covers_trans hc rfl) only [State.modPart_mask, State.modStep_mask,
        State.checkStep_mask, State.unclaimActions_mask, State.launchAction_mask, State.handPart_mask,
        State.handStep_mask, State.recallStep_mask, apply_ite (State.mask qs), ite_self]
    | split
    | with_reducible refine (foldl_mask _ (fun s x => ?_) _ _).trans ?_
    | with_reducible refine (foldl_mask_fst _ (fun x a => ?_) _ _).trans ?_

theorem State.discardPart_mask {qs : List Area} (hc : covers qs [.stp, .fio] = true) (s : State) (x : Part) (c : Byte) :
    (State.discardPart s x c).mask qs = s.mask qs := by
  unfold State.discardPart
  repeat' split
  all_goals first | rfl | simp (disch := first | exact hc | exact covers_trans hc rfl) only [State.modPart_mask, State.recallStep_mask,
      State.unclaimActions_mask, apply_ite (State.mask qs), ite_self]

theorem State.armPart_mask {qs : List Area} (hc : covers qs [.stp, .fio] = true) (s : State) (x : Part) :
    (State.armPart s x).mask qs = s.mask qs := by
  simp (disch := first | exact hc | exact covers_trans hc rfl) only [State.armPart, State.modPart_mask,
    State.claimActions_mask, apply_ite (State.mask qs), ite_self]

theorem State.answerSent_mask {qs : List Area} (hc : covers qs [.stp, .fio] = true) (s : State) (x : Part) :
    (State.answerSent s x).mask qs = s.mask qs := by
  unfold State.answerSent
  repeat' split
  all_goals first | rfl | simp (disch := first | exact hc | exact covers_trans hc rfl) only [State.armPart_mask, State.modPart_mask,
      apply_ite (State.mask qs), ite_self]

theorem State.refuseStep_mask {qs : List Area} (hc : covers qs [.hif, .out] = true) (s : State) (p : Pair)
    (e : Entry) (code : Byte) :
    (State.refuseStep s p e code).mask qs = s.mask qs := by
  simp (disch := first | exact hc | exact covers_trans hc rfl) only [State.refuseStep, State.finishWith_mask,
    apply_ite (State.mask qs), ite_self]

theorem execStepDry_mask {qs : List Area} (hc : covers qs [.hif, .stp, .blk, .out] = true) (s : State) :
    nextMask qs s (execStepDry s) = s.mask qs := by
  simp (disch := first | exact hc | exact covers_trans hc rfl) only [execStepDry, State.mask_stp, State.raise_mask,
    State.blockEvent_mask, apply_ite (State.mask qs), ite_self, apply_ite (nextMask qs s), nextMask_next]

theorem State.completePart_mask {qs : List Area} (hc : covers qs [.stp] = true) (s : State) (x : Part) :
    (State.completePart s x).mask qs = s.mask qs := by
  simp (disch := first | exact hc | exact covers_trans hc rfl) only [State.completePart, State.modPart_mask,
    apply_ite (State.mask qs), ite_self]

theorem State.takeRelay_mask {qs : List Area} (hc : covers qs [.stp] = true) (s : State) (frame : RelayFrame) :
    (State.takeRelay s frame).mask qs = s.mask qs := by
  simp (disch := first | exact hc | exact covers_trans hc rfl) only [State.takeRelay, State.mask_stp,
    State.completePart_mask, State.modPart_mask, apply_ite (State.mask qs), ite_self]

theorem State.dropLocal_mask {qs : List Area} (hc : covers qs [.stp, .fio] = true) (s : State) (seq : Word) (c : Byte) :
    (State.dropLocal s seq c).mask qs = s.mask qs := by
  simp (disch := first | exact hc | exact covers_trans hc rfl) only [State.dropLocal, State.modStep_mask,
    State.unclaimActions_mask, State.recallStep_mask, apply_ite (State.mask qs), ite_self]

theorem State.abortStep_mask {qs : List Area} (hc : covers qs [.hif, .stp, .fio, .twn, .out] = true) (s : State)
    (seq : Word) (c : Byte) :
    (State.abortStep s seq c).mask qs = s.mask qs := by
  simp (disch := first | exact hc | exact covers_trans hc rfl) only [State.abortStep, State.checkStep_mask,
    State.modStep_mask, State.dropLocal_mask, apply_ite (State.mask qs), ite_self]

theorem execCommitDecision_mask {qs : List Area} (hc : covers qs [.hif, .stp, .fio, .twn, .out] = true) (seq : Word)
    (s : State) :
    nextMask qs s (execCommitDecision seq s) = s.mask qs := by
  unfold execCommitDecision
  repeat' split
  all_goals first | rfl | simp (disch := first | exact hc | exact covers_trans hc rfl) only [State.abortStep_mask, apply_ite (State.mask qs),
      ite_self, apply_ite (nextMask qs s), nextMask_next]

theorem State.turnTaken_mask {qs : List Area} (hc : covers qs [.stp] = true) (s : State) (p : Pair) :
    (State.turnTaken s p).mask qs = s.mask qs := by
  simp (disch := exact covers_trans hc rfl) only [State.turnTaken, State.mask_stp, apply_ite (State.mask qs),
    ite_self]

theorem State.enterStep_mask {qs : List Area} (hc : covers qs [.stp, .fio] = true) (s : State) (k : StepEntry) :
    (State.enterStep s k).mask qs = s.mask qs := by
  simp (disch := first | exact hc | exact covers_trans hc rfl) only [State.enterStep, State.mask_stp,
    State.claimActions_mask, apply_ite (State.mask qs), ite_self]

theorem State.acceptStep_mask {qs : List Area} (hc : covers qs [.hif, .stp, .fio, .twn, .out] = true) (s : State)
    (p : Pair) (e : Entry) (k : StepEntry) (slack : Int) :
    (State.acceptStep s p e k slack).mask qs = s.mask qs := by
  simp (disch := first | exact hc | exact covers_trans hc rfl) only [State.acceptStep, State.mirrorStep_mask,
    State.enterStep_mask, State.checkStep_mask, State.finishWith_mask, apply_ite (State.mask qs), ite_self]

theorem State.takeStep_mask {qs : List Area} (hc : covers qs [.hif, .stp, .fio, .twn, .out] = true) (s : State)
    (p : Pair) (e : Entry) :
    (State.takeStep s p e).mask qs = s.mask qs := by
  unfold State.takeStep
  try dsimp only
  repeat' first
    | with_reducible rfl
    | simp (disch := first | exact hc | exact covers_trans hc rfl) only [State.mask_stp, State.acceptStep_mask,
        State.refuseStep_mask, apply_ite (State.mask qs), ite_self]
    | split

theorem State.stepFront_mask {qs : List Area} (hc : covers qs [.hif, .stp, .fio, .twn, .out] = true) (s : State)
    (p : Pair) :
    (State.stepFront s p).mask qs = s.mask qs := by
  unfold State.stepFront
  repeat' split
  all_goals first | rfl | simp (disch := first | exact hc | exact covers_trans hc rfl) only [State.takeStep_mask, State.refuseStep_mask,
      State.noteNoncanon_mask, State.finishWith_mask, apply_ite (State.mask qs), ite_self]

theorem execStepDeferredAdmit_mask {qs : List Area} (hc : covers qs [.hif, .stp, .fio, .twn, .out] = true)
    (p : Pair) (s : State) :
    nextMask qs s (execStepDeferredAdmit p s) = s.mask qs := by
  simp (disch := first | exact hc | exact covers_trans hc rfl) only [execStepDeferredAdmit, State.turnTaken_mask,
    State.stepFront_mask, apply_ite (State.mask qs), ite_self, apply_ite (nextMask qs s), nextMask_next]

theorem execStepLaunch_mask {qs : List Area}
    (hc : covers qs [.hif, .stp, .cmb, .blk, .cnv, .fio, .mir, .bog, .twn, .out, .freeIdx] = true) (s : State) :
    nextMask qs s (execStepLaunch s) = s.mask qs := by
  unfold execStepLaunch
  try dsimp only
  repeat' first
    | with_reducible rfl
    | simp (disch := first | exact hc | exact covers_trans hc rfl) only [State.launchDue_mask,
        apply_ite (State.mask qs), ite_self, apply_ite (nextMask qs s), nextMask_next]
    | split
    | with_reducible refine (foldl_mask _ (fun s x => ?_) _ _).trans ?_
    | with_reducible refine (foldl_mask_fst _ (fun x a => ?_) _ _).trans ?_

theorem State.dropPart_mask {qs : List Area} (hc : covers qs [.stp] = true) (s : State) (seq : Word) :
    (State.dropPart s seq).mask qs = s.mask qs := by
  simp (disch := exact covers_trans hc rfl) only [State.dropPart, State.mask_stp, apply_ite (State.mask qs), ite_self]

theorem State.partDeadlineHere_mask {qs : List Area} (hc : covers qs [.stp, .fio] = true) (s : State) (x : Part) :
    (State.partDeadlineHere s x).mask qs = s.mask qs := by
  unfold State.partDeadlineHere
  repeat' split
  all_goals first | rfl | simp (disch := first | exact hc | exact covers_trans hc rfl) only [State.dropPart_mask, State.discardPart_mask,
      State.handPart_mask, apply_ite (State.mask qs), ite_self]

theorem State.cancelStep_mask {qs : List Area} (hc : covers qs [.hif, .stp, .fio, .twn, .out] = true) (s : State)
    (k : StepEntry) :
    (State.cancelStep s k).mask qs = s.mask qs := by
  simp (disch := first | exact hc | exact covers_trans hc rfl) only [State.cancelStep, State.checkStep_mask,
    State.abortStep_mask, State.modStep_mask, State.dropLocal_mask, apply_ite (State.mask qs), ite_self]

theorem execStepRelayReceive_mask {qs : List Area} (hc : covers qs [.stp, .wag] = true) (frame : RelayArrival)
    (s : State) :
    nextMask qs s (execStepRelayReceive frame s) = s.mask qs := by
  simp (disch := first | exact hc | exact covers_trans hc rfl) only [execStepRelayReceive, State.received,
    State.takeRelay_mask, State.takeFrame_mask, apply_ite (State.mask qs), ite_self, apply_ite (nextMask qs s),
    nextMask_next]

theorem State.heardAnswer_mask {qs : List Area} (hc : covers qs [.stp, .fio] = true) (s : State) (seq : Word) :
    (State.heardAnswer s seq).mask qs = s.mask qs := by
  unfold State.heardAnswer
  repeat' split
  all_goals first | rfl | simp (disch := first | exact hc | exact covers_trans hc rfl) only [State.answerSent_mask, apply_ite (State.mask qs),
      ite_self]

theorem State.takeCtrl_mask {qs : List Area} (hc : covers qs [.stp, .fio] = true) (s : State) (op : CtrlOp)
    (seq : Word) :
    (State.takeCtrl s op seq).mask qs = s.mask qs := by
  unfold State.takeCtrl
  repeat' split
  all_goals first | rfl | simp (disch := first | exact hc | exact covers_trans hc rfl) only [State.discardPart_mask, State.armPart_mask,
      apply_ite (State.mask qs), ite_self]

theorem State.ejectParts_mask {qs : List Area} (hc : covers qs [.stp, .fio] = true) (s : State) :
    (State.ejectParts s).mask qs = s.mask qs := by
  unfold State.ejectParts
  try dsimp only
  repeat' first
    | with_reducible rfl
    | simp (disch := first | exact hc | exact covers_trans hc rfl) only [State.modPart_mask, State.recallStep_mask,
        State.unclaimActions_mask, State.dropPart_mask, apply_ite (State.mask qs), ite_self]
    | split
    | with_reducible refine (foldl_mask _ (fun s x => ?_) _ _).trans ?_
    | with_reducible refine (foldl_mask_fst _ (fun x a => ?_) _ _).trans ?_

theorem execPartDeadline_mask {qs : List Area} (hc : covers qs [.hif, .stp, .fio, .twn, .out] = true) (seq : Word)
    (s : State) :
    nextMask qs s (execPartDeadline seq s) = s.mask qs := by
  unfold execPartDeadline
  try dsimp only
  repeat' first
    | with_reducible rfl
    | simp (disch := first | exact hc | exact covers_trans hc rfl) only [State.mask_stp, State.handStep_mask,
        State.modStep_mask, State.checkStep_mask, State.partDeadlineHere_mask, apply_ite (State.mask qs), ite_self,
        apply_ite (nextMask qs s), nextMask_next]
    | split
    | with_reducible refine (foldl_mask _ (fun s x => ?_) _ _).trans ?_
    | with_reducible refine (foldl_mask_fst _ (fun x a => ?_) _ _).trans ?_

theorem State.takeAnswer_mask {qs : List Area} (hc : covers qs [.hif, .stp, .fio, .twn, .out] = true) (s : State)
    (k : Nat) (answer : Answer) (seq : Word) :
    (State.takeAnswer s k answer seq).mask qs = s.mask qs := by
  unfold State.takeAnswer
  try dsimp only
  repeat' first
    | with_reducible rfl
    | simp (disch := first | exact hc | exact covers_trans hc rfl) only [State.checkStep_mask, State.commitStep_mask,
        State.abortStep_mask, State.modStep_mask, State.heardAnswer_mask, apply_ite (State.mask qs), ite_self]
    | split

theorem execStepAnswerReceive_mask {qs : List Area} (hc : covers qs [.hif, .stp, .fio, .wag, .twn, .out] = true)
    (hdr : FrameHdr) (first : Answer × Word) (rest : List (Answer × Word)) (s : State) :
    nextMask qs s (execStepAnswerReceive hdr first rest s) = s.mask qs := by
  unfold execStepAnswerReceive State.received
  try dsimp only
  repeat' first
    | with_reducible rfl
    | simp (disch := first | exact hc | exact covers_trans hc rfl) only [State.takeAnswer_mask, State.takeFrame_mask,
        apply_ite (State.mask qs), ite_self, apply_ite (nextMask qs s), nextMask_next]
    | split
    | with_reducible refine (foldl_mask _ (fun s x => ?_) _ _).trans ?_
    | with_reducible refine (foldl_mask_fst _ (fun x a => ?_) _ _).trans ?_

theorem execStepCtrlReceive_mask {qs : List Area} (hc : covers qs [.stp, .fio, .wag] = true) (hdr : FrameHdr)
    (entries : List (CtrlOp × Word)) (s : State) :
    nextMask qs s (execStepCtrlReceive hdr entries s) = s.mask qs := by
  unfold execStepCtrlReceive State.received
  try dsimp only
  repeat' first
    | with_reducible rfl
    | simp (disch := first | exact hc | exact covers_trans hc rfl) only [State.takeCtrl_mask, State.takeFrame_mask,
        apply_ite (State.mask qs), ite_self, apply_ite (nextMask qs s), nextMask_next]
    | split
    | with_reducible refine (foldl_mask _ (fun s x => ?_) _ _).trans ?_
    | with_reducible refine (foldl_mask_fst _ (fun x a => ?_) _ _).trans ?_

theorem State.voidLaunches_mask {qs : List Area} (hc : covers qs [.hif, .stp, .fio, .twn, .out] = true) (s : State) :
    (State.voidLaunches s).mask qs = s.mask qs := by
  unfold State.voidLaunches
  try dsimp only
  repeat' first
    | with_reducible rfl
    | simp (disch := first | exact hc | exact covers_trans hc rfl) only [State.dropLocal_mask, State.checkStep_mask,
        State.discardPart_mask, State.dropPart_mask, apply_ite (State.mask qs), ite_self]
    | split
    | with_reducible refine (foldl_mask _ (fun s x => ?_) _ _).trans ?_
    | with_reducible refine (foldl_mask_fst _ (fun x a => ?_) _ _).trans ?_

theorem execStepCancel_mask {qs : List Area} (hc : covers qs [.hif, .stp, .fio, .twn, .out] = true) (p : Pair)
    (s : State) :
    nextMask qs s (execStepCancel p s) = s.mask qs := by
  unfold execStepCancel
  try dsimp only
  repeat' first
    | with_reducible rfl
    | simp (disch := first | exact hc | exact covers_trans hc rfl) only [State.mirrorStep_mask, State.cancelStep_mask,
        State.finish_mask, State.turnTaken_mask, apply_ite (State.mask qs), ite_self, apply_ite (nextMask qs s),
        nextMask_next]
    | split

theorem execCancelCutOff_mask {qs : List Area} (hc : covers qs [] = true) (_seq : Word) (s : State) :
    nextMask qs s (execCancelCutOff _seq s) = s.mask qs := by
  simp (disch := exact covers_trans hc rfl) only [execCancelCutOff, apply_ite (State.mask qs), ite_self,
    apply_ite (nextMask qs s), nextMask_next]

theorem execStepFlush_mask {qs : List Area} (hc : covers qs [.hif, .stp, .fio, .twn, .out] = true) (p : Pair)
    (s : State) :
    nextMask qs s (execStepFlush p s) = s.mask qs := by
  unfold execStepFlush
  try dsimp only
  repeat' first
    | with_reducible rfl
    | simp (disch := first | exact hc | exact covers_trans hc rfl) only [State.mirrorStep_mask, State.cancelStep_mask,
        State.finish_mask, State.turnTaken_mask, apply_ite (State.mask qs), ite_self, apply_ite (nextMask qs s),
        nextMask_next]
    | split
    | with_reducible refine (foldl_mask _ (fun s x => ?_) _ _).trans ?_
    | with_reducible refine (foldl_mask_fst _ (fun x a => ?_) _ _).trans ?_

theorem State.ejectSteps_mask {qs : List Area} (hc : covers qs [.hif, .stp, .fio, .twn, .out] = true) (s : State) :
    (State.ejectSteps s).mask qs = s.mask qs := by
  unfold State.ejectSteps
  try dsimp only
  repeat' first
    | with_reducible rfl
    | simp (disch := first | exact hc | exact covers_trans hc rfl) only [State.mask_stp, State.closeStepWith_mask,
        apply_ite (State.mask qs), ite_self]
    | split
    | with_reducible refine (foldl_mask _ (fun s x => ?_) _ _).trans ?_
    | with_reducible refine (foldl_mask_fst _ (fun x a => ?_) _ _).trans ?_

theorem State.takeReport_mask {qs : List Area} (hc : covers qs [.hif, .stp, .fio, .twn, .out] = true) (s : State)
    (k : Nat) (report : StepReport) :
    (State.takeReport s k report).mask qs = s.mask qs := by
  unfold State.takeReport
  repeat' split
  all_goals first | rfl | simp (disch := first | exact hc | exact covers_trans hc rfl) only [State.modStep_mask, State.checkStep_mask,
      State.modPart_mask, apply_ite (State.mask qs), ite_self]

theorem execStepReportReceive_mask {qs : List Area} (hc : covers qs [.hif, .stp, .fio, .wag, .twn, .out] = true)
    (hdr : FrameHdr) (reports : List StepReport) (s : State) :
    nextMask qs s (execStepReportReceive hdr reports s) = s.mask qs := by
  unfold execStepReportReceive State.received
  try dsimp only
  repeat' first
    | with_reducible rfl
    | simp (disch := first | exact hc | exact covers_trans hc rfl) only [State.takeReport_mask, State.takeFrame_mask,
        apply_ite (State.mask qs), ite_self, apply_ite (nextMask qs s), nextMask_next]
    | split
    | with_reducible refine (foldl_mask _ (fun s x => ?_) _ _).trans ?_
    | with_reducible refine (foldl_mask_fst _ (fun x a => ?_) _ _).trans ?_

theorem execReportDeadline_mask {qs : List Area} (hc : covers qs [.hif, .stp, .fio, .twn, .out] = true) (seq : Word)
    (s : State) :
    nextMask qs s (execReportDeadline seq s) = s.mask qs := by
  unfold execReportDeadline
  repeat' split
  all_goals first | rfl | simp (disch := first | exact hc | exact covers_trans hc rfl) only [State.closeStep_mask, apply_ite (State.mask qs),
      ite_self, apply_ite (nextMask qs s), nextMask_next]

theorem State.stationRemoved_mask {qs : List Area} (hc : covers qs [.hif, .stp, .fio, .twn, .out] = true)
    (s : State) (k : Nat) :
    (State.stationRemoved s k).mask qs = s.mask qs := by
  unfold State.stationRemoved
  try dsimp only
  repeat' first
    | with_reducible rfl
    | simp (disch := first | exact hc | exact covers_trans hc rfl) only [State.modStep_mask, State.checkStep_mask,
        apply_ite (State.mask qs), ite_self]
    | split
    | with_reducible refine (foldl_mask _ (fun s x => ?_) _ _).trans ?_
    | with_reducible refine (foldl_mask_fst _ (fun x a => ?_) _ _).trans ?_

theorem execStep_mask {qs : List Area} (hc : covers qs [.hif, .stp, .fio, .twn, .out] = true) (p : Pair) (s : State) :
    nextMask qs s (execStep p s) = s.mask qs := by
  simp (disch := first | exact hc | exact covers_trans hc rfl) only [execStep, State.turnTaken_mask,
    State.stepFront_mask, apply_ite (State.mask qs), ite_self, apply_ite (nextMask qs s), nextMask_next]

end Sys2Proof.Machine
end

