-- ==== Sys2Proof/Laws/FrameTimeBase.lean ====
section
/-! SUPPORT. Which parts of the State the definitions of Machine/TimeBase.lean leave alone: one lemma each, for every set of parts
that covers those it changes. -/

set_option linter.unusedSimpArgs false
set_option linter.unreachableTactic false
set_option linter.unusedTactic false

namespace Sys2Proof.Machine

theorem State.steerTb1_mask {qs : List Area} (hc : covers qs [.time, .freeIdx] = true) (s : State) :
    (State.steerTb1 s).mask qs = s.mask qs := by
  simp (disch := first | exact hc | exact covers_trans hc rfl) only [State.steerTb1, State.mask_time,
    State.tookFree_mask, apply_ite (State.mask qs), ite_self]

theorem State.modTpo_mask {qs : List Area} (hc : covers qs [.time] = true) (s : State) (n : Nat)
    (f : PulseRt → PulseRt) :
    (State.modTpo s n f).mask qs = s.mask qs := by
  simp (disch := exact covers_trans hc rfl) only [State.modTpo, State.mask_time, apply_ite (State.mask qs), ite_self]

theorem State.setTime_mask {qs : List Area} (hc : covers qs [.time] = true) (s : State) (t : TimeState) :
    (State.setTime s t).mask qs = s.mask qs := by
  simp (disch := exact covers_trans hc rfl) only [State.setTime, State.mask_time, apply_ite (State.mask qs), ite_self]

theorem execTsqRead_mask {qs : List Area} (hc : covers qs [.time, .hif, .out] = true) (p : Pair) (s : State) :
    nextMask qs s (execTsqRead p s) = s.mask qs := by
  unfold execTsqRead
  repeat' split
  all_goals first | rfl | simp (disch := first | exact hc | exact covers_trans hc rfl) only [State.setTime_mask, State.finish_mask,
      State.hostWrite_mask, apply_ite (State.mask qs), ite_self, apply_ite (nextMask qs s), nextMask_next]

theorem execPulseOutputEdge_mask {qs : List Area} (hc : covers qs [.time, .out] = true) (n : Fin 4) (s : State) :
    nextMask qs s (execPulseOutputEdge n s) = s.mask qs := by
  simp (disch := first | exact hc | exact covers_trans hc rfl) only [execPulseOutputEdge, State.emitOut_mask,
    State.modTpo_mask, apply_ite (State.mask qs), ite_self, apply_ite (nextMask qs s), nextMask_next]

theorem State.clearTpo_mask {qs : List Area} (hc : covers qs [.time] = true) (s : State) (n : Nat) (w : Word) :
    (State.clearTpo s n w).mask qs = s.mask qs := by
  simp (disch := first | exact hc | exact covers_trans hc rfl) only [State.clearTpo, State.modTpo_mask,
    apply_ite (State.mask qs), ite_self]

theorem State.writeTpo_mask {qs : List Area} (hc : covers qs [.regs, .out] = true) (s : State) (n : Nat) (w : Word) :
    (State.writeTpo s n w).mask qs = s.mask qs := by
  simp (disch := first | exact hc | exact covers_trans hc rfl) only [State.writeTpo, State.emitOut_mask,
    State.setReg_mask, apply_ite (State.mask qs), ite_self]

theorem execPulseOutputDisarm_mask {qs : List Area} (hc : covers qs [.regs, .time, .out] = true) (n : Fin 4)
    (w : Word) (s : State) :
    nextMask qs s (execPulseOutputDisarm n w s) = s.mask qs := by
  simp (disch := first | exact hc | exact covers_trans hc rfl) only [execPulseOutputDisarm, State.modTpo_mask,
    State.emitOut_mask, State.clearTpo_mask, State.writeTpo_mask, apply_ite (State.mask qs), ite_self,
    apply_ite (nextMask qs s), nextMask_next]

theorem State.steerTb0_mask {qs : List Area} (hc : covers qs [.time, .freeIdx] = true) (s : State) :
    (State.steerTb0 s).mask qs = s.mask qs := by
  simp (disch := first | exact hc | exact covers_trans hc rfl) only [State.steerTb0, State.mask_time,
    State.tookFree_mask, apply_ite (State.mask qs), ite_self]

theorem State.putTb0_mask {qs : List Area} (hc : covers qs [.time] = true) (s : State) (sec : BitVec 48) (nsec : Nat) :
    (State.putTb0 s sec nsec).mask qs = s.mask qs := by
  simp (disch := first | exact hc | exact covers_trans hc rfl) only [State.putTb0, State.setTime_mask,
    apply_ite (State.mask qs), ite_self]

theorem State.stepTb0_mask {qs : List Area} (hc : covers qs [.time] = true) (s : State) (sec : BitVec 48) (nsec : Nat) :
    (State.stepTb0 s sec nsec).mask qs = s.mask qs := by
  simp (disch := first | exact hc | exact covers_trans hc rfl) only [State.stepTb0, State.setTime_mask,
    State.putTb0_mask, apply_ite (State.mask qs), ite_self]

theorem State.shiftTb0_mask {qs : List Area} (hc : covers qs [.time] = true) (s : State) (off : Int) :
    (State.shiftTb0 s off).mask qs = s.mask qs := by
  simp (disch := first | exact hc | exact covers_trans hc rfl) only [State.shiftTb0, State.stepTb0_mask,
    apply_ite (State.mask qs), ite_self]

theorem State.ptpOffset_mask {qs : List Area} (hc : covers qs [.time, .hif, .out, .freeIdx] = true) (s : State)
    (off : Int) :
    (State.ptpOffset s off).mask qs = s.mask qs := by
  simp (disch := first | exact hc | exact covers_trans hc rfl) only [State.ptpOffset, State.setLock_mask,
    State.setTime_mask, State.steerTb0_mask, State.shiftTb0_mask, apply_ite (State.mask qs), ite_self]

theorem execPtpMessage_mask {qs : List Area} (hc : covers qs [.time, .hif, .out, .freeIdx] = true) (port : Fin 2)
    (m : PtpArrival) (s : State) :
    nextMask qs s (execPtpMessage port m s) = s.mask qs := by
  unfold execPtpMessage
  repeat' split
  all_goals first | rfl | simp (disch := first | exact hc | exact covers_trans hc rfl) only [State.ptpOffset_mask, State.setTime_mask,
      apply_ite (State.mask qs), ite_self, apply_ite (nextMask qs s), nextMask_next]

theorem State.judgeTb1_mask {qs : List Area} (hc : covers qs [.time, .hif, .out] = true) (s : State) (off : Int) :
    (State.judgeTb1 s off).mask qs = s.mask qs := by
  simp (disch := first | exact hc | exact covers_trans hc rfl) only [State.judgeTb1, State.setLock_mask,
    State.setTime_mask, apply_ite (State.mask qs), ite_self]

theorem execPtpMessageSend_mask {qs : List Area} (hc : covers qs [.time, .out] = true) (port : Fin 2)
    (mac : Option Stamp) (s : State) :
    nextMask qs s (execPtpMessageSend port mac s) = s.mask qs := by
  simp (disch := first | exact hc | exact covers_trans hc rfl) only [execPtpMessageSend, State.setTime_mask,
    State.emitOut_mask, apply_ite (State.mask qs), ite_self, apply_ite (nextMask qs s), nextMask_next]

theorem State.tick_mask {qs : List Area} (hc : covers qs [.time, .freeIdx] = true) (s : State) :
    (State.tick s).mask qs = s.mask qs := by
  simp (disch := exact covers_trans hc rfl) only [State.tick, State.mask_time_freeIdx, apply_ite (State.mask qs),
    ite_self]

theorem execPulseOutputArm_mask {qs : List Area} (hc : covers qs [.regs, .time, .out] = true) (n : Fin 4) (w : Word)
    (s : State) :
    nextMask qs s (execPulseOutputArm n w s) = s.mask qs := by
  simp (disch := first | exact hc | exact covers_trans hc rfl) only [execPulseOutputArm, State.modTpo_mask,
    State.clearTpo_mask, State.writeTpo_mask, apply_ite (State.mask qs), ite_self, apply_ite (nextMask qs s),
    nextMask_next]

theorem State.followTb0_mask {qs : List Area} (hc : covers qs [.time, .hif, .out, .freeIdx] = true) (s : State)
    (r : RefPayload) :
    (State.followTb0 s r).mask qs = s.mask qs := by
  simp (disch := first | exact hc | exact covers_trans hc rfl) only [State.followTb0, State.setLock_mask,
    State.steerTb0_mask, State.putTb0_mask, State.setTime_mask, apply_ite (State.mask qs), ite_self]

theorem State.realign_mask {qs : List Area} (hc : covers qs [.cmb, .cnv] = true) (s : State) (before : Time) :
    (State.realign s before).mask qs = s.mask qs := by
  simp (disch := exact covers_trans hc rfl) only [State.realign, State.mask_cmb_cnv, apply_ite (State.mask qs),
    ite_self]

theorem State.stepTb1_mask {qs : List Area} (hc : covers qs [.time, .hif, .cmb, .cnv, .out] = true) (s : State)
    (x : Int) :
    (State.stepTb1 s x).mask qs = s.mask qs := by
  simp (disch := first | exact hc | exact covers_trans hc rfl) only [State.stepTb1, State.raise_mask,
    State.realign_mask, State.setTime_mask, apply_ite (State.mask qs), ite_self]

theorem State.takeOffset_mask {qs : List Area}
    (hc : covers qs [.time, .hif, .stp, .cmb, .cnv, .fio, .twn, .out, .freeIdx] = true) (s : State) (off : Int)
    (resync : Bool) :
    (State.takeOffset s off resync).mask qs = s.mask qs := by
  simp (disch := first | exact hc | exact covers_trans hc rfl) only [State.takeOffset, State.steerTb1_mask,
    State.judgeTb1_mask, State.voidLaunches_mask, State.stepTb1_mask, State.setTime_mask, apply_ite (State.mask qs),
    ite_self]

theorem State.rateFromTb0_mask {qs : List Area} (hc : covers qs [.time] = true) (s : State) :
    (State.rateFromTb0 s).mask qs = s.mask qs := by
  simp (disch := first | exact hc | exact covers_trans hc rfl) only [State.rateFromTb0, State.setTime_mask,
    apply_ite (State.mask qs), ite_self]

theorem doTimeSet_mask {qs : List Area} (hc : covers qs [.time, .hif, .out] = true) (p : Pair) (s : State) :
    nextMask qs s (doTimeSet p s) = s.mask qs := by
  unfold doTimeSet
  repeat' split
  all_goals first | rfl | simp (disch := first | exact hc | exact covers_trans hc rfl) only [State.setLock_mask, State.setTime_mask,
      State.stepTb0_mask, State.finish_mask, apply_ite (State.mask qs), ite_self, apply_ite (nextMask qs s),
      nextMask_next]

theorem State.pushTsq_mask {qs : List Area} (hc : covers qs [.time] = true) (s : State) (ident : BitVec 16)
    (port : Fin 2) :
    (State.pushTsq s ident port).mask qs = s.mask qs := by
  simp (disch := first | exact hc | exact covers_trans hc rfl) only [State.pushTsq, State.setTime_mask,
    apply_ite (State.mask qs), ite_self]

theorem execTb0Restep_mask {qs : List Area} (hc : covers qs [.time] = true) (s : State) :
    nextMask qs s (execTb0Restep s) = s.mask qs := by
  simp (disch := first | exact hc | exact covers_trans hc rfl) only [execTb0Restep, State.setTime_mask,
    apply_ite (State.mask qs), ite_self, apply_ite (nextMask qs s), nextMask_next]

end Sys2Proof.Machine
end

