-- ==== Sys2Proof/Laws/FrameWagLink.lean ====
section
/-! SUPPORT. Which parts of the State the definitions of Machine/WagLink.lean leave alone: one lemma each, for every set of parts
that covers those it changes. -/

set_option linter.unusedSimpArgs false
set_option linter.unreachableTactic false
set_option linter.unusedTactic false

namespace Sys2Proof.Machine

theorem State.followCycle_mask {qs : List Area} (hc : covers qs [.wag] = true) (s : State) :
    (State.followCycle s).mask qs = s.mask qs := by
  simp (disch := first | exact hc | exact covers_trans hc rfl) only [State.followCycle, State.setWag_mask,
    apply_ite (State.mask qs), ite_self]

theorem State.toTrunks_mask {qs : List Area} (hc : covers qs [.out] = true) (s : State) (ports : List Nat)
    (f : WagFrame) (stomped : Bool) :
    (State.toTrunks s ports f stomped).mask qs = s.mask qs := by
  unfold State.toTrunks
  try dsimp only
  repeat' first
    | with_reducible rfl
    | simp (disch := first | exact hc | exact covers_trans hc rfl) only [State.emitOut_mask,
        apply_ite (State.mask qs), ite_self]
    | split
    | with_reducible refine (foldl_mask _ (fun s x => ?_) _ _).trans ?_
    | with_reducible refine (foldl_mask_fst _ (fun x a => ?_) _ _).trans ?_

theorem State.sendFrame_mask {qs : List Area} (hc : covers qs [.out] = true) (s : State) (f : WagFrame) :
    (State.sendFrame s f).mask qs = s.mask qs := by
  simp (disch := first | exact hc | exact covers_trans hc rfl) only [State.sendFrame, State.emitOut_mask,
    State.toTrunks_mask, apply_ite (State.mask qs), ite_self]

theorem State.sendReference_mask {qs : List Area} (hc : covers qs [.time, .hif, .wag, .out] = true) (s : State) :
    (State.sendReference s).mask qs = s.mask qs := by
  simp (disch := first | exact hc | exact covers_trans hc rfl) only [State.sendReference, State.sendFrame_mask,
    State.setLock_mask, State.setWag_mask, apply_ite (State.mask qs), ite_self]

theorem State.announceMode_mask {qs : List Area} (hc : covers qs [.hif, .wag, .out] = true) (s : State) :
    (State.announceMode s).mask qs = s.mask qs := by
  unfold State.announceMode
  repeat' split
  all_goals first | rfl | simp (disch := first | exact hc | exact covers_trans hc rfl) only [State.raise_mask, State.setWag_mask,
      apply_ite (State.mask qs), ite_self]

theorem State.matrixStart_mask {qs : List Area} (hc : covers qs [.wag] = true) (s : State) :
    (State.matrixStart s).mask qs = s.mask qs := by
  simp (disch := first | exact hc | exact covers_trans hc rfl) only [State.matrixStart, State.setWag_mask,
    apply_ite (State.mask qs), ite_self]

theorem State.abandonMode_mask {qs : List Area} (hc : covers qs [.hif, .wag, .out] = true) (s : State) (q : ModeReq)
    (missing : List Nat) :
    (State.abandonMode s q missing).mask qs = s.mask qs := by
  simp (disch := first | exact hc | exact covers_trans hc rfl) only [State.abandonMode, State.finish_mask,
    State.raise_mask, State.setWag_mask, apply_ite (State.mask qs), ite_self]

theorem State.decideMode_mask {qs : List Area} (hc : covers qs [.hif, .wag, .out] = true) (s : State) :
    (State.decideMode s).mask qs = s.mask qs := by
  unfold State.decideMode
  repeat' split
  all_goals first | rfl | simp (disch := first | exact hc | exact covers_trans hc rfl) only [State.abandonMode_mask, State.setWag_mask,
      apply_ite (State.mask qs), ite_self]

theorem State.enterMode_mask {qs : List Area} (hc : covers qs [.stp, .wag] = true) (s : State) (m : Nat) :
    (State.enterMode s m).mask qs = s.mask qs := by
  simp (disch := first | exact hc | exact covers_trans hc rfl) only [State.enterMode, State.recomputeRelay_mask,
    State.setWag_mask, apply_ite (State.mask qs), ite_self]

theorem State.changeMode_mask {qs : List Area} (hc : covers qs [.hif, .stp, .wag, .out] = true) (s : State)
    (m : Nat) (cycle : Word) :
    (State.changeMode s m cycle).mask qs = s.mask qs := by
  simp (disch := first | exact hc | exact covers_trans hc rfl) only [State.changeMode, State.setWag_mask,
    State.raise_mask, State.enterMode_mask, apply_ite (State.mask qs), ite_self]

theorem State.takeMode_mask {qs : List Area} (hc : covers qs [.hif, .stp, .wag, .out] = true) (s : State)
    (cycle : Word) :
    (State.takeMode s cycle).mask qs = s.mask qs := by
  unfold State.takeMode
  try dsimp only
  repeat' first
    | with_reducible rfl
    | simp (disch := first | exact hc | exact covers_trans hc rfl) only [State.finish_mask, State.changeMode_mask,
        State.setWag_mask, apply_ite (State.mask qs), ite_self]
    | split

theorem State.nextCycle_mask {qs : List Area} (hc : covers qs [.time, .hif, .stp, .wag, .out] = true) (s : State) :
    (State.nextCycle s).mask qs = s.mask qs := by
  simp (disch := first | exact hc | exact covers_trans hc rfl) only [State.nextCycle, State.setLock_mask,
    State.sendReference_mask, State.announceMode_mask, State.matrixStart_mask, State.decideMode_mask,
    State.takeMode_mask, State.setWag_mask, apply_ite (State.mask qs), ite_self]

theorem State.compareViews_mask {qs : List Area} (hc : covers qs [.hif, .wag, .out] = true) (s : State) (k : Nat) :
    (State.compareViews s k).mask qs = s.mask qs := by
  simp (disch := first | exact hc | exact covers_trans hc rfl) only [State.compareViews, State.raise_mask,
    State.setWag_mask, apply_ite (State.mask qs), ite_self]

theorem execBasicCycleStart_mask {qs : List Area} (hc : covers qs [.time, .hif, .stp, .wag, .out] = true) (s : State) :
    nextMask qs s (execBasicCycleStart s) = s.mask qs := by
  unfold execBasicCycleStart
  try dsimp only
  repeat' first
    | with_reducible rfl
    | simp (disch := first | exact hc | exact covers_trans hc rfl) only [State.followCycle_mask, State.nextCycle_mask,
        State.compareViews_mask, State.setWag_mask, apply_ite (State.mask qs), ite_self, apply_ite (nextMask qs s),
        nextMask_next]
    | split
    | with_reducible refine (foldl_mask _ (fun s x => ?_) _ _).trans ?_
    | with_reducible refine (foldl_mask_fst _ (fun x a => ?_) _ _).trans ?_

theorem State.tb1FromTb0_mask {qs : List Area} (hc : covers qs [.time, .hif, .cmb, .cnv, .out] = true) (s : State) :
    (State.tb1FromTb0 s).mask qs = s.mask qs := by
  simp (disch := first | exact hc | exact covers_trans hc rfl) only [State.tb1FromTb0, State.stepTb1_mask,
    apply_ite (State.mask qs), ite_self]

theorem State.setTrunk_mask {qs : List Area} (hc : covers qs [.hif, .wag, .out] = true) (s : State) (k : Nat)
    (r : TrunkRt) (st : TrunkSt) :
    (State.setTrunk s k r st).mask qs = s.mask qs := by
  simp (disch := first | exact hc | exact covers_trans hc rfl) only [State.setTrunk, State.raise_mask,
    State.setWag_mask, apply_ite (State.mask qs), ite_self]

theorem State.judgeTrunk_mask {qs : List Area} (hc : covers qs [.hif, .wag, .out] = true) (s : State) (k : Nat) :
    (State.judgeTrunk s k).mask qs = s.mask qs := by
  simp (disch := first | exact hc | exact covers_trans hc rfl) only [State.judgeTrunk, State.setTrunk_mask,
    apply_ite (State.mask qs), ite_self]

theorem State.countClash_mask {qs : List Area} (hc : covers qs [.hif, .wag, .out] = true) (s : State) (ident : Nat) :
    (State.countClash s ident).mask qs = s.mask qs := by
  simp (disch := first | exact hc | exact covers_trans hc rfl) only [State.countClash, State.raise_mask,
    State.setWag_mask, apply_ite (State.mask qs), ite_self]

theorem State.unsendPart_mask {qs : List Area} (hc : covers qs [.stp, .fio] = true) (s : State) (seq : Word)
    (report : Bool) :
    (State.unsendPart s seq report).mask qs = s.mask qs := by
  unfold State.unsendPart
  repeat' split
  all_goals first | rfl | simp (disch := first | exact hc | exact covers_trans hc rfl) only [State.unclaimActions_mask, State.modPart_mask,
      apply_ite (State.mask qs), ite_self]

theorem State.unsend_mask {qs : List Area} (hc : covers qs [.stp, .fio, .wag] = true) (s : State) (f : TxFrame) :
    (State.unsend s f).mask qs = s.mask qs := by
  unfold State.unsend
  try dsimp only
  repeat' first
    | with_reducible rfl
    | simp (disch := first | exact hc | exact covers_trans hc rfl) only [State.unsendPart_mask, State.modStep_mask,
        State.setWag_mask, apply_ite (State.mask qs), ite_self]
    | split
    | with_reducible refine (foldl_mask _ (fun s x => ?_) _ _).trans ?_
    | with_reducible refine (foldl_mask_fst _ (fun x a => ?_) _ _).trans ?_

theorem State.dropMode_mask {qs : List Area} (hc : covers qs [.hif, .wag, .out] = true) (s : State) :
    (State.dropMode s).mask qs = s.mask qs := by
  unfold State.dropMode
  repeat' split
  all_goals first | rfl | simp (disch := first | exact hc | exact covers_trans hc rfl) only [State.abandonMode_mask, apply_ite (State.mask qs),
      ite_self]

theorem State.leaveLink_mask {qs : List Area} (hc : covers qs [.time, .hif, .stp, .wag, .out] = true) (s : State)
    (l : LinkSt) :
    (State.leaveLink s l).mask qs = s.mask qs := by
  unfold State.leaveLink
  try dsimp only
  repeat' first
    | with_reducible rfl
    | simp (disch := first | exact hc | exact covers_trans hc rfl) only [State.setWag_mask, State.setTime_mask,
        State.leaveStation_mask, State.setLock_mask, State.dropMode_mask, apply_ite (State.mask qs), ite_self]
    | split
    | with_reducible refine (foldl_mask _ (fun s x => ?_) _ _).trans ?_
    | with_reducible refine (foldl_mask_fst _ (fun x a => ?_) _ _).trans ?_

theorem State.collide_mask {qs : List Area} (hc : covers qs [.time, .hif, .stp, .wag, .out] = true) (s : State) :
    (State.collide s).mask qs = s.mask qs := by
  simp (disch := first | exact hc | exact covers_trans hc rfl) only [State.collide, State.setWag_mask,
    State.raise_mask, State.leaveLink_mask, apply_ite (State.mask qs), ite_self]

theorem execEchoCheckFail_mask {qs : List Area} (hc : covers qs [.time, .hif, .stp, .fio, .wag, .out] = true)
    (ident : BitVec 24) (s : State) :
    nextMask qs s (execEchoCheckFail ident s) = s.mask qs := by
  unfold execEchoCheckFail
  try dsimp only
  repeat' first
    | with_reducible rfl
    | simp (disch := first | exact hc | exact covers_trans hc rfl) only [State.countClash_mask, State.unsend_mask,
        State.collide_mask, State.setWag_mask, apply_ite (State.mask qs), ite_self, apply_ite (nextMask qs s),
        nextMask_next]
    | split

theorem execHeadReferenceCopy_mask {qs : List Area} (hc : covers qs [.out] = true) (s : State) :
    nextMask qs s (execHeadReferenceCopy s) = s.mask qs := by
  unfold execHeadReferenceCopy
  repeat' split
  all_goals first | rfl | simp (disch := first | exact hc | exact covers_trans hc rfl) only [State.emitOut_mask, State.toTrunks_mask,
      apply_ite (State.mask qs), ite_self, apply_ite (nextMask qs s), nextMask_next]

theorem State.markUpstream_mask {qs : List Area} (hc : covers qs [.hif, .wag, .out] = true) (s : State) (k : Nat) :
    (State.markUpstream s k).mask qs = s.mask qs := by
  simp (disch := first | exact hc | exact covers_trans hc rfl) only [State.markUpstream, State.setWag_mask,
    State.judgeTrunk_mask, apply_ite (State.mask qs), ite_self]

theorem State.trunkWritten_mask {qs : List Area} (hc : covers qs [.hif, .wag, .out] = true) (s : State) (k : Nat) :
    (State.trunkWritten s k).mask qs = s.mask qs := by
  simp (disch := first | exact hc | exact covers_trans hc rfl) only [State.trunkWritten, State.judgeTrunk_mask,
    State.markUpstream_mask, State.setWag_mask, apply_ite (State.mask qs), ite_self]

theorem State.countStomp_mask {qs : List Area} (hc : covers qs [.wag] = true) (s : State) (k : Nat) (bad : Bool) :
    (State.countStomp s k bad).mask qs = s.mask qs := by
  simp (disch := first | exact hc | exact covers_trans hc rfl) only [State.countStomp, State.setWag_mask,
    apply_ite (State.mask qs), ite_self]

theorem State.becomeStandby_mask {qs : List Area} (hc : covers qs [.time, .hif, .stp, .wag, .out] = true)
    (s : State) (rank : Nat) :
    (State.becomeStandby s rank).mask qs = s.mask qs := by
  simp (disch := first | exact hc | exact covers_trans hc rfl) only [State.becomeStandby, State.leaveLink_mask,
    State.raise_mask, apply_ite (State.mask qs), ite_self]

theorem State.codeErrors_mask {qs : List Area} (hc : covers qs [.wag] = true) (s : State) (p : TrunkPort) :
    (State.codeErrors s p).mask qs = s.mask qs := by
  simp (disch := first | exact hc | exact covers_trans hc rfl) only [State.codeErrors, State.setWag_mask,
    apply_ite (State.mask qs), ite_self]

theorem State.startLink_mask {qs : List Area} (hc : covers qs [.time, .hif, .stp, .cmb, .cnv, .wag, .out] = true)
    (s : State) (setTb1 : Bool) :
    (State.startLink s setTb1).mask qs = s.mask qs := by
  unfold State.startLink
  try dsimp only
  repeat' first
    | with_reducible rfl
    | simp (disch := first | exact hc | exact covers_trans hc rfl) only [State.matrixStart_mask,
        State.sendReference_mask, State.enterMode_mask, State.setTime_mask, State.tb1FromTb0_mask, State.setWag_mask,
        State.raise_mask, apply_ite (State.mask qs), ite_self]
    | split

theorem State.takeRole_mask {qs : List Area} (hc : covers qs [.time, .hif, .stp, .wag, .out] = true) (s : State) :
    (State.takeRole s).mask qs = s.mask qs := by
  unfold State.takeRole
  repeat' split
  all_goals first | rfl | simp (disch := first | exact hc | exact covers_trans hc rfl) only [State.raise_mask, State.leaveLink_mask,
      apply_ite (State.mask qs), ite_self]

theorem State.guardianRef_mask {qs : List Area} (hc : covers qs [.wag] = true) (s : State) (sof : Stamp) :
    (State.guardianRef s sof).mask qs = s.mask qs := by
  simp (disch := first | exact hc | exact covers_trans hc rfl) only [State.guardianRef, State.setWag_mask,
    apply_ite (State.mask qs), ite_self]

theorem State.followRef_mask {qs : List Area} (hc : covers qs [.time, .hif, .stp, .cmb, .cnv, .fio, .wag, .twn, .out, .freeIdx] = true) (s : State) (h : FrameHdr) (r : RefPayload)
    (stamp : Stamp) : (State.followRef s h r stamp).mask qs = s.mask qs := by
  unfold State.followRef
  extract_lets g off s1 newPend w2 s2 s3 s4 w5 s5 s6
  have e1 : s1.mask qs = s.mask qs := by
    simp (disch := first | exact hc | exact covers_trans hc rfl) only [s1, State.followTb0_mask, State.takeOffset_mask, State.guardianRef_mask]
  have e2 : s2.mask qs = s.mask qs := (State.setWag_mask (covers_trans hc rfl) _ _).trans e1
  have e3 : s3.mask qs = s.mask qs := by
    simp (disch := first | exact hc | exact covers_trans hc rfl) only [s3, State.enterMode_mask, State.changeMode_mask, apply_ite (State.mask qs), ite_self, e2]
  have e4 : s4.mask qs = s.mask qs := by
    simp (disch := first | exact hc | exact covers_trans hc rfl) only [s4, State.matrixStart_mask, apply_ite (State.mask qs), ite_self, e3]
  have e5 : s5.mask qs = s.mask qs := (State.setWag_mask (covers_trans hc rfl) _ _).trans e4
  have e6 : s6.mask qs = s.mask qs := by
    simp (disch := first | exact hc | exact covers_trans hc rfl) only [s6, State.raise_mask, apply_ite (State.mask qs), ite_self, e5]
  clear_value s6
  split
  · rw [State.raise_mask (covers_trans hc rfl), State.setWag_mask (covers_trans hc rfl), e6]
  · exact e6

theorem State.markPorts_mask {qs : List Area} (hc : covers qs [.hif, .wag, .out] = true) (s : State) :
    (State.markPorts s).mask qs = s.mask qs := by
  simp (disch := first | exact hc | exact covers_trans hc rfl) only [State.markPorts, State.markUpstream_mask,
    State.setWag_mask, State.judgeTrunk_mask, apply_ite (State.mask qs), ite_self]

theorem execHeadWdrnClear_mask {qs : List Area} (hc : covers qs [.hif, .wag, .out] = true) (s : State) :
    nextMask qs s (execHeadWdrnClear s) = s.mask qs := by
  simp (disch := first | exact hc | exact covers_trans hc rfl) only [execHeadWdrnClear, State.markPorts_mask,
    State.setWag_mask, apply_ite (State.mask qs), ite_self, apply_ite (nextMask qs s), nextMask_next]

theorem State.stopEqual_mask {qs : List Area} (hc : covers qs [.time, .hif, .stp, .wag, .out] = true) (s : State)
    (rank : Nat) :
    (State.stopEqual s rank).mask qs = s.mask qs := by
  simp (disch := first | exact hc | exact covers_trans hc rfl) only [State.stopEqual, State.leaveLink_mask,
    State.raise_mask, apply_ite (State.mask qs), ite_self]

theorem execGuardianCut_mask {qs : List Area} (hc : covers qs [.hif, .wag, .out] = true) (win : Fin 256) (s : State) :
    nextMask qs s (execGuardianCut win s) = s.mask qs := by
  simp (disch := first | exact hc | exact covers_trans hc rfl) only [execGuardianCut, State.setWag_mask,
    State.raise_mask, apply_ite (State.mask qs), ite_self, apply_ite (nextMask qs s), nextMask_next]

theorem execHiveBackoffEnd_mask {qs : List Area}
    (hc : covers qs [.time, .pw, .hif, .stp, .cmb, .cnv, .wag, .drn, .lcy, .out] = true) (s : State) :
    nextMask qs s (execHiveBackoffEnd s) = s.mask qs := by
  simp (disch := first | exact hc | exact covers_trans hc rfl) only [execHiveBackoffEnd, State.startLink_mask,
    State.judgePhase_mask, apply_ite (State.mask qs), ite_self, apply_ite (nextMask qs s), nextMask_next]

theorem execClashClr_mask {qs : List Area} (hc : covers qs [.wag] = true) (s : State) :
    nextMask qs s (execClashClr s) = s.mask qs := by
  simp (disch := first | exact hc | exact covers_trans hc rfl) only [execClashClr, State.setWag_mask,
    apply_ite (State.mask qs), ite_self, apply_ite (nextMask qs s), nextMask_next]

theorem State.foreignRef_mask {qs : List Area}
    (hc : covers qs [.time, .hif, .stp, .cmb, .cnv, .fio, .wag, .twn, .out, .freeIdx] = true) (s : State)
    (h : FrameHdr) (r : RefPayload) (stamp : Stamp) :
    (State.foreignRef s h r stamp).mask qs = s.mask qs := by
  simp (disch := first | exact hc | exact covers_trans hc rfl) only [State.foreignRef, State.stopEqual_mask,
    State.becomeStandby_mask, State.followRef_mask, State.setWag_mask, apply_ite (State.mask qs), ite_self]

theorem State.heardReference_mask {qs : List Area}
    (hc : covers qs [.time, .hif, .stp, .cmb, .cnv, .fio, .wag, .twn, .out, .freeIdx] = true) (s : State)
    (a : RefArrival) (ref : RefPayload) (stamp : Stamp) (echo : Bool) :
    (State.heardReference s a ref stamp echo).mask qs = s.mask qs := by
  unfold State.heardReference
  repeat' split
  all_goals first | rfl | simp (disch := first | exact hc | exact covers_trans hc rfl) only [State.followRef_mask, State.foreignRef_mask,
      State.setWag_mask, State.guardianRef_mask, apply_ite (State.mask qs), ite_self]

theorem execTrunkForward_mask {qs : List Area} (hc : covers qs [.wag, .out] = true) (port : RxPort)
    (frame : CrossFrame) (s : State) :
    nextMask qs s (execTrunkForward port frame s) = s.mask qs := by
  unfold execTrunkForward
  try dsimp only
  repeat' first
    | with_reducible rfl
    | simp (disch := first | exact hc | exact covers_trans hc rfl) only [State.emitOut_mask, State.countStomp_mask,
        State.toTrunks_mask, apply_ite (State.mask qs), ite_self, apply_ite (nextMask qs s), nextMask_next]
    | split
    | with_reducible refine (foldl_mask _ (fun s x => ?_) _ _).trans ?_
    | with_reducible refine (foldl_mask_fst _ (fun x a => ?_) _ _).trans ?_

theorem execModeChangeDecision_mask {qs : List Area} (hc : covers qs [.hif, .wag, .out] = true) (s : State) :
    nextMask qs s (execModeChangeDecision s) = s.mask qs := by
  simp (disch := first | exact hc | exact covers_trans hc rfl) only [execModeChangeDecision, State.decideMode_mask,
    apply_ite (State.mask qs), ite_self, apply_ite (nextMask qs s), nextMask_next]

theorem execTrunkDqSend_mask {qs : List Area} (hc : covers qs [.wag, .out] = true) (port : Fin 2) (t1 : Stamp)
    (s : State) :
    nextMask qs s (execTrunkDqSend port t1 s) = s.mask qs := by
  simp (disch := first | exact hc | exact covers_trans hc rfl) only [execTrunkDqSend, State.emitOut_mask,
    State.setWag_mask, apply_ite (State.mask qs), ite_self, apply_ite (nextMask qs s), nextMask_next]

theorem execHiveListenEnd_mask {qs : List Area}
    (hc : covers qs [.time, .pw, .hif, .stp, .cmb, .cnv, .wag, .drn, .lcy, .out] = true) (s : State) :
    nextMask qs s (execHiveListenEnd s) = s.mask qs := by
  simp (disch := first | exact hc | exact covers_trans hc rfl) only [execHiveListenEnd, State.startLink_mask,
    State.judgePhase_mask, apply_ite (State.mask qs), ite_self, apply_ite (nextMask qs s), nextMask_next]

theorem execTrunkDrReceive_mask {qs : List Area} (hc : covers qs [.hif, .wag, .out] = true) (port : TrunkPort)
    (seq : BitVec 8) (turnaround : Stamp) (t4 : Stamp) (s : State) :
    nextMask qs s (execTrunkDrReceive port seq turnaround t4 s) = s.mask qs := by
  simp (disch := first | exact hc | exact covers_trans hc rfl) only [execTrunkDrReceive, State.markUpstream_mask,
    State.judgeTrunk_mask, State.setWag_mask, State.codeErrors_mask, apply_ite (State.mask qs), ite_self,
    apply_ite (nextMask qs s), nextMask_next]

theorem State.writeBits_mask {qs : List Area} (hc : covers qs [.regs, .pw] = true) (s : State) (off : Nat) (w : Word) :
    (State.writeBits s off w).mask qs = s.mask qs := by
  simp (disch := first | exact hc | exact covers_trans hc rfl) only [State.writeBits, State.noteLock_mask,
    State.setReg_mask, apply_ite (State.mask qs), ite_self]

theorem execWagRun_mask {qs : List Area}
    (hc : covers qs [.regs, .time, .pw, .hif, .stp, .wag, .drn, .lcy, .out] = true) (w : Word) (s : State) :
    nextMask qs s (execWagRun w s) = s.mask qs := by
  simp (disch := first | exact hc | exact covers_trans hc rfl) only [execWagRun, State.mask_pw, State.takeRole_mask,
    State.leaveLink_mask, State.markPorts_mask, State.judgePhase_mask, State.setReg_mask, State.writeBits_mask,
    apply_ite (State.mask qs), ite_self, apply_ite (nextMask qs s), nextMask_next]

theorem execTrunkDqReceive_mask {qs : List Area} (hc : covers qs [.hif, .wag, .out] = true) (port : TrunkPort)
    (seq : BitVec 8) (active : Bool) (turnaround : Stamp) (s : State) :
    nextMask qs s (execTrunkDqReceive port seq active turnaround s) = s.mask qs := by
  simp (disch := first | exact hc | exact covers_trans hc rfl) only [execTrunkDqReceive, State.emitOut_mask,
    State.judgeTrunk_mask, State.setWag_mask, State.codeErrors_mask, apply_ite (State.mask qs), ite_self,
    apply_ite (nextMask qs s), nextMask_next]

theorem execHeadWithdrawalEnd_mask {qs : List Area} (hc : covers qs [.hif, .wag, .out] = true) (s : State) :
    nextMask qs s (execHeadWithdrawalEnd s) = s.mask qs := by
  unfold execHeadWithdrawalEnd
  repeat' split
  all_goals first | rfl | simp (disch := first | exact hc | exact covers_trans hc rfl) only [State.judgeTrunk_mask, State.raise_mask,
      State.setWag_mask, apply_ite (State.mask qs), ite_self, apply_ite (nextMask qs s), nextMask_next]

theorem execUpstreamSwitch_mask {qs : List Area} (hc : covers qs [.hif, .wag, .out] = true) (s : State) :
    nextMask qs s (execUpstreamSwitch s) = s.mask qs := by
  unfold execUpstreamSwitch
  try dsimp only
  repeat' first
    | with_reducible rfl
    | simp (disch := first | exact hc | exact covers_trans hc rfl) only [State.judgeTrunk_mask, State.raise_mask,
        State.setWag_mask, apply_ite (State.mask qs), ite_self, apply_ite (nextMask qs s), nextMask_next]
    | split

theorem execReferenceTimeout_mask {qs : List Area} (hc : covers qs [.time, .hif, .wag, .out] = true) (s : State) :
    nextMask qs s (execReferenceTimeout s) = s.mask qs := by
  unfold execReferenceTimeout
  try dsimp only
  repeat' first
    | with_reducible rfl
    | simp (disch := first | exact hc | exact covers_trans hc rfl) only [State.setWag_mask, State.setLock_mask,
        State.setTime_mask, apply_ite (State.mask qs), ite_self, apply_ite (nextMask qs s), nextMask_next]
    | split

theorem execReferenceFrame_mask {qs : List Area}
    (hc : covers qs [.time, .pw, .hif, .stp, .cmb, .cnv, .fio, .wag, .twn, .drn, .lcy, .out, .freeIdx] = true)
    (arrival : RefArrival) (ref : RefPayload) (stamp : Stamp) (echo : Bool) (s : State) :
    nextMask qs s (execReferenceFrame arrival ref stamp echo s) = s.mask qs := by
  simp (disch := first | exact hc | exact covers_trans hc rfl) only [execReferenceFrame, State.heardReference_mask,
    State.judgePhase_mask, State.takeFrame_mask, apply_ite (State.mask qs), ite_self, apply_ite (nextMask qs s),
    nextMask_next]

theorem execTrunkAligned_mask {qs : List Area} (hc : covers qs [.hif, .wag, .out] = true) (port : TrunkPort)
    (s : State) :
    nextMask qs s (execTrunkAligned port s) = s.mask qs := by
  simp (disch := first | exact hc | exact covers_trans hc rfl) only [execTrunkAligned, State.setTrunk_mask,
    State.codeErrors_mask, apply_ite (State.mask qs), ite_self, apply_ite (nextMask qs s), nextMask_next]

theorem doModeChange_mask {qs : List Area} (hc : covers qs [.hif, .wag, .out] = true) (p : Pair) (s : State) :
    nextMask qs s (doModeChange p s) = s.mask qs := by
  unfold doModeChange
  try dsimp only
  repeat' first
    | with_reducible rfl
    | simp (disch := first | exact hc | exact covers_trans hc rfl) only [State.accept_mask, State.setWag_mask,
        State.finish_mask, apply_ite (State.mask qs), ite_self, apply_ite (nextMask qs s), nextMask_next]
    | split

theorem execTrunkAlignmentLost_mask {qs : List Area} (hc : covers qs [.hif, .wag, .out] = true) (port : TrunkPort)
    (s : State) :
    nextMask qs s (execTrunkAlignmentLost port s) = s.mask qs := by
  simp (disch := first | exact hc | exact covers_trans hc rfl) only [execTrunkAlignmentLost, State.setWag_mask,
    State.setTrunk_mask, State.codeErrors_mask, apply_ite (State.mask qs), ite_self, apply_ite (nextMask qs s),
    nextMask_next]

end Sys2Proof.Machine
end

