-- ==== Sys2Proof/Laws/FrameWagMatrix.lean ====
section
/-! SUPPORT. Which parts of the State the definitions of Machine/WagMatrix.lean leave alone: one lemma each, for every set of parts
that covers those it changes. -/

set_option linter.unusedSimpArgs false
set_option linter.unreachableTactic false
set_option linter.unusedTactic false

namespace Sys2Proof.Machine

theorem execProbe_mask {qs : List Area} (hc : covers qs [.wag] = true) (h : FrameHdr) (ident : Word) (stamp : Stamp)
    (s : State) :
    nextMask qs s (execProbe h ident stamp s) = s.mask qs := by
  simp (disch := first | exact hc | exact covers_trans hc rfl) only [execProbe, State.setWag_mask,
    State.takeFrame_mask, apply_ite (State.mask qs), ite_self, apply_ite (nextMask qs s), nextMask_next]

theorem State.judgeSeq_mask {qs : List Area} (hc : covers qs [.wag] = true) (s : State) (h : FrameHdr) :
    (State.judgeSeq s h).mask qs = s.mask qs := by
  simp (disch := first | exact hc | exact covers_trans hc rfl) only [State.judgeSeq, State.setWag_mask,
    apply_ite (State.mask qs), ite_self]

theorem State.sendSlot_mask {qs : List Area} (hc : covers qs [.stp, .fio, .wag, .out] = true) (s : State) (w : Nat)
    (f : TxFrame) :
    (State.sendSlot s w f).mask qs = s.mask qs := by
  unfold State.sendSlot
  try dsimp only
  repeat' first
    | with_reducible rfl
    | simp (disch := first | exact hc | exact covers_trans hc rfl) only [State.mask_stp, State.emitOut_mask,
        State.modPart_mask, State.answerSent_mask, State.modStep_mask, State.setWag_mask, State.sendFrame_mask,
        apply_ite (State.mask qs), ite_self]
    | split
    | with_reducible refine (foldl_mask _ (fun s x => ?_) _ _).trans ?_
    | with_reducible refine (foldl_mask_fst _ (fun x a => ?_) _ _).trans ?_

theorem State.sendData_mask {qs : List Area} (hc : covers qs [.wag, .out] = true) (s : State) (w stn used : Nat) :
    (State.sendData s w stn used).mask qs = s.mask qs := by
  unfold State.sendData
  try dsimp only
  repeat' first
    | with_reducible rfl
    | simp (disch := first | exact hc | exact covers_trans hc rfl) only [State.sendFrame_mask, State.setWag_mask,
        apply_ite (State.mask qs), ite_self]
    | split
    | with_reducible refine (foldl_mask _ (fun s x => ?_) _ _).trans ?_
    | with_reducible refine (foldl_mask_fst _ (fun x a => ?_) _ _).trans ?_

theorem State.joinStation_mask {qs : List Area} (hc : covers qs [.hif, .stp, .wag, .out] = true) (s : State)
    (k hops : Nat) (x : StatusPayload) :
    (State.joinStation s k hops x).mask qs = s.mask qs := by
  unfold State.joinStation
  repeat' split
  all_goals first | rfl | simp (disch := first | exact hc | exact covers_trans hc rfl) only [State.recomputeRelay_mask, State.raise_mask,
      State.modStn_mask, apply_ite (State.mask qs), ite_self]

theorem State.qualityEvent_mask {qs : List Area} (hc : covers qs [.hif, .wag, .out] = true) (s : State) (k : Nat)
    (stale : Bool) :
    (State.qualityEvent s k stale).mask qs = s.mask qs := by
  simp (disch := first | exact hc | exact covers_trans hc rfl) only [State.qualityEvent, State.modStn_mask,
    State.raise_mask, apply_ite (State.mask qs), ite_self]

theorem State.storeWords_mask {qs : List Area} (hc : covers qs [.wag] = true) (s : State) (src first : Nat)
    (words : List Val40) :
    (State.storeWords s src first words).mask qs = s.mask qs := by
  simp (disch := first | exact hc | exact covers_trans hc rfl) only [State.storeWords, State.setWag_mask,
    apply_ite (State.mask qs), ite_self]

theorem execDataFrame_mask {qs : List Area} (hc : covers qs [.wag, .twn, .out] = true) (h : FrameHdr)
    (words : List Val40) (s : State) :
    nextMask qs s (execDataFrame h words s) = s.mask qs := by
  simp (disch := first | exact hc | exact covers_trans hc rfl) only [execDataFrame, State.mask_twn,
    State.storeWords_mask, State.snapOut_mask, State.judgeSeq_mask, State.takeFrame_mask, apply_ite (State.mask qs),
    ite_self, apply_ite (nextMask qs s), nextMask_next]

theorem execWindowSwap_mask {qs : List Area} (hc : covers qs [.wag] = true) (win : Fin 256) (s : State) :
    nextMask qs s (execWindowSwap win s) = s.mask qs := by
  simp (disch := first | exact hc | exact covers_trans hc rfl) only [execWindowSwap, State.setWag_mask,
    apply_ite (State.mask qs), ite_self, apply_ite (nextMask qs s), nextMask_next]

theorem doReceiveMapLoad_mask {qs : List Area} (hc : covers qs [.hif, .wag, .out] = true) (p : Pair) (s : State) :
    nextMask qs s (doReceiveMapLoad p s) = s.mask qs := by
  unfold doReceiveMapLoad
  repeat' split
  all_goals first | rfl | simp (disch := first | exact hc | exact covers_trans hc rfl) only [State.setWag_mask, State.finish_mask,
      apply_ite (State.mask qs), ite_self, apply_ite (nextMask qs s), nextMask_next]

theorem State.judgeMatrix_mask {qs : List Area} (hc : covers qs [.hif, .stp, .wag, .out] = true) (s : State)
    (k start : Nat) :
    (State.judgeMatrix s k start).mask qs = s.mask qs := by
  simp (disch := first | exact hc | exact covers_trans hc rfl) only [State.judgeMatrix, State.leaveStation_mask,
    State.modStn_mask, apply_ite (State.mask qs), ite_self]

theorem State.judgeStation_mask {qs : List Area} (hc : covers qs [.hif, .wag, .out] = true) (s : State) (k : Nat)
    (o : WinOutcome) :
    (State.judgeStation s k o).mask qs = s.mask qs := by
  simp (disch := first | exact hc | exact covers_trans hc rfl) only [State.judgeStation, State.qualityEvent_mask,
    State.modStn_mask, apply_ite (State.mask qs), ite_self]

theorem execExclusiveWindowEnd_mask {qs : List Area} (hc : covers qs [.hif, .stp, .wag, .out] = true)
    (win : Fin 256) (sof : Bool) (s : State) :
    nextMask qs s (execExclusiveWindowEnd win sof s) = s.mask qs := by
  simp (disch := first | exact hc | exact covers_trans hc rfl) only [execExclusiveWindowEnd, State.judgeMatrix_mask,
    State.judgeStation_mask, State.setWag_mask, apply_ite (State.mask qs), ite_self, apply_ite (nextMask qs s),
    nextMask_next]

theorem execProbeResp_mask {qs : List Area} (hc : covers qs [.wag] = true) (h : FrameHdr) (ident : Word)
    (prober : Fin 4096) (turnaround : Stamp) (roundTrip : Stamp) (s : State) :
    nextMask qs s (execProbeResp h ident prober turnaround roundTrip s) = s.mask qs := by
  simp (disch := first | exact hc | exact covers_trans hc rfl) only [execProbeResp, State.setWag_mask,
    State.takeFrame_mask, apply_ite (State.mask qs), ite_self, apply_ite (nextMask qs s), nextMask_next]

theorem execStationStat_mask {qs : List Area} (hc : covers qs [.hif, .out] = true) (p : Pair) (s : State) :
    nextMask qs s (execStationStat p s) = s.mask qs := by
  unfold execStationStat
  repeat' split
  all_goals first | rfl | simp (disch := first | exact hc | exact covers_trans hc rfl) only [State.finish_mask, apply_ite (State.mask qs),
      ite_self, apply_ite (nextMask qs s), nextMask_next]

theorem execWindowSlotStart_mask {qs : List Area} (hc : covers qs [.stp, .fio, .wag, .out] = true) (win : Fin 256)
    (slot : Nat) (rival : Option (BitVec 24)) (s : State) :
    nextMask qs s (execWindowSlotStart win slot rival s) = s.mask qs := by
  unfold execWindowSlotStart
  try dsimp only
  repeat' first
    | with_reducible rfl
    | simp (disch := first | exact hc | exact covers_trans hc rfl) only [State.mask_stp, State.sendSlot_mask,
        State.setWag_mask, apply_ite (State.mask qs), ite_self, apply_ite (nextMask qs s), nextMask_next]
    | split

theorem State.takeStatus_mask {qs : List Area} (hc : covers qs [.hif, .stp, .fio, .wag, .twn, .out] = true)
    (s : State) (k hops : Nat) (x : StatusPayload) :
    (State.takeStatus s k hops x).mask qs = s.mask qs := by
  unfold State.takeStatus
  repeat' split
  all_goals first | rfl | simp (disch := first | exact hc | exact covers_trans hc rfl) only [State.joinStation_mask, State.modStn_mask,
      State.recomputeRelay_mask, State.leaveStation_mask, State.stationRemoved_mask, State.setWag_mask,
      apply_ite (State.mask qs), ite_self]

theorem execStatusFrame_mask {qs : List Area} (hc : covers qs [.hif, .stp, .fio, .wag, .twn, .out] = true)
    (h : FrameHdr) (x : StatusPayload) (s : State) :
    nextMask qs s (execStatusFrame h x s) = s.mask qs := by
  simp (disch := first | exact hc | exact covers_trans hc rfl) only [execStatusFrame, State.takeStatus_mask,
    State.takeFrame_mask, apply_ite (State.mask qs), ite_self, apply_ite (nextMask qs s), nextMask_next]

theorem execExclusiveWindowStart_mask {qs : List Area} (hc : covers qs [.wag, .out] = true) (win : Fin 256)
    (s : State) :
    nextMask qs s (execExclusiveWindowStart win s) = s.mask qs := by
  unfold execExclusiveWindowStart
  try dsimp only
  repeat' first
    | with_reducible rfl
    | simp (disch := first | exact hc | exact covers_trans hc rfl) only [State.sendData_mask, State.sendFrame_mask,
        State.setWag_mask, apply_ite (State.mask qs), ite_self, apply_ite (nextMask qs s), nextMask_next]
    | split

theorem doStationTableLoad_mask {qs : List Area} (hc : covers qs [.hif, .wag, .out] = true) (p : Pair) (s : State) :
    nextMask qs s (doStationTableLoad p s) = s.mask qs := by
  unfold doStationTableLoad
  repeat' split
  all_goals first | rfl | simp (disch := first | exact hc | exact covers_trans hc rfl) only [State.setWag_mask, State.finish_mask,
      apply_ite (State.mask qs), ite_self, apply_ite (nextMask qs s), nextMask_next]

theorem doSegmentTableLoad_mask {qs : List Area} (hc : covers qs [.hif, .wag, .out] = true) (p : Pair) (s : State) :
    nextMask qs s (doSegmentTableLoad p s) = s.mask qs := by
  unfold doSegmentTableLoad
  try dsimp only
  repeat' first
    | with_reducible rfl
    | simp (disch := first | exact hc | exact covers_trans hc rfl) only [State.setWag_mask, State.finish_mask,
        apply_ite (State.mask qs), ite_self, apply_ite (nextMask qs s), nextMask_next]
    | split

theorem doScheduleLoad_mask {qs : List Area} (hc : covers qs [.hif, .wag, .out] = true) (p : Pair) (s : State) :
    nextMask qs s (doScheduleLoad p s) = s.mask qs := by
  unfold doScheduleLoad
  try dsimp only
  repeat' first
    | with_reducible rfl
    | simp (disch := first | exact hc | exact covers_trans hc rfl) only [State.setWag_mask, State.finish_mask,
        apply_ite (State.mask qs), ite_self, apply_ite (nextMask qs s), nextMask_next]
    | split

end Sys2Proof.Machine
end

