-- ==== Sys2Proof/Laws/FrameField.lean ====
section
/-! SUPPORT. Which parts of the State the definitions of Machine/Field.lean leave alone: one lemma each, for every set of parts
that covers those it changes. -/

set_option linter.unusedSimpArgs false
set_option linter.unreachableTactic false
set_option linter.unusedTactic false

namespace Sys2Proof.Machine

theorem State.loseLogic_mask {qs : List Area} (hc : covers qs [.pw, .cnv, .fio, .drn] = true) (s : State) :
    (State.loseLogic s).mask qs = s.mask qs := by
  simp (disch := first | exact hc | exact covers_trans hc rfl) only [State.loseLogic, State.mask_pw_cnv_drn,
    State.abortHandover_mask, apply_ite (State.mask qs), ite_self]

theorem State.takeUpdate_mask {qs : List Area} (hc : covers qs [.lcy] = true) (s : State) (type : Nat)
    (image : List Byte) :
    (State.takeUpdate s type image).mask qs = s.mask qs := by
  unfold State.takeUpdate
  repeat' split
  all_goals first | rfl | simp (disch := exact covers_trans hc rfl) only [State.mask_lcy, apply_ite (State.mask qs), ite_self]

theorem State.dacLate_mask {qs : List Area} (hc : covers qs [.cnv] = true) (s : State) :
    (State.dacLate s).mask qs = s.mask qs := by
  simp (disch := exact covers_trans hc rfl) only [State.dacLate, State.mask_cnv, apply_ite (State.mask qs), ite_self]

theorem State.fieldArrive_mask {qs : List Area} (hc : covers qs [.cnv, .fio] = true) (s : State) (it : DownItem)
    (t : Time) :
    (State.fieldArrive s it t).mask qs = s.mask qs := by
  unfold State.fieldArrive
  repeat' split
  all_goals first | rfl | simp (disch := first | exact hc | exact covers_trans hc rfl) only [State.mask_fio, State.dacLate_mask,
      apply_ite (State.mask qs), ite_self]

theorem State.takeHoldReq_mask {qs : List Area} (hc : covers qs [.drn] = true) (s : State) (loop : Nat) (th : Time) :
    (State.takeHoldReq s loop th).mask qs = s.mask qs := by
  simp (disch := exact covers_trans hc rfl) only [State.takeHoldReq, State.mask_drn, apply_ite (State.mask qs),
    ite_self]

theorem State.takeMark_mask {qs : List Area} (hc : covers qs [.time, .pw] = true) (s : State) (t : Time) :
    (State.takeMark s t).mask qs = s.mask qs := by
  simp (disch := exact covers_trans hc rfl) only [State.takeMark, State.mask_time_pw, apply_ite (State.mask qs),
    ite_self]

theorem State.downTake_mask {qs : List Area}
    (hc : covers qs [.time, .pw, .cnv, .fio, .twn, .saf, .drn, .lcy, .peat] = true) (s : State) (it : DownItem) :
    (State.downTake s it).mask qs = s.mask qs := by
  unfold State.downTake
  try dsimp only
  repeat' first
    | with_reducible rfl
    | simp (disch := first | exact hc | exact covers_trans hc rfl) only [State.mask_blk, State.mask_bog,
        State.mask_cmb, State.mask_cmb_cnv, State.mask_cnv, State.mask_cnv_fio, State.mask_drn, State.mask_fio,
        State.mask_fio_drn, State.mask_fio_twn, State.mask_fio_wag, State.mask_freeIdx, State.mask_hif,
        State.mask_hif_out, State.mask_lcy, State.mask_leg, State.mask_mir, State.mask_out, State.mask_peat,
        State.mask_pending, State.mask_pw, State.mask_pw_bog, State.mask_pw_cnv_drn, State.mask_pw_cnv_peat,
        State.mask_pw_drn, State.mask_pw_fio, State.mask_regs, State.mask_regs_pw_hif,
        State.mask_regs_time_pw_stp_cmb_blk_cnv_fio_mir_wag_twn_lcy_seen, State.mask_saf, State.mask_seen,
        State.mask_stp, State.mask_stp_cmb_blk_fio_wag, State.mask_time, State.mask_time_freeIdx, State.mask_time_pw,
        State.mask_time_pw_cnv_fio_twn_saf_drn_lcy, State.mask_time_pw_hif_stp_cmb_blk_cnv_fio_mir_wag_twn_leg,
        State.mask_twn, State.mask_wag, State.countLedger_mask, State.applyItem_mask, State.takeUpdate_mask,
        State.takeCopy_mask, State.clearTrip_mask, State.takeHold_mask, State.fieldArrive_mask,
        State.takeHoldReq_mask, State.regate_mask, State.sendDown_mask, State.takeMark_mask,
        apply_ite (State.mask qs), ite_self]
    | split

theorem execDownlinkFrame_mask {qs : List Area}
    (hc : covers qs [.time, .pw, .cnv, .fio, .twn, .saf, .drn, .lcy, .peat] = true) (valid : Bool) (s : State) :
    nextMask qs s (execDownlinkFrame valid s) = s.mask qs := by
  unfold execDownlinkFrame
  repeat' split
  all_goals first | rfl | simp (disch := first | exact hc | exact covers_trans hc rfl) only [State.mask_blk, State.mask_bog, State.mask_cmb,
      State.mask_cmb_cnv, State.mask_cnv, State.mask_cnv_fio, State.mask_drn, State.mask_fio, State.mask_fio_drn,
      State.mask_fio_twn, State.mask_fio_wag, State.mask_freeIdx, State.mask_hif, State.mask_hif_out, State.mask_lcy,
      State.mask_leg, State.mask_mir, State.mask_out, State.mask_peat, State.mask_pending, State.mask_pw,
      State.mask_pw_bog, State.mask_pw_cnv_drn, State.mask_pw_cnv_peat, State.mask_pw_drn, State.mask_pw_fio,
      State.mask_regs, State.mask_regs_pw_hif, State.mask_regs_time_pw_stp_cmb_blk_cnv_fio_mir_wag_twn_lcy_seen,
      State.mask_saf, State.mask_seen, State.mask_stp, State.mask_stp_cmb_blk_fio_wag, State.mask_time,
      State.mask_time_freeIdx, State.mask_time_pw, State.mask_time_pw_cnv_fio_twn_saf_drn_lcy,
      State.mask_time_pw_hif_stp_cmb_blk_cnv_fio_mir_wag_twn_leg, State.mask_twn, State.mask_wag, State.sendFio_mask,
      State.sendScans_mask, State.loseLogic_mask, State.downTake_mask, State.sendDown_mask, apply_ite (State.mask qs),
      ite_self, apply_ite (nextMask qs s), nextMask_next]

theorem State.pulSafe_mask {qs : List Area} (hc : covers qs [.fio] = true) (s : State) (p : Nat) (decel : Bool) :
    (State.pulSafe s p decel).mask qs = s.mask qs := by
  simp (disch := first | exact hc | exact covers_trans hc rfl) only [State.pulSafe, State.pulStop_mask,
    State.axisStop_mask, apply_ite (State.mask qs), ite_self]

theorem State.takeSample_mask {qs : List Area}
    (hc : covers qs [.hif, .cnv, .fio, .mir, .bog, .out, .freeIdx] = true) (s : State) (w : Val40) (stamp : Time)
    (list : Option Nat) :
    (State.takeSample s w stamp list).mask qs = s.mask qs := by
  simp (disch := first | exact hc | exact covers_trans hc rfl) only [State.takeSample, State.mask_cnv,
    State.mirTake_mask, State.snapOut_mask, apply_ite (State.mask qs), ite_self]

theorem State.takeConfirm_mask {qs : List Area} (hc : covers qs [.cmb] = true) (s : State) (loop : Nat) (th : Time) :
    (State.takeConfirm s loop th).mask qs = s.mask qs := by
  simp (disch := exact covers_trans hc rfl) only [State.takeConfirm, State.mask_cmb, apply_ite (State.mask qs),
    ite_self]

theorem State.upTake_mask {qs : List Area}
    (hc : covers qs [.hif, .cmb, .cnv, .fio, .mir, .bog, .wag, .out, .freeIdx] = true) (s : State) (it : UpItem) :
    (State.upTake s it).mask qs = s.mask qs := by
  unfold State.upTake
  repeat' split
  all_goals first | rfl | simp (disch := first | exact hc | exact covers_trans hc rfl) only [State.mask_fio, State.setWag_mask,
      State.raise_mask, State.takeCapture_mask, State.takeEncoders_mask, State.noteInput_mask, State.mirTake_mask,
      State.takeConfirm_mask, State.takeSample_mask, apply_ite (State.mask qs), ite_self]

theorem State.takeSafe_mask {qs : List Area} (hc : covers qs [.fio, .saf, .peat] = true) (s : State) (i : Nat)
    (t : Time) :
    (State.takeSafe s i t).mask qs = s.mask qs := by
  simp (disch := first | exact hc | exact covers_trans hc rfl) only [State.takeSafe, State.pulSafe_mask,
    State.sendUp_mask, State.dacTake_mask, State.hsCommand_mask, State.modHs_mask, apply_ite (State.mask qs),
    ite_self]

theorem State.toSafe_mask {qs : List Area} (hc : covers qs [.fio, .saf, .peat] = true) (s : State) (i : Nat)
    (t : Time) :
    (State.toSafe s i t).mask qs = s.mask qs := by
  simp (disch := first | exact hc | exact covers_trans hc rfl) only [State.toSafe, State.mask_fio,
    State.takeSafe_mask, State.fieldRaise_mask, apply_ite (State.mask qs), ite_self]

theorem State.fromSafe_mask {qs : List Area} (hc : covers qs [.fio, .saf, .drn, .peat] = true) (s : State) (i : Nat) :
    (State.fromSafe s i).mask qs = s.mask qs := by
  unfold State.fromSafe
  try dsimp only
  repeat' first
    | with_reducible rfl
    | simp (disch := first | exact hc | exact covers_trans hc rfl) only [State.mask_fio, State.fieldRaise_mask,
        State.applyItem_mask, apply_ite (State.mask qs), ite_self]
    | split

theorem State.holdCycle_mask {qs : List Area} (hc : covers qs [.fio, .saf, .drn, .peat] = true) (s : State) (i : Nat) :
    (State.holdCycle s i).mask qs = s.mask qs := by
  unfold State.holdCycle
  try dsimp only
  repeat' first
    | with_reducible rfl
    | simp (disch := first | exact hc | exact covers_trans hc rfl) only [State.mask_fio, State.fromSafe_mask,
        State.toSafe_mask, apply_ite (State.mask qs), ite_self]
    | split

theorem execHoldPolicyCycleEnd_mask {qs : List Area} (hc : covers qs [.fio, .wag, .saf, .drn, .peat] = true)
    (s : State) :
    nextMask qs s (execHoldPolicyCycleEnd s) = s.mask qs := by
  unfold execHoldPolicyCycleEnd
  try dsimp only
  repeat' first
    | with_reducible rfl
    | simp (disch := first | exact hc | exact covers_trans hc rfl) only [State.mask_fio_wag, State.holdCycle_mask,
        apply_ite (State.mask qs), ite_self, apply_ite (nextMask qs s), nextMask_next]
    | split
    | with_reducible refine (foldl_mask _ (fun s x => ?_) _ _).trans ?_
    | with_reducible refine (foldl_mask_fst _ (fun x a => ?_) _ _).trans ?_

theorem execLogicSideAbsent_mask {qs : List Area} (hc : covers qs [.pw, .cnv, .fio, .drn] = true) (s : State) :
    nextMask qs s (execLogicSideAbsent s) = s.mask qs := by
  simp (disch := first | exact hc | exact covers_trans hc rfl) only [execLogicSideAbsent, State.loseLogic_mask,
    apply_ite (State.mask qs), ite_self, apply_ite (nextMask qs s), nextMask_next]

theorem State.resendField_mask {qs : List Area} (hc : covers qs [.fio] = true) (s : State) :
    (State.resendField s).mask qs = s.mask qs := by
  simp (disch := first | exact hc | exact covers_trans hc rfl) only [State.resendField, State.sendScans_mask,
    State.sendDown_mask, State.sendFio_mask, apply_ite (State.mask qs), ite_self]

theorem execUplinkFrame_mask {qs : List Area}
    (hc : covers qs [.pw, .hif, .cmb, .cnv, .fio, .mir, .bog, .wag, .seen, .out, .freeIdx] = true) (valid : Bool)
    (s : State) :
    nextMask qs s (execUplinkFrame valid s) = s.mask qs := by
  unfold execUplinkFrame
  try dsimp only
  repeat' first
    | with_reducible rfl
    | simp (disch := first | exact hc | exact covers_trans hc rfl) only [State.mask_blk, State.mask_bog,
        State.mask_cmb, State.mask_cmb_cnv, State.mask_cnv, State.mask_cnv_fio, State.mask_drn, State.mask_fio,
        State.mask_fio_drn, State.mask_fio_twn, State.mask_fio_wag, State.mask_freeIdx, State.mask_hif,
        State.mask_hif_out, State.mask_lcy, State.mask_leg, State.mask_mir, State.mask_out, State.mask_peat,
        State.mask_pending, State.mask_pw, State.mask_pw_bog, State.mask_pw_cnv_drn, State.mask_pw_cnv_peat,
        State.mask_pw_drn, State.mask_pw_fio, State.mask_regs, State.mask_regs_pw_hif,
        State.mask_regs_time_pw_stp_cmb_blk_cnv_fio_mir_wag_twn_lcy_seen, State.mask_saf, State.mask_seen,
        State.mask_stp, State.mask_stp_cmb_blk_fio_wag, State.mask_time, State.mask_time_freeIdx, State.mask_time_pw,
        State.mask_time_pw_cnv_fio_twn_saf_drn_lcy, State.mask_time_pw_hif_stp_cmb_blk_cnv_fio_mir_wag_twn_leg,
        State.mask_twn, State.mask_wag, State.upTake_mask, State.resendField_mask, apply_ite (State.mask qs),
        ite_self, apply_ite (nextMask qs s), nextMask_next]
    | split

theorem execFieldSideAbsent_mask {qs : List Area} (hc : covers qs [.pw] = true) (s : State) :
    nextMask qs s (execFieldSideAbsent s) = s.mask qs := by
  simp (disch := exact covers_trans hc rfl) only [execFieldSideAbsent, State.mask_pw, apply_ite (State.mask qs),
    ite_self, apply_ite (nextMask qs s), nextMask_next]

theorem execDownlinkTimeMark_mask {qs : List Area} (hc : covers qs [.fio] = true) (s : State) :
    nextMask qs s (execDownlinkTimeMark s) = s.mask qs := by
  simp (disch := first | exact hc | exact covers_trans hc rfl) only [execDownlinkTimeMark, State.sendDown_mask,
    apply_ite (State.mask qs), ite_self, apply_ite (nextMask qs s), nextMask_next]

theorem execDigitalInputAccept_mask {qs : List Area} (hc : covers qs [.fio] = true) (input : Fin 64) (s : State) :
    nextMask qs s (execDigitalInputAccept input s) = s.mask qs := by
  unfold execDigitalInputAccept
  try dsimp only
  repeat' first
    | with_reducible rfl
    | simp (disch := first | exact hc | exact covers_trans hc rfl) only [State.mask_fio, State.sendUp_mask,
        apply_ite (State.mask qs), ite_self, apply_ite (nextMask qs s), nextMask_next]
    | split

end Sys2Proof.Machine
end

