-- ==== Sys2Proof/Laws/FrameLegacy.lean ====
section
/-! SUPPORT. Which parts of the State the definitions of Machine/Legacy.lean leave alone: one lemma each, for every set of parts
that covers those it changes. -/

set_option linter.unusedSimpArgs false
set_option linter.unreachableTactic false
set_option linter.unusedTactic false

namespace Sys2Proof.Machine

theorem State.setLeg_mask {qs : List Area} (hc : covers qs [.leg] = true) (s : State) (l : LegState) :
    (State.setLeg s l).mask qs = s.mask qs := by
  simp (disch := exact covers_trans hc rfl) only [State.setLeg, State.mask_leg, apply_ite (State.mask qs), ite_self]

theorem State.modUart_mask {qs : List Area} (hc : covers qs [.leg] = true) (s : State) (u : Nat) (f : UartRt → UartRt) :
    (State.modUart s u f).mask qs = s.mask qs := by
  simp (disch := first | exact hc | exact covers_trans hc rfl) only [State.modUart, State.setLeg_mask,
    apply_ite (State.mask qs), ite_self]

theorem State.modCan_mask {qs : List Area} (hc : covers qs [.leg] = true) (s : State) (c : Nat) (f : CanRt → CanRt) :
    (State.modCan s c f).mask qs = s.mask qs := by
  simp (disch := first | exact hc | exact covers_trans hc rfl) only [State.modCan, State.setLeg_mask,
    apply_ite (State.mask qs), ite_self]

theorem State.fillRx_mask {qs : List Area} (hc : covers qs [.leg, .out] = true) (s : State) (b : RxBuf)
    (rec : List Byte) :
    (State.fillRx s b rec).mask qs = s.mask qs := by
  simp (disch := first | exact hc | exact covers_trans hc rfl) only [State.fillRx, State.setLeg_mask,
    State.hostWrite_mask, apply_ite (State.mask qs), ite_self]

theorem State.closeRx_mask {qs : List Area} (hc : covers qs [.hif, .leg, .out] = true) (s : State) (b : RxBuf) :
    (State.closeRx s b).mask qs = s.mask qs := by
  simp (disch := first | exact hc | exact covers_trans hc rfl) only [State.closeRx, State.setLeg_mask,
    State.finish_mask, apply_ite (State.mask qs), ite_self]

theorem State.deliverRx_mask {qs : List Area} (hc : covers qs [.hif, .leg, .out] = true) (port : Port) (ring n : Nat)
    (recs : List (List Byte)) (s : State) : (State.deliverRx port ring n recs s).1.mask qs = s.mask qs := by
  induction n generalizing recs s with
  | zero => cases recs <;> rfl
  | succ n ih =>
    cases recs with
    | nil => rfl
    | cons r rest =>
      unfold State.deliverRx
      split
      · rfl
      · split
        · rw [ih, State.fillRx_mask (covers_trans hc rfl)]
        · rw [ih, State.closeRx_mask (covers_trans hc rfl)]

theorem State.drainRx_mask {qs : List Area} (hc : covers qs [.hif, .leg, .out] = true) (s : State) (port : Port) :
    (State.drainRx s port).mask qs = s.mask qs := by
  unfold State.drainRx
  repeat' split
  all_goals first | rfl | simp (disch := first | exact hc | exact covers_trans hc rfl) only [State.modUart_mask, State.modCan_mask,
      State.deliverRx_mask, apply_ite (State.mask qs), ite_self]

theorem State.canDrop_mask {qs : List Area} (hc : covers qs [.leg] = true) (s : State) (c : Nat) (x : CanTx) :
    (State.canDrop s c x).mask qs = s.mask qs := by
  simp (disch := first | exact hc | exact covers_trans hc rfl) only [State.canDrop, State.modCan_mask,
    apply_ite (State.mask qs), ite_self]

theorem State.canOffer_mask {qs : List Area} (hc : covers qs [.hif, .leg, .out] = true) (c t n : Nat)
    (s : State) : (State.canOffer c t n s).mask qs = s.mask qs := by
  induction n generalizing s with
  | zero => rfl
  | succ n ih =>
    unfold State.canOffer
    split
    · rfl
    · split
      · simp (disch := first | exact hc | exact covers_trans hc rfl) only [ih, State.finish_mask, State.modCan_mask, State.canDrop_mask]
      · rfl

theorem State.canOfferNow_mask {qs : List Area} (hc : covers qs [.hif, .leg, .out] = true) (s : State) (c : Nat) :
    (State.canOfferNow s c).mask qs = s.mask qs := by
  simp (disch := first | exact hc | exact covers_trans hc rfl) only [State.canOfferNow, State.canOffer_mask,
    apply_ite (State.mask qs), ite_self]

theorem State.canEvent_mask {qs : List Area} (hc : covers qs [.hif, .out] = true) (s : State) (c : Nat) (st : CanSt)
    (tec : Nat) :
    (State.canEvent s c st tec).mask qs = s.mask qs := by
  simp (disch := first | exact hc | exact covers_trans hc rfl) only [State.canEvent, State.raise_mask,
    apply_ite (State.mask qs), ite_self]

theorem execCanState_mask {qs : List Area} (hc : covers qs [.hif, .leg, .out] = true) (c : Fin 4) (tec : Nat)
    (rec_ : Nat) (s : State) :
    nextMask qs s (execCanState c tec rec_ s) = s.mask qs := by
  simp (disch := first | exact hc | exact covers_trans hc rfl) only [execCanState, State.canOfferNow_mask,
    State.canEvent_mask, State.modCan_mask, apply_ite (State.mask qs), ite_self, apply_ite (nextMask qs s),
    nextMask_next]

theorem doRecover_mask {qs : List Area} (hc : covers qs [.hif, .leg, .out] = true) (p : Pair) (s : State) :
    nextMask qs s (doRecover p s) = s.mask qs := by
  unfold doRecover
  repeat' split
  all_goals first | rfl | simp (disch := first | exact hc | exact covers_trans hc rfl) only [State.modCan_mask, State.finish_mask,
      apply_ite (State.mask qs), ite_self, apply_ite (nextMask qs s), nextMask_next]

theorem State.finishAll_mask {qs : List Area} (hc : covers qs [.hif, .out] = true) (s : State) (code : Byte)
    (l : List (Pair × Word)) :
    (State.finishAll s code l).mask qs = s.mask qs := by
  unfold State.finishAll
  try dsimp only
  repeat' first
    | with_reducible rfl
    | simp (disch := first | exact hc | exact covers_trans hc rfl) only [State.finish_mask, apply_ite (State.mask qs),
        ite_self]
    | split
    | with_reducible refine (foldl_mask _ (fun s x => ?_) _ _).trans ?_
    | with_reducible refine (foldl_mask_fst _ (fun x a => ?_) _ _).trans ?_

theorem State.uartOffNow_mask {qs : List Area} (hc : covers qs [.hif, .fio, .leg, .out] = true) (s : State) (u : Nat) :
    (State.uartOffNow s u).mask qs = s.mask qs := by
  simp (disch := first | exact hc | exact covers_trans hc rfl) only [State.uartOffNow, State.finishAll_mask,
    State.setClaims_mask, State.modUart_mask, apply_ite (State.mask qs), ite_self]

theorem State.pbOffNow_mask {qs : List Area} (hc : covers qs [.hif, .fio, .leg, .out] = true) (s : State) :
    (State.pbOffNow s).mask qs = s.mask qs := by
  simp (disch := first | exact hc | exact covers_trans hc rfl) only [State.pbOffNow, State.finishAll_mask,
    State.setClaims_mask, State.setLeg_mask, apply_ite (State.mask qs), ite_self]

theorem State.gpChanged_mask {qs : List Area} (hc : covers qs [.hif, .leg, .out] = true) (s : State) (old : BitVec 8) :
    (State.gpChanged s old).mask qs = s.mask qs := by
  simp (disch := first | exact hc | exact covers_trans hc rfl) only [State.gpChanged, State.raise_mask,
    State.setLeg_mask, apply_ite (State.mask qs), ite_self]

theorem execGpConfigWrite_mask {qs : List Area} (hc : covers qs [.regs, .pw, .hif, .fio, .leg, .out] = true)
    (reg : GpReg) (w : Word) (s : State) :
    nextMask qs s (execGpConfigWrite reg w s) = s.mask qs := by
  unfold execGpConfigWrite
  try dsimp only
  repeat' first
    | with_reducible rfl
    | simp (disch := first | exact hc | exact covers_trans hc rfl) only [State.pbOffNow_mask, State.gpChanged_mask,
        State.setReg_mask, State.raise_mask, State.setClaims_mask, State.writeBits_mask, apply_ite (State.mask qs),
        ite_self, apply_ite (nextMask qs s), nextMask_next]
    | split

theorem State.lostEvent_mask {qs : List Area} (hc : covers qs [.hif, .out] = true) (s : State) (port count : Nat) :
    (State.lostEvent s port count).mask qs = s.mask qs := by
  simp (disch := first | exact hc | exact covers_trans hc rfl) only [State.lostEvent, State.raise_mask,
    apply_ite (State.mask qs), ite_self]

theorem State.canQueue_mask {qs : List Area} (hc : covers qs [.hif, .leg, .out] = true) (s : State) (c : Nat)
    (q1 : Bool) (f : CanFrame) (pair : Nat) (hp : Bool) (st : LineStamp) :
    (State.canQueue s c q1 f pair hp st).mask qs = s.mask qs := by
  simp (disch := first | exact hc | exact covers_trans hc rfl) only [State.canQueue, State.lostEvent_mask,
    State.modCan_mask, apply_ite (State.mask qs), ite_self]

theorem State.uartClose_mask {qs : List Area} (hc : covers qs [.leg] = true) (s : State) (u : Nat) :
    (State.uartClose s u).mask qs = s.mask qs := by
  simp (disch := first | exact hc | exact covers_trans hc rfl) only [State.uartClose, State.modUart_mask,
    apply_ite (State.mask qs), ite_self]

theorem execUartGap_mask {qs : List Area} (hc : covers qs [.hif, .leg, .out] = true) (u : Fin 4) (s : State) :
    nextMask qs s (execUartGap u s) = s.mask qs := by
  simp (disch := first | exact hc | exact covers_trans hc rfl) only [execUartGap, State.uartClose_mask,
    State.drainRx_mask, apply_ite (State.mask qs), ite_self, apply_ite (nextMask qs s), nextMask_next]

theorem execGpInputChange_mask {qs : List Area} (hc : covers qs [.hif, .leg, .out] = true) (states : BitVec 8)
    (s : State) :
    nextMask qs s (execGpInputChange states s) = s.mask qs := by
  simp (disch := first | exact hc | exact covers_trans hc rfl) only [execGpInputChange, State.setLeg_mask,
    State.gpChanged_mask, apply_ite (State.mask qs), ite_self, apply_ite (nextMask qs s), nextMask_next]

theorem execPbReady_mask {qs : List Area} (hc : covers qs [.leg] = true) (s : State) :
    nextMask qs s (execPbReady s) = s.mask qs := by
  unfold execPbReady
  repeat' split
  all_goals first | rfl | simp (disch := first | exact hc | exact covers_trans hc rfl) only [State.setLeg_mask, apply_ite (State.mask qs),
      ite_self, apply_ite (nextMask qs s), nextMask_next]

theorem State.canHp_mask {qs : List Area} (hc : covers qs [.hif, .leg, .out] = true) (s : State) (c : Nat)
    (f : CanFrame) (pair : Nat) (st : LineStamp) :
    (State.canHp s c f pair st).mask qs = s.mask qs := by
  simp (disch := first | exact hc | exact covers_trans hc rfl) only [State.canHp, State.sendVec_mask,
    State.hostWrite_mask, State.modCan_mask, apply_ite (State.mask qs), ite_self]

theorem execCanFrameReceive_mask {qs : List Area} (hc : covers qs [.hif, .leg, .out] = true) (c : Fin 4)
    (frame : CanFrame) (crcOk : Bool) (start : LineStamp) (s : State) :
    nextMask qs s (execCanFrameReceive c frame crcOk start s) = s.mask qs := by
  unfold execCanFrameReceive
  try dsimp only
  repeat' first
    | with_reducible rfl
    | simp (disch := first | exact hc | exact covers_trans hc rfl) only [State.drainRx_mask, State.canOfferNow_mask,
        State.canHp_mask, State.canQueue_mask, apply_ite (State.mask qs), ite_self, apply_ite (nextMask qs s),
        nextMask_next]
    | split

theorem execCanSend_mask {qs : List Area} (hc : covers qs [.hif, .leg, .out] = true) (p : Pair) (s : State) :
    nextMask qs s (execCanSend p s) = s.mask qs := by
  unfold execCanSend
  repeat' split
  all_goals first | rfl | simp (disch := first | exact hc | exact covers_trans hc rfl) only [State.modCan_mask, State.accept_mask,
      State.finish_mask, apply_ite (State.mask qs), ite_self, apply_ite (nextMask qs s), nextMask_next]

theorem State.canOffNow_mask {qs : List Area} (hc : covers qs [.hif, .fio, .leg, .out] = true) (s : State) (c : Nat) :
    (State.canOffNow s c).mask qs = s.mask qs := by
  simp (disch := first | exact hc | exact covers_trans hc rfl) only [State.canOffNow, State.finishAll_mask,
    State.setClaims_mask, State.modCan_mask, apply_ite (State.mask qs), ite_self]

theorem execCanEnable_mask {qs : List Area} (hc : covers qs [.regs, .pw, .hif, .fio, .leg, .out] = true) (c : Fin 4)
    (w : Word) (s : State) :
    nextMask qs s (execCanEnable c w s) = s.mask qs := by
  unfold execCanEnable
  try dsimp only
  repeat' first
    | with_reducible rfl
    | simp (disch := first | exact hc | exact covers_trans hc rfl) only [State.canOffNow_mask, State.setClaims_mask,
        State.modCan_mask, State.setReg_mask, State.writeBits_mask, apply_ite (State.mask qs), ite_self,
        apply_ite (nextMask qs s), nextMask_next]
    | split

theorem State.uartError_mask {qs : List Area} (hc : covers qs [.hif, .leg, .out] = true) (s : State) (u : Nat) :
    (State.uartError s u).mask qs = s.mask qs := by
  simp (disch := first | exact hc | exact covers_trans hc rfl) only [State.uartError, State.raise_mask,
    State.modUart_mask, apply_ite (State.mask qs), ite_self]

theorem execUartSend_mask {qs : List Area} (hc : covers qs [.hif, .leg, .out] = true) (p : Pair) (s : State) :
    nextMask qs s (execUartSend p s) = s.mask qs := by
  unfold execUartSend
  repeat' split
  all_goals first | rfl | simp (disch := first | exact hc | exact covers_trans hc rfl) only [State.modUart_mask, State.accept_mask,
      State.finish_mask, apply_ite (State.mask qs), ite_self, apply_ite (nextMask qs s), nextMask_next]

theorem State.plantOut_mask {qs : List Area} (hc : covers qs [.time, .out] = true) (s : State) (port : Fin 2)
    (bytes : List Byte) (tstamp : Bool) (tag : BitVec 16) :
    (State.plantOut s port bytes tstamp tag).mask qs = s.mask qs := by
  simp (disch := first | exact hc | exact covers_trans hc rfl) only [State.plantOut, State.pushTsq_mask,
    State.emitOut_mask, apply_ite (State.mask qs), ite_self]

theorem execPlantSend_mask {qs : List Area} (hc : covers qs [.time, .hif, .leg, .out] = true) (p : Pair) (s : State) :
    nextMask qs s (execPlantSend p s) = s.mask qs := by
  unfold execPlantSend
  repeat' split
  all_goals first | rfl | simp (disch := first | exact hc | exact covers_trans hc rfl) only [State.plantOut_mask, State.setLeg_mask,
      State.accept_mask, State.finish_mask, apply_ite (State.mask qs), ite_self, apply_ite (nextMask qs s),
      nextMask_next]

theorem execCanRecoveryEnd_mask {qs : List Area} (hc : covers qs [.hif, .leg, .out] = true) (c : Fin 4) (s : State) :
    nextMask qs s (execCanRecoveryEnd c s) = s.mask qs := by
  simp (disch := first | exact hc | exact covers_trans hc rfl) only [execCanRecoveryEnd, State.canEvent_mask,
    State.canOfferNow_mask, State.modCan_mask, apply_ite (State.mask qs), ite_self, apply_ite (nextMask qs s),
    nextMask_next]

theorem execUartEnable_mask {qs : List Area} (hc : covers qs [.regs, .pw, .hif, .fio, .leg, .out] = true)
    (u : Fin 4) (w : Word) (s : State) :
    nextMask qs s (execUartEnable u w s) = s.mask qs := by
  unfold execUartEnable
  try dsimp only
  repeat' first
    | with_reducible rfl
    | simp (disch := first | exact hc | exact covers_trans hc rfl) only [State.uartOffNow_mask, State.setClaims_mask,
        State.modUart_mask, State.setReg_mask, State.writeBits_mask, apply_ite (State.mask qs), ite_self,
        apply_ite (nextMask qs s), nextMask_next]
    | split

theorem State.pbStart_mask {qs : List Area} (hc : covers qs [.hif, .leg, .out] = true) (s : State) :
    (State.pbStart s).mask qs = s.mask qs := by
  unfold State.pbStart
  try dsimp only
  repeat' first
    | with_reducible rfl
    | simp (disch := first | exact hc | exact covers_trans hc rfl) only [State.emitOut_mask, State.gpChanged_mask,
        State.setLeg_mask, apply_ite (State.mask qs), ite_self]
    | split

theorem execPlantMessageReceive_mask {qs : List Area} (hc : covers qs [.hif, .leg, .out] = true) (port : Fin 2)
    (bytes : List Byte) (s : State) :
    nextMask qs s (execPlantMessageReceive port bytes s) = s.mask qs := by
  unfold execPlantMessageReceive
  repeat' split
  all_goals first | rfl | simp (disch := first | exact hc | exact covers_trans hc rfl) only [State.hostWrite_mask, State.finish_mask,
      State.setLeg_mask, apply_ite (State.mask qs), ite_self, apply_ite (nextMask qs s), nextMask_next]

theorem execUartSendEnd_mask {qs : List Area} (hc : covers qs [.hif, .leg, .out] = true) (u : Fin 4) (s : State) :
    nextMask qs s (execUartSendEnd u s) = s.mask qs := by
  unfold execUartSendEnd
  try dsimp only
  repeat' first
    | with_reducible rfl
    | simp (disch := first | exact hc | exact covers_trans hc rfl) only [State.modUart_mask, State.finish_mask,
        apply_ite (State.mask qs), ite_self, apply_ite (nextMask qs s), nextMask_next]
    | split

theorem doHpAck_mask {qs : List Area} (hc : covers qs [.hif, .leg, .out] = true) (p : Pair) (s : State) :
    nextMask qs s (doHpAck p s) = s.mask qs := by
  unfold doHpAck
  repeat' split
  all_goals first | rfl | simp (disch := first | exact hc | exact covers_trans hc rfl) only [State.modCan_mask, State.finish_mask,
      apply_ite (State.mask qs), ite_self, apply_ite (nextMask qs s), nextMask_next]

theorem State.pbFinish_mask {qs : List Area} (hc : covers qs [.hif, .leg, .out] = true) (s : State) (x : PbRun)
    (code : Byte) (result : Nat) :
    (State.pbFinish s x code result).mask qs = s.mask qs := by
  unfold State.pbFinish
  try dsimp only
  repeat' first
    | with_reducible rfl
    | simp (disch := first | exact hc | exact covers_trans hc rfl) only [State.finish_mask, State.pbStart_mask,
        State.setLeg_mask, State.gpChanged_mask, State.hostWrite_mask, apply_ite (State.mask qs), ite_self]
    | split
    | with_reducible refine (foldl_mask _ (fun s x => ?_) _ _).trans ?_
    | with_reducible refine (foldl_mask_fst _ (fun x a => ?_) _ _).trans ?_

theorem State.resetBridge_mask {qs : List Area} (hc : covers qs [.hif, .leg, .out] = true) (s : State) :
    (State.resetBridge s).mask qs = s.mask qs := by
  simp (disch := first | exact hc | exact covers_trans hc rfl) only [State.resetBridge, State.finishAll_mask,
    State.setLeg_mask, apply_ite (State.mask qs), ite_self]

theorem execPbCycleEnd_mask {qs : List Area} (hc : covers qs [.hif, .leg, .out] = true) (data : BitVec 16) (s : State) :
    nextMask qs s (execPbCycleEnd data s) = s.mask qs := by
  unfold execPbCycleEnd
  repeat' split
  all_goals first | rfl | simp (disch := first | exact hc | exact covers_trans hc rfl) only [State.emitOut_mask, State.gpChanged_mask,
      State.setLeg_mask, State.pbFinish_mask, apply_ite (State.mask qs), ite_self, apply_ite (nextMask qs s),
      nextMask_next]

theorem execBusTimeout_mask {qs : List Area} (hc : covers qs [.hif, .leg, .out] = true) (s : State) :
    nextMask qs s (execBusTimeout s) = s.mask qs := by
  unfold execBusTimeout
  repeat' split
  all_goals first | rfl | simp (disch := first | exact hc | exact covers_trans hc rfl) only [State.pbFinish_mask, State.setLeg_mask,
      apply_ite (State.mask qs), ite_self, apply_ite (nextMask qs s), nextMask_next]

theorem execPbSend_mask {qs : List Area} (hc : covers qs [.hif, .leg, .out] = true) (p : Pair) (s : State) :
    nextMask qs s (execPbSend p s) = s.mask qs := by
  unfold execPbSend
  try dsimp only
  repeat' first
    | with_reducible rfl
    | simp (disch := first | exact hc | exact covers_trans hc rfl) only [State.setLeg_mask, State.accept_mask,
        State.pbStart_mask, State.finish_mask, apply_ite (State.mask qs), ite_self, apply_ite (nextMask qs s),
        nextMask_next]
    | split

theorem execUartSendStart_mask {qs : List Area} (hc : covers qs [.leg, .out] = true) (u : Fin 4) (s : State) :
    nextMask qs s (execUartSendStart u s) = s.mask qs := by
  unfold execUartSendStart
  try dsimp only
  repeat' first
    | with_reducible rfl
    | simp (disch := first | exact hc | exact covers_trans hc rfl) only [State.modUart_mask, State.emitOut_mask,
        apply_ite (State.mask qs), ite_self, apply_ite (nextMask qs s), nextMask_next]
    | split

theorem execGpRead_mask {qs : List Area} (hc : covers qs [.hif, .out] = true) (p : Pair) (s : State) :
    nextMask qs s (execGpRead p s) = s.mask qs := by
  unfold execGpRead
  repeat' split
  all_goals first | rfl | simp (disch := first | exact hc | exact covers_trans hc rfl) only [State.finish_mask, apply_ite (State.mask qs),
      ite_self, apply_ite (nextMask qs s), nextMask_next]

theorem State.uartTake_mask {qs : List Area} (hc : covers qs [.hif, .leg, .out] = true) (s : State) (u : Nat)
    (ch : Byte) (addr parityErr framingErr : Bool) (st : LineStamp) :
    (State.uartTake s u ch addr parityErr framingErr st).mask qs = s.mask qs := by
  simp (disch := first | exact hc | exact covers_trans hc rfl) only [State.uartTake, State.uartClose_mask,
    State.lostEvent_mask, State.modUart_mask, apply_ite (State.mask qs), ite_self]

theorem execUartCharacter_mask {qs : List Area} (hc : covers qs [.hif, .leg, .out] = true) (u : Fin 4)
    (ch : BitVec 8) (ninth parityErr framingErr own : Bool) (start : LineStamp) (s : State) :
    nextMask qs s (execUartCharacter u ch ninth parityErr framingErr own start s) = s.mask qs := by
  simp (disch := first | exact hc | exact covers_trans hc rfl) only [execUartCharacter, State.uartTake_mask,
    State.uartError_mask, State.drainRx_mask, State.uartClose_mask, State.modUart_mask, apply_ite (State.mask qs),
    ite_self, apply_ite (nextMask qs s), nextMask_next]

theorem execMessageRxFlush_mask {qs : List Area} (hc : covers qs [.hif, .leg, .out] = true) (port : Port)
    (queue : Bool) (s : State) :
    nextMask qs s (execMessageRxFlush port queue s) = s.mask qs := by
  unfold execMessageRxFlush
  repeat' split
  all_goals first | rfl | simp (disch := first | exact hc | exact covers_trans hc rfl) only [State.closeRx_mask, State.drainRx_mask,
      apply_ite (State.mask qs), ite_self, apply_ite (nextMask qs s), nextMask_next]

theorem execRxBuffer_mask {qs : List Area} (hc : covers qs [.hif, .leg, .out] = true) (p : Pair) (s : State) :
    nextMask qs s (execRxBuffer p s) = s.mask qs := by
  unfold execRxBuffer
  repeat' split
  all_goals first | rfl | simp (disch := first | exact hc | exact covers_trans hc rfl) only [State.setLeg_mask, State.accept_mask,
      State.drainRx_mask, State.finish_mask, apply_ite (State.mask qs), ite_self, apply_ite (nextMask qs s),
      nextMask_next]

theorem doGpWrite_mask {qs : List Area} (hc : covers qs [.hif, .leg, .out] = true) (p : Pair) (s : State) :
    nextMask qs s (doGpWrite p s) = s.mask qs := by
  unfold doGpWrite
  repeat' split
  all_goals first | rfl | simp (disch := first | exact hc | exact covers_trans hc rfl) only [State.setLeg_mask, State.finish_mask,
      apply_ite (State.mask qs), ite_self, apply_ite (nextMask qs s), nextMask_next]

theorem execCanFrameSent_mask {qs : List Area} (hc : covers qs [.hif, .leg, .out] = true) (c : Fin 4)
    (start : LineStamp) (s : State) :
    nextMask qs s (execCanFrameSent c start s) = s.mask qs := by
  unfold execCanFrameSent
  try dsimp only
  repeat' first
    | with_reducible rfl
    | simp (disch := first | exact hc | exact covers_trans hc rfl) only [State.canOfferNow_mask,
        State.finishWith_mask, State.canDrop_mask, State.emitOut_mask, State.canOffer_mask, apply_ite (State.mask qs),
        ite_self, apply_ite (nextMask qs s), nextMask_next]
    | split

theorem execMessageAtLaunch_mask {qs : List Area} (hc : covers qs [.time, .hif, .leg, .out] = true) (port : Port)
    (s : State) :
    nextMask qs s (execMessageAtLaunch port s) = s.mask qs := by
  unfold execMessageAtLaunch
  try dsimp only
  repeat' first
    | with_reducible rfl
    | simp (disch := first | exact hc | exact covers_trans hc rfl) only [State.plantOut_mask, State.finish_mask,
        State.setLeg_mask, State.pbStart_mask, State.modUart_mask, State.modCan_mask, apply_ite (State.mask qs),
        ite_self, apply_ite (nextMask qs s), nextMask_next]
    | split
    | with_reducible refine (foldl_mask _ (fun s x => ?_) _ _).trans ?_
    | with_reducible refine (foldl_mask_fst _ (fun x a => ?_) _ _).trans ?_

theorem doFilterTableLoad_mask {qs : List Area} (hc : covers qs [.hif, .fio, .leg, .out] = true) (p : Pair)
    (s : State) :
    nextMask qs s (doFilterTableLoad p s) = s.mask qs := by
  unfold doFilterTableLoad
  try dsimp only
  repeat' first
    | with_reducible rfl
    | simp (disch := first | exact hc | exact covers_trans hc rfl) only [State.setClaims_mask, State.setLeg_mask,
        State.finish_mask, apply_ite (State.mask qs), ite_self, apply_ite (nextMask qs s), nextMask_next]
    | split

end Sys2Proof.Machine
end

