-- ==== Sys2Proof/Laws/FrameChanges.lean ====
section
/-! SUPPORT. Which parts of the State the definitions of Machine/Changes.lean leave alone: one lemma each, for every set of parts
that covers those it changes. -/

set_option linter.unusedSimpArgs false
set_option linter.unreachableTactic false
set_option linter.unusedTactic false

namespace Sys2Proof.Machine

theorem after_mask (qs : List Area) (s : State) (o : Host.Outcome State Fault Refusal) : (after s o).mask qs = nextMask qs s o := by
  cases o <;> rfl

theorem runParam_mask {qs : List Area}
    (hc : covers qs [.hif, .cnv, .fio, .mir, .bog, .wag, .leg, .out, .freeIdx] = true) (p : Pair)
    (block index : Nat) (s : State) :
    (runParam p block index s).mask qs = s.mask qs := by
  unfold runParam
  repeat' split
  all_goals first | rfl | simp (disch := first | exact hc | exact covers_trans hc rfl) only [doGpWrite_mask, doRecover_mask, doHpAck_mask,
      doModeChange_mask, doMireStop_mask, doForce_mask, doMireArm_mask, doHsClrFault_mask, doCalMeasure_mask,
      doRotate_mask, doUrgent_mask, after_mask, apply_ite (State.mask qs), ite_self]

theorem doWitnessTableLoad_mask {qs : List Area} (hc : covers qs [.hif, .twn, .out] = true) (p : Pair) (s : State) :
    nextMask qs s (doWitnessTableLoad p s) = s.mask qs := by
  unfold doWitnessTableLoad
  repeat' split
  all_goals first | rfl | simp (disch := first | exact hc | exact covers_trans hc rfl) only [State.mask_twn, State.finish_mask,
      apply_ite (State.mask qs), ite_self, apply_ite (nextMask qs s), nextMask_next]

theorem runTable_mask {qs : List Area}
    (hc : covers qs [.hif, .cmb, .blk, .cnv, .fio, .mir, .wag, .twn, .leg, .out] = true) (p : Pair)
    (block num : Nat) (s : State) :
    (runTable p block num s).mask qs = s.mask qs := by
  unfold runTable
  repeat' split
  all_goals first | rfl | simp (disch := first | exact hc | exact covers_trans hc rfl) only [doScheduleLoad_mask, doScanListLoad_mask,
      doFilterTableLoad_mask, doWitnessTableLoad_mask, doSegmentTableLoad_mask, doStationTableLoad_mask,
      doReceiveMapLoad_mask, doMaskTableLoad_mask, doLineTableLoad_mask, doRegionTableLoad_mask,
      doHoldPolicyTableLoad_mask, doProfileTableLoad_mask, doPulseTableLoad_mask, doEncoderTableLoad_mask,
      doInputTableLoad_mask, doHighSideTableLoad_mask, doSkewLoad_mask, doDacCoefficientLoad_mask,
      doCoefficientLoad_mask, doDacTableLoad_mask, doChannelTableLoad_mask, doOutputMapLoad_mask, doInputMapLoad_mask,
      doModelTableLoad_mask, doMicroprogramLoad_mask, doSlotTableLoad_mask, after_mask, apply_ite (State.mask qs),
      ite_self]

theorem State.runDesc_mask {qs : List Area}
    (hc : covers qs [.time, .hif, .cmb, .blk, .cnv, .fio, .mir, .bog, .wag, .twn, .leg, .out, .freeIdx] = true)
    (s : State) (p : Pair) (e : Entry) :
    (State.runDesc s p e).mask qs = s.mask qs := by
  unfold State.runDesc
  repeat' split
  all_goals first | rfl | simp (disch := first | exact hc | exact covers_trans hc rfl) only [doExchange_mask, doLoadImage_mask, doTimeSet_mask,
      after_mask, runParam_mask, runTable_mask, apply_ite (State.mask qs), ite_self]

theorem State.runApart_mask {qs : List Area}
    (hc : covers qs [.time, .hif, .cmb, .blk, .cnv, .fio, .mir, .bog, .wag, .twn, .leg, .out, .freeIdx] = true)
    (s : State) (cls : Nat) (raw : BitVec 512) (data : List Byte) :
    (State.runApart s cls raw data).1.mask qs = s.mask qs := by
  simp (disch := first | exact hc | exact covers_trans hc rfl) only [State.runApart, State.viaHif_mask,
    State.runDesc_mask, apply_ite (State.mask qs), ite_self, apply_ite Prod.fst]

theorem State.asChange_mask {qs : List Area} (hc : covers qs [.time, .hif, .cmb, .blk, .cnv, .fio, .mir, .bog, .wag, .twn, .leg, .out, .freeIdx] = true) (s : State) (p : Pair) (mine : Option Entry)
    (f : State → Host.Outcome State Fault Refusal) (hf : nextMask qs s (f s) = s.mask qs) :
    nextMask qs s (State.asChange s p mine f) = s.mask qs := by
  unfold State.asChange
  try dsimp only
  repeat' first
    | with_reducible rfl
    | exact hf
    | simp (disch := first | exact hc | exact covers_trans hc rfl) only [nextMask_next, State.finish_mask, State.viaHif_mask, State.mask_twn, State.sendChange_mask, apply_ite (State.mask qs), ite_self]
    | split

theorem execMicroprogramLoad_mask {qs : List Area}
    (hc : covers qs [.time, .hif, .cmb, .blk, .cnv, .fio, .mir, .bog, .wag, .twn, .leg, .out, .freeIdx] = true)
    (p : Pair) (s : State) :
    nextMask qs s (execMicroprogramLoad p s) = s.mask qs := by
  simp (disch := first | exact hc | exact covers_trans hc rfl | exact doMicroprogramLoad_mask (covers_trans hc rfl) _ _) only [
    execMicroprogramLoad, doMicroprogramLoad_mask, State.asChange_mask, apply_ite (State.mask qs), ite_self,
    apply_ite (nextMask qs s), nextMask_next]

theorem execForce_mask {qs : List Area}
    (hc : covers qs [.time, .hif, .cmb, .blk, .cnv, .fio, .mir, .bog, .wag, .twn, .leg, .out, .freeIdx] = true)
    (p : Pair) (s : State) :
    nextMask qs s (execForce p s) = s.mask qs := by
  simp (disch := first | exact hc | exact covers_trans hc rfl | exact doForce_mask (covers_trans hc rfl) _ _) only [
    execForce, doForce_mask, State.asChange_mask, apply_ite (State.mask qs), ite_self, apply_ite (nextMask qs s),
    nextMask_next]

theorem State.asOwnChange_mask {qs : List Area} (hc : covers qs [.hif, .out] = true) (s : State) (p : Pair) (mine : Option Entry)
    (f : State → Host.Outcome State Fault Refusal) (hf : nextMask qs s (f s) = s.mask qs) :
    nextMask qs s (State.asOwnChange s p mine f) = s.mask qs := by
  unfold State.asOwnChange
  try dsimp only
  repeat' first
    | with_reducible rfl
    | exact hf
    | simp (disch := first | exact hc | exact covers_trans hc rfl) only [nextMask_next, State.finish_mask, apply_ite (State.mask qs), ite_self]
    | split

theorem execRecover_mask {qs : List Area} (hc : covers qs [.hif, .leg, .out] = true) (p : Pair) (s : State) :
    nextMask qs s (execRecover p s) = s.mask qs := by
  simp (disch := first | exact hc | exact covers_trans hc rfl | exact doRecover_mask (covers_trans hc rfl) _ _) only [
    execRecover, doRecover_mask, State.asOwnChange_mask, apply_ite (State.mask qs), ite_self,
    apply_ite (nextMask qs s), nextMask_next]

theorem execReadOnlyTableLoad_mask {qs : List Area} (hc : covers qs [.hif, .out] = true) (p : Pair) (s : State) :
    nextMask qs s (execReadOnlyTableLoad p s) = s.mask qs := by
  unfold execReadOnlyTableLoad
  repeat' split
  all_goals first | rfl | simp (disch := first | exact hc | exact covers_trans hc rfl) only [State.finish_mask, apply_ite (State.mask qs),
      ite_self, apply_ite (nextMask qs s), nextMask_next]

theorem execRegionTableLoad_mask {qs : List Area}
    (hc : covers qs [.time, .hif, .cmb, .blk, .cnv, .fio, .mir, .bog, .wag, .twn, .leg, .out, .freeIdx] = true)
    (p : Pair) (s : State) :
    nextMask qs s (execRegionTableLoad p s) = s.mask qs := by
  simp (disch := first | exact hc | exact covers_trans hc rfl | exact doRegionTableLoad_mask (covers_trans hc rfl) _ _) only [
    execRegionTableLoad, doRegionTableLoad_mask, State.asChange_mask, apply_ite (State.mask qs), ite_self,
    apply_ite (nextMask qs s), nextMask_next]

theorem execProfileTableLoad_mask {qs : List Area}
    (hc : covers qs [.time, .hif, .cmb, .blk, .cnv, .fio, .mir, .bog, .wag, .twn, .leg, .out, .freeIdx] = true)
    (p : Pair) (s : State) :
    nextMask qs s (execProfileTableLoad p s) = s.mask qs := by
  simp (disch := first | exact hc | exact covers_trans hc rfl | exact doProfileTableLoad_mask (covers_trans hc rfl) _ _) only [
    execProfileTableLoad, doProfileTableLoad_mask, State.asChange_mask, apply_ite (State.mask qs), ite_self,
    apply_ite (nextMask qs s), nextMask_next]

theorem execFilterTableLoad_mask {qs : List Area} (hc : covers qs [.hif, .fio, .leg, .out] = true) (p : Pair)
    (s : State) :
    nextMask qs s (execFilterTableLoad p s) = s.mask qs := by
  simp (disch := first | exact hc | exact covers_trans hc rfl | exact doFilterTableLoad_mask (covers_trans hc rfl) _ _) only [
    execFilterTableLoad, doFilterTableLoad_mask, State.asOwnChange_mask, apply_ite (State.mask qs), ite_self,
    apply_ite (nextMask qs s), nextMask_next]

theorem execEncoderTableLoad_mask {qs : List Area}
    (hc : covers qs [.time, .hif, .cmb, .blk, .cnv, .fio, .mir, .bog, .wag, .twn, .leg, .out, .freeIdx] = true)
    (p : Pair) (s : State) :
    nextMask qs s (execEncoderTableLoad p s) = s.mask qs := by
  simp (disch := first | exact hc | exact covers_trans hc rfl | exact doEncoderTableLoad_mask (covers_trans hc rfl) _ _) only [
    execEncoderTableLoad, doEncoderTableLoad_mask, State.asChange_mask, apply_ite (State.mask qs), ite_self,
    apply_ite (nextMask qs s), nextMask_next]

theorem execMireArm_mask {qs : List Area}
    (hc : covers qs [.time, .hif, .cmb, .blk, .cnv, .fio, .mir, .bog, .wag, .twn, .leg, .out, .freeIdx] = true)
    (p : Pair) (s : State) :
    nextMask qs s (execMireArm p s) = s.mask qs := by
  simp (disch := first | exact hc | exact covers_trans hc rfl | exact doMireArm_mask (covers_trans hc rfl) _ _) only [
    execMireArm, doMireArm_mask, State.asChange_mask, apply_ite (State.mask qs), ite_self, apply_ite (nextMask qs s),
    nextMask_next]

theorem execModeChange_mask {qs : List Area}
    (hc : covers qs [.time, .hif, .cmb, .blk, .cnv, .fio, .mir, .bog, .wag, .twn, .leg, .out, .freeIdx] = true)
    (p : Pair) (s : State) :
    nextMask qs s (execModeChange p s) = s.mask qs := by
  simp (disch := first | exact hc | exact covers_trans hc rfl | exact doModeChange_mask (covers_trans hc rfl) _ _) only [
    execModeChange, doModeChange_mask, State.asChange_mask, apply_ite (State.mask qs), ite_self,
    apply_ite (nextMask qs s), nextMask_next]

theorem execScheduleLoad_mask {qs : List Area}
    (hc : covers qs [.time, .hif, .cmb, .blk, .cnv, .fio, .mir, .bog, .wag, .twn, .leg, .out, .freeIdx] = true)
    (p : Pair) (s : State) :
    nextMask qs s (execScheduleLoad p s) = s.mask qs := by
  simp (disch := first | exact hc | exact covers_trans hc rfl | exact doScheduleLoad_mask (covers_trans hc rfl) _ _) only [
    execScheduleLoad, doScheduleLoad_mask, State.asChange_mask, apply_ite (State.mask qs), ite_self,
    apply_ite (nextMask qs s), nextMask_next]

theorem State.resumeChange_mask {qs : List Area}
    (hc : covers qs [.time, .hif, .cmb, .blk, .cnv, .fio, .mir, .bog, .wag, .twn, .leg, .out, .freeIdx] = true)
    (s : State) (seq : Word) :
    (State.resumeChange s seq).mask qs = s.mask qs := by
  unfold State.resumeChange
  try dsimp only
  repeat' first
    | with_reducible rfl
    | simp (disch := first | exact hc | exact covers_trans hc rfl) only [State.mask_twn, State.finish_mask,
        State.runDesc_mask, State.viaHif_mask, apply_ite (State.mask qs), ite_self]
    | split

theorem State.dueChanges_mask {qs : List Area}
    (hc : covers qs [.time, .hif, .cmb, .blk, .cnv, .fio, .mir, .bog, .wag, .twn, .leg, .out, .freeIdx] = true)
    (s : State) (n : Nat) :
    (State.dueChanges s n).mask qs = s.mask qs := by
  unfold State.dueChanges
  try dsimp only
  repeat' first
    | with_reducible rfl
    | simp (disch := first | exact hc | exact covers_trans hc rfl) only [State.resumeChange_mask,
        apply_ite (State.mask qs), ite_self]
    | split
    | with_reducible refine (foldl_mask _ (fun s x => ?_) _ _).trans ?_
    | with_reducible refine (foldl_mask_fst _ (fun x a => ?_) _ _).trans ?_

theorem State.acceptChange_mask {qs : List Area}
    (hc : covers qs [.time, .hif, .cmb, .blk, .cnv, .fio, .mir, .bog, .wag, .twn, .leg, .out, .freeIdx] = true)
    (s : State) (seq : Word) :
    (State.acceptChange s seq).mask qs = s.mask qs := by
  simp (disch := first | exact hc | exact covers_trans hc rfl) only [State.acceptChange, State.mask_twn,
    State.dueChanges_mask, apply_ite (State.mask qs), ite_self]

theorem execHighSideTableLoad_mask {qs : List Area}
    (hc : covers qs [.time, .hif, .cmb, .blk, .cnv, .fio, .mir, .bog, .wag, .twn, .leg, .out, .freeIdx] = true)
    (p : Pair) (s : State) :
    nextMask qs s (execHighSideTableLoad p s) = s.mask qs := by
  simp (disch := first | exact hc | exact covers_trans hc rfl | exact doHighSideTableLoad_mask (covers_trans hc rfl) _ _) only [
    execHighSideTableLoad, doHighSideTableLoad_mask, State.asChange_mask, apply_ite (State.mask qs), ite_self,
    apply_ite (nextMask qs s), nextMask_next]

theorem execHsClrFault_mask {qs : List Area}
    (hc : covers qs [.time, .hif, .cmb, .blk, .cnv, .fio, .mir, .bog, .wag, .twn, .leg, .out, .freeIdx] = true)
    (p : Pair) (s : State) :
    nextMask qs s (execHsClrFault p s) = s.mask qs := by
  simp (disch := first | exact hc | exact covers_trans hc rfl | exact doHsClrFault_mask (covers_trans hc rfl) _ _) only [
    execHsClrFault, doHsClrFault_mask, State.asChange_mask, apply_ite (State.mask qs), ite_self,
    apply_ite (nextMask qs s), nextMask_next]

theorem State.loadApart_mask {qs : List Area}
    (hc : covers qs [.time, .hif, .cmb, .blk, .cnv, .fio, .mir, .bog, .wag, .twn, .leg, .out, .freeIdx] = true)
    (s : State) (cls : Nat) (raw : BitVec 512) (data : List Byte) :
    (State.loadApart s cls raw data).mask qs = s.mask qs := by
  unfold State.loadApart
  try dsimp only
  repeat' first
    | with_reducible rfl
    | simp (disch := first | exact hc | exact covers_trans hc rfl) only [State.raise_mask, State.runApart_mask,
        apply_ite (State.mask qs), ite_self]
    | split

theorem execModelTableLoad_mask {qs : List Area}
    (hc : covers qs [.time, .hif, .cmb, .blk, .cnv, .fio, .mir, .bog, .wag, .twn, .leg, .out, .freeIdx] = true)
    (p : Pair) (s : State) :
    nextMask qs s (execModelTableLoad p s) = s.mask qs := by
  simp (disch := first | exact hc | exact covers_trans hc rfl | exact doModelTableLoad_mask (covers_trans hc rfl) _ _) only [
    execModelTableLoad, doModelTableLoad_mask, State.asChange_mask, apply_ite (State.mask qs), ite_self,
    apply_ite (nextMask qs s), nextMask_next]

theorem execLoadImage_mask {qs : List Area}
    (hc : covers qs [.time, .hif, .cmb, .blk, .cnv, .fio, .mir, .bog, .wag, .twn, .leg, .out, .freeIdx] = true)
    (p : Pair) (s : State) :
    nextMask qs s (execLoadImage p s) = s.mask qs := by
  simp (disch := first | exact hc | exact covers_trans hc rfl | exact doLoadImage_mask (covers_trans hc rfl) _ _) only [
    execLoadImage, doLoadImage_mask, State.asChange_mask, apply_ite (State.mask qs), ite_self,
    apply_ite (nextMask qs s), nextMask_next]

theorem execScanListLoad_mask {qs : List Area}
    (hc : covers qs [.time, .hif, .cmb, .blk, .cnv, .fio, .mir, .bog, .wag, .twn, .leg, .out, .freeIdx] = true)
    (p : Pair) (s : State) :
    nextMask qs s (execScanListLoad p s) = s.mask qs := by
  simp (disch := first | exact hc | exact covers_trans hc rfl | exact doScanListLoad_mask (covers_trans hc rfl) _ _) only [
    execScanListLoad, doScanListLoad_mask, State.asChange_mask, apply_ite (State.mask qs), ite_self,
    apply_ite (nextMask qs s), nextMask_next]

theorem execWitnessTableLoad_mask {qs : List Area}
    (hc : covers qs [.time, .hif, .cmb, .blk, .cnv, .fio, .mir, .bog, .wag, .twn, .leg, .out, .freeIdx] = true)
    (p : Pair) (s : State) :
    nextMask qs s (execWitnessTableLoad p s) = s.mask qs := by
  simp (disch := first | exact hc | exact covers_trans hc rfl | exact doWitnessTableLoad_mask (covers_trans hc rfl) _ _) only [
    execWitnessTableLoad, doWitnessTableLoad_mask, State.asChange_mask, apply_ite (State.mask qs), ite_self,
    apply_ite (nextMask qs s), nextMask_next]

theorem execSegmentTableLoad_mask {qs : List Area}
    (hc : covers qs [.time, .hif, .cmb, .blk, .cnv, .fio, .mir, .bog, .wag, .twn, .leg, .out, .freeIdx] = true)
    (p : Pair) (s : State) :
    nextMask qs s (execSegmentTableLoad p s) = s.mask qs := by
  simp (disch := first | exact hc | exact covers_trans hc rfl | exact doSegmentTableLoad_mask (covers_trans hc rfl) _ _) only [
    execSegmentTableLoad, doSegmentTableLoad_mask, State.asChange_mask, apply_ite (State.mask qs), ite_self,
    apply_ite (nextMask qs s), nextMask_next]

theorem execLineTableLoad_mask {qs : List Area}
    (hc : covers qs [.time, .hif, .cmb, .blk, .cnv, .fio, .mir, .bog, .wag, .twn, .leg, .out, .freeIdx] = true)
    (p : Pair) (s : State) :
    nextMask qs s (execLineTableLoad p s) = s.mask qs := by
  simp (disch := first | exact hc | exact covers_trans hc rfl | exact doLineTableLoad_mask (covers_trans hc rfl) _ _) only [
    execLineTableLoad, doLineTableLoad_mask, State.asChange_mask, apply_ite (State.mask qs), ite_self,
    apply_ite (nextMask qs s), nextMask_next]

theorem execStationTableLoad_mask {qs : List Area}
    (hc : covers qs [.time, .hif, .cmb, .blk, .cnv, .fio, .mir, .bog, .wag, .twn, .leg, .out, .freeIdx] = true)
    (p : Pair) (s : State) :
    nextMask qs s (execStationTableLoad p s) = s.mask qs := by
  simp (disch := first | exact hc | exact covers_trans hc rfl | exact doStationTableLoad_mask (covers_trans hc rfl) _ _) only [
    execStationTableLoad, doStationTableLoad_mask, State.asChange_mask, apply_ite (State.mask qs), ite_self,
    apply_ite (nextMask qs s), nextMask_next]

theorem execSlotTableLoad_mask {qs : List Area}
    (hc : covers qs [.time, .hif, .cmb, .blk, .cnv, .fio, .mir, .bog, .wag, .twn, .leg, .out, .freeIdx] = true)
    (p : Pair) (s : State) :
    nextMask qs s (execSlotTableLoad p s) = s.mask qs := by
  simp (disch := first | exact hc | exact covers_trans hc rfl | exact doSlotTableLoad_mask (covers_trans hc rfl) _ _) only [
    execSlotTableLoad, doSlotTableLoad_mask, State.asChange_mask, apply_ite (State.mask qs), ite_self,
    apply_ite (nextMask qs s), nextMask_next]

theorem execPulseTableLoad_mask {qs : List Area}
    (hc : covers qs [.time, .hif, .cmb, .blk, .cnv, .fio, .mir, .bog, .wag, .twn, .leg, .out, .freeIdx] = true)
    (p : Pair) (s : State) :
    nextMask qs s (execPulseTableLoad p s) = s.mask qs := by
  simp (disch := first | exact hc | exact covers_trans hc rfl | exact doPulseTableLoad_mask (covers_trans hc rfl) _ _) only [
    execPulseTableLoad, doPulseTableLoad_mask, State.asChange_mask, apply_ite (State.mask qs), ite_self,
    apply_ite (nextMask qs s), nextMask_next]

theorem execExchange_mask {qs : List Area}
    (hc : covers qs [.time, .hif, .cmb, .blk, .cnv, .fio, .mir, .bog, .wag, .twn, .leg, .out, .freeIdx] = true)
    (p : Pair) (s : State) :
    nextMask qs s (execExchange p s) = s.mask qs := by
  simp (disch := first | exact hc | exact covers_trans hc rfl | exact doExchange_mask (covers_trans hc rfl) _ _) only [
    execExchange, doExchange_mask, State.asChange_mask, apply_ite (State.mask qs), ite_self,
    apply_ite (nextMask qs s), nextMask_next]

theorem execSkewLoad_mask {qs : List Area}
    (hc : covers qs [.time, .hif, .cmb, .blk, .cnv, .fio, .mir, .bog, .wag, .twn, .leg, .out, .freeIdx] = true)
    (p : Pair) (s : State) :
    nextMask qs s (execSkewLoad p s) = s.mask qs := by
  simp (disch := first | exact hc | exact covers_trans hc rfl | exact doSkewLoad_mask (covers_trans hc rfl) _ _) only [
    execSkewLoad, doSkewLoad_mask, State.asChange_mask, apply_ite (State.mask qs), ite_self,
    apply_ite (nextMask qs s), nextMask_next]

theorem execReceiveMapLoad_mask {qs : List Area}
    (hc : covers qs [.time, .hif, .cmb, .blk, .cnv, .fio, .mir, .bog, .wag, .twn, .leg, .out, .freeIdx] = true)
    (p : Pair) (s : State) :
    nextMask qs s (execReceiveMapLoad p s) = s.mask qs := by
  simp (disch := first | exact hc | exact covers_trans hc rfl | exact doReceiveMapLoad_mask (covers_trans hc rfl) _ _) only [
    execReceiveMapLoad, doReceiveMapLoad_mask, State.asChange_mask, apply_ite (State.mask qs), ite_self,
    apply_ite (nextMask qs s), nextMask_next]

theorem execDacTableLoad_mask {qs : List Area}
    (hc : covers qs [.time, .hif, .cmb, .blk, .cnv, .fio, .mir, .bog, .wag, .twn, .leg, .out, .freeIdx] = true)
    (p : Pair) (s : State) :
    nextMask qs s (execDacTableLoad p s) = s.mask qs := by
  simp (disch := first | exact hc | exact covers_trans hc rfl | exact doDacTableLoad_mask (covers_trans hc rfl) _ _) only [
    execDacTableLoad, doDacTableLoad_mask, State.asChange_mask, apply_ite (State.mask qs), ite_self,
    apply_ite (nextMask qs s), nextMask_next]

theorem execHoldPolicyTableLoad_mask {qs : List Area}
    (hc : covers qs [.time, .hif, .cmb, .blk, .cnv, .fio, .mir, .bog, .wag, .twn, .leg, .out, .freeIdx] = true)
    (p : Pair) (s : State) :
    nextMask qs s (execHoldPolicyTableLoad p s) = s.mask qs := by
  simp (disch := first | exact hc | exact covers_trans hc rfl | exact doHoldPolicyTableLoad_mask (covers_trans hc rfl) _ _) only [
    execHoldPolicyTableLoad, doHoldPolicyTableLoad_mask, State.asChange_mask, apply_ite (State.mask qs), ite_self,
    apply_ite (nextMask qs s), nextMask_next]

theorem execCoefficientLoad_mask {qs : List Area}
    (hc : covers qs [.time, .hif, .cmb, .blk, .cnv, .fio, .mir, .bog, .wag, .twn, .leg, .out, .freeIdx] = true)
    (p : Pair) (s : State) :
    nextMask qs s (execCoefficientLoad p s) = s.mask qs := by
  simp (disch := first | exact hc | exact covers_trans hc rfl | exact doCoefficientLoad_mask (covers_trans hc rfl) _ _) only [
    execCoefficientLoad, doCoefficientLoad_mask, State.asChange_mask, apply_ite (State.mask qs), ite_self,
    apply_ite (nextMask qs s), nextMask_next]

theorem execChannelTableLoad_mask {qs : List Area}
    (hc : covers qs [.time, .hif, .cmb, .blk, .cnv, .fio, .mir, .bog, .wag, .twn, .leg, .out, .freeIdx] = true)
    (p : Pair) (s : State) :
    nextMask qs s (execChannelTableLoad p s) = s.mask qs := by
  simp (disch := first | exact hc | exact covers_trans hc rfl | exact doChannelTableLoad_mask (covers_trans hc rfl) _ _) only [
    execChannelTableLoad, doChannelTableLoad_mask, State.asChange_mask, apply_ite (State.mask qs), ite_self,
    apply_ite (nextMask qs s), nextMask_next]

theorem State.loadItem_mask {qs : List Area}
    (hc : covers qs [.time, .hif, .cmb, .blk, .cnv, .fio, .mir, .bog, .wag, .twn, .leg, .out, .freeIdx] = true)
    (s : State) (it : PersistItem) :
    (State.loadItem s it).mask qs = s.mask qs := by
  unfold State.loadItem
  repeat' split
  all_goals first | rfl | simp (disch := first | exact hc | exact covers_trans hc rfl) only [State.runApart_mask, State.loadApart_mask,
      apply_ite (State.mask qs), ite_self]

theorem execRotate_mask {qs : List Area}
    (hc : covers qs [.time, .hif, .cmb, .blk, .cnv, .fio, .mir, .bog, .wag, .twn, .leg, .out, .freeIdx] = true)
    (p : Pair) (s : State) :
    nextMask qs s (execRotate p s) = s.mask qs := by
  simp (disch := first | exact hc | exact covers_trans hc rfl | exact doRotate_mask (covers_trans hc rfl) _ _) only [
    execRotate, doRotate_mask, State.asChange_mask, apply_ite (State.mask qs), ite_self, apply_ite (nextMask qs s),
    nextMask_next]

theorem execMireStop_mask {qs : List Area}
    (hc : covers qs [.time, .hif, .cmb, .blk, .cnv, .fio, .mir, .bog, .wag, .twn, .leg, .out, .freeIdx] = true)
    (p : Pair) (s : State) :
    nextMask qs s (execMireStop p s) = s.mask qs := by
  simp (disch := first | exact hc | exact covers_trans hc rfl | exact doMireStop_mask (covers_trans hc rfl) _ _) only [
    execMireStop, doMireStop_mask, State.asChange_mask, apply_ite (State.mask qs), ite_self,
    apply_ite (nextMask qs s), nextMask_next]

theorem execGpWrite_mask {qs : List Area} (hc : covers qs [.hif, .leg, .out] = true) (p : Pair) (s : State) :
    nextMask qs s (execGpWrite p s) = s.mask qs := by
  simp (disch := first | exact hc | exact covers_trans hc rfl | exact doGpWrite_mask (covers_trans hc rfl) _ _) only [
    execGpWrite, doGpWrite_mask, State.asOwnChange_mask, apply_ite (State.mask qs), ite_self,
    apply_ite (nextMask qs s), nextMask_next]

theorem execMaskTableLoad_mask {qs : List Area}
    (hc : covers qs [.time, .hif, .cmb, .blk, .cnv, .fio, .mir, .bog, .wag, .twn, .leg, .out, .freeIdx] = true)
    (p : Pair) (s : State) :
    nextMask qs s (execMaskTableLoad p s) = s.mask qs := by
  simp (disch := first | exact hc | exact covers_trans hc rfl | exact doMaskTableLoad_mask (covers_trans hc rfl) _ _) only [
    execMaskTableLoad, doMaskTableLoad_mask, State.asChange_mask, apply_ite (State.mask qs), ite_self,
    apply_ite (nextMask qs s), nextMask_next]

theorem execInputMapLoad_mask {qs : List Area}
    (hc : covers qs [.time, .hif, .cmb, .blk, .cnv, .fio, .mir, .bog, .wag, .twn, .leg, .out, .freeIdx] = true)
    (p : Pair) (s : State) :
    nextMask qs s (execInputMapLoad p s) = s.mask qs := by
  simp (disch := first | exact hc | exact covers_trans hc rfl | exact doInputMapLoad_mask (covers_trans hc rfl) _ _) only [
    execInputMapLoad, doInputMapLoad_mask, State.asChange_mask, apply_ite (State.mask qs), ite_self,
    apply_ite (nextMask qs s), nextMask_next]

theorem execTimeSet_mask {qs : List Area}
    (hc : covers qs [.time, .hif, .cmb, .blk, .cnv, .fio, .mir, .bog, .wag, .twn, .leg, .out, .freeIdx] = true)
    (p : Pair) (s : State) :
    nextMask qs s (execTimeSet p s) = s.mask qs := by
  simp (disch := first | exact hc | exact covers_trans hc rfl | exact doTimeSet_mask (covers_trans hc rfl) _ _) only [
    execTimeSet, doTimeSet_mask, State.asChange_mask, apply_ite (State.mask qs), ite_self, apply_ite (nextMask qs s),
    nextMask_next]

theorem execCalMeasure_mask {qs : List Area}
    (hc : covers qs [.time, .hif, .cmb, .blk, .cnv, .fio, .mir, .bog, .wag, .twn, .leg, .out, .freeIdx] = true)
    (p : Pair) (s : State) :
    nextMask qs s (execCalMeasure p s) = s.mask qs := by
  simp (disch := first | exact hc | exact covers_trans hc rfl | exact doCalMeasure_mask (covers_trans hc rfl) _ _) only [
    execCalMeasure, doCalMeasure_mask, State.asChange_mask, apply_ite (State.mask qs), ite_self,
    apply_ite (nextMask qs s), nextMask_next]

theorem execUrgent_mask {qs : List Area}
    (hc : covers qs [.time, .hif, .cmb, .blk, .cnv, .fio, .mir, .bog, .wag, .twn, .leg, .out, .freeIdx] = true)
    (p : Pair) (s : State) :
    nextMask qs s (execUrgent p s) = s.mask qs := by
  simp (disch := first | exact hc | exact covers_trans hc rfl | exact doUrgent_mask (covers_trans hc rfl) _ _) only [
    execUrgent, doUrgent_mask, State.asChange_mask, apply_ite (State.mask qs), ite_self, apply_ite (nextMask qs s),
    nextMask_next]

theorem execOutputMapLoad_mask {qs : List Area}
    (hc : covers qs [.time, .hif, .cmb, .blk, .cnv, .fio, .mir, .bog, .wag, .twn, .leg, .out, .freeIdx] = true)
    (p : Pair) (s : State) :
    nextMask qs s (execOutputMapLoad p s) = s.mask qs := by
  simp (disch := first | exact hc | exact covers_trans hc rfl | exact doOutputMapLoad_mask (covers_trans hc rfl) _ _) only [
    execOutputMapLoad, doOutputMapLoad_mask, State.asChange_mask, apply_ite (State.mask qs), ite_self,
    apply_ite (nextMask qs s), nextMask_next]

theorem execDacCoefficientLoad_mask {qs : List Area}
    (hc : covers qs [.time, .hif, .cmb, .blk, .cnv, .fio, .mir, .bog, .wag, .twn, .leg, .out, .freeIdx] = true)
    (p : Pair) (s : State) :
    nextMask qs s (execDacCoefficientLoad p s) = s.mask qs := by
  simp (disch := first | exact hc | exact covers_trans hc rfl | exact doDacCoefficientLoad_mask (covers_trans hc rfl) _ _) only [
    execDacCoefficientLoad, doDacCoefficientLoad_mask, State.asChange_mask, apply_ite (State.mask qs), ite_self,
    apply_ite (nextMask qs s), nextMask_next]

theorem execInputTableLoad_mask {qs : List Area}
    (hc : covers qs [.time, .hif, .cmb, .blk, .cnv, .fio, .mir, .bog, .wag, .twn, .leg, .out, .freeIdx] = true)
    (p : Pair) (s : State) :
    nextMask qs s (execInputTableLoad p s) = s.mask qs := by
  simp (disch := first | exact hc | exact covers_trans hc rfl | exact doInputTableLoad_mask (covers_trans hc rfl) _ _) only [
    execInputTableLoad, doInputTableLoad_mask, State.asChange_mask, apply_ite (State.mask qs), ite_self,
    apply_ite (nextMask qs s), nextMask_next]

theorem execHpAck_mask {qs : List Area} (hc : covers qs [.hif, .leg, .out] = true) (p : Pair) (s : State) :
    nextMask qs s (execHpAck p s) = s.mask qs := by
  simp (disch := first | exact hc | exact covers_trans hc rfl | exact doHpAck_mask (covers_trans hc rfl) _ _) only [
    execHpAck, doHpAck_mask, State.asOwnChange_mask, apply_ite (State.mask qs), ite_self, apply_ite (nextMask qs s),
    nextMask_next]

end Sys2Proof.Machine
end

