-- ==== Sys2Proof/Laws/FrameTwin.lean ====
section
/-! SUPPORT. Which parts of the State the definitions of Machine/Twin.lean leave alone: one lemma each, for every set of parts
that covers those it changes. -/

set_option linter.unusedSimpArgs false
set_option linter.unreachableTactic false
set_option linter.unusedTactic false

namespace Sys2Proof.Machine

theorem State.setTwn_mask {qs : List Area} (hc : covers qs [.twn] = true) (s : State) (t : TwnState) :
    (State.setTwn s t).mask qs = s.mask qs := by
  simp (disch := exact covers_trans hc rfl) only [State.setTwn, State.mask_twn, apply_ite (State.mask qs), ite_self]

theorem State.carryLink_mask {qs : List Area} (hc : covers qs [.time, .hif, .stp, .wag, .out] = true) (s : State) :
    (State.carryLink s).mask qs = s.mask qs := by
  simp (disch := first | exact hc | exact covers_trans hc rfl) only [State.carryLink, State.recomputeRelay_mask,
    State.rateFromTb0_mask, State.setLock_mask, State.setWag_mask, apply_ite (State.mask qs), ite_self]

theorem State.refreshAct_mask {qs : List Area} (hc : covers qs [.fio, .twn] = true) (s : State) :
    (State.refreshAct s).mask qs = s.mask qs := by
  unfold State.refreshAct
  repeat' split
  all_goals first | rfl | simp (disch := first | exact hc | exact covers_trans hc rfl) only [State.setTwn_mask, State.sendDown_mask,
      apply_ite (State.mask qs), ite_self]

theorem State.applyChange_mask {qs : List Area}
    (hc : covers qs [.time, .hif, .stp, .cmb, .blk, .cnv, .fio, .mir, .bog, .wag, .twn, .leg, .out, .freeIdx] = true) (s : State) (c : Word × Nat × List Byte × List Byte) :
    (State.applyChange s c).mask qs = s.mask qs := by
  unfold State.applyChange
  try dsimp only
  repeat' first
    | with_reducible rfl
    | simp (disch := first | exact hc | exact covers_trans hc rfl) only [State.mask_stp, State.runApart_mask,
        State.cancelStep_mask, State.enterStep_mask, apply_ite (State.mask qs), ite_self]
    | split

theorem State.applyMirrored_mask {qs : List Area}
    (hc : covers qs [.time, .hif, .stp, .cmb, .blk, .cnv, .fio, .mir, .bog, .wag, .twn, .leg, .out, .freeIdx] = true) (s : State) :
    (State.applyMirrored s).mask qs = s.mask qs := by
  unfold State.applyMirrored
  try dsimp only
  repeat' first
    | with_reducible rfl
    | simp (disch := first | exact hc | exact covers_trans hc rfl) only [State.setTwn_mask, State.applyChange_mask,
        apply_ite (State.mask qs), ite_self]
    | split
    | with_reducible refine (foldl_mask _ (fun s x => ?_) _ _).trans ?_
    | with_reducible refine (foldl_mask_fst _ (fun x a => ?_) _ _).trans ?_

theorem State.becomeHolder_mask {qs : List Area}
    (hc : covers qs [.time, .hif, .stp, .cmb, .blk, .cnv, .fio, .mir, .bog, .wag, .twn, .leg, .out, .freeIdx] = true) (s : State) :
    (State.becomeHolder s).mask qs = s.mask qs := by
  simp (disch := first | exact hc | exact covers_trans hc rfl) only [State.becomeHolder, State.mask_cmb,
    State.carryLink_mask, State.refreshAct_mask, State.setTwn_mask, State.applyMirrored_mask,
    apply_ite (State.mask qs), ite_self]

theorem execTakeover_mask {qs : List Area}
    (hc : covers qs [.time, .hif, .stp, .cmb, .blk, .cnv, .fio, .mir, .bog, .wag, .twn, .leg, .peat, .out, .freeIdx] = true) (s : State) :
    nextMask qs s (execTakeover s) = s.mask qs := by
  simp (disch := first | exact hc | exact covers_trans hc rfl) only [execTakeover, State.countLogic_mask,
    State.raise_mask, State.setTwn_mask, State.becomeHolder_mask, State.tookFree_mask, apply_ite (State.mask qs),
    ite_self, apply_ite (nextMask qs s), nextMask_next]

theorem State.loseTb3_mask {qs : List Area} (hc : covers qs [.time, .hif, .out] = true) (s : State) :
    (State.loseTb3 s).mask qs = s.mask qs := by
  simp (disch := first | exact hc | exact covers_trans hc rfl) only [State.loseTb3, State.setTime_mask,
    State.setLock_mask, apply_ite (State.mask qs), ite_self]

theorem execTwinLinkLost_mask {qs : List Area}
    (hc : covers qs [.time, .hif, .stp, .cmb, .blk, .cnv, .fio, .mir, .bog, .wag, .twn, .leg, .out, .freeIdx] = true) (s : State) :
    nextMask qs s (execTwinLinkLost s) = s.mask qs := by
  simp (disch := first | exact hc | exact covers_trans hc rfl) only [execTwinLinkLost, State.loseTb3_mask,
    State.raise_mask, State.setTwn_mask, State.applyMirrored_mask, apply_ite (State.mask qs), ite_self,
    apply_ite (nextMask qs s), nextMask_next]

theorem State.leaveStep_mask {qs : List Area} (hc : covers qs [.twn] = true) (s : State) :
    (State.leaveStep s).mask qs = s.mask qs := by
  simp (disch := first | exact hc | exact covers_trans hc rfl) only [State.leaveStep, State.setTwn_mask,
    apply_ite (State.mask qs), ite_self]

theorem State.linkFrame_mask {qs : List Area} (hc : covers qs [.twn] = true) (s : State) :
    (State.linkFrame s).mask qs = s.mask qs := by
  simp (disch := first | exact hc | exact covers_trans hc rfl) only [State.linkFrame, State.setTwn_mask,
    apply_ite (State.mask qs), ite_self]

theorem execChangeAck_mask {qs : List Area}
    (hc : covers qs [.time, .hif, .cmb, .blk, .cnv, .fio, .mir, .bog, .wag, .twn, .leg, .out, .freeIdx] = true)
    (seq : Word) (s : State) :
    nextMask qs s (execChangeAck seq s) = s.mask qs := by
  simp (disch := first | exact hc | exact covers_trans hc rfl) only [execChangeAck, State.linkFrame_mask,
    State.acceptChange_mask, apply_ite (State.mask qs), ite_self, apply_ite (nextMask qs s), nextMask_next]

theorem State.sendLease_mask {qs : List Area} (hc : covers qs [.out] = true) (s : State) (type : Nat)
    (member : Bool) (seq : BitVec 8) (n : Nat) :
    (State.sendLease s type member seq n).mask qs = s.mask qs := by
  simp (disch := first | exact hc | exact covers_trans hc rfl) only [State.sendLease, State.emitOut_mask,
    apply_ite (State.mask qs), ite_self]

theorem State.leaseWindow_mask {qs : List Area} (hc : covers qs [.wag] = true) (s : State) (type : Nat)
    (seq : BitVec 8) (n : Nat) :
    (State.leaseWindow s type seq n).mask qs = s.mask qs := by
  simp (disch := first | exact hc | exact covers_trans hc rfl) only [State.leaseWindow, State.txWrite_mask,
    apply_ite (State.mask qs), ite_self]

theorem State.sendRequest_mask {qs : List Area} (hc : covers qs [.wag, .twn, .out] = true) (s : State) :
    (State.sendRequest s).mask qs = s.mask qs := by
  simp (disch := first | exact hc | exact covers_trans hc rfl) only [State.sendRequest, State.sendLease_mask,
    State.leaseWindow_mask, State.setTwn_mask, apply_ite (State.mask qs), ite_self]

theorem State.snapFault_mask {qs : List Area} (hc : covers qs [.hif, .twn, .out] = true) (s : State) (cause : Nat) :
    (State.snapFault s cause).mask qs = s.mask qs := by
  simp (disch := first | exact hc | exact covers_trans hc rfl) only [State.snapFault, State.setTwn_mask,
    State.raise_mask, State.leaveStep_mask, apply_ite (State.mask qs), ite_self]

theorem execAccept_mask {qs : List Area} (hc : covers qs [.twn] = true) (n : BitVec 8) (s : State) :
    nextMask qs s (execAccept n s) = s.mask qs := by
  unfold execAccept
  try dsimp only
  repeat' first
    | with_reducible rfl
    | simp (disch := first | exact hc | exact covers_trans hc rfl) only [State.setTwn_mask, State.linkFrame_mask,
        apply_ite (State.mask qs), ite_self, apply_ite (nextMask qs s), nextMask_next]
    | split

theorem execChangeAckTimeout_mask {qs : List Area}
    (hc : covers qs [.time, .hif, .cmb, .blk, .cnv, .fio, .mir, .bog, .wag, .twn, .leg, .out, .freeIdx] = true)
    (seq : Word) (s : State) :
    nextMask qs s (execChangeAckTimeout seq s) = s.mask qs := by
  simp (disch := first | exact hc | exact covers_trans hc rfl) only [execChangeAckTimeout, State.setTwn_mask,
    State.raise_mask, State.acceptChange_mask, apply_ite (State.mask qs), ite_self, apply_ite (nextMask qs s),
    nextMask_next]

theorem State.witGrant_mask {qs : List Area} (hc : covers qs [.wag, .twn] = true) (s : State) (e : Nat)
    (member : Bool) (seq : BitVec 8) :
    (State.witGrant s e member seq).mask qs = s.mask qs := by
  simp (disch := first | exact hc | exact covers_trans hc rfl) only [State.witGrant, State.txWrite_mask,
    State.setTwn_mask, apply_ite (State.mask qs), ite_self]

theorem State.witRequest_mask {qs : List Area} (hc : covers qs [.wag, .twn] = true) (s : State) (e : Nat)
    (member : Bool) (seq : BitVec 8) :
    (State.witRequest s e member seq).mask qs = s.mask qs := by
  unfold State.witRequest
  try dsimp only
  repeat' first
    | with_reducible rfl
    | simp (disch := first | exact hc | exact covers_trans hc rfl) only [State.setTwn_mask, State.witGrant_mask,
        apply_ite (State.mask qs), ite_self]
    | split

theorem execWitnessSilent_mask {qs : List Area} (hc : covers qs [.hif, .twn, .out] = true) (s : State) :
    nextMask qs s (execWitnessSilent s) = s.mask qs := by
  simp (disch := first | exact hc | exact covers_trans hc rfl) only [execWitnessSilent, State.setTwn_mask,
    State.raise_mask, apply_ite (State.mask qs), ite_self, apply_ite (nextMask qs s), nextMask_next]

theorem State.offerHandover_mask {qs : List Area} (hc : covers qs [.hif, .twn, .out] = true) (s : State)
    (why : HandoverWhy) :
    (State.offerHandover s why).mask qs = s.mask qs := by
  simp (disch := first | exact hc | exact covers_trans hc rfl) only [State.offerHandover, State.setTwn_mask,
    State.sendLease_mask, State.raise_mask, apply_ite (State.mask qs), ite_self]

theorem execHandover_mask {qs : List Area} (hc : covers qs [.hif, .twn, .out] = true) (s : State) :
    nextMask qs s (execHandover s) = s.mask qs := by
  simp (disch := first | exact hc | exact covers_trans hc rfl) only [execHandover, State.offerHandover_mask,
    apply_ite (State.mask qs), ite_self, apply_ite (nextMask qs s), nextMask_next]

theorem execHandoverAbandoned_mask {qs : List Area} (hc : covers qs [.hif, .stp, .fio, .twn, .lcy, .out] = true)
    (s : State) :
    nextMask qs s (execHandoverAbandoned s) = s.mask qs := by
  simp (disch := first | exact hc | exact covers_trans hc rfl) only [execHandoverAbandoned, State.ejectParts_mask,
    State.ejectSteps_mask, State.refuseActivation_mask, State.setTwn_mask, State.raise_mask,
    apply_ite (State.mask qs), ite_self, apply_ite (nextMask qs s), nextMask_next]

theorem execResync_mask {qs : List Area} (hc : covers qs [.twn] = true) (s : State) :
    nextMask qs s (execResync s) = s.mask qs := by
  simp (disch := first | exact hc | exact covers_trans hc rfl) only [execResync, State.setTwn_mask,
    apply_ite (State.mask qs), ite_self, apply_ite (nextMask qs s), nextMask_next]

theorem execIssuerOccupancyEnd_mask {qs : List Area} (hc : covers qs [.wag, .twn] = true) (issuer : Issuer)
    (s : State) :
    nextMask qs s (execIssuerOccupancyEnd issuer s) = s.mask qs := by
  unfold execIssuerOccupancyEnd
  try dsimp only
  repeat' first
    | with_reducible rfl
    | simp (disch := first | exact hc | exact covers_trans hc rfl) only [State.witGrant_mask, State.setTwn_mask,
        apply_ite (State.mask qs), ite_self, apply_ite (nextMask qs s), nextMask_next]
    | split

theorem State.takeHealth_mask {qs : List Area} (hc : covers qs [.twn] = true) (s : State) (h : BitVec 3) :
    (State.takeHealth s h).mask qs = s.mask qs := by
  simp (disch := first | exact hc | exact covers_trans hc rfl) only [State.takeHealth, State.leaveStep_mask,
    State.setTwn_mask, apply_ite (State.mask qs), ite_self]

theorem execRelinquish_mask {qs : List Area} (hc : covers qs [.cmb, .wag, .twn, .out] = true) (path : LeasePath)
    (member : Bool) (n : BitVec 8) (s : State) :
    nextMask qs s (execRelinquish path member n s) = s.mask qs := by
  unfold execRelinquish
  repeat' split
  all_goals first | rfl | simp (disch := first | exact hc | exact covers_trans hc rfl) only [State.mask_cmb, State.sendRequest_mask,
      State.setTwn_mask, State.linkFrame_mask, State.takeHealth_mask, apply_ite (State.mask qs), ite_self,
      apply_ite (nextMask qs s), nextMask_next]

theorem State.releaseChanges_mask {qs : List Area}
    (hc : covers qs [.time, .hif, .cmb, .blk, .cnv, .fio, .mir, .bog, .wag, .twn, .leg, .out, .freeIdx] = true)
    (s : State) :
    (State.releaseChanges s).mask qs = s.mask qs := by
  unfold State.releaseChanges
  try dsimp only
  repeat' first
    | with_reducible rfl
    | simp (disch := first | exact hc | exact covers_trans hc rfl) only [State.resumeChange_mask,
        apply_ite (State.mask qs), ite_self]
    | split
    | with_reducible refine (foldl_mask _ (fun s x => ?_) _ _).trans ?_
    | with_reducible refine (foldl_mask_fst _ (fun x a => ?_) _ _).trans ?_

theorem execOffer_mask {qs : List Area} (hc : covers qs [.twn, .out] = true) (n : BitVec 8) (s : State) :
    nextMask qs s (execOffer n s) = s.mask qs := by
  simp (disch := first | exact hc | exact covers_trans hc rfl) only [execOffer, State.setTwn_mask,
    State.sendLease_mask, State.linkFrame_mask, apply_ite (State.mask qs), ite_self, apply_ite (nextMask qs s),
    nextMask_next]

theorem execSnap_mask {qs : List Area} (hc : covers qs [.hif, .twn, .out] = true) (n : Word) (final : Bool)
    (records : List SnapRecord) (intact : Bool) (s : State) :
    nextMask qs s (execSnap n final records intact s) = s.mask qs := by
  simp (disch := first | exact hc | exact covers_trans hc rfl) only [execSnap, State.setTwn_mask,
    State.snapFault_mask, State.linkFrame_mask, apply_ite (State.mask qs), ite_self, apply_ite (nextMask qs s),
    nextMask_next]

theorem State.stopActing_mask {qs : List Area}
    (hc : covers qs [.time, .hif, .stp, .cmb, .blk, .cnv, .fio, .mir, .bog, .wag, .twn, .leg, .out, .freeIdx] = true) (s : State) (st : TwinSt) :
    (State.stopActing s st).mask qs = s.mask qs := by
  simp (disch := first | exact hc | exact covers_trans hc rfl) only [State.stopActing, State.mask_cmb,
    State.releaseChanges_mask, State.leaveLink_mask, State.setTwn_mask, apply_ite (State.mask qs), ite_self]

theorem State.relinquish_mask {qs : List Area}
    (hc : covers qs [.time, .hif, .stp, .cmb, .blk, .cnv, .fio, .mir, .bog, .wag, .twn, .leg, .out, .freeIdx] = true) (s : State) (n : Nat) :
    (State.relinquish s n).mask qs = s.mask qs := by
  simp (disch := first | exact hc | exact covers_trans hc rfl) only [State.relinquish, State.stopActing_mask,
    State.setTwn_mask, State.sendDown_mask, State.sendLease_mask, State.leaseWindow_mask, apply_ite (State.mask qs),
    ite_self]

theorem State.startForming_mask {qs : List Area}
    (hc : covers qs [.time, .hif, .stp, .cmb, .blk, .cnv, .fio, .mir, .bog, .wag, .twn, .leg, .out, .freeIdx] = true) (s : State) :
    (State.startForming s).mask qs = s.mask qs := by
  simp (disch := first | exact hc | exact covers_trans hc rfl) only [State.startForming, State.setTwn_mask,
    State.loseTb3_mask, State.stopActing_mask, apply_ite (State.mask qs), ite_self]

theorem State.replaySample_mask {qs : List Area} (hc : covers qs [.cnv] = true) (s : State) (w : Val40) (stamp : Time) :
    (State.replaySample s w stamp).mask qs = s.mask qs := by
  simp (disch := exact covers_trans hc rfl) only [State.replaySample, State.mask_cnv, apply_ite (State.mask qs),
    ite_self]

theorem State.replayRecord_mask {qs : List Area} (hc : covers qs [.time, .hif, .cmb, .blk, .cnv, .fio, .wag, .twn, .out, .freeIdx] = true) (s : State) (x : SnapRecord) :
    (State.replayRecord s x).mask qs = s.mask qs := by
  unfold State.replayRecord State.atTb1 State.withTb1
  split
  all_goals
    repeat' first
      | with_reducible rfl
      | simp (disch := first | exact hc | exact covers_trans hc rfl) only [State.mask_fio, State.setTime_mask, State.replaySample_mask, State.setTwn_mask, State.storeWords_mask, State.replayRelease_mask, apply_ite (State.mask qs), ite_self]
      | split
      | with_reducible refine (foldl_mask _ (fun s x => ?_) _ _).trans ?_

theorem execRequest_mask {qs : List Area} (hc : covers qs [.wag, .twn, .out] = true) (path : LeasePath)
    (role : Fin 4096) (member : Bool) (seq : BitVec 8) (s : State) :
    nextMask qs s (execRequest path role member seq s) = s.mask qs := by
  unfold execRequest
  repeat' split
  all_goals first | rfl | simp (disch := first | exact hc | exact covers_trans hc rfl) only [State.witRequest_mask, State.setTwn_mask,
      State.sendLease_mask, State.linkFrame_mask, State.takeHealth_mask, apply_ite (State.mask qs), ite_self,
      apply_ite (nextMask qs s), nextMask_next]

theorem State.takeTb3_mask {qs : List Area} (hc : covers qs [.time, .hif, .twn, .out, .freeIdx] = true) (s : State) :
    (State.takeTb3 s).mask qs = s.mask qs := by
  simp (disch := first | exact hc | exact covers_trans hc rfl) only [State.takeTb3, State.mask_time,
    State.snapFault_mask, State.setLock_mask, State.setTime_mask, State.tookFree_mask, apply_ite (State.mask qs),
    ite_self]

theorem execIdle_mask {qs : List Area} (hc : covers qs [.time, .hif, .twn, .out, .freeIdx] = true) (s : State) :
    nextMask qs s (execIdle s) = s.mask qs := by
  simp (disch := first | exact hc | exact covers_trans hc rfl) only [execIdle, State.linkFrame_mask,
    State.takeTb3_mask, apply_ite (State.mask qs), ite_self, apply_ite (nextMask qs s), nextMask_next]

theorem execChange_mask {qs : List Area} (hc : covers qs [.twn, .out] = true) (seq : Word) (n : Word)
    (desc : List Byte) (data : List Byte) (s : State) :
    nextMask qs s (execChange seq n desc data s) = s.mask qs := by
  simp (disch := first | exact hc | exact covers_trans hc rfl) only [execChange, State.emitOut_mask,
    State.setTwn_mask, State.linkFrame_mask, apply_ite (State.mask qs), ite_self, apply_ite (nextMask qs s),
    nextMask_next]

theorem execGrant_mask {qs : List Area}
    (hc : covers qs [.time, .hif, .stp, .cmb, .blk, .cnv, .fio, .mir, .bog, .wag, .twn, .leg, .out, .freeIdx] = true) (path : LeasePath) (seq : BitVec 8) (s : State) :
    nextMask qs s (execGrant path seq s) = s.mask qs := by
  unfold execGrant
  try dsimp only
  repeat' first
    | with_reducible rfl
    | simp (disch := first | exact hc | exact covers_trans hc rfl) only [State.becomeHolder_mask, State.setTwn_mask,
        State.linkFrame_mask, State.takeHealth_mask, apply_ite (State.mask qs), ite_self, apply_ite (nextMask qs s),
        nextMask_next]
    | split

theorem State.applyImage_mask {qs : List Area}
    (hc : covers qs [.time, .pw, .hif, .stp, .cmb, .blk, .cnv, .fio, .mir, .bog, .wag, .twn, .leg, .out, .freeIdx] = true) (s : State) (i : TwinImage) :
    (State.applyImage s i).mask qs = s.mask qs := by
  unfold State.applyImage
  try dsimp only
  repeat' first
    | with_reducible rfl
    | simp (disch := first | exact hc | exact covers_trans hc rfl) only [State.mask_blk, State.mask_bog,
        State.mask_cmb, State.mask_cmb_cnv, State.mask_cnv, State.mask_cnv_fio, State.mask_drn, State.mask_fio,
        State.mask_fio_drn, State.mask_fio_twn, State.mask_fio_wag, State.mask_freeIdx, State.mask_hif,
        State.mask_hif_out, State.mask_lcy, State.mask_leg, State.mask_mir, State.mask_out, State.mask_peat,
        State.mask_pending, State.mask_pw, State.mask_pw_bog, State.mask_pw_cnv_drn, State.mask_pw_cnv_peat,
        State.mask_pw_drn, State.mask_pw_fio, State.mask_regs, State.mask_regs_pw_hif,
        State.mask_regs_time_pw_stp_cmb_blk_cnv_fio_mir_wag_twn_lcy_seen, State.mask_saf, State.mask_seen,
        State.mask_stp, State.mask_stp_cmb_blk_fio_wag, State.mask_time, State.mask_time_freeIdx, State.mask_time_pw,
        State.mask_time_pw_cnv_fio_twn_saf_drn_lcy, State.mask_time_pw_hif_stp_cmb_blk_cnv_fio_mir_wag_twn_leg,
        State.mask_twn, State.mask_wag, State.noteLayouts_mask, State.setTwn_mask, State.loadItem_mask,
        apply_ite (State.mask qs), ite_self]
    | split
    | with_reducible refine (foldl_mask _ (fun s x => ?_) _ _).trans ?_
    | with_reducible refine (foldl_mask_fst _ (fun x a => ?_) _ _).trans ?_

theorem execState_mask {qs : List Area}
    (hc : covers qs [.time, .pw, .hif, .stp, .cmb, .blk, .cnv, .fio, .mir, .bog, .wag, .twn, .leg, .out, .freeIdx] = true) (n : Word) (last : Bool) (bytes : List Byte) (s : State) :
    nextMask qs s (execState n last bytes s) = s.mask qs := by
  unfold execState
  try dsimp only
  repeat' first
    | with_reducible rfl
    | simp (disch := first | exact hc | exact covers_trans hc rfl) only [State.applyImage_mask, State.setTwn_mask,
        State.stopActing_mask, State.linkFrame_mask, apply_ite (State.mask qs), ite_self, apply_ite (nextMask qs s),
        nextMask_next]
    | split

theorem State.replayAct_mask {qs : List Area}
    (hc : covers qs [.time, .hif, .stp, .cmb, .blk, .cnv, .fio, .mir, .bog, .wag, .twn, .out, .freeIdx] = true)
    (s : State) (n : Nat) (x : Int × Nat × ReplayAct) :
    (State.replayAct s n x).mask qs = s.mask qs := by
  unfold State.replayAct State.withTb1
  try dsimp only
  repeat' first
    | with_reducible rfl
    | simp (disch := first | exact hc | exact covers_trans hc rfl) only [State.evaluate_mask, State.settleLoads_mask,
        State.takeRecords_mask, State.launchDue_mask, State.replayRecord_mask, State.setTime_mask,
        apply_ite (State.mask qs), ite_self]
    | split
    | with_reducible refine (foldl_mask _ (fun s x => ?_) _ _).trans ?_
    | with_reducible refine (foldl_mask_fst _ (fun x a => ?_) _ _).trans ?_

theorem execTwinLinkUp_mask {qs : List Area}
    (hc : covers qs [.time, .hif, .stp, .cmb, .blk, .cnv, .fio, .mir, .bog, .wag, .twn, .leg, .out, .freeIdx] = true) (p : PartnerInfo) (s : State) :
    nextMask qs s (execTwinLinkUp p s) = s.mask qs := by
  unfold execTwinLinkUp
  try dsimp only
  repeat' first
    | with_reducible rfl
    | simp (disch := first | exact hc | exact covers_trans hc rfl) only [State.stopActing_mask,
        State.startForming_mask, State.setTwn_mask, State.raise_mask, State.linkFrame_mask, apply_ite (State.mask qs),
        ite_self, apply_ite (nextMask qs s), nextMask_next]
    | split

theorem execStandbyReplay_mask {qs : List Area}
    (hc : covers qs [.time, .hif, .stp, .cmb, .blk, .cnv, .fio, .mir, .bog, .wag, .twn, .leg, .lcy, .out, .freeIdx] = true) (s : State) :
    nextMask qs s (execStandbyReplay s) = s.mask qs := by
  unfold execStandbyReplay
  try dsimp only
  repeat' first
    | with_reducible rfl
    | simp (disch := first | exact hc | exact covers_trans hc rfl) only [State.mask_cmb, State.raise_mask,
        State.confirmActivation_mask, State.emitOut_mask, State.replayAct_mask, State.applyChange_mask,
        State.setTwn_mask, State.snapFault_mask, apply_ite (State.mask qs), ite_self, apply_ite (nextMask qs s),
        nextMask_next]
    | split
    | with_reducible refine (foldl_mask _ (fun s x => ?_) _ _).trans ?_
    | with_reducible refine (foldl_mask_fst _ (fun x a => ?_) _ _).trans ?_

theorem State.sendImage_mask {qs : List Area} (hc : covers qs [.twn, .out] = true) (s : State) (n : Nat) :
    (State.sendImage s n).mask qs = s.mask qs := by
  simp (disch := first | exact hc | exact covers_trans hc rfl) only [State.sendImage, State.setTwn_mask,
    State.emitOut_mask, apply_ite (State.mask qs), ite_self]

theorem execActUntil_mask {qs : List Area}
    (hc : covers qs [.time, .hif, .stp, .cmb, .blk, .cnv, .fio, .mir, .bog, .wag, .twn, .saf, .leg, .peat, .out, .freeIdx] = true) (s : State) :
    nextMask qs s (execActUntil s) = s.mask qs := by
  unfold execActUntil
  try dsimp only
  repeat' first
    | with_reducible rfl
    | simp (disch := first | exact hc | exact covers_trans hc rfl) only [State.stopActing_mask, State.raise_mask,
        State.setTwn_mask, State.regate_mask, apply_ite (State.mask qs), ite_self, apply_ite (nextMask qs s),
        nextMask_next]
    | split

theorem execHash_mask {qs : List Area} (hc : covers qs [.hif, .twn, .out] = true) (n : Word) (h : Word) (s : State) :
    nextMask qs s (execHash n h s) = s.mask qs := by
  unfold execHash
  try dsimp only
  repeat' first
    | with_reducible rfl
    | simp (disch := first | exact hc | exact covers_trans hc rfl) only [State.raise_mask, State.setTwn_mask,
        State.linkFrame_mask, apply_ite (State.mask qs), ite_self, apply_ite (nextMask qs s), nextMask_next]
    | split

theorem execLeaseRequestSend_mask {qs : List Area} (hc : covers qs [.wag, .twn, .out] = true) (s : State) :
    nextMask qs s (execLeaseRequestSend s) = s.mask qs := by
  simp (disch := first | exact hc | exact covers_trans hc rfl) only [execLeaseRequestSend, State.sendRequest_mask,
    apply_ite (State.mask qs), ite_self, apply_ite (nextMask qs s), nextMask_next]

end Sys2Proof.Machine
end

