-- ==== Sys2Proof/Laws/FramePeriod.lean ====
section
/-! SUPPORT. Which parts of the State the definitions of Machine/Period.lean leave alone: one lemma each, for every set of parts
that covers those it changes. -/

set_option linter.unusedSimpArgs false
set_option linter.unreachableTactic false
set_option linter.unusedTactic false

namespace Sys2Proof.Machine

theorem State.healthRule_mask {qs : List Area} (hc : covers qs [.hif, .twn, .out] = true) (s : State) :
    (State.healthRule s).mask qs = s.mask qs := by
  simp (disch := first | exact hc | exact covers_trans hc rfl) only [State.healthRule, State.offerHandover_mask,
    State.setTwn_mask, apply_ite (State.mask qs), ite_self]

theorem State.endSnapshot_mask {qs : List Area} (hc : covers qs [.fio, .twn, .out] = true) (s : State) (n : Nat) :
    (State.endSnapshot s n).mask qs = s.mask qs := by
  simp (disch := first | exact hc | exact covers_trans hc rfl) only [State.endSnapshot, State.mask_fio_twn,
    State.setTwn_mask, State.emitOut_mask, apply_ite (State.mask qs), ite_self]

theorem State.twinPeriod_mask {qs : List Area}
    (hc : covers qs [.time, .hif, .stp, .cmb, .blk, .cnv, .fio, .mir, .bog, .wag, .twn, .leg, .out, .freeIdx] = true) (s : State) (n : Nat) :
    (State.twinPeriod s n).mask qs = s.mask qs := by
  simp (disch := first | exact hc | exact covers_trans hc rfl) only [State.twinPeriod, State.refreshAct_mask,
    State.healthRule_mask, State.setTwn_mask, State.sendImage_mask, State.emitOut_mask, State.relinquish_mask,
    apply_ite (State.mask qs), ite_self]

theorem State.baseOverrun_mask {qs : List Area}
    (hc : covers qs [.hif, .cmb, .cnv, .fio, .mir, .bog, .out, .freeIdx] = true) (s : State) :
    (State.baseOverrun s).mask qs = s.mask qs := by
  unfold State.baseOverrun
  try dsimp only
  repeat' first
    | with_reducible rfl
    | simp (disch := first | exact hc | exact covers_trans hc rfl) only [State.mask_cmb, State.raise_mask,
        State.mirTake_mask, apply_ite (State.mask qs), ite_self]
    | split
    | with_reducible refine (foldl_mask _ (fun s x => ?_) _ _).trans ?_
    | with_reducible refine (foldl_mask_fst _ (fun x a => ?_) _ _).trans ?_

theorem State.reportClamps_mask {qs : List Area} (hc : covers qs [.fio] = true) (s : State) :
    (State.reportClamps s).mask qs = s.mask qs := by
  unfold State.reportClamps
  try dsimp only
  repeat' first
    | with_reducible rfl
    | simp (disch := first | exact hc | exact covers_trans hc rfl) only [State.sendUp_mask, apply_ite (State.mask qs),
        ite_self]
    | split
    | with_reducible refine (foldl_mask _ (fun s x => ?_) _ _).trans ?_
    | with_reducible refine (foldl_mask_fst _ (fun x a => ?_) _ _).trans ?_

theorem State.hsModeChange_mask {qs : List Area} (hc : covers qs [.fio, .saf, .peat] = true) (s : State) (i : Nat) :
    (State.hsModeChange s i).mask qs = s.mask qs := by
  simp (disch := first | exact hc | exact covers_trans hc rfl) only [State.hsModeChange, State.modHs_mask,
    State.hsCmdOff_mask, State.hsRegate_mask, apply_ite (State.mask qs), ite_self]

theorem State.applyFioTables_mask {qs : List Area} (hc : covers qs [.fio, .saf, .peat] = true) (s : State) :
    (State.applyFioTables s).mask qs = s.mask qs := by
  unfold State.applyFioTables
  try dsimp only
  repeat' first
    | with_reducible rfl
    | simp (disch := first | exact hc | exact covers_trans hc rfl) only [State.mask_fio, State.pulStop_mask,
        State.modPul_mask, State.pulRegate_mask, State.sendUp_mask, State.hsModeChange_mask, State.modHsOn_mask,
        apply_ite (State.mask qs), ite_self]
    | split
    | with_reducible refine (foldl_mask _ (fun s x => ?_) _ _).trans ?_
    | with_reducible refine (foldl_mask_fst _ (fun x a => ?_) _ _).trans ?_

theorem State.beginPeriod_mask {qs : List Area}
    (hc : covers qs [.time, .hif, .cmb, .blk, .cnv, .fio, .mir, .bog, .wag, .twn, .saf, .leg, .peat, .out, .freeIdx] = true) (s : State) (n : Nat) (enc : List EncReading) :
    (State.beginPeriod s n enc).mask qs = s.mask qs := by
  simp (disch := first | exact hc | exact covers_trans hc rfl) only [State.beginPeriod, State.mask_cmb,
    State.reportClamps_mask, State.applyCal_mask, State.mirPattern_mask, State.convPattern_mask,
    State.startConvPeriod_mask, State.applyFioTables_mask, State.applyDacTable_mask, State.shiftLatches_mask,
    State.latchEncs_mask, State.dueChanges_mask, State.keepGrid_mask, apply_ite (State.mask qs), ite_self]

theorem execBasePeriodStart_mask {qs : List Area}
    (hc : covers qs [.time, .pw, .hif, .stp, .cmb, .blk, .cnv, .fio, .mir, .bog, .wag, .twn, .saf, .drn, .leg, .lcy, .peat, .out, .freeIdx] = true) (enc : List EncReading) (s : State) :
    nextMask qs s (execBasePeriodStart enc s) = s.mask qs := by
  simp (disch := first | exact hc | exact covers_trans hc rfl) only [execBasePeriodStart, State.mask_cmb,
    State.endSnapshot_mask, State.twinPeriod_mask, State.baseOverrun_mask, State.mirPeriod_mask,
    State.endConvPeriod_mask, State.mirStart_mask, State.beginPeriod_mask, State.judgePhase_mask,
    apply_ite (State.mask qs), ite_self, apply_ite (nextMask qs s), nextMask_next]

end Sys2Proof.Machine
end

