-- ==== Sys2Proof/Laws/FrameGuard.lean ====
section
/-! SUPPORT. Which parts of the State the definitions of Machine/Guard.lean leave alone: one lemma each, for every set of parts
that covers those it changes. -/

set_option linter.unusedSimpArgs false
set_option linter.unreachableTactic false
set_option linter.unusedTactic false

namespace Sys2Proof.Machine

theorem execSafetyWatchExpiry_mask {qs : List Area} (hc : covers qs [.fio, .saf, .peat] = true) (station : Fin 4096)
    (path : SafetyPath) (s : State) :
    nextMask qs s (execSafetyWatchExpiry station path s) = s.mask qs := by
  simp (disch := first | exact hc | exact covers_trans hc rfl) only [execSafetyWatchExpiry, State.safUpdate_mask,
    State.pathFault_mask, State.setSaf_mask, apply_ite (State.mask qs), ite_self, apply_ite (nextMask qs s),
    nextMask_next]

theorem execTestPulse_mask {qs : List Area} (hc : covers qs [.fio, .saf, .peat] = true) (srcB : Bool)
    (follows : BitVec 8) (s : State) :
    nextMask qs s (execTestPulse srcB follows s) = s.mask qs := by
  unfold execTestPulse
  try dsimp only
  repeat' first
    | with_reducible rfl
    | simp (disch := first | exact hc | exact covers_trans hc rfl) only [State.discrepancy_mask, State.safUpdate_mask,
        State.setSaf_mask, apply_ite (State.mask qs), ite_self, apply_ite (nextMask qs s), nextMask_next]
    | split
    | with_reducible refine (foldl_mask _ (fun s x => ?_) _ _).trans ?_
    | with_reducible refine (foldl_mask_fst _ (fun x a => ?_) _ _).trans ?_

theorem execSealChange_mask {qs : List Area} (hc : covers qs [.fio, .saf, .peat] = true) (v : BitVec 16) (s : State) :
    nextMask qs s (execSealChange v s) = s.mask qs := by
  simp (disch := first | exact hc | exact covers_trans hc rfl) only [execSealChange, State.cfgCheck_mask,
    State.safUpdate_mask, State.putGroups_mask, State.regate_mask, State.fieldRaise_mask, State.setSaf_mask,
    State.countLedger_mask, State.settleDacs_mask, apply_ite (State.mask qs), ite_self, apply_ite (nextMask qs s),
    nextMask_next]

theorem State.guardFails_mask {qs : List Area} (hc : covers qs [.fio, .saf, .peat] = true) (s : State)
    (test : BitVec 8) :
    (State.guardFails s test).mask qs = s.mask qs := by
  simp (disch := first | exact hc | exact covers_trans hc rfl) only [State.guardFails, State.fieldRaise_mask,
    State.putGroups_mask, State.setSaf_mask, apply_ite (State.mask qs), ite_self]

theorem execElementTest_mask {qs : List Area} (hc : covers qs [.fio, .saf, .peat] = true) (_out : Fin 48)
    (passed : Bool) (test : BitVec 8) (s : State) :
    nextMask qs s (execElementTest _out passed test s) = s.mask qs := by
  simp (disch := first | exact hc | exact covers_trans hc rfl) only [execElementTest, State.guardFails_mask,
    apply_ite (State.mask qs), ite_self, apply_ite (nextMask qs s), nextMask_next]

theorem execManualRestart_mask {qs : List Area} (hc : covers qs [.fio, .saf, .peat] = true) (group : Fin 16)
    (pulseMs : Nat) (s : State) :
    nextMask qs s (execManualRestart group pulseMs s) = s.mask qs := by
  simp (disch := first | exact hc | exact covers_trans hc rfl) only [execManualRestart, State.guardPermits_mask,
    State.fieldRaise_mask, State.putGroups_mask, apply_ite (State.mask qs), ite_self, apply_ite (nextMask qs s),
    nextMask_next]

theorem State.rulesApplied_mask {qs : List Area} (hc : covers qs [.fio, .saf, .peat] = true) (s : State)
    (groups : List Nat) (added retired : Nat) (params : List (BitVec 64)) :
    (State.rulesApplied s groups added retired params).mask qs = s.mask qs := by
  simp (disch := first | exact hc | exact covers_trans hc rfl) only [State.rulesApplied, State.fieldRaise_mask,
    State.safUpdate_mask, State.cfgCheck_mask, State.regate_mask, State.putGroups_mask, State.setSaf_mask,
    apply_ite (State.mask qs), ite_self]

theorem execSafetyFrameSend_mask {qs : List Area} (hc : covers qs [.fio, .saf, .out, .freeIdx] = true) (s : State) :
    nextMask qs s (execSafetyFrameSend s) = s.mask qs := by
  unfold execSafetyFrameSend
  repeat' split
  all_goals first | rfl | simp (disch := first | exact hc | exact covers_trans hc rfl) only [State.emitOut_mask, State.sendUp_mask,
      State.setSaf_mask, State.tookFree_mask, apply_ite (State.mask qs), ite_self, apply_ite (nextMask qs s),
      nextMask_next]

theorem execSafetyInputDiscTimeout_mask {qs : List Area} (hc : covers qs [.fio, .saf, .peat] = true) (input : Fin 4)
    (s : State) :
    nextMask qs s (execSafetyInputDiscTimeout input s) = s.mask qs := by
  simp (disch := first | exact hc | exact covers_trans hc rfl) only [execSafetyInputDiscTimeout,
    State.discrepancy_mask, State.safUpdate_mask, State.setSaf_mask, apply_ite (State.mask qs), ite_self,
    apply_ite (nextMask qs s), nextMask_next]

theorem execSafetyPathAbsence_mask {qs : List Area} (hc : covers qs [.fio, .saf, .peat] = true) (station : Fin 4096)
    (missing : SafetyPath) (s : State) :
    nextMask qs s (execSafetyPathAbsence station missing s) = s.mask qs := by
  simp (disch := first | exact hc | exact covers_trans hc rfl) only [execSafetyPathAbsence, State.safUpdate_mask,
    State.pathFault_mask, State.setSaf_mask, apply_ite (State.mask qs), ite_self, apply_ite (nextMask qs s),
    nextMask_next]

theorem execGuardSelfTestDone_mask {qs : List Area} (hc : covers qs [.fio, .saf, .peat] = true) (passed : Bool)
    (test : BitVec 8) (s : State) :
    nextMask qs s (execGuardSelfTestDone passed test s) = s.mask qs := by
  simp (disch := first | exact hc | exact covers_trans hc rfl) only [execGuardSelfTestDone, State.guardFails_mask,
    State.putGroups_mask, State.setSaf_mask, apply_ite (State.mask qs), ite_self, apply_ite (nextMask qs s),
    nextMask_next]

theorem execSafetyFrame_mask {qs : List Area} (hc : covers qs [.fio, .wag] = true) (hdr : FrameHdr)
    (bytes : List Byte) (s : State) :
    nextMask qs s (execSafetyFrame hdr bytes s) = s.mask qs := by
  simp (disch := first | exact hc | exact covers_trans hc rfl) only [execSafetyFrame, State.sendDown_mask,
    State.takeFrame_mask, apply_ite (State.mask qs), ite_self, apply_ite (nextMask qs s), nextMask_next]

theorem execDisagree_mask {qs : List Area} (hc : covers qs [.fio, .saf, .peat] = true) (group : Fin 16) (s : State) :
    nextMask qs s (execDisagree group s) = s.mask qs := by
  simp (disch := first | exact hc | exact covers_trans hc rfl) only [execDisagree, State.fieldRaise_mask,
    State.putGroups_mask, State.setSaf_mask, apply_ite (State.mask qs), ite_self, apply_ite (nextMask qs s),
    nextMask_next]

theorem execSafetyInputChange_mask {qs : List Area} (hc : covers qs [.fio, .saf, .peat] = true) (input : Fin 4)
    (chanB closed : Bool) (s : State) :
    nextMask qs s (execSafetyInputChange input chanB closed s) = s.mask qs := by
  unfold execSafetyInputChange
  try dsimp only
  repeat' first
    | with_reducible rfl
    | simp (disch := first | exact hc | exact covers_trans hc rfl) only [State.discrepancy_mask, State.safUpdate_mask,
        State.setSaf_mask, apply_ite (State.mask qs), ite_self, apply_ite (nextMask qs s), nextMask_next]
    | split

theorem execSafetyPairCopy_mask {qs : List Area} (hc : covers qs [.fio, .saf, .peat] = true) (bytes : List Byte)
    (framed : Bool) (s : State) :
    nextMask qs s (execSafetyPairCopy bytes framed s) = s.mask qs := by
  simp (disch := first | exact hc | exact covers_trans hc rfl) only [execSafetyPairCopy, State.fieldRaise_mask,
    State.setSaf_mask, State.takeCopy_mask, apply_ite (State.mask qs), ite_self, apply_ite (nextMask qs s),
    nextMask_next]

theorem execGuardSafetyCycle_mask {qs : List Area} (hc : covers qs [.fio, .saf, .peat] = true) (s : State) :
    nextMask qs s (execGuardSafetyCycle s) = s.mask qs := by
  unfold execGuardSafetyCycle
  try dsimp only
  repeat' first
    | with_reducible rfl
    | simp (disch := first | exact hc | exact covers_trans hc rfl) only [State.guardPermits_mask, State.setSaf_mask,
        apply_ite (State.mask qs), ite_self, apply_ite (nextMask qs s), nextMask_next]
    | split
    | with_reducible refine (foldl_mask _ (fun s x => ?_) _ _).trans ?_
    | with_reducible refine (foldl_mask_fst _ (fun x a => ?_) _ _).trans ?_

theorem execFenGateVerified_mask {qs : List Area} (hc : covers qs [.fio, .saf, .peat] = true) (s : State) :
    nextMask qs s (execFenGateVerified s) = s.mask qs := by
  simp (disch := first | exact hc | exact covers_trans hc rfl) only [execFenGateVerified, State.safUpdate_mask,
    State.cfgCheck_mask, State.regate_mask, State.putGroups_mask, State.setSaf_mask, apply_ite (State.mask qs),
    ite_self, apply_ite (nextMask qs s), nextMask_next]

theorem State.applyRules_mask {qs : List Area} (hc : covers qs [.fio, .saf, .peat, .freeIdx] = true) (s : State) (part : List Byte) :
    (State.applyRules s part).state.mask qs = s.mask qs := by
  unfold State.applyRules
  try dsimp only
  repeat' first
    | with_reducible rfl
    | simp (disch := first | exact hc | exact covers_trans hc rfl) only [RuleEnd.state_applied, RuleEnd.state_refused, RuleEnd.state_powerLost, State.setSaf_mask, State.rulesApplied_mask, State.settleDacs_mask, State.tookFree_mask]
    | split

end Sys2Proof.Machine
end

