-- ==== Sys2Proof/Laws/FrameDrone.lean ====
section
/-! SUPPORT. Which parts of the State the definitions of Machine/Drone.lean leave alone: one lemma each, for every set of parts
that covers those it changes. -/

set_option linter.unusedSimpArgs false
set_option linter.unreachableTactic false
set_option linter.unusedTactic false

namespace Sys2Proof.Machine

theorem State.confirmHandovers_mask {qs : List Area} (hc : covers qs [.fio, .drn] = true) (s : State) :
    (State.confirmHandovers s).mask qs = s.mask qs := by
  unfold State.confirmHandovers
  try dsimp only
  repeat' first
    | with_reducible rfl
    | simp (disch := first | exact hc | exact covers_trans hc rfl) only [State.mask_drn, State.sendUp_mask,
        apply_ite (State.mask qs), ite_self]
    | split
    | with_reducible refine (foldl_mask _ (fun s x => ?_) _ _).trans ?_
    | with_reducible refine (foldl_mask_fst _ (fun x a => ?_) _ _).trans ?_

theorem execHoldLoopRelease_mask {qs : List Area} (hc : covers qs [.drn] = true) (loop : Fin 32) (s : State) :
    nextMask qs s (execHoldLoopRelease loop s) = s.mask qs := by
  simp (disch := exact covers_trans hc rfl) only [execHoldLoopRelease, State.mask_drn, apply_ite (State.mask qs),
    ite_self, apply_ite (nextMask qs s), nextMask_next]

theorem State.scanConvert_mask {qs : List Area} (hc : covers qs [.drn, .freeIdx] = true) (s : State) (k : Nat)
    (code : BitVec 20) (cond : Bool) :
    (State.scanConvert s k code cond).mask qs = s.mask qs := by
  unfold State.scanConvert
  try dsimp only
  repeat' first
    | with_reducible rfl
    | simp (disch := first | exact hc | exact covers_trans hc rfl) only [State.mask_drn, State.tookFree_mask,
        apply_ite (State.mask qs), ite_self]
    | split

theorem State.loopOutput_mask {qs : List Area} (hc : covers qs [.fio, .saf] = true) (s : State) (l : LoopRt) :
    (State.loopOutput s l).mask qs = s.mask qs := by
  simp (disch := first | exact hc | exact covers_trans hc rfl) only [State.loopOutput, State.modHs_mask,
    State.sendUp_mask, State.dacTake_mask, apply_ite (State.mask qs), ite_self]

theorem State.takeCommand_mask {qs : List Area} (hc : covers qs [.fio, .saf, .drn, .peat] = true) (s : State) :
    (State.takeCommand s).mask qs = s.mask qs := by
  unfold State.takeCommand
  try dsimp only
  repeat' first
    | with_reducible rfl
    | simp (disch := first | exact hc | exact covers_trans hc rfl) only [State.mask_fio_drn, State.takeSafe_mask,
        apply_ite (State.mask qs), ite_self]
    | split
    | with_reducible refine (foldl_mask _ (fun s x => ?_) _ _).trans ?_
    | with_reducible refine (foldl_mask_fst _ (fun x a => ?_) _ _).trans ?_

theorem execDroneOutputInstant_mask {qs : List Area} (hc : covers qs [.fio, .saf, .drn, .peat] = true) (s : State) :
    nextMask qs s (execDroneOutputInstant s) = s.mask qs := by
  unfold execDroneOutputInstant
  try dsimp only
  repeat' first
    | with_reducible rfl
    | simp (disch := first | exact hc | exact covers_trans hc rfl) only [State.mask_drn, State.hsCommand_mask,
        State.loopOutput_mask, State.takeCommand_mask, apply_ite (State.mask qs), ite_self, apply_ite (nextMask qs s),
        nextMask_next]
    | split
    | with_reducible refine (foldl_mask _ (fun s x => ?_) _ _).trans ?_
    | with_reducible refine (foldl_mask_fst _ (fun x a => ?_) _ _).trans ?_

theorem execConversionSlot_mask {qs : List Area} (hc : covers qs [.cnv, .fio, .drn, .peat, .freeIdx] = true)
    (conv : Fin 5) (slot : Fin 20) (code : BitVec 20) (cond checkFail : Bool) (s : State) :
    nextMask qs s (execConversionSlot conv slot code cond checkFail s) = s.mask qs := by
  simp (disch := first | exact hc | exact covers_trans hc rfl) only [execConversionSlot, State.convCheck_mask,
    State.missDue_mask, State.convertSlot_mask, State.scanConvert_mask, apply_ite (State.mask qs), ite_self,
    apply_ite (nextMask qs s), nextMask_next]

theorem State.adoptProgram_mask {qs : List Area} (hc : covers qs [.drn] = true) (s : State) :
    (State.adoptProgram s).mask qs = s.mask qs := by
  unfold State.adoptProgram
  repeat' split
  all_goals first | rfl | simp (disch := exact covers_trans hc rfl) only [State.mask_drn, apply_ite (State.mask qs), ite_self]

theorem execDroneCycleStart_mask {qs : List Area} (hc : covers qs [.drn] = true) (s : State) :
    nextMask qs s (execDroneCycleStart s) = s.mask qs := by
  simp (disch := first | exact hc | exact covers_trans hc rfl) only [execDroneCycleStart, State.mask_drn,
    State.adoptProgram_mask, apply_ite (State.mask qs), ite_self, apply_ite (nextMask qs s), nextMask_next]

theorem State.droneFails_mask {qs : List Area} (hc : covers qs [.fio, .saf, .drn, .peat] = true) (s : State) :
    (State.droneFails s).mask qs = s.mask qs := by
  unfold State.droneFails
  try dsimp only
  repeat' first
    | with_reducible rfl
    | simp (disch := first | exact hc | exact covers_trans hc rfl) only [State.mask_drn, State.takeSafe_mask,
        State.countLedger_mask, apply_ite (State.mask qs), ite_self]
    | split
    | with_reducible refine (foldl_mask _ (fun s x => ?_) _ _).trans ?_
    | with_reducible refine (foldl_mask_fst _ (fun x a => ?_) _ _).trans ?_

theorem State.stackFault_mask {qs : List Area} (hc : covers qs [.fio, .saf, .drn, .peat] = true) (s : State)
    (d : DrnState) :
    (State.stackFault s d).mask qs = s.mask qs := by
  simp (disch := first | exact hc | exact covers_trans hc rfl) only [State.stackFault, State.mask_drn,
    State.droneFails_mask, apply_ite (State.mask qs), ite_self]

theorem execDroneInputLatch_mask {qs : List Area} (hc : covers qs [.fio, .saf, .drn, .peat] = true) (s : State) :
    nextMask qs s (execDroneInputLatch s) = s.mask qs := by
  simp (disch := first | exact hc | exact covers_trans hc rfl) only [execDroneInputLatch, State.mask_drn,
    State.stackFault_mask, State.confirmHandovers_mask, apply_ite (State.mask qs), ite_self,
    apply_ite (nextMask qs s), nextMask_next]

end Sys2Proof.Machine
end

