-- ==== Sys2Proof/Laws/FrameLedger.lean ====
section
/-! SUPPORT. Which parts of the State the definitions of Machine/Ledger.lean leave alone: one lemma each, for every set of parts
that covers those it changes. -/

set_option linter.unusedSimpArgs false
set_option linter.unreachableTactic false
set_option linter.unusedTactic false

namespace Sys2Proof.Machine

theorem State.commitLedger_mask {qs : List Area} (hc : covers qs [.peat] = true) (s : State) :
    (State.commitLedger s).mask qs = s.mask qs := by
  simp (disch := exact covers_trans hc rfl) only [State.commitLedger, State.mask_peat, apply_ite (State.mask qs),
    ite_self]

theorem State.writeSnapshot_mask {qs : List Area} (hc : covers qs [.peat] = true) (s : State) :
    (State.writeSnapshot s).mask qs = s.mask qs := by
  simp (disch := first | exact hc | exact covers_trans hc rfl) only [State.writeSnapshot, State.mask_peat,
    State.commitLedger_mask, apply_ite (State.mask qs), ite_self]

theorem State.countSecond_mask {qs : List Area} (hc : covers qs [.peat] = true) (s : State) :
    (State.countSecond s).mask qs = s.mask qs := by
  simp (disch := first | exact hc | exact covers_trans hc rfl) only [State.countSecond, State.countLedger_mask,
    apply_ite (State.mask qs), ite_self]

theorem State.noteCause_mask {qs : List Area} (hc : covers qs [.peat] = true) (s : State) (bit : Nat) :
    (State.noteCause s bit).mask qs = s.mask qs := by
  simp (disch := exact covers_trans hc rfl) only [State.noteCause, State.mask_peat, apply_ite (State.mask qs),
    ite_self]

theorem State.sampleItems_mask {qs : List Area} (hc : covers qs [.pw, .cnv, .peat] = true) (s : State)
    (x : LedgerInputs) :
    (State.sampleItems s x).mask qs = s.mask qs := by
  simp (disch := exact covers_trans hc rfl) only [State.sampleItems, State.mask_pw_cnv_peat,
    apply_ite (State.mask qs), ite_self]

theorem execLedgerSample_mask {qs : List Area} (hc : covers qs [.pw, .cnv, .peat] = true) (inputs : LedgerInputs)
    (s : State) :
    nextMask qs s (execLedgerSample inputs s) = s.mask qs := by
  simp (disch := first | exact hc | exact covers_trans hc rfl) only [execLedgerSample, State.writeSnapshot_mask,
    State.noteCause_mask, State.countSecond_mask, State.sampleItems_mask, apply_ite (State.mask qs), ite_self,
    apply_ite (nextMask qs s), nextMask_next]

theorem State.ledgerPowerUp_mask {qs : List Area} (hc : covers qs [.peat] = true) (s : State) (lost : Bool) :
    (State.ledgerPowerUp s lost).mask qs = s.mask qs := by
  simp (disch := first | exact hc | exact covers_trans hc rfl) only [State.ledgerPowerUp, State.mask_peat,
    State.commitLedger_mask, apply_ite (State.mask qs), ite_self]

theorem execLedgerCommit_mask {qs : List Area} (hc : covers qs [.peat] = true) (s : State) :
    nextMask qs s (execLedgerCommit s) = s.mask qs := by
  simp (disch := first | exact hc | exact covers_trans hc rfl) only [execLedgerCommit, State.writeSnapshot_mask,
    State.commitLedger_mask, apply_ite (State.mask qs), ite_self, apply_ite (nextMask qs s), nextMask_next]

end Sys2Proof.Machine
end

