-- ==== Sys2Proof/Laws/FrameReset.lean ====
section
/-! SUPPORT. Which parts of the State the definitions of Machine/Reset.lean leave alone: one lemma each, for every set of parts
that covers those it changes. -/

set_option linter.unusedSimpArgs false
set_option linter.unreachableTactic false
set_option linter.unusedTactic false

namespace Sys2Proof.Machine

theorem State.resetPair_mask {qs : List Area} (hc : covers qs [.hif, .stp, .out] = true) (s : State) (p : Nat) :
    (State.resetPair s p).mask qs = s.mask qs := by
  simp (disch := first | exact hc | exact covers_trans hc rfl) only [State.resetPair, State.mask_stp,
    State.viaHif_mask, apply_ite (State.mask qs), ite_self]

theorem State.resetPairs_mask {qs : List Area} (hc : covers qs [.hif, .stp, .out] = true) (s : State) :
    (State.resetPairs s).mask qs = s.mask qs := by
  unfold State.resetPairs
  try dsimp only
  repeat' first
    | with_reducible rfl
    | simp (disch := first | exact hc | exact covers_trans hc rfl) only [State.resetPair_mask,
        apply_ite (State.mask qs), ite_self]
    | split
    | with_reducible refine (foldl_mask _ (fun s x => ?_) _ _).trans ?_
    | with_reducible refine (foldl_mask_fst _ (fun x a => ?_) _ _).trans ?_

theorem State.resetRings_mask {qs : List Area} (hc : covers qs [.hif, .stp, .leg, .out] = true) (s : State) :
    (State.resetRings s).mask qs = s.mask qs := by
  simp (disch := first | exact hc | exact covers_trans hc rfl) only [State.resetRings, State.mask_hif,
    State.resetBridge_mask, State.resetPairs_mask, State.viaHif_mask, apply_ite (State.mask qs), ite_self]

theorem State.closeDebug_mask {qs : List Area} (hc : covers qs [.lcy, .out] = true) (s : State) :
    (State.closeDebug s).mask qs = s.mask qs := by
  simp (disch := first | exact hc | exact covers_trans hc rfl) only [State.closeDebug, State.mask_lcy,
    State.emitOut_mask, apply_ite (State.mask qs), ite_self]

theorem State.logicReset_mask {qs : List Area}
    (hc : covers qs [.regs, .time, .pw, .hif, .stp, .cmb, .blk, .cnv, .fio, .mir, .wag, .twn, .leg, .lcy, .seen, .out] = true) (s : State) :
    (State.logicReset s).mask qs = s.mask qs := by
  simp (disch := first | exact hc | exact covers_trans hc rfl) only [State.logicReset,
    State.mask_regs_time_pw_stp_cmb_blk_cnv_fio_mir_wag_twn_lcy_seen, State.resetRings_mask, State.closeDebug_mask,
    apply_ite (State.mask qs), ite_self]

theorem State.holdLogic_mask {qs : List Area}
    (hc : covers qs [.regs, .time, .pw, .hif, .stp, .cmb, .blk, .cnv, .fio, .mir, .wag, .twn, .leg, .lcy, .seen, .out] = true) (s : State) (cold : Bool) (cause : Nat) :
    (State.holdLogic s cold cause).mask qs = s.mask qs := by
  simp (disch := first | exact hc | exact covers_trans hc rfl) only [State.holdLogic, State.mask_pw,
    State.logicReset_mask, apply_ite (State.mask qs), ite_self]

theorem State.fieldStart_mask {qs : List Area}
    (hc : covers qs [.time, .pw, .cnv, .fio, .twn, .saf, .drn, .lcy, .out] = true) (s : State) :
    (State.fieldStart s).mask qs = s.mask qs := by
  simp (disch := first | exact hc | exact covers_trans hc rfl) only [State.fieldStart,
    State.mask_time_pw_cnv_fio_twn_saf_drn_lcy, State.closeDebug_mask, apply_ite (State.mask qs), ite_self]

theorem State.loseTables_mask {qs : List Area} (hc : covers qs [.cnv, .fio] = true) (s : State) :
    (State.loseTables s).mask qs = s.mask qs := by
  simp (disch := exact covers_trans hc rfl) only [State.loseTables, State.mask_cnv_fio, apply_ite (State.mask qs),
    ite_self]

theorem State.lifeCycleGroups_mask {qs : List Area} (hc : covers qs [.fio, .saf, .peat] = true) (s : State) :
    (State.lifeCycleGroups s).mask qs = s.mask qs := by
  simp (disch := first | exact hc | exact covers_trans hc rfl) only [State.lifeCycleGroups, State.putGroups_mask,
    State.regate_mask, apply_ite (State.mask qs), ite_self]

theorem State.fieldDown_mask {qs : List Area}
    (hc : covers qs [.time, .pw, .cnv, .fio, .twn, .saf, .drn, .lcy, .peat, .out] = true) (s : State) :
    (State.fieldDown s).mask qs = s.mask qs := by
  simp (disch := first | exact hc | exact covers_trans hc rfl) only [State.fieldDown,
    State.mask_time_pw_cnv_fio_twn_saf_drn_lcy, State.commitLedger_mask, State.closeDebug_mask, State.loseTables_mask,
    apply_ite (State.mask qs), ite_self]

theorem State.resetHif_mask {qs : List Area} (hc : covers qs [.regs, .pw, .hif, .stp, .out] = true) (s : State) :
    (State.resetHif s).mask qs = s.mask qs := by
  simp (disch := first | exact hc | exact covers_trans hc rfl) only [State.resetHif, State.mask_regs_pw_hif,
    State.resetPairs_mask, apply_ite (State.mask qs), ite_self]

theorem State.logicOff_mask {qs : List Area}
    (hc : covers qs [.regs, .time, .pw, .hif, .stp, .cmb, .blk, .cnv, .fio, .mir, .bog, .wag, .twn, .leg, .lcy, .peat, .seen, .out] = true) (s : State) (cause : Nat) :
    (State.logicOff s cause).mask qs = s.mask qs := by
  simp (disch := first | exact hc | exact covers_trans hc rfl) only [State.logicOff, State.mask_pw_bog,
    State.logicReset_mask, State.commitLedger_mask, apply_ite (State.mask qs), ite_self]

theorem State.peatPowerUp_mask {qs : List Area} (hc : covers qs [.pw, .hif, .lcy, .peat, .out] = true) (s : State) :
    (State.peatPowerUp s).mask qs = s.mask qs := by
  simp (disch := first | exact hc | exact covers_trans hc rfl) only [State.peatPowerUp, State.mask_blk,
    State.mask_bog, State.mask_cmb, State.mask_cmb_cnv, State.mask_cnv, State.mask_cnv_fio, State.mask_drn,
    State.mask_fio, State.mask_fio_drn, State.mask_fio_twn, State.mask_fio_wag, State.mask_freeIdx, State.mask_hif,
    State.mask_hif_out, State.mask_lcy, State.mask_leg, State.mask_mir, State.mask_out, State.mask_peat,
    State.mask_pending, State.mask_pw, State.mask_pw_bog, State.mask_pw_cnv_drn, State.mask_pw_cnv_peat,
    State.mask_pw_drn, State.mask_pw_fio, State.mask_regs, State.mask_regs_pw_hif,
    State.mask_regs_time_pw_stp_cmb_blk_cnv_fio_mir_wag_twn_lcy_seen, State.mask_saf, State.mask_seen, State.mask_stp,
    State.mask_stp_cmb_blk_fio_wag, State.mask_time, State.mask_time_freeIdx, State.mask_time_pw,
    State.mask_time_pw_cnv_fio_twn_saf_drn_lcy, State.mask_time_pw_hif_stp_cmb_blk_cnv_fio_mir_wag_twn_leg,
    State.mask_twn, State.mask_wag, State.countLedger_mask, State.powerIrq_mask, State.ledgerPowerUp_mask,
    apply_ite (State.mask qs), ite_self]

theorem State.resetVectors_mask {qs : List Area} (hc : covers qs [.hif] = true) (s : State) :
    (State.resetVectors s).mask qs = s.mask qs := by
  simp (disch := exact covers_trans hc rfl) only [State.resetVectors, State.mask_hif, apply_ite (State.mask qs),
    ite_self]

theorem State.coldCounters_mask {qs : List Area}
    (hc : covers qs [.time, .pw, .hif, .stp, .cmb, .blk, .cnv, .fio, .mir, .wag, .twn, .leg] = true) (s : State) :
    (State.coldCounters s).mask qs = s.mask qs := by
  simp (disch := exact covers_trans hc rfl) only [State.coldCounters,
    State.mask_time_pw_hif_stp_cmb_blk_cnv_fio_mir_wag_twn_leg, apply_ite (State.mask qs), ite_self]

end Sys2Proof.Machine
end

