-- ==== Sys2Proof/Laws/FrameLifeCycle.lean ====
section
/-! SUPPORT. Which parts of the State the definitions of Machine/LifeCycle.lean leave alone: one lemma each, for every set of parts
that covers those it changes. -/

set_option linter.unusedSimpArgs false
set_option linter.unreachableTactic false
set_option linter.unusedTactic false

namespace Sys2Proof.Machine

theorem State.setLcy_mask {qs : List Area} (hc : covers qs [.lcy] = true) (s : State) (l : LcyState) :
    (State.setLcy s l).mask qs = s.mask qs := by
  simp (disch := exact covers_trans hc rfl) only [State.setLcy, State.mask_lcy, apply_ite (State.mask qs), ite_self]

theorem execInstallDone_mask {qs : List Area} (hc : covers qs [.lcy] = true) (s : State) :
    nextMask qs s (execInstallDone s) = s.mask qs := by
  unfold execInstallDone
  repeat' split
  all_goals first | rfl | simp (disch := first | exact hc | exact covers_trans hc rfl) only [State.setLcy_mask, apply_ite (State.mask qs),
      ite_self, apply_ite (nextMask qs s), nextMask_next]

theorem State.accessLost_mask {qs : List Area} (hc : covers qs [.time, .hif, .stp, .wag, .out] = true) (s : State) :
    (State.accessLost s).mask qs = s.mask qs := by
  unfold State.accessLost
  simp (disch := first | exact hc | exact covers_trans hc rfl) only [State.leaveLink_mask, apply_ite (State.mask qs), ite_self]
  refine foldl_mask _ (fun s x => ?_) _ _
  simp (disch := first | exact hc | exact covers_trans hc rfl) only [State.resetPair_mask, apply_ite (State.mask qs), ite_self]

theorem State.transition_mask {qs : List Area}
    (hc : covers qs [.time, .pw, .hif, .stp, .fio, .wag, .saf, .lcy, .peat, .out] = true) (s : State)
    (to_ : LcState) (key : List Byte) :
    (State.transition s to_ key).mask qs = s.mask qs := by
  unfold State.transition
  repeat' split
  all_goals first | rfl | simp (disch := first | exact hc | exact covers_trans hc rfl) only [State.mask_pw, State.accessLost_mask,
      State.lifeCycleGroups_mask, State.noteCause_mask, State.raise_mask, State.closeDebug_mask, State.setLcy_mask,
      State.emitOut_mask, apply_ite (State.mask qs), ite_self]

theorem State.tokenActs_mask {qs : List Area}
    (hc : covers qs [.time, .pw, .hif, .stp, .fio, .wag, .saf, .lcy, .peat, .out] = true) (s : State) (op : TokenOp)
    (body key : List Byte) :
    optMask qs s (State.tokenActs s op body key) = s.mask qs := by
  unfold State.tokenActs
  repeat' split
  all_goals first | rfl | simp (disch := first | exact hc | exact covers_trans hc rfl) only [State.setLcy_mask, State.emitOut_mask,
      State.transition_mask, apply_ite (State.mask qs), ite_self, apply_ite (optMask qs s), optMask_some,
      optMask_none]

theorem State.takeToken_mask {qs : List Area}
    (hc : covers qs [.time, .pw, .hif, .stp, .fio, .wag, .saf, .lcy, .peat, .out] = true) (s : State) (b : List Byte) :
    (State.takeToken s b).1.mask qs = s.mask qs := by
  unfold State.takeToken
  try dsimp only
  repeat' first
    | with_reducible rfl
    | simp (disch := first | exact hc | exact covers_trans hc rfl) only [State.setLcy_mask, State.tokenActs_mask,
        apply_ite (State.mask qs), ite_self, apply_ite Prod.fst]
    | split
    | with_reducible refine (mask_of_some (State.tokenActs_mask (by first | exact hc | exact covers_trans hc rfl) _ _ _ _) (by assumption)).trans ?_

theorem execToken_mask {qs : List Area}
    (hc : covers qs [.time, .pw, .hif, .stp, .fio, .wag, .saf, .lcy, .peat, .out] = true) (seq : Word)
    (bytes : List Byte) (s : State) :
    nextMask qs s (execToken seq bytes s) = s.mask qs := by
  unfold execToken State.service
  repeat' split
  all_goals first | rfl | simp (disch := first | exact hc | exact covers_trans hc rfl) only [State.takeToken_mask, State.setLcy_mask,
      State.emitOut_mask, apply_ite (State.mask qs), ite_self, apply_ite (nextMask qs s), nextMask_next]

theorem execServiceStatus_mask {qs : List Area} (hc : covers qs [.lcy, .out, .freeIdx] = true) (seq : Word)
    (s : State) :
    nextMask qs s (execServiceStatus seq s) = s.mask qs := by
  unfold execServiceStatus State.service
  repeat' split
  all_goals first | rfl | simp (disch := first | exact hc | exact covers_trans hc rfl) only [State.tookFree_mask, State.setLcy_mask,
      State.emitOut_mask, apply_ite (State.mask qs), ite_self, apply_ite (nextMask qs s), nextMask_next]

theorem State.adoptHalf_mask {qs : List Area}
    (hc : covers qs [.time, .pw, .cnv, .fio, .twn, .saf, .drn, .lcy, .peat, .out] = true) (s : State)
    (old new : Activation) :
    (State.adoptHalf s old new).mask qs = s.mask qs := by
  simp (disch := first | exact hc | exact covers_trans hc rfl) only [State.adoptHalf, State.mask_drn,
    State.fieldDown_mask, State.fieldStart_mask, apply_ite (State.mask qs), ite_self]

theorem State.activationRules_mask {qs : List Area} (hc : covers qs [.fio, .saf, .peat, .freeIdx] = true) (s : State) (a : Activation) :
    (State.activationRules s a).state.mask qs = s.mask qs := by
  unfold State.activationRules
  repeat' split
  · rfl
  · rfl
  · exact State.applyRules_mask hc s _

theorem State.applyCalPart_mask {qs : List Area} (hc : covers qs [.cnv] = true) (s : State) (a : Activation) :
    (State.applyCalPart s a).mask qs = s.mask qs := by
  unfold State.applyCalPart
  repeat' split
  all_goals first | rfl | simp (disch := exact covers_trans hc rfl) only [State.mask_cnv, apply_ite (State.mask qs), ite_self]

theorem State.commitActivation_mask {qs : List Area}
    (hc : covers qs [.regs, .time, .pw, .hif, .stp, .cmb, .blk, .cnv, .fio, .mir, .wag, .twn, .saf, .drn, .leg, .lcy, .peat, .seen, .out] = true) (s : State) :
    (State.commitActivation s).mask qs = s.mask qs := by
  simp (disch := first | exact hc | exact covers_trans hc rfl) only [State.commitActivation, State.applyCalPart_mask,
    State.holdLogic_mask, State.countLogic_mask, State.noteCause_mask, State.adoptHalf_mask, State.setLcy_mask,
    apply_ite (State.mask qs), ite_self]

theorem execActivationCommit_mask {qs : List Area} (hc : covers qs [.regs, .time, .pw, .hif, .stp, .cmb, .blk, .cnv, .fio, .mir, .wag, .twn, .saf, .drn, .leg, .lcy, .peat, .seen, .out, .freeIdx] = true) (s : State) : nextMask qs s (execActivationCommit s) = s.mask qs := by
  have h : ∀ a, (State.activationRules s a).state.mask qs = s.mask qs := State.activationRules_mask (covers_trans hc rfl) s
  unfold execActivationCommit
  try dsimp only
  repeat' first
    | with_reducible rfl
    | with_reducible assumption
    | simp (disch := first | exact hc | exact covers_trans hc rfl) only [State.refuseActivation_mask, State.commitActivation_mask, State.fieldRaise_mask, State.fieldDown_mask, apply_ite (State.mask qs), ite_self, apply_ite (nextMask qs s), nextMask_next]
    | (rename_i e; exact (congrArg (fun o => (RuleEnd.state o).mask qs) e).symm.trans (h _))
    | split

theorem execHello_mask {qs : List Area} (hc : covers qs [.lcy, .out, .freeIdx] = true) (seq : Word) (s : State) :
    nextMask qs s (execHello seq s) = s.mask qs := by
  unfold execHello State.service
  try dsimp only
  repeat' first
    | with_reducible rfl
    | simp (disch := first | exact hc | exact covers_trans hc rfl) only [State.setLcy_mask, State.tookFree_mask,
        State.emitOut_mask, apply_ite (State.mask qs), ite_self, apply_ite (nextMask qs s), nextMask_next]
    | split

theorem State.updEnds_mask {qs : List Area} (hc : covers qs [.lcy] = true) (s : State) (code : Byte) :
    (State.updEnds s code).1.mask qs = s.mask qs := by
  simp (disch := first | exact hc | exact covers_trans hc rfl) only [State.updEnds, State.setLcy_mask,
    apply_ite (State.mask qs), ite_self, apply_ite Prod.fst]

theorem execDiscard_mask {qs : List Area} (hc : covers qs [.lcy, .out] = true) (seq : Word) (s : State) :
    nextMask qs s (execDiscard seq s) = s.mask qs := by
  unfold execDiscard State.service
  try dsimp only
  repeat' first
    | with_reducible rfl
    | simp (disch := first | exact hc | exact covers_trans hc rfl) only [State.setLcy_mask, State.updEnds_mask,
        State.emitOut_mask, apply_ite (State.mask qs), ite_self, apply_ite (nextMask qs s), nextMask_next]
    | split

theorem State.sendImages_mask {qs : List Area} (hc : covers qs [.fio] = true) (s : State) (j : InstallJob) :
    (State.sendImages s j).mask qs = s.mask qs := by
  unfold State.sendImages
  try dsimp only
  repeat' first
    | with_reducible rfl
    | simp (disch := first | exact hc | exact covers_trans hc rfl) only [State.mask_fio, State.sendDown_mask,
        apply_ite (State.mask qs), ite_self]
    | split
    | with_reducible refine (foldl_mask _ (fun s x => ?_) _ _).trans ?_
    | with_reducible refine (foldl_mask_fst _ (fun x a => ?_) _ _).trans ?_

theorem execInstall_mask {qs : List Area} (hc : covers qs [.fio, .lcy, .out] = true) (seq : Word) (s : State) :
    nextMask qs s (execInstall seq s) = s.mask qs := by
  unfold execInstall State.service
  try dsimp only
  repeat' first
    | with_reducible rfl
    | simp (disch := first | exact hc | exact covers_trans hc rfl) only [State.setLcy_mask, State.sendImages_mask,
        State.updEnds_mask, State.emitOut_mask, apply_ite (State.mask qs), ite_self, apply_ite (nextMask qs s),
        nextMask_next]
    | split

theorem execActivate_mask {qs : List Area} (hc : covers qs [.hif, .twn, .lcy, .out] = true) (seq : Word)
    (fieldRst : Bool) (s : State) :
    nextMask qs s (execActivate seq fieldRst s) = s.mask qs := by
  unfold execActivate State.service
  try dsimp only
  repeat' first
    | with_reducible rfl
    | simp (disch := first | exact hc | exact covers_trans hc rfl) only [State.refuseActivation_mask,
        State.offerHandover_mask, State.setLcy_mask, State.updEnds_mask, State.emitOut_mask,
        apply_ite (State.mask qs), ite_self, apply_ite (nextMask qs s), nextMask_next]
    | split

theorem execExpect_mask {qs : List Area} (hc : covers qs [.wag, .lcy, .out] = true) (seq : Word)
    (entries : List ExpectEntry) (s : State) :
    nextMask qs s (execExpect seq entries s) = s.mask qs := by
  unfold execExpect State.service
  try dsimp only
  repeat' first
    | with_reducible rfl
    | simp (disch := first | exact hc | exact covers_trans hc rfl) only [State.setWag_mask, State.setLcy_mask,
        State.emitOut_mask, apply_ite (State.mask qs), ite_self, apply_ite (nextMask qs s), nextMask_next]
    | split
    | with_reducible refine (foldl_mask _ (fun s x => ?_) _ _).trans ?_
    | with_reducible refine (foldl_mask_fst _ (fun x a => ?_) _ _).trans ?_

theorem execStage_mask {qs : List Area} (hc : covers qs [.lcy, .out] = true) (seq : Word) (offset : Nat)
    (bytes : List Byte) (s : State) :
    nextMask qs s (execStage seq offset bytes s) = s.mask qs := by
  unfold execStage State.service
  try dsimp only
  repeat' first
    | with_reducible rfl
    | simp (disch := first | exact hc | exact covers_trans hc rfl) only [State.setLcy_mask, State.updEnds_mask,
        State.emitOut_mask, apply_ite (State.mask qs), ite_self, apply_ite (nextMask qs s), nextMask_next]
    | split

theorem execUsbBusReset_mask {qs : List Area} (hc : covers qs [.lcy] = true) (s : State) :
    nextMask qs s (execUsbBusReset s) = s.mask qs := by
  simp (disch := first | exact hc | exact covers_trans hc rfl) only [execUsbBusReset, State.setLcy_mask,
    apply_ite (State.mask qs), ite_self, apply_ite (nextMask qs s), nextMask_next]

theorem execLedger_mask {qs : List Area} (hc : covers qs [.lcy, .out, .freeIdx] = true) (seq : Word)
    (what : BitVec 8) (first : Word) (count : Nat) (s : State) :
    nextMask qs s (execLedger seq what first count s) = s.mask qs := by
  unfold execLedger State.service
  repeat' split
  all_goals first | rfl | simp (disch := first | exact hc | exact covers_trans hc rfl) only [State.tookFree_mask, State.setLcy_mask,
      State.emitOut_mask, apply_ite (State.mask qs), ite_self, apply_ite (nextMask qs s), nextMask_next]

end Sys2Proof.Machine
end

