-- ==== Sys2Proof/Laws/FrameHost.lean ====
section
/-! SUPPORT. Which parts of the State the definitions of Machine/Host.lean leave alone: one lemma each, for every set of parts
that covers those it changes. -/

set_option linter.unusedSimpArgs false
set_option linter.unreachableTactic false
set_option linter.unusedTactic false

namespace Sys2Proof.Machine

theorem State.setHif_mask {qs : List Area} (hc : covers qs [.hif] = true) (s : State) (h : HifState) :
    (State.setHif s h).mask qs = s.mask qs := by
  simp (disch := exact covers_trans hc rfl) only [State.setHif, State.mask_hif, apply_ite (State.mask qs), ite_self]

theorem execMsixUnmask_mask {qs : List Area} (hc : covers qs [.hif, .out] = true) (v : MsixAccess) (s : State) :
    nextMask qs s (execMsixUnmask v s) = s.mask qs := by
  unfold execMsixUnmask
  repeat' split
  all_goals first | rfl | simp (disch := first | exact hc | exact covers_trans hc rfl) only [State.viaHif_mask, State.setHif_mask,
      apply_ite (State.mask qs), ite_self, apply_ite (nextMask qs s), nextMask_next]

theorem execUpdateStatus_mask {qs : List Area} (hc : covers qs [.hif, .out, .freeIdx] = true) (p : Pair) (s : State) :
    nextMask qs s (execUpdateStatus p s) = s.mask qs := by
  unfold execUpdateStatus
  repeat' split
  all_goals first | rfl | simp (disch := first | exact hc | exact covers_trans hc rfl) only [State.tookFree_mask, State.hostWrite_mask,
      State.finish_mask, apply_ite (State.mask qs), ite_self, apply_ite (nextMask qs s), nextMask_next]

theorem execRingsEnSet_mask {qs : List Area} (hc : covers qs [.regs] = true) (s : State) :
    nextMask qs s (execRingsEnSet s) = s.mask qs := by
  simp (disch := first | exact hc | exact covers_trans hc rfl) only [execRingsEnSet, State.setReg_mask,
    apply_ite (State.mask qs), ite_self, apply_ite (nextMask qs s), nextMask_next]

theorem State.linkEvent_mask {qs : List Area} (hc : covers qs [.hif, .out] = true) (s : State) (reset : Bool) :
    (State.linkEvent s reset).mask qs = s.mask qs := by
  simp (disch := first | exact hc | exact covers_trans hc rfl) only [State.linkEvent, State.raise_mask,
    apply_ite (State.mask qs), ite_self]

theorem execPcieLinkUp_mask {qs : List Area} (hc : covers qs [.hif, .out] = true) (speed : Fin 5) (s : State) :
    nextMask qs s (execPcieLinkUp speed s) = s.mask qs := by
  simp (disch := first | exact hc | exact covers_trans hc rfl) only [execPcieLinkUp, State.setHif_mask,
    State.linkEvent_mask, apply_ite (State.mask qs), ite_self, apply_ite (nextMask qs s), nextMask_next]

theorem State.refuseEntry_mask {qs : List Area} (hc : covers qs [.hif, .out] = true) (s : State) (p : Nat)
    (e : Entry) (code : Byte) (result : Nat) :
    (State.refuseEntry s p e code result).mask qs = s.mask qs := by
  simp (disch := first | exact hc | exact covers_trans hc rfl) only [State.refuseEntry, State.finishWith_mask,
    State.noteNoncanon_mask, apply_ite (State.mask qs), ite_self]

theorem State.readFailed_mask {qs : List Area} (hc : covers qs [.hif, .out] = true) (s : State) (p : Nat)
    (code : Byte) :
    (State.readFailed s p code).mask qs = s.mask qs := by
  unfold State.readFailed
  repeat' split
  all_goals first | rfl | simp (disch := first | exact hc | exact covers_trans hc rfl) only [State.refuseEntry_mask, State.viaHif_mask,
      apply_ite (State.mask qs), ite_self]

theorem execHostReadGrant_mask {qs : List Area} (hc : covers qs [.hif, .out] = true) (s : State) :
    nextMask qs s (execHostReadGrant s) = s.mask qs := by
  simp (disch := first | exact hc | exact covers_trans hc rfl) only [execHostReadGrant, State.viaHif_mask,
    apply_ite (State.mask qs), ite_self, apply_ite (nextMask qs s), nextMask_next]

theorem State.modEntry_mask {qs : List Area} (hc : covers qs [.hif, .out] = true) (s : State) (p : Nat) (sub : Word)
    (f : Entry → Entry) :
    (State.modEntry s p sub f).mask qs = s.mask qs := by
  simp (disch := first | exact hc | exact covers_trans hc rfl) only [State.modEntry, State.viaHif_mask,
    apply_ite (State.mask qs), ite_self]

theorem execHostReadCompletion_mask {qs : List Area} (hc : covers qs [.hif, .out] = true) (p : Pair)
    (r : ReadResult) (s : State) :
    nextMask qs s (execHostReadCompletion p r s) = s.mask qs := by
  unfold execHostReadCompletion
  repeat' split
  all_goals first | rfl | simp (disch := first | exact hc | exact covers_trans hc rfl) only [State.modEntry_mask, State.viaHif_mask,
      State.readFailed_mask, apply_ite (State.mask qs), ite_self, apply_ite (nextMask qs s), nextMask_next]

theorem State.pushEntry_mask {qs : List Area} (hc : covers qs [.hif, .out] = true) (s : State) (p : Nat) (e : Entry) :
    (State.pushEntry s p e).mask qs = s.mask qs := by
  simp (disch := first | exact hc | exact covers_trans hc rfl) only [State.pushEntry, State.viaHif_mask,
    apply_ite (State.mask qs), ite_self]

theorem State.takeDescriptor_mask {qs : List Area} (hc : covers qs [.hif, .out] = true) (s : State) (p : Nat)
    (e : Entry) :
    (State.takeDescriptor s p e).mask qs = s.mask qs := by
  unfold State.takeDescriptor
  repeat' split
  all_goals first | rfl | simp (disch := first | exact hc | exact covers_trans hc rfl) only [State.refuseEntry_mask, State.pushEntry_mask,
      apply_ite (State.mask qs), ite_self]

theorem execBadAccess_mask {qs : List Area} (hc : covers qs [.hif, .out] = true) (write : Bool) (s : State) :
    nextMask qs s (execBadAccess write s) = s.mask qs := by
  simp (disch := first | exact hc | exact covers_trans hc rfl) only [execBadAccess, State.emitOut_mask,
    State.setHif_mask, apply_ite (State.mask qs), ite_self, apply_ite (nextMask qs s), nextMask_next]

theorem execTableRead_mask {qs : List Area} (hc : covers qs [.hif, .out] = true) (p : Pair) (s : State) :
    nextMask qs s (execTableRead p s) = s.mask qs := by
  unfold execTableRead
  repeat' split
  all_goals first | rfl | simp (disch := first | exact hc | exact covers_trans hc rfl) only [State.hostWrite_mask, State.finish_mask,
      apply_ite (State.mask qs), ite_self, apply_ite (nextMask qs s), nextMask_next]

theorem execDescriptorFetch_mask {qs : List Area} (hc : covers qs [.hif, .out] = true) (p : Pair) (r : ReadResult)
    (s : State) :
    nextMask qs s (execDescriptorFetch p r s) = s.mask qs := by
  unfold execDescriptorFetch
  repeat' split
  all_goals first | rfl | simp (disch := first | exact hc | exact covers_trans hc rfl) only [State.takeDescriptor_mask, State.viaHif_mask,
      apply_ite (State.mask qs), ite_self, apply_ite (nextMask qs s), nextMask_next]

theorem State.functionReset_mask {qs : List Area} (hc : covers qs [.regs, .pw, .hif, .stp, .out] = true) (s : State) :
    (State.functionReset s).mask qs = s.mask qs := by
  simp (disch := first | exact hc | exact covers_trans hc rfl) only [State.functionReset, State.setHif_mask,
    State.linkEvent_mask, State.resetHif_mask, State.resetVectors_mask, apply_ite (State.mask qs), ite_self]

theorem execPcieHotReset_mask {qs : List Area} (hc : covers qs [.regs, .pw, .hif, .stp, .out] = true) (s : State) :
    nextMask qs s (execPcieHotReset s) = s.mask qs := by
  simp (disch := first | exact hc | exact covers_trans hc rfl) only [execPcieHotReset, State.functionReset_mask,
    apply_ite (State.mask qs), ite_self, apply_ite (nextMask qs s), nextMask_next]

theorem execBusMasterDisable_mask {qs : List Area} (hc : covers qs [.regs, .pw, .hif, .stp, .out] = true) (s : State) :
    nextMask qs s (execBusMasterDisable s) = s.mask qs := by
  simp (disch := first | exact hc | exact covers_trans hc rfl) only [execBusMasterDisable, State.resetHif_mask,
    apply_ite (State.mask qs), ite_self, apply_ite (nextMask qs s), nextMask_next]

theorem execRingEnable_mask {qs : List Area} (hc : covers qs [.regs, .pw, .hif, .out] = true) (p : Pair) (w : Word)
    (s : State) :
    nextMask qs s (execRingEnable p w s) = s.mask qs := by
  simp (disch := first | exact hc | exact covers_trans hc rfl) only [execRingEnable, State.viaHif_mask,
    State.writeBits_mask, apply_ite (State.mask qs), ite_self, apply_ite (nextMask qs s), nextMask_next]

theorem execMsixModerationTimeout_mask {qs : List Area} (hc : covers qs [.hif, .out] = true) (v : Fin 128) (s : State) :
    nextMask qs s (execMsixModerationTimeout v s) = s.mask qs := by
  simp (disch := first | exact hc | exact covers_trans hc rfl) only [execMsixModerationTimeout, State.viaHif_mask,
    apply_ite (State.mask qs), ite_self, apply_ite (nextMask qs s), nextMask_next]

theorem execHeldCompletionFlush_mask {qs : List Area} (hc : covers qs [.hif, .out] = true) (p : Pair) (s : State) :
    nextMask qs s (execHeldCompletionFlush p s) = s.mask qs := by
  simp (disch := first | exact hc | exact covers_trans hc rfl) only [execHeldCompletionFlush, State.viaHif_mask,
    apply_ite (State.mask qs), ite_self, apply_ite (nextMask qs s), nextMask_next]

theorem execEventMask_mask {qs : List Area} (hc : covers qs [.hif, .out] = true) (p : Pair) (s : State) :
    nextMask qs s (execEventMask p s) = s.mask qs := by
  unfold execEventMask
  repeat' split
  all_goals first | rfl | simp (disch := first | exact hc | exact covers_trans hc rfl) only [State.finish_mask, State.viaHif_mask,
      apply_ite (State.mask qs), ite_self, apply_ite (nextMask qs s), nextMask_next]

theorem execHostReadTimeout_mask {qs : List Area} (hc : covers qs [.hif, .out] = true) (p : Pair) (fetch : Bool)
    (s : State) :
    nextMask qs s (execHostReadTimeout p fetch s) = s.mask qs := by
  simp (disch := first | exact hc | exact covers_trans hc rfl) only [execHostReadTimeout, State.readFailed_mask,
    State.viaHif_mask, apply_ite (State.mask qs), ite_self, apply_ite (nextMask qs s), nextMask_next]

theorem execRingsEnClear_mask {qs : List Area} (hc : covers qs [.regs, .hif, .stp, .out] = true) (s : State) :
    nextMask qs s (execRingsEnClear s) = s.mask qs := by
  simp (disch := first | exact hc | exact covers_trans hc rfl) only [execRingsEnClear, State.setReg_mask,
    State.resetPairs_mask, apply_ite (State.mask qs), ite_self, apply_ite (nextMask qs s), nextMask_next]

theorem execSubmissionDoorbell_mask {qs : List Area} (hc : covers qs [.hif, .out] = true) (p : Pair) (v : Word)
    (s : State) :
    nextMask qs s (execSubmissionDoorbell p v s) = s.mask qs := by
  simp (disch := first | exact hc | exact covers_trans hc rfl) only [execSubmissionDoorbell, State.viaHif_mask,
    apply_ite (State.mask qs), ite_self, apply_ite (nextMask qs s), nextMask_next]

theorem execCompletionDoorbell_mask {qs : List Area} (hc : covers qs [.hif, .out] = true) (p : Pair) (v : Word)
    (s : State) :
    nextMask qs s (execCompletionDoorbell p v s) = s.mask qs := by
  simp (disch := first | exact hc | exact covers_trans hc rfl) only [execCompletionDoorbell, State.viaHif_mask,
    apply_ite (State.mask qs), ite_self, apply_ite (nextMask qs s), nextMask_next]

theorem execFunctionLevelReset_mask {qs : List Area} (hc : covers qs [.regs, .pw, .hif, .stp, .out] = true)
    (s : State) :
    nextMask qs s (execFunctionLevelReset s) = s.mask qs := by
  simp (disch := first | exact hc | exact covers_trans hc rfl) only [execFunctionLevelReset, State.functionReset_mask,
    apply_ite (State.mask qs), ite_self, apply_ite (nextMask qs s), nextMask_next]

theorem execPcieLinkDown_mask {qs : List Area} (hc : covers qs [.regs, .pw, .hif, .stp, .out] = true) (s : State) :
    nextMask qs s (execPcieLinkDown s) = s.mask qs := by
  simp (disch := first | exact hc | exact covers_trans hc rfl) only [execPcieLinkDown, State.setHif_mask,
    State.linkEvent_mask, State.resetHif_mask, apply_ite (State.mask qs), ite_self, apply_ite (nextMask qs s),
    nextMask_next]

theorem execRingReset_mask {qs : List Area} (hc : covers qs [.hif, .stp, .out] = true) (p : Pair) (s : State) :
    nextMask qs s (execRingReset p s) = s.mask qs := by
  simp (disch := first | exact hc | exact covers_trans hc rfl) only [execRingReset, State.resetPair_mask,
    State.viaHif_mask, apply_ite (State.mask qs), ite_self, apply_ite (nextMask qs s), nextMask_next]

end Sys2Proof.Machine
end

