-- ==== Sys2Proof/Laws/FrameRegWrite.lean ====
section
/-! SUPPORT. Which parts of the State the definitions of Machine/RegWrite.lean leave alone: one lemma each, for every set of parts
that covers those it changes. -/

set_option linter.unusedSimpArgs false
set_option linter.unreachableTactic false
set_option linter.unusedTactic false

namespace Sys2Proof.Machine

theorem State.clearW1c_mask {qs : List Area} (hc : covers qs [.time, .pw, .hif, .stp, .cmb, .blk, .fio, .mir, .leg] = true)
    (s : State) (off : Nat) (w : Word) : (State.clearW1c s off w).mask qs = s.mask qs := by
  unfold State.clearW1c
  extract_lets s1
  have e : s1.mask qs = s.mask qs := State.mask_pw (covers_trans hc rfl) s _
  rw [← e]
  clear_value s1
  repeat' split
  all_goals first
    | rfl
    | simp (disch := first | exact hc | exact covers_trans hc rfl) only [State.mask_cmb, State.mask_fio, State.mask_mir, State.mask_stp, State.setTime_mask, State.setHif_mask, State.modTask_mask, State.modCan_mask, apply_ite (State.mask qs), ite_self]

theorem execLockSet_mask {qs : List Area} (hc : covers qs [.pw] = true) (w : Word) (s : State) :
    nextMask qs s (execLockSet w s) = s.mask qs := by
  simp (disch := exact covers_trans hc rfl) only [execLockSet, State.mask_pw, apply_ite (State.mask qs), ite_self,
    apply_ite (nextMask qs s), nextMask_next]

theorem execRegisterWrite_mask {qs : List Area}
    (hc : covers qs [.regs, .time, .pw, .hif, .stp, .cmb, .blk, .fio, .mir, .wag, .leg, .out] = true)
    (offset : BitVec 16) (w : Word) (s : State) :
    nextMask qs s (execRegisterWrite offset w s) = s.mask qs := by
  unfold execRegisterWrite
  try dsimp only
  repeat' first
    | with_reducible rfl
    | simp (disch := first | exact hc | exact covers_trans hc rfl) only [State.trunkWritten_mask, State.clearW1c_mask,
        State.writeBits_mask, apply_ite (State.mask qs), ite_self, apply_ite (nextMask qs s), nextMask_next]
    | split

end Sys2Proof.Machine
end

