-- ==== Sys2Proof/Laws/FramePower.lean ====
section
/-! SUPPORT. Which parts of the State the definitions of Machine/Power.lean leave alone: one lemma each, for every set of parts
that covers those it changes. -/

set_option linter.unusedSimpArgs false
set_option linter.unreachableTactic false
set_option linter.unusedTactic false

namespace Sys2Proof.Machine

theorem execFieldPowerLoss_mask {qs : List Area}
    (hc : covers qs [.time, .pw, .cnv, .fio, .twn, .saf, .drn, .lcy, .peat, .out] = true) (s : State) :
    nextMask qs s (execFieldPowerLoss s) = s.mask qs := by
  simp (disch := first | exact hc | exact covers_trans hc rfl) only [execFieldPowerLoss, State.fieldDown_mask,
    apply_ite (State.mask qs), ite_self, apply_ite (nextMask qs s), nextMask_next]

theorem State.turnCold_mask {qs : List Area} (hc : covers qs [.time, .hif, .saf, .out] = true) (s : State) :
    (State.turnCold s).mask qs = s.mask qs := by
  simp (disch := first | exact hc | exact covers_trans hc rfl) only [State.turnCold, State.mask_saf,
    State.setTime_mask, State.raise_mask, apply_ite (State.mask qs), ite_self]

theorem State.setPw_mask {qs : List Area} (hc : covers qs [.pw] = true) (s : State) (p : PowerState) :
    (State.setPw s p).mask qs = s.mask qs := by
  simp (disch := exact covers_trans hc rfl) only [State.setPw, State.mask_pw, apply_ite (State.mask qs), ite_self]

theorem execEjectLeverReturned_mask {qs : List Area}
    (hc : covers qs [.regs, .time, .pw, .hif, .stp, .cmb, .blk, .cnv, .fio, .mir, .wag, .twn, .leg, .lcy, .seen, .out] = true) (s : State) :
    nextMask qs s (execEjectLeverReturned s) = s.mask qs := by
  simp (disch := first | exact hc | exact covers_trans hc rfl) only [execEjectLeverReturned, State.setPw_mask,
    State.powerIrq_mask, State.holdLogic_mask, apply_ite (State.mask qs), ite_self, apply_ite (nextMask qs s),
    nextMask_next]

theorem execPllLockLoss_mask {qs : List Area}
    (hc : covers qs [.regs, .time, .pw, .hif, .stp, .cmb, .blk, .cnv, .fio, .mir, .wag, .twn, .leg, .lcy, .seen, .out] = true) (s : State) :
    nextMask qs s (execPllLockLoss s) = s.mask qs := by
  simp (disch := first | exact hc | exact covers_trans hc rfl) only [execPllLockLoss, State.holdLogic_mask,
    State.setPw_mask, apply_ite (State.mask qs), ite_self, apply_ite (nextMask qs s), nextMask_next]

theorem execFieldPowerGood_mask {qs : List Area}
    (hc : covers qs [.time, .pw, .hif, .cnv, .fio, .twn, .saf, .drn, .lcy, .peat, .out] = true) (s : State) :
    nextMask qs s (execFieldPowerGood s) = s.mask qs := by
  simp (disch := first | exact hc | exact covers_trans hc rfl) only [execFieldPowerGood, State.countLedger_mask,
    State.noteCause_mask, State.setPw_mask, State.fieldStart_mask, State.peatPowerUp_mask, apply_ite (State.mask qs),
    ite_self, apply_ite (nextMask qs s), nextMask_next]

theorem execFieldRefSwitchBack_mask {qs : List Area} (hc : covers qs [.pw, .fio] = true) (s : State) :
    nextMask qs s (execFieldRefSwitchBack s) = s.mask qs := by
  simp (disch := first | exact hc | exact covers_trans hc rfl) only [execFieldRefSwitchBack, State.setPw_mask,
    State.fieldRaise_mask, apply_ite (State.mask qs), ite_self, apply_ite (nextMask qs s), nextMask_next]

theorem execPwrfailRelease_mask {qs : List Area} (hc : covers qs [.pw, .hif, .out] = true) (s : State) :
    nextMask qs s (execPwrfailRelease s) = s.mask qs := by
  simp (disch := first | exact hc | exact covers_trans hc rfl) only [execPwrfailRelease, State.setPw_mask,
    State.powerIrq_mask, apply_ite (State.mask qs), ite_self, apply_ite (nextMask qs s), nextMask_next]

theorem State.takeRestart_mask {qs : List Area}
    (hc : covers qs [.regs, .time, .pw, .hif, .stp, .cmb, .blk, .cnv, .fio, .mir, .wag, .twn, .leg, .lcy, .seen, .out] = true) (s : State) :
    (State.takeRestart s).mask qs = s.mask qs := by
  unfold State.takeRestart
  repeat' split
  all_goals first | rfl | simp (disch := first | exact hc | exact covers_trans hc rfl) only [State.holdLogic_mask, apply_ite (State.mask qs),
      ite_self]

theorem execRestartReset_mask {qs : List Area}
    (hc : covers qs [.regs, .time, .pw, .hif, .stp, .cmb, .blk, .cnv, .fio, .mir, .wag, .twn, .leg, .lcy, .seen, .out] = true) (s : State) :
    nextMask qs s (execRestartReset s) = s.mask qs := by
  simp (disch := first | exact hc | exact covers_trans hc rfl) only [execRestartReset, State.takeRestart_mask,
    apply_ite (State.mask qs), ite_self, apply_ite (nextMask qs s), nextMask_next]

theorem execLogicPowerUp_mask {qs : List Area} (hc : covers qs [.pw, .hif, .lcy, .peat, .out] = true) (s : State) :
    nextMask qs s (execLogicPowerUp s) = s.mask qs := by
  simp (disch := first | exact hc | exact covers_trans hc rfl) only [execLogicPowerUp, State.setLcy_mask,
    State.peatPowerUp_mask, State.setPw_mask, apply_ite (State.mask qs), ite_self, apply_ite (nextMask qs s),
    nextMask_next]

theorem execPresenceRelease_mask {qs : List Area}
    (hc : covers qs [.regs, .time, .pw, .hif, .stp, .cmb, .blk, .cnv, .fio, .mir, .bog, .wag, .twn, .saf, .drn, .leg, .lcy, .peat, .seen, .out] = true) (side : Side) (s : State) :
    nextMask qs s (execPresenceRelease side s) = s.mask qs := by
  unfold execPresenceRelease
  repeat' split
  all_goals first | rfl | simp (disch := first | exact hc | exact covers_trans hc rfl) only [State.fieldDown_mask, State.logicOff_mask,
      State.setPw_mask, apply_ite (State.mask qs), ite_self, apply_ite (nextMask qs s), nextMask_next]

theorem execPeatLoss_mask {qs : List Area} (hc : covers qs [.pw] = true) (s : State) :
    nextMask qs s (execPeatLoss s) = s.mask qs := by
  simp (disch := first | exact hc | exact covers_trans hc rfl) only [execPeatLoss, State.setPw_mask,
    apply_ite (State.mask qs), ite_self, apply_ite (nextMask qs s), nextMask_next]

theorem State.adoptImage_mask {qs : List Area} (hc : covers qs [.hif, .blk, .fio, .out] = true) (s : State)
    (warm : Bool) (old : TaskRt) (t id : Nat) :
    (State.adoptImage s warm old t id).mask qs = s.mask qs := by
  unfold State.adoptImage
  try dsimp only
  repeat' first
    | with_reducible rfl
    | simp (disch := first | exact hc | exact covers_trans hc rfl) only [State.setClaims_mask, State.modTask_mask,
        State.raise_mask, apply_ite (State.mask qs), ite_self]
    | split
    | with_reducible refine (foldl_mask _ (fun s x => ?_) _ _).trans ?_
    | with_reducible refine (foldl_mask_fst _ (fun x a => ?_) _ _).trans ?_

theorem State.bootTake_mask {qs : List Area} (hc : covers qs [.hif, .blk, .fio, .out] = true) (s : State) (warm : Bool) (old : TaskRt)
    (t id : Nat) (x : State × Option (Byte × BitVec 64)) (e : x.1.mask qs = s.mask qs) :
    (State.bootTake s warm old t id x).mask qs = s.mask qs := by
  unfold State.bootTake
  split
  · split
    · rw [State.adoptImage_mask (covers_trans hc rfl), e]
    · rfl
  · rfl

theorem State.bootImage_mask {qs : List Area} (hc : covers qs [.time, .hif, .cmb, .blk, .cnv, .fio, .mir, .bog, .wag, .twn, .leg, .out, .freeIdx] = true) (s : State) (warm : Bool) (old : TaskRt)
    (task : Fin 8) (bytes : List Byte) : (State.bootImage s warm old task bytes).mask qs = s.mask qs :=
  State.bootTake_mask (covers_trans hc rfl) s warm old task.val (iId bytes) _ (State.runApart_mask (covers_trans hc rfl) s _ _ _)

theorem State.askRestart_mask {qs : List Area} (hc : covers qs [.pw] = true) (s : State) (r : RestartReq) :
    (State.askRestart s r).mask qs = s.mask qs := by
  simp (disch := first | exact hc | exact covers_trans hc rfl) only [State.askRestart, State.setPw_mask,
    apply_ite (State.mask qs), ite_self]

theorem doRestart_mask {qs : List Area} (hc : covers qs [.pw, .hif, .twn, .out] = true) (p : Pair) (s : State) :
    nextMask qs s (doRestart p s) = s.mask qs := by
  unfold doRestart
  repeat' split
  all_goals first | rfl | simp (disch := first | exact hc | exact covers_trans hc rfl) only [State.offerHandover_mask, State.askRestart_mask,
      State.finish_mask, apply_ite (State.mask qs), ite_self, apply_ite (nextMask qs s), nextMask_next]

theorem execRestart_mask {qs : List Area} (hc : covers qs [.pw, .hif, .twn, .out] = true) (p : Pair) (s : State) :
    nextMask qs s (execRestart p s) = s.mask qs := by
  simp (disch := first | exact hc | exact covers_trans hc rfl | exact doRestart_mask (covers_trans hc rfl) _ _) only [
    execRestart, doRestart_mask, State.asOwnChange_mask, apply_ite (State.mask qs), ite_self,
    apply_ite (nextMask qs s), nextMask_next]

theorem execScrub_mask {qs : List Area} (hc : covers qs [.pw] = true) (corrected : Nat) (s : State) :
    nextMask qs s (execScrub corrected s) = s.mask qs := by
  simp (disch := first | exact hc | exact covers_trans hc rfl) only [execScrub, State.setPw_mask,
    apply_ite (State.mask qs), ite_self, apply_ite (nextMask qs s), nextMask_next]

theorem State.persistReg_mask {qs : List Area}
    (hc : covers qs [.regs, .time, .pw, .hif, .stp, .cmb, .blk, .fio, .mir, .wag, .leg, .out] = true) (s : State)
    (off : Nat) (w : Word) :
    (State.persistReg s off w).mask qs = s.mask qs := by
  unfold State.persistReg
  try dsimp only
  repeat' first
    | with_reducible rfl
    | simp (disch := first | exact hc | exact covers_trans hc rfl) only [execRegisterWrite_mask,
        execCmbClassWrite_mask, State.writeTpo_mask, State.setReg_mask, execGpConfigWrite_mask, State.writeBits_mask,
        execUartEnable_mask, execCanEnable_mask, after_mask, State.raise_mask, apply_ite (State.mask qs), ite_self]
    | split

theorem execHoldupChange_mask {qs : List Area} (hc : covers qs [.pw, .hif, .out] = true) (holdupOk : Bool)
    (v12Mv : BitVec 16) (s : State) :
    nextMask qs s (execHoldupChange holdupOk v12Mv s) = s.mask qs := by
  simp (disch := first | exact hc | exact covers_trans hc rfl) only [execHoldupChange, State.powerIrq_mask,
    State.setPw_mask, apply_ite (State.mask qs), ite_self, apply_ite (nextMask qs s), nextMask_next]

theorem State.bootItem_mask {qs : List Area}
    (hc : covers qs [.regs, .time, .pw, .hif, .stp, .cmb, .blk, .cnv, .fio, .mir, .bog, .wag, .twn, .leg, .out, .freeIdx] = true) (s : State) (warm : Bool) (old : Sparse TaskRt) (it : PersistItem) :
    (State.bootItem s warm old it).mask qs = s.mask qs := by
  unfold State.bootItem
  repeat' split
  all_goals first | rfl | simp (disch := first | exact hc | exact covers_trans hc rfl) only [State.bootImage_mask, State.loadItem_mask,
      State.persistReg_mask, apply_ite (State.mask qs), ite_self]

theorem State.bootFallback_mask {qs : List Area}
    (hc : covers qs [.time, .pw, .hif, .cnv, .fio, .twn, .saf, .drn, .lcy, .peat, .out] = true) (s : State) :
    (State.bootFallback s).mask qs = s.mask qs := by
  simp (disch := first | exact hc | exact covers_trans hc rfl) only [State.bootFallback, State.raise_mask,
    State.countLogic_mask, State.adoptHalf_mask, State.setLcy_mask, apply_ite (State.mask qs), ite_self]

theorem State.warmRestart_mask {qs : List Area}
    (hc : covers qs [.regs, .time, .pw, .hif, .stp, .cmb, .blk, .cnv, .fio, .mir, .wag, .twn, .leg, .lcy, .seen, .out] = true) (s : State) (cause : Nat) (why : HandoverWhy) :
    (State.warmRestart s cause why).mask qs = s.mask qs := by
  simp (disch := first | exact hc | exact covers_trans hc rfl) only [State.warmRestart, State.takeRestart_mask,
    State.offerHandover_mask, State.askRestart_mask, apply_ite (State.mask qs), ite_self]

theorem execResetInputRelease_mask {qs : List Area}
    (hc : covers qs [.regs, .time, .pw, .hif, .stp, .cmb, .blk, .cnv, .fio, .mir, .wag, .twn, .leg, .lcy, .peat, .seen, .out] = true) (heldNs : Nat) (s : State) :
    nextMask qs s (execResetInputRelease heldNs s) = s.mask qs := by
  simp (disch := first | exact hc | exact covers_trans hc rfl) only [execResetInputRelease, State.warmRestart_mask,
    State.setPw_mask, State.countLogic_mask, apply_ite (State.mask qs), ite_self, apply_ite (nextMask qs s),
    nextMask_next]

theorem execResetInputStuck_mask {qs : List Area} (hc : covers qs [.pw, .hif, .fio, .peat, .out] = true) (s : State) :
    nextMask qs s (execResetInputStuck s) = s.mask qs := by
  simp (disch := first | exact hc | exact covers_trans hc rfl) only [execResetInputStuck, State.setPw_mask,
    State.countLogic_mask, State.powerIrq_mask, apply_ite (State.mask qs), ite_self, apply_ite (nextMask qs s),
    nextMask_next]

theorem execPwrfail_mask {qs : List Area} (hc : covers qs [.pw, .hif, .twn, .out] = true) (s : State) :
    nextMask qs s (execPwrfail s) = s.mask qs := by
  simp (disch := first | exact hc | exact covers_trans hc rfl) only [execPwrfail, State.offerHandover_mask,
    State.setPw_mask, State.powerIrq_mask, apply_ite (State.mask qs), ite_self, apply_ite (nextMask qs s),
    nextMask_next]

theorem State.loadPersistent_mask {qs : List Area}
    (hc : covers qs [.regs, .time, .pw, .hif, .stp, .cmb, .blk, .cnv, .fio, .mir, .bog, .wag, .twn, .leg, .out, .freeIdx] = true) (s : State) (warm : Bool) :
    (State.loadPersistent s warm).mask qs = s.mask qs := by
  unfold State.loadPersistent
  try dsimp only
  repeat' first
    | with_reducible rfl
    | simp (disch := first | exact hc | exact covers_trans hc rfl) only [State.mask_blk, State.bootItem_mask,
        apply_ite (State.mask qs), ite_self]
    | split
    | with_reducible refine (foldl_mask _ (fun s x => ?_) _ _).trans ?_
    | with_reducible refine (foldl_mask_fst _ (fun x a => ?_) _ _).trans ?_

theorem execLogicBootVerified_mask {qs : List Area}
    (hc : covers qs [.regs, .time, .pw, .hif, .stp, .cmb, .blk, .cnv, .fio, .mir, .bog, .wag, .twn, .saf, .drn, .leg, .lcy, .peat, .out, .freeIdx] = true) (slotOk retentionOk : Bool) (s : State) :
    nextMask qs s (execLogicBootVerified slotOk retentionOk s) = s.mask qs := by
  simp (disch := first | exact hc | exact covers_trans hc rfl) only [execLogicBootVerified, State.mask_pw_fio,
    State.judgePhase_mask, State.takeRole_mask, State.loadPersistent_mask, State.countLogic_mask,
    State.coldCounters_mask, State.turnCold_mask, State.setPw_mask, State.bootFallback_mask,
    apply_ite (State.mask qs), ite_self, apply_ite (nextMask qs s), nextMask_next]

theorem execFieldRefRestored_mask {qs : List Area} (hc : covers qs [.pw] = true) (s : State) :
    nextMask qs s (execFieldRefRestored s) = s.mask qs := by
  simp (disch := first | exact hc | exact covers_trans hc rfl) only [execFieldRefRestored, State.setPw_mask,
    apply_ite (State.mask qs), ite_self, apply_ite (nextMask qs s), nextMask_next]

theorem execResetInputStuckClear_mask {qs : List Area} (hc : covers qs [.pw] = true) (s : State) :
    nextMask qs s (execResetInputStuckClear s) = s.mask qs := by
  simp (disch := first | exact hc | exact covers_trans hc rfl) only [execResetInputStuckClear, State.setPw_mask,
    apply_ite (State.mask qs), ite_self, apply_ite (nextMask qs s), nextMask_next]

theorem execEjectForceSafe_mask {qs : List Area} (hc : covers qs [.fio, .saf, .drn, .peat] = true) (s : State) :
    nextMask qs s (execEjectForceSafe s) = s.mask qs := by
  unfold execEjectForceSafe
  try dsimp only
  repeat' first
    | with_reducible rfl
    | simp (disch := first | exact hc | exact covers_trans hc rfl) only [State.mask_fio_drn, State.pulStop_mask,
        State.toSafe_mask, apply_ite (State.mask qs), ite_self, apply_ite (nextMask qs s), nextMask_next]
    | split
    | with_reducible refine (foldl_mask _ (fun s x => ?_) _ _).trans ?_
    | with_reducible refine (foldl_mask_fst _ (fun x a => ?_) _ _).trans ?_

theorem execSramUncorrectable_mask {qs : List Area}
    (hc : covers qs [.regs, .time, .pw, .hif, .stp, .cmb, .blk, .cnv, .fio, .mir, .wag, .twn, .leg, .lcy, .peat, .seen, .out] = true) (bank : Fin 32) (s : State) :
    nextMask qs s (execSramUncorrectable bank s) = s.mask qs := by
  simp (disch := first | exact hc | exact covers_trans hc rfl) only [execSramUncorrectable, State.warmRestart_mask,
    State.raise_mask, State.setPw_mask, State.countLogic_mask, apply_ite (State.mask qs), ite_self,
    apply_ite (nextMask qs s), nextMask_next]

theorem State.ejectPending_mask {qs : List Area} (hc : covers qs [.hif, .stp, .fio, .twn, .out] = true) (s : State) :
    (State.ejectPending s).mask qs = s.mask qs := by
  simp (disch := first | exact hc | exact covers_trans hc rfl) only [State.ejectPending, State.ejectParts_mask,
    State.ejectSteps_mask, State.offerHandover_mask, apply_ite (State.mask qs), ite_self]

theorem execEjectNotice_mask {qs : List Area} (hc : covers qs [.pw, .hif, .stp, .fio, .twn, .peat, .out] = true)
    (s : State) :
    nextMask qs s (execEjectNotice s) = s.mask qs := by
  simp (disch := first | exact hc | exact covers_trans hc rfl) only [execEjectNotice, State.ejectPending_mask,
    State.sendDown_mask, State.setPw_mask, State.countLogic_mask, State.powerIrq_mask, apply_ite (State.mask qs),
    ite_self, apply_ite (nextMask qs s), nextMask_next]

theorem execLogicResetRelease_mask {qs : List Area} (hc : covers qs [.time, .pw, .saf, .lcy] = true) (s : State) :
    nextMask qs s (execLogicResetRelease s) = s.mask qs := by
  simp (disch := first | exact hc | exact covers_trans hc rfl) only [execLogicResetRelease, State.mask_saf,
    State.setLcy_mask, State.setTime_mask, State.setPw_mask, apply_ite (State.mask qs), ite_self,
    apply_ite (nextMask qs s), nextMask_next]

theorem execEjectWithdraw_mask {qs : List Area} (hc : covers qs [.pw, .hif, .stp, .fio, .twn, .out] = true)
    (s : State) :
    nextMask qs s (execEjectWithdraw s) = s.mask qs := by
  simp (disch := first | exact hc | exact covers_trans hc rfl) only [execEjectWithdraw, State.setPw_mask,
    State.ejectSteps_mask, apply_ite (State.mask qs), ite_self, apply_ite (nextMask qs s), nextMask_next]

theorem execLpddr5LinkError_mask {qs : List Area}
    (hc : covers qs [.regs, .time, .pw, .hif, .stp, .cmb, .blk, .cnv, .fio, .mir, .wag, .twn, .leg, .lcy, .seen, .out] = true) (at_ : LinkErrorAt) (s : State) :
    nextMask qs s (execLpddr5LinkError at_ s) = s.mask qs := by
  unfold execLpddr5LinkError
  repeat' split
  all_goals first | rfl | simp (disch := first | exact hc | exact covers_trans hc rfl) only [State.bogLinkError_mask, State.warmRestart_mask,
      apply_ite (State.mask qs), ite_self, apply_ite (nextMask qs s), nextMask_next]

theorem execLogicOvertemp_mask {qs : List Area}
    (hc : covers qs [.regs, .time, .pw, .hif, .stp, .cmb, .blk, .cnv, .fio, .mir, .bog, .wag, .twn, .leg, .lcy, .peat, .seen, .out] = true) (s : State) :
    nextMask qs s (execLogicOvertemp s) = s.mask qs := by
  simp (disch := first | exact hc | exact covers_trans hc rfl) only [execLogicOvertemp, State.logicOff_mask,
    apply_ite (State.mask qs), ite_self, apply_ite (nextMask qs s), nextMask_next]

theorem execFieldRefLost_mask {qs : List Area} (hc : covers qs [.pw, .fio, .peat] = true) (s : State) :
    nextMask qs s (execFieldRefLost s) = s.mask qs := by
  simp (disch := first | exact hc | exact covers_trans hc rfl) only [execFieldRefLost, State.mask_pw,
    State.countLedger_mask, State.fieldRaise_mask, State.setPw_mask, apply_ite (State.mask qs), ite_self,
    apply_ite (nextMask qs s), nextMask_next]

theorem execV12OutOfRange_mask {qs : List Area}
    (hc : covers qs [.regs, .time, .pw, .hif, .stp, .cmb, .blk, .cnv, .fio, .mir, .bog, .wag, .twn, .leg, .lcy, .peat, .seen, .out] = true) (s : State) :
    nextMask qs s (execV12OutOfRange s) = s.mask qs := by
  simp (disch := first | exact hc | exact covers_trans hc rfl) only [execV12OutOfRange, State.logicOff_mask,
    State.setPw_mask, apply_ite (State.mask qs), ite_self, apply_ite (nextMask qs s), nextMask_next]

end Sys2Proof.Machine
end

