-- ==== Sys2Proof/Laws/Memory.lean ====
section
/-! SUPPORT. The laws of the sparse tables and of the Bog: what a read gives after a write, and that every write keeps the
canonical form. -/

namespace Sys2Proof.Machine

theorem tget_tput_same {α : Type} [DecidableEq α] (d v : α) (t : Sparse α) (i : Nat) : tget d (tput d v t i) i = v := by
  induction t with
  | nil => by_cases hv : v = d <;> simp [tput, tget, hv]
  | cons a r ih =>
    obtain ⟨k, w⟩ := a
    unfold tput
    by_cases hv : v = d
    · by_cases h2 : i = k
      · rw [if_pos hv, if_pos h2, ih]
      · rw [if_pos hv, if_neg h2, tget, if_neg (fun e => h2 e.symm), ih]
    · by_cases h1 : i < k
      · rw [if_neg hv, if_pos h1, tget, if_pos rfl]
      · by_cases h2 : i = k
        · rw [if_neg hv, if_neg h1, if_pos h2, tget, if_pos rfl]
        · rw [if_neg hv, if_neg h1, if_neg h2, tget, if_neg (fun e => h2 e.symm), ih]

theorem tget_tput_other {α : Type} [DecidableEq α] (d v : α) (t : Sparse α) (i j : Nat) (h : j ≠ i) :
    tget d (tput d v t i) j = tget d t j := by
  induction t with
  | nil => by_cases hv : v = d <;> simp [tput, tget, hv, h.symm]
  | cons a r ih =>
    obtain ⟨k, w⟩ := a
    unfold tput
    by_cases hv : v = d
    · by_cases h2 : i = k
      · rw [if_pos hv, if_pos h2, ih, tget, if_neg (by omega)]
      · rw [if_pos hv, if_neg h2, tget, tget, ih]
    · by_cases h1 : i < k
      · rw [if_neg hv, if_pos h1, tget, if_neg h.symm]
      · by_cases h2 : i = k
        · rw [if_neg hv, if_neg h1, if_pos h2, tget, if_neg h.symm, tget, if_neg (by omega)]
        · rw [if_neg hv, if_neg h1, if_neg h2, tget, tget, ih]

/-- Every entry of a written table was listed before or is the one written. -/
theorem mem_tput {α : Type} [DecidableEq α] (d v : α) (t : Sparse α) (i : Nat) (x : Nat × α) (h : x ∈ tput d v t i) :
    x ∈ t ∨ x = (i, v) := by
  induction t with
  | nil => by_cases hv : v = d <;> simp_all [tput]
  | cons a r ih =>
    unfold tput at h
    split at h
    · split at h
      · rcases ih h with e | e <;> simp [e]
      · rcases List.mem_cons.mp h with e | e
        · simp [e]
        · rcases ih e with e | e <;> simp [e]
    · split at h
      · rcases List.mem_cons.mp h with e | e <;> simp_all
      · split at h
        · rcases List.mem_cons.mp h with e | e <;> simp_all
        · rcases List.mem_cons.mp h with e | e
          · simp [e]
          · rcases ih e with e | e <;> simp [e]

/-- The canonical form, entry by entry. -/
theorem twf_cons {α : Type} [DecidableEq α] (d : α) (k : Nat) (w : α) (t : Sparse α) :
    twf (fun _ => d) ((k, w) :: t) = true ↔ (∀ x ∈ t, k < x.1) ∧ w ≠ d ∧ twf (fun _ => d) t = true := by
  induction t generalizing k w with
  | nil => simp [twf]
  | cons b r ih =>
    obtain ⟨k', w'⟩ := b
    simp only [twf, Bool.and_eq_true, decide_eq_true_eq]
    constructor
    · intro h
      refine ⟨?_, h.1.2, h.2⟩
      intro x hx
      rcases List.mem_cons.mp hx with e | e
      · rw [e]; exact h.1.1
      · have := ((ih k' w').mp h.2).1 x e
        have := h.1.1
        omega
    · intro h
      exact ⟨⟨h.1 _ List.mem_cons_self, h.2.1⟩, h.2.2⟩

/-- A write keeps the canonical form. -/
theorem tput_wf {α : Type} [DecidableEq α] (d v : α) (t : Sparse α) (i : Nat) (h : twf (fun _ => d) t = true) :
    twf (fun _ => d) (tput d v t i) = true := by
  induction t with
  | nil => by_cases hv : v = d <;> simp [tput, twf, hv]
  | cons a r ih =>
    obtain ⟨k, w⟩ := a
    obtain ⟨hk, hw, hr⟩ := (twf_cons d k w r).mp h
    have ht := ih hr
    unfold tput
    by_cases hv : v = d
    · rw [if_pos hv]
      by_cases h2 : i = k
      · rw [if_pos h2]; exact ht
      · rw [if_neg h2]
        refine (twf_cons d k w _).mpr ⟨?_, hw, ht⟩
        intro x hx
        clear h ih ht
        induction r with
        | nil => simp [tput, hv] at hx
        | cons b r ih =>
          rw [tput, if_pos hv] at hx
          obtain ⟨hb, hb', hr'⟩ := (twf_cons d b.1 b.2 r).mp hr
          split at hx
          · exact ih (fun y hy => hk y (List.mem_cons_of_mem _ hy)) hr' hx
          · rcases List.mem_cons.mp hx with e | e
            · rw [e]; exact hk _ List.mem_cons_self
            · exact ih (fun y hy => hk y (List.mem_cons_of_mem _ hy)) hr' e
    · rw [if_neg hv]
      by_cases h1 : i < k
      · rw [if_pos h1]
        refine (twf_cons d i v _).mpr ⟨?_, hv, h⟩
        intro x hx
        rcases List.mem_cons.mp hx with e | e
        · rw [e]; exact h1
        · have := hk x e
          omega
      · rw [if_neg h1]
        by_cases h2 : i = k
        · rw [if_pos h2]
          refine (twf_cons d i v _).mpr ⟨?_, hv, hr⟩
          intro x hx
          rw [h2]; exact hk x hx
        · rw [if_neg h2]
          refine (twf_cons d k w _).mpr ⟨?_, hw, ht⟩
          intro x hx
          rcases mem_tput d v r i x hx with e | e
          · exact hk x e
          · rw [e]
            show k < i
            omega

/-- A list of writes keeps the canonical form. -/
theorem tput_foldl_wf {α β : Type} [DecidableEq α] (d : α) (f : β → Nat) (g : β → α) (l : List β) (t : Sparse α)
    (h : twf (fun _ => d) t = true) : twf (fun _ => d) (l.foldl (fun m x => tput d (g x) m (f x)) t) = true := by
  induction l generalizing t with
  | nil => exact h
  | cons a l ih => exact ih _ (tput_wf d _ t _ h)

/-- Taking entries out keeps the canonical form. -/
theorem twf_filter {α : Type} [DecidableEq α] (d : α) (p : Nat × α → Bool) (t : Sparse α) (h : twf (fun _ => d) t = true) :
    twf (fun _ => d) (t.filter p) = true := by
  induction t with
  | nil => rfl
  | cons a r ih =>
    obtain ⟨hk, hw, hr⟩ := (twf_cons d a.1 a.2 r).mp h
    by_cases hp : p a = true
    · rw [List.filter_cons_of_pos hp]
      exact (twf_cons d a.1 a.2 _).mpr ⟨fun x hx => hk x (List.mem_of_mem_filter hx), hw, ih hr⟩
    · rw [List.filter_cons_of_neg hp]
      exact ih hr

end Sys2Proof.Machine
end

