-- ==== Sys2Proof/Laws/BogBase.lean ====
section
/-! SUPPORT. How State.Inv, the canonical form of the Bog, is kept: what leaves the Bog alone keeps it, and the operations
that write the Bog keep it. -/

namespace Sys2Proof.Machine

/-- Every part but the Bog. -/
abbrev notBog : List Area :=
  [.pending, .regs, .time, .pw, .hif, .stp, .cmb, .blk, .cnv, .fio, .mir, .wag, .twn, .saf, .drn, .leg, .lcy, .peat, .seen, .out, .freeIdx]

theorem State.inv_of_mask {s t : State} (e : t.mask notBog = s.mask notBog) (h : s.Inv) : t.Inv := by
  have b : t.bog = s.bog := State.only_bog (ps := notBog) e rfl
  unfold State.Inv at *
  rw [b]
  exact h

/-- What a command answers stands in the canonical form. -/
def nextInv : Host.Outcome State Fault Refusal → Prop
  | .next t => t.Inv
  | .fault _ => True
  | .refused _ => True

theorem nextInv_next {t : State} (h : t.Inv) : nextInv (.next t) := h

theorem nextInv_of_mask {s : State} {o : Host.Outcome State Fault Refusal} (e : nextMask notBog s o = s.mask notBog)
    (h : s.Inv) : nextInv o := by
  cases o with
  | next t => exact State.inv_of_mask e h
  | fault r => trivial
  | refused r => trivial

theorem inv_of_nextInv {o : Host.Outcome State Fault Refusal} {t : State} (h : nextInv o) (e : o = .next t) : t.Inv := by
  rw [e] at h
  exact h

theorem after_inv {s : State} {o : Host.Outcome State Fault Refusal} (hs : s.Inv) (h : nextInv o) : (after s o).Inv := by
  cases o with
  | next t => exact h
  | fault r => exact hs
  | refused r => exact hs

theorem thenPhase_inv {o : Host.Outcome State Fault Refusal} (h : nextInv o) : nextInv (thenPhase o) := by
  cases o with
  | next t => exact State.inv_of_mask (State.judgePhase_mask rfl t) h
  | fault r => trivial
  | refused r => trivial

/-- What an operation that may find nothing to do gives stands in the canonical form. -/
def optInv : Option State → Prop
  | some t => t.Inv
  | none => True

theorem optInv_none : optInv none := trivial

theorem optInv_some {t : State} (h : t.Inv) : optInv (some t) := h

theorem ite_inv {c : Prop} [Decidable c] {a b : State} (ha : a.Inv) (hb : b.Inv) : (if c then a else b).Inv := by
  split <;> assumption

theorem ite_nextInv {c : Prop} [Decidable c] {a b : Host.Outcome State Fault Refusal} (ha : nextInv a) (hb : nextInv b) :
    nextInv (if c then a else b) := by
  split <;> assumption

theorem inv_of_optInv {o : Option State} {t : State} (h : optInv o) (e : o = some t) : t.Inv := by
  rw [e] at h
  exact h

theorem optInv_of_mask {s : State} {o : Option State} (e : optMask notBog s o = s.mask notBog) (h : s.Inv) : optInv o := by
  cases o with
  | none => trivial
  | some t => exact State.inv_of_mask e h

/-- What an operation that may refuse gives stands in the canonical form. -/
def okInv : Judged State → Prop
  | .ok t => t.Inv
  | .refused _ _ => True

theorem inv_of_okInv {o : Judged State} {t : State} (h : okInv o) (e : o = .ok t) : t.Inv := by
  rw [e] at h
  exact h

theorem okInv_of_mask {s : State} {o : Judged State} (e : Judged.maskOr notBog s o = s.mask notBog) (h : s.Inv) : okInv o := by
  cases o with
  | ok t => exact State.inv_of_mask e h
  | refused a b => trivial

theorem foldl_inv {α : Type} (f : State → α → State) (h : ∀ s x, s.Inv → (f s x).Inv) (l : List α) (s : State) (hs : s.Inv) :
    (l.foldl f s).Inv := by
  induction l generalizing s with
  | nil => exact hs
  | cons a l ih => exact ih _ (h _ _ hs)

/-- Bytes written into a region's store keep the canonical form (R37, R333). -/
theorem State.regWrite_inv (s : State) (r : Nat) (offs : List Nat) (b : List Byte) (h : s.Inv) : (s.regWrite r offs b).Inv := by
  unfold State.regWrite State.Inv Memory.wf
  exact tput_foldl_wf 0 _ _ _ _ h

/-- Clearing a region's header page keeps the canonical form (R333). -/
theorem State.clearHeader_inv (s : State) (r : Nat) (h : s.Inv) : (s.clearHeader r).Inv := by
  unfold State.clearHeader State.Inv Memory.wf
  exact twf_filter 0 _ _ h

end Sys2Proof.Machine
end

