-- ==== Sys2Proof/Laws/Bog.lean ====
section
/-! SUPPORT. Every operation that may write the Bog, one lemma each: it keeps the canonical form. -/

set_option linter.unreachableTactic false
set_option linter.unusedTactic false
set_option linter.unusedSimpArgs false
set_option linter.tactic.unusedName false

namespace Sys2Proof.Machine

theorem State.inv_blk (s : State) (blk' : BlkState) :
    State.Inv { s with blk := blk' } = s.Inv := rfl

theorem State.inv_cmb (s : State) (cmb' : CmbState) :
    State.Inv { s with cmb := cmb' } = s.Inv := rfl

theorem State.inv_cmb_cnv (s : State) (cmb' : CmbState) (cnv' : CnvState) :
    State.Inv { s with cmb := cmb', cnv := cnv' } = s.Inv := rfl

theorem State.inv_cnv (s : State) (cnv' : CnvState) :
    State.Inv { s with cnv := cnv' } = s.Inv := rfl

theorem State.inv_cnv_fio (s : State) (cnv' : CnvState) (fio' : FioState) :
    State.Inv { s with cnv := cnv', fio := fio' } = s.Inv := rfl

theorem State.inv_drn (s : State) (drn' : DrnState) :
    State.Inv { s with drn := drn' } = s.Inv := rfl

theorem State.inv_fio (s : State) (fio' : FioState) :
    State.Inv { s with fio := fio' } = s.Inv := rfl

theorem State.inv_fio_drn (s : State) (fio' : FioState) (drn' : DrnState) :
    State.Inv { s with fio := fio', drn := drn' } = s.Inv := rfl

theorem State.inv_fio_twn (s : State) (fio' : FioState) (twn' : TwnState) :
    State.Inv { s with fio := fio', twn := twn' } = s.Inv := rfl

theorem State.inv_fio_wag (s : State) (fio' : FioState) (wag' : WagState) :
    State.Inv { s with fio := fio', wag := wag' } = s.Inv := rfl

theorem State.inv_freeIdx (s : State) (freeIdx' : Nat) :
    State.Inv { s with freeIdx := freeIdx' } = s.Inv := rfl

theorem State.inv_hif (s : State) (hif' : HifState) :
    State.Inv { s with hif := hif' } = s.Inv := rfl

theorem State.inv_hif_out (s : State) (hif' : HifState) (out' : List Output) :
    State.Inv { s with hif := hif', out := out' } = s.Inv := rfl

theorem State.inv_lcy (s : State) (lcy' : LcyState) :
    State.Inv { s with lcy := lcy' } = s.Inv := rfl

theorem State.inv_leg (s : State) (leg' : LegState) :
    State.Inv { s with leg := leg' } = s.Inv := rfl

theorem State.inv_mir (s : State) (mir' : MirState) :
    State.Inv { s with mir := mir' } = s.Inv := rfl

theorem State.inv_out (s : State) (out' : List Output) :
    State.Inv { s with out := out' } = s.Inv := rfl

theorem State.inv_peat (s : State) (peat' : PeatState) :
    State.Inv { s with peat := peat' } = s.Inv := rfl

theorem State.inv_pending (s : State) (pending' : List Instr) :
    State.Inv { s with pending := pending' } = s.Inv := rfl

theorem State.inv_pw (s : State) (pw' : PowerState) :
    State.Inv { s with pw := pw' } = s.Inv := rfl

theorem State.inv_pw_cnv_drn (s : State) (pw' : PowerState) (cnv' : CnvState) (drn' : DrnState) :
    State.Inv { s with pw := pw', cnv := cnv', drn := drn' } = s.Inv := rfl

theorem State.inv_pw_cnv_peat (s : State) (pw' : PowerState) (cnv' : CnvState) (peat' : PeatState) :
    State.Inv { s with pw := pw', cnv := cnv', peat := peat' } = s.Inv := rfl

theorem State.inv_pw_drn (s : State) (pw' : PowerState) (drn' : DrnState) :
    State.Inv { s with pw := pw', drn := drn' } = s.Inv := rfl

theorem State.inv_pw_fio (s : State) (pw' : PowerState) (fio' : FioState) :
    State.Inv { s with pw := pw', fio := fio' } = s.Inv := rfl

theorem State.inv_regs (s : State) (regs' : Sparse Word) :
    State.Inv { s with regs := regs' } = s.Inv := rfl

theorem State.inv_regs_pw_hif (s : State) (regs' : Sparse Word) (pw' : PowerState) (hif' : HifState) :
    State.Inv { s with regs := regs', pw := pw', hif := hif' } = s.Inv := rfl

theorem State.inv_regs_time_pw_stp_cmb_blk_cnv_fio_mir_wag_twn_lcy_seen (s : State) (regs' : Sparse Word) (time' : TimeState) (pw' : PowerState) (stp' : StpState) (cmb' : CmbState) (blk' : BlkState) (cnv' : CnvState) (fio' : FioState) (mir' : MirState) (wag' : WagState) (twn' : TwnState) (lcy' : LcyState) (seen' : FieldView) :
    State.Inv { s with regs := regs', time := time', pw := pw', stp := stp', cmb := cmb', blk := blk', cnv := cnv', fio := fio', mir := mir', wag := wag', twn := twn', lcy := lcy', seen := seen' } = s.Inv := rfl

theorem State.inv_saf (s : State) (saf' : SafState) :
    State.Inv { s with saf := saf' } = s.Inv := rfl

theorem State.inv_seen (s : State) (seen' : FieldView) :
    State.Inv { s with seen := seen' } = s.Inv := rfl

theorem State.inv_stp (s : State) (stp' : StpState) :
    State.Inv { s with stp := stp' } = s.Inv := rfl

theorem State.inv_stp_cmb_blk_fio_wag (s : State) (stp' : StpState) (cmb' : CmbState) (blk' : BlkState) (fio' : FioState) (wag' : WagState) :
    State.Inv { s with stp := stp', cmb := cmb', blk := blk', fio := fio', wag := wag' } = s.Inv := rfl

theorem State.inv_time (s : State) (time' : TimeState) :
    State.Inv { s with time := time' } = s.Inv := rfl

theorem State.inv_time_freeIdx (s : State) (time' : TimeState) (freeIdx' : Nat) :
    State.Inv { s with time := time', freeIdx := freeIdx' } = s.Inv := rfl

theorem State.inv_time_pw (s : State) (time' : TimeState) (pw' : PowerState) :
    State.Inv { s with time := time', pw := pw' } = s.Inv := rfl

theorem State.inv_time_pw_cnv_fio_twn_saf_drn_lcy (s : State) (time' : TimeState) (pw' : PowerState) (cnv' : CnvState) (fio' : FioState) (twn' : TwnState) (saf' : SafState) (drn' : DrnState) (lcy' : LcyState) :
    State.Inv { s with time := time', pw := pw', cnv := cnv', fio := fio', twn := twn', saf := saf', drn := drn', lcy := lcy' } = s.Inv := rfl

theorem State.inv_time_pw_hif_stp_cmb_blk_cnv_fio_mir_wag_twn_leg (s : State) (time' : TimeState) (pw' : PowerState) (hif' : HifState) (stp' : StpState) (cmb' : CmbState) (blk' : BlkState) (cnv' : CnvState) (fio' : FioState) (mir' : MirState) (wag' : WagState) (twn' : TwnState) (leg' : LegState) :
    State.Inv { s with time := time', pw := pw', hif := hif', stp := stp', cmb := cmb', blk := blk', cnv := cnv', fio := fio', mir := mir', wag := wag', twn := twn', leg := leg' } = s.Inv := rfl

theorem State.inv_twn (s : State) (twn' : TwnState) :
    State.Inv { s with twn := twn' } = s.Inv := rfl

theorem State.inv_wag (s : State) (wag' : WagState) :
    State.Inv { s with wag := wag' } = s.Inv := rfl

theorem State.viaHif_inv (s : State) (f : HxCtx → Hx → Hx) (hs : s.Inv) :
    (State.viaHif s f).Inv :=
  State.inv_of_mask (State.viaHif_mask (by with_unfolding_all rfl) s f) hs

theorem State.raise_inv (s : State) (code : Byte) (result : BitVec 64) (hs : s.Inv) :
    (State.raise s code result).Inv :=
  State.inv_of_mask (State.raise_mask (by with_unfolding_all rfl) s code result) hs

theorem State.sendDown_inv (s : State) (it : DownItem) (hs : s.Inv) :
    (State.sendDown s it).Inv :=
  State.inv_of_mask (State.sendDown_mask (by with_unfolding_all rfl) s it) hs

theorem State.countLogic_inv (s : State) (i : Nat) (hs : s.Inv) :
    (State.countLogic s i).Inv :=
  State.inv_of_mask (State.countLogic_mask (by with_unfolding_all rfl) s i) hs

theorem State.commandOut_inv (s : State) (it : DownItem) (hs : s.Inv) :
    (State.commandOut s it).Inv :=
  State.inv_of_mask (State.commandOut_mask (by with_unfolding_all rfl) s it) hs

theorem State.tookFree_inv (s : State) (hs : s.Inv) :
    (State.tookFree s).Inv :=
  State.inv_of_mask (State.tookFree_mask (by with_unfolding_all rfl) s) hs

theorem State.hashWrite_inv (s : State) (t : Time) (code : Nat) (v : Int) (hs : s.Inv) :
    (State.hashWrite s t code v).Inv :=
  State.inv_of_mask (State.hashWrite_mask (by with_unfolding_all rfl) s t code v) hs

theorem State.finish_inv (s : State) (p : Nat) (sub : Word) (code : Byte) (result : BitVec 64) (hs : s.Inv) :
    (State.finish s p sub code result).Inv :=
  State.inv_of_mask (State.finish_mask (by with_unfolding_all rfl) s p sub code result) hs

theorem State.emitOut_inv (s : State) (o : Output) (hs : s.Inv) :
    (State.emitOut s o).Inv :=
  State.inv_of_mask (State.emitOut_mask (by with_unfolding_all rfl) s o) hs

theorem State.snapOut_inv (s : State) (rec : List Byte) (hs : s.Inv) :
    (State.snapOut s rec).Inv :=
  State.inv_of_mask (State.snapOut_mask (by with_unfolding_all rfl) s rec) hs

theorem State.regate_inv (s : State) (hs : s.Inv) :
    (State.regate s).Inv :=
  State.inv_of_mask (State.regate_mask (by with_unfolding_all rfl) s) hs

theorem State.takeCapture_inv (s : State) (e : Nat) (pos : Word) (t : Time) (hs : s.Inv) :
    (State.takeCapture s e pos t).Inv :=
  State.inv_of_mask (State.takeCapture_mask (by with_unfolding_all rfl) s e pos t) hs

theorem doPulseTableLoad_inv (p : Pair) (s : State) (hs : s.Inv) :
    nextInv (doPulseTableLoad p s) :=
  nextInv_of_mask (doPulseTableLoad_mask (by with_unfolding_all rfl) p s) hs

theorem doInputTableLoad_inv (p : Pair) (s : State) (hs : s.Inv) :
    nextInv (doInputTableLoad p s) :=
  nextInv_of_mask (doInputTableLoad_mask (by with_unfolding_all rfl) p s) hs

theorem State.shiftLatches_inv (s : State) (hs : s.Inv) :
    (State.shiftLatches s).Inv :=
  State.inv_of_mask (State.shiftLatches_mask (by with_unfolding_all rfl) s) hs

theorem State.takeEncoders_inv (s : State) (pos : List Word) (hs : s.Inv) :
    (State.takeEncoders s pos).Inv :=
  State.inv_of_mask (State.takeEncoders_mask (by with_unfolding_all rfl) s pos) hs

theorem doEncoderTableLoad_inv (p : Pair) (s : State) (hs : s.Inv) :
    nextInv (doEncoderTableLoad p s) :=
  nextInv_of_mask (doEncoderTableLoad_mask (by with_unfolding_all rfl) p s) hs

theorem doHighSideTableLoad_inv (p : Pair) (s : State) (hs : s.Inv) :
    nextInv (doHighSideTableLoad p s) :=
  nextInv_of_mask (doHighSideTableLoad_mask (by with_unfolding_all rfl) p s) hs

theorem doHoldPolicyTableLoad_inv (p : Pair) (s : State) (hs : s.Inv) :
    nextInv (doHoldPolicyTableLoad p s) :=
  nextInv_of_mask (doHoldPolicyTableLoad_mask (by with_unfolding_all rfl) p s) hs

theorem State.latchEncs_inv (s : State) (n : Nat) (readings : List EncReading) (hs : s.Inv) :
    (State.latchEncs s n readings).Inv :=
  State.inv_of_mask (State.latchEncs_mask (by with_unfolding_all rfl) s n readings) hs

theorem doProfileTableLoad_inv (p : Pair) (s : State) (hs : s.Inv) :
    nextInv (doProfileTableLoad p s) :=
  nextInv_of_mask (doProfileTableLoad_mask (by with_unfolding_all rfl) p s) hs

theorem doHsClrFault_inv (p : Pair) (s : State) (hs : s.Inv) :
    nextInv (doHsClrFault p s) :=
  nextInv_of_mask (doHsClrFault_mask (by with_unfolding_all rfl) p s) hs

theorem State.applyDacTable_inv (s : State) (hs : s.Inv) :
    (State.applyDacTable s).Inv :=
  State.inv_of_mask (State.applyDacTable_mask (by with_unfolding_all rfl) s) hs

theorem doCalMeasure_inv (p : Pair) (s : State) (hs : s.Inv) :
    nextInv (doCalMeasure p s) :=
  nextInv_of_mask (doCalMeasure_mask (by with_unfolding_all rfl) p s) hs

theorem doSkewLoad_inv (p : Pair) (s : State) (hs : s.Inv) :
    nextInv (doSkewLoad p s) :=
  nextInv_of_mask (doSkewLoad_mask (by with_unfolding_all rfl) p s) hs

theorem doCoefficientLoad_inv (p : Pair) (s : State) (hs : s.Inv) :
    nextInv (doCoefficientLoad p s) :=
  nextInv_of_mask (doCoefficientLoad_mask (by with_unfolding_all rfl) p s) hs

theorem State.applyCal_inv (s : State) (hs : s.Inv) :
    (State.applyCal s).Inv :=
  State.inv_of_mask (State.applyCal_mask (by with_unfolding_all rfl) s) hs

theorem doScanListLoad_inv (p : Pair) (s : State) (hs : s.Inv) :
    nextInv (doScanListLoad p s) :=
  nextInv_of_mask (doScanListLoad_mask (by with_unfolding_all rfl) p s) hs

theorem State.convPattern_inv (s : State) (hs : s.Inv) :
    (State.convPattern s).Inv :=
  State.inv_of_mask (State.convPattern_mask (by with_unfolding_all rfl) s) hs

theorem doDacCoefficientLoad_inv (p : Pair) (s : State) (hs : s.Inv) :
    nextInv (doDacCoefficientLoad p s) :=
  nextInv_of_mask (doDacCoefficientLoad_mask (by with_unfolding_all rfl) p s) hs

theorem doRotate_inv (p : Pair) (s : State) (hs : s.Inv) :
    nextInv (doRotate p s) :=
  nextInv_of_mask (doRotate_mask (by with_unfolding_all rfl) p s) hs

theorem doUrgent_inv (p : Pair) (s : State) (hs : s.Inv) :
    nextInv (doUrgent p s) :=
  nextInv_of_mask (doUrgent_mask (by with_unfolding_all rfl) p s) hs

theorem State.startConvPeriod_inv (s : State) (n : Nat) (hs : s.Inv) :
    (State.startConvPeriod s n).Inv :=
  State.inv_of_mask (State.startConvPeriod_mask (by with_unfolding_all rfl) s n) hs

theorem doChannelTableLoad_inv (p : Pair) (s : State) (hs : s.Inv) :
    nextInv (doChannelTableLoad p s) :=
  nextInv_of_mask (doChannelTableLoad_mask (by with_unfolding_all rfl) p s) hs

theorem doDacTableLoad_inv (p : Pair) (s : State) (hs : s.Inv) :
    nextInv (doDacTableLoad p s) :=
  nextInv_of_mask (doDacTableLoad_mask (by with_unfolding_all rfl) p s) hs

theorem State.endConvPeriod_inv (s : State) (n : Nat) (t : Time) (hs : s.Inv) :
    (State.endConvPeriod s n t).Inv :=
  State.inv_of_mask (State.endConvPeriod_mask (by with_unfolding_all rfl) s n t) hs

theorem State.dropSlotClaims_inv (s : State) (k : Nat) (hs : s.Inv) :
    (State.dropSlotClaims s k).Inv :=
  State.inv_of_mask (State.dropSlotClaims_mask (by with_unfolding_all rfl) s k) hs

theorem State.modSlot_inv (s : State) (k : Nat) (f : SlotRt → SlotRt) (hs : s.Inv) :
    (State.modSlot s k f).Inv :=
  State.inv_of_mask (State.modSlot_mask (by with_unfolding_all rfl) s k f) hs

theorem State.recordDone_inv (s : State) (id : Nat) (sup : Option Nat) (hs : s.Inv) :
    (State.recordDone s id sup).Inv :=
  State.inv_of_mask (State.recordDone_mask (by with_unfolding_all rfl) s id sup) hs

theorem State.settleLoads_inv (s : State) (hs : s.Inv) :
    (State.settleLoads s).Inv :=
  State.inv_of_mask (State.settleLoads_mask (by with_unfolding_all rfl) s) hs

theorem doModelTableLoad_inv (p : Pair) (s : State) (hs : s.Inv) :
    nextInv (doModelTableLoad p s) :=
  nextInv_of_mask (doModelTableLoad_mask (by with_unfolding_all rfl) p s) hs

theorem doMicroprogramLoad_inv (p : Pair) (s : State) (hs : s.Inv) :
    nextInv (doMicroprogramLoad p s) :=
  nextInv_of_mask (doMicroprogramLoad_mask (by with_unfolding_all rfl) p s) hs

theorem doSlotTableLoad_inv (p : Pair) (s : State) (hs : s.Inv) :
    nextInv (doSlotTableLoad p s) :=
  nextInv_of_mask (doSlotTableLoad_mask (by with_unfolding_all rfl) p s) hs

theorem State.confirmActivation_inv (s : State) (hs : s.Inv) :
    (State.confirmActivation s).Inv :=
  State.inv_of_mask (State.confirmActivation_mask (by with_unfolding_all rfl) s) hs

theorem State.judgePhase_inv (s : State) (hs : s.Inv) :
    (State.judgePhase s).Inv :=
  State.inv_of_mask (State.judgePhase_mask (by with_unfolding_all rfl) s) hs

theorem State.modReg_inv (s : State) (r : Nat) (f : RegionRt → RegionRt) (hs : s.Inv) :
    (State.modReg s r f).Inv :=
  State.inv_of_mask (State.modReg_mask (by with_unfolding_all rfl) s r f) hs

theorem State.noteInput_inv (s : State) (i : Nat) (v : Bool) (hs : s.Inv) :
    (State.noteInput s i v).Inv :=
  State.inv_of_mask (State.noteInput_mask (by with_unfolding_all rfl) s i v) hs

theorem State.deliver_inv (s : State) (r : Nat) (hs : s.Inv) :
    (State.deliver s r).Inv :=
  State.inv_of_mask (State.deliver_mask (by with_unfolding_all rfl) s r) hs

theorem State.frameLost_inv (s : State) (r : Nat) (hs : s.Inv) :
    (State.frameLost s r).Inv :=
  State.inv_of_mask (State.frameLost_mask (by with_unfolding_all rfl) s r) hs

theorem State.mirUrgent_inv (s : State) (r : Nat) (hs : s.Inv) :
    (State.mirUrgent s r).Inv :=
  State.inv_of_mask (State.mirUrgent_mask (by with_unfolding_all rfl) s r) hs

theorem doLineTableLoad_inv (p : Pair) (s : State) (hs : s.Inv) :
    nextInv (doLineTableLoad p s) :=
  nextInv_of_mask (doLineTableLoad_mask (by with_unfolding_all rfl) p s) hs

theorem doMireStop_inv (p : Pair) (s : State) (hs : s.Inv) :
    nextInv (doMireStop p s) :=
  nextInv_of_mask (doMireStop_mask (by with_unfolding_all rfl) p s) hs

theorem State.lapse_inv (s : State) (r : Nat) (hs : s.Inv) :
    (State.lapse s r).Inv :=
  State.inv_of_mask (State.lapse_mask (by with_unfolding_all rfl) s r) hs

theorem doMireArm_inv (p : Pair) (s : State) (hs : s.Inv) :
    nextInv (doMireArm p s) :=
  nextInv_of_mask (doMireArm_mask (by with_unfolding_all rfl) p s) hs

theorem doRegionTableLoad_inv (p : Pair) (s : State) (hs : s.Inv) :
    nextInv (doRegionTableLoad p s) :=
  nextInv_of_mask (doRegionTableLoad_mask (by with_unfolding_all rfl) p s) hs

theorem doMaskTableLoad_inv (p : Pair) (s : State) (hs : s.Inv) :
    nextInv (doMaskTableLoad p s) :=
  nextInv_of_mask (doMaskTableLoad_mask (by with_unfolding_all rfl) p s) hs

theorem State.mirPattern_inv (s : State) (n : Nat) (hs : s.Inv) :
    (State.mirPattern s n).Inv :=
  State.inv_of_mask (State.mirPattern_mask (by with_unfolding_all rfl) s n) hs

theorem State.countEval_inv (s : State) (hs : s.Inv) :
    (State.countEval s).Inv :=
  State.inv_of_mask (State.countEval_mask (by with_unfolding_all rfl) s) hs

theorem State.evalOutput_inv (s : State) (k n : Nat) (r : SlotRt) (i : EvIn) (e : Ev) (tOut tEnd : Time) (hs : s.Inv) :
    (State.evalOutput s k n r i e tOut tEnd).Inv :=
  State.inv_of_mask (State.evalOutput_mask (by with_unfolding_all rfl) s k n r i e tOut tEnd) hs

theorem State.handoverStep_inv (s : State) (k : Nat) (t0 tOut fin : Time) (hs : s.Inv) :
    (State.handoverStep s k t0 tOut fin).Inv :=
  State.inv_of_mask (State.handoverStep_mask (by with_unfolding_all rfl) s k t0 tOut fin) hs

theorem State.supEvents_inv (s : State) (k : Nat) (res : Int) (l : List SupEvt) (hs : s.Inv) :
    (State.supEvents s k res l).Inv :=
  State.inv_of_mask (State.supEvents_mask (by with_unfolding_all rfl) s k res l) hs

theorem doInputMapLoad_inv (p : Pair) (s : State) (hs : s.Inv) :
    nextInv (doInputMapLoad p s) :=
  nextInv_of_mask (doInputMapLoad_mask (by with_unfolding_all rfl) p s) hs

theorem doLoadImage_inv (p : Pair) (s : State) (hs : s.Inv) :
    nextInv (doLoadImage p s) :=
  nextInv_of_mask (doLoadImage_mask (by with_unfolding_all rfl) p s) hs

theorem doOutputMapLoad_inv (p : Pair) (s : State) (hs : s.Inv) :
    nextInv (doOutputMapLoad p s) :=
  nextInv_of_mask (doOutputMapLoad_mask (by with_unfolding_all rfl) p s) hs

theorem State.blockEvent_inv (s : State) (n : Nat) (arg : Int) (hs : s.Inv) :
    (State.blockEvent s n arg).Inv :=
  State.inv_of_mask (State.blockEvent_mask (by with_unfolding_all rfl) s n arg) hs

theorem doExchange_inv (p : Pair) (s : State) (hs : s.Inv) :
    nextInv (doExchange p s) :=
  nextInv_of_mask (doExchange_mask (by with_unfolding_all rfl) p s) hs

theorem State.keepGrid_inv (s : State) (hs : s.Inv) :
    (State.keepGrid s).Inv :=
  State.inv_of_mask (State.keepGrid_mask (by with_unfolding_all rfl) s) hs

theorem State.setWag_inv (s : State) (g : WagState) (hs : s.Inv) :
    (State.setWag s g).Inv :=
  State.inv_of_mask (State.setWag_mask (by with_unfolding_all rfl) s g) hs

theorem State.modStep_inv (s : State) (seq : Word) (f : StepEntry → StepEntry) (hs : s.Inv) :
    (State.modStep s seq f).Inv :=
  State.inv_of_mask (State.modStep_mask (by with_unfolding_all rfl) s seq f) hs

theorem State.modPart_inv (s : State) (seq : Word) (f : Part → Part) (hs : s.Inv) :
    (State.modPart s seq f).Inv :=
  State.inv_of_mask (State.modPart_mask (by with_unfolding_all rfl) s seq f) hs

theorem State.sendChange_inv (s : State) (eff : Nat) (desc data : List Byte) (hs : s.Inv) :
    (State.sendChange s eff desc data).Inv :=
  State.inv_of_mask (State.sendChange_mask (by with_unfolding_all rfl) s eff desc data) hs

theorem State.unclaimActions_inv (s : State) (seq : Word) (hs : s.Inv) :
    (State.unclaimActions s seq).Inv :=
  State.inv_of_mask (State.unclaimActions_mask (by with_unfolding_all rfl) s seq) hs

theorem State.checkStep_inv (s : State) (seq : Word) (hs : s.Inv) :
    (State.checkStep s seq).Inv :=
  State.inv_of_mask (State.checkStep_mask (by with_unfolding_all rfl) s seq) hs

theorem State.launchRamp_inv (s : State) (k : Nat) (v : Int) (dur : Nat) (instant : Time) (hs : s.Inv) :
    (State.launchRamp s k v dur instant).Inv :=
  State.inv_of_mask (State.launchRamp_mask (by with_unfolding_all rfl) s k v dur instant) hs

theorem State.launchSetpoint_inv (s : State) (k : Nat) (v : Int) (hs : s.Inv) :
    (State.launchSetpoint s k v).Inv :=
  State.inv_of_mask (State.launchSetpoint_mask (by with_unfolding_all rfl) s k v) hs

theorem State.handPart_inv (s : State) (x : Part) (hs : s.Inv) :
    (State.handPart s x).Inv :=
  State.inv_of_mask (State.handPart_mask (by with_unfolding_all rfl) s x) hs

theorem State.handStep_inv (s : State) (e : StepEntry) (hs : s.Inv) :
    (State.handStep s e).Inv :=
  State.inv_of_mask (State.handStep_mask (by with_unfolding_all rfl) s e) hs

theorem State.recallStep_inv (s : State) (seq : Word) (hs : s.Inv) :
    (State.recallStep s seq).Inv :=
  State.inv_of_mask (State.recallStep_mask (by with_unfolding_all rfl) s seq) hs

theorem State.enterStep_inv (s : State) (k : StepEntry) (hs : s.Inv) :
    (State.enterStep s k).Inv :=
  State.inv_of_mask (State.enterStep_mask (by with_unfolding_all rfl) s k) hs

theorem State.cancelStep_inv (s : State) (k : StepEntry) (hs : s.Inv) :
    (State.cancelStep s k).Inv :=
  State.inv_of_mask (State.cancelStep_mask (by with_unfolding_all rfl) s k) hs

theorem State.setTime_inv (s : State) (t : TimeState) (hs : s.Inv) :
    (State.setTime s t).Inv :=
  State.inv_of_mask (State.setTime_mask (by with_unfolding_all rfl) s t) hs

theorem doTimeSet_inv (p : Pair) (s : State) (hs : s.Inv) :
    nextInv (doTimeSet p s) :=
  nextInv_of_mask (doTimeSet_mask (by with_unfolding_all rfl) p s) hs

theorem State.leaveLink_inv (s : State) (l : LinkSt) (hs : s.Inv) :
    (State.leaveLink s l).Inv :=
  State.inv_of_mask (State.leaveLink_mask (by with_unfolding_all rfl) s l) hs

theorem State.takeRole_inv (s : State) (hs : s.Inv) :
    (State.takeRole s).Inv :=
  State.inv_of_mask (State.takeRole_mask (by with_unfolding_all rfl) s) hs

theorem doModeChange_inv (p : Pair) (s : State) (hs : s.Inv) :
    nextInv (doModeChange p s) :=
  nextInv_of_mask (doModeChange_mask (by with_unfolding_all rfl) p s) hs

theorem doReceiveMapLoad_inv (p : Pair) (s : State) (hs : s.Inv) :
    nextInv (doReceiveMapLoad p s) :=
  nextInv_of_mask (doReceiveMapLoad_mask (by with_unfolding_all rfl) p s) hs

theorem doStationTableLoad_inv (p : Pair) (s : State) (hs : s.Inv) :
    nextInv (doStationTableLoad p s) :=
  nextInv_of_mask (doStationTableLoad_mask (by with_unfolding_all rfl) p s) hs

theorem doSegmentTableLoad_inv (p : Pair) (s : State) (hs : s.Inv) :
    nextInv (doSegmentTableLoad p s) :=
  nextInv_of_mask (doSegmentTableLoad_mask (by with_unfolding_all rfl) p s) hs

theorem doScheduleLoad_inv (p : Pair) (s : State) (hs : s.Inv) :
    nextInv (doScheduleLoad p s) :=
  nextInv_of_mask (doScheduleLoad_mask (by with_unfolding_all rfl) p s) hs

theorem State.takeConfirm_inv (s : State) (loop : Nat) (th : Time) (hs : s.Inv) :
    (State.takeConfirm s loop th).Inv :=
  State.inv_of_mask (State.takeConfirm_mask (by with_unfolding_all rfl) s loop th) hs

theorem State.resendField_inv (s : State) (hs : s.Inv) :
    (State.resendField s).Inv :=
  State.inv_of_mask (State.resendField_mask (by with_unfolding_all rfl) s) hs

theorem doRecover_inv (p : Pair) (s : State) (hs : s.Inv) :
    nextInv (doRecover p s) :=
  nextInv_of_mask (doRecover_mask (by with_unfolding_all rfl) p s) hs

theorem doHpAck_inv (p : Pair) (s : State) (hs : s.Inv) :
    nextInv (doHpAck p s) :=
  nextInv_of_mask (doHpAck_mask (by with_unfolding_all rfl) p s) hs

theorem doGpWrite_inv (p : Pair) (s : State) (hs : s.Inv) :
    nextInv (doGpWrite p s) :=
  nextInv_of_mask (doGpWrite_mask (by with_unfolding_all rfl) p s) hs

theorem doWitnessTableLoad_inv (p : Pair) (s : State) (hs : s.Inv) :
    nextInv (doWitnessTableLoad p s) :=
  nextInv_of_mask (doWitnessTableLoad_mask (by with_unfolding_all rfl) p s) hs

theorem runTable_inv (p : Pair) (block num : Nat) (s : State) (hs : s.Inv) :
    (runTable p block num s).Inv :=
  State.inv_of_mask (runTable_mask (by with_unfolding_all rfl) p block num s) hs

theorem State.setTwn_inv (s : State) (t : TwnState) (hs : s.Inv) :
    (State.setTwn s t).Inv :=
  State.inv_of_mask (State.setTwn_mask (by with_unfolding_all rfl) s t) hs

theorem State.carryLink_inv (s : State) (hs : s.Inv) :
    (State.carryLink s).Inv :=
  State.inv_of_mask (State.carryLink_mask (by with_unfolding_all rfl) s) hs

theorem State.refreshAct_inv (s : State) (hs : s.Inv) :
    (State.refreshAct s).Inv :=
  State.inv_of_mask (State.refreshAct_mask (by with_unfolding_all rfl) s) hs

theorem State.loseTb3_inv (s : State) (hs : s.Inv) :
    (State.loseTb3 s).Inv :=
  State.inv_of_mask (State.loseTb3_mask (by with_unfolding_all rfl) s) hs

theorem State.linkFrame_inv (s : State) (hs : s.Inv) :
    (State.linkFrame s).Inv :=
  State.inv_of_mask (State.linkFrame_mask (by with_unfolding_all rfl) s) hs

theorem State.sendLease_inv (s : State) (type : Nat) (member : Bool) (seq : BitVec 8) (n : Nat) (hs : s.Inv) :
    (State.sendLease s type member seq n).Inv :=
  State.inv_of_mask (State.sendLease_mask (by with_unfolding_all rfl) s type member seq n) hs

theorem State.leaseWindow_inv (s : State) (type : Nat) (seq : BitVec 8) (n : Nat) (hs : s.Inv) :
    (State.leaseWindow s type seq n).Inv :=
  State.inv_of_mask (State.leaseWindow_mask (by with_unfolding_all rfl) s type seq n) hs

theorem State.snapFault_inv (s : State) (cause : Nat) (hs : s.Inv) :
    (State.snapFault s cause).Inv :=
  State.inv_of_mask (State.snapFault_mask (by with_unfolding_all rfl) s cause) hs

theorem State.takeHealth_inv (s : State) (h : BitVec 3) (hs : s.Inv) :
    (State.takeHealth s h).Inv :=
  State.inv_of_mask (State.takeHealth_mask (by with_unfolding_all rfl) s h) hs

theorem State.sendImage_inv (s : State) (n : Nat) (hs : s.Inv) :
    (State.sendImage s n).Inv :=
  State.inv_of_mask (State.sendImage_mask (by with_unfolding_all rfl) s n) hs

theorem State.healthRule_inv (s : State) (hs : s.Inv) :
    (State.healthRule s).Inv :=
  State.inv_of_mask (State.healthRule_mask (by with_unfolding_all rfl) s) hs

theorem State.endSnapshot_inv (s : State) (n : Nat) (hs : s.Inv) :
    (State.endSnapshot s n).Inv :=
  State.inv_of_mask (State.endSnapshot_mask (by with_unfolding_all rfl) s n) hs

theorem State.reportClamps_inv (s : State) (hs : s.Inv) :
    (State.reportClamps s).Inv :=
  State.inv_of_mask (State.reportClamps_mask (by with_unfolding_all rfl) s) hs

theorem State.applyFioTables_inv (s : State) (hs : s.Inv) :
    (State.applyFioTables s).Inv :=
  State.inv_of_mask (State.applyFioTables_mask (by with_unfolding_all rfl) s) hs

theorem State.fieldDown_inv (s : State) (hs : s.Inv) :
    (State.fieldDown s).Inv :=
  State.inv_of_mask (State.fieldDown_mask (by with_unfolding_all rfl) s) hs

theorem State.coldCounters_inv (s : State) (hs : s.Inv) :
    (State.coldCounters s).Inv :=
  State.inv_of_mask (State.coldCounters_mask (by with_unfolding_all rfl) s) hs

theorem State.turnCold_inv (s : State) (hs : s.Inv) :
    (State.turnCold s).Inv :=
  State.inv_of_mask (State.turnCold_mask (by with_unfolding_all rfl) s) hs

theorem State.setPw_inv (s : State) (p : PowerState) (hs : s.Inv) :
    (State.setPw s p).Inv :=
  State.inv_of_mask (State.setPw_mask (by with_unfolding_all rfl) s p) hs

theorem State.adoptImage_inv (s : State) (warm : Bool) (old : TaskRt) (t id : Nat) (hs : s.Inv) :
    (State.adoptImage s warm old t id).Inv :=
  State.inv_of_mask (State.adoptImage_mask (by with_unfolding_all rfl) s warm old t id) hs

theorem State.persistReg_inv (s : State) (off : Nat) (w : Word) (hs : s.Inv) :
    (State.persistReg s off w).Inv :=
  State.inv_of_mask (State.persistReg_mask (by with_unfolding_all rfl) s off w) hs

theorem State.bootFallback_inv (s : State) (hs : s.Inv) :
    (State.bootFallback s).Inv :=
  State.inv_of_mask (State.bootFallback_mask (by with_unfolding_all rfl) s) hs

theorem State.writeHeader_inv (s : State) (r : Nat) (hs : s.Inv) : (State.writeHeader s r).Inv := by
  unfold State.writeHeader
  repeat' first
    | with_reducible assumption
    | (extract_lets +onlyGivenNames x; refine (fun hx : State.Inv x => ?_) ?_; clear_value x; rename' x => y; rotate_left; dsimp -zeta only [x]; clear x; rotate_left)
    | (extract_lets +onlyGivenNames x; clear_value x; rename' x => y)
    | with_reducible refine ite_inv ?_ ?_
    | with_reducible refine State.regWrite_inv _ _ _ _ ?_
    | split
    | with_reducible refine foldl_inv _ (fun s x h => ?_) _ _ ?_

theorem State.putFrame_inv (s : State) (r type flags : Nat) (stamp : Time) (payload : List Byte) (last : Bool)
    (hs : s.Inv) : optInv (State.putFrame s r type flags stamp payload last) := by
  unfold State.putFrame
  repeat' first
    | with_reducible assumption
    | (extract_lets +onlyGivenNames x; refine (fun hx : State.Inv x => ?_) ?_; clear_value x; rename' x => y; rotate_left; dsimp -zeta only [x]; clear x; rotate_left)
    | (extract_lets +onlyGivenNames x; clear_value x; rename' x => y)
    | with_reducible refine ite_inv ?_ ?_
    | with_reducible refine State.writeHeader_inv _ _ ?_
    | with_reducible refine State.modReg_inv _ _ _ ?_
    | with_reducible refine State.regWrite_inv _ _ _ _ ?_
    | with_reducible exact optInv_none
    | with_reducible refine optInv_some ?_
    | split
    | with_reducible refine foldl_inv _ (fun s x h => ?_) _ _ ?_

theorem State.putOther_inv (s : State) (r type : Nat) (payload : List Byte) (last : Bool) (hs : s.Inv) :
    (State.putOther s r type payload last).Inv := by
  unfold State.putOther
  repeat' first
    | with_reducible assumption
    | (extract_lets +onlyGivenNames x; refine (fun hx : State.Inv x => ?_) ?_; clear_value x; rename' x => y; rotate_left; dsimp -zeta only [x]; clear x; rotate_left)
    | (extract_lets +onlyGivenNames x; clear_value x; rename' x => y)
    | with_reducible refine ite_inv ?_ ?_
    | with_reducible refine State.frameLost_inv _ _ ?_
    | with_reducible refine inv_of_optInv (State.putFrame_inv _ _ _ _ _ _ _ ?_) (by assumption)
    | split
    | with_reducible refine foldl_inv _ (fun s x h => ?_) _ _ ?_

theorem State.endCapture_inv (s : State) (r : Nat) (byMask : Bool) (hs : s.Inv) :
    (State.endCapture s r byMask).Inv := by
  unfold State.endCapture
  repeat' first
    | with_reducible assumption
    | (extract_lets +onlyGivenNames x; refine (fun hx : State.Inv x => ?_) ?_; clear_value x; rename' x => y; rotate_left; dsimp -zeta only [x]; clear x; rotate_left)
    | (extract_lets +onlyGivenNames x; clear_value x; rename' x => y)
    | simp -zeta only [State.inv_mir]
    | with_reducible refine ite_inv ?_ ?_
    | with_reducible refine State.raise_inv _ _ _ ?_
    | with_reducible refine State.deliver_inv _ _ ?_
    | with_reducible refine State.writeHeader_inv _ _ ?_
    | with_reducible refine State.tookFree_inv _ ?_
    | with_reducible refine State.putOther_inv _ _ _ _ _ ?_
    | with_reducible refine State.frameLost_inv _ _ ?_
    | with_reducible refine State.modReg_inv _ _ _ ?_
    | with_reducible refine inv_of_optInv (State.putFrame_inv _ _ _ _ _ _ _ ?_) (by assumption)
    | split
    | with_reducible refine foldl_inv _ (fun s x h => ?_) _ _ ?_

theorem State.setTrigFlag_inv (s : State) (r idx : Nat) (hs : s.Inv) : (State.setTrigFlag s r idx).Inv := by
  unfold State.setTrigFlag
  repeat' first
    | with_reducible assumption
    | (extract_lets +onlyGivenNames x; refine (fun hx : State.Inv x => ?_) ?_; clear_value x; rename' x => y; rotate_left; dsimp -zeta only [x]; clear x; rotate_left)
    | (extract_lets +onlyGivenNames x; clear_value x; rename' x => y)
    | with_reducible refine ite_inv ?_ ?_
    | with_reducible refine State.regWrite_inv _ _ _ _ ?_
    | split
    | with_reducible refine foldl_inv _ (fun s x h => ?_) _ _ ?_

theorem State.regionTrigger_inv (s : State) (r : Nat) (st : Stamp) (a b : Bool) (method : Nat) (hs : s.Inv) :
    (State.regionTrigger s r st a b method).1.Inv := by
  unfold State.regionTrigger
  repeat' first
    | with_reducible assumption
    | (extract_lets +onlyGivenNames x; refine (fun hx : State.Inv x => ?_) ?_; clear_value x; rename' x => y; rotate_left; dsimp -zeta only [x]; clear x; rotate_left)
    | (extract_lets +onlyGivenNames x; clear_value x; rename' x => y)
    | with_reducible refine ite_inv ?_ ?_
    | with_reducible refine State.endCapture_inv _ _ _ ?_
    | with_reducible refine State.setTrigFlag_inv _ _ _ ?_
    | with_reducible refine State.raise_inv _ _ _ ?_
    | with_reducible refine State.mirUrgent_inv _ _ ?_
    | with_reducible refine State.modReg_inv _ _ _ ?_
    | split
    | with_reducible refine foldl_inv _ (fun s x h => ?_) _ _ ?_

theorem State.sourceEvent_inv (fuel r : Nat) (isB : Bool) (st : Stamp) (m : Nat) (s : State) (hs : s.Inv) :
    (State.sourceEvent fuel r isB st m s).Inv := by
  induction fuel generalizing r isB st m s with
  | zero => exact hs
  | succ fuel ih =>
    unfold State.sourceEvent
    try dsimp only
    repeat' first
      | with_reducible assumption
      | with_reducible refine ite_inv ?_ ?_
      | with_reducible refine ih _ _ _ _ _ ?_
      | with_reducible refine State.regionTrigger_inv _ _ _ _ _ _ ?_
      | with_reducible refine State.inv_of_mask (State.modReg_mask rfl _ _ _) ?_
      | split
      | with_reducible refine foldl_inv _ (fun s x h => ?_) _ _ ?_

theorem State.levelSources_inv (s : State) (v : Nat → Option Int) (t : Stamp) (hs : s.Inv) :
    (State.levelSources s v t).Inv := by
  unfold State.levelSources
  repeat' first
    | with_reducible assumption
    | (extract_lets +onlyGivenNames x; refine (fun hx : State.Inv x => ?_) ?_; clear_value x; rename' x => y; rotate_left; dsimp -zeta only [x]; clear x; rotate_left)
    | (extract_lets +onlyGivenNames x; clear_value x; rename' x => y)
    | with_reducible refine ite_inv ?_ ?_
    | with_reducible refine State.sourceEvent_inv _ _ _ _ _ _ ?_
    | with_reducible refine State.modReg_inv _ _ _ ?_
    | split
    | with_reducible refine foldl_inv _ (fun s x h => ?_) _ _ ?_

theorem State.armRegion_inv (s : State) (r n : Nat) (hs : s.Inv) : (State.armRegion s r n).Inv := by
  unfold State.armRegion
  repeat' first
    | with_reducible assumption
    | (extract_lets +onlyGivenNames x; refine (fun hx : State.Inv x => ?_) ?_; clear_value x; rename' x => y; rotate_left; dsimp -zeta only [x]; clear x; rotate_left)
    | (extract_lets +onlyGivenNames x; clear_value x; rename' x => y)
    | with_reducible refine ite_inv ?_ ?_
    | with_reducible refine State.putOther_inv _ _ _ _ _ ?_
    | with_reducible refine State.modReg_inv _ _ _ ?_
    | with_reducible refine State.tookFree_inv _ ?_
    | with_reducible refine State.clearHeader_inv _ _ ?_
    | split
    | with_reducible refine foldl_inv _ (fun s x h => ?_) _ _ ?_

theorem State.armPending_inv (s : State) (n r : Nat) (hs : s.Inv) : (State.armPending s n r).Inv := by
  unfold State.armPending
  repeat' first
    | with_reducible assumption
    | (extract_lets +onlyGivenNames x; refine (fun hx : State.Inv x => ?_) ?_; clear_value x; rename' x => y; rotate_left; dsimp -zeta only [x]; clear x; rotate_left)
    | (extract_lets +onlyGivenNames x; clear_value x; rename' x => y)
    | with_reducible refine ite_inv ?_ ?_
    | with_reducible refine State.armRegion_inv _ _ _ ?_
    | split
    | with_reducible refine foldl_inv _ (fun s x h => ?_) _ _ ?_

theorem State.frameEnds_inv (s : State) (r : Nat) (hs : s.Inv) : (State.frameEnds s r).Inv := by
  unfold State.frameEnds
  repeat' first
    | with_reducible assumption
    | (extract_lets +onlyGivenNames x; refine (fun hx : State.Inv x => ?_) ?_; clear_value x; rename' x => y; rotate_left; dsimp -zeta only [x]; clear x; rotate_left)
    | (extract_lets +onlyGivenNames x; clear_value x; rename' x => y)
    | with_reducible refine ite_inv ?_ ?_
    | with_reducible refine State.modReg_inv _ _ _ ?_
    | with_reducible refine State.endCapture_inv _ _ _ ?_
    | split
    | with_reducible refine foldl_inv _ (fun s x h => ?_) _ _ ?_

theorem State.writeRegionFrame_inv (s : State) (r n : Nat) (hs : s.Inv) : (State.writeRegionFrame s r n).Inv := by
  unfold State.writeRegionFrame
  repeat' first
    | with_reducible assumption
    | (extract_lets +onlyGivenNames x; refine (fun hx : State.Inv x => ?_) ?_; clear_value x; rename' x => y; rotate_left; dsimp -zeta only [x]; clear x; rotate_left)
    | (extract_lets +onlyGivenNames x; clear_value x; rename' x => y)
    | with_reducible refine ite_inv ?_ ?_
    | with_reducible refine State.frameEnds_inv _ _ ?_
    | with_reducible refine State.putOther_inv _ _ _ _ _ ?_
    | with_reducible refine State.modReg_inv _ _ _ ?_
    | with_reducible refine State.frameLost_inv _ _ ?_
    | with_reducible refine inv_of_optInv (State.putFrame_inv _ _ _ _ _ _ _ ?_) (by assumption)
    | with_reducible refine State.tookFree_inv _ ?_
    | split
    | with_reducible refine foldl_inv _ (fun s x h => ?_) _ _ ?_

theorem State.regionPeriod_inv (s : State) (n : Nat) (r : Nat) (hs : s.Inv) : (State.regionPeriod s n r).Inv := by
  unfold State.regionPeriod
  repeat' first
    | with_reducible assumption
    | (extract_lets +onlyGivenNames x; refine (fun hx : State.Inv x => ?_) ?_; clear_value x; rename' x => y; rotate_left; dsimp -zeta only [x]; clear x; rotate_left)
    | (extract_lets +onlyGivenNames x; clear_value x; rename' x => y)
    | with_reducible refine ite_inv ?_ ?_
    | with_reducible refine State.deliver_inv _ _ ?_
    | with_reducible refine State.armPending_inv _ _ _ ?_
    | with_reducible refine State.writeRegionFrame_inv _ _ _ ?_
    | with_reducible refine State.modReg_inv _ _ _ ?_
    | with_reducible refine State.lapse_inv _ _ ?_
    | split
    | with_reducible refine foldl_inv _ (fun s x h => ?_) _ _ ?_

theorem State.mirPeriod_inv (s : State) (n : Nat) (hs : s.Inv) : (State.mirPeriod s n).Inv := by
  unfold State.mirPeriod
  repeat' first
    | with_reducible assumption
    | (extract_lets +onlyGivenNames x; refine (fun hx : State.Inv x => ?_) ?_; clear_value x; rename' x => y; rotate_left; dsimp -zeta only [x]; clear x; rotate_left)
    | (extract_lets +onlyGivenNames x; clear_value x; rename' x => y)
    | simp -zeta only [State.inv_mir]
    | with_reducible refine ite_inv ?_ ?_
    | with_reducible refine State.regionPeriod_inv _ _ _ ?_
    | split
    | with_reducible refine foldl_inv _ (fun s x h => ?_) _ _ ?_

theorem State.noteLayout_inv (s : State) (r : Nat) (hs : s.Inv) : (State.noteLayout s r).Inv := by
  unfold State.noteLayout
  repeat' first
    | with_reducible assumption
    | (extract_lets +onlyGivenNames x; refine (fun hx : State.Inv x => ?_) ?_; clear_value x; rename' x => y; rotate_left; dsimp -zeta only [x]; clear x; rotate_left)
    | (extract_lets +onlyGivenNames x; clear_value x; rename' x => y)
    | with_reducible refine ite_inv ?_ ?_
    | with_reducible refine State.modReg_inv _ _ _ ?_
    | with_reducible refine State.putOther_inv _ _ _ _ _ ?_
    | split
    | with_reducible refine foldl_inv _ (fun s x h => ?_) _ _ ?_

theorem State.fireSources_inv (s : State) (p : Nat → Bool → Nat → Bool) (st : Stamp) (m : Nat) (hs : s.Inv) :
    (State.fireSources s p st m).Inv := by
  unfold State.fireSources
  repeat' first
    | with_reducible assumption
    | (extract_lets +onlyGivenNames x; refine (fun hx : State.Inv x => ?_) ?_; clear_value x; rename' x => y; rotate_left; dsimp -zeta only [x]; clear x; rotate_left)
    | (extract_lets +onlyGivenNames x; clear_value x; rename' x => y)
    | with_reducible refine ite_inv ?_ ?_
    | with_reducible refine State.sourceEvent_inv _ _ _ _ _ _ ?_
    | split
    | with_reducible refine foldl_inv _ (fun s x h => ?_) _ _ ?_

theorem doForce_inv (p : Pair) (s : State) (hs : s.Inv) : nextInv (doForce p s) := by
  unfold doForce
  repeat' first
    | with_reducible assumption
    | (extract_lets +onlyGivenNames x; refine (fun hx : State.Inv x => ?_) ?_; clear_value x; rename' x => y; rotate_left; dsimp -zeta only [x]; clear x; rotate_left)
    | (extract_lets +onlyGivenNames x; clear_value x; rename' x => y)
    | with_reducible refine ite_inv ?_ ?_
    | with_reducible refine State.fireSources_inv _ _ _ _ ?_
    | with_reducible refine State.finish_inv _ _ _ _ _ ?_
    | with_reducible refine nextInv_next ?_
    | with_reducible refine ite_nextInv ?_ ?_
    | split
    | with_reducible refine foldl_inv _ (fun s x h => ?_) _ _ ?_

theorem execExternalTrigger_inv (input : Fin 4) (rising : Bool) (stamp : Stamp) (s : State) (hs : s.Inv) : nextInv
    (execExternalTrigger input rising stamp s) := by
  unfold execExternalTrigger
  repeat' first
    | with_reducible assumption
    | (extract_lets +onlyGivenNames x; refine (fun hx : State.Inv x => ?_) ?_; clear_value x; rename' x => y; rotate_left; dsimp -zeta only [x]; clear x; rotate_left)
    | (extract_lets +onlyGivenNames x; clear_value x; rename' x => y)
    | with_reducible refine ite_inv ?_ ?_
    | with_reducible refine State.fireSources_inv _ _ _ _ ?_
    | with_reducible refine nextInv_next ?_
    | with_reducible refine ite_nextInv ?_ ?_
    | split
    | with_reducible refine foldl_inv _ (fun s x h => ?_) _ _ ?_

theorem State.noteLayouts_inv (s : State) (hs : s.Inv) : (State.noteLayouts s).Inv := by
  unfold State.noteLayouts
  repeat' first
    | with_reducible assumption
    | (extract_lets +onlyGivenNames x; refine (fun hx : State.Inv x => ?_) ?_; clear_value x; rename' x => y; rotate_left; dsimp -zeta only [x]; clear x; rotate_left)
    | (extract_lets +onlyGivenNames x; clear_value x; rename' x => y)
    | with_reducible refine ite_inv ?_ ?_
    | with_reducible refine State.noteLayout_inv _ _ ?_
    | split
    | with_reducible refine foldl_inv _ (fun s x h => ?_) _ _ ?_

theorem State.maskTest_inv (s : State) (kind index : Nat) (v : Nat → Int) (ovr : Bool) (t : Stamp) (hs : s.Inv) :
    (State.maskTest s kind index v ovr t).Inv := by
  unfold State.maskTest
  repeat' first
    | with_reducible assumption
    | (extract_lets +onlyGivenNames x; refine (fun hx : State.Inv x => ?_) ?_; clear_value x; rename' x => y; rotate_left; dsimp -zeta only [x]; clear x; rotate_left)
    | (extract_lets +onlyGivenNames x; clear_value x; rename' x => y)
    | with_reducible refine ite_inv ?_ ?_
    | with_reducible refine State.sourceEvent_inv _ _ _ _ _ _ ?_
    | with_reducible refine State.raise_inv _ _ _ ?_
    | with_reducible refine State.modReg_inv _ _ _ ?_
    | split
    | with_reducible refine foldl_inv _ (fun s x h => ?_) _ _ ?_

theorem State.mirTake_inv (s : State) (it : MirItem) (hs : s.Inv) : (State.mirTake s it).Inv := by
  unfold State.mirTake
  repeat' first
    | with_reducible assumption
    | (extract_lets +onlyGivenNames x; refine (fun hx : State.Inv x => ?_) ?_; clear_value x; rename' x => y; rotate_left; dsimp -zeta only [x]; clear x; rotate_left)
    | (extract_lets +onlyGivenNames x; clear_value x; rename' x => y)
    | simp -zeta only [State.inv_mir]
    | with_reducible refine ite_inv ?_ ?_
    | with_reducible refine State.maskTest_inv _ _ _ _ _ _ ?_
    | with_reducible refine State.fireSources_inv _ _ _ _ ?_
    | with_reducible refine State.levelSources_inv _ _ _ ?_
    | split
    | with_reducible refine foldl_inv _ (fun s x h => ?_) _ _ ?_

theorem State.mirStart_inv (s : State) (hs : s.Inv) : (State.mirStart s).Inv := by
  unfold State.mirStart
  repeat' first
    | with_reducible assumption
    | (extract_lets +onlyGivenNames x; refine (fun hx : State.Inv x => ?_) ?_; clear_value x; rename' x => y; rotate_left; dsimp -zeta only [x]; clear x; rotate_left)
    | (extract_lets +onlyGivenNames x; clear_value x; rename' x => y)
    | with_reducible refine ite_inv ?_ ?_
    | with_reducible refine State.armPending_inv _ _ _ ?_
    | split
    | with_reducible refine foldl_inv _ (fun s x h => ?_) _ _ ?_

theorem State.mirStepTrigger_inv (s : State) (region : Nat) (t : Time) (hs : s.Inv) :
    (State.mirStepTrigger s region t).Inv := by
  unfold State.mirStepTrigger
  repeat' first
    | with_reducible assumption
    | (extract_lets +onlyGivenNames x; refine (fun hx : State.Inv x => ?_) ?_; clear_value x; rename' x => y; rotate_left; dsimp -zeta only [x]; clear x; rotate_left)
    | (extract_lets +onlyGivenNames x; clear_value x; rename' x => y)
    | with_reducible refine ite_inv ?_ ?_
    | with_reducible refine State.fireSources_inv _ _ _ _ ?_
    | split
    | with_reducible refine foldl_inv _ (fun s x h => ?_) _ _ ?_

theorem State.evaluate_inv (s : State) (k n : Nat) (start fin : Nat) (hs : s.Inv) :
    (State.evaluate s k n start fin).Inv := by
  unfold State.evaluate
  repeat' first
    | with_reducible assumption
    | (extract_lets +onlyGivenNames x; refine (fun hx : State.Inv x => ?_) ?_; clear_value x; rename' x => y; rotate_left; dsimp -zeta only [x]; clear x; rotate_left)
    | (extract_lets +onlyGivenNames x; clear_value x; rename' x => y)
    | with_reducible refine ite_inv ?_ ?_
    | with_reducible refine State.mirTake_inv _ _ ?_
    | with_reducible refine State.countEval_inv _ ?_
    | with_reducible refine State.evalOutput_inv _ _ _ _ _ _ _ _ ?_
    | with_reducible refine State.handoverStep_inv _ _ _ _ _ ?_
    | with_reducible refine State.supEvents_inv _ _ _ _ ?_
    | with_reducible refine State.tookFree_inv _ ?_
    | with_reducible refine State.modSlot_inv _ _ _ ?_
    | split
    | with_reducible refine foldl_inv _ (fun s x h => ?_) _ _ ?_

theorem State.takeRecords_inv (s : State) (k : Nat) (hs : s.Inv) : (State.takeRecords s k).Inv := by
  unfold State.takeRecords
  repeat' first
    | with_reducible assumption
    | (extract_lets +onlyGivenNames x; refine (fun hx : State.Inv x => ?_) ?_; clear_value x; rename' x => y; rotate_left; dsimp -zeta only [x]; clear x; rotate_left)
    | (extract_lets +onlyGivenNames x; clear_value x; rename' x => y)
    | with_reducible refine ite_inv ?_ ?_
    | with_reducible refine State.dropSlotClaims_inv _ _ ?_
    | with_reducible refine State.noteLayouts_inv _ ?_
    | with_reducible refine State.modSlot_inv _ _ _ ?_
    | with_reducible refine State.recordDone_inv _ _ _ ?_
    | split
    | with_reducible refine foldl_inv _ (fun s x h => ?_) _ _ ?_

theorem execSlotEvaluation_inv (slot : Fin 4096) (s : State) (hs : s.Inv) : nextInv (execSlotEvaluation slot s) := by
  unfold execSlotEvaluation
  repeat' first
    | with_reducible assumption
    | (extract_lets +onlyGivenNames x; refine (fun hx : State.Inv x => ?_) ?_; clear_value x; rename' x => y; rotate_left; dsimp -zeta only [x]; clear x; rotate_left)
    | (extract_lets +onlyGivenNames x; clear_value x; rename' x => y)
    | simp -zeta only [State.inv_cmb]
    | with_reducible refine ite_inv ?_ ?_
    | with_reducible refine State.settleLoads_inv _ ?_
    | with_reducible refine State.judgePhase_inv _ ?_
    | with_reducible refine State.evaluate_inv _ _ _ _ _ ?_
    | with_reducible refine State.takeRecords_inv _ _ ?_
    | with_reducible refine nextInv_next ?_
    | with_reducible refine ite_nextInv ?_ ?_
    | split
    | with_reducible refine foldl_inv _ (fun s x h => ?_) _ _ ?_

theorem State.launchAction_inv (s : State) (instant : Time) (a : Action) (hs : s.Inv) :
    (State.launchAction s instant a).Inv := by
  unfold State.launchAction
  repeat' first
    | with_reducible assumption
    | (extract_lets +onlyGivenNames x; refine (fun hx : State.Inv x => ?_) ?_; clear_value x; rename' x => y; rotate_left; dsimp -zeta only [x]; clear x; rotate_left)
    | (extract_lets +onlyGivenNames x; clear_value x; rename' x => y)
    | with_reducible refine ite_inv ?_ ?_
    | with_reducible refine State.mirStepTrigger_inv _ _ _ ?_
    | with_reducible refine State.blockEvent_inv _ _ _ ?_
    | with_reducible refine State.commandOut_inv _ _ ?_
    | with_reducible refine State.launchRamp_inv _ _ _ _ _ ?_
    | with_reducible refine State.hashWrite_inv _ _ _ _ ?_
    | with_reducible refine State.launchSetpoint_inv _ _ _ ?_
    | split
    | with_reducible refine foldl_inv _ (fun s x h => ?_) _ _ ?_

theorem State.launchDue_inv (s : State) (d : DueActions) (hs : s.Inv) : (State.launchDue s d).Inv := by
  unfold State.launchDue
  repeat' first
    | with_reducible assumption
    | (extract_lets +onlyGivenNames x; refine (fun hx : State.Inv x => ?_) ?_; clear_value x; rename' x => y; rotate_left; dsimp -zeta only [x]; clear x; rotate_left)
    | (extract_lets +onlyGivenNames x; clear_value x; rename' x => y)
    | with_reducible refine ite_inv ?_ ?_
    | with_reducible refine State.modPart_inv _ _ _ ?_
    | with_reducible refine State.modStep_inv _ _ _ ?_
    | with_reducible refine State.checkStep_inv _ _ ?_
    | with_reducible refine State.unclaimActions_inv _ _ ?_
    | with_reducible refine State.launchAction_inv _ _ _ ?_
    | with_reducible refine State.handPart_inv _ _ ?_
    | with_reducible refine State.handStep_inv _ _ ?_
    | with_reducible refine State.recallStep_inv _ _ ?_
    | split
    | with_reducible refine foldl_inv _ (fun s x h => ?_) _ _ ?_

theorem execStepLaunch_inv (s : State) (hs : s.Inv) : nextInv (execStepLaunch s) := by
  unfold execStepLaunch
  repeat' first
    | with_reducible assumption
    | (extract_lets +onlyGivenNames x; refine (fun hx : State.Inv x => ?_) ?_; clear_value x; rename' x => y; rotate_left; dsimp -zeta only [x]; clear x; rotate_left)
    | (extract_lets +onlyGivenNames x; clear_value x; rename' x => y)
    | with_reducible refine ite_inv ?_ ?_
    | with_reducible refine State.launchDue_inv _ _ ?_
    | with_reducible refine nextInv_next ?_
    | with_reducible refine ite_nextInv ?_ ?_
    | split
    | with_reducible refine foldl_inv _ (fun s x h => ?_) _ _ ?_

theorem State.takeSample_inv (s : State) (w : Val40) (stamp : Time) (list : Option Nat) (hs : s.Inv) :
    (State.takeSample s w stamp list).Inv := by
  unfold State.takeSample
  repeat' first
    | with_reducible assumption
    | (extract_lets +onlyGivenNames x; refine (fun hx : State.Inv x => ?_) ?_; clear_value x; rename' x => y; rotate_left; dsimp -zeta only [x]; clear x; rotate_left)
    | (extract_lets +onlyGivenNames x; clear_value x; rename' x => y)
    | simp -zeta only [State.inv_cnv]
    | with_reducible refine ite_inv ?_ ?_
    | with_reducible refine State.mirTake_inv _ _ ?_
    | with_reducible refine State.snapOut_inv _ _ ?_
    | split
    | with_reducible refine foldl_inv _ (fun s x h => ?_) _ _ ?_

theorem State.upTake_inv (s : State) (it : UpItem) (hs : s.Inv) : (State.upTake s it).Inv := by
  unfold State.upTake
  repeat' first
    | with_reducible assumption
    | (extract_lets +onlyGivenNames x; refine (fun hx : State.Inv x => ?_) ?_; clear_value x; rename' x => y; rotate_left; dsimp -zeta only [x]; clear x; rotate_left)
    | (extract_lets +onlyGivenNames x; clear_value x; rename' x => y)
    | simp -zeta only [State.inv_fio]
    | with_reducible refine ite_inv ?_ ?_
    | with_reducible refine State.setWag_inv _ _ ?_
    | with_reducible refine State.raise_inv _ _ _ ?_
    | with_reducible refine State.takeCapture_inv _ _ _ _ ?_
    | with_reducible refine State.takeEncoders_inv _ _ ?_
    | with_reducible refine State.noteInput_inv _ _ _ ?_
    | with_reducible refine State.mirTake_inv _ _ ?_
    | with_reducible refine State.takeConfirm_inv _ _ _ ?_
    | with_reducible refine State.takeSample_inv _ _ _ _ ?_
    | split
    | with_reducible refine foldl_inv _ (fun s x h => ?_) _ _ ?_

theorem execUplinkFrame_inv (valid : Bool) (s : State) (hs : s.Inv) : nextInv (execUplinkFrame valid s) := by
  unfold execUplinkFrame
  repeat' first
    | with_reducible assumption
    | (extract_lets +onlyGivenNames x; refine (fun hx : State.Inv x => ?_) ?_; clear_value x; rename' x => y; rotate_left; dsimp -zeta only [x]; clear x; rotate_left)
    | (extract_lets +onlyGivenNames x; clear_value x; rename' x => y)
    | simp -zeta only [State.inv_blk, State.inv_cmb, State.inv_cmb_cnv, State.inv_cnv, State.inv_cnv_fio, State.inv_drn, State.inv_fio, State.inv_fio_drn, State.inv_fio_twn, State.inv_fio_wag, State.inv_freeIdx, State.inv_hif, State.inv_hif_out, State.inv_lcy, State.inv_leg, State.inv_mir, State.inv_out, State.inv_peat, State.inv_pending, State.inv_pw, State.inv_pw_cnv_drn, State.inv_pw_cnv_peat, State.inv_pw_drn, State.inv_pw_fio, State.inv_regs, State.inv_regs_pw_hif, State.inv_regs_time_pw_stp_cmb_blk_cnv_fio_mir_wag_twn_lcy_seen, State.inv_saf, State.inv_seen, State.inv_stp, State.inv_stp_cmb_blk_fio_wag, State.inv_time, State.inv_time_freeIdx, State.inv_time_pw, State.inv_time_pw_cnv_fio_twn_saf_drn_lcy, State.inv_time_pw_hif_stp_cmb_blk_cnv_fio_mir_wag_twn_leg, State.inv_twn, State.inv_wag]
    | with_reducible refine ite_inv ?_ ?_
    | with_reducible refine State.upTake_inv _ _ ?_
    | with_reducible refine State.resendField_inv _ ?_
    | with_reducible refine nextInv_next ?_
    | with_reducible refine ite_nextInv ?_ ?_
    | split
    | with_reducible refine foldl_inv _ (fun s x h => ?_) _ _ ?_

theorem runParam_inv (p : Pair) (block index : Nat) (s : State) (hs : s.Inv) : (runParam p block index s).Inv := by
  unfold runParam
  repeat' first
    | with_reducible assumption
    | (extract_lets +onlyGivenNames x; refine (fun hx : State.Inv x => ?_) ?_; clear_value x; rename' x => y; rotate_left; dsimp -zeta only [x]; clear x; rotate_left)
    | (extract_lets +onlyGivenNames x; clear_value x; rename' x => y)
    | with_reducible refine ite_inv ?_ ?_
    | with_reducible refine doGpWrite_inv _ _ ?_
    | with_reducible refine doRecover_inv _ _ ?_
    | with_reducible refine doHpAck_inv _ _ ?_
    | with_reducible refine doModeChange_inv _ _ ?_
    | with_reducible refine doMireStop_inv _ _ ?_
    | with_reducible refine doForce_inv _ _ ?_
    | with_reducible refine doMireArm_inv _ _ ?_
    | with_reducible refine doHsClrFault_inv _ _ ?_
    | with_reducible refine doCalMeasure_inv _ _ ?_
    | with_reducible refine doRotate_inv _ _ ?_
    | with_reducible refine doUrgent_inv _ _ ?_
    | with_reducible refine after_inv ?_ ?_
    | split
    | with_reducible refine foldl_inv _ (fun s x h => ?_) _ _ ?_

theorem State.runDesc_inv (s : State) (p : Pair) (e : Entry) (hs : s.Inv) : (State.runDesc s p e).Inv := by
  unfold State.runDesc
  repeat' first
    | with_reducible assumption
    | (extract_lets +onlyGivenNames x; refine (fun hx : State.Inv x => ?_) ?_; clear_value x; rename' x => y; rotate_left; dsimp -zeta only [x]; clear x; rotate_left)
    | (extract_lets +onlyGivenNames x; clear_value x; rename' x => y)
    | with_reducible refine ite_inv ?_ ?_
    | with_reducible refine doExchange_inv _ _ ?_
    | with_reducible refine doLoadImage_inv _ _ ?_
    | with_reducible refine doTimeSet_inv _ _ ?_
    | with_reducible refine after_inv ?_ ?_
    | with_reducible refine runParam_inv _ _ _ _ ?_
    | with_reducible refine runTable_inv _ _ _ _ ?_
    | split
    | with_reducible refine foldl_inv _ (fun s x h => ?_) _ _ ?_

theorem State.runApart_inv (s : State) (cls : Nat) (raw : BitVec 512) (data : List Byte) (hs : s.Inv) :
    (State.runApart s cls raw data).1.Inv := by
  unfold State.runApart
  repeat' first
    | with_reducible assumption
    | (extract_lets +onlyGivenNames x; refine (fun hx : State.Inv x => ?_) ?_; clear_value x; rename' x => y; rotate_left; dsimp -zeta only [x]; clear x; rotate_left)
    | (extract_lets +onlyGivenNames x; clear_value x; rename' x => y)
    | with_reducible refine ite_inv ?_ ?_
    | with_reducible refine State.viaHif_inv _ _ ?_
    | with_reducible refine State.runDesc_inv _ _ _ ?_
    | split
    | with_reducible refine foldl_inv _ (fun s x h => ?_) _ _ ?_

theorem State.asChange_inv (s : State) (p : Pair) (mine : Option Entry) (f : State → Host.Outcome State Fault Refusal) (hs : s.Inv)
    (hf : nextInv (f s)) : nextInv (State.asChange s p mine f) := by
  unfold State.asChange
  repeat' first
    | with_reducible assumption
    | (extract_lets +onlyGivenNames x; refine (fun hx : State.Inv x => ?_) ?_; clear_value x; rename' x => y; rotate_left; dsimp -zeta only [x]; clear x; rotate_left)
    | (extract_lets +onlyGivenNames x; clear_value x; rename' x => y)
    | simp -zeta only [State.inv_twn]
    | with_reducible refine State.finish_inv _ _ _ _ _ ?_
    | with_reducible refine State.viaHif_inv _ _ ?_
    | with_reducible refine State.sendChange_inv _ _ _ _ ?_
    | with_reducible refine nextInv_next ?_
    | with_reducible refine ite_nextInv ?_ ?_
    | split

theorem execMicroprogramLoad_inv (p : Pair) (s : State) (hs : s.Inv) : nextInv (execMicroprogramLoad p s) := by
  unfold execMicroprogramLoad
  repeat' first
    | with_reducible assumption
    | (extract_lets +onlyGivenNames x; refine (fun hx : State.Inv x => ?_) ?_; clear_value x; rename' x => y; rotate_left; dsimp -zeta only [x]; clear x; rotate_left)
    | (extract_lets +onlyGivenNames x; clear_value x; rename' x => y)
    | with_reducible refine ite_inv ?_ ?_
    | with_reducible refine doMicroprogramLoad_inv _ _ ?_
    | with_reducible refine State.asChange_inv _ _ _ _ ?_ ?_
    | with_reducible refine nextInv_next ?_
    | with_reducible refine ite_nextInv ?_ ?_
    | split
    | with_reducible refine foldl_inv _ (fun s x h => ?_) _ _ ?_

theorem execForce_inv (p : Pair) (s : State) (hs : s.Inv) : nextInv (execForce p s) := by
  unfold execForce
  repeat' first
    | with_reducible assumption
    | (extract_lets +onlyGivenNames x; refine (fun hx : State.Inv x => ?_) ?_; clear_value x; rename' x => y; rotate_left; dsimp -zeta only [x]; clear x; rotate_left)
    | (extract_lets +onlyGivenNames x; clear_value x; rename' x => y)
    | with_reducible refine ite_inv ?_ ?_
    | with_reducible refine doForce_inv _ _ ?_
    | with_reducible refine State.asChange_inv _ _ _ _ ?_ ?_
    | with_reducible refine nextInv_next ?_
    | with_reducible refine ite_nextInv ?_ ?_
    | split
    | with_reducible refine foldl_inv _ (fun s x h => ?_) _ _ ?_

theorem execRegionTableLoad_inv (p : Pair) (s : State) (hs : s.Inv) : nextInv (execRegionTableLoad p s) := by
  unfold execRegionTableLoad
  repeat' first
    | with_reducible assumption
    | (extract_lets +onlyGivenNames x; refine (fun hx : State.Inv x => ?_) ?_; clear_value x; rename' x => y; rotate_left; dsimp -zeta only [x]; clear x; rotate_left)
    | (extract_lets +onlyGivenNames x; clear_value x; rename' x => y)
    | with_reducible refine ite_inv ?_ ?_
    | with_reducible refine doRegionTableLoad_inv _ _ ?_
    | with_reducible refine State.asChange_inv _ _ _ _ ?_ ?_
    | with_reducible refine nextInv_next ?_
    | with_reducible refine ite_nextInv ?_ ?_
    | split
    | with_reducible refine foldl_inv _ (fun s x h => ?_) _ _ ?_

theorem execProfileTableLoad_inv (p : Pair) (s : State) (hs : s.Inv) : nextInv (execProfileTableLoad p s) := by
  unfold execProfileTableLoad
  repeat' first
    | with_reducible assumption
    | (extract_lets +onlyGivenNames x; refine (fun hx : State.Inv x => ?_) ?_; clear_value x; rename' x => y; rotate_left; dsimp -zeta only [x]; clear x; rotate_left)
    | (extract_lets +onlyGivenNames x; clear_value x; rename' x => y)
    | with_reducible refine ite_inv ?_ ?_
    | with_reducible refine doProfileTableLoad_inv _ _ ?_
    | with_reducible refine State.asChange_inv _ _ _ _ ?_ ?_
    | with_reducible refine nextInv_next ?_
    | with_reducible refine ite_nextInv ?_ ?_
    | split
    | with_reducible refine foldl_inv _ (fun s x h => ?_) _ _ ?_

theorem execEncoderTableLoad_inv (p : Pair) (s : State) (hs : s.Inv) : nextInv (execEncoderTableLoad p s) := by
  unfold execEncoderTableLoad
  repeat' first
    | with_reducible assumption
    | (extract_lets +onlyGivenNames x; refine (fun hx : State.Inv x => ?_) ?_; clear_value x; rename' x => y; rotate_left; dsimp -zeta only [x]; clear x; rotate_left)
    | (extract_lets +onlyGivenNames x; clear_value x; rename' x => y)
    | with_reducible refine ite_inv ?_ ?_
    | with_reducible refine doEncoderTableLoad_inv _ _ ?_
    | with_reducible refine State.asChange_inv _ _ _ _ ?_ ?_
    | with_reducible refine nextInv_next ?_
    | with_reducible refine ite_nextInv ?_ ?_
    | split
    | with_reducible refine foldl_inv _ (fun s x h => ?_) _ _ ?_

theorem execMireArm_inv (p : Pair) (s : State) (hs : s.Inv) : nextInv (execMireArm p s) := by
  unfold execMireArm
  repeat' first
    | with_reducible assumption
    | (extract_lets +onlyGivenNames x; refine (fun hx : State.Inv x => ?_) ?_; clear_value x; rename' x => y; rotate_left; dsimp -zeta only [x]; clear x; rotate_left)
    | (extract_lets +onlyGivenNames x; clear_value x; rename' x => y)
    | with_reducible refine ite_inv ?_ ?_
    | with_reducible refine doMireArm_inv _ _ ?_
    | with_reducible refine State.asChange_inv _ _ _ _ ?_ ?_
    | with_reducible refine nextInv_next ?_
    | with_reducible refine ite_nextInv ?_ ?_
    | split
    | with_reducible refine foldl_inv _ (fun s x h => ?_) _ _ ?_

theorem execModeChange_inv (p : Pair) (s : State) (hs : s.Inv) : nextInv (execModeChange p s) := by
  unfold execModeChange
  repeat' first
    | with_reducible assumption
    | (extract_lets +onlyGivenNames x; refine (fun hx : State.Inv x => ?_) ?_; clear_value x; rename' x => y; rotate_left; dsimp -zeta only [x]; clear x; rotate_left)
    | (extract_lets +onlyGivenNames x; clear_value x; rename' x => y)
    | with_reducible refine ite_inv ?_ ?_
    | with_reducible refine doModeChange_inv _ _ ?_
    | with_reducible refine State.asChange_inv _ _ _ _ ?_ ?_
    | with_reducible refine nextInv_next ?_
    | with_reducible refine ite_nextInv ?_ ?_
    | split
    | with_reducible refine foldl_inv _ (fun s x h => ?_) _ _ ?_

theorem execScheduleLoad_inv (p : Pair) (s : State) (hs : s.Inv) : nextInv (execScheduleLoad p s) := by
  unfold execScheduleLoad
  repeat' first
    | with_reducible assumption
    | (extract_lets +onlyGivenNames x; refine (fun hx : State.Inv x => ?_) ?_; clear_value x; rename' x => y; rotate_left; dsimp -zeta only [x]; clear x; rotate_left)
    | (extract_lets +onlyGivenNames x; clear_value x; rename' x => y)
    | with_reducible refine ite_inv ?_ ?_
    | with_reducible refine doScheduleLoad_inv _ _ ?_
    | with_reducible refine State.asChange_inv _ _ _ _ ?_ ?_
    | with_reducible refine nextInv_next ?_
    | with_reducible refine ite_nextInv ?_ ?_
    | split
    | with_reducible refine foldl_inv _ (fun s x h => ?_) _ _ ?_

theorem State.resumeChange_inv (s : State) (seq : Word) (hs : s.Inv) : (State.resumeChange s seq).Inv := by
  unfold State.resumeChange
  repeat' first
    | with_reducible assumption
    | (extract_lets +onlyGivenNames x; refine (fun hx : State.Inv x => ?_) ?_; clear_value x; rename' x => y; rotate_left; dsimp -zeta only [x]; clear x; rotate_left)
    | (extract_lets +onlyGivenNames x; clear_value x; rename' x => y)
    | simp -zeta only [State.inv_twn]
    | with_reducible refine ite_inv ?_ ?_
    | with_reducible refine State.finish_inv _ _ _ _ _ ?_
    | with_reducible refine State.runDesc_inv _ _ _ ?_
    | with_reducible refine State.viaHif_inv _ _ ?_
    | split
    | with_reducible refine foldl_inv _ (fun s x h => ?_) _ _ ?_

theorem State.dueChanges_inv (s : State) (n : Nat) (hs : s.Inv) : (State.dueChanges s n).Inv := by
  unfold State.dueChanges
  repeat' first
    | with_reducible assumption
    | (extract_lets +onlyGivenNames x; refine (fun hx : State.Inv x => ?_) ?_; clear_value x; rename' x => y; rotate_left; dsimp -zeta only [x]; clear x; rotate_left)
    | (extract_lets +onlyGivenNames x; clear_value x; rename' x => y)
    | with_reducible refine ite_inv ?_ ?_
    | with_reducible refine State.resumeChange_inv _ _ ?_
    | split
    | with_reducible refine foldl_inv _ (fun s x h => ?_) _ _ ?_

theorem State.acceptChange_inv (s : State) (seq : Word) (hs : s.Inv) : (State.acceptChange s seq).Inv := by
  unfold State.acceptChange
  repeat' first
    | with_reducible assumption
    | (extract_lets +onlyGivenNames x; refine (fun hx : State.Inv x => ?_) ?_; clear_value x; rename' x => y; rotate_left; dsimp -zeta only [x]; clear x; rotate_left)
    | (extract_lets +onlyGivenNames x; clear_value x; rename' x => y)
    | simp -zeta only [State.inv_twn]
    | with_reducible refine ite_inv ?_ ?_
    | with_reducible refine State.dueChanges_inv _ _ ?_
    | split
    | with_reducible refine foldl_inv _ (fun s x h => ?_) _ _ ?_

theorem execHighSideTableLoad_inv (p : Pair) (s : State) (hs : s.Inv) : nextInv (execHighSideTableLoad p s) := by
  unfold execHighSideTableLoad
  repeat' first
    | with_reducible assumption
    | (extract_lets +onlyGivenNames x; refine (fun hx : State.Inv x => ?_) ?_; clear_value x; rename' x => y; rotate_left; dsimp -zeta only [x]; clear x; rotate_left)
    | (extract_lets +onlyGivenNames x; clear_value x; rename' x => y)
    | with_reducible refine ite_inv ?_ ?_
    | with_reducible refine doHighSideTableLoad_inv _ _ ?_
    | with_reducible refine State.asChange_inv _ _ _ _ ?_ ?_
    | with_reducible refine nextInv_next ?_
    | with_reducible refine ite_nextInv ?_ ?_
    | split
    | with_reducible refine foldl_inv _ (fun s x h => ?_) _ _ ?_

theorem execHsClrFault_inv (p : Pair) (s : State) (hs : s.Inv) : nextInv (execHsClrFault p s) := by
  unfold execHsClrFault
  repeat' first
    | with_reducible assumption
    | (extract_lets +onlyGivenNames x; refine (fun hx : State.Inv x => ?_) ?_; clear_value x; rename' x => y; rotate_left; dsimp -zeta only [x]; clear x; rotate_left)
    | (extract_lets +onlyGivenNames x; clear_value x; rename' x => y)
    | with_reducible refine ite_inv ?_ ?_
    | with_reducible refine doHsClrFault_inv _ _ ?_
    | with_reducible refine State.asChange_inv _ _ _ _ ?_ ?_
    | with_reducible refine nextInv_next ?_
    | with_reducible refine ite_nextInv ?_ ?_
    | split
    | with_reducible refine foldl_inv _ (fun s x h => ?_) _ _ ?_

theorem State.loadApart_inv (s : State) (cls : Nat) (raw : BitVec 512) (data : List Byte) (hs : s.Inv) :
    (State.loadApart s cls raw data).Inv := by
  have h := State.runApart_inv s cls raw data hs
  unfold State.loadApart
  extract_lets x
  split
  · exact ite_inv (State.raise_inv _ _ _ hs) h
  · exact h

theorem execModelTableLoad_inv (p : Pair) (s : State) (hs : s.Inv) : nextInv (execModelTableLoad p s) := by
  unfold execModelTableLoad
  repeat' first
    | with_reducible assumption
    | (extract_lets +onlyGivenNames x; refine (fun hx : State.Inv x => ?_) ?_; clear_value x; rename' x => y; rotate_left; dsimp -zeta only [x]; clear x; rotate_left)
    | (extract_lets +onlyGivenNames x; clear_value x; rename' x => y)
    | with_reducible refine ite_inv ?_ ?_
    | with_reducible refine doModelTableLoad_inv _ _ ?_
    | with_reducible refine State.asChange_inv _ _ _ _ ?_ ?_
    | with_reducible refine nextInv_next ?_
    | with_reducible refine ite_nextInv ?_ ?_
    | split
    | with_reducible refine foldl_inv _ (fun s x h => ?_) _ _ ?_

theorem execLoadImage_inv (p : Pair) (s : State) (hs : s.Inv) : nextInv (execLoadImage p s) := by
  unfold execLoadImage
  repeat' first
    | with_reducible assumption
    | (extract_lets +onlyGivenNames x; refine (fun hx : State.Inv x => ?_) ?_; clear_value x; rename' x => y; rotate_left; dsimp -zeta only [x]; clear x; rotate_left)
    | (extract_lets +onlyGivenNames x; clear_value x; rename' x => y)
    | with_reducible refine ite_inv ?_ ?_
    | with_reducible refine doLoadImage_inv _ _ ?_
    | with_reducible refine State.asChange_inv _ _ _ _ ?_ ?_
    | with_reducible refine nextInv_next ?_
    | with_reducible refine ite_nextInv ?_ ?_
    | split
    | with_reducible refine foldl_inv _ (fun s x h => ?_) _ _ ?_

theorem execScanListLoad_inv (p : Pair) (s : State) (hs : s.Inv) : nextInv (execScanListLoad p s) := by
  unfold execScanListLoad
  repeat' first
    | with_reducible assumption
    | (extract_lets +onlyGivenNames x; refine (fun hx : State.Inv x => ?_) ?_; clear_value x; rename' x => y; rotate_left; dsimp -zeta only [x]; clear x; rotate_left)
    | (extract_lets +onlyGivenNames x; clear_value x; rename' x => y)
    | with_reducible refine ite_inv ?_ ?_
    | with_reducible refine doScanListLoad_inv _ _ ?_
    | with_reducible refine State.asChange_inv _ _ _ _ ?_ ?_
    | with_reducible refine nextInv_next ?_
    | with_reducible refine ite_nextInv ?_ ?_
    | split
    | with_reducible refine foldl_inv _ (fun s x h => ?_) _ _ ?_

theorem execWitnessTableLoad_inv (p : Pair) (s : State) (hs : s.Inv) : nextInv (execWitnessTableLoad p s) := by
  unfold execWitnessTableLoad
  repeat' first
    | with_reducible assumption
    | (extract_lets +onlyGivenNames x; refine (fun hx : State.Inv x => ?_) ?_; clear_value x; rename' x => y; rotate_left; dsimp -zeta only [x]; clear x; rotate_left)
    | (extract_lets +onlyGivenNames x; clear_value x; rename' x => y)
    | with_reducible refine ite_inv ?_ ?_
    | with_reducible refine doWitnessTableLoad_inv _ _ ?_
    | with_reducible refine State.asChange_inv _ _ _ _ ?_ ?_
    | with_reducible refine nextInv_next ?_
    | with_reducible refine ite_nextInv ?_ ?_
    | split
    | with_reducible refine foldl_inv _ (fun s x h => ?_) _ _ ?_

theorem execSegmentTableLoad_inv (p : Pair) (s : State) (hs : s.Inv) : nextInv (execSegmentTableLoad p s) := by
  unfold execSegmentTableLoad
  repeat' first
    | with_reducible assumption
    | (extract_lets +onlyGivenNames x; refine (fun hx : State.Inv x => ?_) ?_; clear_value x; rename' x => y; rotate_left; dsimp -zeta only [x]; clear x; rotate_left)
    | (extract_lets +onlyGivenNames x; clear_value x; rename' x => y)
    | with_reducible refine ite_inv ?_ ?_
    | with_reducible refine doSegmentTableLoad_inv _ _ ?_
    | with_reducible refine State.asChange_inv _ _ _ _ ?_ ?_
    | with_reducible refine nextInv_next ?_
    | with_reducible refine ite_nextInv ?_ ?_
    | split
    | with_reducible refine foldl_inv _ (fun s x h => ?_) _ _ ?_

theorem execLineTableLoad_inv (p : Pair) (s : State) (hs : s.Inv) : nextInv (execLineTableLoad p s) := by
  unfold execLineTableLoad
  repeat' first
    | with_reducible assumption
    | (extract_lets +onlyGivenNames x; refine (fun hx : State.Inv x => ?_) ?_; clear_value x; rename' x => y; rotate_left; dsimp -zeta only [x]; clear x; rotate_left)
    | (extract_lets +onlyGivenNames x; clear_value x; rename' x => y)
    | with_reducible refine ite_inv ?_ ?_
    | with_reducible refine doLineTableLoad_inv _ _ ?_
    | with_reducible refine State.asChange_inv _ _ _ _ ?_ ?_
    | with_reducible refine nextInv_next ?_
    | with_reducible refine ite_nextInv ?_ ?_
    | split
    | with_reducible refine foldl_inv _ (fun s x h => ?_) _ _ ?_

theorem execStationTableLoad_inv (p : Pair) (s : State) (hs : s.Inv) : nextInv (execStationTableLoad p s) := by
  unfold execStationTableLoad
  repeat' first
    | with_reducible assumption
    | (extract_lets +onlyGivenNames x; refine (fun hx : State.Inv x => ?_) ?_; clear_value x; rename' x => y; rotate_left; dsimp -zeta only [x]; clear x; rotate_left)
    | (extract_lets +onlyGivenNames x; clear_value x; rename' x => y)
    | with_reducible refine ite_inv ?_ ?_
    | with_reducible refine doStationTableLoad_inv _ _ ?_
    | with_reducible refine State.asChange_inv _ _ _ _ ?_ ?_
    | with_reducible refine nextInv_next ?_
    | with_reducible refine ite_nextInv ?_ ?_
    | split
    | with_reducible refine foldl_inv _ (fun s x h => ?_) _ _ ?_

theorem execSlotTableLoad_inv (p : Pair) (s : State) (hs : s.Inv) : nextInv (execSlotTableLoad p s) := by
  unfold execSlotTableLoad
  repeat' first
    | with_reducible assumption
    | (extract_lets +onlyGivenNames x; refine (fun hx : State.Inv x => ?_) ?_; clear_value x; rename' x => y; rotate_left; dsimp -zeta only [x]; clear x; rotate_left)
    | (extract_lets +onlyGivenNames x; clear_value x; rename' x => y)
    | with_reducible refine ite_inv ?_ ?_
    | with_reducible refine doSlotTableLoad_inv _ _ ?_
    | with_reducible refine State.asChange_inv _ _ _ _ ?_ ?_
    | with_reducible refine nextInv_next ?_
    | with_reducible refine ite_nextInv ?_ ?_
    | split
    | with_reducible refine foldl_inv _ (fun s x h => ?_) _ _ ?_

theorem execPulseTableLoad_inv (p : Pair) (s : State) (hs : s.Inv) : nextInv (execPulseTableLoad p s) := by
  unfold execPulseTableLoad
  repeat' first
    | with_reducible assumption
    | (extract_lets +onlyGivenNames x; refine (fun hx : State.Inv x => ?_) ?_; clear_value x; rename' x => y; rotate_left; dsimp -zeta only [x]; clear x; rotate_left)
    | (extract_lets +onlyGivenNames x; clear_value x; rename' x => y)
    | with_reducible refine ite_inv ?_ ?_
    | with_reducible refine doPulseTableLoad_inv _ _ ?_
    | with_reducible refine State.asChange_inv _ _ _ _ ?_ ?_
    | with_reducible refine nextInv_next ?_
    | with_reducible refine ite_nextInv ?_ ?_
    | split
    | with_reducible refine foldl_inv _ (fun s x h => ?_) _ _ ?_

theorem execExchange_inv (p : Pair) (s : State) (hs : s.Inv) : nextInv (execExchange p s) := by
  unfold execExchange
  repeat' first
    | with_reducible assumption
    | (extract_lets +onlyGivenNames x; refine (fun hx : State.Inv x => ?_) ?_; clear_value x; rename' x => y; rotate_left; dsimp -zeta only [x]; clear x; rotate_left)
    | (extract_lets +onlyGivenNames x; clear_value x; rename' x => y)
    | with_reducible refine ite_inv ?_ ?_
    | with_reducible refine doExchange_inv _ _ ?_
    | with_reducible refine State.asChange_inv _ _ _ _ ?_ ?_
    | with_reducible refine nextInv_next ?_
    | with_reducible refine ite_nextInv ?_ ?_
    | split
    | with_reducible refine foldl_inv _ (fun s x h => ?_) _ _ ?_

theorem execSkewLoad_inv (p : Pair) (s : State) (hs : s.Inv) : nextInv (execSkewLoad p s) := by
  unfold execSkewLoad
  repeat' first
    | with_reducible assumption
    | (extract_lets +onlyGivenNames x; refine (fun hx : State.Inv x => ?_) ?_; clear_value x; rename' x => y; rotate_left; dsimp -zeta only [x]; clear x; rotate_left)
    | (extract_lets +onlyGivenNames x; clear_value x; rename' x => y)
    | with_reducible refine ite_inv ?_ ?_
    | with_reducible refine doSkewLoad_inv _ _ ?_
    | with_reducible refine State.asChange_inv _ _ _ _ ?_ ?_
    | with_reducible refine nextInv_next ?_
    | with_reducible refine ite_nextInv ?_ ?_
    | split
    | with_reducible refine foldl_inv _ (fun s x h => ?_) _ _ ?_

theorem execReceiveMapLoad_inv (p : Pair) (s : State) (hs : s.Inv) : nextInv (execReceiveMapLoad p s) := by
  unfold execReceiveMapLoad
  repeat' first
    | with_reducible assumption
    | (extract_lets +onlyGivenNames x; refine (fun hx : State.Inv x => ?_) ?_; clear_value x; rename' x => y; rotate_left; dsimp -zeta only [x]; clear x; rotate_left)
    | (extract_lets +onlyGivenNames x; clear_value x; rename' x => y)
    | with_reducible refine ite_inv ?_ ?_
    | with_reducible refine doReceiveMapLoad_inv _ _ ?_
    | with_reducible refine State.asChange_inv _ _ _ _ ?_ ?_
    | with_reducible refine nextInv_next ?_
    | with_reducible refine ite_nextInv ?_ ?_
    | split
    | with_reducible refine foldl_inv _ (fun s x h => ?_) _ _ ?_

theorem execDacTableLoad_inv (p : Pair) (s : State) (hs : s.Inv) : nextInv (execDacTableLoad p s) := by
  unfold execDacTableLoad
  repeat' first
    | with_reducible assumption
    | (extract_lets +onlyGivenNames x; refine (fun hx : State.Inv x => ?_) ?_; clear_value x; rename' x => y; rotate_left; dsimp -zeta only [x]; clear x; rotate_left)
    | (extract_lets +onlyGivenNames x; clear_value x; rename' x => y)
    | with_reducible refine ite_inv ?_ ?_
    | with_reducible refine doDacTableLoad_inv _ _ ?_
    | with_reducible refine State.asChange_inv _ _ _ _ ?_ ?_
    | with_reducible refine nextInv_next ?_
    | with_reducible refine ite_nextInv ?_ ?_
    | split
    | with_reducible refine foldl_inv _ (fun s x h => ?_) _ _ ?_

theorem execHoldPolicyTableLoad_inv (p : Pair) (s : State) (hs : s.Inv) : nextInv (execHoldPolicyTableLoad p s) := by
  unfold execHoldPolicyTableLoad
  repeat' first
    | with_reducible assumption
    | (extract_lets +onlyGivenNames x; refine (fun hx : State.Inv x => ?_) ?_; clear_value x; rename' x => y; rotate_left; dsimp -zeta only [x]; clear x; rotate_left)
    | (extract_lets +onlyGivenNames x; clear_value x; rename' x => y)
    | with_reducible refine ite_inv ?_ ?_
    | with_reducible refine doHoldPolicyTableLoad_inv _ _ ?_
    | with_reducible refine State.asChange_inv _ _ _ _ ?_ ?_
    | with_reducible refine nextInv_next ?_
    | with_reducible refine ite_nextInv ?_ ?_
    | split
    | with_reducible refine foldl_inv _ (fun s x h => ?_) _ _ ?_

theorem execCoefficientLoad_inv (p : Pair) (s : State) (hs : s.Inv) : nextInv (execCoefficientLoad p s) := by
  unfold execCoefficientLoad
  repeat' first
    | with_reducible assumption
    | (extract_lets +onlyGivenNames x; refine (fun hx : State.Inv x => ?_) ?_; clear_value x; rename' x => y; rotate_left; dsimp -zeta only [x]; clear x; rotate_left)
    | (extract_lets +onlyGivenNames x; clear_value x; rename' x => y)
    | with_reducible refine ite_inv ?_ ?_
    | with_reducible refine doCoefficientLoad_inv _ _ ?_
    | with_reducible refine State.asChange_inv _ _ _ _ ?_ ?_
    | with_reducible refine nextInv_next ?_
    | with_reducible refine ite_nextInv ?_ ?_
    | split
    | with_reducible refine foldl_inv _ (fun s x h => ?_) _ _ ?_

theorem execChannelTableLoad_inv (p : Pair) (s : State) (hs : s.Inv) : nextInv (execChannelTableLoad p s) := by
  unfold execChannelTableLoad
  repeat' first
    | with_reducible assumption
    | (extract_lets +onlyGivenNames x; refine (fun hx : State.Inv x => ?_) ?_; clear_value x; rename' x => y; rotate_left; dsimp -zeta only [x]; clear x; rotate_left)
    | (extract_lets +onlyGivenNames x; clear_value x; rename' x => y)
    | with_reducible refine ite_inv ?_ ?_
    | with_reducible refine doChannelTableLoad_inv _ _ ?_
    | with_reducible refine State.asChange_inv _ _ _ _ ?_ ?_
    | with_reducible refine nextInv_next ?_
    | with_reducible refine ite_nextInv ?_ ?_
    | split
    | with_reducible refine foldl_inv _ (fun s x h => ?_) _ _ ?_

theorem State.loadItem_inv (s : State) (it : PersistItem) (hs : s.Inv) : (State.loadItem s it).Inv := by
  unfold State.loadItem
  repeat' first
    | with_reducible assumption
    | (extract_lets +onlyGivenNames x; refine (fun hx : State.Inv x => ?_) ?_; clear_value x; rename' x => y; rotate_left; dsimp -zeta only [x]; clear x; rotate_left)
    | (extract_lets +onlyGivenNames x; clear_value x; rename' x => y)
    | with_reducible refine ite_inv ?_ ?_
    | with_reducible refine State.runApart_inv _ _ _ _ ?_
    | with_reducible refine State.loadApart_inv _ _ _ _ ?_
    | split
    | with_reducible refine foldl_inv _ (fun s x h => ?_) _ _ ?_

theorem execRotate_inv (p : Pair) (s : State) (hs : s.Inv) : nextInv (execRotate p s) := by
  unfold execRotate
  repeat' first
    | with_reducible assumption
    | (extract_lets +onlyGivenNames x; refine (fun hx : State.Inv x => ?_) ?_; clear_value x; rename' x => y; rotate_left; dsimp -zeta only [x]; clear x; rotate_left)
    | (extract_lets +onlyGivenNames x; clear_value x; rename' x => y)
    | with_reducible refine ite_inv ?_ ?_
    | with_reducible refine doRotate_inv _ _ ?_
    | with_reducible refine State.asChange_inv _ _ _ _ ?_ ?_
    | with_reducible refine nextInv_next ?_
    | with_reducible refine ite_nextInv ?_ ?_
    | split
    | with_reducible refine foldl_inv _ (fun s x h => ?_) _ _ ?_

theorem execMireStop_inv (p : Pair) (s : State) (hs : s.Inv) : nextInv (execMireStop p s) := by
  unfold execMireStop
  repeat' first
    | with_reducible assumption
    | (extract_lets +onlyGivenNames x; refine (fun hx : State.Inv x => ?_) ?_; clear_value x; rename' x => y; rotate_left; dsimp -zeta only [x]; clear x; rotate_left)
    | (extract_lets +onlyGivenNames x; clear_value x; rename' x => y)
    | with_reducible refine ite_inv ?_ ?_
    | with_reducible refine doMireStop_inv _ _ ?_
    | with_reducible refine State.asChange_inv _ _ _ _ ?_ ?_
    | with_reducible refine nextInv_next ?_
    | with_reducible refine ite_nextInv ?_ ?_
    | split
    | with_reducible refine foldl_inv _ (fun s x h => ?_) _ _ ?_

theorem execMaskTableLoad_inv (p : Pair) (s : State) (hs : s.Inv) : nextInv (execMaskTableLoad p s) := by
  unfold execMaskTableLoad
  repeat' first
    | with_reducible assumption
    | (extract_lets +onlyGivenNames x; refine (fun hx : State.Inv x => ?_) ?_; clear_value x; rename' x => y; rotate_left; dsimp -zeta only [x]; clear x; rotate_left)
    | (extract_lets +onlyGivenNames x; clear_value x; rename' x => y)
    | with_reducible refine ite_inv ?_ ?_
    | with_reducible refine doMaskTableLoad_inv _ _ ?_
    | with_reducible refine State.asChange_inv _ _ _ _ ?_ ?_
    | with_reducible refine nextInv_next ?_
    | with_reducible refine ite_nextInv ?_ ?_
    | split
    | with_reducible refine foldl_inv _ (fun s x h => ?_) _ _ ?_

theorem execInputMapLoad_inv (p : Pair) (s : State) (hs : s.Inv) : nextInv (execInputMapLoad p s) := by
  unfold execInputMapLoad
  repeat' first
    | with_reducible assumption
    | (extract_lets +onlyGivenNames x; refine (fun hx : State.Inv x => ?_) ?_; clear_value x; rename' x => y; rotate_left; dsimp -zeta only [x]; clear x; rotate_left)
    | (extract_lets +onlyGivenNames x; clear_value x; rename' x => y)
    | with_reducible refine ite_inv ?_ ?_
    | with_reducible refine doInputMapLoad_inv _ _ ?_
    | with_reducible refine State.asChange_inv _ _ _ _ ?_ ?_
    | with_reducible refine nextInv_next ?_
    | with_reducible refine ite_nextInv ?_ ?_
    | split
    | with_reducible refine foldl_inv _ (fun s x h => ?_) _ _ ?_

theorem execTimeSet_inv (p : Pair) (s : State) (hs : s.Inv) : nextInv (execTimeSet p s) := by
  unfold execTimeSet
  repeat' first
    | with_reducible assumption
    | (extract_lets +onlyGivenNames x; refine (fun hx : State.Inv x => ?_) ?_; clear_value x; rename' x => y; rotate_left; dsimp -zeta only [x]; clear x; rotate_left)
    | (extract_lets +onlyGivenNames x; clear_value x; rename' x => y)
    | with_reducible refine ite_inv ?_ ?_
    | with_reducible refine doTimeSet_inv _ _ ?_
    | with_reducible refine State.asChange_inv _ _ _ _ ?_ ?_
    | with_reducible refine nextInv_next ?_
    | with_reducible refine ite_nextInv ?_ ?_
    | split
    | with_reducible refine foldl_inv _ (fun s x h => ?_) _ _ ?_

theorem execCalMeasure_inv (p : Pair) (s : State) (hs : s.Inv) : nextInv (execCalMeasure p s) := by
  unfold execCalMeasure
  repeat' first
    | with_reducible assumption
    | (extract_lets +onlyGivenNames x; refine (fun hx : State.Inv x => ?_) ?_; clear_value x; rename' x => y; rotate_left; dsimp -zeta only [x]; clear x; rotate_left)
    | (extract_lets +onlyGivenNames x; clear_value x; rename' x => y)
    | with_reducible refine ite_inv ?_ ?_
    | with_reducible refine doCalMeasure_inv _ _ ?_
    | with_reducible refine State.asChange_inv _ _ _ _ ?_ ?_
    | with_reducible refine nextInv_next ?_
    | with_reducible refine ite_nextInv ?_ ?_
    | split
    | with_reducible refine foldl_inv _ (fun s x h => ?_) _ _ ?_

theorem execUrgent_inv (p : Pair) (s : State) (hs : s.Inv) : nextInv (execUrgent p s) := by
  unfold execUrgent
  repeat' first
    | with_reducible assumption
    | (extract_lets +onlyGivenNames x; refine (fun hx : State.Inv x => ?_) ?_; clear_value x; rename' x => y; rotate_left; dsimp -zeta only [x]; clear x; rotate_left)
    | (extract_lets +onlyGivenNames x; clear_value x; rename' x => y)
    | with_reducible refine ite_inv ?_ ?_
    | with_reducible refine doUrgent_inv _ _ ?_
    | with_reducible refine State.asChange_inv _ _ _ _ ?_ ?_
    | with_reducible refine nextInv_next ?_
    | with_reducible refine ite_nextInv ?_ ?_
    | split
    | with_reducible refine foldl_inv _ (fun s x h => ?_) _ _ ?_

theorem execOutputMapLoad_inv (p : Pair) (s : State) (hs : s.Inv) : nextInv (execOutputMapLoad p s) := by
  unfold execOutputMapLoad
  repeat' first
    | with_reducible assumption
    | (extract_lets +onlyGivenNames x; refine (fun hx : State.Inv x => ?_) ?_; clear_value x; rename' x => y; rotate_left; dsimp -zeta only [x]; clear x; rotate_left)
    | (extract_lets +onlyGivenNames x; clear_value x; rename' x => y)
    | with_reducible refine ite_inv ?_ ?_
    | with_reducible refine doOutputMapLoad_inv _ _ ?_
    | with_reducible refine State.asChange_inv _ _ _ _ ?_ ?_
    | with_reducible refine nextInv_next ?_
    | with_reducible refine ite_nextInv ?_ ?_
    | split
    | with_reducible refine foldl_inv _ (fun s x h => ?_) _ _ ?_

theorem execDacCoefficientLoad_inv (p : Pair) (s : State) (hs : s.Inv) : nextInv (execDacCoefficientLoad p s) := by
  unfold execDacCoefficientLoad
  repeat' first
    | with_reducible assumption
    | (extract_lets +onlyGivenNames x; refine (fun hx : State.Inv x => ?_) ?_; clear_value x; rename' x => y; rotate_left; dsimp -zeta only [x]; clear x; rotate_left)
    | (extract_lets +onlyGivenNames x; clear_value x; rename' x => y)
    | with_reducible refine ite_inv ?_ ?_
    | with_reducible refine doDacCoefficientLoad_inv _ _ ?_
    | with_reducible refine State.asChange_inv _ _ _ _ ?_ ?_
    | with_reducible refine nextInv_next ?_
    | with_reducible refine ite_nextInv ?_ ?_
    | split
    | with_reducible refine foldl_inv _ (fun s x h => ?_) _ _ ?_

theorem execInputTableLoad_inv (p : Pair) (s : State) (hs : s.Inv) : nextInv (execInputTableLoad p s) := by
  unfold execInputTableLoad
  repeat' first
    | with_reducible assumption
    | (extract_lets +onlyGivenNames x; refine (fun hx : State.Inv x => ?_) ?_; clear_value x; rename' x => y; rotate_left; dsimp -zeta only [x]; clear x; rotate_left)
    | (extract_lets +onlyGivenNames x; clear_value x; rename' x => y)
    | with_reducible refine ite_inv ?_ ?_
    | with_reducible refine doInputTableLoad_inv _ _ ?_
    | with_reducible refine State.asChange_inv _ _ _ _ ?_ ?_
    | with_reducible refine nextInv_next ?_
    | with_reducible refine ite_nextInv ?_ ?_
    | split
    | with_reducible refine foldl_inv _ (fun s x h => ?_) _ _ ?_

theorem State.applyChange_inv (s : State) (c : Word × Nat × List Byte × List Byte) (hs : s.Inv) :
    (State.applyChange s c).Inv := by
  unfold State.applyChange
  repeat' first
    | with_reducible assumption
    | (extract_lets +onlyGivenNames x; refine (fun hx : State.Inv x => ?_) ?_; clear_value x; rename' x => y; rotate_left; dsimp -zeta only [x]; clear x; rotate_left)
    | (extract_lets +onlyGivenNames x; clear_value x; rename' x => y)
    | simp -zeta only [State.inv_stp]
    | with_reducible refine ite_inv ?_ ?_
    | with_reducible refine State.runApart_inv _ _ _ _ ?_
    | with_reducible refine State.cancelStep_inv _ _ ?_
    | with_reducible refine State.enterStep_inv _ _ ?_
    | split
    | with_reducible refine foldl_inv _ (fun s x h => ?_) _ _ ?_

theorem State.applyMirrored_inv (s : State) (hs : s.Inv) : (State.applyMirrored s).Inv := by
  unfold State.applyMirrored
  repeat' first
    | with_reducible assumption
    | (extract_lets +onlyGivenNames x; refine (fun hx : State.Inv x => ?_) ?_; clear_value x; rename' x => y; rotate_left; dsimp -zeta only [x]; clear x; rotate_left)
    | (extract_lets +onlyGivenNames x; clear_value x; rename' x => y)
    | with_reducible refine ite_inv ?_ ?_
    | with_reducible refine State.setTwn_inv _ _ ?_
    | with_reducible refine State.applyChange_inv _ _ ?_
    | split
    | with_reducible refine foldl_inv _ (fun s x h => ?_) _ _ ?_

theorem State.becomeHolder_inv (s : State) (hs : s.Inv) : (State.becomeHolder s).Inv := by
  unfold State.becomeHolder
  repeat' first
    | with_reducible assumption
    | (extract_lets +onlyGivenNames x; refine (fun hx : State.Inv x => ?_) ?_; clear_value x; rename' x => y; rotate_left; dsimp -zeta only [x]; clear x; rotate_left)
    | (extract_lets +onlyGivenNames x; clear_value x; rename' x => y)
    | simp -zeta only [State.inv_cmb]
    | with_reducible refine ite_inv ?_ ?_
    | with_reducible refine State.carryLink_inv _ ?_
    | with_reducible refine State.refreshAct_inv _ ?_
    | with_reducible refine State.setTwn_inv _ _ ?_
    | with_reducible refine State.applyMirrored_inv _ ?_
    | split
    | with_reducible refine foldl_inv _ (fun s x h => ?_) _ _ ?_

theorem execTakeover_inv (s : State) (hs : s.Inv) : nextInv (execTakeover s) := by
  unfold execTakeover
  repeat' first
    | with_reducible assumption
    | (extract_lets +onlyGivenNames x; refine (fun hx : State.Inv x => ?_) ?_; clear_value x; rename' x => y; rotate_left; dsimp -zeta only [x]; clear x; rotate_left)
    | (extract_lets +onlyGivenNames x; clear_value x; rename' x => y)
    | with_reducible refine ite_inv ?_ ?_
    | with_reducible refine State.countLogic_inv _ _ ?_
    | with_reducible refine State.raise_inv _ _ _ ?_
    | with_reducible refine State.setTwn_inv _ _ ?_
    | with_reducible refine State.becomeHolder_inv _ ?_
    | with_reducible refine State.tookFree_inv _ ?_
    | with_reducible refine nextInv_next ?_
    | with_reducible refine ite_nextInv ?_ ?_
    | split
    | with_reducible refine foldl_inv _ (fun s x h => ?_) _ _ ?_

theorem execTwinLinkLost_inv (s : State) (hs : s.Inv) : nextInv (execTwinLinkLost s) := by
  unfold execTwinLinkLost
  repeat' first
    | with_reducible assumption
    | (extract_lets +onlyGivenNames x; refine (fun hx : State.Inv x => ?_) ?_; clear_value x; rename' x => y; rotate_left; dsimp -zeta only [x]; clear x; rotate_left)
    | (extract_lets +onlyGivenNames x; clear_value x; rename' x => y)
    | with_reducible refine ite_inv ?_ ?_
    | with_reducible refine State.loseTb3_inv _ ?_
    | with_reducible refine State.raise_inv _ _ _ ?_
    | with_reducible refine State.setTwn_inv _ _ ?_
    | with_reducible refine State.applyMirrored_inv _ ?_
    | with_reducible refine nextInv_next ?_
    | with_reducible refine ite_nextInv ?_ ?_
    | split
    | with_reducible refine foldl_inv _ (fun s x h => ?_) _ _ ?_

theorem execChangeAck_inv (seq : Word) (s : State) (hs : s.Inv) : nextInv (execChangeAck seq s) := by
  unfold execChangeAck
  repeat' first
    | with_reducible assumption
    | (extract_lets +onlyGivenNames x; refine (fun hx : State.Inv x => ?_) ?_; clear_value x; rename' x => y; rotate_left; dsimp -zeta only [x]; clear x; rotate_left)
    | (extract_lets +onlyGivenNames x; clear_value x; rename' x => y)
    | with_reducible refine ite_inv ?_ ?_
    | with_reducible refine State.linkFrame_inv _ ?_
    | with_reducible refine State.acceptChange_inv _ _ ?_
    | with_reducible refine nextInv_next ?_
    | with_reducible refine ite_nextInv ?_ ?_
    | split
    | with_reducible refine foldl_inv _ (fun s x h => ?_) _ _ ?_

theorem execChangeAckTimeout_inv (seq : Word) (s : State) (hs : s.Inv) : nextInv (execChangeAckTimeout seq s) := by
  unfold execChangeAckTimeout
  repeat' first
    | with_reducible assumption
    | (extract_lets +onlyGivenNames x; refine (fun hx : State.Inv x => ?_) ?_; clear_value x; rename' x => y; rotate_left; dsimp -zeta only [x]; clear x; rotate_left)
    | (extract_lets +onlyGivenNames x; clear_value x; rename' x => y)
    | with_reducible refine ite_inv ?_ ?_
    | with_reducible refine State.setTwn_inv _ _ ?_
    | with_reducible refine State.raise_inv _ _ _ ?_
    | with_reducible refine State.acceptChange_inv _ _ ?_
    | with_reducible refine nextInv_next ?_
    | with_reducible refine ite_nextInv ?_ ?_
    | split
    | with_reducible refine foldl_inv _ (fun s x h => ?_) _ _ ?_

theorem State.releaseChanges_inv (s : State) (hs : s.Inv) : (State.releaseChanges s).Inv := by
  unfold State.releaseChanges
  repeat' first
    | with_reducible assumption
    | (extract_lets +onlyGivenNames x; refine (fun hx : State.Inv x => ?_) ?_; clear_value x; rename' x => y; rotate_left; dsimp -zeta only [x]; clear x; rotate_left)
    | (extract_lets +onlyGivenNames x; clear_value x; rename' x => y)
    | with_reducible refine ite_inv ?_ ?_
    | with_reducible refine State.resumeChange_inv _ _ ?_
    | split
    | with_reducible refine foldl_inv _ (fun s x h => ?_) _ _ ?_

theorem State.stopActing_inv (s : State) (st : TwinSt) (hs : s.Inv) : (State.stopActing s st).Inv := by
  unfold State.stopActing
  repeat' first
    | with_reducible assumption
    | (extract_lets +onlyGivenNames x; refine (fun hx : State.Inv x => ?_) ?_; clear_value x; rename' x => y; rotate_left; dsimp -zeta only [x]; clear x; rotate_left)
    | (extract_lets +onlyGivenNames x; clear_value x; rename' x => y)
    | simp -zeta only [State.inv_cmb]
    | with_reducible refine ite_inv ?_ ?_
    | with_reducible refine State.releaseChanges_inv _ ?_
    | with_reducible refine State.leaveLink_inv _ _ ?_
    | with_reducible refine State.setTwn_inv _ _ ?_
    | split
    | with_reducible refine foldl_inv _ (fun s x h => ?_) _ _ ?_

theorem State.relinquish_inv (s : State) (n : Nat) (hs : s.Inv) : (State.relinquish s n).Inv := by
  unfold State.relinquish
  repeat' first
    | with_reducible assumption
    | (extract_lets +onlyGivenNames x; refine (fun hx : State.Inv x => ?_) ?_; clear_value x; rename' x => y; rotate_left; dsimp -zeta only [x]; clear x; rotate_left)
    | (extract_lets +onlyGivenNames x; clear_value x; rename' x => y)
    | with_reducible refine ite_inv ?_ ?_
    | with_reducible refine State.stopActing_inv _ _ ?_
    | with_reducible refine State.setTwn_inv _ _ ?_
    | with_reducible refine State.sendDown_inv _ _ ?_
    | with_reducible refine State.sendLease_inv _ _ _ _ _ ?_
    | with_reducible refine State.leaseWindow_inv _ _ _ _ ?_
    | split
    | with_reducible refine foldl_inv _ (fun s x h => ?_) _ _ ?_

theorem State.startForming_inv (s : State) (hs : s.Inv) : (State.startForming s).Inv := by
  unfold State.startForming
  repeat' first
    | with_reducible assumption
    | (extract_lets +onlyGivenNames x; refine (fun hx : State.Inv x => ?_) ?_; clear_value x; rename' x => y; rotate_left; dsimp -zeta only [x]; clear x; rotate_left)
    | (extract_lets +onlyGivenNames x; clear_value x; rename' x => y)
    | with_reducible refine ite_inv ?_ ?_
    | with_reducible refine State.setTwn_inv _ _ ?_
    | with_reducible refine State.loseTb3_inv _ ?_
    | with_reducible refine State.stopActing_inv _ _ ?_
    | split
    | with_reducible refine foldl_inv _ (fun s x h => ?_) _ _ ?_

theorem execGrant_inv (path : LeasePath) (seq : BitVec 8) (s : State) (hs : s.Inv) : nextInv
    (execGrant path seq s) := by
  unfold execGrant
  repeat' first
    | with_reducible assumption
    | (extract_lets +onlyGivenNames x; refine (fun hx : State.Inv x => ?_) ?_; clear_value x; rename' x => y; rotate_left; dsimp -zeta only [x]; clear x; rotate_left)
    | (extract_lets +onlyGivenNames x; clear_value x; rename' x => y)
    | with_reducible refine ite_inv ?_ ?_
    | with_reducible refine State.becomeHolder_inv _ ?_
    | with_reducible refine State.setTwn_inv _ _ ?_
    | with_reducible refine State.linkFrame_inv _ ?_
    | with_reducible refine State.takeHealth_inv _ _ ?_
    | with_reducible refine nextInv_next ?_
    | with_reducible refine ite_nextInv ?_ ?_
    | split
    | with_reducible refine foldl_inv _ (fun s x h => ?_) _ _ ?_

theorem State.applyImage_inv (s : State) (i : TwinImage) (hs : s.Inv) : (State.applyImage s i).Inv := by
  unfold State.applyImage
  repeat' first
    | with_reducible assumption
    | (extract_lets +onlyGivenNames x; refine (fun hx : State.Inv x => ?_) ?_; clear_value x; rename' x => y; rotate_left; dsimp -zeta only [x]; clear x; rotate_left)
    | (extract_lets +onlyGivenNames x; clear_value x; rename' x => y)
    | simp -zeta only [State.inv_blk, State.inv_cmb, State.inv_cmb_cnv, State.inv_cnv, State.inv_cnv_fio, State.inv_drn, State.inv_fio, State.inv_fio_drn, State.inv_fio_twn, State.inv_fio_wag, State.inv_freeIdx, State.inv_hif, State.inv_hif_out, State.inv_lcy, State.inv_leg, State.inv_mir, State.inv_out, State.inv_peat, State.inv_pending, State.inv_pw, State.inv_pw_cnv_drn, State.inv_pw_cnv_peat, State.inv_pw_drn, State.inv_pw_fio, State.inv_regs, State.inv_regs_pw_hif, State.inv_regs_time_pw_stp_cmb_blk_cnv_fio_mir_wag_twn_lcy_seen, State.inv_saf, State.inv_seen, State.inv_stp, State.inv_stp_cmb_blk_fio_wag, State.inv_time, State.inv_time_freeIdx, State.inv_time_pw, State.inv_time_pw_cnv_fio_twn_saf_drn_lcy, State.inv_time_pw_hif_stp_cmb_blk_cnv_fio_mir_wag_twn_leg, State.inv_twn, State.inv_wag]
    | with_reducible refine ite_inv ?_ ?_
    | with_reducible refine State.noteLayouts_inv _ ?_
    | with_reducible refine State.setTwn_inv _ _ ?_
    | with_reducible refine State.loadItem_inv _ _ ?_
    | split
    | with_reducible refine foldl_inv _ (fun s x h => ?_) _ _ ?_

theorem execState_inv (n : Word) (last : Bool) (bytes : List Byte) (s : State) (hs : s.Inv) : nextInv
    (execState n last bytes s) := by
  unfold execState
  repeat' first
    | with_reducible assumption
    | (extract_lets +onlyGivenNames x; refine (fun hx : State.Inv x => ?_) ?_; clear_value x; rename' x => y; rotate_left; dsimp -zeta only [x]; clear x; rotate_left)
    | (extract_lets +onlyGivenNames x; clear_value x; rename' x => y)
    | with_reducible refine ite_inv ?_ ?_
    | with_reducible refine State.applyImage_inv _ _ ?_
    | with_reducible refine State.setTwn_inv _ _ ?_
    | with_reducible refine State.stopActing_inv _ _ ?_
    | with_reducible refine State.linkFrame_inv _ ?_
    | with_reducible refine nextInv_next ?_
    | with_reducible refine ite_nextInv ?_ ?_
    | split
    | with_reducible refine foldl_inv _ (fun s x h => ?_) _ _ ?_

theorem State.replayRecord_inv (s : State) (x : SnapRecord) (hs : s.Inv) : (State.replayRecord s x).Inv :=
  State.inv_of_mask (State.replayRecord_mask (by with_unfolding_all rfl) s x) hs

theorem State.replayAct_inv (s : State) (n : Nat) (x : Int × Nat × ReplayAct) (hs : s.Inv) :
    (State.replayAct s n x).Inv := by
  unfold State.replayAct State.withTb1
  repeat' first
    | with_reducible assumption
    | (extract_lets +onlyGivenNames x; refine (fun hx : State.Inv x => ?_) ?_; clear_value x; rename' x => y; rotate_left; dsimp -zeta only [x]; clear x; rotate_left)
    | (extract_lets +onlyGivenNames x; clear_value x; rename' x => y)
    | with_reducible refine ite_inv ?_ ?_
    | with_reducible refine State.evaluate_inv _ _ _ _ _ ?_
    | with_reducible refine State.settleLoads_inv _ ?_
    | with_reducible refine State.takeRecords_inv _ _ ?_
    | with_reducible refine State.launchDue_inv _ _ ?_
    | with_reducible refine State.replayRecord_inv _ _ ?_
    | with_reducible refine State.setTime_inv _ _ ?_
    | with_reducible refine nextInv_next ?_
    | with_reducible refine ite_nextInv ?_ ?_
    | split
    | with_reducible refine foldl_inv _ (fun s x h => ?_) _ _ ?_

theorem execTwinLinkUp_inv (p : PartnerInfo) (s : State) (hs : s.Inv) : nextInv (execTwinLinkUp p s) := by
  unfold execTwinLinkUp
  repeat' first
    | with_reducible assumption
    | (extract_lets +onlyGivenNames x; refine (fun hx : State.Inv x => ?_) ?_; clear_value x; rename' x => y; rotate_left; dsimp -zeta only [x]; clear x; rotate_left)
    | (extract_lets +onlyGivenNames x; clear_value x; rename' x => y)
    | with_reducible refine ite_inv ?_ ?_
    | with_reducible refine State.stopActing_inv _ _ ?_
    | with_reducible refine State.startForming_inv _ ?_
    | with_reducible refine State.setTwn_inv _ _ ?_
    | with_reducible refine State.raise_inv _ _ _ ?_
    | with_reducible refine State.linkFrame_inv _ ?_
    | with_reducible refine nextInv_next ?_
    | with_reducible refine ite_nextInv ?_ ?_
    | split
    | with_reducible refine foldl_inv _ (fun s x h => ?_) _ _ ?_

theorem execStandbyReplay_inv (s : State) (hs : s.Inv) : nextInv (execStandbyReplay s) := by
  unfold execStandbyReplay
  repeat' first
    | with_reducible assumption
    | (extract_lets +onlyGivenNames x; refine (fun hx : State.Inv x => ?_) ?_; clear_value x; rename' x => y; rotate_left; dsimp -zeta only [x]; clear x; rotate_left)
    | (extract_lets +onlyGivenNames x; clear_value x; rename' x => y)
    | simp -zeta only [State.inv_cmb]
    | with_reducible refine ite_inv ?_ ?_
    | with_reducible refine State.raise_inv _ _ _ ?_
    | with_reducible refine State.confirmActivation_inv _ ?_
    | with_reducible refine State.emitOut_inv _ _ ?_
    | with_reducible refine State.replayAct_inv _ _ _ ?_
    | with_reducible refine State.applyChange_inv _ _ ?_
    | with_reducible refine State.setTwn_inv _ _ ?_
    | with_reducible refine State.snapFault_inv _ _ ?_
    | with_reducible refine nextInv_next ?_
    | with_reducible refine ite_nextInv ?_ ?_
    | split
    | with_reducible refine foldl_inv _ (fun s x h => ?_) _ _ ?_

theorem execActUntil_inv (s : State) (hs : s.Inv) : nextInv (execActUntil s) := by
  unfold execActUntil
  repeat' first
    | with_reducible assumption
    | (extract_lets +onlyGivenNames x; refine (fun hx : State.Inv x => ?_) ?_; clear_value x; rename' x => y; rotate_left; dsimp -zeta only [x]; clear x; rotate_left)
    | (extract_lets +onlyGivenNames x; clear_value x; rename' x => y)
    | with_reducible refine ite_inv ?_ ?_
    | with_reducible refine State.stopActing_inv _ _ ?_
    | with_reducible refine State.raise_inv _ _ _ ?_
    | with_reducible refine State.setTwn_inv _ _ ?_
    | with_reducible refine State.regate_inv _ ?_
    | with_reducible refine nextInv_next ?_
    | with_reducible refine ite_nextInv ?_ ?_
    | split
    | with_reducible refine foldl_inv _ (fun s x h => ?_) _ _ ?_

theorem State.twinPeriod_inv (s : State) (n : Nat) (hs : s.Inv) : (State.twinPeriod s n).Inv := by
  unfold State.twinPeriod
  repeat' first
    | with_reducible assumption
    | (extract_lets +onlyGivenNames x; refine (fun hx : State.Inv x => ?_) ?_; clear_value x; rename' x => y; rotate_left; dsimp -zeta only [x]; clear x; rotate_left)
    | (extract_lets +onlyGivenNames x; clear_value x; rename' x => y)
    | with_reducible refine ite_inv ?_ ?_
    | with_reducible refine State.refreshAct_inv _ ?_
    | with_reducible refine State.healthRule_inv _ ?_
    | with_reducible refine State.setTwn_inv _ _ ?_
    | with_reducible refine State.sendImage_inv _ _ ?_
    | with_reducible refine State.emitOut_inv _ _ ?_
    | with_reducible refine State.relinquish_inv _ _ ?_
    | split
    | with_reducible refine foldl_inv _ (fun s x h => ?_) _ _ ?_

theorem State.baseOverrun_inv (s : State) (hs : s.Inv) : (State.baseOverrun s).Inv := by
  unfold State.baseOverrun
  repeat' first
    | with_reducible assumption
    | (extract_lets +onlyGivenNames x; refine (fun hx : State.Inv x => ?_) ?_; clear_value x; rename' x => y; rotate_left; dsimp -zeta only [x]; clear x; rotate_left)
    | (extract_lets +onlyGivenNames x; clear_value x; rename' x => y)
    | simp -zeta only [State.inv_cmb]
    | with_reducible refine ite_inv ?_ ?_
    | with_reducible refine State.raise_inv _ _ _ ?_
    | with_reducible refine State.mirTake_inv _ _ ?_
    | split
    | with_reducible refine foldl_inv _ (fun s x h => ?_) _ _ ?_

theorem State.beginPeriod_inv (s : State) (n : Nat) (enc : List EncReading) (hs : s.Inv) :
    (State.beginPeriod s n enc).Inv := by
  unfold State.beginPeriod
  repeat' first
    | with_reducible assumption
    | (extract_lets +onlyGivenNames x; refine (fun hx : State.Inv x => ?_) ?_; clear_value x; rename' x => y; rotate_left; dsimp -zeta only [x]; clear x; rotate_left)
    | (extract_lets +onlyGivenNames x; clear_value x; rename' x => y)
    | simp -zeta only [State.inv_cmb]
    | with_reducible refine ite_inv ?_ ?_
    | with_reducible refine State.reportClamps_inv _ ?_
    | with_reducible refine State.applyCal_inv _ ?_
    | with_reducible refine State.mirPattern_inv _ _ ?_
    | with_reducible refine State.convPattern_inv _ ?_
    | with_reducible refine State.startConvPeriod_inv _ _ ?_
    | with_reducible refine State.applyFioTables_inv _ ?_
    | with_reducible refine State.applyDacTable_inv _ ?_
    | with_reducible refine State.shiftLatches_inv _ ?_
    | with_reducible refine State.latchEncs_inv _ _ _ ?_
    | with_reducible refine State.dueChanges_inv _ _ ?_
    | with_reducible refine State.keepGrid_inv _ ?_
    | split
    | with_reducible refine foldl_inv _ (fun s x h => ?_) _ _ ?_

theorem execBasePeriodStart_inv (enc : List EncReading) (s : State) (hs : s.Inv) : nextInv
    (execBasePeriodStart enc s) := by
  unfold execBasePeriodStart
  repeat' first
    | with_reducible assumption
    | (extract_lets +onlyGivenNames x; refine (fun hx : State.Inv x => ?_) ?_; clear_value x; rename' x => y; rotate_left; dsimp -zeta only [x]; clear x; rotate_left)
    | (extract_lets +onlyGivenNames x; clear_value x; rename' x => y)
    | simp -zeta only [State.inv_cmb]
    | with_reducible refine ite_inv ?_ ?_
    | with_reducible refine State.endSnapshot_inv _ _ ?_
    | with_reducible refine State.twinPeriod_inv _ _ ?_
    | with_reducible refine State.baseOverrun_inv _ ?_
    | with_reducible refine State.mirPeriod_inv _ _ ?_
    | with_reducible refine State.endConvPeriod_inv _ _ _ ?_
    | with_reducible refine State.mirStart_inv _ ?_
    | with_reducible refine State.beginPeriod_inv _ _ _ ?_
    | with_reducible refine State.judgePhase_inv _ ?_
    | with_reducible refine nextInv_next ?_
    | with_reducible refine ite_nextInv ?_ ?_
    | split
    | with_reducible refine foldl_inv _ (fun s x h => ?_) _ _ ?_

theorem State.logicOff_inv (s : State) (cause : Nat) (hs : s.Inv) : (State.logicOff s cause).Inv := rfl

theorem execPresenceRelease_inv (side : Side) (s : State) (hs : s.Inv) : nextInv (execPresenceRelease side s) := by
  unfold execPresenceRelease
  repeat' first
    | with_reducible assumption
    | (extract_lets +onlyGivenNames x; refine (fun hx : State.Inv x => ?_) ?_; clear_value x; rename' x => y; rotate_left; dsimp -zeta only [x]; clear x; rotate_left)
    | (extract_lets +onlyGivenNames x; clear_value x; rename' x => y)
    | with_reducible refine ite_inv ?_ ?_
    | with_reducible refine State.fieldDown_inv _ ?_
    | with_reducible refine State.logicOff_inv _ _ ?_
    | with_reducible refine State.setPw_inv _ _ ?_
    | with_reducible refine nextInv_next ?_
    | with_reducible refine ite_nextInv ?_ ?_
    | split
    | with_reducible refine foldl_inv _ (fun s x h => ?_) _ _ ?_

theorem State.bootTake_inv (s : State) (warm : Bool) (old : TaskRt) (t id : Nat) (x : State × Option (Byte × BitVec 64)) (hs : s.Inv)
    (hx : x.1.Inv) : (State.bootTake s warm old t id x).Inv := by
  unfold State.bootTake
  split
  · exact ite_inv (State.adoptImage_inv _ _ _ _ _ hx) hs
  · exact hs

theorem State.bootImage_inv (s : State) (warm : Bool) (old : TaskRt) (task : Fin 8) (bytes : List Byte) (hs : s.Inv) :
    (State.bootImage s warm old task bytes).Inv :=
  State.bootTake_inv s warm old task.val (iId bytes) _ hs (State.runApart_inv s _ _ _ hs)

theorem State.bootItem_inv (s : State) (warm : Bool) (old : Sparse TaskRt) (it : PersistItem) (hs : s.Inv) :
    (State.bootItem s warm old it).Inv := by
  unfold State.bootItem
  repeat' first
    | with_reducible assumption
    | (extract_lets +onlyGivenNames x; refine (fun hx : State.Inv x => ?_) ?_; clear_value x; rename' x => y; rotate_left; dsimp -zeta only [x]; clear x; rotate_left)
    | (extract_lets +onlyGivenNames x; clear_value x; rename' x => y)
    | with_reducible refine ite_inv ?_ ?_
    | with_reducible refine State.bootImage_inv _ _ _ _ _ ?_
    | with_reducible refine State.loadItem_inv _ _ ?_
    | with_reducible refine State.persistReg_inv _ _ _ ?_
    | split
    | with_reducible refine foldl_inv _ (fun s x h => ?_) _ _ ?_

theorem State.loadPersistent_inv (s : State) (warm : Bool) (hs : s.Inv) : (State.loadPersistent s warm).Inv := by
  unfold State.loadPersistent
  repeat' first
    | with_reducible assumption
    | (extract_lets +onlyGivenNames x; refine (fun hx : State.Inv x => ?_) ?_; clear_value x; rename' x => y; rotate_left; dsimp -zeta only [x]; clear x; rotate_left)
    | (extract_lets +onlyGivenNames x; clear_value x; rename' x => y)
    | simp -zeta only [State.inv_blk]
    | with_reducible refine ite_inv ?_ ?_
    | with_reducible refine State.bootItem_inv _ _ _ _ ?_
    | split
    | with_reducible refine foldl_inv _ (fun s x h => ?_) _ _ ?_

theorem execLogicBootVerified_inv (slotOk retentionOk : Bool) (s : State) (hs : s.Inv) : nextInv
    (execLogicBootVerified slotOk retentionOk s) := by
  unfold execLogicBootVerified
  repeat' first
    | with_reducible assumption
    | (extract_lets +onlyGivenNames x; refine (fun hx : State.Inv x => ?_) ?_; clear_value x; rename' x => y; rotate_left; dsimp -zeta only [x]; clear x; rotate_left)
    | (extract_lets +onlyGivenNames x; clear_value x; rename' x => y)
    | simp -zeta only [State.inv_pw_fio]
    | with_reducible refine ite_inv ?_ ?_
    | with_reducible refine State.judgePhase_inv _ ?_
    | with_reducible refine State.takeRole_inv _ ?_
    | with_reducible refine State.loadPersistent_inv _ _ ?_
    | with_reducible refine State.countLogic_inv _ _ ?_
    | with_reducible refine State.coldCounters_inv _ ?_
    | with_reducible refine State.turnCold_inv _ ?_
    | with_reducible refine State.setPw_inv _ _ ?_
    | with_reducible refine State.bootFallback_inv _ ?_
    | with_reducible refine nextInv_next ?_
    | with_reducible refine ite_nextInv ?_ ?_
    | split
    | with_reducible refine foldl_inv _ (fun s x h => ?_) _ _ ?_

theorem execLogicOvertemp_inv (s : State) (hs : s.Inv) : nextInv (execLogicOvertemp s) := by
  unfold execLogicOvertemp
  repeat' first
    | with_reducible assumption
    | (extract_lets +onlyGivenNames x; refine (fun hx : State.Inv x => ?_) ?_; clear_value x; rename' x => y; rotate_left; dsimp -zeta only [x]; clear x; rotate_left)
    | (extract_lets +onlyGivenNames x; clear_value x; rename' x => y)
    | with_reducible refine ite_inv ?_ ?_
    | with_reducible refine State.logicOff_inv _ _ ?_
    | with_reducible refine nextInv_next ?_
    | with_reducible refine ite_nextInv ?_ ?_
    | split
    | with_reducible refine foldl_inv _ (fun s x h => ?_) _ _ ?_

theorem execV12OutOfRange_inv (s : State) (hs : s.Inv) : nextInv (execV12OutOfRange s) := by
  unfold execV12OutOfRange
  repeat' first
    | with_reducible assumption
    | (extract_lets +onlyGivenNames x; refine (fun hx : State.Inv x => ?_) ?_; clear_value x; rename' x => y; rotate_left; dsimp -zeta only [x]; clear x; rotate_left)
    | (extract_lets +onlyGivenNames x; clear_value x; rename' x => y)
    | with_reducible refine ite_inv ?_ ?_
    | with_reducible refine State.logicOff_inv _ _ ?_
    | with_reducible refine State.setPw_inv _ _ ?_
    | with_reducible refine nextInv_next ?_
    | with_reducible refine ite_nextInv ?_ ?_
    | split
    | with_reducible refine foldl_inv _ (fun s x h => ?_) _ _ ?_

end Sys2Proof.Machine
end

