-- ==== Sys2Proof/Laws/State.lean ====
section
/-! SUPPORT. Each named update of State, each field it leaves alone or sets: true by rfl, so that no proof unfolds a record
update. -/

namespace Sys2Proof.Machine
@[simp] theorem State.setTime_pending (s : State) (t : TimeState) : (State.setTime s t).pending = s.pending := rfl
@[simp] theorem State.setTime_regs (s : State) (t : TimeState) : (State.setTime s t).regs = s.regs := rfl
@[simp] theorem State.setTime_pw (s : State) (t : TimeState) : (State.setTime s t).pw = s.pw := rfl
@[simp] theorem State.setTime_hif (s : State) (t : TimeState) : (State.setTime s t).hif = s.hif := rfl
@[simp] theorem State.setTime_stp (s : State) (t : TimeState) : (State.setTime s t).stp = s.stp := rfl
@[simp] theorem State.setTime_cmb (s : State) (t : TimeState) : (State.setTime s t).cmb = s.cmb := rfl
@[simp] theorem State.setTime_blk (s : State) (t : TimeState) : (State.setTime s t).blk = s.blk := rfl
@[simp] theorem State.setTime_cnv (s : State) (t : TimeState) : (State.setTime s t).cnv = s.cnv := rfl
@[simp] theorem State.setTime_fio (s : State) (t : TimeState) : (State.setTime s t).fio = s.fio := rfl
@[simp] theorem State.setTime_mir (s : State) (t : TimeState) : (State.setTime s t).mir = s.mir := rfl
@[simp] theorem State.setTime_bog (s : State) (t : TimeState) : (State.setTime s t).bog = s.bog := rfl
@[simp] theorem State.setTime_wag (s : State) (t : TimeState) : (State.setTime s t).wag = s.wag := rfl
@[simp] theorem State.setTime_twn (s : State) (t : TimeState) : (State.setTime s t).twn = s.twn := rfl
@[simp] theorem State.setTime_saf (s : State) (t : TimeState) : (State.setTime s t).saf = s.saf := rfl
@[simp] theorem State.setTime_drn (s : State) (t : TimeState) : (State.setTime s t).drn = s.drn := rfl
@[simp] theorem State.setTime_leg (s : State) (t : TimeState) : (State.setTime s t).leg = s.leg := rfl
@[simp] theorem State.setTime_lcy (s : State) (t : TimeState) : (State.setTime s t).lcy = s.lcy := rfl
@[simp] theorem State.setTime_peat (s : State) (t : TimeState) : (State.setTime s t).peat = s.peat := rfl
@[simp] theorem State.setTime_seen (s : State) (t : TimeState) : (State.setTime s t).seen = s.seen := rfl
@[simp] theorem State.setTime_out (s : State) (t : TimeState) : (State.setTime s t).out = s.out := rfl
@[simp] theorem State.setTime_freeIdx (s : State) (t : TimeState) : (State.setTime s t).freeIdx = s.freeIdx := rfl
@[simp] theorem State.setTime_time (s : State) (t : TimeState) : (State.setTime s t).time = t := rfl
@[simp] theorem State.setPw_pending (s : State) (p : PowerState) : (State.setPw s p).pending = s.pending := rfl
@[simp] theorem State.setPw_regs (s : State) (p : PowerState) : (State.setPw s p).regs = s.regs := rfl
@[simp] theorem State.setPw_time (s : State) (p : PowerState) : (State.setPw s p).time = s.time := rfl
@[simp] theorem State.setPw_hif (s : State) (p : PowerState) : (State.setPw s p).hif = s.hif := rfl
@[simp] theorem State.setPw_stp (s : State) (p : PowerState) : (State.setPw s p).stp = s.stp := rfl
@[simp] theorem State.setPw_cmb (s : State) (p : PowerState) : (State.setPw s p).cmb = s.cmb := rfl
@[simp] theorem State.setPw_blk (s : State) (p : PowerState) : (State.setPw s p).blk = s.blk := rfl
@[simp] theorem State.setPw_cnv (s : State) (p : PowerState) : (State.setPw s p).cnv = s.cnv := rfl
@[simp] theorem State.setPw_fio (s : State) (p : PowerState) : (State.setPw s p).fio = s.fio := rfl
@[simp] theorem State.setPw_mir (s : State) (p : PowerState) : (State.setPw s p).mir = s.mir := rfl
@[simp] theorem State.setPw_bog (s : State) (p : PowerState) : (State.setPw s p).bog = s.bog := rfl
@[simp] theorem State.setPw_wag (s : State) (p : PowerState) : (State.setPw s p).wag = s.wag := rfl
@[simp] theorem State.setPw_twn (s : State) (p : PowerState) : (State.setPw s p).twn = s.twn := rfl
@[simp] theorem State.setPw_saf (s : State) (p : PowerState) : (State.setPw s p).saf = s.saf := rfl
@[simp] theorem State.setPw_drn (s : State) (p : PowerState) : (State.setPw s p).drn = s.drn := rfl
@[simp] theorem State.setPw_leg (s : State) (p : PowerState) : (State.setPw s p).leg = s.leg := rfl
@[simp] theorem State.setPw_lcy (s : State) (p : PowerState) : (State.setPw s p).lcy = s.lcy := rfl
@[simp] theorem State.setPw_peat (s : State) (p : PowerState) : (State.setPw s p).peat = s.peat := rfl
@[simp] theorem State.setPw_seen (s : State) (p : PowerState) : (State.setPw s p).seen = s.seen := rfl
@[simp] theorem State.setPw_out (s : State) (p : PowerState) : (State.setPw s p).out = s.out := rfl
@[simp] theorem State.setPw_freeIdx (s : State) (p : PowerState) : (State.setPw s p).freeIdx = s.freeIdx := rfl
@[simp] theorem State.setPw_pw (s : State) (p : PowerState) : (State.setPw s p).pw = p := rfl
@[simp] theorem State.setHif_pending (s : State) (h : HifState) : (State.setHif s h).pending = s.pending := rfl
@[simp] theorem State.setHif_regs (s : State) (h : HifState) : (State.setHif s h).regs = s.regs := rfl
@[simp] theorem State.setHif_time (s : State) (h : HifState) : (State.setHif s h).time = s.time := rfl
@[simp] theorem State.setHif_pw (s : State) (h : HifState) : (State.setHif s h).pw = s.pw := rfl
@[simp] theorem State.setHif_stp (s : State) (h : HifState) : (State.setHif s h).stp = s.stp := rfl
@[simp] theorem State.setHif_cmb (s : State) (h : HifState) : (State.setHif s h).cmb = s.cmb := rfl
@[simp] theorem State.setHif_blk (s : State) (h : HifState) : (State.setHif s h).blk = s.blk := rfl
@[simp] theorem State.setHif_cnv (s : State) (h : HifState) : (State.setHif s h).cnv = s.cnv := rfl
@[simp] theorem State.setHif_fio (s : State) (h : HifState) : (State.setHif s h).fio = s.fio := rfl
@[simp] theorem State.setHif_mir (s : State) (h : HifState) : (State.setHif s h).mir = s.mir := rfl
@[simp] theorem State.setHif_bog (s : State) (h : HifState) : (State.setHif s h).bog = s.bog := rfl
@[simp] theorem State.setHif_wag (s : State) (h : HifState) : (State.setHif s h).wag = s.wag := rfl
@[simp] theorem State.setHif_twn (s : State) (h : HifState) : (State.setHif s h).twn = s.twn := rfl
@[simp] theorem State.setHif_saf (s : State) (h : HifState) : (State.setHif s h).saf = s.saf := rfl
@[simp] theorem State.setHif_drn (s : State) (h : HifState) : (State.setHif s h).drn = s.drn := rfl
@[simp] theorem State.setHif_leg (s : State) (h : HifState) : (State.setHif s h).leg = s.leg := rfl
@[simp] theorem State.setHif_lcy (s : State) (h : HifState) : (State.setHif s h).lcy = s.lcy := rfl
@[simp] theorem State.setHif_peat (s : State) (h : HifState) : (State.setHif s h).peat = s.peat := rfl
@[simp] theorem State.setHif_seen (s : State) (h : HifState) : (State.setHif s h).seen = s.seen := rfl
@[simp] theorem State.setHif_out (s : State) (h : HifState) : (State.setHif s h).out = s.out := rfl
@[simp] theorem State.setHif_freeIdx (s : State) (h : HifState) : (State.setHif s h).freeIdx = s.freeIdx := rfl
@[simp] theorem State.setHif_hif (s : State) (h : HifState) : (State.setHif s h).hif = h := rfl
@[simp] theorem State.setWag_pending (s : State) (g : WagState) : (State.setWag s g).pending = s.pending := rfl
@[simp] theorem State.setWag_regs (s : State) (g : WagState) : (State.setWag s g).regs = s.regs := rfl
@[simp] theorem State.setWag_time (s : State) (g : WagState) : (State.setWag s g).time = s.time := rfl
@[simp] theorem State.setWag_pw (s : State) (g : WagState) : (State.setWag s g).pw = s.pw := rfl
@[simp] theorem State.setWag_hif (s : State) (g : WagState) : (State.setWag s g).hif = s.hif := rfl
@[simp] theorem State.setWag_stp (s : State) (g : WagState) : (State.setWag s g).stp = s.stp := rfl
@[simp] theorem State.setWag_cmb (s : State) (g : WagState) : (State.setWag s g).cmb = s.cmb := rfl
@[simp] theorem State.setWag_blk (s : State) (g : WagState) : (State.setWag s g).blk = s.blk := rfl
@[simp] theorem State.setWag_cnv (s : State) (g : WagState) : (State.setWag s g).cnv = s.cnv := rfl
@[simp] theorem State.setWag_fio (s : State) (g : WagState) : (State.setWag s g).fio = s.fio := rfl
@[simp] theorem State.setWag_mir (s : State) (g : WagState) : (State.setWag s g).mir = s.mir := rfl
@[simp] theorem State.setWag_bog (s : State) (g : WagState) : (State.setWag s g).bog = s.bog := rfl
@[simp] theorem State.setWag_twn (s : State) (g : WagState) : (State.setWag s g).twn = s.twn := rfl
@[simp] theorem State.setWag_saf (s : State) (g : WagState) : (State.setWag s g).saf = s.saf := rfl
@[simp] theorem State.setWag_drn (s : State) (g : WagState) : (State.setWag s g).drn = s.drn := rfl
@[simp] theorem State.setWag_leg (s : State) (g : WagState) : (State.setWag s g).leg = s.leg := rfl
@[simp] theorem State.setWag_lcy (s : State) (g : WagState) : (State.setWag s g).lcy = s.lcy := rfl
@[simp] theorem State.setWag_peat (s : State) (g : WagState) : (State.setWag s g).peat = s.peat := rfl
@[simp] theorem State.setWag_seen (s : State) (g : WagState) : (State.setWag s g).seen = s.seen := rfl
@[simp] theorem State.setWag_out (s : State) (g : WagState) : (State.setWag s g).out = s.out := rfl
@[simp] theorem State.setWag_freeIdx (s : State) (g : WagState) : (State.setWag s g).freeIdx = s.freeIdx := rfl
@[simp] theorem State.setWag_wag (s : State) (g : WagState) : (State.setWag s g).wag = g := rfl
@[simp] theorem State.setTwn_pending (s : State) (t : TwnState) : (State.setTwn s t).pending = s.pending := rfl
@[simp] theorem State.setTwn_regs (s : State) (t : TwnState) : (State.setTwn s t).regs = s.regs := rfl
@[simp] theorem State.setTwn_time (s : State) (t : TwnState) : (State.setTwn s t).time = s.time := rfl
@[simp] theorem State.setTwn_pw (s : State) (t : TwnState) : (State.setTwn s t).pw = s.pw := rfl
@[simp] theorem State.setTwn_hif (s : State) (t : TwnState) : (State.setTwn s t).hif = s.hif := rfl
@[simp] theorem State.setTwn_stp (s : State) (t : TwnState) : (State.setTwn s t).stp = s.stp := rfl
@[simp] theorem State.setTwn_cmb (s : State) (t : TwnState) : (State.setTwn s t).cmb = s.cmb := rfl
@[simp] theorem State.setTwn_blk (s : State) (t : TwnState) : (State.setTwn s t).blk = s.blk := rfl
@[simp] theorem State.setTwn_cnv (s : State) (t : TwnState) : (State.setTwn s t).cnv = s.cnv := rfl
@[simp] theorem State.setTwn_fio (s : State) (t : TwnState) : (State.setTwn s t).fio = s.fio := rfl
@[simp] theorem State.setTwn_mir (s : State) (t : TwnState) : (State.setTwn s t).mir = s.mir := rfl
@[simp] theorem State.setTwn_bog (s : State) (t : TwnState) : (State.setTwn s t).bog = s.bog := rfl
@[simp] theorem State.setTwn_wag (s : State) (t : TwnState) : (State.setTwn s t).wag = s.wag := rfl
@[simp] theorem State.setTwn_saf (s : State) (t : TwnState) : (State.setTwn s t).saf = s.saf := rfl
@[simp] theorem State.setTwn_drn (s : State) (t : TwnState) : (State.setTwn s t).drn = s.drn := rfl
@[simp] theorem State.setTwn_leg (s : State) (t : TwnState) : (State.setTwn s t).leg = s.leg := rfl
@[simp] theorem State.setTwn_lcy (s : State) (t : TwnState) : (State.setTwn s t).lcy = s.lcy := rfl
@[simp] theorem State.setTwn_peat (s : State) (t : TwnState) : (State.setTwn s t).peat = s.peat := rfl
@[simp] theorem State.setTwn_seen (s : State) (t : TwnState) : (State.setTwn s t).seen = s.seen := rfl
@[simp] theorem State.setTwn_out (s : State) (t : TwnState) : (State.setTwn s t).out = s.out := rfl
@[simp] theorem State.setTwn_freeIdx (s : State) (t : TwnState) : (State.setTwn s t).freeIdx = s.freeIdx := rfl
@[simp] theorem State.setTwn_twn (s : State) (t : TwnState) : (State.setTwn s t).twn = t := rfl
@[simp] theorem State.setSaf_pending (s : State) (f : SafState) : (State.setSaf s f).pending = s.pending := rfl
@[simp] theorem State.setSaf_regs (s : State) (f : SafState) : (State.setSaf s f).regs = s.regs := rfl
@[simp] theorem State.setSaf_time (s : State) (f : SafState) : (State.setSaf s f).time = s.time := rfl
@[simp] theorem State.setSaf_pw (s : State) (f : SafState) : (State.setSaf s f).pw = s.pw := rfl
@[simp] theorem State.setSaf_hif (s : State) (f : SafState) : (State.setSaf s f).hif = s.hif := rfl
@[simp] theorem State.setSaf_stp (s : State) (f : SafState) : (State.setSaf s f).stp = s.stp := rfl
@[simp] theorem State.setSaf_cmb (s : State) (f : SafState) : (State.setSaf s f).cmb = s.cmb := rfl
@[simp] theorem State.setSaf_blk (s : State) (f : SafState) : (State.setSaf s f).blk = s.blk := rfl
@[simp] theorem State.setSaf_cnv (s : State) (f : SafState) : (State.setSaf s f).cnv = s.cnv := rfl
@[simp] theorem State.setSaf_fio (s : State) (f : SafState) : (State.setSaf s f).fio = s.fio := rfl
@[simp] theorem State.setSaf_mir (s : State) (f : SafState) : (State.setSaf s f).mir = s.mir := rfl
@[simp] theorem State.setSaf_bog (s : State) (f : SafState) : (State.setSaf s f).bog = s.bog := rfl
@[simp] theorem State.setSaf_wag (s : State) (f : SafState) : (State.setSaf s f).wag = s.wag := rfl
@[simp] theorem State.setSaf_twn (s : State) (f : SafState) : (State.setSaf s f).twn = s.twn := rfl
@[simp] theorem State.setSaf_drn (s : State) (f : SafState) : (State.setSaf s f).drn = s.drn := rfl
@[simp] theorem State.setSaf_leg (s : State) (f : SafState) : (State.setSaf s f).leg = s.leg := rfl
@[simp] theorem State.setSaf_lcy (s : State) (f : SafState) : (State.setSaf s f).lcy = s.lcy := rfl
@[simp] theorem State.setSaf_peat (s : State) (f : SafState) : (State.setSaf s f).peat = s.peat := rfl
@[simp] theorem State.setSaf_seen (s : State) (f : SafState) : (State.setSaf s f).seen = s.seen := rfl
@[simp] theorem State.setSaf_out (s : State) (f : SafState) : (State.setSaf s f).out = s.out := rfl
@[simp] theorem State.setSaf_freeIdx (s : State) (f : SafState) : (State.setSaf s f).freeIdx = s.freeIdx := rfl
@[simp] theorem State.setSaf_saf (s : State) (f : SafState) : (State.setSaf s f).saf = f := rfl
@[simp] theorem State.setLeg_pending (s : State) (l : LegState) : (State.setLeg s l).pending = s.pending := rfl
@[simp] theorem State.setLeg_regs (s : State) (l : LegState) : (State.setLeg s l).regs = s.regs := rfl
@[simp] theorem State.setLeg_time (s : State) (l : LegState) : (State.setLeg s l).time = s.time := rfl
@[simp] theorem State.setLeg_pw (s : State) (l : LegState) : (State.setLeg s l).pw = s.pw := rfl
@[simp] theorem State.setLeg_hif (s : State) (l : LegState) : (State.setLeg s l).hif = s.hif := rfl
@[simp] theorem State.setLeg_stp (s : State) (l : LegState) : (State.setLeg s l).stp = s.stp := rfl
@[simp] theorem State.setLeg_cmb (s : State) (l : LegState) : (State.setLeg s l).cmb = s.cmb := rfl
@[simp] theorem State.setLeg_blk (s : State) (l : LegState) : (State.setLeg s l).blk = s.blk := rfl
@[simp] theorem State.setLeg_cnv (s : State) (l : LegState) : (State.setLeg s l).cnv = s.cnv := rfl
@[simp] theorem State.setLeg_fio (s : State) (l : LegState) : (State.setLeg s l).fio = s.fio := rfl
@[simp] theorem State.setLeg_mir (s : State) (l : LegState) : (State.setLeg s l).mir = s.mir := rfl
@[simp] theorem State.setLeg_bog (s : State) (l : LegState) : (State.setLeg s l).bog = s.bog := rfl
@[simp] theorem State.setLeg_wag (s : State) (l : LegState) : (State.setLeg s l).wag = s.wag := rfl
@[simp] theorem State.setLeg_twn (s : State) (l : LegState) : (State.setLeg s l).twn = s.twn := rfl
@[simp] theorem State.setLeg_saf (s : State) (l : LegState) : (State.setLeg s l).saf = s.saf := rfl
@[simp] theorem State.setLeg_drn (s : State) (l : LegState) : (State.setLeg s l).drn = s.drn := rfl
@[simp] theorem State.setLeg_lcy (s : State) (l : LegState) : (State.setLeg s l).lcy = s.lcy := rfl
@[simp] theorem State.setLeg_peat (s : State) (l : LegState) : (State.setLeg s l).peat = s.peat := rfl
@[simp] theorem State.setLeg_seen (s : State) (l : LegState) : (State.setLeg s l).seen = s.seen := rfl
@[simp] theorem State.setLeg_out (s : State) (l : LegState) : (State.setLeg s l).out = s.out := rfl
@[simp] theorem State.setLeg_freeIdx (s : State) (l : LegState) : (State.setLeg s l).freeIdx = s.freeIdx := rfl
@[simp] theorem State.setLeg_leg (s : State) (l : LegState) : (State.setLeg s l).leg = l := rfl
@[simp] theorem State.setLcy_pending (s : State) (l : LcyState) : (State.setLcy s l).pending = s.pending := rfl
@[simp] theorem State.setLcy_regs (s : State) (l : LcyState) : (State.setLcy s l).regs = s.regs := rfl
@[simp] theorem State.setLcy_time (s : State) (l : LcyState) : (State.setLcy s l).time = s.time := rfl
@[simp] theorem State.setLcy_pw (s : State) (l : LcyState) : (State.setLcy s l).pw = s.pw := rfl
@[simp] theorem State.setLcy_hif (s : State) (l : LcyState) : (State.setLcy s l).hif = s.hif := rfl
@[simp] theorem State.setLcy_stp (s : State) (l : LcyState) : (State.setLcy s l).stp = s.stp := rfl
@[simp] theorem State.setLcy_cmb (s : State) (l : LcyState) : (State.setLcy s l).cmb = s.cmb := rfl
@[simp] theorem State.setLcy_blk (s : State) (l : LcyState) : (State.setLcy s l).blk = s.blk := rfl
@[simp] theorem State.setLcy_cnv (s : State) (l : LcyState) : (State.setLcy s l).cnv = s.cnv := rfl
@[simp] theorem State.setLcy_fio (s : State) (l : LcyState) : (State.setLcy s l).fio = s.fio := rfl
@[simp] theorem State.setLcy_mir (s : State) (l : LcyState) : (State.setLcy s l).mir = s.mir := rfl
@[simp] theorem State.setLcy_bog (s : State) (l : LcyState) : (State.setLcy s l).bog = s.bog := rfl
@[simp] theorem State.setLcy_wag (s : State) (l : LcyState) : (State.setLcy s l).wag = s.wag := rfl
@[simp] theorem State.setLcy_twn (s : State) (l : LcyState) : (State.setLcy s l).twn = s.twn := rfl
@[simp] theorem State.setLcy_saf (s : State) (l : LcyState) : (State.setLcy s l).saf = s.saf := rfl
@[simp] theorem State.setLcy_drn (s : State) (l : LcyState) : (State.setLcy s l).drn = s.drn := rfl
@[simp] theorem State.setLcy_leg (s : State) (l : LcyState) : (State.setLcy s l).leg = s.leg := rfl
@[simp] theorem State.setLcy_peat (s : State) (l : LcyState) : (State.setLcy s l).peat = s.peat := rfl
@[simp] theorem State.setLcy_seen (s : State) (l : LcyState) : (State.setLcy s l).seen = s.seen := rfl
@[simp] theorem State.setLcy_out (s : State) (l : LcyState) : (State.setLcy s l).out = s.out := rfl
@[simp] theorem State.setLcy_freeIdx (s : State) (l : LcyState) : (State.setLcy s l).freeIdx = s.freeIdx := rfl
@[simp] theorem State.setLcy_lcy (s : State) (l : LcyState) : (State.setLcy s l).lcy = l := rfl
@[simp] theorem State.setClaims_pending (s : State) (cl : List Claim) :
    (State.setClaims s cl).pending = s.pending := rfl
@[simp] theorem State.setClaims_regs (s : State) (cl : List Claim) : (State.setClaims s cl).regs = s.regs := rfl
@[simp] theorem State.setClaims_time (s : State) (cl : List Claim) : (State.setClaims s cl).time = s.time := rfl
@[simp] theorem State.setClaims_pw (s : State) (cl : List Claim) : (State.setClaims s cl).pw = s.pw := rfl
@[simp] theorem State.setClaims_hif (s : State) (cl : List Claim) : (State.setClaims s cl).hif = s.hif := rfl
@[simp] theorem State.setClaims_stp (s : State) (cl : List Claim) : (State.setClaims s cl).stp = s.stp := rfl
@[simp] theorem State.setClaims_cmb (s : State) (cl : List Claim) : (State.setClaims s cl).cmb = s.cmb := rfl
@[simp] theorem State.setClaims_blk (s : State) (cl : List Claim) : (State.setClaims s cl).blk = s.blk := rfl
@[simp] theorem State.setClaims_cnv (s : State) (cl : List Claim) : (State.setClaims s cl).cnv = s.cnv := rfl
@[simp] theorem State.setClaims_mir (s : State) (cl : List Claim) : (State.setClaims s cl).mir = s.mir := rfl
@[simp] theorem State.setClaims_bog (s : State) (cl : List Claim) : (State.setClaims s cl).bog = s.bog := rfl
@[simp] theorem State.setClaims_wag (s : State) (cl : List Claim) : (State.setClaims s cl).wag = s.wag := rfl
@[simp] theorem State.setClaims_twn (s : State) (cl : List Claim) : (State.setClaims s cl).twn = s.twn := rfl
@[simp] theorem State.setClaims_saf (s : State) (cl : List Claim) : (State.setClaims s cl).saf = s.saf := rfl
@[simp] theorem State.setClaims_drn (s : State) (cl : List Claim) : (State.setClaims s cl).drn = s.drn := rfl
@[simp] theorem State.setClaims_leg (s : State) (cl : List Claim) : (State.setClaims s cl).leg = s.leg := rfl
@[simp] theorem State.setClaims_lcy (s : State) (cl : List Claim) : (State.setClaims s cl).lcy = s.lcy := rfl
@[simp] theorem State.setClaims_peat (s : State) (cl : List Claim) : (State.setClaims s cl).peat = s.peat := rfl
@[simp] theorem State.setClaims_seen (s : State) (cl : List Claim) : (State.setClaims s cl).seen = s.seen := rfl
@[simp] theorem State.setClaims_out (s : State) (cl : List Claim) : (State.setClaims s cl).out = s.out := rfl
@[simp] theorem State.setClaims_freeIdx (s : State) (cl : List Claim) :
    (State.setClaims s cl).freeIdx = s.freeIdx := rfl
@[simp] theorem State.sendUp_pending (s : State) (it : UpItem) : (State.sendUp s it).pending = s.pending := rfl
@[simp] theorem State.sendUp_regs (s : State) (it : UpItem) : (State.sendUp s it).regs = s.regs := rfl
@[simp] theorem State.sendUp_time (s : State) (it : UpItem) : (State.sendUp s it).time = s.time := rfl
@[simp] theorem State.sendUp_pw (s : State) (it : UpItem) : (State.sendUp s it).pw = s.pw := rfl
@[simp] theorem State.sendUp_hif (s : State) (it : UpItem) : (State.sendUp s it).hif = s.hif := rfl
@[simp] theorem State.sendUp_stp (s : State) (it : UpItem) : (State.sendUp s it).stp = s.stp := rfl
@[simp] theorem State.sendUp_cmb (s : State) (it : UpItem) : (State.sendUp s it).cmb = s.cmb := rfl
@[simp] theorem State.sendUp_blk (s : State) (it : UpItem) : (State.sendUp s it).blk = s.blk := rfl
@[simp] theorem State.sendUp_cnv (s : State) (it : UpItem) : (State.sendUp s it).cnv = s.cnv := rfl
@[simp] theorem State.sendUp_mir (s : State) (it : UpItem) : (State.sendUp s it).mir = s.mir := rfl
@[simp] theorem State.sendUp_bog (s : State) (it : UpItem) : (State.sendUp s it).bog = s.bog := rfl
@[simp] theorem State.sendUp_wag (s : State) (it : UpItem) : (State.sendUp s it).wag = s.wag := rfl
@[simp] theorem State.sendUp_twn (s : State) (it : UpItem) : (State.sendUp s it).twn = s.twn := rfl
@[simp] theorem State.sendUp_saf (s : State) (it : UpItem) : (State.sendUp s it).saf = s.saf := rfl
@[simp] theorem State.sendUp_drn (s : State) (it : UpItem) : (State.sendUp s it).drn = s.drn := rfl
@[simp] theorem State.sendUp_leg (s : State) (it : UpItem) : (State.sendUp s it).leg = s.leg := rfl
@[simp] theorem State.sendUp_lcy (s : State) (it : UpItem) : (State.sendUp s it).lcy = s.lcy := rfl
@[simp] theorem State.sendUp_peat (s : State) (it : UpItem) : (State.sendUp s it).peat = s.peat := rfl
@[simp] theorem State.sendUp_seen (s : State) (it : UpItem) : (State.sendUp s it).seen = s.seen := rfl
@[simp] theorem State.sendUp_out (s : State) (it : UpItem) : (State.sendUp s it).out = s.out := rfl
@[simp] theorem State.sendUp_freeIdx (s : State) (it : UpItem) : (State.sendUp s it).freeIdx = s.freeIdx := rfl
@[simp] theorem State.sendDown_pending (s : State) (it : DownItem) : (State.sendDown s it).pending = s.pending := rfl
@[simp] theorem State.sendDown_regs (s : State) (it : DownItem) : (State.sendDown s it).regs = s.regs := rfl
@[simp] theorem State.sendDown_time (s : State) (it : DownItem) : (State.sendDown s it).time = s.time := rfl
@[simp] theorem State.sendDown_pw (s : State) (it : DownItem) : (State.sendDown s it).pw = s.pw := rfl
@[simp] theorem State.sendDown_hif (s : State) (it : DownItem) : (State.sendDown s it).hif = s.hif := rfl
@[simp] theorem State.sendDown_stp (s : State) (it : DownItem) : (State.sendDown s it).stp = s.stp := rfl
@[simp] theorem State.sendDown_cmb (s : State) (it : DownItem) : (State.sendDown s it).cmb = s.cmb := rfl
@[simp] theorem State.sendDown_blk (s : State) (it : DownItem) : (State.sendDown s it).blk = s.blk := rfl
@[simp] theorem State.sendDown_cnv (s : State) (it : DownItem) : (State.sendDown s it).cnv = s.cnv := rfl
@[simp] theorem State.sendDown_mir (s : State) (it : DownItem) : (State.sendDown s it).mir = s.mir := rfl
@[simp] theorem State.sendDown_bog (s : State) (it : DownItem) : (State.sendDown s it).bog = s.bog := rfl
@[simp] theorem State.sendDown_wag (s : State) (it : DownItem) : (State.sendDown s it).wag = s.wag := rfl
@[simp] theorem State.sendDown_twn (s : State) (it : DownItem) : (State.sendDown s it).twn = s.twn := rfl
@[simp] theorem State.sendDown_saf (s : State) (it : DownItem) : (State.sendDown s it).saf = s.saf := rfl
@[simp] theorem State.sendDown_drn (s : State) (it : DownItem) : (State.sendDown s it).drn = s.drn := rfl
@[simp] theorem State.sendDown_leg (s : State) (it : DownItem) : (State.sendDown s it).leg = s.leg := rfl
@[simp] theorem State.sendDown_lcy (s : State) (it : DownItem) : (State.sendDown s it).lcy = s.lcy := rfl
@[simp] theorem State.sendDown_peat (s : State) (it : DownItem) : (State.sendDown s it).peat = s.peat := rfl
@[simp] theorem State.sendDown_seen (s : State) (it : DownItem) : (State.sendDown s it).seen = s.seen := rfl
@[simp] theorem State.sendDown_out (s : State) (it : DownItem) : (State.sendDown s it).out = s.out := rfl
@[simp] theorem State.sendDown_freeIdx (s : State) (it : DownItem) : (State.sendDown s it).freeIdx = s.freeIdx := rfl
@[simp] theorem State.emitOut_pending (s : State) (o : Output) : (State.emitOut s o).pending = s.pending := rfl
@[simp] theorem State.emitOut_regs (s : State) (o : Output) : (State.emitOut s o).regs = s.regs := rfl
@[simp] theorem State.emitOut_time (s : State) (o : Output) : (State.emitOut s o).time = s.time := rfl
@[simp] theorem State.emitOut_pw (s : State) (o : Output) : (State.emitOut s o).pw = s.pw := rfl
@[simp] theorem State.emitOut_hif (s : State) (o : Output) : (State.emitOut s o).hif = s.hif := rfl
@[simp] theorem State.emitOut_stp (s : State) (o : Output) : (State.emitOut s o).stp = s.stp := rfl
@[simp] theorem State.emitOut_cmb (s : State) (o : Output) : (State.emitOut s o).cmb = s.cmb := rfl
@[simp] theorem State.emitOut_blk (s : State) (o : Output) : (State.emitOut s o).blk = s.blk := rfl
@[simp] theorem State.emitOut_cnv (s : State) (o : Output) : (State.emitOut s o).cnv = s.cnv := rfl
@[simp] theorem State.emitOut_fio (s : State) (o : Output) : (State.emitOut s o).fio = s.fio := rfl
@[simp] theorem State.emitOut_mir (s : State) (o : Output) : (State.emitOut s o).mir = s.mir := rfl
@[simp] theorem State.emitOut_bog (s : State) (o : Output) : (State.emitOut s o).bog = s.bog := rfl
@[simp] theorem State.emitOut_wag (s : State) (o : Output) : (State.emitOut s o).wag = s.wag := rfl
@[simp] theorem State.emitOut_twn (s : State) (o : Output) : (State.emitOut s o).twn = s.twn := rfl
@[simp] theorem State.emitOut_saf (s : State) (o : Output) : (State.emitOut s o).saf = s.saf := rfl
@[simp] theorem State.emitOut_drn (s : State) (o : Output) : (State.emitOut s o).drn = s.drn := rfl
@[simp] theorem State.emitOut_leg (s : State) (o : Output) : (State.emitOut s o).leg = s.leg := rfl
@[simp] theorem State.emitOut_lcy (s : State) (o : Output) : (State.emitOut s o).lcy = s.lcy := rfl
@[simp] theorem State.emitOut_peat (s : State) (o : Output) : (State.emitOut s o).peat = s.peat := rfl
@[simp] theorem State.emitOut_seen (s : State) (o : Output) : (State.emitOut s o).seen = s.seen := rfl
@[simp] theorem State.emitOut_freeIdx (s : State) (o : Output) : (State.emitOut s o).freeIdx = s.freeIdx := rfl
@[simp] theorem State.tookFree_pending (s : State) : (State.tookFree s).pending = s.pending := rfl
@[simp] theorem State.tookFree_regs (s : State) : (State.tookFree s).regs = s.regs := rfl
@[simp] theorem State.tookFree_time (s : State) : (State.tookFree s).time = s.time := rfl
@[simp] theorem State.tookFree_pw (s : State) : (State.tookFree s).pw = s.pw := rfl
@[simp] theorem State.tookFree_hif (s : State) : (State.tookFree s).hif = s.hif := rfl
@[simp] theorem State.tookFree_stp (s : State) : (State.tookFree s).stp = s.stp := rfl
@[simp] theorem State.tookFree_cmb (s : State) : (State.tookFree s).cmb = s.cmb := rfl
@[simp] theorem State.tookFree_blk (s : State) : (State.tookFree s).blk = s.blk := rfl
@[simp] theorem State.tookFree_cnv (s : State) : (State.tookFree s).cnv = s.cnv := rfl
@[simp] theorem State.tookFree_fio (s : State) : (State.tookFree s).fio = s.fio := rfl
@[simp] theorem State.tookFree_mir (s : State) : (State.tookFree s).mir = s.mir := rfl
@[simp] theorem State.tookFree_bog (s : State) : (State.tookFree s).bog = s.bog := rfl
@[simp] theorem State.tookFree_wag (s : State) : (State.tookFree s).wag = s.wag := rfl
@[simp] theorem State.tookFree_twn (s : State) : (State.tookFree s).twn = s.twn := rfl
@[simp] theorem State.tookFree_saf (s : State) : (State.tookFree s).saf = s.saf := rfl
@[simp] theorem State.tookFree_drn (s : State) : (State.tookFree s).drn = s.drn := rfl
@[simp] theorem State.tookFree_leg (s : State) : (State.tookFree s).leg = s.leg := rfl
@[simp] theorem State.tookFree_lcy (s : State) : (State.tookFree s).lcy = s.lcy := rfl
@[simp] theorem State.tookFree_peat (s : State) : (State.tookFree s).peat = s.peat := rfl
@[simp] theorem State.tookFree_seen (s : State) : (State.tookFree s).seen = s.seen := rfl
@[simp] theorem State.tookFree_out (s : State) : (State.tookFree s).out = s.out := rfl
@[simp] theorem State.viaHif_pending (s : State) (f : HxCtx → Hx → Hx) : (State.viaHif s f).pending = s.pending := rfl
@[simp] theorem State.viaHif_regs (s : State) (f : HxCtx → Hx → Hx) : (State.viaHif s f).regs = s.regs := rfl
@[simp] theorem State.viaHif_time (s : State) (f : HxCtx → Hx → Hx) : (State.viaHif s f).time = s.time := rfl
@[simp] theorem State.viaHif_pw (s : State) (f : HxCtx → Hx → Hx) : (State.viaHif s f).pw = s.pw := rfl
@[simp] theorem State.viaHif_stp (s : State) (f : HxCtx → Hx → Hx) : (State.viaHif s f).stp = s.stp := rfl
@[simp] theorem State.viaHif_cmb (s : State) (f : HxCtx → Hx → Hx) : (State.viaHif s f).cmb = s.cmb := rfl
@[simp] theorem State.viaHif_blk (s : State) (f : HxCtx → Hx → Hx) : (State.viaHif s f).blk = s.blk := rfl
@[simp] theorem State.viaHif_cnv (s : State) (f : HxCtx → Hx → Hx) : (State.viaHif s f).cnv = s.cnv := rfl
@[simp] theorem State.viaHif_fio (s : State) (f : HxCtx → Hx → Hx) : (State.viaHif s f).fio = s.fio := rfl
@[simp] theorem State.viaHif_mir (s : State) (f : HxCtx → Hx → Hx) : (State.viaHif s f).mir = s.mir := rfl
@[simp] theorem State.viaHif_bog (s : State) (f : HxCtx → Hx → Hx) : (State.viaHif s f).bog = s.bog := rfl
@[simp] theorem State.viaHif_wag (s : State) (f : HxCtx → Hx → Hx) : (State.viaHif s f).wag = s.wag := rfl
@[simp] theorem State.viaHif_twn (s : State) (f : HxCtx → Hx → Hx) : (State.viaHif s f).twn = s.twn := rfl
@[simp] theorem State.viaHif_saf (s : State) (f : HxCtx → Hx → Hx) : (State.viaHif s f).saf = s.saf := rfl
@[simp] theorem State.viaHif_drn (s : State) (f : HxCtx → Hx → Hx) : (State.viaHif s f).drn = s.drn := rfl
@[simp] theorem State.viaHif_leg (s : State) (f : HxCtx → Hx → Hx) : (State.viaHif s f).leg = s.leg := rfl
@[simp] theorem State.viaHif_lcy (s : State) (f : HxCtx → Hx → Hx) : (State.viaHif s f).lcy = s.lcy := rfl
@[simp] theorem State.viaHif_peat (s : State) (f : HxCtx → Hx → Hx) : (State.viaHif s f).peat = s.peat := rfl
@[simp] theorem State.viaHif_seen (s : State) (f : HxCtx → Hx → Hx) : (State.viaHif s f).seen = s.seen := rfl
@[simp] theorem State.viaHif_freeIdx (s : State) (f : HxCtx → Hx → Hx) : (State.viaHif s f).freeIdx = s.freeIdx := rfl
@[simp] theorem State.raise_pending (s : State) (code : Byte) (result : BitVec 64) :
    (State.raise s code result).pending = s.pending := rfl
@[simp] theorem State.raise_regs (s : State) (code : Byte) (result : BitVec 64) :
    (State.raise s code result).regs = s.regs := rfl
@[simp] theorem State.raise_time (s : State) (code : Byte) (result : BitVec 64) :
    (State.raise s code result).time = s.time := rfl
@[simp] theorem State.raise_pw (s : State) (code : Byte) (result : BitVec 64) :
    (State.raise s code result).pw = s.pw := rfl
@[simp] theorem State.raise_stp (s : State) (code : Byte) (result : BitVec 64) :
    (State.raise s code result).stp = s.stp := rfl
@[simp] theorem State.raise_cmb (s : State) (code : Byte) (result : BitVec 64) :
    (State.raise s code result).cmb = s.cmb := rfl
@[simp] theorem State.raise_blk (s : State) (code : Byte) (result : BitVec 64) :
    (State.raise s code result).blk = s.blk := rfl
@[simp] theorem State.raise_cnv (s : State) (code : Byte) (result : BitVec 64) :
    (State.raise s code result).cnv = s.cnv := rfl
@[simp] theorem State.raise_fio (s : State) (code : Byte) (result : BitVec 64) :
    (State.raise s code result).fio = s.fio := rfl
@[simp] theorem State.raise_mir (s : State) (code : Byte) (result : BitVec 64) :
    (State.raise s code result).mir = s.mir := rfl
@[simp] theorem State.raise_bog (s : State) (code : Byte) (result : BitVec 64) :
    (State.raise s code result).bog = s.bog := rfl
@[simp] theorem State.raise_wag (s : State) (code : Byte) (result : BitVec 64) :
    (State.raise s code result).wag = s.wag := rfl
@[simp] theorem State.raise_twn (s : State) (code : Byte) (result : BitVec 64) :
    (State.raise s code result).twn = s.twn := rfl
@[simp] theorem State.raise_saf (s : State) (code : Byte) (result : BitVec 64) :
    (State.raise s code result).saf = s.saf := rfl
@[simp] theorem State.raise_drn (s : State) (code : Byte) (result : BitVec 64) :
    (State.raise s code result).drn = s.drn := rfl
@[simp] theorem State.raise_leg (s : State) (code : Byte) (result : BitVec 64) :
    (State.raise s code result).leg = s.leg := rfl
@[simp] theorem State.raise_lcy (s : State) (code : Byte) (result : BitVec 64) :
    (State.raise s code result).lcy = s.lcy := rfl
@[simp] theorem State.raise_peat (s : State) (code : Byte) (result : BitVec 64) :
    (State.raise s code result).peat = s.peat := rfl
@[simp] theorem State.raise_seen (s : State) (code : Byte) (result : BitVec 64) :
    (State.raise s code result).seen = s.seen := rfl
@[simp] theorem State.raise_freeIdx (s : State) (code : Byte) (result : BitVec 64) :
    (State.raise s code result).freeIdx = s.freeIdx := rfl
@[simp] theorem State.finish_pending (s : State) (p : Nat) (sub : Word) (code : Byte) (result : BitVec 64) :
    (State.finish s p sub code result).pending = s.pending := rfl
@[simp] theorem State.finish_regs (s : State) (p : Nat) (sub : Word) (code : Byte) (result : BitVec 64) :
    (State.finish s p sub code result).regs = s.regs := rfl
@[simp] theorem State.finish_time (s : State) (p : Nat) (sub : Word) (code : Byte) (result : BitVec 64) :
    (State.finish s p sub code result).time = s.time := rfl
@[simp] theorem State.finish_pw (s : State) (p : Nat) (sub : Word) (code : Byte) (result : BitVec 64) :
    (State.finish s p sub code result).pw = s.pw := rfl
@[simp] theorem State.finish_stp (s : State) (p : Nat) (sub : Word) (code : Byte) (result : BitVec 64) :
    (State.finish s p sub code result).stp = s.stp := rfl
@[simp] theorem State.finish_cmb (s : State) (p : Nat) (sub : Word) (code : Byte) (result : BitVec 64) :
    (State.finish s p sub code result).cmb = s.cmb := rfl
@[simp] theorem State.finish_blk (s : State) (p : Nat) (sub : Word) (code : Byte) (result : BitVec 64) :
    (State.finish s p sub code result).blk = s.blk := rfl
@[simp] theorem State.finish_cnv (s : State) (p : Nat) (sub : Word) (code : Byte) (result : BitVec 64) :
    (State.finish s p sub code result).cnv = s.cnv := rfl
@[simp] theorem State.finish_fio (s : State) (p : Nat) (sub : Word) (code : Byte) (result : BitVec 64) :
    (State.finish s p sub code result).fio = s.fio := rfl
@[simp] theorem State.finish_mir (s : State) (p : Nat) (sub : Word) (code : Byte) (result : BitVec 64) :
    (State.finish s p sub code result).mir = s.mir := rfl
@[simp] theorem State.finish_bog (s : State) (p : Nat) (sub : Word) (code : Byte) (result : BitVec 64) :
    (State.finish s p sub code result).bog = s.bog := rfl
@[simp] theorem State.finish_wag (s : State) (p : Nat) (sub : Word) (code : Byte) (result : BitVec 64) :
    (State.finish s p sub code result).wag = s.wag := rfl
@[simp] theorem State.finish_twn (s : State) (p : Nat) (sub : Word) (code : Byte) (result : BitVec 64) :
    (State.finish s p sub code result).twn = s.twn := rfl
@[simp] theorem State.finish_saf (s : State) (p : Nat) (sub : Word) (code : Byte) (result : BitVec 64) :
    (State.finish s p sub code result).saf = s.saf := rfl
@[simp] theorem State.finish_drn (s : State) (p : Nat) (sub : Word) (code : Byte) (result : BitVec 64) :
    (State.finish s p sub code result).drn = s.drn := rfl
@[simp] theorem State.finish_leg (s : State) (p : Nat) (sub : Word) (code : Byte) (result : BitVec 64) :
    (State.finish s p sub code result).leg = s.leg := rfl
@[simp] theorem State.finish_lcy (s : State) (p : Nat) (sub : Word) (code : Byte) (result : BitVec 64) :
    (State.finish s p sub code result).lcy = s.lcy := rfl
@[simp] theorem State.finish_peat (s : State) (p : Nat) (sub : Word) (code : Byte) (result : BitVec 64) :
    (State.finish s p sub code result).peat = s.peat := rfl
@[simp] theorem State.finish_seen (s : State) (p : Nat) (sub : Word) (code : Byte) (result : BitVec 64) :
    (State.finish s p sub code result).seen = s.seen := rfl
@[simp] theorem State.finish_freeIdx (s : State) (p : Nat) (sub : Word) (code : Byte) (result : BitVec 64) :
    (State.finish s p sub code result).freeIdx = s.freeIdx := rfl
@[simp] theorem State.accept_pending (s : State) (p : Nat) (sub : Word) :
    (State.accept s p sub).pending = s.pending := rfl
@[simp] theorem State.accept_regs (s : State) (p : Nat) (sub : Word) : (State.accept s p sub).regs = s.regs := rfl
@[simp] theorem State.accept_time (s : State) (p : Nat) (sub : Word) : (State.accept s p sub).time = s.time := rfl
@[simp] theorem State.accept_pw (s : State) (p : Nat) (sub : Word) : (State.accept s p sub).pw = s.pw := rfl
@[simp] theorem State.accept_stp (s : State) (p : Nat) (sub : Word) : (State.accept s p sub).stp = s.stp := rfl
@[simp] theorem State.accept_cmb (s : State) (p : Nat) (sub : Word) : (State.accept s p sub).cmb = s.cmb := rfl
@[simp] theorem State.accept_blk (s : State) (p : Nat) (sub : Word) : (State.accept s p sub).blk = s.blk := rfl
@[simp] theorem State.accept_cnv (s : State) (p : Nat) (sub : Word) : (State.accept s p sub).cnv = s.cnv := rfl
@[simp] theorem State.accept_fio (s : State) (p : Nat) (sub : Word) : (State.accept s p sub).fio = s.fio := rfl
@[simp] theorem State.accept_mir (s : State) (p : Nat) (sub : Word) : (State.accept s p sub).mir = s.mir := rfl
@[simp] theorem State.accept_bog (s : State) (p : Nat) (sub : Word) : (State.accept s p sub).bog = s.bog := rfl
@[simp] theorem State.accept_wag (s : State) (p : Nat) (sub : Word) : (State.accept s p sub).wag = s.wag := rfl
@[simp] theorem State.accept_twn (s : State) (p : Nat) (sub : Word) : (State.accept s p sub).twn = s.twn := rfl
@[simp] theorem State.accept_saf (s : State) (p : Nat) (sub : Word) : (State.accept s p sub).saf = s.saf := rfl
@[simp] theorem State.accept_drn (s : State) (p : Nat) (sub : Word) : (State.accept s p sub).drn = s.drn := rfl
@[simp] theorem State.accept_leg (s : State) (p : Nat) (sub : Word) : (State.accept s p sub).leg = s.leg := rfl
@[simp] theorem State.accept_lcy (s : State) (p : Nat) (sub : Word) : (State.accept s p sub).lcy = s.lcy := rfl
@[simp] theorem State.accept_peat (s : State) (p : Nat) (sub : Word) : (State.accept s p sub).peat = s.peat := rfl
@[simp] theorem State.accept_seen (s : State) (p : Nat) (sub : Word) : (State.accept s p sub).seen = s.seen := rfl
@[simp] theorem State.accept_freeIdx (s : State) (p : Nat) (sub : Word) :
    (State.accept s p sub).freeIdx = s.freeIdx := rfl
@[simp] theorem State.modReg_pending (s : State) (r : Nat) (f : RegionRt → RegionRt) :
    (State.modReg s r f).pending = s.pending := rfl
@[simp] theorem State.modReg_regs (s : State) (r : Nat) (f : RegionRt → RegionRt) :
    (State.modReg s r f).regs = s.regs := rfl
@[simp] theorem State.modReg_time (s : State) (r : Nat) (f : RegionRt → RegionRt) :
    (State.modReg s r f).time = s.time := rfl
@[simp] theorem State.modReg_pw (s : State) (r : Nat) (f : RegionRt → RegionRt) :
    (State.modReg s r f).pw = s.pw := rfl
@[simp] theorem State.modReg_hif (s : State) (r : Nat) (f : RegionRt → RegionRt) :
    (State.modReg s r f).hif = s.hif := rfl
@[simp] theorem State.modReg_stp (s : State) (r : Nat) (f : RegionRt → RegionRt) :
    (State.modReg s r f).stp = s.stp := rfl
@[simp] theorem State.modReg_cmb (s : State) (r : Nat) (f : RegionRt → RegionRt) :
    (State.modReg s r f).cmb = s.cmb := rfl
@[simp] theorem State.modReg_blk (s : State) (r : Nat) (f : RegionRt → RegionRt) :
    (State.modReg s r f).blk = s.blk := rfl
@[simp] theorem State.modReg_cnv (s : State) (r : Nat) (f : RegionRt → RegionRt) :
    (State.modReg s r f).cnv = s.cnv := rfl
@[simp] theorem State.modReg_fio (s : State) (r : Nat) (f : RegionRt → RegionRt) :
    (State.modReg s r f).fio = s.fio := rfl
@[simp] theorem State.modReg_bog (s : State) (r : Nat) (f : RegionRt → RegionRt) :
    (State.modReg s r f).bog = s.bog := rfl
@[simp] theorem State.modReg_wag (s : State) (r : Nat) (f : RegionRt → RegionRt) :
    (State.modReg s r f).wag = s.wag := rfl
@[simp] theorem State.modReg_twn (s : State) (r : Nat) (f : RegionRt → RegionRt) :
    (State.modReg s r f).twn = s.twn := rfl
@[simp] theorem State.modReg_saf (s : State) (r : Nat) (f : RegionRt → RegionRt) :
    (State.modReg s r f).saf = s.saf := rfl
@[simp] theorem State.modReg_drn (s : State) (r : Nat) (f : RegionRt → RegionRt) :
    (State.modReg s r f).drn = s.drn := rfl
@[simp] theorem State.modReg_leg (s : State) (r : Nat) (f : RegionRt → RegionRt) :
    (State.modReg s r f).leg = s.leg := rfl
@[simp] theorem State.modReg_lcy (s : State) (r : Nat) (f : RegionRt → RegionRt) :
    (State.modReg s r f).lcy = s.lcy := rfl
@[simp] theorem State.modReg_peat (s : State) (r : Nat) (f : RegionRt → RegionRt) :
    (State.modReg s r f).peat = s.peat := rfl
@[simp] theorem State.modReg_seen (s : State) (r : Nat) (f : RegionRt → RegionRt) :
    (State.modReg s r f).seen = s.seen := rfl
@[simp] theorem State.modReg_out (s : State) (r : Nat) (f : RegionRt → RegionRt) :
    (State.modReg s r f).out = s.out := rfl
@[simp] theorem State.modReg_freeIdx (s : State) (r : Nat) (f : RegionRt → RegionRt) :
    (State.modReg s r f).freeIdx = s.freeIdx := rfl
@[simp] theorem State.modSlot_pending (s : State) (k : Nat) (f : SlotRt → SlotRt) :
    (State.modSlot s k f).pending = s.pending := rfl
@[simp] theorem State.modSlot_regs (s : State) (k : Nat) (f : SlotRt → SlotRt) :
    (State.modSlot s k f).regs = s.regs := rfl
@[simp] theorem State.modSlot_time (s : State) (k : Nat) (f : SlotRt → SlotRt) :
    (State.modSlot s k f).time = s.time := rfl
@[simp] theorem State.modSlot_pw (s : State) (k : Nat) (f : SlotRt → SlotRt) : (State.modSlot s k f).pw = s.pw := rfl
@[simp] theorem State.modSlot_hif (s : State) (k : Nat) (f : SlotRt → SlotRt) :
    (State.modSlot s k f).hif = s.hif := rfl
@[simp] theorem State.modSlot_stp (s : State) (k : Nat) (f : SlotRt → SlotRt) :
    (State.modSlot s k f).stp = s.stp := rfl
@[simp] theorem State.modSlot_blk (s : State) (k : Nat) (f : SlotRt → SlotRt) :
    (State.modSlot s k f).blk = s.blk := rfl
@[simp] theorem State.modSlot_cnv (s : State) (k : Nat) (f : SlotRt → SlotRt) :
    (State.modSlot s k f).cnv = s.cnv := rfl
@[simp] theorem State.modSlot_fio (s : State) (k : Nat) (f : SlotRt → SlotRt) :
    (State.modSlot s k f).fio = s.fio := rfl
@[simp] theorem State.modSlot_mir (s : State) (k : Nat) (f : SlotRt → SlotRt) :
    (State.modSlot s k f).mir = s.mir := rfl
@[simp] theorem State.modSlot_bog (s : State) (k : Nat) (f : SlotRt → SlotRt) :
    (State.modSlot s k f).bog = s.bog := rfl
@[simp] theorem State.modSlot_wag (s : State) (k : Nat) (f : SlotRt → SlotRt) :
    (State.modSlot s k f).wag = s.wag := rfl
@[simp] theorem State.modSlot_twn (s : State) (k : Nat) (f : SlotRt → SlotRt) :
    (State.modSlot s k f).twn = s.twn := rfl
@[simp] theorem State.modSlot_saf (s : State) (k : Nat) (f : SlotRt → SlotRt) :
    (State.modSlot s k f).saf = s.saf := rfl
@[simp] theorem State.modSlot_drn (s : State) (k : Nat) (f : SlotRt → SlotRt) :
    (State.modSlot s k f).drn = s.drn := rfl
@[simp] theorem State.modSlot_leg (s : State) (k : Nat) (f : SlotRt → SlotRt) :
    (State.modSlot s k f).leg = s.leg := rfl
@[simp] theorem State.modSlot_lcy (s : State) (k : Nat) (f : SlotRt → SlotRt) :
    (State.modSlot s k f).lcy = s.lcy := rfl
@[simp] theorem State.modSlot_peat (s : State) (k : Nat) (f : SlotRt → SlotRt) :
    (State.modSlot s k f).peat = s.peat := rfl
@[simp] theorem State.modSlot_seen (s : State) (k : Nat) (f : SlotRt → SlotRt) :
    (State.modSlot s k f).seen = s.seen := rfl
@[simp] theorem State.modSlot_out (s : State) (k : Nat) (f : SlotRt → SlotRt) :
    (State.modSlot s k f).out = s.out := rfl
@[simp] theorem State.modSlot_freeIdx (s : State) (k : Nat) (f : SlotRt → SlotRt) :
    (State.modSlot s k f).freeIdx = s.freeIdx := rfl
@[simp] theorem State.modTask_pending (s : State) (t : Nat) (f : TaskRt → TaskRt) :
    (State.modTask s t f).pending = s.pending := rfl
@[simp] theorem State.modTask_regs (s : State) (t : Nat) (f : TaskRt → TaskRt) :
    (State.modTask s t f).regs = s.regs := rfl
@[simp] theorem State.modTask_time (s : State) (t : Nat) (f : TaskRt → TaskRt) :
    (State.modTask s t f).time = s.time := rfl
@[simp] theorem State.modTask_pw (s : State) (t : Nat) (f : TaskRt → TaskRt) : (State.modTask s t f).pw = s.pw := rfl
@[simp] theorem State.modTask_hif (s : State) (t : Nat) (f : TaskRt → TaskRt) :
    (State.modTask s t f).hif = s.hif := rfl
@[simp] theorem State.modTask_stp (s : State) (t : Nat) (f : TaskRt → TaskRt) :
    (State.modTask s t f).stp = s.stp := rfl
@[simp] theorem State.modTask_cmb (s : State) (t : Nat) (f : TaskRt → TaskRt) :
    (State.modTask s t f).cmb = s.cmb := rfl
@[simp] theorem State.modTask_cnv (s : State) (t : Nat) (f : TaskRt → TaskRt) :
    (State.modTask s t f).cnv = s.cnv := rfl
@[simp] theorem State.modTask_fio (s : State) (t : Nat) (f : TaskRt → TaskRt) :
    (State.modTask s t f).fio = s.fio := rfl
@[simp] theorem State.modTask_mir (s : State) (t : Nat) (f : TaskRt → TaskRt) :
    (State.modTask s t f).mir = s.mir := rfl
@[simp] theorem State.modTask_bog (s : State) (t : Nat) (f : TaskRt → TaskRt) :
    (State.modTask s t f).bog = s.bog := rfl
@[simp] theorem State.modTask_wag (s : State) (t : Nat) (f : TaskRt → TaskRt) :
    (State.modTask s t f).wag = s.wag := rfl
@[simp] theorem State.modTask_twn (s : State) (t : Nat) (f : TaskRt → TaskRt) :
    (State.modTask s t f).twn = s.twn := rfl
@[simp] theorem State.modTask_saf (s : State) (t : Nat) (f : TaskRt → TaskRt) :
    (State.modTask s t f).saf = s.saf := rfl
@[simp] theorem State.modTask_drn (s : State) (t : Nat) (f : TaskRt → TaskRt) :
    (State.modTask s t f).drn = s.drn := rfl
@[simp] theorem State.modTask_leg (s : State) (t : Nat) (f : TaskRt → TaskRt) :
    (State.modTask s t f).leg = s.leg := rfl
@[simp] theorem State.modTask_lcy (s : State) (t : Nat) (f : TaskRt → TaskRt) :
    (State.modTask s t f).lcy = s.lcy := rfl
@[simp] theorem State.modTask_peat (s : State) (t : Nat) (f : TaskRt → TaskRt) :
    (State.modTask s t f).peat = s.peat := rfl
@[simp] theorem State.modTask_seen (s : State) (t : Nat) (f : TaskRt → TaskRt) :
    (State.modTask s t f).seen = s.seen := rfl
@[simp] theorem State.modTask_out (s : State) (t : Nat) (f : TaskRt → TaskRt) :
    (State.modTask s t f).out = s.out := rfl
@[simp] theorem State.modTask_freeIdx (s : State) (t : Nat) (f : TaskRt → TaskRt) :
    (State.modTask s t f).freeIdx = s.freeIdx := rfl
@[simp] theorem State.modHs_pending (s : State) (i : Nat) (f : HsRt → HsRt) :
    (State.modHs s i f).pending = s.pending := rfl
@[simp] theorem State.modHs_regs (s : State) (i : Nat) (f : HsRt → HsRt) : (State.modHs s i f).regs = s.regs := rfl
@[simp] theorem State.modHs_time (s : State) (i : Nat) (f : HsRt → HsRt) : (State.modHs s i f).time = s.time := rfl
@[simp] theorem State.modHs_pw (s : State) (i : Nat) (f : HsRt → HsRt) : (State.modHs s i f).pw = s.pw := rfl
@[simp] theorem State.modHs_hif (s : State) (i : Nat) (f : HsRt → HsRt) : (State.modHs s i f).hif = s.hif := rfl
@[simp] theorem State.modHs_stp (s : State) (i : Nat) (f : HsRt → HsRt) : (State.modHs s i f).stp = s.stp := rfl
@[simp] theorem State.modHs_cmb (s : State) (i : Nat) (f : HsRt → HsRt) : (State.modHs s i f).cmb = s.cmb := rfl
@[simp] theorem State.modHs_blk (s : State) (i : Nat) (f : HsRt → HsRt) : (State.modHs s i f).blk = s.blk := rfl
@[simp] theorem State.modHs_cnv (s : State) (i : Nat) (f : HsRt → HsRt) : (State.modHs s i f).cnv = s.cnv := rfl
@[simp] theorem State.modHs_mir (s : State) (i : Nat) (f : HsRt → HsRt) : (State.modHs s i f).mir = s.mir := rfl
@[simp] theorem State.modHs_bog (s : State) (i : Nat) (f : HsRt → HsRt) : (State.modHs s i f).bog = s.bog := rfl
@[simp] theorem State.modHs_wag (s : State) (i : Nat) (f : HsRt → HsRt) : (State.modHs s i f).wag = s.wag := rfl
@[simp] theorem State.modHs_twn (s : State) (i : Nat) (f : HsRt → HsRt) : (State.modHs s i f).twn = s.twn := rfl
@[simp] theorem State.modHs_saf (s : State) (i : Nat) (f : HsRt → HsRt) : (State.modHs s i f).saf = s.saf := rfl
@[simp] theorem State.modHs_drn (s : State) (i : Nat) (f : HsRt → HsRt) : (State.modHs s i f).drn = s.drn := rfl
@[simp] theorem State.modHs_leg (s : State) (i : Nat) (f : HsRt → HsRt) : (State.modHs s i f).leg = s.leg := rfl
@[simp] theorem State.modHs_lcy (s : State) (i : Nat) (f : HsRt → HsRt) : (State.modHs s i f).lcy = s.lcy := rfl
@[simp] theorem State.modHs_peat (s : State) (i : Nat) (f : HsRt → HsRt) : (State.modHs s i f).peat = s.peat := rfl
@[simp] theorem State.modHs_seen (s : State) (i : Nat) (f : HsRt → HsRt) : (State.modHs s i f).seen = s.seen := rfl
@[simp] theorem State.modHs_out (s : State) (i : Nat) (f : HsRt → HsRt) : (State.modHs s i f).out = s.out := rfl
@[simp] theorem State.modHs_freeIdx (s : State) (i : Nat) (f : HsRt → HsRt) :
    (State.modHs s i f).freeIdx = s.freeIdx := rfl
@[simp] theorem State.modDac_pending (s : State) (d : Nat) (f : DacRt → DacRt) :
    (State.modDac s d f).pending = s.pending := rfl
@[simp] theorem State.modDac_regs (s : State) (d : Nat) (f : DacRt → DacRt) :
    (State.modDac s d f).regs = s.regs := rfl
@[simp] theorem State.modDac_time (s : State) (d : Nat) (f : DacRt → DacRt) :
    (State.modDac s d f).time = s.time := rfl
@[simp] theorem State.modDac_pw (s : State) (d : Nat) (f : DacRt → DacRt) : (State.modDac s d f).pw = s.pw := rfl
@[simp] theorem State.modDac_hif (s : State) (d : Nat) (f : DacRt → DacRt) : (State.modDac s d f).hif = s.hif := rfl
@[simp] theorem State.modDac_stp (s : State) (d : Nat) (f : DacRt → DacRt) : (State.modDac s d f).stp = s.stp := rfl
@[simp] theorem State.modDac_cmb (s : State) (d : Nat) (f : DacRt → DacRt) : (State.modDac s d f).cmb = s.cmb := rfl
@[simp] theorem State.modDac_blk (s : State) (d : Nat) (f : DacRt → DacRt) : (State.modDac s d f).blk = s.blk := rfl
@[simp] theorem State.modDac_cnv (s : State) (d : Nat) (f : DacRt → DacRt) : (State.modDac s d f).cnv = s.cnv := rfl
@[simp] theorem State.modDac_mir (s : State) (d : Nat) (f : DacRt → DacRt) : (State.modDac s d f).mir = s.mir := rfl
@[simp] theorem State.modDac_bog (s : State) (d : Nat) (f : DacRt → DacRt) : (State.modDac s d f).bog = s.bog := rfl
@[simp] theorem State.modDac_wag (s : State) (d : Nat) (f : DacRt → DacRt) : (State.modDac s d f).wag = s.wag := rfl
@[simp] theorem State.modDac_twn (s : State) (d : Nat) (f : DacRt → DacRt) : (State.modDac s d f).twn = s.twn := rfl
@[simp] theorem State.modDac_saf (s : State) (d : Nat) (f : DacRt → DacRt) : (State.modDac s d f).saf = s.saf := rfl
@[simp] theorem State.modDac_drn (s : State) (d : Nat) (f : DacRt → DacRt) : (State.modDac s d f).drn = s.drn := rfl
@[simp] theorem State.modDac_leg (s : State) (d : Nat) (f : DacRt → DacRt) : (State.modDac s d f).leg = s.leg := rfl
@[simp] theorem State.modDac_lcy (s : State) (d : Nat) (f : DacRt → DacRt) : (State.modDac s d f).lcy = s.lcy := rfl
@[simp] theorem State.modDac_peat (s : State) (d : Nat) (f : DacRt → DacRt) :
    (State.modDac s d f).peat = s.peat := rfl
@[simp] theorem State.modDac_seen (s : State) (d : Nat) (f : DacRt → DacRt) :
    (State.modDac s d f).seen = s.seen := rfl
@[simp] theorem State.modDac_out (s : State) (d : Nat) (f : DacRt → DacRt) : (State.modDac s d f).out = s.out := rfl
@[simp] theorem State.modDac_freeIdx (s : State) (d : Nat) (f : DacRt → DacRt) :
    (State.modDac s d f).freeIdx = s.freeIdx := rfl
@[simp] theorem State.modPul_pending (s : State) (p : Nat) (f : PulRt → PulRt) :
    (State.modPul s p f).pending = s.pending := rfl
@[simp] theorem State.modPul_regs (s : State) (p : Nat) (f : PulRt → PulRt) :
    (State.modPul s p f).regs = s.regs := rfl
@[simp] theorem State.modPul_time (s : State) (p : Nat) (f : PulRt → PulRt) :
    (State.modPul s p f).time = s.time := rfl
@[simp] theorem State.modPul_pw (s : State) (p : Nat) (f : PulRt → PulRt) : (State.modPul s p f).pw = s.pw := rfl
@[simp] theorem State.modPul_hif (s : State) (p : Nat) (f : PulRt → PulRt) : (State.modPul s p f).hif = s.hif := rfl
@[simp] theorem State.modPul_stp (s : State) (p : Nat) (f : PulRt → PulRt) : (State.modPul s p f).stp = s.stp := rfl
@[simp] theorem State.modPul_cmb (s : State) (p : Nat) (f : PulRt → PulRt) : (State.modPul s p f).cmb = s.cmb := rfl
@[simp] theorem State.modPul_blk (s : State) (p : Nat) (f : PulRt → PulRt) : (State.modPul s p f).blk = s.blk := rfl
@[simp] theorem State.modPul_cnv (s : State) (p : Nat) (f : PulRt → PulRt) : (State.modPul s p f).cnv = s.cnv := rfl
@[simp] theorem State.modPul_mir (s : State) (p : Nat) (f : PulRt → PulRt) : (State.modPul s p f).mir = s.mir := rfl
@[simp] theorem State.modPul_bog (s : State) (p : Nat) (f : PulRt → PulRt) : (State.modPul s p f).bog = s.bog := rfl
@[simp] theorem State.modPul_wag (s : State) (p : Nat) (f : PulRt → PulRt) : (State.modPul s p f).wag = s.wag := rfl
@[simp] theorem State.modPul_twn (s : State) (p : Nat) (f : PulRt → PulRt) : (State.modPul s p f).twn = s.twn := rfl
@[simp] theorem State.modPul_saf (s : State) (p : Nat) (f : PulRt → PulRt) : (State.modPul s p f).saf = s.saf := rfl
@[simp] theorem State.modPul_drn (s : State) (p : Nat) (f : PulRt → PulRt) : (State.modPul s p f).drn = s.drn := rfl
@[simp] theorem State.modPul_leg (s : State) (p : Nat) (f : PulRt → PulRt) : (State.modPul s p f).leg = s.leg := rfl
@[simp] theorem State.modPul_lcy (s : State) (p : Nat) (f : PulRt → PulRt) : (State.modPul s p f).lcy = s.lcy := rfl
@[simp] theorem State.modPul_peat (s : State) (p : Nat) (f : PulRt → PulRt) :
    (State.modPul s p f).peat = s.peat := rfl
@[simp] theorem State.modPul_seen (s : State) (p : Nat) (f : PulRt → PulRt) :
    (State.modPul s p f).seen = s.seen := rfl
@[simp] theorem State.modPul_out (s : State) (p : Nat) (f : PulRt → PulRt) : (State.modPul s p f).out = s.out := rfl
@[simp] theorem State.modPul_freeIdx (s : State) (p : Nat) (f : PulRt → PulRt) :
    (State.modPul s p f).freeIdx = s.freeIdx := rfl
@[simp] theorem State.modCan_pending (s : State) (c : Nat) (f : CanRt → CanRt) :
    (State.modCan s c f).pending = s.pending := rfl
@[simp] theorem State.modCan_regs (s : State) (c : Nat) (f : CanRt → CanRt) :
    (State.modCan s c f).regs = s.regs := rfl
@[simp] theorem State.modCan_time (s : State) (c : Nat) (f : CanRt → CanRt) :
    (State.modCan s c f).time = s.time := rfl
@[simp] theorem State.modCan_pw (s : State) (c : Nat) (f : CanRt → CanRt) : (State.modCan s c f).pw = s.pw := rfl
@[simp] theorem State.modCan_hif (s : State) (c : Nat) (f : CanRt → CanRt) : (State.modCan s c f).hif = s.hif := rfl
@[simp] theorem State.modCan_stp (s : State) (c : Nat) (f : CanRt → CanRt) : (State.modCan s c f).stp = s.stp := rfl
@[simp] theorem State.modCan_cmb (s : State) (c : Nat) (f : CanRt → CanRt) : (State.modCan s c f).cmb = s.cmb := rfl
@[simp] theorem State.modCan_blk (s : State) (c : Nat) (f : CanRt → CanRt) : (State.modCan s c f).blk = s.blk := rfl
@[simp] theorem State.modCan_cnv (s : State) (c : Nat) (f : CanRt → CanRt) : (State.modCan s c f).cnv = s.cnv := rfl
@[simp] theorem State.modCan_fio (s : State) (c : Nat) (f : CanRt → CanRt) : (State.modCan s c f).fio = s.fio := rfl
@[simp] theorem State.modCan_mir (s : State) (c : Nat) (f : CanRt → CanRt) : (State.modCan s c f).mir = s.mir := rfl
@[simp] theorem State.modCan_bog (s : State) (c : Nat) (f : CanRt → CanRt) : (State.modCan s c f).bog = s.bog := rfl
@[simp] theorem State.modCan_wag (s : State) (c : Nat) (f : CanRt → CanRt) : (State.modCan s c f).wag = s.wag := rfl
@[simp] theorem State.modCan_twn (s : State) (c : Nat) (f : CanRt → CanRt) : (State.modCan s c f).twn = s.twn := rfl
@[simp] theorem State.modCan_saf (s : State) (c : Nat) (f : CanRt → CanRt) : (State.modCan s c f).saf = s.saf := rfl
@[simp] theorem State.modCan_drn (s : State) (c : Nat) (f : CanRt → CanRt) : (State.modCan s c f).drn = s.drn := rfl
@[simp] theorem State.modCan_lcy (s : State) (c : Nat) (f : CanRt → CanRt) : (State.modCan s c f).lcy = s.lcy := rfl
@[simp] theorem State.modCan_peat (s : State) (c : Nat) (f : CanRt → CanRt) :
    (State.modCan s c f).peat = s.peat := rfl
@[simp] theorem State.modCan_seen (s : State) (c : Nat) (f : CanRt → CanRt) :
    (State.modCan s c f).seen = s.seen := rfl
@[simp] theorem State.modCan_out (s : State) (c : Nat) (f : CanRt → CanRt) : (State.modCan s c f).out = s.out := rfl
@[simp] theorem State.modCan_freeIdx (s : State) (c : Nat) (f : CanRt → CanRt) :
    (State.modCan s c f).freeIdx = s.freeIdx := rfl
@[simp] theorem State.modUart_pending (s : State) (u : Nat) (f : UartRt → UartRt) :
    (State.modUart s u f).pending = s.pending := rfl
@[simp] theorem State.modUart_regs (s : State) (u : Nat) (f : UartRt → UartRt) :
    (State.modUart s u f).regs = s.regs := rfl
@[simp] theorem State.modUart_time (s : State) (u : Nat) (f : UartRt → UartRt) :
    (State.modUart s u f).time = s.time := rfl
@[simp] theorem State.modUart_pw (s : State) (u : Nat) (f : UartRt → UartRt) : (State.modUart s u f).pw = s.pw := rfl
@[simp] theorem State.modUart_hif (s : State) (u : Nat) (f : UartRt → UartRt) :
    (State.modUart s u f).hif = s.hif := rfl
@[simp] theorem State.modUart_stp (s : State) (u : Nat) (f : UartRt → UartRt) :
    (State.modUart s u f).stp = s.stp := rfl
@[simp] theorem State.modUart_cmb (s : State) (u : Nat) (f : UartRt → UartRt) :
    (State.modUart s u f).cmb = s.cmb := rfl
@[simp] theorem State.modUart_blk (s : State) (u : Nat) (f : UartRt → UartRt) :
    (State.modUart s u f).blk = s.blk := rfl
@[simp] theorem State.modUart_cnv (s : State) (u : Nat) (f : UartRt → UartRt) :
    (State.modUart s u f).cnv = s.cnv := rfl
@[simp] theorem State.modUart_fio (s : State) (u : Nat) (f : UartRt → UartRt) :
    (State.modUart s u f).fio = s.fio := rfl
@[simp] theorem State.modUart_mir (s : State) (u : Nat) (f : UartRt → UartRt) :
    (State.modUart s u f).mir = s.mir := rfl
@[simp] theorem State.modUart_bog (s : State) (u : Nat) (f : UartRt → UartRt) :
    (State.modUart s u f).bog = s.bog := rfl
@[simp] theorem State.modUart_wag (s : State) (u : Nat) (f : UartRt → UartRt) :
    (State.modUart s u f).wag = s.wag := rfl
@[simp] theorem State.modUart_twn (s : State) (u : Nat) (f : UartRt → UartRt) :
    (State.modUart s u f).twn = s.twn := rfl
@[simp] theorem State.modUart_saf (s : State) (u : Nat) (f : UartRt → UartRt) :
    (State.modUart s u f).saf = s.saf := rfl
@[simp] theorem State.modUart_drn (s : State) (u : Nat) (f : UartRt → UartRt) :
    (State.modUart s u f).drn = s.drn := rfl
@[simp] theorem State.modUart_lcy (s : State) (u : Nat) (f : UartRt → UartRt) :
    (State.modUart s u f).lcy = s.lcy := rfl
@[simp] theorem State.modUart_peat (s : State) (u : Nat) (f : UartRt → UartRt) :
    (State.modUart s u f).peat = s.peat := rfl
@[simp] theorem State.modUart_seen (s : State) (u : Nat) (f : UartRt → UartRt) :
    (State.modUart s u f).seen = s.seen := rfl
@[simp] theorem State.modUart_out (s : State) (u : Nat) (f : UartRt → UartRt) :
    (State.modUart s u f).out = s.out := rfl
@[simp] theorem State.modUart_freeIdx (s : State) (u : Nat) (f : UartRt → UartRt) :
    (State.modUart s u f).freeIdx = s.freeIdx := rfl
@[simp] theorem State.modStep_pending (s : State) (seq : Word) (f : StepEntry → StepEntry) :
    (State.modStep s seq f).pending = s.pending := rfl
@[simp] theorem State.modStep_regs (s : State) (seq : Word) (f : StepEntry → StepEntry) :
    (State.modStep s seq f).regs = s.regs := rfl
@[simp] theorem State.modStep_time (s : State) (seq : Word) (f : StepEntry → StepEntry) :
    (State.modStep s seq f).time = s.time := rfl
@[simp] theorem State.modStep_pw (s : State) (seq : Word) (f : StepEntry → StepEntry) :
    (State.modStep s seq f).pw = s.pw := rfl
@[simp] theorem State.modStep_hif (s : State) (seq : Word) (f : StepEntry → StepEntry) :
    (State.modStep s seq f).hif = s.hif := rfl
@[simp] theorem State.modStep_cmb (s : State) (seq : Word) (f : StepEntry → StepEntry) :
    (State.modStep s seq f).cmb = s.cmb := rfl
@[simp] theorem State.modStep_blk (s : State) (seq : Word) (f : StepEntry → StepEntry) :
    (State.modStep s seq f).blk = s.blk := rfl
@[simp] theorem State.modStep_cnv (s : State) (seq : Word) (f : StepEntry → StepEntry) :
    (State.modStep s seq f).cnv = s.cnv := rfl
@[simp] theorem State.modStep_fio (s : State) (seq : Word) (f : StepEntry → StepEntry) :
    (State.modStep s seq f).fio = s.fio := rfl
@[simp] theorem State.modStep_mir (s : State) (seq : Word) (f : StepEntry → StepEntry) :
    (State.modStep s seq f).mir = s.mir := rfl
@[simp] theorem State.modStep_bog (s : State) (seq : Word) (f : StepEntry → StepEntry) :
    (State.modStep s seq f).bog = s.bog := rfl
@[simp] theorem State.modStep_wag (s : State) (seq : Word) (f : StepEntry → StepEntry) :
    (State.modStep s seq f).wag = s.wag := rfl
@[simp] theorem State.modStep_twn (s : State) (seq : Word) (f : StepEntry → StepEntry) :
    (State.modStep s seq f).twn = s.twn := rfl
@[simp] theorem State.modStep_saf (s : State) (seq : Word) (f : StepEntry → StepEntry) :
    (State.modStep s seq f).saf = s.saf := rfl
@[simp] theorem State.modStep_drn (s : State) (seq : Word) (f : StepEntry → StepEntry) :
    (State.modStep s seq f).drn = s.drn := rfl
@[simp] theorem State.modStep_leg (s : State) (seq : Word) (f : StepEntry → StepEntry) :
    (State.modStep s seq f).leg = s.leg := rfl
@[simp] theorem State.modStep_lcy (s : State) (seq : Word) (f : StepEntry → StepEntry) :
    (State.modStep s seq f).lcy = s.lcy := rfl
@[simp] theorem State.modStep_peat (s : State) (seq : Word) (f : StepEntry → StepEntry) :
    (State.modStep s seq f).peat = s.peat := rfl
@[simp] theorem State.modStep_seen (s : State) (seq : Word) (f : StepEntry → StepEntry) :
    (State.modStep s seq f).seen = s.seen := rfl
@[simp] theorem State.modStep_out (s : State) (seq : Word) (f : StepEntry → StepEntry) :
    (State.modStep s seq f).out = s.out := rfl
@[simp] theorem State.modStep_freeIdx (s : State) (seq : Word) (f : StepEntry → StepEntry) :
    (State.modStep s seq f).freeIdx = s.freeIdx := rfl
@[simp] theorem State.modPart_pending (s : State) (seq : Word) (f : Part → Part) :
    (State.modPart s seq f).pending = s.pending := rfl
@[simp] theorem State.modPart_regs (s : State) (seq : Word) (f : Part → Part) :
    (State.modPart s seq f).regs = s.regs := rfl
@[simp] theorem State.modPart_time (s : State) (seq : Word) (f : Part → Part) :
    (State.modPart s seq f).time = s.time := rfl
@[simp] theorem State.modPart_pw (s : State) (seq : Word) (f : Part → Part) : (State.modPart s seq f).pw = s.pw := rfl
@[simp] theorem State.modPart_hif (s : State) (seq : Word) (f : Part → Part) :
    (State.modPart s seq f).hif = s.hif := rfl
@[simp] theorem State.modPart_cmb (s : State) (seq : Word) (f : Part → Part) :
    (State.modPart s seq f).cmb = s.cmb := rfl
@[simp] theorem State.modPart_blk (s : State) (seq : Word) (f : Part → Part) :
    (State.modPart s seq f).blk = s.blk := rfl
@[simp] theorem State.modPart_cnv (s : State) (seq : Word) (f : Part → Part) :
    (State.modPart s seq f).cnv = s.cnv := rfl
@[simp] theorem State.modPart_fio (s : State) (seq : Word) (f : Part → Part) :
    (State.modPart s seq f).fio = s.fio := rfl
@[simp] theorem State.modPart_mir (s : State) (seq : Word) (f : Part → Part) :
    (State.modPart s seq f).mir = s.mir := rfl
@[simp] theorem State.modPart_bog (s : State) (seq : Word) (f : Part → Part) :
    (State.modPart s seq f).bog = s.bog := rfl
@[simp] theorem State.modPart_wag (s : State) (seq : Word) (f : Part → Part) :
    (State.modPart s seq f).wag = s.wag := rfl
@[simp] theorem State.modPart_twn (s : State) (seq : Word) (f : Part → Part) :
    (State.modPart s seq f).twn = s.twn := rfl
@[simp] theorem State.modPart_saf (s : State) (seq : Word) (f : Part → Part) :
    (State.modPart s seq f).saf = s.saf := rfl
@[simp] theorem State.modPart_drn (s : State) (seq : Word) (f : Part → Part) :
    (State.modPart s seq f).drn = s.drn := rfl
@[simp] theorem State.modPart_leg (s : State) (seq : Word) (f : Part → Part) :
    (State.modPart s seq f).leg = s.leg := rfl
@[simp] theorem State.modPart_lcy (s : State) (seq : Word) (f : Part → Part) :
    (State.modPart s seq f).lcy = s.lcy := rfl
@[simp] theorem State.modPart_peat (s : State) (seq : Word) (f : Part → Part) :
    (State.modPart s seq f).peat = s.peat := rfl
@[simp] theorem State.modPart_seen (s : State) (seq : Word) (f : Part → Part) :
    (State.modPart s seq f).seen = s.seen := rfl
@[simp] theorem State.modPart_out (s : State) (seq : Word) (f : Part → Part) :
    (State.modPart s seq f).out = s.out := rfl
@[simp] theorem State.modPart_freeIdx (s : State) (seq : Word) (f : Part → Part) :
    (State.modPart s seq f).freeIdx = s.freeIdx := rfl
@[simp] theorem State.modEntry_pending (s : State) (p : Nat) (sub : Word) (f : Entry → Entry) :
    (State.modEntry s p sub f).pending = s.pending := rfl
@[simp] theorem State.modEntry_regs (s : State) (p : Nat) (sub : Word) (f : Entry → Entry) :
    (State.modEntry s p sub f).regs = s.regs := rfl
@[simp] theorem State.modEntry_time (s : State) (p : Nat) (sub : Word) (f : Entry → Entry) :
    (State.modEntry s p sub f).time = s.time := rfl
@[simp] theorem State.modEntry_pw (s : State) (p : Nat) (sub : Word) (f : Entry → Entry) :
    (State.modEntry s p sub f).pw = s.pw := rfl
@[simp] theorem State.modEntry_stp (s : State) (p : Nat) (sub : Word) (f : Entry → Entry) :
    (State.modEntry s p sub f).stp = s.stp := rfl
@[simp] theorem State.modEntry_cmb (s : State) (p : Nat) (sub : Word) (f : Entry → Entry) :
    (State.modEntry s p sub f).cmb = s.cmb := rfl
@[simp] theorem State.modEntry_blk (s : State) (p : Nat) (sub : Word) (f : Entry → Entry) :
    (State.modEntry s p sub f).blk = s.blk := rfl
@[simp] theorem State.modEntry_cnv (s : State) (p : Nat) (sub : Word) (f : Entry → Entry) :
    (State.modEntry s p sub f).cnv = s.cnv := rfl
@[simp] theorem State.modEntry_fio (s : State) (p : Nat) (sub : Word) (f : Entry → Entry) :
    (State.modEntry s p sub f).fio = s.fio := rfl
@[simp] theorem State.modEntry_mir (s : State) (p : Nat) (sub : Word) (f : Entry → Entry) :
    (State.modEntry s p sub f).mir = s.mir := rfl
@[simp] theorem State.modEntry_bog (s : State) (p : Nat) (sub : Word) (f : Entry → Entry) :
    (State.modEntry s p sub f).bog = s.bog := rfl
@[simp] theorem State.modEntry_wag (s : State) (p : Nat) (sub : Word) (f : Entry → Entry) :
    (State.modEntry s p sub f).wag = s.wag := rfl
@[simp] theorem State.modEntry_twn (s : State) (p : Nat) (sub : Word) (f : Entry → Entry) :
    (State.modEntry s p sub f).twn = s.twn := rfl
@[simp] theorem State.modEntry_saf (s : State) (p : Nat) (sub : Word) (f : Entry → Entry) :
    (State.modEntry s p sub f).saf = s.saf := rfl
@[simp] theorem State.modEntry_drn (s : State) (p : Nat) (sub : Word) (f : Entry → Entry) :
    (State.modEntry s p sub f).drn = s.drn := rfl
@[simp] theorem State.modEntry_leg (s : State) (p : Nat) (sub : Word) (f : Entry → Entry) :
    (State.modEntry s p sub f).leg = s.leg := rfl
@[simp] theorem State.modEntry_lcy (s : State) (p : Nat) (sub : Word) (f : Entry → Entry) :
    (State.modEntry s p sub f).lcy = s.lcy := rfl
@[simp] theorem State.modEntry_peat (s : State) (p : Nat) (sub : Word) (f : Entry → Entry) :
    (State.modEntry s p sub f).peat = s.peat := rfl
@[simp] theorem State.modEntry_seen (s : State) (p : Nat) (sub : Word) (f : Entry → Entry) :
    (State.modEntry s p sub f).seen = s.seen := rfl
@[simp] theorem State.modEntry_freeIdx (s : State) (p : Nat) (sub : Word) (f : Entry → Entry) :
    (State.modEntry s p sub f).freeIdx = s.freeIdx := rfl
@[simp] theorem State.modStn_pending (s : State) (k : Nat) (f : StnRt → StnRt) :
    (State.modStn s k f).pending = s.pending := rfl
@[simp] theorem State.modStn_regs (s : State) (k : Nat) (f : StnRt → StnRt) :
    (State.modStn s k f).regs = s.regs := rfl
@[simp] theorem State.modStn_time (s : State) (k : Nat) (f : StnRt → StnRt) :
    (State.modStn s k f).time = s.time := rfl
@[simp] theorem State.modStn_pw (s : State) (k : Nat) (f : StnRt → StnRt) : (State.modStn s k f).pw = s.pw := rfl
@[simp] theorem State.modStn_hif (s : State) (k : Nat) (f : StnRt → StnRt) : (State.modStn s k f).hif = s.hif := rfl
@[simp] theorem State.modStn_stp (s : State) (k : Nat) (f : StnRt → StnRt) : (State.modStn s k f).stp = s.stp := rfl
@[simp] theorem State.modStn_cmb (s : State) (k : Nat) (f : StnRt → StnRt) : (State.modStn s k f).cmb = s.cmb := rfl
@[simp] theorem State.modStn_blk (s : State) (k : Nat) (f : StnRt → StnRt) : (State.modStn s k f).blk = s.blk := rfl
@[simp] theorem State.modStn_cnv (s : State) (k : Nat) (f : StnRt → StnRt) : (State.modStn s k f).cnv = s.cnv := rfl
@[simp] theorem State.modStn_fio (s : State) (k : Nat) (f : StnRt → StnRt) : (State.modStn s k f).fio = s.fio := rfl
@[simp] theorem State.modStn_mir (s : State) (k : Nat) (f : StnRt → StnRt) : (State.modStn s k f).mir = s.mir := rfl
@[simp] theorem State.modStn_bog (s : State) (k : Nat) (f : StnRt → StnRt) : (State.modStn s k f).bog = s.bog := rfl
@[simp] theorem State.modStn_twn (s : State) (k : Nat) (f : StnRt → StnRt) : (State.modStn s k f).twn = s.twn := rfl
@[simp] theorem State.modStn_saf (s : State) (k : Nat) (f : StnRt → StnRt) : (State.modStn s k f).saf = s.saf := rfl
@[simp] theorem State.modStn_drn (s : State) (k : Nat) (f : StnRt → StnRt) : (State.modStn s k f).drn = s.drn := rfl
@[simp] theorem State.modStn_leg (s : State) (k : Nat) (f : StnRt → StnRt) : (State.modStn s k f).leg = s.leg := rfl
@[simp] theorem State.modStn_lcy (s : State) (k : Nat) (f : StnRt → StnRt) : (State.modStn s k f).lcy = s.lcy := rfl
@[simp] theorem State.modStn_peat (s : State) (k : Nat) (f : StnRt → StnRt) :
    (State.modStn s k f).peat = s.peat := rfl
@[simp] theorem State.modStn_seen (s : State) (k : Nat) (f : StnRt → StnRt) :
    (State.modStn s k f).seen = s.seen := rfl
@[simp] theorem State.modStn_out (s : State) (k : Nat) (f : StnRt → StnRt) : (State.modStn s k f).out = s.out := rfl
@[simp] theorem State.modStn_freeIdx (s : State) (k : Nat) (f : StnRt → StnRt) :
    (State.modStn s k f).freeIdx = s.freeIdx := rfl
@[simp] theorem State.modTpo_pending (s : State) (n : Nat) (f : PulseRt → PulseRt) :
    (State.modTpo s n f).pending = s.pending := rfl
@[simp] theorem State.modTpo_regs (s : State) (n : Nat) (f : PulseRt → PulseRt) :
    (State.modTpo s n f).regs = s.regs := rfl
@[simp] theorem State.modTpo_pw (s : State) (n : Nat) (f : PulseRt → PulseRt) : (State.modTpo s n f).pw = s.pw := rfl
@[simp] theorem State.modTpo_hif (s : State) (n : Nat) (f : PulseRt → PulseRt) :
    (State.modTpo s n f).hif = s.hif := rfl
@[simp] theorem State.modTpo_stp (s : State) (n : Nat) (f : PulseRt → PulseRt) :
    (State.modTpo s n f).stp = s.stp := rfl
@[simp] theorem State.modTpo_cmb (s : State) (n : Nat) (f : PulseRt → PulseRt) :
    (State.modTpo s n f).cmb = s.cmb := rfl
@[simp] theorem State.modTpo_blk (s : State) (n : Nat) (f : PulseRt → PulseRt) :
    (State.modTpo s n f).blk = s.blk := rfl
@[simp] theorem State.modTpo_cnv (s : State) (n : Nat) (f : PulseRt → PulseRt) :
    (State.modTpo s n f).cnv = s.cnv := rfl
@[simp] theorem State.modTpo_fio (s : State) (n : Nat) (f : PulseRt → PulseRt) :
    (State.modTpo s n f).fio = s.fio := rfl
@[simp] theorem State.modTpo_mir (s : State) (n : Nat) (f : PulseRt → PulseRt) :
    (State.modTpo s n f).mir = s.mir := rfl
@[simp] theorem State.modTpo_bog (s : State) (n : Nat) (f : PulseRt → PulseRt) :
    (State.modTpo s n f).bog = s.bog := rfl
@[simp] theorem State.modTpo_wag (s : State) (n : Nat) (f : PulseRt → PulseRt) :
    (State.modTpo s n f).wag = s.wag := rfl
@[simp] theorem State.modTpo_twn (s : State) (n : Nat) (f : PulseRt → PulseRt) :
    (State.modTpo s n f).twn = s.twn := rfl
@[simp] theorem State.modTpo_saf (s : State) (n : Nat) (f : PulseRt → PulseRt) :
    (State.modTpo s n f).saf = s.saf := rfl
@[simp] theorem State.modTpo_drn (s : State) (n : Nat) (f : PulseRt → PulseRt) :
    (State.modTpo s n f).drn = s.drn := rfl
@[simp] theorem State.modTpo_leg (s : State) (n : Nat) (f : PulseRt → PulseRt) :
    (State.modTpo s n f).leg = s.leg := rfl
@[simp] theorem State.modTpo_lcy (s : State) (n : Nat) (f : PulseRt → PulseRt) :
    (State.modTpo s n f).lcy = s.lcy := rfl
@[simp] theorem State.modTpo_peat (s : State) (n : Nat) (f : PulseRt → PulseRt) :
    (State.modTpo s n f).peat = s.peat := rfl
@[simp] theorem State.modTpo_seen (s : State) (n : Nat) (f : PulseRt → PulseRt) :
    (State.modTpo s n f).seen = s.seen := rfl
@[simp] theorem State.modTpo_out (s : State) (n : Nat) (f : PulseRt → PulseRt) :
    (State.modTpo s n f).out = s.out := rfl
@[simp] theorem State.modTpo_freeIdx (s : State) (n : Nat) (f : PulseRt → PulseRt) :
    (State.modTpo s n f).freeIdx = s.freeIdx := rfl
@[simp] theorem State.resetVectors_pending (s : State) : (State.resetVectors s).pending = s.pending := rfl
@[simp] theorem State.resetVectors_regs (s : State) : (State.resetVectors s).regs = s.regs := rfl
@[simp] theorem State.resetVectors_time (s : State) : (State.resetVectors s).time = s.time := rfl
@[simp] theorem State.resetVectors_pw (s : State) : (State.resetVectors s).pw = s.pw := rfl
@[simp] theorem State.resetVectors_stp (s : State) : (State.resetVectors s).stp = s.stp := rfl
@[simp] theorem State.resetVectors_cmb (s : State) : (State.resetVectors s).cmb = s.cmb := rfl
@[simp] theorem State.resetVectors_blk (s : State) : (State.resetVectors s).blk = s.blk := rfl
@[simp] theorem State.resetVectors_cnv (s : State) : (State.resetVectors s).cnv = s.cnv := rfl
@[simp] theorem State.resetVectors_fio (s : State) : (State.resetVectors s).fio = s.fio := rfl
@[simp] theorem State.resetVectors_mir (s : State) : (State.resetVectors s).mir = s.mir := rfl
@[simp] theorem State.resetVectors_bog (s : State) : (State.resetVectors s).bog = s.bog := rfl
@[simp] theorem State.resetVectors_wag (s : State) : (State.resetVectors s).wag = s.wag := rfl
@[simp] theorem State.resetVectors_twn (s : State) : (State.resetVectors s).twn = s.twn := rfl
@[simp] theorem State.resetVectors_saf (s : State) : (State.resetVectors s).saf = s.saf := rfl
@[simp] theorem State.resetVectors_drn (s : State) : (State.resetVectors s).drn = s.drn := rfl
@[simp] theorem State.resetVectors_leg (s : State) : (State.resetVectors s).leg = s.leg := rfl
@[simp] theorem State.resetVectors_lcy (s : State) : (State.resetVectors s).lcy = s.lcy := rfl
@[simp] theorem State.resetVectors_peat (s : State) : (State.resetVectors s).peat = s.peat := rfl
@[simp] theorem State.resetVectors_seen (s : State) : (State.resetVectors s).seen = s.seen := rfl
@[simp] theorem State.resetVectors_out (s : State) : (State.resetVectors s).out = s.out := rfl
@[simp] theorem State.resetVectors_freeIdx (s : State) : (State.resetVectors s).freeIdx = s.freeIdx := rfl
@[simp] theorem State.countLedger_pending (s : State) (i : Nat) : (State.countLedger s i).pending = s.pending := rfl
@[simp] theorem State.countLedger_regs (s : State) (i : Nat) : (State.countLedger s i).regs = s.regs := rfl
@[simp] theorem State.countLedger_time (s : State) (i : Nat) : (State.countLedger s i).time = s.time := rfl
@[simp] theorem State.countLedger_pw (s : State) (i : Nat) : (State.countLedger s i).pw = s.pw := rfl
@[simp] theorem State.countLedger_hif (s : State) (i : Nat) : (State.countLedger s i).hif = s.hif := rfl
@[simp] theorem State.countLedger_stp (s : State) (i : Nat) : (State.countLedger s i).stp = s.stp := rfl
@[simp] theorem State.countLedger_cmb (s : State) (i : Nat) : (State.countLedger s i).cmb = s.cmb := rfl
@[simp] theorem State.countLedger_blk (s : State) (i : Nat) : (State.countLedger s i).blk = s.blk := rfl
@[simp] theorem State.countLedger_cnv (s : State) (i : Nat) : (State.countLedger s i).cnv = s.cnv := rfl
@[simp] theorem State.countLedger_fio (s : State) (i : Nat) : (State.countLedger s i).fio = s.fio := rfl
@[simp] theorem State.countLedger_mir (s : State) (i : Nat) : (State.countLedger s i).mir = s.mir := rfl
@[simp] theorem State.countLedger_bog (s : State) (i : Nat) : (State.countLedger s i).bog = s.bog := rfl
@[simp] theorem State.countLedger_wag (s : State) (i : Nat) : (State.countLedger s i).wag = s.wag := rfl
@[simp] theorem State.countLedger_twn (s : State) (i : Nat) : (State.countLedger s i).twn = s.twn := rfl
@[simp] theorem State.countLedger_saf (s : State) (i : Nat) : (State.countLedger s i).saf = s.saf := rfl
@[simp] theorem State.countLedger_drn (s : State) (i : Nat) : (State.countLedger s i).drn = s.drn := rfl
@[simp] theorem State.countLedger_leg (s : State) (i : Nat) : (State.countLedger s i).leg = s.leg := rfl
@[simp] theorem State.countLedger_lcy (s : State) (i : Nat) : (State.countLedger s i).lcy = s.lcy := rfl
@[simp] theorem State.countLedger_seen (s : State) (i : Nat) : (State.countLedger s i).seen = s.seen := rfl
@[simp] theorem State.countLedger_out (s : State) (i : Nat) : (State.countLedger s i).out = s.out := rfl
@[simp] theorem State.countLedger_freeIdx (s : State) (i : Nat) : (State.countLedger s i).freeIdx = s.freeIdx := rfl
@[simp] theorem State.fieldRaise_pending (s : State) (code : Byte) (result : BitVec 64) :
    (State.fieldRaise s code result).pending = s.pending := rfl
@[simp] theorem State.fieldRaise_regs (s : State) (code : Byte) (result : BitVec 64) :
    (State.fieldRaise s code result).regs = s.regs := rfl
@[simp] theorem State.fieldRaise_time (s : State) (code : Byte) (result : BitVec 64) :
    (State.fieldRaise s code result).time = s.time := rfl
@[simp] theorem State.fieldRaise_pw (s : State) (code : Byte) (result : BitVec 64) :
    (State.fieldRaise s code result).pw = s.pw := rfl
@[simp] theorem State.fieldRaise_hif (s : State) (code : Byte) (result : BitVec 64) :
    (State.fieldRaise s code result).hif = s.hif := rfl
@[simp] theorem State.fieldRaise_stp (s : State) (code : Byte) (result : BitVec 64) :
    (State.fieldRaise s code result).stp = s.stp := rfl
@[simp] theorem State.fieldRaise_cmb (s : State) (code : Byte) (result : BitVec 64) :
    (State.fieldRaise s code result).cmb = s.cmb := rfl
@[simp] theorem State.fieldRaise_blk (s : State) (code : Byte) (result : BitVec 64) :
    (State.fieldRaise s code result).blk = s.blk := rfl
@[simp] theorem State.fieldRaise_cnv (s : State) (code : Byte) (result : BitVec 64) :
    (State.fieldRaise s code result).cnv = s.cnv := rfl
@[simp] theorem State.fieldRaise_mir (s : State) (code : Byte) (result : BitVec 64) :
    (State.fieldRaise s code result).mir = s.mir := rfl
@[simp] theorem State.fieldRaise_bog (s : State) (code : Byte) (result : BitVec 64) :
    (State.fieldRaise s code result).bog = s.bog := rfl
@[simp] theorem State.fieldRaise_wag (s : State) (code : Byte) (result : BitVec 64) :
    (State.fieldRaise s code result).wag = s.wag := rfl
@[simp] theorem State.fieldRaise_twn (s : State) (code : Byte) (result : BitVec 64) :
    (State.fieldRaise s code result).twn = s.twn := rfl
@[simp] theorem State.fieldRaise_saf (s : State) (code : Byte) (result : BitVec 64) :
    (State.fieldRaise s code result).saf = s.saf := rfl
@[simp] theorem State.fieldRaise_drn (s : State) (code : Byte) (result : BitVec 64) :
    (State.fieldRaise s code result).drn = s.drn := rfl
@[simp] theorem State.fieldRaise_leg (s : State) (code : Byte) (result : BitVec 64) :
    (State.fieldRaise s code result).leg = s.leg := rfl
@[simp] theorem State.fieldRaise_lcy (s : State) (code : Byte) (result : BitVec 64) :
    (State.fieldRaise s code result).lcy = s.lcy := rfl
@[simp] theorem State.fieldRaise_peat (s : State) (code : Byte) (result : BitVec 64) :
    (State.fieldRaise s code result).peat = s.peat := rfl
@[simp] theorem State.fieldRaise_seen (s : State) (code : Byte) (result : BitVec 64) :
    (State.fieldRaise s code result).seen = s.seen := rfl
@[simp] theorem State.fieldRaise_out (s : State) (code : Byte) (result : BitVec 64) :
    (State.fieldRaise s code result).out = s.out := rfl
@[simp] theorem State.fieldRaise_freeIdx (s : State) (code : Byte) (result : BitVec 64) :
    (State.fieldRaise s code result).freeIdx = s.freeIdx := rfl
@[simp] theorem State.hostWrite_pending (s : State) (addr : BitVec 64) (b : List Byte) :
    (State.hostWrite s addr b).pending = s.pending := rfl
@[simp] theorem State.hostWrite_regs (s : State) (addr : BitVec 64) (b : List Byte) :
    (State.hostWrite s addr b).regs = s.regs := rfl
@[simp] theorem State.hostWrite_time (s : State) (addr : BitVec 64) (b : List Byte) :
    (State.hostWrite s addr b).time = s.time := rfl
@[simp] theorem State.hostWrite_pw (s : State) (addr : BitVec 64) (b : List Byte) :
    (State.hostWrite s addr b).pw = s.pw := rfl
@[simp] theorem State.hostWrite_hif (s : State) (addr : BitVec 64) (b : List Byte) :
    (State.hostWrite s addr b).hif = s.hif := rfl
@[simp] theorem State.hostWrite_stp (s : State) (addr : BitVec 64) (b : List Byte) :
    (State.hostWrite s addr b).stp = s.stp := rfl
@[simp] theorem State.hostWrite_cmb (s : State) (addr : BitVec 64) (b : List Byte) :
    (State.hostWrite s addr b).cmb = s.cmb := rfl
@[simp] theorem State.hostWrite_blk (s : State) (addr : BitVec 64) (b : List Byte) :
    (State.hostWrite s addr b).blk = s.blk := rfl
@[simp] theorem State.hostWrite_cnv (s : State) (addr : BitVec 64) (b : List Byte) :
    (State.hostWrite s addr b).cnv = s.cnv := rfl
@[simp] theorem State.hostWrite_fio (s : State) (addr : BitVec 64) (b : List Byte) :
    (State.hostWrite s addr b).fio = s.fio := rfl
@[simp] theorem State.hostWrite_mir (s : State) (addr : BitVec 64) (b : List Byte) :
    (State.hostWrite s addr b).mir = s.mir := rfl
@[simp] theorem State.hostWrite_bog (s : State) (addr : BitVec 64) (b : List Byte) :
    (State.hostWrite s addr b).bog = s.bog := rfl
@[simp] theorem State.hostWrite_wag (s : State) (addr : BitVec 64) (b : List Byte) :
    (State.hostWrite s addr b).wag = s.wag := rfl
@[simp] theorem State.hostWrite_twn (s : State) (addr : BitVec 64) (b : List Byte) :
    (State.hostWrite s addr b).twn = s.twn := rfl
@[simp] theorem State.hostWrite_saf (s : State) (addr : BitVec 64) (b : List Byte) :
    (State.hostWrite s addr b).saf = s.saf := rfl
@[simp] theorem State.hostWrite_drn (s : State) (addr : BitVec 64) (b : List Byte) :
    (State.hostWrite s addr b).drn = s.drn := rfl
@[simp] theorem State.hostWrite_leg (s : State) (addr : BitVec 64) (b : List Byte) :
    (State.hostWrite s addr b).leg = s.leg := rfl
@[simp] theorem State.hostWrite_lcy (s : State) (addr : BitVec 64) (b : List Byte) :
    (State.hostWrite s addr b).lcy = s.lcy := rfl
@[simp] theorem State.hostWrite_peat (s : State) (addr : BitVec 64) (b : List Byte) :
    (State.hostWrite s addr b).peat = s.peat := rfl
@[simp] theorem State.hostWrite_seen (s : State) (addr : BitVec 64) (b : List Byte) :
    (State.hostWrite s addr b).seen = s.seen := rfl
@[simp] theorem State.hostWrite_freeIdx (s : State) (addr : BitVec 64) (b : List Byte) :
    (State.hostWrite s addr b).freeIdx = s.freeIdx := rfl
@[simp] theorem State.hashWrite_pending (s : State) (t : Time) (code : Nat) (v : Int) :
    (State.hashWrite s t code v).pending = s.pending := rfl
@[simp] theorem State.hashWrite_regs (s : State) (t : Time) (code : Nat) (v : Int) :
    (State.hashWrite s t code v).regs = s.regs := rfl
@[simp] theorem State.hashWrite_time (s : State) (t : Time) (code : Nat) (v : Int) :
    (State.hashWrite s t code v).time = s.time := rfl
@[simp] theorem State.hashWrite_pw (s : State) (t : Time) (code : Nat) (v : Int) :
    (State.hashWrite s t code v).pw = s.pw := rfl
@[simp] theorem State.hashWrite_hif (s : State) (t : Time) (code : Nat) (v : Int) :
    (State.hashWrite s t code v).hif = s.hif := rfl
@[simp] theorem State.hashWrite_stp (s : State) (t : Time) (code : Nat) (v : Int) :
    (State.hashWrite s t code v).stp = s.stp := rfl
@[simp] theorem State.hashWrite_cmb (s : State) (t : Time) (code : Nat) (v : Int) :
    (State.hashWrite s t code v).cmb = s.cmb := rfl
@[simp] theorem State.hashWrite_blk (s : State) (t : Time) (code : Nat) (v : Int) :
    (State.hashWrite s t code v).blk = s.blk := rfl
@[simp] theorem State.hashWrite_cnv (s : State) (t : Time) (code : Nat) (v : Int) :
    (State.hashWrite s t code v).cnv = s.cnv := rfl
@[simp] theorem State.hashWrite_fio (s : State) (t : Time) (code : Nat) (v : Int) :
    (State.hashWrite s t code v).fio = s.fio := rfl
@[simp] theorem State.hashWrite_mir (s : State) (t : Time) (code : Nat) (v : Int) :
    (State.hashWrite s t code v).mir = s.mir := rfl
@[simp] theorem State.hashWrite_bog (s : State) (t : Time) (code : Nat) (v : Int) :
    (State.hashWrite s t code v).bog = s.bog := rfl
@[simp] theorem State.hashWrite_wag (s : State) (t : Time) (code : Nat) (v : Int) :
    (State.hashWrite s t code v).wag = s.wag := rfl
@[simp] theorem State.hashWrite_saf (s : State) (t : Time) (code : Nat) (v : Int) :
    (State.hashWrite s t code v).saf = s.saf := rfl
@[simp] theorem State.hashWrite_drn (s : State) (t : Time) (code : Nat) (v : Int) :
    (State.hashWrite s t code v).drn = s.drn := rfl
@[simp] theorem State.hashWrite_leg (s : State) (t : Time) (code : Nat) (v : Int) :
    (State.hashWrite s t code v).leg = s.leg := rfl
@[simp] theorem State.hashWrite_lcy (s : State) (t : Time) (code : Nat) (v : Int) :
    (State.hashWrite s t code v).lcy = s.lcy := rfl
@[simp] theorem State.hashWrite_peat (s : State) (t : Time) (code : Nat) (v : Int) :
    (State.hashWrite s t code v).peat = s.peat := rfl
@[simp] theorem State.hashWrite_seen (s : State) (t : Time) (code : Nat) (v : Int) :
    (State.hashWrite s t code v).seen = s.seen := rfl
@[simp] theorem State.hashWrite_out (s : State) (t : Time) (code : Nat) (v : Int) :
    (State.hashWrite s t code v).out = s.out := rfl
@[simp] theorem State.hashWrite_freeIdx (s : State) (t : Time) (code : Nat) (v : Int) :
    (State.hashWrite s t code v).freeIdx = s.freeIdx := rfl
@[simp] theorem State.countLogic_pending (s : State) (i : Nat) : (s.countLogic i).pending = s.pending := by
  unfold State.countLogic
  split <;> rfl
@[simp] theorem State.countLogic_regs (s : State) (i : Nat) : (s.countLogic i).regs = s.regs := by
  unfold State.countLogic
  split <;> rfl
@[simp] theorem State.countLogic_time (s : State) (i : Nat) : (s.countLogic i).time = s.time := by
  unfold State.countLogic
  split <;> rfl
@[simp] theorem State.countLogic_pw (s : State) (i : Nat) : (s.countLogic i).pw = s.pw := by
  unfold State.countLogic
  split <;> rfl
@[simp] theorem State.countLogic_hif (s : State) (i : Nat) : (s.countLogic i).hif = s.hif := by
  unfold State.countLogic
  split <;> rfl
@[simp] theorem State.countLogic_stp (s : State) (i : Nat) : (s.countLogic i).stp = s.stp := by
  unfold State.countLogic
  split <;> rfl
@[simp] theorem State.countLogic_cmb (s : State) (i : Nat) : (s.countLogic i).cmb = s.cmb := by
  unfold State.countLogic
  split <;> rfl
@[simp] theorem State.countLogic_blk (s : State) (i : Nat) : (s.countLogic i).blk = s.blk := by
  unfold State.countLogic
  split <;> rfl
@[simp] theorem State.countLogic_cnv (s : State) (i : Nat) : (s.countLogic i).cnv = s.cnv := by
  unfold State.countLogic
  split <;> rfl
@[simp] theorem State.countLogic_mir (s : State) (i : Nat) : (s.countLogic i).mir = s.mir := by
  unfold State.countLogic
  split <;> rfl
@[simp] theorem State.countLogic_bog (s : State) (i : Nat) : (s.countLogic i).bog = s.bog := by
  unfold State.countLogic
  split <;> rfl
@[simp] theorem State.countLogic_wag (s : State) (i : Nat) : (s.countLogic i).wag = s.wag := by
  unfold State.countLogic
  split <;> rfl
@[simp] theorem State.countLogic_twn (s : State) (i : Nat) : (s.countLogic i).twn = s.twn := by
  unfold State.countLogic
  split <;> rfl
@[simp] theorem State.countLogic_saf (s : State) (i : Nat) : (s.countLogic i).saf = s.saf := by
  unfold State.countLogic
  split <;> rfl
@[simp] theorem State.countLogic_drn (s : State) (i : Nat) : (s.countLogic i).drn = s.drn := by
  unfold State.countLogic
  split <;> rfl
@[simp] theorem State.countLogic_leg (s : State) (i : Nat) : (s.countLogic i).leg = s.leg := by
  unfold State.countLogic
  split <;> rfl
@[simp] theorem State.countLogic_lcy (s : State) (i : Nat) : (s.countLogic i).lcy = s.lcy := by
  unfold State.countLogic
  split <;> rfl
@[simp] theorem State.countLogic_seen (s : State) (i : Nat) : (s.countLogic i).seen = s.seen := by
  unfold State.countLogic
  split <;> rfl
@[simp] theorem State.countLogic_out (s : State) (i : Nat) : (s.countLogic i).out = s.out := by
  unfold State.countLogic
  split <;> rfl
@[simp] theorem State.countLogic_freeIdx (s : State) (i : Nat) : (s.countLogic i).freeIdx = s.freeIdx := by
  unfold State.countLogic
  split <;> rfl

end Sys2Proof.Machine
end

