-- ==== Sys2Proof/Tests/Slice0.lean ====
section
/-! SUPPORT. The author's own tests: an ill-formed term for each check of WellFormed, worked examples of the spec, and for every
statement with hypotheses a state and operands that meet those of each of its clauses. -/

set_option linter.unusedVariables false

namespace Sys2Proof.Tests

set_option Elab.async false

open Sys2Proof Sys2Proof.Machine

/-! ### States and descriptors that the tests use -/

/-- The module after reset, its logic side running. -/
def sH : State := State.reset
def sBoot : State := { sH with pw := { sH.pw with logic := .boot } }
def sR : State := { sH with pw := { sH.pw with logic := .run } }
def sF : State := { sR with pw := { sR.pw with fieldUp := true } }
def sEj : State := { sF with pw := { sF.pw with eject := true } }
/-- A descriptor with the bytes of w, handed over, of class cls. -/
def eRaw (cls op w : Nat) : Entry := { sub := 0, raw := BitVec.ofNat 512 (op + w), cls := cls, stage := .handed }
/-- A parameter descriptor. -/
def ePar (op block index value : Nat) : Entry := eRaw 2 op (index * 2 ^ 128 + block * 2 ^ 156 + value * 2 ^ 192)
/-- s with one descriptor handed over on pair 0, RUNNING. -/
def withE (s : State) (e : Entry) : State :=
  { s with hif := { s.hif with pairs := [(0, { st := .running, entries := [e] })] } }
def sPar (op block index value : Nat) : State := withE sR (ePar op block index value)
def sEjPar (op block index value : Nat) : State := withE sEj (ePar op block index value)
/-- A table descriptor. -/
def eTab (op block num first count : Nat) : Entry :=
  eRaw 1 op (num * 2 ^ 128 + block * 2 ^ 140 + first * 2 ^ 160 + count * 2 ^ 192)
/-- A running HIVE with a word in TIM_CTRL. -/
def sHive (w : Word) : State := { sR with regs := regSet (regSet [] 0xA004 0x100) 0x2000 w }
/-- A pulse output whose width is 8 ns and whose period is 16 ns. -/
def sPulse : State := { sR with regs := regSet (regSet [] 0x210C 16) 0x2110 8 }
def sRing (w : Word) : State := { sR with regs := regSet (regSet [] 0x3000 1) (0x3808 + 0x10 * 64) 0x400 }
def sFly : State := { sR with hif := { pairs := [(0, { st := .running, inFlight := 1, issued := 1, fetchOut := [1] })], outstanding := 1 } }
def eRead : Entry := { sub := 0, raw := BitVec.ofNat 512 (1 + 8 * 2 ^ 32 + (0x7001 * 2 ^ 128) + 2 ^ 192), cls := 1, need := 1, stage := .reading }
def sRead : State := { sR with hif := { pairs := [(0, { st := .running, inFlight := 1, entries := [eRead] })], outstanding := 1 } }
def kHeld : Cpl := { tag := 1, code := 0, sub := 0, result := 0, stampLo := 0, stampHi := 0 }
def sHeld : State := { sR with hif := { pairs := [(0, { st := .running, held := [kHeld] })] } }
/-- A HIVE whose link runs, TB1 locked at 1 s. -/
def sRunHive : State := { sR with regs := regSet [] 0xA004 0x100, wag := { link := .hive }, time := { tb1Lock := true, tb1 := { ns := 1000000000 } } }
/-- A STEP of one SETPOINT-free wait action for the station itself, 1 ms ahead. -/
def eStep : Entry := { eRaw 0 1 (1001000000 * 2 ^ 128 + 9 * 2 ^ 192 + 1 * 2 ^ 224 + 16 * 2 ^ 32) with data := [6, 0, 0, 0] ++ leBytes 12 7 }
def aTo (st : Nat) : Action := { kind := 1, kind1 := 0, station := BitVec.ofNat 16 st, target := 0, value := 0 }
def kStep : StepEntry := { seq := 5, stepId := 9, pair := 0, sub := 0, tag := 0, instant := 1001000000, atomic := false, lateBest := false, actions := [aTo 3, aTo 4], status := [none, none], reportAddr := 0, lead := 0, dmax := 0, nf := 1, unsent := 0, counted := true, relaying := true }
def sSteps : State := { sRunHive with stp := { steps := [kStep] } }
def pPart : Part := { seq := 5, instant := 1001000000, atomic := true, nf := 1, got := [(0, [aTo 0])], st := .waiting, answer := .ready 1 }
def sParts : State := { sR with time := { tb1Lock := true, tb1 := { ns := 1001000000 } }, stp := { parts := [pPart] } }
def eData (e : Entry) (n : Nat) : Entry := { e with data := List.replicate n 0 }
/-- The smallest block image: one instance of one word, END. -/
def img : List Byte :=
  let b := leBytes 4 0x4B425841 ++ leBytes 4 1 ++ leBytes 4 7 ++ leBytes 4 88 ++ leBytes 4 1000 ++ leBytes 4 1 ++ leBytes 4 2002 ++
    leBytes 2 1 ++ leBytes 2 0 ++ leBytes 2 0 ++ leBytes 2 0 ++ leBytes 4 1 ++ leBytes 4 64 ++ leBytes 4 80 ++ leBytes 4 80 ++
    leBytes 4 80 ++ leBytes 4 80 ++ leBytes 4 0 ++ leBytes 4 1 ++ leBytes 2 1 ++ leBytes 2 1 ++ leBytes 4 0 ++ leBytes 4 0xFFFFFFFF ++
    leBytes 4 (0x2F * 2 ^ 26) ++ leBytes 4 0
  b.take 60 ++ leBytes 4 (imageCrc b) ++ b.drop 64
def eImg : Entry := { eRaw 3 1 (88 * 2 ^ 32 + 2 * 2 ^ 128 + 7 * 2 ^ 160) with data := img }
def sTask (r : TaskRt) : State := { sR with blk := { tasks := [(2, r)] } }
/-- A schedule of mode 0: 100 µs, one ARBITRATING window open to station 0. -/
def gSched : WagState :=
  { sched := [(0, BitVec.ofNat 256 (100000 + 2 ^ 32 + 2 ^ 40)), (1, BitVec.ofNat 256 (20000 + 50000 * 2 ^ 24 + 2 * 2 ^ 48 + 2 ^ 56))]
    validModes := 1, stnTab := [(0, 1024)] }
/-- A schedule of mode 0 with one ARBITRATING window open to every station. -/
def gOpen : WagState :=
  { sched := [(0, BitVec.ofNat 256 (100000 + 2 ^ 32 + 2 ^ 40)),
      (1, BitVec.ofNat 256 (20000 + 50000 * 2 ^ 24 + 2 * 2 ^ 48 + 2 ^ 56 + 4095 * 2 ^ 96))]
    validModes := 1, stnTab := [(0, 1024)] }
/-- s, station 5, on a segment with that schedule. -/
def onLink (l : LinkSt) (s : State) : State :=
  { s with regs := regSet s.regs 0xA400 (0x81F40000 + 5), wag := { gOpen with link := l }, lcy := { s.lcy with st := .ownerOpen } }
/-- A segment is present; station 5; the role is role. -/
def sWag (role : Nat) (g : WagState) : State :=
  { sR with regs := regSet (regSet [] 0xA004 (BitVec.ofNat 32 (role * 0x100))) 0xA400 (0x81F40000 + 5), wag := g, lcy := { sR.lcy with st := .ownerOpen } }
def rRef : RefPayload := { tRef := 5000, depth := 2, mode := 0, pend := false, nextMode := 0, mpos := 3, cycle := 9, changeAt := 0, tb0Sec := 0, tb0Ns := 0, tb0Lock := false, stepTgl := false, rank := 7, twinned := false, bcNs := 100000, mlen := 4, nwin := 1, guardNs := 500 }
/-- A rule-store row with its CRC. -/
def mkRow (w : Nat) : BitVec 128 := BitVec.ofNat 128 (w + rowCrc (BitVec.ofNat 128 w) * 2 ^ 112)
/-- A verified field side with rule rows. -/
def sRows (l : List (Nat × Nat)) : State := { sF with saf := { sF.saf with fgVerified := true, rows := l.map (fun x => (x.1, mkRow x.2)) } }
/-- A SEND of data on port, LEN as its data. -/
def eSend (port : Nat) (d : List Byte) : Entry := { eRaw 5 1 (port * 2 ^ 128 + d.length * 2 ^ 32) with data := d }
/-- A CAN frame of two bytes: the data of its SEND, and itself. -/
def dCan : List Byte := leBytes 4 5 ++ [2, 2, 0, 0] ++ leBytes 16 0 ++ leBytes 8 0x1234
def fCan : CanFrame := { ident := 5, ide := false, rtr := false, dlc := 2, fdf := false, brs := false, esi := false, data := [0x34, 0x12] }
def qCan : CanTx := { pair := 0, sub := 0, frame := fCan, staleUs := 0, at_ := none, eligible := some 0, order := 0 }
def sLeg (l : LegState) : State := { sR with leg := l }
def pbRun : PbRun := { pair := 0, sub := 0, addr := 64, entries := [1], started := true }
def sTake (g : WagState) : State := sWag 3 { g with link := .follow }
/-- A schedule with one EXCLUSIVE window of station k: STATUS, and n words from 0 on. -/
def gExcl (k n : Nat) : WagState :=
  { sched := [(0, BitVec.ofNat 256 (100000 + 2 ^ 32 + 2 ^ 40)),
      (1, BitVec.ofNat 256 (20000 + 50000 * 2 ^ 24 + 2 ^ 48 + 2 ^ 50 + 2 ^ 56 + k * 2 ^ 80 + 0xFFF * 2 ^ 96 + 0x200 * 2 ^ 112 + n * 2 ^ 144))]
    validModes := 1, stnTab := [(0, 1024)], grdClosed := false }
/-- A schedule with a FREE window. -/
def gFree : WagState :=
  { sched := [(0, BitVec.ofNat 256 (100000 + 2 ^ 32 + 2 ^ 40)), (1, BitVec.ofNat 256 (20000 + 50000 * 2 ^ 24 + 3 * 2 ^ 48 + 2 ^ 56))]
    validModes := 1, grdClosed := false }
def hdrOf (kind src len : Nat) : FrameHdr := { kind := BitVec.ofNat 8 kind, src := (BitVec.ofNat 12 src).toFin, dst := 4095, len := len, hops := 0, win := 1, seq := 5, identSrc := (BitVec.ofNat 12 src).toFin, crcOk := true, heard := some 1, inWindow := true, place := 0 }
/-- A reference of station src with hops, by the segment. -/
def refOf (src hops : Nat) : RefArrival := { port := .segment, hdr := { hdrOf 1 src 40 with win := 0, heard := some 0, hops := (BitVec.ofNat 6 hops).toFin } }
/-- A STATUS frame of station 2 in window 1, as it crosses. -/
def fCross (ok : Bool) : CrossFrame :=
  { frame := { ident := 0xC00002, kind := 4, src := 2, dst := 4095, hops := 2, win := 1, seq := 0, payload := List.replicate 32 0 }, crcOk := ok }
def stPay : StatusPayload := { station := 4, role := 3, twinned := false, lease := false, variantL := false, tb1Lock := true, frefFb := false, depth := 0, ackMode := 0, ackValid := false, joinReq := false, eject := false, parts := 0 }
/-- A region of 1 MiB, SINGLE, one input line, REDUCED by 2, triggered by descriptor d. -/
def gReg (d : Nat) : BitVec 512 := BitVec.ofNat 512 (1 + 2 + 3 * 2 ^ 7 + 2 ^ 28 + 2 ^ 42 + 2 ^ 96 + 2 * 2 ^ 128 + d * 2 ^ 192)
def sMir (d : Nat) (q : RegionRt) : State := { sR with mir := { regions := [(2, gReg d)], lines := [(64, 4 + 2 ^ 16)], rt := [(2, q)] } }
/-- The data of a schedule load: a header alone, with its CRC-32C, 717 978 541. -/
def schedWord : BitVec 256 := BitVec.ofNat 256 (100000 + 2 ^ 32 + 717978541 * 2 ^ 64)
def schedData : List Byte := leBytes 32 schedWord.toNat
/-- A member of a twin in state st. -/
def sTwn (st : TwinSt) (t : TwnState) : State :=
  { sR with regs := regSet (regSet [] 0xB000 1) 0xA400 5, twn := { t with st := st }, lcy := { sR.lcy with st := .ownerOpen } }
def pPeer : PartnerInfo := { variantL := false, sameSegment := true, station := 0, member := true, leaseStn := 1, enabled := true, acting := true, actId := 0, health := 7 }
/-- A witness for role 9 in entry 2. -/
def sWit (t : TwnState) : State := { sR with regs := regSet [] 0xB014 0x80000000, twn := { t with witTab := [(2, 9 + 2 ^ 48)] } }
/-- A SIN row of input i with TYPE, demanding groups; a REMOTE row of a station's group for local groups. -/
def wSin (i type groups : Nat) : Nat := 3 + 9 * 16 + 0xFFFF * 2 ^ 16 + i * 2 ^ 32 + type * 2 ^ 40 + groups * 2 ^ 48
def wRem (station group groups : Nat) : Nat :=
  3 + 10 * 16 + 0xFFFF * 2 ^ 16 + station * 2 ^ 32 + group * 2 ^ 48 + 3 * 2 ^ 56 + groups * 2 ^ 64
/-- Input 1 of TYPE 0 demands groups 2 and 3. -/
def sSin (r : SinRt) : State := let s := sRows [(5, wSin 1 0 12)]; { s with saf := { s.saf with sin := [(1, r)] } }
/-- Station 4's group 1 demands groups 2 and 3; REMOTE is set. -/
def sRem (r : RemoteRt) : State :=
  let s := sRows [(5, wRem 4 1 12)]
  { s with saf := { s.saf with sealNow := 16, sealRead := 16, remote := [(4, r)] } }
/-- A copy from station k with a SCNT and demanded groups. -/
def copyOf (k n d : Nat) : List Byte :=
  let b := leBytes 4 n ++ leBytes 2 0xFFFF ++ leBytes 2 d ++ leBytes 4 0 ++ leBytes 2 k ++ List.replicate 14 0
  b ++ leBytes 4 (scrc k b)
/-- Group 2 at g, Guard in its safety cycle. -/
def sGrp (g : GroupRt) : State := let s := sRows []; { s with saf := { s.saf with guardRun := true, groups := [(2, g)] } }
/-- A segment with station 4's SAFETY window, this station's own SAFETY window beside it. -/
def gSafety (k : Nat) : WagState :=
  { link := .follow, sched := [(0, BitVec.ofNat 256 (100000 + 2 ^ 32 + 2 ^ 40)),
      (1, BitVec.ofNat 256 (20000 + 50000 * 2 ^ 24 + 2 ^ 48 + 2 ^ 51 + 2 ^ 56 + k * 2 ^ 80 + 0xFFF * 2 ^ 96))]
    validModes := 1, stnTab := [(0, 1024)], grdClosed := false }
/-- s with the link of sWag, the field side verified with station 4's REMOTE row. -/
def sSafe (r : RemoteRt) (k : Nat) : State :=
  let s := sRem r
  { s with regs := (sWag 3 (gSafety k)).regs, wag := gSafety k, pw := { s.pw with logicAbsent := false }, lcy := { s.lcy with st := .ownerOpen }, saf := { s.saf with guardRun := true } }
def sLcy (l : LcyState) : State := { sR with lcy := l }
def aNew : Activation := { valid := true, pkgId := 7 }
/-- A token that opens the logic side's debug port, of the module with serial 0 in MAKER. -/
def tDbg : List Byte :=
  leBytes 4 0x4E4B5458 ++ [2, 1, 0, 0] ++ leBytes 8 (fld State.reset.pw.serial 63 0) ++ leBytes 16 0 ++ List.replicate 32 0 ++ List.replicate 2420 0

/-- A fold that works each value out before the next. -/
def foldNow {α : Type} (f : Nat → α → Nat) : List α → Nat → Nat
  | [], c => c
  | b :: r, c => match f c b with
    | 0 => foldNow f r 0
    | n + 1 => foldNow f r (n + 1)
theorem foldNow_eq {α : Type} (f : Nat → α → Nat) (l : List α) (c : Nat) : l.foldl f c = foldNow f l c := by
  induction l generalizing c with
  | nil => rfl
  | cons b r ih => simp only [List.foldl_cons, foldNow]; split <;> simp_all
theorem foldl_flat {α β : Type} (f : Nat → β → Nat) (g : α → List β) (l : List α) (c : Nat) :
    (l.flatMap g).foldl f c = foldNow (fun c a => foldNow f (g a) c) l c := by
  rw [← foldNow_eq]
  induction l generalizing c with
  | nil => rfl
  | cons a r ih => simp only [List.flatMap_cons, List.foldl_append, List.foldl_cons, ih, foldNow_eq]
theorem sched_crc : (schedBytes [(0, schedWord)] 0).foldl (crcByteR 0x82F63B78) 0xFFFFFFFF = 3576988754 := by
  rw [schedBytes, foldl_flat]; decide +kernel
theorem crc32c_of (b : List Byte) (x : Nat) (h : b.foldl (crcByteR 0x82F63B78) 0xFFFFFFFF = x) : crc32c b = x ^^^ 0xFFFFFFFF := by
  rw [crc32c, h]
theorem schedOffence_of (t : Sparse (BitVec 256)) (m x : Nat) (h : crc32c (schedBytes t m) = x) :
    schedOffence t m = (let h := tget 0 t (256 * m)
      if !headerInRange h || decide (x ≠ fld h 95 64) then some 0
      else (List.range 255).findSome? (fun i =>
        let e := tget 0 t (256 * m + i + 1)
        if (if i + 1 ≤ shNwin h then windowInRange (shMlen h) e else decide (e = 0)) then none else some (i + 1))) := by
  rw [schedOffence, h]
theorem sched_ok : schedOffence [(0, schedWord)] 0 = none :=
  (schedOffence_of _ _ _ (crc32c_of _ _ sched_crc)).trans (by decide +kernel)
def eSched : Entry := { eTab 1 10 16 0 1 with data := schedData }
theorem sched_num : eSched.tblNum - 16 = 0 := by decide +kernel
theorem sched_tab : tload (fun _ => 0) (withE sR eSched).wag.sched (withIndex (256 * (eSched.tblNum - 16) + eSched.first) eSched.words256) =
    [(0, schedWord)] := by decide +kernel
theorem sched_wit : schedOffence (tload (fun _ => 0) (withE sR eSched).wag.sched
    (withIndex (256 * (eSched.tblNum - 16) + eSched.first) eSched.words256)) (eSched.tblNum - 16) = none := by
  rw [sched_tab, sched_num]; exact sched_ok

def noStamp : LineStamp := { tb1 := 0, tb2 := 0 }

/-! ### WellFormed refuses an ill-formed term of every check -/

theorem test_wf_reference_ns : Instr.wellFormed (.referenceFrame (refOf 3 0) { rRef with tb0Ns := 1000000000 } 0 false) = false := by decide
theorem test_wf_reference_guard : Instr.wellFormed (.referenceFrame (refOf 3 0) { rRef with guardNs := 299 } 0 false) = false := by decide
theorem test_wf_reference_matrix : Instr.wellFormed (.referenceFrame (refOf 3 0) { rRef with mlen := 65 } 0 false) = false := by decide
theorem test_wf_fetch : Instr.wellFormed (.descriptorFetch 0 (.data (List.replicate 65 0))) = false := by decide +kernel
theorem test_wf_completion : Instr.wellFormed (.hostReadCompletion 0 (.data (List.replicate 513 0))) = false := by decide +kernel
theorem test_wf_relay_empty : Instr.wellFormed (.stepRelayReceive
    { hdr := hdrOf 0x10 3 24, frame := { seq := 1, instant := 0, flags := 0, index := 0, nf := 1, actions := [] } }) = false := by decide
theorem test_wf_relay_index : Instr.wellFormed (.stepRelayReceive
    { hdr := hdrOf 0x10 3 40, frame := { seq := 1, instant := 0, flags := 0, index := 1, nf := 1, actions := [aTo 3] } }) = false := by decide
theorem test_wf_relay_len : Instr.wellFormed (.stepRelayReceive
    { hdr := hdrOf 0x10 3 41, frame := { seq := 1, instant := 0, flags := 0, index := 0, nf := 1, actions := [aTo 3] } }) = false := by decide
theorem test_wf_ctrl_len : Instr.wellFormed (.stepCtrlReceive (hdrOf 0x11 3 8) [(.commit, 1), (.abort, 2)]) = false := by decide
theorem test_wf_answer_count : Instr.wellFormed (.stepAnswerReceive (hdrOf 0x12 3 8) (.ready 201, 1) []) = false := by decide
theorem test_wf_answer_reason : Instr.wellFormed (.stepAnswerReceive (hdrOf 0x12 3 8) (.refused 256 0, 1) []) = false := by decide
theorem test_wf_report : Instr.wellFormed (.stepReportReceive (hdrOf 0x13 3 216)
    [{ seq := 1, removed := false, status := List.replicate 201 0 }]) = false := by decide +kernel
theorem test_wf_encoders : Instr.wellFormed (.basePeriodStart (List.replicate 17 .none)) = false := by decide
theorem test_wf_calibration : Instr.wellFormed (.calMeasureEnd []) = false := by decide
theorem test_wf_data_len : Instr.wellFormed (.dataFrame (hdrOf 2 4 9) [0, 0]) = false := by decide
theorem test_wf_header_len : Instr.wellFormed (.probe (hdrOf 5 4 1024) 1 0) = false := by decide
theorem test_wf_status_depth : Instr.wellFormed (.statusFrame (hdrOf 4 4 32) { stPay with depth := 64 }) = false := by decide
theorem test_wf_status_parts : Instr.wellFormed (.statusFrame (hdrOf 4 4 32) { stPay with parts := 97 }) = false := by decide
theorem test_wf_probe_resp : Instr.wellFormed (.probeResp (hdrOf 6 4 1024) 1 3 0 0) = false := by decide
theorem test_wf_safety_len : Instr.wellFormed (.safetyFrame (hdrOf 3 4 32) [1]) = false := by decide
theorem test_wf_trunk : Instr.wellFormed (.trunkForward .segment { fCross true with frame := { (fCross true).frame with hops := 64 } }) = false := by decide
theorem test_wf_change : Instr.wellFormed (.change 1 1 [0] []) = false := by decide
theorem test_wf_pair_copy : Instr.wellFormed (.safetyPairCopy [] true) = false := by decide
theorem test_wf_can_ident : Instr.wellFormed (.canFrameReceive 0 { fCan with ident := 2048 } true noStamp) = false := by decide
theorem test_wf_can_length : Instr.wellFormed (.canFrameReceive 0 { fCan with dlc := 3 } true noStamp) = false := by decide
theorem test_wf_can_rtr : Instr.wellFormed (.canFrameReceive 0 { fCan with rtr := true } true noStamp) = false := by decide
theorem test_wf_can_counters : Instr.wellFormed (.canState 0 257 0) = false := by decide
theorem test_wf_stage : Instr.wellFormed (.stage 1 (2 ^ 64) []) = false := by decide
theorem test_wf_ledger : Instr.wellFormed (.ledger 1 0 0 (2 ^ 32)) = false := by decide
theorem test_wf_sample : Instr.wellFormed (.ledgerSample { items := [] }) = false := by decide
theorem test_wf_accepts : Instr.wellFormed (.canFrameReceive 0 fCan true noStamp) = true := by decide

/-! ### Worked examples of the spec -/

/-- 0x6000 with E = 2 times 1 000 counts is 768 000 (the example under R171). -/
theorem test_product_example : prod 0x26000 1000 = 768000 := by decide
/-- 598 400 rounded right by 5 is 18 700 (the example under the hold loops). -/
theorem test_hold_example : shrRound 598400 5 = 18700 := by decide
/-- SYS_ID of an AXQ-4096-F-E, revision B, is 0x4096_4612. -/
theorem test_sys_id : ({ sR with pw := { sR.pw with gradeE := true } }).readReg 0x0000 = 0x40964612 := by decide +kernel
/-- A 32-bit SSI frame at 2 MHz is accepted (the example of R318). -/
theorem test_ssi_accepted : encEntryOk (BitVec.ofNat 64 (4 + 15 * 2 ^ 9 + 2 ^ 13)) = true := by decide
/-- The same frame at 1 MHz needs 33 µs and is refused (R318). -/
theorem test_ssi_refused : encEntryOk (BitVec.ofNat 64 (4 + 9 * 2 ^ 9 + 2 ^ 13)) = false := by decide
/-- TON with PT = 250 in a 100 µs task reads ET 0, 100, 200, 250 and sets Q in the third scan after the first. -/
theorem test_ton_example :
    let a := tonStep true 250 100 { q := 0, et := 0, run := false }
    let b := tonStep true 250 100 a
    let c := tonStep true 250 100 b
    let d := tonStep true 250 100 c
    (a.et, b.et, c.et, d.et) = (0, 100, 200, 250) ∧ (a.q, b.q, c.q, d.q) = (0, 0, 0, 1) := by decide
/-- The lengths that a DLC gives (R530). -/
theorem test_dlc_fd : dlcBytes true 15 = 64 ∧ dlcBytes false 15 = 8 ∧ dlcBytes true 9 = 12 := by decide
/-- Short times compare across the wrap (R47). -/
theorem test_sdiff_wrap : sdiff 0 (BitVec.ofNat 40 (2 ^ 40 - 1)) = 1 ∧ sdiff (BitVec.ofNat 40 (2 ^ 39)) 0 = -(2 ^ 39) := by decide
/-- Snapshot 300 lies in slot 46 of the ring (the example under R588). -/
theorem test_snapshot_slot :
    (tget {} (State.writeSnapshot { sF with peat := { causes := 1, seq := 299 } }).peat.ring 46 : LedgerRec).seq = 300 := by
  decide +kernel
/-- −20 °C is the origin of item 0: −20.01 °C is in bin 0, −20.00 °C in bin 1, 120.00 °C in bin 15 (R580, R581). -/
theorem test_ledger_bins : itemBin 0 (-2001) = 0 ∧ itemBin 0 (-2000) = 1 ∧ itemBin 0 12000 = 15 := by decide
/-- Memory reads what was written, and a zero is not listed. -/
theorem test_sparse_zero : tput (0 : Byte) 0 [(3, 7)] 3 = [] ∧ tget (0 : Byte) (tput 0 9 [(3, 7)] 4) 4 = 9 := by decide

/-! ### What the statements assume can be met -/

theorem witness_PowerUpOfTheLogicSide :
    (∃ (s : State), (s.pw.logic = .off)) ∧
    (∃ (s : State), (s.pw.logic = .held) ∧ (s.pw.v12Ok = true) ∧ (s.pw.pres = true)) ∧
    (∃ (s : State) (retentionOk : Bool), (s.pw.logic = .boot)) ∧
    (∃ (s : State) (retentionOk : Bool), (s.pw.logic = .boot) ∧ (s.lcy.fallbackOk = false)) ∧
    (∃ (s : State) (retentionOk : Bool), (s.pw.logic = .boot) ∧ (s.lcy.fallbackOk = true)) ∧
    (∃ (s : State) (r : RestartReq), (s.pw.logic = .run) ∧ (s.pw.restart = some r) ∧ (s.twn.st ≠ .holder)) :=
  ⟨⟨{ sH with pw := { sH.pw with logic := .off } }, by decide +kernel⟩,
    ⟨sH, by decide +kernel⟩,
    ⟨sBoot, true, by decide +kernel⟩,
    ⟨sBoot, true, by decide +kernel⟩,
    ⟨{ sBoot with lcy := { sBoot.lcy with fallbackOk := true } }, true, by decide +kernel⟩,
    ⟨{ sR with pw := { sR.pw with restart := some { cold := true, cause := 3 } } }, { cold := true, cause := 3 }, by decide +kernel⟩⟩

theorem witness_LossOfPower :
    (∃ (s : State), (s.pw.logic ≠ .off)) ∧
    (∃ (s : State), (s.pw.logic ≠ .off)) ∧
    (∃ (s : State), (s.pw.logic ≠ .off)) ∧
    (∃ (s : State), (s.pw.fieldUp = true)) ∧
    (∃ (s : State), (s.pw.fieldUp = true)) ∧
    (∃ (s : State), (s.peatMain = false)) ∧
    (∃ (s : State), (s.pw.variantL = false) ∧ (s.pw.fieldUp = false)) :=
  ⟨⟨sR, by decide +kernel⟩,
    ⟨sR, by decide +kernel⟩,
    ⟨sR, by decide +kernel⟩,
    ⟨sF, by decide +kernel⟩,
    ⟨sF, by decide +kernel⟩,
    ⟨{ sH with pw := { sH.pw with logic := .off } }, by decide +kernel⟩,
    ⟨sR, by decide +kernel⟩⟩

theorem witness_SupplyAndPowerFailSignals :
    (∃ (s : State) (ok : Bool) (mv : BitVec 16), (s.pw.holdupLow = (!ok || decide (mv.toNat < 11400)))) ∧
    (∃ (s : State) (ok : Bool) (mv : BitVec 16), (s.pw.holdupLow ≠ (!ok || decide (mv.toNat < 11400)))) ∧
    (∃ (s : State), (s.pw.pwrfail = false) ∧ (s.pw.logic = .boot ∨ s.pw.logic = .run) ∧ (s.rbit 0x0100 9 = true)) ∧
    (∃ (s : State), (s.pw.pwrfail = false) ∧ (s.pw.logic = .boot ∨ s.pw.logic = .run) ∧ (s.rbit 0x0100 9 = false)) ∧
    (∃ (s : State), (s.pw.pwrfail = true)) ∧
    (∃ (s : State), (s.pw.logic = .boot ∨ s.pw.logic = .run)) :=
  ⟨⟨sR, true, 12000, by decide +kernel⟩,
    ⟨sR, true, 11399, by decide +kernel⟩,
    ⟨{ sR with regs := regSet [] 0x0100 0x200 }, by decide +kernel⟩,
    ⟨{ sR with regs := regSet [] 0x0100 0 }, by decide +kernel⟩,
    ⟨{ sR with pw := { sR.pw with pwrfail := true } }, by decide +kernel⟩,
    ⟨sR, by decide +kernel⟩⟩

theorem witness_ResetInputAndEject :
    (∃ (s : State) (ns : Nat), (20000000 ≤ ns) ∧ (ns ≤ 8000000000) ∧ (s.pw.logic = .run) ∧ (s.pw.eject = false) ∧ (s.pw.stuck = false) ∧ (s.pw.restart = none) ∧ (s.twn.st ≠ .holder)) ∧
    (∃ (s : State), (s.pw.logic = .boot ∨ s.pw.logic = .run) ∧ (s.pw.stuck = false)) ∧
    (∃ (s : State), (s.pw.logic = .boot ∨ s.pw.logic = .run) ∧ (s.pw.eject = false)) ∧
    (∃ (s : State), (s.pw.eject = true) ∧ (s.isHive = false)) ∧
    (∃ (s : State), (s.pw.fieldUp = true) ∧ (s.pw.eject = true)) ∧
    (∃ (s : State), (s.pw.eject = true) ∧ (s.pw.pres = true) ∧ (s.pw.variantL = true ∨ s.pw.presFx = true) ∧ (s.pw.logic ≠ .off)) :=
  ⟨⟨sR, 20000000, by decide +kernel⟩,
    ⟨sR, by decide +kernel⟩,
    ⟨sR, by decide +kernel⟩,
    ⟨sEj, by decide +kernel⟩,
    ⟨sEj, by decide +kernel⟩,
    ⟨sEj, by decide +kernel⟩⟩

theorem witness_FieldReferenceAndMemoryErrors :
    (∃ (s : State), (s.pw.fieldUp = true) ∧ (s.pw.frefFb = false)) ∧
    (∃ (s : State), (s.pw.fieldUp = true) ∧ (s.pw.frefFb = true)) ∧
    (∃ (s : State), (s.pw.frefFb = true) ∧ (s.pw.frefReturn = true)) ∧
    (∃ (s : State) (n : Nat), (s.logicAwake = true)) ∧
    (∃ (s : State) (b : Fin 32), (s.logicAwake = true) ∧ (b.val < 8)) ∧
    (∃ (s : State) (b : Fin 32), (s.logicAwake = true) ∧ (8 ≤ b.val) ∧ (s.pw.restart = none) ∧ (s.twn.st ≠ .holder)) ∧
    (∃ (s : State), (s.logicAwake = true) ∧ (s.pw.restart = none) ∧ (s.twn.st ≠ .holder)) ∧
    (∃ (s : State) (r : Fin 16) (k : Nat), (s.logicAwake = true)) :=
  ⟨⟨sF, by decide +kernel⟩,
    ⟨{ sF with pw := { sF.pw with frefFb := true } }, by decide +kernel⟩,
    ⟨{ sF with pw := { sF.pw with frefFb := true, frefReturn := true } }, by decide +kernel⟩,
    ⟨sR, 3, by decide +kernel⟩,
    ⟨sR, 7, by decide +kernel⟩,
    ⟨sR, 8, by decide +kernel⟩,
    ⟨sR, by decide +kernel⟩,
    ⟨sR, 0, 0, by decide +kernel⟩⟩

theorem witness_RestartByTheHost :
    (∃ (s : State) (p : Pair) (e : Entry), (s.takeParam p 1 0 1 = some e) ∧ (s.roleActs = true) ∧ (s.pw.eject = false) ∧ (e.value = 0x5A ∨ e.value = 0xC5) ∧ (s.pw.restart = none)) ∧
    (∃ (s : State) (p : Pair) (e : Entry), (s.takeParam p 1 0 1 = some e) ∧ (s.roleActs = true) ∧ (e.value ≠ 0x5A) ∧ (e.value ≠ 0xC5)) ∧
    (∃ (s : State) (p : Pair) (e : Entry), (s.takeParam p 1 0 1 = some e) ∧ (s.roleActs = true) ∧ (e.value = 0x5A ∨ e.value = 0xC5) ∧ (s.pw.eject = true)) ∧
    (∃ (s : State) (p : Pair) (e : Entry), (s.takeParam p 1 0 1 = some e) ∧ (s.roleActs = false)) :=
  ⟨⟨sPar 1 0 1 0x5A, 0, ePar 1 0 1 0x5A, by decide +kernel⟩,
    ⟨sPar 1 0 1 0x5B, 0, ePar 1 0 1 0x5B, by decide +kernel⟩,
    ⟨sEjPar 1 0 1 0x5A, 0, ePar 1 0 1 0x5A, by decide +kernel⟩,
    ⟨{ sPar 1 0 1 0x5A with twn := { st := .standby } }, 0, ePar 1 0 1 0x5A, by decide +kernel⟩⟩

theorem witness_TimeOfDayTB0 :
    (∃ (s : State) (port : Fin 2) (off : Int), (s.hostUp = true) ∧ (s.ptpOn port.val = true) ∧ (s.tb0Master = true) ∧ (s.rbit 0x2000 0 = false) ∧ (s.time.tb0Stepped = false)) ∧
    (∃ (s : State) (port : Fin 2) (off : Int), (s.hostUp = true) ∧ (s.ptpOn port.val = true) ∧ (s.tb0Master = true) ∧ (s.rbit 0x2000 0 = false) ∧ (s.time.tb0Stepped = true) ∧ (s.time.restepOk = false)) ∧
    (∃ (s : State) (port : Fin 2) (m : Stamp), (s.hostUp = true) ∧ (s.ptpOn port.val = true)) ∧
    (∃ (s : State) (port : Fin 2) (m : PtpArrival), (m.layer2 ≠ s.rbit 0x2000 5 ∨ m.p2p ≠ s.rbit 0x2000 4)) ∧
    (∃ (s : State) (port : Fin 2) (m : Stamp), (s.hostUp = true) ∧ (s.ptpOn port.val = true)) ∧
    (∃ (s : State) (port : Fin 2), (s.hostUp = true) ∧ (s.ptpOn port.val = true)) ∧
    (∃ (s : State), (s.hostUp = true) ∧ (s.tb0Master = true)) ∧
    (∃ (s : State) (p : Pair) (e : Entry), (s.takeOp p.val 2 3 = some e) ∧ (s.roleActs = true) ∧ (s.mirrors = false) ∧ (e.fullTime.2 < 1000000000) ∧ (s.tb0Master = true) ∧ (s.rbit 0x2000 0 = true) ∧ (s.time.tb0Set = false ∨ s.time.restepOk = true)) ∧
    (∃ (s : State) (p : Pair) (e : Entry), (s.takeOp p.val 2 3 = some e) ∧ (s.roleActs = true) ∧ (s.mirrors = false) ∧ (e.fullTime.2 < 1000000000) ∧ (s.tb0Master = false ∨ s.rbit 0x2000 0 = false ∨ s.time.tb0Set = true ∧ s.time.restepOk = false)) ∧
    (∃ (s : State) (p : Pair) (e : Entry), (s.takeOp p.val 2 3 = some e) ∧ (s.roleActs = true) ∧ (s.mirrors = false) ∧ (e.fullTime.2 ≥ 1000000000)) :=
  ⟨⟨sHive 0x6, 0, 64000, by decide +kernel⟩,
    ⟨{ sHive 0x6 with time := { tb0Stepped := true } }, 0, 64000, by decide +kernel⟩,
    ⟨sHive 0x6, 0, 77, by decide +kernel⟩,
    ⟨sHive 0x6, 0, ⟨true, false, none, none⟩, by decide +kernel⟩,
    ⟨sHive 0x6, 0, 77, by decide +kernel⟩,
    ⟨sHive 0x6, 0, by decide +kernel⟩,
    ⟨sHive 0, by decide +kernel⟩,
    ⟨withE (sHive 1) (eRaw 2 3 (77 * 2 ^ 128 + 5 * 2 ^ 192)), 0, eRaw 2 3 (77 * 2 ^ 128 + 5 * 2 ^ 192), by decide +kernel⟩,
    ⟨withE sR (eRaw 2 3 (77 * 2 ^ 128 + 5 * 2 ^ 192)), 0, eRaw 2 3 (77 * 2 ^ 128 + 5 * 2 ^ 192), by decide +kernel⟩,
    ⟨withE (sHive 1) (eRaw 2 3 (1000000000 * 2 ^ 192)), 0, eRaw 2 3 (1000000000 * 2 ^ 192), by decide +kernel⟩⟩

theorem witness_ProgrammedPulseOutputs :
    (∃ (s : State) (n : Fin 4) (w : Word), (s.hostUp = true) ∧ ((s.tpo n.val).armed = false) ∧ (((s.clearTpo n.val w).writeTpo n.val w).tpoBad n.val = false) ∧ (((s.clearTpo n.val w).writeTpo n.val w).tpoPeriodic n.val = false) ∧ (0 ≤ sdiff (((s.clearTpo n.val w).writeTpo n.val w).tpoStart n.val) (((s.clearTpo n.val w).writeTpo n.val w).baseNow (((s.clearTpo n.val w).writeTpo n.val w).tpoBase n.val)))) ∧
    (∃ (s : State) (n : Fin 4) (w : Word), (s.hostUp = true) ∧ ((s.tpo n.val).armed = false) ∧ (((s.clearTpo n.val w).writeTpo n.val w).tpoBad n.val = false) ∧ (((s.clearTpo n.val w).writeTpo n.val w).tpoPeriodic n.val = true)) ∧
    (∃ (s : State) (n : Fin 4) (w : Word), (s.hostUp = true) ∧ ((s.tpo n.val).armed = false) ∧ (((s.clearTpo n.val w).writeTpo n.val w).tpoBad n.val = true)) ∧
    (∃ (s : State) (n : Fin 4) (w : Word), (s.hostUp = true) ∧ ((s.tpo n.val).armed = false) ∧ (((s.clearTpo n.val w).writeTpo n.val w).tpoBad n.val = false) ∧ (((s.clearTpo n.val w).writeTpo n.val w).tpoPeriodic n.val = false) ∧ (sdiff (((s.clearTpo n.val w).writeTpo n.val w).tpoStart n.val) (((s.clearTpo n.val w).writeTpo n.val w).baseNow (((s.clearTpo n.val w).writeTpo n.val w).tpoBase n.val)) < 0)) ∧
    (∃ (s : State) (n : Fin 4) (w : Word), (s.hostUp = true)) ∧
    (∃ (s : State) (n : Fin 4), ((s.tpo n.val).armed = true) ∧ ((s.tpo n.val).high = false) ∧ (s.baseLocked (s.tpoBase n.val) = true) ∧ (s.tpoPeriodic n.val = false)) ∧
    (∃ (s : State) (n : Fin 4), ((s.tpo n.val).armed = true) ∧ ((s.tpo n.val).high = false) ∧ (s.baseLocked (s.tpoBase n.val) = true) ∧ (s.tpoPeriodic n.val = true)) ∧
    (∃ (s : State) (n : Fin 4), ((s.tpo n.val).high = true)) ∧
    (∃ (s : State) (p : Pair) (e : Entry), (s.takeOp p.val 5 3 = some e) ∧ (s.time.tsq ≠ [])) ∧
    (∃ (s : State) (p : Pair) (e : Entry), (s.takeOp p.val 5 3 = some e) ∧ (s.time.tsq = [])) :=
  ⟨⟨sPulse, 0, 1, by decide +kernel⟩,
    ⟨sPulse, 0, 3, by decide +kernel⟩,
    ⟨sR, 0, 1, by decide +kernel⟩,
    ⟨{ sPulse with time := { tb0 := { sec := 1 } } }, 0, 1, by decide +kernel⟩,
    ⟨sPulse, 0, 0, by decide +kernel⟩,
    ⟨{ sPulse with time := { tb0Lock := true, tb1Lock := true, pulses := [(0, { armed := true })] } }, 0, by decide +kernel⟩,
    ⟨{ sPulse with regs := regSet sPulse.regs 0x2100 2, time := { tb0Lock := true, pulses := [(0, { armed := true })] } }, 0, by decide +kernel⟩,
    ⟨{ sPulse with time := { pulses := [(0, { high := true })] } }, 0, by decide +kernel⟩,
    ⟨{ (withE sR (eRaw 5 3 0)) with time := { tsq := [{ sec := 1, nsec := 2, ident := 3, port := 1, frac := 0 }] } }, 0, eRaw 5 3 0, by decide +kernel⟩,
    ⟨withE sR (eRaw 5 3 0), 0, eRaw 5 3 0, by decide +kernel⟩⟩

theorem witness_EndpointEvents :
    (∃ (s : State) (v : Fin 5), (v ≠ 0) ∧ (s.pw.logic = .boot ∨ s.pw.logic = .run) ∧ (s.hif.linkUp = false)) ∧
    (∃ (s : State), (s.hif.linkUp = true)) :=
  ⟨⟨sR, 3, by decide +kernel⟩,
    ⟨{ sR with hif := { linkUp := true } }, by decide +kernel⟩⟩

theorem witness_RingsAndDoorbells :
    (∃ (s : State), (s.hostUp = true)) ∧
    (∃ (s : State), (s.hostUp = true)) ∧
    (∃ (s : State) (p : Pair) (w : Word), (s.hostUp = true) ∧ (s.pairEnabled p.val = false) ∧ ((s.writeBits (0x3808 + 0x10 * p.val) w).rbit 0x3000 0 = true) ∧ ((s.writeBits (0x3808 + 0x10 * p.val) w).ringServed p.val = true) ∧ (ringConfigOk (s.writeBits (0x3808 + 0x10 * p.val) w).regs p.val = true)) ∧
    (∃ (s : State) (p : Pair) (w : Word), (s.hostUp = true) ∧ (s.pairEnabled p.val = false) ∧ ((s.writeBits (0x3808 + 0x10 * p.val) w).rbit 0x3000 0 = true) ∧ ((s.writeBits (0x3808 + 0x10 * p.val) w).ringServed p.val = true) ∧ (ringConfigOk (s.writeBits (0x3808 + 0x10 * p.val) w).regs p.val = false)) ∧
    (∃ (s : State) (p : Pair), (s.hostUp = true)) ∧
    (∃ (s : State) (p : Pair) (v : Word), (s.hostUp = true) ∧ ((s.pairRt p.val).st = .running) ∧ (subDoorbellOk (ringSize s.regs p.val) (s.pairRt p.val) v = true)) ∧
    (∃ (s : State) (p : Pair) (v : Word), (s.hostUp = true) ∧ ((s.pairRt p.val).st = .running) ∧ (subDoorbellOk (ringSize s.regs p.val) (s.pairRt p.val) v = false)) ∧
    (∃ (s : State) (p : Pair) (v : Word), (s.hostUp = true) ∧ ((s.pairRt p.val).st ≠ .running)) ∧
    (∃ (s : State) (p : Pair) (v : Word), (s.hostUp = true) ∧ ((s.pairRt p.val).st = .running) ∧ (cplDoorbellOk (ringSize s.regs (64 + p.val)) (s.pairRt p.val) v = true)) ∧
    (∃ (s : State) (p : Pair) (v : Word), (s.hostUp = true) ∧ ((s.pairRt p.val).st = .running) ∧ (cplDoorbellOk (ringSize s.regs (64 + p.val)) (s.pairRt p.val) v = false)) :=
  ⟨⟨sR, by decide +kernel⟩,
    ⟨sR, by decide +kernel⟩,
    ⟨sRing 0, 0, 0x20001000 * 0 + 0x20400 + 0x80000000, by decide +kernel⟩,
    ⟨sRing 0, 0, 0x80000000, by decide +kernel⟩,
    ⟨sR, 0, by decide +kernel⟩,
    ⟨withE sR (eRaw 1 1 0), 0, 1, by decide +kernel⟩,
    ⟨withE sR (eRaw 1 1 0), 0, 1000, by decide +kernel⟩,
    ⟨sR, 0, 1000, by decide +kernel⟩,
    ⟨withE sR (eRaw 1 1 0), 0, 0, by decide +kernel⟩,
    ⟨withE sR (eRaw 1 1 0), 0, 1000, by decide +kernel⟩⟩

theorem witness_FetchesAndReadsOfHostMemory :
    (∃ (s : State) (p : Pair) (b : List Byte), ((s.pairRt p.val).st = .running) ∧ ((s.pairRt p.val).fetchOut ≠ [])) ∧
    (∃ (s : State) (p : Pair), ((s.pairRt p.val).st = .running) ∧ ((s.pairRt p.val).fetchOut ≠ [])) ∧
    (∃ (s : State) (p : Pair), ((s.pairRt p.val).st = .running) ∧ ((s.pairRt p.val).fetchOut ≠ [])) ∧
    (∃ (s : State) (p : Pair) (e : Entry) (b : List Byte), ((s.pairRt p.val).readsData = true) ∧ (s.readingEntry p.val = some e) ∧ (e.need ≤ 1)) ∧
    (∃ (s : State) (p : Pair) (e : Entry), ((s.pairRt p.val).readsData = true) ∧ (s.readingEntry p.val = some e) ∧ (e.need ≤ 1)) ∧
    (∃ (s : State) (p : Pair) (e : Entry), ((s.pairRt p.val).readsData = true) ∧ (s.readingEntry p.val = some e) ∧ (e.need ≤ 1)) ∧
    (∃ (s : State) (p : Pair) (k : Nat), (s.hif.waiting = [(p.val, k + 1)]) ∧ (∀ q : Fin 64, q ≠ p → (s.pairRt q.val).fetchWait = []) ∧ (pairClass s.regs p.val ≠ 0) ∧ (s.hif.outstanding < 96) ∧ (s.hif.outstanding - s.hif.stepOut < 96 - stepReserve s.regs)) ∧
    (∃ (s : State) (p : Pair) (k : Nat) (r : List Nat), (s.hif.waiting = []) ∧ (∀ q : Fin 64, q ≠ p → (s.pairRt q.val).fetchWait = []) ∧ ((s.pairRt p.val).fetchWait = k :: r) ∧ ((s.pairRt p.val).mayFetch = true) ∧ (pairClass s.regs p.val ≠ 0) ∧ (s.hif.outstanding < 96) ∧ (s.hif.outstanding - s.hif.stepOut < 96 - stepReserve s.regs)) ∧
    (∃ (s : State) (p : Pair) (k : Cpl), ((s.pairRt p.val).held = [k]) ∧ ((s.pairRt p.val).discarded = 0) ∧ (hasRoom s.hxCtx p.val 1 s.hif = true)) :=
  ⟨⟨sFly, 0, [1, 0, 0, 0], by decide +kernel⟩,
    ⟨sFly, 0, by decide +kernel⟩,
    ⟨sFly, 0, by decide +kernel⟩,
    ⟨sRead, 0, eRead, [1, 2, 3, 4, 5, 6, 7, 8], by decide +kernel⟩,
    ⟨sRead, 0, eRead, by decide +kernel⟩,
    ⟨sRead, 0, eRead, by decide +kernel⟩,
    ⟨{ sR with regs := regSet [] 0x3838 0x10000, hif := { waiting := [(3, 1)] } }, 3, 0, by decide +kernel⟩,
    ⟨{ sR with regs := regSet [] 0x3838 0x10000, hif := { pairs := [(3, { fetchWait := [1, 1] })] } }, 3, 1, [1], by decide +kernel⟩,
    ⟨sHeld, 0, kHeld, by decide +kernel⟩⟩

theorem witness_VectorsReadsAndMasks :
    (∃ (s : State) (v : Fin 128), ((tget {} s.hif.vectors v.val).unsignalled > 0) ∧ ((tget {} s.hif.vectors v.val).masked = false)) ∧
    (∃ (s : State) (v : Fin 128), ((tget {} s.hif.vectors v.val).unsignalled > 0) ∧ ((tget {} s.hif.vectors v.val).masked = true)) ∧
    (∃ (s : State) (v : Fin 128), ((tget {} s.hif.vectors v.val).pending = true)) ∧
    (∃ (s : State) (v : Fin 128), ((tget {} s.hif.vectors v.val).pending = false)) ∧
    (∃ (s : State) (p : Pair) (e : Entry), (s.takeOp p.val 1 2 = some e)) ∧
    (∃ (s : State) (p : Pair) (e : Entry), (s.takeOp p.val 7 1 = some e)) ∧
    (∃ (s : State) (p : Pair) (e : Entry), (s.takeOp p.val 6 1 = some e)) ∧
    (∃ (s : State) (p : Pair) (e : Entry) (n size : Nat), (s.takeOp p.val 1 1 = some e) ∧ (tableShape e.tblBlock e.tblNum = some (n, size, false)) ∧ (s.roleActs = true)) :=
  ⟨⟨{ sR with hif := { vectors := [(5, { masked := false, unsignalled := 2 })] } }, 5, by decide +kernel⟩,
    ⟨{ sR with hif := { vectors := [(5, { masked := true, unsignalled := 2 })] } }, 5, by decide +kernel⟩,
    ⟨{ sR with hif := { vectors := [(5, { masked := true, pending := true })] } }, 5, by decide +kernel⟩,
    ⟨sR, 5, by decide +kernel⟩,
    ⟨withE sR (eTab 2 7 1 0 2), 0, eTab 2 7 1 0 2, by decide +kernel⟩,
    ⟨withE sR (eRaw 7 1 0), 0, eRaw 7 1 0, by decide +kernel⟩,
    ⟨withE sR (eRaw 6 1 (0x123 * 2 ^ 128)), 0, eRaw 6 1 (0x123 * 2 ^ 128), by decide +kernel⟩,
    ⟨withE sR (eTab 1 12 1 0 1), 0, eTab 1 12 1 0 1, 256, 16, by decide +kernel⟩⟩

theorem witness_StepsOnTheHive :
    (∃ (s : State) (p : Pair) (e : Entry) (k : StepEntry) (slack : Int), (s.takeOp p.val 0 1 = some e) ∧ (s.stepTurn p = true) ∧ (s.roleHive = true) ∧ (s.stp.steps.length < 96) ∧ (stepNoncanon e = none) ∧ (s.stepEntry p e ((List.range (e.bytes 28 2)).map (actionAt e.data)) = k) ∧ (s.stepFault e ((List.range (e.bytes 28 2)).map (actionAt e.data)) k.instant k.atomic = none) ∧ (s.admittedAs { instant := k.instant, lead := k.lead, unsent := k.nf, new := true } = some slack) ∧ (s.findStep k.seq = none) ∧ (k.status.any (fun x => x.isNone) = true)) ∧
    (∃ (s : State) (p : Pair) (e : Entry) (k : StepEntry) (slack : Int), (s.takeOp p.val 0 1 = some e) ∧ (s.stepTurn p = true) ∧ (s.roleHive = true) ∧ (s.stp.steps.length < 96) ∧ (stepNoncanon e = none) ∧ (s.stepEntry p e ((List.range (e.bytes 28 2)).map (actionAt e.data)) = k) ∧ (s.stepFault e ((List.range (e.bytes 28 2)).map (actionAt e.data)) k.instant k.atomic = none) ∧ (s.admittedAs { instant := k.instant, lead := k.lead, unsent := k.nf, new := true } = some slack) ∧ (s.findStep k.seq = none) ∧ (k.status.any (fun x => x.isNone) = true)) ∧
    (∃ (s : State) (p : Pair) (e : Entry), (s.takeOp p.val 0 1 = some e) ∧ (s.stepTurn p = true) ∧ (s.roleHive = false)) ∧
    (∃ (s : State) (p : Pair) (e : Entry) (k : StepEntry), (s.takeOp p.val 0 2 = some e) ∧ (s.stepTurn p = true) ∧ (s.roleHive = true) ∧ (s.stp.steps.find? (fun k => decide (k.stepId.toNat = e.bytes 24 4)) = some k) ∧ (s.cancelInTime k = true)) ∧
    (∃ (s : State) (p : Pair) (e : Entry), (s.takeOp p.val 0 2 = some e) ∧ (s.stepTurn p = true) ∧ (s.roleHive = true) ∧ (s.stp.steps.find? (fun k => decide (k.stepId.toNat = e.bytes 24 4)) = none)) ∧
    (∃ (s : State) (p : Pair) (e : Entry) (k : StepEntry), (s.takeOp p.val 0 2 = some e) ∧ (s.stepTurn p = true) ∧ (s.roleHive = true) ∧ (s.stp.steps.find? (fun k => decide (k.stepId.toNat = e.bytes 24 4)) = some k) ∧ (s.cancelInTime k = false)) ∧
    (∃ (s : State) (p : Pair) (e : Entry), (s.takeOp p.val 0 3 = some e) ∧ (s.stepTurn p = true) ∧ (s.roleHive = true)) :=
  ⟨⟨withE sRunHive eStep, 0, eStep, sRunHive.stepEntry 0 eStep [actionAt eStep.data 0], 900000, by decide +kernel⟩,
    ⟨withE sRunHive eStep, 0, eStep, sRunHive.stepEntry 0 eStep [actionAt eStep.data 0], 900000, by decide +kernel⟩,
    ⟨withE sR eStep, 0, eStep, by decide +kernel⟩,
    ⟨withE sSteps (eRaw 0 2 (9 * 2 ^ 192)), 0, eRaw 0 2 (9 * 2 ^ 192), kStep, by decide +kernel⟩,
    ⟨withE sSteps (eRaw 0 2 (8 * 2 ^ 192)), 0, eRaw 0 2 (8 * 2 ^ 192), by decide +kernel⟩,
    ⟨withE { sSteps with time := { tb1 := { ns := 1001000000 } } } (eRaw 0 2 (9 * 2 ^ 192)), 0, eRaw 0 2 (9 * 2 ^ 192), kStep, by decide +kernel⟩,
    ⟨withE sSteps (eRaw 0 3 0), 0, eRaw 0 3 0, by decide +kernel⟩⟩

theorem witness_StepsOnAStation :
    (∃ (s : State) (h : FrameHdr) (f : RelayFrame), (s.takesFrames = true) ∧ (h.crcOk = true) ∧ (s.frameFits h 0x10 = true) ∧ (s.findPart f.seq = none) ∧ (0 ≤ s.time.tb1.tickOf (tadd f.instant (-2000))) ∧ (f.actions.any (fun a => decide (aStn a = s.station)) = false)) ∧
    (∃ (s : State) (h : FrameHdr) (f : RelayFrame), (s.takesFrames = true) ∧ (h.crcOk = true) ∧ (s.frameFits h 0x10 = true) ∧ (s.findPart f.seq = none) ∧ (0 ≤ s.time.tb1.tickOf (tadd f.instant (-2000))) ∧ (f.actions.any (fun a => decide (aStn a = s.station)) = true) ∧ (s.partCount < 96) ∧ (f.nf ≤ 1)) ∧
    (∃ (s : State) (h : FrameHdr) (f : RelayFrame), (s.takesFrames = true) ∧ (h.crcOk = false)) ∧
    (∃ (s : State) (h : FrameHdr) (seq : Word) (x : Part), (s.takesFrames = true) ∧ (h.crcOk = true) ∧ (s.frameFits h 0x11 = true) ∧ (s.findPart seq = some x) ∧ (x.st = .waiting)) ∧
    (∃ (s : State) (h : FrameHdr) (seq : Word) (x : Part), (s.takesFrames = true) ∧ (h.crcOk = true) ∧ (s.frameFits h 0x11 = true) ∧ (s.findPart seq = some x) ∧ (x.st = .waiting)) ∧
    (∃ (s : State) (h : FrameHdr) (seq : Word) (x : Part), (s.takesFrames = true) ∧ (h.crcOk = true) ∧ (s.frameFits h 0x11 = true) ∧ (s.findPart seq = some x) ∧ (x.st = .armed)) ∧
    (∃ (s : State) (seq : Word) (e : StepEntry), (s.findPart seq = none) ∧ (s.findStep seq = some e) ∧ (s.reached e.partDeadline = true)) ∧
    (∃ (s : State) (seq : Word) (x : Part), (s.findPart seq = some x) ∧ (x.st = .waiting) ∧ (s.findStep seq = none) ∧ (s.reached (stepPartDeadline x.instant) = true)) ∧
    (∃ (s : State) (seq : Word) (x : Part), (s.findPart seq = some x) ∧ (x.st = .collecting) ∧ (s.findStep seq = none) ∧ (s.reached (stepPartDeadline x.instant) = true)) ∧
    (∃ (s : State) (seq : Word) (e : StepEntry) (x : Part), (s.stp.tail = []) ∧ (s.findPart seq = some x) ∧ (s.findStep seq = some e) ∧ (s.reached (stepPartDeadline x.instant) = false) ∧ (s.reached e.partDeadline = false)) :=
  ⟨⟨onLink .follow sR, hdrOf 0x10 0 40, { seq := 5, instant := 1001000000, flags := 0, index := 0, nf := 1, actions := [aTo 7] }, by decide +kernel⟩,
    ⟨onLink .follow sR, hdrOf 0x10 0 40, { seq := 5, instant := 1001000000, flags := 0, index := 0, nf := 1, actions := [aTo 5] }, by decide +kernel⟩,
    ⟨onLink .follow sR, { hdrOf 0x10 0 40 with crcOk := false }, { seq := 5, instant := 1001000000, flags := 0, index := 0, nf := 1, actions := [aTo 5] }, by decide +kernel⟩,
    ⟨onLink .follow sParts, hdrOf 0x11 0 8, 5, pPart, by decide +kernel⟩,
    ⟨onLink .follow sParts, hdrOf 0x11 0 8, 5, pPart, by decide +kernel⟩,
    ⟨onLink .follow { sParts with stp := { parts := [{ pPart with st := .armed }] } }, hdrOf 0x11 0 8, 5, { pPart with st := .armed }, by decide +kernel⟩,
    ⟨{ sSteps with time := { tb1 := { ns := 1000998000 } } }, 5, kStep, by decide +kernel⟩,
    ⟨sParts, 5, pPart, by decide +kernel⟩,
    ⟨{ sParts with stp := { parts := [{ pPart with st := .collecting }] } }, 5, { pPart with st := .collecting }, by decide +kernel⟩,
    ⟨{ sSteps with stp := { sSteps.stp with parts := [pPart] }, time := { tb1 := { ns := 1000000000 } } }, 5, kStep, pPart, by decide +kernel⟩⟩

theorem witness_AnswersReportsAndCloses :
    (∃ (s : State) (h : FrameHdr) (n : Nat) (seq : Word) (e : StepEntry), (s.takesFrames = true) ∧ (h.crcOk = true) ∧ (s.frameFits h 0x12 = true) ∧ (h.src.val ≠ s.station ∨ s.roleActs = true) ∧ (s.findStep seq = some e) ∧ (e.stations.contains h.src.val = true) ∧ (e.answers.any (fun x => decide (x.1 = h.src.val)) = false) ∧ (e.status.any (fun x => x.isNone) = true)) ∧
    (∃ (s : State) (h : FrameHdr) (r i : Nat) (seq : Word) (e : StepEntry), (s.takesFrames = true) ∧ (h.crcOk = true) ∧ (s.frameFits h 0x12 = true) ∧ (h.src.val ≠ s.station ∨ s.roleActs = true) ∧ (s.findStep seq = some e) ∧ (e.stations.contains h.src.val = true) ∧ (e.answers.any (fun x => decide (x.1 = h.src.val)) = false) ∧ (e.atomic = false) ∧ ((e.setStatus (e.mine h.src.val) 0x05).status.any (fun x => x.isNone) = true)) ∧
    (∃ (s : State) (h : FrameHdr) (r : StepReport) (e : StepEntry), (s.takesFrames = true) ∧ (h.crcOk = true) ∧ (s.frameFits h 0x13 = true) ∧ (h.src.val ≠ s.station ∨ s.roleActs = true) ∧ (s.findStep r.seq = some e) ∧ (e.stations.contains h.src.val = true) ∧ (e.reported.contains h.src.val = false) ∧ ((e.report h.src.val r).status.any (fun x => x.isNone) = true)) ∧
    (∃ (s : State) (seq : Word) (e : StepEntry), (s.findStep seq = some e) ∧ (e.atomic = true) ∧ (e.committed = false) ∧ (e.aborted = false) ∧ (s.reached e.cutOff = true)) ∧
    (∃ (s : State) (seq : Word) (e : StepEntry), (s.findStep seq = some e) ∧ (s.reached e.cutOff = false)) ∧
    (∃ (s : State) (seq : Word) (e : StepEntry), (s.findStep seq = some e) ∧ (s.reached e.reportDeadline = true)) ∧
    (∃ (s : State) (seq : Word) (e : StepEntry), (s.findStep seq = some e) ∧ (s.reached e.reportDeadline = false)) :=
  ⟨⟨onLink .hive sSteps, hdrOf 0x12 3 8, 1, 5, kStep, by decide +kernel⟩,
    ⟨onLink .hive sSteps, hdrOf 0x12 3 8, 1, 0, 5, kStep, by decide +kernel⟩,
    ⟨onLink .hive sSteps, hdrOf 0x13 3 8, { seq := 5, removed := false, status := [0] }, kStep, by decide +kernel⟩,
    ⟨{ sRunHive with time := { tb1 := { ns := 1000998000 } }, stp := { steps := [{ kStep with atomic := true }] } }, 5, { kStep with atomic := true }, by decide +kernel⟩,
    ⟨sSteps, 5, kStep, by decide +kernel⟩,
    ⟨{ sSteps with time := { tb1 := { ns := 1001000000 } } }, 5, kStep, by decide +kernel⟩,
    ⟨sSteps, 5, kStep, by decide +kernel⟩⟩

theorem witness_LaunchesDryAndBasePeriods :
    (∃ (s : State) (x : Part), (s.replays = false) ∧ (s.stp.steps = []) ∧ (s.stp.parts = [x]) ∧ (x.st = .armed) ∧ (s.time.tb1.tickOf x.instant ≤ 0)) ∧
    (∃ (s : State), (s.roleHive = true) ∧ (s.stp.dryRuns = true) ∧ (s.stp.steps = []) ∧ (s.rbit 0x4000 1 = true) ∧ (s.stp.dry = false)) ∧
    (∃ (s : State) (enc : List EncReading), (s.pw.logic = .run) ∧ (s.cmb.running = true)) ∧
    (∃ (s : State) (enc : List EncReading), (s.pw.logic = .run) ∧ (s.cmb.running = false)) :=
  ⟨⟨{ sParts with stp := { parts := [{ pPart with st := .armed }] } }, { pPart with st := .armed }, by decide +kernel⟩,
    ⟨{ sRunHive with regs := regSet sRunHive.regs 0x4000 2, stp := { dryRuns := true } }, by decide +kernel⟩,
    ⟨{ sR with cmb := { running := true } }, [], by decide +kernel⟩,
    ⟨sR, [], by decide +kernel⟩⟩

theorem witness_CombTablesAndEvaluations :
    (∃ (s : State) (k : Fin 4096) (x : Nat × Nat × Nat), (s.cmb.due.find? (fun x => decide (x.1 = k.val)) = some x) ∧ (((State.takeRecords { s with cmb := { s.cmb with due := s.cmb.due.filter (fun y => decide (y.1 ≠ k.val)) } } k.val).cmb.slotRt k.val).on = true)) ∧
    (∃ (s : State) (k : Fin 4096) (x : Nat × Nat × Nat), (s.cmb.due.find? (fun x => decide (x.1 = k.val)) = some x) ∧ (((State.takeRecords { s with cmb := { s.cmb with due := s.cmb.due.filter (fun y => decide (y.1 ≠ k.val)) } } k.val).cmb.slotRt k.val).on = false)) ∧
    (∃ (s : State) (c : Fin 8) (w : Word), (s.hostUp = true) ∧ (c.val ≠ 0) ∧ (c.val ≠ 7) ∧ (s.rwlOpen 5 = true) ∧ (fld w 8 0 ≠ 0) ∧ (500 % fld w 8 0 = 0) ∧ (s.classInUse c.val = false)) ∧
    (∃ (s : State) (c : Fin 8) (w : Word), (s.hostUp = true) ∧ (c.val ≠ 0) ∧ (c.val ≠ 7) ∧ (s.rwlOpen 5 = true) ∧ (fld w 8 0 = 0 ∨ 500 % fld w 8 0 ≠ 0)) ∧
    (∃ (s : State) (c : Fin 8) (w : Word), (s.hostUp = true) ∧ (c.val ≠ 0) ∧ (c.val ≠ 7) ∧ (s.rwlOpen 5 = false)) ∧
    (∃ (s : State) (p : Pair) (e : Entry) (cl : List Claim) (ds : List Disp) (peak : Nat), (s.takeLoad p 5 1 = some e) ∧ (s.roleActs = true) ∧ (s.mirrors = false) ∧ (firstNoncanon 160 ((List.range 8).map (fun i => (11 + i, true))) e.data = none) ∧ (judgeSlots s s.loopDst (withIndex e.first e.words1280) = .ok (cl, ds, peak))) ∧
    (∃ (s : State) (p : Pair) (e : Entry), (s.takeLoad p 5 2 = some e) ∧ (s.roleActs = true) ∧ (s.mirrors = false) ∧ ((withIndex e.first ((List.range e.count).map (entryAt 32 4 e.data))).find? (fun x => decide (tget 0 s.cmb.store x.1 ≠ x.2) && s.programsInUse.any (fun u => decide (u.1 ≤ x.1) && decide (x.1 ≤ u.2))) = none)) ∧
    (∃ (s : State) (p : Pair) (e : Entry), (s.takeLoad p 5 3 = some e) ∧ (s.roleActs = true) ∧ (s.mirrors = false) ∧ (firstNoncanon 64 [(2, true)] e.data = none) ∧ ((withIndex e.first e.words512).find? (fun x => !modelFieldsOk x.2 || (s.slotEnabled x.1 && !modelFits (s.cmb.rec_ x.1) x.2)) = none)) :=
  ⟨⟨{ sR with cmb := { due := [(7, 0, 6), (9, 0, 12)], rt := [(7, { on := true })] } }, 7, (7, 0, 6), by decide +kernel⟩,
    ⟨{ sR with cmb := { due := [(7, 0, 6), (9, 0, 12)] } }, 7, (7, 0, 6), by decide +kernel⟩,
    ⟨{ sR with pw := { sR.pw with cfgDone := true } }, 3, 50, by decide +kernel⟩,
    ⟨{ sR with pw := { sR.pw with cfgDone := true } }, 3, 7, by decide +kernel⟩,
    ⟨{ sR with pw := { sR.pw with cfgDone := true, lock := 0xFFFF } }, 3, 50, by decide +kernel⟩,
    ⟨withE sR (eData (eTab 1 5 1 0 1) 160), 0, eData (eTab 1 5 1 0 1) 160, [], [], 0, by decide +kernel⟩,
    ⟨withE sR { eTab 1 5 2 10 1 with data := [1, 2, 3, 4] }, 0, { eTab 1 5 2 10 1 with data := [1, 2, 3, 4] }, by decide +kernel⟩,
    ⟨withE sR { eTab 1 5 3 10 1 with data := leBytes 64 modelReset.toNat }, 0, { eTab 1 5 3 10 1 with data := leBytes 64 modelReset.toNat }, by decide +kernel⟩⟩

theorem witness_BlockTasks :
    (∃ (s : State) (k : Fin 8), (s.cmb.skip = false) ∧ (s.runsOwnTasks = true) ∧ ((s.task k.val).st = .running) ∧ ((s.task k.val).scanning = false)) ∧
    (∃ (s : State) (k : Fin 8), (s.cmb.skip = false) ∧ (s.runsOwnTasks = true) ∧ ((s.task k.val).st = .running) ∧ ((s.task k.val).scanning = true) ∧ ((s.task k.val).ended = false)) ∧
    (∃ (s : State) (k : Fin 8), (s.cmb.skip = true)) ∧
    (∃ (s : State) (k : Fin 8) (ns : Nat), ((s.task k.val).scanning = true) ∧ ((s.task k.val).ended = false)) ∧
    (∃ (s : State) (p : Pair) (e : Entry), (s.takeLoad p 6 1 = some e) ∧ (s.roleActs = true) ∧ (s.mirrors = false) ∧ ((withIndex e.first e.words64).any (fun x => mapEntryBad inLimit x.2) = false) ∧ ((withIndex e.first e.words64).find? (fun x => (s.namedWords inWordsOf).contains x.1 && decide (tget 0 s.blk.inMap x.1 ≠ x.2)) = none)) ∧
    (∃ (s : State) (p : Pair) (e : Entry) (cl : List Claim), (s.takeLoad p 6 2 = some e) ∧ (s.roleActs = true) ∧ (s.mirrors = false) ∧ ((withIndex e.first e.words64).any (fun x => mapEntryBad outLimit x.2 || s.ffTaken (mapSrc x.2)) = false) ∧ ((withIndex e.first e.words64).find? (fun x => (s.namedWords outWordsOf).contains x.1 && decide (tget 0 s.blk.outMap x.1 ≠ x.2)) = none) ∧ (mapLoadClaims s.fio.claims (withIndex e.first e.words64) = .ok cl)) ∧
    (∃ (s : State) (p : Pair) (e : Entry) (b : List Byte), (s.takeOp p.val 3 1 = some e) ∧ (s.roleActs = true) ∧ (s.mirrors = false) ∧ (e.byte16 < 8) ∧ (64 ≤ e.len) ∧ ((s.task e.byte16).exch = none) ∧ ((s.task e.byte16).restartReq = none) ∧ (judgeImage e.word20 e.len e.data = .ok b)) ∧
    (∃ (s : State) (p : Pair) (e : Entry) (cores : List (Nat × Nat)) (cl : List Claim), (s.takeOp p.val 3 2 = some e) ∧ (s.roleActs = true) ∧ (s.mirrors = false) ∧ (e.byte16 < 8) ∧ (e.word20 = 0) ∧ ((s.task e.byte16).exch = none) ∧ ((s.task e.byte16).restartReq = none) ∧ (s.judgeExchange e.byte16 [] = .ok (cores, cl))) ∧
    (∃ (s : State) (k : Fin 8) (q : ExchReq), ((s.task k.val).exch = some q) ∧ ((s.task k.val).scanning = false ∨ (s.task k.val).ended = true) ∧ (s.runsOwnTasks = true) ∧ (100000 ≤ sdiff s.time.tb1.ns q.at_) ∧ (q.imageId = 0) ∧ ((s.task k.val).incoming = [])) ∧
    (∃ (s : State) (k : Fin 8) (q : ExchReq), ((s.task k.val).exch = some q) ∧ ((s.task k.val).scanning = false ∨ (s.task k.val).ended = true) ∧ (s.runsOwnTasks = true) ∧ (100000 ≤ sdiff s.time.tb1.ns q.at_) ∧ (s.gridNow % iPeriod (s.task k.val).incoming = 0) ∧ ((s.task k.val).incoming ≠ [])) ∧
    (∃ (s : State) (k : Fin 8) (q : ExchReq), ((s.task k.val).exch = some q) ∧ (sdiff s.time.tb1.ns q.at_ < 100000)) :=
  ⟨⟨sTask { st := .running, active := img }, 2, by decide +kernel⟩,
    ⟨sTask { st := .running, active := img, scanning := true }, 2, by decide +kernel⟩,
    ⟨{ sR with cmb := { skip := true } }, 2, by decide +kernel⟩,
    ⟨sTask { st := .running, active := img, scanning := true }, 2, 5000, by decide +kernel⟩,
    ⟨withE sR { eTab 1 6 1 10 1 with data := [3, 16, 0, 0, 0, 0, 0, 0] }, 0, { eTab 1 6 1 10 1 with data := [3, 16, 0, 0, 0, 0, 0, 0] }, by decide +kernel⟩,
    ⟨withE sR (eData (eTab 1 6 2 10 1) 8), 0, eData (eTab 1 6 2 10 1) 8, [], by decide +kernel⟩,
    ⟨withE sR eImg, 0, eImg, img, by decide +kernel⟩,
    ⟨withE sR (eRaw 3 2 (2 * 2 ^ 128)), 0, eRaw 3 2 (2 * 2 ^ 128), [], [], by decide +kernel⟩,
    ⟨{ (sTask { st := .running, active := img, exch := some { imageId := 0, pair := 0, sub := 0, at_ := 0 } }) with time := { tb1 := { ns := 100000 } } }, 2, { imageId := 0, pair := 0, sub := 0, at_ := 0 }, by decide +kernel⟩,
    ⟨{ (sTask { st := .running, inactive := img, exch := some { imageId := 7, pair := 0, sub := 0, at_ := 0 } }) with time := { tb1 := { ns := 100000 } } }, 2, { imageId := 7, pair := 0, sub := 0, at_ := 0 }, by decide +kernel⟩,
    ⟨sTask { st := .running, inactive := img, exch := some { imageId := 7, pair := 0, sub := 0, at_ := 0 } }, 2, { imageId := 7, pair := 0, sub := 0, at_ := 0 }, by decide +kernel⟩⟩

theorem witness_RegisterWritesUnderLocks :
    (∃ (s : State) (w : Word), (s.hostUp = true)) ∧
    (∃ (s : State) (o : BitVec 16) (w : Word), (s.hostUp = true) ∧ (ownRow o.toNat = false) ∧ (o.toNat % 4 = 0) ∧ (absentReg s.pw.variantL o.toNat = false) ∧ (ringOf o.toNat = none) ∧ (s.armedTpo o.toNat = false)) ∧
    (∃ (s : State) (o : BitVec 16) (w : Word), (s.hostUp = true) ∧ (ownRow o.toNat = false) ∧ (o.toNat % 4 = 0) ∧ (absentReg s.pw.variantL o.toNat = false) ∧ (ringOf o.toNat = none) ∧ (s.armedTpo o.toNat = false) ∧ (s.pw.cfgDone = true) ∧ (tbit s.pw.lock (blockOf o.toNat) = true) ∧ ((w ^^^ s.reg o.toNat) &&& regRwl o.toNat ≠ 0) ∧ (o.toNat ≠ 0x0018)) :=
  ⟨⟨sR, 5, by decide +kernel⟩,
    ⟨sR, 0x2000, 5, by decide +kernel⟩,
    ⟨{ sR with pw := { sR.pw with cfgDone := true, lock := 0xFFFF } }, 0x7008, 0x02020202, by decide +kernel⟩⟩

theorem witness_TheBarrier :
    (∃ (s : State), (s.pw.logic = .run) ∧ (s.pw.variantL = false)) ∧
    (∃ (s : State) (m : Time) (r : List DownItem), (s.fio.down = .timeMark m :: r) ∧ (s.pw.fieldUp = true)) ∧
    (∃ (s : State) (m : Time) (r : List DownItem), (s.fio.down = .timeMark m :: r) ∧ (s.pw.fieldUp = true) ∧ (s.pw.missedMarks < 19)) ∧
    (∃ (s : State) (m : Time) (r : List DownItem), (s.fio.down = .timeMark m :: r) ∧ (s.pw.fieldUp = true) ∧ (s.pw.missedMarks = 19) ∧ (s.pw.logicAbsent = false)) ∧
    (∃ (s : State) (d : Nat) (v : Int) (x : Time) (r : List DownItem), (s.fio.down = .dac d v x :: r) ∧ (s.pw.fieldUp = true) ∧ (sdiff x s.time.shadow.ns < 0)) ∧
    (∃ (s : State) (d : Nat) (v : Int) (x : Time) (r : List DownItem), (s.fio.down = .dac d v x :: r) ∧ (s.pw.fieldUp = true) ∧ (0 ≤ sdiff x s.time.shadow.ns)) ∧
    (∃ (s : State) (r : List DownItem), (s.fio.down = .ejectNotice :: r) ∧ (s.pw.fieldUp = true)) ∧
    (∃ (s : State) (i : Nat) (v : Bool) (x : Time) (r : List UpItem), (s.fio.up = .diChange i v x :: r) ∧ (s.pw.fieldUp = true) ∧ (s.pw.variantL = false) ∧ (s.pw.logic = .run)) ∧
    (∃ (s : State), (s.pw.fieldUp = true) ∧ (s.pw.variantL = false)) ∧
    (∃ (s : State), (s.pw.fieldUp = true) ∧ (s.pw.logicAbsent = false) ∧ (s.cnv.handover = none)) ∧
    (∃ (s : State), (s.pw.fieldUp = true)) ∧
    (∃ (s : State) (i : Fin 96), (s.pw.fieldUp = true) ∧ (∀ j : Fin 96, j ≠ i → s.outWritten j.val = false) ∧ (s.outWritten i.val = true) ∧ (s.droneCommands (holdOutput i.val) = false) ∧ ((s.pw.logicAbsent && s.drn.names (holdOutput i.val) && !s.twn.fieldMember) = false) ∧ ((tget {} s.fio.hold i.val : HoldRt).skip = false) ∧ ((tget {} s.fio.hold i.val : HoldRt).atSafe = false) ∧ (s.cycleView (holdFeed (tget holdReset s.fio.holdEff i.val)) = .missing) ∧ (holdPolicy (tget holdReset s.fio.holdEff i.val) = false) ∧ (satInc 0xFFFF (tget {} s.fio.hold i.val : HoldRt).miss < holdN (tget holdReset s.fio.holdEff i.val))) ∧
    (∃ (s : State) (i : Fin 96), (s.pw.fieldUp = true) ∧ (∀ j : Fin 96, j ≠ i → s.outWritten j.val = false) ∧ (s.outWritten i.val = true) ∧ (s.droneCommands (holdOutput i.val) = false) ∧ ((s.pw.logicAbsent && s.drn.names (holdOutput i.val) && !s.twn.fieldMember) = false) ∧ ((tget {} s.fio.hold i.val : HoldRt).skip = false) ∧ ((tget {} s.fio.hold i.val : HoldRt).atSafe = false) ∧ (s.cycleView (holdFeed (tget holdReset s.fio.holdEff i.val)) = .missing) ∧ (holdPolicy (tget holdReset s.fio.holdEff i.val) = true ∨ holdN (tget holdReset s.fio.holdEff i.val) ≤ satInc 0xFFFF (tget {} s.fio.hold i.val : HoldRt).miss)) ∧
    (∃ (s : State) (i : Fin 64) (x : Time), ((tget {} s.fio.di i.val : DiRt).since = some x) ∧ (max 1000 (Int.ofNat (fld (s.diCfg i.val) 15 2) * 1000) ≤ sdiff s.time.shadow.ns x)) :=
  ⟨⟨sR, by decide +kernel⟩,
    ⟨{ sF with fio := { down := [.timeMark 7] } }, 7, [], by decide +kernel⟩,
    ⟨{ sF with pw := { sF.pw with missedMarks := 3 }, fio := { down := [.timeMark 7] } }, 7, [], by decide +kernel⟩,
    ⟨{ sF with pw := { sF.pw with missedMarks := 19, logicAbsent := false }, fio := { down := [.timeMark 7] } }, 7, [], by decide +kernel⟩,
    ⟨{ sF with fio := { down := [.dac 3 5 7] }, time := { shadow := { ns := 1000 } } }, 3, 5, 7, [], by decide +kernel⟩,
    ⟨{ sF with fio := { down := [.dac 3 5 7] } }, 3, 5, 7, [], by decide +kernel⟩,
    ⟨{ sF with fio := { down := [.ejectNotice] } }, [], by decide +kernel⟩,
    ⟨{ sF with fio := { up := [.diChange 3 true 7] } }, 3, true, 7, [], by decide +kernel⟩,
    ⟨{ sF with fio := { up := [.diChange 3 true 7] } }, by decide +kernel⟩,
    ⟨{ sF with pw := { sF.pw with logicAbsent := false } }, by decide +kernel⟩,
    ⟨{ sF with fio := { ejected := true } }, by decide +kernel⟩,
    ⟨{ sF with pw := { sF.pw with logicAbsent := true }, fio := { hs := [(3, { written := true })], holdEff := [(3, 100 * 2 ^ 2)] } }, 3, by decide +kernel⟩,
    ⟨{ sF with pw := { sF.pw with logicAbsent := true }, fio := { hs := [(3, { written := true })], holdEff := [(3, 3)] } }, 3, by decide +kernel⟩,
    ⟨{ sF with fio := { di := [(3, { raw := true, since := some 7 })] }, time := { shadow := { ns := 9000 } } }, 3, 7, by decide +kernel⟩⟩

theorem witness_WaggleRoles :
    (∃ (s : State) (w : Word), (s.hostUp = true) ∧ (tbit w 31 = false) ∧ (s.wag.link ≠ .off)) ∧
    (∃ (s : State) (w : Word), (s.hostUp = true) ∧ (tbit w 31 = true) ∧ (s.wag.link = .stopped) ∧ (s.linkRuns = true) ∧ ((s.writeBits 0xA000 w).role = 3)) ∧
    (∃ (s : State), (s.wag.link = .listen) ∧ (s.linkRuns = true) ∧ (s.wag.hasMode (s.rfld 0xA000 30 28) = false)) ∧
    (∃ (s : State), (s.wag.link = .listen) ∧ (s.linkRuns = true) ∧ (s.wag.hasMode (s.rfld 0xA000 30 28) = true) ∧ (s.wag.modeFault (s.rfld 0xA000 30 28) s.guardCfg = none) ∧ (s.station < 4095) ∧ (s.segEn = true)) ∧
    (∃ (s : State), (s.wag.link ≠ .listen)) ∧
    (∃ (s : State), (s.wag.link = .backoff) ∧ (s.linkRuns = true) ∧ (s.wag.hasMode (s.rfld 0xA000 30 28) = true) ∧ (s.wag.modeFault (s.rfld 0xA000 30 28) s.guardCfg = none) ∧ (s.station < 4095) ∧ (s.segEn = true)) ∧
    (∃ (s : State), (s.wag.link = .follow)) ∧
    (∃ (s : State), (s.wag.link = .standby) ∧ (s.wag.standbyWasLocked = true)) ∧
    (∃ (s : State), (s.wag.link = .follow) ∧ (s.wag.viewed = [])) ∧
    (∃ (s : State), (s.wag.link = .hive) ∧ (s.wag.viewed = []) ∧ (s.wag.pend = false) ∧ (s.wag.modeReq = none)) ∧
    (∃ (s : State) (r : RefPayload) (k : Nat), (s.wag.lastRef = some r) ∧ (s.wag.activePort = some k) ∧ (s.wag.link = .follow) ∧ (s.hears = true) ∧ (s.roleActs = true) ∧ (s.station < 4095) ∧ (s.wag.refThisCycle = true) ∧ (s.wag.withdrawn = false) ∧ (s.wag.headWdrn = false) ∧ (s.wag.grdClosed = false) ∧ (s.wag.grdResync = false) ∧ (s.wag.refHops < 63) ∧ (s.pw.ejectGone = false) ∧ (s.fwdPorts = [k])) ∧
    (∃ (s : State) (q : ModeReq), (s.wag.link = .hive) ∧ (s.wag.pend = true) ∧ (s.wag.modeReq = some q) ∧ (q.announced = true) ∧ (q.decided = false) ∧ (q.listed.all (fun k => q.acked.contains k) = true)) ∧
    (∃ (s : State) (q : ModeReq), (s.wag.link = .hive) ∧ (s.wag.pend = true) ∧ (s.wag.modeReq = some q) ∧ (q.announced = true) ∧ (q.decided = false) ∧ (q.listed.all (fun k => q.acked.contains k) = false)) ∧
    (∃ (s : State) (p : Pair) (e : Entry), (s.takeParam p 1 10 1 = some e) ∧ (s.roleActs = true) ∧ (s.mirrors = false) ∧ (e.value < 8) ∧ (s.isHive = false)) ∧
    (∃ (s : State) (p : Pair) (e : Entry), (s.takeParam p 1 10 1 = some e) ∧ (s.roleActs = true) ∧ (s.mirrors = false) ∧ (e.value < 8) ∧ (s.isHive = true) ∧ (s.wag.modeReq = none) ∧ (e.value ≠ s.wag.mode) ∧ (s.wag.hasMode e.value = true) ∧ (s.wag.modeFault e.value s.wag.guardNs = none)) :=
  ⟨⟨sWag 3 { gSched with link := .follow }, 0, by decide +kernel⟩,
    ⟨sWag 3 { gSched with link := .stopped }, 0x80000000, by decide +kernel⟩,
    ⟨sWag 1 { link := .listen }, by decide +kernel⟩,
    ⟨sWag 1 { gSched with link := .listen }, by decide +kernel⟩,
    ⟨sWag 1 { gSched with link := .follow }, by decide +kernel⟩,
    ⟨sWag 1 { gSched with link := .backoff }, by decide +kernel⟩,
    ⟨sWag 3 { gSched with link := .follow, grdClosed := false }, by decide +kernel⟩,
    ⟨sWag 1 { gSched with link := .standby, standbyWasLocked := true }, by decide +kernel⟩,
    ⟨sWag 3 { gSched with link := .follow, refThisCycle := true }, by decide +kernel⟩,
    ⟨sWag 1 { gSched with link := .hive, grdClosed := false, mlen := 4, bcNs := 100000 }, by decide +kernel⟩,
    ⟨sWag 3 { gSched with link := .follow, grdClosed := false, refThisCycle := true, lastRef := some rRef, activePort := some 0, trunks := [(0, { st := .forwarding })] }, rRef, 0, by decide +kernel⟩,
    ⟨sWag 1 { gSched with link := .hive, pend := true, modeReq := some { mode := 1, pair := 0, sub := 0, announced := true } }, { mode := 1, pair := 0, sub := 0, announced := true }, by decide +kernel⟩,
    ⟨sWag 1 { gSched with link := .hive, pend := true, modeReq := some { mode := 1, pair := 0, sub := 0, announced := true, listed := [4] } }, { mode := 1, pair := 0, sub := 0, announced := true, listed := [4] }, by decide +kernel⟩,
    ⟨withE sR (ePar 1 10 1 3), 0, ePar 1 10 1 3, by decide +kernel⟩,
    ⟨withE (sWag 1 { gSched with link := .hive, mode := 2 }) (ePar 1 10 1 0), 0, ePar 1 10 1 0, by decide +kernel⟩⟩

theorem witness_WaggleReferencesAndClashes :
    (∃ (s : State) (a : RefArrival) (r : RefPayload) (x : Stamp), (s.linkRuns = true) ∧ (a.hdr.crcOk = true) ∧ (s.frameFits a.hdr 1 = true) ∧ (s.wag.link = .follow) ∧ (s.takesRef a.port = true)) ∧
    (∃ (s : State) (a : RefArrival) (r : RefPayload) (x : Stamp), (s.linkRuns = true) ∧ (a.hdr.crcOk = true) ∧ (s.frameFits a.hdr 1 = true) ∧ (s.wag.link = .listen) ∧ (s.listensOn a.port = true) ∧ (r.rank.toNat = s.rank)) ∧
    (∃ (s : State) (a : RefArrival) (r : RefPayload) (x : Stamp), (s.linkRuns = true) ∧ (a.hdr.crcOk = true) ∧ (s.frameFits a.hdr 1 = true) ∧ (s.wag.link = .listen) ∧ (s.listensOn a.port = true) ∧ (r.rank.toNat < s.rank)) ∧
    (∃ (s : State) (a : RefArrival) (r : RefPayload) (x : Stamp), (s.linkRuns = true) ∧ (a.hdr.crcOk = true) ∧ (s.frameFits a.hdr 1 = true) ∧ (s.wag.link = .hive)) ∧
    (∃ (s : State) (a : RefArrival) (r : RefPayload) (x : Stamp) (echo : Bool), (s.linkRuns = true) ∧ (s.frameFits a.hdr 1 = false)) ∧
    (∃ (s : State) (i : BitVec 24), (fld i 23 12 = 0xFFF) ∧ (s.wag.link = .hive)) ∧
    (∃ (s : State) (i : BitVec 24), (fld i 23 12 ≠ 0xFFF) ∧ (s.wag.lastTx = none) ∧ (tget 0 s.wag.clashes i.toNat + 1 < 3)) ∧
    (∃ (s : State) (i : BitVec 24), (fld i 23 12 ≠ 0xFFF) ∧ (s.wag.lastTx = none) ∧ (3 ≤ tget 0 s.wag.clashes i.toNat + 1)) ∧
    (∃ (s : State), (s.wag.withdrawn = true) ∧ (s.wag.otherHead = none)) ∧
    (∃ (s : State) (k n : Nat), (s.wag.withdrawn = true) ∧ (s.wag.otherHead = some (k, n))) ∧
    (∃ (s : State), (s.hostUp = true) ∧ (s.wag.headWdrn = true)) ∧
    (∃ (s : State), (s.hostUp = true)) ∧
    (∃ (s : State) (w : Fin 256), (s.grdEnables w.val = true)) ∧
    (∃ (s : State) (w : Fin 256), (s.grdEnables w.val = false)) :=
  ⟨⟨sWag 3 { gSched with link := .follow }, refOf 0 0, rRef, 9000, by decide +kernel⟩,
    ⟨sWag 1 { gSched with link := .listen }, refOf 0 0, { rRef with rank := 0 }, 9000, by decide +kernel⟩,
    ⟨{ sWag 1 { gSched with link := .listen } with regs := regSet (sWag 1 {}).regs 0xA004 0x109 }, refOf 0 0, rRef, 9000, by decide +kernel⟩,
    ⟨sWag 1 { gSched with link := .hive, collRun := 2 }, refOf 5 0, rRef, 9000, by decide +kernel⟩,
    ⟨sWag 3 { gSched with link := .follow }, { port := .segment, hdr := hdrOf 2 0 40 }, rRef, 9000, false, by decide +kernel⟩,
    ⟨sWag 1 { gSched with link := .hive }, 0xFFF005, by decide +kernel⟩,
    ⟨sWag 3 gSched, 0x100005, by decide +kernel⟩,
    ⟨sWag 3 { gSched with clashes := [(0x100005, 2)] }, 0x100005, by decide +kernel⟩,
    ⟨sWag 3 { gSched with withdrawn := true }, by decide +kernel⟩,
    ⟨sWag 3 { gSched with withdrawn := true, otherHead := some (7, 2) }, 7, 2, by decide +kernel⟩,
    ⟨sWag 3 { gSched with headWdrn := true }, by decide +kernel⟩,
    ⟨sWag 3 { gSched with clashes := [(3, 2)] }, by decide +kernel⟩,
    ⟨{ sWag 3 { gOpen with link := .follow, grdClosed := false, grdSched := gOpen.sched } with time := { tb2 := { ns := 40000 } } }, 1, by decide +kernel⟩,
    ⟨sWag 3 gSched, 4, by decide +kernel⟩⟩

theorem witness_WaggleTrunks :
    (∃ (s : State) (p : TrunkPort), ((s.wag.trunk p.port.val).st = .down)) ∧
    (∃ (s : State) (p : TrunkPort), ((s.wag.trunk p.port.val).st ≠ .down)) ∧
    (∃ (s : State) (k : Fin 2) (x : Stamp), ((s.wag.trunk k.val).st ≠ .down) ∧ (s.trunkUp k.val = true) ∧ (s.wag.link ≠ .stopped)) ∧
    (∃ (s : State) (p : TrunkPort) (q : BitVec 8) (a : Bool) (x : Stamp), ((s.wag.trunk p.port.val).st ≠ .down) ∧ (s.trunkRole p.port.val = 2) ∧ (s.wag.link ≠ .stopped)) ∧
    (∃ (s : State) (p : TrunkPort) (q : BitVec 8) (x y : Stamp), ((s.wag.trunk p.port.val).st ≠ .down) ∧ (s.trunkUp p.port.val = true) ∧ ((s.wag.trunk p.port.val).dqSeq = q)) ∧
    (∃ (s : State) (p : TrunkPort) (q : BitVec 8) (x y : Stamp), ((s.wag.trunk p.port.val).dqSeq ≠ q)) ∧
    (∃ (s : State), (s.wag.headWdrn = false) ∧ (s.wag.activePort = some 0) ∧ (s.trunkRole 0 = 1) ∧ (s.trunkRole 1 = 3) ∧ ((s.wag.trunk 1).st = .measured) ∧ ((s.wag.trunk 1).delay ≤ 600 * 256)) ∧
    (∃ (s : State) (f : CrossFrame), (s.linkRuns = true) ∧ (s.silent = false) ∧ (s.wag.grdResync = false) ∧ ((s.wag.trunk 0).st = .forwarding) ∧ (s.fwdPorts = [0, 1]) ∧ (f.frame.win = 0 ∨ wType (s.wag.window f.frame.win) ≠ 3) ∧ (f.frame.hops < 63) ∧ (f.crcOk = true) ∧ (f.frame.kind ≠ 1)) ∧
    (∃ (s : State) (f : CrossFrame), (s.linkRuns = true) ∧ (s.silent = false) ∧ (s.wag.grdResync = false) ∧ (s.fwdPorts = [0]) ∧ (f.frame.win = 0 ∨ wType (s.wag.window f.frame.win) ≠ 3) ∧ (f.frame.hops < 63) ∧ (f.crcOk = false)) :=
  ⟨⟨sWag 3 gSched, ⟨1, 0⟩, by decide +kernel⟩,
    ⟨sWag 3 { gSched with trunks := [(1, { st := .aligned })] }, ⟨1, 2⟩, by decide +kernel⟩,
    ⟨{ sWag 3 { gSched with trunks := [(1, { st := .aligned })] } with regs := regSet [] 0xA420 1 }, 1, 500, by decide +kernel⟩,
    ⟨{ sWag 3 { gSched with trunks := [(1, { st := .aligned })] } with regs := regSet [] 0xA420 2 }, ⟨1, 0⟩, 3, true, 500, by decide +kernel⟩,
    ⟨{ sWag 3 { gSched with trunks := [(1, { st := .aligned, dqSeq := 3, t1 := 100 })] } with regs := regSet [] 0xA420 1 }, ⟨1, 0⟩, 3, 500, 900, by decide +kernel⟩,
    ⟨{ sWag 3 { gSched with trunks := [(1, { st := .aligned, dqSeq := 3, t1 := 100 })] } with regs := regSet [] 0xA420 1 }, ⟨1, 1⟩, 4, 500, 900, by decide +kernel⟩,
    ⟨{ sWag 3 { gSched with activePort := some 0, trunks := [(0, { st := .forwarding, active := true }), (1, { st := .measured })] } with regs := regSet (regSet [] 0xA410 1) 0xA420 3 }, by decide +kernel⟩,
    ⟨sWag 3 { gSched with link := .follow, grdClosed := false, trunks := [(0, { st := .forwarding }), (1, { st := .forwarding })] }, fCross true, by decide +kernel⟩,
    ⟨sWag 3 { gSched with link := .follow, trunks := [(0, { st := .forwarding })] }, fCross false, by decide +kernel⟩⟩

theorem witness_ConverterTables :
    (∃ (s : State) (p : Pair) (e : Entry), (s.takeLoad p 7 1 = some e) ∧ (s.roleActs = true) ∧ (s.mirrors = false) ∧ (chanOffence (tload (fun _ => 0) s.cnv.chan (withIndex e.first e.words64)) s.cnv.lists = none)) ∧
    (∃ (s : State) (p : Pair) (e : Entry) (c : Nat), (s.takeLoad p 7 1 = some e) ∧ (s.roleActs = true) ∧ (s.mirrors = false) ∧ (chanOffence (tload (fun _ => 0) s.cnv.chan (withIndex e.first e.words64)) s.cnv.lists = some c)) ∧
    (∃ (s : State) (p : Pair) (e : Entry) (s' : State), (s.takeLoadIn p 7 16 20 = some e) ∧ (s.roleActs = true) ∧ (s.mirrors = false) ∧ (s.loadList (e.tblNum - 0x10) (withIndex e.first e.words64) = .ok s')) ∧
    (∃ (s : State) (p : Pair) (e : Entry) (c : Byte) (w : BitVec 64), (s.takeLoadIn p 7 16 20 = some e) ∧ (s.roleActs = true) ∧ (s.mirrors = false) ∧ (s.loadList (e.tblNum - 0x10) (withIndex e.first e.words64) = .refused c w)) ∧
    (∃ (s : State) (p : Pair) (e : Entry), (s.takeLoad p 7 2 = some e) ∧ (s.roleActs = true) ∧ (s.mirrors = false) ∧ ((withIndex e.first e.words64).findSome? (fun x => (dacEntryJudge s x).map (fun c => (c, x.1))) = none)) ∧
    (∃ (s : State) (p : Pair) (e : Entry) (c : Byte) (d : Nat), (s.takeLoad p 7 2 = some e) ∧ (s.roleActs = true) ∧ (s.mirrors = false) ∧ ((withIndex e.first e.words64).findSome? (fun x => (dacEntryJudge s x).map (fun c => (c, x.1))) = some (c, d))) ∧
    (∃ (s : State) (p : Pair) (e : Entry), (s.takeLoad p 7 3 = some e) ∧ (s.roleActs = true) ∧ (s.mirrors = false) ∧ (firstNoncanon 32 [(0, true), (1, false)] e.data = none) ∧ ((withIndex e.first e.words256).find? (fun x => !coefOk (nominalF (x.1 % 5 + 1)) x.2) = none)) ∧
    (∃ (s : State) (p : Pair) (e : Entry) (x : Nat × BitVec 256), (s.takeLoad p 7 3 = some e) ∧ (s.roleActs = true) ∧ (s.mirrors = false) ∧ (firstNoncanon 32 [(0, true), (1, false)] e.data = none) ∧ ((withIndex e.first e.words256).find? (fun x => !coefOk (nominalF (x.1 % 5 + 1)) x.2) = some x)) ∧
    (∃ (s : State) (p : Pair) (e : Entry), (s.takeLoad p 7 4 = some e) ∧ (s.roleActs = true) ∧ (s.mirrors = false) ∧ (firstNoncanon 32 [(0, true), (1, false)] e.data = none) ∧ ((withIndex e.first e.words256).find? (fun x => !coefOk (nominalDacF (x.1 % 2 + 1)) x.2) = none)) ∧
    (∃ (s : State) (p : Pair) (e : Entry), (s.takeLoad p 7 5 = some e) ∧ (s.roleActs = true) ∧ (s.mirrors = false)) :=
  ⟨⟨withE sR { eTab 1 7 1 10 1 with data := leBytes 8 1 }, 0, { eTab 1 7 1 10 1 with data := leBytes 8 1 }, by decide +kernel⟩,
    ⟨withE sR { eTab 1 7 1 10 1 with data := leBytes 8 7 }, 0, { eTab 1 7 1 10 1 with data := leBytes 8 7 }, 10, by decide +kernel⟩,
    ⟨withE sR { eTab 1 7 18 0 1 with data := leBytes 8 1 }, 0, { eTab 1 7 18 0 1 with data := leBytes 8 1 }, { withE sR { eTab 1 7 18 0 1 with data := leBytes 8 1 } with cnv := { lists := [(256, 1)] } }, by decide +kernel⟩,
    ⟨withE sR { eTab 1 7 18 0 1 with data := leBytes 8 0x80000000 }, 0, { eTab 1 7 18 0 1 with data := leBytes 8 0x80000000 }, 0x40, 2, by decide +kernel⟩,
    ⟨withE sR { eTab 1 7 2 10 1 with data := leBytes 8 1 }, 0, { eTab 1 7 2 10 1 with data := leBytes 8 1 }, by decide +kernel⟩,
    ⟨withE sR { eTab 1 7 2 10 1 with data := leBytes 8 3 }, 0, { eTab 1 7 2 10 1 with data := leBytes 8 3 }, 0x40, 10, by decide +kernel⟩,
    ⟨withE sR { eTab 1 7 3 10 1 with data := leBytes 32 (2 ^ 96) }, 0, { eTab 1 7 3 10 1 with data := leBytes 32 (2 ^ 96) }, by decide +kernel⟩,
    ⟨withE sR { eTab 1 7 3 10 1 with data := leBytes 32 0 }, 0, { eTab 1 7 3 10 1 with data := leBytes 32 0 }, (10, 0), by decide +kernel⟩,
    ⟨withE sR { eTab 1 7 4 10 1 with data := leBytes 32 (2 ^ 96) }, 0, { eTab 1 7 4 10 1 with data := leBytes 32 (2 ^ 96) }, by decide +kernel⟩,
    ⟨withE sR { eTab 1 7 5 10 1 with data := leBytes 16 9 }, 0, { eTab 1 7 5 10 1 with data := leBytes 16 9 }, by decide +kernel⟩⟩

theorem witness_ConversionsAndRotation :
    (∃ (s : State) (k : Fin 5) (n : Fin 20) (c : BitVec 20) (x f : Bool), (s.converts k.val = true) ∧ (s.pw.logicAbsent = false) ∧ (s.cnv.listsRun = false)) ∧
    (∃ (s : State) (k : Fin 5) (n : Fin 20) (c : BitVec 20) (x f : Bool) (l i j : Nat), (s.converts k.val = true) ∧ (s.pw.logicAbsent = false) ∧ (s.cnv.listOf k.val = some l) ∧ (s.cnv.role k.val ≠ 5) ∧ (s.cnv.listsRun = true) ∧ (l ≠ 4) ∧ (leEn (listEntry s.cnv.listsEff l 0) = true) ∧ (s.urgentSlot l s.cmb.n ≠ some n.val) ∧ ((tget [] s.cnv.slip l).find? (fun x => decide (x.1 = n.val)) = none) ∧ ((s.slotPlan l s.cmb.n).find? (fun x => decide (x.1 = n.val)) = some (n.val, i, j)) ∧ (s.cnv.handover = none) ∧ ((tget {} s.cnv.acc (128 * l + i) : AccRt).n + 1 < leN (listEntry s.cnv.listsEff l i))) ∧
    (∃ (s : State) (k : Fin 5) (n : Fin 20) (c : BitVec 20) (x f : Bool) (l i j : Nat), (s.converts k.val = true) ∧ (s.pw.logicAbsent = false) ∧ (s.cnv.listOf k.val = some l) ∧ (s.cnv.role k.val ≠ 5) ∧ (s.cnv.listsRun = true) ∧ (l ≠ 4) ∧ (leEn (listEntry s.cnv.listsEff l 0) = true) ∧ (s.urgentSlot l s.cmb.n ≠ some n.val) ∧ ((tget [] s.cnv.slip l).find? (fun x => decide (x.1 = n.val)) = none) ∧ ((s.slotPlan l s.cmb.n).find? (fun x => decide (x.1 = n.val)) = some (n.val, i, j)) ∧ (s.cnv.handover = none) ∧ ((tget {} s.cnv.acc (128 * l + i) : AccRt).n + 1 = leN (listEntry s.cnv.listsEff l i)) ∧ ((tget {} s.cnv.acc (128 * l + i) : AccRt).gap = false)) ∧
    (∃ (s : State) (k : Nat) (f : Bool), (((f :: tget [] s.cnv.checks k).take 256).countP (fun b => b) < 16)) ∧
    (∃ (s : State) (k : Nat) (f : Bool), (k < 5) ∧ (s.cnv.roles.length = 5) ∧ (s.cnv.handover = none) ∧ (16 ≤ ((f :: tget [] s.cnv.checks k).take 256).countP (fun b => b))) ∧
    (∃ (s : State) (p : Pair) (e : Entry), (s.takeParam p 1 7 1 = some e) ∧ (s.roleActs = true) ∧ (s.mirrors = false) ∧ (e.value < 2048) ∧ (e.value / 256 % 8 ≤ 4) ∧ (reachable (e.value / 256 % 8) (e.value % 256) = true) ∧ (s.chanOff (e.value % 256) = false) ∧ (s.cnv.urgent = [])) ∧
    (∃ (s : State) (p : Pair) (e : Entry) (x : Nat × UrgentReq), (s.takeParam p 1 7 1 = some e) ∧ (s.roleActs = true) ∧ (s.mirrors = false) ∧ (e.value < 2048) ∧ (e.value / 256 % 8 ≤ 4) ∧ (reachable (e.value / 256 % 8) (e.value % 256) = true) ∧ (s.chanOff (e.value % 256) = false) ∧ (s.cnv.urgent.find? (fun x => decide (x.1 = e.value / 256 % 8)) = some x)) ∧
    (∃ (s : State) (p : Pair) (e : Entry) (k : Nat), (s.takeParam p 1 7 2 = some e) ∧ (s.roleActs = true) ∧ (s.mirrors = false) ∧ (e.value < 4) ∧ (s.cnv.holder 4 = some k) ∧ (s.cnv.handover = none)) ∧
    (∃ (s : State) (p : Pair) (e : Entry), (s.takeParam p 1 7 2 = some e) ∧ (s.roleActs = true) ∧ (s.mirrors = false) ∧ (e.value < 4) ∧ (s.cnv.holder 4 = none ∨ s.cnv.handover.isSome = true)) ∧
    (∃ (s : State) (k : Nat), (s.rbit 0x7000 1 = true) ∧ (s.cnv.holder 4 = some k) ∧ (s.cnv.handover = none)) ∧
    (∃ (s : State), (s.rbit 0x7000 1 = false ∨ s.cnv.holder 4 = none ∨ s.cnv.handover.isSome = true)) ∧
    (∃ (s : State) (k : Fin 5) (c : SelfCalCodes), (s.cnv.bootCal.getD k.val false = true)) ∧
    (∃ (s : State) (k : Fin 5) (c : SelfCalCodes), (s.cnv.bootCal.getD k.val false = false) ∧ (s.cnv.role k.val = 6) ∧ (s.cnv.handover = none)) ∧
    (∃ (s : State) (k : Fin 5), (s.hostUp = true) ∧ (s.cnv.role k.val = 7)) ∧
    (∃ (s : State) (p : Pair) (e : Entry) (k : Nat), (s.takeParam p 1 7 3 = some e) ∧ (s.roleActs = true) ∧ (s.mirrors = false) ∧ (e.value < 2 ^ 24) ∧ (e.value % 256 < 128) ∧ (e.value / 256 % 65536 ≠ 0) ∧ (s.chanOff (e.value % 256) = false) ∧ (s.cnv.holder 4 = some k) ∧ (s.cnv.cal = none)) ∧
    (∃ (s : State) (j : CalJob) (c : BitVec 20), (s.cnv.cal = some j) ∧ (j.n = 1)) ∧
    (∃ (s : State) (p : Pair) (e : Entry), (s.takeParam p 2 7 4 = some e)) ∧
    (∃ (s : State) (p : Pair) (e : Entry), (s.takeParam p 2 7 5 = some e)) ∧
    (∃ (s : State) (p : Pair) (e : Entry), (s.takeOp p.val 2 2 = some e) ∧ (e.parBlock = 7) ∧ (0x100 ≤ e.parIndex) ∧ (e.parIndex ≤ 0x1AC)) :=
  ⟨⟨{ sF with cnv := { bootCal := [] }, pw := { sF.pw with logicAbsent := false } }, 1, 3, 5, false, true, by decide +kernel⟩,
    ⟨{ sF with cnv := { bootCal := [], listsRun := true, listsEff := [(256, 1), (257, 1 + 2 * 4 + 5 * 2 ^ 10 + 2 ^ 21 + 2 ^ 18)] }, pw := { sF.pw with logicAbsent := false } }, 2, 5, 77, false, false, 2, 1, 0, by decide +kernel⟩,
    ⟨{ sF with cnv := { bootCal := [], listsRun := true, listsEff := [(256, 1), (257, 1 + 2 * 4 + 5 * 2 ^ 10 + 2 ^ 21)] }, pw := { sF.pw with logicAbsent := false } }, 2, 5, 77, false, false, 2, 1, 0, by decide +kernel⟩,
    ⟨sF, 1, true, by decide +kernel⟩,
    ⟨{ sF with cnv := { checks := [(1, List.replicate 15 true)] } }, 1, true, by decide +kernel⟩,
    ⟨withE sR (ePar 1 7 1 (130 + 256)), 0, ePar 1 7 1 (130 + 256), by decide +kernel⟩,
    ⟨withE { sR with cnv := { urgent := [(1, { chan := 130 })] } } (ePar 1 7 1 (130 + 256)), 0, ePar 1 7 1 (130 + 256), (1, { chan := 130 }), by decide +kernel⟩,
    ⟨withE sR (ePar 1 7 2 2), 0, ePar 1 7 2 2, 4, by decide +kernel⟩,
    ⟨withE { sR with cnv := { roles := [0, 1, 2, 3, 7] } } (ePar 1 7 2 2), 0, ePar 1 7 2 2, by decide +kernel⟩,
    ⟨{ sR with regs := regSet [] 0x7000 2 }, 4, by decide +kernel⟩,
    ⟨{ sR with regs := regSet [] 0x7000 2, cnv := { roles := [0, 1, 2, 3, 7] } }, by decide +kernel⟩,
    ⟨sF, 2, ⟨[0], [0x7FFFF], [0x80001]⟩, by decide +kernel⟩,
    ⟨{ sF with cnv := { roles := [6, 1, 2, 3, 4], bootCal := [] } }, 0, ⟨[0], [0x7FFFF], [0x80001]⟩, by decide +kernel⟩,
    ⟨{ sR with cnv := { roles := [7, 1, 2, 3, 4] } }, 0, by decide +kernel⟩,
    ⟨withE { sR with cnv := { chan := [(3, 1)] } } (ePar 1 7 3 (3 + 256 * 10)), 0, ePar 1 7 3 (3 + 256 * 10), 4, by decide +kernel⟩,
    ⟨{ sR with cnv := { cal := some { pair := 0, sub := 0, chan := 3, n := 1, conv := 4 } } }, { pair := 0, sub := 0, chan := 3, n := 1, conv := 4 }, 5, by decide +kernel⟩,
    ⟨withE sR (ePar 2 7 4 0), 0, ePar 2 7 4 0, by decide +kernel⟩,
    ⟨withE sR (ePar 2 7 5 0), 0, ePar 2 7 5 0, by decide +kernel⟩,
    ⟨withE sR (ePar 2 7 0x103 0), 0, ePar 2 7 0x103 0, by decide +kernel⟩⟩

theorem witness_FieldTables :
    (∃ (s : State) (p : Pair) (e : Entry) (cl : List Claim), (s.takeLoad p 8 1 = some e) ∧ (s.roleActs = true) ∧ (s.mirrors = false) ∧ ((withIndex e.first e.words64).any (fun x => !hsEntryOk x.2 || s.droneModeClash x.1 x.2) = false) ∧ (claimEach dutyTimer (((withIndex e.first e.words64).filter (fun x => decide (hsMode x.2 ≠ 2))) ++ ((withIndex e.first e.words64).filter (fun x => decide (hsMode x.2 = 2)))) s.fio.claims = .ok cl)) ∧
    (∃ (s : State) (p : Pair) (e : Entry), (s.takeLoad p 8 1 = some e) ∧ (s.roleActs = true) ∧ (s.mirrors = false) ∧ ((withIndex e.first e.words64).any (fun x => !hsEntryOk x.2) = true)) ∧
    (∃ (s : State) (p : Pair) (e : Entry), (s.takeLoad p 8 2 = some e) ∧ (s.roleActs = true) ∧ (s.mirrors = false) ∧ ((withIndex e.first e.words64).any (fun x => !diEntryOk x.2) = false)) ∧
    (∃ (s : State) (p : Pair) (e : Entry), (s.takeLoad p 8 2 = some e) ∧ (s.roleActs = true) ∧ (s.mirrors = false) ∧ ((withIndex e.first e.words64).any (fun x => !diEntryOk x.2) = true)) ∧
    (∃ (s : State) (p : Pair) (e : Entry) (cl : List Claim), (s.takeLoad p 8 3 = some e) ∧ (s.roleActs = true) ∧ (s.mirrors = false) ∧ ((withIndex e.first e.words64).any (fun x => !encEntryOk x.2) = false) ∧ (claimEach encClaim (withIndex e.first e.words64) s.fio.claims = .ok cl)) ∧
    (∃ (s : State) (p : Pair) (e : Entry), (s.takeLoad p 8 3 = some e) ∧ (s.roleActs = true) ∧ (s.mirrors = false) ∧ ((withIndex e.first e.words64).any (fun x => !encEntryOk x.2) = true)) ∧
    (∃ (s : State) (p : Pair) (e : Entry) (c : Byte) (w : BitVec 64), (s.takeLoad p 8 3 = some e) ∧ (s.roleActs = true) ∧ (s.mirrors = false) ∧ ((withIndex e.first e.words64).any (fun x => !encEntryOk x.2) = false) ∧ (claimEach encClaim (withIndex e.first e.words64) s.fio.claims = .refused c w)) ∧
    (∃ (s : State) (p : Pair) (e : Entry), (s.takeLoad p 8 4 = some e) ∧ (s.roleActs = true) ∧ (s.mirrors = false) ∧ ((withIndex e.first e.words64).any (fun x => !pulEntryOk x.2) = false)) ∧
    (∃ (s : State) (p : Pair) (e : Entry), (s.takeLoad p 8 4 = some e) ∧ (s.roleActs = true) ∧ (s.mirrors = false) ∧ ((withIndex e.first e.words64).any (fun x => !pulEntryOk x.2) = true)) ∧
    (∃ (s : State) (p : Pair) (e : Entry), (s.takeLoad p 8 5 = some e) ∧ (s.roleActs = true) ∧ (s.mirrors = false)) ∧
    (∃ (s : State) (p : Pair) (e : Entry), (s.takeLoad p 8 6 = some e) ∧ (s.roleActs = true) ∧ (s.mirrors = false) ∧ ((withIndex e.first e.words64).any (fun x => !holdEntryOk x) = false)) ∧
    (∃ (s : State) (p : Pair) (e : Entry), (s.takeLoad p 8 6 = some e) ∧ (s.roleActs = true) ∧ (s.mirrors = false) ∧ ((withIndex e.first e.words64).any (fun x => !holdEntryOk x) = true)) :=
  ⟨⟨withE sR { eTab 1 8 1 10 1 with data := leBytes 8 1 }, 0, { eTab 1 8 1 10 1 with data := leBytes 8 1 }, [], by decide +kernel⟩,
    ⟨withE sR { eTab 1 8 1 10 1 with data := leBytes 8 3 }, 0, { eTab 1 8 1 10 1 with data := leBytes 8 3 }, by decide +kernel⟩,
    ⟨withE sR { eTab 1 8 2 10 1 with data := leBytes 8 3 }, 0, { eTab 1 8 2 10 1 with data := leBytes 8 3 }, by decide +kernel⟩,
    ⟨withE sR { eTab 1 8 2 10 1 with data := leBytes 8 65536 }, 0, { eTab 1 8 2 10 1 with data := leBytes 8 65536 }, by decide +kernel⟩,
    ⟨withE sR { eTab 1 8 3 10 1 with data := leBytes 8 1 }, 0, { eTab 1 8 3 10 1 with data := leBytes 8 1 }, [{ id := 0x400A, rank := rankGeneral, num := ownFio 74 }], by decide +kernel⟩,
    ⟨withE sR { eTab 1 8 3 10 1 with data := leBytes 8 (2 ^ 40) }, 0, { eTab 1 8 3 10 1 with data := leBytes 8 (2 ^ 40) }, by decide +kernel⟩,
    ⟨withE { sR with fio := { claims := [{ id := 0x400A, rank := rankGeneral, num := 1 }] } } { eTab 1 8 3 10 1 with data := leBytes 8 1 }, 0, { eTab 1 8 3 10 1 with data := leBytes 8 1 }, 0xB0, claimResult { id := 0x400A, rank := rankGeneral, num := 1 }, by decide +kernel⟩,
    ⟨withE sR { eTab 1 8 4 10 1 with data := leBytes 8 0 }, 0, { eTab 1 8 4 10 1 with data := leBytes 8 0 }, by decide +kernel⟩,
    ⟨withE sR { eTab 1 8 4 10 1 with data := leBytes 8 3 }, 0, { eTab 1 8 4 10 1 with data := leBytes 8 3 }, by decide +kernel⟩,
    ⟨withE sR { eTab 1 8 5 10 1 with data := leBytes 16 3 }, 0, { eTab 1 8 5 10 1 with data := leBytes 16 3 }, by decide +kernel⟩,
    ⟨withE sR { eTab 1 8 6 10 1 with data := leBytes 8 6 }, 0, { eTab 1 8 6 10 1 with data := leBytes 8 6 }, by decide +kernel⟩,
    ⟨withE sR { eTab 1 8 6 10 1 with data := leBytes 8 0 }, 0, { eTab 1 8 6 10 1 with data := leBytes 8 0 }, by decide +kernel⟩⟩

theorem witness_FieldOutputs :
    (∃ (s : State) (a : Nat) (hz : Int) (x : Time), (s.fio.due = [.rate a hz x]) ∧ (s.time.shadow.tickOf x ≤ 0) ∧ (s.atSafe (80 + a) = false) ∧ (pulMode (s.pulCfg a) = 1) ∧ (s.gateOpen (0x3000 + a) = true)) ∧
    (∃ (s : State), (s.fio.due = [])) ∧
    (∃ (s : State) (a : Nat) (hz : Int) (x : Time), (s.fio.due = [.rate a hz x]) ∧ (0 < s.time.shadow.tickOf x)) ∧
    (∃ (s : State) (o : Fin 48), (hsMode (s.hsCfg o.val) ≠ 2) ∧ (s.loopOn (0x2000 + o.val) = none)) ∧
    (∃ (s : State) (o : Fin 48), (hsMode (s.hsCfg o.val) = 2)) ∧
    (∃ (s : State) (p : Pair) (e : Entry), (s.takeParam p 1 8 1 = some e) ∧ (s.roleActs = true) ∧ (s.mirrors = false) ∧ (e.value < 48)) ∧
    (∃ (s : State) (p : Pair) (e : Entry), (s.takeParam p 2 8 3 = some e) ∧ (e.value < 48)) ∧
    (∃ (s : State) (o : Fin 48) (x : Nat × BitVec 128), (s.saf.rowFor 2 (0x2000 + o.val) = some x) ∧ ((s.hsRt o.val).counts = true) ∧ ((s.hsRt o.val).cut = false) ∧ ((s.hsRt o.val).onAt + rowNs (rowOp x.2 6 4) ≤ s.time.guardNs)) ∧
    (∃ (s : State) (o : Fin 48), (s.saf.rowFor 2 (0x2000 + o.val) = none)) ∧
    (∃ (s : State) (o : Fin 48), ((s.hsRt o.val).delayed = true) ∧ ((s.hsRt o.val).cmd = true)) ∧
    (∃ (s : State) (o : Fin 48), ((s.hsRt o.val).delayed = false ∨ (s.hsRt o.val).cmd = false)) ∧
    (∃ (s : State) (o : Fin 48), ((s.hsRt o.val).drv = false) ∧ ((s.hsRt o.val).delayed = true) ∧ ((s.hsRt o.val).cmd = true) ∧ (s.hsMayDrive o.val = true) ∧ (s.forbidRow o.val [] = none) ∧ (offminHolds s.saf o.val (s.hsRt o.val) s.time.guardNs = none) ∧ (rateHolds s.saf o.val (s.hsRt o.val) s.time.guardNs = none)) ∧
    (∃ (s : State) (o : Fin 48), ((s.hsRt o.val).own = true) ∧ ((s.hsRt o.val).drv = false)) ∧
    (∃ (s : State) (o : Fin 48), ((s.hsRt o.val).own = false ∨ (s.hsRt o.val).drv = true)) :=
  ⟨⟨{ sF with fio := { pulEff := [(3, 1 + 4 * 1000)], due := [.rate 3 500 7] }, saf := { sF.saf with fgVerified := true } }, 3, 500, 7, by decide +kernel⟩,
    ⟨sF, by decide +kernel⟩,
    ⟨{ sF with fio := { due := [.rate 3 500 700] } }, 3, 500, 700, by decide +kernel⟩,
    ⟨sF, 3, by decide +kernel⟩,
    ⟨{ sF with fio := { hsEff := [(3, 2 + 32 * 1000)], hs := [(3, { drv := true })] } }, 3, by decide +kernel⟩,
    ⟨withE sR (ePar 1 8 1 3), 0, ePar 1 8 1 3, by decide +kernel⟩,
    ⟨withE sR (ePar 2 8 3 3), 0, ePar 2 8 3 3, by decide +kernel⟩,
    ⟨{ sRows [(9, 3 + 2 * 16 + 2 ^ 16 + 0x2003 * 2 ^ 32 + 5 * 2 ^ 48)] with fio := { hs := [(3, { counts := true, drv := true })] }, time := { guardNs := 60000 } }, 3, ((sRows [(9, 3 + 2 * 16 + 2 ^ 16 + 0x2003 * 2 ^ 32 + 5 * 2 ^ 48)]).saf.rowFor 2 0x2003).getD (0, 0), by decide +kernel⟩,
    ⟨sF, 3, by decide +kernel⟩,
    ⟨{ sF with fio := { hs := [(3, { delayed := true, cmd := true })] } }, 3, by decide +kernel⟩,
    ⟨sF, 3, by decide +kernel⟩,
    ⟨{ sF with fio := { hsEff := [(3, 1)], hs := [(3, { delayed := true, cmd := true })] }, saf := { sF.saf with fgVerified := true } }, 3, by decide +kernel⟩,
    ⟨{ sF with fio := { hs := [(3, { own := true, counts := true })] } }, 3, by decide +kernel⟩,
    ⟨sF, 3, by decide +kernel⟩⟩

theorem witness_InputsEncodersAndAxes :
    (∃ (s : State) (i : Fin 64) (v : Bool), ((tget {} s.fio.di i.val : DiRt).acc = v)) ∧
    (∃ (s : State) (i : Fin 64) (v : Bool), ((tget {} s.fio.di i.val : DiRt).acc ≠ v) ∧ ((tget {} s.fio.di i.val : DiRt).since = none)) ∧
    (∃ (s : State) (k : Fin 16) (i : Fin 64) (m : Word), (encCapSrc (s.encCfg k.val) = 1)) ∧
    (∃ (s : State) (k : Fin 16) (i : Fin 64) (m : Word) (x : Time), (encCapSrc (s.encCfg k.val) = 2) ∧ (fld (s.encCfg k.val) 29 24 = i.val) ∧ ((tget {} s.fio.di i.val : DiRt).accAt = some x) ∧ ((s.encRt k.val).capAt ≠ some x)) ∧
    (∃ (s : State) (k : Fin 16) (i : Fin 64) (m : Word), (encCapSrc (s.encCfg k.val) = 2) ∧ (fld (s.encCfg k.val) 29 24 ≠ i.val ∨ (tget {} s.fio.di i.val : DiRt).accAt = (s.encRt k.val).capAt)) ∧
    (∃ (s : State) (k : Fin 16) (x : Word) (y : Time) (r : List UpItem), (s.pw.variantL = false) ∧ (s.pw.fieldUp = true) ∧ (s.pw.logic = .run) ∧ (s.fio.up = .capture k.val x y :: r) ∧ ((s.encRt k.val).queue.length < 8)) ∧
    (∃ (s : State) (k : Fin 16) (x : Word) (y : Time) (r : List UpItem), (s.pw.variantL = false) ∧ (s.pw.fieldUp = true) ∧ (s.pw.logic = .run) ∧ (s.fio.up = .capture k.val x y :: r) ∧ (8 ≤ (s.encRt k.val).queue.length)) ∧
    (∃ (s : State) (k : Fin 16) (i : Fin 64) (m : Word), (encCapSrc (s.encCfg k.val) = 0)) ∧
    (∃ (s : State) (p : Pair) (e : Entry) (x : Word) (y : Time) (r : List (Word × Time)), (s.takeParam p 2 8 2 = some e) ∧ (e.value < 16) ∧ ((s.encRt e.value).queue = (x, y) :: r)) ∧
    (∃ (s : State) (p : Pair) (e : Entry), (s.takeParam p 2 8 2 = some e) ∧ (e.value < 16) ∧ ((s.encRt e.value).queue = [])) ∧
    (∃ (s : State) (a : Fin 16), ((s.pulRt a.val).moving = true) ∧ ((s.pulRt a.val).next = none)) ∧
    (∃ (s : State) (a : Fin 16), ((s.pulRt a.val).moving = false)) :=
  ⟨⟨sF, 3, false, by decide +kernel⟩,
    ⟨sF, 3, true, by decide +kernel⟩,
    ⟨{ sF with fio := { encEff := [(3, 1 + 2 ^ 22)] } }, 3, 0, 9, by decide +kernel⟩,
    ⟨{ sF with fio := { encEff := [(3, 1 + 2 * 2 ^ 22 + 5 * 2 ^ 24)], di := [(5, { accAt := some 70 })] } }, 3, 5, 9, 70, by decide +kernel⟩,
    ⟨{ sF with fio := { encEff := [(3, 1 + 2 * 2 ^ 22 + 5 * 2 ^ 24)], di := [(5, { accAt := some 70 })] } }, 3, 6, 9, by decide +kernel⟩,
    ⟨{ sF with fio := { up := [.capture 3 5 6] } }, 3, 5, 6, [], by decide +kernel⟩,
    ⟨{ sF with fio := { up := [.capture 3 5 6], enc := [(3, { queue := List.replicate 8 (0, 0) })] } }, 3, 5, 6, [], by decide +kernel⟩,
    ⟨sF, 3, 0, 9, by decide +kernel⟩,
    ⟨withE { sR with fio := { enc := [(3, { queue := [(5, 6)] })] } } (ePar 2 8 2 3), 0, ePar 2 8 2 3, 5, 6, [], by decide +kernel⟩,
    ⟨withE sR (ePar 2 8 2 3), 0, ePar 2 8 2 3, by decide +kernel⟩,
    ⟨{ sF with fio := { pul := [(3, { moving := true, target := 70 })] } }, 3, by decide +kernel⟩,
    ⟨sF, 3, by decide +kernel⟩⟩

theorem witness_TheDrone :
    (∃ (s : State), (s.pw.fieldUp = true) ∧ (s.pw.variantL = false) ∧ (s.drn.nextImage = none) ∧ (s.drn.st ≠ .idle)) ∧
    (∃ (s : State) (b : List Byte), (s.pw.fieldUp = true) ∧ (s.pw.variantL = false) ∧ (s.drn.nextImage = some b)) ∧
    (∃ (s : State), (s.drn.st = .idle)) ∧
    (∃ (s : State), (s.pw.fieldUp = true) ∧ (s.pw.variantL = false) ∧ (s.drn.st = .run) ∧ (s.drn.loops = []) ∧ (holdCount s.drn.image 1 = 0) ∧ (holdCount s.drn.image 4 = 0)) ∧
    (∃ (s : State), (s.pw.fieldUp = true) ∧ (s.pw.variantL = false) ∧ (s.drn.st = .run) ∧ (s.twn.fieldMember = false) ∧ (s.drn.firstOut = false) ∧ (s.drn.faulted = true)) ∧
    (∃ (s : State) (l : Fin 32) (x : Time), ((tget {} s.drn.loops l.val : LoopRt).confirmed = some x) ∧ (sdiff x s.time.shadow.ns ≤ 0)) ∧
    (∃ (s : State) (l : Fin 32) (x : Time), ((tget {} s.drn.loops l.val : LoopRt).confirmed = some x) ∧ (0 < sdiff x s.time.shadow.ns)) ∧
    (∃ (s : State) (l : Fin 32), ((tget {} s.drn.loops l.val : LoopRt).confirmed = none)) :=
  ⟨⟨{ sF with drn := { st := .run, cycle := 4 } }, by decide +kernel⟩,
    ⟨{ sF with drn := { st := .idle, nextImage := some [] } }, [], by decide +kernel⟩,
    ⟨{ sF with drn := { st := .idle } }, by decide +kernel⟩,
    ⟨{ sF with drn := { st := .run } }, by decide +kernel⟩,
    ⟨{ sF with drn := { st := .run, faulted := true } }, by decide +kernel⟩,
    ⟨{ sF with drn := { loops := [(3, { confirmed := some 0 })] } }, 3, 0, by decide +kernel⟩,
    ⟨{ sF with drn := { loops := [(3, { confirmed := some 7 })] } }, 3, 7, by decide +kernel⟩,
    ⟨sF, 3, by decide +kernel⟩⟩

theorem witness_BuffersAndPlantPorts :
    (∃ (s : State) (p : Pair) (e : Entry) (k : Fin 2), (s.takeOp p.val 5 2 = some e) ∧ (portOf e.byte16 = some (.plant k))) ∧
    (∃ (s : State) (p : Pair) (e : Entry) (q : Port), (s.takeOp p.val 5 2 = some e) ∧ (portOf e.byte16 = some q) ∧ (s.rxRing q 0 ≠ some p.val) ∧ (s.rxRing q 1 ≠ some p.val) ∧ ((match q with | .plant _ => true | _ => false) = false)) ∧
    (∃ (s : State) (p : Pair) (e : Entry) (c : Fin 4), (s.takeOp p.val 5 2 = some e) ∧ (portOf e.byte16 = some (.can c)) ∧ (s.rxRing (.can c) 0 = some p.val) ∧ (e.len < 88)) ∧
    (∃ (s : State) (p : Pair) (e : Entry) (k : Fin 2), (s.takeSend p (fun q => match q with | .plant _ => true | _ => false) = some (e, .plant k)) ∧ (e.atFlag = false) ∧ (e.tstamp = false)) ∧
    (∃ (s : State) (p : Pair) (e : Entry) (k : Fin 2), (s.takeSend p (fun q => match q with | .plant _ => true | _ => false) = some (e, .plant k)) ∧ (e.atFlag = true) ∧ (s.atBeyond e = false)) ∧
    (∃ (s : State) (p : Pair) (e : Entry) (k : Fin 2), (s.takeSend p (fun q => match q with | .plant _ => true | _ => false) = some (e, .plant k)) ∧ (s.atBeyond e = true)) ∧
    (∃ (s : State) (k : Fin 2) (b : RxBuf) (d : List Byte), (s.leg.rxBufs = [b]) ∧ (b.port = .plant k) ∧ (d.length ≤ b.size)) ∧
    (∃ (s : State) (k : Fin 2) (b : RxBuf) (d : List Byte), (s.leg.rxBufs = [b]) ∧ (b.port = .plant k) ∧ (b.size < d.length)) ∧
    (∃ (s : State) (k : Fin 2) (d : List Byte), (s.leg.rxBufs = [])) ∧
    (∃ (s : State) (q : Port), (s.time.tb1Lock = false)) ∧
    (∃ (s : State) (k : Fin 2) (x : PlantTx), (s.time.tb1Lock = true) ∧ (s.leg.plantTx = [x]) ∧ (x.port = k) ∧ (x.tstamp = false) ∧ (s.atDue (some x.at_) = true)) ∧
    (∃ (s : State) (u : Fin 4) (x : UartTx), (s.time.tb1Lock = true) ∧ ((s.uartRt u.val).tx = [x])) ∧
    (∃ (s : State) (c : Fin 4) (x : CanTx), (s.time.tb1Lock = true) ∧ ((s.canRt c.val).tx = [x]) ∧ (x.eligible = none) ∧ (s.atDue x.at_ = true)) ∧
    (∃ (s : State) (c : Fin 4) (b : RxBuf) (ring : Nat), (s.rfld (canOff c.val + 0xC) 31 16 ≠ 0) ∧ (s.rxRing (.can c) 0 = some ring) ∧ (s.leg.bufOf (.can c) ring = some b) ∧ (0 < b.filled) ∧ (b.first + s.rfld (canOff c.val + 0xC) 31 16 * 1000 ≤ s.time.t2)) ∧
    (∃ (s : State) (c : Fin 4) (q : Bool), (s.rfld (canOff c.val + 0xC) 31 16 = 0)) :=
  ⟨⟨withE sR (eRaw 5 2 (0x31 * 2 ^ 128)), 0, eRaw 5 2 (0x31 * 2 ^ 128), 1, by decide +kernel⟩,
    ⟨withE sR (eRaw 5 2 (0x20 * 2 ^ 128)), 0, eRaw 5 2 (0x20 * 2 ^ 128), .pb, by decide +kernel⟩,
    ⟨withE sR (eRaw 5 2 (2 * 2 ^ 128)), 0, eRaw 5 2 (2 * 2 ^ 128), 2, by decide +kernel⟩,
    ⟨withE sR (eSend 0x31 [1, 2]), 0, eSend 0x31 [1, 2], 1, by decide +kernel⟩,
    ⟨withE sR { eSend 0x31 [1, 2] with raw := (eSend 0x31 [1, 2]).raw + 0x200 }, 0, { eSend 0x31 [1, 2] with raw := (eSend 0x31 [1, 2]).raw + 0x200 }, 1, by decide +kernel⟩,
    ⟨withE sR { eSend 0x31 [1, 2] with raw := (eSend 0x31 [1, 2]).raw + 0x200 + 500000000001 * 2 ^ 192 }, 0, { eSend 0x31 [1, 2] with raw := (eSend 0x31 [1, 2]).raw + 0x200 + 500000000001 * 2 ^ 192 }, 1, by decide +kernel⟩,
    ⟨sLeg { rxBufs := [{ pair := 0, sub := 0, port := .plant 1, addr := 64, size := 8 }] }, 1, { pair := 0, sub := 0, port := .plant 1, addr := 64, size := 8 }, [1, 2], by decide +kernel⟩,
    ⟨sLeg { rxBufs := [{ pair := 0, sub := 0, port := .plant 1, addr := 64, size := 1 }] }, 1, { pair := 0, sub := 0, port := .plant 1, addr := 64, size := 1 }, [1, 2], by decide +kernel⟩,
    ⟨sR, 1, [1, 2], by decide +kernel⟩,
    ⟨sR, .plant 1, by decide +kernel⟩,
    ⟨{ sLeg { plantTx := [{ pair := 0, sub := 0, port := 1, tag := 0, tstamp := false, at_ := 0, bytes := [3] }] } with time := { tb1Lock := true } }, 1, { pair := 0, sub := 0, port := 1, tag := 0, tstamp := false, at_ := 0, bytes := [3] }, by decide +kernel⟩,
    ⟨{ sLeg { uart := [(2, { tx := [{ pair := 0, sub := 0, chars := [1], firstAddr := false, at_ := some 0, eligible := false }] })] } with time := { tb1Lock := true } }, 2, { pair := 0, sub := 0, chars := [1], firstAddr := false, at_ := some 0, eligible := false }, by decide +kernel⟩,
    ⟨{ sLeg { can := [(2, { tx := [{ qCan with at_ := some 0, eligible := none }] })] } with time := { tb1Lock := true } }, 2, { qCan with at_ := some 0, eligible := none }, by decide +kernel⟩,
    ⟨{ sLeg { rxBufs := [{ pair := 0, sub := 0, port := .can 1, addr := 64, size := 100, filled := 24 }] } with regs := regSet [] 0xE14C 0x50000, time := { tb2 := { ns := 9000000 } } }, 1, { pair := 0, sub := 0, port := .can 1, addr := 64, size := 100, filled := 24 }, 0, by decide +kernel⟩,
    ⟨sR, 1, false, by decide +kernel⟩⟩

theorem witness_CanChannels :
    (∃ (s : State) (c : Fin 4) (w : Word) (cl : List Claim), (s.hostUp = true) ∧ (tbit w 0 = true) ∧ ((s.canRt c.val).st = .off) ∧ (((s.writeBits (canOff c.val) w).setReg (canOff c.val) (putBit ((s.writeBits (canOff c.val) w).reg (canOff c.val)) 0 true)).canCfgOk c.val = true) ∧ (claimAll rankGeneral (ownPort c.val) (canBufs c.val) s.fio.claims = .ok cl)) ∧
    (∃ (s : State) (c : Fin 4) (w : Word), (s.hostUp = true) ∧ (tbit w 0 = true) ∧ (((s.writeBits (canOff c.val) w).setReg (canOff c.val) (putBit ((s.writeBits (canOff c.val) w).reg (canOff c.val)) 0 true)).canCfgOk c.val = false)) ∧
    (∃ (s : State) (c : Fin 4) (w : Word), (s.hostUp = true) ∧ (tbit w 0 = false) ∧ ((s.canRt c.val).st ≠ .off)) ∧
    (∃ (s : State) (p : Pair) (e : Entry) (c : Fin 4), (s.takeSend p (fun q => match q with | .can _ => true | _ => false) = some (e, .can c)) ∧ ((s.canRt c.val).st = .off)) ∧
    (∃ (s : State) (p : Pair) (e : Entry) (c : Fin 4), (s.takeSend p (fun q => match q with | .can _ => true | _ => false) = some (e, .can c)) ∧ ((s.canRt c.val).st = .active) ∧ (s.rbit (canOff c.val) 4 = false) ∧ (24 ≤ e.len) ∧ (e.len = 24 + (leAt e.data 5 1 + 7) / 8 * 8) ∧ (s.atBeyond e = false) ∧ (canSendOk (s.rbit (canOff c.val) 3) e.data = true) ∧ (32 ≤ (s.canRt c.val).tx.length)) ∧
    (∃ (s : State) (p : Pair) (e : Entry) (c : Fin 4), (s.takeSend p (fun q => match q with | .can _ => true | _ => false) = some (e, .can c)) ∧ ((s.canRt c.val).st = .active) ∧ (s.rbit (canOff c.val) 4 = false) ∧ (24 ≤ e.len) ∧ (e.len = 24 + (leAt e.data 5 1 + 7) / 8 * 8) ∧ (e.atFlag = false) ∧ (canSendOk (s.rbit (canOff c.val) 3) e.data = true) ∧ ((s.canRt c.val).tx = [])) ∧
    (∃ (s : State) (c : Fin 4) (x : CanTx) (a : LineStamp) (n : Nat), ((s.canRt c.val).st = .active) ∧ (s.rbit (canOff c.val) 4 = false) ∧ ((s.canRt c.val).tx = [x]) ∧ (x.eligible = some n) ∧ (n ≤ s.time.t2 - (s.time.tb2.ns - a.tb2).toNat) ∧ (x.staleUs = 0)) ∧
    (∃ (s : State) (c : Fin 4) (f : CanFrame) (v : Bool) (a : LineStamp), (v = false ∨ (s.canRt c.val).onBus = false)) ∧
    (∃ (s : State) (c : Fin 4) (f : CanFrame) (a : LineStamp), ((s.canRt c.val).onBus = true) ∧ (s.leg.filterOf c.val f = none) ∧ (s.rfld (canOff c.val) 2 1 = 1) ∧ ((s.canRt c.val).q0 = []) ∧ ((s.canRt c.val).q1 = []) ∧ ((s.canRt c.val).tx = []) ∧ (s.leg.rxBufs = [])) ∧
    (∃ (s : State) (c : Fin 4) (a b : Nat), ((s.canRt c.val).st = .active) ∧ ((s.canRt c.val).tx = []) ∧ (a ≤ 127) ∧ (b ≤ 127)) ∧
    (∃ (s : State) (c : Fin 4) (a b : Nat), ((s.canRt c.val).st = .active) ∧ (255 < a) ∧ (s.rbit (canOff c.val) 7 = true)) ∧
    (∃ (s : State) (c : Fin 4), ((s.canRt c.val).st = .recovering) ∧ ((s.canRt c.val).tx = [])) ∧
    (∃ (s : State) (p : Pair) (e : Entry) (cl : List Claim), (s.takeLoad p 14 1 = some e) ∧ (s.roleActs = true) ∧ ((withIndex e.first e.words128).find? (fun x => !fpOk x.2) = none) ∧ (filterClaims (withIndex e.first e.words128) s.fio.claims = .ok cl)) ∧
    (∃ (s : State) (p : Pair) (e : Entry) (x : Nat × BitVec 128), (s.takeLoad p 14 1 = some e) ∧ (s.roleActs = true) ∧ ((withIndex e.first e.words128).find? (fun x => !fpOk x.2) = some x)) ∧
    (∃ (s : State) (p : Pair) (e : Entry), (s.takeParam p 1 14 1 = some e) ∧ (s.roleActs = true) ∧ (e.value % 256 < 4) ∧ (e.value / 256 = (s.canRt (e.value % 4)).hpSeq.toNat)) ∧
    (∃ (s : State) (p : Pair) (e : Entry), (s.takeParam p 1 14 1 = some e) ∧ (s.roleActs = true) ∧ (e.value % 256 < 4) ∧ (e.value / 256 ≠ (s.canRt (e.value % 4)).hpSeq.toNat)) ∧
    (∃ (s : State) (p : Pair) (e : Entry), (s.takeParam p 1 14 2 = some e) ∧ (s.roleActs = true) ∧ (e.value < 4) ∧ ((s.canRt e.value).st = .busOff)) ∧
    (∃ (s : State) (p : Pair) (e : Entry), (s.takeParam p 1 14 2 = some e) ∧ (s.roleActs = true) ∧ (e.value < 4) ∧ ((s.canRt e.value).st ≠ .busOff)) :=
  ⟨⟨{ sR with regs := regSet (regSet (regSet [] 0xE144 (19 + 13 * 256 + 4 * 65536)) 0xE148 (4 + 3 * 32 + 2 * 1024)) 0xE14C 0x100 }, 1, 1, (match claimAll rankGeneral (ownPort 1) (canBufs 1) [] with | .ok c => c | _ => []), by decide +kernel⟩,
    ⟨{ sR with regs := regSet [] 0xE144 1 }, 1, 1, by decide +kernel⟩,
    ⟨sLeg { can := [(1, { st := .active })] }, 1, 0, by decide +kernel⟩,
    ⟨withE sR (eSend 2 dCan), 0, eSend 2 dCan, 2, by decide +kernel⟩,
    ⟨withE (sLeg { can := [(2, { st := .active, tx := List.replicate 32 qCan })] }) (eSend 2 dCan), 0, eSend 2 dCan, 2, by decide +kernel⟩,
    ⟨withE (sLeg { can := [(2, { st := .active })] }) (eSend 2 dCan), 0, eSend 2 dCan, 2, by decide +kernel⟩,
    ⟨{ sLeg { can := [(1, { st := .active, tx := [{ qCan with eligible := some 9 }] })] } with time := { tb2 := { ns := 50 } } }, 1, { qCan with eligible := some 9 }, { tb1 := 8, tb2 := 20 }, 9, by decide +kernel⟩,
    ⟨sR, 1, fCan, true, { tb1 := 8, tb2 := 9 }, by decide +kernel⟩,
    ⟨{ sLeg { can := [(1, { st := .active })] } with regs := regSet [] 0xE140 2 }, 1, fCan, { tb1 := 8, tb2 := 9 }, by decide +kernel⟩,
    ⟨sLeg { can := [(1, { st := .active })] }, 1, 5, 6, by decide +kernel⟩,
    ⟨{ sLeg { can := [(1, { st := .active })] } with regs := regSet [] 0xE140 0x80 }, 1, 256, 6, by decide +kernel⟩,
    ⟨sLeg { can := [(1, { st := .recovering })] }, 1, by decide +kernel⟩,
    ⟨withE sR { eTab 1 14 1 10 1 with data := leBytes 16 5 }, 0, { eTab 1 14 1 10 1 with data := leBytes 16 5 }, [], by decide +kernel⟩,
    ⟨withE sR { eTab 1 14 1 10 1 with data := leBytes 16 (2 ^ 100) }, 0, { eTab 1 14 1 10 1 with data := leBytes 16 (2 ^ 100) }, (10, 2 ^ 100), by decide +kernel⟩,
    ⟨withE (sLeg { can := [(1, { hpSeq := 7, ndat := true })] }) (ePar 1 14 1 (1 + 7 * 256)), 0, ePar 1 14 1 (1 + 7 * 256), by decide +kernel⟩,
    ⟨withE (sLeg { can := [(1, { hpSeq := 7, ndat := true })] }) (ePar 1 14 1 (1 + 6 * 256)), 0, ePar 1 14 1 (1 + 6 * 256), by decide +kernel⟩,
    ⟨withE (sLeg { can := [(1, { st := .busOff })] }) (ePar 1 14 2 1), 0, ePar 1 14 2 1, by decide +kernel⟩,
    ⟨withE sR (ePar 1 14 2 1), 0, ePar 1 14 2 1, by decide +kernel⟩⟩

theorem witness_Uarts :
    (∃ (s : State) (u : Fin 4) (w : Word) (cl : List Claim), (s.hostUp = true) ∧ (tbit w 0 = true) ∧ (((s.writeBits (uartOff u.val) w).setReg (uartOff u.val) (putBit ((s.writeBits (uartOff u.val) w).reg (uartOff u.val)) 0 true)).uartCfgOk u.val = true) ∧ (claimAll rankGeneral (ownPort (0x10 + u.val)) (uartBufs u.val) s.fio.claims = .ok cl)) ∧
    (∃ (s : State) (u : Fin 4) (w : Word), (s.hostUp = true) ∧ (tbit w 0 = true) ∧ (((s.writeBits (uartOff u.val) w).setReg (uartOff u.val) (putBit ((s.writeBits (uartOff u.val) w).reg (uartOff u.val)) 0 true)).uartCfgOk u.val = false)) ∧
    (∃ (s : State) (u : Fin 4) (w : Word), (s.hostUp = true) ∧ (tbit w 0 = false) ∧ ((s.uartRt u.val).on = true)) ∧
    (∃ (s : State) (p : Pair) (e : Entry) (u : Fin 4), (s.takeSend p (fun q => match q with | .uart _ => true | _ => false) = some (e, .uart u)) ∧ ((s.uartRt u.val).on = false)) ∧
    (∃ (s : State) (p : Pair) (e : Entry) (u : Fin 4), (s.takeSend p (fun q => match q with | .uart _ => true | _ => false) = some (e, .uart u)) ∧ ((s.uartRt u.val).on = true) ∧ (8 ≤ e.len) ∧ (e.len = 8 + (leAt e.data 0 2 + 7) / 8 * 8) ∧ (e.atFlag = false) ∧ (leAt e.data 0 2 ≠ 0) ∧ (leAt e.data 0 2 ≤ 4096) ∧ (leAt e.data 2 6 ≤ 1) ∧ ((s.uartRt u.val).tx.length < 16)) ∧
    (∃ (s : State) (u : Fin 4) (x : UartTx), ((s.uartRt u.val).on = true) ∧ ((s.uartRt u.val).sending = false) ∧ ((s.uartRt u.val).tx = [x]) ∧ (x.eligible = true)) ∧
    (∃ (s : State) (u : Fin 4), ((s.uartRt u.val).sending = true)) ∧
    (∃ (s : State) (u : Fin 4) (x : UartTx) (r : List UartTx), ((s.uartRt u.val).sending = true) ∧ ((s.uartRt u.val).tx = x :: r)) ∧
    (∃ (s : State) (u : Fin 4) (ch : BitVec 8) (a : LineStamp), ((s.uartRt u.val).on = true) ∧ (s.rbit (uartOff u.val) 2 = false) ∧ ((s.uartRt u.val).skip = false) ∧ ((s.uartRt u.val).chars = []) ∧ ((s.uartRt u.val).queue = [])) ∧
    (∃ (s : State) (u : Fin 4) (ch : BitVec 8) (n x f o : Bool) (a : LineStamp), ((s.uartRt u.val).on = false)) ∧
    (∃ (s : State) (u : Fin 4), ((s.uartRt u.val).chars ≠ []) ∧ (s.leg.rxBufs = [])) :=
  ⟨⟨{ sR with regs := regSet [] 0xE224 0xF0000010 }, 1, 1, (match claimAll rankGeneral (ownPort 0x11) (uartBufs 1) [] with | .ok c => c | _ => []), by decide +kernel⟩,
    ⟨{ sR with regs := regSet [] 0xE224 0xF0000000 }, 1, 1, by decide +kernel⟩,
    ⟨sLeg { uart := [(1, { on := true })] }, 1, 0, by decide +kernel⟩,
    ⟨withE sR (eSend 0x11 (leBytes 8 1 ++ leBytes 8 65)), 0, eSend 0x11 (leBytes 8 1 ++ leBytes 8 65), 1, by decide +kernel⟩,
    ⟨withE (sLeg { uart := [(1, { on := true })] }) (eSend 0x11 (leBytes 8 1 ++ leBytes 8 65)), 0, eSend 0x11 (leBytes 8 1 ++ leBytes 8 65), 1, by decide +kernel⟩,
    ⟨sLeg { uart := [(1, { on := true, tx := [{ pair := 0, sub := 0, chars := [65], firstAddr := false, at_ := none, eligible := true }] })] }, 1, { pair := 0, sub := 0, chars := [65], firstAddr := false, at_ := none, eligible := true }, by decide +kernel⟩,
    ⟨sLeg { uart := [(1, { on := true, sending := true })] }, 1, by decide +kernel⟩,
    ⟨sLeg { uart := [(1, { on := true, sending := true, tx := [{ pair := 0, sub := 0, chars := [65], firstAddr := false, at_ := none, eligible := true }] })] }, 1, { pair := 0, sub := 0, chars := [65], firstAddr := false, at_ := none, eligible := true }, [], by decide +kernel⟩,
    ⟨sLeg { uart := [(1, { on := true })] }, 1, 65, { tb1 := 8, tb2 := 9 }, by decide +kernel⟩,
    ⟨sR, 1, 65, false, false, false, false, { tb1 := 8, tb2 := 9 }, by decide +kernel⟩,
    ⟨sLeg { uart := [(1, { on := true, chars := [65] })] }, 1, by decide +kernel⟩⟩

theorem witness_ParallelBusAndLines :
    (∃ (s : State) (p : Pair) (e : Entry), (s.takeSend p (fun q => decide (q = .pb)) = some (e, .pb)) ∧ (s.rbit 0xE300 0 = false)) ∧
    (∃ (s : State) (p : Pair) (e : Entry) (i : Nat), (s.takeSend p (fun q => decide (q = .pb)) = some (e, .pb)) ∧ (s.rbit 0xE300 0 = true) ∧ (8 ≤ e.len) ∧ (e.len ≤ 4096) ∧ (e.len % 8 = 0) ∧ (s.atBeyond e = false) ∧ (((List.range (e.len / 8)).map (entryAt 64 8 e.data)).findIdx? (fun x => !s.pbEntryOk x) = some i)) ∧
    (∃ (s : State) (p : Pair) (e : Entry), (s.takeSend p (fun q => decide (q = .pb)) = some (e, .pb)) ∧ (s.rbit 0xE300 0 = true) ∧ (8 ≤ e.len) ∧ (e.len ≤ 4096) ∧ (e.len % 8 = 0) ∧ (e.atFlag = false) ∧ (((List.range (e.len / 8)).map (entryAt 64 8 e.data)).findIdx? (fun x => !s.pbEntryOk x) = none) ∧ (s.leg.pb = [])) ∧
    (∃ (s : State) (x : PbRun) (r : List PbRun), (s.leg.pb = x :: r) ∧ (x.started = true) ∧ (s.pbWaits (x.entries.getD x.doneN 0) = true)) ∧
    (∃ (s : State), (s.leg.pb = [])) ∧
    (∃ (s : State) (x : PbRun) (r : List PbRun) (d : BitVec 16), (s.leg.pb = x :: r) ∧ (x.started = true) ∧ (s.pbWaits (x.entries.getD x.doneN 0) = false) ∧ (x.entries.length ≤ x.doneN + 1)) ∧
    (∃ (s : State) (x : PbRun) (r : List PbRun) (d : BitVec 16), (s.leg.pb = x :: r) ∧ (x.started = true) ∧ (s.pbWaits (x.entries.getD x.doneN 0) = false) ∧ (x.doneN + 1 < x.entries.length)) ∧
    (∃ (s : State) (x : PbRun) (r : List PbRun), (s.leg.pb = x :: r) ∧ (x.started = true) ∧ (s.pbWaits (x.entries.getD x.doneN 0) = true)) ∧
    (∃ (s : State) (p : Pair) (e : Entry), (s.takeParam p 1 14 3 = some e) ∧ (s.roleActs = true) ∧ (e.value < 2 ^ 16)) ∧
    (∃ (s : State) (p : Pair) (e : Entry), (s.takeParam p 2 14 4 = some e) ∧ (e.value = 0) ∧ (s.rbit 0xE300 1 = false) ∧ (s.rbit 0xE300 2 = false)) ∧
    (∃ (s : State) (x : BitVec 8), (s.rfld 0xE000 15 8 = 0)) ∧
    (∃ (s : State) (w : Word) (cl : List Claim), (s.hostUp = true) ∧ (gpClaims (ownReg 0) (dirLines (s.reg 0xE000)) (dirLines ((s.writeBits 0xE000 w).reg 0xE000)) s.fio.claims = .ok cl)) ∧
    (∃ (s : State) (w : Word) (c : Byte) (r : BitVec 64), (s.hostUp = true) ∧ (gpClaims (ownReg 0) (dirLines (s.reg 0xE000)) (dirLines ((s.writeBits 0xE000 w).reg 0xE000)) s.fio.claims = .refused c r)) :=
  ⟨⟨withE sR (eSend 0x20 (leBytes 8 1)), 0, eSend 0x20 (leBytes 8 1), by decide +kernel⟩,
    ⟨withE { sR with regs := regSet [] 0xE300 1 } (eSend 0x20 (leBytes 8 0x10000000)), 0, eSend 0x20 (leBytes 8 0x10000000), 0, by decide +kernel⟩,
    ⟨withE { sR with regs := regSet [] 0xE300 1 } (eSend 0x20 (leBytes 8 0x01000004)), 0, eSend 0x20 (leBytes 8 0x01000004), by decide +kernel⟩,
    ⟨{ sLeg { pb := [pbRun] } with regs := regSet [] 0xE310 0x100000 }, pbRun, [], by decide +kernel⟩,
    ⟨sR, by decide +kernel⟩,
    ⟨sLeg { pb := [pbRun] }, pbRun, [], 7, by decide +kernel⟩,
    ⟨sLeg { pb := [{ pbRun with entries := [1, 1] }] }, { pbRun with entries := [1, 1] }, [], 7, by decide +kernel⟩,
    ⟨{ sLeg { pb := [pbRun] } with regs := regSet [] 0xE310 0x100000 }, pbRun, [], by decide +kernel⟩,
    ⟨withE sR (ePar 1 14 3 0x0F05), 0, ePar 1 14 3 0x0F05, by decide +kernel⟩,
    ⟨withE (sLeg { gpIn := 0x5A }) (ePar 2 14 4 0), 0, ePar 2 14 4 0, by decide +kernel⟩,
    ⟨sR, 0x5A, by decide +kernel⟩,
    ⟨sR, 0, [], by decide +kernel⟩,
    ⟨{ sR with pw := { sR.pw with cfgDone := true }, fio := { claims := [{ id := 0x8000, rank := rankGeneral, num := 99 }] } }, 1, 0xB0, claimResult { id := 0x8000, rank := rankGeneral, num := 99 }, by decide +kernel⟩⟩

theorem witness_WaggleTables :
    (∃ (s : State) (p : Pair) (e : Entry), (s.takeLoadIn p 10 16 23 = some e) ∧ (s.roleActs = true) ∧ (s.mirrors = false) ∧ (s.modeInUse (e.tblNum - 16) = false) ∧ (schedOffence (tload (fun _ => 0) s.wag.sched (withIndex (256 * (e.tblNum - 16) + e.first) e.words256)) (e.tblNum - 16) = none)) ∧
    (∃ (s : State) (p : Pair) (e : Entry) (w : Nat), (s.takeLoadIn p 10 16 23 = some e) ∧ (s.roleActs = true) ∧ (s.mirrors = false) ∧ (s.modeInUse (e.tblNum - 16) = false) ∧ (schedOffence (tload (fun _ => 0) s.wag.sched (withIndex (256 * (e.tblNum - 16) + e.first) e.words256)) (e.tblNum - 16) = some w)) ∧
    (∃ (s : State) (p : Pair) (e : Entry), (s.takeLoadIn p 10 16 23 = some e) ∧ (s.roleActs = true) ∧ (s.mirrors = false) ∧ (s.modeInUse (e.tblNum - 16) = true)) ∧
    (∃ (s : State) (p : Pair) (e : Entry), (s.takeLoad p 10 1 = some e) ∧ (s.roleActs = true) ∧ (s.mirrors = false) ∧ ((withIndex e.first e.words64).any (fun x => decide (fld x.2 63 25 ≠ 0)) = false)) ∧
    (∃ (s : State) (p : Pair) (e : Entry), (s.takeLoad p 10 1 = some e) ∧ (s.roleActs = true) ∧ (s.mirrors = false) ∧ ((withIndex e.first e.words64).any (fun x => decide (fld x.2 63 25 ≠ 0)) = true)) ∧
    (∃ (s : State) (p : Pair) (e : Entry), (s.takeLoad p 10 2 = some e) ∧ (s.roleActs = true) ∧ (s.mirrors = false) ∧ ((withIndex e.first e.words64).any (fun x => decide (fld x.2 7 6 ≠ 0) || decide (fld x.2 9 8 = 3) || decide (fld x.2 63 11 ≠ 0)) = false)) ∧
    (∃ (s : State) (p : Pair) (e : Entry), (s.takeLoad p 10 2 = some e) ∧ (s.roleActs = true) ∧ (s.mirrors = false) ∧ ((withIndex e.first e.words64).any (fun x => decide (fld x.2 7 6 ≠ 0) || decide (fld x.2 9 8 = 3) || decide (fld x.2 63 11 ≠ 0)) = true)) ∧
    (∃ (s : State) (p : Pair) (e : Entry), (s.takeLoad p 10 3 = some e) ∧ (s.roleActs = true) ∧ (s.mirrors = false) ∧ ((withIndex e.first e.words64).any (fun x => decide (fld x.2 7 6 ≠ 0) || decide (fld x.2 63 9 ≠ 0)) = false) ∧ (segOffence (tload (fun _ => 0) s.wag.segTab (withIndex e.first e.words64)) = none)) ∧
    (∃ (s : State) (p : Pair) (e : Entry), (s.takeLoad p 10 3 = some e) ∧ (s.roleActs = true) ∧ (s.mirrors = false) ∧ ((withIndex e.first e.words64).any (fun x => decide (fld x.2 7 6 ≠ 0) || decide (fld x.2 63 9 ≠ 0)) = true)) ∧
    (∃ (s : State) (p : Pair) (e : Entry) (b : Nat), (s.takeLoad p 10 3 = some e) ∧ (s.roleActs = true) ∧ (s.mirrors = false) ∧ ((withIndex e.first e.words64).any (fun x => decide (fld x.2 7 6 ≠ 0) || decide (fld x.2 63 9 ≠ 0)) = false) ∧ (segOffence (tload (fun _ => 0) s.wag.segTab (withIndex e.first e.words64)) = some b)) ∧
    (∃ (s : State) (p : Pair) (e : Entry), (s.takeParam p 2 10 2 = some e) ∧ (e.value < 4096)) ∧
    (∃ (s : State) (p : Pair) (e : Entry), (s.takeParam p 2 10 2 = some e) ∧ (4096 ≤ e.value)) :=
  ⟨⟨withE sR eSched, 0, eSched, by decide +kernel, by decide +kernel, by decide +kernel, by decide +kernel,
      sched_wit⟩,
    ⟨withE sR { eTab 1 10 17 0 1 with data := leBytes 32 0 }, 0, { eTab 1 10 17 0 1 with data := leBytes 32 0 }, 0, by decide +kernel⟩,
    ⟨withE (sWag 1 { gSched with link := .hive }) { eTab 1 10 16 0 1 with data := leBytes 32 0 }, 0, { eTab 1 10 16 0 1 with data := leBytes 32 0 }, by decide +kernel⟩,
    ⟨withE sR { eTab 1 10 1 10 1 with data := leBytes 8 5 }, 0, { eTab 1 10 1 10 1 with data := leBytes 8 5 }, by decide +kernel⟩,
    ⟨withE sR { eTab 1 10 1 10 1 with data := leBytes 8 (2 ^ 25) }, 0, { eTab 1 10 1 10 1 with data := leBytes 8 (2 ^ 25) }, by decide +kernel⟩,
    ⟨withE sR { eTab 1 10 2 10 1 with data := leBytes 8 5 }, 0, { eTab 1 10 2 10 1 with data := leBytes 8 5 }, by decide +kernel⟩,
    ⟨withE sR { eTab 1 10 2 10 1 with data := leBytes 8 64 }, 0, { eTab 1 10 2 10 1 with data := leBytes 8 64 }, by decide +kernel⟩,
    ⟨withE sR { eTab 1 10 3 10 1 with data := leBytes 8 5 }, 0, { eTab 1 10 3 10 1 with data := leBytes 8 5 }, by decide +kernel⟩,
    ⟨withE sR { eTab 1 10 3 10 1 with data := leBytes 8 64 }, 0, { eTab 1 10 3 10 1 with data := leBytes 8 64 }, by decide +kernel⟩,
    ⟨withE sR { eTab 1 10 3 10 1 with data := leBytes 8 (256 + 10) }, 0, { eTab 1 10 3 10 1 with data := leBytes 8 (256 + 10) }, 10, by decide +kernel⟩,
    ⟨withE sR (ePar 2 10 2 4), 0, ePar 2 10 2 4, by decide +kernel⟩,
    ⟨withE sR (ePar 2 10 2 4096), 0, ePar 2 10 2 4096, by decide +kernel⟩⟩

theorem witness_WaggleWindows :
    (∃ (s : State) (w : Fin 256), (w.val ≠ 0) ∧ (s.wag.hasMode s.wag.mode = true) ∧ (wType (s.wag.window w.val) = 1) ∧ (wOrigin (s.wag.window w.val) = s.station)) ∧
    (∃ (s : State) (w : Fin 256), (wType (s.wag.window w.val) = 1) ∧ (wOrigin (s.wag.window w.val) ≠ s.station) ∧ (s.twinEn = false)) ∧
    (∃ (s : State) (w : Fin 256), (w.val ≠ 0) ∧ (wType (s.wag.window w.val) = 1) ∧ (wPresent (s.wag.window w.val) s.wag.mpos = true) ∧ (wOrigin (s.wag.window w.val) = s.station) ∧ (s.canSend = true) ∧ (s.dataOk = true) ∧ (wSafety (s.wag.window w.val) = false) ∧ (wStatus (s.wag.window w.val) = false) ∧ (wWords (s.wag.window w.val) = 0)) ∧
    (∃ (s : State) (w : Fin 256), (w.val ≠ 0) ∧ (wType (s.wag.window w.val) = 1) ∧ (wPresent (s.wag.window w.val) s.wag.mpos = true) ∧ (wOrigin (s.wag.window w.val) = s.station) ∧ (s.canSend = true) ∧ (s.dataOk = true) ∧ (wSafety (s.wag.window w.val) = false) ∧ (wStatus (s.wag.window w.val) = true) ∧ (2 ≤ wWords (s.wag.window w.val)) ∧ (wWords (s.wag.window w.val) ≤ 102) ∧ (s.wag.suppressed = []) ∧ (s.fwdPorts = []) ∧ (frameTime s.wag.guardNs 32 + frameTime s.wag.guardNs (5 * wWords (s.wag.window w.val)) ≤ wLen (s.wag.window w.val)) ∧ ((s.wag.bank w.val).length = wWords (s.wag.window w.val))) ∧
    (∃ (s : State) (w : Fin 256) (f : Bool), (s.takesFrames = true) ∧ (w.val ≠ 0) ∧ (wType (s.wag.window w.val) = 1) ∧ (wPresent (s.wag.window w.val) s.wag.mpos = true)) ∧
    (∃ (e : BitVec 256) (f : Bool), (wExpected e ≠ [])) ∧
    (∃ (s : State) (w : Fin 256) (f : Bool), (s.takesFrames = true) ∧ (w.val ≠ 0) ∧ (wType (s.wag.window w.val) = 1) ∧ (wPresent (s.wag.window w.val) s.wag.mpos = true) ∧ (judgeWindow (s.wag.window w.val) (tget {} s.wag.winRx w.val) f = .good) ∧ ((s.wag.stn (wOrigin (s.wag.window w.val))).goodRun = 1)) ∧
    (∃ (s : State) (w : Fin 256) (n : Nat) (r : Option (BitVec 24)), (w.val ≠ 0) ∧ (wType (s.wag.window w.val) = 3) ∧ (wPresent (s.wag.window w.val) s.wag.mpos = true) ∧ (0 < n) ∧ (n < wSlots s.wag.guardNs (s.wag.window w.val)) ∧ (s.canSend = true) ∧ (s.freeOffers = [])) ∧
    (∃ (s : State) (w : Fin 256) (n : Nat) (r : BitVec 24), (w.val ≠ 0) ∧ (wType (s.wag.window w.val) = 3) ∧ (wPresent (s.wag.window w.val) s.wag.mpos = true) ∧ (0 < n) ∧ (n < wSlots s.wag.guardNs (s.wag.window w.val)) ∧ (s.canSend = true) ∧ (s.freeOffers = [(0x100, .probe (s.wag.probeId + 1))]) ∧ (s.wag.suppressed = []) ∧ (0x100 * 4096 + s.station < r.toNat)) ∧
    (∃ (s : State) (w : Fin 256) (n : Nat), (w.val ≠ 0) ∧ (wType (s.wag.window w.val) = 3) ∧ (wPresent (s.wag.window w.val) s.wag.mpos = true) ∧ (0 < n) ∧ (n < wSlots s.wag.guardNs (s.wag.window w.val)) ∧ (s.canSend = true) ∧ (s.freeOffers = [(0x100, .probe (s.wag.probeId + 1))]) ∧ (s.wag.suppressed = [])) :=
  ⟨⟨sTake (gExcl 5 2), 1, by decide +kernel⟩,
    ⟨sTake (gExcl 4 2), 1, by decide +kernel⟩,
    ⟨{ sTake { gExcl 5 0 with joinDone := true, sched := [(0, BitVec.ofNat 256 (100000 + 2 ^ 32 + 2 ^ 40)), (1, BitVec.ofNat 256 (20000 + 50000 * 2 ^ 24 + 2 ^ 48 + 2 ^ 56 + 5 * 2 ^ 80 + 0xFFF * 2 ^ 96 + 0x200 * 2 ^ 112))] } with time := { tb1Lock := true } }, 1, by decide +kernel⟩,
    ⟨{ sTake { gExcl 5 2 with joinDone := true } with time := { tb1Lock := true } }, 1, by decide +kernel⟩,
    ⟨sTake (gExcl 4 2), 1, false, by decide +kernel⟩,
    ⟨2 ^ 50, true, by decide +kernel⟩,
    ⟨sTake { gExcl 4 2 with winRx := [(1, { kinds := [4, 2] })], stations := [(4, { goodRun := 1, stale := true })] }, 1, true, by decide +kernel⟩,
    ⟨sTake gFree, 1, 1, none, by decide +kernel⟩,
    ⟨sTake { gFree with lastRef := some rRef }, 1, 1, 0x200000, by decide +kernel⟩,
    ⟨sTake { gFree with lastRef := some rRef }, 1, 1, by decide +kernel⟩⟩

theorem witness_WaggleFrames :
    (∃ (s : State) (h : FrameHdr) (l : List Val40), (s.takesFrames = true) ∧ (h.crcOk = false)) ∧
    (∃ (s : State) (h : FrameHdr) (l : List Val40), (s.takesFrames = true) ∧ (h.crcOk = true) ∧ (s.frameFits h 2 = true) ∧ (h.len = max 8 (5 * l.length)) ∧ (wType (s.wag.window h.win.val) = 2) ∧ (l.length ≤ wWords (s.wag.window h.win.val)) ∧ (s.replays = false)) ∧
    (∃ (s : State) (k f : Nat) (l : List Val40) (i : Nat), (s.wag.rxMap = [(i, BitVec.ofNat 64 (k + f * 4096 + 2 ^ 24))]) ∧ (k < 4096) ∧ (f < 4096) ∧ (l ≠ [])) ∧
    (∃ (s : State) (h : FrameHdr) (x : StatusPayload), (s.takesFrames = true) ∧ (h.crcOk = true) ∧ (s.frameFits h 4 = true) ∧ (s.isHive = true) ∧ (h.src.val ≠ s.station) ∧ (s.wag.modeReq = none) ∧ ((s.wag.stn h.src.val).joined = false) ∧ (x.tb1Lock = true) ∧ (x.joinReq = false) ∧ (x.eject = false) ∧ (s.joinFault h.src.val x = none)) ∧
    (∃ (s : State) (h : FrameHdr) (x : StatusPayload), (s.takesFrames = true) ∧ (h.crcOk = true) ∧ (s.frameFits h 4 = true) ∧ (s.isHive = true) ∧ (h.src.val ≠ s.station) ∧ (s.wag.modeReq = none) ∧ ((s.wag.stn h.src.val).joined = true) ∧ (x.eject = true)) ∧
    (∃ (s : State) (h : FrameHdr) (x : StatusPayload), (s.takesFrames = false)) ∧
    (∃ (s : State) (h : FrameHdr) (i : Word) (x : Stamp), (s.takesFrames = true) ∧ (h.crcOk = true) ∧ (s.frameFits h 5 = true) ∧ (wType (s.wag.window h.win.val) = 3) ∧ (s.isHead = true) ∧ (h.dst.val = s.station)) ∧
    (∃ (s : State) (h : FrameHdr) (i : Word) (q : Fin 4096) (x y : Stamp), (s.takesFrames = true) ∧ (h.crcOk = true) ∧ (s.frameFits h 6 = true) ∧ (wType (s.wag.window h.win.val) = 3) ∧ (q.val = s.station) ∧ (s.wag.probeOut = some i) ∧ (s.wag.probes = [])) :=
  ⟨⟨sTake (gExcl 4 2), { hdrOf 2 4 10 with crcOk := false }, [1, 2], by decide +kernel⟩,
    ⟨sTake { gSched with sched := [(0, BitVec.ofNat 256 (100000 + 2 ^ 32 + 2 ^ 40)), (1, BitVec.ofNat 256 (20000 + 50000 * 2 ^ 24 + 2 * 2 ^ 48 + 2 ^ 56 + 9 * 2 ^ 96 + 2 * 2 ^ 144))], rxMap := [(7, 4 + 2 ^ 12 + 2 ^ 24)] }, hdrOf 2 4 10, [1, 2], by decide +kernel⟩,
    ⟨sTake { gSched with rxMap := [(7, 4 + 2 ^ 12 + 2 ^ 24)] }, 4, 1, [5], 7, by decide +kernel⟩,
    ⟨sWag 1 { gExcl 4 2 with link := .hive, stnTab := [(4, 1024)] }, hdrOf 4 4 32, stPay, by decide +kernel⟩,
    ⟨sWag 1 { gExcl 4 2 with link := .hive, stnTab := [(4, 1024)], stations := [(4, { joined := true })] }, hdrOf 4 4 32, { stPay with eject := true }, by decide +kernel⟩,
    ⟨sR, hdrOf 4 4 32, stPay, by decide +kernel⟩,
    ⟨sWag 1 { gFree with link := .hive }, { hdrOf 5 4 8 with dst := 5 }, 3, 77, by decide +kernel⟩,
    ⟨sTake { gFree with probeOut := some 3 }, hdrOf 6 4 16, 3, 5, 100, 900, by decide +kernel⟩⟩

theorem witness_MireTables :
    (∃ (s : State) (p : Pair) (e : Entry) (cl : List Claim) (g : BitVec 512), (s.takeLoad p 9 1 = some e) ∧ (s.roleActs = true) ∧ (s.mirrors = false) ∧ (withIndex e.first e.words512 = [(e.first, g)]) ∧ (gEn g = true) ∧ (judgeRegions s [(e.first, g)] = .ok cl)) ∧
    (∃ (s : State) (p : Pair) (e : Entry) (cl : List Claim) (g : BitVec 512), (s.takeLoad p 9 1 = some e) ∧ (s.roleActs = true) ∧ (s.mirrors = false) ∧ (withIndex e.first e.words512 = [(e.first, g)]) ∧ (gEn g = false) ∧ (judgeRegions s [(e.first, g)] = .ok cl) ∧ ((s.regRt e.first).bufs = [])) ∧
    (∃ (s : State) (p : Pair) (e : Entry) (c : Byte) (w : BitVec 64), (s.takeLoad p 9 1 = some e) ∧ (s.roleActs = true) ∧ (s.mirrors = false) ∧ (judgeRegions s (withIndex e.first e.words512) = .refused c w)) ∧
    (∃ (s : State) (p : Pair) (e : Entry), (s.takeLoad p 9 2 = some e) ∧ (s.roleActs = true) ∧ (s.mirrors = false) ∧ ((withIndex e.first e.words64).find? (fun x => decide ((s.regRt (x.1 / 32)).st ≠ .idle) && decide ((s.regRt (x.1 / 32)).st ≠ .done)) = none) ∧ ((withIndex e.first e.words64).find? (fun x => !lineOk x.2) = none)) ∧
    (∃ (s : State) (p : Pair) (e : Entry) (x : Nat × BitVec 64), (s.takeLoad p 9 2 = some e) ∧ (s.roleActs = true) ∧ (s.mirrors = false) ∧ ((withIndex e.first e.words64).find? (fun x => decide ((s.regRt (x.1 / 32)).st ≠ .idle) && decide ((s.regRt (x.1 / 32)).st ≠ .done)) = none) ∧ ((withIndex e.first e.words64).find? (fun x => !lineOk x.2) = some x)) ∧
    (∃ (s : State) (p : Pair) (e : Entry) (x : Nat × BitVec 64), (s.takeLoad p 9 2 = some e) ∧ (s.roleActs = true) ∧ (s.mirrors = false) ∧ ((withIndex e.first e.words64).find? (fun x => decide ((s.regRt (x.1 / 32)).st ≠ .idle) && decide ((s.regRt (x.1 / 32)).st ≠ .done)) = some x)) ∧
    (∃ (s : State) (p : Pair) (e : Entry), (s.takeLoad p 9 3 = some e) ∧ (s.roleActs = true) ∧ (s.mirrors = false) ∧ ((withIndex e.first e.words128).find? (fun x => !maskOk s x) = none)) ∧
    (∃ (s : State) (p : Pair) (e : Entry) (x : Nat × BitVec 128), (s.takeLoad p 9 3 = some e) ∧ (s.roleActs = true) ∧ (s.mirrors = false) ∧ ((withIndex e.first e.words128).find? (fun x => !maskOk s x) = some x)) :=
  ⟨⟨withE { sMir 9 {} with mir := { lines := [(64, 4 + 2 ^ 16)] }, regs := regSet [] 0x3838 0x40000 } { eTab 1 9 1 2 1 with data := leBytes 64 (gReg 9).toNat }, 0, { eTab 1 9 1 2 1 with data := leBytes 64 (gReg 9).toNat }, [{ id := 0x7002, rank := rankMire, num := 2 }], gReg 9, by decide +kernel⟩,
    ⟨withE sR { eTab 1 9 1 2 1 with data := leBytes 64 0 }, 0, { eTab 1 9 1 2 1 with data := leBytes 64 0 }, [], 0, by decide +kernel⟩,
    ⟨withE sR { eTab 1 9 1 2 1 with data := leBytes 64 1 }, 0, { eTab 1 9 1 2 1 with data := leBytes 64 1 }, 0x50, 2, by decide +kernel⟩,
    ⟨withE sR { eTab 1 9 2 64 1 with data := leBytes 8 (4 + 2 ^ 16) }, 0, { eTab 1 9 2 64 1 with data := leBytes 8 (4 + 2 ^ 16) }, by decide +kernel⟩,
    ⟨withE sR { eTab 1 9 2 64 1 with data := leBytes 8 4 }, 0, { eTab 1 9 2 64 1 with data := leBytes 8 4 }, (64, 4), by decide +kernel⟩,
    ⟨withE (sMir 9 { st := .armed }) { eTab 1 9 2 64 1 with data := leBytes 8 4 }, 0, { eTab 1 9 2 64 1 with data := leBytes 8 4 }, (64, 4), by decide +kernel⟩,
    ⟨withE { sR with mir := { regions := [(1, gReg 9)], lines := [(32, 1 + 4 * 16 + 2 ^ 16)] } } { eTab 1 9 3 64 1 with data := leBytes 16 (2 ^ 12 + 4) }, 0, { eTab 1 9 3 64 1 with data := leBytes 16 (2 ^ 12 + 4) }, by decide +kernel⟩,
    ⟨withE sR { eTab 1 9 3 64 1 with data := leBytes 16 (2 ^ 24) }, 0, { eTab 1 9 3 64 1 with data := leBytes 16 (2 ^ 24) }, (64, 2 ^ 24), by decide +kernel⟩⟩

theorem witness_MireCaptures :
    (∃ (s : State) (p : Pair) (e : Entry), (s.takeParam p 1 9 1 = some e) ∧ (s.roleActs = true) ∧ (s.mirrors = false) ∧ (e.value < 16) ∧ (gEn (s.region e.value) = true) ∧ ((s.regRt e.value).st = .idle ∨ (s.regRt e.value).st = .done)) ∧
    (∃ (s : State) (p : Pair) (e : Entry), (s.takeParam p 1 9 1 = some e) ∧ (s.roleActs = true) ∧ (s.mirrors = false) ∧ (e.value < 16) ∧ (gEn (s.region e.value) = false ∨ ((s.regRt e.value).st ≠ .idle ∧ (s.regRt e.value).st ≠ .done))) ∧
    (∃ (s : State) (p : Pair) (e : Entry), (s.takeParam p 1 9 3 = some e) ∧ (s.roleActs = true) ∧ (s.mirrors = false) ∧ (e.value < 16) ∧ (canForce (s.regRt e.value) = true)) ∧
    (∃ (s : State) (p : Pair) (e : Entry), (s.takeParam p 1 9 3 = some e ∨ s.takeParam p 1 9 2 = some e) ∧ (s.roleActs = true) ∧ (s.mirrors = false) ∧ (e.value < 16) ∧ (canForce (s.regRt e.value) = false)) ∧
    (∃ (s : State) (p : Pair) (e : Entry) (r : Fin 16), (s.takeParam p 1 9 2 = some e) ∧ (s.roleActs = true) ∧ (s.mirrors = false) ∧ (e.value = r.val) ∧ (gEn (s.region r.val) = true) ∧ ((List.range 16).all (fun k => decide (k = r.val) || !gEn (s.region k)) = true) ∧ ((s.regRt r.val).st = .armed) ∧ (gComb (s.region r.val) = 0) ∧ (gSpill (s.region r.val) = false) ∧ (gUrgEn (s.region r.val) = false) ∧ (gMaskStop (s.region r.val) = false) ∧ (tKind (gTrig (s.region r.val) false) = 9) ∧ (tKind (gTrig (s.region r.val) true) ≠ 9) ∧ (Int.ofNat (gPre (s.region r.val)) ≤ s.frameAt r.val (stampOf s.time.tb1.ns)) ∧ ((s.regRt r.val).count < (s.frameAt r.val (stampOf s.time.tb1.ns)).toNat + (s.regRt r.val).postEff)) ∧
    (∃ (s : State) (i : Fin 4) (v : Bool) (x : Stamp) (r : Fin 16), (gEn (s.region r.val) = true) ∧ ((List.range 16).all (fun k => decide (k = r.val) || !gEn (s.region k)) = true) ∧ ((s.regRt r.val).st = .armed) ∧ (gComb (s.region r.val) = 0) ∧ (gSpill (s.region r.val) = false) ∧ (gUrgEn (s.region r.val) = false) ∧ (gMaskStop (s.region r.val) = false) ∧ (gTrig (s.region r.val) false = 1 + 16 * i.val + (if v then 0 else 2 ^ 16)) ∧ (gTrig (s.region r.val) true = 0) ∧ (Int.ofNat (gPre (s.region r.val)) ≤ s.frameAt r.val x) ∧ ((s.regRt r.val).count < (s.frameAt r.val x).toNat + (s.regRt r.val).postEff)) ∧
    (∃ (s : State) (i : Fin 4) (v : Bool) (x : Stamp), ((List.range 16).all (fun k => !gEn (s.region k)) = true)) ∧
    (∃ (s : State) (p : Pair) (e : Entry), (s.takeOp p.val 4 1 = some e) ∧ (e.byte16 < 16) ∧ (gRing (s.region e.byte16) = p.val) ∧ ((s.regRt e.byte16).toSend = []) ∧ ((s.regRt e.byte16).st ≠ .delivering)) ∧
    (∃ (s : State) (p : Pair) (e : Entry), (s.takeOp p.val 4 1 = some e) ∧ (e.byte16 < 16) ∧ (gRing (s.region e.byte16) ≠ p.val)) ∧
    (∃ (s : State) (r : Fin 16) (b : RecBuf) (l : List RecBuf), ((s.regRt r.val).bufs = b :: l) ∧ (0 < b.flushUs) ∧ (0 < b.filled)) ∧
    (∃ (s : State) (r : Fin 16), ((s.regRt r.val).bufs = [])) ∧
    (∃ (s : State) (p : Pair) (e : Entry), (s.takeOp p.val 4 2 = some e) ∧ (e.byte16 < 16) ∧ (e.value + e.len ≤ regSize (s.region e.byte16)) ∧ ((s.regRt e.byte16).eccOff = [])) :=
  ⟨⟨withE (sMir 9 {}) (ePar 1 9 1 2), 0, ePar 1 9 1 2, by decide +kernel⟩,
    ⟨withE sR (ePar 1 9 1 2), 0, ePar 1 9 1 2, by decide +kernel⟩,
    ⟨withE (sMir 9 { st := .post }) (ePar 1 9 3 2), 0, ePar 1 9 3 2, by decide +kernel⟩,
    ⟨withE sR (ePar 1 9 3 2), 0, ePar 1 9 3 2, by decide +kernel⟩,
    ⟨withE (sMir 9 { st := .armed, postEff := 3 }) (ePar 1 9 2 2), 0, ePar 1 9 2 2, 2, by decide +kernel⟩,
    ⟨sMir 17 { st := .armed, postEff := 3 }, 1, true, 500, 2, by decide +kernel⟩,
    ⟨sR, 1, true, 500, by decide +kernel⟩,
    ⟨withE sR (eRaw 4 1 (2 * 2 ^ 128)), 0, eRaw 4 1 (2 * 2 ^ 128), by decide +kernel⟩,
    ⟨withE (sMir 9 {}) (eRaw 4 1 (2 * 2 ^ 128)), 0, eRaw 4 1 (2 * 2 ^ 128), by decide +kernel⟩,
    ⟨sMir 9 { bufs := [{ pair := 0, sub := 0, addr := 64, size := 100, flushUs := 5, filled := 7 }] }, 2, { pair := 0, sub := 0, addr := 64, size := 100, flushUs := 5, filled := 7 }, [], by decide +kernel⟩,
    ⟨sR, 2, by decide +kernel⟩,
    ⟨withE { sMir 9 {} with bog := [(3, 9)] } (eRaw 4 2 (2 * 2 ^ 128 + 4 * 2 ^ 32)), 0, eRaw 4 2 (2 * 2 ^ 128 + 4 * 2 ^ 32), by decide +kernel⟩⟩

theorem witness_TwinLinkAndImages :
    (∃ (s : State), (s.twn.partner = none)) ∧
    (∃ (s : State), (s.twn.partner.isSome = true) ∧ (s.twn.st = .forming) ∧ (s.time.tb3Stepped = false)) ∧
    (∃ (s : State), (s.twn.partner.isSome = true) ∧ (s.twn.st = .standby) ∧ (s.time.tb3Stepped = true) ∧ (s.time.tb3Lock = true)) ∧
    (∃ (s : State), (s.twn.partner.isSome = true) ∧ (s.twn.st = .holder)) ∧
    (∃ (s : State), (s.twn.linkUp = true) ∧ (s.twn.st = .standby) ∧ (s.twn.mirrored = [])) ∧
    (∃ (s : State), (s.twn.linkUp = true) ∧ (s.twn.st = .holder)) ∧
    (∃ (s : State), (s.twn.linkUp = false)) ∧
    (∃ (s : State) (q : PartnerInfo), (s.twinEn = false) ∧ (s.twn.linkUp = false)) ∧
    (∃ (s : State) (q : PartnerInfo) (n : Nat), (s.twinEn = true) ∧ (s.twn.linkUp = true) ∧ (s.twinFault q = some n)) ∧
    (∃ (s : State) (q : PartnerInfo), (s.twinEn = true) ∧ (s.twn.linkUp = true) ∧ (s.twinFault q = none) ∧ (s.twn.st = .holder)) ∧
    (∃ (s : State) (n : Word) (b : List Byte), (s.twinEn = true) ∧ (s.twn.partner.isSome = true) ∧ (s.twn.st = .unsynced) ∧ (s.twn.imageN = n.toNat) ∧ (s.twn.image ≠ [])) ∧
    (∃ (s : State) (n : Word) (b : List Byte), (s.twinEn = true) ∧ (s.twn.partner.isSome = true) ∧ (s.twn.st = .unsynced) ∧ (s.twn.image = [])) ∧
    (∃ (s : State) (n : Word) (b : List Byte), (s.twinEn = true) ∧ (s.twn.partner.isSome = true) ∧ (s.twn.st = .unsynced) ∧ (s.twn.image = [])) ∧
    (∃ (s : State) (n : Word) (l : Bool) (b : List Byte), (s.twn.st = .holder)) ∧
    (∃ (s : State), (s.hostUp = true) ∧ (s.twn.st = .holder) ∧ (s.twn.inStep = false ∨ tbit s.twn.peerHealth 2 = false)) ∧
    (∃ (s : State), (s.hostUp = true) ∧ (s.twn.st ≠ .holder ∨ (s.twn.inStep = true ∧ tbit s.twn.peerHealth 2 = true))) ∧
    (∃ (s : State) (p : Pair) (e : Entry), (s.takeLoad p 11 1 = some e) ∧ (s.roleActs = true) ∧ (s.mirrors = false) ∧ ((withIndex e.first e.words64).any (fun x => decide (fld x.2 63 49 ≠ 0) || decide (fld x.2 11 0 = s.station)) = false)) ∧
    (∃ (s : State) (p : Pair) (e : Entry), (s.takeLoad p 11 1 = some e) ∧ (s.roleActs = true) ∧ (s.mirrors = false) ∧ ((withIndex e.first e.words64).any (fun x => decide (fld x.2 63 49 ≠ 0) || decide (fld x.2 11 0 = s.station)) = true)) :=
  ⟨⟨sR, by decide +kernel⟩,
    ⟨sTwn .forming { partner := some pPeer }, by decide +kernel⟩,
    ⟨{ sTwn .standby { partner := some pPeer } with time := { tb3Stepped := true, tb3Lock := true } }, by decide +kernel⟩,
    ⟨sTwn .holder { partner := some pPeer }, by decide +kernel⟩,
    ⟨sTwn .standby { linkUp := true }, by decide +kernel⟩,
    ⟨sTwn .holder { linkUp := true }, by decide +kernel⟩,
    ⟨sR, by decide +kernel⟩,
    ⟨sR, pPeer, by decide +kernel⟩,
    ⟨sTwn .solo { linkUp := true, partner := some pPeer }, { pPeer with station := 6 }, 4, by decide +kernel⟩,
    ⟨sTwn .holder { linkUp := true }, { pPeer with station := 5 }, by decide +kernel⟩,
    ⟨sTwn .unsynced { partner := some pPeer, imageN := 5, image := [1] }, 5, [2], by decide +kernel⟩,
    ⟨sTwn .unsynced { partner := some pPeer }, 5, [2], by decide +kernel⟩,
    ⟨sTwn .unsynced { partner := some pPeer }, 5, [2], by decide +kernel⟩,
    ⟨sTwn .holder {}, 5, true, [2], by decide +kernel⟩,
    ⟨sTwn .holder {}, by decide +kernel⟩,
    ⟨sTwn .standby {}, by decide +kernel⟩,
    ⟨withE sR { eTab 1 11 1 2 1 with data := leBytes 8 9 }, 0, { eTab 1 11 1 2 1 with data := leBytes 8 9 }, by decide +kernel⟩,
    ⟨withE sR { eTab 1 11 1 2 1 with data := leBytes 8 (2 ^ 49) }, 0, { eTab 1 11 1 2 1 with data := leBytes 8 (2 ^ 49) }, by decide +kernel⟩⟩

theorem witness_LeasesAndGrants :
    (∃ (s : State), (s.asks = true) ∧ (s.pw.logic = .run)) ∧
    (∃ (s : State), (s.asks = false)) ∧
    (∃ (s : State) (h : BitVec 3) (r : Fin 4096) (m : Bool) (q : BitVec 8), (s.twn.st = .standby) ∧ (tbit h 2 = true) ∧ (r.val = s.station) ∧ (m ≠ s.member)) ∧
    (∃ (s : State) (h : BitVec 3) (r : Fin 4096) (m : Bool) (q : BitVec 8), (s.twn.st = .holder ∨ s.twn.st = .taking ∨ s.twn.st = .solo)) ∧
    (∃ (s : State) (k : Fin 16) (r : Fin 4096) (m : Bool) (q : BitVec 8), (s.witServes k.val r.val = true) ∧ ((s.wit k.val).occ = none)) ∧
    (∃ (s : State) (k : Fin 16) (r : Fin 4096) (q : BitVec 8) (o : Occupancy), (s.witServes k.val r.val = true) ∧ ((s.wit k.val).occ = some o) ∧ (o.member = false)) ∧
    (∃ (s : State) (k : Fin 16) (r : Fin 4096) (m : Bool) (q : BitVec 8), (s.witServes k.val r.val = false)) ∧
    (∃ (s : State) (h : BitVec 3) (q : BitVec 8) (x : LeaseReq), (s.twn.reqs.find? (fun r => decide (r.seq = q) && decide (s.time.t2 < r.q + 2000000)) = some x) ∧ (s.twn.peerEnd = none) ∧ (s.twn.st = .taking)) ∧
    (∃ (s : State) (h : BitVec 3) (q : BitVec 8), (s.twn.reqs.find? (fun r => decide (r.seq = q) && decide (s.time.t2 < r.q + 2000000)) = none)) ∧
    (∃ (s : State) (k : Fin 16) (q : BitVec 8) (x : LeaseReq), (s.twn.reqs.find? (fun r => decide (r.seq = q) && decide (s.time.t2 < r.q + 2000000)) = some x) ∧ (s.twn.st = .solo) ∧ (s.twinEn = true) ∧ (s.role ≠ 1)) ∧
    (∃ (s : State) (o : Occupancy), (s.twn.occ = some o) ∧ (o.th = none) ∧ (o.until_ ≤ s.time.t2)) ∧
    (∃ (s : State) (o : Occupancy) (x : Time), (s.twn.occ = some o) ∧ (o.th = some x) ∧ (sdiff x s.time.tb1.ns ≤ 0)) ∧
    (∃ (s : State) (k : Fin 16), (s.occOver s.twn.occ = false) ∧ (s.occOver (s.wit k.val).occ = false)) ∧
    (∃ (s : State) (k : Fin 16) (m : Bool) (q : BitVec 8), (s.occOver (s.wit k.val).occ = true) ∧ ((s.wit k.val).pend = some (m, q))) ∧
    (∃ (s : State) (k : Fin 16), (s.occOver (s.wit k.val).occ = true) ∧ ((s.wit k.val).pend = none)) ∧
    (∃ (s : State), (s.twn.st = .holder) ∧ (s.twn.witSilent = false) ∧ (s.twn.witHeard + 2000000 ≤ s.time.t2)) ∧
    (∃ (s : State), (s.twn.st ≠ .holder ∨ s.twn.witSilent = true ∨ s.time.t2 < s.twn.witHeard + 2000000)) :=
  ⟨⟨sTwn .solo {}, by decide +kernel⟩,
    ⟨sR, by decide +kernel⟩,
    ⟨sTwn .standby {}, 5, 5, true, 3, by decide +kernel⟩,
    ⟨sTwn .holder {}, 5, 5, true, 3, by decide +kernel⟩,
    ⟨sWit {}, 2, 9, true, 3, by decide +kernel⟩,
    ⟨sWit { witness := [(2, { occ := some { member := false, at_ := 0, until_ := 9 } })] }, 2, 9, 3, { member := false, at_ := 0, until_ := 9 }, by decide +kernel⟩,
    ⟨sR, 2, 9, true, 3, by decide +kernel⟩,
    ⟨sTwn .taking { reqs := [{ seq := 3, q := 0 }] }, 5, 3, { seq := 3, q := 0 }, by decide +kernel⟩,
    ⟨sTwn .taking {}, 5, 3, by decide +kernel⟩,
    ⟨sTwn .solo { reqs := [{ seq := 3, q := 0 }] }, 2, 3, { seq := 3, q := 0 }, by decide +kernel⟩,
    ⟨sTwn .standby { occ := some { member := true, at_ := 0, until_ := 0 } }, { member := true, at_ := 0, until_ := 0 }, by decide +kernel⟩,
    ⟨sTwn .standby { occ := some { member := true, at_ := 0, until_ := 9, th := some 0 } }, { member := true, at_ := 0, until_ := 9, th := some 0 }, 0, by decide +kernel⟩,
    ⟨sTwn .standby { occ := some { member := true, at_ := 0, until_ := 9 } }, 2, by decide +kernel⟩,
    ⟨sWit { witness := [(2, { occ := some { member := false, at_ := 0, until_ := 0 }, pend := some (true, 3) })] }, 2, true, 3, by decide +kernel⟩,
    ⟨sWit { witness := [(2, { occ := some { member := false, at_ := 0, until_ := 0 } })] }, 2, by decide +kernel⟩,
    ⟨{ sTwn .holder {} with time := { tb2 := { ns := 2000000 } } }, by decide +kernel⟩,
    ⟨sR, by decide +kernel⟩⟩

theorem witness_HandoverAndTakeover :
    (∃ (s : State), (s.hostUp = true) ∧ (s.twn.st = .holder) ∧ (s.twn.offer = none) ∧ (s.twn.inStep = true) ∧ (s.twn.linkUp = true) ∧ (tbit s.twn.peerHealth 2 = true)) ∧
    (∃ (s : State), (s.hostUp = true) ∧ (s.twn.st ≠ .holder)) ∧
    (∃ (s : State), (s.hostUp = true) ∧ (s.twn.st = .holder) ∧ (s.twn.offer = none) ∧ (s.twn.inStep = false)) ∧
    (∃ (s : State) (n : BitVec 8), (s.twn.st = .standby)) ∧
    (∃ (s : State) (n : BitVec 8), (s.twn.st ≠ .standby)) ∧
    (∃ (s : State) (n : BitVec 8) (k : Nat), (s.twn.st = .holder) ∧ (s.twn.offer = some k) ∧ (k % 256 = n.toNat) ∧ (s.cmb.n < k)) ∧
    (∃ (s : State) (n : BitVec 8) (k : Nat), (s.twn.st = .holder) ∧ (s.twn.offer = some k) ∧ (k % 256 ≠ n.toNat ∨ k ≤ s.cmb.n)) ∧
    (∃ (s : State), (s.twn.st = .holder) ∧ (s.twn.offer.isSome = true) ∧ (s.twn.accepted = false) ∧ (s.twn.why = .host)) ∧
    (∃ (s : State), (s.twn.offer = none ∨ s.twn.accepted = true)) ∧
    (∃ (s : State) (h : BitVec 3) (m : Bool) (n : BitVec 8) (o : Occupancy), (s.twn.occ = some o) ∧ (o.member = m) ∧ (s.twn.accepted = false)) ∧
    (∃ (s : State) (k : Fin 16) (m : Bool) (n : BitVec 8) (o : Occupancy), ((s.wit k.val).occ = some o) ∧ (o.member = m)) ∧
    (∃ (s : State) (x : Time), (s.twn.fieldActUntil = none) ∧ (s.twn.actUntil = some x) ∧ (0 ≤ sdiff s.time.tb1.ns x) ∧ (s.twn.st = .holder) ∧ (s.twn.changes = [])) ∧
    (∃ (s : State) (x : Time), (s.twn.fieldActUntil = none) ∧ (s.twn.actUntil = some x) ∧ (sdiff s.time.tb1.ns x < 0)) ∧
    (∃ (s : State), (s.twn.st = .taking) ∧ (s.twn.occ = none) ∧ (s.mayAct = true) ∧ (s.role ≠ 1) ∧ (s.twn.mirrored = [])) ∧
    (∃ (s : State), (s.mayAct = false ∨ s.twn.occ.isSome = true)) :=
  ⟨⟨sTwn .holder { inStep := true, linkUp := true, peerHealth := 4 }, by decide +kernel⟩,
    ⟨sTwn .standby {}, by decide +kernel⟩,
    ⟨sTwn .holder {}, by decide +kernel⟩,
    ⟨sTwn .standby {}, 7, by decide +kernel⟩,
    ⟨sTwn .holder {}, 7, by decide +kernel⟩,
    ⟨sTwn .holder { offer := some 7 }, 7, 7, by decide +kernel⟩,
    ⟨sTwn .holder { offer := some 7 }, 6, 7, by decide +kernel⟩,
    ⟨sTwn .holder { offer := some 7 }, by decide +kernel⟩,
    ⟨sR, by decide +kernel⟩,
    ⟨sTwn .standby { occ := some { member := true, at_ := 0, until_ := 9 } }, 5, true, 7, { member := true, at_ := 0, until_ := 9 }, by decide +kernel⟩,
    ⟨sWit { witness := [(2, { occ := some { member := true, at_ := 0, until_ := 9 } })] }, 2, true, 7, { member := true, at_ := 0, until_ := 9 }, by decide +kernel⟩,
    ⟨sTwn .holder { actUntil := some 0 }, 0, by decide +kernel⟩,
    ⟨sTwn .holder { actUntil := some 1000 }, 1000, by decide +kernel⟩,
    ⟨sTwn .taking { peerEnd := some 1000000 }, by decide +kernel⟩,
    ⟨sTwn .taking {}, by decide +kernel⟩⟩

theorem witness_TwinChangesAndReplay :
    (∃ (s : State) (n : Word) (f : Bool) (l : List SnapRecord), (s.replays = true)) ∧
    (∃ (s : State) (n : Word) (f : Bool) (l : List SnapRecord), (s.replays = true)) ∧
    (∃ (s : State) (n : Word) (f : Bool) (l : List SnapRecord) (b : Bool), (s.replays = false)) ∧
    (∃ (s : State) (n h : Word), (s.twn.st = .holder) ∧ (s.twn.hashes = [(n.toNat, h)])) ∧
    (∃ (s : State) (n h k : Word), (s.twn.st = .holder) ∧ (s.twn.hashes = [(n.toNat, k)]) ∧ (k ≠ h)) ∧
    (∃ (s : State) (q n : Word) (d x : List Byte), (s.replays = true)) ∧
    (∃ (s : State) (q : Word) (c : TwinChange), (s.twn.changes = [c]) ∧ (c.seq = q) ∧ (c.acked = false) ∧ (s.cmb.n < c.eff)) ∧
    (∃ (s : State) (q : Word) (c : TwinChange), (s.twn.changes = [c]) ∧ (c.seq = q) ∧ (c.eff ≤ s.cmb.n) ∧ ((s.pairRt c.pair.val).entries = [])) ∧
    (∃ (s : State) (q : Word) (c : TwinChange) (e : Entry), (s.twn.changes = [c]) ∧ (c.seq = q) ∧ (c.eff ≤ s.cmb.n) ∧ ((s.pairRt c.pair.val).entries = [e]) ∧ (e.sub = c.sub) ∧ (e.stage = .mirrored)) ∧
    (∃ (s : State) (q : Word), (s.twn.changes = [])) ∧
    (∃ (s : State) (q : Word) (c : TwinChange), (s.twn.changes = [c]) ∧ (c.seq = q) ∧ (c.acked = false) ∧ (s.cmb.n < c.eff)) ∧
    (∃ (s : State), (s.twn.st = .standby) ∧ (s.time.tb3Lock = false)) ∧
    (∃ (s : State), (s.twn.st = .standby) ∧ (s.time.tb3Lock = true) ∧ (s.twn.recordsOf s.twn.replayN = none)) ∧
    (∃ (s : State), (s.twn.st = .standby) ∧ (s.time.tb3Lock = true) ∧ (s.twn.recordsOf s.twn.replayN = some []) ∧ (s.twn.mirrored = []) ∧ (s.stp = {}) ∧ (s.cmb.rt = []) ∧ (s.cmb.slots = [])) ∧
    (∃ (s : State), (s.replays = false)) :=
  ⟨⟨sTwn .standby {}, 5, true, [], by decide +kernel⟩,
    ⟨sTwn .standby {}, 5, true, [], by decide +kernel⟩,
    ⟨sTwn .holder {}, 5, true, [], true, by decide +kernel⟩,
    ⟨sTwn .holder { hashes := [(5, 6)] }, 5, 6, by decide +kernel⟩,
    ⟨sTwn .holder { hashes := [(5, 6)] }, 5, 7, 6, by decide +kernel⟩,
    ⟨sTwn .standby {}, 5, 6, [1], [2], by decide +kernel⟩,
    ⟨sTwn .holder { changes := [{ seq := 5, pair := 0, sub := 0, eff := 7 }] }, 5, { seq := 5, pair := 0, sub := 0, eff := 7 }, by decide +kernel⟩,
    ⟨sTwn .holder { changes := [{ seq := 5, pair := 0, sub := 0, eff := 0 }] }, 5, { seq := 5, pair := 0, sub := 0, eff := 0 }, by decide +kernel⟩,
    ⟨withE (sTwn .solo { changes := [{ seq := 5, pair := 0, sub := 0, eff := 0 }] }) { eTab 1 10 1 10 1 with stage := .mirrored, data := leBytes 8 5 }, 5, { seq := 5, pair := 0, sub := 0, eff := 0 }, { eTab 1 10 1 10 1 with stage := .mirrored, data := leBytes 8 5 }, by decide +kernel⟩,
    ⟨sTwn .holder {}, 5, by decide +kernel⟩,
    ⟨sTwn .holder { inStep := true, changes := [{ seq := 5, pair := 0, sub := 0, eff := 7 }] }, 5, { seq := 5, pair := 0, sub := 0, eff := 7 }, by decide +kernel⟩,
    ⟨sTwn .standby {}, by decide +kernel⟩,
    ⟨{ sTwn .standby {} with time := { tb3Lock := true } }, by decide +kernel⟩,
    ⟨{ sTwn .standby { snaps := [(0, true, [])] } with time := { tb3Lock := true } }, by decide +kernel⟩,
    ⟨sTwn .holder {}, by decide +kernel⟩⟩

theorem witness_SafetyInputsAndSeal :
    (∃ (s : State) (v : BitVec 16), (v = s.saf.sealNow)) ∧
    (∃ (s : State) (v : BitVec 16), (v ≠ s.saf.sealNow) ∧ (s.pw.fieldUp = false)) ∧
    (∃ (s : State) (v : BitVec 16), (v ≠ s.saf.sealNow) ∧ (s.pw.fieldUp = true) ∧ (s.saf.fgVerified = true) ∧ (fld v 14 0 ≠ fld s.saf.sealRead 14 0)) ∧
    (∃ (s : State) (i : Fin 4) (b c : Bool), (s.pw.fieldUp = false)) ∧
    (∃ (s : State) (i : Fin 4) (w : BitVec 128), (s.pw.fieldUp = true) ∧ (s.saf.fgVerified = true) ∧ (s.saf.sinRow i.val = some w) ∧ ((s.saf.sinRt i.val).st = .ok) ∧ ((s.saf.sinRt i.val).aClosed = true)) ∧
    (∃ (s : State) (i : Fin 4) (w : BitVec 128), (s.pw.fieldUp = true) ∧ (s.saf.fgVerified = true) ∧ (s.saf.sinRow i.val = some w) ∧ ((s.saf.sinRt i.val).st = .demand) ∧ ((s.saf.sinRt i.val).bothShown = true) ∧ (sinB (rowOp w 5 1) (s.saf.sinRt i.val).bClosed = false) ∧ ((s.saf.sinRt i.val).aClosed = false)) ∧
    (∃ (s : State) (i : Fin 4) (w : BitVec 128), (s.pw.fieldUp = true) ∧ (s.saf.fgVerified = true) ∧ (s.saf.sinRow i.val = some w) ∧ ((s.saf.sinRt i.val).st = .demand) ∧ ((s.saf.sinRt i.val).bothShown = false) ∧ (sinB (rowOp w 5 1) (s.saf.sinRt i.val).bClosed = false) ∧ ((s.saf.sinRt i.val).aClosed = false)) ∧
    (∃ (s : State) (i : Fin 4), ((s.saf.sinRt i.val).st = .demand) ∧ ((s.saf.sinRt i.val).waiting = true)) ∧
    (∃ (s : State) (i : Fin 4), ((s.saf.sinRt i.val).st ≠ .demand ∨ (s.saf.sinRt i.val).waiting = false)) ∧
    (∃ (s : State) (b : Bool) (f : BitVec 8), (s.pw.fieldUp = false ∨ s.saf.fgVerified = false)) ∧
    (∃ (s : State) (f : BitVec 8), (∀ i : Fin 4, ((s.saf.sinRt i.val).aClosed = true → tbit f (2 * i.val) = true) ∧ tbit f (2 * i.val + 1) = false)) ∧
    (∃ (s : State) (i : Fin 4) (f : BitVec 8) (w : BitVec 128), (s.pw.fieldUp = true) ∧ (s.saf.fgVerified = true) ∧ (s.saf.sinRow i.val = some w) ∧ ((s.saf.sinRt i.val).st ≠ .discrepancy) ∧ ((s.saf.sinRt i.val).aClosed = true) ∧ (tbit f (2 * i.val) = false)) :=
  ⟨⟨sR, 0, by decide +kernel⟩,
    ⟨sR, 16, by decide +kernel⟩,
    ⟨sRows [], 16, by decide +kernel⟩,
    ⟨sR, 1, true, true, by decide +kernel⟩,
    ⟨sSin { aClosed := true, bClosed := true, st := .ok }, 1, (mkRow (wSin 1 0 12)), by decide +kernel⟩,
    ⟨sSin { bClosed := true, bothShown := true }, 1, (mkRow (wSin 1 0 12)), by decide +kernel⟩,
    ⟨sSin { bClosed := true, waiting := true }, 1, (mkRow (wSin 1 0 12)), by decide +kernel⟩,
    ⟨sSin { bClosed := true, waiting := true }, 1, by decide +kernel⟩,
    ⟨sR, 1, by decide +kernel⟩,
    ⟨sR, true, 0, by decide +kernel⟩,
    ⟨sSin { aClosed := true, bClosed := true, st := .ok }, 4, by decide +kernel⟩,
    ⟨sSin { aClosed := true, bClosed := true, st := .ok }, 1, 0, (mkRow (wSin 1 0 12)), by decide +kernel⟩⟩

theorem witness_SafetyGroupsAndRestart :
    (∃ (s : State), (s.pw.fieldUp = false ∨ s.saf.fgVerified = true)) ∧
    (∃ (s : State), (s.pw.fieldUp = true) ∧ (s.saf.fgVerified = false)) ∧
    (∃ (s : State) (p : Bool) (n : BitVec 8), (s.pw.fieldUp = false)) ∧
    (∃ (s : State) (n : BitVec 8), (s.pw.fieldUp = true) ∧ (s.saf.guardFault = false)) ∧
    (∃ (s : State) (n : BitVec 8), (s.pw.fieldUp = true)) ∧
    (∃ (s : State) (o : Fin 48) (n : BitVec 8), (s.pw.fieldUp = true)) ∧
    (∃ (s : State), (s.pw.fieldUp = false ∨ s.saf.guardRun = false ∨ s.saf.guardFault = true)) ∧
    (∃ (s : State) (g : Fin 16), (s.pw.fieldUp = true) ∧ (s.saf.guardRun = true) ∧ (s.saf.guardFault = false) ∧ ((s.saf.group g.val).guardPermit = false) ∧ ((s.saf.group g.val).guard.any = false) ∧ (s.saf.matchedAll g.val = true) ∧ (s.saf.manual g.val = false)) ∧
    (∃ (s : State) (g : Fin 16), (s.pw.fieldUp = true) ∧ (s.saf.guardRun = true) ∧ (s.saf.guardFault = false) ∧ ((s.saf.group g.val).guardPermit = false) ∧ ((s.saf.group g.val).guard.any = false) ∧ (s.saf.matchedAll g.val = true) ∧ (s.saf.manual g.val = true)) ∧
    (∃ (s : State) (g : Fin 16), ((s.saf.group g.val).guardPermit = true ∨ (s.saf.group g.val).guard.any = true ∨ s.saf.matchedAll g.val = false)) ∧
    (∃ (s : State) (g : Fin 16), (s.pw.fieldUp = false)) ∧
    (∃ (s : State) (g : Fin 16), (s.pw.fieldUp = true)) ∧
    (∃ (s : State) (g : Fin 16) (n : Nat), (n < 100 ∨ 5000 < n)) ∧
    (∃ (s : State) (g : Fin 16) (n : Nat), (({ (s.saf.group g.val).guard with disagree := false } : Demand).any = true ∨ s.saf.matchedAll g.val = false ∨ ((s.saf.group g.val).guard.disagree = true ∧ ({ (s.saf.group g.val).fg with disagree := false } : Demand).any = true))) ∧
    (∃ (s : State) (g : Fin 16) (n : Nat), (s.pw.fieldUp = true) ∧ (s.saf.guardRun = true) ∧ (s.saf.guardFault = false) ∧ (100 ≤ n) ∧ (n ≤ 5000) ∧ ((s.saf.group g.val).guardPermit = false) ∧ (({ (s.saf.group g.val).guard with disagree := false } : Demand).any = false) ∧ (s.saf.matchedAll g.val = true) ∧ ((s.saf.manual g.val = true ∧ (s.saf.group g.val).guard.disagree = false) ∨ ((s.saf.group g.val).guard.disagree = true ∧ ({ (s.saf.group g.val).fg with disagree := false } : Demand).any = false))) :=
  ⟨⟨sR, by decide +kernel⟩,
    ⟨sF, by decide +kernel⟩,
    ⟨sR, true, 3, by decide +kernel⟩,
    ⟨sF, 3, by decide +kernel⟩,
    ⟨sRows [], 3, by decide +kernel⟩,
    ⟨sRows [], 3, 3, by decide +kernel⟩,
    ⟨sR, by decide +kernel⟩,
    ⟨sGrp { guard := {} }, 2, by decide +kernel⟩,
    ⟨let s := sGrp { guard := {} }; { s with saf := { s.saf with sealRead := 32 } }, 2, by decide +kernel⟩,
    ⟨sGrp {}, 2, by decide +kernel⟩,
    ⟨sR, 2, by decide +kernel⟩,
    ⟨sGrp { guard := {}, fg := {}, guardPermit := true, fgPermit := true }, 2, by decide +kernel⟩,
    ⟨sGrp { guard := {} }, 2, 99, by decide +kernel⟩,
    ⟨sGrp { guard := { localIn := true } }, 2, 99, by decide +kernel⟩,
    ⟨sGrp { guard := { disagree := true }, fg := { disagree := true } }, 2, 100, by decide +kernel⟩⟩

theorem witness_SafetyFramesOnTwoPaths :
    (∃ (s : State) (b : List Byte) (f : Bool), (s.pw.fieldUp = false)) ∧
    (∃ (s : State) (b : List Byte), (s.pw.fieldUp = true) ∧ (s.saf.pairBad + 1 ≠ 16)) ∧
    (∃ (s : State) (b : List Byte), (s.pw.fieldUp = true) ∧ (s.saf.pairBad = 15)) ∧
    (∃ (s : State) (b : List Byte), (s.pw.fieldUp = true) ∧ (s.saf.fgVerified = true) ∧ (sealRemote s.saf.sealRead = true) ∧ (b.length = 32) ∧ (s.saf.hears (leAt b 12 2) = true) ∧ (leAt b 28 4 = scrc (leAt b 12 2) b) ∧ (advances (s.saf.rem (leAt b 12 2)).pairScnt (copyScnt b) = true)) ∧
    (∃ (s : State) (b : List Byte), (s.pw.fieldUp = true) ∧ (s.saf.fgVerified = true) ∧ (sealRemote s.saf.sealRead = true) ∧ (b.length = 32) ∧ (s.saf.hears (leAt b 12 2) = true) ∧ (leAt b 28 4 = scrc (leAt b 12 2) b) ∧ (advances (s.saf.rem (leAt b 12 2)).pairScnt (copyScnt b) = true) ∧ ((s.saf.rem (leAt b 12 2)).wagScnt = some (copyScnt b)) ∧ ((s.saf.rem (leAt b 12 2)).wagCopy = b) ∧ (advances (s.saf.rem (leAt b 12 2)).faultAt (copyScnt b) = true)) ∧
    (∃ (s : State) (b : List Byte), (s.pw.fieldUp = true) ∧ (s.saf.fgVerified = true) ∧ (sealRemote s.saf.sealRead = true) ∧ (b.length = 32) ∧ (s.saf.hears (leAt b 12 2) = true) ∧ (leAt b 28 4 = scrc (leAt b 12 2) b) ∧ (advances (s.saf.rem (leAt b 12 2)).pairScnt (copyScnt b) = true) ∧ ((s.saf.rem (leAt b 12 2)).wagScnt = some (copyScnt b)) ∧ ((s.saf.rem (leAt b 12 2)).wagCopy ≠ b)) ∧
    (∃ (s : State) (h : FrameHdr) (b : List Byte), (s.takesFrames = false)) ∧
    (∃ (s : State) (h : FrameHdr) (b : List Byte), (s.takesFrames = true) ∧ (leAt b 12 2 ≠ h.src.val)) ∧
    (∃ (s : State) (h : FrameHdr) (b : List Byte), (s.takesFrames = true) ∧ ((s.takeFrame h 3).2 = true) ∧ (leAt b 12 2 = h.src.val)) ∧
    (∃ (s : State) (b : List Byte) (r : List DownItem), (s.fio.down = .guardCopy b :: r) ∧ (s.pw.fieldUp = true) ∧ (s.saf.fgVerified = true) ∧ (sealRemote s.saf.sealRead = true) ∧ (b.length = 32) ∧ (s.saf.hears (leAt b 12 2) = true) ∧ (leAt b 28 4 = scrc (leAt b 12 2) b) ∧ (advances (s.saf.rem (leAt b 12 2)).wagScnt (copyScnt b) = true)) ∧
    (∃ (s : State) (k : Fin 4096) (m : SafetyPath), (s.pw.fieldUp = false ∨ s.saf.hears k.val = false)) ∧
    (∃ (s : State) (k : Fin 4096) (m : SafetyPath) (g : Fin 16), (s.pw.fieldUp = true) ∧ (s.saf.hears k.val = true) ∧ ((s.saf.remoteRows g.val).any (fun x => decide (x.1 = k.val)) = true)) ∧
    (∃ (s : State) (k : Fin 4096) (g : Fin 16), (s.pw.fieldUp = true) ∧ (s.saf.hears k.val = true) ∧ ((s.saf.remoteRows g.val).any (fun x => decide (x.1 = k.val)) = true)) ∧
    (∃ (s : State) (k : Fin 4096) (g : Fin 16), (s.pw.fieldUp = true) ∧ (s.saf.hears k.val = true) ∧ ((s.saf.remoteRows g.val).any (fun x => decide (x.1 = k.val)) = true)) ∧
    (∃ (s : State), (s.saf.guardRun = false ∨ sealRemote s.saf.sealRead = false ∨ s.pw.logicAbsent = true)) ∧
    (∃ (s : State) (w : Nat), (s.pw.fieldUp = true) ∧ (s.pw.logicAbsent = false) ∧ (s.saf.guardRun = true) ∧ (sealRemote s.saf.sealRead = true) ∧ (s.safetyWindow = some w)) ∧
    (∃ (s : State), (s.safetyWindow = none)) :=
  ⟨⟨sR, [], true, by decide +kernel⟩,
    ⟨sF, [], by decide +kernel⟩,
    ⟨{ sF with saf := { sF.saf with pairBad := 15, pairUp := true } }, [], by decide +kernel⟩,
    ⟨sRem {}, (copyOf 4 9 0), by decide +kernel⟩,
    ⟨sRem { wagScnt := some 9, wagCopy := copyOf 4 9 0, absence := true }, (copyOf 4 9 0), by decide +kernel⟩,
    ⟨sRem { wagScnt := some 9, wagCopy := copyOf 4 9 0, absence := true }, (copyOf 4 9 2), by decide +kernel⟩,
    ⟨sR, hdrOf 3 4 32, (copyOf 4 9 0), by decide +kernel⟩,
    ⟨sSafe {} 4, hdrOf 3 4 32, List.replicate 32 0, by decide +kernel⟩,
    ⟨sSafe {} 4, hdrOf 3 4 32, (copyOf 4 9 0), by decide +kernel⟩,
    ⟨let s := sSafe {} 4; { s with fio := { s.fio with down := [.guardCopy (copyOf 4 9 0)] } }, (copyOf 4 9 0), [], by decide +kernel⟩,
    ⟨sR, 4, .pair, by decide +kernel⟩,
    ⟨sRem {}, 4, .pair, 2, by decide +kernel⟩,
    ⟨sRem {}, 4, 2, by decide +kernel⟩,
    ⟨sRem {}, 4, 2, by decide +kernel⟩,
    ⟨sR, by decide +kernel⟩,
    ⟨sSafe {} 5, 1, by decide +kernel⟩,
    ⟨sR, by decide +kernel⟩⟩

theorem witness_ServicePortAndTokens :
    (∃ (s : State) (q : Word) (o : Nat) (b : List Byte) (f : Bool) (w : BitVec 8) (x : Word) (n : Nat) (l : List ExpectEntry), (s.serves = false)) ∧
    (∃ (s : State) (q : Word) (r : Response) (o : Nat) (b : List Byte) (f : Bool) (w : BitVec 8) (x : Word) (n : Nat) (l : List ExpectEntry), (s.serves = true) ∧ (s.lcy.takesSeq q = false) ∧ (s.lcy.lastResp = some r)) ∧
    (∃ (s : State) (q : Word), (s.serves = true) ∧ (s.lcy.takesSeq q = true)) ∧
    (∃ (s : State) (q : Word) (o : Nat) (b : List Byte), (s.serves = true) ∧ (s.lcy.takesSeq q = true) ∧ (o + b.length ≤ 2 ^ 28)) ∧
    (∃ (s : State) (q : Word) (o : Nat) (b : List Byte), (s.serves = true) ∧ (s.lcy.takesSeq q = true) ∧ (2 ^ 28 < o + b.length)) ∧
    (∃ (s : State) (q : Word), (s.serves = true) ∧ (s.lcy.takesSeq q = true)) ∧
    (∃ (s : State) (q : Word), (s.serves = true) ∧ (s.lcy.takesSeq q = true)) ∧
    (∃ (s : State) (q x : Word) (n : Nat), (s.serves = true) ∧ (s.lcy.takesSeq q = true) ∧ (1 ≤ n) ∧ (n ≤ 60)) ∧
    (∃ (s : State) (q x : Word) (w : BitVec 8) (n : Nat), (s.serves = true) ∧ (s.lcy.takesSeq q = true) ∧ (2 ≤ w.toNat)) ∧
    (∃ (s : State) (q : Word) (e : ExpectEntry), (s.serves = true) ∧ (s.lcy.takesSeq q = true) ∧ (e.view ≠ 3) ∧ (s.lcy.st ≠ .return_) ∧ (s.lcy.st ≠ .end_)) ∧
    (∃ (s : State) (q : Word) (l : List ExpectEntry), (s.serves = true) ∧ (s.lcy.takesSeq q = true) ∧ (s.lcy.st = .return_ ∨ s.lcy.st = .end_)) ∧
    (∃ (s : State) (q : Word) (b : List Byte), (s.serves = true) ∧ (s.lcy.takesSeq q = true) ∧ (tokenOp (slice b 0 64) = none)) ∧
    (∃ (s : State) (q : Word) (b k g : List Byte), (s.serves = true) ∧ (s.lcy.takesSeq q = true) ∧ (s.lcy.st = .maker) ∧ (s.lcy.makerKeys = [k]) ∧ (s.lcy.minSig = false) ∧ (s.lcy.nonceLive = true) ∧ (64 ≤ b.length) ∧ (leAt (slice b 0 64) 0 4 = 0x4E4B5458) ∧ (leAt (slice b 0 64) 4 1 = 2) ∧ (leAt (slice b 0 64) 5 1 = 1) ∧ (leAt (slice b 0 64) 7 1 = 0) ∧ (leAt (slice b 0 64) 8 8 = fld s.pw.serial 63 0) ∧ (leAt (slice b 0 64) 16 16 = s.lcy.nonce.toNat) ∧ (tokenParts false b = some ([], g)) ∧ (k.length = (if g.length = 2420 then 1312 else 1952))) :=
  ⟨⟨sH, 5, 5, [], true, 0, 5, 5, [], by decide +kernel⟩,
    ⟨sLcy { lastSeq := some 3, lastResp := some { op := 1, code := 0, seq := 3, payload := [] } }, 3, { op := 1, code := 0, seq := 3, payload := [] }, 0, [], true, 0, 5, 5, [], by decide +kernel⟩,
    ⟨sR, 5, by decide +kernel⟩,
    ⟨sR, 5, 0, [1, 2], by decide +kernel⟩,
    ⟨sR, 5, 2 ^ 28, [1, 2], by decide +kernel⟩,
    ⟨sR, 5, by decide +kernel⟩,
    ⟨sR, 5, by decide +kernel⟩,
    ⟨sR, 5, 5, 1, by decide +kernel⟩,
    ⟨sR, 5, 5, 2, 1, by decide +kernel⟩,
    ⟨sR, 5, { station := 4, view := 2 }, by decide +kernel⟩,
    ⟨sLcy { st := .end_ }, 5, [], by decide +kernel⟩,
    ⟨sR, 5, [], by decide +kernel⟩,
    ⟨sLcy { makerKeys := [List.replicate 1312 0], nonceLive := true }, 5, tDbg, List.replicate 1312 0, List.replicate 2420 0, by decide +kernel⟩⟩

theorem witness_InstallAndActivation :
    (∃ (s : State) (q : Word), (s.serves = true) ∧ (s.lcy.takesSeq q = true) ∧ (s.lcy.st = .end_)) ∧
    (∃ (s : State) (q : Word), (s.serves = true) ∧ (s.lcy.takesSeq q = true) ∧ (s.lcy.st ≠ .end_)) ∧
    (∃ (s : State) (q : Word), (s.serves = true) ∧ (s.lcy.takesSeq q = true) ∧ (s.lcy.st ≠ .end_) ∧ (s.pkgOk s.lcy.package = false)) ∧
    (∃ (s : State), (s.lcy.job = none)) ∧
    (∃ (s : State) (j : InstallJob) (c : Byte), (s.lcy.job = some j) ∧ (j.fieldBad = some c)) ∧
    (∃ (s : State) (j : InstallJob) (t : Nat), (s.lcy.job = some j) ∧ (j.fieldBad = none) ∧ (j.fieldParts.contains t = true) ∧ (j.fieldOk.contains t = false)) ∧
    (∃ (s : State) (j : InstallJob), (s.lcy.job = some j) ∧ (j.fieldBad = none) ∧ (j.fieldParts.all (fun t => j.fieldOk.contains t) = true)) ∧
    (∃ (s : State) (j : InstallJob) (k : Nat) (b : List Byte) (r : List DownItem), (s.fio.down = .update k b :: r) ∧ (s.pw.fieldUp = true) ∧ (s.lcy.job = some j)) ∧
    (∃ (s : State) (q : Word) (f : Bool), (s.serves = true) ∧ (s.lcy.takesSeq q = true) ∧ (s.lcy.st = .end_)) ∧
    (∃ (s : State) (q : Word) (f : Bool), (s.serves = true) ∧ (s.lcy.takesSeq q = true) ∧ (s.lcy.st ≠ .end_) ∧ (s.lcy.installed = false)) ∧
    (∃ (s : State) (q : Word) (f : Bool), (s.serves = true) ∧ (s.lcy.takesSeq q = true) ∧ (s.lcy.st ≠ .end_) ∧ (s.lcy.installed = true) ∧ (s.updRefused ≠ 0)) ∧
    (∃ (s : State) (q : Word) (f : Bool), (s.serves = true) ∧ (s.lcy.takesSeq q = true) ∧ (s.lcy.st ≠ .end_) ∧ (s.lcy.installed = true) ∧ (s.updRefused = 0) ∧ (s.twn.st ≠ .holder)) ∧
    (∃ (s : State) (q : Word) (f : Bool), (s.serves = true) ∧ (s.lcy.takesSeq q = true) ∧ (s.lcy.st ≠ .end_) ∧ (s.lcy.installed = true) ∧ (s.updRefused = 0) ∧ (s.twn.st = .holder) ∧ (s.twn.offer = none) ∧ (s.twn.inStep = false)) ∧
    (∃ (s : State), (s.lcy.activating = false ∨ s.lcy.installed = false ∨ s.twn.st = .holder)) ∧
    (∃ (s : State), (s.lcy.activating = true) ∧ (s.lcy.installed = true) ∧ (s.twn.st ≠ .holder) ∧ (fieldDiffers s.lcy.active s.lcy.inactive = true) ∧ (s.lcy.fieldRst = false) ∧ (s.twn.fieldMember = false) ∧ (s.pw.variantL = false)) ∧
    (∃ (s : State), (s.lcy.activating = true) ∧ (s.lcy.installed = true) ∧ (s.twn.st ≠ .holder) ∧ (fieldDiffers s.lcy.active s.lcy.inactive = false) ∧ (tget [] s.lcy.inactive.images 5 = tget [] s.lcy.active.images 5) ∧ (s.lcy.inactive.rules = false) ∧ (s.updRefused = 0)) :=
  ⟨⟨sLcy { st := .end_ }, 5, by decide +kernel⟩,
    ⟨sR, 5, by decide +kernel⟩,
    ⟨sR, 5, by decide +kernel⟩,
    ⟨sR, by decide +kernel⟩,
    ⟨sLcy { job := some { manifest := [], sigs := [], act := aNew, hashes := [], fieldBad := some 0xA1 } }, { manifest := [], sigs := [], act := aNew, hashes := [], fieldBad := some 0xA1 }, 0xA1, by decide +kernel⟩,
    ⟨sLcy { job := some { manifest := [], sigs := [], act := aNew, hashes := [(4, 0)] } }, { manifest := [], sigs := [], act := aNew, hashes := [(4, 0)] }, 4, by decide +kernel⟩,
    ⟨sLcy { job := some { manifest := [], sigs := [], act := aNew, hashes := [] } }, { manifest := [], sigs := [], act := aNew, hashes := [] }, by decide +kernel⟩,
    ⟨{ sF with fio := { down := [.update 4 [1]] }, lcy := { sF.lcy with job := some { manifest := [], sigs := [], act := aNew, hashes := [] } } }, { manifest := [], sigs := [], act := aNew, hashes := [] }, 4, [1], [], by decide +kernel⟩,
    ⟨sLcy { st := .end_ }, 5, true, by decide +kernel⟩,
    ⟨sR, 5, true, by decide +kernel⟩,
    ⟨{ sLcy { installed := true } with regs := regSet [] 0xF100 15, pw := { sR.pw with holdupLow := true } }, 5, true, by decide +kernel⟩,
    ⟨sLcy { installed := true }, 5, true, by decide +kernel⟩,
    ⟨{ sTwn .holder {} with lcy := { st := .ownerOpen, installed := true } }, 5, true, by decide +kernel⟩,
    ⟨sR, by decide +kernel⟩,
    ⟨sLcy { activating := true, installed := true, slots := [(1, { aNew with images := [(4, [1])] })] }, by decide +kernel⟩,
    ⟨sLcy { activating := true, installed := true, slots := [(1, aNew)] }, by decide +kernel⟩⟩

theorem witness_PeatLedger :
    (∃ (s : State) (x : LedgerInputs), (s.pw.peatLost = true)) ∧
    (∃ (s : State) (x : LedgerInputs), (s.pw.peatLost = false) ∧ (s.peat.causes = 0) ∧ ((s.countSecond.sampleItems x).snapshotDue = false)) ∧
    (∃ (s : State) (x : LedgerInputs) (i : Fin 8), (s.pw.peatLost = false) ∧ (s.peat.causes = 0) ∧ ((s.countSecond.sampleItems x).snapshotDue = false)) ∧
    (∃ (s : State) (x : LedgerInputs), (s.pw.peatLost = false) ∧ (s.peat.causes ≠ 0) ∧ (s.peatMain = true)) ∧
    (∃ (s : State), (s.peatMain = false)) ∧
    (∃ (s : State), (s.peatMain = true) ∧ (s.peat.causes = 0)) ∧
    (∃ (s : State) (a b : LedgerRec), (s.peatMain = true) ∧ (s.peat.causes = 0) ∧ (s.peat.live0 = some a) ∧ (s.peat.live1 = some b)) ∧
    (∃ (s : State), (s.peatMain = true) ∧ (s.peat.causes ≠ 0)) :=
  ⟨⟨{ sR with pw := { sR.pw with peatLost := true } }, { items := [] }, by decide +kernel⟩,
    ⟨sR, { items := [] }, by decide +kernel⟩,
    ⟨sR, { items := [some 1, some 2, some 3, some 4, some 5] }, 2, by decide +kernel⟩,
    ⟨{ sF with peat := { causes := 8 } }, { items := [] }, by decide +kernel⟩,
    ⟨sR, by decide +kernel⟩,
    ⟨sF, by decide +kernel⟩,
    ⟨{ sF with peat := { live0 := some { commits := 3 }, live1 := some { commits := 4 } } }, { commits := 3 }, { commits := 4 }, by decide +kernel⟩,
    ⟨{ sF with peat := { causes := 8 } }, by decide +kernel⟩⟩

theorem witness_FrontCommandRuns :
    ∃ (s : State), (s.pending = []) :=
  ⟨State.reset, by decide +kernel⟩

theorem witness_TickAdvancesTheBases :
    (∃ (s : State), (s.pw.lpllLock = true) ∧ (s.pw.logic ≠ .off) ∧ (-549755813 ≤ s.time.tb1.rate) ∧ (s.time.tb1.rate ≤ 549755813)) ∧
    (∃ (s : State), (s.pw.lpllLock = true) ∧ (s.pw.logic ≠ .off) ∧ (-549755813 ≤ s.time.tb3.rate) ∧ (s.time.tb3.rate ≤ 549755813)) ∧
    (∃ (s : State), (s.pw.lpllLock = true) ∧ (s.pw.logic ≠ .off)) ∧
    (∃ (s : State), (s.pw.lpllLock = true) ∧ (s.pw.logic ≠ .off) ∧ (-549755813 ≤ s.time.tb0.rate) ∧ (s.time.tb0.rate ≤ 549755813) ∧ (s.time.tb0.nsec < 1000000000) ∧ (s.time.tb0.sec.toNat < 2 ^ 48 - 1)) :=
  ⟨⟨{ sR with pw := { sR.pw with lpllLock := true }, time := { tb1 := { rate := 100 } } }, by decide +kernel⟩,
    ⟨{ sR with pw := { sR.pw with lpllLock := true }, time := { tb3 := { rate := -100 } } }, by decide +kernel⟩,
    ⟨{ sR with pw := { sR.pw with lpllLock := true } }, by decide +kernel⟩,
    ⟨{ sR with pw := { sR.pw with lpllLock := true } }, by decide +kernel⟩⟩

theorem witness_ShortTimesCompareBySignedDifference :
    ∃ (a : Time) (x : Int), (-(2 ^ 39) ≤ x) ∧ (x ≤ 2 ^ 39 - 1) :=
  ⟨7, 5, by decide +kernel⟩

theorem witness_StepKeepsTheBogCanonical :
    ∃ (s t : State), (s.Inv) ∧ (step s = .next t) :=
  ⟨{ sR with bog := [(3, 7)] }, { sR with bog := [(3, 7)] }.tick, show twf _ _ = true by decide, rfl⟩

theorem witness_SealMovesOnlyByItsSwitches :
    (∃ (c : Instr) (s t : State), (∀ v, c ≠ .sealChange v) ∧ (exec c s = .next t)) ∧
    (∃ (v : BitVec 16) (s t : State), (exec (.sealChange v) s = .next t)) :=
  ⟨⟨.usbBusReset, sR, sR.setLcy { sR.lcy with lastSeq := none, lastResp := none }, by intro v h; exact Instr.noConfusion h, rfl⟩,
    ⟨0, sR, sR, rfl⟩⟩

theorem witness_EndCannotBeLeft :
    (∃ (c : Instr) (s t : State), (s.lcy.endFuse = true) ∧ (s.lcy.st = .end_) ∧ (exec c s = .next t)) ∧
    (∃ (l : LcyState), (l.endFuse = true)) :=
  ⟨⟨.usbBusReset, sLcy { endFuse := true, st := .end_ }, (sLcy { endFuse := true, st := .end_ }).setLcy { endFuse := true, st := .end_ }, rfl, rfl, rfl⟩,
    ⟨{ endFuse := true }, by decide +kernel⟩⟩

theorem witness_HistogramSamples :
    (∃ (lo w x : Int), (0 < w)) ∧
    (∃ (lo w x : Int) (i : Nat), (0 < w) ∧ (1 ≤ i) ∧ (i ≤ 14) ∧ (lo + (i - 1) * w ≤ x) ∧ (x < lo + i * w)) ∧
    (∃ (x i : Nat), (1 ≤ i) ∧ (i ≤ 14) ∧ (2 ^ (i - 1) ≤ x) ∧ (x < 2 ^ i)) ∧
    (∃ (h : Histo) (k : Nat) (x : Int), (h.bins.length = 16)) :=
  ⟨⟨-2000, 1000, 5, by decide +kernel⟩,
    ⟨-2000, 1000, 5, 3, by decide +kernel⟩,
    ⟨5, 3, by decide +kernel⟩,
    ⟨{}, 2, 5, by decide +kernel⟩⟩

theorem witness_CombRoundingAndShifts :
    (∃ (x : Int) (m : Nat), (1 ≤ m)) ∧
    (∃ (c : Nat) (w : Int), (-(2 ^ 23) ≤ w) ∧ (w < 2 ^ 23)) ∧
    (∃ (x : Int) (b : Nat), (1 ≤ b)) :=
  ⟨⟨5, 3, by decide +kernel⟩,
    ⟨0x26000, 1000, by decide +kernel⟩,
    ⟨5, 40, by decide +kernel⟩⟩

theorem witness_ChangesNeedTheActingMember :
    (∃ (s : State) (p : Pair) (e : Entry), (s.roleActs = false) ∧ (s.takeLoad p 5 1 = some e)) ∧
    (∃ (s : State) (p : Pair) (e : Entry), (s.roleActs = false) ∧ (s.takeLoad p 5 2 = some e)) ∧
    (∃ (s : State) (p : Pair) (e : Entry), (s.roleActs = false) ∧ (s.takeLoad p 5 3 = some e)) ∧
    (∃ (s : State) (p : Pair) (e : Entry), (s.roleActs = false) ∧ (s.takeLoad p 6 1 = some e)) ∧
    (∃ (s : State) (p : Pair) (e : Entry), (s.roleActs = false) ∧ (s.takeLoad p 6 2 = some e)) ∧
    (∃ (s : State) (p : Pair) (e : Entry), (s.roleActs = false) ∧ (s.takeLoad p 7 1 = some e)) ∧
    (∃ (s : State) (p : Pair) (e : Entry), (s.roleActs = false) ∧ (s.takeLoad p 7 2 = some e)) ∧
    (∃ (s : State) (p : Pair) (e : Entry), (s.roleActs = false) ∧ (s.takeLoad p 7 3 = some e)) ∧
    (∃ (s : State) (p : Pair) (e : Entry), (s.roleActs = false) ∧ (s.takeLoad p 7 4 = some e)) ∧
    (∃ (s : State) (p : Pair) (e : Entry), (s.roleActs = false) ∧ (s.takeLoad p 7 5 = some e)) ∧
    (∃ (s : State) (p : Pair) (e : Entry), (s.roleActs = false) ∧ (s.takeLoad p 8 1 = some e)) ∧
    (∃ (s : State) (p : Pair) (e : Entry), (s.roleActs = false) ∧ (s.takeLoad p 8 2 = some e)) ∧
    (∃ (s : State) (p : Pair) (e : Entry), (s.roleActs = false) ∧ (s.takeLoad p 8 3 = some e)) ∧
    (∃ (s : State) (p : Pair) (e : Entry), (s.roleActs = false) ∧ (s.takeLoad p 8 4 = some e)) ∧
    (∃ (s : State) (p : Pair) (e : Entry), (s.roleActs = false) ∧ (s.takeLoad p 8 5 = some e)) ∧
    (∃ (s : State) (p : Pair) (e : Entry), (s.roleActs = false) ∧ (s.takeLoad p 8 6 = some e)) ∧
    (∃ (s : State) (p : Pair) (e : Entry), (s.roleActs = false) ∧ (s.takeLoad p 9 1 = some e)) ∧
    (∃ (s : State) (p : Pair) (e : Entry), (s.roleActs = false) ∧ (s.takeLoad p 9 2 = some e)) ∧
    (∃ (s : State) (p : Pair) (e : Entry), (s.roleActs = false) ∧ (s.takeLoad p 9 3 = some e)) ∧
    (∃ (s : State) (p : Pair) (e : Entry), (s.roleActs = false) ∧ (s.takeLoad p 10 1 = some e)) ∧
    (∃ (s : State) (p : Pair) (e : Entry), (s.roleActs = false) ∧ (s.takeLoad p 10 2 = some e)) ∧
    (∃ (s : State) (p : Pair) (e : Entry), (s.roleActs = false) ∧ (s.takeLoad p 10 3 = some e)) ∧
    (∃ (s : State) (p : Pair) (e : Entry), (s.roleActs = false) ∧ (s.takeLoad p 11 1 = some e)) ∧
    (∃ (s : State) (p : Pair) (e : Entry), (s.roleActs = false) ∧ (s.takeLoad p 14 1 = some e)) ∧
    (∃ (s : State) (p : Pair) (e : Entry), (s.roleActs = false) ∧ (s.takeParam p 1 7 1 = some e)) ∧
    (∃ (s : State) (p : Pair) (e : Entry), (s.roleActs = false) ∧ (s.takeParam p 1 7 2 = some e)) ∧
    (∃ (s : State) (p : Pair) (e : Entry), (s.roleActs = false) ∧ (s.takeParam p 1 7 3 = some e)) ∧
    (∃ (s : State) (p : Pair) (e : Entry), (s.roleActs = false) ∧ (s.takeParam p 1 8 1 = some e)) ∧
    (∃ (s : State) (p : Pair) (e : Entry), (s.roleActs = false) ∧ (s.takeParam p 1 9 1 = some e)) ∧
    (∃ (s : State) (p : Pair) (e : Entry), (s.roleActs = false) ∧ (s.takeParam p 1 9 2 = some e)) ∧
    (∃ (s : State) (p : Pair) (e : Entry), (s.roleActs = false) ∧ (s.takeParam p 1 9 3 = some e)) ∧
    (∃ (s : State) (p : Pair) (e : Entry), (s.roleActs = false) ∧ (s.takeParam p 1 10 1 = some e)) ∧
    (∃ (s : State) (p : Pair) (e : Entry), (s.roleActs = false) ∧ (s.takeParam p 1 14 1 = some e)) ∧
    (∃ (s : State) (p : Pair) (e : Entry), (s.roleActs = false) ∧ (s.takeParam p 1 14 2 = some e)) ∧
    (∃ (s : State) (p : Pair) (e : Entry), (s.roleActs = false) ∧ (s.takeParam p 1 14 3 = some e)) ∧
    (∃ (s : State) (p : Pair) (e : Entry), (s.roleActs = false) ∧ (s.takeLoadIn p 7 16 20 = some e)) ∧
    (∃ (s : State) (p : Pair) (e : Entry), (s.roleActs = false) ∧ (s.takeLoadIn p 10 16 23 = some e)) ∧
    (∃ (s : State) (p : Pair) (e : Entry), (s.roleActs = false) ∧ (s.takeOp p.val 3 1 = some e)) ∧
    (∃ (s : State) (p : Pair) (e : Entry), (s.roleActs = false) ∧ (s.takeOp p.val 3 2 = some e)) ∧
    (∃ (s : State) (p : Pair) (e : Entry), (s.roleActs = false) ∧ (s.takeOp p.val 2 3 = some e)) ∧
    (∃ (s : State) (p : Pair) (e : Entry) (n k : Nat), (s.roleActs = false) ∧ (s.takeOp p.val 1 1 = some e) ∧ (tableShape e.tblBlock e.tblNum = some (n, k, false))) :=
  ⟨⟨withE (sTwn .standby {}) (eTab 1 5 1 0 1), 0, (eTab 1 5 1 0 1), by decide +kernel⟩,
    ⟨withE (sTwn .standby {}) (eTab 1 5 2 0 1), 0, (eTab 1 5 2 0 1), by decide +kernel⟩,
    ⟨withE (sTwn .standby {}) (eTab 1 5 3 0 1), 0, (eTab 1 5 3 0 1), by decide +kernel⟩,
    ⟨withE (sTwn .standby {}) (eTab 1 6 1 0 1), 0, (eTab 1 6 1 0 1), by decide +kernel⟩,
    ⟨withE (sTwn .standby {}) (eTab 1 6 2 0 1), 0, (eTab 1 6 2 0 1), by decide +kernel⟩,
    ⟨withE (sTwn .standby {}) (eTab 1 7 1 0 1), 0, (eTab 1 7 1 0 1), by decide +kernel⟩,
    ⟨withE (sTwn .standby {}) (eTab 1 7 2 0 1), 0, (eTab 1 7 2 0 1), by decide +kernel⟩,
    ⟨withE (sTwn .standby {}) (eTab 1 7 3 0 1), 0, (eTab 1 7 3 0 1), by decide +kernel⟩,
    ⟨withE (sTwn .standby {}) (eTab 1 7 4 0 1), 0, (eTab 1 7 4 0 1), by decide +kernel⟩,
    ⟨withE (sTwn .standby {}) (eTab 1 7 5 0 1), 0, (eTab 1 7 5 0 1), by decide +kernel⟩,
    ⟨withE (sTwn .standby {}) (eTab 1 8 1 0 1), 0, (eTab 1 8 1 0 1), by decide +kernel⟩,
    ⟨withE (sTwn .standby {}) (eTab 1 8 2 0 1), 0, (eTab 1 8 2 0 1), by decide +kernel⟩,
    ⟨withE (sTwn .standby {}) (eTab 1 8 3 0 1), 0, (eTab 1 8 3 0 1), by decide +kernel⟩,
    ⟨withE (sTwn .standby {}) (eTab 1 8 4 0 1), 0, (eTab 1 8 4 0 1), by decide +kernel⟩,
    ⟨withE (sTwn .standby {}) (eTab 1 8 5 0 1), 0, (eTab 1 8 5 0 1), by decide +kernel⟩,
    ⟨withE (sTwn .standby {}) (eTab 1 8 6 0 1), 0, (eTab 1 8 6 0 1), by decide +kernel⟩,
    ⟨withE (sTwn .standby {}) (eTab 1 9 1 0 1), 0, (eTab 1 9 1 0 1), by decide +kernel⟩,
    ⟨withE (sTwn .standby {}) (eTab 1 9 2 0 1), 0, (eTab 1 9 2 0 1), by decide +kernel⟩,
    ⟨withE (sTwn .standby {}) (eTab 1 9 3 0 1), 0, (eTab 1 9 3 0 1), by decide +kernel⟩,
    ⟨withE (sTwn .standby {}) (eTab 1 10 1 0 1), 0, (eTab 1 10 1 0 1), by decide +kernel⟩,
    ⟨withE (sTwn .standby {}) (eTab 1 10 2 0 1), 0, (eTab 1 10 2 0 1), by decide +kernel⟩,
    ⟨withE (sTwn .standby {}) (eTab 1 10 3 0 1), 0, (eTab 1 10 3 0 1), by decide +kernel⟩,
    ⟨withE (sTwn .standby {}) (eTab 1 11 1 0 1), 0, (eTab 1 11 1 0 1), by decide +kernel⟩,
    ⟨withE (sTwn .standby {}) (eTab 1 14 1 0 1), 0, (eTab 1 14 1 0 1), by decide +kernel⟩,
    ⟨withE (sTwn .standby {}) (ePar 1 7 1 0), 0, (ePar 1 7 1 0), by decide +kernel⟩,
    ⟨withE (sTwn .standby {}) (ePar 1 7 2 0), 0, (ePar 1 7 2 0), by decide +kernel⟩,
    ⟨withE (sTwn .standby {}) (ePar 1 7 3 0), 0, (ePar 1 7 3 0), by decide +kernel⟩,
    ⟨withE (sTwn .standby {}) (ePar 1 8 1 0), 0, (ePar 1 8 1 0), by decide +kernel⟩,
    ⟨withE (sTwn .standby {}) (ePar 1 9 1 0), 0, (ePar 1 9 1 0), by decide +kernel⟩,
    ⟨withE (sTwn .standby {}) (ePar 1 9 2 0), 0, (ePar 1 9 2 0), by decide +kernel⟩,
    ⟨withE (sTwn .standby {}) (ePar 1 9 3 0), 0, (ePar 1 9 3 0), by decide +kernel⟩,
    ⟨withE (sTwn .standby {}) (ePar 1 10 1 0), 0, (ePar 1 10 1 0), by decide +kernel⟩,
    ⟨withE (sTwn .standby {}) (ePar 1 14 1 0), 0, (ePar 1 14 1 0), by decide +kernel⟩,
    ⟨withE (sTwn .standby {}) (ePar 1 14 2 0), 0, (ePar 1 14 2 0), by decide +kernel⟩,
    ⟨withE (sTwn .standby {}) (ePar 1 14 3 0), 0, (ePar 1 14 3 0), by decide +kernel⟩,
    ⟨withE (sTwn .standby {}) (eTab 1 7 16 0 1), 0, (eTab 1 7 16 0 1), by decide +kernel⟩,
    ⟨withE (sTwn .standby {}) (eTab 1 10 16 0 1), 0, (eTab 1 10 16 0 1), by decide +kernel⟩,
    ⟨withE (sTwn .standby {}) (eRaw 3 1 0), 0, (eRaw 3 1 0), by decide +kernel⟩,
    ⟨withE (sTwn .standby {}) (eRaw 3 2 0), 0, (eRaw 3 2 0), by decide +kernel⟩,
    ⟨withE (sTwn .standby {}) (eRaw 2 3 0), 0, (eRaw 2 3 0), by decide +kernel⟩,
    ⟨withE (sTwn .standby {}) (eTab 1 4 1 0 1), 0, (eTab 1 4 1 0 1), 4095, 16, by decide +kernel⟩⟩

end Sys2Proof.Tests
end

section
/-! PROOFS. LOCK_SET and plain register writes under the lock rules (R12, R13, R611, R612, R615): what such a write leaves in the
register bank and in the power part, and what it leaves alone. -/

namespace Sys2Proof.Machine

/-! ### What a completed command leaves -/

theorem Completes.imp {ps : List Area} {c : Instr} {s : State} {P Q : State → Prop} (h : Completes ps c s P)
    (hPQ : ∀ t, P t → Q t) : Completes ps c s Q := by
  obtain ⟨t, hnext, hP, honly⟩ := h
  exact ⟨t, hnext, hPQ t hP, honly⟩

/-! ### The register bank -/

@[simp] theorem regAt_regSet_same (regs : Sparse Word) (off : Nat) (w : Word) : regAt (regSet regs off w) off = w :=
  tget_tput_same _ _ _ _

@[simp] theorem State.noteLock_regs (s : State) (b : Nat) (changes : Bool) : (s.noteLock b changes).regs = s.regs :=
  State.only_regs (ps := [.pw]) (State.noteLock_mask rfl s b changes) rfl

theorem State.noteLock_lockWrSeen {s : State} {b : Nat} (hcfg : s.pw.cfgDone = true) (hlock : tbit s.pw.lock b = true) :
    (s.noteLock b true).pw.lockWrSeen = true := by
  simp [State.noteLock, hcfg, hlock]

/-! ### The writable bits of a register (R13, R611, R612, R615) -/

theorem State.writeBits_regs (s : State) (off : Nat) (w : Word) :
    (s.writeBits off w).regs = regSet s.regs off (regClamp off
      ((w &&& (regRw off ||| (if s.rwlOpen (blockOf off) then regRwl off else 0))) |||
        (s.reg off &&& ~~~ (regRw off ||| (if s.rwlOpen (blockOf off) then regRwl off else 0))))) := by
  simp [State.writeBits, State.setReg]

theorem State.writeBits_lockWrSeen {s : State} {off : Nat} {w : Word} (hcfg : s.pw.cfgDone = true)
    (hlock : tbit s.pw.lock (blockOf off) = true) (hchange : (w ^^^ s.reg off) &&& regRwl off ≠ 0) :
    (s.writeBits off w).pw.lockWrSeen = true := by
  simp only [State.writeBits, State.setReg, decide_eq_true hchange, State.noteLock_lockWrSeen hcfg hlock]

/-! ### The bits that a write of 1 clears (R13) -/

@[simp] theorem State.clearW1c_regs (s : State) (off : Nat) (w : Word) : (s.clearW1c off w).regs = s.regs :=
  State.only_regs (ps := [.time, .pw, .hif, .stp, .cmb, .blk, .fio, .mir, .leg]) (State.clearW1c_mask rfl s off w) rfl

@[simp] theorem State.clearW1c_pw (s : State) (off : Nat) (w : Word) : (s.clearW1c off w).pw = s.pw.clearSeen off w := by
  simp only [State.clearW1c, apply_ite State.pw, State.setTime_pw, State.setHif_pw, State.modTask_pw, State.modCan_pw,
    ite_self]

theorem PowerState.clearSeen_lockWrSeen (p : PowerState) {off : Nat} (w : Word) (hoff : off ≠ 0x0018) :
    (p.clearSeen off w).lockWrSeen = p.lockWrSeen := by
  unfold PowerState.clearSeen
  rw [if_neg hoff]
  repeat' split
  all_goals rfl

/-! ### ROLE of a trunk port (R362) -/

@[simp] theorem State.trunkWritten_regs (s : State) (k : Nat) : (s.trunkWritten k).regs = s.regs :=
  State.only_regs (ps := [.hif, .wag, .out]) (State.trunkWritten_mask rfl s k) rfl

@[simp] theorem State.trunkWritten_pw (s : State) (k : Nat) : (s.trunkWritten k).pw = s.pw :=
  State.only_pw (ps := [.hif, .wag, .out]) (State.trunkWritten_mask rfl s k) rfl

/-! ### The commands -/

theorem exec_lockSet {s : State} (hup : s.hostUp = true) (w : Word) :
    exec (.lockSet w) s = .next { s with pw := { s.pw with lock := s.pw.lock ||| BitVec.ofNat 16 (fld w 15 0) } } := by
  change execLockSet w s = _
  simp [execLockSet, hup]

/-- A write that no guard ignores stores the writable bits and clears the W1C bits; ROLE of a trunk port reaches neither the
registers nor the power part. -/
theorem registerWrite_completes {s : State} {o : BitVec 16} {w : Word} (hup : s.hostUp = true)
    (hown : ownRow o.toNat = false) (halign : o.toNat % 4 = 0) (hpresent : absentReg s.pw.variantL o.toNat = false)
    (hring : ringOf o.toNat = none) (harm : s.armedTpo o.toNat = false) :
    Completes [.regs, .time, .pw, .hif, .stp, .cmb, .blk, .fio, .mir, .wag, .leg, .out] (.registerWrite o w) s fun t =>
      t.regs = (s.writeBits o.toNat w).regs ∧ t.pw = (s.writeBits o.toNat w).pw.clearSeen o.toNat w := by
  let t := (s.writeBits o.toNat w).clearW1c o.toNat w
  have hnext : exec (.registerWrite o w) s = .next
      (if o.toNat = 0xA410 then t.trunkWritten 0 else if o.toNat = 0xA420 then t.trunkWritten 1 else t) := by
    change execRegisterWrite o w s = _
    simp [execRegisterWrite, hup, hown, halign, hpresent, hring, harm, t]
  refine ⟨_, hnext, ?_, only_of_nextMask (execRegisterWrite_mask rfl o w s) hnext⟩
  split_ifs <;> simp [t]

/-- Settles O19: the register bank and the note of a locked write are those of `State.writeBits`, which neither the W1C bits
nor ROLE of a trunk port change. -/
theorem registerWritesUnderLocks : Obligations.RegisterWritesUnderLocks := by
  unfold Obligations.RegisterWritesUnderLocks
  refine ⟨fun s w hup => exec_lockSet hup w, ?stored, ?noted⟩
  case stored =>
    intro s o w hup hown halign hpresent hring harm
    refine (registerWrite_completes hup hown halign hpresent hring harm).imp fun t ⟨hregs, _⟩ => ?_
    rw [State.writeBits_regs] at hregs
    have hreg := congrArg (regAt · o.toNat) hregs
    simp only [regAt_regSet_same] at hreg
    exact ⟨hreg, hregs.trans (congrArg (regSet s.regs o.toNat) hreg.symm)⟩
  case noted =>
    intro s o w hup hown halign hpresent hring harm hcfg hlock hchange hoff
    refine (registerWrite_completes hup hown halign hpresent hring harm).imp fun t ⟨_, hpw⟩ => ?_
    rw [hpw, PowerState.clearSeen_lockWrSeen _ w hoff]
    exact State.writeBits_lockWrSeen hcfg hlock hchange

end Sys2Proof.Machine
end

section
/-! PROOFS. The frame of every command in one place: the parts of the State that a command may change, and that it changes no other. -/

namespace Sys2Proof.Machine

/-- The parts of the State that a command may change, whatever its operands. -/
def partsOf : Instr → List Area
  | .logicPowerUp => [.pw, .hif, .lcy, .peat, .out]
  | .logicResetRelease => [.time, .pw, .saf, .lcy]
  | .v12OutOfRange | .logicOvertemp
    => [.regs, .time, .pw, .hif, .stp, .cmb, .blk, .cnv, .fio, .mir, .bog, .wag, .twn, .leg, .lcy, .peat, .seen, .out]
  | .presenceRelease ..
    => [.regs, .time, .pw, .hif, .stp, .cmb, .blk, .cnv, .fio, .mir, .bog, .wag, .twn, .saf, .drn, .leg, .lcy, .peat, .seen, .out]
  | .fieldPowerGood => [.time, .pw, .hif, .cnv, .fio, .twn, .saf, .drn, .lcy, .peat, .out]
  | .fieldPowerLoss => [.time, .pw, .cnv, .fio, .twn, .saf, .drn, .lcy, .peat, .out]
  | .peatLoss | .resetInputStuckClear | .fieldRefRestored | .fieldSideAbsent | .scrub .. | .lockSet .. => [.pw]
  | .holdupChange .. | .pwrfailRelease => [.pw, .hif, .out]
  | .pwrfail | .restart .. => [.pw, .hif, .twn, .out]
  | .pllLockLoss | .ejectLeverReturned | .restartReset | .lpddr5LinkError ..
    => [.regs, .time, .pw, .hif, .stp, .cmb, .blk, .cnv, .fio, .mir, .wag, .twn, .leg, .lcy, .seen, .out]
  | .logicBootVerified ..
    => [.regs, .time, .pw, .hif, .stp, .cmb, .blk, .cnv, .fio, .mir, .bog, .wag, .twn, .saf, .drn, .leg, .lcy, .peat, .out, .freeIdx]
  | .resetInputRelease .. | .sramUncorrectable ..
    => [.regs, .time, .pw, .hif, .stp, .cmb, .blk, .cnv, .fio, .mir, .wag, .twn, .leg, .lcy, .peat, .seen, .out]
  | .resetInputStuck => [.pw, .hif, .fio, .peat, .out]
  | .ejectNotice => [.pw, .hif, .stp, .fio, .twn, .peat, .out]
  | .ejectWithdraw => [.pw, .hif, .stp, .fio, .twn, .out]
  | .ejectForceSafe | .fieldOutputInstant | .droneInputLatch | .droneOutputInstant => [.fio, .saf, .drn, .peat]
  | .fieldRefLost => [.pw, .fio, .peat]
  | .fieldRefSwitchBack => [.pw, .fio]
  | .downlinkTimeMark | .digitalInputTransition .. | .digitalInputAccept .. | .encoderCapture .. | .encoderFault ..
  | .axisMoveEnd .. | .hsCountsOff .. => [.fio]
  | .downlinkFrame .. => [.time, .pw, .cnv, .fio, .twn, .saf, .drn, .lcy, .peat]
  | .uplinkFrame .. => [.pw, .hif, .cmb, .cnv, .fio, .mir, .bog, .wag, .seen, .out, .freeIdx]
  | .logicSideAbsent => [.pw, .cnv, .fio, .drn]
  | .referenceFrame .. => [.time, .pw, .hif, .stp, .cmb, .cnv, .fio, .wag, .twn, .drn, .lcy, .out, .freeIdx]
  | .referenceTimeout => [.time, .hif, .wag, .out]
  | .ptpMessage .. => [.time, .hif, .out, .freeIdx]
  | .ptpMessageSend .. | .pulseOutputEdge .. => [.time, .out]
  | .tb0Restep => [.time]
  | .timeSet .. | .slotTableLoad .. | .microprogramLoad .. | .modelTableLoad .. | .inputMapLoad .. | .outputMapLoad ..
  | .loadImage .. | .exchange .. | .channelTableLoad .. | .scanListLoad .. | .dacTableLoad .. | .coefficientLoad ..
  | .dacCoefficientLoad .. | .skewLoad .. | .urgent .. | .rotate .. | .calMeasure .. | .highSideTableLoad ..
  | .inputTableLoad .. | .encoderTableLoad .. | .pulseTableLoad .. | .profileTableLoad .. | .holdPolicyTableLoad ..
  | .hsClrFault .. | .regionTableLoad .. | .lineTableLoad .. | .maskTableLoad .. | .mireArm .. | .force .. | .mireStop ..
  | .modeChange .. | .scheduleLoad .. | .receiveMapLoad .. | .stationTableLoad .. | .segmentTableLoad .. | .changeAck ..
  | .changeAckTimeout .. | .witnessTableLoad ..
    => [.time, .hif, .cmb, .blk, .cnv, .fio, .mir, .bog, .wag, .twn, .leg, .out, .freeIdx]
  | .pulseOutputArm .. | .pulseOutputDisarm .. => [.regs, .time, .out]
  | .pcieLinkUp .. | .badAccess .. | .submissionDoorbell .. | .completionDoorbell .. | .descriptorFetch ..
  | .hostReadCompletion .. | .hostReadTimeout .. | .hostReadGrant | .heldCompletionFlush .. | .msixModerationTimeout ..
  | .msixUnmask .. | .tableRead .. | .readOnlyTableLoad .. | .eventMask .. | .calMean .. | .calSpread .. | .sampleRead ..
  | .stationStat .. | .gpRead .. => [.hif, .out]
  | .pcieLinkDown | .pcieHotReset | .functionLevelReset | .busMasterDisable => [.regs, .pw, .hif, .stp, .out]
  | .ringsEnSet => [.regs]
  | .ringsEnClear => [.regs, .hif, .stp, .out]
  | .ringEnable .. => [.regs, .pw, .hif, .out]
  | .ringReset .. => [.hif, .stp, .out]
  | .tsqRead .. => [.time, .hif, .out]
  | .updateStatus .. | .hsDiag .. => [.hif, .out, .freeIdx]
  | .plantSend .. | .messageAtLaunch .. => [.time, .hif, .leg, .out]
  | .rxBuffer .. | .canSend .. | .canFrameReceive .. | .canFrameSent .. | .canState .. | .canRecoveryEnd ..
  | .messageRxFlush .. | .hpAck .. | .recover .. | .uartSend .. | .uartSendEnd .. | .uartCharacter .. | .uartGap ..
  | .pbSend .. | .pbCycleEnd .. | .busTimeout | .gpInputChange .. | .gpWrite .. | .plantMessageReceive ..
    => [.hif, .leg, .out]
  | .recordBuffer .. | .recordRead .. | .recordBufferFlush .. => [.hif, .mir, .out]
  | .step .. | .stepCancel .. | .stepFlush .. | .stepDeferredAdmit .. | .commitDecision .. | .partDeadline ..
  | .reportDeadline .. => [.hif, .stp, .fio, .twn, .out]
  | .stepRelayReceive .. => [.stp, .wag]
  | .stepCtrlReceive .. => [.stp, .fio, .wag]
  | .stepAnswerReceive .. | .stepReportReceive .. | .statusFrame .. => [.hif, .stp, .fio, .wag, .twn, .out]
  | .cancelCutOff .. => []
  | .stepLaunch => [.hif, .stp, .cmb, .blk, .cnv, .fio, .mir, .bog, .twn, .out, .freeIdx]
  | .stepDry => [.hif, .stp, .blk, .out]
  | .basePeriodStart ..
    => [.time, .pw, .hif, .stp, .cmb, .blk, .cnv, .fio, .mir, .bog, .wag, .twn, .saf, .drn, .leg, .lcy, .peat, .out, .freeIdx]
  | .slotEvaluation .. => [.pw, .hif, .cmb, .blk, .cnv, .fio, .mir, .bog, .wag, .twn, .drn, .lcy, .out, .freeIdx]
  | .cmbClassWrite .. => [.regs, .pw, .cmb]
  | .taskRelease .. => [.pw, .hif, .cmb, .blk, .fio, .wag, .twn, .drn, .lcy, .out, .freeIdx]
  | .scanEnd .. => [.hif, .blk, .out]
  | .exchangeBoundary .. => [.hif, .cmb, .blk, .fio, .wag, .twn, .out, .freeIdx]
  | .conversionSlot .. => [.cnv, .fio, .drn, .peat, .freeIdx]
  | .rotationInterval | .converterClrFault .. => [.cnv]
  | .selfCalibrationEnd .. => [.cnv, .fio, .peat]
  | .calMeasureEnd .. => [.hif, .cnv, .out]
  | .dutyPeriodStart .. | .sealChange .. | .safetyInputChange .. | .safetyInputDiscTimeout .. | .testPulse ..
  | .safetyPairCopy .. | .safetyPathAbsence .. | .safetyWatchExpiry .. | .disagree .. | .guardSafetyCycle
  | .manualRestart .. | .onmaxCut .. | .offminEnd .. | .rateDelayEnd .. | .fenGateVerified | .guardSelfTestDone ..
  | .elementTest .. => [.fio, .saf, .peat]
  | .hsCondition .. => [.fio, .peat]
  | .holdPolicyCycleEnd => [.fio, .wag, .saf, .drn, .peat]
  | .capRead .. => [.hif, .fio, .out]
  | .externalTrigger .. => [.hif, .cnv, .fio, .mir, .bog, .out, .freeIdx]
  | .wagRun .. => [.regs, .time, .pw, .hif, .stp, .wag, .drn, .lcy, .out]
  | .hiveListenEnd | .hiveBackoffEnd => [.time, .pw, .hif, .stp, .cmb, .cnv, .wag, .drn, .lcy, .out]
  | .basicCycleStart => [.time, .hif, .stp, .wag, .out]
  | .headReferenceCopy => [.out]
  | .echoCheckFail .. => [.time, .hif, .stp, .fio, .wag, .out]
  | .headWithdrawalEnd | .headWdrnClear | .upstreamSwitch | .guardianCut .. | .trunkAligned .. | .trunkAlignmentLost ..
  | .trunkDqReceive .. | .trunkDrReceive .. | .modeChangeDecision => [.hif, .wag, .out]
  | .clashClr | .windowSwap .. | .probe .. | .probeResp .. => [.wag]
  | .exclusiveWindowStart .. | .trunkDqSend .. | .trunkForward .. => [.wag, .out]
  | .windowSlotStart .. => [.stp, .fio, .wag, .out]
  | .exclusiveWindowEnd .. => [.hif, .stp, .wag, .out]
  | .dataFrame .. | .leaseRequestSend | .request .. => [.wag, .twn, .out]
  | .safetyFrame .. => [.fio, .wag]
  | .snap .. | .hash .. | .witnessSilent | .handover => [.hif, .twn, .out]
  | .change .. | .offer .. => [.twn, .out]
  | .state .. => [.time, .pw, .hif, .stp, .cmb, .blk, .cnv, .fio, .mir, .bog, .wag, .twn, .leg, .out, .freeIdx]
  | .idle => [.time, .hif, .twn, .out, .freeIdx]
  | .twinLinkLost | .twinLinkUp .. | .grant ..
    => [.time, .hif, .stp, .cmb, .blk, .cnv, .fio, .mir, .bog, .wag, .twn, .leg, .out, .freeIdx]
  | .relinquish .. => [.cmb, .wag, .twn, .out]
  | .accept .. | .resync => [.twn]
  | .issuerOccupancyEnd .. => [.wag, .twn]
  | .actUntil => [.time, .hif, .stp, .cmb, .blk, .cnv, .fio, .mir, .bog, .wag, .twn, .saf, .leg, .peat, .out, .freeIdx]
  | .handoverAbandoned => [.hif, .stp, .fio, .twn, .lcy, .out]
  | .standbyReplay => [.time, .hif, .stp, .cmb, .blk, .cnv, .fio, .mir, .bog, .wag, .twn, .leg, .lcy, .out, .freeIdx]
  | .takeover => [.time, .hif, .stp, .cmb, .blk, .cnv, .fio, .mir, .bog, .wag, .twn, .leg, .peat, .out, .freeIdx]
  | .safetyFrameSend => [.fio, .saf, .out, .freeIdx]
  | .droneCycleStart | .holdLoopRelease .. => [.drn]
  | .canEnable .. | .uartEnable .. | .gpConfigWrite .. => [.regs, .pw, .hif, .fio, .leg, .out]
  | .uartSendStart .. => [.leg, .out]
  | .pbReady => [.leg]
  | .filterTableLoad .. => [.hif, .fio, .leg, .out]
  | .hello .. | .serviceStatus .. | .ledger .. => [.lcy, .out, .freeIdx]
  | .stage .. | .discard .. => [.lcy, .out]
  | .install .. => [.fio, .lcy, .out]
  | .installDone | .usbBusReset => [.lcy]
  | .activate .. => [.hif, .twn, .lcy, .out]
  | .activationCommit
    => [.regs, .time, .pw, .hif, .stp, .cmb, .blk, .cnv, .fio, .mir, .wag, .twn, .saf, .drn, .leg, .lcy, .peat, .seen, .out, .freeIdx]
  | .token .. => [.time, .pw, .hif, .stp, .fio, .wag, .saf, .lcy, .peat, .out]
  | .expect .. => [.wag, .lcy, .out]
  | .ledgerSample .. => [.pw, .cnv, .peat]
  | .ledgerCommit => [.peat]
  | .registerWrite .. => [.regs, .time, .pw, .hif, .stp, .cmb, .blk, .fio, .mir, .wag, .leg, .out]

/-- Whatever the command, it leaves every part but its own as it was. -/
theorem exec_mask (c : Instr) (s : State) : nextMask (partsOf c) s (exec c s) = s.mask (partsOf c) :=
  match c with
  | .logicPowerUp   => execLogicPowerUp_mask rfl s
  | .logicResetRelease   => execLogicResetRelease_mask rfl s
  | .v12OutOfRange   => execV12OutOfRange_mask rfl s
  | .presenceRelease  side  => execPresenceRelease_mask rfl side s
  | .fieldPowerGood   => execFieldPowerGood_mask rfl s
  | .fieldPowerLoss   => execFieldPowerLoss_mask rfl s
  | .peatLoss   => execPeatLoss_mask rfl s
  | .holdupChange  holdupOk v12Mv  => execHoldupChange_mask rfl holdupOk v12Mv s
  | .pwrfail   => execPwrfail_mask rfl s
  | .pllLockLoss   => execPllLockLoss_mask rfl s
  | .logicBootVerified  slotOk retentionOk  => execLogicBootVerified_mask rfl slotOk retentionOk s
  | .resetInputRelease  heldNs  => execResetInputRelease_mask rfl heldNs s
  | .resetInputStuck   => execResetInputStuck_mask rfl s
  | .resetInputStuckClear   => execResetInputStuckClear_mask rfl s
  | .ejectNotice   => execEjectNotice_mask rfl s
  | .ejectWithdraw   => execEjectWithdraw_mask rfl s
  | .ejectForceSafe   => execEjectForceSafe_mask rfl s
  | .ejectLeverReturned   => execEjectLeverReturned_mask rfl s
  | .logicOvertemp   => execLogicOvertemp_mask rfl s
  | .restart  pair  => execRestart_mask rfl pair s
  | .restartReset   => execRestartReset_mask rfl s
  | .fieldRefLost   => execFieldRefLost_mask rfl s
  | .fieldRefRestored   => execFieldRefRestored_mask rfl s
  | .fieldRefSwitchBack   => execFieldRefSwitchBack_mask rfl s
  | .downlinkTimeMark   => execDownlinkTimeMark_mask rfl s
  | .downlinkFrame  valid  => execDownlinkFrame_mask rfl valid s
  | .uplinkFrame  valid  => execUplinkFrame_mask rfl valid s
  | .logicSideAbsent   => execLogicSideAbsent_mask rfl s
  | .fieldSideAbsent   => execFieldSideAbsent_mask rfl s
  | .scrub  corrected  => execScrub_mask rfl corrected s
  | .sramUncorrectable  bank  => execSramUncorrectable_mask rfl bank s
  | .lpddr5LinkError  at_  => execLpddr5LinkError_mask rfl at_ s
  | .referenceFrame  port ref stamp echo  => execReferenceFrame_mask rfl port ref stamp echo s
  | .referenceTimeout   => execReferenceTimeout_mask rfl s
  | .ptpMessage  port m  => execPtpMessage_mask rfl port m s
  | .ptpMessageSend  port mac  => execPtpMessageSend_mask rfl port mac s
  | .tb0Restep   => execTb0Restep_mask rfl s
  | .timeSet  pair  => execTimeSet_mask rfl pair s
  | .pulseOutputArm  n w  => execPulseOutputArm_mask rfl n w s
  | .pulseOutputDisarm  n w  => execPulseOutputDisarm_mask rfl n w s
  | .pulseOutputEdge  n  => execPulseOutputEdge_mask rfl n s
  | .pcieLinkUp  speed  => execPcieLinkUp_mask rfl speed s
  | .pcieLinkDown   => execPcieLinkDown_mask rfl s
  | .pcieHotReset   => execPcieHotReset_mask rfl s
  | .functionLevelReset   => execFunctionLevelReset_mask rfl s
  | .busMasterDisable   => execBusMasterDisable_mask rfl s
  | .badAccess  write  => execBadAccess_mask rfl write s
  | .ringsEnSet   => execRingsEnSet_mask rfl s
  | .ringsEnClear   => execRingsEnClear_mask rfl s
  | .ringEnable  pair w  => execRingEnable_mask rfl pair w s
  | .ringReset  pair  => execRingReset_mask rfl pair s
  | .submissionDoorbell  pair v  => execSubmissionDoorbell_mask rfl pair v s
  | .completionDoorbell  pair v  => execCompletionDoorbell_mask rfl pair v s
  | .descriptorFetch  pair r  => execDescriptorFetch_mask rfl pair r s
  | .hostReadCompletion  pair r  => execHostReadCompletion_mask rfl pair r s
  | .hostReadTimeout  pair fetch  => execHostReadTimeout_mask rfl pair fetch s
  | .hostReadGrant   => execHostReadGrant_mask rfl s
  | .heldCompletionFlush  pair  => execHeldCompletionFlush_mask rfl pair s
  | .msixModerationTimeout  v  => execMsixModerationTimeout_mask rfl v s
  | .msixUnmask  v  => execMsixUnmask_mask rfl v s
  | .tableRead  pair  => execTableRead_mask rfl pair s
  | .readOnlyTableLoad  pair  => execReadOnlyTableLoad_mask rfl pair s
  | .eventMask  pair  => execEventMask_mask rfl pair s
  | .tsqRead  pair  => execTsqRead_mask rfl pair s
  | .updateStatus  pair  => execUpdateStatus_mask rfl pair s
  | .plantSend  pair  => execPlantSend_mask rfl pair s
  | .rxBuffer  pair  => execRxBuffer_mask rfl pair s
  | .recordBuffer  pair  => execRecordBuffer_mask rfl pair s
  | .recordRead  pair  => execRecordRead_mask rfl pair s
  | .step  pair  => execStep_mask rfl pair s
  | .stepCancel  pair  => execStepCancel_mask rfl pair s
  | .stepFlush  pair  => execStepFlush_mask rfl pair s
  | .stepDeferredAdmit  pair  => execStepDeferredAdmit_mask rfl pair s
  | .stepRelayReceive  frame  => execStepRelayReceive_mask rfl frame s
  | .stepCtrlReceive  hdr entries  => execStepCtrlReceive_mask rfl hdr entries s
  | .stepAnswerReceive  hdr first rest  => execStepAnswerReceive_mask rfl hdr first rest s
  | .stepReportReceive  hdr reports  => execStepReportReceive_mask rfl hdr reports s
  | .commitDecision  seq  => execCommitDecision_mask rfl seq s
  | .partDeadline  seq  => execPartDeadline_mask rfl seq s
  | .cancelCutOff  seq  => execCancelCutOff_mask rfl seq s
  | .reportDeadline  seq  => execReportDeadline_mask rfl seq s
  | .stepLaunch   => execStepLaunch_mask rfl s
  | .stepDry   => execStepDry_mask rfl s
  | .basePeriodStart  enc  => execBasePeriodStart_mask rfl enc s
  | .slotEvaluation  slot  => execSlotEvaluation_mask rfl slot s
  | .cmbClassWrite  c w  => execCmbClassWrite_mask rfl c w s
  | .slotTableLoad  pair  => execSlotTableLoad_mask rfl pair s
  | .microprogramLoad  pair  => execMicroprogramLoad_mask rfl pair s
  | .modelTableLoad  pair  => execModelTableLoad_mask rfl pair s
  | .taskRelease  task  => execTaskRelease_mask rfl task s
  | .scanEnd  task ns  => execScanEnd_mask rfl task ns s
  | .inputMapLoad  pair  => execInputMapLoad_mask rfl pair s
  | .outputMapLoad  pair  => execOutputMapLoad_mask rfl pair s
  | .loadImage  pair  => execLoadImage_mask rfl pair s
  | .exchange  pair  => execExchange_mask rfl pair s
  | .exchangeBoundary  task  => execExchangeBoundary_mask rfl task s
  | .conversionSlot  conv slot code cond checkFail  => execConversionSlot_mask rfl conv slot code cond checkFail s
  | .channelTableLoad  pair  => execChannelTableLoad_mask rfl pair s
  | .scanListLoad  pair  => execScanListLoad_mask rfl pair s
  | .dacTableLoad  pair  => execDacTableLoad_mask rfl pair s
  | .coefficientLoad  pair  => execCoefficientLoad_mask rfl pair s
  | .dacCoefficientLoad  pair  => execDacCoefficientLoad_mask rfl pair s
  | .skewLoad  pair  => execSkewLoad_mask rfl pair s
  | .urgent  pair  => execUrgent_mask rfl pair s
  | .rotate  pair  => execRotate_mask rfl pair s
  | .rotationInterval   => execRotationInterval_mask rfl s
  | .selfCalibrationEnd  conv codes  => execSelfCalibrationEnd_mask rfl conv codes s
  | .converterClrFault  conv  => execConverterClrFault_mask rfl conv s
  | .calMeasure  pair  => execCalMeasure_mask rfl pair s
  | .calMeasureEnd  codes  => execCalMeasureEnd_mask rfl codes s
  | .calMean  pair  => execCalMean_mask rfl pair s
  | .calSpread  pair  => execCalSpread_mask rfl pair s
  | .sampleRead  pair  => execSampleRead_mask rfl pair s
  | .fieldOutputInstant   => execFieldOutputInstant_mask rfl s
  | .highSideTableLoad  pair  => execHighSideTableLoad_mask rfl pair s
  | .inputTableLoad  pair  => execInputTableLoad_mask rfl pair s
  | .encoderTableLoad  pair  => execEncoderTableLoad_mask rfl pair s
  | .pulseTableLoad  pair  => execPulseTableLoad_mask rfl pair s
  | .profileTableLoad  pair  => execProfileTableLoad_mask rfl pair s
  | .holdPolicyTableLoad  pair  => execHoldPolicyTableLoad_mask rfl pair s
  | .dutyPeriodStart  out  => execDutyPeriodStart_mask rfl out s
  | .hsCondition  out cond present  => execHsCondition_mask rfl out cond present s
  | .holdPolicyCycleEnd   => execHoldPolicyCycleEnd_mask rfl s
  | .digitalInputTransition  input level  => execDigitalInputTransition_mask rfl input level s
  | .digitalInputAccept  input  => execDigitalInputAccept_mask rfl input s
  | .encoderCapture  enc zLine input  => execEncoderCapture_mask rfl enc zLine input s
  | .encoderFault  enc  => execEncoderFault_mask rfl enc s
  | .axisMoveEnd  axis  => execAxisMoveEnd_mask rfl axis s
  | .hsClrFault  pair  => execHsClrFault_mask rfl pair s
  | .capRead  pair  => execCapRead_mask rfl pair s
  | .hsDiag  pair  => execHsDiag_mask rfl pair s
  | .regionTableLoad  pair  => execRegionTableLoad_mask rfl pair s
  | .lineTableLoad  pair  => execLineTableLoad_mask rfl pair s
  | .maskTableLoad  pair  => execMaskTableLoad_mask rfl pair s
  | .mireArm  pair  => execMireArm_mask rfl pair s
  | .force  pair  => execForce_mask rfl pair s
  | .mireStop  pair  => execMireStop_mask rfl pair s
  | .externalTrigger  input rising stamp  => execExternalTrigger_mask rfl input rising stamp s
  | .recordBufferFlush  region  => execRecordBufferFlush_mask rfl region s
  | .wagRun  w  => execWagRun_mask rfl w s
  | .hiveListenEnd   => execHiveListenEnd_mask rfl s
  | .hiveBackoffEnd   => execHiveBackoffEnd_mask rfl s
  | .basicCycleStart   => execBasicCycleStart_mask rfl s
  | .headReferenceCopy   => execHeadReferenceCopy_mask rfl s
  | .echoCheckFail  ident  => execEchoCheckFail_mask rfl ident s
  | .headWithdrawalEnd   => execHeadWithdrawalEnd_mask rfl s
  | .headWdrnClear   => execHeadWdrnClear_mask rfl s
  | .clashClr   => execClashClr_mask rfl s
  | .upstreamSwitch   => execUpstreamSwitch_mask rfl s
  | .windowSwap  win  => execWindowSwap_mask rfl win s
  | .exclusiveWindowStart  win  => execExclusiveWindowStart_mask rfl win s
  | .windowSlotStart  win slot rival  => execWindowSlotStart_mask rfl win slot rival s
  | .exclusiveWindowEnd  win sof  => execExclusiveWindowEnd_mask rfl win sof s
  | .dataFrame  hdr words  => execDataFrame_mask rfl hdr words s
  | .statusFrame  hdr status  => execStatusFrame_mask rfl hdr status s
  | .probe  hdr ident stamp  => execProbe_mask rfl hdr ident stamp s
  | .probeResp  hdr ident prober turnaround roundTrip  => execProbeResp_mask rfl hdr ident prober turnaround roundTrip s
  | .safetyFrame  hdr bytes  => execSafetyFrame_mask rfl hdr bytes s
  | .guardianCut  win  => execGuardianCut_mask rfl win s
  | .trunkAligned  port  => execTrunkAligned_mask rfl port s
  | .trunkAlignmentLost  port  => execTrunkAlignmentLost_mask rfl port s
  | .trunkDqSend  port t1  => execTrunkDqSend_mask rfl port t1 s
  | .trunkDqReceive  port seq active turnaround  => execTrunkDqReceive_mask rfl port seq active turnaround s
  | .trunkDrReceive  port seq turnaround t4  => execTrunkDrReceive_mask rfl port seq turnaround t4 s
  | .trunkForward  port hdr  => execTrunkForward_mask rfl port hdr s
  | .modeChange  pair  => execModeChange_mask rfl pair s
  | .modeChangeDecision   => execModeChangeDecision_mask rfl s
  | .stationStat  pair  => execStationStat_mask rfl pair s
  | .scheduleLoad  pair  => execScheduleLoad_mask rfl pair s
  | .receiveMapLoad  pair  => execReceiveMapLoad_mask rfl pair s
  | .stationTableLoad  pair  => execStationTableLoad_mask rfl pair s
  | .segmentTableLoad  pair  => execSegmentTableLoad_mask rfl pair s
  | .snap  n final records intact  => execSnap_mask rfl n final records intact s
  | .hash  n h  => execHash_mask rfl n h s
  | .change  seq n desc data  => execChange_mask rfl seq n desc data s
  | .changeAck  seq  => execChangeAck_mask rfl seq s
  | .state  n last bytes  => execState_mask rfl n last bytes s
  | .idle   => execIdle_mask rfl s
  | .twinLinkLost   => execTwinLinkLost_mask rfl s
  | .twinLinkUp  partner  => execTwinLinkUp_mask rfl partner s
  | .leaseRequestSend   => execLeaseRequestSend_mask rfl s
  | .request  path role member seq  => execRequest_mask rfl path role member seq s
  | .grant  path seq  => execGrant_mask rfl path seq s
  | .relinquish  path member n  => execRelinquish_mask rfl path member n s
  | .offer  n  => execOffer_mask rfl n s
  | .accept  n  => execAccept_mask rfl n s
  | .issuerOccupancyEnd  issuer  => execIssuerOccupancyEnd_mask rfl issuer s
  | .actUntil   => execActUntil_mask rfl s
  | .witnessSilent   => execWitnessSilent_mask rfl s
  | .handover   => execHandover_mask rfl s
  | .handoverAbandoned   => execHandoverAbandoned_mask rfl s
  | .resync   => execResync_mask rfl s
  | .standbyReplay   => execStandbyReplay_mask rfl s
  | .changeAckTimeout  seq  => execChangeAckTimeout_mask rfl seq s
  | .takeover   => execTakeover_mask rfl s
  | .witnessTableLoad  pair  => execWitnessTableLoad_mask rfl pair s
  | .sealChange  v  => execSealChange_mask rfl v s
  | .safetyInputChange  input chanB closed  => execSafetyInputChange_mask rfl input chanB closed s
  | .safetyInputDiscTimeout  input  => execSafetyInputDiscTimeout_mask rfl input s
  | .testPulse  srcB follows  => execTestPulse_mask rfl srcB follows s
  | .safetyFrameSend   => execSafetyFrameSend_mask rfl s
  | .safetyPairCopy  bytes framed  => execSafetyPairCopy_mask rfl bytes framed s
  | .safetyPathAbsence  station missing  => execSafetyPathAbsence_mask rfl station missing s
  | .safetyWatchExpiry  station path  => execSafetyWatchExpiry_mask rfl station path s
  | .disagree  group  => execDisagree_mask rfl group s
  | .guardSafetyCycle   => execGuardSafetyCycle_mask rfl s
  | .manualRestart  group pulseMs  => execManualRestart_mask rfl group pulseMs s
  | .onmaxCut  out  => execOnmaxCut_mask rfl out s
  | .offminEnd  out  => execOffminEnd_mask rfl out s
  | .rateDelayEnd  out  => execRateDelayEnd_mask rfl out s
  | .hsCountsOff  out  => execHsCountsOff_mask rfl out s
  | .fenGateVerified   => execFenGateVerified_mask rfl s
  | .guardSelfTestDone  passed test  => execGuardSelfTestDone_mask rfl passed test s
  | .elementTest  out passed test  => execElementTest_mask rfl out passed test s
  | .droneCycleStart   => execDroneCycleStart_mask rfl s
  | .droneInputLatch   => execDroneInputLatch_mask rfl s
  | .droneOutputInstant   => execDroneOutputInstant_mask rfl s
  | .holdLoopRelease  loop  => execHoldLoopRelease_mask rfl loop s
  | .canEnable  c w  => execCanEnable_mask rfl c w s
  | .canSend  pair  => execCanSend_mask rfl pair s
  | .canFrameReceive  c frame crcOk start  => execCanFrameReceive_mask rfl c frame crcOk start s
  | .canFrameSent  c start  => execCanFrameSent_mask rfl c start s
  | .canState  c tec rec_  => execCanState_mask rfl c tec rec_ s
  | .canRecoveryEnd  c  => execCanRecoveryEnd_mask rfl c s
  | .messageAtLaunch  port  => execMessageAtLaunch_mask rfl port s
  | .messageRxFlush  port queue  => execMessageRxFlush_mask rfl port queue s
  | .hpAck  pair  => execHpAck_mask rfl pair s
  | .recover  pair  => execRecover_mask rfl pair s
  | .uartEnable  u w  => execUartEnable_mask rfl u w s
  | .uartSend  pair  => execUartSend_mask rfl pair s
  | .uartSendStart  u  => execUartSendStart_mask rfl u s
  | .uartSendEnd  u  => execUartSendEnd_mask rfl u s
  | .uartCharacter  u ch ninth parityErr framingErr own start  => execUartCharacter_mask rfl u ch ninth parityErr framingErr own start s
  | .uartGap  u  => execUartGap_mask rfl u s
  | .pbSend  pair  => execPbSend_mask rfl pair s
  | .pbReady   => execPbReady_mask rfl s
  | .pbCycleEnd  data  => execPbCycleEnd_mask rfl data s
  | .busTimeout   => execBusTimeout_mask rfl s
  | .gpConfigWrite  reg w  => execGpConfigWrite_mask rfl reg w s
  | .gpInputChange  states  => execGpInputChange_mask rfl states s
  | .gpWrite  pair  => execGpWrite_mask rfl pair s
  | .gpRead  pair  => execGpRead_mask rfl pair s
  | .filterTableLoad  pair  => execFilterTableLoad_mask rfl pair s
  | .hello  seq  => execHello_mask rfl seq s
  | .stage  seq offset bytes  => execStage_mask rfl seq offset bytes s
  | .install  seq  => execInstall_mask rfl seq s
  | .installDone   => execInstallDone_mask rfl s
  | .activate  seq fieldRst  => execActivate_mask rfl seq fieldRst s
  | .activationCommit   => execActivationCommit_mask rfl s
  | .serviceStatus  seq  => execServiceStatus_mask rfl seq s
  | .token  seq bytes  => execToken_mask rfl seq bytes s
  | .discard  seq  => execDiscard_mask rfl seq s
  | .ledger  seq what first count  => execLedger_mask rfl seq what first count s
  | .expect  seq entries  => execExpect_mask rfl seq entries s
  | .usbBusReset   => execUsbBusReset_mask rfl s
  | .ledgerSample  inputs  => execLedgerSample_mask rfl inputs s
  | .ledgerCommit   => execLedgerCommit_mask rfl s
  | .lockSet  w  => execLockSet_mask rfl w s
  | .registerWrite  offset w  => execRegisterWrite_mask rfl offset w s
  | .pwrfailRelease   => execPwrfailRelease_mask rfl s
  | .plantMessageReceive  port bytes  => execPlantMessageReceive_mask rfl port bytes s

end Sys2Proof.Machine
end

section
/-! PROOFS. The canonical form of the Bog (R37, R333): a command that may write the Bog keeps it by its own law, any other because it
leaves the Bog alone; the tick of a step with nothing waiting does too. -/

namespace Sys2Proof.Machine

theorem nextMask_mono {ps qs : List Area} {s : State} {o : Host.Outcome State Fault Refusal} (hc : covers qs ps = true)
    (h : nextMask ps s o = s.mask ps) : nextMask qs s o = s.mask qs := by
  cases o with
  | next t => exact State.mask_mono hc h
  | fault r => rfl
  | refused r => rfl

theorem exec_inv (c : Instr) {s : State} (hs : s.Inv) : nextInv (exec c s) := by
  cases c with
  | v12OutOfRange => exact execV12OutOfRange_inv s hs
  | presenceRelease side => exact execPresenceRelease_inv side s hs
  | logicBootVerified slotOk retentionOk => exact execLogicBootVerified_inv slotOk retentionOk s hs
  | logicOvertemp => exact execLogicOvertemp_inv s hs
  | uplinkFrame valid => exact execUplinkFrame_inv valid s hs
  | timeSet pair => exact execTimeSet_inv pair s hs
  | stepLaunch => exact execStepLaunch_inv s hs
  | basePeriodStart enc => exact execBasePeriodStart_inv enc s hs
  | slotEvaluation slot => exact execSlotEvaluation_inv slot s hs
  | slotTableLoad pair => exact execSlotTableLoad_inv pair s hs
  | microprogramLoad pair => exact execMicroprogramLoad_inv pair s hs
  | modelTableLoad pair => exact execModelTableLoad_inv pair s hs
  | inputMapLoad pair => exact execInputMapLoad_inv pair s hs
  | outputMapLoad pair => exact execOutputMapLoad_inv pair s hs
  | loadImage pair => exact execLoadImage_inv pair s hs
  | exchange pair => exact execExchange_inv pair s hs
  | channelTableLoad pair => exact execChannelTableLoad_inv pair s hs
  | scanListLoad pair => exact execScanListLoad_inv pair s hs
  | dacTableLoad pair => exact execDacTableLoad_inv pair s hs
  | coefficientLoad pair => exact execCoefficientLoad_inv pair s hs
  | dacCoefficientLoad pair => exact execDacCoefficientLoad_inv pair s hs
  | skewLoad pair => exact execSkewLoad_inv pair s hs
  | urgent pair => exact execUrgent_inv pair s hs
  | rotate pair => exact execRotate_inv pair s hs
  | calMeasure pair => exact execCalMeasure_inv pair s hs
  | highSideTableLoad pair => exact execHighSideTableLoad_inv pair s hs
  | inputTableLoad pair => exact execInputTableLoad_inv pair s hs
  | encoderTableLoad pair => exact execEncoderTableLoad_inv pair s hs
  | pulseTableLoad pair => exact execPulseTableLoad_inv pair s hs
  | profileTableLoad pair => exact execProfileTableLoad_inv pair s hs
  | holdPolicyTableLoad pair => exact execHoldPolicyTableLoad_inv pair s hs
  | hsClrFault pair => exact execHsClrFault_inv pair s hs
  | regionTableLoad pair => exact execRegionTableLoad_inv pair s hs
  | lineTableLoad pair => exact execLineTableLoad_inv pair s hs
  | maskTableLoad pair => exact execMaskTableLoad_inv pair s hs
  | mireArm pair => exact execMireArm_inv pair s hs
  | force pair => exact execForce_inv pair s hs
  | mireStop pair => exact execMireStop_inv pair s hs
  | externalTrigger input rising stamp => exact execExternalTrigger_inv input rising stamp s hs
  | modeChange pair => exact execModeChange_inv pair s hs
  | scheduleLoad pair => exact execScheduleLoad_inv pair s hs
  | receiveMapLoad pair => exact execReceiveMapLoad_inv pair s hs
  | stationTableLoad pair => exact execStationTableLoad_inv pair s hs
  | segmentTableLoad pair => exact execSegmentTableLoad_inv pair s hs
  | changeAck seq => exact execChangeAck_inv seq s hs
  | state n last bytes => exact execState_inv n last bytes s hs
  | twinLinkLost => exact execTwinLinkLost_inv s hs
  | twinLinkUp partner => exact execTwinLinkUp_inv partner s hs
  | grant path seq => exact execGrant_inv path seq s hs
  | actUntil => exact execActUntil_inv s hs
  | standbyReplay => exact execStandbyReplay_inv s hs
  | changeAckTimeout seq => exact execChangeAckTimeout_inv seq s hs
  | takeover => exact execTakeover_inv s hs
  | witnessTableLoad pair => exact execWitnessTableLoad_inv pair s hs
  | _ => exact nextInv_of_mask (nextMask_mono rfl (exec_mask _ s)) hs

theorem State.tick_inv {s : State} (hs : s.Inv) : s.tick.Inv := State.inv_of_mask (State.tick_mask rfl s) hs

theorem step_inv {s : State} (hs : s.Inv) : nextInv (step s) := by
  unfold step
  split
  · exact nextInv_next (State.tick_inv hs)
  · exact exec_inv _ hs

/-- Settles O53: a step is the tick or a command, and both keep the canonical form. -/
theorem stepKeepsTheBogCanonical : Obligations.StepKeepsTheBogCanonical :=
  fun _ _ hs hstep => inv_of_nextInv (step_inv hs) hstep

end Sys2Proof.Machine
end

section
/-! PROOFS. What the operations on the outputs leave alone (R294 to R324, R466 to R481): a high-side driver, a DAC or a pulse output that
switches, takes a value or follows its gate changes the outputs, the uplink, the ledger and Fen Gate's counts of what its envelopes did,
and nothing else. -/

namespace Sys2Proof.Machine

/-- A fold keeps what each of its steps keeps. -/
theorem foldl_keeps {σ α β : Type} (view : σ → β) {f : σ → α → σ} (h : ∀ s x, view (f s x) = view s) (l : List α) (s : σ) :
    view (l.foldl f s) = view s := by
  induction l generalizing s with
  | nil => rfl
  | cons a l ih => exact (ih (f s a)).trans (h s a)

/-- s without what the operations on the outputs change: the outputs, the uplink, the envelopes' counts and the ledger. -/
def State.besideOutputs (s : State) : State :=
  { s with
    fio := { s.fio with hs := [], dac := [], pul := [], up := [] }
    saf := { s.saf with lastEnv := [], refuseCnt := 0 }
    peat := {} }

/-! ### Single updates -/

@[simp] theorem State.sendUp_besideOutputs (s : State) (it : UpItem) : (s.sendUp it).besideOutputs = s.besideOutputs := rfl

@[simp] theorem State.fieldRaise_besideOutputs (s : State) (c : Byte) (r : BitVec 64) :
    (s.fieldRaise c r).besideOutputs = s.besideOutputs := rfl

@[simp] theorem State.countLedger_besideOutputs (s : State) (i : Nat) : (s.countLedger i).besideOutputs = s.besideOutputs := rfl

@[simp] theorem State.modHs_besideOutputs (s : State) (i : Nat) (f : HsRt → HsRt) :
    (s.modHs i f).besideOutputs = s.besideOutputs := rfl

@[simp] theorem State.modDac_besideOutputs (s : State) (d : Nat) (f : DacRt → DacRt) :
    (s.modDac d f).besideOutputs = s.besideOutputs := rfl

@[simp] theorem State.modPul_besideOutputs (s : State) (p : Nat) (f : PulRt → PulRt) :
    (s.modPul p f).besideOutputs = s.besideOutputs := rfl

@[simp] theorem State.envEvent_besideOutputs (s : State) (row action : Nat) :
    (s.envEvent row action).besideOutputs = s.besideOutputs := by
  unfold State.envEvent
  dsimp only
  split <;> rfl

/-! ### High-side outputs -/

@[simp] theorem State.hsOn_besideOutputs (s : State) (i : Nat) : (s.hsOn i).besideOutputs = s.besideOutputs := rfl

@[simp] theorem State.hsOff_besideOutputs (s : State) (i : Nat) : (s.hsOff i).besideOutputs = s.besideOutputs := rfl

@[simp] theorem State.hsCmdOff_besideOutputs (s : State) (i : Nat) : (s.hsCmdOff i).besideOutputs = s.besideOutputs := rfl

/-- A switch-on is not needed or not allowed, refused, delayed by OFFMIN or by RATE, or takes place. -/
@[simp] theorem State.hsJudgeOn_besideOutputs (s : State) (i : Nat) (together : List Nat) :
    (s.hsJudgeOn i together).besideOutputs = s.besideOutputs := by
  unfold State.hsJudgeOn
  dsimp only
  split
  · rfl
  · split
    · exact State.envEvent_besideOutputs _ _ _
    · split
      · simp
      · split <;> simp

@[simp] theorem State.hsCmdOn_besideOutputs (s : State) (i : Nat) (together : List Nat) :
    (s.hsCmdOn i together).besideOutputs = s.besideOutputs := by
  simp [State.hsCmdOn]

@[simp] theorem State.hsCommand_besideOutputs (s : State) (cmds : List (Nat × Bool)) :
    (s.hsCommand cmds).besideOutputs = s.besideOutputs :=
  (foldl_keeps _ (fun _ _ => State.hsCmdOn_besideOutputs _ _ _) _ _).trans
    (foldl_keeps _ State.hsCmdOff_besideOutputs _ _)

@[simp] theorem State.hsRegates_besideOutputs (s : State) (l : List Nat) :
    (s.hsRegates l).besideOutputs = s.besideOutputs :=
  (foldl_keeps _ (fun _ _ => State.hsJudgeOn_besideOutputs _ _ _) _ _).trans
    (foldl_keeps _ State.hsOff_besideOutputs _ _)

@[simp] theorem State.hsRegate_besideOutputs (s : State) (i : Nat) : (s.hsRegate i).besideOutputs = s.besideOutputs :=
  State.hsRegates_besideOutputs _ _

/-! ### DACs -/

@[simp] theorem State.dacDrive_besideOutputs (s : State) (d : Nat) (t : Time) :
    (s.dacDrive d t).besideOutputs = s.besideOutputs := by
  unfold State.dacDrive
  dsimp only
  split
  · rw [State.envEvent_besideOutputs]
    split
    · simp [apply_ite State.besideOutputs]
    · simp [apply_ite State.besideOutputs]
  · split
    · simp [apply_ite State.besideOutputs]
    · simp [apply_ite State.besideOutputs]

@[simp] theorem State.dacTake_besideOutputs (s : State) (d : Nat) (v : Int) (t : Time) :
    (s.dacTake d v t).besideOutputs = s.besideOutputs := by
  simp [State.dacTake, apply_ite State.besideOutputs]

@[simp] theorem State.dacLeave_besideOutputs (s : State) (d : Nat) (t : Time) (count : Option Int) :
    (s.dacLeave d t count).besideOutputs = s.besideOutputs := by
  simp [State.dacLeave, apply_ite State.besideOutputs]

@[simp] theorem State.dacRegate_besideOutputs (s : State) (t : Time) (d : Nat) :
    (s.dacRegate t d).besideOutputs = s.besideOutputs := by
  unfold State.dacRegate
  dsimp only
  split
  · simp
  · split
    · simp [apply_ite State.besideOutputs]
    · split <;> simp

/-! ### Pulse outputs -/

@[simp] theorem State.axisBegin_besideOutputs (s : State) (p : Nat) (w : BitVec 128) (target : Int) :
    (s.axisBegin p w target).besideOutputs = s.besideOutputs := rfl

@[simp] theorem State.axisStop_besideOutputs (s : State) (p : Nat) (next : Option (BitVec 128 × Int)) :
    (s.axisStop p next).besideOutputs = s.besideOutputs := rfl

@[simp] theorem State.pulStop_besideOutputs (s : State) (p : Nat) : (s.pulStop p).besideOutputs = s.besideOutputs := rfl

@[simp] theorem State.pulRate_besideOutputs (s : State) (p : Nat) (hz : Int) :
    (s.pulRate p hz).besideOutputs = s.besideOutputs := by
  unfold State.pulRate
  dsimp only
  split
  · rfl
  · split <;> simp

@[simp] theorem State.pulAxis_besideOutputs (s : State) (p profile : Nat) (target : Int) :
    (s.pulAxis p profile target).besideOutputs = s.besideOutputs := by
  unfold State.pulAxis
  dsimp only
  split
  · rfl
  · split <;> simp [apply_ite State.besideOutputs]

@[simp] theorem State.pulRegate_besideOutputs (s : State) (p : Nat) : (s.pulRegate p).besideOutputs = s.besideOutputs := by
  unfold State.pulRegate
  dsimp only
  split
  · simp
  · split
    · split <;> simp
    · split
      · split <;> simp [apply_ite State.besideOutputs]
      · rfl

/-! ### Every output -/

@[simp] theorem State.regate_besideOutputs (s : State) : s.regate.besideOutputs = s.besideOutputs :=
  (foldl_keeps _ State.pulRegate_besideOutputs _ _).trans
    ((foldl_keeps _ (fun _ _ => State.dacRegate_besideOutputs _ _ _) _ _).trans (State.hsRegates_besideOutputs _ _))

@[simp] theorem State.settleDacs_besideOutputs (s : State) : s.settleDacs.besideOutputs = s.besideOutputs := rfl

@[simp] theorem State.pulSafe_besideOutputs (s : State) (p : Nat) (decel : Bool) :
    (s.pulSafe p decel).besideOutputs = s.besideOutputs := by
  simp [State.pulSafe, apply_ite State.besideOutputs]

@[simp] theorem State.takeSafe_besideOutputs (s : State) (i : Nat) (t : Time) :
    (s.takeSafe i t).besideOutputs = s.besideOutputs := by
  simp [State.takeSafe, apply_ite State.besideOutputs]

end Sys2Proof.Machine
end

section
/-! PROOFS. The sealed switches (R18, R470): no operation of the field side, of Guard, of Fen Gate, of the Drone, of an update or of a
reset writes SEAL or the latch of its change. -/

namespace Sys2Proof.Machine

/-- SEAL as its switches stand now, and the latch that a change of them sets (R470, R472). -/
def SafState.seal (f : SafState) : BitVec 16 × Bool := (f.sealNow, f.sealLatch)

/-- Every part but the safety part. -/
abbrev notSaf : List Area :=
  [.pending, .regs, .time, .pw, .hif, .stp, .cmb, .blk, .cnv, .fio, .mir, .bog, .wag, .twn, .drn, .leg, .lcy, .peat, .seen, .out, .freeIdx]

theorem State.saf_kept {s t : State} (h : t.mask notSaf = s.mask notSaf) : t.saf = s.saf := State.only_saf h rfl

theorem after_saf_kept {s : State} {o : Host.Outcome State Fault Refusal} (h : nextMask notSaf s o = s.mask notSaf) :
    (after s o).saf = s.saf := by
  cases o with
  | next t => exact State.saf_kept h
  | fault r => rfl
  | refused r => rfl

@[simp] theorem after_next (s t : State) : after s (.next t) = t := rfl

@[simp] theorem after_ite {c : Prop} {_ : Decidable c} (s : State) (a b : Host.Outcome State Fault Refusal) :
    after s (if c then a else b) = if c then after s a else after s b := apply_ite _ _ _ _

@[simp] theorem ite_seal {c : Prop} {_ : Decidable c} (s t : State) :
    (if c then s else t).saf.seal = if c then s.saf.seal else t.saf.seal := apply_ite (fun u => State.saf u |>.seal) _ _ _

@[simp] theorem RuleEnd.ite_state {c : Prop} {_ : Decidable c} (a b : RuleEnd) :
    RuleEnd.state (if c then a else b) = if c then a.state else b.state := apply_ite _ _ _ _

theorem foldl_seal {α : Type} {f : State → α → State} (h : ∀ s x, (f s x).saf.seal = s.saf.seal) (l : List α) (s : State) :
    (l.foldl f s).saf.seal = s.saf.seal := foldl_keeps (fun s => s.saf.seal) h l s

theorem State.seal_of_besideOutputs {s t : State} (h : t.besideOutputs = s.besideOutputs) : t.saf.seal = s.saf.seal :=
  congrArg (fun u => u.saf.seal) h

/-! ### Operations that leave the safety part alone -/

@[simp] theorem State.hsOff_saf (s : State) (i : Nat) : (s.hsOff i).saf = s.saf := rfl
@[simp] theorem State.hsCmdOff_saf (s : State) (i : Nat) : (s.hsCmdOff i).saf = s.saf := rfl
@[simp] theorem State.modHsOn_saf (s : State) (i : Nat) (f : HsRt → HsRt) : (s.modHsOn i f).saf = s.saf := rfl
@[simp] theorem State.pulStop_saf (s : State) (p : Nat) : (s.pulStop p).saf = s.saf := rfl
@[simp] theorem State.settleDacs_saf (s : State) : s.settleDacs.saf = s.saf := rfl
@[simp] theorem State.pathFault_saf (s : State) (station bit : Nat) : (s.pathFault station bit).saf = s.saf := rfl
@[simp] theorem State.closeDebug_saf (s : State) : s.closeDebug.saf = s.saf := State.saf_kept (State.closeDebug_mask rfl s)
@[simp] theorem State.noteCause_saf (s : State) (c : Nat) : (s.noteCause c).saf = s.saf :=
  State.saf_kept (State.noteCause_mask rfl s c)
@[simp] theorem State.judgePhase_saf (s : State) : s.judgePhase.saf = s.saf := State.saf_kept (State.judgePhase_mask rfl s)
@[simp] theorem State.takeValves_saf (s : State) (g states mask : Nat) (t : Time) (fromBlock : Bool) :
    (s.takeValves g states mask t fromBlock).1.saf = s.saf :=
  State.saf_kept (State.takeValves_mask rfl s g states mask t fromBlock)

/-! ### Outputs and their values (R294 to R324, R478 to R481) -/

@[simp] theorem State.envEvent_seal (s : State) (row action : Nat) : (s.envEvent row action).saf.seal = s.saf.seal :=
  State.seal_of_besideOutputs (State.envEvent_besideOutputs s row action)

@[simp] theorem State.hsJudgeOn_seal (s : State) (i : Nat) (l : List Nat) : (s.hsJudgeOn i l).saf.seal = s.saf.seal :=
  State.seal_of_besideOutputs (State.hsJudgeOn_besideOutputs s i l)

@[simp] theorem State.hsCmdOn_seal (s : State) (i : Nat) (l : List Nat) : (s.hsCmdOn i l).saf.seal = s.saf.seal :=
  State.seal_of_besideOutputs (State.hsCmdOn_besideOutputs s i l)

@[simp] theorem State.hsCommand_seal (s : State) (l : List (Nat × Bool)) : (s.hsCommand l).saf.seal = s.saf.seal :=
  State.seal_of_besideOutputs (State.hsCommand_besideOutputs s l)

@[simp] theorem State.hsRegate_seal (s : State) (i : Nat) : (s.hsRegate i).saf.seal = s.saf.seal :=
  State.seal_of_besideOutputs (State.hsRegate_besideOutputs s i)

@[simp] theorem State.dacTake_seal (s : State) (d : Nat) (v : Int) (t : Time) : (s.dacTake d v t).saf.seal = s.saf.seal :=
  State.seal_of_besideOutputs (State.dacTake_besideOutputs s d v t)

@[simp] theorem State.pulRate_seal (s : State) (p : Nat) (hz : Int) : (s.pulRate p hz).saf.seal = s.saf.seal :=
  State.seal_of_besideOutputs (State.pulRate_besideOutputs s p hz)

@[simp] theorem State.pulAxis_seal (s : State) (p profile : Nat) (target : Int) :
    (s.pulAxis p profile target).saf.seal = s.saf.seal :=
  State.seal_of_besideOutputs (State.pulAxis_besideOutputs s p profile target)

@[simp] theorem State.pulRegate_seal (s : State) (p : Nat) : (s.pulRegate p).saf.seal = s.saf.seal :=
  State.seal_of_besideOutputs (State.pulRegate_besideOutputs s p)

@[simp] theorem State.regate_seal (s : State) : s.regate.saf.seal = s.saf.seal :=
  State.seal_of_besideOutputs (State.regate_besideOutputs s)

@[simp] theorem State.takeSafe_seal (s : State) (i : Nat) (t : Time) : (s.takeSafe i t).saf.seal = s.saf.seal :=
  State.seal_of_besideOutputs (State.takeSafe_besideOutputs s i t)

@[simp] theorem State.applyItem_seal (s : State) (it : DownItem) : (s.applyItem it).saf.seal = s.saf.seal := by
  unfold State.applyItem
  dsimp only
  split
  · simp [State.applyValves]
  · split
    · rfl
    · split
      · rfl
      · split <;> simp 

@[simp] theorem State.takeNow_seal (x : State × List (Nat × Bool)) (it : DownItem) :
    (State.takeNow x it).1.saf.seal = x.1.saf.seal := by
  unfold State.takeNow
  split <;> simp

@[simp] theorem State.takeItem_seal (x : State × List (Nat × Bool)) (it : DownItem) :
    (State.takeItem x it).1.saf.seal = x.1.saf.seal := by
  unfold State.takeItem
  split
  · split <;> simp
  · simp

@[simp] theorem State.clearTrip_seal (s : State) (i : Nat) : (s.clearTrip i).saf.seal = s.saf.seal := by simp [State.clearTrip]

@[simp] theorem State.toSafe_seal (s : State) (i : Nat) (t : Time) : (s.toSafe i t).saf.seal = s.saf.seal := by
  simp [State.toSafe]

@[simp] theorem State.fromSafe_seal (s : State) (i : Nat) : (s.fromSafe i).saf.seal = s.saf.seal := by
  unfold State.fromSafe
  dsimp only
  rw [State.fieldRaise_saf]
  split <;> simp

@[simp] theorem State.holdCycle_seal (s : State) (i : Nat) : (s.holdCycle i).saf.seal = s.saf.seal := by
  unfold State.holdCycle
  dsimp only
  split
  · rfl
  · split
    · rfl
    · split
      · rfl
      · simp 
      · simp 

/-! ### Updates of the safety part -/

@[simp] theorem SafState.seal_groups (f : SafState) (x : Sparse GroupRt) :
    SafState.seal { f with groups := x } = f.seal := rfl
@[simp] theorem SafState.seal_sin (f : SafState) (x : Sparse SinRt) : SafState.seal { f with sin := x } = f.seal := rfl
@[simp] theorem SafState.seal_remote (f : SafState) (x : Sparse RemoteRt) :
    SafState.seal { f with remote := x } = f.seal := rfl
@[simp] theorem SafState.seal_remote_mismatchCnt (f : SafState) (x : Sparse RemoteRt) (n : Nat) :
    SafState.seal { f with remote := x, mismatchCnt := n } = f.seal := rfl
@[simp] theorem SafState.seal_remote_absentCnt (f : SafState) (x : Sparse RemoteRt) (n : Nat) :
    SafState.seal { f with remote := x, absentCnt := n } = f.seal := rfl
@[simp] theorem SafState.seal_disagreeCnt (f : SafState) (n : Nat) :
    SafState.seal { f with disagreeCnt := n } = f.seal := rfl
@[simp] theorem SafState.seal_discrepCnt (f : SafState) (n : Nat) : SafState.seal { f with discrepCnt := n } = f.seal := rfl
@[simp] theorem SafState.seal_cutCnt (f : SafState) (n : Nat) : SafState.seal { f with cutCnt := n } = f.seal := rfl
@[simp] theorem SafState.seal_cfgFault (f : SafState) (b : Bool) : SafState.seal { f with cfgFault := b } = f.seal := rfl
@[simp] theorem SafState.seal_guardFault (f : SafState) (b : Bool) :
    SafState.seal { f with guardFault := b } = f.seal := rfl
@[simp] theorem SafState.seal_guardRun (f : SafState) (b : Bool) : SafState.seal { f with guardRun := b } = f.seal := rfl
@[simp] theorem SafState.seal_pairBad_pairUp (f : SafState) (n : Nat) (b : Bool) :
    SafState.seal { f with pairBad := n, pairUp := b } = f.seal := rfl
@[simp] theorem SafState.seal_scnt (f : SafState) (w c : Word) (l : List Nat) :
    SafState.seal { f with scnt := w, sendCycle := c, sendWins := l } = f.seal := rfl
@[simp] theorem SafState.seal_cutShort (f : SafState) (x : Option RulePass) :
    SafState.seal { f with cutShort := x } = f.seal := rfl
@[simp] theorem SafState.seal_rows (f : SafState) (x : Sparse (BitVec 128)) :
    SafState.seal { f with rows := x } = f.seal := rfl
@[simp] theorem SafState.seal_ruleState (f : SafState) (h : BitVec 16) (g : Sparse (BitVec 64)) (x : Option RulePass) :
    SafState.seal { f with rulesHold := h, guardTab := g, cutShort := x } = f.seal := rfl
@[simp] theorem SafState.seal_sealRead_rulesHold (f : SafState) (w h : BitVec 16) :
    SafState.seal { f with sealRead := w, rulesHold := h } = f.seal := rfl
@[simp] theorem SafState.seal_verified (f : SafState) (a b : Bool) (w h : BitVec 16) :
    SafState.seal { f with fgVerified := a, sealRead := w, cfgFault := b, rulesHold := h } = f.seal := rfl
@[simp] theorem SafState.seal_lastEnv (f : SafState) (l : Sparse Nat) :
    SafState.seal { f with lastEnv := l } = f.seal := rfl
@[simp] theorem SafState.fitInputs_seal (f : SafState) : f.fitInputs.seal = f.seal := rfl
@[simp] theorem SafState.newEpoch_seal (f : SafState) : f.newEpoch.seal = f.seal := rfl
@[simp] theorem SafState.writeRows_seal (f : SafState) (txn : Nat) (l : List (BitVec 128 × Nat)) :
    (f.writeRows txn l).seal = f.seal := rfl
@[simp] theorem SafState.programBits_seal (f : SafState) (l : List (Nat × Nat)) : (f.programBits l).seal = f.seal := rfl
@[simp] theorem SafState.powerDown_seal (f : SafState) : f.powerDown.seal = f.seal := rfl

/-! ### What demands a group (R466 to R468, R484 to R487) -/

@[simp] theorem State.putGroup_seal (s : State) (g : Nat) (guard fg : Demand) :
    (s.putGroup g guard fg).saf.seal = s.saf.seal := by
  simp [State.putGroup]

@[simp] theorem State.putGroups_seal (s : State) (f : Nat → GroupRt → Demand × Demand) :
    (s.putGroups f).saf.seal = s.saf.seal := by
  have hall := foldl_seal (fun t g => State.putGroup_seal t g (f g (t.saf.group g)).1 (f g (t.saf.group g)).2) (List.range 16) s
  simp [State.putGroups, hall]

@[simp] theorem State.safUpdate_seal (s : State) : s.safUpdate.saf.seal = s.saf.seal := by simp [State.safUpdate]

@[simp] theorem State.guardPermits_seal (s : State) (g : Nat) : (s.guardPermits g).saf.seal = s.saf.seal := by
  simp [State.guardPermits]

@[simp] theorem State.discrepancy_seal (s : State) (i : Nat) : (s.discrepancy i).saf.seal = s.saf.seal := rfl

@[simp] theorem State.cfgCheck_seal (s : State) : s.cfgCheck.saf.seal = s.saf.seal := by
  unfold State.cfgCheck
  split
  · rfl
  · simp 

@[simp] theorem State.takeCopy_seal (s : State) (pair : Bool) (b : List Byte) : (s.takeCopy pair b).saf.seal = s.saf.seal := by
  simp only [State.takeCopy, State.safUpdate_seal, State.pathFault_saf, State.setSaf_saf,
    SafState.seal_remote_mismatchCnt, ite_seal, ite_self]

@[simp] theorem State.guardFails_seal (s : State) (test : BitVec 8) : (s.guardFails test).saf.seal = s.saf.seal := by
  simp [State.guardFails]

/-! ### The rule store (R492) -/

@[simp] theorem State.rulesApplied_seal (s : State) (groups : List Nat) (added retired : Nat) (params : List (BitVec 64)) :
    (s.rulesApplied groups added retired params).saf.seal = s.saf.seal := by
  unfold State.rulesApplied
  extract_lets f held armed demanded gated raised left
  have hraised : raised.saf.seal = s.saf.seal := by simp [raised, gated, demanded, armed, f]
  split
  · rw [State.fieldRaise_saf, hraised]
  · exact hraised

theorem State.applyRules_seal (s : State) (part : List Byte) : (s.applyRules part).state.saf.seal = s.saf.seal := by
  unfold State.applyRules
  split
  · rfl
  · extract_lets again need changed groups rows txn pass good power u full
    have hfull : full.seal = s.saf.seal := rfl
    clear_value power
    split
    · rfl
    · cases power with
      | none =>
        dsimp only
        split <;> simp [hfull]
      | some k =>
        dsimp only
        split
        · simp [u]
        · split <;> simp [hfull]

end Sys2Proof.Machine
end

section
/-! PROOFS. The commands that touch the safety part, one by one: none but SEAL_CHANGE writes SEAL or its latch (R18, R470), and what
SEAL_CHANGE writes there stays to its end (R472). -/

namespace Sys2Proof.Machine

/-! ### Power, reset and boot (R490, R593, R598, R575) -/

@[simp] theorem State.fieldDown_seal (s : State) : s.fieldDown.saf.seal = s.saf.seal := by
  have h : (s.commitLedger.closeDebug.loseTables).saf = s.saf := by
    rw [State.saf_kept (State.loseTables_mask rfl _), State.closeDebug_saf, State.saf_kept (State.commitLedger_mask rfl _)]
  exact (SafState.powerDown_seal _).trans (congrArg SafState.seal h)

@[simp] theorem State.fieldStart_seal (s : State) : s.fieldStart.saf.seal = s.saf.seal := by
  have h : s.fieldStart.saf.seal = s.closeDebug.saf.seal := rfl
  rw [h, State.closeDebug_saf]

@[simp] theorem State.adoptHalf_seal (s : State) (old new : Activation) : (s.adoptHalf old new).saf.seal = s.saf.seal := by
  simp [State.adoptHalf]

theorem execLogicResetRelease_seal (s : State) : (after s (execLogicResetRelease s)).saf.seal = s.saf.seal := by
  simp [execLogicResetRelease]

theorem execPresenceRelease_seal (side : Side) (s : State) :
    (after s (execPresenceRelease side s)).saf.seal = s.saf.seal := by
  cases side with
  | logic =>
    simp only [execPresenceRelease, after_next]
    split
    · rfl
    · rw [State.saf_kept (State.logicOff_mask rfl _ _), State.setPw_saf]
  | field =>
    simp only [execPresenceRelease, after_next]
    split
    · rw [State.fieldDown_seal, State.setPw_saf]
    · rfl

theorem execFieldPowerGood_seal (s : State) : (after s (execFieldPowerGood s)).saf.seal = s.saf.seal := by
  simp [execFieldPowerGood,
    State.saf_kept (State.peatPowerUp_mask rfl _)]

theorem execFieldPowerLoss_seal (s : State) : (after s (execFieldPowerLoss s)).saf.seal = s.saf.seal := by
  simp [execFieldPowerLoss]

@[simp] theorem State.bootFallback_seal (s : State) : s.bootFallback.saf.seal = s.saf.seal := by
  simp [State.bootFallback]

@[simp] theorem State.turnCold_seal (s : State) : s.turnCold.saf.seal = s.saf.seal := by
  simp [State.turnCold]

theorem execLogicBootVerified_seal (slotOk retentionOk : Bool) (s : State) :
    (after s (execLogicBootVerified slotOk retentionOk s)).saf.seal = s.saf.seal := by
  simp [execLogicBootVerified,
    State.saf_kept (State.loadPersistent_mask rfl _ _), State.saf_kept (State.coldCounters_mask rfl _),
    State.saf_kept (State.takeRole_mask rfl _)]

theorem execEjectForceSafe_seal (s : State) : (after s (execEjectForceSafe s)).saf.seal = s.saf.seal := by
  unfold execEjectForceSafe
  split
  · rfl
  · rw [after_next]
    refine (foldl_seal (fun t p => ?_) _ _).trans (foldl_seal (fun t i => ?_) _ _) <;> simp

/-! ### The barrier (R17, R21) -/

@[simp] theorem State.fieldArrive_saf (s : State) (it : DownItem) (t : Time) : (s.fieldArrive it t).saf = s.saf :=
  State.saf_kept (State.fieldArrive_mask rfl s it t)

@[simp] theorem State.downTake_seal (s : State) (it : DownItem) : (s.downTake it).saf.seal = s.saf.seal := by
  cases it with
  | actUntil t drive => simp [State.downTake]
  | launch q v =>
    unfold State.downTake
    dsimp only
    split <;> simp
  | holdReq loop th => exact congrArg SafState.seal (State.saf_kept (State.takeHoldReq_mask rfl s loop th))
  | update k b => exact congrArg SafState.seal (State.saf_kept (State.takeUpdate_mask rfl s k b))
  | holdTable l => exact congrArg SafState.seal (State.saf_kept (State.takeHold_mask rfl s l))
  | timeMark t => simp [State.downTake, State.takeMark]
  | _ => simp [State.downTake]

theorem execDownlinkFrame_seal (valid : Bool) (s : State) :
    (after s (execDownlinkFrame valid s)).saf.seal = s.saf.seal := by
  unfold execDownlinkFrame
  split
  · rfl
  · dsimp only
    split
    · simp
    · split
      · simp
      · split
        · simp [State.saf_kept (State.loseLogic_mask rfl _)]
        · exact congrArg SafState.seal (State.saf_kept (State.sendScans_mask rfl _))
        · simp
        · exact congrArg SafState.seal (State.saf_kept (State.sendFio_mask rfl _))
        · simp

/-! ### Field values and basic cycles (R144, R304, R310, R480) -/

theorem execFieldOutputInstant_seal (s : State) : (after s (execFieldOutputInstant s)).saf.seal = s.saf.seal := by
  unfold execFieldOutputInstant
  split
  · rfl
  · simp only [after_ite, after_next, ite_seal, State.hsCommand_seal]
    rw [foldl_keeps (fun x : State × List (Nat × Bool) => x.1.saf.seal) State.takeItem_seal]
    simp

theorem execDutyPeriodStart_seal (o : Fin 48) (s : State) : (after s (execDutyPeriodStart o s)).saf.seal = s.saf.seal := by
  simp [execDutyPeriodStart]

theorem execHoldPolicyCycleEnd_seal (s : State) : (after s (execHoldPolicyCycleEnd s)).saf.seal = s.saf.seal := by
  simp only [execHoldPolicyCycleEnd, after_ite, after_next, ite_seal, foldl_seal State.holdCycle_seal, ite_self]

theorem execOnmaxCut_seal (o : Fin 48) (s : State) : (after s (execOnmaxCut o s)).saf.seal = s.saf.seal := by
  unfold execOnmaxCut
  dsimp only
  split
  · rfl
  · simp

theorem execOffminEnd_seal (o : Fin 48) (s : State) : (after s (execOffminEnd o s)).saf.seal = s.saf.seal := by
  simp [execOffminEnd]

theorem execRateDelayEnd_seal (o : Fin 48) (s : State) : (after s (execRateDelayEnd o s)).saf.seal = s.saf.seal := by
  simp [execRateDelayEnd]

theorem execActUntil_seal (s : State) : (after s (execActUntil s)).saf.seal = s.saf.seal := by
  unfold execActUntil
  extract_lets twn lapsed twn' stopped
  have hlapsed : lapsed.saf.seal = s.saf.seal := by
    unfold lapsed
    split <;> simp
  have hstopped : stopped.saf.seal = s.saf.seal := hlapsed
  clear_value stopped
  split
  · simp [hstopped, hlapsed, State.saf_kept (State.stopActing_mask rfl _ _)]
  · exact hlapsed

/-! ### A base period (R160, R276) -/

@[simp] theorem State.hsModeChange_seal (s : State) (i : Nat) : (s.hsModeChange i).saf.seal = s.saf.seal := by
  simp [State.hsModeChange]

@[simp] theorem State.applyDacTable_seal (s : State) : s.applyDacTable.saf.seal = s.saf.seal := by
  unfold State.applyDacTable
  dsimp only
  split
  · rfl
  · exact (foldl_seal (fun t d => by simp) _ _).trans rfl

/-- The field side's tables take effect: high-side entries, inputs, encoders, pulse outputs in turn (R276). -/
@[simp] theorem State.applyFioTables_seal (s : State) : s.applyFioTables.saf.seal = s.saf.seal := by
  unfold State.applyFioTables
  extract_lets f t tabled hs di enc
  have hhs : hs.saf.seal = s.saf.seal := by
    unfold hs
    split
    · rfl
    · exact (foldl_seal (fun u i => by simp) _ _).trans rfl
  have hdi : di.saf.seal = s.saf.seal := by
    unfold di
    split
    · exact hhs
    · exact (foldl_seal (fun u i => by simp) _ _).trans hhs
  have henc : enc.saf.seal = s.saf.seal := by
    unfold enc
    split
    · exact hdi
    · exact (foldl_seal (fun u i => by simp) _ _).trans hdi
  split
  · exact henc
  · exact (foldl_seal (fun u i => by simp) _ _).trans henc

@[simp] theorem State.beginPeriod_seal (s : State) (n : Nat) (enc : List EncReading) :
    (s.beginPeriod n enc).saf.seal = s.saf.seal := by
  simp [State.beginPeriod, State.saf_kept (State.reportClamps_mask rfl _), State.saf_kept (State.mirPattern_mask rfl _ _),
    State.saf_kept (State.applyCal_mask rfl _), State.saf_kept (State.startConvPeriod_mask rfl _ _),
    State.saf_kept (State.convPattern_mask rfl _), State.saf_kept (State.latchEncs_mask rfl _ _ _),
    State.saf_kept (State.shiftLatches_mask rfl _), State.saf_kept (State.keepGrid_mask rfl _),
    State.saf_kept (State.dueChanges_mask rfl _ _)]

theorem execBasePeriodStart_seal (enc : List EncReading) (s : State) :
    (after s (execBasePeriodStart enc s)).saf.seal = s.saf.seal := by
  simp [execBasePeriodStart, State.saf_kept (State.mirStart_mask rfl _), State.saf_kept (State.twinPeriod_mask rfl _ _),
    State.saf_kept (State.endSnapshot_mask rfl _ _), State.saf_kept (State.endConvPeriod_mask rfl _ _ _),
    State.saf_kept (State.mirPeriod_mask rfl _ _), State.saf_kept (State.baseOverrun_mask rfl _)]

/-! ### Safety inputs, groups and frames (R483 to R489) -/

theorem execSafetyInputChange_seal (input : Fin 4) (chanB closed : Bool) (s : State) :
    (after s (execSafetyInputChange input chanB closed s)).saf.seal = s.saf.seal := by
  unfold execSafetyInputChange
  extract_lets i old r saf
  split
  · rfl
  · split
    · rfl
    · split <;> simp [saf]

theorem execSafetyInputDiscTimeout_seal (input : Fin 4) (s : State) :
    (after s (execSafetyInputDiscTimeout input s)).saf.seal = s.saf.seal := by
  simp [execSafetyInputDiscTimeout]

theorem execTestPulse_seal (srcB : Bool) (follows : BitVec 8) (s : State) :
    (after s (execTestPulse srcB follows s)).saf.seal = s.saf.seal := by
  unfold execTestPulse
  split
  · rfl
  · rw [after_next]
    exact foldl_seal (fun t i => by simp) _ _

theorem execFenGateVerified_seal (s : State) : (after s (execFenGateVerified s)).saf.seal = s.saf.seal := by
  simp [execFenGateVerified]

theorem execGuardSelfTestDone_seal (passed : Bool) (test : BitVec 8) (s : State) :
    (after s (execGuardSelfTestDone passed test s)).saf.seal = s.saf.seal := by
  simp [execGuardSelfTestDone]

theorem execElementTest_seal (out : Fin 48) (passed : Bool) (test : BitVec 8) (s : State) :
    (after s (execElementTest out passed test s)).saf.seal = s.saf.seal := by
  simp [execElementTest]

theorem execGuardSafetyCycle_seal (s : State) : (after s (execGuardSafetyCycle s)).saf.seal = s.saf.seal := by
  unfold execGuardSafetyCycle
  split
  · rfl
  · rw [after_next]
    exact foldl_seal (fun t g => by simp) _ _

theorem execManualRestart_seal (group : Fin 16) (pulseMs : Nat) (s : State) :
    (after s (execManualRestart group pulseMs s)).saf.seal = s.saf.seal := by
  simp [execManualRestart]

theorem execDisagree_seal (group : Fin 16) (s : State) : (after s (execDisagree group s)).saf.seal = s.saf.seal := by
  simp [execDisagree]

theorem execSafetyPairCopy_seal (bytes : List Byte) (framed : Bool) (s : State) :
    (after s (execSafetyPairCopy bytes framed s)).saf.seal = s.saf.seal := by
  simp [execSafetyPairCopy]

theorem execSafetyPathAbsence_seal (station : Fin 4096) (missing : SafetyPath) (s : State) :
    (after s (execSafetyPathAbsence station missing s)).saf.seal = s.saf.seal := by
  simp [execSafetyPathAbsence]

theorem execSafetyWatchExpiry_seal (station : Fin 4096) (path : SafetyPath) (s : State) :
    (after s (execSafetyWatchExpiry station path s)).saf.seal = s.saf.seal := by
  simp [execSafetyWatchExpiry]

theorem execSafetyFrameSend_seal (s : State) : (after s (execSafetyFrameSend s)).saf.seal = s.saf.seal := by
  unfold execSafetyFrameSend
  dsimp only
  split
  · rfl
  · split <;> simp

/-! ### The Drone (R495 to R515) -/

@[simp] theorem State.loopOutput_seal (s : State) (l : LoopRt) : (s.loopOutput l).saf.seal = s.saf.seal := by
  simp [State.loopOutput]

@[simp] theorem State.takeCommand_seal (s : State) : s.takeCommand.saf.seal = s.saf.seal := by
  unfold State.takeCommand
  extract_lets d again fio t
  have ht : t.saf.seal = s.saf.seal := rfl
  split
  · exact (foldl_seal (fun u id => State.takeSafe_seal u _ _) _ _).trans ht
  · exact ht

theorem execDroneOutputInstant_seal (s : State) : (after s (execDroneOutputInstant s)).saf.seal = s.saf.seal := by
  simp [execDroneOutputInstant, foldl_seal (fun t (x : Nat × LoopRt) => State.loopOutput_seal t x.2)]

@[simp] theorem State.stackFault_seal (s : State) (d : DrnState) : (s.stackFault d).saf.seal = s.saf.seal := by
  have hfails (t : State) : t.droneFails.saf.seal = t.saf.seal :=
    (foldl_seal (fun u id => State.takeSafe_seal u _ _) _ _).trans rfl
  simp [State.stackFault, hfails]

theorem execDroneInputLatch_seal (s : State) : (after s (execDroneInputLatch s)).saf.seal = s.saf.seal := by
  simp [execDroneInputLatch, State.saf_kept (State.confirmHandovers_mask rfl _)]

/-! ### The life cycle and updates (R492, R553 to R576) -/

@[simp] theorem State.lifeCycleGroups_seal (s : State) : s.lifeCycleGroups.saf.seal = s.saf.seal := by
  simp [State.lifeCycleGroups]

/-- What a transition does before both halves follow it leaves the safety part alone. -/
@[simp] theorem State.transition_seal (s : State) (st : LcState) (key : List Byte) :
    (s.transition st key).saf.seal = s.saf.seal := by
  unfold State.transition
  extract_lets l n copy l' l'' told t pw t' closed
  have ht : t.saf = s.saf := by
    simp only [t, told, State.setLcy_saf]
    split <;> rfl
  have ht' : t'.saf = s.saf := by
    unfold t'
    split
    · exact ht
    · exact ht
  rw [State.lifeCycleGroups_seal, State.saf_kept (State.accessLost_mask rfl _), State.raise_saf, State.noteCause_saf,
    State.closeDebug_saf, ht']

theorem State.tokenActs_seal {s t : State} {op : TokenOp} {body key : List Byte} (h : s.tokenActs op body key = some t) :
    t.saf.seal = s.saf.seal := by
  cases op with
  | transition st =>
    simp only [State.tokenActs] at h
    split at h
    · cases h
    · cases h
      simp
  | debug field =>
    cases h
    simp
  | addKey =>
    simp only [State.tokenActs] at h
    split at h
    · cases h
      simp
    · cases h
  | removeKey =>
    simp only [State.tokenActs] at h
    split at h
    · cases h
    · cases h
      simp

@[simp] theorem State.takeToken_seal (s : State) (b : List Byte) : (s.takeToken b).1.saf.seal = s.saf.seal := by
  unfold State.takeToken
  extract_lets l body
  split
  · rfl
  · split
    · rfl
    · split
      · rfl
      · rfl
      · split
        · rfl
        · split
          · rfl
          · next t ht => exact (congrArg SafState.seal (t.setLcy_saf _)).trans (State.tokenActs_seal ht)

theorem execToken_seal (seq : Word) (bytes : List Byte) (s : State) : (after s (execToken seq bytes s)).saf.seal = s.saf.seal := by
  simp only [execToken, after_next, State.service]
  split
  · rfl
  · split
    · simp
    · split <;> rfl

theorem State.activationRules_seal (s : State) (a : Activation) : (s.activationRules a).state.saf.seal = s.saf.seal := by
  simp [State.activationRules, State.applyRules_seal]

@[simp] theorem State.commitActivation_seal (s : State) : s.commitActivation.saf.seal = s.saf.seal := by
  simp [State.commitActivation, State.saf_kept (State.holdLogic_mask rfl _ _ _), State.saf_kept (State.applyCalPart_mask rfl _ _)]

@[simp] theorem State.refuseActivation_saf (s : State) (c : Byte) : (s.refuseActivation c).saf = s.saf := rfl

theorem execActivationCommit_seal (s : State) : (after s (execActivationCommit s)).saf.seal = s.saf.seal := by
  have hrules := State.activationRules_seal s s.lcy.inactive
  simp only [execActivationCommit]
  split
  · rfl
  · split
    · rfl
    · split
      · rfl
      · split <;> rename_i heq <;> rw [heq] at hrules
        · simpa using hrules
        · simpa using hrules
        · simpa using hrules

end Sys2Proof.Machine
end

section
/-! PROOFS. No command but SEAL_CHANGE writes SEAL or its latch (R18, R470, R472). -/

namespace Sys2Proof.Machine

/-- A command that may touch the safety part keeps SEAL by its own lemma, any other because it leaves the safety part alone. -/
theorem exec_seal {c : Instr} (hc : ∀ v, c ≠ .sealChange v) (s : State) : (after s (exec c s)).saf.seal = s.saf.seal := by
  cases c with
  | sealChange v => exact absurd rfl (hc v)
  | logicResetRelease => exact execLogicResetRelease_seal s
  | presenceRelease side => exact execPresenceRelease_seal side s
  | fieldPowerGood => exact execFieldPowerGood_seal s
  | fieldPowerLoss => exact execFieldPowerLoss_seal s
  | logicBootVerified slotOk retentionOk => exact execLogicBootVerified_seal slotOk retentionOk s
  | ejectForceSafe => exact execEjectForceSafe_seal s
  | downlinkFrame valid => exact execDownlinkFrame_seal valid s
  | basePeriodStart enc => exact execBasePeriodStart_seal enc s
  | fieldOutputInstant => exact execFieldOutputInstant_seal s
  | dutyPeriodStart out => exact execDutyPeriodStart_seal out s
  | holdPolicyCycleEnd => exact execHoldPolicyCycleEnd_seal s
  | actUntil => exact execActUntil_seal s
  | safetyInputChange input chanB closed => exact execSafetyInputChange_seal input chanB closed s
  | safetyInputDiscTimeout input => exact execSafetyInputDiscTimeout_seal input s
  | testPulse srcB follows => exact execTestPulse_seal srcB follows s
  | safetyFrameSend => exact execSafetyFrameSend_seal s
  | safetyPairCopy bytes framed => exact execSafetyPairCopy_seal bytes framed s
  | safetyPathAbsence station missing => exact execSafetyPathAbsence_seal station missing s
  | safetyWatchExpiry station path => exact execSafetyWatchExpiry_seal station path s
  | disagree group => exact execDisagree_seal group s
  | guardSafetyCycle => exact execGuardSafetyCycle_seal s
  | manualRestart group pulseMs => exact execManualRestart_seal group pulseMs s
  | onmaxCut out => exact execOnmaxCut_seal out s
  | offminEnd out => exact execOffminEnd_seal out s
  | rateDelayEnd out => exact execRateDelayEnd_seal out s
  | fenGateVerified => exact execFenGateVerified_seal s
  | guardSelfTestDone passed test => exact execGuardSelfTestDone_seal passed test s
  | elementTest out passed test => exact execElementTest_seal out passed test s
  | droneInputLatch => exact execDroneInputLatch_seal s
  | droneOutputInstant => exact execDroneOutputInstant_seal s
  | activationCommit => exact execActivationCommit_seal s
  | token seq bytes => exact execToken_seal seq bytes s
  | _ => exact congrArg SafState.seal (after_saf_kept (nextMask_mono rfl (exec_mask _ s)))

/-- SEAL_CHANGE sets SEAL and, where it is another value, the latch; nothing that follows the change writes either. -/
theorem execSealChange_seal (v : BitVec 16) (s : State) :
    (after s (execSealChange v s)).saf.seal = (v, if v = s.saf.sealNow then s.saf.sealLatch else true) := by
  unfold execSealChange
  split
  · next hsame => simp [SafState.seal, hsame]
  · extract_lets old settled saf changed told held saf' read moved demanded fitted released
    have htold : told.saf.seal = (v, true) := rfl
    have hread : read.saf.seal = (v, true) := rfl
    have hdemanded : demanded.saf.seal = (v, true) := by
      unfold demanded
      split
      · simp [hread]
      · exact hread
    clear_value told demanded
    split
    · exact htold
    · simp [released, fitted, hdemanded]

/-- Settles O55: SEAL and its latch as one value, which every other command keeps and SEAL_CHANGE sets. -/
theorem sealMovesOnlyByItsSwitches : Obligations.SealMovesOnlyByItsSwitches := by
  refine ⟨fun c s t hc hnext => ?other, fun v s t hnext => ?change⟩
  case other =>
    have hkept := exec_seal hc s
    rw [hnext] at hkept
    exact congrArg Prod.fst hkept
  case change =>
    have hset : (after s (exec (.sealChange v) s)).saf.seal = _ := execSealChange_seal v s
    rw [hnext] at hset
    exact ⟨congrArg Prod.fst hset, fun hne => (congrArg Prod.snd hset).trans (if_neg hne)⟩

end Sys2Proof.Machine
end

section
/-! PROOFS. The field reference (R25, R27), the scrubber (R33) and memory errors (R34, R39, R358). -/

namespace Sys2Proof.Machine

/-! ### The field reference -/

theorem exec_fieldRefLost {s : State} (hup : s.pw.fieldUp = true) (hfb : s.pw.frefFb = false) :
    exec .fieldRefLost s = .next (((s.setPw { s.pw with
      frefFb := true, frefFbSeen := true, frefReturn := false, clkFbCnt := satInc 0xFFFF s.pw.clkFbCnt }).countLedger 13).fieldRaise 0x46 1) := by
  change execFieldRefLost s = _
  simp [execFieldRefLost, hup, hfb]

theorem exec_fieldRefRestored {s : State} (hup : s.pw.fieldUp = true) (hfb : s.pw.frefFb = true) :
    exec .fieldRefRestored s = .next { s with pw := { s.pw with frefReturn := true } } := by
  change execFieldRefRestored s = _
  simp [execFieldRefRestored, hup, hfb, State.setPw]

theorem exec_fieldRefSwitchBack {s : State} (hfb : s.pw.frefFb = true) (hdue : s.pw.frefReturn = true) :
    exec .fieldRefSwitchBack s =
      .next ((s.setPw { s.pw with frefFb := false, frefReturn := false }).fieldRaise 0x46 0) := by
  change execFieldRefSwitchBack s = _
  simp [execFieldRefSwitchBack, hfb, hdue]

/-! ### The scrubber and memory errors -/

theorem exec_scrub {s : State} (n : Nat) (hawake : s.logicAwake = true) :
    exec (.scrub n) s = .next { s with pw := { s.pw with ceCnt := satAdd 0xFFFF s.pw.ceCnt n, ceSecond := s.pw.ceSecond + n } } := by
  change execScrub n s = _
  simp [execScrub, hawake, State.setPw]

/-- A warm restart of a module that is no holder, with no restart asked for, is taken at once. -/
theorem State.warmRestart_of_noHolder {s : State} (cause : Nat) (why : HandoverWhy) (hnone : s.pw.restart = none)
    (hholder : s.twn.st ≠ .holder) :
    s.warmRestart cause why = (s.setPw { s.pw with restart := some { cold := false, cause := cause } }).holdLogic false cause := by
  simp [State.warmRestart, State.askRestart, State.takeRestart, hnone, hholder]

theorem exec_sramUncorrectable_retention {s : State} {b : Fin 32} (hawake : s.logicAwake = true) (hbank : b.val < 8) :
    exec (.sramUncorrectable b) s = .next ((((s.setPw { s.pw with ueCnt := satInc 0xFFFF s.pw.ueCnt }).countLogic 14).setPw
      { s.pw with ueCnt := satInc 0xFFFF s.pw.ueCnt, retention := false, retInval := true }).raise 0x3E 0) := by
  change execSramUncorrectable b s = _
  simp [execSramUncorrectable, hawake, hbank, State.setPw]

theorem exec_sramUncorrectable_working {s : State} {b : Fin 32} (hawake : s.logicAwake = true) (hbank : 8 ≤ b.val) :
    exec (.sramUncorrectable b) s =
      .next (((s.setPw { s.pw with ueCnt := satInc 0xFFFF s.pw.ueCnt }).countLogic 14).warmRestart 4 .memory) := by
  change execSramUncorrectable b s = _
  simp [execSramUncorrectable, hawake, Nat.not_lt.mpr hbank]

theorem exec_lpddr5LinkError_working {s : State} (hawake : s.logicAwake = true) :
    exec (.lpddr5LinkError .working) s = .next (s.warmRestart 4 .memory) := by
  change execLpddr5LinkError .working s = _
  simp [execLpddr5LinkError, hawake]

theorem exec_lpddr5LinkError_bog {s : State} (r : Fin 16) (k : Nat) (hawake : s.logicAwake = true) :
    exec (.lpddr5LinkError (.bog r k)) s = .next (s.bogLinkError r.val k) := by
  change execLpddr5LinkError (.bog r k) s = _
  simp [execLpddr5LinkError, hawake]

/-- The uncorrectable error of a link is counted, whether or not a frame of the region stands there (R358). -/
theorem State.bogLinkError_eccCnt (s : State) (r offset : Nat) :
    (s.bogLinkError r offset).mir.eccCnt = satInc 0xFFFFFFFF s.mir.eccCnt := by
  simp only [State.bogLinkError, State.raise_mir]
  split
  · simp [State.modReg]
  · rfl

/-- A warm restart of a module that is no holder, with no restart asked for, holds the logic side with its registers at reset. -/
theorem State.warmRestart_holds {s : State} (cause : Nat) (why : HandoverWhy) (hnone : s.pw.restart = none) (hholder : s.twn.st ≠ .holder) :
    (s.warmRestart cause why).pw.logic = .held ∧
      (s.warmRestart cause why).pw.restart = some { cold := false, cause := cause } ∧ (s.warmRestart cause why).regs = [] := by
  rw [State.warmRestart_of_noHolder cause why hnone hholder]
  exact ⟨rfl, rfl, rfl⟩

/-- Settles O5, clause by clause from what each command leaves: the equations above give the state, the masks of the
commands give its frame. -/
theorem fieldReferenceAndMemoryErrors : Obligations.FieldReferenceAndMemoryErrors := by
  unfold Obligations.FieldReferenceAndMemoryErrors
  refine ⟨?lost, ?restored, ?switchBack, ?scrub, ?retention, ?working, ?link, ?bog⟩
  case lost =>
    intro s hup hfb
    have hnext := exec_fieldRefLost hup hfb
    exact ⟨_, hnext, by simp [State.setPw], only_of_nextMask (execFieldRefLost_mask rfl s) hnext⟩
  case restored => exact fun s hup hfb => exec_fieldRefRestored hup hfb
  case switchBack =>
    intro s hfb hdue
    have hnext := exec_fieldRefSwitchBack hfb hdue
    exact ⟨_, hnext, by simp [State.setPw], only_of_nextMask (execFieldRefSwitchBack_mask rfl s) hnext⟩
  case scrub => exact fun s n hawake => exec_scrub n hawake
  case retention =>
    intro s b hawake hbank
    refine ⟨_, exec_sramUncorrectable_retention hawake hbank, by simp [State.setPw], ?_⟩
    exact (State.raise_mask rfl _ _ _).trans <| (State.setPw_mask rfl _ _).trans <|
      (State.countLogic_mask rfl _ _).trans (State.setPw_mask rfl _ _)
  case working =>
    intro s b hawake hbank hnone hholder
    have hnext := exec_sramUncorrectable_working hawake hbank
    exact ⟨_, hnext, State.warmRestart_holds 4 .memory (by simpa [State.setPw] using hnone) (by simpa [State.setPw] using hholder),
      only_of_nextMask (execSramUncorrectable_mask rfl b s) hnext⟩
  case link =>
    intro s hawake hnone hholder
    have hnext := exec_lpddr5LinkError_working hawake
    exact ⟨_, hnext, State.warmRestart_holds 4 .memory hnone hholder, only_of_nextMask (execLpddr5LinkError_mask rfl .working s) hnext⟩
  case bog =>
    intro s r k hawake
    exact ⟨_, exec_lpddr5LinkError_bog r k hawake, State.bogLinkError_eccCnt s r k, State.bogLinkError_mask rfl s r k⟩

end Sys2Proof.Machine
end

section
/-! PROOFS. Time marks, the downlink and absence (R17, R19, R20, R21, R296, R314). -/

namespace Sys2Proof.Machine

/-! ### Absence -/

theorem State.abortHandover_pw (s : State) : s.abortHandover.pw = s.pw :=
  State.only_pw (ps := [.cnv, .fio]) (State.abortHandover_mask rfl s) rfl

theorem State.abortHandover_drn (s : State) : s.abortHandover.drn = s.drn :=
  State.only_drn (ps := [.cnv, .fio]) (State.abortHandover_mask rfl s) rfl

theorem State.abortHandover_twn (s : State) : s.abortHandover.twn = s.twn :=
  State.only_twn (ps := [.cnv, .fio]) (State.abortHandover_mask rfl s) rfl

/-- The logic side that goes absent ends a handover in overlap, stops the lists, and begins the interval of reduced service. -/
theorem State.loseLogic_of_present {s : State} (hup : s.pw.fieldUp = true) (hpresent : s.pw.logicAbsent = false) :
    s.loseLogic.pw = { s.pw with logicAbsent := true, missedMarks := 20 } ∧ s.loseLogic.cnv.listsRun = false ∧
      s.loseLogic.drn = { s.drn with takeDue := !s.twn.fieldMember, scanOn := false, rsRun := some 0 } := by
  simp only [State.loseLogic, hup, hpresent, Bool.not_true, Bool.or_false, Bool.false_eq_true, if_false]
  split
  · split <;> simp [State.abortHandover_pw, State.abortHandover_drn, State.abortHandover_twn, hup]
  · simp [hup]

/-! ### A frame of the downlink -/

theorem exec_downlinkTimeMark {s : State} (hrun : s.pw.logic = .run) (hvar : s.pw.variantL = false) :
    exec .downlinkTimeMark s = .next (s.sendDown (.timeMark s.time.tb1.ns)) := by
  change execDownlinkTimeMark s = _
  simp [execDownlinkTimeMark, hrun, hvar]

/-- A valid frame brings the oldest value of the downlink to the field side. -/
theorem exec_downlinkFrame_valid {s : State} {it : DownItem} {r : List DownItem} (hdown : s.fio.down = it :: r)
    (hup : s.pw.fieldUp = true) :
    exec (.downlinkFrame true) s = .next (State.downTake { s with fio := { s.fio with down := r } } it) := by
  change execDownlinkFrame true s = _
  simp [execDownlinkFrame, hdown, hup]

/-- s after the mark at the head of its downlink is lost: it is off the downlink and counts as missed. -/
def State.lostMark (s : State) (r : List DownItem) : State :=
  { s with
    fio := { s.fio with down := r }
    pw := { s.pw with missedMarks := satInc 20 s.pw.missedMarks } }

theorem exec_downlinkFrame_lostMark {s : State} {m : Time} {r : List DownItem} (hdown : s.fio.down = .timeMark m :: r)
    (hup : s.pw.fieldUp = true) :
    exec (.downlinkFrame false) s =
      .next (if satInc 20 s.pw.missedMarks = 20 then (s.lostMark r).loseLogic else s.lostMark r) := by
  change execDownlinkFrame false s = _
  simp [execDownlinkFrame, hdown, hup, State.lostMark]

/-- A value that arrives with its instant still to come waits for it. -/
theorem State.fieldArrive_waits {s : State} (it : DownItem) {t : Time} (hdue : 0 ≤ sdiff t s.time.shadow.ns) :
    s.fieldArrive it t = { s with fio := { s.fio with due := s.fio.due ++ [it] } } := by
  simp [State.fieldArrive, Int.not_lt.mpr hdue]

/-- A DAC value that arrives after its instant is discarded and counted. -/
theorem State.fieldArrive_dacLate {s : State} (d : Nat) (v : Int) {t : Time} (hlate : sdiff t s.time.shadow.ns < 0) :
    s.fieldArrive (.dac d v t) t = s.dacLate := by
  simp [State.fieldArrive, hlate]

/-! ### The clauses of O20 on the downlink -/

theorem downlinkTimeMark_completes {s : State} (hrun : s.pw.logic = .run) (hvar : s.pw.variantL = false) :
    Completes [.fio] .downlinkTimeMark s fun t => t.fio = { s.fio with down := s.fio.down ++ [.timeMark s.time.tb1.ns] } :=
  ⟨_, exec_downlinkTimeMark hrun hvar, rfl, State.sendDown_mask rfl s _⟩

/-- What a frame of the downlink leaves, from what it answers. -/
theorem downlinkFrame_completes {valid : Bool} {s t : State} {P : State → Prop} (hnext : exec (.downlinkFrame valid) s = .next t)
    (hP : P t) : Completes [.time, .pw, .cnv, .fio, .twn, .saf, .drn, .lcy, .peat] (.downlinkFrame valid) s P :=
  ⟨t, hnext, hP, only_of_nextMask (execDownlinkFrame_mask rfl valid s) hnext⟩

theorem logicSideAbsent_completes {s : State} (hup : s.pw.fieldUp = true) (hpresent : s.pw.logicAbsent = false) :
    Completes [.pw, .cnv, .fio, .drn] .logicSideAbsent s fun t =>
      t.pw = { s.pw with logicAbsent := true, missedMarks := 20 } ∧ t.cnv.listsRun = false ∧
        t.drn.takeDue = (!s.twn.fieldMember) ∧ t.drn.rsRun = some 0 := by
  obtain ⟨hpw, hlists, hdrn⟩ := State.loseLogic_of_present hup hpresent
  exact ⟨s.loseLogic, rfl, ⟨hpw, hlists, by rw [hdrn], by rw [hdrn]⟩, State.loseLogic_mask rfl s⟩

theorem lostMark_completes {s : State} {m : Time} {r : List DownItem} (hdown : s.fio.down = .timeMark m :: r)
    (hup : s.pw.fieldUp = true) (hfew : s.pw.missedMarks < 19) :
    Completes [.time, .pw, .cnv, .fio, .twn, .saf, .drn, .lcy, .peat] (.downlinkFrame false) s fun t =>
      t.fio = { s.fio with down := r } ∧ t.time = s.time ∧ t.pw = { s.pw with missedMarks := s.pw.missedMarks + 1 } := by
  have hinc : satInc 20 s.pw.missedMarks = s.pw.missedMarks + 1 := by simp [satInc]; omega
  have hnext := exec_downlinkFrame_lostMark hdown hup
  rw [hinc, if_neg (by omega)] at hnext
  exact downlinkFrame_completes hnext ⟨rfl, rfl, by rw [State.lostMark, hinc]⟩

theorem twentiethMark_completes {s : State} {m : Time} {r : List DownItem} (hdown : s.fio.down = .timeMark m :: r)
    (hup : s.pw.fieldUp = true) (hmissed : s.pw.missedMarks = 19) (hpresent : s.pw.logicAbsent = false) :
    Completes [.time, .pw, .cnv, .fio, .twn, .saf, .drn, .lcy, .peat] (.downlinkFrame false) s fun t =>
      t.pw = { s.pw with missedMarks := 20, logicAbsent := true } ∧ t.cnv.listsRun = false ∧ t.drn.rsRun = some 0 := by
  have hnext := exec_downlinkFrame_lostMark hdown hup
  rw [hmissed, if_pos (show satInc 20 19 = 20 from rfl)] at hnext
  obtain ⟨hpw, hlists, hdrn⟩ := State.loseLogic_of_present (s := s.lostMark r) hup hpresent
  exact downlinkFrame_completes hnext ⟨by rw [hpw]; rfl, hlists, by rw [hdrn]⟩

end Sys2Proof.Machine
end

section
/-! PROOFS. What a triggering input leaves of the field I/O (R17, R310, R446): an input change may ask for urgent conversions, which go
down to the field side, and touches nothing else of the field I/O. -/

namespace Sys2Proof.Machine

/-! ### The field I/O but its downlink -/

/-- The field I/O of s, its downlink aside. -/
def State.fioBesideDown (s : State) : FioState := { s.fio with down := [] }

theorem State.fioBesideDown_congr {s t : State} (h : t.fio = s.fio) : t.fioBesideDown = s.fioBesideDown := by
  rw [State.fioBesideDown, h, State.fioBesideDown]

@[simp] theorem State.sendDown_fioBesideDown (s : State) (it : DownItem) : (s.sendDown it).fioBesideDown = s.fioBesideDown := rfl

@[simp] theorem State.raise_fioBesideDown (s : State) (code : Byte) (result : BitVec 64) :
    (s.raise code result).fioBesideDown = s.fioBesideDown := State.fioBesideDown_congr (State.raise_fio s code result)

@[simp] theorem State.modReg_fioBesideDown (s : State) (r : Nat) (f : RegionRt → RegionRt) :
    (s.modReg r f).fioBesideDown = s.fioBesideDown := State.fioBesideDown_congr (State.modReg_fio s r f)

@[simp] theorem State.setTrigFlag_fioBesideDown (s : State) (r idx : Nat) : (s.setTrigFlag r idx).fioBesideDown = s.fioBesideDown :=
  State.fioBesideDown_congr (State.only_fio (ps := [.bog]) (State.setTrigFlag_mask rfl s r idx) rfl)

@[simp] theorem State.endCapture_fioBesideDown (s : State) (r : Nat) (byMask : Bool) :
    (s.endCapture r byMask).fioBesideDown = s.fioBesideDown :=
  State.fioBesideDown_congr (State.only_fio (ps := [.hif, .mir, .bog, .out, .freeIdx]) (State.endCapture_mask rfl s r byMask) rfl)

/-! ### A trigger of the Mire -/

@[simp] theorem State.mirUrgent_fioBesideDown (s : State) (r : Nat) : (s.mirUrgent r).fioBesideDown = s.fioBesideDown := by
  unfold State.mirUrgent State.requestUrgent
  dsimp only
  split
  · split
    next s' hasked =>
      split at hasked
      · cases hasked
      · cases hasked; rfl
    next => exact State.raise_fioBesideDown _ _ _
  · rfl

@[simp] theorem State.regionTrigger_fioBesideDown (s : State) (r : Nat) (st : Stamp) (a b : Bool) (method : Nat) :
    (s.regionTrigger r st a b method).1.fioBesideDown = s.fioBesideDown := by
  unfold State.regionTrigger
  dsimp only
  split
  · split
    · split <;> simp
    · simp
  · split
    · split <;> simp
    · rfl
  · rfl
  · simp
  · simp
  · split
    · split <;> simp
    · split <;> simp

@[simp] theorem State.sourceEvent_fioBesideDown (fuel r : Nat) (isB : Bool) (st : Stamp) (m : Nat) (s : State) :
    (State.sourceEvent fuel r isB st m s).fioBesideDown = s.fioBesideDown := by
  induction fuel generalizing r isB st m s with
  | zero => rfl
  | succ fuel ih =>
    rw [State.sourceEvent]
    split
    · simp
    · dsimp only
      split
      · rw [foldl_keeps State.fioBesideDown]
        · simp
        · intro s k
          split <;> split <;> simp [ih]
      · simp

@[simp] theorem State.fireSources_fioBesideDown (s : State) (p : Nat → Bool → Nat → Bool) (st : Stamp) (m : Nat) :
    (s.fireSources p st m).fioBesideDown = s.fioBesideDown := by
  refine foldl_keeps State.fioBesideDown (fun s r => ?_) _ s
  dsimp only
  split
  · split <;> split <;> simp
  · rfl

theorem State.mirTake_di_fioBesideDown (s : State) (i : Nat) (v : Bool) (x : Time) :
    (s.mirTake (.di i v x)).fioBesideDown = s.fioBesideDown := by
  unfold State.mirTake
  exact State.fireSources_fioBesideDown _ _ _ _

/-! ### A frame of the uplink -/

theorem exec_uplinkFrame_invalid {s : State} (hup : s.pw.fieldUp = true) (hvar : s.pw.variantL = false) :
    exec (.uplinkFrame false) s = .next { s with fio := { s.fio with up := s.fio.up.drop 1 } } := by
  change execUplinkFrame false s = _
  simp [execUplinkFrame, hup, hvar]

/-- s with the head of its uplink gone and the field side shown present, its tables sent again where it was absent. -/
def State.fieldShown (s : State) : State :=
  let s := { s with fio := { s.fio with up := s.fio.up.drop 1 } }
  if s.pw.fieldPresent then s else State.resendField { s with pw := { s.pw with fieldPresent := true } }

theorem State.fieldShown_fioBesideDown (s : State) :
    s.fieldShown.fioBesideDown = { s.fio with up := s.fio.up.drop 1, down := [] } := by
  unfold State.fieldShown
  dsimp only
  split <;> rfl

theorem State.fieldShown_fieldPresent (s : State) : s.fieldShown.pw.fieldPresent = true := by
  unfold State.fieldShown
  dsimp only
  split
  next hp => exact hp
  next => rfl

@[simp] theorem State.resendField_pw (s : State) : s.resendField.pw = s.pw := rfl

/-- A valid frame brings the oldest value of the uplink to a running logic side. -/
theorem exec_uplinkFrame_valid {s : State} {it : UpItem} {r : List UpItem} (hqueue : s.fio.up = it :: r)
    (hup : s.pw.fieldUp = true) (hvar : s.pw.variantL = false) (hrun : s.pw.logic = .run) :
    exec (.uplinkFrame true) s = .next (State.upTake { s.fieldShown with seen := s.fieldShown.fieldView } it) := by
  change execUplinkFrame true s = _
  by_cases hpresent : s.pw.fieldPresent = true
  · simp [execUplinkFrame, State.fieldShown, hqueue, hup, hvar, hrun, hpresent]
  · simp [execUplinkFrame, State.fieldShown, hqueue, hup, hvar, hrun, hpresent]

theorem uplinkFrame_diChange_completes {s : State} {i : Nat} {v : Bool} {x : Time} {r : List UpItem}
    (hqueue : s.fio.up = .diChange i v x :: r) (hup : s.pw.fieldUp = true) (hvar : s.pw.variantL = false)
    (hrun : s.pw.logic = .run) :
    Completes [.pw, .hif, .cmb, .cnv, .fio, .mir, .bog, .wag, .seen, .out, .freeIdx] (.uplinkFrame true) s fun t =>
      t.fio.up = r ∧ t.fio.diImage = putBit s.fio.diImage i v ∧ t.pw.fieldPresent = true := by
  have hnext := exec_uplinkFrame_valid hqueue hup hvar hrun
  refine ⟨_, hnext, ?_, only_of_nextMask (execUplinkFrame_mask rfl true s) hnext⟩
  have hshown := State.fieldShown_fioBesideDown s
  have hup' : s.fieldShown.fio.up = r := by simpa [State.fioBesideDown, hqueue] using congrArg FioState.up hshown
  have himage : s.fieldShown.fio.diImage = s.fio.diImage := by
    simpa [State.fioBesideDown] using congrArg FioState.diImage hshown
  have htake := State.mirTake_di_fioBesideDown
    { s.fieldShown with
      seen := s.fieldShown.fieldView
      fio := { s.fieldShown.fio with diImage := putBit s.fieldShown.fio.diImage i v } } i v x
  refine ⟨?_, ?_, ?_⟩
  · exact (congrArg FioState.up htake).trans hup'
  · exact (congrArg FioState.diImage htake).trans (by rw [← himage]; rfl)
  · have hpw := State.only_pw (ps := [.hif, .cnv, .fio, .mir, .bog, .out, .freeIdx]) (State.mirTake_mask rfl
      { s.fieldShown with
        seen := s.fieldShown.fieldView
        fio := { s.fieldShown.fio with diImage := putBit s.fieldShown.fio.diImage i v } } (.di i v x)) rfl
    exact (congrArg PowerState.fieldPresent hpw).trans (State.fieldShown_fieldPresent s)

end Sys2Proof.Machine
end

section
/-! PROOFS. The end of a basic cycle under the hold policy (R296, R311, R314): what each output's hold cycle leaves of the eject notice
and of the other outputs. -/

namespace Sys2Proof.Machine

/-! ### The eject notice and the hold state of one output -/

/-- The hold state of output i of the hold policy. -/
def State.holdAt (s : State) (i : Nat) : HoldRt := tget {} s.fio.hold i

/-- s with the hold state of output i. -/
def State.putHold (s : State) (i : Nat) (r : HoldRt) : State := { s with fio := { s.fio with hold := tput {} r s.fio.hold i } }

/-- The eject notice, whether output i is at SAFE, and the cycles it has missed. -/
def State.holdSight (i : Nat) (s : State) : Bool × Bool × Nat := (s.fio.ejected, (s.holdAt i).atSafe, (s.holdAt i).miss)

theorem State.holdAt_putHold_same (s : State) (i : Nat) (r : HoldRt) : (s.putHold i r).holdAt i = r := tget_tput_same _ _ _ _

theorem State.holdAt_putHold_other (s : State) {i j : Nat} (r : HoldRt) (hij : j ≠ i) : (s.putHold i r).holdAt j = s.holdAt j :=
  tget_tput_other _ _ _ _ _ hij

/-- Another output's hold state is not in sight. -/
theorem State.holdSight_putHold_other (s : State) {i j : Nat} (r : HoldRt) (hij : j ≠ i) :
    (s.putHold j r).holdSight i = s.holdSight i := by
  simp only [State.holdSight, State.holdAt_putHold_other s r hij.symm]
  rfl

/-- A value that waits for an output to leave SAFE is not in sight. -/
theorem State.holdSight_feed (s : State) (i j : Nat) (it : Option DownItem) :
    (s.putHold j { s.holdAt j with feed := it }).holdSight i = s.holdSight i := by
  by_cases hij : j = i
  · subst hij
    simp only [State.holdSight, State.holdAt_putHold_same]
    rfl
  · exact s.holdSight_putHold_other _ hij

/-- An operation on the outputs keeps both. -/
theorem State.holdSight_of_besideOutputs {s t : State} (h : t.besideOutputs = s.besideOutputs) (i : Nat) :
    t.holdSight i = s.holdSight i := by
  change t.besideOutputs.holdSight i = s.besideOutputs.holdSight i
  rw [h]

/-! ### A value that waited at SAFE -/

theorem State.takeValves_holdSight (s : State) (g states mask : Nat) (t : Time) (fromBlock : Bool) (i : Nat) :
    (s.takeValves g states mask t fromBlock).1.holdSight i = s.holdSight i := by
  refine (foldl_keeps (State.holdSight i) (fun s b => State.holdSight_feed s i (8 * g + b) _) _ _).trans ?_
  split <;> rfl

theorem State.applyValves_holdSight (s : State) (g states mask : Nat) (t : Time) (fromBlock : Bool) (i : Nat) :
    (s.applyValves g states mask t fromBlock).holdSight i = s.holdSight i :=
  (State.holdSight_of_besideOutputs (State.hsCommand_besideOutputs _ _) i).trans (s.takeValves_holdSight g states mask t fromBlock i)

theorem State.applyItem_holdSight (s : State) (it : DownItem) (i : Nat) : (s.applyItem it).holdSight i = s.holdSight i := by
  unfold State.applyItem
  split
  · exact State.applyValves_holdSight _ _ _ _ _ _ _
  · split
    · rfl
    · split
      · exact State.holdSight_feed s i _ _
      · split
        · split
          · rfl
          · exact State.holdSight_of_besideOutputs (State.dacTake_besideOutputs _ _ _ _) i
        · split
          · rfl
          · exact State.holdSight_of_besideOutputs (State.modHs_besideOutputs _ _ _) i
        · exact State.holdSight_of_besideOutputs (State.pulRate_besideOutputs _ _ _) i
        · exact State.holdSight_of_besideOutputs (State.pulAxis_besideOutputs _ _ _ _) i
        · rfl

/-! ### To SAFE and from SAFE -/

/-- What a step to SAFE changes beside the outputs is the output's hold state. -/
theorem State.toSafe_besideOutputs (s : State) (i : Nat) (t : Time) :
    (s.toSafe i t).besideOutputs = (s.putHold i { s.holdAt i with atSafe := true, good := 0, feed := none }).besideOutputs := by
  unfold State.toSafe
  exact (State.fieldRaise_besideOutputs _ _ _).trans (State.takeSafe_besideOutputs _ _ _)

theorem State.toSafe_holdSight_other (s : State) {i j : Nat} (t : Time) (hij : j ≠ i) :
    (s.toSafe j t).holdSight i = s.holdSight i :=
  (State.holdSight_of_besideOutputs (s.toSafe_besideOutputs j t) i).trans (s.holdSight_putHold_other _ hij)

theorem State.toSafe_holdSight_same (s : State) (i : Nat) (t : Time) :
    (s.toSafe i t).holdSight i = (s.fio.ejected, true, (s.holdAt i).miss) := by
  rw [State.holdSight_of_besideOutputs (s.toSafe_besideOutputs i t) i]
  simp only [State.holdSight, State.holdAt_putHold_same]
  rfl

theorem State.fromSafe_holdSight_other (s : State) {i j : Nat} (hij : j ≠ i) : (s.fromSafe j).holdSight i = s.holdSight i := by
  have hput := s.holdSight_putHold_other { s.holdAt j with atSafe := false, good := 0, miss := 0, feed := none } hij
  unfold State.fromSafe
  dsimp only
  rw [State.holdSight_of_besideOutputs (State.fieldRaise_besideOutputs _ _ _) i]
  split
  · exact (State.applyItem_holdSight _ _ i).trans hput
  · exact hput

/-! ### One output's hold cycle -/

theorem State.holdCycle_of_unwritten {s : State} {i : Nat} (hout : s.outWritten i = false) : s.holdCycle i = s := by
  simp [State.holdCycle, hout]

/-- An output's hold cycle leaves the eject notice, and whether another output is at SAFE and what it missed. -/
theorem State.holdCycle_holdSight_other (s : State) {i j : Nat} (hij : j ≠ i) : (s.holdCycle j).holdSight i = s.holdSight i := by
  have hput (r : HoldRt) := s.holdSight_putHold_other r hij
  unfold State.holdCycle
  dsimp only
  split
  · rfl
  · split
    · exact hput _
    · split
      · rfl
      · split
        · exact (State.toSafe_holdSight_other _ _ hij).trans (hput _)
        · exact hput _
      · split
        · exact hput _
        · split
          · exact s.fromSafe_holdSight_other hij
          · exact hput _

theorem State.holdCycle_ejected (s : State) (j : Nat) : (s.holdCycle j).fio.ejected = s.fio.ejected :=
  congrArg Prod.fst (s.holdCycle_holdSight_other (i := j + 1) (by omega))

/-- Output i, at work under the hold policy and not at SAFE, finds its feed missing this basic cycle. -/
structure State.MissesFeed (s : State) (i : Nat) : Prop where
  written : s.outWritten i = true
  noDrone : s.droneCommands (holdOutput i) = false
  noTakeOver : (s.pw.logicAbsent && s.drn.names (holdOutput i) && !s.twn.fieldMember) = false
  judged : (s.holdAt i).skip = false
  driven : (s.holdAt i).atSafe = false
  missing : s.cycleView (holdFeed (tget holdReset s.fio.holdEff i)) = .missing

/-- s with one more missed cycle of output i counted. -/
def State.countMiss (s : State) (i : Nat) : State :=
  s.putHold i { s.holdAt i with miss := satInc 0xFFFF (s.holdAt i).miss, good := 0 }

theorem State.holdCycle_of_missesFeed {s : State} {i : Nat} (h : s.MissesFeed i) :
    s.holdCycle i =
      if holdPolicy (tget holdReset s.fio.holdEff i) ∨ holdN (tget holdReset s.fio.holdEff i) ≤ satInc 0xFFFF (s.holdAt i).miss
      then (s.countMiss i).toSafe i s.time.shadow.ns
      else s.countMiss i := by
  obtain ⟨hwritten, hdrone, htake, hskip, hdriven, hmissing⟩ := h
  simp only [State.holdAt] at hskip hdriven
  simp only [State.holdCycle, hwritten, hdrone, htake, hskip, hmissing, Bool.or_self, Bool.not_true, Bool.false_eq_true, if_false]
  simp [hskip, hdriven, State.countMiss, State.putHold, State.holdAt]

/-! ### The end of a basic cycle -/

/-- The hold cycles of all outputs, in turn, take s to u. -/
def State.HoldCyclesTo (s u : State) : Prop := u = (List.range 96).foldl (fun s i => s.holdCycle i) s

theorem State.HoldCyclesTo.wag {s u : State} (h : s.HoldCyclesTo u) : u.wag = s.wag := by
  refine State.only_wag (ps := [.fio, .saf, .drn, .peat]) ?_ rfl
  rw [h, State.only, foldl_keeps (State.mask [.fio, .saf, .drn, .peat]) fun s j => State.holdCycle_mask rfl s j]

theorem State.HoldCyclesTo.ejected {s u : State} (h : s.HoldCyclesTo u) : u.fio.ejected = s.fio.ejected := by
  rw [h, foldl_keeps (fun s : State => s.fio.ejected) State.holdCycle_ejected]

/-- What the end of a basic cycle leaves, from what the hold cycles lead to. -/
theorem holdPolicyCycleEnd_completes {s : State} {P : State → Prop} (hup : s.pw.fieldUp = true)
    (hP : ∀ u, s.HoldCyclesTo u →
      P { u with fio := { u.fio with ejectCycle := s.fio.ejected }, wag := { s.wag with winOut := [] } }) :
    Completes [.fio, .wag, .saf, .drn, .peat] .holdPolicyCycleEnd s P := by
  obtain ⟨u, hu⟩ : ∃ u, s.HoldCyclesTo u := ⟨_, rfl⟩
  have hnext : exec .holdPolicyCycleEnd s = .next
      { u with fio := { u.fio with ejectCycle := s.fio.ejected }, wag := { s.wag with winOut := [] } } := by
    have hfold : (List.range 96).foldl (fun s i => s.holdCycle i) s = u := hu.symm
    rw [← hu.ejected, ← hu.wag]
    change execHoldPolicyCycleEnd s = _
    simp only [execHoldPolicyCycleEnd, hup, Bool.not_true, Bool.false_eq_true, if_false, hfold]
  exact ⟨_, hnext, hP u hu, only_of_nextMask (execHoldPolicyCycleEnd_mask rfl s) hnext⟩

theorem foldl_holdCycle_of_unwritten {s : State} {l : List Nat} (h : ∀ j ∈ l, s.outWritten j = false) :
    l.foldl (fun s j => s.holdCycle j) s = s := by
  induction l with
  | nil => rfl
  | cons j l ih =>
    rw [List.foldl_cons, State.holdCycle_of_unwritten (h j List.mem_cons_self)]
    exact ih fun k hk => h k (List.mem_cons_of_mem j hk)

/-- The hold cycles of other outputs keep what output i shows. -/
theorem foldl_holdCycle_holdSight {i : Nat} {l : List Nat} (h : ∀ j ∈ l, j ≠ i) (s : State) :
    (l.foldl (fun s j => s.holdCycle j) s).holdSight i = s.holdSight i := by
  induction l generalizing s with
  | nil => rfl
  | cons j l ih =>
    exact (ih (fun k hk => h k (List.mem_cons_of_mem j hk)) _).trans (s.holdCycle_holdSight_other (h j List.mem_cons_self))

/-- Where one output alone is written, the hold cycles begin with that output's; the others after it follow. -/
theorem State.HoldCyclesTo.of_one {s u : State} {i : Fin 96} (hu : s.HoldCyclesTo u)
    (hothers : ∀ j : Fin 96, j ≠ i → s.outWritten j.val = false) :
    ∃ rest : List Nat, (∀ j ∈ rest, j < 96 ∧ j ≠ i.val) ∧
      u = rest.foldl (fun s j => s.holdCycle j) (s.holdCycle i.val) := by
  obtain ⟨before, rest, hsplit⟩ := List.append_of_mem (List.mem_range.mpr i.isLt)
  have hnodup : (before ++ i.val :: rest).Nodup := hsplit ▸ List.nodup_range
  have hlt {j : Nat} (hj : j ∈ before ++ i.val :: rest) : j < 96 := List.mem_range.mp (hsplit ▸ hj)
  refine ⟨rest, fun j hj => ⟨hlt (by simp [hj]), ?_⟩, ?_⟩
  · rintro rfl
    exact (List.nodup_cons.mp (List.nodup_append.mp hnodup).2.1).1 hj
  · have hbefore : ∀ j ∈ before, s.outWritten j = false := by
      intro j hj
      refine hothers ⟨j, hlt (by simp [hj])⟩ fun hji => ?_
      exact (List.nodup_append.mp hnodup).2.2 j hj i.val List.mem_cons_self (congrArg Fin.val hji)
    rw [hu, hsplit, List.foldl_append, foldl_holdCycle_of_unwritten hbefore, List.foldl_cons]

theorem holdPolicyCycleEnd_counts {s : State} {i : Fin 96} (hup : s.pw.fieldUp = true)
    (hothers : ∀ j : Fin 96, j ≠ i → s.outWritten j.val = false) (hmiss : s.MissesFeed i)
    (hpolicy : holdPolicy (tget holdReset s.fio.holdEff i) = false)
    (hfew : satInc 0xFFFF (s.holdAt i).miss < holdN (tget holdReset s.fio.holdEff i)) :
    Completes [.fio, .wag, .saf, .drn, .peat] .holdPolicyCycleEnd s fun t =>
      t.fio = { (s.countMiss i).fio with ejectCycle := s.fio.ejected } := by
  refine holdPolicyCycleEnd_completes hup fun u hu => ?_
  obtain ⟨rest, hrest, hcycles⟩ := hu.of_one hothers
  have hout : ∀ j ∈ rest, (s.countMiss i).outWritten j = false := fun j hj =>
    hothers ⟨j, (hrest j hj).1⟩ fun hji => (hrest j hj).2 (congrArg Fin.val hji)
  rw [State.holdCycle_of_missesFeed hmiss, if_neg (by simp [hpolicy, Nat.not_le.mpr hfew]),
    foldl_holdCycle_of_unwritten hout] at hcycles
  rw [hcycles]

theorem holdPolicyCycleEnd_toSafe {s : State} {i : Fin 96} (hup : s.pw.fieldUp = true)
    (hothers : ∀ j : Fin 96, j ≠ i → s.outWritten j.val = false) (hmiss : s.MissesFeed i)
    (hpolicy : holdPolicy (tget holdReset s.fio.holdEff i) = true ∨
      holdN (tget holdReset s.fio.holdEff i) ≤ satInc 0xFFFF (s.holdAt i).miss) :
    Completes [.fio, .wag, .saf, .drn, .peat] .holdPolicyCycleEnd s fun t =>
      (t.holdAt i).atSafe = true ∧ (t.holdAt i).miss = satInc 0xFFFF (s.holdAt i).miss := by
  refine holdPolicyCycleEnd_completes hup fun u hu => ?_
  obtain ⟨rest, hrest, hcycles⟩ := hu.of_one hothers
  rw [State.holdCycle_of_missesFeed hmiss, if_pos hpolicy] at hcycles
  have hsight : u.holdSight i = (s.fio.ejected, true, satInc 0xFFFF (s.holdAt i).miss) := by
    rw [hcycles, foldl_holdCycle_holdSight fun j hj => (hrest j hj).2, State.toSafe_holdSight_same, State.countMiss,
      State.holdAt_putHold_same]
    rfl
  simp only [State.holdSight, Prod.mk.injEq] at hsight
  obtain ⟨-, hsafe, hcount⟩ := hsight
  exact ⟨hsafe, hcount⟩

end Sys2Proof.Machine
end

section
/-! PROOFS. The barrier (R17 to R21, R296, R310, R311, R314): accepted inputs, and the whole statement. -/

namespace Sys2Proof.Machine

/-- s with the raw state of an input accepted: a raw state that has lasted the filter time of its input is accepted, from its first transition on. -/
def State.acceptInput (s : State) (i : Nat) (x : Time) : State :=
  let r : DiRt := tget {} s.fio.di i
  { s with fio := { s.fio with di := tput {} { r with acc := r.raw, since := none, accAt := some x } s.fio.di i } }

theorem exec_digitalInputAccept {s : State} {i : Fin 64} {x : Time} (hsince : (tget {} s.fio.di i.val : DiRt).since = some x)
    (hlasted : max 1000 (Int.ofNat (fld (s.diCfg i.val) 15 2) * 1000) ≤ sdiff s.time.shadow.ns x) :
    exec (.digitalInputAccept i) s =
      .next ((s.acceptInput i x).sendUp (.diChange i ((s.acceptInput i x).diState i) x)) := by
  change execDigitalInputAccept i s = _
  simp only [execDigitalInputAccept, hsince, Int.not_lt.mpr hlasted, if_false]
  rfl

theorem digitalInputAccept_completes {s : State} {i : Fin 64} {x : Time}
    (hsince : (tget {} s.fio.di i.val : DiRt).since = some x)
    (hlasted : max 1000 (Int.ofNat (fld (s.diCfg i.val) 15 2) * 1000) ≤ sdiff s.time.shadow.ns x) :
    Completes [.fio] (.digitalInputAccept i) s fun t =>
      (tget {} t.fio.di i.val : DiRt) =
          { (tget {} s.fio.di i.val : DiRt) with acc := (tget {} s.fio.di i.val : DiRt).raw, since := none, accAt := some x } ∧
        t.fio.up = s.fio.up ++ [.diChange i.val (t.diState i.val) x] :=
  ⟨_, exec_digitalInputAccept hsince hlasted, ⟨tget_tput_same _ _ _ _, rfl⟩, rfl⟩

/-- Settles O20, clause by clause: what each command answers is an equation of its own, its frame is its mask; the hold cycles of the
unwritten outputs change nothing, and those that follow the written one keep what it shows. -/
theorem theBarrier : Obligations.TheBarrier := by
  unfold Obligations.TheBarrier
  refine ⟨?mark, ?markTaken, ?markLost, ?markTwentieth, ?dacLate, ?dacWaits, ?eject, ?inputChange, ?uplinkLost, ?logicAbsent,
    ?fieldAbsent, ?cycleEnd, ?missCounted, ?toSafe, ?inputAccepted⟩
  case mark => exact fun s hrun hvar => downlinkTimeMark_completes hrun hvar
  case markTaken => exact fun s m r hdown hup => downlinkFrame_completes (exec_downlinkFrame_valid hdown hup) ⟨rfl, rfl, rfl, rfl⟩
  case markLost => exact fun s m r hdown hup hfew => lostMark_completes hdown hup hfew
  case markTwentieth => exact fun s m r hdown hup hmissed hpresent => twentiethMark_completes hdown hup hmissed hpresent
  case dacLate =>
    intro s d v x r hdown hup hlate
    refine downlinkFrame_completes (exec_downlinkFrame_valid hdown hup) ?_
    rw [State.downTake, State.fieldArrive_dacLate (s := { s with fio := { s.fio with down := r } }) d v hlate]
    exact ⟨rfl, rfl⟩
  case dacWaits =>
    intro s d v x r hdown hup hdue
    refine downlinkFrame_completes (exec_downlinkFrame_valid hdown hup) ?_
    rw [State.downTake, State.fieldArrive_waits (s := { s with fio := { s.fio with down := r } }) _ hdue]
    exact ⟨rfl, rfl⟩
  case eject => exact fun s r hdown hup => downlinkFrame_completes (exec_downlinkFrame_valid hdown hup) rfl
  case inputChange => exact fun s i v x r hqueue hup hvar hrun => uplinkFrame_diChange_completes hqueue hup hvar hrun
  case uplinkLost => exact fun s hup hvar => exec_uplinkFrame_invalid hup hvar
  case logicAbsent => exact fun s hup hpresent _ => logicSideAbsent_completes hup hpresent
  case fieldAbsent => exact fun s => rfl
  case cycleEnd => exact fun s hup => holdPolicyCycleEnd_completes hup fun u hu => ⟨rfl, rfl⟩
  case missCounted =>
    intro s i hup hothers hwritten hdrone htake hskip hdriven hmissing hpolicy hfew
    exact holdPolicyCycleEnd_counts hup hothers ⟨hwritten, hdrone, htake, hskip, hdriven, hmissing⟩ hpolicy hfew
  case toSafe =>
    intro s i hup hothers hwritten hdrone htake hskip hdriven hmissing hpolicy
    exact holdPolicyCycleEnd_toSafe hup hothers ⟨hwritten, hdrone, htake, hskip, hdriven, hmissing⟩ hpolicy
  case inputAccepted => exact fun s i x hsince hlasted => digitalInputAccept_completes hsince hlasted

end Sys2Proof.Machine
end

section
/-! PROOFS. The step and the TIME_CLK tick (R44, R47, R63): which command a step runs, how far a tick moves each base, and what the
signed difference of two short times says. -/

namespace Sys2Proof.Machine

/-! ### The step (R63) -/

theorem step_of_waiting {s : State} {c : Instr} {rest : List Instr} (h : s.pending = c :: rest) :
    step s = exec c { s with pending := rest } := by
  unfold step
  rw [h]

theorem step_of_idle {s : State} (h : s.pending = []) : step s = .next s.tick := by
  unfold step
  rw [h]

/-- Settles O49: the two branches of the step. -/
theorem frontCommandRuns : Obligations.FrontCommandRuns := by
  unfold Obligations.FrontCommandRuns
  exact ⟨fun c rest s => step_of_waiting rfl, fun s hidle => step_of_idle hidle⟩

/-! ### Short times (R47) -/

theorem sdiff_eq (a b : Time) :
    sdiff a b = (let d : Nat := (a.toNat + 2 ^ 40 - b.toNat) % 2 ^ 40
      if 0x8000000000 ≤ d then (d : Int) - 0x10000000000 else (d : Int)) := by
  have hdiff : (a - b).toNat = (a.toNat + 2 ^ 40 - b.toNat) % 2 ^ 40 := by
    have hb := b.isLt
    rw [BitVec.toNat_sub]
    congr 1
    omega
  simp only [sdiff, BitVec.toInt_eq_toNat_cond, hdiff]
  split <;> split <;> omega

theorem sdiff_eq_zero_iff (a b : Time) : sdiff a b = 0 ↔ a = b := by
  rw [sdiff, ← BitVec.toInt_zero (w := 40), BitVec.toInt_inj]
  exact sub_eq_zero

theorem sdiff_bounds (a b : Time) : -(2 ^ 39) ≤ sdiff a b ∧ sdiff a b ≤ 2 ^ 39 - 1 := by
  have hlow := BitVec.le_toInt (a - b)
  have hhigh := BitVec.toInt_lt (x := a - b)
  unfold sdiff
  omega

theorem sdiff_tadd (a : Time) {x : Int} (hlow : -(2 ^ 39) ≤ x) (hhigh : x ≤ 2 ^ 39 - 1) : sdiff (tadd a x) a = x := by
  rw [sdiff, tadd, add_sub_cancel_left, BitVec.toInt_ofInt]
  exact Int.bmod_eq_of_le (by omega) (by omega)

/-- Settles O51: what the 40-bit subtraction computes, its range, and the time added. -/
theorem shortTimesCompareBySignedDifference : Obligations.ShortTimesCompareBySignedDifference := by
  unfold Obligations.ShortTimesCompareBySignedDifference
  exact ⟨sdiff_eq, fun a b => ⟨sdiff_eq_zero_iff a b, sdiff_bounds a b⟩, fun a x hlow hhigh => sdiff_tadd a hlow hhigh⟩

/-! ### Counting (R44) -/

/-- The whole nanoseconds by which a base with the given fraction goes up when x units of 2⁻³² ns are added. -/
def wholeNs (frac : Word) (x : Int) : Int := (frac.toNat + x) / 2 ^ 32

theorem Tb.plus_ns (t : Tb) (x : Int) : (t.plus x).ns = t.ns + BitVec.ofInt 40 (wholeNs t.frac x) := by
  have hcarry : (t.whole + x) / 2 ^ 32 = t.ns.toNat + wholeNs t.frac x := by
    simp only [Tb.whole, wholeNs, Int.ofNat_eq_natCast]
    omega
  simp only [Tb.plus, hcarry, BitVec.ofInt_add, BitVec.ofInt_natCast, BitVec.ofNat_toNat, BitVec.setWidth_eq]

theorem tickStep_bounds {rate : Int} (hlow : -549755813 ≤ rate) (hhigh : rate ≤ 549755813) (carry : Bool) :
    7 * 2 ^ 32 ≤ tickStep rate carry ∧ tickStep rate carry < 9 * 2 ^ 32 := by
  unfold tickStep rateStep
  split <;> omega

theorem wholeNs_tickStep {rate : Int} (hlow : -549755813 ≤ rate) (hhigh : rate ≤ 549755813) (frac : Word) (carry : Bool) :
    wholeNs frac (tickStep rate carry) = 7 ∨ wholeNs frac (tickStep rate carry) = 8 ∨
      wholeNs frac (tickStep rate carry) = 9 := by
  obtain ⟨hmin, hmax⟩ := tickStep_bounds hlow hhigh carry
  have hfrac := frac.isLt
  unfold wholeNs
  omega

/-- One tick takes a base with a rate term in range 7, 8 or 9 ns further. -/
theorem Tb.plus_tickStep_ns (t : Tb) (hlow : -549755813 ≤ t.rate) (hhigh : t.rate ≤ 549755813) (carry : Bool) :
    (t.plus (tickStep t.rate carry)).ns = t.ns + 7 ∨ (t.plus (tickStep t.rate carry)).ns = t.ns + 8 ∨
      (t.plus (tickStep t.rate carry)).ns = t.ns + 9 := by
  rw [Tb.plus_ns]
  exact (wholeNs_tickStep hlow hhigh t.frac carry).imp (fun h => by rw [h]; rfl)
    (Or.imp (fun h => by rw [h]; rfl) fun h => by rw [h]; rfl)

/-- A base without a rate term goes 8 ns up, its fraction as it was. -/
theorem Tb.plus_tickStep_zero (t : Tb) :
    (t.plus (tickStep 0 false)).ns = t.ns + 8 ∧ (t.plus (tickStep 0 false)).frac = t.frac := by
  have hstep : tickStep 0 false = 8 * 2 ^ 32 := rfl
  have hfrac := t.frac.isLt
  constructor
  · have hwhole : wholeNs t.frac (8 * 2 ^ 32) = 8 := by
      unfold wholeNs
      omega
    rw [Tb.plus_ns, hstep, hwhole]
    rfl
  · have hrest : (t.whole + 8 * 2 ^ 32) % 2 ^ 32 = t.frac.toNat := by
      simp only [Tb.whole, Int.ofNat_eq_natCast]
      omega
    simp only [Tb.plus, hstep, hrest, BitVec.ofInt_natCast, BitVec.ofNat_toNat, BitVec.setWidth_eq]

/-- The whole nanoseconds of TB0. -/
def Tb0.count (t : Tb0) : Nat := t.sec.toNat * 1000000000 + t.nsec

/-- TB0 counts on over the end of a second, as long as its 48 bits of seconds hold the sum. -/
theorem Tb0.plus_count (t : Tb0) {x : Int} (hpos : 0 ≤ wholeNs t.frac x)
    (hfits : t.count + wholeNs t.frac x < 2 ^ 48 * 1000000000) :
    ((t.plus x).count : Int) = t.count + wholeNs t.frac x := by
  have hcarry : (Int.ofNat ((t.sec.toNat * 1000000000 + t.nsec) * 2 ^ 32 + t.frac.toNat) + x) / 2 ^ 32 =
      t.count + wholeNs t.frac x := by
    simp only [Tb0.count, wholeNs, Int.ofNat_eq_natCast]
    omega
  have hsec : ((t.plus x).sec.toNat : Int) = (t.count + wholeNs t.frac x) / 1000000000 := by
    simp only [Tb0.plus, hcarry, BitVec.toNat_ofInt]
    omega
  have hnsec : ((t.plus x).nsec : Int) = (t.count + wholeNs t.frac x) % 1000000000 := by
    simp only [Tb0.plus, hcarry]
    omega
  rw [Tb0.count]
  push_cast
  rw [hsec, hnsec]
  omega

/-- One tick takes TB0 as full time 7, 8 or 9 ns further. -/
theorem Tb0.plus_tickStep_count (t : Tb0) (hlow : -549755813 ≤ t.rate) (hhigh : t.rate ≤ 549755813)
    (hnsec : t.nsec < 1000000000) (hsec : t.sec.toNat < 2 ^ 48 - 1) (carry : Bool) :
    ∃ n : Nat, 7 ≤ n ∧ n ≤ 9 ∧ (t.plus (tickStep t.rate carry)).count = t.count + n := by
  have hcases := wholeNs_tickStep hlow hhigh t.frac carry
  have hcount : t.count = t.sec.toNat * 1000000000 + t.nsec := rfl
  have hplus := t.plus_count (x := tickStep t.rate carry) (by omega) (by omega)
  exact ⟨(wholeNs t.frac (tickStep t.rate carry)).toNat, by omega, by omega, by omega⟩

/-- What one tick makes of the bases of the logic side while its PLL is locked (R44). -/
theorem State.tick_bases {s : State} (hlock : s.pw.lpllLock = true) (hon : s.pw.logic ≠ .off) :
    s.tick.time.tb0 = s.time.tb0.plus (tickStep s.time.tb0.rate (Config.rateCarry s.freeIdx)) ∧
    s.tick.time.tb1 = s.time.tb1.plus (tickStep s.time.tb1.rate (Config.rateCarry (s.freeIdx + 1))) ∧
    s.tick.time.tb2 = s.time.tb2.plus (tickStep 0 false) ∧
    s.tick.time.tb3 = s.time.tb3.plus (tickStep s.time.tb3.rate (Config.rateCarry (s.freeIdx + 2))) := by
  simp only [State.tick, hlock, hon, Bool.true_and, ne_eq, not_false_eq_true, decide_true, if_true]
  split <;> exact ⟨rfl, rfl, rfl, rfl⟩

/-- Settles O50: each base by what one tick adds to it, the frame by the tick's own mask. -/
theorem tickAdvancesTheBases : Obligations.TickAdvancesTheBases := by
  unfold Obligations.TickAdvancesTheBases
  refine ⟨?tb1, ?tb3, ?tb2, ?tb0, fun s => State.tick_mask rfl s⟩
  case tb1 =>
    intro s hlock hon hlow hhigh
    obtain ⟨-, htb1, -, -⟩ := State.tick_bases hlock hon
    rw [htb1]
    exact ⟨s.time.tb1.plus_tickStep_ns hlow hhigh _, _, rfl⟩
  case tb3 =>
    intro s hlock hon hlow hhigh
    obtain ⟨-, -, -, htb3⟩ := State.tick_bases hlock hon
    rw [htb3]
    exact ⟨s.time.tb3.plus_tickStep_ns hlow hhigh _, _, rfl⟩
  case tb2 =>
    intro s hlock hon
    obtain ⟨htb0, -, htb2, -⟩ := State.tick_bases hlock hon
    rw [htb0, htb2]
    exact ⟨s.time.tb2.plus_tickStep_zero.1, s.time.tb2.plus_tickStep_zero.2, _, rfl⟩
  case tb0 =>
    intro s hlock hon hlow hhigh hnsec hsec
    obtain ⟨htb0, -, -, -⟩ := State.tick_bases hlock hon
    rw [htb0]
    exact s.time.tb0.plus_tickStep_count hlow hhigh hnsec hsec _

end Sys2Proof.Machine
end

section
/-! PROOFS. Every command answers a next state (R63, R94, R115): none of its branches faults or refuses. -/

namespace Sys2Proof.Machine

/-- The outcome is a next state. -/
def Answers (o : Host.Outcome State Fault Refusal) : Prop := ∃ t, o = .next t

theorem answers_next (t : State) : Answers (.next t) := ⟨t, rfl⟩

theorem State.asChange_answers {s : State} {p : Pair} {mine : Option Entry} {f : State → Host.Outcome State Fault Refusal}
    (h : Answers (f s)) : Answers (s.asChange p mine f) := by
  unfold State.asChange
  split
  · exact answers_next _
  · split
    · exact answers_next _
    · extract_lets refused
      split
      · exact h
      · exact answers_next _

theorem State.asOwnChange_answers {s : State} {p : Pair} {mine : Option Entry} {f : State → Host.Outcome State Fault Refusal}
    (h : Answers (f s)) : Answers (s.asOwnChange p mine f) := by
  unfold State.asOwnChange
  split
  · exact answers_next _
  · split
    · exact answers_next _
    · exact h

theorem execUplinkFrame_answers (valid : Bool) (s : State) : Answers (execUplinkFrame valid s) := by
  unfold execUplinkFrame
  dsimp only
  repeat' first | with_reducible exact answers_next _ | split

theorem execCalMeasureEnd_answers (codes : List (BitVec 20)) (s : State) : Answers (execCalMeasureEnd codes s) := by
  unfold execCalMeasureEnd
  dsimp only
  repeat' first | with_reducible exact answers_next _ | split

/-- A change of a twin's role goes through `State.asChange` or `State.asOwnChange`, a frame of a step is taken in one expression; every
other command is a tree of branches, each of which ends in a next state. -/
theorem exec_answers (c : Instr) (s : State) : Answers (exec c s) := by
  cases c with
  | timeSet pair | slotTableLoad pair | microprogramLoad pair | modelTableLoad pair | inputMapLoad pair | outputMapLoad pair
  | loadImage pair | exchange pair | channelTableLoad pair | scanListLoad pair | dacTableLoad pair | coefficientLoad pair
  | dacCoefficientLoad pair | skewLoad pair | urgent pair | rotate pair | calMeasure pair | highSideTableLoad pair
  | inputTableLoad pair | encoderTableLoad pair | pulseTableLoad pair | profileTableLoad pair | holdPolicyTableLoad pair
  | hsClrFault pair | regionTableLoad pair | lineTableLoad pair | maskTableLoad pair | mireArm pair | force pair | mireStop pair
  | modeChange pair | scheduleLoad pair | receiveMapLoad pair | stationTableLoad pair | segmentTableLoad pair
  | witnessTableLoad pair =>
    dsimp only [exec]
    delta
      execTimeSet execSlotTableLoad execMicroprogramLoad execModelTableLoad execInputMapLoad execOutputMapLoad execLoadImage
      execExchange execChannelTableLoad execScanListLoad execDacTableLoad execCoefficientLoad execDacCoefficientLoad
      execSkewLoad execUrgent execRotate execCalMeasure execHighSideTableLoad execInputTableLoad execEncoderTableLoad
      execPulseTableLoad execProfileTableLoad execHoldPolicyTableLoad execHsClrFault execRegionTableLoad execLineTableLoad
      execMaskTableLoad execMireArm execForce execMireStop execModeChange execScheduleLoad execReceiveMapLoad
      execStationTableLoad execSegmentTableLoad execWitnessTableLoad
    refine State.asChange_answers ?_
    delta
      doTimeSet doSlotTableLoad doMicroprogramLoad doModelTableLoad doInputMapLoad doOutputMapLoad doLoadImage doExchange
      doChannelTableLoad doScanListLoad doDacTableLoad doCoefficientLoad doDacCoefficientLoad doSkewLoad doUrgent doRotate
      doCalMeasure doHighSideTableLoad doInputTableLoad doEncoderTableLoad doPulseTableLoad doProfileTableLoad
      doHoldPolicyTableLoad doHsClrFault doRegionTableLoad doLineTableLoad doMaskTableLoad doMireArm doForce doMireStop
      doModeChange doScheduleLoad doReceiveMapLoad doStationTableLoad doSegmentTableLoad doWitnessTableLoad
    repeat' first | with_reducible exact answers_next _ | split | extract_lets
  | restart pair | hpAck pair | recover pair | gpWrite pair | filterTableLoad pair =>
    dsimp only [exec]
    delta
      execRestart execHpAck execRecover execGpWrite execFilterTableLoad
    refine State.asOwnChange_answers ?_
    delta
      doRestart doHpAck doRecover doGpWrite doFilterTableLoad
    repeat' first | with_reducible exact answers_next _ | split | extract_lets
  | stepRelayReceive | stepCtrlReceive | stepAnswerReceive | stepReportReceive => exact answers_next _
  | uplinkFrame valid => exact execUplinkFrame_answers valid s
  | calMeasureEnd codes => exact execCalMeasureEnd_answers codes s
  | _ =>
    dsimp only [exec]
    delta
      execLogicPowerUp execLogicResetRelease execV12OutOfRange execPresenceRelease execFieldPowerGood execFieldPowerLoss
      execPeatLoss execHoldupChange execPwrfail execPllLockLoss execLogicBootVerified execResetInputRelease execResetInputStuck
      execResetInputStuckClear execEjectNotice execEjectWithdraw execEjectForceSafe execEjectLeverReturned execLogicOvertemp
      execRestartReset execFieldRefLost execFieldRefRestored execFieldRefSwitchBack execDownlinkTimeMark execDownlinkFrame
      execLogicSideAbsent execFieldSideAbsent execScrub execSramUncorrectable execLpddr5LinkError execReferenceFrame
      execReferenceTimeout execPtpMessage execPtpMessageSend execTb0Restep execPulseOutputArm execPulseOutputDisarm
      execPulseOutputEdge execPcieLinkUp execPcieLinkDown execPcieHotReset execFunctionLevelReset execBusMasterDisable
      execBadAccess execRingsEnSet execRingsEnClear execRingEnable execRingReset execSubmissionDoorbell execCompletionDoorbell
      execDescriptorFetch execHostReadCompletion execHostReadTimeout execHostReadGrant execHeldCompletionFlush
      execMsixModerationTimeout execMsixUnmask execTableRead execReadOnlyTableLoad execEventMask execTsqRead execUpdateStatus
      execPlantSend execRxBuffer execRecordBuffer execRecordRead execStep execStepCancel execStepFlush execStepDeferredAdmit
      execCommitDecision execPartDeadline execCancelCutOff execReportDeadline execStepLaunch execStepDry execBasePeriodStart
      execSlotEvaluation execCmbClassWrite execTaskRelease execScanEnd execExchangeBoundary execConversionSlot
      execRotationInterval execSelfCalibrationEnd execConverterClrFault execCalMean execCalSpread execSampleRead
      execFieldOutputInstant execDutyPeriodStart execHsCondition execHoldPolicyCycleEnd execDigitalInputTransition
      execDigitalInputAccept execEncoderCapture execEncoderFault execAxisMoveEnd execCapRead execHsDiag execExternalTrigger
      execRecordBufferFlush execWagRun execHiveListenEnd execHiveBackoffEnd execBasicCycleStart execHeadReferenceCopy
      execEchoCheckFail execHeadWithdrawalEnd execHeadWdrnClear execClashClr execUpstreamSwitch execWindowSwap
      execExclusiveWindowStart execWindowSlotStart execExclusiveWindowEnd execDataFrame execStatusFrame execProbe execProbeResp
      execSafetyFrame execGuardianCut execTrunkAligned execTrunkAlignmentLost execTrunkDqSend execTrunkDqReceive
      execTrunkDrReceive execTrunkForward execModeChangeDecision execStationStat execSnap execHash execChange execChangeAck
      execState execIdle execTwinLinkLost execTwinLinkUp execLeaseRequestSend execRequest execGrant execRelinquish execOffer
      execAccept execIssuerOccupancyEnd execActUntil execWitnessSilent execHandover execHandoverAbandoned execResync
      execStandbyReplay execChangeAckTimeout execTakeover execSealChange execSafetyInputChange execSafetyInputDiscTimeout
      execTestPulse execSafetyFrameSend execSafetyPairCopy execSafetyPathAbsence execSafetyWatchExpiry execDisagree
      execGuardSafetyCycle execManualRestart execOnmaxCut execOffminEnd execRateDelayEnd execHsCountsOff execFenGateVerified
      execGuardSelfTestDone execElementTest execDroneCycleStart execDroneInputLatch execDroneOutputInstant execHoldLoopRelease
      execCanEnable execCanSend execCanFrameReceive execCanFrameSent execCanState execCanRecoveryEnd execMessageAtLaunch
      execMessageRxFlush execUartEnable execUartSend execUartSendStart execUartSendEnd execUartCharacter execUartGap execPbSend
      execPbReady execPbCycleEnd execBusTimeout execGpConfigWrite execGpInputChange execGpRead execHello execStage execInstall
      execInstallDone execActivate execActivationCommit execServiceStatus execToken execDiscard execLedger execExpect
      execUsbBusReset execLedgerSample execLedgerCommit execLockSet execRegisterWrite execPwrfailRelease execPlantMessageReceive
    repeat' first | with_reducible exact answers_next _ | split | extract_lets

theorem exec_keeps_pending {c : Instr} {s t : State} (hnext : exec c s = .next t) : t.pending = s.pending := by
  have hparts : (partsOf c).contains .pending = false := by cases c <;> rfl
  exact State.only_pending (only_of_nextMask (exec_mask c s) hnext) hparts

/-- Settles O52: what a command answers is a next state, and the queue is among no command's parts. -/
theorem everyCommandAnswersANextState : Obligations.EveryCommandAnswersANextState := by
  unfold Obligations.EveryCommandAnswersANextState
  have hanswer (c : Instr) (s : State) : ∃ t, exec c s = .next t ∧ t.pending = s.pending := by
    obtain ⟨t, hnext⟩ := exec_answers c s
    exact ⟨t, hnext, exec_keeps_pending hnext⟩
  exact ⟨hanswer, fun c rest s => by rw [step_of_waiting rfl]; exact hanswer c { s with pending := rest }⟩

end Sys2Proof.Machine
end

section
/-! PROOFS. TB0 (R57, R58, R69, R98): PTP, the time set by the host, one further step. -/

namespace Sys2Proof.Machine

/-- A command leaves what its next state has, and of the other parts of the State what they were. -/
theorem completes_of_exec {ps : List Area} {c : Instr} {s t : State} {P : State → Prop} (hnext : exec c s = .next t) (hP : P t)
    (hparts : covers ps (partsOf c) = true) : Completes ps c s P :=
  ⟨t, hnext, hP, only_of_nextMask (nextMask_mono hparts (exec_mask c s)) hnext⟩

/-- A change that no partner mirrors takes effect at once on a member that acts (R449). -/
theorem State.asChange_of_acts {s : State} {p : Pair} {mine : Option Entry} {e : Entry}
    {f : State → Host.Outcome State Fault Refusal} (hmine : mine = some e) (hacts : s.roleActs = true)
    (hmirrors : s.mirrors = false) : s.asChange p mine f = f s := by
  simp [State.asChange, hmine, hacts, hmirrors]

/-! ### Locks of the bases (R56) -/

@[simp] theorem State.setLock_tb0Lock (s : State) (v : Bool) : (s.setLock 0 v).time.tb0Lock = v := by
  by_cases hsame : s.time.tb0Lock = v <;> simp [State.setLock, hsame]

@[simp] theorem State.setLock_tb1Lock (s : State) (v : Bool) : (s.setLock 1 v).time.tb1Lock = v := by
  by_cases hsame : s.time.tb1Lock = v <;> simp [State.setLock, hsame]

/-- The time part without the locks and the note of their loss. -/
def TimeState.besideLocks (t : TimeState) : TimeState :=
  { t with tb0Lock := false, tb1Lock := false, tb3Lock := false, lockLostSeen := false }

@[simp] theorem State.setLock_besideLocks (s : State) (base : Nat) (v : Bool) :
    (s.setLock base v).time.besideLocks = s.time.besideLocks := by
  unfold State.setLock
  extract_lets old t locked noted
  split
  · rfl
  · have hlocked : locked.besideLocks = s.time.besideLocks := by
      unfold locked
      split
      · rfl
      · split <;> rfl
    exact hlocked

/-! ### PTP (R57, R69) -/

/-- TB0 as an offset leaves it: stepped at the first one and where a further step is permitted, else steered. -/
def State.ptpAdjusted (s : State) (off : Int) : State :=
  if !s.time.tb0Stepped || s.time.restepOk then s.shiftTb0 (-off) else s.steerTb0

/-- What follows the adjustment: the step that has been is noted, the offset counts for the lock. -/
theorem State.ptpOffset_after_adjusted (s : State) (off : Int) :
    State.only [.time, .hif, .out] (s.ptpAdjusted off) (s.ptpOffset off) ∧ ∃ run, (s.ptpOffset off).time.besideLocks =
      { (s.ptpAdjusted off).time with tb0Stepped := true, ptpRun := run }.besideLocks := by
  unfold State.ptpOffset
  extract_lets adjusted before stepped run noted counted
  have honly : State.only [.time, .hif, .out] (s.ptpAdjusted off) counted :=
    (State.setTime_mask rfl stepped _).trans (State.setTime_mask rfl adjusted _)
  have hview : counted.time.besideLocks =
      { (s.ptpAdjusted off).time with tb0Stepped := true, ptpRun := min run 4 }.besideLocks := rfl
  have hlocked (v : Bool) := And.intro (State.only_trans honly (State.setLock_mask rfl counted 0 v))
    ((counted.setLock_besideLocks 0 v).trans hview)
  clear_value counted
  split
  · exact ⟨(hlocked false).1, _, (hlocked false).2⟩
  · split
    · exact ⟨(hlocked true).1, _, (hlocked true).2⟩
    · exact ⟨honly, _, hview⟩

theorem exec_ptpMessage_offset {s : State} {port : Fin 2} (off : Int) (hup : s.hostUp = true) (hon : s.ptpOn port.val = true)
    (hmaster : s.tb0Master = true) (hsrc : s.rbit 0x2000 0 = false) :
    exec (.ptpMessage port ⟨s.rbit 0x2000 5, s.rbit 0x2000 4, none, some off⟩) s =
      .next (s.ptpOffset (s.ptpCorrected port off)) := by
  change execPtpMessage port _ s = _
  simp [execPtpMessage, hup, hon, hmaster, hsrc]

theorem exec_ptpMessage_event {s : State} {port : Fin 2} (m : Stamp) (hup : s.hostUp = true) (hon : s.ptpOn port.val = true) :
    exec (.ptpMessage port ⟨s.rbit 0x2000 5, s.rbit 0x2000 4, some m, none⟩) s =
      .next { s with time := { s.time with
        ptpRx := tput 0 (m - BitVec.ofInt 48 (s.rxLat port.val)) s.time.ptpRx port.val } } := by
  change execPtpMessage port _ s = _
  simp [execPtpMessage, hup, hon, State.setTime]

theorem exec_ptpMessage_otherForm {s : State} {port : Fin 2} {m : PtpArrival}
    (hother : m.layer2 ≠ s.rbit 0x2000 5 ∨ m.p2p ≠ s.rbit 0x2000 4) : exec (.ptpMessage port m) s = .next s := by
  change execPtpMessage port m s = _
  rcases hother with hform | hmechanism
  · simp [execPtpMessage, hform]
  · simp [execPtpMessage, hmechanism]

theorem exec_ptpMessageSend {s : State} {port : Fin 2} (mac : Option Stamp) (hup : s.hostUp = true)
    (hon : s.ptpOn port.val = true) :
    exec (.ptpMessageSend port mac) s =
      .next { s with
        time := { s.time with ptpSent := s.time.ptpSent + 1 }
        out := .ptp port.val mac.isSome (mac.isSome && s.rbit 0x2000 3) (s.rbit 0x2000 4) (s.rbit 0x2000 5)
          (mac.map (fun m => m + BitVec.ofInt 48 (s.txLat port.val))) :: s.out } := by
  change execPtpMessageSend port mac s = _
  simp [execPtpMessageSend, hup, hon, State.setTime, State.emitOut]

/-- The first offset steps TB0 by what it is, corrected by half the difference of the latencies. -/
theorem ptpMessage_steps {s : State} {port : Fin 2} {off : Int} (hup : s.hostUp = true) (hon : s.ptpOn port.val = true)
    (hmaster : s.tb0Master = true) (hsrc : s.rbit 0x2000 0 = false) (hfirst : s.time.tb0Stepped = false) :
    Completes [.time, .hif, .out] (.ptpMessage port ⟨s.rbit 0x2000 5, s.rbit 0x2000 4, none, some off⟩) s fun t =>
      t.time.tb0.sec = (s.time.tb0.plus (-(off + (s.txLat port.val - s.rxLat port.val) / 2) * 2 ^ 24)).sec ∧
      t.time.tb0.nsec = (s.time.tb0.plus (-(off + (s.txLat port.val - s.rxLat port.val) / 2) * 2 ^ 24)).nsec ∧
      t.time.tb0Stepped = true ∧ t.time.tb0StepSeen = true ∧ t.time.tb1 = s.time.tb1 := by
  obtain ⟨honly, run, hview⟩ := s.ptpOffset_after_adjusted (s.ptpCorrected port off)
  have hadjusted : s.ptpAdjusted (s.ptpCorrected port off) = s.shiftTb0 (-(s.ptpCorrected port off)) := by
    simp [State.ptpAdjusted, hfirst]
  rw [hadjusted] at honly hview
  exact ⟨_, exec_ptpMessage_offset off hup hon hmaster hsrc,
    ⟨congrArg (fun t : TimeState => t.tb0.sec) hview, congrArg (fun t : TimeState => t.tb0.nsec) hview,
      congrArg (fun t : TimeState => t.tb0Stepped) hview, congrArg (fun t : TimeState => t.tb0StepSeen) hview,
      (congrArg (fun t : TimeState => t.tb1) hview).trans rfl⟩,
    State.only_trans (State.shiftTb0_mask rfl _ _) honly⟩

/-- A later offset steers TB0: its rate term alone takes the servo's value, the next free one. -/
theorem ptpMessage_steers {s : State} {port : Fin 2} {off : Int} (hup : s.hostUp = true) (hon : s.ptpOn port.val = true)
    (hmaster : s.tb0Master = true) (hsrc : s.rbit 0x2000 0 = false) (hstepped : s.time.tb0Stepped = true)
    (hrestep : s.time.restepOk = false) :
    Completes [.time, .hif, .out, .freeIdx] (.ptpMessage port ⟨s.rbit 0x2000 5, s.rbit 0x2000 4, none, some off⟩) s fun t =>
      t.time.tb0 = { s.time.tb0 with rate := clampRate (Config.servoRate s.freeIdx) } ∧ t.freeIdx = s.freeIdx + 1 := by
  obtain ⟨honly, run, hview⟩ := s.ptpOffset_after_adjusted (s.ptpCorrected port off)
  have hadjusted : s.ptpAdjusted (s.ptpCorrected port off) = s.steerTb0 := by
    simp [State.ptpAdjusted, hstepped, hrestep]
  rw [hadjusted] at honly hview
  exact completes_of_exec (exec_ptpMessage_offset off hup hon hmaster hsrc)
    ⟨congrArg (fun t : TimeState => t.tb0) hview, State.only_freeIdx honly rfl⟩ rfl

/-! ### TB0_RESTEP and TIME_SET (R57, R58, R98) -/

theorem exec_tb0Restep {s : State} (hup : s.hostUp = true) (hmaster : s.tb0Master = true) :
    exec .tb0Restep s = .next { s with time := { s.time with restepOk := true } } := by
  change execTb0Restep s = _
  simp [execTb0Restep, hup, hmaster, State.setTime]

/-- TB0 takes the time that the host sets, its rate term and that of TB1 zero. -/
def State.hostTb0 (s : State) (sec : BitVec 48) (nsec : Nat) : State :=
  let t := (s.stepTb0 sec nsec).time
  s.setTime { t with tb0 := { t.tb0 with rate := 0 }, tb1 := { t.tb1 with rate := 0 }, tb0Set := true }

section
variable {s : State} {p : Pair} {e : Entry} (htake : s.takeOp p.val 2 3 = some e) (hacts : s.roleActs = true)
  (hmirrors : s.mirrors = false)
include htake hacts hmirrors

theorem exec_timeSet_badNs (hns : e.fullTime.2 ≥ 1000000000) : exec (.timeSet p) s = .next (s.finish p.val e.sub 0x02 0) := by
  change s.asChange p (s.takeOp p.val 2 3) (doTimeSet p) = _
  rw [State.asChange_of_acts htake hacts hmirrors]
  simp [doTimeSet, htake, hns]

theorem exec_timeSet_locked (hns : e.fullTime.2 < 1000000000)
    (hlocked : s.tb0Master = false ∨ s.rbit 0x2000 0 = false ∨ s.time.tb0Set = true ∧ s.time.restepOk = false) :
    exec (.timeSet p) s = .next (s.finish p.val e.sub 0x0A 0) := by
  change s.asChange p (s.takeOp p.val 2 3) (doTimeSet p) = _
  rw [State.asChange_of_acts htake hacts hmirrors]
  have hbar : (!s.tb0Master || !s.rbit 0x2000 0 || (s.time.tb0Set && !s.time.restepOk)) = true := by
    rcases hlocked with h | h | ⟨h, h'⟩
    · simp [h]
    · simp [h]
    · simp [h, h']
  simp [doTimeSet, htake, Nat.not_le.mpr hns, hbar]

theorem exec_timeSet (hns : e.fullTime.2 < 1000000000) (hmaster : s.tb0Master = true) (hsrc : s.rbit 0x2000 0 = true)
    (hfree : s.time.tb0Set = false ∨ s.time.restepOk = true) :
    exec (.timeSet p) s =
      .next (((s.hostTb0 e.fullTime.1 e.fullTime.2).setLock 0 true).finish p.val e.sub 0 0) := by
  change s.asChange p (s.takeOp p.val 2 3) (doTimeSet p) = _
  rw [State.asChange_of_acts htake hacts hmirrors]
  have hbar : (s.time.tb0Set && !s.time.restepOk) = false := by
    rcases hfree with h | h <;> simp [h]
  simp [doTimeSet, htake, Nat.not_le.mpr hns, hmaster, hsrc, hbar]
  rfl

end

/-- Settles O7: the equations above say what each command answers; the lock that follows a step leaves TB0 as the step does. -/
theorem timeOfDayTB0 : Obligations.TimeOfDayTB0 := by
  unfold Obligations.TimeOfDayTB0
  refine ⟨?first, ?later, ?event, ?otherForm, ?sendEvent, ?sendGeneral, ?restep, ?set, ?locked, ?badNs⟩
  case first => exact fun s port off hup hon hmaster hsrc hfirst => ptpMessage_steps hup hon hmaster hsrc hfirst
  case later =>
    exact fun s port off hup hon hmaster hsrc hstepped hrestep => ptpMessage_steers hup hon hmaster hsrc hstepped hrestep
  case event => exact fun s port m hup hon => exec_ptpMessage_event m hup hon
  case otherForm => exact fun s port m hother => exec_ptpMessage_otherForm hother
  case sendEvent => exact fun s port m hup hon => exec_ptpMessageSend (some m) hup hon
  case sendGeneral => exact fun s port hup hon => exec_ptpMessageSend none hup hon
  case restep => exact fun s hup hmaster => exec_tb0Restep hup hmaster
  case set =>
    intro s p e htake hacts hmirrors hns hmaster hsrc hfree
    have hview := (s.hostTb0 e.fullTime.1 e.fullTime.2).setLock_besideLocks 0 true
    have hset : State.only [.time, .hif, .out] s (s.hostTb0 e.fullTime.1 e.fullTime.2) := rfl
    have hlock := State.setLock_mask (qs := [.time, .hif, .out]) rfl (s.hostTb0 e.fullTime.1 e.fullTime.2) 0 true
    have hdone := State.finish_mask (qs := [.time, .hif, .out]) rfl
      ((s.hostTb0 e.fullTime.1 e.fullTime.2).setLock 0 true) p.val e.sub 0 0
    exact ⟨_, exec_timeSet htake hacts hmirrors hns hmaster hsrc hfree,
      ⟨congrArg (fun t : TimeState => t.tb0) hview, congrArg (fun t : TimeState => t.tb0Set) hview,
        State.setLock_tb0Lock _ _, congrArg (fun t : TimeState => t.restepOk) hview⟩,
      State.only_trans hset (State.only_trans hlock hdone)⟩
  case locked =>
    exact fun s p e htake hacts hmirrors hns hlocked => exec_timeSet_locked htake hacts hmirrors hns hlocked
  case badNs => exact fun s p e htake hacts hmirrors hns => exec_timeSet_badNs htake hacts hmirrors hns

end Sys2Proof.Machine
end

section
/-! PROOFS. The programmed pulse outputs and the transmit stamp queue (R73 to R77). -/

namespace Sys2Proof.Machine

/-! ### What a write of the pulse register leaves of an output (R74, R77) -/

@[simp] theorem State.modTpo_tpo (s : State) (n : Nat) (f : PulseRt → PulseRt) : (s.modTpo n f).tpo n = f (s.tpo n) :=
  tget_tput_same _ _ _ _

@[simp] theorem State.writeTpo_time (s : State) (n : Nat) (w : Word) : (s.writeTpo n w).time = s.time :=
  State.only_time (ps := [.regs, .out]) (State.writeTpo_mask rfl s n w) rfl

theorem State.writeTpo_regs (s : State) (n : Nat) (w : Word) :
    (s.writeTpo n w).regs = (let m : Word := if (s.tpo n).armed then regRw (0x2100 + 0x20 * n) &&& 0x10 else regRw (0x2100 + 0x20 * n)
      regSet s.regs (0x2100 + 0x20 * n) ((w &&& m) ||| (s.reg (0x2100 + 0x20 * n) &&& ~~~ m))) := by
  unfold State.writeTpo
  extract_lets off r m t
  split <;> rfl

@[simp] theorem State.emitOut_tpo (s : State) (o : Output) (n : Nat) : (s.emitOut o).tpo n = s.tpo n := rfl

/-- The output after the write: its pulse and its instant as they were, only W1C bits cleared. -/
theorem State.writeTpo_tpo (s : State) (n : Nat) (w : Word) : (s.writeTpo n w).tpo n = s.tpo n := by
  simp only [State.tpo, State.writeTpo_time]

theorem State.clearTpo_armed (s : State) (n : Nat) (w : Word) : ((s.clearTpo n w).tpo n).armed = (s.tpo n).armed := by
  simp [State.clearTpo]

theorem State.clearTpo_high (s : State) (n : Nat) (w : Word) : ((s.clearTpo n w).tpo n).high = (s.tpo n).high := by
  simp [State.clearTpo]

/-- The write stores the bits of the register of an output that is not armed. -/
theorem State.reg_written {s : State} {n : Nat} (w : Word) (hfree : (s.tpo n).armed = false) :
    ((s.clearTpo n w).writeTpo n w).reg (0x2100 + 0x20 * n) &&& regRw (0x2100 + 0x20 * n) = w &&& regRw (0x2100 + 0x20 * n) := by
  rw [State.reg, State.writeTpo_regs, State.clearTpo_armed, hfree]
  simp only [Bool.false_eq_true, if_false, regAt_regSet_same]
  generalize regRw _ = m
  ext i hi
  simp only [BitVec.getElem_and, BitVec.getElem_or, BitVec.getElem_not]
  cases w[i] <;> cases m[i] <;> simp

/-! ### Arming and disarming (R75, R77) -/

section
variable {s u : State} {n : Fin 4} {w : Word} (hwritten : (s.clearTpo n w).writeTpo n w = u) (hup : s.hostUp = true)
include hwritten hup

theorem exec_pulseOutputDisarm :
    exec (.pulseOutputDisarm n w) s = .next ((if (s.tpo n).high then u.emitOut (.pulse n (u.tpoLevel n false)) else u).modTpo n
      (fun r => { r with armed := false, high := false })) := by
  change execPulseOutputDisarm n w s = _
  simp [execPulseOutputDisarm, hwritten, hup]

variable (hfree : (s.tpo n).armed = false)
include hfree

theorem exec_pulseOutputArm_bad (hbad : u.tpoBad n = true) :
    exec (.pulseOutputArm n w) s = .next (u.modTpo n (fun r => { r with cfgErr := true })) := by
  change execPulseOutputArm n w s = _
  simp [execPulseOutputArm, hwritten, hup, hfree, hbad]

variable (hgood : u.tpoBad n = false)
include hgood

theorem exec_pulseOutputArm_periodic (hmode : u.tpoPeriodic n = true) :
    exec (.pulseOutputArm n w) s = .next (u.modTpo n (fun r => { r with
      armed := true, next := seriesNext (u.tpoStart n) (u.tpoPeriod n) (u.baseNow (u.tpoBase n)) })) := by
  change execPulseOutputArm n w s = _
  simp [execPulseOutputArm, hwritten, hup, hfree, hgood, hmode]

theorem exec_pulseOutputArm_past (hmode : u.tpoPeriodic n = false)
    (hpast : sdiff (u.tpoStart n) (u.baseNow (u.tpoBase n)) < 0) :
    exec (.pulseOutputArm n w) s = .next (u.modTpo n (fun r => { r with past := true })) := by
  change execPulseOutputArm n w s = _
  simp [execPulseOutputArm, hwritten, hup, hfree, hgood, hmode, hpast]

theorem exec_pulseOutputArm_single (hmode : u.tpoPeriodic n = false)
    (hahead : 0 ≤ sdiff (u.tpoStart n) (u.baseNow (u.tpoBase n))) :
    exec (.pulseOutputArm n w) s = .next (u.modTpo n (fun r => { r with armed := true, next := u.tpoStart n })) := by
  change execPulseOutputArm n w s = _
  simp [execPulseOutputArm, hwritten, hup, hfree, hgood, hmode, Int.not_lt.mpr hahead]

end

/-! ### Edges (R74, R76) -/

/-- The instant of an armed output, its base locked: the pin is driven, and the output is armed for its next instant or has fired. -/
theorem exec_pulseOutputEdge_rising {s : State} {n : Fin 4} (harmed : (s.tpo n.val).armed = true) (hlow : (s.tpo n.val).high = false)
    (hlock : s.baseLocked (s.tpoBase n.val) = true) :
    exec (.pulseOutputEdge n) s = .next ((s.emitOut (.pulse n (s.tpoLevel n true))).modTpo n (fun r =>
      if s.tpoPeriodic n then { r with high := true, next := tadd r.next (Int.ofNat (s.tpoPeriod n)) }
      else { r with high := true, fired := true, armed := false })) := by
  change execPulseOutputEdge n s = _
  simp only [execPulseOutputEdge, harmed, hlow, hlock, Bool.false_eq_true, Bool.not_true, if_false]
  rfl

theorem exec_pulseOutputEdge_falling {s : State} {n : Fin 4} (hhigh : (s.tpo n.val).high = true) :
    exec (.pulseOutputEdge n) s =
      .next ((s.emitOut (.pulse n (s.tpoLevel n false))).modTpo n (fun r => { r with high := false })) := by
  change execPulseOutputEdge n s = _
  simp [execPulseOutputEdge, hhigh]

/-! ### The transmit stamp queue (R73) -/

theorem exec_tsqRead {s : State} {p : Pair} {e : Entry} (htake : s.takeOp p.val 5 3 = some e) (hqueue : s.time.tsq ≠ []) :
    exec (.tsqRead p) s = .next (State.finish
      { (s.hostWrite e.addr (s.time.tsq.flatMap TsqEntry.bytes)) with time := { s.time with tsq := [] } } p.val e.sub 0
      (BitVec.ofNat 64 s.time.tsq.length)) := by
  change execTsqRead p s = _
  simp [execTsqRead, htake, hqueue, State.setTime, State.hostWrite]

theorem exec_tsqRead_empty {s : State} {p : Pair} {e : Entry} (htake : s.takeOp p.val 5 3 = some e) (hqueue : s.time.tsq = []) :
    exec (.tsqRead p) s = .next (s.finish p.val e.sub 0 0) := by
  change execTsqRead p s = _
  have hsame : s.setTime { s.time with tsq := [] } = s := by rw [← hqueue]; rfl
  simp [execTsqRead, htake, hqueue, hsame]

/-- Settles O8, clause by clause: the equations above give the state that each command answers. -/
theorem programmedPulseOutputs : Obligations.ProgrammedPulseOutputs := by
  unfold Obligations.ProgrammedPulseOutputs
  refine ⟨?single, ?periodic, ?bad, ?past, ?disarm, ?fires, ?repeats, ?falls, ?read, ?readEmpty⟩
  case single =>
    intro s n w hup hfree hgood hmode hahead
    exact completes_of_exec (exec_pulseOutputArm_single rfl hup hfree hgood hmode hahead)
      ⟨by simp, by simp, State.reg_written w hfree⟩ rfl
  case periodic =>
    intro s n w hup hfree hgood hmode
    exact completes_of_exec (exec_pulseOutputArm_periodic rfl hup hfree hgood hmode) ⟨by simp, by simp⟩ rfl
  case bad =>
    intro s n w hup hfree hbad
    refine completes_of_exec (exec_pulseOutputArm_bad rfl hup hfree hbad) ⟨?_, by simp⟩ rfl
    simp [State.writeTpo_tpo, State.clearTpo_armed, hfree]
  case past =>
    intro s n w hup hfree hgood hmode hpast
    refine completes_of_exec (exec_pulseOutputArm_past rfl hup hfree hgood hmode hpast) ⟨?_, by simp⟩ rfl
    simp [State.writeTpo_tpo, State.clearTpo_armed, hfree]
  case disarm => exact fun s n w hup => completes_of_exec (exec_pulseOutputDisarm rfl hup) ⟨by simp, by simp⟩ rfl
  case fires =>
    intro s n harmed hlow hlock hmode
    exact completes_of_exec (exec_pulseOutputEdge_rising harmed hlow hlock) ⟨by simp [hmode], rfl⟩ rfl
  case repeats =>
    intro s n harmed hlow hlock hmode
    exact completes_of_exec (exec_pulseOutputEdge_rising harmed hlow hlock) ⟨by simp [hmode], rfl⟩ rfl
  case falls =>
    exact fun s n hhigh => completes_of_exec (exec_pulseOutputEdge_falling hhigh) ⟨by simp, rfl⟩ rfl
  case read => exact fun s p e htake hqueue => exec_tsqRead htake hqueue
  case readEmpty => exact fun s p e htake hqueue => exec_tsqRead_empty htake hqueue

end Sys2Proof.Machine
end

section
/-! PROOFS. Receive buffers, plant ports, AT launches and the message flush (R62, R71, R72, R97, R532, R539, R544). -/

namespace Sys2Proof.Machine

/-! ### Receive buffers (R532) -/

section
variable {s : State} {p : Pair} {e : Entry} (htake : s.takeOp p.val 5 2 = some e)
include htake

theorem exec_rxBuffer_plant {k : Fin 2} (hport : portOf e.byte16 = some (.plant k)) :
    exec (.rxBuffer p) s = .next ((s.setLeg { s.leg with
      rxBufs := s.leg.rxBufs ++ [{ pair := p, sub := e.sub, port := .plant k, addr := e.addr, size := e.len }] }).accept
      p.val e.sub) := by
  change execRxBuffer p s = _
  simp [execRxBuffer, htake, hport, State.drainRx]

theorem exec_rxBuffer_unbound {q : Port} (hport : portOf e.byte16 = some q) (hplant : ∀ k, q ≠ .plant k)
    (hring0 : s.rxRing q 0 ≠ some p.val) (hring1 : s.rxRing q 1 ≠ some p.val) :
    exec (.rxBuffer p) s = .next (s.finish p.val e.sub 0x02 0) := by
  change execRxBuffer p s = _
  cases q with
  | plant k => exact absurd rfl (hplant k)
  | _ => simp [execRxBuffer, htake, hport, hring0, hring1]

theorem exec_rxBuffer_short {c : Fin 4} (hport : portOf e.byte16 = some (.can c)) (hring : s.rxRing (.can c) 0 = some p.val)
    (hlen : e.len < 88) : exec (.rxBuffer p) s = .next (s.finish p.val e.sub 0x09 0) := by
  change execRxBuffer p s = _
  simp [execRxBuffer, htake, hport, hring, hlen]

end

/-! ### Plant sends (R71, R72, R97) -/

/-- The port of a plant SEND, as execPlantSend asks for it. -/
def Port.isPlant : Port → Bool
  | .plant _ => true
  | _ => false

/-- A SEND on a plant port: refused beyond the horizon, waiting for its AT instant, or transmitted at once. -/
theorem exec_plantSend {s : State} {p : Pair} {e : Entry} {k : Fin 2} (htake : s.takeSend p Port.isPlant = some (e, .plant k)) :
    exec (.plantSend p) s = .next (
      if s.atBeyond e then s.finish p.val e.sub 0x08 0
      else if e.atFlag then
        (s.setLeg { s.leg with plantTx := s.leg.plantTx ++ [{
          pair := p, sub := e.sub, port := k, tag := e.tag, tstamp := e.tstamp, at_ := e.atInstant, bytes := e.data }] }).accept
          p.val e.sub
      else (s.plantOut k e.data e.tstamp e.tag).finish p.val e.sub 0 0) := by
  change (match s.takeSend p Port.isPlant with
    | some (e, .plant port) => _
    | _ => _) = _
  rw [htake]
  dsimp only
  split_ifs <;> rfl

theorem State.atBeyond_of_noAt {s : State} {e : Entry} (hat : e.atFlag = false) : s.atBeyond e = false := by
  simp [State.atBeyond, hat]

/-! ### Plant frames received (R97) -/

section
variable {s : State} {k : Fin 2} {b : RxBuf} {d : List Byte} (hbufs : s.leg.rxBufs = [b]) (hport : b.port = .plant k)
include hbufs hport

theorem exec_plantMessageReceive (hlen : d.length ≤ b.size) :
    exec (.plantMessageReceive k d) s = .next (((s.setLeg { s.leg with rxBufs := [] }).hostWrite b.addr d).finish b.pair.val
      b.sub 0 (BitVec.ofNat 64 d.length)) := by
  change execPlantMessageReceive k d s = _
  simp [execPlantMessageReceive, hbufs, hport, Nat.not_lt.mpr hlen]

theorem exec_plantMessageReceive_tooLong (hlen : b.size < d.length) :
    exec (.plantMessageReceive k d) s =
      .next ((s.setLeg { s.leg with rxBufs := [] }).finish b.pair.val b.sub 0x09 0) := by
  change execPlantMessageReceive k d s = _
  simp [execPlantMessageReceive, hbufs, hport, hlen]

end

theorem exec_plantMessageReceive_lost {s : State} (k : Fin 2) (d : List Byte) (hbufs : s.leg.rxBufs = []) :
    exec (.plantMessageReceive k d) s = .next s := by
  change execPlantMessageReceive k d s = _
  simp [execPlantMessageReceive, hbufs]

/-! ### Single updates of the bridge -/

theorem State.modUart_uartRt (s : State) (u : Nat) (f : UartRt → UartRt) : (s.modUart u f).uartRt u = f (s.uartRt u) :=
  tget_tput_same _ _ _ _

theorem State.modCan_canRt (s : State) (c : Nat) (f : CanRt → CanRt) : (s.modCan c f).canRt c = f (s.canRt c) :=
  tget_tput_same _ _ _ _

/-! ### AT launches (R62, R539, R544) -/

/-- A SEND of a UART after a launch of its port: eligible from its AT instant on. -/
def UartTx.launchAt (s : State) (x : UartTx) : UartTx := { x with eligible := x.eligible || s.atDue x.at_ }

/-- A SEND of a CAN channel after a launch of its port: eligible from its AT instant on, with the time of the launch. -/
def CanTx.launchAt (s : State) (x : CanTx) : CanTx :=
  if s.atDue x.at_ && x.eligible.isNone then { x with eligible := some s.time.t2 } else x

theorem exec_messageAtLaunch_unlocked {s : State} (q : Port) (hlock : s.time.tb1Lock = false) :
    exec (.messageAtLaunch q) s = .next s := by
  change execMessageAtLaunch q s = _
  simp [execMessageAtLaunch, hlock]

section
variable {s : State} (hlock : s.time.tb1Lock = true)
include hlock

theorem exec_messageAtLaunch_plant {x : PlantTx} (hqueue : s.leg.plantTx = [x]) (hstamp : x.tstamp = false)
    (hdue : s.atDue (some x.at_) = true) :
    exec (.messageAtLaunch (.plant x.port)) s = .next (((s.setLeg { s.leg with plantTx := [] }).emitOut
      (.plant x.port x.bytes)).finish x.pair.val x.sub 0 0) := by
  change execMessageAtLaunch (.plant x.port) s = _
  simp [execMessageAtLaunch, hlock, hqueue, hdue, State.plantOut, hstamp]

theorem exec_messageAtLaunch_uart (u : Fin 4) :
    exec (.messageAtLaunch (.uart u)) s = .next (s.modUart u (fun r => { r with tx := r.tx.map (UartTx.launchAt s) })) := by
  change execMessageAtLaunch (.uart u) s = _
  simp only [execMessageAtLaunch, hlock]
  rfl

theorem exec_messageAtLaunch_can (c : Fin 4) :
    exec (.messageAtLaunch (.can c)) s = .next (s.modCan c (fun r => { r with tx := r.tx.map (CanTx.launchAt s) })) := by
  change execMessageAtLaunch (.can c) s = _
  simp only [execMessageAtLaunch, hlock]
  rfl

theorem messageAtLaunch_uart_completes {u : Fin 4} {x : UartTx} (hqueue : (s.uartRt u).tx = [x]) :
    Completes [.leg] (.messageAtLaunch (.uart u)) s fun t =>
      t.uartRt u = { s.uartRt u with tx := [{ x with eligible := x.eligible || s.atDue x.at_ }] } := by
  refine ⟨_, exec_messageAtLaunch_uart hlock u, (State.modUart_uartRt _ _ _).trans ?_, State.modUart_mask rfl _ _ _⟩
  simp [hqueue, UartTx.launchAt]

theorem messageAtLaunch_can_completes {c : Fin 4} {x : CanTx} (hqueue : (s.canRt c).tx = [x]) (hwaits : x.eligible = none)
    (hdue : s.atDue x.at_ = true) :
    Completes [.leg] (.messageAtLaunch (.can c)) s fun t =>
      t.canRt c = { s.canRt c with tx := [{ x with eligible := some s.time.t2 }] } := by
  refine ⟨_, exec_messageAtLaunch_can hlock c, (State.modCan_canRt _ _ _).trans ?_, State.modCan_mask rfl _ _ _⟩
  simp [hqueue, CanTx.launchAt, hwaits, hdue]

end

/-! ### The flush (R532) -/

theorem exec_messageRxFlush {s : State} {c : Fin 4} {b : RxBuf} {ring : Nat} (hus : s.rfld (canOff c.val + 0xC) 31 16 ≠ 0)
    (hring : s.rxRing (.can c) 0 = some ring) (hbuf : s.leg.bufOf (.can c) ring = some b) (hfilled : 0 < b.filled)
    (hpassed : b.first + s.rfld (canOff c.val + 0xC) 31 16 * 1000 ≤ s.time.t2) :
    exec (.messageRxFlush (.can c) false) s = .next ((s.closeRx b).drainRx (.can c)) := by
  change execMessageRxFlush (.can c) false s = _
  simp [execMessageRxFlush, hus, hring, hbuf, hfilled, hpassed]

theorem exec_messageRxFlush_off {s : State} {c : Fin 4} (q : Bool) (hus : s.rfld (canOff c.val + 0xC) 31 16 = 0) :
    exec (.messageRxFlush (.can c) q) s = .next s := by
  change execMessageRxFlush (.can c) q s = _
  simp [execMessageRxFlush, hus]

/-- Settles O30, clause by clause: the equations above give the state that each command answers. -/
theorem buffersAndPlantPorts : Obligations.BuffersAndPlantPorts := by
  unfold Obligations.BuffersAndPlantPorts
  refine ⟨?joins, ?unbound, ?short, ?now, ?waits, ?beyond, ?received, ?tooLong, ?lost, ?unlocked, ?launchPlant, ?launchUart,
    ?launchCan, ?flush, ?flushOff⟩
  case joins => exact fun s p e k htake hport => completes_of_exec (exec_rxBuffer_plant htake hport) rfl rfl
  case unbound =>
    intro s p e q htake hport hring0 hring1 hplant
    refine exec_rxBuffer_unbound htake hport (fun k hk => ?_) hring0 hring1
    subst hk
    exact Bool.noConfusion hplant
  case short => exact fun s p e c htake hport hring hlen => exec_rxBuffer_short htake hport hring hlen
  case now =>
    intro s p e k htake hat hstamp
    refine (exec_plantSend htake).trans ?_
    simp [State.atBeyond_of_noAt hat, hat, State.plantOut, hstamp]
  case waits =>
    intro s p e k htake hat hreach
    refine completes_of_exec (exec_plantSend htake) ?_ rfl
    simp [hreach, hat]
    rfl
  case beyond =>
    intro s p e k htake hreach
    refine (exec_plantSend htake).trans ?_
    simp [hreach]
  case received => exact fun s k b d hbufs hport hlen => exec_plantMessageReceive hbufs hport hlen
  case tooLong => exact fun s k b d hbufs hport hlen => exec_plantMessageReceive_tooLong hbufs hport hlen
  case lost => exact fun s k d hbufs => exec_plantMessageReceive_lost k d hbufs
  case unlocked => exact fun s q hlock => exec_messageAtLaunch_unlocked q hlock
  case launchPlant =>
    rintro s _ x hlock hqueue rfl hstamp hdue
    exact exec_messageAtLaunch_plant hlock hqueue hstamp hdue
  case launchUart => exact fun s u x hlock hqueue => messageAtLaunch_uart_completes hlock hqueue
  case launchCan => exact fun s c x hlock hqueue hwaits hdue => messageAtLaunch_can_completes hlock hqueue hwaits hdue
  case flush =>
    exact fun s c b ring hus hring hbuf hfilled hpassed => exec_messageRxFlush hus hring hbuf hfilled hpassed
  case flushOff => exact fun s c q hus => exec_messageRxFlush_off q hus

end Sys2Proof.Machine
end

section
/-! PROOFS. Starting, following and leaving the link (R383, R402, R412 to R417, R429 to R433): what each operation of the link leaves of
the link state, the place in the schedule and the bases. -/

namespace Sys2Proof.Machine

/-! ### A register beside the one that is written -/

/-- An entry beside the one that is written reads as before, whatever an unlisted index reads as. -/
theorem tget_tput_beside {α : Type} [DecidableEq α] (d d' v : α) (t : Sparse α) {i j : Nat} (h : j ≠ i) :
    tget d' (tput d v t i) j = tget d' t j := by
  induction t with
  | nil => by_cases hv : v = d <;> simp [tput, tget, hv, h.symm]
  | cons a r ih =>
    obtain ⟨k, w⟩ := a
    unfold tput
    split_ifs with hv hik hlt hik
    · simp [ih, tget, hik ▸ h.symm]
    · simp [ih, tget]
    · simp [tget, h.symm]
    · simp [tget, hik ▸ h.symm, h.symm]
    · simp [ih, tget]

theorem State.reg_setReg_beside (s : State) {off off' : Nat} (w : Word) (h : off' ≠ off) : (s.setReg off w).reg off' = s.reg off' :=
  tget_tput_beside _ _ _ _ h

theorem State.reg_setReg (s : State) (off : Nat) (w : Word) : (s.setReg off w).reg off = w := tget_tput_same _ _ _ _

theorem tbit_putBit_31 (w : Word) : tbit (putBit w 31 true) 31 = true := by
  have hw := w.isLt
  simp only [tbit, putBit, putFld, fld, BitVec.getLsbD_ofNat, Nat.testBit_eq_decide_div_mod_eq, Nat.shiftRight_eq_div_pow,
    Bool.toNat_true, Bool.and_eq_true, decide_eq_true_eq]
  omega

/-! ### What the shared operations leave of the link state -/

@[simp] theorem State.setLock_wag (s : State) (base : Nat) (v : Bool) : (s.setLock base v).wag = s.wag :=
  State.only_wag (State.setLock_mask (qs := [.time, .hif, .out]) rfl s base v) rfl

@[simp] theorem State.setLock_tb1 (s : State) (base : Nat) (v : Bool) : (s.setLock base v).time.tb1 = s.time.tb1 :=
  (congrArg (fun t : TimeState => t.tb1) (s.setLock_besideLocks base v) :)

@[simp] theorem State.judgePhase_wag (s : State) : s.judgePhase.wag = s.wag :=
  State.only_wag (State.judgePhase_mask (qs := [.pw, .hif, .drn, .lcy, .out]) rfl s) rfl

@[simp] theorem State.judgePhase_time (s : State) : s.judgePhase.time = s.time :=
  State.only_time (State.judgePhase_mask (qs := [.pw, .hif, .drn, .lcy, .out]) rfl s) rfl

/-! ### Leaving the link and taking up a role (R412, R417) -/

@[simp] theorem State.leaveLink_link (s : State) (l : LinkSt) : (s.leaveLink l).wag.link = l := rfl

@[simp] theorem State.leaveLink_lastRef (s : State) (l : LinkSt) : (s.leaveLink l).wag.lastRef = none := rfl

@[simp] theorem State.leaveLink_grdClosed (s : State) (l : LinkSt) : (s.leaveLink l).wag.grdClosed = true := rfl

@[simp] theorem State.leaveLink_tb1Lock (s : State) (l : LinkSt) : (s.leaveLink l).time.tb1Lock = false := by
  simp [State.leaveLink]

@[simp] theorem State.leaveLink_regs (s : State) (l : LinkSt) : (s.leaveLink l).regs = s.regs :=
  State.only_regs (State.leaveLink_mask (qs := [.time, .hif, .stp, .wag, .out]) rfl s l) rfl

/-- The link part without its trunks and the marked port. -/
def WagState.besideTrunks (g : WagState) : WagState := { g with trunks := [], activePort := none }

theorem State.setTrunk_besideTrunks (s : State) (k : Nat) (r : TrunkRt) (st : TrunkSt) :
    (s.setTrunk k r st).wag.besideTrunks = s.wag.besideTrunks := by
  unfold State.setTrunk
  extract_lets old set
  split <;> rfl

theorem State.judgeTrunk_besideTrunks (s : State) (k : Nat) : (s.judgeTrunk k).wag.besideTrunks = s.wag.besideTrunks := by
  unfold State.judgeTrunk
  extract_lets r active
  split
  · rfl
  · exact s.setTrunk_besideTrunks _ _ _

theorem State.markUpstream_besideTrunks (s : State) (k : Nat) : (s.markUpstream k).wag.besideTrunks = s.wag.besideTrunks := by
  unfold State.markUpstream
  extract_lets r
  split
  · exact State.judgeTrunk_besideTrunks _ _
  · rfl

@[simp] theorem State.markPorts_besideTrunks (s : State) : s.markPorts.wag.besideTrunks = s.wag.besideTrunks := by
  unfold State.markPorts
  split
  · exact (State.judgeTrunk_besideTrunks _ 1).trans (State.judgeTrunk_besideTrunks _ 0)
  · exact (State.markUpstream_besideTrunks _ 1).trans (State.markUpstream_besideTrunks _ 0)

@[simp] theorem State.markPorts_time (s : State) : s.markPorts.time = s.time :=
  State.only_time (State.markPorts_mask (qs := [.hif, .wag, .out]) rfl s) rfl

@[simp] theorem State.markPorts_regs (s : State) : s.markPorts.regs = s.regs :=
  State.only_regs (State.markPorts_mask (qs := [.hif, .wag, .out]) rfl s) rfl

@[simp] theorem State.markPorts_link (s : State) : s.markPorts.wag.link = s.wag.link :=
  (congrArg (fun g : WagState => g.link) s.markPorts_besideTrunks :)

@[simp] theorem State.markPorts_lastRef (s : State) : s.markPorts.wag.lastRef = s.wag.lastRef :=
  (congrArg (fun g : WagState => g.lastRef) s.markPorts_besideTrunks :)

@[simp] theorem State.markPorts_grdClosed (s : State) : s.markPorts.wag.grdClosed = s.wag.grdClosed :=
  (congrArg (fun g : WagState => g.grdClosed) s.markPorts_besideTrunks :)

/-- The state in which a write of WAG_CTRL has been stored, RUN as it is written. -/
def State.runWritten (s : State) (w : Word) : State :=
  (s.writeBits 0xA000 w).setReg 0xA000 (putBit ((s.writeBits 0xA000 w).reg 0xA000) 31 (tbit w 31))

theorem State.runWritten_only (s : State) (w : Word) : State.only [.regs, .pw] s (s.runWritten w) :=
  (State.setReg_mask rfl _ _ _).trans (State.writeBits_mask rfl s _ w)

@[simp] theorem State.runWritten_wag (s : State) (w : Word) : (s.runWritten w).wag = s.wag :=
  State.only_wag (s.runWritten_only w) rfl

@[simp] theorem State.runWritten_lcy (s : State) (w : Word) : (s.runWritten w).lcy = s.lcy :=
  State.only_lcy (s.runWritten_only w) rfl

@[simp] theorem State.runWritten_logic (s : State) (w : Word) : (s.runWritten w).pw.logic = s.pw.logic := by
  unfold State.runWritten State.writeBits State.noteLock
  extract_lets b old m new
  split <;> rfl

theorem State.runWritten_role (s : State) (w : Word) : (s.runWritten w).role = (s.writeBits 0xA000 w).role :=
  congrArg (fun r : Word => fld r 9 8) (State.reg_setReg_beside _ _ (by decide))

/-- The state in which the module's phase is judged anew (R519, R641). -/
def State.phaseAnew (s : State) : State := { s with pw := { s.pw with p3 := false } }

@[simp] theorem State.phaseAnew_wag (s : State) : s.phaseAnew.wag = s.wag := rfl

@[simp] theorem State.phaseAnew_regs (s : State) : s.phaseAnew.regs = s.regs := rfl

@[simp] theorem State.phaseAnew_role (s : State) : s.phaseAnew.role = s.role := rfl

@[simp] theorem State.phaseAnew_linkRuns (s : State) : s.phaseAnew.linkRuns = s.linkRuns := rfl

theorem State.takeRole_witness {s : State} (hrole : s.role = 3) : s.takeRole = s.leaveLink .follow := by
  unfold State.takeRole
  split <;> simp_all

theorem State.runWritten_linkRuns (s : State) (w : Word) : (s.runWritten w).linkRuns = s.linkRuns := by
  simp [State.linkRuns]

/-- What follows the write of WAG_CTRL: RUN takes up the role, or leaves the link. -/
def State.afterRun (s : State) (run : Bool) : Host.Outcome State Fault Refusal :=
  let s := if run then s.phaseAnew else s
  if !run then .next (if s.wag.link = .off then s else (s.leaveLink .off).markPorts).judgePhase
  else if (s.wag.link = .off || s.wag.link = .stopped) && s.linkRuns then .next s.takeRole.markPorts
  else .next s

/-- A write of WAG_CTRL is the write and what follows it. The written state is made opaque before the two sides are compared, so that
the comparison never evaluates the register write. -/
theorem exec_wagRun {s : State} (w : Word) (hup : s.hostUp = true) :
    exec (.wagRun w) s = (s.runWritten w).afterRun (tbit w 31) := by
  change execWagRun w s = _
  rw [execWagRun, if_neg (by simp [hup])]
  extract_lets +onlyGivenNames stored written
  change _ = written.afterRun (tbit w 31)
  clear_value written
  rfl

theorem State.afterRun_leaves {s : State} (hlink : s.wag.link ≠ .off) :
    s.afterRun false = .next (s.leaveLink .off).markPorts.judgePhase := by
  simp [State.afterRun, hlink]

theorem State.afterRun_follows {s : State} (hlink : s.wag.link = .stopped) (hruns : s.linkRuns = true) (hrole : s.role = 3) :
    s.afterRun true = .next (s.phaseAnew.leaveLink .follow).markPorts := by
  have hwitness := State.takeRole_witness (s.phaseAnew_role.trans hrole)
  simp [State.afterRun, hlink, hruns, hwitness]

/-! ### The HIVE's start (R410, R412, R415) -/

@[simp] theorem State.matrixStart_time (s : State) : s.matrixStart.time = s.time := rfl

theorem State.matrixStart_wag (s : State) :
    s.matrixStart.wag = { s.wag with clashes := [], grdCuts := 0, probeMc := s.wag.probeMc + 1, probeOut := none } := rfl

@[simp] theorem State.sendFrame_wag (s : State) (f : WagFrame) : (s.sendFrame f).wag = s.wag :=
  State.only_wag (State.sendFrame_mask (qs := [.out]) rfl s f) rfl

@[simp] theorem State.sendFrame_time (s : State) (f : WagFrame) : (s.sendFrame f).time = s.time :=
  State.only_time (State.sendFrame_mask (qs := [.out]) rfl s f) rfl

theorem State.sendReference_wag (s : State) :
    s.sendReference.wag = { s.wag with lastRef := some s.reference, refSrc := s.station, refHops := 0 } := by
  simp [State.sendReference]

@[simp] theorem State.sendReference_tb1 (s : State) : s.sendReference.time.tb1 = s.time.tb1 := by simp [State.sendReference]

@[simp] theorem State.sendReference_tb1Lock (s : State) : s.sendReference.time.tb1Lock = true := by simp [State.sendReference]

@[simp] theorem State.enterMode_time (s : State) (m : Nat) : (s.enterMode m).time = s.time :=
  State.only_time (State.enterMode_mask (qs := [.stp, .wag]) rfl s m) rfl

theorem State.enterMode_wag (s : State) (m : Nat) :
    (s.enterMode m).wag = { s.wag with
      mode := m, winCnt := [], suppressed := [], clashes := [], rxSeq := [], winRx := [], doneNow := []
      stations := tmap {} (fun r => { r with refused := false }) s.wag.stations } := by
  unfold State.enterMode
  extract_lets g entered
  split <;> rfl

/-- TB1 as the start leaves it: of TB0 where the start sets it (R412), as it was where a backoff ends (R415). -/
def State.startTb1 (s : State) (setTb1 : Bool) : State := if setTb1 then s.tb1FromTb0 else s

/-- A HIVE at its C₀, its schedule that of mode m in g: CYCLE 0, the guardian closed. -/
def State.hiveAtStart (s : State) (g : WagState) (m : Nat) : State :=
  let t := s.time
  let h := g.entry m 0
  (s.setTime { t with tb1 := { t.tb1 with rate := t.tb0.rate }, tb1Stepped := true, tb1Offs := 0 }).setWag { g with
    link := .hive, cStart := t.tb1.ns, cycle := 0, mpos := 0, pend := false, nextMode := 0, changeAt := 0
    modeReq := none, bcNs := shBc h, mlen := shMlen h, guardNs := s.guardCfg, depth := 0, grdClosed := true
    grdResync := false, grdCuts := 0, missedRefs := 0, fromStandby := false, standbyWasLocked := false }

/-- The HIVE in mode m, its first reference sent. -/
def State.hiveStarted (s : State) (g : WagState) (m : Nat) : State :=
  ((s.hiveAtStart g m).enterMode m).matrixStart.sendReference

theorem State.hiveStarted_wag (s : State) (g : WagState) (m : Nat) :
    (s.hiveStarted g m).wag.link = .hive ∧ (s.hiveStarted g m).wag.cStart = s.time.tb1.ns ∧ (s.hiveStarted g m).wag.cycle = 0 ∧
      (s.hiveStarted g m).wag.mpos = 0 ∧ (s.hiveStarted g m).wag.mode = m ∧
      (s.hiveStarted g m).wag.bcNs = shBc (g.entry m 0) ∧ (s.hiveStarted g m).wag.grdClosed = true := by
  simp [State.hiveStarted, State.sendReference_wag, State.matrixStart_wag, State.enterMode_wag, State.hiveAtStart]

theorem State.hiveStarted_time (s : State) (g : WagState) (m : Nat) :
    (s.hiveStarted g m).time.tb1.ns = s.time.tb1.ns ∧ (s.hiveStarted g m).time.tb1Lock = true := by
  simp [State.hiveStarted, State.hiveAtStart]

section
variable {s : State} (b : Bool) (hmode : s.wag.hasMode (s.rfld 0xA000 30 28) = true)
  (hfault : s.wag.modeFault (s.rfld 0xA000 30 28) s.guardCfg = none) (hstation : s.station < 4095) (hseg : s.segEn = true)
include hmode hfault hstation hseg

/-- The link starts where its mode, station number and segment let it; where a standby starts it, an event says so. -/
theorem State.startLink_starts : ∃ rank : BitVec 64, s.startLink b =
    if s.wag.fromStandby then ((s.startTb1 b).hiveStarted s.wag (s.rfld 0xA000 30 28)).raise 0x68 rank
    else (s.startTb1 b).hiveStarted s.wag (s.rfld 0xA000 30 28) := by
  refine ⟨BitVec.ofNat 64 (1 + (match s.wag.lastRef with | some r => r.rank.toNat | none => 0) * 256), ?_⟩
  unfold State.startLink
  extract_lets +onlyGivenNames m g refuse
  rw [if_neg (by simp [g, m, hmode])]
  split
  · next w hbad => cases hbad.symm.trans hfault
  · rw [if_neg (by simp [hstation, hseg])]
    extract_lets +onlyGivenNames u
    change _ = ite _ (State.raise (u.hiveStarted g m) _ _) (u.hiveStarted g m)
    clear_value u
    rfl

end

theorem State.startLink_refuses {s : State} (b : Bool) (hmode : s.wag.hasMode (s.rfld 0xA000 30 28) = false) :
    s.startLink b = State.raise { s with wag := { s.wag with link := .stopped, fromStandby := false } } 0x60
      (BitVec.ofNat 64 (s.rfld 0xA000 30 28)) := by
  unfold State.startLink
  simp [hmode, State.setWag]

section
variable {s : State} (b : Bool) (hmode : s.wag.hasMode (s.rfld 0xA000 30 28) = true)
  (hfault : s.wag.modeFault (s.rfld 0xA000 30 28) s.guardCfg = none) (hstation : s.station < 4095) (hseg : s.segEn = true)
include hmode hfault hstation hseg

theorem State.startLink_wag : (s.startLink b).wag = ((s.startTb1 b).hiveStarted s.wag (s.rfld 0xA000 30 28)).wag := by
  obtain ⟨rank, hstart⟩ := State.startLink_starts b hmode hfault hstation hseg
  rw [hstart]
  split <;> rfl

theorem State.startLink_time : (s.startLink b).time = ((s.startTb1 b).hiveStarted s.wag (s.rfld 0xA000 30 28)).time := by
  obtain ⟨rank, hstart⟩ := State.startLink_starts b hmode hfault hstation hseg
  rw [hstart]
  split <;> rfl

end

theorem exec_hiveListenEnd {s : State} (hlink : s.wag.link = .listen) (hruns : s.linkRuns = true) :
    exec .hiveListenEnd s = .next (s.startLink true).judgePhase := by
  change execHiveListenEnd s = _
  simp [execHiveListenEnd, hlink, hruns]

theorem exec_hiveListenEnd_elsewhere {s : State} (hlink : s.wag.link ≠ .listen) : exec .hiveListenEnd s = .next s := by
  change execHiveListenEnd s = _
  simp [execHiveListenEnd, hlink]

theorem exec_hiveBackoffEnd {s : State} (hlink : s.wag.link = .backoff) (hruns : s.linkRuns = true) :
    exec .hiveBackoffEnd s = .next (s.startLink false).judgePhase := by
  change execHiveBackoffEnd s = _
  simp [execHiveBackoffEnd, hlink, hruns]

/-! ### The loss of references (R54, R56, R389, R416) -/

/-- No reference for two basic cycles: the guardian closed, TB1_LOCK clear. -/
def State.refsLost (s : State) : State :=
  ((s.setTime { s.time with goodRun := 0, badRun := 0 }).setWag { s.wag with
    grdClosed := true, refOk := false, refThisCycle := false, missedRefs := 2 }).setLock 1 false

theorem State.refsLost_wag (s : State) :
    s.refsLost.wag = { s.wag with grdClosed := true, refOk := false, refThisCycle := false, missedRefs := 2 } := by
  simp [State.refsLost]

theorem State.refsLost_tb1Lock (s : State) : s.refsLost.time.tb1Lock = false := by simp [State.refsLost]

theorem exec_referenceTimeout_follow {s : State} (hlink : s.wag.link = .follow) : exec .referenceTimeout s = .next s.refsLost := by
  change execReferenceTimeout s = _
  simp [execReferenceTimeout, hlink, State.refsLost]

theorem exec_referenceTimeout_standby {s : State} (hlink : s.wag.link = .standby) (hlocked : s.wag.standbyWasLocked = true) :
    exec .referenceTimeout s =
      .next (s.refsLost.setWag { s.refsLost.wag with link := .listen, fromStandby := true, standbyWasLocked := false }) := by
  change execReferenceTimeout s = _
  simp [execReferenceTimeout, hlink, hlocked, State.refsLost]

/-! ### Basic cycles (R402, R430, R434) -/

/-- What a basic cycle's start takes over from the last one. -/
def State.cycleOpened (s : State) : State :=
  s.setWag { s.wag with
    refOk := s.wag.refThisCycle, refThisCycle := false, missedRefs := if s.wag.refThisCycle then 0 else min 2 (s.wag.missedRefs + 1)
    wdrnLeft := s.wag.wdrnLeft - 1, winRx := []
    otherHead := match s.wag.otherHead with
      | some (k, n + 1) => if n = 0 then none else some (k, n)
      | _ => none }

theorem exec_basicCycleStart {s : State} (hlink : s.wag.link = .follow ∨ s.wag.link = .hive) (hviewed : s.wag.viewed = []) :
    exec .basicCycleStart s = .next (if s.isHive then s.cycleOpened.nextCycle else s.cycleOpened.followCycle) := by
  have hin : (s.wag.link = .off || s.wag.link = .stopped || s.wag.link = .listen || s.wag.link = .backoff) = false := by
    rcases hlink with h | h <;> simp [h]
  have hopened : s.cycleOpened.wag.viewed = [] := hviewed
  change execBasicCycleStart s = _
  rw [execBasicCycleStart, if_neg (by simp [hin])]
  extract_lets +onlyGivenNames g opened compared
  have hcompared : compared = s.cycleOpened := congrArg (fun l => l.foldl (fun s k => State.compareViews s k) opened) hopened
  clear_value compared
  rw [hcompared]
  rfl

theorem State.followCycle_keeps_refs (s : State) :
    s.followCycle.wag.refOk = s.wag.refOk ∧ s.followCycle.wag.refThisCycle = s.wag.refThisCycle ∧
      s.followCycle.wag.missedRefs = s.wag.missedRefs := by
  unfold State.followCycle
  extract_lets g
  split <;> exact ⟨rfl, rfl, rfl⟩

theorem State.followCycle_cycle (s : State) :
    s.followCycle.wag.cycle = if s.wag.lastRef.isNone then s.wag.cycle else s.wag.cycle + 1 := by
  unfold State.followCycle
  extract_lets g
  split <;> rfl

theorem State.announceMode_of_none {s : State} (hreq : s.wag.modeReq = none) : s.announceMode = s := by
  simp [State.announceMode, hreq]

/-- The HIVE's place in the schedule one basic cycle on. -/
def State.cycleMoved (s : State) : State :=
  s.setWag { s.wag with
    cStart := tadd s.wag.cStart (Int.ofNat s.wag.bcNs), cycle := s.wag.cycle + 1, mpos := (s.wag.mpos + 1) % max 1 s.wag.mlen }

/-- With no mode change in hand the HIVE moves on, begins a matrix cycle where it stands at its start, and sends its reference. -/
theorem State.nextCycle_quiet {s : State} (hpend : s.wag.pend = false) (hreq : s.wag.modeReq = none) : ∃ u : State,
    (u = s.cycleMoved ∨ u = s.cycleMoved.matrixStart) ∧ s.nextCycle = if u.canSend then u.sendReference else u.setLock 1 false := by
  have hplain : s.cycleMoved.announceMode = s.cycleMoved := State.announceMode_of_none hreq
  have hmatrix : s.cycleMoved.matrixStart.announceMode = s.cycleMoved.matrixStart := State.announceMode_of_none hreq
  unfold State.cycleMoved at *
  by_cases hstart : (s.wag.mpos + 1) % max 1 s.wag.mlen = 0
  · exact ⟨_, .inr rfl, by simp_all [State.nextCycle]⟩
  · exact ⟨_, .inl rfl, by simp_all [State.nextCycle]⟩

theorem State.nextCycle_place {s : State} (hpend : s.wag.pend = false) (hreq : s.wag.modeReq = none) :
    s.nextCycle.wag.cycle = s.wag.cycle + 1 ∧ s.nextCycle.wag.cStart = tadd s.wag.cStart (Int.ofNat s.wag.bcNs) ∧
      s.nextCycle.wag.mpos = (s.wag.mpos + 1) % max 1 s.wag.mlen := by
  obtain ⟨u, hu, hnext⟩ := State.nextCycle_quiet hpend hreq
  have hplace : u.wag.cycle = s.wag.cycle + 1 ∧ u.wag.cStart = tadd s.wag.cStart (Int.ofNat s.wag.bcNs) ∧
      u.wag.mpos = (s.wag.mpos + 1) % max 1 s.wag.mlen := by
    rcases hu with rfl | rfl <;> exact ⟨rfl, rfl, rfl⟩
  rw [hnext]
  split
  · rwa [State.sendReference_wag]
  · rwa [State.setLock_wag]

/-! ### The head's copy (R382 to R384) -/

theorem exec_headReferenceCopy {s : State} {r : RefPayload} {k : Nat} (hlast : s.wag.lastRef = some r)
    (hport : s.wag.activePort = some k)
    (hsends : (s.hears && s.roleActs && decide (s.station < 4095) && s.wag.refThisCycle && !s.wag.withdrawn && !s.wag.headWdrn &&
      !s.wag.grdClosed && !s.wag.grdResync && !s.pw.ejectGone && decide (s.wag.link = .follow) && decide (s.wag.refHops < 63)) =
        true) (honly : s.fwdPorts = [k]) :
    exec .headReferenceCopy s = .next (s.emitOut (.waggle (s.refFrame
      { r with tRef := tadd r.tRef 1200, depth := r.depth + 1 } s.wag.refHops) false)) := by
  change execHeadReferenceCopy s = _
  unfold execHeadReferenceCopy
  simp [hlast, hport, hsends, honly, State.toTrunks]

/-! ### Mode changes (R429, R432) -/

theorem exec_modeChangeDecision {s : State} (hlink : s.wag.link = .hive) (hpend : s.wag.pend = true) :
    exec .modeChangeDecision s = .next s.decideMode := by
  change execModeChangeDecision s = _
  simp [execModeChangeDecision, State.isHive, hlink, hpend]

theorem missing_isEmpty (listed acked : List Nat) :
    (listed.filter (fun k => !acked.contains k)).isEmpty = listed.all (fun k => acked.contains k) := by
  rw [Bool.eq_iff_iff]
  simp

section
variable {s : State} {q : ModeReq} (hreq : s.wag.modeReq = some q) (hannounced : q.announced = true) (hdecided : q.decided = false)
include hreq hannounced hdecided

theorem State.decideMode_holds (hall : q.listed.all (fun k => q.acked.contains k) = true) :
    s.decideMode = { s with wag := { s.wag with modeReq := some { q with decided := true } } } := by
  rw [← missing_isEmpty] at hall
  unfold State.decideMode
  simp only [hreq, hannounced, hdecided, hall]
  rfl

theorem State.decideMode_abandons (hsome : q.listed.all (fun k => q.acked.contains k) = false) :
    s.decideMode = s.abandonMode q (q.listed.filter (fun k => !q.acked.contains k)) := by
  rw [← missing_isEmpty] at hsome
  unfold State.decideMode
  simp only [hreq, hannounced, hdecided, hsome]
  rfl

end

theorem State.abandonMode_wag (s : State) (q : ModeReq) (missing : List Nat) : (s.abandonMode q missing).wag =
    { s.wag with modeReq := none, pend := false, nextMode := 0, changeAt := 0, abandonCnt := satInc 0xFFFF s.wag.abandonCnt } := rfl

section
variable {s : State} {p : Pair} {e : Entry} (htake : s.takeParam p 1 10 1 = some e) (hacts : s.roleActs = true)
  (hmirrors : s.mirrors = false) (hvalue : e.value < 8)
include htake hacts hmirrors hvalue

theorem exec_modeChange_elsewhere (hhive : s.isHive = false) :
    exec (.modeChange p) s = .next (s.finish p.val e.sub 0x62 (BitVec.ofNat 64 e.value)) := by
  change s.asChange p (s.takeParam p 1 10 1) (doModeChange p) = _
  rw [State.asChange_of_acts htake hacts hmirrors]
  simp [doModeChange, htake, Nat.not_le.mpr hvalue, hhive]

theorem exec_modeChange_waits (hhive : s.isHive = true) (hreq : s.wag.modeReq = none) (hother : e.value ≠ s.wag.mode)
    (hmode : s.wag.hasMode e.value = true) (hfault : s.wag.modeFault e.value s.wag.guardNs = none) :
    exec (.modeChange p) s =
      .next ((s.setWag { s.wag with modeReq := some { mode := e.value, pair := p, sub := e.sub } }).accept p.val e.sub) := by
  change s.asChange p (s.takeParam p 1 10 1) (doModeChange p) = _
  rw [State.asChange_of_acts htake hacts hmirrors]
  simp [doModeChange, htake, Nat.not_le.mpr hvalue, hhive, hacts, hreq, hother, hmode, hfault]

end

/-- Settles O21: the equations above say what each command leaves; what the shared operations keep of the link state gives its fields. -/
theorem waggleRoles : Obligations.WaggleRoles := by
  unfold Obligations.WaggleRoles
  refine ⟨?runOff, ?runWitness, ?noSchedule, ?start, ?notListening, ?backoff, ?lost, ?standbyLost, ?followCycle, ?hiveCycle, ?headCopy,
    ?held, ?abandoned, ?notHive, ?waits⟩
  case runOff =>
    intro s w hup hrun hlink
    have hlink' : (s.runWritten w).wag.link ≠ .off := by rwa [State.runWritten_wag]
    have hnext := exec_wagRun w hup
    rw [hrun, State.afterRun_leaves hlink'] at hnext
    exact completes_of_exec hnext (by simp) rfl
  case runWitness =>
    intro s w hup hrun hlink hruns hrole
    have hlink' : (s.runWritten w).wag.link = .stopped := by rw [State.runWritten_wag, hlink]
    have hruns' : (s.runWritten w).linkRuns = true := by rw [State.runWritten_linkRuns, hruns]
    have hnext := exec_wagRun w hup
    rw [hrun, State.afterRun_follows hlink' hruns' (by rw [State.runWritten_role, hrole])] at hnext
    have hset : tbit ((s.runWritten w).reg 0xA000) 31 = true := by
      rw [State.runWritten, State.reg_setReg, hrun, tbit_putBit_31]
    exact completes_of_exec hnext ⟨by simp, by simp, by simpa [State.reg] using hset⟩ rfl
  case noSchedule =>
    intro s hlink hruns hmode
    rw [exec_hiveListenEnd hlink hruns, State.startLink_refuses true hmode]
  case start =>
    intro s hlink hruns hmode hfault hstation hseg
    have hwag := State.startLink_wag true hmode hfault hstation hseg
    have htime := State.startLink_time true hmode hfault hstation hseg
    obtain ⟨hhive, hstart, hcycle, hmpos, hmode', hbc, hclosed⟩ :=
      (s.startTb1 true).hiveStarted_wag s.wag (s.rfld 0xA000 30 28)
    obtain ⟨hns, hlock⟩ := (s.startTb1 true).hiveStarted_time s.wag (s.rfld 0xA000 30 28)
    refine completes_of_exec (exec_hiveListenEnd hlink hruns) ?_ rfl
    rw [State.judgePhase_wag, State.judgePhase_time, hwag, htime]
    exact ⟨hhive, hstart.trans hns.symm, hcycle, hmpos, hmode', hbc, hlock, hclosed⟩
  case notListening => exact fun s hlink => exec_hiveListenEnd_elsewhere hlink
  case backoff =>
    intro s hlink hruns hmode hfault hstation hseg
    have hwag := State.startLink_wag false hmode hfault hstation hseg
    have htime := State.startLink_time false hmode hfault hstation hseg
    obtain ⟨hhive, hstart, hcycle, -⟩ := s.hiveStarted_wag s.wag (s.rfld 0xA000 30 28)
    obtain ⟨hns, hlock⟩ := s.hiveStarted_time s.wag (s.rfld 0xA000 30 28)
    refine completes_of_exec (exec_hiveBackoffEnd hlink hruns) ?_ rfl
    rw [State.judgePhase_wag, State.judgePhase_time, hwag, htime]
    exact ⟨hhive, hstart, hcycle, hns, hlock⟩
  case lost =>
    exact fun s hlink => completes_of_exec (exec_referenceTimeout_follow hlink) ⟨s.refsLost_tb1Lock, s.refsLost_wag⟩ rfl
  case standbyLost =>
    exact fun s hlink hlocked =>
      completes_of_exec (exec_referenceTimeout_standby hlink hlocked) ⟨rfl, rfl, s.refsLost_tb1Lock⟩ rfl
  case followCycle =>
    intro s hlink hviewed
    have hnext := exec_basicCycleStart (.inl hlink) hviewed
    rw [if_neg (by simp [State.isHive, hlink])] at hnext
    obtain ⟨hok, hthis, hmissed⟩ := s.cycleOpened.followCycle_keeps_refs
    exact completes_of_exec hnext ⟨hok, hthis, hmissed, s.cycleOpened.followCycle_cycle⟩ rfl
  case hiveCycle =>
    intro s hlink hviewed hpend hreq
    have hnext := exec_basicCycleStart (.inr hlink) hviewed
    rw [if_pos (by simp [State.isHive, hlink])] at hnext
    exact completes_of_exec hnext (State.nextCycle_place (s := s.cycleOpened) hpend hreq) rfl
  case headCopy =>
    intro s r k hlast hport hlink hhears hacts hstation hthis hwdrn hheadWdrn hclosed hresync hhops hgone honly
    refine exec_headReferenceCopy hlast hport ?_ honly
    simp [hlink, hhears, hacts, hstation, hthis, hwdrn, hheadWdrn, hclosed, hresync, hhops, hgone]
  case held =>
    exact fun s q hlink hpend hreq hannounced hdecided hall =>
      completes_of_exec (exec_modeChangeDecision hlink hpend) (State.decideMode_holds hreq hannounced hdecided hall) rfl
  case abandoned =>
    intro s q hlink hpend hreq hannounced hdecided hsome
    have hnext := exec_modeChangeDecision hlink hpend
    rw [State.decideMode_abandons hreq hannounced hdecided hsome] at hnext
    exact completes_of_exec hnext (s.abandonMode_wag q _) rfl
  case notHive =>
    exact fun s p e htake hacts hmirrors hvalue hhive => exec_modeChange_elsewhere htake hacts hmirrors hvalue hhive
  case waits =>
    exact fun s p e htake hacts hmirrors hvalue hhive hreq hother hmode hfault =>
      completes_of_exec (exec_modeChange_waits htake hacts hmirrors hvalue hhive hreq hother hmode hfault) rfl rfl

end Sys2Proof.Machine
end

section
/-! PROOFS. What the operations on the pairs leave of a pair (R92, R100 to R104, R106, R111, R112, R115, R116): writing, holding and
draining completion entries changes what is beside the reads of a pair, asking for reads and ending them changes what is beside its
entries, and neither changes its state, its doorbells, its error code and its event mask. -/

namespace Sys2Proof.Machine

/-! ### One pair changed -/

@[simp] theorem modPair_pair_same (p : Nat) (f : PairRt → PairRt) (x : Hx) : (modPair p f x).hif.pair p = f (x.hif.pair p) :=
  tget_tput_same _ _ _ _

theorem modPair_pair_other {p q : Nat} (f : PairRt → PairRt) (x : Hx) (hother : q ≠ p) :
    (modPair p f x).hif.pair q = x.hif.pair q := tget_tput_other _ _ _ _ _ hother

/-- A view that the change keeps is kept of every pair. -/
theorem modPair_keeps {β : Type} (view : PairRt → β) {f : PairRt → PairRt} (h : ∀ r, view (f r) = view r) (p q : Nat) (x : Hx) :
    view ((modPair p f x).hif.pair q) = view (x.hif.pair q) := by
  by_cases hq : q = p
  · rw [hq, modPair_pair_same, h]
  · rw [modPair_pair_other f x hq]

theorem forN_keeps {σ β : Type} (view : σ → β) {f : Nat → σ → σ} (h : ∀ i x, view (f i x) = view x) (n : Nat) (x : σ) :
    view (forN n f x) = view x := foldl_keeps view (fun x i => h i x) _ x

/-- What every round keeps holds at the end. -/
theorem forN_invariant {σ : Type} {P : σ → Prop} {f : Nat → σ → σ} (hstep : ∀ i x, P x → P (f i x)) (n : Nat) {x : σ} (hx : P x) :
    P (forN n f x) := List.foldlRecOn _ _ hx fun x hx i _ => hstep i x hx

/-- What one element of the list brings about, and every other keeps, holds at the end. -/
theorem foldl_of_mem {σ α : Type} {P : σ → Prop} {f : σ → α → σ} (hkeep : ∀ s b, P s → P (f s b)) {a : α}
    (hbring : ∀ s, P (f s a)) {l : List α} (ha : a ∈ l) (s : σ) : P (l.foldl f s) := by
  obtain ⟨before, after, rfl⟩ := List.append_of_mem ha
  rw [List.foldl_append, List.foldl_cons]
  exact List.foldlRecOn _ _ (hbring _) fun s hs b _ => hkeep s b hs

/-! ### The host interface of the State -/

/-- What a host-interface operation changes of the State. -/
def State.hx (s : State) : Hx := { hif := s.hif, out := s.out }

theorem State.viaHif_hx (s : State) (f : HxCtx → Hx → Hx) : (s.viaHif f).hx = f s.hxCtx s.hx := rfl

theorem State.viaHif_pairRt (s : State) (f : HxCtx → Hx → Hx) (q : Nat) :
    (s.viaHif f).pairRt q = (f s.hxCtx s.hx).hif.pair q := rfl

theorem State.viaHif_congr {s : State} {f g : HxCtx → Hx → Hx} (h : f s.hxCtx s.hx = g s.hxCtx s.hx) :
    s.viaHif f = s.viaHif g := congrArg (fun x : Hx => { s with hif := x.hif, out := x.out }) h

/-! ### Two halves of a pair -/

/-- A pair without its entries: those of its descriptors, those written, held and discarded, the events lost on it. -/
def PairRt.besideEntries (r : PairRt) : PairRt :=
  { r with written := 0, entries := [], held := [], discarded := 0, discardedSub := 0, evtLost := 0 }

/-- A pair without its reads: those asked for, waiting and outstanding. -/
def PairRt.besideReads (r : PairRt) : PairRt :=
  { r with issued := 0, inFlight := 0, resFlight := 0, fetchOut := [], fetchWait := [] }

/-- A pair without either: its state, its doorbells, its counts of fetched and ignored, its error code, its event mask. -/
def PairRt.settings (r : PairRt) : PairRt := r.besideEntries.besideReads

theorem PairRt.settings_of_besideEntries {a b : PairRt} (h : a.besideEntries = b.besideEntries) : a.settings = b.settings :=
  congrArg PairRt.besideReads h

theorem PairRt.settings_of_besideReads {a b : PairRt} (h : a.besideReads = b.besideReads) : a.settings = b.settings :=
  congrArg PairRt.besideEntries h

section
variable {a b : PairRt} (h : a.settings = b.settings)
include h

theorem PairRt.st_of_settings : a.st = b.st := (congrArg PairRt.st h :)
theorem PairRt.subDb_of_settings : a.subDb = b.subDb := (congrArg PairRt.subDb h :)
theorem PairRt.fetched_of_settings : a.fetched = b.fetched := (congrArg PairRt.fetched h :)
theorem PairRt.cplDb_of_settings : a.cplDb = b.cplDb := (congrArg PairRt.cplDb h :)
theorem PairRt.errCode_of_settings : a.errCode = b.errCode := (congrArg PairRt.errCode h :)
theorem PairRt.evtMask_of_settings : a.evtMask = b.evtMask := (congrArg PairRt.evtMask h :)

end

/-- Pair q without its entries, with the number of requests outstanding: what no completion entry and no event touches. -/
def Hx.besideEntries (q : Nat) (x : Hx) : PairRt × Nat := ((x.hif.pair q).besideEntries, x.hif.outstanding)

theorem Hx.settings_of_besideEntries {q : Nat} {x y : Hx} (h : x.besideEntries q = y.besideEntries q) :
    (x.hif.pair q).settings = (y.hif.pair q).settings := PairRt.settings_of_besideEntries (congrArg Prod.fst h)

theorem Hx.inFlight_of_besideEntries {q : Nat} {x y : Hx} (h : x.besideEntries q = y.besideEntries q) :
    (x.hif.pair q).inFlight = (y.hif.pair q).inFlight := (congrArg (fun v => v.1.inFlight) h :)

theorem Hx.outstanding_of_besideEntries {q : Nat} {x y : Hx} (h : x.besideEntries q = y.besideEntries q) :
    x.hif.outstanding = y.hif.outstanding := congrArg Prod.snd h

theorem modPair_besideEntries {p : Nat} {f : PairRt → PairRt} (h : ∀ r, (f r).besideEntries = r.besideEntries) (q : Nat) (x : Hx) :
    (modPair p f x).besideEntries q = x.besideEntries q := by
  unfold Hx.besideEntries
  rw [modPair_keeps _ h]
  rfl

/-! ### Vectors and completion entries (R100 to R104, R109, R110) -/

@[simp] theorem fireVec_besideEntries (q v : Nat) (x : Hx) : (fireVec v x).besideEntries q = x.besideEntries q := by
  unfold fireVec
  extract_lets r
  split <;> rfl

@[simp] theorem signalVec_besideEntries (q : Nat) (c : HxCtx) (v : Nat) (x : Hx) :
    (signalVec c v x).besideEntries q = x.besideEntries q := by
  unfold signalVec
  extract_lets m r n
  split
  · exact fireVec_besideEntries q v x
  · rfl

@[simp] theorem fireVec_pair (v : Nat) (x : Hx) (q : Nat) : (fireVec v x).hif.pair q = x.hif.pair q := by
  unfold fireVec
  extract_lets r
  split <;> rfl

@[simp] theorem signalVec_pair (c : HxCtx) (v : Nat) (x : Hx) (q : Nat) : (signalVec c v x).hif.pair q = x.hif.pair q := by
  unfold signalVec
  extract_lets m r n
  split
  · exact fireVec_pair v x q
  · rfl

/-- An entry written counts on its pair, and changes nothing else of it. -/
@[simp] theorem writeEntry_pair_same (c : HxCtx) (p : Nat) (e : Cpl) (x : Hx) :
    (writeEntry c p e x).hif.pair p = { x.hif.pair p with written := (x.hif.pair p).written + 1 } := by
  unfold writeEntry
  rw [signalVec_pair, modPair_pair_same]

@[simp] theorem writeEntry_besideEntries (q : Nat) (c : HxCtx) (p : Nat) (e : Cpl) (x : Hx) :
    (writeEntry c p e x).besideEntries q = x.besideEntries q := by
  unfold writeEntry
  rw [signalVec_besideEntries, modPair_besideEntries fun _ => by rfl]
  rfl

@[simp] theorem emitEntry_besideEntries (q : Nat) (c : HxCtx) (p : Nat) (e : Cpl) (x : Hx) :
    (emitEntry c p e x).besideEntries q = x.besideEntries q := by
  unfold emitEntry
  extract_lets r discarded
  split
  · exact writeEntry_besideEntries q c p e x
  · split
    · exact modPair_besideEntries (fun _ => by rfl) q x
    · have hcounted : discarded.besideEntries q = x.besideEntries q := modPair_besideEntries (fun _ => by rfl) q x
      exact hcounted

/-- The completion ring of a DISABLED pair takes no entry: none is written, and what falls due is held or discarded. -/
theorem emitEntry_written_of_disabled (c : HxCtx) (p : Nat) (e : Cpl) {x : Hx} (hst : (x.hif.pair p).st = .disabled) :
    ((emitEntry c p e x).hif.pair p).written = (x.hif.pair p).written := by
  unfold emitEntry
  extract_lets r discarded
  have hroom : hasRoom c p 1 x.hif = false := by simp [hasRoom, hst]
  rw [hroom, Bool.and_false, if_neg Bool.false_ne_true]
  split
  · exact modPair_keeps PairRt.written (fun _ => by rfl) p p x
  · have hcounted : (discarded.hif.pair p).written = (x.hif.pair p).written :=
      modPair_keeps PairRt.written (fun _ => by rfl) p p x
    exact hcounted

/-- One round of `drainPair`: the entry at the front goes out where its descriptor is done. -/
def drainOne (c : HxCtx) (p : Nat) (x : Hx) : Hx :=
  match (x.hif.pair p).entries with
  | e :: r =>
    match e.stage, e.cpl with
    | .done, some k => emitEntry c p k (modPair p (fun q => { q with entries := r }) x)
    | _, _ => x
  | [] => x

theorem drainPair_eq (c : HxCtx) (p : Nat) (x : Hx) :
    drainPair c p x = forN (x.hif.pair p).entries.length (fun _ => drainOne c p) x := rfl

theorem drainOne_besideEntries (q : Nat) (c : HxCtx) (p : Nat) (x : Hx) :
    (drainOne c p x).besideEntries q = x.besideEntries q := by
  unfold drainOne
  split
  · split
    · rw [emitEntry_besideEntries, modPair_besideEntries fun _ => by rfl]
    · rfl
  · rfl

@[simp] theorem drainPair_besideEntries (q : Nat) (c : HxCtx) (p : Nat) (x : Hx) :
    (drainPair c p x).besideEntries q = x.besideEntries q :=
  forN_keeps (Hx.besideEntries q) (fun _ => drainOne_besideEntries q c p) _ x

/-- A DISABLED pair that drains writes no entry. -/
theorem drainPair_written_of_disabled (c : HxCtx) {p : Nat} {x : Hx} (hst : (x.hif.pair p).st = .disabled) :
    ((drainPair c p x).hif.pair p).written = (x.hif.pair p).written := by
  have hround (y : Hx) (hy : (y.hif.pair p).st = .disabled ∧ (y.hif.pair p).written = (x.hif.pair p).written) :
      ((drainOne c p y).hif.pair p).st = .disabled ∧
        ((drainOne c p y).hif.pair p).written = (x.hif.pair p).written := by
    obtain ⟨hoff, hcount⟩ := hy
    refine ⟨(PairRt.st_of_settings (Hx.settings_of_besideEntries (drainOne_besideEntries p c p y))).trans hoff, Eq.trans ?_ hcount⟩
    unfold drainOne
    split
    · split
      · rw [emitEntry_written_of_disabled, modPair_pair_same]
        rw [modPair_pair_same]
        exact hoff
      · rfl
    · rfl
  exact (forN_invariant (fun _ => hround) _ ⟨hst, rfl⟩).2

@[simp] theorem finishX_besideEntries (q p : Nat) (sub : Word) (code : Byte) (result hi : BitVec 64) (c : HxCtx) (x : Hx) :
    (finishX p sub code result hi c x).besideEntries q = x.besideEntries q := by
  unfold finishX
  rw [drainPair_besideEntries, modPair_besideEntries fun _ => by rfl]

/-! ### Events (R106, R107) -/

@[simp] theorem takeEvent_besideEntries (q : Nat) (c : HxCtx) (e : Cpl) (x : Hx) (p : Nat) :
    (takeEvent c e x p).besideEntries q = x.besideEntries q := by
  unfold takeEvent
  extract_lets r need noted lost
  split
  · rw [writeEntry_besideEntries]
    unfold noted
    split
    · rw [writeEntry_besideEntries, modPair_besideEntries fun _ => by rfl]
    · rfl
  · have hcounted : lost.besideEntries q = x.besideEntries q := modPair_besideEntries (fun _ => by rfl) q x
    exact hcounted

@[simp] theorem raiseX_besideEntries (q : Nat) (code : Byte) (result : BitVec 64) (c : HxCtx) (x : Hx) :
    (raiseX code result c x).besideEntries q = x.besideEntries q := by
  unfold raiseX
  extract_lets seq hif numbered e
  split
  · rfl
  · exact foldl_keeps (Hx.besideEntries q) (takeEvent_besideEntries q c e) _ numbered

/-! ### Ring errors (R115, R116) -/

@[simp] theorem freeAllReads_besideReads (q p : Nat) (x : Hx) :
    ((freeAllReads p x).hif.pair q).besideReads = (x.hif.pair q).besideReads :=
  modPair_keeps PairRt.besideReads (f := fun r => { r with inFlight := 0, resFlight := 0, fetchOut := [], fetchWait := [] })
    (fun _ => rfl) p q x

/-- A RUNNING pair that enters ERROR keeps of its settings all but its state and its error code, which take the cause. -/
theorem pairErrorX_settings {p : Nat} (cause : Byte) (c : HxCtx) {x : Hx} (hst : (x.hif.pair p).st = .running) :
    ((pairErrorX p cause c x).hif.pair p).settings =
      PairRt.settings { x.hif.pair p with st := .error, errCode := cause } := by
  unfold pairErrorX
  rw [if_pos hst]
  extract_lets freed n k own waits stopped drained
  have hstopped : (stopped.hif.pair p).settings = PairRt.settings { x.hif.pair p with st := .error, errCode := cause } := by
    unfold stopped
    rw [modPair_pair_same]
    exact (congrArg (fun r : PairRt => PairRt.settings { r with st := .error, errCode := cause })
      (freeAllReads_besideReads p p x) :)
  rw [Hx.settings_of_besideEntries (raiseX_besideEntries p _ _ _ _), ← hstopped]
  have hdrained : (drained.hif.pair p).settings = (stopped.hif.pair p).settings :=
    Hx.settings_of_besideEntries (drainPair_besideEntries p c p stopped)
  split
  · exact hdrained
  · exact (Hx.settings_of_besideEntries (emitEntry_besideEntries p c p k drained)).trans hdrained

theorem pairErrorX_st {p : Nat} (cause : Byte) (c : HxCtx) {x : Hx} (hst : (x.hif.pair p).st = .running) :
    ((pairErrorX p cause c x).hif.pair p).st = .error :=
  PairRt.st_of_settings (pairErrorX_settings cause c hst)

theorem pairErrorX_errCode {p : Nat} (cause : Byte) (c : HxCtx) {x : Hx} (hst : (x.hif.pair p).st = .running) :
    ((pairErrorX p cause c x).hif.pair p).errCode = cause :=
  PairRt.errCode_of_settings (pairErrorX_settings cause c hst)

/-! ### Resets of a pair (R83, R117) -/

/-- A pair that has been reset is DISABLED, its doorbells and its count of fetched descriptors zero. -/
theorem resetPairX_settings (p : Nat) (c : HxCtx) (x : Hx) :
    ((resetPairX p c x).hif.pair p).settings = PairRt.settings { x.hif.pair p with
      st := .disabled, base := (x.hif.pair p).base + (x.hif.pair p).fetched, subDb := 0, fetched := 0, cplDb := 0, evtMask := 0 } := by
  have hfreed := freeAllReads_besideReads p p x
  unfold resetPairX
  extract_lets freed
  rw [Hx.settings_of_besideEntries (drainPair_besideEntries p c p _), modPair_pair_same]
  exact (congrArg (fun r : PairRt => PairRt.settings { r with
    st := .disabled, base := r.base + r.fetched, subDb := 0, fetched := 0, cplDb := 0, evtMask := 0 }) hfreed :)

theorem resetPairX_settings_other {p q : Nat} (hother : q ≠ p) (c : HxCtx) (x : Hx) :
    ((resetPairX p c x).hif.pair q).settings = (x.hif.pair q).settings := by
  unfold resetPairX
  extract_lets freed
  rw [Hx.settings_of_besideEntries (drainPair_besideEntries q c p _), modPair_pair_other _ _ hother]
  exact PairRt.settings_of_besideReads (freeAllReads_besideReads q p x)

theorem resetPairX_st (p : Nat) (c : HxCtx) (x : Hx) : ((resetPairX p c x).hif.pair p).st = .disabled :=
  PairRt.st_of_settings (resetPairX_settings p c x)

/-- The entries that stay are held, so that the count of entries written stays at zero. -/
theorem resetPairX_written (p : Nat) (c : HxCtx) (x : Hx) : ((resetPairX p c x).hif.pair p).written = 0 := by
  unfold resetPairX
  extract_lets freed
  rw [drainPair_written_of_disabled, modPair_pair_same]
  rw [modPair_pair_same]

theorem State.resetPair_st_same (s : State) (p : Nat) : ((s.resetPair p).pairRt p).st = .disabled :=
  resetPairX_st p _ _

/-- A reset of any pair leaves a DISABLED pair DISABLED. -/
theorem State.resetPair_keeps_disabled {s : State} {q : Nat} (p : Nat) (hst : (s.pairRt q).st = .disabled) :
    ((s.resetPair p).pairRt q).st = .disabled := by
  by_cases hq : q = p
  · exact hq ▸ State.resetPair_st_same s q
  · exact (PairRt.st_of_settings (resetPairX_settings_other hq _ _)).trans hst

theorem State.resetPairs_st (s : State) (p : Fin 64) : (s.resetPairs.pairRt p.val).st = .disabled :=
  foldl_of_mem (P := fun s : State => (s.pairRt p.val).st = .disabled) (fun _ q hs => State.resetPair_keeps_disabled q hs)
    (fun s => State.resetPair_st_same s p.val) (List.mem_range.mpr p.isLt) s

/-! ### Reads of host memory (R92, R111, R112, R114) -/

@[simp] theorem grantRequest_besideReads (q p : Nat) (reserved : Bool) (x : Hx) :
    ((grantRequest p reserved x).hif.pair q).besideReads = (x.hif.pair q).besideReads := by
  unfold grantRequest
  extract_lets granted n
  have hpair : (granted.hif.pair q).besideReads = (x.hif.pair q).besideReads :=
    modPair_keeps PairRt.besideReads (fun _ => by rfl) p q x
  exact hpair

@[simp] theorem askRead_besideReads (q : Nat) (c : HxCtx) (p : Nat) (x : Hx) :
    ((askRead c p x).hif.pair q).besideReads = (x.hif.pair q).besideReads := by
  unfold askRead
  split
  · exact grantRequest_besideReads q p _ x
  · rfl

@[simp] theorem askFetch_besideReads (q : Nat) (c : HxCtx) (p n : Nat) (x : Hx) :
    ((askFetch c p n x).hif.pair q).besideReads = (x.hif.pair q).besideReads := by
  unfold askFetch
  split
  · rw [modPair_keeps PairRt.besideReads fun _ => by rfl, grantRequest_besideReads]
  · exact modPair_keeps PairRt.besideReads (fun _ => by rfl) p q (countStall x)

@[simp] theorem freeRead_besideReads (q p : Nat) (x : Hx) :
    ((freeRead p x).hif.pair q).besideReads = (x.hif.pair q).besideReads := by
  unfold freeRead
  extract_lets r res freed
  split
  · rfl
  · have hpair : (freed.hif.pair q).besideReads = (x.hif.pair q).besideReads :=
      modPair_keeps PairRt.besideReads (fun _ => by rfl) p q x
    exact hpair

@[simp] theorem fetchedOne_besideReads (q p : Nat) (x : Hx) :
    ((fetchedOne p x).hif.pair q).besideReads = (x.hif.pair q).besideReads := by
  unfold fetchedOne
  split
  · rfl
  · split
    · rw [freeRead_besideReads, modPair_keeps PairRt.besideReads fun _ => by rfl]
    · exact modPair_keeps PairRt.besideReads (fun _ => by rfl) p q x

@[simp] theorem pumpPair_besideReads (q : Nat) (c : HxCtx) (p : Nat) (x : Hx) :
    ((pumpPair c p x).hif.pair q).besideReads = (x.hif.pair q).besideReads := by
  unfold pumpPair
  refine forN_keeps (fun x : Hx => (x.hif.pair q).besideReads) (fun _ x => ?_) _ x
  dsimp only
  split
  · rw [askFetch_besideReads, modPair_keeps PairRt.besideReads fun _ => by rfl]
  · rfl

/-- A read that has ended frees its request. -/
theorem freeRead_frees {p : Nat} {x : Hx} (hout : (x.hif.pair p).inFlight ≠ 0) :
    ((freeRead p x).hif.pair p).inFlight = (x.hif.pair p).inFlight - 1 ∧
      (freeRead p x).hif.outstanding = x.hif.outstanding - 1 := by
  unfold freeRead
  extract_lets r res freed
  rw [if_neg hout]
  have hpair : (freed.hif.pair p).inFlight = (x.hif.pair p).inFlight - 1 := by
    unfold freed
    rw [modPair_pair_same]
  exact ⟨hpair, rfl⟩

/-! ### Held entries (R104) -/

/-- What follows the held entries of a pair that have been written: the number discarded, and the fetches that may go on. -/
def afterHeld (c : HxCtx) (p : Nat) (x : Hx) : Hx :=
  let r := x.hif.pair p
  pumpPair c p
    (if r.held.isEmpty && decide (r.discarded > 0) && hasRoom c p 1 x.hif then
      writeEntry c p { tag := 0xFFFF, code := 0x0F, sub := r.discardedSub, result := BitVec.ofNat 64 r.discarded,
                       stampLo := 0, stampHi := 0, own := true }
        (modPair p (fun q => { q with discarded := 0, discardedSub := 0 }) x)
    else x)

/-- One round of `flushHeld`: the oldest held entry is written where there is room. -/
def writeHeld (c : HxCtx) (p : Nat) (x : Hx) : Hx :=
  match (x.hif.pair p).held with
  | e :: r => if hasRoom c p 1 x.hif then writeEntry c p e (modPair p (fun q => { q with held := r }) x) else x
  | [] => x

theorem flushHeld_eq (c : HxCtx) (p : Nat) (x : Hx) :
    flushHeld c p x = afterHeld c p (forN (x.hif.pair p).held.length (fun _ => writeHeld c p) x) := rfl

theorem writeHeld_besideEntries (q : Nat) (c : HxCtx) (p : Nat) (x : Hx) :
    (writeHeld c p x).besideEntries q = x.besideEntries q := by
  unfold writeHeld
  split
  · split
    · rw [writeEntry_besideEntries, modPair_besideEntries fun _ => by rfl]
    · rfl
  · rfl

theorem afterHeld_settings (q : Nat) (c : HxCtx) (p : Nat) (x : Hx) :
    ((afterHeld c p x).hif.pair q).settings = (x.hif.pair q).settings := by
  unfold afterHeld
  extract_lets r
  rw [PairRt.settings_of_besideReads (pumpPair_besideReads q c p _)]
  split
  · refine Hx.settings_of_besideEntries ?_
    rw [writeEntry_besideEntries, modPair_besideEntries fun _ => by rfl]
  · rfl

theorem flushHeld_settings (q : Nat) (c : HxCtx) (p : Nat) (x : Hx) :
    ((flushHeld c p x).hif.pair q).settings = (x.hif.pair q).settings := by
  rw [flushHeld_eq, afterHeld_settings]
  exact Hx.settings_of_besideEntries (forN_keeps (Hx.besideEntries q) (fun _ => writeHeld_besideEntries q c p) _ x)

end Sys2Proof.Machine
end

section
/-! PROOFS. Rings and doorbells (R83, R87, R89, R90, R116, R117). -/

namespace Sys2Proof.Machine

/-! ### RINGS_EN (R83, R87) -/

theorem exec_ringsEnSet {s : State} (hup : s.hostUp = true) :
    exec .ringsEnSet s = .next (s.setReg 0x3000 (putBit (s.reg 0x3000) 0 true)) := by
  change execRingsEnSet s = _
  simp [execRingsEnSet, hup]

theorem exec_ringsEnClear {s : State} (hup : s.hostUp = true) :
    exec .ringsEnClear s = .next (s.setReg 0x3000 (putBit (s.reg 0x3000) 0 false)).resetPairs := by
  change execRingsEnClear s = _
  simp [execRingsEnClear, hup]

/-! ### ENABLE and RESET (R87, R117) -/

section
variable {s t : State} {p : Pair} {w : Word} (hwritten : s.writeBits (0x3808 + 0x10 * p.val) w = t) (hup : s.hostUp = true)
  (hoff : s.pairEnabled p.val = false) (hrings : t.rbit 0x3000 0 = true) (hserved : t.ringServed p.val = true)
include hwritten hup hoff hrings hserved

theorem exec_ringEnable (hgood : ringConfigOk t.regs p.val = true) :
    exec (.ringEnable p w) s =
      .next (t.viaHif (fun c x => flushHeld c p.val (modPair p.val (fun r => { r with st := .running }) x))) := by
  change execRingEnable p w s = _
  simp [execRingEnable, hwritten, hup, hoff, hrings, hserved, hgood]

theorem exec_ringEnable_bad (hbad : ringConfigOk t.regs p.val = false) :
    exec (.ringEnable p w) s = .next (t.viaHif (fun _ => modPair p.val (fun r => { r with errCode := 0x03 }))) := by
  change execRingEnable p w s = _
  simp [execRingEnable, hwritten, hup, hoff, hrings, hserved, hbad]

end

theorem exec_ringReset {s : State} {p : Pair} (hup : s.hostUp = true) :
    exec (.ringReset p) s = .next ((s.resetPair p.val).viaHif (fun _ => modPair p.val (fun r => { r with dbIgn := 0 }))) := by
  change execRingReset p s = _
  simp [execRingReset, hup]

/-! ### Doorbells (R89, R90) -/

section
variable {s : State} {p : Pair} {v : Word} (hup : s.hostUp = true)
include hup

theorem exec_submissionDoorbell_ignored (hst : (s.pairRt p.val).st ≠ .running) :
    exec (.submissionDoorbell p v) s = .next (s.viaHif (fun _ => ignoreDoorbell p.val)) := by
  change execSubmissionDoorbell p v s = _
  simp only [execSubmissionDoorbell, hup, Bool.not_true, Bool.false_eq_true, if_false]
  exact congrArg _ (State.viaHif_congr (if_pos hst))

variable (hst : (s.pairRt p.val).st = .running)
include hst

theorem exec_submissionDoorbell (hok : subDoorbellOk (ringSize s.regs p.val) (s.pairRt p.val) v = true) :
    exec (.submissionDoorbell p v) s =
      .next (s.viaHif (fun c x => pumpPair c p.val (modPair p.val (fun r => { r with subDb := v }) x))) := by
  change execSubmissionDoorbell p v s = _
  simp only [execSubmissionDoorbell, hup, Bool.not_true, Bool.false_eq_true, if_false]
  exact congrArg _ (State.viaHif_congr ((if_neg (not_not.mpr hst)).trans (if_pos hok)))

theorem exec_submissionDoorbell_bad (hbad : subDoorbellOk (ringSize s.regs p.val) (s.pairRt p.val) v = false) :
    exec (.submissionDoorbell p v) s = .next (s.viaHif (pairErrorX p.val 0x0E)) := by
  change execSubmissionDoorbell p v s = _
  simp only [execSubmissionDoorbell, hup, Bool.not_true, Bool.false_eq_true, if_false]
  exact congrArg _ (State.viaHif_congr ((if_neg (not_not.mpr hst)).trans (if_neg (Bool.eq_false_iff.mp hbad))))

theorem exec_completionDoorbell (hok : cplDoorbellOk (ringSize s.regs (64 + p.val)) (s.pairRt p.val) v = true) :
    exec (.completionDoorbell p v) s =
      .next (s.viaHif (fun c x => flushHeld c p.val (modPair p.val (fun r => { r with cplDb := v }) x))) := by
  change execCompletionDoorbell p v s = _
  simp only [execCompletionDoorbell, hup, Bool.not_true, Bool.false_eq_true, if_false]
  refine congrArg _ (State.viaHif_congr ((if_neg ?_).trans (if_pos hok)))
  exact fun h => absurd hst (of_decide_eq_true (Bool.and_eq_true_iff.mp h).1)

theorem exec_completionDoorbell_bad (hbad : cplDoorbellOk (ringSize s.regs (64 + p.val)) (s.pairRt p.val) v = false) :
    exec (.completionDoorbell p v) s = .next (s.viaHif (pairErrorX p.val 0x0E)) := by
  change execCompletionDoorbell p v s = _
  simp only [execCompletionDoorbell, hup, Bool.not_true, Bool.false_eq_true, if_false]
  refine congrArg _ (State.viaHif_congr ((if_neg ?_).trans ((if_neg (Bool.eq_false_iff.mp hbad)).trans (if_pos hst))))
  exact fun h => absurd hst (of_decide_eq_true (Bool.and_eq_true_iff.mp h).1)

end

/-! ### The pair after them -/

theorem State.pumped_settings (s : State) (p : Nat) (f : PairRt → PairRt) :
    ((s.viaHif (fun c x => pumpPair c p (modPair p f x))).pairRt p).settings = (f (s.pairRt p)).settings := by
  rw [State.viaHif_pairRt, PairRt.settings_of_besideReads (pumpPair_besideReads p _ p _), modPair_pair_same]
  rfl

theorem State.flushed_settings (s : State) (p : Nat) (f : PairRt → PairRt) :
    ((s.viaHif (fun c x => flushHeld c p (modPair p f x))).pairRt p).settings = (f (s.pairRt p)).settings := by
  rw [State.viaHif_pairRt, flushHeld_settings, modPair_pair_same]
  rfl

/-- A RUNNING pair that enters ERROR is in ERROR with the cause. -/
theorem State.viaHif_pairErrorX {s : State} {p : Nat} (cause : Byte) (hst : (s.pairRt p).st = .running) :
    ((s.viaHif (pairErrorX p cause)).pairRt p).st = .error ∧ ((s.viaHif (pairErrorX p cause)).pairRt p).errCode = cause :=
  ⟨pairErrorX_st cause _ hst, pairErrorX_errCode cause _ hst⟩

theorem State.ringReset_pairRt (s : State) (p : Nat) :
    ((s.resetPair p).viaHif (fun _ => modPair p (fun r => { r with dbIgn := 0 }))).pairRt p =
      { (s.resetPair p).pairRt p with dbIgn := 0 } := modPair_pair_same p _ _

theorem State.resetPair_settings (s : State) (p : Nat) :
    ((s.resetPair p).pairRt p).settings = PairRt.settings { s.pairRt p with
      st := .disabled, base := (s.pairRt p).base + (s.pairRt p).fetched, subDb := 0, fetched := 0, cplDb := 0, evtMask := 0 } :=
  resetPairX_settings p _ _

theorem State.resetPair_written (s : State) (p : Nat) : ((s.resetPair p).pairRt p).written = 0 := resetPairX_written p _ _

/-- Settles O10: the equations above say what each command answers; what the pair then writes, holds and fetches leaves its state,
its doorbells and its error code as they were set. -/
theorem ringsAndDoorbells : Obligations.RingsAndDoorbells := by
  unfold Obligations.RingsAndDoorbells
  refine ⟨fun s hup => exec_ringsEnSet hup, ?clear, ?enable, ?enableBad, ?reset, ?submit, ?submitBad, ?ignored, ?complete,
    ?completeBad⟩
  case clear =>
    intro s hup
    exact completes_of_exec (exec_ringsEnClear hup)
      ⟨State.resetPairs_st _, State.only_regs (State.resetPairs_mask (qs := [.hif, .stp, .out]) rfl _) rfl⟩ rfl
  case enable =>
    intro s p w hup hoff hrings hserved hgood
    generalize hwritten : s.writeBits (0x3808 + 0x10 * p.val) w = t at hrings hserved hgood ⊢
    have hsettings := t.flushed_settings p.val (fun r => { r with st := .running })
    exact completes_of_exec (exec_ringEnable hwritten hup hoff hrings hserved hgood)
      ⟨PairRt.st_of_settings hsettings, State.viaHif_regs t _⟩ rfl
  case enableBad =>
    intro s p w hup hoff hrings hserved hbad
    have hhif : (s.writeBits (0x3808 + 0x10 * p.val) w).hif = s.hif :=
      State.only_hif (State.writeBits_mask (qs := [.regs, .pw]) rfl s _ w) rfl
    generalize hwritten : s.writeBits (0x3808 + 0x10 * p.val) w = t at hrings hserved hbad hhif
    refine completes_of_exec (exec_ringEnable_bad hwritten hup hoff hrings hserved hbad) ?_ rfl
    rw [State.viaHif_pairRt, modPair_pair_same]
    exact ⟨rfl, congrArg (fun h : HifState => (h.pair p.val).st) hhif⟩
  case reset =>
    intro s p hup
    refine completes_of_exec (exec_ringReset hup) ?_ rfl
    have hsettings := s.resetPair_settings p.val
    rw [State.ringReset_pairRt]
    exact ⟨PairRt.st_of_settings hsettings, PairRt.fetched_of_settings hsettings,
      s.resetPair_written p.val, PairRt.subDb_of_settings hsettings, PairRt.cplDb_of_settings hsettings,
      rfl⟩
  case submit =>
    intro s p v hup hst hok
    have hsettings := s.pumped_settings p.val (fun r => { r with subDb := v })
    exact completes_of_exec (exec_submissionDoorbell hup hst hok)
      ⟨PairRt.subDb_of_settings hsettings, (PairRt.st_of_settings hsettings).trans hst⟩ rfl
  case submitBad =>
    intro s p v hup hst hbad
    exact completes_of_exec (exec_submissionDoorbell_bad hup hst hbad) (State.viaHif_pairErrorX 0x0E hst) rfl
  case ignored => exact fun s p v hup hst => completes_of_exec (exec_submissionDoorbell_ignored hup hst) ⟨rfl, rfl⟩ rfl
  case complete =>
    intro s p v hup hst hok
    have hsettings := s.flushed_settings p.val (fun r => { r with cplDb := v })
    exact completes_of_exec (exec_completionDoorbell hup hst hok)
      ⟨PairRt.cplDb_of_settings hsettings, (PairRt.st_of_settings hsettings).trans hst⟩ rfl
  case completeBad =>
    intro s p v hup hst hbad
    exact completes_of_exec (exec_completionDoorbell_bad hup hst hbad) (State.viaHif_pairErrorX 0x0E hst) rfl

end Sys2Proof.Machine
end

section
/-! PROOFS. Fetches, reads of host data, grants of requests, held entries (R92, R104, R111, R112, R115). -/

namespace Sys2Proof.Machine

/-! ### A descriptor that has been fetched (R92 to R95) -/

theorem State.pushEntry_settings (s : State) (p : Nat) (e : Entry) (q : Nat) :
    ((s.pushEntry p e).pairRt q).settings = (s.pairRt q).settings := by
  rw [State.pushEntry, State.viaHif_pairRt]
  rw [PairRt.settings_of_besideReads
    (forN_keeps (fun x : Hx => (x.hif.pair q).besideReads) (fun _ => askRead_besideReads q s.hxCtx p) _ _)]
  exact Hx.settings_of_besideEntries (modPair_besideEntries (fun _ => by rfl) q s.hx)

theorem State.refuseEntry_besideEntries (s : State) (p : Nat) (e : Entry) (code : Byte) (result q : Nat) :
    (s.refuseEntry p e code result).hx.besideEntries q = s.hx.besideEntries q := by
  unfold State.refuseEntry
  extract_lets noted
  have hnoted : noted.hx.besideEntries q = s.hx.besideEntries q := by
    unfold noted
    split
    · rfl
    · rfl
  exact (finishX_besideEntries q p e.sub code _ _ noted.hxCtx noted.hx).trans hnoted

theorem State.takeDescriptor_settings (s : State) (p : Nat) (e : Entry) (q : Nat) :
    ((s.takeDescriptor p e).pairRt q).settings = (s.pairRt q).settings := by
  have hrefused (code : Byte) (result : Nat) :
      (((s.pushEntry p e).refuseEntry p e code result).pairRt q).settings = (s.pairRt q).settings :=
    (Hx.settings_of_besideEntries (State.refuseEntry_besideEntries _ p e code result q)).trans (s.pushEntry_settings p e q)
  unfold State.takeDescriptor
  split
  · split
    · exact s.pushEntry_settings p e q
    · exact hrefused _ _
  · split
    · exact hrefused _ _
    · exact s.pushEntry_settings p _ q

/-! ### Fetches (R92, R115) -/

/-- The descriptor that the bytes of a fetch of pair p spell. -/
def State.fetchedEntry (s : State) (p : Nat) (b : List Byte) : Entry :=
  { sub := (s.pairRt p).base + (s.pairRt p).fetched
    index := (s.pairRt p).fetched
    raw := BitVec.ofNat 512 (leNat (b.take (if pairClass s.regs p = 0 then 64 else 32)))
    cls := pairClass s.regs p }

section
variable {s : State} {p : Pair} (hst : (s.pairRt p.val).st = .running) (hfetch : (s.pairRt p.val).fetchOut ≠ [])
include hst hfetch

theorem exec_descriptorFetch_data (b : List Byte) : exec (.descriptorFetch p (.data b)) s =
    .next (State.takeDescriptor ((s.viaHif (fun _ => fetchedOne p.val)).viaHif
      (fun _ => modPair p.val (fun r => { r with fetched := r.fetched + 1 }))) p.val (s.fetchedEntry p.val b)) := by
  change execDescriptorFetch p (.data b) s = _
  simp [execDescriptorFetch, State.fetchedEntry, hst, hfetch]
  rfl

theorem exec_descriptorFetch_error : exec (.descriptorFetch p .error) s =
    .next ((s.viaHif (fun _ => fetchedOne p.val)).viaHif (pairErrorX p.val 0x05)) := by
  change execDescriptorFetch p .error s = _
  simp [execDescriptorFetch, hst, hfetch]

theorem exec_hostReadTimeout_fetch : exec (.hostReadTimeout p true) s =
    .next (s.viaHif (fun c x => pairErrorX p.val 0x06 c (fetchedOne p.val x))) := by
  change execHostReadTimeout p true s = _
  simp [execHostReadTimeout, hst, hfetch]

end

theorem fetchedOne_settings (q p : Nat) (x : Hx) : ((fetchedOne p x).hif.pair q).settings = (x.hif.pair q).settings :=
  PairRt.settings_of_besideReads (fetchedOne_besideReads q p x)

/-! ### Reads of host data (R111, R115) -/

theorem State.readingEntry_spec {s : State} {p : Nat} {e : Entry} (hreading : s.readingEntry p = some e) :
    e ∈ (s.pairRt p).entries ∧ e.stage = .reading :=
  ⟨List.mem_of_find?_eq_some hreading, by simpa using List.find?_some hreading⟩

theorem PairRt.inFlight_of_readsData {r : PairRt} (hreads : r.readsData = true) : r.inFlight ≠ 0 :=
  Nat.ne_zero_of_lt (of_decide_eq_true hreads)

/-- With nothing more asked for, nothing more is given up. -/
theorem giveUpReads_zero_besideEntries (q p : Nat) (x : Hx) : (giveUpReads p 0 x).besideEntries q = x.besideEntries q := by
  unfold giveUpReads
  extract_lets w k left
  rw [Nat.zero_sub]
  rfl

theorem freeRead_entries (p : Nat) (x : Hx) : ((freeRead p x).hif.pair p).entries = (x.hif.pair p).entries := by
  have h := freeRead_besideReads p p x
  exact (congrArg PairRt.entries h :)

section
variable {s : State} {p : Pair} {e : Entry} (hreads : (s.pairRt p.val).readsData = true)
  (hreading : s.readingEntry p.val = some e)
include hreads hreading

/-- A read that fails and was the last of its descriptor frees its request and no other. -/
theorem State.readFailed_frees (hlast : e.need ≤ 1) (code : Byte) :
    ((s.readFailed p.val code).pairRt p.val).inFlight = (s.pairRt p.val).inFlight - 1 ∧
      (s.readFailed p.val code).hif.outstanding = s.hif.outstanding - 1 := by
  have hnone : e.need - 1 = 0 := Nat.sub_eq_zero_of_le hlast
  have hbeside : (s.readFailed p.val code).hx.besideEntries p.val = (freeRead p.val s.hx).besideEntries p.val := by
    simp only [State.readFailed, hreading, hnone]
    rw [State.refuseEntry_besideEntries, State.viaHif_hx, giveUpReads_zero_besideEntries]
  obtain ⟨hflight, houtstanding⟩ := freeRead_frees (x := s.hx) (PairRt.inFlight_of_readsData hreads)
  exact ⟨(Hx.inFlight_of_besideEntries hbeside).trans hflight, (Hx.outstanding_of_besideEntries hbeside).trans houtstanding⟩

theorem exec_hostReadCompletion_error : exec (.hostReadCompletion p .error) s = .next (s.readFailed p.val 0x05) := by
  change execHostReadCompletion p .error s = _
  simp [execHostReadCompletion, hreads, hreading]

theorem exec_hostReadCompletion_data (b : List Byte) : exec (.hostReadCompletion p (.data b)) s =
    .next ((s.viaHif (fun _ => freeRead p.val)).modEntry p.val e.sub (fun x => { x with
      need := x.need - 1, data := x.data ++ padTo (min 512 (e.reads - e.data.length)) b,
      stage := if x.need ≤ 1 then .handed else .reading })) := by
  change execHostReadCompletion p (.data b) s = _
  simp [execHostReadCompletion, hreads, hreading]

end

theorem exec_hostReadTimeout_data {s : State} {p : Pair} (hreads : (s.pairRt p.val).readsData = true) :
    exec (.hostReadTimeout p false) s = .next (s.readFailed p.val 0x06) := by
  change execHostReadTimeout p false s = _
  simp [execHostReadTimeout, hreads]

theorem State.modEntry_pairRt (s : State) (p : Nat) (sub : Word) (f : Entry → Entry) :
    (s.modEntry p sub f).pairRt p = { s.pairRt p with
      entries := (s.pairRt p).entries.map fun e =>
        if decide (e.sub = sub) && decide (e.stage = .reading) then f e else e } := modPair_pair_same p _ _

/-! ### Grants (R111, R112) -/

theorem exists_turn (last : Nat) {p : Nat} (hp : p < 64) : ∃ i < 64, (last + 1 + i) % 64 = p :=
  ⟨(p + 64 - (last + 1) % 64) % 64, by omega, by omega⟩

/-- The one pair that waits has its turn. -/
theorem roundRobin_of_only (last : Nat) {p : Nat} {ps : List Nat} (hp : p < 64) (honly : ∀ q, q ∈ ps ↔ q = p) :
    roundRobin last ps = some p := by
  obtain ⟨i, hi, hturn⟩ := exists_turn last hp
  unfold roundRobin
  cases hfound : (List.range 64).findSome? (fun i =>
      let q := (last + 1 + i) % 64
      if ps.contains q then some q else none) with
  | none =>
    have hskipped := List.findSome?_eq_none_iff.mp hfound i (List.mem_range.mpr hi)
    simp [hturn, (honly p).mpr rfl] at hskipped
  | some q =>
    obtain ⟨j, _, hj⟩ := List.exists_of_findSome?_eq_some hfound
    simp only [honly, List.contains_iff_mem, Option.ite_none_right_eq_some, Option.some.injEq] at hj
    rw [← hj.2, hj.1]

theorem roundRobin_nil (last : Nat) : roundRobin last [] = none := by simp [roundRobin]

section
variable {s : State} {p : Pair} (honly : ∀ q : Fin 64, readWaits s.hif q.val = true ↔ q = p)
  (hclass : pairClass s.regs p.val ≠ 0) (hfree : s.hif.outstanding < 96)
  (hshared : s.hif.outstanding - s.hif.stepOut < 96 - stepReserve s.regs)
include honly

theorem mem_waiting_iff (q : Nat) : q ∈ (List.range 64).filter (readWaits s.hif) ↔ q = p.val := by
  rw [List.mem_filter, List.mem_range]
  constructor
  · exact fun ⟨hq, hwaits⟩ => congrArg Fin.val ((honly ⟨q, hq⟩).mp hwaits)
  · exact fun hq => hq ▸ ⟨p.isLt, (honly p).mpr rfl⟩

include hclass hfree hshared

/-- A free request that is not reserved goes to the one pair that waits. -/
theorem exec_hostReadGrant_shared : exec .hostReadGrant s = .next (s.viaHif (fun _ => grantWaiting p.val false)) := by
  have hmem := mem_waiting_iff honly
  have hstep : ((List.range 64).filter (readWaits s.hif)).filter (fun q => decide (pairClass s.regs q = 0)) = [] := by
    refine List.filter_eq_nil_iff.mpr fun q hq => ?_
    rw [(hmem q).mp hq]
    simp [hclass]
  change execHostReadGrant s = _
  unfold execHostReadGrant
  refine congrArg _ (State.viaHif_congr ?_)
  dsimp only [State.hx, State.hxCtx]
  rw [hstep, roundRobin_nil, ite_self, if_pos (decide_eq_true hshared), if_pos hfree,
    roundRobin_of_only s.hif.lastGrant p.isLt hmem]

end

theorem grantRequest_pair_same (p : Nat) (reserved : Bool) (x : Hx) : (grantRequest p reserved x).hif.pair p =
    { x.hif.pair p with
      inFlight := (x.hif.pair p).inFlight + 1, resFlight := (x.hif.pair p).resFlight + reserved.toNat } := by
  unfold grantRequest
  extract_lets granted n
  change granted.hif.pair p = _
  unfold granted
  rw [modPair_pair_same]

/-- A shared request is granted to the pair for its host data. -/
theorem grantWaiting_data {p : Nat} {x : Hx} (hwaits : tget 0 x.hif.waiting p > 0) :
    (grantWaiting p false x).hif.outstanding = x.hif.outstanding + 1 ∧
      (grantWaiting p false x).hif.waiting = tmod 0 x.hif.waiting p (· - 1) ∧ (grantWaiting p false x).hif.lastGrant = p ∧
      ((grantWaiting p false x).hif.pair p).inFlight = (x.hif.pair p).inFlight + 1 := by
  unfold grantWaiting
  extract_lets granted hif noted
  have hwaiting : noted.hif.waiting = x.hif.waiting := rfl
  rw [hwaiting, if_pos hwaits]
  exact ⟨rfl, rfl, rfl, congrArg PairRt.inFlight (grantRequest_pair_same p false x)⟩

/-- A shared request is granted to the pair for its oldest fetch. -/
theorem grantWaiting_fetch {p : Nat} {x : Hx} (hnone : tget 0 x.hif.waiting p = 0) :
    (grantWaiting p false x).hif.outstanding = x.hif.outstanding + 1 ∧ (grantWaiting p false x).hif.lastGrant = p ∧
      ((grantWaiting p false x).hif.pair p).fetchOut = (x.hif.pair p).fetchOut ++ (x.hif.pair p).fetchWait.take 1 ∧
      ((grantWaiting p false x).hif.pair p).fetchWait = (x.hif.pair p).fetchWait.drop 1 := by
  unfold grantWaiting
  extract_lets granted hif noted
  have hwaiting : noted.hif.waiting = x.hif.waiting := rfl
  have hpair : noted.hif.pair p = granted.hif.pair p := rfl
  rw [hwaiting, if_neg (Nat.not_lt.mpr hnone.le), modPair_pair_same, hpair, grantRequest_pair_same]
  exact ⟨rfl, rfl, rfl, rfl⟩

/-! ### Held entries (R104) -/

theorem writeHeld_pair_same {c : HxCtx} {p : Nat} {k : Cpl} {r : List Cpl} {x : Hx} (hheld : (x.hif.pair p).held = k :: r)
    (hroom : hasRoom c p 1 x.hif = true) : (writeHeld c p x).hif.pair p =
      { x.hif.pair p with held := r, written := (x.hif.pair p).written + 1 } := by
  simp only [writeHeld, hheld, hroom, if_true, writeEntry_pair_same, modPair_pair_same]

/-- The one entry held, with room and none discarded, is written and no longer held. -/
theorem flushHeld_one {c : HxCtx} {p : Nat} {k : Cpl} {x : Hx} (hheld : (x.hif.pair p).held = [k])
    (hdiscarded : (x.hif.pair p).discarded = 0) (hroom : hasRoom c p 1 x.hif = true) :
    ((flushHeld c p x).hif.pair p).held = [] ∧
      ((flushHeld c p x).hif.pair p).written = (x.hif.pair p).written + 1 := by
  have hpair := writeHeld_pair_same hheld hroom
  have hflush : flushHeld c p x = pumpPair c p (writeHeld c p x) := by
    rw [flushHeld_eq, hheld]
    change afterHeld c p (writeHeld c p x) = _
    unfold afterHeld
    simp [hpair, hdiscarded]
  have hkeeps := pumpPair_besideReads p c p (writeHeld c p x)
  rw [hpair] at hkeeps
  rw [hflush]
  exact ⟨(congrArg PairRt.held hkeeps :), (congrArg PairRt.written hkeeps :)⟩

/-- Settles O11: the equations above say what each command answers; a descriptor that joins, a refusal and a fetch that ends leave the
settings of the pair, and only the reads that end are taken off its requests. -/
theorem fetchesAndReadsOfHostMemory : Obligations.FetchesAndReadsOfHostMemory := by
  unfold Obligations.FetchesAndReadsOfHostMemory
  refine ⟨?fetched, ?fetchError, ?fetchTimeout, ?read, ?readError, ?readTimeout, ?grantData, ?grantFetch, ?held⟩
  case fetched =>
    intro s p b hst hfetch
    refine completes_of_exec (exec_descriptorFetch_data hst hfetch b) ?_ rfl
    rw [PairRt.fetched_of_settings (State.takeDescriptor_settings _ _ _ _), State.viaHif_pairRt, modPair_pair_same]
    exact congrArg (· + 1) (PairRt.fetched_of_settings (fetchedOne_settings p.val p.val s.hx))
  case fetchError =>
    intro s p hst hfetch
    have hrunning := (PairRt.st_of_settings (fetchedOne_settings p.val p.val s.hx)).trans hst
    exact completes_of_exec (exec_descriptorFetch_error hst hfetch) (State.viaHif_pairErrorX 0x05 hrunning) rfl
  case fetchTimeout =>
    intro s p hst hfetch
    have hrunning := (PairRt.st_of_settings (fetchedOne_settings p.val p.val s.hx)).trans hst
    exact completes_of_exec (exec_hostReadTimeout_fetch hst hfetch)
      ⟨pairErrorX_st 0x06 s.hxCtx hrunning, pairErrorX_errCode 0x06 s.hxCtx hrunning⟩ rfl
  case read =>
    intro s p e b hreads hreading hlast
    obtain ⟨hmem, hstage⟩ := State.readingEntry_spec hreading
    refine completes_of_exec (exec_hostReadCompletion_data hreads hreading b) ?_ rfl
    rw [State.modEntry_pairRt, State.viaHif_pairRt]
    refine ⟨?_, (freeRead_frees (x := s.hx) (PairRt.inFlight_of_readsData hreads)).1⟩
    rw [List.any_map, freeRead_entries]
    exact List.any_eq_true.mpr ⟨e, hmem, by simp [hstage, hlast]⟩
  case readError =>
    intro s p e hreads hreading hlast
    exact completes_of_exec (exec_hostReadCompletion_error hreads hreading)
      (State.readFailed_frees hreads hreading hlast 0x05) rfl
  case readTimeout =>
    intro s p e hreads hreading hlast
    exact completes_of_exec (exec_hostReadTimeout_data hreads) (State.readFailed_frees hreads hreading hlast 0x06) rfl
  case grantData =>
    intro s p k hwaiting hothers hclass hfree hshared
    have hcount (q : Fin 64) : tget 0 s.hif.waiting q.val = if q = p then k + 1 else 0 := by
      simp [hwaiting, tget, Fin.ext_iff, eq_comm]
    have honly (q : Fin 64) : readWaits s.hif q.val = true ↔ q = p := by
      by_cases hq : q = p
      · simp [readWaits, hcount, hq]
      · have hnone : (s.hif.pair q.val).fetchWait = [] := hothers q hq
        simp [readWaits, hcount, hq, hnone]
    exact completes_of_exec (exec_hostReadGrant_shared honly hclass hfree hshared)
      (grantWaiting_data (x := s.hx) (by simp [State.hx, hcount])) rfl
  case grantFetch =>
    intro s p k r hwaiting hothers hfetch hmay hclass hfree hshared
    have hnone (q : Nat) : tget 0 s.hif.waiting q = 0 := by rw [hwaiting, tget]
    have honly (q : Fin 64) : readWaits s.hif q.val = true ↔ q = p := by
      by_cases hq : q = p
      · have hwaits : (s.hif.pair p.val).fetchWait = k :: r := hfetch
        have hmayNow : (s.hif.pair p.val).mayFetch = true := hmay
        simp [readWaits, hq, hwaits, hmayNow]
      · have hrest : (s.hif.pair q.val).fetchWait = [] := hothers q hq
        simp [readWaits, hnone, hq, hrest]
    have hwaits : (s.hx.hif.pair p.val).fetchWait = k :: r := hfetch
    have hgrant := grantWaiting_fetch (x := s.hx) (hnone p.val)
    rw [hwaits] at hgrant
    exact completes_of_exec (exec_hostReadGrant_shared honly hclass hfree hshared) hgrant rfl
  case held =>
    intro s p k hheld hdiscarded hroom
    exact completes_of_exec (t := s.viaHif (fun c => flushHeld c p.val)) rfl
      (flushHeld_one (x := s.hx) hheld hdiscarded hroom) rfl

end Sys2Proof.Machine
end

section
/-! PROOFS. Interrupt vectors, table READs, event masks, status requests, a LOAD of a read-only table (R97, R106, R109, R110, R577). -/

namespace Sys2Proof.Machine

/-! ### Vectors (R109, R110) -/

theorem fireVec_unmasked {v : Nat} {x : Hx} (hopen : (tget {} x.hif.vectors v).masked = false) :
    (fireVec v x).out = .msix v (tget {} x.hif.vectors v).addr (tget {} x.hif.vectors v).data :: x.out ∧
      tget {} (fireVec v x).hif.vectors v = { tget {} x.hif.vectors v with unsignalled := 0 } := by
  unfold fireVec
  extract_lets r
  have hr : r.masked = false := hopen
  rw [if_neg (Bool.eq_false_iff.mp hr)]
  exact ⟨rfl, tget_tput_same _ _ _ _⟩

theorem fireVec_masked {v : Nat} {x : Hx} (hmasked : (tget {} x.hif.vectors v).masked = true) :
    (fireVec v x).out = x.out ∧
      tget {} (fireVec v x).hif.vectors v = { tget {} x.hif.vectors v with pending := true, unsignalled := 0 } := by
  unfold fireVec
  extract_lets r
  have hr : r.masked = true := hmasked
  rw [if_pos hr]
  exact ⟨rfl, tget_tput_same _ _ _ _⟩

theorem exec_msixModerationTimeout {s : State} {v : Fin 128} (hcount : (tget {} s.hif.vectors v.val).unsignalled > 0) :
    exec (.msixModerationTimeout v) s = .next (s.viaHif (fun _ => fireVec v.val)) := by
  change execMsixModerationTimeout v s = _
  rw [execMsixModerationTimeout, if_pos hcount]

/-- s with vector v unmasked, before what waits for it is sent. -/
def State.unmasked (s : State) (v : Nat) : State :=
  s.setHif { s.hif with
    vectors := tput {} { tget {} s.hif.vectors v with masked := false, pending := false } s.hif.vectors v }

theorem State.unmasked_vector (s : State) (v : Nat) : tget {} (s.unmasked v).hif.vectors v =
    { tget {} s.hif.vectors v with masked := false, pending := false } := tget_tput_same _ _ _ _

theorem exec_msixUnmask (s : State) (v : Fin 128) : exec (.msixUnmask ⟨v, .unmask⟩) s =
    .next (if (tget {} s.hif.vectors v.val).pending then (s.unmasked v.val).viaHif (fun _ => fireVec v.val)
      else s.unmasked v.val) := rfl

/-! ### Descriptors of the control classes (R97, R106, R577) -/

section
variable {s : State} {p : Pair} {e : Entry}

theorem exec_tableRead (htake : s.takeOp p.val 1 2 = some e) : exec (.tableRead p) s =
    .next ((s.hostWrite e.addr ((List.range e.count).flatMap (fun i => s.tableEntry e.tblBlock e.tblNum (e.first + i)))).finish
      p.val e.sub 0 (BitVec.ofNat 64 e.count)) := by
  change execTableRead p s = _
  rw [execTableRead, htake]

theorem exec_updateStatus (htake : s.takeOp p.val 7 1 = some e) :
    exec (.updateStatus p) s = .next ((s.tookFree.hostWrite e.addr s.statusRecord).finish p.val e.sub 0 64) := by
  change execUpdateStatus p s = _
  rw [execUpdateStatus, htake]

theorem exec_eventMask (htake : s.takeOp p.val 6 1 = some e) : exec (.eventMask p) s =
    .next ((s.viaHif (fun _ => modPair p.val (fun r => { r with evtMask := BitVec.ofNat 12 (e.bytes 16 2) }))).finish p.val
      e.sub 0 0) := by
  change execEventMask p s = _
  rw [execEventMask, htake]

theorem exec_readOnlyTableLoad {n size : Nat} (htake : s.takeOp p.val 1 1 = some e)
    (hshape : tableShape e.tblBlock e.tblNum = some (n, size, false)) (hacts : s.roleActs = true) :
    exec (.readOnlyTableLoad p) s = .next (s.finish p.val e.sub 0x02 0) := by
  change execReadOnlyTableLoad p s = _
  simp [execReadOnlyTableLoad, htake, hshape, hacts]

end

theorem State.finish_settings (s : State) (p : Nat) (sub : Word) (code : Byte) (result : BitVec 64) (q : Nat) :
    ((s.finish p sub code result).pairRt q).settings = (s.pairRt q).settings :=
  Hx.settings_of_besideEntries (finishX_besideEntries q p sub code result 0 s.hxCtx s.hx)

/-- Settles O12: the equations above say what each command answers; a vector that fires is sent or left pending by its mask, and the
completion of EVENT_MASK leaves the mask that it set. -/
theorem vectorsReadsAndMasks : Obligations.VectorsReadsAndMasks := by
  unfold Obligations.VectorsReadsAndMasks
  refine ⟨?timeout, ?timeoutMasked, fun _ _ _ => rfl, fun _ _ _ => rfl, fun _ _ => rfl, ?unmaskPending, ?unmaskQuiet,
    fun _ _ _ htake => exec_tableRead htake, fun _ _ _ htake => exec_updateStatus htake, ?eventMask,
    fun _ _ _ _ _ htake hshape hacts => exec_readOnlyTableLoad htake hshape hacts⟩
  case timeout =>
    intro s v hcount hopen
    obtain ⟨hout, hvector⟩ := fireVec_unmasked (x := s.hx) hopen
    exact completes_of_exec (exec_msixModerationTimeout hcount) ⟨hout, congrArg MsixVec.unsignalled hvector⟩ rfl
  case timeoutMasked =>
    intro s v hcount hmasked
    obtain ⟨hout, hvector⟩ := fireVec_masked (x := s.hx) hmasked
    exact completes_of_exec (exec_msixModerationTimeout hcount) ⟨hout, congrArg MsixVec.pending hvector⟩ rfl
  case unmaskPending =>
    intro s v hpending
    have hset := s.unmasked_vector v.val
    obtain ⟨hout, hvector⟩ := fireVec_unmasked (x := (s.unmasked v.val).hx) (v := v.val) (congrArg MsixVec.masked hset)
    have hnext := exec_msixUnmask s v
    rw [hpending, if_pos rfl] at hnext
    exact completes_of_exec hnext
      ⟨(congrArg MsixVec.masked hvector).trans (congrArg MsixVec.masked hset),
        (congrArg MsixVec.pending hvector).trans (congrArg MsixVec.pending hset),
        hout.trans (congrArg (fun r : MsixVec => Output.msix v.val r.addr r.data :: s.out) hset :)⟩ rfl
  case unmaskQuiet =>
    intro s v hquiet
    have hnext := exec_msixUnmask s v
    rw [hquiet, if_neg Bool.false_ne_true] at hnext
    exact completes_of_exec hnext ⟨congrArg MsixVec.masked (s.unmasked_vector v.val), rfl⟩ rfl
  case eventMask =>
    intro s p e htake
    refine completes_of_exec (exec_eventMask htake) ?_ rfl
    rw [PairRt.evtMask_of_settings (State.finish_settings _ p.val e.sub 0 0 p.val), State.viaHif_pairRt, modPair_pair_same]

end Sys2Proof.Machine
end

section
/-! PROOFS. The endpoint (R78, R80, R83, R108, R613): a State that lists a pair twice is not reset whole. -/

namespace Sys2Proof.Machine

/-- A table of pairs that is not in canonical form: it lists pair 0 twice, first with an error code alone, then as RUNNING. A read
and a write of pair 0 see the first entry only. -/
def State.pairListedTwice : State := { hif := { pairs := [(0, { errCode := 1 }), (0, { st := .running })] } }

/-- The reset clears the error code of pair 0, whose first entry is then that of an unlisted pair and is taken out of the table; the
second, which no reset of the pair has reached, comes to light. -/
theorem State.resetHif_pairListedTwice : (State.pairListedTwice.resetHif.pairRt 0).st = .running := by decide +kernel

/-- Refutes O9: a clear of Bus Master Enable does not return pair 0 to DISABLED where the table of pairs lists it twice. The statement
is for every State; one whose table is in canonical form never lists a pair twice. -/
theorem not_endpointEvents : ¬ Obligations.EndpointEvents := by
  unfold Obligations.EndpointEvents
  intro ⟨_, _, _, _, hdisable, _⟩
  obtain ⟨t, hnext, ⟨hpairs, _⟩, _⟩ := hdisable State.pairListedTwice
  have ht : State.pairListedTwice.resetHif = t := Host.Outcome.next.inj hnext
  have hdisabled : (State.pairListedTwice.resetHif.pairRt 0).st = .disabled := ht ▸ hpairs 0
  rw [State.resetHif_pairListedTwice] at hdisabled
  exact absurd hdisabled (by decide)

end Sys2Proof.Machine
end

section
/-! PROOFS. Recipe steps (R119 to R158): what each operation on the pending steps and on the parts leaves of one of them, of the
others and of the ring served last. -/

namespace Sys2Proof.Machine

/-! ### One element of a list under a key -/

/-- The first element under a key, after a change of every element under that key which leaves the keys alone. -/
theorem find?_map_keyed {α κ : Type} [DecidableEq κ] (key : α → κ) (k : κ) {f : α → α} (hf : ∀ x, key (f x) = key x)
    (l : List α) :
    (l.map (fun x => if key x = k then f x else x)).find? (fun x => decide (key x = k)) =
      (l.find? (fun x => decide (key x = k))).map f := by
  have hkey : ∀ x, key (if key x = k then f x else x) = key x := fun x => by split <;> simp [hf]
  have hpred : (fun x => decide (key x = k)) ∘ (fun x => if key x = k then f x else x) = fun x => decide (key x = k) :=
    funext fun x => by simp [hkey]
  rw [List.find?_map, hpred]
  cases hfound : l.find? (fun x => decide (key x = k)) with
  | none => rfl
  | some x => simp [of_decide_eq_true (List.find?_some hfound :)]

theorem State.findStep_seq {s : State} {seq : Word} {e : StepEntry} (h : s.findStep seq = some e) : e.seq = seq :=
  of_decide_eq_true (List.find?_some h :)

theorem State.findPart_seq {s : State} {seq : Word} {x : Part} (h : s.findPart seq = some x) : x.seq = seq :=
  of_decide_eq_true (List.find?_some h :)

theorem State.findStep_congr {s t : State} (h : t.stp.steps = s.stp.steps) (seq : Word) : t.findStep seq = s.findStep seq :=
  congrArg (List.find? _) h

theorem State.findPart_congr {s t : State} (h : t.stp.parts = s.stp.parts) (seq : Word) : t.findPart seq = s.findPart seq :=
  congrArg (List.find? _) h

theorem State.findStep_modStep (s : State) (seq : Word) {f : StepEntry → StepEntry} (hf : ∀ e, (f e).seq = e.seq) :
    (s.modStep seq f).findStep seq = (s.findStep seq).map f := find?_map_keyed StepEntry.seq seq hf _

theorem State.findPart_modPart (s : State) (seq : Word) {f : Part → Part} (hf : ∀ x, (f x).seq = x.seq) :
    (s.modPart seq f).findPart seq = (s.findPart seq).map f := find?_map_keyed Part.seq seq hf _

theorem State.findStep_modStep_some {s : State} {seq : Word} {e : StepEntry} (hfind : s.findStep seq = some e)
    {f : StepEntry → StepEntry} (hf : ∀ e, (f e).seq = e.seq) : (s.modStep seq f).findStep seq = some (f e) := by
  rw [State.findStep_modStep s seq hf, hfind]
  rfl

theorem State.findPart_modPart_some {s : State} {seq : Word} {x : Part} (hfind : s.findPart seq = some x)
    {f : Part → Part} (hf : ∀ x, (f x).seq = x.seq) : (s.modPart seq f).findPart seq = some (f x) := by
  rw [State.findPart_modPart s seq hf, hfind]
  rfl

/-- What a change brings to the steps of its number holds of every step of that number. -/
theorem State.modStep_brings {P : StepEntry → Prop} {f : StepEntry → StepEntry} (hf : ∀ e, P (f e)) (s : State) (seq : Word) :
    ∀ x ∈ (s.modStep seq f).stp.steps, x.seq = seq → P x := by
  intro x hx hseq
  obtain ⟨e, -, rfl⟩ := List.mem_map.mp hx
  split_ifs at hseq ⊢ with he
  · exact hf e
  · exact absurd hseq he

/-! ### Operations that leave the steps and parts alone -/

theorem State.stp_kept {s t : State} (h : t.mask [.hif, .cmb, .blk, .cnv, .fio, .mir, .bog, .twn, .out, .freeIdx] =
    s.mask [.hif, .cmb, .blk, .cnv, .fio, .mir, .bog, .twn, .out, .freeIdx]) : t.stp = s.stp := State.only_stp h rfl

@[simp] theorem State.claimActions_stp (s : State) (seq : Word) (l : List Action) : (s.claimActions seq l).stp = s.stp := rfl
@[simp] theorem State.unclaimActions_stp (s : State) (seq : Word) : (s.unclaimActions seq).stp = s.stp := rfl
@[simp] theorem State.recallStep_stp (s : State) (seq : Word) : (s.recallStep seq).stp = s.stp := rfl
@[simp] theorem State.postEntry_stp (s : State) (p : Nat) (e : Cpl) : (s.postEntry p e).stp = s.stp := rfl
@[simp] theorem State.mirrorStep_stp (s : State) (desc data : List Byte) : (s.mirrorStep desc data).stp = s.stp :=
  State.stp_kept (State.mirrorStep_mask rfl s desc data)
@[simp] theorem State.handOver_stp (s : State) (seq : Word) (instant : Time) (l : List Action) :
    (s.handOver seq instant l).stp = s.stp := State.stp_kept (State.handOver_mask rfl s seq instant l)
@[simp] theorem State.launchAction_stp (s : State) (instant : Time) (a : Action) : (s.launchAction instant a).stp = s.stp :=
  State.stp_kept (State.launchAction_mask rfl s instant a)

/-! ### The status bytes of a step (R149) -/

/-- A step without its status bytes. -/
def StepEntry.besideStatus (e : StepEntry) : StepEntry := { e with status := [] }

@[simp] theorem StepEntry.setStatus_besideStatus (e : StepEntry) (idx : List Nat) (c : Byte) :
    (e.setStatus idx c).besideStatus = e.besideStatus := rfl

@[simp] theorem StepEntry.closeUnreached_besideStatus (e : StepEntry) (c : Byte) :
    (e.closeUnreached c).besideStatus = e.besideStatus := by
  unfold StepEntry.closeUnreached
  refine foldl_keeps StepEntry.besideStatus (fun e k => ?_) _ e
  split
  · exact e.setStatus_besideStatus _ c
  · rfl

/-! ### Final entries (R148, R149) -/

/-- A step that closes is taken out of the scheduler, with what may be repeated of it, the count of unconfirmed steps and the
run of the dry time brought up to date. -/
theorem State.closeStep_stp (s : State) (e : StepEntry) : ∃ tail n dry, (s.closeStep e).stp = { s.stp with
    steps := s.stp.steps.filter (fun x => decide (x.seq ≠ e.seq)), tail := tail, unconfCnt := n, dryRuns := dry } := by
  simp only [State.closeStep, State.closeStepWith, apply_ite State.stp, State.postEntry_stp, State.hostWrite_stp, ite_self,
    State.unclaimActions_stp, State.mirrorStep_stp]
  exact ⟨_, _, _, rfl⟩

theorem State.closeStep_steps (s : State) (e : StepEntry) :
    (s.closeStep e).stp.steps = s.stp.steps.filter (fun x => decide (x.seq ≠ e.seq)) := by
  obtain ⟨tail, n, dry, h⟩ := s.closeStep_stp e
  rw [h]

@[simp] theorem State.closeStep_lastRing (s : State) (e : StepEntry) : (s.closeStep e).stp.lastRing = s.stp.lastRing := by
  obtain ⟨tail, n, dry, h⟩ := s.closeStep_stp e
  rw [h]

theorem State.findStep_closeStep (s : State) (e : StepEntry) : (s.closeStep e).findStep e.seq = none := by
  simp [State.findStep, State.closeStep_steps]

/-- A step with an open action does not close. -/
theorem State.checkStep_of_open {s : State} {seq : Word} {e : StepEntry} (hfind : s.findStep seq = some e)
    (hopen : e.status.any (fun x => x.isNone) = true) : s.checkStep seq = s := by
  have hover : e.over = false := by
    obtain ⟨x, hx, hnone⟩ := List.any_eq_true.mp hopen
    have hall : e.status.all (fun x => x.isSome) = false :=
      List.all_eq_false.mpr ⟨x, hx, by simpa using hnone⟩
    simp [StepEntry.over, hall]
  simp [State.checkStep, hfind, hover]

/-- The steps that are pending after the closing of one were pending before. -/
theorem State.mem_checkStep {s : State} {seq : Word} {x : StepEntry} (hx : x ∈ (s.checkStep seq).stp.steps) :
    x ∈ s.stp.steps := by
  unfold State.checkStep at hx
  split at hx
  · split at hx
    · rw [State.closeStep_steps] at hx
      exact List.mem_of_mem_filter hx
    · exact hx
  · exact hx

@[simp] theorem State.checkStep_lastRing (s : State) (seq : Word) : (s.checkStep seq).stp.lastRing = s.stp.lastRing := by
  unfold State.checkStep
  split
  · split
    · exact State.closeStep_lastRing _ _
    · rfl
  · rfl

/-! ### Frames of the link (R376) -/

/-- A valid frame has its effect on a State whose link part alone has noted the frame. -/
theorem State.received_valid {s : State} {h : FrameHdr} {kind : Nat} (f : State → State) (htakes : s.takesFrames = true)
    (hcrc : h.crcOk = true) (hfits : s.frameFits h kind = true) :
    ∃ g : WagState, s.received h kind f = .next (f (s.setWag g)) := by
  have hok : (s.takeFrame h kind).2 = true := by simp [State.takeFrame, hcrc, hfits]
  exact ⟨_, by simp only [State.received, htakes, hok]; rfl⟩

@[simp] theorem WagState.noteFrame_crcErr (g : WagState) (h : FrameHdr) (ok : Bool) : (g.noteFrame h ok).crcErr = g.crcErr := by
  unfold WagState.noteFrame
  split
  · rfl
  · dsimp only
    split <;> rfl

/-- A frame with a bad CRC is counted as such, and noted in its window. -/
theorem State.received_badCrc {s : State} {h : FrameHdr} (kind : Nat) (f : State → State) (htakes : s.takesFrames = true)
    (hcrc : h.crcOk = false) : s.received h kind f =
      .next { s with wag := { (s.wag.noteFrame h false) with crcErr := satInc 0xFFFF s.wag.crcErr } } := by
  simp [State.received, State.takeFrame, State.setWag, htakes, hcrc]

end Sys2Proof.Machine
end

section
/-! PROOFS. STEP, its deferred admission, CANCEL and FLUSH on the HIVE (R119, R122, R131, R142, R146, R150, R151). -/

namespace Sys2Proof.Machine

/-! ### Acceptance (R130, R131, R142) -/

/-- A step as it enters the scheduler: armed unless it is atomic, and committed where no station takes part. -/
def StepEntry.entered (k : StepEntry) : StepEntry :=
  { k with committed := k.atomic && k.stations.isEmpty, armed := (!k.atomic || k.stations.isEmpty) && !k.local0.isEmpty }

/-- The scheduler with step k pending beside the others. -/
def StpState.enter (p : StpState) (k : StepEntry) : StpState :=
  { p with
    steps := p.steps ++ [k.entered], accSeq := k.seq, peak := max p.peak (p.steps.length + 1), dry := false, dryRuns := false }

theorem State.enterStep_stp (s : State) (k : StepEntry) : (s.enterStep k).stp = s.stp.enter k := rfl

theorem State.findStep_enterStep {s : State} {k : StepEntry} (hnew : s.findStep k.seq = none) :
    (s.enterStep k).findStep k.seq = some k.entered := by
  rw [State.findStep] at hnew ⊢
  simp [State.enterStep_stp, StpState.enter, hnew, StepEntry.entered]

/-- A step with an open action is pending once it is accepted. -/
theorem State.acceptStep_stp {s : State} {k : StepEntry} (p : Pair) (e : Entry) (slack : Int) (hnew : s.findStep k.seq = none)
    (hopen : k.status.any (fun x => x.isNone) = true) : (s.acceptStep p e k slack).stp = s.stp.enter k := by
  unfold State.acceptStep
  extract_lets us u
  have hmirrored : (u.mirrorStep (leBytes 64 e.raw.toNat) e.data).stp = s.stp := State.mirrorStep_stp u _ _
  rw [State.checkStep_of_open (e := k.entered) _ hopen, State.enterStep_stp, hmirrored]
  exact State.findStep_enterStep ((State.findStep_congr (congrArg StpState.steps hmirrored) k.seq).trans hnew)

section
variable {s : State} {p : Pair} {e : Entry} (htake : s.takeOp p.val 0 1 = some e)
include htake

theorem State.stepFront_elsewhere (hhive : s.roleHive = false) : s.stepFront p = s.refuseStep p e 0x10 := by
  cases hcanon : stepNoncanon e <;> simp [State.stepFront, State.takeStep, htake, hhive, hcanon]

/-- A STEP that passes every check and the lead test is accepted. -/
theorem State.stepFront_accepts {k : StepEntry} {slack : Int} (hhive : s.roleHive = true) (hroom : s.stp.steps.length < 96)
    (hcanon : stepNoncanon e = none) (hentry : s.stepEntry p e ((List.range (e.bytes 28 2)).map (actionAt e.data)) = k)
    (hfault : s.stepFault e ((List.range (e.bytes 28 2)).map (actionAt e.data)) k.instant k.atomic = none)
    (hlead : s.admittedAs { instant := k.instant, lead := k.lead, unsent := k.nf, new := true } = some slack) :
    s.stepFront p = s.acceptStep p e k slack := by
  simp [State.stepFront, State.takeStep, htake, hhive, hroom, hcanon, hentry, hfault, hlead]

end

theorem exec_step {s : State} {p : Pair} (hturn : s.stepTurn p = true) :
    exec (.step p) s = .next ((s.turnTaken p).stepFront p) := by
  change execStep p s = _
  simp [execStep, hturn]

theorem exec_stepDeferredAdmit {s : State} {p : Pair} (hturn : s.stepTurn p = true) (hroom : s.stp.steps.length < 96) :
    exec (.stepDeferredAdmit p) s = .next ((s.turnTaken p).stepFront p) := by
  change execStepDeferredAdmit p s = _
  simp [execStepDeferredAdmit, hturn, hroom]

/-- What STEP and its deferred admission leave of a STEP that passes. -/
theorem stepFront_completes {s : State} {p : Pair} {e : Entry} {k : StepEntry} {slack : Int} {c : Instr}
    (hnext : exec c s = .next ((s.turnTaken p).stepFront p)) (hparts : covers [.hif, .stp, .fio, .twn, .out] (partsOf c) = true)
    (htake : s.takeOp p.val 0 1 = some e) (hhive : s.roleHive = true) (hroom : s.stp.steps.length < 96)
    (hcanon : stepNoncanon e = none) (hentry : s.stepEntry p e ((List.range (e.bytes 28 2)).map (actionAt e.data)) = k)
    (hfault : s.stepFault e ((List.range (e.bytes 28 2)).map (actionAt e.data)) k.instant k.atomic = none)
    (hlead : s.admittedAs { instant := k.instant, lead := k.lead, unsent := k.nf, new := true } = some slack)
    (hnew : s.findStep k.seq = none) (hopen : k.status.any (fun x => x.isNone) = true) :
    Completes [.hif, .stp, .fio, .twn, .out] c s fun t =>
      t.stp.accSeq = s.stp.accSeq + 1 ∧ (t.findStep k.seq).isSome = true ∧ t.stp.lateCnt = s.stp.lateCnt ∧
        t.stp.lastRing = p.val := by
  have hstp : ((s.turnTaken p).stepFront p).stp = (s.turnTaken p).stp.enter k := by
    rw [State.stepFront_accepts (s := s.turnTaken p) htake hhive hroom hcanon hentry hfault hlead]
    exact State.acceptStep_stp p e slack (s := s.turnTaken p) hnew hopen
  have hfound : ((s.turnTaken p).stepFront p).findStep k.seq = some k.entered :=
    (State.findStep_congr (congrArg StpState.steps hstp) k.seq).trans (State.findStep_enterStep (s := s.turnTaken p) hnew)
  have hseq : k.seq = s.stp.accSeq + 1 := hentry ▸ rfl
  refine completes_of_exec hnext ⟨?_, by rw [hfound]; rfl, ?_, ?_⟩ hparts <;> rw [hstp]
  · exact hseq
  · rfl
  · rfl

/-! ### Steps that go on (R150) -/

/-- Step x is step e after a while: its number, ring and cut-off are the same, and cancelled it stays so. -/
structure StepEntry.GoesOnAs (e x : StepEntry) : Prop where
  seq : x.seq = e.seq
  pair : x.pair = e.pair
  cutOff : x.cutOff = e.cutOff
  cancelled : e.cancelled = true → x.cancelled = true

theorem StepEntry.GoesOnAs.refl (e : StepEntry) : e.GoesOnAs e := ⟨rfl, rfl, rfl, id⟩

theorem StepEntry.GoesOnAs.trans {e x y : StepEntry} (h : e.GoesOnAs x) (g : x.GoesOnAs y) : e.GoesOnAs y :=
  ⟨g.seq.trans h.seq, g.pair.trans h.pair, g.cutOff.trans h.cutOff, fun hc => g.cancelled (h.cancelled hc)⟩

theorem StepEntry.GoesOnAs.of_besideStatus {e x : StepEntry} (h : x.besideStatus = e.besideStatus) : e.GoesOnAs x :=
  ⟨(congrArg StepEntry.seq h :), (congrArg StepEntry.pair h :), (congrArg StepEntry.cutOff h :),
    fun hc => (congrArg StepEntry.cancelled h :).trans hc⟩

theorem StepEntry.closeUnreached_goesOnAs (e : StepEntry) (c : Byte) : e.GoesOnAs (e.closeUnreached c) :=
  .of_besideStatus (e.closeUnreached_besideStatus c)

/-- Every step pending in t was pending in s, and has gone on. -/
def State.StepsGoOn (s t : State) : Prop := ∀ x ∈ t.stp.steps, ∃ e ∈ s.stp.steps, e.GoesOnAs x

theorem State.StepsGoOn.refl (s : State) : s.StepsGoOn s := fun x hx => ⟨x, hx, .refl x⟩

theorem State.StepsGoOn.trans {s t u : State} (h : s.StepsGoOn t) (g : t.StepsGoOn u) : s.StepsGoOn u := by
  intro y hy
  obtain ⟨x, hx, hxy⟩ := g y hy
  obtain ⟨e, he, hex⟩ := h x hx
  exact ⟨e, he, hex.trans hxy⟩

theorem State.StepsGoOn.of_stp {s t : State} (h : t.stp = s.stp) : s.StepsGoOn t := fun x hx => ⟨x, h ▸ hx, .refl x⟩

section
variable {s t : State} (h : s.StepsGoOn t)
include h

theorem State.StepsGoOn.modStep {seq : Word} {f : StepEntry → StepEntry} (hf : ∀ e : StepEntry, e.GoesOnAs (f e)) :
    s.StepsGoOn (t.modStep seq f) := by
  refine h.trans fun x hx => ?_
  obtain ⟨e, he, rfl⟩ := List.mem_map.mp hx
  refine ⟨e, he, ?_⟩
  split
  · exact hf e
  · exact .refl e

theorem State.StepsGoOn.checkStep (seq : Word) : s.StepsGoOn (t.checkStep seq) :=
  h.trans fun x hx => ⟨x, State.mem_checkStep hx, .refl x⟩

theorem State.StepsGoOn.dropLocal (seq : Word) (c : Byte) : s.StepsGoOn (t.dropLocal seq c) := by
  unfold State.dropLocal
  extract_lets handed u
  have hu : s.StepsGoOn u := h.trans (.of_stp (by unfold u; split <;> rfl))
  refine State.StepsGoOn.trans (hu.modStep fun e => ?_) (.of_stp (State.unclaimActions_stp _ _))
  exact ⟨rfl, rfl, rfl, id⟩

theorem State.StepsGoOn.abortStep (seq : Word) (c : Byte) : s.StepsGoOn (t.abortStep seq c) := by
  refine ((h.dropLocal seq c).modStep fun e => ?_).checkStep seq
  exact (e.closeUnreached_goesOnAs c).trans ⟨rfl, rfl, rfl, id⟩

end

/-! ### Cancellation (R150, R151) -/

/-- The state with step k marked as cancelled. -/
def State.markCancelled (s : State) (k : StepEntry) : State :=
  s.modStep k.seq (fun e => { e with cancelled := true, relaying := false })

theorem State.markCancelled_stepsGoOn (s : State) (k : StepEntry) : (s.markCancelled k).StepsGoOn (s.cancelStep k) := by
  have hdropped := (State.StepsGoOn.refl (s.markCancelled k)).dropLocal k.seq 0x01
  unfold State.cancelStep
  dsimp only
  split
  · refine (hdropped.modStep fun e => ?_).abortStep k.seq 0x01
    exact ⟨rfl, rfl, rfl, id⟩
  · refine (hdropped.modStep fun e => ?_).checkStep k.seq
    exact (e.closeUnreached_goesOnAs 0x01).trans ⟨rfl, rfl, rfl, id⟩

theorem State.cancelStep_stepsGoOn (s : State) (k : StepEntry) : s.StepsGoOn (s.cancelStep k) := by
  refine State.StepsGoOn.trans (t := s.markCancelled k) ((State.StepsGoOn.refl s).modStep fun e => ?_) (s.markCancelled_stepsGoOn k)
  exact ⟨rfl, rfl, rfl, fun _ => rfl⟩

/-- No step of a number is pending that is not cancelled. -/
def State.CancelledAt (seq : Word) (s : State) : Prop := ∀ x ∈ s.stp.steps, x.seq = seq → x.cancelled = true

theorem State.CancelledAt.goOn {s t : State} {seq : Word} (h : s.CancelledAt seq) (g : s.StepsGoOn t) : t.CancelledAt seq := by
  intro x hx hseq
  obtain ⟨e, he, hex⟩ := g x hx
  exact hex.cancelled (h e he (hex.seq.symm.trans hseq))

theorem State.cancelStep_cancelledAt (s : State) (k : StepEntry) : (s.cancelStep k).CancelledAt k.seq :=
  State.CancelledAt.goOn (s := s.markCancelled k) (State.modStep_brings (P := (·.cancelled = true)) (fun _ => rfl) s k.seq)
    (s.markCancelled_stepsGoOn k)

@[simp] theorem State.dropLocal_lastRing (s : State) (seq : Word) (c : Byte) :
    (s.dropLocal seq c).stp.lastRing = s.stp.lastRing := by
  unfold State.dropLocal
  extract_lets handed u
  have hu : u.stp = s.stp := by unfold u; split <;> rfl
  exact (congrArg StpState.lastRing hu :)

@[simp] theorem State.modStep_lastRing (s : State) (seq : Word) (f : StepEntry → StepEntry) :
    (s.modStep seq f).stp.lastRing = s.stp.lastRing := rfl

@[simp] theorem State.abortStep_lastRing (s : State) (seq : Word) (c : Byte) :
    (s.abortStep seq c).stp.lastRing = s.stp.lastRing := by simp [State.abortStep]

@[simp] theorem State.cancelStep_lastRing (s : State) (k : StepEntry) : (s.cancelStep k).stp.lastRing = s.stp.lastRing := by
  unfold State.cancelStep
  dsimp only
  split <;> simp

/-- A step that is not cancelled yet is cancelled, and its twin told. -/
def State.cancelOpen (s : State) (k : StepEntry) : State :=
  if k.cancelled then s else (s.mirrorStep (cancelDesc k.stepId) []).cancelStep k

theorem State.cancelOpen_stepsGoOn (s : State) (k : StepEntry) : s.StepsGoOn (s.cancelOpen k) := by
  unfold State.cancelOpen
  split
  · exact .refl s
  · exact (State.StepsGoOn.of_stp (State.mirrorStep_stp s _ _)).trans (State.cancelStep_stepsGoOn _ k)

theorem State.cancelOpen_cancelledAt (s : State) {k : StepEntry} (hopen : k.cancelled = false) :
    (s.cancelOpen k).CancelledAt k.seq := by
  simp only [State.cancelOpen, hopen]
  exact State.cancelStep_cancelledAt _ k

@[simp] theorem State.cancelOpen_lastRing (s : State) (k : StepEntry) : (s.cancelOpen k).stp.lastRing = s.stp.lastRing := by
  unfold State.cancelOpen
  split <;> simp

theorem State.foldl_cancelOpen_stepsGoOn (l : List StepEntry) (s : State) : s.StepsGoOn (l.foldl State.cancelOpen s) :=
  List.foldlRecOn l State.cancelOpen (State.StepsGoOn.refl s) fun _ h k _ => h.trans (State.cancelOpen_stepsGoOn _ k)

/-- Cancelling the steps of a list leaves each of them cancelled or closed. -/
theorem State.foldl_cancelOpen_cancels {s : State} {l : List StepEntry} {e x : StepEntry} (he : e ∈ l)
    (hx : x ∈ (l.foldl State.cancelOpen s).stp.steps) (hex : e.GoesOnAs x) : x.cancelled = true := by
  cases hopen : e.cancelled with
  | true => exact hex.cancelled hopen
  | false =>
    have hall : (l.foldl State.cancelOpen s).CancelledAt e.seq :=
      foldl_of_mem (P := State.CancelledAt e.seq) (fun u k hu => hu.goOn (u.cancelOpen_stepsGoOn k))
        (fun u => u.cancelOpen_cancelledAt hopen) he s
    exact hall x hx hex.seq

/-! ### CANCEL and FLUSH (R120, R146) -/

@[simp] theorem State.turnTaken_roleHive (s : State) (p : Pair) : (s.turnTaken p).roleHive = s.roleHive := rfl
@[simp] theorem State.turnTaken_steps (s : State) (p : Pair) : (s.turnTaken p).stp.steps = s.stp.steps := rfl
@[simp] theorem State.turnTaken_cancelInTime (s : State) (p : Pair) (k : StepEntry) :
    (s.turnTaken p).cancelInTime k = s.cancelInTime k := rfl

section
variable {s : State} {p : Pair} {e : Entry} (hturn : s.stepTurn p = true) (hhive : s.roleHive = true)
include hturn hhive

section
variable (htake : s.takeOp p.val 0 2 = some e)
include htake

theorem exec_stepCancel_unknown (hnone : s.stp.steps.find? (fun k => decide (k.stepId.toNat = e.bytes 24 4)) = none) :
    exec (.stepCancel p) s = .next ((s.turnTaken p).finish p.val e.sub 0x1C (cancelResult (e.bytes 24 4))) := by
  change execStepCancel p s = _
  simp [execStepCancel, htake, hturn, hhive, hnone]

variable {k : StepEntry} (hsome : s.stp.steps.find? (fun k => decide (k.stepId.toNat = e.bytes 24 4)) = some k)
include hsome

theorem exec_stepCancel_late (hlate : s.cancelInTime k = false) :
    exec (.stepCancel p) s = .next ((s.turnTaken p).finish p.val e.sub 0x1B (cancelResult (e.bytes 24 4))) := by
  change execStepCancel p s = _
  simp [execStepCancel, htake, hturn, hhive, hsome, hlate]

theorem exec_stepCancel (hearly : s.cancelInTime k = true) :
    exec (.stepCancel p) s =
      .next (((s.turnTaken p).finish p.val e.sub 0 (cancelResult (e.bytes 24 4))).cancelOpen k) := by
  change execStepCancel p s = _
  simp [execStepCancel, State.cancelOpen, htake, hturn, hhive, hsome, hearly]

end

/-- The steps of ring p whose cut-off has not passed. -/
def State.flushed (s : State) (p : Pair) : List StepEntry :=
  (s.stp.steps.filter (fun k => decide (k.pair = p))).filter s.cancelInTime

theorem exec_stepFlush (htake : s.takeOp p.val 0 3 = some e) :
    ∃ result, exec (.stepFlush p) s =
      .next ((s.flushed p).foldl State.cancelOpen ((s.turnTaken p).finish p.val e.sub 0 result)) := by
  change ∃ result, execStepFlush p s = _
  simp only [execStepFlush, htake, hturn, State.turnTaken_roleHive, hhive, Bool.not_true, Bool.false_eq_true, if_false]
  exact ⟨_, rfl⟩

end

/-- After a FLUSH each step of the ring that is in time is cancelled or closed. -/
theorem State.flush_cancels {s u : State} (hu : u.stp.steps = s.stp.steps) (p : Pair) :
    ((s.flushed p).foldl State.cancelOpen u).stp.steps.all
      (fun x => decide (x.pair ≠ p) || !s.cancelInTime x || x.cancelled) = true := by
  rw [List.all_eq_true]
  intro x hx
  obtain ⟨e, he, hex⟩ := State.foldl_cancelOpen_stepsGoOn (s.flushed p) u x hx
  by_cases hpair : x.pair = p
  · cases hearly : s.cancelInTime x with
    | false => simp
    | true =>
      have hin : e ∈ s.flushed p := by
        have hearly' : s.cancelInTime e = true := by rw [State.cancelInTime, ← hex.cutOff]; exact hearly
        simp [State.flushed, ← hu, he, ← hex.pair, hpair, hearly']
      simp [State.foldl_cancelOpen_cancels hin hx hex]
  · simp [hpair]

/-- Settles O13: a STEP that passes enters the scheduler and stays there while an action is open; what CANCEL and FLUSH mark as
cancelled stays so until it closes. -/
theorem stepsOnTheHive : Obligations.StepsOnTheHive := by
  unfold Obligations.StepsOnTheHive
  refine ⟨?step, ?deferred, ?elsewhere, ?cancel, ?unknown, ?late, ?flush⟩
  case step =>
    exact fun s p e k slack htake hturn hhive hroom hcanon hentry hfault hlead hnew hopen =>
      stepFront_completes (exec_step hturn) rfl htake hhive hroom hcanon hentry hfault hlead hnew hopen
  case deferred =>
    exact fun s p e k slack htake hturn hhive hroom hcanon hentry hfault hlead hnew hopen =>
      stepFront_completes (exec_stepDeferredAdmit hturn hroom) rfl htake hhive hroom hcanon hentry hfault hlead hnew hopen
  case elsewhere =>
    exact fun s p e htake hturn hhive =>
      (exec_step hturn).trans (congrArg _ (State.stepFront_elsewhere (s := s.turnTaken p) htake hhive))
  case cancel =>
    intro s p e k htake hturn hhive hsome hearly
    refine completes_of_exec (exec_stepCancel hturn hhive htake hsome hearly) ⟨?_, State.cancelOpen_lastRing _ k⟩ rfl
    cases hopen : k.cancelled with
    | true => exact .inr rfl
    | false =>
      refine .inl (List.all_eq_true.mpr fun x hx => ?_)
      have hx' := State.cancelOpen_cancelledAt _ hopen x hx
      by_cases hseq : x.seq = k.seq
      · simp [hx' hseq]
      · simp [hseq]
  case unknown => exact fun s p e htake hturn hhive hnone => exec_stepCancel_unknown hturn hhive htake hnone
  case late => exact fun s p e k htake hturn hhive hsome hlate => exec_stepCancel_late hturn hhive htake hsome hlate
  case flush =>
    intro s p e htake hturn hhive
    obtain ⟨result, hnext⟩ := exec_stepFlush hturn hhive htake
    exact completes_of_exec hnext ⟨State.flush_cancels rfl p,
      foldl_keeps (fun t : State => t.stp.lastRing) State.cancelOpen_lastRing _ _⟩ rfl

end Sys2Proof.Machine
end

section
/-! PROOFS. Relay frames, STEP_CTRL entries and the part deadline on a station (R135 to R140, R143, R376). -/

namespace Sys2Proof.Machine

/-! ### Relay frames (R135 to R137) -/

/-- The part that the first relay frame of a step opens. -/
def firstPart (f : RelayFrame) : Part :=
  { seq := f.seq, instant := f.instant, atomic := tbit f.flags 0, nf := f.nf }

/-- The state in which a part stands beside the others. -/
def State.addPart (s : State) (x : Part) : State := { s with stp := { s.stp with parts := s.stp.parts ++ [x] } }

theorem State.addPart_findPart {s : State} {x : Part} (hnew : s.findPart x.seq = none) : (s.addPart x).findPart x.seq = some x := by
  rw [State.findPart] at hnew ⊢
  simp [State.addPart, hnew]

/-- A change of the newest part, the only one of its number. -/
theorem State.addPart_modPart {s : State} {x : Part} (hnew : s.findPart x.seq = none) (f : Part → Part) :
    (s.addPart x).modPart x.seq f = s.addPart (f x) := by
  have hothers : s.stp.parts.map (fun y => if y.seq = x.seq then f y else y) = s.stp.parts :=
    (List.map_congr_left fun y hy => if_neg (by simpa using List.find?_eq_none.mp hnew y hy)).trans (List.map_id _)
  simp [State.modPart, State.addPart, hothers]

/-- A part that only keeps what it has got is none of those pending (R143). -/
theorem State.addPart_partCount (s : State) (x : Part) (hst : x.st = .notMine) : (s.addPart x).partCount = s.partCount := by
  simp [State.partCount, State.addPart, hst]

section
variable {s : State} {f : RelayFrame} (hnew : s.findPart f.seq = none)
  (hearly : 0 ≤ s.time.tb1.tickOf (tadd f.instant (-2000)))
include hnew hearly

/-- A first frame that does not name this station is kept. -/
theorem State.takeRelay_keeps (hothers : f.actions.any (fun a => decide (aStn a = s.station)) = false) :
    s.takeRelay f = s.addPart { firstPart f with got := [(f.index, f.actions)] } := by
  have hadd := State.addPart_modPart (x := (firstPart f)) hnew (fun _ => { firstPart f with got := [(f.index, f.actions)] })
  rw [← hadd]
  simp [State.takeRelay, hnew, Int.not_lt.mpr hearly, hothers, firstPart, State.addPart]

/-- A first frame that names this station completes the part where it is the only one. -/
theorem State.takeRelay_completes (hnamed : f.actions.any (fun a => decide (aStn a = s.station)) = true)
    (hroom : s.partCount < 96) (honly : f.nf ≤ 1) :
    s.takeRelay f = (s.addPart { firstPart f with got := [(f.index, f.actions)], st := .collecting }).completePart
      { firstPart f with got := [(f.index, f.actions)], st := .collecting } := by
  have hadd := State.addPart_modPart (x := (firstPart f)) hnew
    (fun _ => { firstPart f with got := [(f.index, f.actions)], st := .collecting })
  have hroom' : ¬ 96 ≤ (s.addPart (firstPart f)).partCount := by
    rw [s.addPart_partCount (firstPart f) rfl]
    omega
  rw [firstPart, State.addPart] at hroom'
  rw [← hadd]
  simp [State.takeRelay, hnew, Int.not_lt.mpr hearly, hnamed, firstPart, State.addPart, honly, hroom']

end

theorem State.completePart_findPart {s : State} {x y : Part} (hfind : s.findPart x.seq = some y) :
    ((s.completePart x).findPart x.seq).map (fun z => z.st) = some .answering := by
  unfold State.completePart
  rw [State.findPart_modPart_some hfind (by exact fun _ => rfl)]
  rfl

/-! ### COMMIT, ABORT and CANCEL (R139, R140, R150) -/

/-- A part that is held here, complete and not ended, ends with the status. -/
theorem State.discardPart_findPart {s : State} {seq : Word} {x : Part} (c : Byte) (hfind : s.findPart seq = some x)
    (hst : x.st = .waiting ∨ x.st = .armed) : (s.discardPart x c).findPart seq = some (x.endWith s.station c) := by
  obtain rfl := State.findPart_seq hfind
  unfold State.discardPart
  extract_lets k u v
  have hparts : v.stp.parts = s.stp.parts := by
    unfold v u
    split_ifs <;> rfl
  have hended : (v.modPart x.seq (fun y => y.endWith k c)).findPart x.seq = some (x.endWith s.station c) :=
    State.findPart_modPart_some ((State.findPart_congr hparts _).trans hfind) fun _ => rfl
  rcases hst with hst | hst <;> rw [hst] <;> exact hended

theorem State.armPart_findPart {s : State} {seq : Word} {x : Part} (hfind : s.findPart seq = some x) :
    (s.armPart x).findPart seq = some { x with st := .armed } := by
  obtain rfl := State.findPart_seq hfind
  unfold State.armPart
  rw [State.findPart_congr (congrArg StpState.parts (State.claimActions_stp _ _ _))]
  exact State.findPart_modPart_some hfind fun _ => rfl

section
variable {s : State} {seq : Word} {x : Part} (hfind : s.findPart seq = some x)
include hfind

theorem State.takeCtrl_commit (hst : x.st = .waiting) : (s.takeCtrl .commit seq).findPart seq = some { x with st := .armed } := by
  simpa [State.takeCtrl, hfind, hst] using State.armPart_findPart hfind

theorem State.takeCtrl_abort (hst : x.st = .waiting) :
    (s.takeCtrl .abort seq).findPart seq = some (x.endWith s.station 0x08) := by
  simpa [State.takeCtrl, hfind, hst] using State.discardPart_findPart 0x08 hfind (.inl hst)

theorem State.takeCtrl_cancel (hst : x.st = .armed) :
    (s.takeCtrl .cancel seq).findPart seq = some (x.endWith s.station 0x01) := by
  simpa [State.takeCtrl, hfind] using State.discardPart_findPart 0x01 hfind (.inr hst)

end

/-- What a valid frame with one STEP_CTRL entry leaves is what the entry leaves, whatever the link part notes of the frame. -/
theorem stepCtrlReceive_completes {s : State} {h : FrameHdr} {op : CtrlOp} {seq : Word} {P : State → Prop}
    (htakes : s.takesFrames = true) (hcrc : h.crcOk = true) (hfits : s.frameFits h 0x11 = true)
    (hP : ∀ g : WagState, P ((s.setWag g).takeCtrl op seq)) :
    Completes [.stp, .fio, .wag] (.stepCtrlReceive h [(op, seq)]) s P := by
  obtain ⟨g, hnext⟩ := State.received_valid
    (fun s => [(op, seq)].foldl (fun (s : State) x => s.takeCtrl x.1 x.2) s) htakes hcrc hfits
  exact completes_of_exec (c := .stepCtrlReceive h [(op, seq)]) hnext (hP g) rfl

/-! ### The part deadline (R130, R137, R140) -/

/-- What is repeated of a closed step of this number has its part deadline here. -/
def State.tailEnded (s : State) (seq : Word) : State :=
  { s with stp := { s.stp with tail := s.stp.tail.filter (fun x => decide (x.2.1 ≠ seq) || !s.reached x.2.2) } }

/-- A step after the part deadline on its HIVE: nothing of it is sent any more, and its stations have answered, or never will. -/
def StepEntry.partEnded (e x : StepEntry) : StepEntry :=
  let c : Byte := if e.cancelled then 0x01 else if e.aborted then 0x08 else 0x03
  let mute := e.stations.filter (fun k => !e.answers.any (fun x => decide (x.1 = k)))
  { mute.foldl (fun e k => e.setStatus (e.mine k) c) x with
    relaying := false, ctrlOpen := false, answers := x.answers ++ mute.map (fun k => (k, 0)) }

@[simp] theorem State.discardPart_steps (s : State) (x : Part) (c : Byte) : (s.discardPart x c).stp.steps = s.stp.steps := by
  unfold State.discardPart
  extract_lets k u v
  have hsteps : v.stp.steps = s.stp.steps := by
    unfold v u
    split_ifs <;> rfl
  repeat' split
  all_goals exact hsteps

@[simp] theorem State.handPart_steps (s : State) (x : Part) : (s.handPart x).stp.steps = s.stp.steps := by
  unfold State.handPart
  split
  · rfl
  · exact (congrArg StpState.steps (State.handOver_stp s _ _ _) :)

@[simp] theorem State.partDeadlineHere_steps (s : State) (x : Part) : (s.partDeadlineHere x).stp.steps = s.stp.steps := by
  unfold State.partDeadlineHere
  repeat' split
  all_goals simp [State.dropPart]

section
variable {s : State} {seq : Word}

/-- On a HIVE that holds no part of the step. -/
theorem exec_partDeadline_hive {e : StepEntry} (hpart : s.findPart seq = none) (hstep : s.findStep seq = some e)
    (hreached : s.reached e.partDeadline = true) :
    exec (.partDeadline seq) s = .next ((((s.tailEnded seq).handStep e).modStep seq e.partEnded).checkStep seq) := by
  have hpart' : (s.tailEnded seq).findPart seq = none := hpart
  have hstep' : (s.tailEnded seq).findStep seq = some e := hstep
  have hreached' : (s.tailEnded seq).reached e.partDeadline = true := hreached
  rw [State.tailEnded] at hpart' hstep' hreached'
  change execPartDeadline seq s = _
  simp only [execPartDeadline, hpart', hstep', hreached', Bool.not_true, Bool.false_eq_true, if_false]
  rfl

section
variable {x : Part} (hpart : s.findPart seq = some x)
include hpart

/-- On a station that has no step of that number. -/
theorem exec_partDeadline_station (hstep : s.findStep seq = none) (hreached : s.reached (stepPartDeadline x.instant) = true) :
    exec (.partDeadline seq) s = .next ((s.tailEnded seq).partDeadlineHere x) := by
  have hpart' : (s.tailEnded seq).findPart seq = some x := hpart
  have hstep' : ((s.tailEnded seq).partDeadlineHere x).findStep seq = none :=
    (State.findStep_congr (State.partDeadlineHere_steps _ x) seq).trans hstep
  have hreached' : (s.tailEnded seq).reached (stepPartDeadline x.instant) = true := hreached
  rw [State.tailEnded] at hpart' hstep' hreached'
  change execPartDeadline seq s = _
  simp only [execPartDeadline, hpart', hreached', if_true, hstep']
  rfl

theorem exec_partDeadline_early {e : StepEntry} (hstep : s.findStep seq = some e)
    (hpartEarly : s.reached (stepPartDeadline x.instant) = false) (hstepEarly : s.reached e.partDeadline = false) :
    exec (.partDeadline seq) s = .next (s.tailEnded seq) := by
  have hpart' : (s.tailEnded seq).findPart seq = some x := hpart
  have hstep' : (s.tailEnded seq).findStep seq = some e := hstep
  have hpartEarly' : (s.tailEnded seq).reached (stepPartDeadline x.instant) = false := hpartEarly
  have hstepEarly' : (s.tailEnded seq).reached e.partDeadline = false := hstepEarly
  rw [State.tailEnded] at hpart' hstep' hpartEarly' hstepEarly'
  change execPartDeadline seq s = _
  simp only [execPartDeadline, hpart', hpartEarly', Bool.false_eq_true, if_false, hstep', hstepEarly', Bool.not_false, if_true]
  rfl

end

theorem State.tailEnded_of_empty (h : s.stp.tail = []) : s.tailEnded seq = s := by
  have htail : { s.stp with tail := s.stp.tail.filter (fun x => decide (x.2.1 ≠ seq) || !s.reached x.2.2) } = s.stp := by
    rw [h, List.filter_nil, ← h]
  rw [State.tailEnded, htail]

end

/-- A HIVE relays and decides on no step any more whose part deadline it has met. -/
theorem partDeadline_hive_completes {s : State} {seq : Word} {e : StepEntry} (hpart : s.findPart seq = none)
    (hstep : s.findStep seq = some e) (hreached : s.reached e.partDeadline = true) :
    Completes [.hif, .stp, .fio, .twn, .out] (.partDeadline seq) s fun t =>
      t.stp.steps.all (fun x => decide (x.seq ≠ seq) || (!x.relaying && !x.ctrlOpen)) = true := by
  refine completes_of_exec (exec_partDeadline_hive hpart hstep hreached) (List.all_eq_true.mpr fun x hx => ?_) rfl
  by_cases hseq : x.seq = seq
  · have hquiet := State.modStep_brings (P := fun x => x.relaying = false ∧ x.ctrlOpen = false) (f := e.partEnded)
      (fun x => ⟨rfl, rfl⟩) _ seq x (State.mem_checkStep hx) hseq
    simp [hquiet]
  · simp [hseq]

/-- Settles O14: a relay frame opens a part, STEP_CTRL entries change the part they name, and the part deadline ends what waits. -/
theorem stepsOnAStation : Obligations.StepsOnAStation := by
  unfold Obligations.StepsOnAStation
  refine ⟨?kept, ?complete, ?badCrc, ?commit, ?abort, ?cancel, ?hive, ?waiting, ?collecting, ?early⟩
  case kept =>
    intro s h f htakes hcrc hfits hnew hearly hothers
    obtain ⟨g, hnext⟩ := State.received_valid (fun s => s.takeRelay f) htakes hcrc hfits
    refine completes_of_exec (c := .stepRelayReceive ⟨h, f⟩) hnext ?_ rfl
    rw [State.takeRelay_keeps (s := s.setWag g) hnew hearly hothers]
    rfl
  case complete =>
    intro s h f htakes hcrc hfits hnew hearly hnamed hroom honly
    obtain ⟨g, hnext⟩ := State.received_valid (fun s => s.takeRelay f) htakes hcrc hfits
    refine completes_of_exec (c := .stepRelayReceive ⟨h, f⟩) hnext ?_ rfl
    rw [State.takeRelay_completes (s := s.setWag g) hnew hearly hnamed hroom honly]
    exact State.completePart_findPart (State.addPart_findPart (s := s.setWag g) hnew)
  case badCrc =>
    exact fun s h f htakes hcrc => State.received_badCrc 0x10 (fun s => s.takeRelay f) htakes hcrc
  case commit =>
    exact fun s h seq x htakes hcrc hfits hfind hst => stepCtrlReceive_completes htakes hcrc hfits fun g => by
      rw [State.takeCtrl_commit (s := s.setWag g) hfind hst]
      rfl
  case abort =>
    exact fun s h seq x htakes hcrc hfits hfind hst => stepCtrlReceive_completes htakes hcrc hfits fun g =>
      State.takeCtrl_abort (s := s.setWag g) hfind hst
  case cancel =>
    exact fun s h seq x htakes hcrc hfits hfind hst => stepCtrlReceive_completes htakes hcrc hfits fun g =>
      State.takeCtrl_cancel (s := s.setWag g) hfind hst
  case hive => exact fun s seq e hpart hstep hreached => partDeadline_hive_completes hpart hstep hreached
  case waiting =>
    intro s seq x hpart hst hstep hreached
    refine completes_of_exec (exec_partDeadline_station hpart hstep hreached) ?_ rfl
    simp only [State.partDeadlineHere, hst]
    exact State.discardPart_findPart (s := s.tailEnded seq) 0x08 hpart (.inl hst)
  case collecting =>
    intro s seq x hpart hst hstep hreached
    refine completes_of_exec (exec_partDeadline_station hpart hstep hreached) ?_ rfl
    simp [State.partDeadlineHere, hst, State.dropPart, State.findPart, State.findPart_seq hpart]
  case early =>
    intro s seq e x htail hpart hstep hpartEarly hstepEarly
    rw [exec_partDeadline_early hpart hstep hpartEarly hstepEarly, State.tailEnded_of_empty htail]

end Sys2Proof.Machine
end

section
/-! PROOFS. What a HIVE does with answers, reports and the instants of a step (R136 to R139, R148, R150). -/

namespace Sys2Proof.Machine

/-! ### Answers (R136 to R139) -/

/-- What is heard of station k is not the own role of a standby (R126, R447). -/
theorem State.not_standbyOf {s : State} {k : Nat} (hheard : k ≠ s.station ∨ s.roleActs = true) :
    (decide (k = s.station) && !s.roleActs) = false := by
  rcases hheard with h | h <;> simp [h]

/-- Step e with the answer of station k noted. -/
def StepEntry.answered (e : StepEntry) (k n : Nat) : StepEntry := { e with answers := e.answers ++ [(k, n)] }

theorem State.findStep_answered {s : State} {seq : Word} {e : StepEntry} (hfind : s.findStep seq = some e) (k n : Nat) :
    (s.modStep seq (fun e => e.answered k n)).findStep seq = some (e.answered k n) :=
  State.findStep_modStep_some hfind fun _ => rfl

/-- What follows from the answers that step e has by now: relayed no more once all its stations have answered, committed once
all are ready. -/
def State.settleAnswers (s : State) (seq : Word) (e : StepEntry) : State :=
  let all := e.stations.all (fun k => e.answers.any (fun x => decide (x.1 = k)))
  let ready := e.stations.all (fun k => e.answers.contains (k, 1))
  let u := if all then s.modStep seq (fun e => { e with relaying := false }) else s
  if e.atomic && !e.committed && !e.aborted && ready then u.commitStep seq else u

/-- Neither the answers nor the status bytes of the step change with what follows from them. -/
theorem State.settleAnswers_findStep {s : State} {seq : Word} {e : StepEntry} (hfind : s.findStep seq = some e) :
    ∃ x, (s.settleAnswers seq e).findStep seq = some x ∧ x.answers = e.answers ∧ x.status = e.status := by
  unfold State.settleAnswers
  extract_lets all ready u
  have hu : ∃ x, u.findStep seq = some x ∧ x.answers = e.answers ∧ x.status = e.status := by
    unfold u
    split
    · exact ⟨_, State.findStep_modStep_some hfind fun _ => rfl, rfl, rfl⟩
    · exact ⟨e, hfind, rfl, rfl⟩
  obtain ⟨x, hx, hanswers, hstatus⟩ := hu
  split
  · exact ⟨_, State.findStep_modStep_some hx fun _ => rfl, hanswers, hstatus⟩
  · exact ⟨x, hx, hanswers, hstatus⟩

/-- A step with an open action stays as the answers leave it. -/
theorem State.settleAnswers_checkStep {s : State} {seq : Word} {e : StepEntry} (hfind : s.findStep seq = some e)
    (hopen : e.status.any (fun x => x.isNone) = true) :
    ∃ x, ((s.settleAnswers seq e).checkStep seq).findStep seq = some x ∧ x.answers = e.answers ∧ x.status = e.status := by
  obtain ⟨x, hx, hanswers, hstatus⟩ := State.settleAnswers_findStep hfind
  rw [State.checkStep_of_open hx (hstatus ▸ hopen)]
  exact ⟨x, hx, hanswers, hstatus⟩

section
variable {s : State} {k : Nat} {seq : Word} {e : StepEntry} (hheard : k ≠ s.station ∨ s.roleActs = true)
  (hfind : s.findStep seq = some e) (hpart : e.stations.contains k = true)
  (hfirst : e.answers.any (fun x => decide (x.1 = k)) = false)
include hheard hfind hpart hfirst

theorem State.takeAnswer_ready (n : Nat) :
    s.takeAnswer k (.ready n) seq =
      ((s.modStep seq (fun e => e.answered k 1)).settleAnswers seq (e.answered k 1)).checkStep seq := by
  have hhere := State.not_standbyOf hheard
  have hnoted : (s.modStep seq (fun e => { e with answers := e.answers ++ [(k, 1)] })).findStep seq = some (e.answered k 1) :=
    State.findStep_answered hfind k 1
  simp only [State.takeAnswer, hhere, hfind, hpart, hfirst, hnoted, Bool.not_true, Bool.or_false, Bool.false_eq_true, if_false]
  rfl

/-- The refusal of a step that is not atomic gives the open actions of the station status 0x05. -/
theorem State.takeAnswer_refused (r i : Nat) (hatomic : e.atomic = false) :
    s.takeAnswer k (.refused r i) seq =
      (((s.modStep seq (fun e => e.answered k 2)).modStep seq (fun e => e.setStatus (e.mine k) 0x05)).settleAnswers seq
        ((e.answered k 2).setStatus (e.mine k) 0x05)).checkStep seq := by
  have hhere := State.not_standbyOf hheard
  have hnoted : ((s.modStep seq (fun e => { e with answers := e.answers ++ [(k, 2)] })).modStep seq
      (fun e => e.setStatus (e.mine k) 0x05)).findStep seq = some ((e.answered k 2).setStatus (e.mine k) 0x05) :=
    State.findStep_modStep_some (State.findStep_answered hfind k 2) fun _ => rfl
  simp only [State.takeAnswer, hhere, hfind, hpart, hfirst, hatomic, hnoted, Bool.not_true, Bool.or_false, Bool.false_and,
    Bool.false_eq_true, if_false]
  rfl

theorem State.takeAnswer_ready_findStep (n : Nat) (hopen : e.status.any (fun x => x.isNone) = true) :
    ((s.takeAnswer k (.ready n) seq).findStep seq).map (fun x => x.answers) = some (e.answers ++ [(k, 1)]) := by
  obtain ⟨x, hx, hanswers, -⟩ := State.settleAnswers_checkStep (State.findStep_answered hfind k 1) hopen
  rw [State.takeAnswer_ready hheard hfind hpart hfirst, hx]
  exact congrArg some hanswers

theorem State.takeAnswer_refused_findStep (r i : Nat) (hatomic : e.atomic = false)
    (hopen : (e.setStatus (e.mine k) 0x05).status.any (fun x => x.isNone) = true) :
    ((s.takeAnswer k (.refused r i) seq).findStep seq).map (fun x => (x.answers, x.status)) =
      some (e.answers ++ [(k, 2)], (e.setStatus (e.mine k) 0x05).status) := by
  have hnoted : ((s.modStep seq (fun e => e.answered k 2)).modStep seq (fun e => e.setStatus (e.mine k) 0x05)).findStep seq =
      some ((e.answered k 2).setStatus (e.mine k) 0x05) :=
    State.findStep_modStep_some (State.findStep_answered hfind k 2) fun _ => rfl
  obtain ⟨x, hx, hanswers, hstatus⟩ := State.settleAnswers_checkStep hnoted hopen
  rw [State.takeAnswer_refused hheard hfind hpart hfirst r i hatomic, hx]
  exact congrArg some (Prod.ext hanswers hstatus)

end

/-- What a valid answer frame with one entry leaves is what the entry leaves, whatever the link part notes of the frame. -/
theorem stepAnswerReceive_completes {s : State} {h : FrameHdr} {answer : Answer} {seq : Word} {P : State → Prop}
    (htakes : s.takesFrames = true) (hcrc : h.crcOk = true) (hfits : s.frameFits h 0x12 = true)
    (hP : ∀ g : WagState, P ((s.setWag g).takeAnswer h.src.val answer seq)) :
    Completes [.hif, .stp, .fio, .wag, .twn, .out] (.stepAnswerReceive h (answer, seq) []) s P := by
  obtain ⟨g, hnext⟩ := State.received_valid
    (fun s => [(answer, seq)].foldl (fun (s : State) x => s.takeAnswer h.src.val x.1 x.2) s) htakes hcrc hfits
  exact completes_of_exec (c := .stepAnswerReceive h (answer, seq) []) hnext (hP g) rfl

/-! ### Reports (R148) -/

/-- The first report of a station of the step gives its actions their status, and the step stays while one is open. -/
theorem State.takeReport_findStep {s : State} {k : Nat} {r : StepReport} {e : StepEntry}
    (hheard : k ≠ s.station ∨ s.roleActs = true) (hfind : s.findStep r.seq = some e) (hpart : e.stations.contains k = true)
    (hfirst : e.reported.contains k = false) (hopen : (e.report k r).status.any (fun x => x.isNone) = true) :
    (s.takeReport k r).findStep r.seq = some (e.report k r) := by
  have hhere := State.not_standbyOf hheard
  have hnoted : (s.modStep r.seq (fun e => e.report k r)).findStep r.seq = some (e.report k r) :=
    State.findStep_modStep_some hfind fun _ => rfl
  have htaken : s.takeReport k r = (s.modStep r.seq (fun e => e.report k r)).checkStep r.seq := by
    simp only [State.takeReport, hhere, hfind, hpart, hfirst, Bool.not_true, Bool.or_false, Bool.false_eq_true, if_false]
  rw [htaken, State.checkStep_of_open hnoted hopen, hnoted]

theorem stepReportReceive_completes {s : State} {h : FrameHdr} {r : StepReport} {e : StepEntry} (htakes : s.takesFrames = true)
    (hcrc : h.crcOk = true) (hfits : s.frameFits h 0x13 = true) (hheard : h.src.val ≠ s.station ∨ s.roleActs = true)
    (hfind : s.findStep r.seq = some e) (hpart : e.stations.contains h.src.val = true)
    (hfirst : e.reported.contains h.src.val = false)
    (hopen : (e.report h.src.val r).status.any (fun x => x.isNone) = true) :
    Completes [.hif, .stp, .fio, .wag, .twn, .out] (.stepReportReceive h [r]) s fun t =>
      t.findStep r.seq = some (e.report h.src.val r) := by
  obtain ⟨g, hnext⟩ := State.received_valid
    (fun s => [r].foldl (fun (s : State) r => s.takeReport h.src.val r) s) htakes hcrc hfits
  exact completes_of_exec (c := .stepReportReceive h [r]) hnext
    (State.takeReport_findStep (s := s.setWag g) hheard hfind hpart hfirst hopen) rfl

/-! ### Commit decision and report deadline (R139, R148) -/

/-- The steps of an aborted number that are still pending are aborted, and neither armed nor relayed. -/
theorem State.abortStep_quiet (s : State) (seq : Word) (c : Byte) :
    ∀ x ∈ (s.abortStep seq c).stp.steps, x.seq = seq → (x.aborted = true ∧ x.armed = false) ∧ x.relaying = false := by
  intro x hx hseq
  have hdropped : ∀ y ∈ (s.dropLocal seq c).stp.steps, y.seq = seq → y.armed = false := by
    unfold State.dropLocal
    exact State.modStep_brings (P := (·.armed = false)) (fun _ => rfl) _ seq
  obtain ⟨y, hy, rfl⟩ := List.mem_map.mp (State.mem_checkStep hx)
  split_ifs at hseq ⊢ with hyseq
  · have harmed : (y.closeUnreached c).armed = y.armed := (congrArg StepEntry.armed (y.closeUnreached_besideStatus c) :)
    exact ⟨⟨rfl, harmed.trans (hdropped y hy hyseq)⟩, rfl⟩
  · exact absurd hseq hyseq

section
variable {s : State} {seq : Word} {e : StepEntry} (hfind : s.findStep seq = some e)
include hfind

theorem exec_commitDecision (hatomic : e.atomic = true) (hcommitted : e.committed = false) (haborted : e.aborted = false)
    (hreached : s.reached e.cutOff = true) : exec (.commitDecision seq) s = .next (s.abortStep seq 0x08) := by
  change execCommitDecision seq s = _
  simp [execCommitDecision, hfind, hatomic, hcommitted, haborted, hreached]

theorem exec_commitDecision_early (hearly : s.reached e.cutOff = false) : exec (.commitDecision seq) s = .next s := by
  change execCommitDecision seq s = _
  simp [execCommitDecision, hfind, hearly]

theorem exec_reportDeadline (hreached : s.reached e.reportDeadline = true) :
    exec (.reportDeadline seq) s = .next (s.closeStep e) := by
  change execReportDeadline seq s = _
  simp [execReportDeadline, hfind, hreached]

theorem exec_reportDeadline_early (hearly : s.reached e.reportDeadline = false) : exec (.reportDeadline seq) s = .next s := by
  change execReportDeadline seq s = _
  simp [execReportDeadline, hfind, hearly]

end

/-- Settles O15: an answer or a report changes the step it names, which stays while an action is open; the commit decision aborts,
the report deadline closes. -/
theorem answersReportsAndCloses : Obligations.AnswersReportsAndCloses := by
  unfold Obligations.AnswersReportsAndCloses
  refine ⟨?ready, ?refused, ?report, ?decision, ?undecided, ?cutOff, ?deadline, ?early⟩
  case ready =>
    exact fun s h n seq e htakes hcrc hfits hheard hfind hpart hfirst hopen =>
      stepAnswerReceive_completes htakes hcrc hfits fun g =>
        State.takeAnswer_ready_findStep (s := s.setWag g) hheard hfind hpart hfirst n hopen
  case refused =>
    exact fun s h r i seq e htakes hcrc hfits hheard hfind hpart hfirst hatomic hopen =>
      stepAnswerReceive_completes htakes hcrc hfits fun g =>
        State.takeAnswer_refused_findStep (s := s.setWag g) hheard hfind hpart hfirst r i hatomic hopen
  case report =>
    exact fun s h r e htakes hcrc hfits hheard hfind hpart hfirst hopen =>
      stepReportReceive_completes htakes hcrc hfits hheard hfind hpart hfirst hopen
  case decision =>
    intro s seq e hfind hatomic hcommitted haborted hreached
    refine completes_of_exec (exec_commitDecision hfind hatomic hcommitted haborted hreached)
      (List.all_eq_true.mpr fun x hx => ?_) rfl
    by_cases hseq : x.seq = seq
    · simp [s.abortStep_quiet seq 0x08 x hx hseq]
    · simp [hseq]
  case undecided => exact fun s seq e hfind hearly => exec_commitDecision_early hfind hearly
  case cutOff => exact fun s seq => rfl
  case deadline =>
    intro s seq e hfind hreached
    refine completes_of_exec (exec_reportDeadline hfind hreached) ?_ rfl
    rw [← State.findStep_seq hfind]
    exact State.findStep_closeStep s e
  case early => exact fun s seq e hfind hearly => exec_reportDeadline_early hfind hearly

end Sys2Proof.Machine
end

section
/-! PROOFS. The grid of Comb's base periods (R159, R160): the count of base periods, whether Comb runs and the epoch of its grid. No
load of a slot, a microprogram or a model, no change of a twin and no base period's bookkeeping changes any of the three. -/

namespace Sys2Proof.Machine

/-- The base period that Comb is in, whether it runs, and the instant of base period 0 (R160). -/
def CmbState.grid (c : CmbState) : Nat × Bool × Time := (c.n, c.running, c.epoch)

theorem CmbState.grid_due (c : CmbState) (l : List (Nat × Nat × Nat)) : CmbState.grid { c with due := l } = c.grid := rfl

/-- Every part but Comb. -/
abbrev notCmb : List Area :=
  [.pending, .regs, .time, .pw, .hif, .stp, .blk, .cnv, .fio, .mir, .bog, .wag, .twn, .saf, .drn, .leg, .lcy, .peat, .seen, .out,
    .freeIdx]

theorem State.cmb_kept {s t : State} (h : t.mask notCmb = s.mask notCmb) : t.cmb = s.cmb := State.only_cmb h rfl

theorem State.grid_kept {s t : State} (h : t.mask notCmb = s.mask notCmb) : t.cmb.grid = s.cmb.grid :=
  congrArg CmbState.grid (State.cmb_kept h)

theorem foldl_grid {α : Type} {f : State → α → State} (h : ∀ s x, (f s x).cmb.grid = s.cmb.grid) (l : List α) (s : State) :
    (l.foldl f s).cmb.grid = s.cmb.grid := foldl_keeps (fun s => s.cmb.grid) h l s

@[simp] theorem ite_grid {c : Prop} {_ : Decidable c} (s t : State) :
    (if c then s else t).cmb.grid = if c then s.cmb.grid else t.cmb.grid := apply_ite (fun u => State.cmb u |>.grid) _ _ _

/-! ### Loads of Comb's tables (R187, R190, R199) -/

@[simp] theorem State.modSlot_grid (s : State) (k : Nat) (f : SlotRt → SlotRt) : (s.modSlot k f).cmb.grid = s.cmb.grid := rfl
@[simp] theorem State.recordDone_grid (s : State) (id : Nat) (sup : Option Nat) : (s.recordDone id sup).cmb.grid = s.cmb.grid := rfl

@[simp] theorem State.settleLoads_grid (s : State) : s.settleLoads.cmb.grid = s.cmb.grid := by
  unfold State.settleLoads
  refine (foldl_grid (fun u l => ?_) _ _).trans rfl
  split <;> simp

@[simp] theorem State.pendRecord_grid (s : State) (id : Nat) (x : Nat × BitVec 1280) :
    (s.pendRecord id x).cmb.grid = s.cmb.grid := by
  unfold State.pendRecord
  extract_lets r u v
  have hu : u.cmb.grid = s.cmb.grid := by unfold u; split <;> rfl
  have hv : v.cmb.grid = u.cmb.grid := by unfold v; split <;> rfl
  split
  · exact hv.trans hu
  · exact hu

@[simp] theorem State.pendModelRec_grid (s : State) (id : Nat) (x : Nat × BitVec 512) :
    (s.pendModelRec id x).cmb.grid = s.cmb.grid := by
  unfold State.pendModelRec
  extract_lets r u
  have hu : u.cmb.grid = s.cmb.grid := by unfold u; split <;> rfl
  split <;> exact hu

@[simp] theorem State.dropSlotClaims_cmb (s : State) (k : Nat) : (s.dropSlotClaims k).cmb = s.cmb := rfl

@[simp] theorem State.acceptSlots_grid (s : State) (p : Pair) (sub : Word) (l : List (Nat × BitVec 1280)) (cl : List Claim)
    (ds : List Disp) (peak : Nat) : (s.acceptSlots p sub l cl ds peak).cmb.grid = s.cmb.grid := by
  have hdrop (u : State) (x : Nat × BitVec 1280) :
      (if (u.cmb.slotRt x.1).on || (u.cmb.slotRt x.1).pend.isSome then u else u.dropSlotClaims x.1).cmb.grid = u.cmb.grid := by
    simp
  unfold State.acceptSlots
  dsimp only
  rw [State.settleLoads_grid, State.accept_cmb, foldl_grid hdrop, foldl_grid fun u x => u.pendRecord_grid _ x,
    foldl_grid fun u d => u.modSlot_grid _ _]
  rfl

theorem after_grid_kept {s : State} {o : Host.Outcome State Fault Refusal} (h : nextMask notCmb s o = s.mask notCmb) :
    (after s o).cmb.grid = s.cmb.grid := State.grid_kept (by rw [after_mask]; exact h)

theorem doSlotTableLoad_grid (p : Pair) (s : State) : (after s (doSlotTableLoad p s)).cmb.grid = s.cmb.grid := by
  unfold doSlotTableLoad
  split
  · rfl
  · split
    · exact State.grid_kept (by rw [after_next, State.finish_mask rfl, State.noteNoncanon_mask rfl])
    · dsimp only
      split <;> simp

theorem doMicroprogramLoad_grid (p : Pair) (s : State) : (after s (doMicroprogramLoad p s)).cmb.grid = s.cmb.grid := by
  unfold doMicroprogramLoad
  split
  · rfl
  · dsimp only
    split
    · simp
    · rw [after_next, State.finish_cmb]
      rfl

theorem doModelTableLoad_grid (p : Pair) (s : State) : (after s (doModelTableLoad p s)).cmb.grid = s.cmb.grid := by
  unfold doModelTableLoad
  split
  · rfl
  · split
    · exact State.grid_kept (by rw [after_next, State.finish_mask rfl, State.noteNoncanon_mask rfl])
    · dsimp only
      split
      · simp
      · rw [after_next, State.settleLoads_grid, State.accept_cmb, foldl_grid fun u x => u.pendModelRec_grid _ x]
        rfl

/-! ### Changes of a twin (R449) -/

/-- Of the tables that a LOAD names only Comb's own touch Comb at all. -/
theorem runTable_grid (p : Pair) (block num : Nat) (s : State) : (runTable p block num s).cmb.grid = s.cmb.grid := by
  unfold runTable
  split
  case h_1 => exact doSlotTableLoad_grid p s
  case h_2 => exact doMicroprogramLoad_grid p s
  case h_3 => exact doModelTableLoad_grid p s
  all_goals
    exact State.grid_kept (by
      simp (disch := decide) only [after_mask, doScheduleLoad_mask, doScanListLoad_mask, doFilterTableLoad_mask,
        doWitnessTableLoad_mask, doSegmentTableLoad_mask, doStationTableLoad_mask, doReceiveMapLoad_mask, doMaskTableLoad_mask,
        doLineTableLoad_mask, doRegionTableLoad_mask, doHoldPolicyTableLoad_mask, doProfileTableLoad_mask,
        doPulseTableLoad_mask, doEncoderTableLoad_mask, doInputTableLoad_mask, doHighSideTableLoad_mask, doSkewLoad_mask,
        doDacCoefficientLoad_mask, doCoefficientLoad_mask, doDacTableLoad_mask, doChannelTableLoad_mask,
        doOutputMapLoad_mask, doInputMapLoad_mask])

@[simp] theorem State.runDesc_grid (s : State) (p : Pair) (e : Entry) : (s.runDesc p e).cmb.grid = s.cmb.grid := by
  unfold State.runDesc
  split
  case h_1 => exact runTable_grid p _ _ s
  case h_2 => exact State.grid_kept (runParam_mask rfl p _ _ s)
  case h_3 => exact after_grid_kept (doTimeSet_mask rfl p s)
  case h_4 => exact after_grid_kept (doLoadImage_mask rfl p s)
  case h_5 => exact after_grid_kept (doExchange_mask rfl p s)
  case h_6 => rfl

@[simp] theorem State.resumeChange_grid (s : State) (seq : Word) : (s.resumeChange seq).cmb.grid = s.cmb.grid := by
  unfold State.resumeChange
  split
  · rfl
  · dsimp only
    split
    · rfl
    · split <;> simp

@[simp] theorem State.dueChanges_grid (s : State) (n : Nat) : (s.dueChanges n).cmb.grid = s.cmb.grid :=
  foldl_grid (α := TwinChange) (fun u x => u.resumeChange_grid x.seq) _ s

@[simp] theorem State.releaseChanges_grid (s : State) : s.releaseChanges.cmb.grid = s.cmb.grid :=
  foldl_grid (α := TwinChange) (fun u x => u.resumeChange_grid x.seq) _ s

@[simp] theorem State.stopActing_grid (s : State) (st : TwinSt) : (s.stopActing st).cmb.grid = s.cmb.grid := by
  have hleave (u : State) (l : LinkSt) : (u.leaveLink l).cmb.grid = u.cmb.grid := State.grid_kept (State.leaveLink_mask rfl u l)
  unfold State.stopActing
  dsimp only
  rw [State.releaseChanges_grid]
  exact (ite_grid _ _).trans (by rw [hleave]; exact ite_self _)

@[simp] theorem State.relinquish_grid (s : State) (n : Nat) : (s.relinquish n).cmb.grid = s.cmb.grid := by
  unfold State.relinquish
  dsimp only
  rw [State.stopActing_grid]
  exact State.grid_kept (by
    simp (disch := decide) only [State.sendDown_mask, State.setTwn_mask, State.leaseWindow_mask, State.sendLease_mask])

/-! ### Base periods (R160, R166) -/

@[simp] theorem State.twinPeriod_grid (s : State) (n : Nat) : (s.twinPeriod n).cmb.grid = s.cmb.grid := by
  have hrest (u : State) : ((u.sendImage n).emitOut (.twin 7 [])).cmb.grid = u.cmb.grid :=
    State.grid_kept (by simp (disch := decide) only [State.emitOut_mask, State.sendImage_mask])
  have hrule (u : State) : u.healthRule.cmb.grid = u.cmb.grid := State.grid_kept (State.healthRule_mask rfl u)
  have hact (u : State) : u.refreshAct.cmb.grid = u.cmb.grid := State.grid_kept (State.refreshAct_mask rfl u)
  unfold State.twinPeriod
  dsimp only
  simp only [ite_grid, hact, hrule, State.setTwn_cmb, hrest, State.relinquish_grid, ite_self]

@[simp] theorem State.baseOverrun_grid (s : State) : s.baseOverrun.cmb.grid = s.cmb.grid := by
  unfold State.baseOverrun
  dsimp only
  split
  · rfl
  · rw [State.raise_cmb]
    exact (foldl_grid (fun u x => State.grid_kept (State.mirTake_mask rfl u _)) _ s :)

/-- Base period n begins: it is the one that Comb is in, and Comb goes on as before. -/
theorem State.beginPeriod_grid (s : State) (n : Nat) (enc : List EncReading) :
    (s.beginPeriod n enc).cmb.grid = (n, s.cmb.running, s.cmb.epoch) := by
  have hclamps (u : State) : u.reportClamps.cmb.grid = u.cmb.grid := State.grid_kept (State.reportClamps_mask rfl u)
  have hpattern (u : State) (k : Nat) : (u.applyCal.mirPattern k).cmb.grid = u.cmb.grid :=
    State.grid_kept ((State.mirPattern_mask rfl _ k).trans (State.applyCal_mask rfl u))
  have hconv (u : State) (k : Nat) : (u.startConvPeriod k).cmb.grid = u.cmb.grid :=
    State.grid_kept (State.startConvPeriod_mask rfl u k)
  have hturn (u : State) : u.convPattern.cmb.grid = u.cmb.grid := State.grid_kept (State.convPattern_mask rfl u)
  have htables (u : State) : u.applyFioTables.applyDacTable.cmb.grid = u.cmb.grid :=
    State.grid_kept ((State.applyDacTable_mask rfl _).trans (State.applyFioTables_mask rfl u))
  have hencs (u : State) (k : Nat) : (u.shiftLatches.latchEncs k enc).cmb.grid = u.cmb.grid :=
    State.grid_kept ((State.latchEncs_mask rfl _ k enc).trans (State.shiftLatches_mask rfl u))
  have hgrid (u : State) : u.keepGrid.cmb.grid = u.cmb.grid := State.grid_kept (State.keepGrid_mask rfl u)
  unfold State.beginPeriod
  simp only [hclamps, CmbState.grid_due, hpattern, ite_grid, hconv, hturn, ite_self, htables, hencs, hgrid, State.dueChanges_grid]
  rfl

end Sys2Proof.Machine
end

section
/-! PROOFS. Launches, the dry event and base period starts (R144, R145, R156, R160, R166). -/

namespace Sys2Proof.Machine

/-! ### Launches (R144, R145) -/

/-- What part x launches on this station. -/
def State.dueOf (s : State) (x : Part) : DueActions :=
  { seq := x.seq, instant := x.instant, actions := (x.actionsOf s.station).map (·.2), own := false }

/-- The one armed part of a module without steps launches at its instant. -/
theorem State.dueActions_of_part {s : State} {x : Part} (hsteps : s.stp.steps = []) (hparts : s.stp.parts = [x])
    (hst : x.st = .armed) (hdue : s.time.tb1.tickOf x.instant ≤ 0) : s.dueActions 0 = [s.dueOf x] := by
  simp [State.dueActions, hsteps, hparts, hst, hdue, sortBy, insertBy, State.dueOf]

theorem State.modPart_of_one {s : State} {x : Part} (hparts : s.stp.parts = [x]) (f : Part → Part) :
    (s.modPart x.seq f).stp.parts = [f x] := by simp [State.modPart, hparts]

/-- The values of the one part go to the field side, where this member acts and they have not gone before. -/
theorem State.handPart_parts {s : State} {x : Part} (hparts : s.stp.parts = [x]) :
    (s.handPart x).stp.parts = [{ x with handed := x.handed || s.roleActs }] := by
  have hover : (s.handOver x.seq x.instant ((x.actionsOf s.station).map (·.2))).stp.parts = [x] :=
    (congrArg StpState.parts (s.handOver_stp _ _ _)).trans hparts
  unfold State.handPart
  split
  case isTrue hstays =>
    have hsame : (x.handed || s.roleActs) = x.handed := by revert hstays; cases x.handed <;> simp
    rw [hsame]
    exact hparts
  case isFalse hgoes =>
    have hnow : (x.handed || s.roleActs) = true := by revert hgoes; cases x.handed <;> simp
    rw [hnow]
    exact State.modPart_of_one hover _

/-- The one part of a module launches, or is reported untimed. -/
theorem State.launchDue_parts {s : State} {x : Part} (hparts : s.stp.parts = [x]) :
    (s.launchDue (s.dueOf x)).stp.parts =
      [{ x with
        handed := x.handed || (s.timed && s.roleActs), st := .report
        status := (x.actionsOf s.station).map (fun _ => if s.timed then 0x00 else 0x06) }] := by
  have hfind : s.findPart x.seq = some x := by simp [State.findPart, hparts]
  have hlaunched (u : State) (l : List Action) : (l.foldl (fun s a => s.launchAction x.instant a) u).stp = u.stp :=
    foldl_keeps State.stp (fun s a => s.launchAction_stp x.instant a) l u
  cases htimed : s.timed with
  | false => simp [State.launchDue, State.dueOf, State.modPart, htimed, hparts, Function.comp_def]
  | true =>
    simp [State.launchDue, State.dueOf, State.modPart, htimed, hfind, hlaunched, State.handPart_parts hparts, Function.comp_def]

theorem exec_stepLaunch {s : State} (hown : s.replays = false) :
    exec .stepLaunch s = .next ((s.dueActions 0).foldl State.launchDue s) := by
  change execStepLaunch s = _
  simp [execStepLaunch, hown]

/-! ### The dry event (R156) -/

theorem exec_stepDry {s : State} (hhive : s.roleHive = true) (hruns : s.stp.dryRuns = true) (hempty : s.stp.steps = [])
    (henabled : s.rbit 0x4000 1 = true) (hfirst : s.stp.dry = false) :
    exec .stepDry s = .next (State.blockEvent (State.raise { s with stp := { s.stp with dry := true, dryRuns := false } } 0x1F 0)
      (s.rfld 0x4000 15 8) 0) := by
  change execStepDry s = _
  simp only [execStepDry, hhive, hruns, hempty, henabled, hfirst]
  rfl

/-! ### Base periods (R160, R166) -/

theorem CmbState.grid_eq_iff {c : CmbState} {n : Nat} {b : Bool} {t : Time} :
    c.grid = (n, b, t) ↔ c.n = n ∧ c.running = b ∧ c.epoch = t := by
  simp [CmbState.grid]

theorem State.judgePhase_grid (s : State) : s.judgePhase.cmb.grid = s.cmb.grid := State.grid_kept (State.judgePhase_mask rfl s)

/-- The first base period after a start of the logic side. -/
def State.combStarted (s : State) (enc : List EncReading) : State :=
  (State.mirStart { s with cmb := { s.cmb with running := true, epoch := s.time.tb1.ns, due := [] } }).beginPeriod 0 enc

/-- The base period that ends is closed. -/
def State.periodClosed (s : State) : State :=
  ((((s.baseOverrun.mirPeriod s.cmb.n).endConvPeriod s.cmb.n s.time.shadow.ns).endSnapshot s.cmb.n).twinPeriod s.cmb.n)

theorem State.combStarted_grid (s : State) (enc : List EncReading) : (s.combStarted enc).cmb.grid = (0, true, s.time.tb1.ns) := by
  have hmir (u : State) : u.mirStart.cmb = u.cmb := State.cmb_kept (State.mirStart_mask rfl u)
  rw [State.combStarted, State.beginPeriod_grid, hmir]

theorem State.periodClosed_grid (s : State) : s.periodClosed.cmb.grid = s.cmb.grid := by
  have hends (u : State) (n : Nat) (t : Time) : (((u.mirPeriod n).endConvPeriod n t).endSnapshot n).cmb.grid = u.cmb.grid :=
    State.grid_kept ((State.endSnapshot_mask rfl _ n).trans
      ((State.endConvPeriod_mask rfl _ n t).trans (State.mirPeriod_mask rfl u n)))
  rw [State.periodClosed, State.twinPeriod_grid, hends, State.baseOverrun_grid]

section
variable {s : State} (enc : List EncReading) (hlogic : s.pw.logic = .run)
include hlogic

theorem exec_basePeriodStart_first (hstopped : s.cmb.running = false) :
    exec (.basePeriodStart enc) s = .next (s.combStarted enc).judgePhase := by
  change execBasePeriodStart enc s = _
  simp [execBasePeriodStart, hlogic, hstopped, State.combStarted]

theorem exec_basePeriodStart_next (hruns : s.cmb.running = true) :
    exec (.basePeriodStart enc) s = .next (s.periodClosed.beginPeriod (s.cmb.n + 1) enc).judgePhase := by
  change execBasePeriodStart enc s = _
  simp only [execBasePeriodStart, hlogic, hruns]
  rfl

end

/-- Settles O16: the one due part launches and is reported, the dry event is raised where all its conditions hold, and the
bookkeeping of a base period start leaves Comb's grid alone but for the count. -/
theorem launchesDryAndBasePeriods : Obligations.LaunchesDryAndBasePeriods := by
  unfold Obligations.LaunchesDryAndBasePeriods
  refine ⟨?launch, ?dry, ?next, ?first⟩
  case launch =>
    intro s x hown hsteps hparts hst hdue
    refine completes_of_exec (exec_stepLaunch hown) ?_ rfl
    rw [State.dueActions_of_part hsteps hparts hst hdue]
    exact State.launchDue_parts hparts
  case dry => exact fun s hhive hruns hempty henabled hfirst => exec_stepDry hhive hruns hempty henabled hfirst
  case next =>
    intro s enc hlogic hruns
    refine completes_of_exec (exec_basePeriodStart_next enc hlogic hruns) ?_ rfl
    obtain ⟨-, hrunning, hepoch⟩ := CmbState.grid_eq_iff.mp s.periodClosed_grid
    refine CmbState.grid_eq_iff.mp ?_
    rw [State.judgePhase_grid, State.beginPeriod_grid, hrunning, hepoch, hruns]
  case first =>
    intro s enc hlogic hstopped
    refine completes_of_exec (exec_basePeriodStart_first enc hlogic hstopped) (CmbState.grid_eq_iff.mp ?_) rfl
    rw [State.judgePhase_grid, State.combStarted_grid]

end Sys2Proof.Machine
end

section
/-! PROOFS. Comb's arithmetic (R168 to R171): right shifts with rounding, saturation, the product of a coefficient. -/

namespace Sys2Proof.Machine

/-! ### Right shifts and saturation (R170, R171) -/

theorem shrRound_of_pos (x : Int) {m : Nat} (hm : 1 ≤ m) : shrRound x m = (x + 2 ^ (m - 1)) / 2 ^ m :=
  if_neg (Nat.one_le_iff_ne_zero.mp hm)

/-- A rounded quotient is within half a unit of the exact one, halves going up. -/
theorem shrRound_halfUnit (x : Int) {m : Nat} (hm : 1 ≤ m) :
    2 * (2 ^ m * shrRound x m - x) ≤ 2 ^ m ∧ -(2 ^ m) < 2 * (2 ^ m * shrRound x m - x) := by
  have hunit : (2 : Int) ^ m = 2 * 2 ^ (m - 1) := by rw [← pow_succ', Nat.sub_add_cancel hm]
  have hpos : (0 : Int) < 2 ^ m := by positivity
  have hdiv := Int.mul_ediv_add_emod (x + 2 ^ (m - 1)) (2 ^ m)
  have hlow := Int.emod_nonneg (x + 2 ^ (m - 1)) hpos.ne'
  have hhigh := Int.emod_lt_of_pos (x + 2 ^ (m - 1)) hpos
  rw [shrRound_of_pos x hm]
  constructor <;> linarith

theorem satS_eq (b : Nat) (x : Int) :
    satS b x = if x < -(2 ^ (b - 1)) then -(2 ^ (b - 1)) else if 2 ^ (b - 1) - 1 < x then 2 ^ (b - 1) - 1 else x := rfl

theorem view24_eq (x : Int) : view24 x = satS 24 ((x + 128) / 256) := by
  rw [view24, shrRound_of_pos x (by decide)]
  rfl

/-! ### The product of a coefficient (R169) -/

theorem coefK_natAbs_le (c : Nat) : (coefK c).natAbs ≤ 2 ^ 15 := by
  unfold coefK sext
  simp only [Int.ofNat_eq_natCast]
  split <;> omega

theorem coefK_mul_natAbs_le (c : Nat) {w : Int} (hlow : -(2 ^ 23) ≤ w) (hhigh : w < 2 ^ 23) :
    (coefK c * w).natAbs ≤ 2 ^ 38 :=
  calc (coefK c * w).natAbs = (coefK c).natAbs * w.natAbs := Int.natAbs_mul _ _
    _ ≤ 2 ^ 15 * 2 ^ 23 := Nat.mul_le_mul (coefK_natAbs_le c) (by omega)
    _ = 2 ^ 38 := rfl

theorem prod_eq (c : Nat) (w : Int) :
    prod c w = satS 40 (if 7 ≤ coefE c then coefK c * w * 2 ^ (coefE c - 7).toNat
      else shrRound (coefK c * w) (7 - coefE c).toNat) := by
  simp only [prod, prodRaw, shiftRound, ge_iff_le, sub_nonneg, neg_sub]

/-- Settles O58: the rounded shift by the division with remainder, the product by the ranges of its two factors. -/
theorem combRoundingAndShifts : Obligations.CombRoundingAndShifts := by
  unfold Obligations.CombRoundingAndShifts
  exact ⟨fun x m hm => ⟨shrRound_of_pos x hm, shrRound_halfUnit x hm⟩,
    fun c w hlow hhigh => ⟨coefK_mul_natAbs_le c hlow hhigh, prod_eq c w⟩, fun x b _ => satS_eq b x, view24_eq⟩

end Sys2Proof.Machine
end

section
/-! PROOFS. Comb's tables and evaluations (R162, R164, R172, R178, R187, R197): what a load leaves in its table, what a class write
stores, what a due slot takes. -/

namespace Sys2Proof.Machine

/-! ### What the records of an accepted load leave of Comb (R187, R190, R199) -/

/-- Comb without the run-time states of its slots and the loads that wait for them. -/
def CmbState.besideRecords (c : CmbState) : CmbState := { c with rt := [], loads := [] }

theorem foldl_besideRecords {α : Type} {f : State → α → State}
    (h : ∀ s x, (f s x).cmb.besideRecords = s.cmb.besideRecords) (l : List α) (s : State) :
    (l.foldl f s).cmb.besideRecords = s.cmb.besideRecords := foldl_keeps (fun s => s.cmb.besideRecords) h l s

theorem State.modSlot_besideRecords (s : State) (k : Nat) (f : SlotRt → SlotRt) :
    (s.modSlot k f).cmb.besideRecords = s.cmb.besideRecords := rfl

theorem State.settleLoads_besideRecords (s : State) : s.settleLoads.cmb.besideRecords = s.cmb.besideRecords := by
  unfold State.settleLoads
  refine (foldl_besideRecords (fun u l => ?_) _ _).trans rfl
  split <;> rw [State.finish_cmb]

theorem State.pendRecord_besideRecords (s : State) (id : Nat) (x : Nat × BitVec 1280) :
    (s.pendRecord id x).cmb.besideRecords = s.cmb.besideRecords := by
  unfold State.pendRecord
  extract_lets r u v
  have hu : u.cmb.besideRecords = s.cmb.besideRecords := by unfold u; split <;> rfl
  have hv : v.cmb.besideRecords = u.cmb.besideRecords := by unfold v; split <;> rfl
  split
  · exact hv.trans hu
  · exact hu

theorem State.pendModelRec_besideRecords (s : State) (id : Nat) (x : Nat × BitVec 512) :
    (s.pendModelRec id x).cmb.besideRecords = s.cmb.besideRecords := by
  unfold State.pendModelRec
  extract_lets r u
  have hu : u.cmb.besideRecords = s.cmb.besideRecords := by unfold u; split <;> rfl
  split <;> exact hu

theorem State.acceptSlots_besideRecords (s : State) (p : Pair) (sub : Word) (l : List (Nat × BitVec 1280)) (cl : List Claim)
    (ds : List Disp) (peak : Nat) :
    (s.acceptSlots p sub l cl ds peak).cmb.besideRecords =
      { s.cmb with
        slots := tload (fun _ => 0) s.cmb.slots l, nextLoad := s.cmb.nextLoad + 1, peakCyc := peak }.besideRecords := by
  have hdrop (u : State) (x : Nat × BitVec 1280) :
      (if (u.cmb.slotRt x.1).on || (u.cmb.slotRt x.1).pend.isSome then u else u.dropSlotClaims x.1).cmb.besideRecords =
        u.cmb.besideRecords := by
    split <;> rfl
  unfold State.acceptSlots
  dsimp only
  rw [State.settleLoads_besideRecords, State.accept_cmb, foldl_besideRecords hdrop,
    foldl_besideRecords fun u x => u.pendRecord_besideRecords _ x, foldl_besideRecords fun u d => u.modSlot_besideRecords _ _]
  rfl

/-- s with model records accepted, each in effect or waiting for its slot's evaluation. -/
def State.acceptModels (s : State) (p : Pair) (sub : Word) (l : List (Nat × BitVec 512)) : State :=
  let id := s.cmb.nextLoad + 1
  let u : State := { s with cmb := { s.cmb with
    models := tload (fun _ => modelReset) s.cmb.models l, nextLoad := id
    loads := s.cmb.loads ++ [{ id := id, pair := p, sub := sub, count := l.length, left := l.length }] } }
  ((l.foldl (fun s x => s.pendModelRec id x) u).accept p.val sub).settleLoads

theorem State.acceptModels_besideRecords (s : State) (p : Pair) (sub : Word) (l : List (Nat × BitVec 512)) :
    (s.acceptModels p sub l).cmb.besideRecords =
      { s.cmb with
        models := tload (fun _ => modelReset) s.cmb.models l, nextLoad := s.cmb.nextLoad + 1 }.besideRecords := by
  unfold State.acceptModels
  dsimp only
  rw [State.settleLoads_besideRecords, State.accept_cmb, foldl_besideRecords fun u x => u.pendModelRec_besideRecords _ x]
  rfl

/-! ### Loads of the slot table, the microprogram store and the model table (R172, R178, R197) -/

section
variable {s : State} {p : Pair} {e : Entry}

theorem doSlotTableLoad_accepted {cl : List Claim} {ds : List Disp} {peak : Nat} (htake : s.takeLoad p 5 1 = some e)
    (hcanon : firstNoncanon 160 ((List.range 8).map (fun i => (11 + i, true))) e.data = none)
    (hjudged : judgeSlots s s.loopDst (withIndex e.first e.words1280) = .ok (cl, ds, peak)) :
    doSlotTableLoad p s = .next (s.acceptSlots p e.sub (withIndex e.first e.words1280) cl ds peak) := by
  simp only [doSlotTableLoad, htake, hcanon, hjudged]

/-- The words of a microprogram LOAD by their store addresses. -/
def Entry.storeWords (e : Entry) : List (Nat × Word) :=
  withIndex e.first ((List.range e.count).map (entryAt 32 4 e.data))

/-- The first word that a LOAD would change inside a program in use (R191). -/
def State.storeOffence (s : State) (ws : List (Nat × Word)) : Option (Nat × Word) :=
  ws.find? (fun x => decide (tget 0 s.cmb.store x.1 ≠ x.2) &&
    s.programsInUse.any (fun u => decide (u.1 ≤ x.1) && decide (x.1 ≤ u.2)))

theorem doMicroprogramLoad_accepted (htake : s.takeLoad p 5 2 = some e) (hunused : s.storeOffence e.storeWords = none) :
    doMicroprogramLoad p s = .next (State.finish
      { s with cmb := { s.cmb with store := tload (fun _ => 0) s.cmb.store e.storeWords } } p.val e.sub 0
      (BitVec.ofNat 64 e.count)) := by
  unfold State.storeOffence Entry.storeWords at hunused
  simp only [doMicroprogramLoad, htake, hunused]
  rfl

/-- The first model record with a bad field, or one that an enabled slot's record does not go with (R198). -/
def State.modelOffence (s : State) (l : List (Nat × BitVec 512)) : Option (Nat × BitVec 512) :=
  l.find? (fun x => !modelFieldsOk x.2 || (s.slotEnabled x.1 && !modelFits (s.cmb.rec_ x.1) x.2))

theorem doModelTableLoad_accepted (htake : s.takeLoad p 5 3 = some e)
    (hcanon : firstNoncanon 64 [(2, true)] e.data = none) (hgood : s.modelOffence (withIndex e.first e.words512) = none) :
    doModelTableLoad p s = .next (s.acceptModels p e.sub (withIndex e.first e.words512)) := by
  unfold State.modelOffence at hgood
  simp only [doModelTableLoad, htake, hcanon, hgood]
  rfl

variable (hacts : s.roleActs = true) (hmirrors : s.mirrors = false)
include hacts hmirrors

theorem exec_slotTableLoad (htake : s.takeLoad p 5 1 = some e) : exec (.slotTableLoad p) s = doSlotTableLoad p s :=
  State.asChange_of_acts htake hacts hmirrors

theorem exec_microprogramLoad (htake : s.takeLoad p 5 2 = some e) :
    exec (.microprogramLoad p) s = doMicroprogramLoad p s :=
  State.asChange_of_acts htake hacts hmirrors

theorem exec_modelTableLoad (htake : s.takeLoad p 5 3 = some e) : exec (.modelTableLoad p) s = doModelTableLoad p s :=
  State.asChange_of_acts htake hacts hmirrors

end

/-! ### Class dividers (R162) -/

section
variable {s : State} {c : Fin 8} {w : Word} (hup : s.hostUp = true) (hwritable : c.val ≠ 0 ∧ c.val ≠ 7)
include hup hwritable

theorem exec_cmbClassWrite_locked (hlocked : s.rwlOpen 5 = false) :
    exec (.cmbClassWrite c w) s = .next (s.noteLock 5 (decide (fld w 8 0 ≠ s.classDiv c.val))) := by
  change execCmbClassWrite c w s = _
  simp [execCmbClassWrite, hup, hwritable, hlocked]

theorem exec_cmbClassWrite_bad (hopen : s.rwlOpen 5 = true) (hbad : fld w 8 0 = 0 ∨ 500 % fld w 8 0 ≠ 0) :
    exec (.cmbClassWrite c w) s = .next { s with cmb := { s.cmb with cfgErr := true } } := by
  have hrefused : (decide (fld w 8 0 = 0) || decide (500 % fld w 8 0 ≠ 0)) = true := by simpa using hbad
  change execCmbClassWrite c w s = _
  simp only [execCmbClassWrite, hup, hwritable, hopen, hrefused]
  rfl

theorem exec_cmbClassWrite_stored (hopen : s.rwlOpen 5 = true) (hsome : fld w 8 0 ≠ 0) (hdivides : 500 % fld w 8 0 = 0)
    (hfree : s.classInUse c.val = false) :
    exec (.cmbClassWrite c w) s = .next (s.setReg (0x5040 + 4 * c.val) (BitVec.ofNat 32 (fld w 8 0))) := by
  change execCmbClassWrite c w s = _
  simp [execCmbClassWrite, hup, hwritable, hopen, hsome, hdivides, hfree]

end

/-! ### Evaluations (R164, R187) -/

/-- A lane starts slot k: the slot is due no more and takes the records that wait for it. -/
def State.startSlot (s : State) (k : Nat) : State :=
  State.takeRecords { s with cmb := { s.cmb with due := s.cmb.due.filter (fun y => decide (y.1 ≠ k)) } } k

/-- Records that take effect change the run-time state of their slot and the loads they came with, of Comb nothing else. -/
theorem State.takeRecords_besideRecords (s : State) (k : Nat) :
    (s.takeRecords k).cmb.besideRecords = s.cmb.besideRecords := by
  have hlayouts (u : State) : u.noteLayouts.cmb = u.cmb := State.cmb_kept (State.noteLayouts_mask rfl u)
  unfold State.takeRecords
  extract_lets r disabling launched enabling taken after
  have hdisabling : disabling.cmb.besideRecords = s.cmb.besideRecords := by unfold disabling; split <;> rfl
  have henabling : enabling.cmb.besideRecords = s.cmb.besideRecords := by unfold enabling; split <;> rfl
  have htaken : taken.cmb.besideRecords = s.cmb.besideRecords := by
    unfold taken
    split
    · rfl
    · dsimp only
      rw [hlayouts]
      split
      · exact hdisabling
      · split
        · rfl
        · exact henabling
  split <;> exact htaken

theorem State.startSlot_n (s : State) (k : Nat) : (s.startSlot k).cmb.n = s.cmb.n :=
  (congrArg CmbState.n (State.takeRecords_besideRecords _ k) :)

section
variable {s : State} {k : Fin 4096} {x : Nat × Nat × Nat} (hdue : s.cmb.due.find? (fun x => decide (x.1 = k.val)) = some x)
include hdue

theorem exec_slotEvaluation :
    exec (.slotEvaluation k) s = .next
      (if ((s.startSlot k).cmb.slotRt k).on then (s.startSlot k).evaluate k (s.startSlot k).cmb.n x.2.1 x.2.2
      else s.startSlot k).settleLoads.judgePhase := by
  change execSlotEvaluation k s = _
  simp only [execSlotEvaluation, hdue]
  rfl

theorem exec_slotEvaluation_on (hon : ((s.startSlot k).cmb.slotRt k).on = true) :
    exec (.slotEvaluation k) s = .next ((s.startSlot k).evaluate k s.cmb.n x.2.1 x.2.2).settleLoads.judgePhase := by
  rw [exec_slotEvaluation hdue, if_pos hon, State.startSlot_n]

theorem exec_slotEvaluation_off (hoff : ((s.startSlot k).cmb.slotRt k).on = false) :
    exec (.slotEvaluation k) s = .next (s.startSlot k).settleLoads.judgePhase := by
  rw [exec_slotEvaluation hdue, if_neg (Bool.eq_false_iff.mp hoff)]

end

/-- Settles O17: an evaluation and a class write by what each answers, a load by what its records leave of Comb beside the run-time
states, and by its frame. -/
theorem combTablesAndEvaluations : Obligations.CombTablesAndEvaluations := by
  unfold Obligations.CombTablesAndEvaluations
  refine ⟨?evaluated, ?disabled, ?stored, ?bad, ?locked, ?slots, ?store, ?models⟩
  case evaluated => exact fun s k x hdue hon => exec_slotEvaluation_on hdue hon
  case disabled => exact fun s k x hdue hoff => exec_slotEvaluation_off hdue hoff
  case stored =>
    exact fun s c w hup h0 h7 hopen hsome hdivides hfree => exec_cmbClassWrite_stored hup ⟨h0, h7⟩ hopen hsome hdivides hfree
  case bad => exact fun s c w hup h0 h7 hopen hbad => exec_cmbClassWrite_bad hup ⟨h0, h7⟩ hopen hbad
  case locked => exact fun s c w hup h0 h7 hlocked => exec_cmbClassWrite_locked hup ⟨h0, h7⟩ hlocked
  case slots =>
    intro s p e cl ds peak htake hacts hmirrors hcanon hjudged
    have hcmb := s.acceptSlots_besideRecords p e.sub (withIndex e.first e.words1280) cl ds peak
    have hnext := doSlotTableLoad_accepted htake hcanon hjudged
    exact ⟨_, (exec_slotTableLoad hacts hmirrors htake).trans hnext,
      ⟨congrArg CmbState.slots hcmb, congrArg CmbState.peakCyc hcmb⟩, State.acceptSlots_mask rfl s p e.sub _ cl ds peak⟩
  case store =>
    intro s p e htake hacts hmirrors hunused
    exact ⟨_, (exec_microprogramLoad hacts hmirrors htake).trans (doMicroprogramLoad_accepted htake hunused), rfl, rfl⟩
  case models =>
    intro s p e htake hacts hmirrors hcanon hgood
    have hcmb := s.acceptModels_besideRecords p e.sub (withIndex e.first e.words512)
    have hnext := doModelTableLoad_accepted htake hcanon hgood
    exact ⟨_, (exec_modelTableLoad hacts hmirrors htake).trans hnext,
      ⟨congrArg CmbState.models hcmb, (congrArg CmbState.slots hcmb :)⟩, only_of_nextMask (doModelTableLoad_mask rfl p s) hnext⟩

end Sys2Proof.Machine
end

section
/-! PROOFS. The block runtime (R221, R224, R227, R229, R238, R250, R252): what a release, the end of a scan and a boundary leave of their
task, what an accepted load or image leaves of the block runtime. -/

namespace Sys2Proof.Machine

/-! ### The run-time state of a task under the shared operations -/

theorem State.task_of_blk {s t : State} (h : t.blk = s.blk) (k : Nat) : t.task k = s.task k :=
  congrArg (fun b : BlkState => (tget {} b.tasks k : TaskRt)) h

theorem State.task_of_tasks {s t : State} (h : t.blk.tasks = s.blk.tasks) (k : Nat) : t.task k = s.task k :=
  congrArg (fun l => (tget {} l k : TaskRt)) h

@[simp] theorem State.task_modTask_same (s : State) (k : Nat) (f : TaskRt → TaskRt) : (s.modTask k f).task k = f (s.task k) :=
  tget_tput_same _ _ _ _

@[simp] theorem State.raise_task (s : State) (code : Byte) (result : BitVec 64) (k : Nat) :
    (s.raise code result).task k = s.task k := rfl

@[simp] theorem State.finish_task (s : State) (p : Nat) (sub : Word) (code : Byte) (result : BitVec 64) (k : Nat) :
    (s.finish p sub code result).task k = s.task k := rfl

@[simp] theorem State.accept_task (s : State) (p : Nat) (sub : Word) (k : Nat) : (s.accept p sub).task k = s.task k := rfl

@[simp] theorem State.keepWords_task (s : State) (t : Nat) (words : List Nat) (k : Nat) :
    (s.keepWords t words).task k = s.task k := rfl

@[simp] theorem State.judgePhase_task (s : State) (k : Nat) : s.judgePhase.task k = s.task k :=
  State.task_of_blk (State.only_blk (ps := [.pw, .hif, .drn, .lcy, .out]) (State.judgePhase_mask rfl s) rfl) k

@[simp] theorem State.releaseOut_task (s : State) (t k : Nat) : (s.releaseOut t).task k = s.task k :=
  State.task_of_blk (State.only_blk (ps := [.out]) (State.releaseOut_mask rfl s t) rfl) k

@[simp] theorem State.runtimeStart_task (s : State) (k : Nat) : s.runtimeStart.task k = s.task k := by
  unfold State.runtimeStart
  split <;> rfl

/-! ### Publication (R225, R232) -/

theorem State.publishWord_tasks (s : State) (w : Nat) (v : Int) : (s.publishWord w v).blk.tasks = s.blk.tasks := by
  have hcommand (u : State) (it : DownItem) : (u.commandOut it).blk = u.blk :=
    State.only_blk (ps := [.fio]) (State.commandOut_mask rfl u it) rfl
  have hsend (u : State) (i : Nat) (x : Int) : (u.txWrite i x).blk = u.blk :=
    State.only_blk (ps := [.wag]) (State.txWrite_mask rfl u i x) rfl
  unfold State.publishWord
  dsimp only
  split <;> simp only [hcommand, hsend, apply_ite State.blk, ite_self, State.modSlot_blk, State.hashWrite_blk]

/-- The scan of task t is over, its values published. -/
theorem State.publishScan_task (s : State) (t : Nat) (v : OutEntry → Int) :
    (s.publishScan t v).task t =
      { s.task t with published := true, scanning := false, ended := false, userEvts := [], bridge := [] } := by
  have hbridge (u : State) (q : BridgeReq) : (u.bridgeRequest q).task t = u.task t :=
    State.task_of_blk (State.only_blk (ps := [.cmb]) (State.bridgeRequest_mask rfl u q) rfl) t
  have hword (u : State) (x : OutEntry) : (u.publishWord x.word (v x)).task t = u.task t :=
    State.task_of_tasks (u.publishWord_tasks _ _) t
  unfold State.publishScan
  extract_lets r raised requested worded
  have hraised : raised.task t = s.task t := by
    unfold raised
    split
    · exact foldl_keeps (State.task · t) (fun u x => u.raise_task ..) _ _
    · rfl
  have hrequested : requested.task t = raised.task t := foldl_keeps (State.task · t) hbridge _ _
  have hworded : worded.task t = requested.task t := foldl_keeps (State.task · t) hword _ _
  rw [State.task_modTask_same, hworded, hrequested, hraised]

theorem State.stopTask_task (s : State) (t : Nat) :
    (s.stopTask t).task t =
      { s.task t with
        published := true, scanning := false, ended := false, userEvts := [], bridge := [], st := .stopped, undo := none } := by
  simp only [State.stopTask, State.raise_task, State.task_modTask_same, State.keepWords_task, State.publishScan_task]

/-! ### A scan (R224, R226) -/

/-- What a task runs: its pending exchange, its state, its active image, its core. -/
def TaskRt.program (r : TaskRt) : Option ExchReq × TaskSt × List Byte × Nat := (r.exch, r.st, r.active, r.core)

/-- A scan is under way, of what the task runs. -/
theorem State.scan_task (s : State) (k delta : Nat) (di : BitVec 64) (hs : BitVec 48) :
    ((s.scan k delta di hs).task k).scanning = true ∧ ((s.scan k delta di hs).task k).ended = false ∧
      ((s.scan k delta di hs).task k).program = (s.task k).program := by
  have hfree (c : Bool) (u : State) : (if c then u.tookFree else u).task k = u.task k := by split <;> rfl
  unfold State.scan
  extract_lets r b snap holds sys c x blk scanned
  have hscanned : scanned.task k = _ := tget_tput_same _ _ _ _
  rw [hfree, hscanned]
  exact ⟨rfl, rfl, rfl⟩

/-! ### Releases (R221, R224, R227) -/

theorem State.releaseTask_starts (s : State) {t : Nat} (di : BitVec 64) (hs : BitVec 48) (hidle : (s.task t).scanning = false) :
    ((s.releaseTask t di hs).task t).scanning = true ∧ ((s.releaseTask t di hs).task t).ended = false := by
  unfold State.releaseTask
  extract_lets released r published
  have hr : r.scanning = false := by simp only [r, released, State.task_modTask_same, State.runtimeStart_task, hidle]
  rw [if_neg (by simp [hr]), if_neg (by simp [hr])]
  obtain ⟨hscanning, hended, _⟩ := published.scan_task t (published.scanDelta t) di hs
  exact ⟨hscanning, hended⟩

/-- An overrun is counted, and the scan goes on as a late one. -/
theorem State.overrun_task (s : State) (t : Nat) : ∃ evt, (s.overrun t).task t =
    { s.task t with
      late := true, ovrRun := satInc 0xFFFF (s.task t).ovrRun, ovrCnt := satInc 0xFFFF (s.task t).ovrCnt, lastOvrEvt := evt } := by
  unfold State.overrun
  extract_lets counted r
  have hcounted : counted.task t = _ := s.task_modTask_same t _
  split
  · exact ⟨some s.time.t2, by rw [State.raise_task, State.task_modTask_same, hcounted]; rfl⟩
  · exact ⟨_, hcounted⟩

theorem State.releaseTask_overruns (s : State) {t : Nat} (di : BitVec 64) (hs : BitVec 48) (hscanning : (s.task t).scanning = true)
    (hended : (s.task t).ended = false) : ∃ evt, (s.releaseTask t di hs).task t =
      { s.task t with
        core := (s.task t).coreNext, late := true, ovrRun := satInc 0xFFFF (s.task t).ovrRun
        ovrCnt := satInc 0xFFFF (s.task t).ovrCnt, lastOvrEvt := evt } := by
  unfold State.releaseTask
  extract_lets released r published
  have hreleased : released.task t = { s.task t with core := (s.task t).coreNext } := by
    simp only [released, State.task_modTask_same, State.runtimeStart_task]
  have hr : (r.scanning && !r.ended) = true := by simp [r, hreleased, hscanning, hended]
  rw [if_pos hr]
  obtain ⟨evt, htask⟩ := released.overrun_task t
  exact ⟨evt, by rw [htask, hreleased]⟩

theorem exec_taskRelease_skipped {s : State} (k : Fin 8) (hskip : s.cmb.skip = true) : exec (.taskRelease k) s = .next s := by
  change execTaskRelease k s = _
  simp [execTaskRelease, hskip]

theorem exec_taskRelease_running {s : State} {k : Fin 8} (hskip : s.cmb.skip = false) (hruns : s.runsOwnTasks = true)
    (hst : (s.task k.val).st = .running) :
    exec (.taskRelease k) s = .next ((s.releaseOut k).releaseTask k s.fio.diImage s.hsDriven).judgePhase := by
  change execTaskRelease k s = _
  simp [execTaskRelease, State.taskRelease, hskip, hruns, hst]

/-! ### The end of a scan (R227, R242) -/

/-- A task whose scan has reached END after ns nanoseconds. -/
def TaskRt.atEnd (r : TaskRt) (ns : Nat) : TaskRt :=
  { r with
    ended := true, undo := none, maxNs := max r.maxNs (min ns 0xFFFFFFFF), ovrRun := if r.late then r.ovrRun else 0
    rtfCnt := if r.flags = 0 then r.rtfCnt else satInc 0xFFFF r.rtfCnt }

theorem exec_scanEnd {s : State} {k : Fin 8} (ns : Nat) (hscanning : (s.task k.val).scanning = true)
    (hended : (s.task k.val).ended = false) :
    ∃ t evt, exec (.scanEnd k ns) s = .next t ∧ t.task k.val = { (s.task k.val).atEnd ns with lastRtfEvt := evt } := by
  have hrunning : ((s.task k.val).scanning && !(s.task k.val).ended) = true := by simp [hscanning, hended]
  change ∃ t evt, execScanEnd k ns s = .next t ∧ _
  unfold execScanEnd
  extract_lets r ended
  have htask : ended.task k.val = (s.task k.val).atEnd ns := s.task_modTask_same k.val _
  rw [if_neg (by rw [hrunning]; decide)]
  split
  · exact ⟨_, some s.time.t2, rfl, by rw [State.raise_task, State.task_modTask_same, htask]; rfl⟩
  · exact ⟨_, _, rfl, htask⟩

/-! ### Loads of the maps (R229) -/

/-- The first map entry that a LOAD would change under a word that an image names (R229). -/
def State.mapOffence (s : State) (words : List Byte → List Nat) (map : Sparse (BitVec 64)) (l : List (Nat × BitVec 64)) :
    Option (Nat × BitVec 64) :=
  l.find? (fun x => (s.namedWords words).contains x.1 && decide (tget 0 map x.1 ≠ x.2))

section
variable {s : State} {p : Pair} {e : Entry}

theorem doInputMapLoad_accepted (htake : s.takeLoad p 6 1 = some e)
    (hgood : (withIndex e.first e.words64).any (fun x => mapEntryBad inLimit x.2) = false)
    (hfree : s.mapOffence inWordsOf s.blk.inMap (withIndex e.first e.words64) = none) :
    doInputMapLoad p s = .next (State.finish
      { s with blk := { s.blk with inMap := tload (fun _ => 0) s.blk.inMap (withIndex e.first e.words64) } } p.val e.sub 0
      (BitVec.ofNat 64 e.count)) := by
  unfold State.mapOffence at hfree
  simp only [doInputMapLoad, htake, hgood, hfree]
  rfl

theorem doOutputMapLoad_accepted {cl : List Claim} (htake : s.takeLoad p 6 2 = some e)
    (hgood : (withIndex e.first e.words64).any (fun x => mapEntryBad outLimit x.2 || s.ffTaken (mapSrc x.2)) = false)
    (hfree : s.mapOffence outWordsOf s.blk.outMap (withIndex e.first e.words64) = none)
    (hclaims : mapLoadClaims s.fio.claims (withIndex e.first e.words64) = .ok cl) :
    doOutputMapLoad p s = .next (State.finish
      { s.setClaims cl with blk := { s.blk with outMap := tload (fun _ => 0) s.blk.outMap (withIndex e.first e.words64) } }
      p.val e.sub 0 (BitVec.ofNat 64 e.count)) := by
  unfold State.mapOffence at hfree
  simp only [doOutputMapLoad, htake, hgood, hfree, hclaims]
  rfl

variable (hacts : s.roleActs = true) (hmirrors : s.mirrors = false)
include hacts hmirrors

theorem exec_inputMapLoad (htake : s.takeLoad p 6 1 = some e) : exec (.inputMapLoad p) s = doInputMapLoad p s :=
  State.asChange_of_acts htake hacts hmirrors

theorem exec_outputMapLoad (htake : s.takeLoad p 6 2 = some e) : exec (.outputMapLoad p) s = doOutputMapLoad p s :=
  State.asChange_of_acts htake hacts hmirrors

end

/-! ### Images and exchanges (R238, R250 to R252) -/

/-- The tasks take the cores of a new placement from their next releases (R222). -/
def State.takeCores (s : State) (cores : List (Nat × Nat)) : State :=
  cores.foldl (fun s x => s.modTask x.1 (fun r => { r with coreNext := x.2 })) s

theorem State.takeCores_mask (s : State) (cores : List (Nat × Nat)) : (s.takeCores cores).mask [.blk] = s.mask [.blk] :=
  foldl_keeps (State.mask [.blk]) (fun u (x : Nat × Nat) => State.modTask_mask rfl u x.1 _) _ _

/-- s with an EXCHANGE of task t accepted: its cores and claims taken, the request pending. -/
def State.acceptExchange (s : State) (p : Pair) (sub : Word) (t id : Nat) (cores : List (Nat × Nat)) (cl : List Claim) :
    State :=
  let u := (s.setClaims cl).takeCores cores
  (u.modTask t (fun r => { r with exch := some {
    imageId := id, pair := p, sub := sub, at_ := u.acceptT1, mine := u.runsOwnTasks } })).accept p.val sub

section
variable {s : State} {p : Pair} {e : Entry}

theorem doLoadImage_accepted {b : List Byte} (htake : s.takeOp p.val 3 1 = some e) (htask : e.byte16 < 8) (hlen : 64 ≤ e.len)
    (hexch : (s.task e.byte16).exch = none) (hrestart : (s.task e.byte16).restartReq = none)
    (hjudged : judgeImage e.word20 e.len e.data = .ok b) :
    doLoadImage p s = .next ((s.modTask e.byte16 (fun r => { r with inactive := b })).finish p.val e.sub 0
      (BitVec.ofNat 64 e.len)) := by
  simp [doLoadImage, htake, hexch, hrestart, hjudged, Nat.not_le.mpr htask, Nat.not_lt.mpr hlen]

theorem doExchange_removal {cores : List (Nat × Nat)} {cl : List Claim} (htake : s.takeOp p.val 3 2 = some e)
    (htask : e.byte16 < 8) (hid : e.word20 = 0) (hexch : (s.task e.byte16).exch = none)
    (hrestart : (s.task e.byte16).restartReq = none) (hjudged : s.judgeExchange e.byte16 [] = .ok (cores, cl)) :
    doExchange p s = .next (s.acceptExchange p e.sub e.byte16 0 cores cl) := by
  simp [doExchange, htake, htask, hid, hexch, hrestart, hjudged, State.acceptExchange, State.takeCores]

variable (hacts : s.roleActs = true) (hmirrors : s.mirrors = false)
include hacts hmirrors

theorem exec_loadImage (htake : s.takeOp p.val 3 1 = some e) : exec (.loadImage p) s = doLoadImage p s :=
  State.asChange_of_acts htake hacts hmirrors

theorem exec_exchange (htake : s.takeOp p.val 3 2 = some e) : exec (.exchange p) s = doExchange p s :=
  State.asChange_of_acts htake hacts hmirrors

/-- A member that acts and mirrors to no standby accepts at the present instant. -/
theorem State.acceptT1_of_acts : s.acceptT1 = s.time.tb1.ns := by
  have hreplays : s.replays = false := by
    simp only [State.roleActs, Bool.or_eq_true, decide_eq_true_eq] at hacts
    rcases hacts with h | h <;> simp [State.replays, h]
  simp [State.acceptT1, hmirrors, hreplays]

/-- The accepted exchange waits on its task, accepted at the present instant; of the field side's part only the claims change. -/
theorem State.acceptExchange_waits (sub : Word) (t id : Nat) (cores : List (Nat × Nat)) (cl : List Claim) :
    ((s.acceptExchange p sub t id cores cl).task t).exch =
        some { imageId := id, pair := p, sub := sub, at_ := s.time.tb1.ns, mine := s.runsOwnTasks } ∧
      (s.acceptExchange p sub t id cores cl).fio = { s.fio with claims := cl } := by
  have hkept := (s.setClaims cl).takeCores_mask cores
  have hat : ((s.setClaims cl).takeCores cores).acceptT1 = s.acceptT1 := (congrArg State.acceptT1 hkept :)
  have hmine : ((s.setClaims cl).takeCores cores).runsOwnTasks = s.runsOwnTasks := (congrArg State.runsOwnTasks hkept :)
  refine ⟨?_, State.only_fio hkept rfl⟩
  simp only [State.acceptExchange, State.accept_task, State.task_modTask_same, hat, hmine,
    State.acceptT1_of_acts hacts hmirrors]

end

/-! ### Boundaries (R221, R252) -/

/-- A boundary gives the task its new program. -/
theorem State.exchangeAt_program (s : State) (t : Nat) (q : ExchReq) (di : BitVec 64) (hs : BitVec 48) :
    ((s.exchangeAt t q di hs).task t).program =
      (none, if (s.task t).incoming.isEmpty then .empty else .running, (s.task t).incoming, (s.task t).coreNext) := by
  unfold State.exchangeAt
  extract_lets started stopped r b olds news delta published placed old next kept scanned
  obtain ⟨hincoming, hcore⟩ : r.incoming = (s.task t).incoming ∧ r.coreNext = (s.task t).coreNext := by
    unfold r stopped
    split
    · rw [State.stopTask_task, State.runtimeStart_task]
      exact ⟨rfl, rfl⟩
    · rw [State.runtimeStart_task]
      exact ⟨rfl, rfl⟩
  have hkept : kept.task t = next := by simp only [kept, State.keepWords_task, State.task_modTask_same]
  have hscanned : (scanned.task t).program = next.program := by
    unfold scanned
    split
    · rw [hkept]
    · obtain ⟨_, _, hprogram⟩ := kept.scan_task t delta di hs
      exact hprogram.trans (congrArg TaskRt.program hkept)
  have hfinished : (if q.mine then scanned.finish q.pair.val q.sub 0 (canonU scanned.time.tb2.ns.toNat) else scanned).task t =
      scanned.task t := by
    split <;> rfl
  rw [hfinished, hscanned, ← hincoming, ← hcore]
  rfl

theorem State.boundaryHere_eq_true_iff {s : State} {t : Nat} {q : ExchReq} : s.boundaryHere t q = true ↔
    100000 ≤ sdiff s.time.tb1.ns q.at_ ∧ ((s.task t).scanning = false ∨ (s.task t).ended = true) ∧
      (q.imageId = 0 ∨ s.gridNow % iPeriod (s.task t).incoming = 0) := by
  simp [State.boundaryHere, and_assoc]

section
variable {s : State} {k : Fin 8} {q : ExchReq} (hexch : (s.task k.val).exch = some q)
include hexch

theorem exec_exchangeBoundary_early (hearly : sdiff s.time.tb1.ns q.at_ < 100000) : exec (.exchangeBoundary k) s = .next s := by
  have hnot : s.boundaryHere k q = false :=
    Bool.eq_false_iff.mpr fun h => absurd (State.boundaryHere_eq_true_iff.mp h).1 (not_le.mpr hearly)
  change execExchangeBoundary k s = _
  simp [execExchangeBoundary, hexch, hnot]

theorem exec_exchangeBoundary_here (hruns : s.runsOwnTasks = true) (hhere : s.boundaryHere k q = true) :
    exec (.exchangeBoundary k) s = .next ((s.releaseOut k).exchangeAt k q s.fio.diImage s.hsDriven) := by
  change execExchangeBoundary k s = _
  simp [execExchangeBoundary, hexch, hruns, hhere]

theorem exchangeBoundary_completes (hruns : s.runsOwnTasks = true) (hhere : s.boundaryHere k q = true) :
    Completes [.hif, .cmb, .blk, .fio, .wag, .twn, .out, .freeIdx] (.exchangeBoundary k) s fun t =>
      (t.task k.val).program = (none, if (s.task k.val).incoming.isEmpty then .empty else .running,
        (s.task k.val).incoming, (s.task k.val).coreNext) := by
  refine completes_of_exec (exec_exchangeBoundary_here hexch hruns hhere) ?_ rfl
  rw [State.exchangeAt_program, State.releaseOut_task]

end

/-- Settles O18: a release, a scan end and a boundary by what each leaves of its task, a load by what it answers. -/
theorem blockTasks : Obligations.BlockTasks := by
  unfold Obligations.BlockTasks
  refine ⟨?starts, ?overruns, ?skipped, ?ends, ?inputMap, ?outputMap, ?image, ?exchange, ?removed, ?replaced, ?early⟩
  case starts =>
    intro s k hskip hruns hst hidle
    refine completes_of_exec (exec_taskRelease_running hskip hruns hst) ?_ rfl
    rw [State.judgePhase_task]
    exact State.releaseTask_starts _ _ _ ((congrArg TaskRt.scanning (s.releaseOut_task k k)).trans hidle)
  case overruns =>
    intro s k hskip hruns hst hscanning hended
    have hout := s.releaseOut_task k k
    obtain ⟨evt, htask⟩ := (s.releaseOut k).releaseTask_overruns s.fio.diImage s.hsDriven
      ((congrArg TaskRt.scanning hout).trans hscanning) ((congrArg TaskRt.ended hout).trans hended)
    refine completes_of_exec (exec_taskRelease_running hskip hruns hst) ?_ rfl
    rw [State.judgePhase_task, htask, hout]
    exact ⟨hscanning, rfl, rfl, rfl⟩
  case skipped => exact fun s k hskip => exec_taskRelease_skipped k hskip
  case ends =>
    intro s k ns hscanning hended
    obtain ⟨t, evt, hnext, htask⟩ := exec_scanEnd ns hscanning hended
    exact completes_of_exec hnext (by rw [htask]; exact ⟨rfl, rfl⟩) rfl
  case inputMap =>
    intro s p e htake hacts hmirrors hgood hfree
    exact ⟨_, (exec_inputMapLoad hacts hmirrors htake).trans (doInputMapLoad_accepted htake hgood hfree), rfl, rfl⟩
  case outputMap =>
    intro s p e cl htake hacts hmirrors hgood hfree hclaims
    exact ⟨_, (exec_outputMapLoad hacts hmirrors htake).trans (doOutputMapLoad_accepted htake hgood hfree hclaims),
      ⟨rfl, rfl⟩, rfl⟩
  case image =>
    intro s p e b htake hacts hmirrors htask hlen hexch hrestart hjudged
    exact ⟨_, (exec_loadImage hacts hmirrors htake).trans
      (doLoadImage_accepted htake htask hlen hexch hrestart hjudged), rfl, rfl⟩
  case exchange =>
    intro s p e cores cl htake hacts hmirrors htask hid hexch hrestart hjudged
    have hnext := doExchange_removal htake htask hid hexch hrestart hjudged
    exact ⟨_, (exec_exchange hacts hmirrors htake).trans hnext,
      State.acceptExchange_waits hacts hmirrors e.sub e.byte16 0 cores cl, only_of_nextMask (doExchange_mask rfl p s) hnext⟩
  case removed =>
    intro s k q hexch hended hruns hlate hid hnone
    have hhere := State.boundaryHere_eq_true_iff.mpr ⟨hlate, hended, .inl hid⟩
    refine (exchangeBoundary_completes hexch hruns hhere).imp fun t hprogram => ?_
    simp only [TaskRt.program, hnone, List.isEmpty_nil, if_true, Prod.mk.injEq] at hprogram
    obtain ⟨hdone, hempty, hactive, _⟩ := hprogram
    exact ⟨hdone, hempty, hactive⟩
  case replaced =>
    intro s k q hexch hended hruns hlate hgrid hsome
    have hhere := State.boundaryHere_eq_true_iff.mpr ⟨hlate, hended, .inr hgrid⟩
    refine (exchangeBoundary_completes hexch hruns hhere).imp fun t hprogram => ?_
    simpa [TaskRt.program, hsome] using hprogram
  case early => exact fun s k q hexch hearly => exec_exchangeBoundary_early hexch hearly

end Sys2Proof.Machine
end

section
/-! PROOFS. Loads of the converter tables (R268, R275, R276, R290, R291, R293, R294): what a load that is judged good leaves accepted, in
effect, on its way to the field side and in the first calibration copy, and what a refused one answers. -/

namespace Sys2Proof.Machine

section
variable {s : State} {p : Pair} {e : Entry}

/-! ### Channel table and scan lists (R268, R275, R276) -/

theorem State.takeLoadIn_eq_some_iff {block lo hi : Nat} : s.takeLoadIn p block lo hi = some e ↔
    s.takeOp p.val 1 1 = some e ∧ e.tblBlock = block ∧ lo ≤ e.tblNum ∧ e.tblNum ≤ hi := by
  unfold State.takeLoadIn
  cases s.takeOp p.val 1 1 with
  | none => simp
  | some x =>
    simp only [Bool.and_eq_true, decide_eq_true_eq, Option.ite_none_right_eq_some, Option.some.injEq]
    constructor
    · rintro ⟨⟨⟨hblock, hlow⟩, hhigh⟩, rfl⟩
      exact ⟨rfl, hblock, hlow, hhigh⟩
    · rintro ⟨rfl, hblock, hlow, hhigh⟩
      exact ⟨⟨⟨hblock, hlow⟩, hhigh⟩, rfl⟩

/-- s with entries l of the channel table accepted (R268). -/
def State.withChan (s : State) (l : List (Nat × BitVec 64)) : State :=
  { s with cnv := { s.cnv with chan := tload (fun _ => 0) s.cnv.chan l } }

/-- s with entries es of scan list l accepted (R275). -/
def State.withList (s : State) (l : Nat) (es : List (Nat × BitVec 64)) : State :=
  { s with cnv := { s.cnv with lists := tload (fun _ => 0) s.cnv.lists (es.map (fun x => (128 * l + x.1, x.2))) } }

theorem State.loadChan_good {l : List (Nat × BitVec 64)}
    (hgood : chanOffence (tload (fun _ => 0) s.cnv.chan l) s.cnv.lists = none) : s.loadChan l = .ok (s.withChan l) := by
  simp only [State.loadChan, hgood, State.withChan]

theorem State.loadChan_offends {l : List (Nat × BitVec 64)} {c : Nat}
    (hoffends : chanOffence (tload (fun _ => 0) s.cnv.chan l) s.cnv.lists = some c) :
    s.loadChan l = .refused 0x40 (BitVec.ofNat 64 c) := by
  simp only [State.loadChan, hoffends]

/-- A scan list that is judged good changes the accepted lists alone. -/
theorem State.eq_withList_of_loadList {t : State} {l : Nat} {es : List (Nat × BitVec 64)} (hjudged : s.loadList l es = .ok t) :
    t = s.withList l es := by
  unfold State.loadList at hjudged
  extract_lets lists h at hjudged
  split at hjudged
  · contradiction
  · split at hjudged
    · contradiction
    · exact (Judged.ok.inj hjudged).symm

theorem doChannelTableLoad_accepted {t : State} (htake : s.takeLoad p 7 1 = some e)
    (hjudged : s.loadChan (withIndex e.first e.words64) = .ok t) :
    doChannelTableLoad p s = .next ((t.pushScan p e none).accept p.val e.sub) := by
  simp [doChannelTableLoad, htake, hjudged, State.acceptLate]

theorem doChannelTableLoad_refused {c : Byte} {w : BitVec 64} (htake : s.takeLoad p 7 1 = some e)
    (hjudged : s.loadChan (withIndex e.first e.words64) = .refused c w) :
    doChannelTableLoad p s = .next (s.finish p.val e.sub c w) := by
  simp [doChannelTableLoad, htake, hjudged, State.acceptLate]

theorem doScanListLoad_accepted {t : State} (htake : s.takeLoadIn p 7 16 20 = some e)
    (hjudged : s.loadList (e.tblNum - 0x10) (withIndex e.first e.words64) = .ok t) :
    doScanListLoad p s = .next ((t.pushScan p e (some (e.tblNum - 0x10))).accept p.val e.sub) := by
  obtain ⟨hop, hblock, hlow, hhigh⟩ := State.takeLoadIn_eq_some_iff.mp htake
  simp [doScanListLoad, hop, hblock, Nat.not_lt.mpr hlow, Nat.not_lt.mpr hhigh, hjudged, State.acceptLate]

theorem doScanListLoad_refused {c : Byte} {w : BitVec 64} (htake : s.takeLoadIn p 7 16 20 = some e)
    (hjudged : s.loadList (e.tblNum - 0x10) (withIndex e.first e.words64) = .refused c w) :
    doScanListLoad p s = .next (s.finish p.val e.sub c w) := by
  obtain ⟨hop, hblock, hlow, hhigh⟩ := State.takeLoadIn_eq_some_iff.mp htake
  simp [doScanListLoad, hop, hblock, Nat.not_lt.mpr hlow, Nat.not_lt.mpr hhigh, hjudged, State.acceptLate]

/-! ### DAC table (R294) -/

/-- The first DAC of a load whose entry is not good, with the code for it (R294). -/
def State.dacOffence (s : State) (l : List (Nat × BitVec 64)) : Option (Byte × Nat) :=
  l.findSome? (fun x => (dacEntryJudge s x).map (fun c => (c, x.1)))

/-- s with entries l of the DAC table accepted. -/
def State.withDac (s : State) (l : List (Nat × BitVec 64)) : State :=
  { s with cnv := { s.cnv with dac := tload (fun _ => 0) s.cnv.dac l } }

theorem doDacTableLoad_accepted (htake : s.takeLoad p 7 2 = some e)
    (hgood : s.dacOffence (withIndex e.first e.words64) = none) :
    doDacTableLoad p s = .next ((s.withDac (withIndex e.first e.words64)).sendFio.finish p.val e.sub 0
      (BitVec.ofNat 64 e.count)) := by
  unfold State.dacOffence at hgood
  simp [doDacTableLoad, htake, State.loadDac, hgood, State.settle, State.withDac]

theorem doDacTableLoad_refused {c : Byte} {d : Nat} (htake : s.takeLoad p 7 2 = some e)
    (hoffends : s.dacOffence (withIndex e.first e.words64) = some (c, d)) :
    doDacTableLoad p s = .next (s.finish p.val e.sub c (BitVec.ofNat 64 d)) := by
  unfold State.dacOffence at hoffends
  simp [doDacTableLoad, htake, State.loadDac, hoffends, State.settle]

/-! ### Calibration (R290, R291, R293) -/

theorem State.coefLoad_accepted (f : Nat → Int) (put : List (Nat × BitVec 256) → CnvState)
    (hcanon : firstNoncanon 32 [(0, true), (1, false)] e.data = none)
    (hgood : (withIndex e.first e.words256).find? (fun x => !coefOk (f x.1) x.2) = none) :
    s.coefLoad p e f put = s.pushCal p e (put (withIndex e.first e.words256)) := by
  simp only [State.coefLoad, hcanon, hgood]

theorem State.coefLoad_refused (f : Nat → Int) (put : List (Nat × BitVec 256) → CnvState) {x : Nat × BitVec 256}
    (hcanon : firstNoncanon 32 [(0, true), (1, false)] e.data = none)
    (hbad : (withIndex e.first e.words256).find? (fun x => !coefOk (f x.1) x.2) = some x) :
    s.coefLoad p e f put = s.finish p.val e.sub 0x44 (BitVec.ofNat 64 x.1) := by
  simp only [State.coefLoad, hcanon, hbad]

/-- The calibration tables as accepted stand in the first copy, under the generation after those of both copies. -/
theorem State.pushCal_cal0 (c : CnvState) : (s.pushCal p e c).cnv.cal0 =
    { good := true, gen := max c.cal0.gen c.cal1.gen + 1, coef := c.coef, dacCoef := c.dacCoef, skew := c.skew } := rfl

/-- The load waits, as the last of those, until 2 ms after its acceptance. -/
theorem State.pushCal_waits (c : CnvState) : (s.pushCal p e c).cnv.calLoads.length = c.calLoads.length + 1 ∧
    (s.pushCal p e c).cnv.calLoads.getLast?.map (fun c => c.due) = some (tadd s.time.tb1.ns 2000000) := by
  have hloads : (s.pushCal p e c).cnv.calLoads = c.calLoads ++ [_] := rfl
  rw [hloads]
  simp

theorem State.pushCal_only (c : CnvState) : State.only [.hif, .cnv] s (s.pushCal p e c) := rfl

@[simp] theorem State.pushCal_coef (c : CnvState) : (s.pushCal p e c).cnv.coef = c.coef := rfl
@[simp] theorem State.pushCal_dacCoef (c : CnvState) : (s.pushCal p e c).cnv.dacCoef = c.dacCoef := rfl
@[simp] theorem State.pushCal_skew (c : CnvState) : (s.pushCal p e c).cnv.skew = c.skew := rfl
@[simp] theorem State.pushCal_coefEff (c : CnvState) : (s.pushCal p e c).cnv.coefEff = c.coefEff := rfl
@[simp] theorem State.pushCal_dacCoefEff (c : CnvState) : (s.pushCal p e c).cnv.dacCoefEff = c.dacCoefEff := rfl
@[simp] theorem State.pushCal_skewEff (c : CnvState) : (s.pushCal p e c).cnv.skewEff = c.skewEff := rfl

/-! ### The descriptors on a member that acts (R449) -/

variable (hacts : s.roleActs = true) (hmirrors : s.mirrors = false)
include hacts hmirrors

theorem exec_channelTableLoad (htake : s.takeLoad p 7 1 = some e) :
    exec (.channelTableLoad p) s = doChannelTableLoad p s := State.asChange_of_acts htake hacts hmirrors

theorem exec_scanListLoad (htake : s.takeLoadIn p 7 16 20 = some e) : exec (.scanListLoad p) s = doScanListLoad p s :=
  State.asChange_of_acts htake hacts hmirrors

theorem exec_dacTableLoad (htake : s.takeLoad p 7 2 = some e) : exec (.dacTableLoad p) s = doDacTableLoad p s :=
  State.asChange_of_acts htake hacts hmirrors

theorem exec_coefficientLoad (htake : s.takeLoad p 7 3 = some e) : exec (.coefficientLoad p) s = .next
    (s.coefLoad p e (fun i => nominalF (i % 5 + 1))
      (fun l => { s.cnv with coef := tload (fun _ => coefReset) s.cnv.coef l })) := by
  refine (State.asChange_of_acts htake hacts hmirrors).trans ?_
  simp only [doCoefficientLoad, htake]

theorem exec_dacCoefficientLoad (htake : s.takeLoad p 7 4 = some e) : exec (.dacCoefficientLoad p) s = .next
    (s.coefLoad p e (fun i => nominalDacF (i % 2 + 1))
      (fun l => { s.cnv with dacCoef := tload (fun _ => coefReset) s.cnv.dacCoef l })) := by
  refine (State.asChange_of_acts htake hacts hmirrors).trans ?_
  simp only [doDacCoefficientLoad, htake]

theorem exec_skewLoad (htake : s.takeLoad p 7 5 = some e) : exec (.skewLoad p) s = .next
    (s.pushCal p e { s.cnv with skew := tload (fun _ => 0) s.cnv.skew (withIndex e.first e.words128) }) := by
  refine (State.asChange_of_acts htake hacts hmirrors).trans ?_
  simp only [doSkewLoad, htake]

end

/-- Settles O24, table by table: an accepted load answers the state that its push leaves, a refused one its code. -/
theorem converterTables : Obligations.ConverterTables := by
  unfold Obligations.ConverterTables
  refine ⟨?chan, ?chanOffends, ?list, ?listOffends, ?dac, ?dacOffends, ?coef, ?coefOffends, ?dacCoef, ?skew⟩
  case chan =>
    intro s p e htake hacts hmirrors hgood
    exact (exec_channelTableLoad hacts hmirrors htake).trans (doChannelTableLoad_accepted htake (State.loadChan_good hgood))
  case chanOffends =>
    intro s p e c htake hacts hmirrors hoffends
    exact (exec_channelTableLoad hacts hmirrors htake).trans
      (doChannelTableLoad_refused htake (State.loadChan_offends hoffends))
  case list =>
    intro s p e t htake hacts hmirrors hjudged
    have hnext := (exec_scanListLoad hacts hmirrors htake).trans (doScanListLoad_accepted htake hjudged)
    rw [State.eq_withList_of_loadList hjudged] at hnext
    exact hnext
  case listOffends =>
    intro s p e c w htake hacts hmirrors hjudged
    exact (exec_scanListLoad hacts hmirrors htake).trans (doScanListLoad_refused htake hjudged)
  case dac =>
    intro s p e htake hacts hmirrors hgood
    exact ⟨_, (exec_dacTableLoad hacts hmirrors htake).trans (doDacTableLoad_accepted htake hgood), ⟨rfl, rfl⟩, rfl⟩
  case dacOffends =>
    intro s p e c d htake hacts hmirrors hoffends
    exact (exec_dacTableLoad hacts hmirrors htake).trans (doDacTableLoad_refused htake hoffends)
  case coef =>
    intro s p e htake hacts hmirrors hcanon hgood
    have hnext := exec_coefficientLoad hacts hmirrors htake
    rw [State.coefLoad_accepted (fun i => nominalF (i % 5 + 1)) _ hcanon hgood] at hnext
    exact ⟨_, hnext, ⟨State.pushCal_coef _, State.pushCal_cal0 _, State.pushCal_coefEff _, State.pushCal_waits _⟩,
      State.pushCal_only _⟩
  case coefOffends =>
    intro s p e x htake hacts hmirrors hcanon hbad
    rw [exec_coefficientLoad hacts hmirrors htake, State.coefLoad_refused (fun i => nominalF (i % 5 + 1)) _ hcanon hbad]
  case dacCoef =>
    intro s p e htake hacts hmirrors hcanon hgood
    have hnext := exec_dacCoefficientLoad hacts hmirrors htake
    rw [State.coefLoad_accepted (fun i => nominalDacF (i % 2 + 1)) _ hcanon hgood] at hnext
    exact ⟨_, hnext, ⟨State.pushCal_dacCoef _, State.pushCal_cal0 _, State.pushCal_dacCoefEff _⟩, State.pushCal_only _⟩
  case skew =>
    intro s p e htake hacts hmirrors
    exact ⟨_, exec_skewLoad hacts hmirrors htake, ⟨State.pushCal_skew _, State.pushCal_skewEff _, State.pushCal_cal0 _⟩,
      State.pushCal_only _⟩

end Sys2Proof.Machine
end

section
/-! PROOFS. Conversion slots (R273, R280, R282, R284, R287): what the words of vacant lists and the check of a converter leave of an entry
that is converted, and what a conversion adds to its word. -/

namespace Sys2Proof.Machine

/-! ### The entry that is converted, beside the words of other lists (R284, R287) -/

/-- The State without the words under way and made: what a word of a list that no converter serves does not touch. -/
def State.besideWords (s : State) : State :=
  { s with cnv := { s.cnv with acc := [], made := [] }, fio := { s.fio with up := [] } }

section
variable {s t : State} (h : t.besideWords = s.besideWords)
include h

theorem State.listsEff_of_besideWords : t.cnv.listsEff = s.cnv.listsEff := (congrArg (fun u : State => u.cnv.listsEff) h :)
theorem State.chanEff_of_besideWords : t.cnv.chanEff = s.cnv.chanEff := (congrArg (fun u : State => u.cnv.chanEff) h :)
theorem State.bootCal_of_besideWords : t.cnv.bootCal = s.cnv.bootCal := (congrArg (fun u : State => u.cnv.bootCal) h :)
theorem State.vacantList_of_besideWords : t.vacantList = s.vacantList := (congrArg State.vacantList h :)
theorem State.oneConversion_of_besideWords : t.oneConversion = s.oneConversion := (congrArg State.oneConversion h :)

end

/-- The run-time state of entry e of list l. -/
def State.entryRt (s : State) (l e : Nat) : AccRt := tget {} s.cnv.acc (128 * l + e)

/-- From s to t words of other entries than entry e of list l may have been made and sent, and nothing else has changed. -/
def State.OtherWords (l e : Nat) (s t : State) : Prop :=
  t.besideWords = s.besideWords ∧ t.entryRt l e = s.entryRt l e ∧ s.fio.up.length ≤ t.fio.up.length

theorem State.OtherWords.refl (l e : Nat) (s : State) : State.OtherWords l e s s := ⟨rfl, rfl, le_rfl⟩

theorem State.OtherWords.trans {l e : Nat} {s t u : State} (hst : State.OtherWords l e s t) (htu : State.OtherWords l e t u) :
    State.OtherWords l e s u := by
  obtain ⟨hbeside, hentry, hup⟩ := hst
  obtain ⟨hbeside', hentry', hup'⟩ := htu
  exact ⟨hbeside'.trans hbeside, hentry'.trans hentry, hup.trans hup'⟩

theorem foldl_otherWords {α : Type} {l e : Nat} {f : State → α → State} {xs : List α}
    (h : ∀ s, ∀ x ∈ xs, State.OtherWords l e s (f s x)) (s : State) : State.OtherWords l e s (xs.foldl f s) :=
  List.foldlRecOn (motive := State.OtherWords l e s) xs f (.refl l e s) fun t ht x hx => ht.trans (h t x hx)

/-- The entries of a list, 1 to 64, lie apart from those of every other list. -/
theorem entryKey_ne {l l' e e' : Nat} (hl : l' ≠ l) (he : e ≤ 64) (he' : e' ≤ 64) : 128 * l + e ≠ 128 * l' + e' := by omega

section
variable {s : State} {l l' e e' : Nat} (hother : 128 * l + e ≠ 128 * l' + e')
include hother

theorem State.entryRt_tput (r : AccRt) :
    State.entryRt { s with cnv := { s.cnv with acc := tput {} r s.cnv.acc (128 * l' + e') } } l e = s.entryRt l e :=
  tget_tput_other _ _ _ _ _ hother

theorem State.dropEntryWord_otherWords (t : Time) : State.OtherWords l e s (s.dropEntryWord l' e' t) := by
  refine ⟨rfl, State.entryRt_tput hother _, ?_⟩
  exact List.length_append ▸ Nat.le_add_right _ _

theorem State.missConversions_otherWords (n : Nat) (x : BitVec 64) :
    State.OtherWords l e s (s.missConversions l' n e' x) := by
  unfold State.missConversions
  extract_lets key r miss first c missed
  have hmissed : State.OtherWords l e s missed := ⟨rfl, State.entryRt_tput hother _, le_rfl⟩
  split
  · exact .refl l e s
  · split
    · exact hmissed.trans (State.dropEntryWord_otherWords hother _)
    · exact hmissed

end

theorem State.entry_le_of_mem_dueEntries {s : State} {l n : Nat} {x : Nat × BitVec 64} (hx : x ∈ s.dueEntries l n) : x.1 ≤ 64 := by
  simp only [State.dueEntries, listRun, List.mem_filter, List.mem_map, Bool.and_eq_true, decide_eq_true_eq] at hx
  obtain ⟨⟨y, ⟨_, ⟨_, hy⟩, _⟩, rfl⟩, _⟩ := hx
  exact Nat.sub_le_iff_le_add'.mpr hy

/-- One list of `State.missDue`: where it is vacant, its due words are sent. -/
def State.missListDue (n : Nat) (t : Time) (s : State) (l : Nat) : State :=
  if !s.vacantList l then s
  else
    ((s.dueEntries l n).filter (fun x => decide (sdiff t (s.slotInstant l n (leSlot x.2 + 2 ^ leOvs x.2)) ≥ 0))).foldl
      (fun s x => s.missConversions l n x.1 x.2) s

theorem State.missDue_eq (s : State) (n : Nat) (t : Time) :
    s.missDue n t = (List.range 5).foldl (State.missListDue n t) s := rfl

theorem State.missListDue_of_served {s : State} {l : Nat} (hserved : s.vacantList l = false) (n : Nat) (t : Time) :
    s.missListDue n t l = s := by
  simp [State.missListDue, hserved]

theorem State.missListDue_otherWords {s : State} {l l' e : Nat} (hl : l' ≠ l) (he : e ≤ 64) (n : Nat) (t : Time) :
    State.OtherWords l e s (s.missListDue n t l') := by
  unfold State.missListDue
  split
  · exact .refl l e s
  · exact foldl_otherWords (fun u x hx => State.missConversions_otherWords
      (entryKey_ne hl he (State.entry_le_of_mem_dueEntries (List.mem_of_mem_filter hx))) n x.2) s

/-- The words of vacant lists leave the entries of a list that a converter serves alone. -/
theorem State.missDue_otherWords {s : State} {l e : Nat} (hserved : s.vacantList l = false) (he : e ≤ 64) (n : Nat) (t : Time) :
    State.OtherWords l e s (s.missDue n t) := by
  rw [State.missDue_eq]
  refine List.foldlRecOn _ _ (.refl l e s) fun u hu l' _ => ?_
  by_cases hl : l' = l
  · have hserved' : u.vacantList l' = false := by rw [State.vacantList_of_besideWords hu.1, hl, hserved]
    rw [State.missListDue_of_served hserved']
    exact hu
  · exact hu.trans (State.missListDue_otherWords hl he n t)

theorem State.missDue_of_stopped {s : State} (hstopped : s.cnv.listsRun = false) (n : Nat) (t : Time) : s.missDue n t = s :=
  List.foldl_fixed' (fun l => State.missListDue_of_served (l := l) (by simp [State.vacantList, hstopped]) n t) _

/-! ### The plan of a list (R274, R280) -/

/-- An urgent conversion moves the others to later slots; which conversions of which entries they are stays. -/
theorem interrupt_conversions (pins : List Nat) (plan : List (Nat × Nat × Nat × Bool)) (u : Nat) :
    (interrupt pins plan u).map Prod.snd = plan.map Prod.snd := by
  unfold interrupt
  split
  · rw [List.map_map]
    refine List.map_congr_left fun x _ => ?_
    simp only [Function.comp_apply]
    split <;> rfl
  · rfl

theorem State.entry_le_of_slotPlan {s : State} {l n k i j : Nat} (hplan : (k, i, j) ∈ s.slotPlan l n) : i ≤ 64 := by
  unfold State.slotPlan at hplan
  extract_lets es pins plan at hplan
  obtain ⟨⟨_, i', j', pinned⟩, hmem, heq⟩ := List.mem_map.mp hplan
  obtain ⟨-, rfl, rfl⟩ := Prod.mk.injEq .. ▸ heq
  have hkept := foldl_keeps (List.map Prod.snd) (interrupt_conversions pins) (s.urgentTaken l ++ (s.urgentSlot l n).toList) plan
  have hin := List.mem_map_of_mem (f := Prod.snd) hmem
  rw [hkept] at hin
  simp only [plan, es, List.mem_map, List.mem_flatMap] at hin
  obtain ⟨_, ⟨x, hx, _, _, rfl⟩, heq⟩ := hin
  cases heq
  exact State.entry_le_of_mem_dueEntries hx

/-! ### What a slot converts (R273, R280, R284) -/

/-- Slot n of converter k, which serves list l, is due the j-th conversion of entry i: no urgent conversion takes the slot or has taken
it, and no handover is under way. -/
def State.EntryDue (s : State) (k n l i j : Nat) : Prop :=
  s.cnv.listOf k = some l ∧ s.cnv.role k ≠ 5 ∧ s.cnv.listsRun = true ∧ l ≠ 4 ∧ leEn (listEntry s.cnv.listsEff l 0) = true ∧
    s.urgentSlot l s.cmb.n ≠ some n ∧ (tget [] s.cnv.slip l).find? (fun x => decide (x.1 = n)) = none ∧
    (s.slotPlan l s.cmb.n).find? (fun x => decide (x.1 = n)) = some (n, i, j) ∧ s.cnv.handover = none

section
variable {s : State} {k n l i j : Nat} (hdue : s.EntryDue k n l i j)
include hdue

theorem State.EntryDue.entry_le : i ≤ 64 := by
  obtain ⟨_, _, _, _, _, _, _, hplan, _⟩ := hdue
  exact State.entry_le_of_slotPlan (List.mem_of_find?_eq_some hplan)

theorem State.EntryDue.handover : s.cnv.handover = none := by
  obtain ⟨_, _, _, _, _, _, _, _, hhandover⟩ := hdue
  exact hhandover

theorem State.EntryDue.served (hk : k < 5) : s.vacantList l = false := by
  obtain ⟨hlist, hrole, _, hl, _⟩ := hdue
  have hserves : s.cnv.role k = l := by
    simp only [CnvState.listOf, hrole, if_false] at hlist
    split at hlist <;> simp_all
  have hholder : (s.cnv.holder l).isSome = true :=
    List.find?_isSome.mpr ⟨k, List.mem_range.mpr hk, decide_eq_true hserves⟩
  simp [State.vacantList, Option.isNone_eq_false_iff.mpr hholder, hl]

theorem State.EntryDue.of_otherWords {t : State} (ht : State.OtherWords l i s t) : t.EntryDue k n l i j := by
  have hbeside : s.besideWords.EntryDue k n l i j := hdue
  rw [← ht.1] at hbeside
  exact hbeside

theorem State.convertSlot_of_due (hboot : s.cnv.bootCal.getD k false = false) (code : BitVec 20) (cond : Bool) :
    s.convertSlot k n code cond =
      s.convEntry k l i code cond (s.slotInstant l s.cmb.n n) (decide (s.cnv.role k = 4)) := by
  obtain ⟨hlist, hrole, hruns, hl, hen, hurgent, htaken, hplan, hhandover⟩ := hdue
  rw [List.getD_eq_getElem?_getD] at hboot
  simp [State.convertSlot, hlist, hrole, hruns, hl, hen, hurgent, htaken, hplan, hhandover, hboot]

end

theorem State.convertSlot_of_stopped {s : State} (hstopped : s.cnv.listsRun = false) (k n : Nat) (code : BitVec 20) (cond : Bool) :
    s.convertSlot k n code cond = s := by
  unfold State.convertSlot
  split
  · rfl
  · simp [hstopped]

/-! ### A conversion of an entry (R271, R272) -/

section
variable {s : State} {l e : Nat}

theorem State.convEntry_adds (k : Nat) (code : BitVec 20) (cond : Bool) (t : Time) (spr : Bool)
    (hmore : (s.entryRt l e).n + 1 < leN (listEntry s.cnv.listsEff l e)) :
    ((s.convEntry k l e code cond t spr).entryRt l e).n = (s.entryRt l e).n + 1 ∧
    ((s.convEntry k l e code cond t spr).entryRt l e).got = (s.entryRt l e).got + 1 ∧
    ((s.convEntry k l e code cond t spr).entryRt l e).sum = (s.entryRt l e).sum +
      s.oneConversion k (leChan (listEntry s.cnv.listsEff l e)) (tget 0 s.cnv.chanEff (leChan (listEntry s.cnv.listsEff l e)))
        code := by
  unfold State.convEntry
  extract_lets x c w key r lim added
  have hadded : added.n < leN x := hmore
  rw [if_neg (by simp [hadded]), if_pos hadded]
  unfold State.entryRt
  rw [tget_tput_same]
  exact ⟨rfl, rfl, rfl⟩

theorem State.convEntry_handover (k : Nat) (code : BitVec 20) (cond : Bool) (t : Time) (spr : Bool) :
    (s.convEntry k l e code cond t spr).cnv.handover = s.cnv.handover := by
  unfold State.convEntry
  extract_lets x c w key r lim added cnv v word kept
  split
  · rfl
  · split
    · rfl
    · split <;> rfl

theorem State.convEntry_completes (k : Nat) (code : BitVec 20) (cond : Bool) (t : Time) (spr : Bool)
    (hlast : (s.entryRt l e).n + 1 = leN (listEntry s.cnv.listsEff l e)) (hgap : (s.entryRt l e).gap = false) :
    ((s.convEntry k l e code cond t spr).entryRt l e).n = 0 ∧ ((s.convEntry k l e code cond t spr).entryRt l e).sum = 0 ∧
    ((s.convEntry k l e code cond t spr).entryRt l e).lastGood.isSome = true ∧
    s.fio.up.length < (s.convEntry k l e code cond t spr).fio.up.length := by
  unfold State.convEntry
  extract_lets x c w key r lim added cnv v word kept
  have hadded : added.n = leN x := hlast
  have hwhole : added.gap = false := hgap
  rw [if_neg (by simp [hwhole]), if_neg (by simp [hadded])]
  have hkept : kept.entryRt l e = { lastGood := some word, got := added.got } := tget_tput_same _ _ _ _
  have hfree : (if v.2.2.2 then kept.tookFree else kept).entryRt l e = kept.entryRt l e ∧
      (if v.2.2.2 then kept.tookFree else kept).fio = s.fio := by split <;> exact ⟨rfl, rfl⟩
  obtain ⟨hentry, hfio⟩ := hfree
  have hsent (u : State) (stamp : Time) : (u.sendWord word stamp).entryRt l e = u.entryRt l e ∧
      (u.sendWord word stamp).fio.up.length = u.fio.up.length + 1 := ⟨rfl, List.length_append⟩
  obtain ⟨hsentEntry, hsentUp⟩ := hsent (if v.2.2.2 then kept.tookFree else kept) (midpoint added.first t)
  rw [hsentEntry, hentry, hkept, hsentUp, hfio]
  exact ⟨rfl, rfl, rfl, Nat.lt_succ_self _⟩

end

/-! ### The check of a converter (R287) -/

/-- s with a conversion check of converter k counted, its last outcomes being w. -/
def State.countCheck (s : State) (k : Nat) (f : Bool) (w : List Bool) : State :=
  { s with cnv := { s.cnv with
      checks := tput [] w s.cnv.checks k
      chkFail := tput 0 (if f then satInc 0xFFFF (tget 0 s.cnv.chkFail k) else tget 0 s.cnv.chkFail k) s.cnv.chkFail k
      chkSecond := s.cnv.chkSecond + f.toNat } }

/-- Fewer than 16 failures of the last 256 conversions are counted. -/
theorem State.convCheck_few {s : State} {k : Nat} {f : Bool}
    (hfew : ((f :: tget [] s.cnv.checks k).take 256).countP (fun b => b) < 16) :
    s.convCheck k f = s.countCheck k f ((f :: tget [] s.cnv.checks k).take 256) := by
  rw [List.countP_eq_length_filter] at hfew
  unfold State.convCheck
  extract_lets w failures cnt c counted
  have hlow : ¬failures ≥ 16 := Nat.not_le.mpr hfew
  rw [if_neg hlow]
  simp only [counted, c, if_neg hlow]
  rfl

/-- 16 of them put the converter in FAULT, its checks forgotten. -/
theorem State.convCheck_many {s : State} {k : Nat} {f : Bool}
    (hmany : 16 ≤ ((f :: tget [] s.cnv.checks k).take 256).countP (fun b => b)) :
    s.convCheck k f = (s.countCheck k f []).convFault k := by
  rw [List.countP_eq_length_filter] at hmany
  unfold State.convCheck
  extract_lets w failures cnt c counted
  have hhigh : failures ≥ 16 := hmany
  rw [if_pos hhigh]
  simp only [counted, c, if_pos hhigh]
  rfl

/-- A converter that enters FAULT while no handover is under way: its role is FAULT, the spare may take its group over at the next base
period start, and event 0x48 goes up. -/
theorem State.convFault_of_noHandover {s : State} (hhandover : s.cnv.handover = none) (k : Nat) : ∃ failover, s.convFault k =
    (State.countLedger { s with cnv := { s.cnv.setRole k 7 with failover := failover } } 19).fieldRaise 0x48
      (BitVec.ofNat 64 (k + s.cnv.role k * 256)) := by
  unfold State.convFault
  extract_lets former inHandover aborted faulted c replaced
  have hnone : inHandover = false := by simp [inHandover, hhandover]
  have haborted : aborted = s := by simp [aborted, hnone]
  have hreplaced : ∃ failover, replaced = { s with cnv := { s.cnv.setRole k 7 with failover := failover } } := by
    unfold replaced c faulted
    rw [haborted]
    split
    · next spare _ =>
      split
      · exact ⟨some (former, spare), rfl⟩
      · exact ⟨s.cnv.failover, rfl⟩
    · exact ⟨s.cnv.failover, rfl⟩
  obtain ⟨failover, heq⟩ := hreplaced
  exact ⟨failover, by rw [heq]⟩

section
variable {s : State} (hhandover : s.cnv.handover = none)
include hhandover

/-- The check leaves the words under way alone, and takes nothing off the uplink. -/
theorem State.convCheck_leaves (k : Nat) (f : Bool) :
    (s.convCheck k f).cnv.acc = s.cnv.acc ∧ s.fio.up.length ≤ (s.convCheck k f).fio.up.length := by
  by_cases hmany : 16 ≤ ((f :: tget [] s.cnv.checks k).take 256).countP (fun b => b)
  · obtain ⟨failover, hfault⟩ := State.convFault_of_noHandover (s := s.countCheck k f []) hhandover k
    rw [State.convCheck_many hmany, hfault]
    exact ⟨rfl, List.length_append ▸ Nat.le_add_right _ _⟩
  · rw [State.convCheck_few (Nat.not_le.mp hmany)]
    exact ⟨rfl, le_rfl⟩

theorem State.convCheck_faults {k : Nat} {f : Bool} (hk : k < s.cnv.roles.length)
    (hmany : 16 ≤ ((f :: tget [] s.cnv.checks k).take 256).countP (fun b => b)) :
    (s.convCheck k f).cnv.role k = 7 ∧ tget [] (s.convCheck k f).cnv.checks k = [] := by
  obtain ⟨failover, hfault⟩ := State.convFault_of_noHandover (s := s.countCheck k f []) hhandover k
  rw [State.convCheck_many hmany, hfault]
  refine ⟨?_, tget_tput_same _ _ _ _⟩
  change (s.cnv.roles.set k 7).getD k 7 = 7
  simp [List.getD_eq_getElem?_getD, hk]

end

/-! ### CONVERSION_SLOT (R273, R287) -/

section
variable {s : State} {k : Fin 5} (n : Fin 20) (code : BitVec 20) (cond f : Bool) (hconverts : s.converts k.val = true)
  (hpresent : s.pw.logicAbsent = false)
include hconverts hpresent

theorem exec_conversionSlot : exec (.conversionSlot k n code cond f) s =
    .next (((s.missDue s.cmb.n s.time.shadow.ns).convertSlot k.val n.val code cond).convCheck k.val f) := by
  change execConversionSlot k n code cond f s = _
  simp [execConversionSlot, hconverts, hpresent]

/-- While the lists do not run, the slot checks its converter only. -/
theorem exec_conversionSlot_stopped (hstopped : s.cnv.listsRun = false) :
    exec (.conversionSlot k n code cond f) s = .next (s.convCheck k.val f) := by
  rw [exec_conversionSlot n code cond f hconverts hpresent, State.missDue_of_stopped hstopped,
    State.convertSlot_of_stopped hstopped]

/-- A slot that is due a conversion of an entry makes it, on a State in which words of other lists may have been sent; the check leaves
the entry as it then is. -/
theorem exec_conversionSlot_due {l i j : Nat} (hdue : s.EntryDue k.val n.val l i j) : ∃ u at_ spr v, State.OtherWords l i s u ∧
    exec (.conversionSlot k n code cond f) s = .next v ∧
    v.entryRt l i = (u.convEntry k.val l i code cond at_ spr).entryRt l i ∧
    (u.convEntry k.val l i code cond at_ spr).fio.up.length ≤ v.fio.up.length := by
  have hmissed := State.missDue_otherWords (hdue.served k.isLt) hdue.entry_le s.cmb.n s.time.shadow.ns
  have hdue' := hdue.of_otherWords hmissed
  have hboot : (s.missDue s.cmb.n s.time.shadow.ns).cnv.bootCal.getD k.val false = false := by
    simp only [State.converts, Bool.and_eq_true, Bool.not_eq_true'] at hconverts
    rw [State.bootCal_of_besideWords hmissed.1]
    exact hconverts.2
  have hnext := exec_conversionSlot n code cond f hconverts hpresent
  rw [State.convertSlot_of_due hdue' hboot] at hnext
  obtain ⟨hacc, hup⟩ := State.convCheck_leaves ((State.convEntry_handover ..).trans hdue'.handover) k.val f
  exact ⟨_, _, _, _, hmissed, hnext, congrArg (fun acc : Sparse AccRt => tget {} acc (128 * l + i)) hacc, hup⟩


/-! ### What the conversion of a slot leaves (R271, R272) -/

theorem conversionSlot_adds {l i j : Nat} (hdue : s.EntryDue k.val n.val l i j)
    (hmore : (s.entryRt l i).n + 1 < leN (listEntry s.cnv.listsEff l i)) :
    Completes [.cnv, .fio, .drn, .peat, .freeIdx] (.conversionSlot k n code cond f) s fun t =>
      (t.entryRt l i).n = (s.entryRt l i).n + 1 ∧ (t.entryRt l i).got = (s.entryRt l i).got + 1 ∧
      (t.entryRt l i).sum = (s.entryRt l i).sum + s.oneConversion k.val (leChan (listEntry s.cnv.listsEff l i))
        (tget 0 s.cnv.chanEff (leChan (listEntry s.cnv.listsEff l i))) code := by
  obtain ⟨u, at_, spr, v, ⟨hbeside, hsame, _⟩, hnext, hentry, _⟩ :=
    exec_conversionSlot_due n code cond f hconverts hpresent hdue
  have hmore' : (u.entryRt l i).n + 1 < leN (listEntry u.cnv.listsEff l i) := by
    rw [hsame, State.listsEff_of_besideWords hbeside]
    exact hmore
  have hadds := State.convEntry_adds k.val code cond at_ spr hmore'
  rw [← hentry, hsame, State.oneConversion_of_besideWords hbeside, State.listsEff_of_besideWords hbeside,
    State.chanEff_of_besideWords hbeside] at hadds
  exact completes_of_exec hnext hadds rfl

theorem conversionSlot_wholeWord {l i j : Nat} (hdue : s.EntryDue k.val n.val l i j)
    (hlast : (s.entryRt l i).n + 1 = leN (listEntry s.cnv.listsEff l i)) (hgap : (s.entryRt l i).gap = false) :
    Completes [.cnv, .fio, .drn, .peat, .freeIdx] (.conversionSlot k n code cond f) s fun t =>
      (t.entryRt l i).n = 0 ∧ (t.entryRt l i).sum = 0 ∧ (t.entryRt l i).lastGood.isSome = true ∧
      s.fio.up.length < t.fio.up.length := by
  obtain ⟨u, at_, spr, v, ⟨hbeside, hsame, hup⟩, hnext, hentry, hup'⟩ :=
    exec_conversionSlot_due n code cond f hconverts hpresent hdue
  have hlast' : (u.entryRt l i).n + 1 = leN (listEntry u.cnv.listsEff l i) := by
    rw [hsame, State.listsEff_of_besideWords hbeside]
    exact hlast
  obtain ⟨hn, hsum, hgood, hsent⟩ := State.convEntry_completes k.val code cond at_ spr hlast' (hsame ▸ hgap)
  rw [← hentry] at hn hsum hgood
  exact completes_of_exec hnext ⟨hn, hsum, hgood, (hup.trans_lt hsent).trans_le hup'⟩ rfl

end

end Sys2Proof.Machine
end

section
/-! PROOFS. Urgent requests, spare rotation, self-calibration and measurements (R279, R284, R286 to R288, R292, R301), and with them the
statement on conversions. -/

namespace Sys2Proof.Machine

/-! ### Urgent requests (R279) -/

section
variable {s : State} {p : Pair} {e : Entry}

/-- With no request pending, one is stored and sent down. -/
theorem State.requestUrgent_first (hnone : s.cnv.urgent = []) (c l : Nat) : s.requestUrgent c l =
    .ok (State.sendDown { s with cnv := { s.cnv with urgent := [(l, { chan := c })] } } (.urgent c l)) := by
  simp [State.requestUrgent, hnone]

theorem State.requestUrgent_pending {c l : Nat} {x : Nat × UrgentReq}
    (hpending : s.cnv.urgent.find? (fun x => decide (x.1 = l)) = some x) :
    s.requestUrgent c l = .refused 0x43 (BitVec.ofNat 64 l) := by
  simp [State.requestUrgent, hpending]

theorem doUrgent_reachable (htake : s.takeParam p 1 7 1 = some e) (hvalue : e.value < 2048) (hlist : e.value / 256 % 8 ≤ 4)
    (hreach : reachable (e.value / 256 % 8) (e.value % 256) = true) (hon : s.chanOff (e.value % 256) = false) :
    doUrgent p s = .next (s.settle p e 0 (s.requestUrgent (e.value % 256) (e.value / 256 % 8))) := by
  simp [doUrgent, htake, Nat.not_le.mpr hvalue, Nat.not_lt.mpr hlist, hreach, hon]

end

/-! ### Spare rotation (R284, R288) -/

/-- s with a handover of group g to converter k waiting for a pattern start. -/
def State.awaitHandover (s : State) (g k : Nat) : State :=
  { s with cnv := { s.cnv with handover := some { group := g, from_ := s.cnv.holder g, to_ := k } } }

theorem State.startHandover_waits {s : State} {k : Nat} (hspare : s.cnv.holder 4 = some k) (hnone : s.cnv.handover = none) (g : Nat) :
    s.startHandover g = .ok (s.awaitHandover g k) := by
  simp only [State.startHandover, hspare, hnone, State.awaitHandover]

theorem State.startHandover_refused {s : State} (h : s.cnv.holder 4 = none ∨ s.cnv.handover.isSome = true) (g : Nat) :
    s.startHandover g = .refused 0x42 0 := by
  unfold State.startHandover
  split
  · next hspare hnone =>
    simp [hspare, hnone] at h
  · rfl

theorem doRotate_group {s : State} {p : Pair} {e : Entry} (htake : s.takeParam p 1 7 2 = some e) (hgroup : e.value < 4) :
    doRotate p s = .next (s.settle p e 0 (s.startHandover e.value)) := by
  simp [doRotate, htake, Nat.not_le.mpr hgroup]

theorem exec_rotationInterval_waits {s : State} {k : Nat} (hon : s.rbit 0x7000 1 = true) (hspare : s.cnv.holder 4 = some k)
    (hnone : s.cnv.handover = none) :
    exec .rotationInterval s = .next (s.awaitHandover ((s.cnv.lastGroup + 1) % 4) k) := by
  change execRotationInterval s = _
  simp [execRotationInterval, hon, State.startHandover_waits hspare hnone]

theorem exec_rotationInterval_skipped {s : State}
    (h : s.rbit 0x7000 1 = false ∨ s.cnv.holder 4 = none ∨ s.cnv.handover.isSome = true) :
    exec .rotationInterval s = .next s := by
  change execRotationInterval s = _
  unfold execRotationInterval
  rcases h with hoff | hbusy
  · simp [hoff]
  · simp [State.startHandover_refused hbusy]

/-! ### Self-calibration (R286, R287, R289) -/

/-- A self-calibration of converter k passes its check against the factory values. -/
def selfCalPasses (c : SelfCalCodes) (k : Nat) : Bool :=
  (selfCalOf c).passes { offset := Config.factoryOffset k, gain := Config.factoryGain k }

section
variable {s : State} {k : Fin 5} (c : SelfCalCodes)

theorem exec_selfCalibrationEnd_boot (hboot : s.cnv.bootCal.getD k.val false = true) : exec (.selfCalibrationEnd k c) s =
    .next (let u : State :=
      { s with cnv := CnvState.calibrated { s.cnv with bootCal := setAt s.cnv.bootCal k.val false } k.val (selfCalOf c) }
      if selfCalPasses c k.val then u else u.convFault k.val) := by
  change execSelfCalibrationEnd k c s = _
  unfold execSelfCalibrationEnd
  extract_lets _ x passed
  exact if_pos hboot

theorem exec_selfCalibrationEnd_role (hboot : s.cnv.bootCal.getD k.val false = false) (hrole : s.cnv.role k.val = 6)
    (hnone : s.cnv.handover = none) : exec (.selfCalibrationEnd k c) s = .next (if selfCalPasses c k.val then
      { s with cnv := CnvState.calibrated { s.cnv.setRole k.val 4 with list4Held := true } k.val (selfCalOf c) }
    else s.convFault k.val) := by
  change execSelfCalibrationEnd k c s = _
  unfold execSelfCalibrationEnd
  extract_lets i x passed _ _ calibrating calibrated
  have hchecked : passed = selfCalPasses c k.val := rfl
  rw [if_neg (by simpa [i] using hboot), if_neg (not_not.mpr hrole), hchecked]
  cases selfCalPasses c k.val with
  | false => rfl
  | true =>
    have hwaits : calibrated.cnv.handover = none := hnone
    simp only [hwaits]
    rfl

theorem exec_converterClrFault (hup : s.hostUp = true) (hfault : s.cnv.role k.val = 7) :
    exec (.converterClrFault k) s = .next { s with cnv := s.cnv.setRole k.val 6 } := by
  change execConverterClrFault k s = _
  simp [execConverterClrFault, hup, hfault]

end

/-! ### Measurements and the newest sample (R292, R301) -/

section
variable {s : State} {p : Pair} {e : Entry}

/-- s with the measurement of descriptor e on converter k under way. -/
def State.startMeasure (s : State) (p : Pair) (e : Entry) (k : Nat) : State :=
  { s with cnv := { s.cnv with
      cal := some { pair := p, sub := e.sub, chan := e.value % 256, n := e.value / 256 % 65536, conv := k }, calHold := true } }

theorem doCalMeasure_starts {k : Nat} (htake : s.takeParam p 1 7 3 = some e) (hvalue : e.value < 2 ^ 24)
    (hchan : e.value % 256 < 128) (hcount : e.value / 256 % 65536 ≠ 0) (hon : s.chanOff (e.value % 256) = false)
    (hspare : s.cnv.holder 4 = some k) (hfree : s.cnv.cal = none) :
    doCalMeasure p s = .next ((s.startMeasure p e k).accept p.val e.sub) := by
  simp only [doCalMeasure, htake]
  rw [if_neg (by simpa [Nat.not_le.mpr hchan, hcount, hon] using hvalue)]
  simp only [hspare, hfree]
  rfl

theorem exec_calMeasureEnd_one {j : CalJob} (c : BitVec 20) (hcal : s.cnv.cal = some j) (hone : j.n = 1) :
    exec (.calMeasureEnd [c]) s = .next (State.finish { s with cnv := { s.cnv with
      cal := none, calMean := (s.calX j.conv j.chan c * 2 + 1) / 2, calSpread := 0 } } j.pair.val j.sub 0 0) := by
  change execCalMeasureEnd [c] s = _
  simp [execCalMeasureEnd, hcal, hone]

theorem exec_calMean (htake : s.takeParam p 2 7 4 = some e) :
    exec (.calMean p) s = .next (s.finish p.val e.sub 0 (canonS s.cnv.calMean)) := by
  change execCalMean p s = _
  simp only [execCalMean, htake]

theorem exec_calSpread (htake : s.takeParam p 2 7 5 = some e) :
    exec (.calSpread p) s = .next (s.finish p.val e.sub 0 (canonU s.cnv.calSpread)) := by
  change execCalSpread p s = _
  simp only [execCalSpread, htake]

theorem exec_sampleRead (htake : s.takeOp p.val 2 2 = some e) (hblock : e.parBlock = 7) (hlow : 0x100 ≤ e.parIndex)
    (hhigh : e.parIndex ≤ 0x1AC) : exec (.sampleRead p) s =
      .next (s.finish p.val e.sub 0 (canonU (s.newestSample (e.parIndex - 0x100)).word.toNat)) := by
  change execSampleRead p s = _
  simp [execSampleRead, htake, hblock, Nat.not_lt.mpr hlow, Nat.not_lt.mpr hhigh]

/-! ### The descriptors on a member that acts (R449) -/

variable (hacts : s.roleActs = true) (hmirrors : s.mirrors = false)
include hacts hmirrors

theorem exec_urgent (htake : s.takeParam p 1 7 1 = some e) : exec (.urgent p) s = doUrgent p s :=
  State.asChange_of_acts htake hacts hmirrors

theorem exec_rotate (htake : s.takeParam p 1 7 2 = some e) : exec (.rotate p) s = doRotate p s :=
  State.asChange_of_acts htake hacts hmirrors

theorem exec_calMeasure (htake : s.takeParam p 1 7 3 = some e) : exec (.calMeasure p) s = doCalMeasure p s :=
  State.asChange_of_acts htake hacts hmirrors

end

/-- Settles O25: a slot makes the conversion its list is due, which no word of another list and no check touches; the other commands by
what each answers. -/
theorem conversionsAndRotation : Obligations.ConversionsAndRotation := by
  unfold Obligations.ConversionsAndRotation
  refine ⟨?stopped, ?adds, ?wholeWord, ?few, ?many, ?urgent, ?secondUrgent, ?rotates, ?rotateRefused, ?interval, ?skipped, ?bootCal,
    ?selfCal, ?clrFault, ?measure, ?measured, ?mean, ?spread, ?sample⟩
  case stopped =>
    exact fun s k n c x f hconverts hpresent hstopped => exec_conversionSlot_stopped n c x f hconverts hpresent hstopped
  case adds =>
    intro s k n c x f l i j hconverts hpresent hlist hrole hruns hl hen hurgent htaken hplan hhandover hmore
    exact conversionSlot_adds n c x f hconverts hpresent
      ⟨hlist, hrole, hruns, hl, hen, hurgent, htaken, hplan, hhandover⟩ hmore
  case wholeWord =>
    intro s k n c x f l i j hconverts hpresent hlist hrole hruns hl hen hurgent htaken hplan hhandover hlast hgap
    exact conversionSlot_wholeWord n c x f hconverts hpresent
      ⟨hlist, hrole, hruns, hl, hen, hurgent, htaken, hplan, hhandover⟩ hlast hgap
  case few => exact fun s k f hfew => State.convCheck_few hfew
  case many =>
    exact fun s k f hk hroles hhandover hmany => State.convCheck_faults hhandover (hroles ▸ hk) hmany
  case urgent =>
    intro s p e htake hacts hmirrors hvalue hlist hreach hon hnone
    have hnext := (exec_urgent hacts hmirrors htake).trans (doUrgent_reachable htake hvalue hlist hreach hon)
    rw [State.requestUrgent_first hnone] at hnext
    exact ⟨_, hnext, ⟨rfl, rfl⟩, rfl⟩
  case secondUrgent =>
    intro s p e x htake hacts hmirrors hvalue hlist hreach hon hpending
    rw [exec_urgent hacts hmirrors htake, doUrgent_reachable htake hvalue hlist hreach hon,
      State.requestUrgent_pending hpending]
    rfl
  case rotates =>
    intro s p e k htake hacts hmirrors hgroup hspare hnone
    have hnext := (exec_rotate hacts hmirrors htake).trans (doRotate_group htake hgroup)
    rw [State.startHandover_waits hspare hnone] at hnext
    exact ⟨_, hnext, rfl, rfl⟩
  case rotateRefused =>
    intro s p e htake hacts hmirrors hgroup hbusy
    rw [exec_rotate hacts hmirrors htake, doRotate_group htake hgroup, State.startHandover_refused hbusy]
    rfl
  case interval => exact fun s k hon hspare hnone => exec_rotationInterval_waits hon hspare hnone
  case skipped => exact fun s h => exec_rotationInterval_skipped h
  case bootCal => exact fun s k c hboot => exec_selfCalibrationEnd_boot c hboot
  case selfCal => exact fun s k c hboot hrole hnone => exec_selfCalibrationEnd_role c hboot hrole hnone
  case clrFault => exact fun s k hup hfault => exec_converterClrFault hup hfault
  case measure =>
    intro s p e k htake hacts hmirrors hvalue hchan hcount hon hspare hfree
    exact ⟨_, (exec_calMeasure hacts hmirrors htake).trans
      (doCalMeasure_starts htake hvalue hchan hcount hon hspare hfree), rfl, rfl⟩
  case measured => exact fun s j c hcal hone => completes_of_exec (exec_calMeasureEnd_one c hcal hone) (State.finish_cnv ..) rfl
  case mean => exact fun s p e htake => exec_calMean htake
  case spread => exact fun s p e htake => exec_calSpread htake
  case sample => exact fun s p e htake hblock hlow hhigh => exec_sampleRead htake hblock hlow hhigh

end Sys2Proof.Machine
end

section
/-! PROOFS. HS_DIAG (R330): it answers the conditions of the last uplink frame, which need not be those that the field side has now. -/

namespace Sys2Proof.Machine

/-! ### A completion that waits its turn (R102) -/

theorem drainOne_of_open (c : HxCtx) {p : Nat} {x : Hx} {e : Entry} {r : List Entry} (hfront : (x.hif.pair p).entries = e :: r)
    (hopen : e.stage ≠ .done) : drainOne c p x = x := by
  unfold drainOne
  rw [hfront]
  cases hstage : e.stage <;> simp_all

/-- Nothing leaves a pair whose oldest descriptor is not done. -/
theorem drainPair_of_open (c : HxCtx) {p : Nat} {x : Hx} {e : Entry} {r : List Entry}
    (hfront : (x.hif.pair p).entries = e :: r) (hopen : e.stage ≠ .done) : drainPair c p x = x := by
  rw [drainPair_eq]
  refine forN_invariant (P := (· = x)) (fun _ y hy => ?_) _ rfl
  rw [hy]
  exact drainOne_of_open c hfront hopen

/-- A descriptor that completes behind an older one waits, done, with its entry. -/
theorem State.finish_entries_of_open {s : State} {p : Nat} {e : Entry} {r : List Entry} (sub : Word) (code : Byte)
    (result : BitVec 64) (hfront : (s.pairRt p).entries = e :: r) (hopen : e.stage ≠ .done) (hother : e.sub ≠ sub) :
    ((s.finish p sub code result).pairRt p).entries = e :: markDone s.hxCtx sub code result 0 r := by
  have hmarked : markDone s.hxCtx sub code result 0 (s.pairRt p).entries = e :: markDone s.hxCtx sub code result 0 r := by
    simp [hfront, markDone, hother]
  unfold State.finish State.finishWith
  rw [State.viaHif_pairRt]
  unfold finishX
  rw [drainPair_of_open (e := e) (r := markDone s.hxCtx sub code result 0 r) _ _ hopen, modPair_pair_same]
  · exact hmarked
  · rw [modPair_pair_same]
    exact hmarked

/-! ### HS_DIAG -/

theorem exec_hsDiag {s : State} {p : Pair} {e : Entry} (htake : s.takeParam p 2 8 3 = some e) (hvalue : e.value < 48) :
    exec (.hsDiag p) s = .next (s.tookFree.finish p.val e.sub 0 (BitVec.ofNat 64
      ((tget {} s.seen.hs e.value : HsRt).conds.toNat + (Config.loadMa s.freeIdx).toNat * 2 ^ 16))) := by
  change execHsDiag p s = _
  simp [execHsDiag, htake, Nat.not_le.mpr hvalue]

/-- A LOAD that its owner has accepted. -/
def Entry.accepted : Entry := { sub := 0, raw := 0, cls := 1, stage := .accepted }
/-- An HS_DIAG of output 0. -/
def Entry.diagOfOutput0 : Entry := { sub := 1, raw := BitVec.ofNat 512 (2 + 3 * 2 ^ 128 + 8 * 2 ^ 156), cls := 2 }

/-- Output 0 has its overcurrent condition on the field side, and no uplink frame has shown it yet; HS_DIAG of it is next on pair 0,
behind an accepted LOAD. -/
def State.condNotShown : State :=
  { fio := { hs := [(0, { conds := 1 })] }
    hif := { pairs := [(0, { st := .running, entries := [.accepted, .diagOfOutput0] })] } }

theorem State.takeParam_condNotShown : State.condNotShown.takeParam 0 2 8 3 = some .diagOfOutput0 := by decide +kernel

/-- The RESULT of what has completed on pair 0. -/
def State.results (s : State) : List (BitVec 64) := (s.pairRt 0).entries.filterMap (fun e => e.cpl.map (·.result))

theorem State.condNotShown_results (result : BitVec 64) :
    (State.condNotShown.tookFree.finish 0 Entry.diagOfOutput0.sub 0 result).results = [result] := by
  unfold State.results
  rw [State.finish_entries_of_open (e := .accepted) (r := [.diagOfOutput0]) _ _ _ rfl (by decide) (by decide)]
  rfl

/-- Refutes O27: HS_DIAG answers the conditions as the last uplink frame has shown them (`State.seen`), the statement those of the field
side itself (`State.hsRt`). Output 0 of this state has an overcurrent condition, of which no frame has told: the answer has bit 0
clear, whatever the free load current is. -/
theorem not_fieldOutputs : ¬ Obligations.FieldOutputs := by
  unfold Obligations.FieldOutputs
  intro ⟨_, _, _, _, _, _, _, _, hdiag, _⟩
  have hvalue : Entry.diagOfOutput0.value = 0 := by decide +kernel
  obtain ⟨t, hnext, rfl, _⟩ := hdiag State.condNotShown 0 .diagOfOutput0 State.takeParam_condNotShown (by rw [hvalue]; decide)
  have hanswer := exec_hsDiag State.takeParam_condNotShown (by rw [hvalue]; decide)
  have hsame := congrArg State.results (Host.Outcome.next.inj (hanswer.symm.trans hnext))
  have hresult := (State.condNotShown_results _).symm.trans (hsame.trans (State.condNotShown_results _))
  have hshown : (tget {} State.condNotShown.seen.hs Entry.diagOfOutput0.value : HsRt).conds.toNat = 0 := by decide +kernel
  have hnow : (State.condNotShown.hsRt Entry.diagOfOutput0.value).conds.toNat = 1 := by decide +kernel
  have hma := (Config.loadMa State.condNotShown.freeIdx).isLt
  rw [hshown, hnow] at hresult
  have hnat := congrArg BitVec.toNat (List.head_eq_of_cons_eq hresult)
  simp only [BitVec.toNat_ofNat] at hnat
  omega

end Sys2Proof.Machine
end

section
/-! PROOFS. Loads of the field tables (R303, R304, R309, R313, R315, R321, R323, R325): what a load whose entries are valid leaves
accepted and on its way to the field side, and the code that an invalid entry or a claim of another owner answers. -/

namespace Sys2Proof.Machine

/-! ### A judged load (R97, R100) -/

section
variable {c : Instr} {s : State} {p : Pair} {e : Entry} {j : Judged State} {result : BitVec 64}
  (hsettles : exec c s = .next (s.settle p e result j))
include hsettles

/-- A load that changes the tables of field input and output alone sends them, as then accepted, to the field side. -/
theorem ends_of_sendFio {f : FioState} (hjudged : j = .ok (State.sendFio { s with fio := f })) :
    Ends [.fio] c s p e 0 result fun t => t.fio = { f with down := f.down ++ [.fioTables t.fioTables] } := by
  subst hjudged
  exact ⟨_, hsettles, rfl, rfl⟩

theorem exec_of_refused {code : Byte} {w : BitVec 64} (hjudged : j = .refused code w) :
    exec c s = .next (s.finish p.val e.sub code w) := by
  rw [hsettles, hjudged, State.settle]

end

/-! ### High-side outputs (R303, R304) -/

/-- The entries of a high-side load with those that leave DUTY before those that join it: the order in which it claims timers. -/
abbrev leaveThenJoin (l : List (Nat × BitVec 64)) : List (Nat × BitVec 64) :=
  l.filter (fun x => decide (hsMode x.2 ≠ 2)) ++ l.filter (fun x => decide (hsMode x.2 = 2))

theorem State.loadHs_accepted {s : State} {l : List (Nat × BitVec 64)} {cl : List Claim}
    (hgood : l.any (fun x => !hsEntryOk x.2 || s.droneModeClash x.1 x.2) = false)
    (hclaims : claimEach dutyTimer (leaveThenJoin l) s.fio.claims = .ok cl) :
    s.loadHs l = .ok (State.sendFio { s with
      fio := { s.fio with hsTab := tload (fun _ => 0) s.fio.hsTab l, claims := cl } }) := by
  simp only [State.loadHs, hgood, hclaims, Bool.false_eq_true, if_false]

theorem State.loadHs_invalid {s : State} {l : List (Nat × BitVec 64)} (hbad : l.any (fun x => !hsEntryOk x.2) = true) :
    s.loadHs l = .refused 0x4A 0 := by
  obtain ⟨x, hx, hinvalid⟩ := List.any_eq_true.mp hbad
  have hoffends : l.any (fun x => !hsEntryOk x.2 || s.droneModeClash x.1 x.2) = true :=
    List.any_eq_true.mpr ⟨x, hx, Bool.or_eq_true_iff.mpr (.inl hinvalid)⟩
  simp only [State.loadHs, hoffends, if_true]

/-! ### Inputs, encoders and pulse outputs (R313, R315, R321, R325) -/

section
variable {s : State} {l : List (Nat × BitVec 64)}

theorem State.loadDi_accepted (hgood : l.any (fun x => !diEntryOk x.2) = false) :
    s.loadDi l = .ok (State.sendFio { s with fio := { s.fio with diTab := tload (fun _ => 0) s.fio.diTab l } }) := by
  simp only [State.loadDi, hgood, Bool.false_eq_true, if_false]

theorem State.loadDi_invalid (hbad : l.any (fun x => !diEntryOk x.2) = true) : s.loadDi l = .refused 0x4A 0 := by
  simp only [State.loadDi, hbad, if_true]

theorem State.loadEnc_accepted {cl : List Claim} (hgood : l.any (fun x => !encEntryOk x.2) = false)
    (hclaims : claimEach encClaim l s.fio.claims = .ok cl) :
    s.loadEnc l = .ok (State.sendFio { s with
      fio := { s.fio with encTab := tload (fun _ => 0) s.fio.encTab l, claims := cl } }) := by
  simp only [State.loadEnc, hgood, hclaims, Bool.false_eq_true, if_false]

theorem State.loadEnc_invalid (hbad : l.any (fun x => !encEntryOk x.2) = true) : s.loadEnc l = .refused 0x4A 0 := by
  simp only [State.loadEnc, hbad, if_true]

/-- An encoder input that another owner has claimed refuses the load with the code of the claim (R325). -/
theorem State.loadEnc_claimed {code : Byte} {w : BitVec 64} (hgood : l.any (fun x => !encEntryOk x.2) = false)
    (hclaims : claimEach encClaim l s.fio.claims = .refused code w) : s.loadEnc l = .refused code w := by
  simp only [State.loadEnc, hgood, hclaims, Bool.false_eq_true, if_false]

theorem State.loadPul_accepted (hgood : l.any (fun x => !pulEntryOk x.2) = false) :
    s.loadPul l = .ok (State.sendFio { s with fio := { s.fio with pulTab := tload (fun _ => 0) s.fio.pulTab l } }) := by
  simp only [State.loadPul, hgood, Bool.false_eq_true, if_false]

theorem State.loadPul_invalid (hbad : l.any (fun x => !pulEntryOk x.2) = true) : s.loadPul l = .refused 0x4A 0 := by
  simp only [State.loadPul, hbad, if_true]

/-! ### Hold policies (R309) -/

/-- s with entries l of the hold-policy table accepted. -/
def State.withHold (s : State) (l : List (Nat × BitVec 64)) : State :=
  { s with fio := { s.fio with holdTab := tload (fun _ => holdReset) s.fio.holdTab l } }

theorem State.loadHold_accepted (hgood : l.any (fun x => !holdEntryOk x) = false) :
    s.loadHold l = .ok ((s.withHold l).sendDown (.holdTable (s.withHold l).fio.holdTab)) := by
  simp only [State.loadHold, hgood, Bool.false_eq_true, if_false, State.withHold]

theorem State.loadHold_invalid (hbad : l.any (fun x => !holdEntryOk x) = true) : s.loadHold l = .refused 0x4A 0 := by
  simp only [State.loadHold, hbad, if_true]

end

/-! ### The descriptors on a member that acts (R449) -/

section
variable {s : State} {p : Pair} {e : Entry} (hacts : s.roleActs = true) (hmirrors : s.mirrors = false)
include hacts hmirrors

theorem exec_highSideTableLoad (htake : s.takeLoad p 8 1 = some e) : exec (.highSideTableLoad p) s =
    .next (s.settle p e (BitVec.ofNat 64 e.count) (s.loadHs (withIndex e.first e.words64))) := by
  refine (State.asChange_of_acts htake hacts hmirrors).trans ?_
  simp only [doHighSideTableLoad, htake]

theorem exec_inputTableLoad (htake : s.takeLoad p 8 2 = some e) : exec (.inputTableLoad p) s =
    .next (s.settle p e (BitVec.ofNat 64 e.count) (s.loadDi (withIndex e.first e.words64))) := by
  refine (State.asChange_of_acts htake hacts hmirrors).trans ?_
  simp only [doInputTableLoad, htake]

theorem exec_encoderTableLoad (htake : s.takeLoad p 8 3 = some e) : exec (.encoderTableLoad p) s =
    .next (s.settle p e (BitVec.ofNat 64 e.count) (s.loadEnc (withIndex e.first e.words64))) := by
  refine (State.asChange_of_acts htake hacts hmirrors).trans ?_
  simp only [doEncoderTableLoad, htake]

theorem exec_pulseTableLoad (htake : s.takeLoad p 8 4 = some e) : exec (.pulseTableLoad p) s =
    .next (s.settle p e (BitVec.ofNat 64 e.count) (s.loadPul (withIndex e.first e.words64))) := by
  refine (State.asChange_of_acts htake hacts hmirrors).trans ?_
  simp only [doPulseTableLoad, htake]

theorem exec_profileTableLoad (htake : s.takeLoad p 8 5 = some e) : exec (.profileTableLoad p) s =
    .next (s.settle p e (BitVec.ofNat 64 e.count) (s.loadProf (withIndex e.first e.words128))) := by
  refine (State.asChange_of_acts htake hacts hmirrors).trans ?_
  simp only [doProfileTableLoad, htake]

theorem exec_holdPolicyTableLoad (htake : s.takeLoad p 8 6 = some e) : exec (.holdPolicyTableLoad p) s =
    .next (s.settle p e (BitVec.ofNat 64 e.count) (s.loadHold (withIndex e.first e.words64))) := by
  refine (State.asChange_of_acts htake hacts hmirrors).trans ?_
  simp only [doHoldPolicyTableLoad, htake]

end

/-- Settles O26, table by table: how the load is judged, and what a judged load answers. -/
theorem fieldTables : Obligations.FieldTables := by
  unfold Obligations.FieldTables
  refine ⟨?hs, ?hsInvalid, ?di, ?diInvalid, ?enc, ?encInvalid, ?encClaimed, ?pul, ?pulInvalid, ?prof, ?hold, ?holdInvalid⟩
  case hs =>
    intro s p e cl htake hacts hmirrors hgood hclaims
    exact ends_of_sendFio (exec_highSideTableLoad hacts hmirrors htake) (State.loadHs_accepted hgood hclaims)
  case hsInvalid =>
    intro s p e htake hacts hmirrors hbad
    exact exec_of_refused (exec_highSideTableLoad hacts hmirrors htake) (State.loadHs_invalid hbad)
  case di =>
    intro s p e htake hacts hmirrors hgood
    exact ends_of_sendFio (exec_inputTableLoad hacts hmirrors htake) (State.loadDi_accepted hgood)
  case diInvalid =>
    intro s p e htake hacts hmirrors hbad
    exact exec_of_refused (exec_inputTableLoad hacts hmirrors htake) (State.loadDi_invalid hbad)
  case enc =>
    intro s p e cl htake hacts hmirrors hgood hclaims
    exact ends_of_sendFio (exec_encoderTableLoad hacts hmirrors htake) (State.loadEnc_accepted hgood hclaims)
  case encInvalid =>
    intro s p e htake hacts hmirrors hbad
    exact exec_of_refused (exec_encoderTableLoad hacts hmirrors htake) (State.loadEnc_invalid hbad)
  case encClaimed =>
    intro s p e code w htake hacts hmirrors hgood hclaims
    exact exec_of_refused (exec_encoderTableLoad hacts hmirrors htake) (State.loadEnc_claimed hgood hclaims)
  case pul =>
    intro s p e htake hacts hmirrors hgood
    exact ends_of_sendFio (exec_pulseTableLoad hacts hmirrors htake) (State.loadPul_accepted hgood)
  case pulInvalid =>
    intro s p e htake hacts hmirrors hbad
    exact exec_of_refused (exec_pulseTableLoad hacts hmirrors htake) (State.loadPul_invalid hbad)
  case prof =>
    intro s p e htake hacts hmirrors
    exact ends_of_sendFio (exec_profileTableLoad hacts hmirrors htake) rfl
  case hold =>
    intro s p e htake hacts hmirrors hgood
    have hnext := exec_holdPolicyTableLoad hacts hmirrors htake
    rw [State.loadHold_accepted hgood] at hnext
    exact ⟨_, hnext, rfl, rfl⟩
  case holdInvalid =>
    intro s p e htake hacts hmirrors hbad
    exact exec_of_refused (exec_holdPolicyTableLoad hacts hmirrors htake) (State.loadHold_invalid hbad)

end Sys2Proof.Machine
end

section
/-! PROOFS. Digital input filters (R314): a raw level that returns to the accepted one ends the filter and leaves the stamp of the last
accepted change. -/

namespace Sys2Proof.Machine

/-- The run-time state of input i. -/
def State.diRt (s : State) (i : Nat) : DiRt := tget {} s.fio.di i

/-- A return to the accepted level ends the filter (R314). -/
theorem digitalInputTransition_returns {s t : State} {i : Fin 64} {level : Bool} (hacc : (s.diRt i.val).acc = level)
    (hnext : exec (.digitalInputTransition i level) s = .next t) :
    t.diRt i.val = { s.diRt i.val with raw := level, since := none } := by
  subst hacc
  have hstate : execDigitalInputTransition i (s.diRt i.val).acc s = .next t := hnext
  simp only [execDigitalInputTransition, State.diRt, tmod, if_true, Host.Outcome.next.injEq] at hstate
  rw [← hstate]
  exact tget_tput_same ({} : DiRt) _ _ _

/-- Input 0 is accepted high since a change stamped 70 (R314). -/
def State.inputAccepted : State := { fio := { di := [(0, { raw := true, acc := true, accAt := some 70 })] } }

/-- Refutes O28: a raw level that returns to the accepted one leaves the stamp of the last accepted change, `DiRt.accAt`, which a capture
of that input (R319) reads; the statement has the input with no stamp. Input 0 of this state keeps its stamp 70. -/
theorem not_inputsEncodersAndAxes : ¬ Obligations.InputsEncodersAndAxes := by
  unfold Obligations.InputsEncodersAndAxes
  intro ⟨hreturns, _⟩
  obtain ⟨t, hnext, hclaimed, _⟩ := hreturns State.inputAccepted 0 true rfl
  have hkept := digitalInputTransition_returns (level := true) rfl hnext
  exact absurd (hkept.symm.trans hclaimed) (by decide)

end Sys2Proof.Machine
end

section
/-! PROOFS. Loads of the region, line and mask tables of Mire (R331, R332, R334, R344, R350, R355): how a region record takes effect, and
what a judged load answers. -/

namespace Sys2Proof.Machine

/-! ### The run-time state of a region -/

theorem State.regRt_modReg_same (s : State) (r : Nat) (f : RegionRt → RegionRt) : (s.modReg r f).regRt r = f (s.regRt r) :=
  tget_tput_same _ _ _ _

@[simp] theorem State.modReg_regions (s : State) (r : Nat) (f : RegionRt → RegionRt) :
    (s.modReg r f).mir.regions = s.mir.regions := rfl

theorem State.regRt_congr {s t : State} (h : t.mir = s.mir) (r : Nat) : t.regRt r = s.regRt r := by
  rw [State.regRt, h, State.regRt]

theorem State.region_congr {s t : State} (h : t.mir.regions = s.mir.regions) (r : Nat) : t.region r = s.region r :=
  congrArg (tget 0 · r) h

/-! ### A region record takes effect (R332, R344) -/

/-- A region in which nothing waits for the host has no buffer to complete. -/
theorem State.endBuffers_of_none {s : State} {r : Nat} (hnone : (s.regRt r).bufs = []) : s.endBuffers r = s := by
  rw [State.endBuffers, hnone]
  rfl

theorem State.applyRegion_disabled {s : State} {r : Nat} {g : BitVec 512} (hoff : gEn g = false) (hnone : (s.regRt r).bufs = []) :
    s.applyRegion (r, g) = s.modReg r (fun q => { q with st := .idle, armPend := false, toSend := [] }) := by
  simp only [State.applyRegion, hoff, Bool.false_eq_true, if_false, State.endBuffers_of_none hnone]

/-- An enabled region waits for its arming: its run-time state changes, and no other part of the State. -/
theorem State.applyRegion_enabled {s : State} {r : Nat} {g : BitVec 512} (hon : gEn g = true) :
    ∃ f : RegionRt → RegionRt, s.applyRegion (r, g) = s.modReg r f ∧ ∀ q, (f q).st = .idle ∧ (f q).armPend = true :=
  ⟨_, if_pos hon, fun _ => ⟨rfl, rfl⟩⟩

section
variable {s : State} {p : Pair} {e : Entry}

/-- s with the claims of an accepted region load and its one record. -/
def State.withRegion (s : State) (r : Nat) (g : BitVec 512) (cl : List Claim) : State :=
  { s with fio := { s.fio with claims := cl }, mir := { s.mir with regions := tput 0 g s.mir.regions r } }

theorem doRegionTableLoad_accepted {g : BitVec 512} {cl : List Claim} (htake : s.takeLoad p 9 1 = some e)
    (hone : withIndex e.first e.words512 = [(e.first, g)]) (hjudged : judgeRegions s [(e.first, g)] = .ok cl) :
    doRegionTableLoad p s = .next (((s.withRegion e.first g cl).applyRegion (e.first, g)).finish p.val e.sub 0
      (BitVec.ofNat 64 e.count)) := by
  simp only [doRegionTableLoad, htake, hone, hjudged]
  rfl

theorem doRegionTableLoad_refused {c : Byte} {w : BitVec 64} (htake : s.takeLoad p 9 1 = some e)
    (hjudged : judgeRegions s (withIndex e.first e.words512) = .refused c w) :
    doRegionTableLoad p s = .next (s.finish p.val e.sub c w) := by
  simp only [doRegionTableLoad, htake, hjudged]

/-! ### Lines and masks (R334, R355) -/

/-- The first line of a load whose region captures, or has a capture to deliver. -/
def State.busyLine (s : State) (l : List (Nat × BitVec 64)) : Option (Nat × BitVec 64) :=
  l.find? (fun x => decide ((s.regRt (x.1 / 32)).st ≠ .idle) && decide ((s.regRt (x.1 / 32)).st ≠ .done))

theorem doLineTableLoad_busy {x : Nat × BitVec 64} (htake : s.takeLoad p 9 2 = some e)
    (hbusy : s.busyLine (withIndex e.first e.words64) = some x) :
    doLineTableLoad p s = .next (s.finish p.val e.sub 0x53 (BitVec.ofNat 64 (x.1 / 32))) := by
  unfold State.busyLine at hbusy
  simp only [doLineTableLoad, htake, hbusy]

theorem doLineTableLoad_invalid {x : Nat × BitVec 64} (htake : s.takeLoad p 9 2 = some e)
    (hfree : s.busyLine (withIndex e.first e.words64) = none)
    (hbad : (withIndex e.first e.words64).find? (fun x => !lineOk x.2) = some x) :
    doLineTableLoad p s = .next (s.finish p.val e.sub 0x54 (BitVec.ofNat 64 x.1)) := by
  unfold State.busyLine at hfree
  simp only [doLineTableLoad, htake, hfree, hbad]

theorem doLineTableLoad_accepted (htake : s.takeLoad p 9 2 = some e)
    (hfree : s.busyLine (withIndex e.first e.words64) = none)
    (hgood : (withIndex e.first e.words64).find? (fun x => !lineOk x.2) = none) :
    doLineTableLoad p s = .next (State.finish { s with mir := { s.mir with
      lines := tload (fun _ => 0) s.mir.lines (withIndex e.first e.words64) } } p.val e.sub 0 (BitVec.ofNat 64 e.count)) := by
  unfold State.busyLine at hfree
  simp only [doLineTableLoad, htake, hfree, hgood]

theorem doMaskTableLoad_invalid {x : Nat × BitVec 128} (htake : s.takeLoad p 9 3 = some e)
    (hbad : (withIndex e.first e.words128).find? (fun x => !maskOk s x) = some x) :
    doMaskTableLoad p s = .next (s.finish p.val e.sub 0x55 (BitVec.ofNat 64 x.1)) := by
  simp only [doMaskTableLoad, htake, hbad]

theorem doMaskTableLoad_accepted (htake : s.takeLoad p 9 3 = some e)
    (hgood : (withIndex e.first e.words128).find? (fun x => !maskOk s x) = none) :
    doMaskTableLoad p s = .next (State.finish { s with mir := { s.mir with
      masks := tload (fun _ => 0) s.mir.masks (withIndex e.first e.words128) } } p.val e.sub 0 (BitVec.ofNat 64 e.count)) := by
  simp only [doMaskTableLoad, htake, hgood]

/-! ### The descriptors on a member that acts (R449) -/

variable (hacts : s.roleActs = true) (hmirrors : s.mirrors = false)
include hacts hmirrors

theorem exec_regionTableLoad (htake : s.takeLoad p 9 1 = some e) : exec (.regionTableLoad p) s = doRegionTableLoad p s :=
  State.asChange_of_acts htake hacts hmirrors

theorem exec_lineTableLoad (htake : s.takeLoad p 9 2 = some e) : exec (.lineTableLoad p) s = doLineTableLoad p s :=
  State.asChange_of_acts htake hacts hmirrors

theorem exec_maskTableLoad (htake : s.takeLoad p 9 3 = some e) : exec (.maskTableLoad p) s = doMaskTableLoad p s :=
  State.asChange_of_acts htake hacts hmirrors

end

/-- Settles O37, table by table: what the judged load answers; an accepted region record then takes effect by its EN. -/
theorem mireTables : Obligations.MireTables := by
  unfold Obligations.MireTables
  refine ⟨?enabled, ?disabled, ?regionRefused, ?lines, ?lineInvalid, ?lineBusy, ?masks, ?maskInvalid⟩
  case enabled =>
    intro s p e cl g htake hacts hmirrors hone hon hjudged
    have hnext := (exec_regionTableLoad hacts hmirrors htake).trans (doRegionTableLoad_accepted htake hone hjudged)
    obtain ⟨f, happlied, hwaits⟩ := State.applyRegion_enabled (s := s.withRegion e.first g cl) (r := e.first) hon
    rw [happlied] at hnext
    refine ⟨_, hnext, ⟨rfl, rfl, ?_⟩, rfl⟩
    rw [State.regRt_modReg_same]
    exact hwaits _
  case disabled =>
    intro s p e cl g htake hacts hmirrors hone hoff hjudged hnone
    have hnext := (exec_regionTableLoad hacts hmirrors htake).trans (doRegionTableLoad_accepted htake hone hjudged)
    rw [State.applyRegion_disabled (s := s.withRegion e.first g cl) hoff hnone] at hnext
    exact ⟨_, hnext, ⟨rfl, State.regRt_modReg_same _ _ _⟩, rfl⟩
  case regionRefused =>
    intro s p e c w htake hacts hmirrors hjudged
    exact (exec_regionTableLoad hacts hmirrors htake).trans (doRegionTableLoad_refused htake hjudged)
  case lines =>
    intro s p e htake hacts hmirrors hfree hgood
    exact ⟨_, (exec_lineTableLoad hacts hmirrors htake).trans (doLineTableLoad_accepted htake hfree hgood), rfl, rfl⟩
  case lineInvalid =>
    intro s p e x htake hacts hmirrors hfree hbad
    exact (exec_lineTableLoad hacts hmirrors htake).trans (doLineTableLoad_invalid htake hfree hbad)
  case lineBusy =>
    intro s p e x htake hacts hmirrors hbusy
    exact (exec_lineTableLoad hacts hmirrors htake).trans (doLineTableLoad_busy htake hbusy)
  case masks =>
    intro s p e htake hacts hmirrors hgood
    exact ⟨_, (exec_maskTableLoad hacts hmirrors htake).trans (doMaskTableLoad_accepted htake hgood), rfl, rfl⟩
  case maskInvalid =>
    intro s p e x htake hacts hmirrors hbad
    exact (exec_maskTableLoad hacts hmirrors htake).trans (doMaskTableLoad_invalid htake hbad)

end Sys2Proof.Machine
end

section
/-! PROOFS. Captures of Mire (R343 to R347, R350, R353, R357, R358, R361): the trigger of an armed region by one source event, its arming
and its stop, its buffers and reads. -/

namespace Sys2Proof.Machine

/-- A fold in which one element alone does something does that. -/
theorem foldl_of_only {σ α : Type} {f : σ → α → σ} {l : List α} {a : α} {s : σ} (hnodup : l.Nodup) (ha : a ∈ l)
    (hbefore : ∀ b ∈ l, b ≠ a → f s b = s) (hafter : ∀ b ∈ l, b ≠ a → f (f s a) b = f s a) : l.foldl f s = f s a := by
  obtain ⟨before, after, rfl⟩ := List.append_of_mem ha
  obtain ⟨hnotBefore, hnotAfter⟩ : a ∉ before ∧ a ∉ after := by
    simp only [List.nodup_append, List.nodup_cons, List.mem_cons] at hnodup
    obtain ⟨_, ⟨hafter, _⟩, hdisjoint⟩ := hnodup
    exact ⟨fun hin => hdisjoint a hin a (.inl rfl) rfl, hafter⟩
  have hstart : before.foldl f s = s := List.foldlRecOn (motive := (· = s)) _ _ rfl fun u hu b hb => by
    rw [hu, hbefore b (by simp [hb]) (ne_of_mem_of_not_mem hb hnotBefore)]
  rw [List.foldl_append, List.foldl_cons, hstart]
  exact List.foldlRecOn (motive := (· = f s a)) _ _ rfl fun u hu b hb => by
    rw [hu, hafter b (by simp [hb]) (ne_of_mem_of_not_mem hb hnotAfter)]

/-! ### The trigger of an armed region (R343 to R345) -/

/-- Region r is ARMED, asks for nothing beside its trigger, and a trigger at instant x finds enough frames before it and frames of its
capture yet to come. -/
structure State.AwaitsTrigger (s : State) (r : Nat) (x : Stamp) : Prop where
  armed : (s.regRt r).st = .armed
  noSpill : gSpill (s.region r) = false
  noUrgent : gUrgEn (s.region r) = false
  noMaskStop : gMaskStop (s.region r) = false
  enough : Int.ofNat (gPre (s.region r)) ≤ s.frameAt r x
  goesOn : (s.regRt r).count < (s.frameAt r x).toNat + (s.regRt r).postEff

/-- s with trigger t of region r made: POST, TRIG in the frame if it stands, event 0x57 (R344, R345). -/
def State.triggered (s : State) (r : Nat) (t : TrigRec) : State :=
  ((s.modReg r (fun q => { q with st := .post, trig := some t })).setTrigFlag r t.frame).raise 0x57
    (BitVec.ofNat 64 (r + t.stamp.toNat * 2 ^ 16))

@[simp] theorem State.setTrigFlag_mir (s : State) (r idx : Nat) : (s.setTrigFlag r idx).mir = s.mir :=
  State.only_mir (ps := [.bog]) (State.setTrigFlag_mask rfl s r idx) rfl

section
variable {s : State} {r : Nat} {x : Stamp}

theorem State.triggered_mir (t : TrigRec) :
    (s.triggered r t).mir = (s.modReg r (fun q => { q with st := .post, trig := some t })).mir := by
  simp [State.triggered]

theorem State.triggered_regRt (t : TrigRec) : (s.triggered r t).regRt r = { s.regRt r with st := .post, trig := some t } :=
  (State.regRt_congr (State.triggered_mir t) r).trans (State.regRt_modReg_same _ _ _)

theorem State.triggered_region (t : TrigRec) (k : Nat) : (s.triggered r t).region k = s.region k :=
  State.region_congr (congrArg MirState.regions (State.triggered_mir t)) k

theorem State.triggered_only (t : TrigRec) : State.only [.hif, .mir, .bog, .out] s (s.triggered r t) := by
  simp only [State.only, State.triggered, State.raise_mask (qs := [.hif, .mir, .bog, .out]) rfl,
    State.setTrigFlag_mask (qs := [.hif, .mir, .bog, .out]) rfl, State.modReg_mask (qs := [.hif, .mir, .bog, .out]) rfl]

/-- The capture of a region without MASK_STOP goes on after its trigger while frames of it are to come (R343). -/
theorem RegionRt.ends_of_few {q : RegionRt} {g : BitVec 512} {t : TrigRec} (htrig : q.trig = some t) (hmask : gMaskStop g = false)
    (hfew : q.count < t.frame + q.postEff) : q.ends g = none := by
  simp [RegionRt.ends, captureEnd, htrig, hmask, Nat.not_le.mpr hfew]

theorem State.mirUrgent_of_noUrgent (hnone : gUrgEn (s.region r) = false) : s.mirUrgent r = s := by
  simp [State.mirUrgent, hnone]

/-- The trigger is taken, and that is all that happens. -/
theorem State.regionTrigger_armed (h : s.AwaitsTrigger r x) (a b : Bool) (m : Nat) : s.regionTrigger r x a b m =
    (s.triggered r { stamp := x, fromA := a, fromB := b, method := m, frame := (s.frameAt r x).toNat }, true) := by
  let t : TrigRec := { stamp := x, fromA := a, fromB := b, method := m, frame := (s.frameAt r x).toNat }
  have hnotEarly : ¬ s.frameAt r x < Int.ofNat (gPre (s.region r)) := not_lt.mpr h.enough
  have hnotUrgent : (s.triggered r t).mirUrgent r = s.triggered r t :=
    State.mirUrgent_of_noUrgent (by rw [State.triggered_region]; exact h.noUrgent)
  have hgoesOn : (((s.triggered r t).mirUrgent r).regRt r).ends (s.region r) = none := by
    rw [hnotUrgent, State.triggered_regRt]
    exact RegionRt.ends_of_few rfl h.noMaskStop h.goesOn
  unfold State.regionTrigger
  simp only [h.armed, h.noSpill, hnotEarly, decide_false, reduceCtorEq, Bool.or_self, Bool.false_eq_true, if_false]
  split
  next _ hends => cases hends.symm.trans hgoesOn
  next => exact congrArg (·, true) hnotUrgent

end

/-! ### The sources of the one enabled region (R350, R351) -/

/-- No region but r is enabled. -/
def State.othersOff (s : State) (r : Nat) : Prop := ∀ k ∈ List.range 16, k ≠ r → gEn (s.region k) = false

theorem State.othersOff_of_all {s : State} {r : Nat}
    (h : (List.range 16).all (fun k => decide (k = r) || !gEn (s.region k)) = true) : s.othersOff r := by
  intro k hk hne
  simpa [hne] using List.all_eq_true.mp h k hk

/-- s with the run-time state of region r written as it stands: what a source event that COMB passes on leaves. -/
def State.rewriteReg (s : State) (r : Nat) : State := s.modReg r (fun _ => s.regRt r)

/-- s after an event of source A of region r at instant x that COMB passes on as the region's trigger. -/
def State.triggeredByA (s : State) (r : Nat) (x : Stamp) (m : Nat) : State :=
  (s.rewriteReg r).triggered r
    { stamp := x, fromA := true, fromB := false, method := m, frame := (s.frameAt r x).toNat }

section
variable {s : State} {r : Nat} {x : Stamp}

theorem State.rewriteReg_regRt : (s.rewriteReg r).regRt r = s.regRt r := State.regRt_modReg_same _ _ _

theorem State.rewriteReg_frameAt : (s.rewriteReg r).frameAt r x = s.frameAt r x := by
  rw [State.frameAt, State.rewriteReg_regRt]
  rfl

theorem State.AwaitsTrigger.rewriteReg (h : s.AwaitsTrigger r x) : (s.rewriteReg r).AwaitsTrigger r x where
  armed := by rw [State.rewriteReg_regRt]; exact h.armed
  noSpill := h.noSpill
  noUrgent := h.noUrgent
  noMaskStop := h.noMaskStop
  enough := by rw [State.rewriteReg_frameAt]; exact h.enough
  goesOn := by rw [State.rewriteReg_frameAt, State.rewriteReg_regRt]; exact h.goesOn

/-- The region is in POST with that trigger, whatever else of the State changes after it. -/
theorem State.triggeredByA_posts {t : State} (m : Nat) (hmir : t.mir = (s.triggeredByA r x m).mir) :
    (t.regRt r).st = .post ∧ (t.regRt r).trig =
      some { stamp := x, fromA := true, fromB := false, method := m, frame := (s.frameAt r x).toNat } := by
  rw [State.regRt_congr hmir, State.triggeredByA, State.triggered_regRt]
  exact ⟨rfl, rfl⟩

theorem State.triggeredByA_region (m k : Nat) : (s.triggeredByA r x m).region k = s.region k := State.triggered_region _ k

theorem State.triggeredByA_only (m : Nat) : State.only [.hif, .mir, .bog, .out] s (s.triggeredByA r x m) :=
  (State.triggered_only _).trans (State.modReg_mask rfl s r _)

theorem State.othersOff.triggeredByA (hothers : s.othersOff r) (m : Nat) : (s.triggeredByA r x m).othersOff r :=
  fun k hk hne => (congrArg gEn (State.triggeredByA_region m k)).trans (hothers k hk hne)

/-- With COMB 0 a source event of A is the trigger, which no other region follows. -/
theorem State.sourceEvent_triggers (h : s.AwaitsTrigger r x) (hothers : s.othersOff r) (hcomb : gComb (s.region r) = 0)
    (fuel m : Nat) : State.sourceEvent (fuel + 1) r false x m s = s.triggeredByA r x m := by
  have hjoin : joinSources (s.region r) (s.regRt r) false x m = (s.regRt r, some (x, true, false, m)) := by
    simp [joinSources, hcomb]
  have htrigger : (s.rewriteReg r).regionTrigger r x true false m = (s.triggeredByA r x m, true) := by
    rw [State.regionTrigger_armed h.rewriteReg, State.rewriteReg_frameAt, State.triggeredByA]
  rw [State.sourceEvent]
  simp only [hjoin]
  rw [← State.rewriteReg, htrigger]
  refine List.foldlRecOn (motive := (· = s.triggeredByA r x m)) _ _ rfl fun u hu k hk => ?_
  rw [hu]
  by_cases hkr : k = r
  · simp [hkr]
  · simp [hothers.triggeredByA m k hk hkr]

/-- Where p names source A of the one enabled region and not its source B, that region triggers, and nothing else happens. -/
theorem State.fireSources_triggers {p : Nat → Bool → Nat → Bool} (hr : r < 16) (hon : gEn (s.region r) = true)
    (h : s.AwaitsTrigger r x) (hothers : s.othersOff r) (hcomb : gComb (s.region r) = 0)
    (hA : p r false (gTrig (s.region r) false) = true) (hB : p r true (gTrig (s.region r) true) = false) (m : Nat) :
    s.fireSources p x m = s.triggeredByA r x m := by
  have hfires := State.sourceEvent_triggers h hothers hcomb 15 m
  refine (foldl_of_only (a := r) List.nodup_range (List.mem_range.mpr hr) (fun k hk hne => ?_) (fun k hk hne => ?_)).trans ?_
  · simp [hothers k hk hne]
  · simp [hon, h.armed, hA, hB, hfires, hothers.triggeredByA m k hk hne]
  · simp [hon, h.armed, hA, hB, hfires]

theorem State.fireSources_of_noneEnabled (hoff : (List.range 16).all (fun k => !gEn (s.region k)) = true)
    (p : Nat → Bool → Nat → Bool) (x : Stamp) (m : Nat) : s.fireSources p x m = s := by
  refine List.foldlRecOn (motive := (· = s)) _ _ rfl fun u hu k hk => ?_
  have hk' : gEn (s.region k) = false := by simpa using List.all_eq_true.mp hoff k hk
  rw [hu]
  simp [hk']

end

/-! ### The external input of a trigger (R350, R353) -/

/-- A descriptor of KIND 0x1 for external input i and one edge takes that edge. -/
theorem externalTrig_takes (i : Fin 4) (v : Bool) {d : Nat} (hd : d = 1 + 16 * i.val + (if v then 0 else 2 ^ 16)) :
    (decide (tKind d = 1) && decide (tIndex d = i.val) && edgeTakes d v) = true := by
  subst hd
  revert i v
  decide

/-! ### Arming, stop and force (R344, R347, R361) -/

section
variable {s : State} {p : Pair} {e : Entry}

theorem doMireArm_arms (htake : s.takeParam p 1 9 1 = some e) (hvalue : e.value < 16) (hon : gEn (s.region e.value) = true)
    (hrests : (s.regRt e.value).st = .idle ∨ (s.regRt e.value).st = .done) :
    doMireArm p s = .next ((s.modReg e.value (fun q => { q with armPend := true })).finish p.val e.sub 0 0) := by
  have hfree : (decide ((s.regRt e.value).st ≠ .idle) && decide ((s.regRt e.value).st ≠ .done)) = false := by
    obtain hidle | hdone := hrests
    · simp [hidle]
    · simp [hdone]
  simp only [doMireArm, htake, hon, hfree, Nat.not_le.mpr hvalue, if_false, Bool.not_true, Bool.or_self, Bool.false_eq_true]

theorem doMireArm_refused (htake : s.takeParam p 1 9 1 = some e) (hvalue : e.value < 16)
    (hnot : gEn (s.region e.value) = false ∨ ((s.regRt e.value).st ≠ .idle ∧ (s.regRt e.value).st ≠ .done)) :
    doMireArm p s = .next (s.finish p.val e.sub 0x53 (BitVec.ofNat 64 e.value)) := by
  simp [doMireArm, htake, Nat.not_le.mpr hvalue, hnot]

theorem doMireStop_stops (htake : s.takeParam p 1 9 3 = some e) (hvalue : e.value < 16) (hcan : canForce (s.regRt e.value) = true) :
    doMireStop p s = .next ((s.modReg e.value (fun q => { q with stopReq := true })).finish p.val e.sub 0 0) := by
  simp [doMireStop, htake, Nat.not_le.mpr hvalue, hcan]

theorem doMireStop_refused (htake : s.takeParam p 1 9 3 = some e) (hvalue : e.value < 16)
    (hcannot : canForce (s.regRt e.value) = false) :
    doMireStop p s = .next (s.finish p.val e.sub 0x53 (BitVec.ofNat 64 e.value)) := by
  simp [doMireStop, htake, Nat.not_le.mpr hvalue, hcannot]

theorem doForce_refused (htake : s.takeParam p 1 9 2 = some e) (hvalue : e.value < 16)
    (hcannot : canForce (s.regRt e.value) = false) :
    doForce p s = .next (s.finish p.val e.sub 0x53 (BitVec.ofNat 64 e.value)) := by
  simp [doForce, htake, Nat.not_le.mpr hvalue, hcannot]

/-- FORCE is an event of the sources of KIND 0x9 of its region, now (R350). -/
theorem doForce_fires (htake : s.takeParam p 1 9 2 = some e) (hvalue : e.value < 16) (hcan : canForce (s.regRt e.value) = true) :
    doForce p s = .next ((s.fireSources (fun k _ d => decide (k = e.value) && decide (tKind d = 9)) (stampOf s.time.tb1.ns)
      3).finish p.val e.sub 0 0) := by
  simp [doForce, htake, Nat.not_le.mpr hvalue, hcan]

/-! ### Buffers and reads (R353, R357, R358) -/

/-- Where nothing waits to be delivered, no delivery goes on. -/
theorem State.deliver_nothing {r : Nat} (hnothing : (s.regRt r).toSend = []) (hst : (s.regRt r).st ≠ .delivering) :
    s.deliver r = s := by
  have hone : s.deliverOne r = s := by simp [State.deliverOne, hnothing]
  have hall (n : Nat) : forN n (fun _ u => u.deliverOne r) s = s :=
    forN_invariant (P := (· = s)) (fun _ u hu => by rw [hu, hone]) n rfl
  simp [State.deliver, hall, hnothing, hst]

/-- s with a buffer b that has joined those of region r. -/
def State.withBuffer (s : State) (r : Nat) (b : RecBuf) : State := s.modReg r (fun q => { q with bufs := q.bufs ++ [b] })

theorem State.withBuffer_regRt {r : Nat} (b : RecBuf) :
    (s.withBuffer r b).regRt r = { s.regRt r with bufs := (s.regRt r).bufs ++ [b] } := State.regRt_modReg_same _ _ _

theorem exec_recordBuffer_joins (htake : s.takeOp p.val 4 1 = some e) (hregion : e.byte16 < 16)
    (hring : gRing (s.region e.byte16) = p.val) (hnothing : (s.regRt e.byte16).toSend = [])
    (hst : (s.regRt e.byte16).st ≠ .delivering) : exec (.recordBuffer p) s = .next ((s.withBuffer e.byte16
      { pair := p, sub := e.sub, addr := e.addr, size := e.len, flushUs := e.word20 }).accept p.val e.sub) := by
  let b : RecBuf := { pair := p, sub := e.sub, addr := e.addr, size := e.len, flushUs := e.word20 }
  let t := (s.withBuffer e.byte16 b).accept p.val e.sub
  have hrt : t.regRt e.byte16 = { s.regRt e.byte16 with bufs := (s.regRt e.byte16).bufs ++ [b] } := State.withBuffer_regRt b
  have hempty : (t.regRt e.byte16).toSend = [] := by rw [hrt]; exact hnothing
  have hquiet : t.deliver e.byte16 = t := State.deliver_nothing hempty (by rw [hrt]; exact hst)
  have hstays : (decide ((t.regRt e.byte16).st = .done) && !(t.regRt e.byte16).toSend.isEmpty) = false := by simp [hempty]
  change execRecordBuffer p s = .next t
  simp only [execRecordBuffer, htake, Nat.not_le.mpr hregion, hring, ne_eq, not_true_eq_false, decide_false, Bool.or_self,
    Bool.false_eq_true, if_false]
  exact congrArg Host.Outcome.next
    ((congrArg (State.deliver · e.byte16) (if_neg (Bool.eq_false_iff.mp hstays))).trans hquiet)

theorem exec_recordBuffer_otherRing (htake : s.takeOp p.val 4 1 = some e) (hring : gRing (s.region e.byte16) ≠ p.val) :
    exec (.recordBuffer p) s = .next (s.finish p.val e.sub 0x02 0) := by
  change execRecordBuffer p s = _
  simp [execRecordBuffer, htake, hring]

theorem exec_recordBufferFlush_front {r : Fin 16} {b : RecBuf} {l : List RecBuf} (hbufs : (s.regRt r.val).bufs = b :: l)
    (htime : 0 < b.flushUs) (hfilled : 0 < b.filled) : exec (.recordBufferFlush r) s =
    .next ((s.modReg r.val (fun q => { q with bufs := l })).finish b.pair.val b.sub 0 (BitVec.ofNat 64 b.filled)) := by
  change execRecordBufferFlush r s = _
  simp [execRecordBufferFlush, State.closeBuf, hbufs, htime, hfilled]

theorem exec_recordBufferFlush_none {r : Fin 16} (hnone : (s.regRt r.val).bufs = []) :
    exec (.recordBufferFlush r) s = .next s := by
  change execRecordBufferFlush r s = _
  simp [execRecordBufferFlush, hnone]

/-- Two changes of a region that agree on its run-time state are one. -/
theorem State.modReg_congr {r : Nat} {f g : RegionRt → RegionRt} (h : f (s.regRt r) = g (s.regRt r)) :
    s.modReg r f = s.modReg r g := by
  unfold State.regRt at h
  simp only [State.modReg, tmod, h]

/-- Without a failed frame a read finds the bytes of the Bog as they are. -/
theorem State.regRead_of_noEcc {r : Nat} (hnone : (s.regRt r).eccOff = []) (offs : List Nat) :
    s.regRead r offs = offs.map (fun o => tget 0 s.bog (gBase (s.region r) * 2 ^ 20 + o)) := by
  simp [State.regRead, hnone]

theorem exec_recordRead_inside (htake : s.takeOp p.val 4 2 = some e) (hregion : e.byte16 < 16)
    (hinside : e.value + e.len ≤ regSize (s.region e.byte16)) (hnone : (s.regRt e.byte16).eccOff = []) :
    exec (.recordRead p) s = .next (((s.hostWrite e.addr ((List.range e.len).map
      (fun i => tget 0 s.bog (gBase (s.region e.byte16) * 2 ^ 20 + (e.value + i))))).modReg e.byte16
      (fun q => { q with eccOff := [] })).finish p.val e.sub 0 (BitVec.ofNat 64 e.len)) := by
  have hlen : min e.len (regSize (s.region e.byte16) - e.value) = e.len := by omega
  have hread : s.regRead e.byte16 ((List.range e.len).map (fun i => e.value + i)) = (List.range e.len).map
      (fun i => tget 0 s.bog (gBase (s.region e.byte16) * 2 ^ 20 + (e.value + i))) := by
    rw [State.regRead_of_noEcc hnone, List.map_map]
    rfl
  change execRecordRead p s = _
  simp only [execRecordRead, htake, Nat.not_le.mpr hregion, if_false, hlen, hread]
  rw [State.modReg_congr (g := fun q => { q with eccOff := [] })]
  simp [State.regRt_congr (State.hostWrite_mir s _ _), hnone]

/-! ### The parameters on a member that acts (R449) -/

variable (hacts : s.roleActs = true) (hmirrors : s.mirrors = false)
include hacts hmirrors

theorem exec_mireArm (htake : s.takeParam p 1 9 1 = some e) : exec (.mireArm p) s = doMireArm p s :=
  State.asChange_of_acts htake hacts hmirrors

theorem exec_force (htake : s.takeParam p 1 9 2 = some e) : exec (.force p) s = doForce p s :=
  State.asChange_of_acts htake hacts hmirrors

theorem exec_mireStop (htake : s.takeParam p 1 9 3 = some e) : exec (.mireStop p) s = doMireStop p s :=
  State.asChange_of_acts htake hacts hmirrors

end

/-- Settles O38: each descriptor by the state it answers; FORCE and an external edge by the one trigger that they make. -/
theorem mireCaptures : Obligations.MireCaptures := by
  unfold Obligations.MireCaptures
  refine ⟨?arm, ?armRefused, ?stop, ?forceRefused, ?force, ?external, ?externalOff, ?buffer, ?bufferRefused, ?flush, ?flushNone,
    ?read⟩
  case arm =>
    intro s p e htake hacts hmirrors hvalue hon hrests
    exact ⟨_, (exec_mireArm hacts hmirrors htake).trans (doMireArm_arms htake hvalue hon hrests), rfl, rfl⟩
  case armRefused =>
    intro s p e htake hacts hmirrors hvalue hnot
    exact (exec_mireArm hacts hmirrors htake).trans (doMireArm_refused htake hvalue hnot)
  case stop =>
    intro s p e htake hacts hmirrors hvalue hcan
    exact ⟨_, (exec_mireStop hacts hmirrors htake).trans (doMireStop_stops htake hvalue hcan), rfl, rfl⟩
  case forceRefused =>
    intro s p e _ hacts hmirrors hvalue hcannot
    exact ⟨fun htake => (exec_mireStop hacts hmirrors htake).trans (doMireStop_refused htake hvalue hcannot),
      fun htake => (exec_force hacts hmirrors htake).trans (doForce_refused htake hvalue hcannot)⟩
  case force =>
    intro s p e r htake hacts hmirrors hvalue hon hothers harmed hcomb hspill hurgent hmask hA hB henough hgoesOn
    have hcan : canForce (s.regRt e.value) = true := by simp [canForce, hvalue, harmed]
    have hfires : s.fireSources _ _ 3 = s.triggeredByA r.val (stampOf s.time.tb1.ns) 3 :=
      State.fireSources_triggers (p := fun k _ d => decide (k = e.value) && decide (tKind d = 9)) r.isLt hon
        ⟨harmed, hspill, hurgent, hmask, henough, hgoesOn⟩ (State.othersOff_of_all hothers) hcomb (by simp [hvalue, hA])
        (by simp [hB]) 3
    have hnext := (exec_force hacts hmirrors htake).trans (doForce_fires htake (hvalue ▸ r.isLt) hcan)
    rw [hfires] at hnext
    exact ⟨_, hnext, State.triggeredByA_posts 3 (State.finish_mir _ _ _ _ _),
      (State.finish_mask rfl _ _ _ _ _).trans (State.triggeredByA_only 3)⟩
  case external =>
    intro s i v x r hon hothers harmed hcomb hspill hurgent hmask hA hB henough hgoesOn
    have hfires := State.fireSources_triggers
      (p := fun _ _ d => decide (tKind d = 1) && decide (tIndex d = i.val) && edgeTakes d v) r.isLt hon
      ⟨harmed, hspill, hurgent, hmask, henough, hgoesOn⟩ (State.othersOff_of_all hothers) hcomb (externalTrig_takes i v hA)
      (by rw [hB]; rfl) 0
    exact completes_of_exec (congrArg Host.Outcome.next hfires) (State.triggeredByA_posts 0 rfl) rfl
  case externalOff =>
    intro s i v x hoff
    exact congrArg Host.Outcome.next (State.fireSources_of_noneEnabled hoff _ _ _)
  case buffer =>
    intro s p e htake hregion hring hnothing hst
    exact completes_of_exec (exec_recordBuffer_joins htake hregion hring hnothing hst) (State.withBuffer_regRt _) rfl
  case bufferRefused => exact fun s p e htake _ hring => exec_recordBuffer_otherRing htake hring
  case flush => exact fun s r b l hbufs htime hfilled => exec_recordBufferFlush_front hbufs htime hfilled
  case flushNone => exact fun s r hnone => exec_recordBufferFlush_none hnone
  case read => exact fun s p e htake hregion hinside hnone => exec_recordRead_inside htake hregion hinside hnone

end Sys2Proof.Machine
end

section
/-! PROOFS. Trunk ports (R362, R364 to R366, R379 to R381): what each operation on a port leaves of it, of the other port and of the
ACTIVE mark, and what a frame that crosses the module becomes. -/

namespace Sys2Proof.Machine

/-! ### Single updates of a port -/

/-- The state with port k changed. -/
def State.putTrunk (s : State) (k : Nat) (r : TrunkRt) : State :=
  s.setWag { s.wag with trunks := tput {} r s.wag.trunks k }

@[simp] theorem State.putTrunk_trunk_same (s : State) (k : Nat) (r : TrunkRt) : (s.putTrunk k r).wag.trunk k = r :=
  tget_tput_same _ _ _ _

@[simp] theorem State.setTrunk_trunk_same (s : State) (k : Nat) (r : TrunkRt) (st : TrunkSt) :
    (s.setTrunk k r st).wag.trunk k = { r with st := st } := by
  unfold State.setTrunk
  extract_lets old set
  split <;> exact tget_tput_same _ _ _ _

theorem State.setTrunk_trunk_other (s : State) {j k : Nat} (r : TrunkRt) (st : TrunkSt) (hjk : j ≠ k) :
    (s.setTrunk k r st).wag.trunk j = s.wag.trunk j := by
  unfold State.setTrunk
  extract_lets old set
  split <;> exact tget_tput_other _ _ _ _ _ hjk

@[simp] theorem State.setTrunk_activePort (s : State) (k : Nat) (r : TrunkRt) (st : TrunkSt) :
    (s.setTrunk k r st).wag.activePort = s.wag.activePort := by
  unfold State.setTrunk
  extract_lets old set
  split <;> rfl

@[simp] theorem State.codeErrors_trunk_same (s : State) (p : TrunkPort) :
    (s.codeErrors p).wag.trunk p.port.val = (s.wag.trunk p.port.val).codeErrors p.invalid := tget_tput_same _ _ _ _

@[simp] theorem State.codeErrors_trunkRole (s : State) (p : TrunkPort) (k : Nat) : (s.codeErrors p).trunkRole k = s.trunkRole k := rfl

@[simp] theorem State.codeErrors_trunkUp (s : State) (p : TrunkPort) (k : Nat) : (s.codeErrors p).trunkUp k = s.trunkUp k := rfl

@[simp] theorem TrunkRt.codeErrors_dqSeq (r : TrunkRt) (n : Nat) : (r.codeErrors n).dqSeq = r.dqSeq := rfl

@[simp] theorem TrunkRt.codeErrors_st (r : TrunkRt) (n : Nat) : (r.codeErrors n).st = r.st := rfl

theorem State.trunkRole_congr {s t : State} (h : t.regs = s.regs) (k : Nat) : t.trunkRole k = s.trunkRole k := by
  simp only [State.trunkRole, State.rfld, State.reg, h]

theorem State.trunkUp_congr {s t : State} (h : t.regs = s.regs) (k : Nat) : t.trunkUp k = s.trunkUp k := by
  simp only [State.trunkUp, State.trunkRole_congr h]

/-! ### The state of a port after its measurements and marks (R366, R379) -/

@[simp] theorem State.judgeTrunk_link (s : State) (k : Nat) : (s.judgeTrunk k).wag.link = s.wag.link :=
  (congrArg (fun g : WagState => g.link) (s.judgeTrunk_besideTrunks k) :)

/-- Whether port k is marked ACTIVE: by this module where it leads up, by its partner where not. -/
def State.trunkMarked (s : State) (k : Nat) : Bool :=
  if s.trunkUp k then decide (s.wag.activePort = some k) else (s.wag.trunk k).active

theorem State.judgeTrunk_of_down {s : State} {k : Nat} (hdown : (s.wag.trunk k).st = .down) : s.judgeTrunk k = s := by
  simp [State.judgeTrunk, hdown]

theorem State.judgeTrunk_of_up {s : State} {k : Nat} (hup : (s.wag.trunk k).st ≠ .down) :
    s.judgeTrunk k = s.setTrunk k { s.wag.trunk k with active := s.trunkMarked k }
      (trunkNext (s.trunkRole k) (s.trunkUp k) (s.trunkMarked k) (s.wag.trunk k)) := by
  simp only [State.judgeTrunk, State.trunkMarked, if_neg hup]

@[simp] theorem State.judgeTrunk_activePort (s : State) (k : Nat) : (s.judgeTrunk k).wag.activePort = s.wag.activePort := by
  by_cases hdown : (s.wag.trunk k).st = .down
  · rw [State.judgeTrunk_of_down hdown]
  · rw [State.judgeTrunk_of_up hdown, State.setTrunk_activePort]

@[simp] theorem State.judgeTrunk_regs (s : State) (k : Nat) : (s.judgeTrunk k).regs = s.regs :=
  State.only_regs (State.judgeTrunk_mask (qs := [.hif, .wag, .out]) rfl s k) rfl

theorem State.judgeTrunk_trunk_other (s : State) {j k : Nat} (hjk : j ≠ k) :
    (s.judgeTrunk k).wag.trunk j = s.wag.trunk j := by
  by_cases hdown : (s.wag.trunk k).st = .down
  · rw [State.judgeTrunk_of_down hdown]
  · rw [State.judgeTrunk_of_up hdown, State.setTrunk_trunk_other _ _ _ hjk]

@[simp] theorem State.judgeTrunk_delays (s : State) (j k : Nat) :
    ((s.judgeTrunk k).wag.trunk j).delays = (s.wag.trunk j).delays := by
  by_cases hjk : j = k
  · subst hjk
    by_cases hdown : (s.wag.trunk j).st = .down
    · rw [State.judgeTrunk_of_down hdown]
    · rw [State.judgeTrunk_of_up hdown, State.setTrunk_trunk_same]
  · rw [State.judgeTrunk_trunk_other s hjk]

@[simp] theorem State.markUpstream_delays (s : State) (j k : Nat) :
    ((s.markUpstream k).wag.trunk j).delays = (s.wag.trunk j).delays := by
  unfold State.markUpstream
  extract_lets r
  split
  · exact State.judgeTrunk_delays _ j k
  · rfl

/-- The mark of a port that does not lead up is its partner's. -/
theorem State.judgeTrunk_active {s : State} {k : Nat} (hdownstream : s.trunkUp k = false) :
    ((s.judgeTrunk k).wag.trunk k).active = (s.wag.trunk k).active := by
  by_cases hdown : (s.wag.trunk k).st = .down
  · rw [State.judgeTrunk_of_down hdown]
  · rw [State.judgeTrunk_of_up hdown, State.setTrunk_trunk_same]
    simp [State.trunkMarked, hdownstream]

/-- An unmarked port that leads up does not forward. -/
theorem State.judgeTrunk_unmarked {s : State} {k : Nat} (hup : s.trunkUp k = true) (hother : s.wag.activePort ≠ some k) :
    ((s.judgeTrunk k).wag.trunk k).st ≠ .forwarding := by
  by_cases hdown : (s.wag.trunk k).st = .down
  · rw [State.judgeTrunk_of_down hdown, hdown]
    decide
  · rw [State.judgeTrunk_of_up hdown, State.setTrunk_trunk_same]
    simp only [trunkNext, State.trunkMarked, hup, hother]
    repeat' split
    all_goals simp_all

/-- A measured port that leads up forwards with the mark. -/
theorem State.judgeTrunk_marked {s : State} {k : Nat} (hup : s.trunkUp k = true) (hmark : s.wag.activePort = some k)
    (hmeasured : (s.wag.trunk k).st = .measured) (hnear : (s.wag.trunk k).delay ≤ 600 * 256) :
    ((s.judgeTrunk k).wag.trunk k).st = .forwarding := by
  have hrole : s.trunkRole k ≠ 0 := by
    intro h
    simp [State.trunkUp, h] at hup
  rw [State.judgeTrunk_of_up (by simp [hmeasured]), State.setTrunk_trunk_same]
  simp [trunkNext, State.trunkMarked, hup, hmark, hmeasured, hrole]
  omega

/-! ### Alignment (R379) -/

theorem exec_trunkAligned_down {s : State} {p : TrunkPort} (hdown : (s.wag.trunk p.port.val).st = .down) :
    exec (.trunkAligned p) s = .next ((s.codeErrors p).setTrunk p.port.val
      { (s.wag.trunk p.port.val).codeErrors p.invalid with delays := [], active := false } .aligned) := by
  change execTrunkAligned p s = _
  simp [execTrunkAligned, hdown]

theorem exec_trunkAligned_aligned {s : State} {p : TrunkPort} (hup : (s.wag.trunk p.port.val).st ≠ .down) :
    exec (.trunkAligned p) s = .next (s.codeErrors p) := by
  change execTrunkAligned p s = _
  simp [execTrunkAligned, hup]

/-- The port k with its link lost. -/
def State.trunkLost (s : State) (p : TrunkPort) : State :=
  (s.codeErrors p).setTrunk p.port.val
    { (s.wag.trunk p.port.val).codeErrors p.invalid with delays := [], active := false } .down

theorem exec_trunkAlignmentLost (s : State) (p : TrunkPort) : exec (.trunkAlignmentLost p) s = .next (
    if (s.trunkLost p).wag.activePort = some p.port.val ∧ (s.trunkLost p).trunkRole p.port.val = 1 then
      (s.trunkLost p).setWag { (s.trunkLost p).wag with activePort := none }
    else s.trunkLost p) := by
  change execTrunkAlignmentLost p s = _
  simp [execTrunkAlignmentLost, State.trunkLost]

/-! ### Delay measurement (R381) -/

theorem exec_trunkDqSend {s : State} {k : Fin 2} (x : Stamp) (hst : (s.wag.trunk k.val).st ≠ .down)
    (hup : s.trunkUp k.val = true) (hlink : s.wag.link ≠ .stopped) : exec (.trunkDqSend k x) s = .next ((s.putTrunk k.val
      { s.wag.trunk k.val with dqSeq := (s.wag.trunk k.val).dqSeq + 1, t1 := x }).emitOut
      (.trunkDq k.val ((s.wag.trunk k.val).dqSeq + 1) (decide (s.wag.activePort = some k.val)))) := by
  change execTrunkDqSend k x s = _
  simp only [execTrunkDqSend]
  rw [if_neg (by simp [hst, hup, hlink])]
  rfl

/-- The port with the mark that its partner's query carries. -/
def State.trunkTold (s : State) (p : TrunkPort) (a : Bool) : State :=
  (s.codeErrors p).putTrunk p.port.val { (s.codeErrors p).wag.trunk p.port.val with active := a }

theorem State.trunkTold_trunk (s : State) (p : TrunkPort) (a : Bool) : (s.trunkTold p a).wag.trunk p.port.val =
    { (s.wag.trunk p.port.val).codeErrors p.invalid with active := a } := by
  rw [State.trunkTold, State.putTrunk_trunk_same, State.codeErrors_trunk_same]

theorem exec_trunkDqReceive {s : State} {p : TrunkPort} (q : BitVec 8) (a : Bool) (x : Stamp)
    (hst : (s.wag.trunk p.port.val).st ≠ .down) (hrole : s.trunkRole p.port.val = 2) (hlink : s.wag.link ≠ .stopped) :
    exec (.trunkDqReceive p q a x) s =
      .next (((s.trunkTold p a).judgeTrunk p.port.val).emitOut (.trunkDr p.port.val q x)) := by
  have hlink' : ((s.trunkTold p a).judgeTrunk p.port.val).wag.link ≠ .stopped := by
    rw [State.judgeTrunk_link]
    exact hlink
  change execTrunkDqReceive p q a x s = _
  simp only [execTrunkDqReceive]
  rw [if_neg (by simp [hst, hrole])]
  exact congrArg Host.Outcome.next (if_neg hlink')

/-- A measurement of the delay of port k, in 1/256 ns. -/
def State.trunkDelay (s : State) (k : Nat) (x y : Stamp) : Int :=
  (sdiff48 y (s.wag.trunk k).t1 - Int.ofNat x.toNat + sext 16 (s.rfld (0xA410 + 0x10 * k) 31 16)) / 2

/-- The port with one more measurement. -/
def State.trunkMeasured (s : State) (p : TrunkPort) (x y : Stamp) : State :=
  let t := s.codeErrors p
  let r := t.wag.trunk p.port.val
  t.putTrunk p.port.val { r with delays := (t.trunkDelay p.port.val x y :: r.delays).take 8 }

theorem State.trunkMeasured_delays (s : State) (p : TrunkPort) (x y : Stamp) :
    ((s.trunkMeasured p x y).wag.trunk p.port.val).delays =
      (s.trunkDelay p.port.val x y :: (s.wag.trunk p.port.val).delays).take 8 := by
  have hdelay : (s.codeErrors p).trunkDelay p.port.val x y = s.trunkDelay p.port.val x y := by
    simp only [State.trunkDelay, State.codeErrors_trunk_same]
    rfl
  simp only [State.trunkMeasured, State.putTrunk_trunk_same, hdelay, State.codeErrors_trunk_same]
  rfl

/-- The judgement of a port after a measurement: the mark of a port that has become too long is taken away, else it may be set. -/
def State.remark (s : State) (k : Nat) : State :=
  if decide ((s.wag.trunk k).st = .tooLong) && decide (s.wag.activePort = some k) && decide (s.trunkRole k = 1) then
    (s.setWag { s.wag with activePort := none }).judgeTrunk k
  else s.markUpstream k

@[simp] theorem State.remark_delays (s : State) (j k : Nat) : ((s.remark k).wag.trunk j).delays = (s.wag.trunk j).delays := by
  unfold State.remark
  split
  · exact State.judgeTrunk_delays _ j k
  · exact s.markUpstream_delays j k

theorem exec_trunkDrReceive {s : State} {p : TrunkPort} {q : BitVec 8} (x y : Stamp)
    (hst : (s.wag.trunk p.port.val).st ≠ .down) (hup : s.trunkUp p.port.val = true) (hseq : (s.wag.trunk p.port.val).dqSeq = q) :
    exec (.trunkDrReceive p q x y) s = .next (((s.trunkMeasured p x y).judgeTrunk p.port.val).remark p.port.val) := by
  change execTrunkDrReceive p q x y s = _
  simp only [execTrunkDrReceive]
  rw [if_neg (by simp [hst, hup, hseq])]
  rfl

theorem exec_trunkDrReceive_otherSeq {s : State} {p : TrunkPort} {q : BitVec 8} (x y : Stamp)
    (hseq : (s.wag.trunk p.port.val).dqSeq ≠ q) : exec (.trunkDrReceive p q x y) s = .next (s.codeErrors p) := by
  change execTrunkDrReceive p q x y s = _
  simp only [execTrunkDrReceive]
  rw [if_pos (by simp [hseq])]

/-! ### The switch to the other port (R366) -/

/-- Port k marked ACTIVE by a switch. -/
def State.switched (s : State) (k : Nat) : State := s.setWag { s.wag with activePort := some k, refThisCycle := false }

theorem exec_upstreamSwitch_alt {s : State} (hwdrn : s.wag.headWdrn = false) (hactive : s.wag.activePort = some 0)
    (hrole0 : s.trunkRole 0 = 1) (hrole1 : s.trunkRole 1 = 3) (hmeasured : (s.wag.trunk 1).st = .measured) :
    exec .upstreamSwitch s = .next ((((s.switched 1).judgeTrunk 0).judgeTrunk 1).raise 0x6E 1) := by
  have hfind : (List.range 2).find? (fun k => decide (s.trunkRole k = 3) && decide ((s.wag.trunk k).st = .measured)) = some 1 := by
    simp [List.range_succ, hrole0, hrole1, hmeasured]
  change execUpstreamSwitch s = _
  simp [execUpstreamSwitch, hwdrn, hactive, hrole0, hfind, State.switched]

theorem State.switched_trunks {s : State} (hrole0 : s.trunkRole 0 = 1) (hrole1 : s.trunkRole 1 = 3)
    (hmeasured : (s.wag.trunk 1).st = .measured) (hnear : (s.wag.trunk 1).delay ≤ 600 * 256) :
    ((((s.switched 1).judgeTrunk 0).judgeTrunk 1).wag.trunk 1).st = .forwarding ∧
      ((((s.switched 1).judgeTrunk 0).judgeTrunk 1).wag.trunk 0).st ≠ .forwarding := by
  have hup0 : (s.switched 1).trunkUp 0 = true := by
    have hsame : (s.switched 1).trunkUp 0 = s.trunkUp 0 := State.trunkUp_congr rfl 0
    rw [hsame, State.trunkUp, hrole0]
    rfl
  have hup1 : ((s.switched 1).judgeTrunk 0).trunkUp 1 = true := by
    have hsame : ((s.switched 1).judgeTrunk 0).trunkUp 1 = s.trunkUp 1 := State.trunkUp_congr (State.judgeTrunk_regs _ 0) 1
    rw [hsame, State.trunkUp, hrole1]
    rfl
  have htrunk1 : ((s.switched 1).judgeTrunk 0).wag.trunk 1 = s.wag.trunk 1 := State.judgeTrunk_trunk_other _ (by decide)
  constructor
  · refine State.judgeTrunk_marked hup1 (State.judgeTrunk_activePort _ _) ?_ ?_
    · rw [htrunk1, hmeasured]
    · rwa [htrunk1]
  · rw [State.judgeTrunk_trunk_other _ (by decide)]
    exact State.judgeTrunk_unmarked hup0 (by simp [State.switched])

/-! ### Forwarding (R364, R365, R380) -/

/-- A frame of a scheduled window that enters by an open port goes out by the others that forward, and by the segment. -/
theorem exec_trunkForward_trunk0 {s : State} {f : CrossFrame} (hruns : s.linkRuns = true) (hsilent : s.silent = false)
    (hresync : s.wag.grdResync = false) (hst : (s.wag.trunk 0).st = .forwarding) (hports : s.fwdPorts = [0, 1])
    (hwin : f.frame.win = 0 ∨ wType (s.wag.window f.frame.win) ≠ 3) (hhops : f.frame.hops < 63) (hcrc : f.crcOk = true)
    (hkind : f.frame.kind ≠ 1) : exec (.trunkForward .trunk0 f) s =
      .next (let u := s.emitOut (.trunk 1 (frameWire { f.frame with hops := f.frame.hops + 1 } false))
        if s.segEn && !s.wag.grdClosed then u.emitOut (.waggle f.frame false) else u) := by
  have hpasses : (decide (f.frame.win ≠ 0) && decide (wType (s.wag.window f.frame.win) = 3)) = false := by
    rcases hwin with h | h <;> simp [h]
  change execTrunkForward .trunk0 f s = _
  simp only [execTrunkForward, hpasses, decide_eq_false hkind]
  rw [if_neg (by simp [hruns, hsilent, hst, hhops, hresync])]
  simp [hports, hcrc, State.countStomp, State.toTrunks]
  exact (apply_ite Host.Outcome.next _ _ _).symm

theorem exec_trunkForward_stomped {s : State} {f : CrossFrame} (hruns : s.linkRuns = true) (hsilent : s.silent = false)
    (hresync : s.wag.grdResync = false) (hports : s.fwdPorts = [0])
    (hwin : f.frame.win = 0 ∨ wType (s.wag.window f.frame.win) ≠ 3) (hhops : f.frame.hops < 63) (hcrc : f.crcOk = false) :
    exec (.trunkForward .segment f) s = .next ((s.countStomp 0 true).emitOut
      (.trunk 0 (frameWire { f.frame with hops := f.frame.hops + 1 } true))) := by
  have hpasses : (decide (f.frame.win ≠ 0) && decide (wType (s.wag.window f.frame.win) = 3)) = false := by
    rcases hwin with h | h <;> simp [h]
  change execTrunkForward .segment f s = _
  simp only [execTrunkForward, hpasses]
  rw [if_neg (by simp [hruns, hsilent, hhops, hresync])]
  simp [hports, hcrc, State.toTrunks]

/-- Settles O23: the equations above say what each command leaves of its port, and of the other one. -/
theorem waggleTrunks : Obligations.WaggleTrunks := by
  unfold Obligations.WaggleTrunks
  refine ⟨?aligned, ?notDown, ?lost, ?query, ?queried, ?answer, ?otherAnswer, ?switch, ?crossing, ?stomped⟩
  case aligned => exact fun s p hdown => completes_of_exec (exec_trunkAligned_down hdown) (State.setTrunk_trunk_same _ _ _ _) rfl
  case notDown => exact fun s p hup => exec_trunkAligned_aligned hup
  case lost =>
    intro s p
    refine completes_of_exec (exec_trunkAlignmentLost s p) ?_ rfl
    split <;> exact State.setTrunk_trunk_same _ _ _ _
  case query => exact fun s k x hst hup hlink => exec_trunkDqSend x hst hup hlink
  case queried =>
    intro s p q a x hst hrole hlink
    refine completes_of_exec (exec_trunkDqReceive q a x hst hrole hlink) ⟨?_, rfl⟩ rfl
    have hdownstream : (s.trunkTold p a).trunkUp p.port.val = false := by
      have hsame : (s.trunkTold p a).trunkUp p.port.val = s.trunkUp p.port.val := State.trunkUp_congr rfl _
      rw [hsame, State.trunkUp, hrole]
      rfl
    rw [State.emitOut_wag, State.judgeTrunk_active hdownstream, State.trunkTold_trunk]
  case answer =>
    intro s p q x y hst hup hseq
    refine completes_of_exec (exec_trunkDrReceive x y hst hup hseq) ?_ rfl
    rw [State.remark_delays, State.judgeTrunk_delays, State.trunkMeasured_delays]
    rfl
  case otherAnswer => exact fun s p q x y hseq => exec_trunkDrReceive_otherSeq x y hseq
  case switch =>
    intro s hwdrn hactive hrole0 hrole1 hmeasured hnear
    refine completes_of_exec (exec_upstreamSwitch_alt hwdrn hactive hrole0 hrole1 hmeasured) ⟨?_, ?_⟩ rfl
    · simp [State.switched]
    · rw [State.raise_wag]
      exact State.switched_trunks hrole0 hrole1 hmeasured hnear
  case crossing =>
    exact fun s f hruns hsilent hresync hst hports hwin hhops hcrc hkind =>
      exec_trunkForward_trunk0 hruns hsilent hresync hst hports hwin hhops hcrc hkind
  case stomped =>
    exact fun s f hruns hsilent hresync hports hwin hhops hcrc =>
      exec_trunkForward_stomped hruns hsilent hresync hports hwin hhops hcrc

end Sys2Proof.Machine
end

section
/-! PROOFS. References taken, heard and read back, clashes, the withdrawal of a head and the guardian's cuts (R366, R367, R378, R387,
R389 to R391, R413 to R415). -/

namespace Sys2Proof.Machine

/-! ### Frames that arrive (R376, R425) -/

/-- The link part without what is counted of the frames that arrive. -/
def WagState.besideFrames (g : WagState) : WagState := { g with winRx := [], crcErr := 0, kindErr := 0 }

theorem WagState.noteFrame_besideFrames (g : WagState) (h : FrameHdr) (ok : Bool) :
    (g.noteFrame h ok).besideFrames = g.besideFrames := by
  unfold WagState.noteFrame
  split
  · rfl
  · extract_lets e r
    split <;> rfl

@[simp] theorem State.takeFrame_besideFrames (s : State) (h : FrameHdr) (kind : Nat) :
    (s.takeFrame h kind).1.wag.besideFrames = s.wag.besideFrames := WagState.noteFrame_besideFrames _ _ _

theorem State.takeFrame_valid {s : State} {h : FrameHdr} {kind : Nat} (hcrc : h.crcOk = true) (hfits : s.frameFits h kind = true) :
    (s.takeFrame h kind).2 = true := by
  simp [State.takeFrame, hcrc, hfits]

@[simp] theorem State.takeFrame_link (s : State) (h : FrameHdr) (kind : Nat) : (s.takeFrame h kind).1.wag.link = s.wag.link :=
  (congrArg WagState.link (s.takeFrame_besideFrames h kind) :)

@[simp] theorem State.takeFrame_activePort (s : State) (h : FrameHdr) (kind : Nat) :
    (s.takeFrame h kind).1.wag.activePort = s.wag.activePort :=
  (congrArg WagState.activePort (s.takeFrame_besideFrames h kind) :)

@[simp] theorem State.takeFrame_headWdrn (s : State) (h : FrameHdr) (kind : Nat) :
    (s.takeFrame h kind).1.wag.headWdrn = s.wag.headWdrn :=
  (congrArg WagState.headWdrn (s.takeFrame_besideFrames h kind) :)

@[simp] theorem State.takeFrame_takesRef (s : State) (h : FrameHdr) (kind : Nat) (port : RxPort) :
    (s.takeFrame h kind).1.takesRef port = s.takesRef port := by
  simp only [State.takesRef, State.takeFrame_activePort, State.takeFrame_headWdrn]
  rfl

/-! ### A reference that is taken (R387, R433) -/

/-- The link part without what follows from a mode's coming into force, from a matrix cycle's beginning and from joining. -/
def WagState.besideMode (g : WagState) : WagState :=
  { g with
    mode := 0, winCnt := [], suppressed := [], clashes := [], rxSeq := [], winRx := [], doneNow := [], stations := []
    changeCnt := 0, grdCuts := 0, probeMc := 0, probeOut := none, joinDone := false, noSched := [] }

@[simp] theorem State.enterMode_besideMode (s : State) (m : Nat) : (s.enterMode m).wag.besideMode = s.wag.besideMode := by
  rw [State.enterMode_wag]
  rfl

@[simp] theorem State.changeMode_besideMode (s : State) (m : Nat) (cycle : Word) :
    (s.changeMode m cycle).wag.besideMode = s.wag.besideMode := s.enterMode_besideMode m

@[simp] theorem State.enterMode_mode (s : State) (m : Nat) : (s.enterMode m).wag.mode = m := by rw [State.enterMode_wag]

@[simp] theorem State.changeMode_mode (s : State) (m : Nat) (cycle : Word) : (s.changeMode m cycle).wag.mode = m := s.enterMode_mode m

/-- The bases and the guardian as a valid reference leaves them. -/
def State.refTimed (s : State) (r : RefPayload) (x : Stamp) : State :=
  ((s.guardianRef x).takeOffset (sdiff48 x (stampOf r.tRef + BitVec.ofNat 48 s.dropDelay)) s.wag.grdResync).followTb0 r

theorem State.refTimed_wag (s : State) (r : RefPayload) (x : Stamp) : (s.refTimed r x).wag = (s.guardianRef x).wag :=
  (State.only_wag (State.followTb0_mask (qs := [.time, .hif, .out, .freeIdx]) rfl _ r) rfl).trans
    (State.only_wag (State.takeOffset_mask (qs := [.time, .hif, .stp, .cmb, .cnv, .fio, .twn, .out, .freeIdx]) rfl _ _ _) rfl)

/-- The place in the schedule that a reference gives. -/
def State.refPlaced (s : State) (h : FrameHdr) (r : RefPayload) (x : Stamp) : State :=
  let u := s.refTimed r x
  u.setWag { u.wag with
    cStart := tadd r.tRef (-Int.ofNat (r.guardNs + 1200 * r.depth.val)), cycle := r.cycle, mpos := r.mpos.val
    pend := r.pend, nextMode := r.nextMode.val, changeAt := r.changeAt, bcNs := r.bcNs.toNat, mlen := r.mlen
    guardNs := r.guardNs, depth := if s.wag.activePort.isSome then r.depth.val + 1 else r.depth.val
    lastRef := some r, refSrc := h.src.val, refHops := h.hops.val, refThisCycle := true, refOk := true
    standbyWasLocked := s.wag.standbyWasLocked || (decide (s.wag.link = .standby) && u.time.tb1Lock) }

/-- A reference taken leaves its place in the schedule, and its mode. -/
theorem State.followRef_wag (s : State) (h : FrameHdr) (r : RefPayload) (x : Stamp) :
    (s.followRef h r x).wag.besideMode = (s.refPlaced h r x).wag.besideMode ∧ (s.followRef h r x).wag.mode = r.mode.val := by
  have hmode : (s.refPlaced h r x).wag.mode = s.wag.mode := (congrArg WagState.mode (s.refTimed_wag r x) :)
  unfold State.followRef
  extract_lets g off timed newPend g1 placed moded matrixed g2 joined warned g3
  have hplaced : placed = s.refPlaced h r x := rfl
  clear_value placed
  subst hplaced
  have hmoded : moded.wag.besideMode = (s.refPlaced h r x).wag.besideMode ∧ moded.wag.mode = r.mode.val := by
    simp only [moded]
    split
    · exact ⟨State.enterMode_besideMode _ _, State.enterMode_mode _ _⟩
    · split
      · exact ⟨State.changeMode_besideMode _ _ _, State.changeMode_mode _ _ _⟩
      · next hsame => exact ⟨rfl, hmode.trans (not_not.mp hsame).symm⟩
  have hmatrixed : matrixed.wag.besideMode = moded.wag.besideMode ∧ matrixed.wag.mode = moded.wag.mode := by
    simp only [matrixed]
    split <;> exact ⟨rfl, rfl⟩
  have hwarned : warned.wag.besideMode = matrixed.wag.besideMode ∧ warned.wag.mode = matrixed.wag.mode := by
    simp only [warned]
    split <;> exact ⟨rfl, rfl⟩
  clear_value moded matrixed warned
  split
  · exact ⟨hwarned.1.trans (hmatrixed.1.trans hmoded.1), hwarned.2.trans (hmatrixed.2.trans hmoded.2)⟩
  · exact ⟨hwarned.1.trans (hmatrixed.1.trans hmoded.1), hwarned.2.trans (hmatrixed.2.trans hmoded.2)⟩

theorem State.followRef_place (s : State) (h : FrameHdr) (r : RefPayload) (x : Stamp) :
    (s.followRef h r x).wag.link = s.wag.link ∧
      (s.followRef h r x).wag.cStart = tadd r.tRef (-Int.ofNat (r.guardNs + 1200 * r.depth.val)) ∧
      (s.followRef h r x).wag.cycle = r.cycle ∧ (s.followRef h r x).wag.mpos = r.mpos.val ∧
      (s.followRef h r x).wag.mode = r.mode.val ∧ (s.followRef h r x).wag.pend = r.pend ∧
      (s.followRef h r x).wag.nextMode = r.nextMode.val ∧ (s.followRef h r x).wag.changeAt = r.changeAt ∧
      (s.followRef h r x).wag.lastRef = some r ∧ (s.followRef h r x).wag.refOk = true ∧
      (s.followRef h r x).wag.grdClosed = false := by
  obtain ⟨hplace, hmode⟩ := s.followRef_wag h r x
  have hlink : (s.refPlaced h r x).wag.link = s.wag.link := (congrArg WagState.link (s.refTimed_wag r x) :)
  have hopen : (s.refPlaced h r x).wag.grdClosed = false := (congrArg WagState.grdClosed (s.refTimed_wag r x) :)
  exact ⟨(congrArg WagState.link hplace :).trans hlink, (congrArg WagState.cStart hplace :), (congrArg WagState.cycle hplace :),
    (congrArg WagState.mpos hplace :), hmode, (congrArg WagState.pend hplace :), (congrArg WagState.nextMode hplace :),
    (congrArg WagState.changeAt hplace :), (congrArg WagState.lastRef hplace :), (congrArg WagState.refOk hplace :),
    (congrArg WagState.grdClosed hplace :).trans hopen⟩

/-! ### Who hears a reference (R366, R389, R413 to R415) -/

section
variable {s : State} {a : RefArrival} (r : RefPayload) (x : Stamp)

theorem State.heardReference_follow (hlink : s.wag.link = .follow) (htakes : s.takesRef a.port = true) :
    s.heardReference a r x false = s.followRef a.hdr r x := by
  simp [State.heardReference, hlink, htakes]

theorem State.heardReference_listen (hlink : s.wag.link = .listen) (hhears : s.listensOn a.port = true) :
    s.heardReference a r x false = s.foreignRef a.hdr r x := by
  simp [State.heardReference, hlink, hhears]

theorem State.heardReference_own (hlink : s.wag.link = .hive) : s.heardReference a r x true =
    (s.guardianRef x).setWag { (s.guardianRef x).wag with collRun := 0, refThisCycle := true, refOk := true } := by
  simp [State.heardReference, State.isHive, hlink]

theorem State.foreignRef_equal (h : FrameHdr) (hlink : s.wag.link = .listen) (hrank : r.rank.toNat = s.rank) :
    s.foreignRef h r x = s.stopEqual r.rank.toNat := by
  simp [State.foreignRef, State.isHive, hlink, hrank]

theorem State.foreignRef_lower (h : FrameHdr) (hlink : s.wag.link = .listen) (hrank : r.rank.toNat < s.rank) :
    s.foreignRef h r x = (s.becomeStandby r.rank.toNat).followRef h r x := by
  simp [State.foreignRef, State.isHive, hlink, hrank]

/-- A valid reference is heard in the State in which the frame has been noted. -/
theorem exec_referenceFrame_valid (echo : Bool) (hruns : s.linkRuns = true) (hcrc : a.hdr.crcOk = true)
    (hfits : s.frameFits a.hdr 1 = true) : exec (.referenceFrame a r x echo) s =
      .next ((s.takeFrame a.hdr 1).1.heardReference a r x echo).judgePhase := by
  change execReferenceFrame a r x echo s = _
  simp [execReferenceFrame, hruns, State.takeFrame_valid hcrc hfits]

theorem exec_referenceFrame_invalid (echo : Bool) (hruns : s.linkRuns = true) (hfits : s.frameFits a.hdr 1 = false) :
    exec (.referenceFrame a r x echo) s = .next (s.takeFrame a.hdr 1).1 := by
  have hbad : (s.takeFrame a.hdr 1).2 = false := by simp [State.takeFrame, hfits]
  change execReferenceFrame a r x echo s = _
  simp [execReferenceFrame, hruns, hbad]

end

theorem State.stopEqual_stops (s : State) (rank : Nat) :
    (s.stopEqual rank).wag.link = .stopped ∧ (s.stopEqual rank).time.tb1Lock = false := by
  simp [State.stopEqual]

/-! ### Leaving the link keeps the count of clashes -/

/-- The link part without the stations and the mode change that lists them. -/
def WagState.besideStations (g : WagState) : WagState := { g with modeReq := none, stations := [] }

theorem State.leaveStation_besideStations (s : State) (k : Nat) :
    (s.leaveStation k).wag.besideStations = s.wag.besideStations := by
  unfold State.leaveStation
  extract_lets left g unlisted told
  have htold : told.wag.besideStations = s.wag.besideStations := by
    simp only [told]
    split <;> rfl
  exact htold

theorem State.dropMode_clashCnt (s : State) : s.dropMode.wag.clashCnt = s.wag.clashCnt := by
  unfold State.dropMode
  split <;> rfl

@[simp] theorem State.leaveLink_clashCnt (s : State) (l : LinkSt) : (s.leaveLink l).wag.clashCnt = s.wag.clashCnt := by
  have hstations : ∀ (t : State) (k : Nat), (t.leaveStation k).wag.clashCnt = t.wag.clashCnt := fun t k =>
    (congrArg WagState.clashCnt (t.leaveStation_besideStations k) :)
  simp only [State.leaveLink, State.setWag_wag, State.setTime_wag, State.setLock_wag]
  exact (foldl_keeps (fun s : State => s.wag.clashCnt) hstations _ _).trans s.dropMode_clashCnt

/-! ### Clashes (R367, R377, R378, R415) -/

/-- The State with one more clash counted. -/
def State.clashed (s : State) : State := s.setWag { s.wag with clashCnt := satInc 0xFFFF s.wag.clashCnt }

theorem exec_echoCheckFail_hive {s : State} {i : BitVec 24} (href : fld i 23 12 = 0xFFF) (hlink : s.wag.link = .hive) :
    exec (.echoCheckFail i) s = .next s.clashed.collide := by
  have hhive : s.clashed.isHive = true := by simp [State.isHive, State.clashed, hlink]
  change execEchoCheckFail i s = _
  simp only [execEchoCheckFail]
  rw [if_pos href]
  exact if_pos hhive

theorem State.collide_leaves (s : State) : s.collide.wag.link = .backoff ∧ s.collide.wag.collRun = s.wag.collRun + 1 ∧
    s.collide.time.tb1Lock = false ∧ s.collide.wag.clashCnt = s.wag.clashCnt := by
  simp [State.collide]

theorem exec_echoCheckFail_other {s : State} {i : BitVec 24} (hother : fld i 23 12 ≠ 0xFFF) (hidle : s.wag.lastTx = none) :
    exec (.echoCheckFail i) s = .next (s.clashed.countClash i.toNat) := by
  change execEchoCheckFail i s = _
  simp only [execEchoCheckFail, State.setWag_wag, hidle]
  rw [if_neg hother]
  simp [State.clashed, hidle]

theorem State.countClash_few {s : State} {i : Nat} (hfew : tget 0 s.wag.clashes i + 1 < 3) : s.countClash i =
    s.setWag { s.wag with clashes := tput 0 (tget 0 s.wag.clashes i + 1) s.wag.clashes i } := by
  simp only [State.countClash]
  rw [if_neg (by simp [Nat.not_le.mpr hfew])]

theorem State.countClash_third {s : State} {i : Nat} (hthird : 3 ≤ tget 0 s.wag.clashes i + 1) :
    (s.countClash i).wag.suppressed.contains i = true := by
  simp only [State.countClash]
  split
  · simp
  · next hkept => simpa [hthird] using hkept

theorem exec_clashClr {s : State} (hup : s.hostUp = true) :
    exec .clashClr s = .next (s.setWag { s.wag with suppressed := [], clashes := [] }) := by
  change execClashClr s = _
  simp [execClashClr, hup]

/-! ### The withdrawal of a head (R367) -/

theorem exec_headWithdrawalEnd_alone {s : State} (hwdrn : s.wag.withdrawn = true) (halone : s.wag.otherHead = none) :
    exec .headWithdrawalEnd s = .next (s.setWag { s.wag with withdrawn := false, wdrnLeft := 0 }) := by
  change execHeadWithdrawalEnd s = _
  simp [execHeadWithdrawalEnd, hwdrn, halone]

/-- A head that stays withdrawn, its ports not judged yet. -/
def State.staysWithdrawn (s : State) : State := s.setWag { s.wag with headWdrn := true, wdrnLeft := 0, activePort := none }

theorem exec_headWithdrawalEnd_other {s : State} {k n : Nat} (hwdrn : s.wag.withdrawn = true)
    (hother : s.wag.otherHead = some (k, n)) : exec .headWithdrawalEnd s =
      .next (((s.staysWithdrawn.judgeTrunk 0).judgeTrunk 1).raise 0x6F (BitVec.ofNat 64 k)) := by
  change execHeadWithdrawalEnd s = _
  simp [execHeadWithdrawalEnd, hwdrn, hother, State.staysWithdrawn]

theorem exec_headWdrnClear {s : State} (hup : s.hostUp = true) (hwdrn : s.wag.headWdrn = true) :
    exec .headWdrnClear s = .next (s.setWag { s.wag with headWdrn := false, withdrawn := false }).markPorts := by
  change execHeadWdrnClear s = _
  simp [execHeadWdrnClear, hup, hwdrn]

/-! ### The guardian's cuts (R390, R391) -/

theorem exec_guardianCut_enabled {s : State} {w : Fin 256} (hon : s.grdEnables w.val = true) :
    exec (.guardianCut w) s = .next s := by
  change execGuardianCut w s = _
  simp [execGuardianCut, hon]

theorem exec_guardianCut {s : State} {w : Fin 256} (hoff : s.grdEnables w.val = false) :
    exec (.guardianCut w) s = .next ((s.setWag { s.wag with
      cutCnt := satInc 0xFFFF s.wag.cutCnt, grdCuts := s.wag.grdCuts + 1
      grdResync := s.wag.grdResync || decide (s.wag.grdCuts + 1 ≥ 2)
      winRx := tput {} { (tget {} s.wag.winRx w.val : WinRx) with cut := true } s.wag.winRx w.val }).raise 0x6B
        (BitVec.ofNat 64 w.val)) := by
  change execGuardianCut w s = _
  simp only [execGuardianCut]
  rw [if_neg (by simp [hoff])]

/-- Settles O22: a frame that arrives is noted first, which leaves everything that a reference is judged by as it was. -/
theorem waggleReferencesAndClashes : Obligations.WaggleReferencesAndClashes := by
  unfold Obligations.WaggleReferencesAndClashes
  refine ⟨?follow, ?equal, ?lower, ?own, ?invalid, ?collision, ?fewClashes, ?thirdClash, ?resumes, ?stays, ?wdrnClear, ?clashClear,
    ?enabled, ?cut⟩
  case follow =>
    intro s a r x hruns hcrc hfits hlink htakes
    have hnext := exec_referenceFrame_valid r x false hruns hcrc hfits
    rw [State.heardReference_follow r x (by simpa using hlink) (by simpa using htakes)] at hnext
    refine completes_of_exec hnext ?_ rfl
    rw [State.judgePhase_wag]
    exact (State.followRef_place _ _ _ _).2
  case equal =>
    intro s a r x hruns hcrc hfits hlink hhears hrank
    have hlink' : (s.takeFrame a.hdr 1).1.wag.link = .listen := by simpa using hlink
    have hnext := exec_referenceFrame_valid r x false hruns hcrc hfits
    rw [State.heardReference_listen r x hlink' hhears, State.foreignRef_equal r x _ hlink' hrank] at hnext
    refine completes_of_exec hnext ?_ rfl
    rw [State.judgePhase_wag, State.judgePhase_time]
    exact State.stopEqual_stops _ _
  case lower =>
    intro s a r x hruns hcrc hfits hlink hhears hrank
    have hlink' : (s.takeFrame a.hdr 1).1.wag.link = .listen := by simpa using hlink
    have hnext := exec_referenceFrame_valid r x false hruns hcrc hfits
    rw [State.heardReference_listen r x hlink' hhears, State.foreignRef_lower r x _ hlink' hrank] at hnext
    refine completes_of_exec hnext ?_ rfl
    rw [State.judgePhase_wag]
    obtain ⟨hstandby, -, hcycle, -⟩ :=
      ((s.takeFrame a.hdr 1).1.becomeStandby r.rank.toNat).followRef_place a.hdr r x
    exact ⟨hstandby.trans (by simp [State.becomeStandby]), hcycle⟩
  case own =>
    intro s a r x hruns hcrc hfits hlink
    have hnext := exec_referenceFrame_valid r x true hruns hcrc hfits
    rw [State.heardReference_own r x (by simpa using hlink)] at hnext
    refine completes_of_exec hnext ?_ rfl
    rw [State.judgePhase_wag]
    exact ⟨rfl, rfl, rfl⟩
  case invalid => exact fun s a r x echo hruns hfits => exec_referenceFrame_invalid r x echo hruns hfits
  case collision =>
    exact fun s i href hlink => completes_of_exec (exec_echoCheckFail_hive href hlink) s.clashed.collide_leaves rfl
  case fewClashes =>
    intro s i hother hidle hfew
    have hnext := exec_echoCheckFail_other hother hidle
    rw [State.countClash_few (s := s.clashed) hfew] at hnext
    exact completes_of_exec hnext rfl rfl
  case thirdClash =>
    exact fun s i hother hidle hthird =>
      completes_of_exec (exec_echoCheckFail_other hother hidle) (State.countClash_third (s := s.clashed) hthird) rfl
  case resumes => exact fun s hwdrn halone => exec_headWithdrawalEnd_alone hwdrn halone
  case stays =>
    intro s k n hwdrn hother
    have hkept := (((s.staysWithdrawn.judgeTrunk 0).judgeTrunk_besideTrunks 1).trans (s.staysWithdrawn.judgeTrunk_besideTrunks 0))
    refine completes_of_exec (exec_headWithdrawalEnd_other hwdrn hother) ?_ rfl
    rw [State.raise_wag]
    exact ⟨(congrArg WagState.headWdrn hkept :), (congrArg WagState.wdrnLeft hkept :), by simp [State.staysWithdrawn]⟩
  case wdrnClear =>
    intro s hup hwdrn
    have hkept := State.markPorts_besideTrunks (s.setWag { s.wag with headWdrn := false, withdrawn := false })
    exact completes_of_exec (exec_headWdrnClear hup hwdrn)
      ⟨(congrArg WagState.headWdrn hkept :), (congrArg WagState.withdrawn hkept :)⟩ rfl
  case clashClear => exact fun s hup => exec_clashClr hup
  case enabled => exact fun s w hon => exec_guardianCut_enabled hon
  case cut =>
    intro s w hoff
    refine completes_of_exec (exec_guardianCut hoff) ⟨rfl, rfl, rfl, ?_⟩ rfl
    exact congrArg WinRx.cut (tget_tput_same _ _ _ _)

end Sys2Proof.Machine
end

section
/-! PROOFS. DATA, STATUS and probe frames received (R376, R386, R395 to R397, R419, R420, R424). -/

namespace Sys2Proof.Machine

/-! ### What a frame leaves when it is noted -/

theorem State.takeFrame_invalid {s : State} {h : FrameHdr} {kind : Nat} (hcrc : h.crcOk = false) :
    (s.takeFrame h kind).2 = false ∧ (s.takeFrame h kind).1.wag.crcErr = satInc 0xFFFF s.wag.crcErr := by
  simp [State.takeFrame, hcrc]

theorem State.takeFrame_crcErr {s : State} {h : FrameHdr} {kind : Nat} (hcrc : h.crcOk = true) :
    (s.takeFrame h kind).1.wag.crcErr = s.wag.crcErr := by
  simp [State.takeFrame, hcrc]

/-- A valid frame outside the EXCLUSIVE windows leaves no trace of its own. -/
theorem State.takeFrame_of_shared {s : State} {h : FrameHdr} {kind : Nat} (hcrc : h.crcOk = true)
    (hfits : s.frameFits h kind = true) (hshared : wType (s.wag.window h.win.val) ≠ 1) : (s.takeFrame h kind).1 = s := by
  have hheard : h.heard = some h.win := by
    simp only [State.frameFits, Bool.and_eq_true, decide_eq_true_eq] at hfits
    tauto
  simp [State.takeFrame, WagState.noteFrame, hheard, hshared, hcrc, hfits, State.setWag]

/-! ### Words (R395, R424) -/

theorem State.storeWords_rxWords_congr {s t : State} (k f : Nat) (l : List Val40) (htime : t.time = s.time)
    (hmap : t.wag.rxMap = s.wag.rxMap) (hwords : t.wag.rxWords = s.wag.rxWords) :
    (t.storeWords k f l).wag.rxWords = (s.storeWords k f l).wag.rxWords := by
  simp only [State.storeWords, State.setWag_wag, htime, hmap, hwords]

/-- The receive map's entry for word f of station k. -/
def mapEntry (k f : Nat) : BitVec 64 := BitVec.ofNat 64 (k + f * 4096 + 2 ^ 24)

theorem mapEntry_fields {k f : Nat} (hk : k < 4096) (hf : f < 4096) :
    tbit (mapEntry k f) 24 = true ∧ fld (mapEntry k f) 11 0 = k ∧ fld (mapEntry k f) 23 12 = f := by
  have hnat : (mapEntry k f).toNat = k + f * 4096 + 2 ^ 24 := by
    simp only [mapEntry, BitVec.toNat_ofNat]
    omega
  refine ⟨?_, ?_, ?_⟩
  · simp only [tbit, BitVec.getLsbD, hnat, Nat.testBit_eq_decide_div_mod_eq, decide_eq_true_eq]
    omega
  · simp only [fld, hnat, Nat.shiftRight_eq_div_pow]
    omega
  · simp only [fld, hnat, Nat.shiftRight_eq_div_pow]
    omega

theorem State.storeWords_one {s : State} {k f i : Nat} {l : List Val40} (hmap : s.wag.rxMap = [(i, mapEntry k f)]) (hk : k < 4096)
    (hf : f < 4096) (hwords : l ≠ []) : s.storeWords k f l = s.setWag { s.wag with
      rxWords := tput {} { val := l.headD 0, stamp := s.time.tb1.ns, got := true } s.wag.rxWords i } := by
  obtain ⟨hon, hsrc, hword⟩ := mapEntry_fields hk hf
  obtain ⟨v, r, rfl⟩ := List.exists_cons_of_ne_nil hwords
  simp [State.storeWords, hmap, hon, hsrc, hword]

/-! ### DATA frames (R376, R395, R424) -/

/-- The record of a DATA frame in the holder's snapshot (R446). -/
def State.dataRecord (s : State) (h : FrameHdr) (l : List Val40) : List Byte :=
  [0x03] ++ leBytes 1 h.win.val ++ leBytes 2 h.src.val ++ [h.seq] ++
    leBytes 4 (frameCrc (hdrFrame h (wPrio (s.wag.window h.win.val)) (dataBytes l))) ++ leBytes 5 s.time.tb1.ns.toNat

section
variable {s : State} {h : FrameHdr} {l : List Val40} (htakes : s.takesFrames = true)
include htakes

/-- A frame whose CRC fails is noted alone, whatever else is wrong with it. -/
theorem exec_dataFrame_badCrc (hcrc : h.crcOk = false) :
    ∃ h' : FrameHdr, h'.crcOk = false ∧ exec (.dataFrame h l) s = .next (s.takeFrame h' 2).1 := by
  have hkept : ∀ c : Bool, (if c then h else { h with inWindow := false }).crcOk = false := by
    intro c
    split <;> exact hcrc
  have hexec : exec (.dataFrame h l) s = execDataFrame h l s := rfl
  rw [hexec, execDataFrame, if_neg (by simp [htakes])]
  refine ⟨_, hkept _, if_pos ?_⟩
  rw [(State.takeFrame_invalid (hkept _)).1]
  rfl

/-- The words of a valid frame in an ARBITRATING window are stored from FIRST of the window on. -/
theorem exec_dataFrame_arbitrating (hcrc : h.crcOk = true) (hfits : s.frameFits h 2 = true) (hlen : h.len = max 8 (5 * l.length))
    (harb : wType (s.wag.window h.win.val) = 2) (hwords : l.length ≤ wWords (s.wag.window h.win.val))
    (hreplays : s.replays = false) : exec (.dataFrame h l) s =
      .next ((((s.takeFrame h 2).1.judgeSeq h).snapOut (s.dataRecord h l)).storeWords h.src.val
        (wFirst (s.wag.window h.win.val)) l) := by
  change execDataFrame h l s = _
  rw [execDataFrame, if_neg (by simp [htakes])]
  extract_lets g e before place first fits h' x judged crc own twn shown
  have hfirst : first = wFirst e := by simp [first, e, g, harb]
  have hgood : fits = true := by simp [fits, hfirst, hlen, e, g, harb, hwords]
  have hsame : h' = h := if_pos hgood
  have hvalid : x.2 = true := by simp only [x, hsame, State.takeFrame_valid hcrc hfits]
  rw [if_neg (by simp [hvalid])]
  have hjudged : judged = (s.takeFrame h 2).1.judgeSeq h := by
    simp only [judged, x, hsame]
    exact if_neg (by simp [e, g, harb])
  clear_value judged
  subst hjudged
  have hreplays' : ((s.takeFrame h 2).1.judgeSeq h).replays = false := hreplays
  rw [if_neg (by simp [hreplays'])]
  simp only [hfirst, shown, crc, hsame, e, g]
  rfl

end

/-! ### Stations (R419, R420) -/

theorem State.modStn_stn_same (s : State) (k : Nat) (f : StnRt → StnRt) : (s.modStn k f).wag.stn k = f (s.wag.stn k) :=
  tget_tput_same _ _ _ _

/-- A station that leaves is changed as a station alone. -/
theorem State.leaveStation_stn (s : State) (k j : Nat) :
    (s.leaveStation k).wag.stn j = (s.modStn k (fun r => { r with joined := false, badMc := 0 })).wag.stn j := by
  unfold State.leaveStation
  extract_lets left g unlisted told
  have htold : told.wag.stn j = left.wag.stn j := by
    simp only [told]
    split <;> rfl
  exact htold

@[simp] theorem State.stationRemoved_wag (s : State) (k : Nat) : (s.stationRemoved k).wag = s.wag :=
  State.only_wag (State.stationRemoved_mask (qs := [.hif, .stp, .fio, .twn, .out]) rfl s k) rfl

theorem State.joinStation_stn {s : State} {k : Nat} (hops : Nat) {x : StatusPayload} (hfit : s.joinFault k x = none) :
    (s.joinStation k hops x).wag.stn k =
      { s.wag.stn k with joined := true, hops := hops, twinned := x.twinned, badMc := 0 } := by
  simp only [State.joinStation, hfit]
  split <;> exact State.modStn_stn_same _ _ _

theorem State.takeStatus_joins {s : State} {k : Nat} (hops : Nat) {x : StatusPayload} (hreq : s.wag.modeReq = none)
    (hout : (s.wag.stn k).joined = false) (hlock : x.tb1Lock = true) (hjoin : x.joinReq = false) (heject : x.eject = false) :
    s.takeStatus k hops x = s.joinStation k hops x := by
  simp [State.takeStatus, hreq, hout, hlock, hjoin, heject]

theorem State.takeStatus_ejects {s : State} {k : Nat} (hops : Nat) {x : StatusPayload} (hreq : s.wag.modeReq = none)
    (hin : (s.wag.stn k).joined = true) (heject : x.eject = true) :
    s.takeStatus k hops x = (s.leaveStation k).stationRemoved k := by
  simp [State.takeStatus, hreq, hin, heject]

@[simp] theorem State.takeFrame_modeReq (s : State) (h : FrameHdr) (kind : Nat) :
    (s.takeFrame h kind).1.wag.modeReq = s.wag.modeReq :=
  (congrArg WagState.modeReq (s.takeFrame_besideFrames h kind) :)

@[simp] theorem State.takeFrame_stn (s : State) (h : FrameHdr) (kind k : Nat) :
    (s.takeFrame h kind).1.wag.stn k = s.wag.stn k :=
  (congrArg (fun g => WagState.stn g k) (s.takeFrame_besideFrames h kind) :)

@[simp] theorem State.takeFrame_joinFault (s : State) (h : FrameHdr) (kind k : Nat) (x : StatusPayload) :
    (s.takeFrame h kind).1.joinFault k x = s.joinFault k x :=
  (congrArg (fun g => (s.setWag g).joinFault k x) (s.takeFrame_besideFrames h kind) :)

theorem exec_statusFrame_hive {s : State} {h : FrameHdr} {x : StatusPayload} (htakes : s.takesFrames = true)
    (hcrc : h.crcOk = true) (hfits : s.frameFits h 4 = true) (hhive : s.isHive = true) (hsrc : h.src.val ≠ s.station) :
    exec (.statusFrame h x) s = .next ((s.takeFrame h 4).1.takeStatus h.src.val h.hops.val x) := by
  have hhive' : (s.takeFrame h 4).1.isHive = true := by simpa [State.isHive] using hhive
  have hsrc' : h.src.val ≠ (s.takeFrame h 4).1.station := hsrc
  change execStatusFrame h x s = _
  simp [execStatusFrame, htakes, State.takeFrame_valid hcrc hfits, hhive', hsrc']

theorem exec_statusFrame_untaken {s : State} (h : FrameHdr) (x : StatusPayload) (htakes : s.takesFrames = false) :
    exec (.statusFrame h x) s = .next s := by
  change execStatusFrame h x s = _
  simp [execStatusFrame, htakes]

/-! ### Probes (R386, R397) -/

section
variable {s : State} {h : FrameHdr} {i : Word} (htakes : s.takesFrames = true) (hcrc : h.crcOk = true)
  (hfree : wType (s.wag.window h.win.val) = 3)
include htakes hcrc hfree

theorem exec_probe_kept {x : Stamp} (hfits : s.frameFits h 5 = true) (hhead : s.isHead = true) (hdst : h.dst.val = s.station) :
    exec (.probe h i x) s =
      .next (s.setWag { s.wag with probeReplies := s.wag.probeReplies ++ [(i, h.src.val, x)] }) := by
  have hsame : (s.takeFrame h 5).1 = s := State.takeFrame_of_shared hcrc hfits (by simp [hfree])
  change execProbe h i x s = _
  simp [execProbe, htakes, State.takeFrame_valid hcrc hfits, hsame, hhead, hdst]

theorem exec_probeResp_first {q : Fin 4096} {x y : Stamp} (hfits : s.frameFits h 6 = true) (hmine : q.val = s.station)
    (hout : s.wag.probeOut = some i) (hfirst : s.wag.probes = []) : exec (.probeResp h i q x y) s =
      .next (s.setWag { s.wag with
        probes := [sdiff48 y x / 2], probeOut := none, probeMc := 0, dropDly := (sdiff48 y x / 2).toNat % 2 ^ 23 }) := by
  have hsame : (s.takeFrame h 6).1 = s := State.takeFrame_of_shared hcrc hfits (by simp [hfree])
  change execProbeResp h i q x y s = _
  simp [execProbeResp, htakes, State.takeFrame_valid hcrc hfits, hsame, hmine, hout, hfirst]

end

/-- Settles O36: the equations above give the State that each frame leaves; noting the frame leaves the rest of the link part alone. -/
theorem waggleFrames : Obligations.WaggleFrames := by
  unfold Obligations.WaggleFrames
  refine ⟨?badCrc, ?data, ?mapped, ?joins, ?ejects, ?untaken, ?probe, ?answer⟩
  case badCrc =>
    intro s h l htakes hcrc
    obtain ⟨h', hcrc', hnext⟩ := exec_dataFrame_badCrc (l := l) htakes hcrc
    have hkept := s.takeFrame_besideFrames h' 2
    exact completes_of_exec hnext ⟨(State.takeFrame_invalid hcrc').2, (congrArg WagState.rxWords hkept :),
      (congrArg WagState.rxSeq hkept :)⟩ rfl
  case data =>
    intro s h l htakes hcrc hfits hlen harb hwords hreplays
    have hkept := s.takeFrame_besideFrames h 2
    have hshown := State.only_wag (State.snapOut_mask (qs := [.out]) rfl ((s.takeFrame h 2).1.judgeSeq h) (s.dataRecord h l)) rfl
    have htime := State.only_time (State.snapOut_mask (qs := [.out]) rfl ((s.takeFrame h 2).1.judgeSeq h) (s.dataRecord h l)) rfl
    refine completes_of_exec (exec_dataFrame_arbitrating htakes hcrc hfits hlen harb hwords hreplays) ⟨?_, ?_, ?_⟩ rfl
    · refine State.storeWords_rxWords_congr _ _ _ htime ?_ ?_
      · exact (congrArg WagState.rxMap hshown).trans (congrArg WagState.rxMap hkept :)
      · exact (congrArg WagState.rxWords hshown).trans (congrArg WagState.rxWords hkept :)
    · refine (congrArg (fun g => tget 0 (WagState.rxSeq g) (256 * h.src.val + h.win.val)) hshown).trans ?_
      exact tget_tput_same _ _ _ _
    · exact (congrArg WagState.crcErr hshown).trans (State.takeFrame_crcErr hcrc)
  case mapped => exact fun s k f l i hmap hk hf hwords => State.storeWords_one hmap hk hf hwords
  case joins =>
    intro s h x htakes hcrc hfits hhive hsrc hreq hout hlock hjoin heject hfit
    have hnext := exec_statusFrame_hive (x := x) htakes hcrc hfits hhive hsrc
    rw [State.takeStatus_joins _ (by simpa using hreq) (by simpa using hout) hlock hjoin heject] at hnext
    refine completes_of_exec hnext ?_ rfl
    rw [State.joinStation_stn _ (by simpa using hfit), State.takeFrame_stn]
  case ejects =>
    intro s h x htakes hcrc hfits hhive hsrc hreq hin heject
    have hnext := exec_statusFrame_hive (x := x) htakes hcrc hfits hhive hsrc
    rw [State.takeStatus_ejects _ (by simpa using hreq) (by simpa using hin) heject] at hnext
    refine completes_of_exec hnext ?_ rfl
    rw [State.stationRemoved_wag, State.leaveStation_stn, State.modStn_stn_same]
  case untaken => exact fun s h x htakes => exec_statusFrame_untaken h x htakes
  case probe =>
    exact fun s h i x htakes hcrc hfits hfree hhead hdst =>
      completes_of_exec (exec_probe_kept htakes hcrc hfree hfits hhead hdst) rfl rfl
  case answer =>
    exact fun s h i q x y htakes hcrc hfits hfree hmine hout hfirst =>
      completes_of_exec (exec_probeResp_first htakes hcrc hfree hfits hmine hout hfirst) rfl rfl

end Sys2Proof.Machine
end

section
/-! PROOFS. Window swaps, the starts and ends of EXCLUSIVE windows, and arbitration slots (R371, R372, R418, R421, R422, R425 to R427). -/

namespace Sys2Proof.Machine

/-! ### Swaps (R421) -/

section
variable {s : State} {w : Fin 256} (htype : wType (s.wag.window w.val) = 1)
include htype

theorem exec_windowSwap_own (hw : w.val ≠ 0) (hmode : s.wag.hasMode s.wag.mode = true)
    (horigin : wOrigin (s.wag.window w.val) = s.station) : exec (.windowSwap w) s = .next (s.setWag { s.wag with
      banks := tput [] ((List.range (wWords (s.wag.window w.val))).map
        (fun i => tget 0 s.wag.txWords (wFirst (s.wag.window w.val) + i))) s.wag.banks w.val
      swapMark := tput 0 s.wag.txWrites s.wag.swapMark w.val
      swapDirty := tput false ((List.range (wWords (s.wag.window w.val))).any (fun i =>
        decide (tget 0 s.wag.winMark w.val < tget 0 s.wag.txMark (wFirst (s.wag.window w.val) + i)))) s.wag.swapDirty w.val }) := by
  change execWindowSwap w s = _
  simp only [execWindowSwap]
  exact if_neg (by simp [hw, htype, horigin, hmode])

theorem exec_windowSwap_other (horigin : wOrigin (s.wag.window w.val) ≠ s.station) (htwin : s.twinEn = false) :
    exec (.windowSwap w) s = .next s := by
  change execWindowSwap w s = _
  simp only [execWindowSwap]
  exact if_pos (by simp [htype, horigin, htwin, wOpen])

end

/-! ### What leaves in an EXCLUSIVE window (R375, R418, R422) -/

/-- On a segment without trunks a frame leaves on the segment alone. -/
theorem State.sendFrame_alone {s : State} (hports : s.fwdPorts = []) (f : WagFrame) :
    s.sendFrame f = s.emitOut (.waggle f false) := by
  simp [State.sendFrame, hports, State.toTrunks]

/-- An EXCLUSIVE window of this station begins: what Guard has composed for it is used up. -/
def State.windowBegun (s : State) (w : Nat) : State :=
  s.setWag { s.wag with safOut := tput [] [] s.wag.safOut w, lastTx := none }

/-- The STATUS frame of window w, where it is flagged and ends in the window. -/
def State.sendStatus (s : State) (w used : Nat) : State :=
  if wStatus (s.wag.window w) && decide (used ≤ wLen (s.wag.window w)) && !s.wag.suppressed.contains (0xC00 * 4096 + s.station) then
    s.sendFrame (ownFrame 0xC00 4 s.station 4095 w 0 s.statusBytes)
  else s

theorem State.sendStatus_dataOk (s : State) (w used : Nat) : (s.sendStatus w used).dataOk = s.dataOk := by
  unfold State.sendStatus
  split
  · simp only [State.dataOk, State.isHive, State.sendFrame_wag]
  · rfl

theorem State.sendStatus_station (s : State) (w used : Nat) : (s.sendStatus w used).station = s.station := by
  unfold State.sendStatus
  split
  · rw [State.station, State.rfld, State.reg, State.only_regs (State.sendFrame_mask (qs := [.out]) rfl _ _) rfl]
    rfl
  · rfl

/-- The time that the STATUS frame of window w takes, if it is flagged. -/
def WagState.statusTime (g : WagState) (w : Nat) : Nat := if wStatus (g.window w) then frameTime g.guardNs 32 else 0

theorem exec_exclusiveWindowStart_own {s : State} {w : Fin 256} (hw : w.val ≠ 0) (htype : wType (s.wag.window w.val) = 1)
    (hpresent : wPresent (s.wag.window w.val) s.wag.mpos = true) (horigin : wOrigin (s.wag.window w.val) = s.station)
    (hsend : s.canSend = true) (hdata : s.dataOk = true) (hsafety : wSafety (s.wag.window w.val) = false) :
    exec (.exclusiveWindowStart w) s = .next (((s.windowBegun w.val).sendStatus w.val (s.wag.statusTime w.val)).sendData w.val
      s.station (s.wag.statusTime w.val)) := by
  have hsent := State.sendStatus_dataOk (s.windowBegun w.val) w.val (s.wag.statusTime w.val)
  have hstation := State.sendStatus_station (s.windowBegun w.val) w.val (s.wag.statusTime w.val)
  change execExclusiveWindowStart w s = _
  simp only [execExclusiveWindowStart, hsafety]
  rw [if_neg (by simp [hw, htype, hpresent]), if_pos (by simp [horigin, hsend])]
  simp only [Bool.false_and, Bool.false_eq_true, if_false, Nat.zero_add]
  change Host.Outcome.next (if ((s.windowBegun w.val).sendStatus w.val (s.wag.statusTime w.val)).dataOk then
    ((s.windowBegun w.val).sendStatus w.val (s.wag.statusTime w.val)).sendData w.val
      ((s.windowBegun w.val).sendStatus w.val (s.wag.statusTime w.val)).station (s.wag.statusTime w.val) else _) = _
  rw [if_pos (hsent.trans hdata), hstation]
  rfl

theorem State.sendData_none {s : State} {w : Nat} (stn used : Nat) (hwords : wWords (s.wag.window w) = 0) :
    s.sendData w stn used = s := by
  simp [State.sendData, hwords]

/-- A window of 2 to 102 words takes one DATA frame, with the SEQ after the last. -/
theorem State.sendData_one {s : State} {w used : Nat} (stn : Nat) (hlow : 2 ≤ wWords (s.wag.window w))
    (hhigh : wWords (s.wag.window w) ≤ 102) (hnone : s.wag.suppressed = []) (hports : s.fwdPorts = [])
    (hlen : used + frameTime s.wag.guardNs (5 * wWords (s.wag.window w)) ≤ wLen (s.wag.window w))
    (hbank : (s.wag.bank w).length = wWords (s.wag.window w)) : s.sendData w stn used =
      (s.setWag { s.wag with txSeq := tput 0 (tget 0 s.wag.txSeq w + 1) s.wag.txSeq w }).emitOut
        (.waggle (ownFrame (wPrio (s.wag.window w)) 2 stn (wDst (s.wag.window w)) w (tget 0 s.wag.txSeq w + 1)
          (dataBytes (s.wag.bank w))) false) := by
  have hone : (wWords (s.wag.window w) + 101) / 102 = 1 := by omega
  have htake : (s.wag.bank w).take 102 = s.wag.bank w := List.take_of_length_le (by omega)
  have hmax : max 8 (5 * (s.wag.bank w).length) = 5 * wWords (s.wag.window w) := by omega
  simp only [State.sendData, hone]
  rw [if_neg (by simp [hnone]; omega)]
  simp only [List.range_one, List.map_cons, List.map_nil, List.foldl_cons, List.foldl_nil, Nat.mul_zero, List.drop_zero, htake, hmax]
  rw [if_pos hlen]
  exact State.sendFrame_alone (s := s.setWag { s.wag with txSeq := tput 0 (tget 0 s.wag.txSeq w + 1) s.wag.txSeq w }) hports _

theorem State.sendStatus_unflagged {s : State} {w : Nat} (used : Nat) (hstatus : wStatus (s.wag.window w) = false) :
    s.sendStatus w used = s := by
  simp [State.sendStatus, hstatus]

theorem State.sendStatus_alone {s : State} {w used : Nat} (hstatus : wStatus (s.wag.window w) = true)
    (hlen : used ≤ wLen (s.wag.window w)) (hnone : s.wag.suppressed = []) (hports : s.fwdPorts = []) :
    s.sendStatus w used = s.emitOut (.waggle (ownFrame 0xC00 4 s.station 4095 w 0 s.statusBytes) false) := by
  rw [State.sendStatus, if_pos (by simp [hstatus, hlen, hnone]), State.sendFrame_alone hports]

theorem State.windowBegun_empty {s : State} {w : Nat} (stn : Nat) (hstatus : wStatus (s.wag.window w) = false)
    (hwords : wWords (s.wag.window w) = 0) :
    ((s.windowBegun w).sendStatus w (s.wag.statusTime w)).sendData w stn (s.wag.statusTime w) = s.windowBegun w := by
  rw [State.sendStatus_unflagged (s := s.windowBegun w) _ hstatus, State.sendData_none (s := s.windowBegun w) _ _ hwords]

/-- A window with the STATUS flag and 2 to 102 words takes its STATUS and one DATA frame. -/
theorem State.windowBegun_statusAndData {s : State} {w : Nat} (stn : Nat) (hstatus : wStatus (s.wag.window w) = true)
    (hlow : 2 ≤ wWords (s.wag.window w)) (hhigh : wWords (s.wag.window w) ≤ 102) (hnone : s.wag.suppressed = [])
    (hports : s.fwdPorts = [])
    (hlen : frameTime s.wag.guardNs 32 + frameTime s.wag.guardNs (5 * wWords (s.wag.window w)) ≤ wLen (s.wag.window w))
    (hbank : (s.wag.bank w).length = wWords (s.wag.window w)) :
    ((s.windowBegun w).sendStatus w (s.wag.statusTime w)).sendData w stn (s.wag.statusTime w) =
      ((((s.windowBegun w).emitOut (.waggle (ownFrame 0xC00 4 s.station 4095 w 0 s.statusBytes) false)).setWag
        { (s.windowBegun w).wag with txSeq := tput 0 (tget 0 s.wag.txSeq w + 1) s.wag.txSeq w }).emitOut
          (.waggle (ownFrame (wPrio (s.wag.window w)) 2 stn (wDst (s.wag.window w)) w (tget 0 s.wag.txSeq w + 1)
            (dataBytes (s.wag.bank w))) false)) := by
  have htime : s.wag.statusTime w = frameTime s.wag.guardNs 32 := if_pos hstatus
  rw [htime, State.sendStatus_alone (s := s.windowBegun w) hstatus ((Nat.le_add_right _ _).trans hlen) hnone hports]
  exact State.sendData_one (s := (s.windowBegun w).emitOut _) stn hlow hhigh hnone hports hlen hbank

/-! ### The outcome of a window (R425 to R427) -/

theorem judgeWindow_expected {e : BitVec 256} (f : Bool) : judgeWindow e { kinds := wExpected e } f = .good := by
  simp [judgeWindow]

theorem judgeWindow_nothing {e : BitVec 256} (hsome : wExpected e ≠ []) : judgeWindow e {} false = .empty := by
  simp [judgeWindow, hsome.symm]

theorem judgeWindow_sofAlone {e : BitVec 256} (hsome : wExpected e ≠ []) : judgeWindow e {} true = .invalid := by
  simp [judgeWindow, hsome.symm]

theorem judgeWindow_bad {e : BitVec 256} (f : Bool) (hsome : wExpected e ≠ []) :
    judgeWindow e { kinds := wExpected e, bad := true } f = .invalid := by
  simp [judgeWindow, hsome]

/-- What the quality of a station is judged by: its last outcome, its run of GOOD ones, whether it is STALE. -/
def StnRt.quality (r : StnRt) : WinOutcome × Nat × Bool := (r.last, r.goodRun, r.stale)

theorem State.qualityEvent_quality (s : State) (k : Nat) (stale : Bool) :
    ((s.qualityEvent k stale).wag.stn k).quality = (s.wag.stn k).quality := by
  unfold State.qualityEvent
  extract_lets r
  split
  all_goals
    split
    · rw [State.raise_wag, State.modStn_stn_same]
      rfl
    · rfl

theorem State.modStn_besideStations (s : State) (k : Nat) (f : StnRt → StnRt) :
    (s.modStn k f).wag.besideStations = s.wag.besideStations := rfl

theorem State.qualityEvent_besideStations (s : State) (k : Nat) (stale : Bool) :
    (s.qualityEvent k stale).wag.besideStations = s.wag.besideStations := by
  unfold State.qualityEvent
  extract_lets r
  split <;> split <;> rfl

/-- The run of GOOD windows after an outcome. -/
def StnRt.runAfter (r : StnRt) (o : WinOutcome) : Nat := if decide (o = .good) then min 255 (r.goodRun + 1) else 0

/-- Whether the station is STALE after an outcome. -/
def StnRt.staleAfter (r : StnRt) (o : WinOutcome) : Bool := if decide (o = .good) then r.stale && decide (r.runAfter o < 2) else true

theorem State.judgeStation_quality (s : State) (k : Nat) (o : WinOutcome) :
    ((s.judgeStation k o).wag.stn k).quality = (o, (s.wag.stn k).runAfter o, (s.wag.stn k).staleAfter o) := by
  unfold State.judgeStation
  extract_lets r good run stale judged
  have hjudged : (judged.wag.stn k).quality = (o, (s.wag.stn k).runAfter o, (s.wag.stn k).staleAfter o) :=
    congrArg StnRt.quality (State.modStn_stn_same _ _ _)
  split
  · exact (State.qualityEvent_quality _ _ _).trans hjudged
  · split
    · exact (State.qualityEvent_quality _ _ _).trans hjudged
    · exact hjudged

theorem State.judgeStation_besideStations (s : State) (k : Nat) (o : WinOutcome) :
    (s.judgeStation k o).wag.besideStations = s.wag.besideStations := by
  unfold State.judgeStation
  extract_lets r good run stale judged
  split
  · exact State.qualityEvent_besideStations _ _ _
  · split
    · exact State.qualityEvent_besideStations _ _ _
    · rfl

theorem State.leaveStation_quality (s : State) (k : Nat) : ((s.leaveStation k).wag.stn k).quality = (s.wag.stn k).quality := by
  rw [State.leaveStation_stn, State.modStn_stn_same]
  rfl

theorem State.judgeMatrix_quality (s : State) (k start : Nat) :
    ((s.judgeMatrix k start).wag.stn k).quality = (s.wag.stn k).quality := by
  unfold State.judgeMatrix
  split
  · rfl
  · extract_lets r bad aged
    have haged : (aged.wag.stn k).quality = (s.wag.stn k).quality :=
      (congrArg StnRt.quality (State.modStn_stn_same _ _ _)).trans rfl
    split
    · exact (State.leaveStation_quality _ _).trans haged
    · exact haged

theorem State.judgeMatrix_besideStations (s : State) (k start : Nat) :
    (s.judgeMatrix k start).wag.besideStations = s.wag.besideStations := by
  unfold State.judgeMatrix
  split
  · rfl
  · extract_lets r bad aged
    split
    · exact State.leaveStation_besideStations _ _
    · rfl

/-- The occurrence of window w has ended with this outcome: counted, its reception cleared, its station judged. -/
def State.windowJudged (s : State) (w : Nat) (o : WinOutcome) : State :=
  (s.setWag { s.wag with
    winRx := tput {} {} s.wag.winRx w, winCnt := tmod {} s.wag.winCnt w (fun c => c.count o)
    winOut := tput .none o s.wag.winOut w }).judgeStation (wOrigin (s.wag.window w)) o

theorem State.windowJudged_besideStations (s : State) (w : Nat) (o : WinOutcome) :
    (s.windowJudged w o).wag.besideStations = ({ s.wag with
      winRx := tput {} {} s.wag.winRx w, winCnt := tmod {} s.wag.winCnt w (fun c => c.count o)
      winOut := tput .none o s.wag.winOut w } : WagState).besideStations :=
  State.judgeStation_besideStations _ _ _

theorem State.windowJudged_quality (s : State) (w : Nat) (o : WinOutcome) :
    ((s.windowJudged w o).wag.stn (wOrigin (s.wag.window w))).quality =
      (o, (s.wag.stn (wOrigin (s.wag.window w))).runAfter o, (s.wag.stn (wOrigin (s.wag.window w))).staleAfter o) :=
  State.judgeStation_quality _ _ _

/-- A module that keeps the joining judges the matrix cycle too (R420); nothing of this occurrence is lost by that. -/
theorem exec_exclusiveWindowEnd {s : State} {w : Fin 256} (f : Bool) (htakes : s.takesFrames = true) (hw : w.val ≠ 0)
    (htype : wType (s.wag.window w.val) = 1) (hpresent : wPresent (s.wag.window w.val) s.wag.mpos = true) :
    ∃ t, exec (.exclusiveWindowEnd w f) s = .next t ∧
      t.wag.besideStations = (s.windowJudged w.val (judgeWindow (s.wag.window w.val) (tget {} s.wag.winRx w.val) f)).wag.besideStations ∧
      (t.wag.stn (wOrigin (s.wag.window w.val))).quality =
        ((s.windowJudged w.val (judgeWindow (s.wag.window w.val) (tget {} s.wag.winRx w.val) f)).wag.stn
          (wOrigin (s.wag.window w.val))).quality := by
  have hexec : exec (.exclusiveWindowEnd w f) s = execExclusiveWindowEnd w f s := rfl
  rw [hexec, execExclusiveWindowEnd, if_neg (by simp [htakes, hw, htype, hpresent])]
  refine ⟨_, rfl, ?_⟩
  split
  · exact ⟨State.judgeMatrix_besideStations _ _ _, State.judgeMatrix_quality _ _ _⟩
  · exact ⟨rfl, rfl⟩

/-! ### Slots of FREE windows (R371, R372, R375) -/

section
variable {s : State} {w : Fin 256} {n : Nat} (hw : w.val ≠ 0) (htype : wType (s.wag.window w.val) = 3)
  (hpresent : wPresent (s.wag.window w.val) s.wag.mpos = true) (hafter : 0 < n)
  (hslots : n < wSlots s.wag.guardNs (s.wag.window w.val)) (hsend : s.canSend = true)
include hw htype hpresent hafter hslots hsend

theorem exec_windowSlotStart_noOffer (r : Option (BitVec 24)) (hoffers : bestOffer s.wag.suppressed s.station s.freeOffers = none) :
    exec (.windowSlotStart w n r) s = .next s := by
  change execWindowSlotStart w n r s = _
  simp only [execWindowSlotStart]
  rw [if_neg (by simp [hw, htype, hpresent, hslots]), if_neg hafter.ne']
  simp [hsend, htype, hoffers]

theorem exec_windowSlotStart_lost {r : BitVec 24} {x : Nat × TxFrame}
    (hoffers : bestOffer s.wag.suppressed s.station s.freeOffers = some x) (hrival : x.1 < r.toNat) :
    exec (.windowSlotStart w n (some r)) s = .next (s.setWag { s.wag with arbLost := satInc 0xFFFFFFFF s.wag.arbLost }) := by
  change execWindowSlotStart w n (some r) s = _
  simp only [execWindowSlotStart]
  rw [if_neg (by simp [hw, htype, hpresent, hslots]), if_neg hafter.ne']
  simp [hsend, htype, hoffers, hrival]

theorem exec_windowSlotStart_won {x : Nat × TxFrame} (hoffers : bestOffer s.wag.suppressed s.station s.freeOffers = some x) :
    exec (.windowSlotStart w n none) s = .next ((s.sendSlot w.val x.2).setWag { (s.sendSlot w.val x.2).wag with lastTx := some x }) := by
  change execWindowSlotStart w n none s = _
  simp only [execWindowSlotStart]
  rw [if_neg (by simp [hw, htype, hpresent, hslots]), if_neg hafter.ne']
  simp [hsend, htype, hoffers]

end

theorem bestOffer_single (stn prio : Nat) (f : TxFrame) : bestOffer [] stn [(prio, f)] = some (prio * 4096 + stn, f) := rfl

/-- Settles O35: each clause is what the step of its case computes. The end of a window keeps what its occurrence brought
through the judgement of the matrix cycle, which reaches only the joining. -/
theorem waggleWindows : Obligations.WaggleWindows := by
  unfold Obligations.WaggleWindows
  refine ⟨?_, ?_, ?_, ?_, ?_, ?_, ?_, ?_, ?_, ?_⟩
  · intro s w hw hmode htype horigin
    exact exec_windowSwap_own htype hw hmode horigin
  · intro s w htype horigin htwin
    exact exec_windowSwap_other htype horigin htwin
  · intro s w hw htype hpresent horigin hsend hdata hsafety hstatus hwords
    rw [exec_exclusiveWindowStart_own hw htype hpresent horigin hsend hdata hsafety, State.windowBegun_empty _ hstatus hwords]
    rfl
  · intro s w hw htype hpresent horigin hsend hdata hsafety hstatus hlow hhigh hnone hports hlen hbank
    have hexec := exec_exclusiveWindowStart_own hw htype hpresent horigin hsend hdata hsafety
    rw [State.windowBegun_statusAndData _ hstatus hlow hhigh hnone hports hlen hbank] at hexec
    exact completes_of_exec hexec ⟨rfl, rfl⟩ rfl
  · intro s w f htakes hw htype hpresent
    obtain ⟨t, hexec, hbeside, hquality⟩ := exec_exclusiveWindowEnd f htakes hw htype hpresent
    rw [State.windowJudged_besideStations] at hbeside
    rw [State.windowJudged_quality] at hquality
    exact completes_of_exec hexec ⟨congrArg WagState.winRx hbeside, congrArg WagState.winCnt hbeside, congrArg Prod.fst hquality⟩ rfl
  · intro e f hsome
    exact ⟨judgeWindow_expected f, judgeWindow_nothing hsome, judgeWindow_sofAlone hsome, judgeWindow_bad f hsome⟩
  · intro s w f htakes hw htype hpresent hgood hrun
    obtain ⟨t, hexec, -, hquality⟩ := exec_exclusiveWindowEnd f htakes hw htype hpresent
    rw [State.windowJudged_quality, hgood] at hquality
    have hstale := congrArg (fun q => q.2.2) hquality
    have hrunAfter := congrArg (fun q => q.2.1) hquality
    simp only [StnRt.quality, StnRt.staleAfter, StnRt.runAfter, hrun] at hstale hrunAfter
    exact completes_of_exec hexec ⟨by simpa using hstale, by simpa using hrunAfter⟩ rfl
  · intro s w n r hw htype hpresent hafter hslots hsend hoffers
    exact exec_windowSlotStart_noOffer hw htype hpresent hafter hslots hsend r (by rw [hoffers]; rfl)
  · intro s w n r hw htype hpresent hafter hslots hsend hoffers hnone hrival
    exact exec_windowSlotStart_lost hw htype hpresent hafter hslots hsend
      (by rw [hoffers, hnone]; exact bestOffer_single _ _ _) hrival
  · intro s w n hw htype hpresent hafter hslots hsend hoffers hnone
    exact completes_of_exec (exec_windowSlotStart_won hw htype hpresent hafter hslots hsend
      (by rw [hoffers, hnone]; exact bestOffer_single _ _ _)) ⟨rfl, rfl⟩ rfl

end Sys2Proof.Machine
end

section
/-! PROOFS. Safety frames on the safety pair and by Waggle: what the groups take up (R466 to R468), what is kept of a copy (R486,
R487), and the frames that this station sends (R485). -/

namespace Sys2Proof.Machine

/-! ### What the safety groups take up (R466 to R468) -/

/-- The safety part without what a change of the groups reaches: the groups, and what the gated outputs count. -/
def SafState.besideGroups (f : SafState) : SafState := { f with groups := [], lastEnv := [], refuseCnt := 0 }

theorem SafState.remote_of_besideGroups {f g : SafState} (h : f.besideGroups = g.besideGroups) : f.remote = g.remote :=
  (congrArg SafState.remote h :)

theorem SafState.absentCnt_of_besideGroups {f g : SafState} (h : f.besideGroups = g.besideGroups) : f.absentCnt = g.absentCnt :=
  (congrArg SafState.absentCnt h :)

/-- A group after its halves have taken these causes. -/
def GroupRt.takes (r : GroupRt) (verified : Bool) (guard fg : Demand) : GroupRt :=
  let ended := newCause (r.guard.bits ||| r.fg.bits) (guard.bits ||| fg.bits)
  { r with
    guard := guard, fg := fg, guardPermit := r.guardPermit && !guard.any, fgPermit := verified && !fg.any
    wait := r.wait && !guard.any, lastCause := if ended ≠ 0 then ended else r.lastCause }

/-- Beside events and the ledger, a group that takes new causes is all that changes. -/
theorem State.putGroup_saf (s : State) (g : Nat) (guard fg : Demand) : (s.putGroup g guard fg).saf =
    { s.saf with groups := tput {} ((s.saf.group g).takes s.saf.fgVerified guard fg) s.saf.groups g } := by
  unfold State.putGroup
  extract_lets
  split
  · rfl
  · split <;> rfl

theorem State.group_of_besideOutputs {s t : State} (h : t.besideOutputs = s.besideOutputs) (g : Nat) :
    t.saf.group g = s.saf.group g :=
  (congrArg (fun u : State => u.saf.group g) h :)

theorem State.besideGroups_of_besideOutputs {s t : State} (h : t.besideOutputs = s.besideOutputs) :
    t.saf.besideGroups = s.saf.besideGroups :=
  (congrArg (fun u : State => u.saf.besideGroups) h :)

/-- One group takes up what f makes of it. -/
def State.putGroupBy (f : Nat → GroupRt → Demand × Demand) : State → Nat → State := fun s g =>
  let x := f g (s.saf.group g)
  s.putGroup g x.1 x.2

section
variable (f : Nat → GroupRt → Demand × Demand)

theorem State.putGroupBy_besideGroups (s : State) (g : Nat) : (s.putGroupBy f g).saf.besideGroups = s.saf.besideGroups :=
  (congrArg SafState.besideGroups (State.putGroup_saf s g _ _) :)

theorem State.putGroupBy_group_same (s : State) (g : Nat) : (s.putGroupBy f g).saf.group g =
    (s.saf.group g).takes s.saf.fgVerified (f g (s.saf.group g)).1 (f g (s.saf.group g)).2 := by
  rw [State.putGroupBy, State.putGroup_saf]
  exact tget_tput_same _ _ _ _

theorem State.putGroupBy_group_other (s : State) {g k : Nat} (h : k ≠ g) : (s.putGroupBy f k).saf.group g = s.saf.group g := by
  rw [State.putGroupBy, State.putGroup_saf]
  exact tget_tput_other _ _ _ _ _ h.symm

theorem State.putGroupsOf_group (g : Nat) (l : List Nat) (s : State) (hnodup : l.Nodup) :
    (l.foldl (State.putGroupBy f) s).saf.group g =
      if g ∈ l then (s.saf.group g).takes s.saf.fgVerified (f g (s.saf.group g)).1 (f g (s.saf.group g)).2 else s.saf.group g := by
  induction l generalizing s with
  | nil => rfl
  | cons k l ih =>
    obtain ⟨hk, hl⟩ := List.nodup_cons.mp hnodup
    have hverified : (s.putGroupBy f k).saf.fgVerified = s.saf.fgVerified :=
      (congrArg SafState.fgVerified (State.putGroupBy_besideGroups f s k) :)
    rw [List.foldl_cons, ih _ hl]
    by_cases hkg : k = g
    · subst hkg
      simp [hk, State.putGroupBy_group_same]
    · simp [State.putGroupBy_group_other f s hkg, hverified, Ne.symm hkg]

theorem State.putGroups_besideOutputs (s : State) :
    (s.putGroups f).besideOutputs = ((List.range 16).foldl (State.putGroupBy f) s).besideOutputs := by
  unfold State.putGroups State.putGroupBy
  extract_lets t
  change _ = t.besideOutputs
  clear_value t
  split
  · rfl
  · exact State.regate_besideOutputs t

theorem State.putGroups_group (s : State) (g : Fin 16) : (s.putGroups f).saf.group g.val =
    (s.saf.group g.val).takes s.saf.fgVerified (f g.val (s.saf.group g.val)).1 (f g.val (s.saf.group g.val)).2 := by
  rw [State.group_of_besideOutputs (State.putGroups_besideOutputs f s), State.putGroupsOf_group f g.val _ s List.nodup_range,
    if_pos (List.mem_range.mpr g.isLt)]

theorem State.putGroups_besideGroups (s : State) : (s.putGroups f).saf.besideGroups = s.saf.besideGroups := by
  rw [State.besideGroups_of_besideOutputs (State.putGroups_besideOutputs f s)]
  exact foldl_keeps (fun t : State => t.saf.besideGroups) (State.putGroupBy_besideGroups f) (List.range 16) s

end

theorem State.safUpdate_besideGroups (s : State) : s.safUpdate.saf.besideGroups = s.saf.besideGroups := by
  unfold State.safUpdate
  exact State.putGroups_besideGroups _ s

/-- A station that demands group g, absent for Guard on either path, takes Guard's permit. -/
theorem State.safUpdate_absent {s : State} {k : Nat} {g : Fin 16}
    (hrow : (s.saf.remoteRows g.val).any (fun x => decide (x.1 = k)) = true)
    (habsent : ((s.saf.rem k).absence || (s.saf.rem k).watch) = true) :
    (s.safUpdate.saf.group g.val).guardPermit = false ∧ (s.safUpdate.saf.group g.val).guard.absence = true := by
  have hcause : (s.saf.guardRemote g.val).2.2 = true := by
    obtain ⟨x, hx, hxk⟩ := List.any_eq_true.mp hrow
    refine List.any_eq_true.mpr ⟨x, hx, ?_⟩
    rw [of_decide_eq_true hxk]
    exact habsent
  rw [State.safUpdate, State.putGroups_group]
  simp [GroupRt.takes, Demand.any, hcause]

/-- A station that demands group g, whose copies on the pair have stayed away, takes the permit of Fen Gate. -/
theorem State.safUpdate_fgWatch {s : State} {k : Nat} {g : Fin 16}
    (hrow : (s.saf.remoteRows g.val).any (fun x => decide (x.1 = k)) = true) (hwatch : (s.saf.rem k).fgWatch = true) :
    (s.safUpdate.saf.group g.val).fgPermit = false ∧ (s.safUpdate.saf.group g.val).fg.absence = true := by
  have hcause : (s.saf.fgRemote g.val).2 = true := by
    obtain ⟨x, hx, hxk⟩ := List.any_eq_true.mp hrow
    refine List.any_eq_true.mpr ⟨x, hx, ?_⟩
    rw [of_decide_eq_true hxk]
    exact hwatch
  rw [State.safUpdate, State.putGroups_group]
  simp [GroupRt.takes, Demand.any, hcause]

/-! ### What is kept of a copy (R486, R487) -/

/-- A copy counts: its station is one that a REMOTE row names, it is whole, and its SCNT advances on its path. -/
structure State.AcceptsCopy (s : State) (pair : Bool) (b : List Byte) : Prop where
  up : s.pw.fieldUp = true
  verified : s.saf.fgVerified = true
  remote : sealRemote s.saf.sealRead = true
  length : b.length = 32
  hears : s.saf.hears (leAt b 12 2) = true
  crc : leAt b 28 4 = scrc (leAt b 12 2) b
  advances : advances (if pair then (s.saf.rem (leAt b 12 2)).pairScnt else (s.saf.rem (leAt b 12 2)).wagScnt) (copyScnt b) = true

/-- The copy is kept for its path. -/
def RemoteRt.keepsCopy (r : RemoteRt) (pair : Bool) (b : List Byte) : RemoteRt :=
  let r' := if pair then { r with pairScnt := some (copyScnt b), pairCopy := b, fgWatch := false }
    else { r with wagScnt := some (copyScnt b), wagCopy := b }
  { r' with held := r'.held ||| BitVec.ofNat 16 (leAt b 6 2) }

/-- Two equal copies have arrived, with this one. -/
def RemoteRt.afterMatch (r : RemoteRt) (b : List Byte) : RemoteRt :=
  let r' := { r with matched := some (copyScnt b), held := BitVec.ofNat 16 (leAt b 6 2), mismatch := false }
  if advances r'.faultAt (copyScnt b) then { r' with absence := false, watch := false, faultAt := none } else r'

/-- What is kept of the station after a copy that counts. -/
def RemoteRt.afterCopy (r : RemoteRt) (pair : Bool) (b : List Byte) : RemoteRt :=
  let k := r.keepsCopy pair b
  if k.pairScnt = k.wagScnt then (if k.pairCopy = k.wagCopy then k.afterMatch b else { k with mismatch := true }) else k

/-- The two copies kept have one SCNT, but differ. -/
def RemoteRt.differs (r : RemoteRt) : Bool := decide (r.pairScnt = r.wagScnt) && !decide (r.pairCopy = r.wagCopy)

/-- The safety part after a copy that counts, before the groups take it up. -/
def SafState.afterCopy (f : SafState) (pair : Bool) (b : List Byte) : SafState :=
  { f with
    remote := tput {} ((f.rem (leAt b 12 2)).afterCopy pair b) f.remote (leAt b 12 2)
    mismatchCnt := if ((f.rem (leAt b 12 2)).keepsCopy pair b).differs then satInc 0xFFFF f.mismatchCnt else f.mismatchCnt }

section
variable {r : RemoteRt} {pair : Bool} {b : List Byte}

theorem RemoteRt.afterCopy_equal (hboth : (r.keepsCopy pair b).pairScnt = (r.keepsCopy pair b).wagScnt)
    (hsame : (r.keepsCopy pair b).pairCopy = (r.keepsCopy pair b).wagCopy) : r.afterCopy pair b = (r.keepsCopy pair b).afterMatch b :=
  (if_pos hboth).trans (if_pos hsame)

theorem RemoteRt.afterCopy_differing (hboth : (r.keepsCopy pair b).pairScnt = (r.keepsCopy pair b).wagScnt)
    (hdiffer : (r.keepsCopy pair b).pairCopy ≠ (r.keepsCopy pair b).wagCopy) :
    r.afterCopy pair b = { r.keepsCopy pair b with mismatch := true } :=
  (if_pos hboth).trans (if_neg hdiffer)

theorem RemoteRt.afterCopy_alone (halone : (r.keepsCopy pair b).pairScnt ≠ (r.keepsCopy pair b).wagScnt) :
    r.afterCopy pair b = r.keepsCopy pair b :=
  if_neg halone

end

theorem State.takeCopy_accepted {s : State} {pair : Bool} {b : List Byte} (h : s.AcceptsCopy pair b) :
    (s.takeCopy pair b).saf.besideGroups = (s.saf.afterCopy pair b).besideGroups := by
  obtain ⟨hup, hverified, hremote, hlength, hhears, hcrc, hadvances⟩ := h
  unfold State.takeCopy
  extract_lets stn f r x k shown k' both matched matched'
  rw [if_neg (by simp [hup, f, r, stn, x, hverified, hremote, hlength, hhears, ← hcrc, hadvances])]
  have hk : k' = (s.saf.rem (leAt b 12 2)).keepsCopy pair b := rfl
  unfold SafState.afterCopy
  by_cases hboth : k'.pairScnt = k'.wagScnt
  · by_cases hsame : k'.pairCopy = k'.wagCopy
    · rw [if_pos (by simp [both, hboth, hsame]), State.safUpdate_besideGroups, RemoteRt.afterCopy_equal hboth hsame,
        if_neg (by simp [RemoteRt.differs, ← hk, hsame])]
      rfl
    · rw [if_neg (by simp [hsame]), if_pos (by simp [both, hboth]), RemoteRt.afterCopy_differing hboth hsame,
        if_pos (by simp [RemoteRt.differs, ← hk, hboth, hsame]), State.pathFault_saf, State.safUpdate_besideGroups]
      rfl
  · rw [if_neg (by simp [both, hboth]), if_neg (by simp [both, hboth]), State.safUpdate_besideGroups,
      RemoteRt.afterCopy_alone hboth, if_neg (by simp [RemoteRt.differs, ← hk, hboth])]
    rfl

/-- What is kept of the station of a copy that counts. -/
theorem SafState.rem_of_afterCopy {f g : SafState} {pair : Bool} {b : List Byte}
    (h : f.besideGroups = (g.afterCopy pair b).besideGroups) :
    f.rem (leAt b 12 2) = (g.rem (leAt b 12 2)).afterCopy pair b := by
  rw [SafState.rem, SafState.remote_of_besideGroups h]
  exact tget_tput_same _ _ _ _

/-- A copy on the pair is kept as the pair's, whatever the other path holds. -/
theorem RemoteRt.afterCopy_pair (r : RemoteRt) (b : List Byte) : (r.afterCopy true b).pairCopy = b ∧
    (r.afterCopy true b).pairScnt = some (copyScnt b) ∧ (r.afterCopy true b).fgWatch = false := by
  unfold RemoteRt.afterCopy RemoteRt.afterMatch
  extract_lets k matched
  split
  · split
    · split <;> exact ⟨rfl, rfl, rfl⟩
    · exact ⟨rfl, rfl, rfl⟩
  · exact ⟨rfl, rfl, rfl⟩

/-- A copy by Waggle is kept as Waggle's, whatever the pair holds. -/
theorem RemoteRt.afterCopy_waggle (r : RemoteRt) (b : List Byte) : (r.afterCopy false b).wagCopy = b ∧
    (r.afterCopy false b).wagScnt = some (copyScnt b) := by
  unfold RemoteRt.afterCopy RemoteRt.afterMatch
  extract_lets k matched
  split
  · split
    · split <;> exact ⟨rfl, rfl⟩
    · exact ⟨rfl, rfl⟩
  · exact ⟨rfl, rfl⟩

/-- Two equal copies with a SCNT newer than that of the last fault end it. -/
theorem RemoteRt.afterMatch_newer {r : RemoteRt} {b : List Byte} (hnewer : advances r.faultAt (copyScnt b) = true) :
    (r.afterMatch b).matched = some (copyScnt b) ∧ (r.afterMatch b).mismatch = false ∧ (r.afterMatch b).absence = false ∧
      (r.afterMatch b).watch = false := by
  unfold RemoteRt.afterMatch
  extract_lets matched
  rw [if_pos hnewer]
  exact ⟨rfl, rfl, rfl, rfl⟩

/-! ### The safety pair (R485, R486, R494) -/

section
variable {s : State} (hup : s.pw.fieldUp = true) (b : List Byte)
include hup

theorem exec_safetyPairCopy_unframed : exec (.safetyPairCopy b false) s = .next (if s.saf.pairBad + 1 = 16 then
    (s.setSaf { s.saf with pairBad := min 16 (s.saf.pairBad + 1), pairUp := s.saf.pairUp && decide (s.saf.pairBad + 1 < 16) }).fieldRaise 0x8B 0
    else s.setSaf { s.saf with pairBad := min 16 (s.saf.pairBad + 1), pairUp := s.saf.pairUp && decide (s.saf.pairBad + 1 < 16) }) := by
  change execSafetyPairCopy b false s = _
  rw [execSafetyPairCopy, if_neg (by simp [hup]), if_neg (by simp)]

theorem exec_safetyPairCopy_framed : exec (.safetyPairCopy b true) s = .next (State.takeCopy (s.setSaf { s.saf with
    pairBad := 0, pairUp := s.saf.pairUp || decide (leAt b 28 4 = scrc (leAt b 12 2) b) }) true b) := by
  change execSafetyPairCopy b true s = _
  rw [execSafetyPairCopy, if_neg (by simp [hup]), if_pos rfl]

end

/-- The safety part when a framed copy has arrived on the pair. -/
def SafState.framed (f : SafState) (b : List Byte) : SafState :=
  { f with pairBad := 0, pairUp := f.pairUp || decide (leAt b 28 4 = scrc (leAt b 12 2) b) }

/-- A copy on the pair that counts. -/
theorem exec_safetyPairCopy_accepted {s : State} {b : List Byte} (h : s.AcceptsCopy true b) :
    ∃ t, exec (.safetyPairCopy b true) s = .next t ∧
      t.saf.besideGroups = ((s.saf.framed b).afterCopy true b).besideGroups :=
  ⟨_, exec_safetyPairCopy_framed h.up b, State.takeCopy_accepted (s := s.setSaf (s.saf.framed b))
    ⟨h.up, h.verified, h.remote, h.length, h.hears, h.crc, h.advances⟩⟩

/-! ### SAFETY frames (R376, R394, R486) -/

theorem exec_safetyFrame {s : State} (h : FrameHdr) (b : List Byte) (htakes : s.takesFrames = true) :
    exec (.safetyFrame h b) s = .next (if (s.takeFrame h 3).2 && decide (leAt b 12 2 = h.src.val) then
      (s.takeFrame h 3).1.sendDown (.guardCopy b) else (s.takeFrame h 3).1) := by
  change execSafetyFrame h b s = _
  rw [execSafetyFrame, if_neg (by simp [htakes])]
  exact (apply_ite Host.Outcome.next _ _ _).symm

/-! ### Absence and the watches (R486, R487) -/

/-- A supervision of the copies of station k has failed: what is noted of it, counted and taken up by the groups. -/
def State.supervisionFails (s : State) (k bit : Nat) (f : RemoteRt → RemoteRt) : State :=
  (s.setSaf { s.saf with remote := tmod {} s.saf.remote k f, absentCnt := satInc 0xFFFF s.saf.absentCnt }).safUpdate.pathFault k bit

section
variable (s : State) (k bit : Nat) (f : RemoteRt → RemoteRt)

theorem State.supervisionFails_besideGroups : (s.supervisionFails k bit f).saf.besideGroups =
    ({ s.saf with remote := tmod {} s.saf.remote k f, absentCnt := satInc 0xFFFF s.saf.absentCnt } : SafState).besideGroups := by
  rw [State.supervisionFails, State.pathFault_saf, State.safUpdate_besideGroups, State.setSaf_saf]

theorem State.supervisionFails_rem : (s.supervisionFails k bit f).saf.rem k = f (s.saf.rem k) := by
  rw [SafState.rem, SafState.remote_of_besideGroups (State.supervisionFails_besideGroups s k bit f)]
  exact tget_tput_same _ _ _ _

theorem State.supervisionFails_absentCnt : (s.supervisionFails k bit f).saf.absentCnt = satInc 0xFFFF s.saf.absentCnt :=
  (SafState.absentCnt_of_besideGroups (State.supervisionFails_besideGroups s k bit f)).trans rfl

variable {g : Fin 16} (hrow : (s.saf.remoteRows g.val).any (fun x => decide (x.1 = k)) = true)
include hrow

theorem State.supervisionFails_guard (habsent : ((f (s.saf.rem k)).absence || (f (s.saf.rem k)).watch) = true) :
    ((s.supervisionFails k bit f).saf.group g.val).guardPermit = false ∧
      ((s.supervisionFails k bit f).saf.group g.val).guard.absence = true := by
  rw [State.supervisionFails, State.pathFault_saf]
  refine State.safUpdate_absent (k := k) hrow ?_
  rw [SafState.rem, State.setSaf_saf, tmod, tget_tput_same]
  exact habsent

theorem State.supervisionFails_fg (hwatch : (f (s.saf.rem k)).fgWatch = true) :
    ((s.supervisionFails k bit f).saf.group g.val).fgPermit = false ∧
      ((s.supervisionFails k bit f).saf.group g.val).fg.absence = true := by
  rw [State.supervisionFails, State.pathFault_saf]
  refine State.safUpdate_fgWatch (k := k) hrow ?_
  rw [SafState.rem, State.setSaf_saf, tmod, tget_tput_same]
  exact hwatch

end

section
variable {s : State} {k : Fin 4096}

theorem exec_safetyPathAbsence_unheard (m : SafetyPath) (h : s.pw.fieldUp = false ∨ s.saf.hears k.val = false) :
    exec (.safetyPathAbsence k m) s = .next s :=
  if_pos (by rcases h with h | h <;> simp [h])

theorem exec_safetyWatchExpiry_unheard (m : SafetyPath) (h : s.pw.fieldUp = false ∨ s.saf.hears k.val = false) :
    exec (.safetyWatchExpiry k m) s = .next s :=
  if_pos (by rcases h with h | h <;> simp [h])

variable (hup : s.pw.fieldUp = true) (hhears : s.saf.hears k.val = true)
include hup hhears

theorem exec_safetyPathAbsence (m : SafetyPath) : exec (.safetyPathAbsence k m) s = .next (s.supervisionFails k.val
    (match m with | .waggle => 13 | .pair => 14) (fun r => { r with absence := true, faultAt := r.newest })) := by
  change execSafetyPathAbsence k m s = _
  simp only [execSafetyPathAbsence]
  exact if_neg (by simp [hup, hhears])

theorem exec_safetyWatchExpiry_waggle : exec (.safetyWatchExpiry k .waggle) s = .next (s.supervisionFails k.val 15
    (fun r => { r with watch := true, faultAt := r.newest })) := by
  change execSafetyWatchExpiry k .waggle s = _
  rw [execSafetyWatchExpiry, if_neg (by simp [hup, hhears])]
  rfl

theorem exec_safetyWatchExpiry_pair : exec (.safetyWatchExpiry k .pair) s = .next (s.supervisionFails k.val 15
    (fun r => { r with fgWatch := true })) := by
  change execSafetyWatchExpiry k .pair s = _
  rw [execSafetyWatchExpiry, if_neg (by simp [hup, hhears])]
  rfl

end

/-! ### The frames of this station (R398, R485) -/

theorem exec_safetyFrameSend_silent {s : State}
    (h : s.saf.guardRun = false ∨ sealRemote s.saf.sealRead = false ∨ s.pw.logicAbsent = true) :
    exec .safetyFrameSend s = .next s :=
  if_pos (by rcases h with h | h | h <;> simp [h])

theorem exec_safetyFrameSend_noWindow {s : State} (hwindow : s.safetyWindow = none) : exec .safetyFrameSend s = .next s := by
  change execSafetyFrameSend s = _
  simp [execSafetyFrameSend, hwindow]

/-- The frame for window w has been composed and has crossed to the logic side. -/
def State.composed (s : State) (w : Nat) : State :=
  ((s.setSaf { s.saf with
    scnt := s.saf.scnt + 1, sendCycle := s.wag.cycle
    sendWins := (if s.saf.sendCycle = s.wag.cycle then s.saf.sendWins else []) ++ [w] }).tookFree).sendUp
      (.safetyFrame w (s.safetyBytes (s.saf.scnt + 1)))

theorem exec_safetyFrameSend_composed {s : State} {w : Nat} (hup : s.pw.fieldUp = true) (hthere : s.pw.logicAbsent = false)
    (hrun : s.saf.guardRun = true) (hremote : sealRemote s.saf.sealRead = true) (hwindow : s.safetyWindow = some w) :
    exec .safetyFrameSend s = .next (if s.fieldDrives then
      (s.composed w).emitOut (.safetyPair ([0x7E] ++ s.safetyBytes (s.saf.scnt + 1) ++ [0x7E])) else s.composed w) := by
  change execSafetyFrameSend s = _
  simp only [execSafetyFrameSend, hwindow]
  exact if_neg (by simp [hup, hthere, hrun, hremote])

/-- Settles O45: what a copy leaves is told beside the groups, which take it up without changing it, and each group that a row
names takes its causes from what is kept of the station. -/
theorem safetyFramesOnTwoPaths : Obligations.SafetyFramesOnTwoPaths := by
  unfold Obligations.SafetyFramesOnTwoPaths
  refine ⟨?_, ?_, ?_, ?_, ?_, ?_, ?_, ?_, ?_, ?_, ?_, ?_, ?_, ?_, ?_, ?_, ?_⟩
  · intro s b f hdown
    exact if_pos (by simp [hdown])
  · intro s b hup hbad
    exact completes_of_exec ((exec_safetyPairCopy_unframed hup b).trans (by rw [if_neg hbad])) rfl rfl
  · intro s b hup hbad
    rw [exec_safetyPairCopy_unframed hup b, hbad, if_pos rfl]
    simp
  · intro s b hup hverified hremote hlength hhears hcrc hadvances
    obtain ⟨t, hexec, hsaf⟩ := exec_safetyPairCopy_accepted ⟨hup, hverified, hremote, hlength, hhears, hcrc, hadvances⟩
    have hbad : t.saf.pairBad = 0 := (congrArg SafState.pairBad hsaf :)
    have hpair : t.saf.pairUp = (s.saf.framed b).pairUp := (congrArg SafState.pairUp hsaf :)
    rw [SafState.framed, decide_eq_true hcrc, Bool.or_true] at hpair
    have hrem := SafState.rem_of_afterCopy hsaf
    obtain ⟨hcopy, hscnt, hwatch⟩ := RemoteRt.afterCopy_pair ((s.saf.framed b).rem (leAt b 12 2)) b
    rw [← hrem] at hcopy hscnt hwatch
    exact completes_of_exec hexec ⟨hbad, hpair, hcopy, hscnt, hwatch⟩ rfl
  · intro s b hup hverified hremote hlength hhears hcrc hadvances hscnt hcopy hnewer
    obtain ⟨t, hexec, hsaf⟩ := exec_safetyPairCopy_accepted ⟨hup, hverified, hremote, hlength, hhears, hcrc, hadvances⟩
    have hrem := (SafState.rem_of_afterCopy hsaf).trans (RemoteRt.afterCopy_equal hscnt.symm hcopy.symm)
    have hmatched := RemoteRt.afterMatch_newer (r := ((s.saf.framed b).rem (leAt b 12 2)).keepsCopy true b) hnewer
    rw [← hrem] at hmatched
    exact completes_of_exec hexec hmatched rfl
  · intro s b hup hverified hremote hlength hhears hcrc hadvances hscnt hcopy
    obtain ⟨t, hexec, hsaf⟩ := exec_safetyPairCopy_accepted ⟨hup, hverified, hremote, hlength, hhears, hcrc, hadvances⟩
    have hrem := (SafState.rem_of_afterCopy hsaf).trans (RemoteRt.afterCopy_differing hscnt.symm hcopy.symm)
    have hcount : t.saf.mismatchCnt = _ := (congrArg SafState.mismatchCnt hsaf :)
    exact completes_of_exec hexec ⟨congrArg RemoteRt.mismatch hrem, hcount.trans (if_pos (by
      simp only [RemoteRt.differs, Bool.and_eq_true, Bool.not_eq_true', decide_eq_true_eq, decide_eq_false_iff_not]
      exact ⟨hscnt.symm, hcopy.symm⟩))⟩ rfl
  · intro s h b htakes
    exact if_pos (by simp [htakes])
  · intro s h b htakes hother
    have hexec := exec_safetyFrame h b htakes
    rw [if_neg (by simp [hother])] at hexec
    exact completes_of_exec hexec ⟨rfl, rfl⟩ rfl
  · intro s h b htakes hvalid hsender
    have hexec := exec_safetyFrame h b htakes
    rw [if_pos (by simp [hvalid, hsender])] at hexec
    exact completes_of_exec hexec ⟨rfl, rfl⟩ rfl
  · intro s b r hdown hup hverified hremote hlength hhears hcrc hadvances
    have hsaf := State.takeCopy_accepted (s := { s with fio := { s.fio with down := r } }) (pair := false) (b := b)
      ⟨hup, hverified, hremote, hlength, hhears, hcrc, hadvances⟩
    have hkept := RemoteRt.afterCopy_waggle (s.saf.rem (leAt b 12 2)) b
    rw [← SafState.rem_of_afterCopy hsaf] at hkept
    exact completes_of_exec (exec_downlinkFrame_valid hdown hup) hkept rfl
  · intro s k m h
    exact ⟨exec_safetyPathAbsence_unheard m h, exec_safetyWatchExpiry_unheard m h⟩
  · intro s k m g hup hhears hrow
    exact completes_of_exec (exec_safetyPathAbsence hup hhears m) ⟨congrArg RemoteRt.absence (State.supervisionFails_rem _ _ _ _),
      State.supervisionFails_absentCnt _ _ _ _, State.supervisionFails_guard _ _ _ _ hrow rfl⟩ rfl
  · intro s k g hup hhears hrow
    exact completes_of_exec (exec_safetyWatchExpiry_waggle hup hhears) ⟨congrArg RemoteRt.watch (State.supervisionFails_rem _ _ _ _),
      State.supervisionFails_guard _ _ _ _ hrow (Bool.or_true _)⟩ rfl
  · intro s k g hup hhears hrow
    exact completes_of_exec (exec_safetyWatchExpiry_pair hup hhears) ⟨congrArg RemoteRt.fgWatch (State.supervisionFails_rem _ _ _ _),
      State.supervisionFails_fg _ _ _ _ hrow rfl⟩ rfl
  · intro s h
    exact exec_safetyFrameSend_silent h
  · intro s w hup hthere hrun hremote hwindow
    refine completes_of_exec (exec_safetyFrameSend_composed hup hthere hrun hremote hwindow) ?_ rfl
    split <;> exact ⟨rfl, rfl, rfl, rfl⟩
  · intro s hwindow
    exact exec_safetyFrameSend_noWindow hwindow

end Sys2Proof.Machine
end

section
/-! PROOFS. The life-cycle state and the END fuse (R556): no operation of a reset, of a power change, of an update or of the service port
writes either, save a transition by a token and the comparison of the copies at a power-up, and in END neither of these leaves it. -/

namespace Sys2Proof.Machine

/-- The life-cycle state and the END fuse. -/
def LcyState.life (l : LcyState) : LcState × Bool := (l.st, l.endFuse)

/-- Every part but the life-cycle part. -/
abbrev notLcy : List Area :=
  [.pending, .regs, .time, .pw, .hif, .stp, .cmb, .blk, .cnv, .fio, .mir, .bog, .wag, .twn, .saf, .drn, .leg, .peat, .seen, .out, .freeIdx]

theorem State.lcy_kept {s t : State} (h : t.mask notLcy = s.mask notLcy) : t.lcy = s.lcy := State.only_lcy h rfl

theorem after_lcy_kept {s : State} {o : Host.Outcome State Fault Refusal} (h : nextMask notLcy s o = s.mask notLcy) :
    (after s o).lcy = s.lcy := by
  cases o with
  | next t => exact State.lcy_kept h
  | fault r => rfl
  | refused r => rfl

@[simp] theorem ite_life {c : Prop} {_ : Decidable c} (s t : State) :
    (if c then s else t).lcy.life = if c then s.lcy.life else t.lcy.life := apply_ite (fun u : State => u.lcy.life) _ _ _

/-! ### Resets and power (R555, R556, R593, R598) -/

theorem State.closeDebug_lcy (s : State) : s.closeDebug.lcy = { s.lcy with ldbg := false, fdbg := false } := by
  unfold State.closeDebug
  extract_lets a b l
  have ha : a.lcy = s.lcy := by unfold a; split <;> rfl
  have hb : b.lcy = s.lcy := by unfold b; split <;> exact ha
  exact (congrArg (fun l : LcyState => { l with ldbg := false, fdbg := false }) hb :)

@[simp] theorem State.closeDebug_life (s : State) : s.closeDebug.lcy.life = s.lcy.life := by
  rw [State.closeDebug_lcy]
  rfl

theorem LcyState.logicReset_life (l : LcyState) : l.logicReset.life = l.life := rfl

theorem State.logicReset_lcy (s : State) : s.logicReset.lcy = s.resetRings.closeDebug.lcy.logicReset := rfl

@[simp] theorem State.logicReset_life (s : State) : s.logicReset.lcy.life = s.lcy.life := by
  rw [State.logicReset_lcy, LcyState.logicReset_life, State.closeDebug_life, State.lcy_kept (State.resetRings_mask rfl s)]

@[simp] theorem State.holdLogic_life (s : State) (cold : Bool) (cause : Nat) : (s.holdLogic cold cause).lcy.life = s.lcy.life :=
  State.logicReset_life s

theorem State.logicOff_lcy (s : State) (cause : Nat) :
    (s.logicOff cause).lcy = (if s.pw.variantL then s.commitLedger else s).logicReset.lcy := rfl

@[simp] theorem State.logicOff_life (s : State) (cause : Nat) : (s.logicOff cause).lcy.life = s.lcy.life := by
  rw [State.logicOff_lcy, State.logicReset_life, ite_life, State.lcy_kept (State.commitLedger_mask rfl _), ite_self]

@[simp] theorem State.fieldDown_life (s : State) : s.fieldDown.lcy.life = s.lcy.life := by
  have h : s.fieldDown.lcy.life = s.commitLedger.closeDebug.loseTables.lcy.life := rfl
  rw [h, State.lcy_kept (State.loseTables_mask rfl _), State.closeDebug_life, State.lcy_kept (State.commitLedger_mask rfl _)]

@[simp] theorem State.fieldStart_life (s : State) : s.fieldStart.lcy.life = s.lcy.life := State.closeDebug_life s

@[simp] theorem State.adoptHalf_life (s : State) (old new : Activation) : (s.adoptHalf old new).lcy.life = s.lcy.life := by
  simp [State.adoptHalf]

@[simp] theorem State.takeRestart_life (s : State) : s.takeRestart.lcy.life = s.lcy.life := by
  unfold State.takeRestart
  split <;> simp

@[simp] theorem State.warmRestart_life (s : State) (cause : Nat) (why : HandoverWhy) :
    (s.warmRestart cause why).lcy.life = s.lcy.life := by
  simp [State.warmRestart, State.lcy_kept (State.offerHandover_mask rfl _ _), State.lcy_kept (State.askRestart_mask rfl _ _)]

@[simp] theorem State.bootFallback_life (s : State) : s.bootFallback.lcy.life = s.lcy.life := by
  unfold State.bootFallback
  rw [State.raise_lcy, State.adoptHalf_life, State.countLogic_lcy]
  rfl

/-- The END fuse overrides the copies. -/
theorem LcyState.reconcile_end {l : LcyState} (h : l.endFuse = true) : l.reconcile.st = .end_ := if_pos h

theorem LcyState.reconcile_life {l : LcyState} (h : l.life = (.end_, true)) : l.reconcile.life = (.end_, true) :=
  have hfuse : l.endFuse = true := congrArg Prod.snd h
  Prod.ext (LcyState.reconcile_end hfuse) hfuse

theorem State.peatPowerUp_life {s : State} (h : s.lcy.life = (.end_, true)) : s.peatPowerUp.lcy.life = (.end_, true) := by
  unfold State.peatPowerUp
  extract_lets lost old copy l t u
  have hl : l.life = (.end_, true) := by
    unfold l
    split <;> exact h
  have hu : u.lcy.life = (.end_, true) := by
    rw [State.lcy_kept (State.ledgerPowerUp_mask rfl t lost)]
    exact LcyState.reconcile_life hl
  split
  · rw [State.lcy_kept (State.powerIrq_mask rfl _)]
    exact hu
  · exact hu

/-! ### Phase P3, updates and the service port (R519, R563, R571, R574) -/

@[simp] theorem State.confirmActivation_life (s : State) : s.confirmActivation.lcy.life = s.lcy.life := by
  unfold State.confirmActivation
  split <;> rfl

@[simp] theorem State.judgePhase_life (s : State) : s.judgePhase.lcy.life = s.lcy.life := by
  unfold State.judgePhase
  dsimp only
  split
  · rfl
  · rw [ite_life, State.confirmActivation_life, ite_self]

@[simp] theorem State.refuseActivation_life (s : State) (code : Byte) : (s.refuseActivation code).lcy.life = s.lcy.life := rfl

@[simp] theorem State.takeUpdate_life (s : State) (type : Nat) (image : List Byte) :
    (s.takeUpdate type image).lcy.life = s.lcy.life := by
  unfold State.takeUpdate
  split <;> rfl

@[simp] theorem State.downTake_life (s : State) (it : DownItem) : (s.downTake it).lcy.life = s.lcy.life := by
  cases it with
  | update k b => exact State.takeUpdate_life s k b
  | actUntil t drive => simp [State.downTake, State.lcy_kept (State.regate_mask rfl _)]
  | launch q v =>
    unfold State.downTake
    dsimp only
    split
    · exact congrArg LcyState.life (State.lcy_kept (State.fieldArrive_mask rfl _ _ _))
    · rfl
  | holdReq loop th => exact congrArg LcyState.life (State.lcy_kept (State.takeHoldReq_mask rfl s loop th))
  | holdTable l => exact congrArg LcyState.life (State.lcy_kept (State.takeHold_mask rfl s l))
  | clrFault i => exact congrArg LcyState.life (State.lcy_kept (State.clearTrip_mask rfl s i))
  | guardCopy b => exact congrArg LcyState.life (State.lcy_kept (State.takeCopy_mask rfl s false b))
  | shadow it => simp [State.downTake, State.lcy_kept (State.applyItem_mask rfl _ _)]
  | dac _ _ t | valves _ _ _ t _ | duty _ _ t | rate _ _ t | axis _ _ _ t =>
    exact congrArg LcyState.life (State.lcy_kept (State.fieldArrive_mask rfl s _ t))
  | _ => simp [State.downTake, State.takeMark]

@[simp] theorem State.updEnds_life (s : State) (code : Byte) : (s.updEnds code).1.lcy.life = s.lcy.life := rfl

/-- A request of the service port leaves what executing it leaves. -/
theorem after_service_life {s : State} {op : Byte} {seq : Word} {f : State → State × Byte × List Byte}
    {o : Host.Outcome State Fault Refusal} (ho : o = .next (s.service op seq f)) (h : (f s).1.lcy.life = s.lcy.life) :
    (after s o).lcy.life = s.lcy.life := by
  rw [ho, after_next, State.service]
  split
  · rfl
  · split
    · exact h
    · split <;> rfl

@[simp] theorem State.commitActivation_life (s : State) : s.commitActivation.lcy.life = s.lcy.life := by
  unfold State.commitActivation
  dsimp only
  rw [State.holdLogic_life, State.lcy_kept (State.applyCalPart_mask rfl _ _), State.adoptHalf_life,
    State.lcy_kept (State.noteCause_mask rfl _ _), State.countLogic_lcy]
  rfl

theorem State.accessLost_lcy (s : State) : s.accessLost.lcy = s.lcy := State.lcy_kept (State.accessLost_mask rfl s)

theorem State.lifeCycleGroups_lcy (s : State) : s.lifeCycleGroups.lcy = s.lcy := State.lcy_kept (State.lifeCycleGroups_mask rfl s)

/-- What a transition writes in the life-cycle part before the debug ports close (R554 to R557, R559). -/
def LcyState.moved (l : LcyState) (to_ : LcState) (key : List Byte) : LcyState :=
  let n := (l.count + 1) % 2 ^ 32
  let copy : LcCopy := { good := true, st := to_, count := n }
  let l := { l with st := to_, count := n, peat := copy, mram := copy, nor := copy }
  match to_ with
  | .maker => { l with device := true, ownerKeys := [] }
  | .ownerOpen => if l.ownerKeys.isEmpty then { l with ownerKeys := [key] } else l
  | .return_ => { l with ownerKeys := [] }
  | .end_ => { l with
      endFuse := true, makerKeys := [], ownerKeys := [], device := false, logicKeys := [], fieldKey := none }
  | _ => l

theorem State.transition_lcy (s : State) (to_ : LcState) (key : List Byte) :
    (s.transition to_ key).lcy = { s.lcy.moved to_ key with ldbg := false, fdbg := false } := by
  unfold State.transition
  dsimp only
  rw [State.lifeCycleGroups_lcy, State.accessLost_lcy, State.raise_lcy, State.lcy_kept (State.noteCause_mask rfl _ _),
    State.closeDebug_lcy]
  split
  · rfl
  · rfl

/-! ### The commands that touch the life-cycle part -/

theorem execLogicPowerUp_life {s : State} (h : s.lcy.life = (.end_, true)) :
    (after s (execLogicPowerUp s)).lcy.life = (.end_, true) := by
  unfold execLogicPowerUp
  split
  · exact h
  · dsimp only
    rw [after_next]
    split
    · exact State.peatPowerUp_life h
    · exact LcyState.reconcile_life h

theorem execFieldPowerGood_life {s : State} (h : s.lcy.life = (.end_, true)) :
    (after s (execFieldPowerGood s)).lcy.life = (.end_, true) := by
  unfold execFieldPowerGood
  split
  · exact h
  · dsimp only
    rw [after_next, State.lcy_kept (State.noteCause_mask rfl _ _), State.countLedger_lcy]
    exact State.peatPowerUp_life ((State.fieldStart_life _).trans h)

theorem execLogicResetRelease_life (s : State) : (after s (execLogicResetRelease s)).lcy.life = s.lcy.life := by
  unfold execLogicResetRelease
  split
  · rfl
  · dsimp only
    rw [after_next, State.setPw_lcy, State.setTime_lcy, State.setLcy_lcy]
    split <;> rfl

theorem execPresenceRelease_life (side : Side) (s : State) :
    (after s (execPresenceRelease side s)).lcy.life = s.lcy.life := by
  cases side with
  | logic =>
    dsimp only [execPresenceRelease, after_next]
    split
    · rfl
    · rw [State.logicOff_life, State.setPw_lcy]
  | field =>
    dsimp only [execPresenceRelease, after_next]
    split
    · rw [State.fieldDown_life, State.setPw_lcy]
    · rfl

theorem execLogicBootVerified_life (slotOk retentionOk : Bool) (s : State) :
    (after s (execLogicBootVerified slotOk retentionOk s)).lcy.life = s.lcy.life := by
  simp [execLogicBootVerified, State.lcy_kept (State.loadPersistent_mask rfl _ _), State.lcy_kept (State.coldCounters_mask rfl _),
    State.lcy_kept (State.takeRole_mask rfl _), State.lcy_kept (State.turnCold_mask rfl _)]

theorem execV12OutOfRange_life (s : State) : (after s (execV12OutOfRange s)).lcy.life = s.lcy.life := by
  dsimp only [execV12OutOfRange, after_next]
  split
  · rfl
  · rw [State.logicOff_life, State.setPw_lcy]

theorem execLogicOvertemp_life (s : State) : (after s (execLogicOvertemp s)).lcy.life = s.lcy.life := by
  simp [execLogicOvertemp]

theorem execFieldPowerLoss_life (s : State) : (after s (execFieldPowerLoss s)).lcy.life = s.lcy.life := by
  simp [execFieldPowerLoss]

theorem execPllLockLoss_life (s : State) : (after s (execPllLockLoss s)).lcy.life = s.lcy.life := by
  dsimp only [execPllLockLoss]
  split
  · rfl
  · rw [after_next]
    split
    · rfl
    · rw [State.holdLogic_life, State.setPw_lcy]

theorem execEjectLeverReturned_life (s : State) : (after s (execEjectLeverReturned s)).lcy.life = s.lcy.life := by
  simp [execEjectLeverReturned, State.lcy_kept (State.powerIrq_mask rfl _)]

theorem execRestartReset_life (s : State) : (after s (execRestartReset s)).lcy.life = s.lcy.life := by
  simp [execRestartReset]

theorem execLpddr5LinkError_life (at_ : LinkErrorAt) (s : State) : (after s (execLpddr5LinkError at_ s)).lcy.life = s.lcy.life := by
  cases at_ <;> simp [execLpddr5LinkError, State.lcy_kept (State.bogLinkError_mask rfl _ _ _)]

theorem execResetInputRelease_life (heldNs : Nat) (s : State) :
    (after s (execResetInputRelease heldNs s)).lcy.life = s.lcy.life := by
  simp [execResetInputRelease]

theorem execSramUncorrectable_life (bank : Fin 32) (s : State) :
    (after s (execSramUncorrectable bank s)).lcy.life = s.lcy.life := by
  simp [execSramUncorrectable]

theorem execDownlinkFrame_life (valid : Bool) (s : State) : (after s (execDownlinkFrame valid s)).lcy.life = s.lcy.life := by
  unfold execDownlinkFrame
  split
  · rfl
  · dsimp only
    split
    · simp
    · split
      · simp
      · split
        · simp [State.lcy_kept (State.loseLogic_mask rfl _)]
        · exact congrArg LcyState.life (State.lcy_kept (State.sendScans_mask rfl _))
        · simp
        · exact congrArg LcyState.life (State.lcy_kept (State.sendFio_mask rfl _))
        · simp

theorem execBasePeriodStart_life (enc : List EncReading) (s : State) :
    (after s (execBasePeriodStart enc s)).lcy.life = s.lcy.life := by
  simp [execBasePeriodStart, State.lcy_kept (State.mirStart_mask rfl _), State.lcy_kept (State.beginPeriod_mask rfl _ _ _),
    State.lcy_kept (State.twinPeriod_mask rfl _ _), State.lcy_kept (State.endSnapshot_mask rfl _ _),
    State.lcy_kept (State.endConvPeriod_mask rfl _ _ _), State.lcy_kept (State.mirPeriod_mask rfl _ _),
    State.lcy_kept (State.baseOverrun_mask rfl _)]

theorem execSlotEvaluation_life (slot : Fin 4096) (s : State) : (after s (execSlotEvaluation slot s)).lcy.life = s.lcy.life := by
  unfold execSlotEvaluation
  dsimp only
  split
  · rfl
  · simp [State.lcy_kept (State.settleLoads_mask rfl _), State.lcy_kept (State.evaluate_mask rfl _ _ _ _ _),
      State.lcy_kept (State.takeRecords_mask rfl _ _)]

theorem execTaskRelease_life (task : Fin 8) (s : State) : (after s (execTaskRelease task s)).lcy.life = s.lcy.life := by
  simp [execTaskRelease, State.lcy_kept (State.taskRelease_mask rfl _ _ _ _), State.lcy_kept (State.releaseOut_mask rfl _ _)]

theorem execHiveListenEnd_life (s : State) : (after s (execHiveListenEnd s)).lcy.life = s.lcy.life := by
  simp [execHiveListenEnd, State.lcy_kept (State.startLink_mask rfl _ _)]

theorem execHiveBackoffEnd_life (s : State) : (after s (execHiveBackoffEnd s)).lcy.life = s.lcy.life := by
  simp [execHiveBackoffEnd, State.lcy_kept (State.startLink_mask rfl _ _)]

theorem execWagRun_life (w : Word) (s : State) : (after s (execWagRun w s)).lcy.life = s.lcy.life := by
  simp [execWagRun, State.lcy_kept (State.leaveLink_mask rfl _ _), State.lcy_kept (State.markPorts_mask rfl _),
    State.lcy_kept (State.takeRole_mask rfl _), State.lcy_kept (State.setReg_mask rfl _ _ _),
    State.lcy_kept (State.writeBits_mask rfl _ _ _)]

theorem execReferenceFrame_life (arrival : RefArrival) (ref : RefPayload) (stamp : Stamp) (echo : Bool) (s : State) :
    (after s (execReferenceFrame arrival ref stamp echo s)).lcy.life = s.lcy.life := by
  simp [execReferenceFrame, State.lcy_kept (State.heardReference_mask rfl _ _ _ _ _), State.lcy_kept (State.takeFrame_mask rfl _ _ _)]

theorem execHandoverAbandoned_life (s : State) : (after s (execHandoverAbandoned s)).lcy.life = s.lcy.life := by
  simp [execHandoverAbandoned, State.lcy_kept (State.ejectSteps_mask rfl _), State.lcy_kept (State.ejectParts_mask rfl _)]

theorem execStandbyReplay_life (s : State) : (after s (execStandbyReplay s)).lcy.life = s.lcy.life := by
  unfold execStandbyReplay
  extract_lets t n own now begun cmb counted changed
  split
  · rfl
  · split
    · exact congrArg LcyState.life (State.lcy_kept (State.snapFault_mask rfl s 4))
    · split
      · rw [after_next, ite_life, State.lcy_kept (State.snapFault_mask rfl s 1), ite_self]
      · next recs hrecs =>
        split
        · exact congrArg LcyState.life (State.lcy_kept (State.snapFault_mask rfl s 2))
        · extract_lets acted hash cmb' back twn' sent first
          have hsent : sent.lcy = s.lcy :=
            (foldl_keeps State.lcy (fun u x => State.lcy_kept (State.replayAct_mask rfl u n x)) _ changed).trans
              (foldl_keeps State.lcy (fun u c => State.lcy_kept (State.applyChange_mask rfl u c)) _ counted)
          split
          · rw [after_next, State.confirmActivation_life, State.raise_lcy, State.setTwn_lcy, hsent]
          · rw [after_next, hsent]

theorem execHello_life (seq : Word) (s : State) : (after s (execHello seq s)).lcy.life = s.lcy.life := after_service_life rfl rfl

theorem execStage_life (seq : Word) (offset : Nat) (bytes : List Byte) (s : State) :
    (after s (execStage seq offset bytes s)).lcy.life = s.lcy.life :=
  after_service_life rfl (by split <;> rfl)

theorem execDiscard_life (seq : Word) (s : State) : (after s (execDiscard seq s)).lcy.life = s.lcy.life := after_service_life rfl rfl

theorem execServiceStatus_life (seq : Word) (s : State) : (after s (execServiceStatus seq s)).lcy.life = s.lcy.life :=
  after_service_life rfl rfl

theorem execLedger_life (seq : Word) (what : BitVec 8) (first : Word) (count : Nat) (s : State) :
    (after s (execLedger seq what first count s)).lcy.life = s.lcy.life :=
  after_service_life rfl (by split <;> rfl)

theorem execExpect_life (seq : Word) (entries : List ExpectEntry) (s : State) :
    (after s (execExpect seq entries s)).lcy.life = s.lcy.life :=
  after_service_life rfl (by
    split
    · rfl
    · split <;> rfl)

theorem execInstall_life (seq : Word) (s : State) : (after s (execInstall seq s)).lcy.life = s.lcy.life := by
  refine after_service_life rfl ?_
  split
  · rfl
  · split
    · rfl
    · rw [State.updEnds_life, State.lcy_kept (State.sendImages_mask rfl _ _)]
      rfl

theorem execInstallDone_life (s : State) : (after s (execInstallDone s)).lcy.life = s.lcy.life := by
  unfold execInstallDone
  dsimp only
  repeat' split
  all_goals rfl

theorem execActivate_life (seq : Word) (fieldRst : Bool) (s : State) :
    (after s (execActivate seq fieldRst s)).lcy.life = s.lcy.life := by
  refine after_service_life rfl ?_
  dsimp only
  split
  · rfl
  · split
    · rfl
    · split
      · rfl
      · split
        · rw [ite_life, State.refuseActivation_life, ite_self, State.lcy_kept (State.offerHandover_mask rfl _ _)]
          rfl
        · rfl

theorem execActivationCommit_life (s : State) : (after s (execActivationCommit s)).lcy.life = s.lcy.life := by
  have hrules := State.lcy_kept (State.activationRules_mask rfl s s.lcy.inactive)
  simp only [execActivationCommit]
  split
  · rfl
  · split
    · rfl
    · split
      · rfl
      · split <;> rename_i heq <;> rw [heq] at hrules
        · exact (congrArg LcyState.life hrules :)
        · rw [after_next, State.refuseActivation_life, ite_life, State.fieldDown_life, ite_self]
          exact congrArg LcyState.life hrules
        · rw [after_ite, after_next, after_next, ite_life, State.refuseActivation_life, State.commitActivation_life, ite_self]
          exact congrArg LcyState.life hrules

/-! ### Tokens in END (R554, R564) -/

/-- In END no token has an authority, so none acts. -/
theorem tokenBy_end (op : TokenOp) : tokenBy .end_ op = none := by
  cases op with
  | transition t => cases t <;> rfl
  | debug field => rfl
  | addKey => rfl
  | removeKey => rfl

theorem State.takeToken_end {s : State} (h : s.lcy.st = .end_) (b : List Byte) : (s.takeToken b).1 = s := by
  unfold State.takeToken
  extract_lets l body
  split
  · rfl
  · next op hop =>
    split
    · rfl
    · have hby : tokenBy l.st op = none := (congrArg (tokenBy · op) h).trans (tokenBy_end op)
      rw [hby]

theorem execToken_life {s : State} (h : s.lcy.st = .end_) (seq : Word) (bytes : List Byte) :
    (after s (execToken seq bytes s)).lcy.life = s.lcy.life :=
  after_service_life rfl (congrArg (fun t : State => t.lcy.life) (State.takeToken_end h bytes))

/-- A command that may touch the life-cycle part keeps END by its own lemma, any other because it leaves the life-cycle part alone. -/
theorem exec_life {c : Instr} {s : State} (h : s.lcy.life = (.end_, true)) : (after s (exec c s)).lcy.life = (.end_, true) := by
  cases c with
  | logicPowerUp => exact execLogicPowerUp_life h
  | fieldPowerGood => exact execFieldPowerGood_life h
  | token seq bytes => exact (execToken_life (congrArg Prod.fst h) seq bytes).trans h
  | logicResetRelease => exact (execLogicResetRelease_life s).trans h
  | presenceRelease side => exact (execPresenceRelease_life side s).trans h
  | logicBootVerified slotOk retentionOk => exact (execLogicBootVerified_life slotOk retentionOk s).trans h
  | downlinkFrame valid => exact (execDownlinkFrame_life valid s).trans h
  | basePeriodStart enc => exact (execBasePeriodStart_life enc s).trans h
  | slotEvaluation slot => exact (execSlotEvaluation_life slot s).trans h
  | taskRelease task => exact (execTaskRelease_life task s).trans h
  | hiveListenEnd => exact (execHiveListenEnd_life s).trans h
  | hiveBackoffEnd => exact (execHiveBackoffEnd_life s).trans h
  | wagRun w => exact (execWagRun_life w s).trans h
  | referenceFrame arrival ref stamp echo => exact (execReferenceFrame_life arrival ref stamp echo s).trans h
  | handoverAbandoned => exact (execHandoverAbandoned_life s).trans h
  | standbyReplay => exact (execStandbyReplay_life s).trans h
  | hello seq => exact (execHello_life seq s).trans h
  | stage seq offset bytes => exact (execStage_life seq offset bytes s).trans h
  | discard seq => exact (execDiscard_life seq s).trans h
  | serviceStatus seq => exact (execServiceStatus_life seq s).trans h
  | ledger seq what first count => exact (execLedger_life seq what first count s).trans h
  | expect seq entries => exact (execExpect_life seq entries s).trans h
  | install seq => exact (execInstall_life seq s).trans h
  | installDone => exact (execInstallDone_life s).trans h
  | activate seq fieldRst => exact (execActivate_life seq fieldRst s).trans h
  | activationCommit => exact (execActivationCommit_life s).trans h
  | usbBusReset => exact h
  | v12OutOfRange => exact (execV12OutOfRange_life s).trans h
  | logicOvertemp => exact (execLogicOvertemp_life s).trans h
  | fieldPowerLoss => exact (execFieldPowerLoss_life s).trans h
  | pllLockLoss => exact (execPllLockLoss_life s).trans h
  | ejectLeverReturned => exact (execEjectLeverReturned_life s).trans h
  | restartReset => exact (execRestartReset_life s).trans h
  | lpddr5LinkError at_ => exact (execLpddr5LinkError_life at_ s).trans h
  | resetInputRelease heldNs => exact (execResetInputRelease_life heldNs s).trans h
  | sramUncorrectable bank => exact (execSramUncorrectable_life bank s).trans h
  | _ => exact (congrArg LcyState.life (after_lcy_kept (nextMask_mono rfl (exec_mask _ s)))).trans h

/-- Settles O56: END and its fuse as one value, which every command keeps; a transition by what it writes in the life-cycle part. -/
theorem endCannotBeLeft : Obligations.EndCannotBeLeft := by
  unfold Obligations.EndCannotBeLeft
  refine ⟨fun k s => ?entry, fun c s t hfuse hst hnext => ?kept, fun l => LcyState.reconcile_end⟩
  case entry =>
    rw [State.transition_lcy]
    exact ⟨rfl, rfl, rfl, rfl, rfl⟩
  case kept =>
    have hend : (after s (exec c s)).lcy.life = (.end_, true) := exec_life (Prod.ext hst hfuse)
    rw [hnext] at hend
    exact ⟨congrArg Prod.snd hend, congrArg Prod.fst hend⟩

end Sys2Proof.Machine
end

section
/-! PROOFS. The Peat Ledger (R579 to R587): where a histogram item places a sample, what a second leaves in the write buffer, and what a
commit and a snapshot write. -/

namespace Sys2Proof.Machine

/-! ### Bins (R580) -/

theorem linBin_lt_16 (lo : Int) {w : Int} (hw : 0 < w) (x : Int) : linBin lo w x < 16 := by
  unfold linBin
  split
  · decide
  · split
    · decide
    · have hdiv : (x - lo) / w < 14 := Int.ediv_lt_of_lt_mul hw (by omega)
      omega

theorem linBin_below {lo w x : Int} (h : x < lo) : linBin lo w x = 0 := if_pos h

theorem linBin_above {lo w x : Int} (hw : 0 < w) (h : lo + 14 * w ≤ x) : linBin lo w x = 15 := by
  rw [linBin, if_neg (by omega), if_pos h]

/-- Between the ends a LIN item's bin is the quotient of the distance from its origin by its width. -/
theorem linBin_between {lo w x : Int} {i : Nat} (hw : 0 < w) (hpos : 1 ≤ i) (hi : i ≤ 14) (hlow : lo + (i - 1) * w ≤ x)
    (hhigh : x < lo + i * w) : linBin lo w x = i := by
  have hquot : (x - lo) / w = i - 1 := (Int.ediv_eq_iff_of_pos hw).mpr ⟨by linarith, by linarith⟩
  have horigin : 0 ≤ ((i : Int) - 1) * w := mul_nonneg (by omega) hw.le
  have htop : (i : Int) * w ≤ 14 * w := mul_le_mul_of_nonneg_right (by omega) hw.le
  rw [linBin, if_neg (by linarith), if_neg (by linarith), hquot]
  omega

theorem logBin_lt_16 (x : Nat) : logBin x < 16 := by
  unfold logBin
  split <;> omega

theorem logBin_above {x : Nat} (h : 2 ^ 14 ≤ x) : logBin x = 15 := by
  have hx : x ≠ 0 := by omega
  have hlog : 14 ≤ Nat.log2 x := (Nat.le_log2 hx).mpr h
  rw [logBin, if_neg hx]
  omega

/-- Between the ends a LOG item's bin is the number of bits of the sample. -/
theorem logBin_between {x i : Nat} (hpos : 1 ≤ i) (hi : i ≤ 14) (hlow : 2 ^ (i - 1) ≤ x) (hhigh : x < 2 ^ i) : logBin x = i := by
  have hx : x ≠ 0 := fun h => absurd hlow (by simp [h])
  have hlog : Nat.log2 x = i - 1 :=
    le_antisymm (Nat.le_sub_one_of_lt ((Nat.log2_lt hx).mpr hhigh)) ((Nat.le_log2 hx).mpr hlow)
  rw [logBin, if_neg hx, hlog]
  omega

theorem itemScale_width {item : Nat} {lo w : Int} (h : itemScale item = some (lo, w)) : 0 < w := by
  unfold itemScale at h
  split at h <;> simp only [Option.some.injEq, Prod.mk.injEq, reduceCtorEq] at h <;> omega

theorem itemBin_lt_16 (item : Nat) (x : Int) : itemBin item x < 16 := by
  unfold itemBin
  split
  · next lo w hscale => exact linBin_lt_16 lo (itemScale_width hscale) x
  · exact logBin_lt_16 _

/-- Settles O57: the bins by their ranges, and a sample by the one bin that it counts in. -/
theorem histogramSamples : Obligations.HistogramSamples := by
  unfold Obligations.HistogramSamples
  refine ⟨fun lo w x hw => ⟨linBin_lt_16 lo hw x, linBin_below, linBin_above hw⟩, fun lo w x i => linBin_between,
    fun x i => logBin_between, fun x => ⟨rfl, logBin_lt_16 x, logBin_above⟩, ?sample, ?counter⟩
  case sample =>
    intro h k x hlength
    refine ⟨List.length_set.trans hlength, rfl, rfl, fun j hj => ?_⟩
    have hbin := itemBin_lt_16 k x
    by_cases hsame : j = itemBin k x
    · subst hsame
      simp [Histo.add, setAt, hlength, hbin]
    · simp [Histo.add, setAt, hsame, Ne.symm hsame]
  case counter =>
    intro n x
    exact ⟨fun h => if_pos h, fun h => if_neg (by omega)⟩

/-! ### A second (R579, R582, R583) -/

/-- The ledger without its counters and the note that it holds what is not committed. -/
def PeatState.besideCounters (p : PeatState) : PeatState := { p with pending := false, buf := { p.buf with counters := [] } }

/-- A second without counter i counted, or with it (R582). -/
def counted (yes : Bool) (i : Nat) (t : Sparse Nat) : Sparse Nat := if yes then tmod 0 t i (satInc 0xFFFFFFFF) else t

theorem tget_counted_same (yes : Bool) (i : Nat) (t : Sparse Nat) :
    tget 0 (counted yes i t) i = if yes then satInc 0xFFFFFFFF (tget 0 t i) else tget 0 t i := by
  cases yes with
  | true => exact tget_tput_same _ _ _ _
  | false => rfl

theorem tget_counted_other (yes : Bool) {i j : Nat} (t : Sparse Nat) (h : j ≠ i) : tget 0 (counted yes i t) j = tget 0 t j := by
  cases yes with
  | true => exact tget_tput_other _ _ _ _ _ h
  | false => rfl

theorem State.countSecond_besideCounters (s : State) : s.countSecond.peat.besideCounters = s.peat.besideCounters := by
  unfold State.countSecond
  extract_lets a b
  have ha : a.peat.besideCounters = s.peat.besideCounters := by unfold a; split <;> rfl
  have hb : b.peat.besideCounters = s.peat.besideCounters := by
    unfold b
    split
    · exact ha
    · exact ha
  split
  · exact hb
  · exact hb

theorem State.countSecond_pw (s : State) : s.countSecond.pw = s.pw := State.only_pw (State.countSecond_mask (qs := [.peat]) rfl s) rfl
theorem State.countSecond_cnv (s : State) : s.countSecond.cnv = s.cnv := State.only_cnv (State.countSecond_mask (qs := [.peat]) rfl s) rfl

/-- A second counts the logic side, the field side and the absence of the main supply, each where it holds. -/
theorem State.countSecond_counters (s : State) : s.countSecond.peat.buf.counters =
    counted (!s.peatMain) 2 (counted s.pw.fieldUp 1 (counted (decide (s.pw.logic ≠ .off)) 0 s.peat.buf.counters)) := by
  have hif (u : State) (c : Prop) [Decidable c] (i : Nat) : (if c then u.countLedger i else u).pw = u.pw ∧
      (if c then u.countLedger i else u).peat.buf.counters = counted (decide c) i u.peat.buf.counters := by
    by_cases hc : c <;> simp [hc, counted, State.countLedger]
  unfold State.countSecond
  extract_lets a b
  obtain ⟨hapw, ha⟩ : a.pw = s.pw ∧ a.peat.buf.counters = _ := hif s _ 0
  obtain ⟨hbpw, hb⟩ : b.pw = a.pw ∧ b.peat.buf.counters = _ := hif a _ 1
  have hmain : b.peatMain = s.peatMain := by rw [State.peatMain, hbpw, hapw, State.peatMain]
  rw [ha, hapw, Bool.decide_eq_true] at hb
  rw [hmain]
  cases s.peatMain with
  | true => exact hb
  | false => exact congrArg (counted true 2) hb

/-- The items after one of them has been sampled where it has a value (R579, R580). -/
def sampledItem (value : Nat → Option Int) (t : Sparse Histo) (i : Nat) : Sparse Histo :=
  match value i with
  | some v => tmod {} t i (fun h => h.add i v)
  | none => t

theorem tget_sampledItem_same (value : Nat → Option Int) (t : Sparse Histo) (i : Nat) : tget {} (sampledItem value t i) i =
    match value i with | some v => (tget {} t i).add i v | none => tget {} t i := by
  unfold sampledItem
  split
  · exact tget_tput_same _ _ _ _
  · rfl

theorem tget_sampledItem_other (value : Nat → Option Int) (t : Sparse Histo) {i j : Nat} (h : j ≠ i) :
    tget {} (sampledItem value t i) j = tget {} t j := by
  unfold sampledItem
  split
  · exact tget_tput_other _ _ _ _ _ h
  · rfl

/-- Of the items sampled in turn each takes its own sample alone. -/
theorem tget_foldl_sampledItem (value : Nat → Option Int) {l : List Nat} (hl : l.Nodup) (t : Sparse Histo) (i : Nat) :
    tget {} (l.foldl (sampledItem value) t) i = if i ∈ l then tget {} (sampledItem value t i) i else tget {} t i := by
  induction l generalizing t with
  | nil => rfl
  | cons a l ih =>
    obtain ⟨ha, hl⟩ := List.nodup_cons.mp hl
    rw [List.foldl_cons, ih hl]
    by_cases hsame : i = a
    · subst hsame
      rw [if_neg ha, if_pos List.mem_cons_self]
    · have hother := tget_sampledItem_other value t hsame
      simp only [List.mem_cons, hsame, false_or, tget_sampledItem_same, hother]

theorem State.sampleItems_items (s : State) (x : LedgerInputs) :
    (s.sampleItems x).peat.buf.items = (List.range 8).foldl (sampledItem (s.itemValue x)) s.peat.buf.items := rfl

theorem State.sampleItems_item (s : State) (x : LedgerInputs) (i : Fin 8) : tget {} (s.sampleItems x).peat.buf.items i.val =
    match s.itemValue x i.val with
    | some v => (tget {} s.peat.buf.items i.val : Histo).add i.val v
    | none => tget {} s.peat.buf.items i.val := by
  rw [State.sampleItems_items, tget_foldl_sampledItem _ List.nodup_range, if_pos (List.mem_range.mpr i.isLt),
    tget_sampledItem_same]

/-- What is sampled does not depend on the ledger. -/
theorem State.countSecond_itemValue (s : State) (x : LedgerInputs) (i : Nat) : s.countSecond.itemValue x i = s.itemValue x i := by
  unfold State.itemValue State.itemPowered
  rw [State.countSecond_pw, State.countSecond_cnv]

theorem State.peatMain_of_power {s t : State} (hlogic : t.pw.logic = s.pw.logic) (hfield : t.pw.fieldUp = s.pw.fieldUp)
    (hvariant : t.pw.variantL = s.pw.variantL) : t.peatMain = s.peatMain := by
  rw [State.peatMain, hlogic, hfield, hvariant, State.peatMain]

/-! ### Commits and snapshots (R585 to R587) -/

@[simp] theorem PeatState.commit_seq (p : PeatState) (lc n : Nat) : (p.commit lc n).seq = p.seq := by
  unfold PeatState.commit
  exact (apply_ite PeatState.seq _ _ _).trans (ite_self _)

theorem PeatState.commit_buf (p : PeatState) (lc n : Nat) : (p.commit lc n).buf = { p.buf with
    commits := p.buf.commits + 1, lc := lc, tcount := n, recovered := p.recovered, lost := p.lost } := rfl

/-- Over two live images a commit goes into the one with the lower COMMITS, the second among equals. -/
theorem PeatState.commit_live {p : PeatState} {a b : LedgerRec} (ha : p.live0 = some a) (hb : p.live1 = some b) (lc n : Nat) :
    if a.commits < b.commits then (p.commit lc n).live0 = some (p.commit lc n).buf ∧ (p.commit lc n).live1 = some b
    else (p.commit lc n).live0 = some a ∧ (p.commit lc n).live1 = some (p.commit lc n).buf := by
  by_cases hlower : a.commits < b.commits <;> simp [PeatState.commit, ha, hb, hlower]

theorem State.commitLedger_of_main {s : State} (hmain : s.peatMain = true) :
    s.commitLedger = { s with peat := s.peat.commit s.lcy.st.code s.lcy.count } := if_pos hmain

theorem State.commitLedger_of_no_main {s : State} (hmain : s.peatMain = false) : s.commitLedger = s :=
  if_neg (by simp [hmain])

theorem State.writeSnapshot_none {s : State} (h : s.peat.causes = 0 ∨ s.peatMain = false) : s.writeSnapshot = s :=
  if_pos (by simpa using h)

/-- A snapshot that is written takes the next SEQ, its slot of the ring by it, and the record over one commit. -/
theorem State.writeSnapshot_written {s : State} (hcauses : s.peat.causes ≠ 0) (hmain : s.peatMain = true) :
    s.writeSnapshot.peat.seq = s.peat.seq + 1 ∧ s.writeSnapshot.peat.causes = 0 ∧
      (tget {} s.writeSnapshot.peat.ring ((s.peat.seq + 1).toNat % 254)).seq = s.peat.seq + 1 ∧
      s.writeSnapshot.peat.buf.commits = s.peat.buf.commits + 1 := by
  rw [State.writeSnapshot, if_neg (by simpa [hmain] using hcauses), State.commitLedger_of_main hmain]
  dsimp only
  rw [PeatState.commit_seq, tget_tput_same]
  exact ⟨rfl, rfl, rfl, rfl⟩

theorem tbit_putBit_0 (w : Byte) : tbit (putBit w 0 true) 0 = true := by
  have hw := w.isLt
  simp only [tbit, putBit, putFld, fld, BitVec.getLsbD_ofNat, Nat.testBit_eq_decide_div_mod_eq, Nat.shiftRight_eq_div_pow,
    Bool.toNat_true, Bool.and_eq_true, decide_eq_true_eq]
  omega

theorem State.noteCause_causes_ne (s : State) : (s.noteCause 0).peat.causes ≠ 0 :=
  ne_of_apply_ne (tbit · 0) (ne_of_eq_of_ne (tbit_putBit_0 s.peat.causes) (by decide))

/-! ### The commands -/

theorem execLedgerSample_quiet {s : State} {x : LedgerInputs} (hlost : s.pw.peatLost = false) (hcauses : s.peat.causes = 0)
    (hdue : (s.countSecond.sampleItems x).snapshotDue = false) :
    exec (.ledgerSample x) s = .next (s.countSecond.sampleItems x) := by
  change execLedgerSample x s = _
  have hnone : (s.countSecond.sampleItems x).peat.causes = 0 :=
    (congrArg PeatState.causes (State.countSecond_besideCounters s)).trans hcauses
  simp only [execLedgerSample, hlost, Bool.false_eq_true, if_false, hdue, State.writeSnapshot_none (.inl hnone)]

theorem execLedgerSample_snapshot {s : State} {x : LedgerInputs} (hlost : s.pw.peatLost = false) (hcauses : s.peat.causes ≠ 0)
    (hmain : s.peatMain = true) : ∃ u : State, exec (.ledgerSample x) s = .next u.writeSnapshot ∧ u.peat.causes ≠ 0 ∧
      u.peatMain = true ∧ u.peat.seq = s.peat.seq ∧ u.peat.buf.commits = s.peat.buf.commits := by
  let u := s.countSecond.sampleItems x
  have hbeside := State.countSecond_besideCounters s
  have hpower : u.peatMain = true := (State.peatMain_of_power
    (congrArg PowerState.logic (State.countSecond_pw s)) (congrArg PowerState.fieldUp (State.countSecond_pw s))
    (congrArg PowerState.variantL (State.countSecond_pw s))).trans hmain
  have hseq : u.peat.seq = s.peat.seq := (congrArg PeatState.seq hbeside :)
  have hcommits : u.peat.buf.commits = s.peat.buf.commits := (congrArg (fun p : PeatState => p.buf.commits) hbeside :)
  have hkept : u.peat.causes ≠ 0 := fun h => hcauses ((congrArg PeatState.causes hbeside).symm.trans h)
  have hnext : exec (.ledgerSample x) s = .next (if u.snapshotDue then u.noteCause 0 else u).writeSnapshot := by
    change execLedgerSample x s = _
    simp only [execLedgerSample, hlost, Bool.false_eq_true, if_false, u]
  refine ⟨_, hnext, ?_⟩
  split
  · exact ⟨State.noteCause_causes_ne u, hpower, hseq, hcommits⟩
  · exact ⟨hkept, hpower, hseq, hcommits⟩

theorem exec_ledgerCommit_quiet {s : State} (hcauses : s.peat.causes = 0) : exec .ledgerCommit s = .next s.commitLedger :=
  congrArg Host.Outcome.next (if_pos hcauses)

theorem exec_ledgerCommit_snapshot {s : State} (hcauses : s.peat.causes ≠ 0) : exec .ledgerCommit s = .next s.writeSnapshot :=
  congrArg Host.Outcome.next (if_neg hcauses)

/-- Settles O48: a second by its counters, its samples and the snapshot that ends it, a commit by the live image that it writes. -/
theorem peatLedger : Obligations.PeatLedger := by
  unfold Obligations.PeatLedger
  refine ⟨?lost, ?counters, ?items, ?snapshot, ?unpowered, ?commit, ?images, ?committed⟩
  case lost =>
    intro s x hlost
    exact if_pos hlost
  case counters =>
    intro s x hlost hcauses hdue
    have hbeside := State.countSecond_besideCounters s
    refine completes_of_exec (execLedgerSample_quiet hlost hcauses hdue) ⟨(congrArg PeatState.seq hbeside :),
      (congrArg PeatState.live0 hbeside :), (congrArg PeatState.live1 hbeside :), ?_⟩ rfl
    change tget 0 s.countSecond.peat.buf.counters 0 = _ ∧ tget 0 s.countSecond.peat.buf.counters 1 = _ ∧
      tget 0 s.countSecond.peat.buf.counters 2 = _
    rw [State.countSecond_counters]
    refine ⟨?_, ?_, ?_⟩
    · rw [tget_counted_other _ _ (by decide), tget_counted_other _ _ (by decide), tget_counted_same]
      simp
    · rw [tget_counted_other _ _ (by decide), tget_counted_same, tget_counted_other _ _ (by decide)]
    · rw [tget_counted_same, tget_counted_other _ _ (by decide), tget_counted_other _ _ (by decide)]
      cases s.peatMain <;> rfl
  case items =>
    intro s x i hlost hcauses hdue
    have hitems : s.countSecond.peat.buf.items = s.peat.buf.items :=
      (congrArg (fun p : PeatState => p.buf.items) (State.countSecond_besideCounters s) :)
    have hitem := State.sampleItems_item s.countSecond x i
    rw [State.countSecond_itemValue, hitems] at hitem
    exact completes_of_exec (execLedgerSample_quiet hlost hcauses hdue) ⟨hitem, rfl, rfl⟩ rfl
  case snapshot =>
    intro s x hlost hcauses hmain
    obtain ⟨u, hnext, hcauses', hmain', hseq, hcommits⟩ := execLedgerSample_snapshot hlost hcauses hmain
    have hwritten := State.writeSnapshot_written hcauses' hmain'
    rw [hseq, hcommits] at hwritten
    exact completes_of_exec hnext hwritten rfl
  case unpowered =>
    intro s hmain
    by_cases hcauses : s.peat.causes = 0
    · rw [exec_ledgerCommit_quiet hcauses, State.commitLedger_of_no_main hmain]
    · rw [exec_ledgerCommit_snapshot hcauses, State.writeSnapshot_none (.inr hmain)]
  case commit =>
    intro s hmain hcauses
    rw [exec_ledgerCommit_quiet hcauses, State.commitLedger_of_main hmain]
  case images =>
    intro s a b hmain hcauses ha hb
    refine completes_of_exec ((exec_ledgerCommit_quiet hcauses).trans
      (congrArg Host.Outcome.next (State.commitLedger_of_main hmain))) ?_ rfl
    exact ⟨rfl, rfl, rfl, rfl, PeatState.commit_live ha hb _ _⟩
  case committed =>
    intro s hmain hcauses
    obtain ⟨hseq, hnone, hring, _⟩ := State.writeSnapshot_written hcauses hmain
    exact completes_of_exec (exec_ledgerCommit_snapshot hcauses) ⟨hseq, hnone, hring⟩ rfl

end Sys2Proof.Machine
end

section
/-! PROOFS. What the persistent configuration leaves of the power state (R327, R615): the registers that it writes touch its notes of
events and nothing else of it. -/

namespace Sys2Proof.Machine

/-- Every part but the power part. -/
abbrev notPw : List Area :=
  [.pending, .regs, .time, .hif, .stp, .cmb, .blk, .cnv, .fio, .mir, .bog, .wag, .twn, .saf, .drn, .leg, .lcy, .peat, .seen, .out, .freeIdx]

theorem State.pw_kept {s t : State} (h : t.mask notPw = s.mask notPw) : t.pw = s.pw := State.only_pw h rfl

/-- The power state without the notes that a register write sets or clears (R13, R611). -/
def PowerState.besideNotes (p : PowerState) : PowerState :=
  { p with lockWrSeen := false, retInval := false, holdupLowSeen := false, peatLossSeen := false, rstSeen := false, stuckSeen := false,
           frefFbSeen := false }

@[simp] theorem ite_besideNotes {c : Prop} {_ : Decidable c} (s t : State) :
    (if c then s else t).pw.besideNotes = if c then s.pw.besideNotes else t.pw.besideNotes :=
  apply_ite (fun u : State => u.pw.besideNotes) _ _ _

@[simp] theorem State.noteLock_besideNotes (s : State) (b : Nat) (changes : Bool) :
    (s.noteLock b changes).pw.besideNotes = s.pw.besideNotes := by
  unfold State.noteLock
  split <;> rfl

@[simp] theorem PowerState.clearSeen_besideNotes (p : PowerState) (off : Nat) (w : Word) :
    (p.clearSeen off w).besideNotes = p.besideNotes := by
  unfold PowerState.clearSeen
  repeat' split
  all_goals rfl

@[simp] theorem State.setReg_pw (s : State) (off : Nat) (w : Word) : (s.setReg off w).pw = s.pw := rfl

@[simp] theorem State.writeBits_besideNotes (s : State) (off : Nat) (w : Word) :
    (s.writeBits off w).pw.besideNotes = s.pw.besideNotes := by
  simp [State.writeBits]

/-! ### The registers of the persistent configuration (R615) -/

theorem execCanEnable_besideNotes (c : Fin 4) (w : Word) (s : State) :
    (after s (execCanEnable c w s)).pw.besideNotes = s.pw.besideNotes := by
  unfold execCanEnable
  extract_lets k n u
  have hn : u.pw.besideNotes = s.pw.besideNotes := by simp [u, n]
  clear_value u
  split
  · rfl
  · split
    · split
      · simpa using hn
      · simp
    · rw [after_next, ite_besideNotes, State.pw_kept (State.canOffNow_mask rfl _ _), hn, ite_self]

theorem execUartEnable_besideNotes (u : Fin 4) (w : Word) (s : State) :
    (after s (execUartEnable u w s)).pw.besideNotes = s.pw.besideNotes := by
  unfold execUartEnable
  extract_lets k n n' m
  have hm : m.pw.besideNotes = s.pw.besideNotes := by simp [m, n', n]
  clear_value m
  split
  · rfl
  · split
    · split
      · simpa using hm
      · simp
    · rw [after_next, ite_besideNotes, State.pw_kept (State.uartOffNow_mask rfl _ _), hm, ite_self]

theorem execGpConfigWrite_besideNotes (reg : GpReg) (w : Word) (s : State) :
    (after s (execGpConfigWrite reg w s)).pw.besideNotes = s.pw.besideNotes := by
  unfold execGpConfigWrite
  split
  · rfl
  · cases reg with
    | gpCfg =>
      dsimp only
      split <;> simp
    | pbCtrl =>
      dsimp only
      split
      · simp
      · split
        · split
          · simp [State.pw_kept (State.gpChanged_mask rfl _ _)]
          · simp
        · simp [State.pw_kept (State.gpChanged_mask rfl _ _), State.pw_kept (State.pbOffNow_mask rfl _)]

theorem execCmbClassWrite_besideNotes (c : Fin 8) (w : Word) (s : State) :
    (after s (execCmbClassWrite c w s)).pw.besideNotes = s.pw.besideNotes := by
  simp [execCmbClassWrite]

theorem execRegisterWrite_besideNotes (offset : BitVec 16) (w : Word) (s : State) :
    (after s (execRegisterWrite offset w s)).pw.besideNotes = s.pw.besideNotes := by
  unfold execRegisterWrite
  dsimp only
  split
  · rfl
  · split <;> simp

@[simp] theorem State.persistReg_besideNotes (s : State) (off : Nat) (w : Word) :
    (s.persistReg off w).pw.besideNotes = s.pw.besideNotes := by
  unfold State.persistReg
  extract_lets cl claimed en
  have hclaimed (j : Judged (List Claim)) {t : State} (ht : t.pw.besideNotes = s.pw.besideNotes) :
      (claimed j t).pw.besideNotes = s.pw.besideNotes := by
    cases j with
    | refused c r => rfl
    | ok x => exact ht
  clear_value claimed
  split
  · exact hclaimed _ (execCanEnable_besideNotes _ w s)
  · split
    · exact hclaimed _ (execUartEnable_besideNotes _ w s)
    · split
      · exact hclaimed _ (execGpConfigWrite_besideNotes _ w s)
      · split
        · split
          · rfl
          · exact hclaimed _ (execGpConfigWrite_besideNotes _ w s)
        · split
          · rw [State.setReg_pw, State.writeBits_besideNotes]
          · split
            · exact congrArg PowerState.besideNotes (State.pw_kept (State.writeTpo_mask rfl s _ w))
            · split
              · exact execCmbClassWrite_besideNotes _ w s
              · exact execRegisterWrite_besideNotes _ w s

theorem State.bootItem_besideNotes (s : State) (warm : Bool) (old : Sparse TaskRt) (it : PersistItem) :
    (s.bootItem warm old it).pw.besideNotes = s.pw.besideNotes := by
  cases it with
  | reg off w => exact State.persistReg_besideNotes s off w
  | table t first data => exact congrArg PowerState.besideNotes (State.pw_kept (State.loadItem_mask rfl s _))
  | image t b => exact congrArg PowerState.besideNotes (State.pw_kept (State.bootImage_mask rfl s _ _ t b))

theorem State.loadPersistent_besideNotes (s : State) (warm : Bool) :
    (s.loadPersistent warm).pw.besideNotes = s.pw.besideNotes :=
  foldl_keeps (fun u : State => u.pw.besideNotes) (fun u it => u.bootItem_besideNotes warm _ it) _ _

end Sys2Proof.Machine
end

section
/-! PROOFS. Power, restarts and boot (R28, R31, R32, R46, R555, R575, R593 to R608, R636): what a reset of either side leaves of the power
state, of its registers and of its outputs. -/

namespace Sys2Proof.Machine

/-! ### A reset of the logic side (R31, R598, R613) -/

theorem State.closeDebug_pw (s : State) : s.closeDebug.pw = s.pw := State.pw_kept (State.closeDebug_mask rfl s)

theorem State.logicReset_pw (s : State) : s.logicReset.pw = s.pw.logicReset := by
  have h : s.logicReset.pw = s.resetRings.closeDebug.pw.logicReset := rfl
  rw [h, State.closeDebug_pw, State.pw_kept (State.resetRings_mask rfl s)]

theorem State.holdLogic_pw (s : State) (cold : Bool) (cause : Nat) : (s.holdLogic cold cause).pw = { s.pw.logicReset with
    logic := .held, restart := some { cold := cold, cause := cause }, retention := s.pw.retention && !cold } := by
  have h : (s.holdLogic cold cause).pw = { s.logicReset.pw with
      logic := .held, restart := some { cold := cold, cause := cause }, retention := s.logicReset.pw.retention && !cold } := rfl
  rw [h, State.logicReset_pw]
  rfl

theorem State.holdLogic_regs (s : State) (cold : Bool) (cause : Nat) : (s.holdLogic cold cause).regs = [] := rfl

theorem State.logicOff_pw (s : State) (cause : Nat) : (s.logicOff cause).pw = { s.pw.logicReset with
    logic := .off, restart := some { cold := true, cause := cause }, retention := false, lpllLock := false, mpllLock := false
    eject := false, ejectGone := false } := by
  have h : (s.logicOff cause).pw = { (if s.pw.variantL then s.commitLedger else s).logicReset.pw with
      logic := .off, restart := some { cold := true, cause := cause }, retention := false, lpllLock := false, mpllLock := false
      eject := false, ejectGone := false } := rfl
  rw [h, State.logicReset_pw]
  split
  · rw [State.pw_kept (State.commitLedger_mask rfl s)]
  · rfl

/-- A logic side without power has lost the retention region, the registers, the locks and the Bog, and starts cold. -/
theorem State.logicOff_lost (s : State) (cause : Nat) : (s.logicOff cause).pw.logic = .off ∧
    (s.logicOff cause).pw.restart = some { cold := true, cause := cause } ∧ (s.logicOff cause).pw.retention = false ∧
    (s.logicOff cause).pw.lock = 0 ∧ (s.logicOff cause).regs = [] ∧ (s.logicOff cause).bog = [] := by
  rw [State.logicOff_pw]
  exact ⟨rfl, rfl, rfl, rfl, rfl, rfl⟩

/-! ### A reset of the field side (R490, R496, R593) -/

theorem State.fieldDown_pw (s : State) : s.fieldDown.pw = { s.pw with
    fieldUp := false, p3 := false, fpllLock := false, frefFb := false, frefReturn := false, logicAbsent := true } := by
  have h : s.fieldDown.pw = { s.commitLedger.closeDebug.loseTables.pw with
      fieldUp := false, p3 := false, fpllLock := false, frefFb := false, frefReturn := false, logicAbsent := true } := rfl
  rw [h, State.pw_kept (State.loseTables_mask rfl _), State.closeDebug_pw, State.pw_kept (State.commitLedger_mask rfl _)]

theorem State.fieldStart_pw (s : State) : s.fieldStart.pw = { s.pw with
    fieldUp := true, p0 := true, p3 := false, logicAbsent := true, missedMarks := 20, fpllLock := true, frefFb := false
    frefReturn := false } := by
  have h : s.fieldStart.pw = { s.closeDebug.pw with
      fieldUp := true, p0 := true, p3 := false, logicAbsent := true, missedMarks := 20, fpllLock := true, frefFb := false
      frefReturn := false } := rfl
  rw [h, State.closeDebug_pw]

theorem State.fieldDown_outputs (s : State) : s.fieldDown.fio.hs = [] ∧ s.fieldDown.fio.dac = [] ∧ s.fieldDown.fio.pul = [] :=
  ⟨rfl, rfl, rfl⟩

theorem State.fieldStart_outputs (s : State) : s.fieldStart.fio.hs = [] ∧ s.fieldStart.fio.dac = [] ∧ s.fieldStart.fio.pul = [] :=
  ⟨rfl, rfl, rfl⟩

@[simp] theorem State.adoptHalf_logic (s : State) (old new : Activation) : (s.adoptHalf old new).pw.logic = s.pw.logic := by
  unfold State.adoptHalf
  split
  · rfl
  · split
    · rw [State.fieldStart_pw, State.fieldDown_pw]
    · split <;> rfl

/-! ### Power-ups (R555, R593, R597) -/

/-- A power-up of the PEAT side compares the three copies, after PEAT loss two of them. -/
theorem State.peatPowerUp_copies (s : State) :
    s.peatPowerUp.lcy.mram = s.peatPowerUp.lcy.peat ∧ s.peatPowerUp.lcy.nor = s.peatPowerUp.lcy.peat := by
  unfold State.peatPowerUp
  extract_lets lost old copy l t u
  have hu : u.lcy = l.reconcile := State.lcy_kept (State.ledgerPowerUp_mask rfl t lost)
  split
  · rw [State.lcy_kept (State.powerIrq_mask rfl _), State.countLedger_lcy, hu]
    exact ⟨rfl, rfl⟩
  · rw [hu]
    exact ⟨rfl, rfl⟩

/-- What it touches of the power state are the notes of PEAT loss. -/
theorem State.peatPowerUp_pw (s : State) : s.peatPowerUp.pw = if s.pw.peatLost then
    { s.pw with peatLost := false, tamper := true, peatLossSeen := true } else s.pw := by
  unfold State.peatPowerUp
  extract_lets lost old copy l t u
  have hu : u.pw = s.pw := State.pw_kept (State.ledgerPowerUp_mask rfl t lost)
  split
  · rw [State.pw_kept (State.powerIrq_mask rfl _), State.countLedger_pw]
    exact congrArg (fun p : PowerState => { p with peatLost := false, tamper := true, peatLossSeen := true }) hu
  · exact hu

theorem exec_logicPowerUp {s : State} (hoff : s.pw.logic = .off) : exec .logicPowerUp s =
    .next (if s.pw.variantL then (s.setPw { s.pw with logic := .held, v12Ok := true, pres := true }).peatPowerUp
      else State.setLcy (s.setPw { s.pw with logic := .held, v12Ok := true, pres := true }) s.lcy.reconcile) :=
  if_neg (by simp [hoff])

/-- The restart that a release from reset begins: the one asked for, else a cold one without a cause. -/
abbrev PowerState.begins (p : PowerState) : RestartReq := p.restart.getD { cold := true, cause := 0 }

/-- The time bases at a release from reset: zero after a cold start and after a loss of the logic PLL, in a new epoch (R46). -/
def State.releaseTime (s : State) : TimeState :=
  if s.pw.begins.cold || !s.pw.lpllLock then
    { s.time with tb0 := {}, tb1 := {}, tb2 := {}, tb3 := {}, tb2Wraps := 0
                  tb2Epoch := if s.pw.begins.cause = 0 then 0 else s.time.tb2Epoch + 1 }
  else s.time

theorem exec_logicResetRelease {s : State} (hheld : s.pw.logic = .held) (hv12 : s.pw.v12Ok = true) (hpres : s.pw.pres = true) :
    ∃ u : State, exec .logicResetRelease s = .next u ∧ u.time = s.releaseTime ∧ u.pw = { s.pw with
      logic := .boot, p0 := false, cause := s.pw.begins.cause, restart := none, starting := some s.pw.begins, rstSeen := true
      lpllLock := true, mpllLock := true, holdupLowSeen := s.pw.holdupLow } := by
  refine ⟨_, if_neg (by simp [hheld, hv12, hpres]), rfl, ?_⟩
  rw [State.setPw_pw]
  split <;> rfl

/-! ### The boot stage (R32, R258, R575) -/

theorem exec_bootFailed {s : State} (retentionOk : Bool) (hboot : s.pw.logic = .boot) (hnone : s.lcy.fallbackOk = false) :
    exec (.logicBootVerified false retentionOk) s = .next { s with pw := { s.pw with logic := .failed } } := by
  change execLogicBootVerified false retentionOk s = _
  simp [execLogicBootVerified, hboot, hnone, State.setPw]

theorem exec_bootFallback {s : State} (retentionOk : Bool) (hboot : s.pw.logic = .boot) (hfallback : s.lcy.fallbackOk = true) :
    exec (.logicBootVerified false retentionOk) s = .next s.bootFallback := by
  change execLogicBootVerified false retentionOk s = _
  simp [execLogicBootVerified, hboot, hfallback]

/-- The slot in force, and whether there is another one to fall back to. -/
def LcyState.bootSlot (l : LcyState) : Bool × Bool := (l.slotB, l.fallbackOk)

theorem State.adoptHalf_bootSlot (s : State) (old new : Activation) : (s.adoptHalf old new).lcy.bootSlot = s.lcy.bootSlot := by
  unfold State.adoptHalf
  split
  · rfl
  · split
    · have h : s.fieldDown.fieldStart.lcy = s.fieldDown.closeDebug.lcy.fieldKeys := rfl
      have h' : s.fieldDown.lcy = { s.commitLedger.closeDebug.loseTables.lcy with fieldKey := none } := rfl
      rw [h, State.closeDebug_lcy, h', State.lcy_kept (State.loseTables_mask rfl _), State.closeDebug_lcy,
        State.lcy_kept (State.commitLedger_mask rfl _)]
      rfl
    · split <;> rfl

theorem State.bootFallback_falls (s : State) : s.bootFallback.pw.logic = s.pw.logic ∧
    s.bootFallback.lcy.bootSlot = (!s.lcy.slotB, false) := by
  unfold State.bootFallback
  dsimp only
  rw [State.raise_pw, State.raise_lcy, State.adoptHalf_logic, State.adoptHalf_bootSlot, State.countLogic_lcy, State.countLogic_pw]
  exact ⟨rfl, rfl⟩

end Sys2Proof.Machine
end

section
/-! PROOFS. The statements about reset, power, restarts and the eject lever (R28, R31, R46, R490, R519, R593 to R608, R636): each command
by the state that it answers. -/

namespace Sys2Proof.Machine

/-- Settles O54: reset is the State of every field's initial value. -/
theorem resetLeaves : Obligations.ResetLeaves := by
  unfold Obligations.ResetLeaves
  exact ⟨⟨rfl, rfl, rfl, rfl, rfl, rfl⟩, fun _ => ⟨rfl, rfl⟩, fun _ _ => ⟨rfl, rfl, rfl, rfl⟩, rfl, rfl, rfl, rfl⟩

/-! ### Phase P3 and the run state (R32, R519, R575) -/

/-- Of the power state the judgement of phase P3 may set P3 alone. -/
theorem State.judgePhase_pw (s : State) : ∃ p3, s.judgePhase.pw = { s.pw with p3 := p3 } := by
  unfold State.judgePhase
  extract_lets d pw drn t
  split
  · exact ⟨_, rfl⟩
  · refine ⟨true, ?_⟩
    split
    · rw [State.pw_kept (State.confirmActivation_mask rfl t)]
    · rfl

/-- The start that a verified slot makes is warm: it was to be warm, and the retention region is valid and found intact. -/
abbrev State.bootsWarm (s : State) (retentionOk : Bool) : Bool :=
  !(s.pw.starting.getD { cold := true, cause := 0 }).cold && s.pw.retention && retentionOk

/-- A verified slot takes the logic side into its run state; what its persistent configuration writes are notes. -/
theorem exec_booted {s : State} (retentionOk : Bool) (hboot : s.pw.logic = .boot) : ∃ u : State,
    exec (.logicBootVerified true retentionOk) s = .next u ∧ u.pw.logic = .run ∧ u.pw.cfgDone = true ∧ u.pw.retention = true ∧
      u.pw.warm = s.bootsWarm retentionOk := by
  change ∃ u, execLogicBootVerified true retentionOk s = .next u ∧ _
  unfold execLogicBootVerified
  rw [if_neg (by simp [hboot]), if_neg (by decide)]
  extract_lets r warm turned zeroed counted pw loaded pw' fio running linked
  have hloaded : loaded.pw.besideNotes = _ := State.loadPersistent_besideNotes _ warm
  have hlinked : linked.pw = running.pw := by
    unfold linked
    split
    · exact State.pw_kept (State.takeRole_mask rfl running)
    · rfl
  obtain ⟨p3, hp3⟩ := State.judgePhase_pw linked
  refine ⟨_, rfl, ?_⟩
  rw [hp3, hlinked]
  exact ⟨rfl, (congrArg PowerState.cfgDone hloaded :), (congrArg PowerState.retention hloaded :),
    (congrArg PowerState.warm hloaded :)⟩

/-! ### Restarts (R28, R599, R602, R605) -/

theorem exec_restartReset {s : State} {r : RestartReq} (hrun : s.pw.logic = .run) (hasked : s.pw.restart = some r)
    (hholder : s.twn.st ≠ .holder) : exec .restartReset s = .next (s.holdLogic r.cold r.cause) := by
  change execRestartReset s = _
  simp [execRestartReset, State.takeRestart, hrun, hasked, hholder]

theorem exec_pllLockLoss {s : State} (hawake : s.pw.logic = .boot ∨ s.pw.logic = .run) : exec .pllLockLoss s =
    .next ((s.setPw { s.pw with lpllLock := false, mpllLock := false }).holdLogic false 5) := by
  change execPllLockLoss s = _
  rcases hawake with h | h <;> simp [execPllLockLoss, State.setPw, h]

theorem exec_resetInputRelease {s : State} {ns : Nat} (hlow : 20000000 ≤ ns) (hhigh : ns ≤ 8000000000) (hrun : s.pw.logic = .run)
    (heject : s.pw.eject = false) (hstuck : s.pw.stuck = false) : exec (.resetInputRelease ns) s =
    .next (((s.setPw { s.pw with rstCnt := satInc 0xFFFF s.pw.rstCnt }).countLogic 6).warmRestart 1 .reset) :=
  if_neg (by simp [hrun, heject, hstuck, Nat.not_lt.mpr hlow, Nat.not_lt.mpr hhigh])

theorem exec_ejectLeverReturned {s : State} (heject : s.pw.eject = true) (hpres : s.pw.pres = true)
    (hfield : s.pw.variantL = true ∨ s.pw.presFx = true) (hlogic : s.pw.logic ≠ .off) : exec .ejectLeverReturned s =
    .next (State.holdLogic (State.powerIrq (s.setPw { s.pw with eject := false, ejectGone := false })) false 8) :=
  if_neg (by rcases hfield with h | h <;> simp [heject, hpres, hlogic, h])

theorem exec_restart {s : State} {p : Pair} {e : Entry} (htake : s.takeParam p 1 0 1 = some e) (hacts : s.roleActs = true) :
    exec (.restart p) s = doRestart p s := by
  change s.asOwnChange p (s.takeParam p 1 0 1) (doRestart p) = _
  simp [State.asOwnChange, htake, hacts]

theorem exec_restart_refused {s : State} {p : Pair} {e : Entry} (htake : s.takeParam p 1 0 1 = some e)
    (hacts : s.roleActs = false) : exec (.restart p) s = .next (s.finish p.val e.sub 0x70 0) := by
  change s.asOwnChange p (s.takeParam p 1 0 1) (doRestart p) = _
  simp [State.asOwnChange, htake, hacts]

/-- Settles O6: RESTART by its operand, whether the lever has been pulled, and whether the member acts. -/
theorem restartByTheHost : Obligations.RestartByTheHost := by
  unfold Obligations.RestartByTheHost
  refine ⟨?asked, ?operand, ?ejected, fun s p e htake hacts => exec_restart_refused htake hacts⟩
  case asked =>
    intro s p e htake hacts heject hvalue hnone
    rw [exec_restart htake hacts]
    rcases hvalue with h | h <;>
      simp [doRestart, htake, h, heject, State.askRestart, State.setPw, hnone]
  case operand =>
    intro s p e htake hacts hwarm hcold
    rw [exec_restart htake hacts]
    simp [doRestart, htake, hwarm, hcold]
  case ejected =>
    intro s p e htake hacts hvalue heject
    rw [exec_restart htake hacts]
    rcases hvalue with h | h <;> simp [doRestart, htake, h, heject]

/-- Settles O1: each command by what it answers; a reset of the logic side by what it leaves of the power state. -/
theorem powerUpOfTheLogicSide : Obligations.PowerUpOfTheLogicSide := by
  unfold Obligations.PowerUpOfTheLogicSide
  refine ⟨?powerUp, ?release, ?booted, fun s retentionOk => exec_bootFailed retentionOk, ?fallback, ?restart⟩
  case powerUp =>
    intro s hoff
    refine completes_of_exec (exec_logicPowerUp hoff) ?_ rfl
    split
    · rw [State.peatPowerUp_pw]
      refine ⟨?_, ?_, ?_, State.peatPowerUp_copies _⟩ <;> split <;> rfl
    · exact ⟨rfl, rfl, rfl, rfl, rfl⟩
  case release =>
    intro s hheld hv12 hpres
    obtain ⟨u, hnext, htime, hpw⟩ := exec_logicResetRelease hheld hv12 hpres
    refine completes_of_exec hnext ?_ rfl
    rw [hpw, htime]
    refine ⟨rfl, rfl, rfl, rfl, rfl, ?_⟩
    unfold State.releaseTime
    split
    · next h => rw [if_pos (by simpa using h)]
    · next h => rw [if_neg (by simpa using h)]
  case booted =>
    intro s retentionOk hboot
    obtain ⟨u, hnext, hbooted⟩ := exec_booted retentionOk hboot
    exact completes_of_exec hnext hbooted rfl
  case fallback =>
    intro s retentionOk hboot hfallback
    obtain ⟨hlogic, hslot⟩ := State.bootFallback_falls s
    exact ⟨_, exec_bootFallback retentionOk hboot hfallback,
      ⟨hlogic.trans hboot, congrArg Prod.fst hslot, congrArg Prod.snd hslot⟩, State.bootFallback_mask rfl s⟩
  case restart =>
    intro s r hrun hasked hholder
    refine completes_of_exec (exec_restartReset hrun hasked hholder) ?_ rfl
    rw [State.holdLogic_pw]
    exact ⟨rfl, rfl, rfl, rfl, rfl⟩

/-! ### Losses of power (R593, R597, R636) -/

theorem exec_v12OutOfRange {s : State} (hlogic : s.pw.logic ≠ .off) :
    exec .v12OutOfRange s = .next ((s.setPw { s.pw with v12Ok := false }).logicOff 7) :=
  congrArg Host.Outcome.next (if_neg hlogic)

theorem exec_logicOvertemp {s : State} (hlogic : s.pw.logic ≠ .off) : exec .logicOvertemp s = .next (s.logicOff 7) :=
  congrArg Host.Outcome.next (if_neg hlogic)

theorem exec_presenceRelease_logic {s : State} (hlogic : s.pw.logic ≠ .off) :
    exec (.presenceRelease .logic) s = .next ((s.setPw { s.pw with pres := false }).logicOff 0) :=
  congrArg Host.Outcome.next (if_neg hlogic)

theorem exec_presenceRelease_field {s : State} (hup : s.pw.fieldUp = true) :
    exec (.presenceRelease .field) s = .next (s.setPw { s.pw with presFx := false }).fieldDown :=
  congrArg Host.Outcome.next (if_pos hup)

theorem exec_fieldPowerLoss {s : State} (hup : s.pw.fieldUp = true) : exec .fieldPowerLoss s = .next s.fieldDown :=
  congrArg Host.Outcome.next (if_pos hup)

theorem exec_fieldPowerGood {s : State} (hvariant : s.pw.variantL = false) (hdown : s.pw.fieldUp = false) :
    exec .fieldPowerGood s = .next (((State.fieldStart (s.setPw { s.pw with presFx := true })).peatPowerUp.countLedger 3).noteCause 1) :=
  if_neg (by simp [hvariant, hdown])

/-- Settles O2: what each loss of power leaves of its side, by the two operations that take a side down. -/
theorem lossOfPower : Obligations.LossOfPower := by
  unfold Obligations.LossOfPower
  refine ⟨?v12, ?overtemp, ?pres, ?presFx, ?fieldLoss, ?peatLoss, ?fieldGood⟩
  case v12 =>
    intro s hlogic
    obtain ⟨hoff, hrestart, hretention, hlock, hregs, hbog⟩ := State.logicOff_lost (s.setPw { s.pw with v12Ok := false }) 7
    have hv12 : ((s.setPw { s.pw with v12Ok := false }).logicOff 7).pw.v12Ok = false := by
      rw [State.logicOff_pw]
      rfl
    exact completes_of_exec (exec_v12OutOfRange hlogic) ⟨hoff, hv12, hrestart, hretention, hlock, hregs, hbog⟩ rfl
  case overtemp =>
    intro s hlogic
    exact completes_of_exec (exec_logicOvertemp hlogic) (State.logicOff_lost s 7) rfl
  case pres =>
    intro s hlogic
    obtain ⟨hoff, hrestart, hretention, hlock, hregs, hbog⟩ := State.logicOff_lost (s.setPw { s.pw with pres := false }) 0
    have hpres : ((s.setPw { s.pw with pres := false }).logicOff 0).pw.pres = false := by
      rw [State.logicOff_pw]
      rfl
    exact completes_of_exec (exec_presenceRelease_logic hlogic) ⟨hoff, hpres, hrestart, hretention, hlock, hregs, hbog⟩ rfl
  case presFx =>
    intro s hup
    refine ⟨_, exec_presenceRelease_field hup, ?_, (State.fieldDown_mask rfl _).trans (State.setPw_mask rfl s _)⟩
    beta_reduce
    rw [State.fieldDown_pw]
    exact ⟨rfl, rfl, rfl, rfl, rfl, rfl⟩
  case fieldLoss =>
    intro s hup
    refine completes_of_exec (exec_fieldPowerLoss hup) ?_ rfl
    rw [State.fieldDown_pw]
    exact ⟨rfl, rfl, rfl, rfl, rfl⟩
  case peatLoss =>
    intro s hmain
    exact congrArg Host.Outcome.next (if_neg (by simp [hmain]))
  case fieldGood =>
    intro s hvariant hdown
    have hfio : (State.fieldStart (s.setPw { s.pw with presFx := true })).peatPowerUp.fio =
        (State.fieldStart (s.setPw { s.pw with presFx := true })).fio :=
      State.only_fio (State.peatPowerUp_mask (qs := [.pw, .hif, .lcy, .peat, .out]) rfl _) rfl
    refine completes_of_exec (exec_fieldPowerGood hvariant hdown) ?_ rfl
    rw [State.pw_kept (State.noteCause_mask rfl _ _), State.countLedger_pw, State.peatPowerUp_pw, State.fieldStart_pw]
    refine ⟨?_, ?_, congrArg FioState.hs hfio, congrArg FioState.dac hfio, congrArg FioState.pul hfio, ?_⟩ <;> split <;> rfl

/-! ### The supply's signals (R594, R595, R608) -/

theorem exec_pwrfail {s : State} (hnone : s.pw.pwrfail = false) (hawake : s.pw.logic = .boot ∨ s.pw.logic = .run) :
    exec .pwrfail s = .next (if s.rbit 0x0100 9 then
      ((s.setPw { s.pw with pwrfail := true }).powerIrq).offerHandover .powerFail
      else (s.setPw { s.pw with pwrfail := true }).powerIrq) := by
  have hreg : (s.setPw { s.pw with pwrfail := true }).powerIrq.rbit 0x0100 9 = s.rbit 0x0100 9 := by
    have hregs : (s.setPw { s.pw with pwrfail := true }).powerIrq.regs = (s.setPw { s.pw with pwrfail := true }).regs :=
      State.only_regs (State.powerIrq_mask (qs := [.hif, .out]) rfl _) rfl
    rw [State.rbit, State.reg, hregs]
    rfl
  change execPwrfail s = _
  unfold execPwrfail
  rw [if_neg (by rcases hawake with h | h <;> simp [hnone, h])]
  dsimp only
  rw [hreg]

/-- Settles O3: the signals by the states that they answer. -/
theorem supplyAndPowerFailSignals : Obligations.SupplyAndPowerFailSignals := by
  unfold Obligations.SupplyAndPowerFailSignals
  refine ⟨?same, ?change, ?handover, ?alone, ?release, ?pll⟩
  case same =>
    intro s ok mv hsame
    change execHoldupChange ok mv s = _
    unfold execHoldupChange
    dsimp only
    rw [← hsame, if_neg (by simp)]
    rfl
  case change =>
    intro s ok mv hchange
    have hlow : (!ok || decide (mv.toNat < 11400)) = !s.pw.holdupLow := Bool.eq_not.mpr (Ne.symm hchange)
    change execHoldupChange ok mv s = _
    unfold execHoldupChange
    dsimp only
    rw [hlow, if_pos (by simp)]
    rfl
  case handover =>
    intro s hnone hawake hen
    rw [exec_pwrfail hnone hawake, if_pos hen]
    rfl
  case alone =>
    intro s hnone hawake hdis
    rw [exec_pwrfail hnone hawake, if_neg (by simp [hdis])]
    rfl
  case release =>
    intro s hset
    exact congrArg Host.Outcome.next (if_pos hset)
  case pll =>
    intro s hawake
    refine completes_of_exec (exec_pllLockLoss hawake) ?_ rfl
    rw [State.holdLogic_pw]
    exact ⟨rfl, rfl, rfl, Bool.and_true _, rfl⟩

/-! ### The reset input (R600 to R602) -/

theorem exec_resetInputStuck {s : State} (hawake : s.pw.logic = .boot ∨ s.pw.logic = .run) (hstuck : s.pw.stuck = false) :
    exec .resetInputStuck s = .next ((s.setPw { s.pw with stuck := true, stuckSeen := true }).countLogic 7).powerIrq :=
  if_neg (by rcases hawake with h | h <;> simp [hstuck, h])

/-! ### The eject lever (R604, R605) -/

/-- What the notice sends before the module's steps and parts go: the interrupt, and word to the field side. -/
def State.ejectTold (s : State) : State :=
  let t := ((s.setPw { s.pw with eject := true }).countLogic 8).powerIrq
  if t.pw.variantL then t else t.sendDown .ejectNotice

theorem State.ejectTold_pw (s : State) : s.ejectTold.pw = { s.pw with eject := true } := by
  have h : ((s.setPw { s.pw with eject := true }).countLogic 8).powerIrq.pw = { s.pw with eject := true } := by
    rw [State.pw_kept (State.powerIrq_mask rfl _), State.countLogic_pw, State.setPw_pw]
  unfold State.ejectTold
  dsimp only
  split
  · exact h
  · exact h

theorem exec_ejectNotice {s : State} (hawake : s.pw.logic = .boot ∨ s.pw.logic = .run) (hnone : s.pw.eject = false) :
    exec .ejectNotice s = .next s.ejectTold.ejectPending :=
  if_neg (by rcases hawake with h | h <;> simp [hnone, h])

theorem exec_ejectWithdraw {s : State} (heject : s.pw.eject = true) (hhive : s.isHive = false) :
    exec .ejectWithdraw s = .next { s with pw := { s.pw with ejectGone := true } } := by
  change execEjectWithdraw s = _
  simp [execEjectWithdraw, heject, hhive, State.setPw]

/-- What forces an output of the hold policy to SAFE, where it is not there (R604). -/
def State.forceSafe (s : State) (i : Nat) : State := if (s.holdAt i).atSafe then s else s.toSafe i s.time.shadow.ns

/-- Forcing an output to SAFE takes no output from SAFE, and brings that one there. -/
theorem State.forceSafe_atSafe_same (s : State) (i : Nat) : ((s.forceSafe i).holdAt i).atSafe = true := by
  unfold State.forceSafe
  split
  · assumption
  · exact congrArg (fun x : Bool × Bool × Nat => x.2.1) (State.toSafe_holdSight_same s i _)

theorem State.forceSafe_atSafe_kept {s : State} {i : Nat} (j : Nat) (h : (s.holdAt i).atSafe = true) :
    ((s.forceSafe j).holdAt i).atSafe = true := by
  by_cases hij : j = i
  · subst hij
    exact State.forceSafe_atSafe_same s j
  · unfold State.forceSafe
    split
    · exact h
    · exact (congrArg (fun x : Bool × Bool × Nat => x.2.1) (State.toSafe_holdSight_other s _ hij)).trans h

theorem State.forceSafe_ejected (s : State) (i : Nat) : (s.forceSafe i).fio.ejected = s.fio.ejected := by
  unfold State.forceSafe
  split
  · rfl
  · exact congrArg Prod.fst (State.toSafe_holdSight_same s i _)

theorem State.forceSafe_drn (s : State) (i : Nat) : (s.forceSafe i).drn = s.drn := by
  unfold State.forceSafe
  split
  · rfl
  · exact State.only_drn (State.toSafe_mask (qs := [.fio, .saf, .peat]) rfl s i _) rfl

/-- What stops a pulse output that still moves (R604). -/
def State.stopMoving (s : State) (p : Nat) : State :=
  if (s.pulRt p).moving || decide ((s.pulRt p).rate ≠ 0) then s.pulStop p else s

theorem State.stopMoving_besideOutputs (s : State) (p : Nat) : (s.stopMoving p).besideOutputs = s.besideOutputs := by
  unfold State.stopMoving
  split <;> rfl

theorem State.pulStop_moving_same (s : State) (p : Nat) : ((s.pulStop p).pulRt p).moving = false :=
  congrArg PulRt.moving (tget_tput_same _ _ _ _)

theorem State.stopMoving_moving_same (s : State) (p : Nat) : ((s.stopMoving p).pulRt p).moving = false := by
  unfold State.stopMoving
  split
  · exact State.pulStop_moving_same s p
  · next h => exact (by simpa using h : (s.pulRt p).moving = false ∧ _).1

theorem State.stopMoving_moving_kept {s : State} {p : Nat} (q : Nat) (h : (s.pulRt p).moving = false) :
    ((s.stopMoving q).pulRt p).moving = false := by
  by_cases hpq : p = q
  · subst hpq
    exact State.stopMoving_moving_same s p
  · unfold State.stopMoving
    split
    · exact (congrArg PulRt.moving (tget_tput_other _ _ _ _ _ hpq)).trans h
    · exact h

section
variable (l : List Nat) (s : State)

theorem foldl_forceSafe_ejected : (l.foldl State.forceSafe s).fio.ejected = s.fio.ejected :=
  foldl_keeps (fun u : State => u.fio.ejected) State.forceSafe_ejected l s

theorem foldl_forceSafe_drn : (l.foldl State.forceSafe s).drn = s.drn := foldl_keeps State.drn State.forceSafe_drn l s

theorem foldl_forceSafe_atSafe {i : Nat} (hi : i ∈ l) : ((l.foldl State.forceSafe s).holdAt i).atSafe = true :=
  foldl_of_mem (P := fun u : State => (u.holdAt i).atSafe = true) (fun _ j h => State.forceSafe_atSafe_kept j h)
    (fun u => State.forceSafe_atSafe_same u i) hi s

theorem foldl_stopMoving_moving {p : Nat} (hp : p ∈ l) : ((l.foldl State.stopMoving s).pulRt p).moving = false :=
  foldl_of_mem (P := fun u : State => (u.pulRt p).moving = false) (fun _ q h => State.stopMoving_moving_kept q h)
    (fun u => State.stopMoving_moving_same u p) hp s

/-- Stopping pulse outputs changes no view of what is beside the outputs. -/
theorem foldl_stopMoving_view {β : Type} (view : State → β) (hview : ∀ u : State, view u.besideOutputs = view u) :
    view (l.foldl State.stopMoving s) = view s :=
  foldl_keeps view (fun u p => by rw [← hview, State.stopMoving_besideOutputs, hview]) l s

end

/-- The Drone takes no high-side output and no loop any more. -/
def State.droneLetsGo (s : State) : State := { s with
  fio := { s.fio with ejected := true }
  drn := { s.drn with hsCmd := 0, takeDue := false, loops := tmap {} (fun r => { r with cmd := false }) s.drn.loops } }

theorem exec_ejectForceSafe {s : State} (hup : s.pw.fieldUp = true) (heject : s.pw.eject = true) : exec .ejectForceSafe s =
    .next ((List.range 16).foldl State.stopMoving ((List.range 96).foldl State.forceSafe s.droneLetsGo)) :=
  if_neg (by simp [hup, heject])

/-- Settles O4: a restart by what it leaves of a module that is no holder; EJECT_FORCE_SAFE output by output. -/
theorem resetInputAndEject : Obligations.ResetInputAndEject := by
  unfold Obligations.ResetInputAndEject
  refine ⟨?press, ?stuck, fun s => rfl, ?notice, fun s heject hhive => exec_ejectWithdraw heject hhive, ?forceSafe, ?returned⟩
  case press =>
    intro s ns hlow hhigh hrun heject hstuck hnone hholder
    let u := (s.setPw { s.pw with rstCnt := satInc 0xFFFF s.pw.rstCnt }).countLogic 6
    have hu : u.pw = { s.pw with rstCnt := satInc 0xFFFF s.pw.rstCnt } := State.countLogic_pw _ 6
    have hutwn : u.twn = s.twn := State.countLogic_twn _ 6
    refine completes_of_exec (exec_resetInputRelease hlow hhigh hrun heject hstuck) ?_ rfl
    have hnone' : u.pw.restart = none := (congrArg PowerState.restart hu).trans hnone
    have hholder' : u.twn.st ≠ .holder := ne_of_eq_of_ne (congrArg TwnState.st hutwn) hholder
    rw [State.warmRestart_of_noHolder 1 .reset hnone' hholder', State.holdLogic_pw, State.setPw_pw, hu]
    exact ⟨rfl, rfl, rfl, rfl⟩
  case stuck =>
    intro s hawake hstuck
    refine completes_of_exec (exec_resetInputStuck hawake hstuck) ?_ rfl
    rw [State.pw_kept (State.powerIrq_mask rfl _), State.countLogic_pw, State.setPw_pw]
  case notice =>
    intro s hawake hnone
    refine completes_of_exec (exec_ejectNotice hawake hnone) ?_ rfl
    rw [State.pw_kept (State.ejectPending_mask rfl _), State.ejectTold_pw]
  case forceSafe =>
    intro s hup heject
    refine completes_of_exec (exec_ejectForceSafe hup heject) ⟨?_, ?_, fun i => ?_, fun p => ?_⟩ rfl
    · have hejected := (foldl_stopMoving_view (List.range 16) _ (fun u : State => u.fio.ejected) fun _ => rfl).trans
        (foldl_forceSafe_ejected (List.range 96) s.droneLetsGo)
      exact hejected
    · rw [foldl_stopMoving_view _ _ State.drn fun _ => rfl, foldl_forceSafe_drn]
      rfl
    · have hsafe := (foldl_stopMoving_view (List.range 16) _ (fun u : State => (u.holdAt i.val).atSafe) fun _ => rfl).trans
        (foldl_forceSafe_atSafe (List.range 96) s.droneLetsGo (List.mem_range.mpr i.isLt))
      exact hsafe
    · exact foldl_stopMoving_moving _ _ (List.mem_range.mpr p.isLt)
  case returned =>
    intro s heject hpres hfield hlogic
    refine completes_of_exec (exec_ejectLeverReturned heject hpres hfield hlogic) ?_ rfl
    rw [State.holdLogic_pw, State.pw_kept (State.powerIrq_mask rfl _), State.setPw_pw]
    exact ⟨rfl, rfl, rfl, rfl⟩

end Sys2Proof.Machine
end

section
/-! PROOFS. A descriptor that would change the module completes with 0x70 on a member of a twin that does not act (R449,
R464): the gate that every such command passes first, and the tables that can only be read. -/

namespace Sys2Proof.Machine

theorem State.asChange_of_not_acts {s : State} {p : Pair} {mine : Option Entry} {e : Entry}
    {f : State → Host.Outcome State Fault Refusal} (htake : mine = some e) (hacts : s.roleActs = false) :
    s.asChange p mine f = .next (s.finish p.val e.sub 0x70 0) := by
  simp [State.asChange, htake, hacts]

theorem State.asOwnChange_of_not_acts {s : State} {p : Pair} {mine : Option Entry} {e : Entry}
    {f : State → Host.Outcome State Fault Refusal} (htake : mine = some e) (hacts : s.roleActs = false) :
    s.asOwnChange p mine f = .next (s.finish p.val e.sub 0x70 0) := by
  simp [State.asOwnChange, htake, hacts]

theorem execReadOnlyTableLoad_of_not_acts {s : State} {p : Pair} {e : Entry} {n k : Nat} (hacts : s.roleActs = false)
    (htake : s.takeOp p.val 1 1 = some e) (hshape : tableShape e.tblBlock e.tblNum = some (n, k, false)) :
    execReadOnlyTableLoad p s = .next (s.finish p.val e.sub 0x70 0) := by
  simp [execReadOnlyTableLoad, htake, hshape, hacts]

/-- Settles O59: each of the commands hands its descriptor to the gate for changes, which lets none pass. -/
theorem changesNeedTheActingMember : Obligations.ChangesNeedTheActingMember := by
  unfold Obligations.ChangesNeedTheActingMember
  exact ⟨fun _ _ _ hacts htake => State.asChange_of_not_acts htake hacts,
    fun _ _ _ hacts htake => State.asChange_of_not_acts htake hacts,
    fun _ _ _ hacts htake => State.asChange_of_not_acts htake hacts,
    fun _ _ _ hacts htake => State.asChange_of_not_acts htake hacts,
    fun _ _ _ hacts htake => State.asChange_of_not_acts htake hacts,
    fun _ _ _ hacts htake => State.asChange_of_not_acts htake hacts,
    fun _ _ _ hacts htake => State.asChange_of_not_acts htake hacts,
    fun _ _ _ hacts htake => State.asChange_of_not_acts htake hacts,
    fun _ _ _ hacts htake => State.asChange_of_not_acts htake hacts,
    fun _ _ _ hacts htake => State.asChange_of_not_acts htake hacts,
    fun _ _ _ hacts htake => State.asChange_of_not_acts htake hacts,
    fun _ _ _ hacts htake => State.asChange_of_not_acts htake hacts,
    fun _ _ _ hacts htake => State.asChange_of_not_acts htake hacts,
    fun _ _ _ hacts htake => State.asChange_of_not_acts htake hacts,
    fun _ _ _ hacts htake => State.asChange_of_not_acts htake hacts,
    fun _ _ _ hacts htake => State.asChange_of_not_acts htake hacts,
    fun _ _ _ hacts htake => State.asChange_of_not_acts htake hacts,
    fun _ _ _ hacts htake => State.asChange_of_not_acts htake hacts,
    fun _ _ _ hacts htake => State.asChange_of_not_acts htake hacts,
    fun _ _ _ hacts htake => State.asChange_of_not_acts htake hacts,
    fun _ _ _ hacts htake => State.asChange_of_not_acts htake hacts,
    fun _ _ _ hacts htake => State.asChange_of_not_acts htake hacts,
    fun _ _ _ hacts htake => State.asChange_of_not_acts htake hacts,
    fun _ _ _ hacts htake => State.asOwnChange_of_not_acts htake hacts,
    fun _ _ _ hacts htake => State.asChange_of_not_acts htake hacts,
    fun _ _ _ hacts htake => State.asChange_of_not_acts htake hacts,
    fun _ _ _ hacts htake => State.asChange_of_not_acts htake hacts,
    fun _ _ _ hacts htake => State.asChange_of_not_acts htake hacts,
    fun _ _ _ hacts htake => State.asChange_of_not_acts htake hacts,
    fun _ _ _ hacts htake => State.asChange_of_not_acts htake hacts,
    fun _ _ _ hacts htake => State.asChange_of_not_acts htake hacts,
    fun _ _ _ hacts htake => State.asChange_of_not_acts htake hacts,
    fun _ _ _ hacts htake => State.asOwnChange_of_not_acts htake hacts,
    fun _ _ _ hacts htake => State.asOwnChange_of_not_acts htake hacts,
    fun _ _ _ hacts htake => State.asOwnChange_of_not_acts htake hacts,
    fun _ _ _ hacts htake => State.asChange_of_not_acts htake hacts,
    fun _ _ _ hacts htake => State.asChange_of_not_acts htake hacts,
    fun _ _ _ hacts htake => State.asChange_of_not_acts htake hacts,
    fun _ _ _ hacts htake => State.asChange_of_not_acts htake hacts,
    fun _ _ _ hacts htake => State.asChange_of_not_acts htake hacts,
    fun _ _ _ _ _ hacts htake hshape => execReadOnlyTableLoad_of_not_acts hacts htake hshape⟩

end Sys2Proof.Machine
end

section
/-! PROOFS. The CAN channels of the bridge (R524 to R541): what the shared operations leave of it, a queue that has nothing to
discard, enabling, frames, confinement and the three parameters. -/

namespace Sys2Proof.Machine

/-! ### What the shared operations leave of the bridge -/

/-- Every part but the bridge. -/
abbrev notLeg : List Area :=
  [.pending, .regs, .time, .pw, .hif, .stp, .cmb, .blk, .cnv, .fio, .mir, .bog, .wag, .twn, .saf, .drn, .lcy, .peat, .seen, .out, .freeIdx]

theorem State.leg_kept {s t : State} (h : t.mask notLeg = s.mask notLeg) : t.leg = s.leg := State.only_leg h rfl

@[simp] theorem State.finishAll_leg (s : State) (code : Byte) (l : List (Pair × Word)) : (s.finishAll code l).leg = s.leg :=
  State.leg_kept (State.finishAll_mask rfl s code l)

@[simp] theorem State.finishAll_regs (s : State) (code : Byte) (l : List (Pair × Word)) : (s.finishAll code l).regs = s.regs :=
  State.only_regs (State.finishAll_mask (qs := [.hif, .out]) rfl s code l) rfl

@[simp] theorem State.writeBits_leg (s : State) (off : Nat) (w : Word) : (s.writeBits off w).leg = s.leg :=
  State.leg_kept (State.writeBits_mask rfl s off w)

@[simp] theorem State.setReg_leg (s : State) (off : Nat) (w : Word) : (s.setReg off w).leg = s.leg := rfl

theorem tbit_putBit_word_0 (w : Word) (b : Bool) : tbit (putBit w 0 b) 0 = b := by
  have hw := w.isLt
  cases b <;>
  · simp only [tbit, putBit, putFld, fld, BitVec.getLsbD_ofNat, Nat.testBit_eq_decide_div_mod_eq, Nat.shiftRight_eq_div_pow,
      Bool.toNat_true, Bool.toNat_false, Bool.and_eq_true, Bool.and_eq_false_iff, decide_eq_true_eq, decide_eq_false_iff_not]
    omega

/-! ### Channels -/

theorem State.canRt_of_leg {s t : State} (h : t.leg = s.leg) (c : Nat) : t.canRt c = s.canRt c := by
  rw [State.canRt, State.canRt, h]

theorem State.rbit_of_regs {s t : State} (h : t.regs = s.regs) (off i : Nat) : t.rbit off i = s.rbit off i := by
  rw [State.rbit, State.rbit, State.reg, State.reg, h]

/-- Changes of a channel that agree on what it holds are one. -/
theorem State.modCan_congr {s : State} {c : Nat} {f g : CanRt → CanRt} (h : f (s.canRt c) = g (s.canRt c)) :
    s.modCan c f = s.modCan c g := by
  unfold State.canRt at h
  simp only [State.modCan, tmod, h]

/-- An empty queue offers nothing. -/
theorem State.canOfferNow_of_empty {s : State} {c : Nat} (htx : (s.canRt c).tx = []) : s.canOfferNow c = s := by
  simp [State.canOfferNow, htx, State.canOffer]

/-- A frame that never grows stale stays at the head of its queue. -/
theorem State.canOffer_of_fresh {s : State} {c t : Nat} {x : CanTx} (hbest : canBest t (s.canRt c).tx = some x)
    (hstale : x.staleUs = 0) (n : Nat) : State.canOffer c t n s = s := by
  cases n <;> simp [State.canOffer, hbest, hstale]

theorem canBest_single {t n : Nat} {x : CanTx} (heligible : x.eligible = some n) (hn : n ≤ t) : canBest t [x] = some x := by
  simp [canBest, heligible, hn]

/-- Without buffers a queue keeps its records. -/
theorem State.deliverRx_of_noBufs {s : State} (hbufs : s.leg.rxBufs = []) (port : Port) (ring n : Nat) (recs : List (List Byte)) :
    State.deliverRx port ring n recs s = (s, recs) := by
  cases n <;> cases recs <;> simp [State.deliverRx, LegState.bufOf, hbufs]

/-- Without buffers the queues of a channel keep their records. -/
theorem State.drainRx_can_canRt {s : State} (hbufs : s.leg.rxBufs = []) (c : Fin 4) :
    (s.drainRx (.can c)).canRt c.val = s.canRt c.val := by
  have hbufs' (f : CanRt → CanRt) : (s.modCan c.val f).leg.rxBufs = [] := hbufs
  simp only [State.drainRx, State.deliverRx_of_noBufs hbufs, State.deliverRx_of_noBufs (hbufs' _), State.modCan_canRt]

/-! ### Enabling (R524 to R527) -/

/-- The registers as a write of a channel's or a port's first register leaves them (R526, R542). -/
def State.enableWritten (s : State) (off : Nat) (w : Word) (en : Bool) : State :=
  (s.writeBits off w).setReg off (putBit ((s.writeBits off w).reg off) 0 en)

@[simp] theorem State.enableWritten_leg (s : State) (off : Nat) (w : Word) (en : Bool) : (s.enableWritten off w en).leg = s.leg :=
  State.writeBits_leg s off w

theorem State.enableWritten_bit (s : State) (off : Nat) (w : Word) (en : Bool) :
    tbit ((s.enableWritten off w en).reg off) 0 = en := by
  rw [State.enableWritten, State.reg_setReg, tbit_putBit_word_0]

section
variable {s : State} {c : Fin 4} {w : Word} (hup : s.hostUp = true)
include hup

theorem exec_canEnable_permitted {cl : List Claim} (hen : tbit w 0 = true)
    (hcfg : (s.enableWritten (canOff c.val) w true).canCfgOk c.val = true)
    (hclaims : claimAll rankGeneral (ownPort c.val) (canBufs c.val) s.fio.claims = .ok cl) :
    exec (.canEnable c w) s = .next (((s.enableWritten (canOff c.val) w true).setClaims cl).modCan c.val (fun r =>
      if r.st = .off then { r with st := .active, tec := 0, rec_ := 0 } else r)) := by
  change execCanEnable c w s = _
  unfold State.enableWritten at hcfg ⊢
  simp [execCanEnable, hup, hen, hcfg, hclaims]

theorem exec_canEnable_notPermitted (hen : tbit w 0 = true)
    (hcfg : (s.enableWritten (canOff c.val) w true).canCfgOk c.val = false) :
    exec (.canEnable c w) s = .next (s.modCan c.val (fun r => { r with cfgErr := true })) := by
  change execCanEnable c w s = _
  unfold State.enableWritten at hcfg
  simp [execCanEnable, hup, hen, hcfg]

theorem exec_canEnable_off (hen : tbit w 0 = false) (hst : (s.canRt c.val).st ≠ .off) :
    exec (.canEnable c w) s = .next ((s.enableWritten (canOff c.val) w false).canOffNow c.val) := by
  change execCanEnable c w s = _
  simp [execCanEnable, hup, hen, hst, State.enableWritten]

end

/-- A channel switched off holds nothing. -/
theorem State.canOffNow_canRt (s : State) (c : Nat) : (s.canOffNow c).canRt c = { s.canRt c with
    st := .off, tec := 0, rec_ := 0, q0 := [], q1 := [], loss0 := false, loss1 := false, ndat := false, tx := [] } :=
  (State.canRt_of_leg (State.finishAll_leg _ _ _) c).trans (State.modCan_canRt s c _)

theorem State.canOffNow_regs (s : State) (c : Nat) : (s.canOffNow c).regs = s.regs := State.finishAll_regs _ _ _

/-! ### Sending (R537 to R539) -/

/-- The port of a CAN SEND, as execCanSend asks for it. -/
def Port.isCan : Port → Bool
  | .can _ => true
  | _ => false

section
variable {s : State} {p : Pair} {e : Entry} {c : Fin 4} (htake : s.takeSend p Port.isCan = some (e, .can c))
include htake

theorem exec_canSend_off (hst : (s.canRt c.val).st = .off) : exec (.canSend p) s = .next (s.finish p.val e.sub 0x99 0) := by
  have hexec : exec (.canSend p) s = (match s.takeSend p Port.isCan with
    | none => _
    | some (e, q) => _) := rfl
  rw [hexec, htake]
  exact if_pos hst

/-- What a SEND on a channel that is error-active and not listening asks beyond its length and its horizon. -/
theorem exec_canSend (hst : (s.canRt c.val).st = .active) (hlisten : s.rbit (canOff c.val) 4 = false) (hmin : 24 ≤ e.len)
    (hlen : e.len = 24 + (leAt e.data 5 1 + 7) / 8 * 8) (hreach : s.atBeyond e = false)
    (hok : canSendOk (s.rbit (canOff c.val) 3) e.data = true) :
    exec (.canSend p) s = .next (
      if (s.canRt c.val).tx.length ≥ 32 then s.finish p.val e.sub 0x94 0
      else (s.modCan c.val (fun r => { r with
        tx := r.tx ++ [{
          pair := p, sub := e.sub, frame := canFrameOf e.data, staleUs := leAt e.data 8 4, at_ := e.at?
          eligible := if e.atFlag then none else some s.time.t2, order := (s.canRt c.val).nextOrder }]
        nextOrder := r.nextOrder + 1 })).accept p.val e.sub) := by
  have hexec : exec (.canSend p) s = (match s.takeSend p Port.isCan with
    | none => _
    | some (e, q) => _) := rfl
  rw [hexec, htake]
  dsimp only [portCode]
  rw [if_neg (by rw [hst]; decide), if_neg (by simp [hlisten]), if_neg (by simp [hmin, ← hlen]), if_neg (by simp [hreach]),
    if_neg (by simp [hok]), apply_ite Host.Outcome.next]

end

/-! ### Frames sent and received (R529 to R539) -/

theorem exec_canFrameSent {s : State} {c : Fin 4} {x : CanTx} {a : LineStamp} {n : Nat} (hst : (s.canRt c.val).st = .active)
    (hlisten : s.rbit (canOff c.val) 4 = false) (htx : (s.canRt c.val).tx = [x]) (heligible : x.eligible = some n)
    (hn : n ≤ s.time.t2 - (s.time.tb2.ns - a.tb2).toNat) (hstale : x.staleUs = 0) :
    exec (.canFrameSent c a) s = .next ((((s.canDrop c.val x).emitOut (.can c.val x.frame)).finishWith x.pair.val x.sub 0 0
      (canonU a.tb1.toNat)).canOfferNow c.val) := by
  change execCanFrameSent c a s = _
  have hbest : canBest (s.time.t2 - (s.time.tb2.ns - a.tb2).toNat) (s.canRt c.val).tx = some x := by
    rw [htx, canBest_single heligible hn]
  unfold execCanFrameSent
  rw [if_neg (by simp [CanRt.onBus, hst, hlisten])]
  dsimp only
  rw [State.canOffer_of_fresh hbest hstale, hbest]

theorem exec_canFrameReceive_lost {s : State} {c : Fin 4} (f : CanFrame) {v : Bool} (a : LineStamp)
    (hlost : v = false ∨ (s.canRt c.val).onBus = false) : exec (.canFrameReceive c f v a) s = .next s := by
  change execCanFrameReceive c f v a s = _
  exact if_pos (by simpa using hlost)

theorem State.canQueue_of_room {s : State} {c : Nat} (hroom : (s.canRt c).q0 = []) (f : CanFrame) (i : Nat) (hp : Bool)
    (a : LineStamp) : s.canQueue c false f i hp a = s.modCan c (fun r => { r with
      q0 := r.q0 ++ [canRecord f i hp (s.canRt c).loss0 a], loss0 := false }) := by
  simp [State.canQueue, hroom]

theorem exec_canFrameReceive_default {s : State} {c : Fin 4} {f : CanFrame} {a : LineStamp}
    (hbus : (s.canRt c.val).onBus = true) (hfilter : s.leg.filterOf c.val f = none) (hdefault : s.rfld (canOff c.val) 2 1 = 1) :
    exec (.canFrameReceive c f true a) s =
      .next (((s.canQueue c.val false f 0xFF false a).drainRx (.can c)).canOfferNow c.val) := by
  change execCanFrameReceive c f true a s = _
  simp [execCanFrameReceive, hbus, hfilter, hdefault]

/-! ### Confinement (R540, R541) -/

theorem exec_canState_kept {s : State} {c : Fin 4} {a b : Nat} (hst : (s.canRt c.val).st = .active)
    (htx : (s.canRt c.val).tx = []) (ha : a ≤ 127) (hb : b ≤ 127) :
    exec (.canState c a b) s = .next (s.modCan c.val (fun r => { r with tec := a, rec_ := b })) := by
  have hmod : s.modCan c.val (fun r => { r with st := .active, tec := min a 255, rec_ := min b 255 }) =
      s.modCan c.val (fun r => { r with tec := a, rec_ := b }) := by
    refine State.modCan_congr ?_
    rw [min_eq_left (by omega), min_eq_left (by omega), ← hst]
  have hempty : ((s.modCan c.val (fun r => { r with tec := a, rec_ := b })).canRt c.val).tx = [] := by
    rw [State.modCan_canRt]; exact htx
  change execCanState c a b s = _
  simp [execCanState, CanRt.onBus, hst, Nat.not_lt.mpr ha, Nat.not_lt.mpr hb, show ¬ 255 < a by omega, hmod,
    State.canOfferNow_of_empty hempty]

theorem exec_canState_busOff {s : State} {c : Fin 4} {a : Nat} (b : Nat) (hst : (s.canRt c.val).st = .active) (ha : 255 < a) :
    exec (.canState c a b) s = .next
      (((s.modCan c.val (fun r => { r with st := .busOff, tec := min a 255, rec_ := min b 255 })).canEvent c.val .busOff
        a).modCan c.val (fun r => { r with
          busoffCnt := satInc 0xFFFF r.busoffCnt, st := if s.rbit (canOff c.val) 7 then .recovering else .busOff })) := by
  change execCanState c a b s = _
  have hbit : ((s.modCan c.val (fun r => { r with st := .busOff, tec := min a 255, rec_ := min b 255 })).canEvent c.val .busOff
      a).rbit (canOff c.val) 7 = s.rbit (canOff c.val) 7 := State.rbit_of_regs rfl _ _
  simp [execCanState, CanRt.onBus, hst, ha, hbit]

theorem exec_canRecoveryEnd {s : State} {c : Fin 4} (hst : (s.canRt c.val).st = .recovering) (htx : (s.canRt c.val).tx = []) :
    exec (.canRecoveryEnd c) s =
      .next ((s.modCan c.val (fun r => { r with st := .active, tec := 0, rec_ := 0 })).canEvent c.val .active 0) := by
  refine (if_pos hst : execCanRecoveryEnd c s = _).trans (congrArg Host.Outcome.next (State.canOfferNow_of_empty ?_))
  rw [State.canEvent, State.canRt_of_leg (State.raise_leg _ _ _), State.modCan_canRt]
  exact htx

/-! ### The table and the parameters (R528, R536, R541) -/

/-- A change that is no part of a twin's role takes effect on a member that acts (R449, R522). -/
theorem State.asOwnChange_of_acts {s : State} {p : Pair} {mine : Option Entry} {e : Entry}
    {f : State → Host.Outcome State Fault Refusal} (hmine : mine = some e) (hacts : s.roleActs = true) :
    s.asOwnChange p mine f = f s := by
  simp [State.asOwnChange, hmine, hacts]

section
variable {s : State} {p : Pair} {e : Entry} (hacts : s.roleActs = true)
include hacts

theorem exec_filterTableLoad {cl : List Claim} (htake : s.takeLoad p 14 1 = some e)
    (hok : (withIndex e.first e.words128).find? (fun x => !fpOk x.2) = none)
    (hclaims : filterClaims (withIndex e.first e.words128) s.fio.claims = .ok cl) :
    exec (.filterTableLoad p) s = .next (((s.setClaims cl).setLeg { s.leg with
      filters := tputs 0 s.leg.filters e.first e.words128 }).finish p.val e.sub 0 (BitVec.ofNat 64 e.count)) := by
  refine (State.asOwnChange_of_acts htake hacts).trans ?_
  simp only [doFilterTableLoad, htake, hok, hclaims]

theorem exec_filterTableLoad_bad {x : Nat × BitVec 128} (htake : s.takeLoad p 14 1 = some e)
    (hbad : (withIndex e.first e.words128).find? (fun x => !fpOk x.2) = some x) :
    exec (.filterTableLoad p) s = .next (s.finish p.val e.sub 0x90 (BitVec.ofNat 64 x.1)) := by
  refine (State.asOwnChange_of_acts htake hacts).trans ?_
  simp only [doFilterTableLoad, htake, hbad]

theorem exec_hpAck (htake : s.takeParam p 1 14 1 = some e) (hchannel : e.value % 256 < 4) :
    exec (.hpAck p) s = .next (
      if e.value / 256 = (s.canRt (e.value % 4)).hpSeq.toNat then
        (s.modCan (e.value % 4) (fun r => { r with ndat := false })).finish p.val e.sub 0 0
      else s.finish p.val e.sub 0x98 (BitVec.ofNat 64 (s.canRt (e.value % 4)).hpSeq.toNat)) := by
  refine (State.asOwnChange_of_acts htake hacts).trans ?_
  simp only [doHpAck, htake]
  rw [if_neg (by omega), apply_ite Host.Outcome.next]

theorem exec_recover (htake : s.takeParam p 1 14 2 = some e) (hchannel : e.value < 4) :
    exec (.recover p) s = .next (
      if (s.canRt e.value).st = .busOff then
        (s.modCan e.value (fun r => { r with st := .recovering })).finish p.val e.sub 0 0
      else s.finish p.val e.sub 0x9A 0) := by
  refine (State.asOwnChange_of_acts htake hacts).trans ?_
  simp only [doRecover, htake]
  rw [if_neg (by omega), apply_ite Host.Outcome.next]

end

/-- Settles O31, clause by clause: the equations above give the state that each command answers. -/
theorem canChannels : Obligations.CanChannels := by
  unfold Obligations.CanChannels
  refine ⟨?enabled, ?cfgErr, ?disabled, ?sendOff, ?sendFull, ?sendQueued, ?sent, ?lost, ?received, ?counters, ?busOff, ?recovered,
    ?filters, ?badFilter, ?acked, ?badAck, ?recover, ?badRecover⟩
  case enabled =>
    intro s c w cl hup hen hst hcfg hclaims
    refine completes_of_exec (exec_canEnable_permitted hup hen hcfg hclaims) ⟨?_, rfl, ?_⟩ rfl
    · have hleg : ((s.enableWritten (canOff c.val) w true).setClaims cl).leg = s.leg := State.enableWritten_leg s _ w true
      rw [State.modCan_canRt, State.canRt_of_leg hleg, if_pos hst]
    · exact State.enableWritten_bit s _ w true
  case cfgErr =>
    intro s c w hup hen hcfg
    exact exec_canEnable_notPermitted hup hen hcfg
  case disabled =>
    intro s c w hup hen hst
    refine completes_of_exec (exec_canEnable_off hup hen hst) ?_ rfl
    rw [State.canOffNow_canRt]
    refine ⟨rfl, rfl, rfl, rfl, ?_⟩
    rw [State.reg, State.canOffNow_regs]
    exact State.enableWritten_bit s _ w false
  case sendOff => exact fun s p e c htake hst => exec_canSend_off htake hst
  case sendFull =>
    intro s p e c htake hst hlisten hmin hlen hreach hok hfull
    exact (exec_canSend htake hst hlisten hmin hlen hreach hok).trans (congrArg Host.Outcome.next (if_pos hfull))
  case sendQueued =>
    intro s p e c htake hst hlisten hmin hlen hat hok hempty
    refine completes_of_exec (exec_canSend htake hst hlisten hmin hlen (State.atBeyond_of_noAt hat) hok) ?_ rfl
    rw [if_neg (by simp [hempty]), State.canRt_of_leg (State.accept_leg _ _ _), State.modCan_canRt]
    simp [hempty, hat, Entry.at?]
  case sent => exact fun s c x a n hst hlisten htx heligible hn hstale => exec_canFrameSent hst hlisten htx heligible hn hstale
  case lost => exact fun s c f v a hlost => exec_canFrameReceive_lost f a hlost
  case received =>
    intro s c f a hbus hfilter hdefault hq0 hq1 htx hbufs
    have hqueued : (((s.canQueue c.val false f 0xFF false a).drainRx (.can c)).canRt c.val) =
        { s.canRt c.val with q0 := [canRecord f 0xFF false (s.canRt c.val).loss0 a], loss0 := false } := by
      rw [State.canQueue_of_room hq0]
      refine (State.drainRx_can_canRt (by exact hbufs) c).trans ?_
      rw [State.modCan_canRt, hq0]
      rfl
    refine completes_of_exec (exec_canFrameReceive_default hbus hfilter hdefault) ?_ rfl
    rw [State.canOfferNow_of_empty (by rw [hqueued]; exact htx), hqueued]
  case counters => exact fun s c a b hst htx ha hb => exec_canState_kept hst htx ha hb
  case busOff =>
    intro s c a b hst ha hauto
    refine completes_of_exec (exec_canState_busOff b hst ha) ?_ rfl
    rw [State.modCan_canRt, State.canEvent, State.canRt_of_leg (State.raise_leg _ _ _), State.modCan_canRt]
    exact ⟨if_pos hauto, rfl⟩
  case recovered =>
    intro s c hst htx
    refine completes_of_exec (exec_canRecoveryEnd hst htx) ?_ rfl
    rw [State.canEvent, State.canRt_of_leg (State.raise_leg _ _ _), State.modCan_canRt]
  case filters =>
    exact fun s p e cl htake hacts hok hclaims => ⟨_, exec_filterTableLoad hacts htake hok hclaims, ⟨rfl, rfl⟩, rfl⟩
  case badFilter => exact fun s p e x htake hacts hbad => exec_filterTableLoad_bad hacts htake hbad
  case acked =>
    intro s p e htake hacts hchannel hseq
    exact ⟨_, (exec_hpAck hacts htake hchannel).trans (congrArg Host.Outcome.next (if_pos hseq)), rfl, State.modCan_mask rfl _ _ _⟩
  case badAck =>
    intro s p e htake hacts hchannel hseq
    exact (exec_hpAck hacts htake hchannel).trans (congrArg Host.Outcome.next (if_neg hseq))
  case recover =>
    intro s p e htake hacts hchannel hst
    exact ⟨_, (exec_recover hacts htake hchannel).trans (congrArg Host.Outcome.next (if_pos hst)), rfl, State.modCan_mask rfl _ _ _⟩
  case badRecover =>
    intro s p e htake hacts hchannel hst
    exact (exec_recover hacts htake hchannel).trans (congrArg Host.Outcome.next (if_neg hst))

end Sys2Proof.Machine
end

section
/-! PROOFS. The UARTs of the bridge (R542 to R546): enabling, the send that is under way, and the record that characters make. -/

namespace Sys2Proof.Machine

theorem State.uartRt_of_leg {s t : State} (h : t.leg = s.leg) (u : Nat) : t.uartRt u = s.uartRt u := by
  rw [State.uartRt, State.uartRt, h]

/-! ### Receive queues (R532, R546) -/

/-- Without buffers the queue of a port keeps its records. -/
theorem State.drainRx_uart_uartRt {s : State} (hbufs : s.leg.rxBufs = []) (u : Fin 4) :
    (s.drainRx (.uart u)).uartRt u.val = s.uartRt u.val := by
  simp only [State.drainRx, State.deliverRx_of_noBufs hbufs, State.modUart_uartRt]

/-- An empty queue stays empty, whatever buffers there are. -/
theorem State.drainRx_uart_of_empty {s : State} {u : Fin 4} (hqueue : (s.uartRt u.val).queue = []) :
    (s.drainRx (.uart u)).uartRt u.val = s.uartRt u.val := by
  have hdelivered (port : Port) (ring n : Nat) : State.deliverRx port ring n [] s = (s, []) := by cases n <;> rfl
  simp only [State.drainRx, hqueue, hdelivered, State.modUart_uartRt]
  rw [← hqueue]

/-! ### Enabling (R542) -/

/-- The configuration is read from the registers: a change of the port's run-time state leaves it. -/
theorem State.uartCfgOk_modUart (s : State) (v n : Nat) (f : UartRt → UartRt) : (s.modUart v f).uartCfgOk n = s.uartCfgOk n :=
  rfl

section
variable {s : State} {u : Fin 4} {w : Word} (hup : s.hostUp = true)
include hup

theorem exec_uartEnable_permitted {cl : List Claim} (hen : tbit w 0 = true)
    (hcfg : (s.enableWritten (uartOff u.val) w true).uartCfgOk u.val = true)
    (hclaims : claimAll rankGeneral (ownPort (0x10 + u.val)) (uartBufs u.val) s.fio.claims = .ok cl) :
    exec (.uartEnable u w) s = .next ((((s.enableWritten (uartOff u.val) w true).modUart u.val (fun r =>
      { r with cfgErr := r.cfgErr && !tbit w 31 })).setClaims cl).modUart u.val (fun r => { r with on := true })) := by
  change execUartEnable u w s = _
  unfold State.enableWritten at hcfg ⊢
  simp [execUartEnable, hup, hen, State.uartCfgOk_modUart, hcfg, hclaims]

theorem exec_uartEnable_notPermitted (hen : tbit w 0 = true)
    (hcfg : (s.enableWritten (uartOff u.val) w true).uartCfgOk u.val = false) :
    exec (.uartEnable u w) s = .next (s.modUart u.val (fun r => { r with cfgErr := true })) := by
  change execUartEnable u w s = _
  unfold State.enableWritten at hcfg
  simp [execUartEnable, hup, hen, State.uartCfgOk_modUart, hcfg]

theorem exec_uartEnable_off (hen : tbit w 0 = false) (hon : (s.uartRt u.val).on = true) :
    exec (.uartEnable u w) s = .next (((s.enableWritten (uartOff u.val) w false).modUart u.val (fun r =>
      { r with cfgErr := r.cfgErr && !tbit w 31 })).uartOffNow u.val) := by
  change execUartEnable u w s = _
  simp [execUartEnable, hup, hen, hon, State.enableWritten]

end

/-- A port switched off holds nothing. -/
theorem State.uartOffNow_uartRt (s : State) (u : Nat) : (s.uartOffNow u).uartRt u = { s.uartRt u with
    on := false, tx := [], sending := false, chars := [], flags := 0, skip := false, queue := [], lossDue := false } :=
  (State.uartRt_of_leg (State.finishAll_leg _ _ _) u).trans (State.modUart_uartRt s u _)

theorem State.uartOffNow_regs (s : State) (u : Nat) : (s.uartOffNow u).regs = s.regs := State.finishAll_regs _ _ _

/-! ### Sending (R543, R544) -/

/-- The port of a UART SEND, as execUartSend asks for it. -/
def Port.isUart : Port → Bool
  | .uart _ => true
  | _ => false

section
variable {s : State} {p : Pair} {e : Entry} {u : Fin 4} (htake : s.takeSend p Port.isUart = some (e, .uart u))
include htake

theorem exec_uartSend_off (hon : (s.uartRt u.val).on = false) : exec (.uartSend p) s = .next (s.finish p.val e.sub 0x99 0) := by
  have hexec : exec (.uartSend p) s = (match s.takeSend p Port.isUart with
    | none => _
    | some (e, q) => _) := rfl
  rw [hexec, htake]
  dsimp only [portCode]
  rw [Nat.add_sub_cancel_left, if_pos (by simp [hon])]

theorem exec_uartSend_queued (hon : (s.uartRt u.val).on = true) (hmin : 8 ≤ e.len)
    (hlen : e.len = 8 + (leAt e.data 0 2 + 7) / 8 * 8) (hat : e.atFlag = false) (hsome : leAt e.data 0 2 ≠ 0)
    (hmax : leAt e.data 0 2 ≤ 4096) (hunnamed : leAt e.data 2 6 ≤ 1) (hroom : (s.uartRt u.val).tx.length < 16) :
    exec (.uartSend p) s = .next ((s.modUart u.val (fun r => { r with tx := r.tx ++ [{
      pair := p, sub := e.sub, chars := slice e.data 8 (leAt e.data 0 2), firstAddr := decide (leAt e.data 2 1 = 1)
      at_ := none, eligible := true }] })).accept p.val e.sub) := by
  have hexec : exec (.uartSend p) s = (match s.takeSend p Port.isUart with
    | none => _
    | some (e, q) => _) := rfl
  rw [hexec, htake]
  dsimp only [portCode]
  rw [Nat.add_sub_cancel_left, if_neg (by simp [hon]), if_neg (by simp [hmin, ← hlen]), if_neg (by simp [State.atBeyond, hat]),
    if_neg (by simp [hsome]; omega), if_neg (by omega)]
  simp [Entry.at?, hat]

end

section
variable {s : State} {u : Fin 4}

theorem exec_uartSendStart {x : UartTx} (hon : (s.uartRt u.val).on = true) (hidle : (s.uartRt u.val).sending = false)
    (htx : (s.uartRt u.val).tx = [x]) (heligible : x.eligible = true) :
    exec (.uartSendStart u) s = .next
      ((s.modUart u.val (fun r => { r with tx := [x], sending := true })).emitOut (.uart u.val x.chars x.firstAddr)) := by
  change execUartSendStart u s = _
  simp [execUartSendStart, hon, hidle, htx, uartFront, heligible]

theorem exec_uartSendStart_underWay (hsending : (s.uartRt u.val).sending = true) : exec (.uartSendStart u) s = .next s := by
  change execUartSendStart u s = _
  simp [execUartSendStart, hsending]

theorem exec_uartSendEnd {x : UartTx} {r : List UartTx} (hsending : (s.uartRt u.val).sending = true)
    (htx : (s.uartRt u.val).tx = x :: r) : exec (.uartSendEnd u) s =
      .next ((s.modUart u.val (fun y => { y with tx := r, sending := false })).finish x.pair.val x.sub 0 0) := by
  change execUartSendEnd u s = _
  simp [execUartSendEnd, hsending, htx]

/-! ### Characters (R545, R546) -/

theorem exec_uartCharacter_off (ch : Byte) (n x f o : Bool) (a : LineStamp) (hon : (s.uartRt u.val).on = false) :
    exec (.uartCharacter u ch n x f o a) s = .next s := by
  change execUartCharacter u ch n x f o a s = _
  simp [execUartCharacter, hon]

theorem exec_uartCharacter_plain (ch : Byte) (a : LineStamp) (hon : (s.uartRt u.val).on = true)
    (height : s.rbit (uartOff u.val) 2 = false) (hskip : (s.uartRt u.val).skip = false) :
    exec (.uartCharacter u ch false false false false a) s =
      .next ((s.uartTake u.val ch false false false a).drainRx (.uart u)) := by
  change execUartCharacter u ch false false false false a s = _
  simp [execUartCharacter, hon, height, hskip]

/-- The first character of a record begins it, where the queue is empty. -/
theorem State.uartTake_first {u : Nat} (ch : Byte) (a : LineStamp) (hchars : (s.uartRt u).chars = [])
    (hqueue : (s.uartRt u).queue = []) : (s.uartTake u ch false false false a).uartRt u = { s.uartRt u with
      chars := [ch], start := a, flags := BitVec.ofNat 8 ((s.uartRt u).lossDue.toNat * 8), lossDue := false } := by
  have hroom : ¬ (s.uartRt u).used + 24 > 16384 := by simp [UartRt.used, hqueue, hchars]
  simp [State.uartTake, hchars, hroom, State.modUart_uartRt]

/-- The end of a record: it enters the queue. -/
theorem State.uartClose_uartRt {u : Nat} (hchars : (s.uartRt u).chars ≠ []) : (s.uartClose u).uartRt u = { s.uartRt u with
    queue := (s.uartRt u).queue ++ [uartRecord (s.uartRt u)], chars := [], flags := 0 } := by
  simp [State.uartClose, hchars, State.modUart_uartRt]

theorem State.uartClose_rxBufs (u : Nat) : (s.uartClose u).leg.rxBufs = s.leg.rxBufs := by
  unfold State.uartClose
  extract_lets r
  split
  · rfl
  · rfl

end

/-- Settles O32, clause by clause: the equations above give the state that each command answers. -/
theorem uarts : Obligations.Uarts := by
  unfold Obligations.Uarts
  refine ⟨?enabled, ?cfgErr, ?disabled, ?sendOff, ?queued, ?started, ?underWay, ?ended, ?first, ?off, ?gap⟩
  case enabled =>
    intro s u w cl hup hen hcfg hclaims
    refine completes_of_exec (exec_uartEnable_permitted hup hen hcfg hclaims) ⟨?_, rfl, ?_⟩ rfl
    · rw [State.modUart_uartRt]
    · exact State.enableWritten_bit s _ w true
  case cfgErr => exact fun s u w hup hen hcfg => exec_uartEnable_notPermitted hup hen hcfg
  case disabled =>
    intro s u w hup hen hon
    refine completes_of_exec (exec_uartEnable_off hup hen hon) ?_ rfl
    rw [State.uartOffNow_uartRt]
    refine ⟨rfl, rfl, rfl, ?_⟩
    rw [State.reg, State.uartOffNow_regs]
    exact State.enableWritten_bit s _ w false
  case sendOff => exact fun s p e u htake hon => exec_uartSend_off htake hon
  case queued =>
    intro s p e u htake hon hmin hlen hat hsome hmax hunnamed hroom
    refine completes_of_exec (exec_uartSend_queued htake hon hmin hlen hat hsome hmax hunnamed hroom) ?_ rfl
    rw [State.uartRt_of_leg (State.accept_leg _ _ _), State.modUart_uartRt]
  case started =>
    intro s u x hon hidle htx heligible
    refine completes_of_exec (exec_uartSendStart hon hidle htx heligible) ⟨?_, rfl⟩ rfl
    rw [State.uartRt_of_leg (State.emitOut_leg _ _), State.modUart_uartRt, ← htx]
  case underWay => exact fun s u hsending => exec_uartSendStart_underWay hsending
  case ended => exact fun s u x r hsending htx => exec_uartSendEnd hsending htx
  case first =>
    intro s u ch a hon height hskip hchars hqueue
    refine completes_of_exec (exec_uartCharacter_plain ch a hon height hskip) ?_ rfl
    have htaken := State.uartTake_first ch a hchars hqueue
    have hempty : ((s.uartTake u.val ch false false false a).uartRt u.val).queue = [] := by rw [htaken]; exact hqueue
    rw [State.drainRx_uart_of_empty hempty, htaken]
    exact ⟨rfl, rfl, hqueue, rfl⟩
  case off => exact fun s u ch n x f o a hon => exec_uartCharacter_off ch n x f o a hon
  case gap =>
    intro s u hchars hbufs
    refine completes_of_exec (rfl : exec (.uartGap u) s = .next ((s.uartClose u.val).drainRx (.uart u))) ?_ rfl
    rw [State.drainRx_uart_uartRt ((State.uartClose_rxBufs u.val).trans hbufs), State.uartClose_uartRt hchars]
    exact ⟨rfl, rfl⟩

end Sys2Proof.Machine
end

section
/-! PROOFS. The parallel bus and the general-purpose lines of the bridge (R547 to R550). -/

namespace Sys2Proof.Machine

/-! ### The operation lists (R548) -/

/-- A change of the input states concerns the times of the events and the events alone. -/
theorem State.gpChanged_pb (s : State) (old : BitVec 8) : (s.gpChanged old).leg.pb = s.leg.pb := by
  unfold State.gpChanged
  extract_lets new lines t mask
  split
  · rfl
  · rfl

/-- The one list that waits, without an AT instant, starts. -/
theorem State.pbStart_single {s : State} {x : PbRun} (hpb : s.leg.pb = [x]) (hwaits : x.started = false) (hat : x.at_ = none) :
    s.pbStart.leg.pb = [{ x with started := true }] := by
  simp [State.pbStart, hpb, hwaits, hat, State.gpChanged_pb]

/-- The operation list that a SEND without an AT instant names. -/
def Entry.pbRun (e : Entry) (p : Pair) : PbRun :=
  { pair := p, sub := e.sub, addr := e.addr, entries := (List.range (e.len / 8)).map (entryAt 64 8 e.data) }

section
variable {s : State} {p : Pair} {e : Entry} (htake : s.takeSend p (fun q => decide (q = .pb)) = some (e, .pb))
include htake

theorem exec_pbSend_off (hoff : s.rbit 0xE300 0 = false) : exec (.pbSend p) s = .next (s.finish p.val e.sub 0x99 0) := by
  change execPbSend p s = _
  simp [execPbSend, htake, hoff]

variable (hon : s.rbit 0xE300 0 = true) (hmin : 8 ≤ e.len) (hmax : e.len ≤ 4096) (height : e.len % 8 = 0)
include hon hmin hmax height

theorem exec_pbSend_invalid {i : Nat} (hreach : s.atBeyond e = false)
    (hbad : ((List.range (e.len / 8)).map (entryAt 64 8 e.data)).findIdx? (fun x => !s.pbEntryOk x) = some i) :
    exec (.pbSend p) s = .next (s.finish p.val e.sub 0x91 (BitVec.ofNat 64 i)) := by
  change execPbSend p s = _
  simp only [execPbSend, htake]
  rw [if_neg (by simp [hon]), if_neg (by simp [hmin, hmax, height]), if_neg (by simp [hreach]), hbad]

theorem exec_pbSend_valid (hat : e.atFlag = false)
    (hok : ((List.range (e.len / 8)).map (entryAt 64 8 e.data)).findIdx? (fun x => !s.pbEntryOk x) = none) :
    exec (.pbSend p) s =
      .next (((s.setLeg { s.leg with pb := s.leg.pb ++ [e.pbRun p] }).accept p.val e.sub).pbStart) := by
  change execPbSend p s = _
  simp only [execPbSend, htake]
  rw [if_neg (by simp [hon]), if_neg (by simp [hmin, hmax, height]), if_neg (by simp [State.atBeyond, hat]), hok]
  simp [Entry.at?, hat, Entry.pbRun]

end

/-! ### The cycles (R549) -/

section
variable {s : State} {x : PbRun} {r : List PbRun} (hpb : s.leg.pb = x :: r) (hstarted : x.started = true)
include hpb hstarted

theorem exec_pbReady (hwaits : s.pbWaits (x.entries.getD x.doneN 0) = true) :
    exec .pbReady s = .next (s.setLeg { s.leg with pb := { x with ready := true } :: r }) := by
  change execPbReady s = _
  simp only [execPbReady, hpb]
  rw [if_pos (by simp only [hstarted, hwaits, Bool.and_self])]

theorem exec_busTimeout (hwaits : s.pbWaits (x.entries.getD x.doneN 0) = true) :
    exec .busTimeout s = .next ((s.setLeg { s.leg with pbTimeouts := satInc 0xFFFF s.leg.pbTimeouts }).pbFinish
      { x with entries := x.entries.zipIdx.map (fun k =>
          if k.2 < x.doneN then k.1 else if k.2 = x.doneN then pbPut k.1 0xFFFF 2 else pbPut k.1 0 0xFF) }
      0x96 x.doneN) := by
  change execBusTimeout s = _
  simp only [execBusTimeout, hpb]
  rw [if_neg (by simp only [hstarted, hwaits]; decide)]

/-- A list after the end of its cycle: data and status of the entry are in (R548). -/
def PbRun.cycleEnded (x : PbRun) (d : BitVec 16) : PbRun :=
  { x with
    entries := setAt x.entries x.doneN (pbPut (x.entries.getD x.doneN 0)
      (if fld (x.entries.getD x.doneN 0) 25 24 = 3 then d.toNat % 256 else d.toNat) 1)
    doneN := x.doneN + 1, ready := false }

theorem exec_pbCycleEnd (d : BitVec 16) (hwaits : s.pbWaits (x.entries.getD x.doneN 0) = false) :
    exec (.pbCycleEnd d) s = .next (
      if x.entries.length ≤ x.doneN + 1 then s.pbFinish (x.cycleEnded d) 0 0
      else ((s.setLeg { s.leg with pb := x.cycleEnded d :: r }).emitOut (.pbCycle ((x.cycleEnded d).entries.getD (x.doneN + 1)
        0))).gpChanged s.gpRead) := by
  change execPbCycleEnd d s = _
  simp only [execPbCycleEnd, hpb]
  rw [if_neg (by simp only [hstarted, hwaits]; simp), apply_ite Host.Outcome.next]
  simp only [setAt, List.length_set]
  rfl

end

section
variable {s : State} (hpb : s.leg.pb = [])
include hpb

theorem exec_pbReady_of_empty : exec .pbReady s = .next s := by
  change execPbReady s = _
  simp [execPbReady, hpb]

theorem exec_busTimeout_of_empty : exec .busTimeout s = .next s := by
  change execBusTimeout s = _
  simp [execBusTimeout, hpb]

theorem exec_pbCycleEnd_of_empty (d : BitVec 16) : exec (.pbCycleEnd d) s = .next s := by
  change execPbCycleEnd d s = _
  simp [execPbCycleEnd, hpb]

end

/-! ### The lines (R550) -/

theorem exec_gpWrite {s : State} {p : Pair} {e : Entry} (htake : s.takeParam p 1 14 3 = some e) (hacts : s.roleActs = true)
    (hvalue : e.value < 2 ^ 16) :
    exec (.gpWrite p) s = .next ((s.setLeg { s.leg with
      gpOut := (s.leg.gpOut &&& ~~~ BitVec.ofNat 8 (e.value / 256)) ||| (BitVec.ofNat 8 e.value &&& BitVec.ofNat 8 (e.value / 256))
      }).finish p.val e.sub 0 0) := by
  refine (State.asOwnChange_of_acts htake hacts).trans ?_
  simp only [doGpWrite, htake]
  rw [if_neg (Nat.not_le.mpr hvalue)]

/-- With no chip select in use the input states stand as they are. -/
theorem State.gpRead_of_noSelect {s : State} (h6 : s.rbit 0xE300 1 = false) (h7 : s.rbit 0xE300 2 = false) :
    s.gpRead = s.leg.gpIn := by
  simp [State.gpRead, h6, h7]

theorem exec_gpRead {s : State} {p : Pair} {e : Entry} (htake : s.takeParam p 2 14 4 = some e) (hvalue : e.value = 0) :
    exec (.gpRead p) s = .next (s.finish p.val e.sub 0 (BitVec.ofNat 64 s.gpRead.toNat)) := by
  change execGpRead p s = _
  simp [execGpRead, htake, hvalue]

/-- A field that reads 0 has no bit set. -/
theorem State.rbit_of_rfld_zero {s : State} {off hi lo i : Nat} (hzero : s.rfld off hi lo = 0) (hi' : lo + i ≤ hi) :
    s.rbit off (lo + i) = false := by
  have hbit := congrArg (Nat.testBit · i) hzero
  simp only [State.rfld, fld, Nat.testBit_mod_two_pow, Nat.testBit_shiftRight, Nat.zero_testBit, Bool.and_eq_false_iff,
    decide_eq_false_iff_not] at hbit
  exact hbit.resolve_left (not_not.mpr (by omega))

/-- With no interrupt line enabled a change of the input states raises nothing. -/
theorem State.gpChanged_of_noLine {s : State} (hlines : s.rfld 0xE000 15 8 = 0) (old : BitVec 8) : s.gpChanged old = s := by
  have hnone : (List.range 8).filter (fun n =>
      decide (tbit old n ≠ tbit s.gpRead n) && s.rbit 0xE000 (8 + n) && s.gpInput n && s.gpDue n) = [] := by
    refine List.filter_eq_nil_iff.mpr fun n hn => ?_
    rw [State.rbit_of_rfld_zero hlines (Nat.add_le_add_left (Nat.le_of_lt_succ (List.mem_range.mp hn)) 8)]
    simp
  simp only [State.gpChanged, hnone]
  rfl

section
variable {s : State} {w : Word} (hup : s.hostUp = true)
include hup

theorem exec_gpConfigWrite {cl : List Claim} (hclaims : gpClaims (ownReg 0) (dirLines (s.reg 0xE000))
    (dirLines ((s.writeBits 0xE000 w).reg 0xE000)) s.fio.claims = .ok cl) :
    exec (.gpConfigWrite .gpCfg w) s = .next ((s.writeBits 0xE000 w).setClaims cl) := by
  change execGpConfigWrite .gpCfg w s = _
  simp only [execGpConfigWrite, hclaims]
  rw [if_neg (by simp [hup])]

theorem exec_gpConfigWrite_refused {c : Byte} {r : BitVec 64} (hclaims : gpClaims (ownReg 0) (dirLines (s.reg 0xE000))
    (dirLines ((s.writeBits 0xE000 w).reg 0xE000)) s.fio.claims = .refused c r) :
    exec (.gpConfigWrite .gpCfg w) s = .next (s.raise 0xB0 r) := by
  change execGpConfigWrite .gpCfg w s = _
  simp only [execGpConfigWrite, hclaims]
  rw [if_neg (by simp [hup])]

end

/-- Settles O33, clause by clause: the equations above give the state that each command answers. -/
theorem parallelBusAndLines : Obligations.ParallelBusAndLines := by
  unfold Obligations.ParallelBusAndLines
  refine ⟨?off, ?invalid, ?starts, ?ready, ?empty, ?last, ?between, ?timeout, ?write, ?read, ?change, ?config, ?refused⟩
  case off => exact fun s p e htake hoff => exec_pbSend_off htake hoff
  case invalid =>
    exact fun s p e i htake hon hmin hmax height hreach hbad => exec_pbSend_invalid htake hon hmin hmax height hreach hbad
  case starts =>
    intro s p e htake hon hmin hmax height hat hok hempty
    refine completes_of_exec (exec_pbSend_valid htake hon hmin hmax height hat hok) ?_ rfl
    exact State.pbStart_single (x := e.pbRun p) (congrArg (· ++ [e.pbRun p]) hempty) rfl rfl
  case ready => exact fun s x r hpb hstarted hwaits => exec_pbReady hpb hstarted hwaits
  case empty =>
    exact fun s hpb => ⟨exec_pbReady_of_empty hpb, exec_busTimeout_of_empty hpb, exec_pbCycleEnd_of_empty hpb⟩
  case last =>
    intro s x r d hpb hstarted hwaits hlast
    exact (exec_pbCycleEnd hpb hstarted d hwaits).trans (congrArg Host.Outcome.next (if_pos hlast))
  case between =>
    intro s x r d hpb hstarted hwaits hmore
    refine completes_of_exec (exec_pbCycleEnd hpb hstarted d hwaits) ?_ rfl
    rw [if_neg (Nat.not_le.mpr hmore), State.gpChanged_pb]
    rfl
  case timeout => exact fun s x r hpb hstarted hwaits => exec_busTimeout hpb hstarted hwaits
  case write => exact fun s p e htake hacts hvalue => ⟨_, exec_gpWrite htake hacts hvalue, rfl, State.setLeg_mask rfl _ _⟩
  case read =>
    intro s p e htake hvalue h6 h7
    rw [exec_gpRead htake hvalue, State.gpRead_of_noSelect h6 h7]
  case change =>
    exact fun s x hlines => congrArg Host.Outcome.next
      (State.gpChanged_of_noLine (s := s.setLeg { s.leg with gpIn := x }) hlines s.gpRead)
  case config => exact fun s w cl hup hclaims => exec_gpConfigWrite hup hclaims
  case refused => exact fun s w c r hup hclaims => exec_gpConfigWrite_refused hup hclaims

end Sys2Proof.Machine
end

section
/-! PROOFS. The tables of the Waggle and the station status (R406 to R409, R438). -/

namespace Sys2Proof.Machine

/-- A LOAD among a range of tables is the next descriptor, of that block and in that range. -/
theorem State.takeLoadIn_eq_some {s : State} {p : Pair} {block lo hi : Nat} {e : Entry} (h : s.takeLoadIn p block lo hi = some e) :
    s.takeOp p.val 1 1 = some e ∧ e.tblBlock = block ∧ lo ≤ e.tblNum ∧ e.tblNum ≤ hi := by
  unfold State.takeLoadIn at h
  split at h
  case h_1 e' he =>
    obtain ⟨hin, hsame⟩ := Option.ite_none_right_eq_some.mp h
    obtain rfl := Option.some.inj hsame
    simp only [Bool.and_eq_true, decide_eq_true_eq] at hin
    obtain ⟨⟨hblock, hlo⟩, hhi⟩ := hin
    exact ⟨he, hblock, hlo, hhi⟩
  case h_2 => exact absurd h (by simp)

/-- The schedule as a LOAD of a schedule table would leave it (R407). -/
def State.schedLoaded (s : State) (e : Entry) : Sparse (BitVec 256) :=
  tload (fun _ => 0) s.wag.sched (withIndex (256 * (e.tblNum - 16) + e.first) e.words256)

section
variable {s : State} {p : Pair} {e : Entry} (hacts : s.roleActs = true) (hmirrors : s.mirrors = false)
include hacts hmirrors

/-! ### Schedules (R407, R409) -/

section
variable (htake : s.takeLoadIn p 10 16 23 = some e)
include htake

/-- The load of a schedule, past the gate for changes and the range of its tables. -/
theorem exec_scheduleLoad : exec (.scheduleLoad p) s =
    if s.modeInUse (e.tblNum - 16) then .next (s.finish p.val e.sub 0x61 (BitVec.ofNat 64 (e.tblNum - 16)))
    else match schedOffence (s.schedLoaded e) (e.tblNum - 16) with
      | some w => .next (s.finish p.val e.sub 0x60 (BitVec.ofNat 64 ((e.tblNum - 16) + w * 256)))
      | none => .next ((s.setWag { s.wag with
          sched := s.schedLoaded e, grdSched := s.schedLoaded e, validModes := putBit s.wag.validModes (e.tblNum - 16) true
          noSched := s.wag.noSched.filter (· ≠ e.tblNum - 16) }).finish p.val e.sub 0 (BitVec.ofNat 64 e.count)) := by
  obtain ⟨hop, hblock, hlo, hhi⟩ := State.takeLoadIn_eq_some htake
  refine (State.asChange_of_acts htake hacts hmirrors).trans ?_
  simp only [doScheduleLoad, hop]
  rw [if_neg (by simp [hblock, hlo, hhi])]
  rfl

theorem exec_scheduleLoad_inUse (huse : s.modeInUse (e.tblNum - 16) = true) :
    exec (.scheduleLoad p) s = .next (s.finish p.val e.sub 0x61 (BitVec.ofNat 64 (e.tblNum - 16))) :=
  (exec_scheduleLoad hacts hmirrors htake).trans (if_pos huse)

theorem exec_scheduleLoad_offence {w : Nat} (huse : s.modeInUse (e.tblNum - 16) = false)
    (hoffence : schedOffence (s.schedLoaded e) (e.tblNum - 16) = some w) :
    exec (.scheduleLoad p) s = .next (s.finish p.val e.sub 0x60 (BitVec.ofNat 64 ((e.tblNum - 16) + w * 256))) := by
  rw [exec_scheduleLoad hacts hmirrors htake, if_neg (by simp [huse]), hoffence]

theorem exec_scheduleLoad_good (huse : s.modeInUse (e.tblNum - 16) = false)
    (hgood : schedOffence (s.schedLoaded e) (e.tblNum - 16) = none) :
    exec (.scheduleLoad p) s = .next ((s.setWag { s.wag with
      sched := s.schedLoaded e, grdSched := s.schedLoaded e, validModes := putBit s.wag.validModes (e.tblNum - 16) true
      noSched := s.wag.noSched.filter (· ≠ e.tblNum - 16) }).finish p.val e.sub 0 (BitVec.ofNat 64 e.count)) := by
  rw [exec_scheduleLoad hacts hmirrors htake, if_neg (by simp [huse]), hgood]

end

/-! ### The receive map, the station table and the segment table (R408) -/

theorem exec_receiveMapLoad (htake : s.takeLoad p 10 1 = some e) : exec (.receiveMapLoad p) s =
    if (withIndex e.first e.words64).any (fun x => decide (fld x.2 63 25 ≠ 0)) then .next (s.finish p.val e.sub 0x02 0)
    else .next ((s.setWag { s.wag with rxMap := tload (fun _ => 0) s.wag.rxMap (withIndex e.first e.words64) }).finish p.val
      e.sub 0 (BitVec.ofNat 64 e.count)) := by
  refine (State.asChange_of_acts htake hacts hmirrors).trans ?_
  simp only [doReceiveMapLoad, htake]

theorem exec_stationTableLoad (htake : s.takeLoad p 10 2 = some e) : exec (.stationTableLoad p) s =
    if (withIndex e.first e.words64).any (fun x =>
        decide (fld x.2 7 6 ≠ 0) || decide (fld x.2 9 8 = 3) || decide (fld x.2 63 11 ≠ 0)) then
      .next (s.finish p.val e.sub 0x02 0)
    else .next ((s.setWag { s.wag with stnTab := tload (fun _ => 0) s.wag.stnTab (withIndex e.first e.words64) }).finish p.val
      e.sub 0 (BitVec.ofNat 64 e.count)) := by
  refine (State.asChange_of_acts htake hacts hmirrors).trans ?_
  simp only [doStationTableLoad, htake]

/-- An entry of the segment table has an unnamed bit set (R408). -/
def segUnnamed (l : List (Nat × BitVec 64)) : Bool :=
  l.any (fun x => decide (fld x.2 7 6 ≠ 0) || decide (fld x.2 63 9 ≠ 0))

section
variable (htake : s.takeLoad p 10 3 = some e)
include htake

theorem exec_segmentTableLoad_unnamed (hbad : segUnnamed (withIndex e.first e.words64) = true) :
    exec (.segmentTableLoad p) s = .next (s.finish p.val e.sub 0x02 0) := by
  refine (State.asChange_of_acts htake hacts hmirrors).trans ?_
  simp only [doSegmentTableLoad, htake]
  exact if_pos hbad

variable (hnamed : segUnnamed (withIndex e.first e.words64) = false)
include hnamed

theorem exec_segmentTableLoad_noTree {b : Nat}
    (hoffence : segOffence (tload (fun _ => 0) s.wag.segTab (withIndex e.first e.words64)) = some b) :
    exec (.segmentTableLoad p) s = .next (s.finish p.val e.sub 0x60 (BitVec.ofNat 64 (b * 256))) := by
  refine (State.asChange_of_acts htake hacts hmirrors).trans ?_
  simp only [doSegmentTableLoad, htake, hoffence]
  exact if_neg (by simpa [segUnnamed] using hnamed)

theorem exec_segmentTableLoad_tree
    (htree : segOffence (tload (fun _ => 0) s.wag.segTab (withIndex e.first e.words64)) = none) :
    exec (.segmentTableLoad p) s = .next ((s.setWag { s.wag with
      segTab := tload (fun _ => 0) s.wag.segTab (withIndex e.first e.words64) }).finish p.val e.sub 0
      (BitVec.ofNat 64 e.count)) := by
  refine (State.asChange_of_acts htake hacts hmirrors).trans ?_
  simp only [doSegmentTableLoad, htake, htree]
  exact if_neg (by simpa [segUnnamed] using hnamed)

end

end

/-! ### Station status (R438) -/

theorem exec_stationStat {s : State} {p : Pair} {e : Entry} (htake : s.takeParam p 2 10 2 = some e) : exec (.stationStat p) s =
    if e.value ≥ 4096 then .next (s.finish p.val e.sub 0x02 0)
    else .next (s.finish p.val e.sub 0 (s.stationStatus e.value)) := by
  change execStationStat p s = _
  simp only [execStationStat, htake]

/-- Settles O34, table by table: the equations above give the state that each load and each read answers. -/
theorem waggleTables : Obligations.WaggleTables := by
  unfold Obligations.WaggleTables
  refine ⟨?schedule, ?offence, ?inUse, ?map, ?mapBad, ?stations, ?stationsBad, ?segments, ?segmentsBad, ?noTree, ?status, ?beyond⟩
  case schedule =>
    exact fun s p e htake hacts hmirrors huse hgood =>
      ⟨_, exec_scheduleLoad_good hacts hmirrors htake huse hgood, rfl, State.setWag_mask rfl _ _⟩
  case offence =>
    exact fun s p e w htake hacts hmirrors huse hoffence => exec_scheduleLoad_offence hacts hmirrors htake huse hoffence
  case inUse => exact fun s p e htake hacts hmirrors huse => exec_scheduleLoad_inUse hacts hmirrors htake huse
  case map =>
    exact fun s p e htake hacts hmirrors hgood =>
      ⟨_, (exec_receiveMapLoad hacts hmirrors htake).trans (if_neg (by rw [hgood]; decide)), rfl, State.setWag_mask rfl _ _⟩
  case mapBad => exact fun s p e htake hacts hmirrors hbad => (exec_receiveMapLoad hacts hmirrors htake).trans (if_pos hbad)
  case stations =>
    exact fun s p e htake hacts hmirrors hgood =>
      ⟨_, (exec_stationTableLoad hacts hmirrors htake).trans (if_neg (by rw [hgood]; decide)), rfl, State.setWag_mask rfl _ _⟩
  case stationsBad =>
    exact fun s p e htake hacts hmirrors hbad => (exec_stationTableLoad hacts hmirrors htake).trans (if_pos hbad)
  case segments =>
    exact fun s p e htake hacts hmirrors hnamed htree =>
      ⟨_, exec_segmentTableLoad_tree hacts hmirrors htake hnamed htree, rfl, State.setWag_mask rfl _ _⟩
  case segmentsBad =>
    exact fun s p e htake hacts hmirrors hbad => exec_segmentTableLoad_unnamed hacts hmirrors htake hbad
  case noTree =>
    exact fun s p e b htake hacts hmirrors hnamed hoffence =>
      exec_segmentTableLoad_noTree hacts hmirrors htake hnamed hoffence
  case status =>
    exact fun s p e htake hstation => (exec_stationStat htake).trans (if_neg (Nat.not_le.mpr hstation))
  case beyond => exact fun s p e htake hstation => (exec_stationStat htake).trans (if_pos hstation)

end Sys2Proof.Machine
end

section
/-! PROOFS. The service port (R563): a request that is executed, one that is answered again, and what each request leaves; EXPECT
(R434), tokens (R564). -/

namespace Sys2Proof.Machine

/-! ### Requests (R563) -/

/-- A request executed: what executing it leaves, with its SEQ and its response kept and the response sent. -/
def State.answer (op : Byte) (seq : Word) (x : State × Byte × List Byte) : State :=
  (x.1.setLcy { x.1.lcy with
    lastSeq := some seq, lastResp := some { op := op ||| 0x80, code := x.2.1, seq := seq, payload := x.2.2 } }).emitOut
    (.usb (Response.bytes { op := op ||| 0x80, code := x.2.1, seq := seq, payload := x.2.2 }))

@[simp] theorem State.answer_lcy (op : Byte) (seq : Word) (x : State × Byte × List Byte) : (State.answer op seq x).lcy =
    { x.1.lcy with
      lastSeq := some seq, lastResp := some { op := op ||| 0x80, code := x.2.1, seq := seq, payload := x.2.2 } } := rfl

@[simp] theorem State.answer_twn (op : Byte) (seq : Word) (x : State × Byte × List Byte) : (State.answer op seq x).twn = x.1.twn :=
  rfl

@[simp] theorem State.answer_wag (op : Byte) (seq : Word) (x : State × Byte × List Byte) : (State.answer op seq x).wag = x.1.wag :=
  rfl

section
variable {s : State} {c : Instr} {op : Byte} {seq : Word} {f : State → State × Byte × List Byte}
  (hexec : exec c s = .next (s.service op seq f))
include hexec

theorem exec_of_notServed (hserves : s.serves = false) : exec c s = .next s := by
  rw [hexec, State.service, if_pos (by simp [hserves])]

theorem exec_of_outOfSequence {r : Response} (hserves : s.serves = true) (hseq : s.lcy.takesSeq seq = false)
    (hlast : s.lcy.lastResp = some r) : exec c s = .next (s.emitOut (.usb r.bytes)) := by
  rw [hexec, State.service, if_neg (by simp [hserves]), if_neg (by simp [hseq]), hlast]

theorem exec_of_served (hserves : s.serves = true) (hseq : s.lcy.takesSeq seq = true) :
    exec c s = .next (State.answer op seq (f s)) := by
  rw [hexec, State.service, if_neg (by simp [hserves]), if_pos hseq]
  rfl

end

/-! ### EXPECT (R434) -/

theorem fld_putFld_9_8 (w : BitVec 64) {v : Nat} (hv : v < 4) : fld (putFld w 9 8 v) 9 8 = v := by
  have hw := w.isLt
  simp only [putFld, fld, BitVec.toNat_ofNat, Nat.shiftRight_eq_div_pow]
  omega

theorem exec_expect_one {s : State} {q : Word} {e : ExpectEntry} (hserves : s.serves = true) (hseq : s.lcy.takesSeq q = true)
    (hview : e.view ≠ 3) (hreturn : s.lcy.st ≠ .return_) (hend : s.lcy.st ≠ .end_) :
    exec (.expect q [e]) s = .next (State.answer 0x09 q (s.setWag { s.wag with
      stnTab := tmod 0 s.wag.stnTab e.station.val (fun w => putFld w 9 8 e.view.val) }, 0, [])) := by
  refine (exec_of_served rfl hserves hseq).trans ?_
  rw [if_neg (by simp [hreturn, hend]), if_neg (by simp [hview])]
  rfl

theorem exec_expect_closed {s : State} {q : Word} (l : List ExpectEntry) (hserves : s.serves = true)
    (hseq : s.lcy.takesSeq q = true) (hclosed : s.lcy.st = .return_ ∨ s.lcy.st = .end_) :
    exec (.expect q l) s = .next (State.answer 0x09 q (s, 0xA7, [])) := by
  refine (exec_of_served rfl hserves hseq).trans ?_
  rw [if_pos (by simpa using hclosed)]

/-! ### LEDGER (R590) -/

theorem exec_ledger_live {s : State} {q : Word} (x : Word) {n : Nat} (hserves : s.serves = true) (hseq : s.lcy.takesSeq q = true)
    (hmin : 1 ≤ n) (hmax : n ≤ 60) : exec (.ledger q 0 x n) s = .next (State.answer 0x08 q (s.tookFree, 0,
      s.liveRecord ++ Config.mldsaSign (s.liveRecord ++ leBytes 16 s.lcy.nonce.toNat) s.freeIdx)) := by
  refine (exec_of_served rfl hserves hseq).trans ?_
  rw [if_neg (by simp; omega)]
  rfl

theorem exec_ledger_undefined {s : State} {q : Word} (x : Word) {w : BitVec 8} (n : Nat) (hserves : s.serves = true)
    (hseq : s.lcy.takesSeq q = true) (hwhat : 2 ≤ w.toNat) :
    exec (.ledger q w x n) s = .next (State.answer 0x08 q (s, 0xA0, [])) := by
  refine (exec_of_served rfl hserves hseq).trans ?_
  rw [if_pos (by simp; omega)]

/-! ### Tokens (R564) -/

theorem State.takeToken_none {s : State} {b : List Byte} (hop : tokenOp (slice b 0 64) = none) : s.takeToken b = (s, 0xAC) := by
  simp only [State.takeToken, hop]

/-- A well formed token for the debug port of the logic side in MAKER, for this module and nonce. -/
structure MakerDebugToken (s : State) (b key sig : List Byte) : Prop where
  maker : s.lcy.st = .maker
  keys : s.lcy.makerKeys = [key]
  minSig : s.lcy.minSig = false
  nonceLive : s.lcy.nonceLive = true
  length : 64 ≤ b.length
  magic : leAt (slice b 0 64) 0 4 = 0x4E4B5458
  op : leAt (slice b 0 64) 4 1 = 2
  state : leAt (slice b 0 64) 5 1 = 1
  serial : leAt (slice b 0 64) 8 8 = fld s.pw.serial 63 0
  nonce : leAt (slice b 0 64) 16 16 = s.lcy.nonce.toNat
  parts : tokenParts false b = some ([], sig)
  keyLength : key.length = (if sig.length = 2420 then 1312 else 1952)

section
variable {s : State} {b key sig : List Byte} (h : MakerDebugToken s b key sig)
include h

theorem MakerDebugToken.tokenSigned : s.lcy.tokenSigned .maker (slice b 0 64) [] sig = Config.mldsaVerify key (slice b 0 64) sig := by
  simp [LcyState.tokenSigned, LcyState.keysOf, h.keys, h.minSig, h.keyLength]

theorem MakerDebugToken.takeToken : s.takeToken b =
    if Config.mldsaVerify key (slice b 0 64) sig then
      (((s.setLcy { s.lcy with ldbg := true }).emitOut (.debug false true)).setLcy { s.lcy with
        ldbg := true, minSig := minSigAfter s.lcy (.debug false) (leAt (slice b 0 64) 7 1), nonceLive := false }, 0)
    else (s, 0xAC) := by
  have hop : tokenOp (slice b 0 64) = some (.debug false) := by rw [tokenOp, h.op]; rfl
  have hkey : tokenHasKey s.lcy.st (.debug false) = false := rfl
  have hby : tokenBy s.lcy.st (.debug false) = some .maker := by rw [h.maker]; rfl
  simp only [State.takeToken, hop]
  rw [if_neg (by simp [h.length, h.magic, h.state, h.maker, LcState.code, h.serial, h.nonceLive, h.nonce]), hkey, hby, h.parts]
  dsimp only
  rw [h.tokenSigned]
  cases Config.mldsaVerify key (slice b 0 64) sig <;> rfl

end

/-- Settles O46: every request goes through the one rule of the port; what is left is what executing it leaves. -/
theorem servicePortAndTokens : Obligations.ServicePortAndTokens := by
  unfold Obligations.ServicePortAndTokens
  refine ⟨?notServed, ?again, ?hello, ?stage, ?stageBeyond, ?discard, ?status, ?ledger, ?ledgerUndefined, ?expect, ?expectClosed,
    ?busReset, ?noOperation, ?debug⟩
  case notServed =>
    intro s q o b f w x n l hserves
    exact ⟨exec_of_notServed rfl hserves, exec_of_notServed rfl hserves, exec_of_notServed rfl hserves,
      exec_of_notServed rfl hserves, exec_of_notServed rfl hserves, exec_of_notServed rfl hserves,
      exec_of_notServed rfl hserves, exec_of_notServed rfl hserves, exec_of_notServed rfl hserves⟩
  case again =>
    intro s q r o b f w x n l hserves hseq hlast
    exact ⟨exec_of_outOfSequence rfl hserves hseq hlast, exec_of_outOfSequence rfl hserves hseq hlast,
      exec_of_outOfSequence rfl hserves hseq hlast, exec_of_outOfSequence rfl hserves hseq hlast,
      exec_of_outOfSequence rfl hserves hseq hlast, exec_of_outOfSequence rfl hserves hseq hlast,
      exec_of_outOfSequence rfl hserves hseq hlast, exec_of_outOfSequence rfl hserves hseq hlast,
      exec_of_outOfSequence rfl hserves hseq hlast⟩
  case hello =>
    exact fun s q hserves hseq =>
      completes_of_exec (exec_of_served rfl hserves hseq) ⟨rfl, rfl, rfl, rfl, rfl, rfl⟩ rfl
  case stage =>
    intro s q o b hserves hseq hfits
    refine completes_of_exec (exec_of_served rfl hserves hseq) ?_ rfl
    rw [if_neg (Nat.not_lt.mpr hfits)]
    exact ⟨rfl, rfl, rfl, rfl⟩
  case stageBeyond =>
    intro s q o b hserves hseq hbeyond
    refine completes_of_exec (exec_of_served rfl hserves hseq) ?_ rfl
    rw [if_pos hbeyond]
    exact ⟨rfl, rfl, rfl, rfl⟩
  case discard =>
    exact fun s q hserves hseq => completes_of_exec (exec_of_served rfl hserves hseq) ⟨rfl, rfl, rfl, rfl⟩ rfl
  case status => exact fun s q hserves hseq => completes_of_exec (exec_of_served rfl hserves hseq) rfl rfl
  case ledger =>
    exact fun s q x n hserves hseq hmin hmax => completes_of_exec (exec_ledger_live x hserves hseq hmin hmax) rfl rfl
  case ledgerUndefined =>
    exact fun s q x w n hserves hseq hwhat => completes_of_exec (exec_ledger_undefined x n hserves hseq hwhat) rfl rfl
  case expect =>
    intro s q e hserves hseq hview hreturn hend
    refine completes_of_exec (exec_expect_one hserves hseq hview hreturn hend) ⟨?_, rfl⟩ rfl
    have hput := tget_tput_same 0 (putFld (tget 0 s.wag.stnTab e.station.val) 9 8 e.view.val) s.wag.stnTab e.station.val
    exact (congrArg (fld · 9 8) hput).trans (fld_putFld_9_8 _ e.view.isLt)
  case expectClosed =>
    exact fun s q l hserves hseq hclosed => completes_of_exec (exec_expect_closed l hserves hseq hclosed) ⟨rfl, rfl⟩ rfl
  case busReset => exact fun s => rfl
  case noOperation =>
    intro s q b hserves hseq hop
    refine completes_of_exec (exec_of_served rfl hserves hseq) ?_ rfl
    rw [State.takeToken_none hop]
    exact ⟨rfl, rfl, rfl, rfl⟩
  case debug =>
    intro s q b k g hserves hseq hmaker hkeys hminSig hlive hlength hmagic hop hstate _ hserial hnonce hparts hkeyLength
    have htoken : MakerDebugToken s b k g :=
      ⟨hmaker, hkeys, hminSig, hlive, hlength, hmagic, hop, hstate, hserial, hnonce, hparts, hkeyLength⟩
    refine completes_of_exec (exec_of_served rfl hserves hseq) ?_ rfl
    rw [htoken.takeToken]
    cases hverified : Config.mldsaVerify k (slice b 0 64) g with
    | true => exact ⟨rfl, rfl, rfl⟩
    | false => exact ⟨rfl, hlive, rfl⟩

end Sys2Proof.Machine
end

section
/-! PROOFS. INSTALL, the end of its writing, ACTIVATE and the commit of an activation (R569 to R574). -/

namespace Sys2Proof.Machine

/-! ### Slots (R570, R574) -/

theorem LcyState.putInactive_inactive (l : LcyState) (a : Activation) : (l.putInactive a).inactive = a :=
  tget_tput_same _ _ _ _

theorem LcyState.putInactive_active (l : LcyState) (a : Activation) : (l.putInactive a).active = l.active :=
  tget_tput_other _ _ _ _ _ (by
    rw [show (l.putInactive a).slotB = l.slotB from rfl]
    cases l.slotB <;> decide)

/-! ### INSTALL (R569, R571) -/

theorem State.judgePackage_notPackage {s : State} (h : s.pkgOk s.lcy.package = false) : s.judgePackage = .refused 0xA0 0 := by
  simp only [State.judgePackage]
  rw [if_pos (by simp [h])]

theorem State.sendImages_lcy (s : State) (j : InstallJob) : (s.sendImages j).lcy = s.lcy :=
  State.lcy_kept (State.sendImages_mask rfl s j)

section
variable {s : State} {q : Word} (hserves : s.serves = true) (hseq : s.lcy.takesSeq q = true)
include hserves hseq

theorem exec_install_end (hend : s.lcy.st = .end_) : exec (.install q) s = .next (State.answer 0x03 q (s.updEnds 0xA7)) := by
  refine (exec_of_served rfl hserves hseq).trans ?_
  rw [if_pos hend]

section
variable (hend : s.lcy.st ≠ .end_)
include hend

theorem exec_install_refused {c : Byte} {r : BitVec 64} (hjudged : s.judgePackage = .refused c r) :
    exec (.install q) s = .next (State.answer 0x03 q (s.updEnds c)) := by
  refine (exec_of_served rfl hserves hseq).trans ?_
  rw [if_neg hend, hjudged]

theorem exec_install_accepted {j : InstallJob} (hjudged : s.judgePackage = .ok j) :
    exec (.install q) s = .next (State.answer 0x03 q (State.updEnds ((s.setLcy { s.lcy.putInactive {} with
      phase := .installing, job := some j, installed := false, activating := false, fallbackOk := false, progress := 0
      }).sendImages j) 0)) := by
  refine (exec_of_served rfl hserves hseq).trans ?_
  rw [if_neg hend, hjudged]

/-! ### ACTIVATE (R573, R574) -/

theorem exec_activate_notInstalled (f : Bool) (hinstalled : s.lcy.installed = false) :
    exec (.activate q f) s = .next (State.answer 0x04 q (s.updEnds 0xA8)) := by
  refine (exec_of_served rfl hserves hseq).trans ?_
  rw [if_neg hend, if_pos (by simp [hinstalled])]

section
variable (f : Bool) (hinstalled : s.lcy.installed = true)
include hinstalled

theorem exec_activate_refused (hrefused : s.updRefused ≠ 0) :
    exec (.activate q f) s = .next (State.answer 0x04 q (s.updEnds 0xA6)) := by
  refine (exec_of_served rfl hserves hseq).trans ?_
  rw [if_neg hend, if_neg (by simp [hinstalled]), if_pos hrefused]

/-- The state in which an activation has begun. -/
def State.activationBegun (s : State) (f : Bool) : State :=
  s.setLcy { s.lcy with activating := true, fieldRst := f, phase := .activating, lastCode := 0 }

/-- An activation that has begun asks for a handover where the member is HOLDER: the offer is out, or the activation has ended. -/
def State.activationHandover (s : State) : State :=
  if s.twn.st = .holder then
    if (s.offerHandover .activation).twn.offer.isSome then s.offerHandover .activation
    else (s.offerHandover .activation).refuseActivation 0xAE
  else s

variable (hrefused : s.updRefused = 0)
include hrefused

theorem exec_activate_begins :
    exec (.activate q f) s = .next (State.answer 0x04 q ((s.activationBegun f).activationHandover, 0, [])) := by
  refine (exec_of_served rfl hserves hseq).trans ?_
  rw [if_neg hend, if_neg (by simp [hinstalled]), if_neg (not_not.mpr hrefused)]
  unfold State.activationHandover
  by_cases hholder : (s.activationBegun f).twn.st = .holder
  · rw [if_pos hholder]
    exact congrArg (fun x => Host.Outcome.next (State.answer 0x04 q x)) (if_pos hholder)
  · rw [if_neg hholder]
    exact congrArg (fun x => Host.Outcome.next (State.answer 0x04 q x)) (if_neg hholder)

end

end

end

theorem State.activationHandover_of_notHolder {s : State} (hholder : s.twn.st ≠ .holder) : s.activationHandover = s := if_neg hholder

/-- A holder whose partner is out of step offers no handover. -/
theorem State.activationHandover_of_outOfStep {s : State} (hholder : s.twn.st = .holder) (hoffer : s.twn.offer = none)
    (hstep : s.twn.inStep = false) : s.activationHandover = (s.raise 0x74 0).refuseActivation 0xAE := by
  have hraised : s.offerHandover .activation = s.raise 0x74 0 := by
    rw [State.offerHandover, if_neg (not_not.mpr hholder), if_neg (by simp [hoffer]), if_pos (by simp [hstep])]
  rw [State.activationHandover, if_pos hholder, hraised, if_neg (by simp [hoffer])]

/-! ### The end of the writing (R570 to R572) -/

/-- The life-cycle part once the writing of an INSTALL has ended. -/
def LcyState.written (l : LcyState) (j : InstallJob) : LcyState := { l with job := none, progress := j.total }

theorem exec_installDone_noJob {s : State} (hjob : s.lcy.job = none) : exec .installDone s = .next s := by
  change execInstallDone s = _
  simp only [execInstallDone, hjob]

section
variable {s : State} {j : InstallJob} (hjob : s.lcy.job = some j)
include hjob

theorem exec_installDone_bad {c : Byte} (hbad : j.fieldBad = some c) :
    exec .installDone s = .next (s.setLcy { s.lcy.written j with phase := .failed, lastCode := c }) := by
  change execInstallDone s = _
  simp only [execInstallDone, hjob, hbad]
  rfl

variable (hbad : j.fieldBad = none)
include hbad

theorem exec_installDone_unchecked {k : Nat} (hpart : j.fieldParts.contains k = true) (hunchecked : j.fieldOk.contains k = false) :
    exec .installDone s = .next s := by
  change execInstallDone s = _
  simp only [execInstallDone, hjob, hbad]
  refine if_pos ?_
  rw [Bool.not_eq_true', List.all_eq_false]
  exact ⟨k, List.contains_iff_mem.mp hpart, by rw [hunchecked]; decide⟩

variable (hchecked : j.fieldParts.all (fun t => j.fieldOk.contains t) = true)
include hchecked

/-- A hash of a target differs from the one that the manifest names. -/
def InstallJob.hashDiffers (j : InstallJob) : Bool :=
  j.hashes.any (fun h => decide (Config.sha3 (tget [] j.act.images h.1) ≠ h.2))

theorem exec_installDone_checked : exec .installDone s = .next (
    if j.hashDiffers then s.setLcy { s.lcy.written j with phase := .failed, lastCode := 0xA3 }
    else s.setLcy { (s.lcy.written j).putInactive { j.act with
        slotKey := s.lcy.logicKeys[(!s.lcy.slotB).toNat]?, halfKey := s.lcy.fieldKey } with
      phase := .installed, installed := true, lastCode := 0 }) := by
  change execInstallDone s = _
  simp only [execInstallDone, hjob, hbad]
  rw [if_neg (by rw [hchecked]; decide), apply_ite Host.Outcome.next]
  rfl

end

/-! ### The commit (R572, R574) -/

section
variable {s : State}

theorem exec_activationCommit_nothing (h : s.lcy.activating = false ∨ s.lcy.installed = false ∨ s.twn.st = .holder) :
    exec .activationCommit s = .next s := by
  refine (if_pos ?_ : execActivationCommit s = _)
  rcases h with h | h | h <;> simp [h]

variable (hactivating : s.lcy.activating = true) (hinstalled : s.lcy.installed = true) (hholder : s.twn.st ≠ .holder)
include hactivating hinstalled hholder

theorem exec_activationCommit_needsRestart (hdiffers : fieldDiffers s.lcy.active s.lcy.inactive = true)
    (hrst : s.lcy.fieldRst = false) (hmember : s.twn.fieldMember = false) (hvariant : s.pw.variantL = false) :
    exec .activationCommit s = .next (s.refuseActivation 0xAF) := by
  change execActivationCommit s = _
  rw [execActivationCommit, if_neg (by simp [hactivating, hinstalled, hholder])]
  exact if_pos (by simp [hdiffers, hrst, hmember, hvariant])

theorem exec_activationCommit_logicOnly (hsame : fieldDiffers s.lcy.active s.lcy.inactive = false)
    (hhold : tget [] s.lcy.inactive.images 5 = tget [] s.lcy.active.images 5) (hrules : s.lcy.inactive.rules = false)
    (hrefused : s.updRefused = 0) : exec .activationCommit s = .next s.commitActivation := by
  change execActivationCommit s = _
  have happlied : s.activationRules s.lcy.inactive = .applied s := if_pos (by simp [hrules])
  rw [execActivationCommit, if_neg (by simp [hactivating, hinstalled, hholder])]
  dsimp only
  rw [if_neg (by simp [hsame]), if_neg (by simp [hhold]), happlied]
  exact if_neg (not_not.mpr hrefused)

end

/-- A half with the firmware and the hold program of before is no news to the field side. -/
theorem State.adoptHalf_of_same {old new : Activation} (s : State) (hsame : fieldDiffers old new = false)
    (hhold : tget [] new.images 5 = tget [] old.images 5) : s.adoptHalf old new = s := by
  simp [State.adoptHalf, hsame, hhold]

theorem State.holdLogic_lcy (s : State) (cold : Bool) (cause : Nat) :
    (s.holdLogic cold cause).lcy = { s.lcy with ldbg := false, fdbg := false }.logicReset := by
  have h : (s.holdLogic cold cause).lcy = s.resetRings.closeDebug.lcy.logicReset := rfl
  rw [h, State.closeDebug_lcy, State.lcy_kept (State.resetRings_mask rfl s)]

/-- The life-cycle part that a commit leaves, before the reset that follows it. -/
def LcyState.committed (l : LcyState) : LcyState :=
  { l with
    slotB := !l.slotB, actCnt := satInc 0xFFFF l.actCnt, fallbackOk := true, trial := true, installed := false
    activating := false, phase := .trial, lastCode := 0 }

section
variable {s : State} (hsame : fieldDiffers s.lcy.active s.lcy.inactive = false)
  (hhold : tget [] s.lcy.inactive.images 5 = tget [] s.lcy.active.images 5)
include hsame hhold

theorem State.commitActivation_of_same : s.commitActivation =
    ((((s.setLcy s.lcy.committed).countLogic 11).noteCause 2).applyCalPart s.lcy.inactive).holdLogic false 6 := by
  unfold State.commitActivation
  dsimp only
  rw [State.adoptHalf_of_same _ hsame hhold]
  rfl

theorem State.commitActivation_lcy :
    s.commitActivation.lcy = { s.lcy.committed with ldbg := false, fdbg := false }.logicReset := by
  rw [State.commitActivation_of_same hsame hhold, State.holdLogic_lcy, State.lcy_kept (State.applyCalPart_mask rfl _ _),
    State.lcy_kept (State.noteCause_mask rfl _ _), State.countLogic_lcy]
  rfl

theorem State.commitActivation_pw : s.commitActivation.pw.logic = .held ∧
    s.commitActivation.pw.restart = some { cold := false, cause := 6 } := by
  rw [State.commitActivation_of_same hsame hhold, State.holdLogic_pw]
  exact ⟨rfl, rfl⟩

end

/-! ### Images on the downlink (R18, R571) -/

/-- The job once the field die has taken an image of it. -/
def LcyState.imageTaken (l : LcyState) (j : InstallJob) (k : Nat) (b : List Byte) : InstallJob :=
  if l.signedOk j.manifest j.sigs = false then { j with fieldBad := some 0xA1 }
  else if j.hashes.any (fun h => decide (h.1 = k) && decide (Config.sha3 b ≠ h.2)) = true then { j with fieldBad := some 0xA3 }
  else { j with fieldOk := k :: j.fieldOk }

theorem State.takeUpdate_of_job {s : State} {j : InstallJob} (hjob : s.lcy.job = some j) (k : Nat) (b : List Byte) :
    s.takeUpdate k b = { s with lcy := { s.lcy with job := some (s.lcy.imageTaken j k b) } } := by
  simp only [State.takeUpdate, hjob, LcyState.imageTaken, Bool.not_eq_true']

/-- Settles O47, clause by clause: the equations above give the state that each command answers. -/
theorem installAndActivation : Obligations.InstallAndActivation := by
  unfold Obligations.InstallAndActivation
  refine ⟨?installEnd, ?judged, ?noPackage, ?noJob, ?fieldBad, ?unchecked, ?checked, ?image, ?activateEnd, ?notInstalled, ?refused,
    ?begins, ?outOfStep, ?nothing, ?needsRestart, ?commit⟩
  case installEnd =>
    exact fun s q hserves hseq hend => completes_of_exec (exec_install_end hserves hseq hend) ⟨rfl, rfl, rfl⟩ rfl
  case judged =>
    intro s q hserves hseq hend
    cases hjudged : s.judgePackage with
    | refused c r =>
      refine completes_of_exec (exec_install_refused hserves hseq hend hjudged) ⟨?_, nofun⟩ rfl
      rintro c' r' ⟨⟩
      exact ⟨rfl, rfl, rfl⟩
    | ok j =>
      refine completes_of_exec (exec_install_accepted hserves hseq hend hjudged) ⟨nofun, ?_⟩ rfl
      rintro j' ⟨⟩
      rw [State.answer_lcy]
      dsimp only [State.updEnds]
      rw [State.setLcy_lcy, State.sendImages_lcy]
      exact ⟨rfl, rfl, rfl, rfl⟩
  case noPackage =>
    exact fun s q hserves hseq hend hbad => completes_of_exec
      (exec_install_refused hserves hseq hend (State.judgePackage_notPackage hbad)) ⟨rfl, rfl, rfl⟩ rfl
  case noJob => exact fun s hjob => exec_installDone_noJob hjob
  case fieldBad =>
    exact fun s j c hjob hbad => completes_of_exec (exec_installDone_bad hjob hbad) ⟨rfl, rfl, rfl, rfl, rfl⟩ rfl
  case unchecked => exact fun s j k hjob hbad hpart hunchecked => exec_installDone_unchecked hjob hbad hpart hunchecked
  case checked =>
    intro s j hjob hbad hchecked
    refine completes_of_exec (exec_installDone_checked hjob hbad hchecked) ?_ rfl
    change _ ∧ _ ∧ if j.hashDiffers = true then _ else _
    cases j.hashDiffers with
    | true => exact ⟨rfl, rfl, rfl, rfl, rfl, rfl⟩
    | false => exact ⟨rfl, LcyState.putInactive_active _ _, rfl, rfl, rfl, LcyState.putInactive_inactive _ _⟩
  case image =>
    intro s j k b r hdown hup hjob
    have htaken := State.takeUpdate_of_job (s := { s with fio := { s.fio with down := r } }) hjob k b
    exact ⟨_, (exec_downlinkFrame_valid hdown hup).trans (congrArg Host.Outcome.next htaken), ⟨rfl, rfl⟩, rfl⟩
  case activateEnd =>
    intro s q f hserves hseq hend
    refine completes_of_exec (exec_of_served rfl hserves hseq) ?_ rfl
    rw [if_pos hend]
    exact ⟨rfl, rfl⟩
  case notInstalled =>
    exact fun s q f hserves hseq hend hinstalled => completes_of_exec
      (exec_activate_notInstalled hserves hseq hend f hinstalled) ⟨rfl, rfl⟩ rfl
  case refused =>
    exact fun s q f hserves hseq hend hinstalled hrefused => completes_of_exec
      (exec_activate_refused hserves hseq hend f hinstalled hrefused) ⟨rfl, rfl⟩ rfl
  case begins =>
    intro s q f hserves hseq hend hinstalled hrefused hholder
    refine completes_of_exec (exec_activate_begins hserves hseq hend f hinstalled hrefused) ?_ rfl
    rw [State.activationHandover_of_notHolder (s := s.activationBegun f) hholder]
    exact ⟨rfl, rfl, rfl, rfl, rfl⟩
  case outOfStep =>
    intro s q f hserves hseq hend hinstalled hrefused hholder hoffer hstep
    refine completes_of_exec (exec_activate_begins hserves hseq hend f hinstalled hrefused) ?_ rfl
    rw [State.activationHandover_of_outOfStep (s := s.activationBegun f) hholder hoffer hstep]
    exact ⟨rfl, rfl, rfl⟩
  case nothing => exact fun s h => exec_activationCommit_nothing h
  case needsRestart =>
    intro s hactivating hinstalled hholder hdiffers hrst hmember hvariant
    exact ⟨_, exec_activationCommit_needsRestart hactivating hinstalled hholder hdiffers hrst hmember hvariant, ⟨rfl, rfl⟩, rfl⟩
  case commit =>
    intro s hactivating hinstalled hholder hsame hhold hrules hrefused
    refine completes_of_exec
      (exec_activationCommit_logicOnly hactivating hinstalled hholder hsame hhold hrules hrefused) ?_ rfl
    rw [State.commitActivation_lcy hsame hhold]
    exact ⟨rfl, rfl, rfl, rfl, rfl, State.commitActivation_pw hsame hhold⟩

end Sys2Proof.Machine
end

section
/-! PROOFS. The sealed switches, the safety inputs and their test pulses (R470 to R472, R483, R484), the groups in the safety cycle and
the manual restart (R488 to R490): what each does to a group, and what it leaves beside the groups. -/

namespace Sys2Proof.Machine

/-! ### Folds -/

/-- What every element but one keeps, that one turns into what every element but it keeps. -/
theorem foldl_of_once {σ α : Type} {R Q : σ → Prop} {f : σ → α → σ} {l : List α} {a : α} (hnodup : l.Nodup) (ha : a ∈ l)
    (hbefore : ∀ s b, b ≠ a → R s → R (f s b)) (hturn : ∀ s, R s → Q (f s a)) (hafter : ∀ s b, b ≠ a → Q s → Q (f s b)) (s : σ)
    (hs : R s) : Q (l.foldl f s) := by
  obtain ⟨before, after, rfl⟩ := List.append_of_mem ha
  have hsplit := (List.perm_middle (a := a) (l₁ := before) (l₂ := after)).nodup_iff.mp hnodup
  obtain ⟨hnot, _⟩ := List.nodup_cons.mp hsplit
  rw [List.foldl_append, List.foldl_cons]
  refine List.foldlRecOn _ _ (hturn _ ?_) fun u hu b hb => hafter u b ?_ hu
  · exact List.foldlRecOn _ _ hs fun u hu b hb => hbefore u b (ne_of_mem_of_not_mem (List.mem_append_left _ hb) hnot) hu
  · exact ne_of_mem_of_not_mem (List.mem_append_right _ hb) hnot

/-- A fold stays where every element leaves it. -/
theorem foldl_of_fixed {σ α : Type} {f : σ → α → σ} {s : σ} {l : List α} (h : ∀ b ∈ l, f s b = s) : l.foldl f s = s :=
  List.foldlRecOn (motive := (· = s)) _ _ rfl fun u hu b hb => by rw [hu, h b hb]

/-! ### Groups that take causes (R466, R467) -/

section
variable {r : GroupRt} (verified : Bool) {guard fg : Demand}

theorem GroupRt.takes_guardPermit_of_cause (h : guard.any = true) : (r.takes verified guard fg).guardPermit = false := by
  simp [GroupRt.takes, h]

theorem GroupRt.takes_guardPermit_of_none (h : r.guardPermit = false) : (r.takes verified guard fg).guardPermit = false := by
  simp [GroupRt.takes, h]

theorem GroupRt.takes_fgPermit_of_cause (h : fg.any = true) : (r.takes verified guard fg).fgPermit = false := by
  simp [GroupRt.takes, h]

end

theorem SafState.sin_of_besideGroups {f g : SafState} (h : f.besideGroups = g.besideGroups) : f.sin = g.sin :=
  (congrArg SafState.sin h :)

theorem SafState.discrepCnt_of_besideGroups {f g : SafState} (h : f.besideGroups = g.besideGroups) : f.discrepCnt = g.discrepCnt :=
  (congrArg SafState.discrepCnt h :)

theorem SafState.sinRow_of_besideGroups {f g : SafState} (h : f.besideGroups = g.besideGroups) (i : Nat) : f.sinRow i = g.sinRow i :=
  (congrArg (fun u : SafState => u.sinRow i) h :)

theorem State.safUpdate_guardPermit_of_none {s : State} {g : Fin 16} (h : (s.saf.group g.val).guardPermit = false) :
    (s.safUpdate.saf.group g.val).guardPermit = false := by
  rw [State.safUpdate, State.putGroups_group]
  exact GroupRt.takes_guardPermit_of_none _ h

theorem State.safUpdate_fg_powerUp (s : State) (g : Fin 16) :
    (s.safUpdate.saf.group g.val).fg.powerUp = (s.saf.group g.val).fg.powerUp := by
  rw [State.safUpdate, State.putGroups_group]
  rfl

/-- A local demand takes both permits. -/
theorem State.safUpdate_of_localDemand {s : State} {g : Fin 16} (h : s.saf.localDemand g.val = true) :
    (s.safUpdate.saf.group g.val).guardPermit = false ∧ (s.safUpdate.saf.group g.val).fgPermit = false := by
  rw [State.safUpdate, State.putGroups_group]
  exact ⟨GroupRt.takes_guardPermit_of_cause _ (by simp [Demand.any, h]), GroupRt.takes_fgPermit_of_cause _ (by simp [Demand.any, h])⟩

theorem State.regate_group (s : State) (g : Nat) : s.regate.saf.group g = s.saf.group g :=
  State.group_of_besideOutputs (State.regate_besideOutputs s) g

theorem State.regate_besideGroups (s : State) : s.regate.saf.besideGroups = s.saf.besideGroups :=
  State.besideGroups_of_besideOutputs (State.regate_besideOutputs s)

/-! ### The configuration's check (R477) -/

/-- The safety part beside the groups and the configuration fault. -/
def SafState.besideCfg (f : SafState) : SafState := { f.besideGroups with cfgFault := false }

theorem SafState.besideCfg_of_besideGroups {f g : SafState} (h : f.besideGroups = g.besideGroups) : f.besideCfg = g.besideCfg :=
  (congrArg (fun u : SafState => { u with cfgFault := false }) h :)

/-- All groups after a configuration fault: each has its cause. -/
def State.cfgFaulted (s : State) : State :=
  ((s.setSaf { s.saf with cfgFault := true }).countLedger 22).putGroups
    (fun _ r => ({ r.guard with cfgCause := true }, { r.fg with cfgCause := true }))

theorem State.cfgCheck_cases (s : State) : s.cfgCheck = s ∨ ∃ k, s.cfgCheck = s.cfgFaulted.regate.fieldRaise 0x8A k := by
  unfold State.cfgCheck
  split
  · exact .inl rfl
  · split
    · exact .inl rfl
    · exact .inr ⟨_, rfl⟩

theorem State.cfgCheck_besideCfg (s : State) : s.cfgCheck.saf.besideCfg = s.saf.besideCfg := by
  obtain h | ⟨k, h⟩ := s.cfgCheck_cases
  · rw [h]
  · rw [h, State.fieldRaise_saf, SafState.besideCfg_of_besideGroups (State.regate_besideGroups _), State.cfgFaulted,
      SafState.besideCfg_of_besideGroups (State.putGroups_besideGroups _ _)]
    rfl

/-- The check keeps of a group what the cause of a configuration fault keeps. -/
theorem State.cfgCheck_group {s : State} {P : GroupRt → Prop} (g : Fin 16)
    (hkeep : ∀ r v, P r → P (r.takes v { r.guard with cfgCause := true } { r.fg with cfgCause := true }))
    (h : P (s.saf.group g.val)) : P (s.cfgCheck.saf.group g.val) := by
  obtain hcheck | ⟨k, hcheck⟩ := s.cfgCheck_cases
  · rw [hcheck]
    exact h
  · rw [hcheck, State.fieldRaise_saf, State.regate_group, State.cfgFaulted, State.putGroups_group]
    exact hkeep _ _ h

/-! ### The sealed switches (R470 to R472) -/

theorem State.settleDacs_pw (s : State) : s.settleDacs.pw = s.pw := rfl

/-- SEAL has changed: the switches' new value and the latch are kept, counted and told. -/
def State.sealChanged (s : State) (v : BitVec 16) : State :=
  ((s.settleDacs.setSaf { s.saf with sealNow := v, sealLatch := true }).countLedger 9).fieldRaise 0x85 (BitVec.ofNat 64 v.toNat)

/-- Both halves have read SEAL, and demand every group for its change. -/
def State.sealMoved (s : State) (v : BitVec 16) : State :=
  State.regate ((s.setSaf { s.saf with sealRead := v, rulesHold := s.saf.heldGroups v }).putGroups
    (fun _ r => ({ r.guard with sealCause := true }, { r.fg with sealCause := true })))

/-- The inputs are fitted to the rows that are active now, and the change of SEAL is over but for the groups held. -/
def State.sealSettled (s : State) (held : BitVec 16) : State :=
  ((State.safUpdate (s.setSaf s.saf.fitInputs)).putGroups
    (fun g r => ({ r.guard with sealCause := tbit held g }, { r.fg with sealCause := tbit held g }))).cfgCheck

section
variable {s : State} {v : BitVec 16} (hchange : v ≠ s.saf.sealNow)
include hchange

theorem exec_sealChange_down (hdown : s.pw.fieldUp = false) : exec (.sealChange v) s = .next (s.sealChanged v) := by
  change execSealChange v s = _
  simp only [execSealChange]
  rw [if_neg hchange]
  exact if_pos (by simp [State.settleDacs_pw, hdown])

theorem exec_sealChange_moved (hup : s.pw.fieldUp = true) (hverified : s.saf.fgVerified = true)
    (hmoved : fld v 14 0 ≠ fld s.saf.sealRead 14 0) :
    exec (.sealChange v) s = .next (((s.sealChanged v).sealMoved v).sealSettled ((s.sealChanged v).saf.heldGroups v)) := by
  change execSealChange v s = _
  simp only [execSealChange]
  rw [if_neg hchange, if_neg (by simp [State.settleDacs_pw, hup, hverified]), if_pos (decide_eq_true hmoved)]
  rfl

end

theorem State.sealMoved_guardPermit (s : State) (v : BitVec 16) (g : Fin 16) :
    ((s.sealMoved v).saf.group g.val).guardPermit = false := by
  rw [State.sealMoved, State.regate_group, State.putGroups_group]
  exact GroupRt.takes_guardPermit_of_cause _ (by simp [Demand.any])

theorem State.sealMoved_besideGroups (s : State) (v : BitVec 16) : (s.sealMoved v).saf.besideGroups =
    ({ s.saf with sealRead := v, rulesHold := s.saf.heldGroups v } : SafState).besideGroups := by
  rw [State.sealMoved, State.regate_besideGroups, State.putGroups_besideGroups]
  rfl

theorem State.sealSettled_guardPermit {s : State} (held : BitVec 16) {g : Fin 16} (h : (s.saf.group g.val).guardPermit = false) :
    ((s.sealSettled held).saf.group g.val).guardPermit = false := by
  refine State.cfgCheck_group (P := fun r => r.guardPermit = false) g (fun r v => GroupRt.takes_guardPermit_of_none v) ?_
  rw [State.putGroups_group]
  exact GroupRt.takes_guardPermit_of_none _ (State.safUpdate_guardPermit_of_none (s := s.setSaf s.saf.fitInputs) h)

theorem State.sealSettled_besideCfg (s : State) (held : BitVec 16) :
    (s.sealSettled held).saf.besideCfg = s.saf.fitInputs.besideCfg := by
  rw [State.sealSettled, State.cfgCheck_besideCfg, SafState.besideCfg_of_besideGroups (State.putGroups_besideGroups _ _),
    SafState.besideCfg_of_besideGroups (State.safUpdate_besideGroups _), State.setSaf_saf]

/-- The switches as they stand and as both halves have read them, and the latch of their change. -/
def SafState.switches (f : SafState) : BitVec 16 × BitVec 16 × Bool := (f.sealNow, f.sealRead, f.sealLatch)

theorem SafState.switches_of_besideCfg {f g : SafState} (h : f.besideCfg = g.besideCfg) : f.switches = g.switches :=
  (congrArg SafState.switches h :)

theorem SafState.of_switches {f : SafState} {now read : BitVec 16} {latch : Bool} (h : f.switches = (now, read, latch)) :
    f.sealNow = now ∧ f.sealRead = read ∧ f.sealLatch = latch := by
  simpa [SafState.switches] using h

theorem SafState.fitInputs_switches (f : SafState) : f.fitInputs.switches = f.switches := rfl

theorem State.sealChange_switches (s : State) (v held : BitVec 16) :
    (((s.sealChanged v).sealMoved v).sealSettled held).saf.switches = (v, v, true) := by
  rw [SafState.switches_of_besideCfg (State.sealSettled_besideCfg _ held), SafState.fitInputs_switches,
    SafState.switches_of_besideCfg (SafState.besideCfg_of_besideGroups (State.sealMoved_besideGroups _ v))]
  rfl

/-! ### Safety inputs (R483, R484) -/

/-- A fitted input that is not OK demands the groups of its row. -/
theorem SafState.localDemand_of_input {f : SafState} {i : Fin 4} {w : BitVec 128} {g : Nat} (hrow : f.sinRow i.val = some w)
    (hgroup : Nat.testBit (rowOp w 6 2) g = true) (hst : (f.sinRt i.val).st ≠ .ok) : f.localDemand g = true := by
  refine List.any_eq_true.mpr ⟨i.val, List.mem_range.mpr i.isLt, ?_⟩
  simp only [hrow, hgroup, Bool.true_and]
  exact decide_eq_true hst

/-- Input i is found as r. -/
def State.withInput (s : State) (i : Nat) (r : SinRt) : State := s.setSaf { s.saf with sin := tput {} r s.saf.sin i }

theorem State.withInput_sinRt (s : State) (i : Nat) (r : SinRt) : (s.withInput i r).saf.sinRt i = r := tget_tput_same _ _ _ _

theorem State.withInput_sinRt_other (s : State) {i j : Nat} (r : SinRt) (h : j ≠ i) :
    (s.withInput j r).saf.sinRt i = s.saf.sinRt i := tget_tput_other _ _ _ _ _ h.symm

theorem State.withInput_sinRow (s : State) (i j : Nat) (r : SinRt) : (s.withInput i r).saf.sinRow j = s.saf.sinRow j := rfl

theorem State.safUpdate_sinRt (s : State) (i : Nat) : s.safUpdate.saf.sinRt i = s.saf.sinRt i := by
  rw [SafState.sinRt, SafState.sinRt, SafState.sin_of_besideGroups (State.safUpdate_besideGroups s)]

theorem State.safUpdate_sinRow (s : State) (i : Nat) : s.safUpdate.saf.sinRow i = s.saf.sinRow i :=
  SafState.sinRow_of_besideGroups (State.safUpdate_besideGroups s) i

theorem State.discrepancy_saf (s : State) (i : Nat) :
    (s.discrepancy i).saf = { s.saf with discrepCnt := satInc 0xFFFF s.saf.discrepCnt } := rfl

/-- An input that is found in discrepancy, which the groups take up. -/
def State.inputDisagrees (s : State) (i : Nat) (r : SinRt) : State := ((s.withInput i r).discrepancy i).safUpdate

theorem State.inputDisagrees_sinRt (s : State) (i : Nat) (r : SinRt) : (s.inputDisagrees i r).saf.sinRt i = r := by
  rw [State.inputDisagrees, State.safUpdate_sinRt, State.discrepancy_saf]
  exact State.withInput_sinRt s i r

theorem State.inputDisagrees_sinRt_other (s : State) {i j : Nat} (r : SinRt) (h : j ≠ i) :
    (s.inputDisagrees j r).saf.sinRt i = s.saf.sinRt i := by
  rw [State.inputDisagrees, State.safUpdate_sinRt, State.discrepancy_saf]
  exact State.withInput_sinRt_other s r h

theorem State.inputDisagrees_sinRow (s : State) (i j : Nat) (r : SinRt) : (s.inputDisagrees i r).saf.sinRow j = s.saf.sinRow j := by
  rw [State.inputDisagrees, State.safUpdate_sinRow, State.discrepancy_saf]
  rfl

theorem State.inputDisagrees_discrepCnt (s : State) (i : Nat) (r : SinRt) :
    (s.inputDisagrees i r).saf.discrepCnt = satInc 0xFFFF s.saf.discrepCnt := by
  rw [State.inputDisagrees, SafState.discrepCnt_of_besideGroups (State.safUpdate_besideGroups _), State.discrepancy_saf]
  rfl

theorem exec_safetyInputChange_down {s : State} (i : Fin 4) (b c : Bool) (hdown : s.pw.fieldUp = false) :
    exec (.safetyInputChange i b c) s = .next s := by
  change execSafetyInputChange i b c s = _
  simp only [execSafetyInputChange]
  rw [if_pos (by simp [hdown])]

/-- Channel A is found as c. -/
def SinRt.withA (r : SinRt) (c : Bool) : SinRt := { r with aClosed := c }

/-- Channel A of a fitted input changes: a discrepancy where the step finds one. -/
theorem exec_safetyInputChange_a {s : State} {i : Fin 4} {w : BitVec 128} {c : Bool} (hup : s.pw.fieldUp = true)
    (hverified : s.saf.fgVerified = true) (hrow : s.saf.sinRow i.val = some w) (hchange : (s.saf.sinRt i.val).aClosed ≠ c) :
    exec (.safetyInputChange i false c) s = .next (
      if (sinStep (rowOp w 5 1) ((s.saf.sinRt i.val).withA c)).2 then
        s.inputDisagrees i.val (sinStep (rowOp w 5 1) ((s.saf.sinRt i.val).withA c)).1
      else (s.withInput i.val (sinStep (rowOp w 5 1) ((s.saf.sinRt i.val).withA c)).1).safUpdate) := by
  change execSafetyInputChange i false c s = _
  unfold execSafetyInputChange
  rw [if_neg (by simp [hup])]
  extract_lets old r f
  have hr : r = (s.saf.sinRt i.val).withA c := if_neg (by decide)
  rw [if_neg fun h => hchange (congrArg SinRt.aClosed (hr.symm.trans h)).symm]
  clear_value r
  subst hr
  split
  case h_1 hrow' =>
    obtain rfl := Option.some.inj (hrow.symm.trans hrow')
    exact congrArg Host.Outcome.next (apply_ite State.safUpdate _ _ _)
  case h_2 hnot => exact absurd hrow (hnot w hverified)

theorem exec_safetyInputChange_steps {s : State} {i : Fin 4} {w : BitVec 128} {c : Bool} {r : SinRt} (hup : s.pw.fieldUp = true)
    (hverified : s.saf.fgVerified = true) (hrow : s.saf.sinRow i.val = some w) (hchange : (s.saf.sinRt i.val).aClosed ≠ c)
    (hstep : sinStep (rowOp w 5 1) ((s.saf.sinRt i.val).withA c) = (r, false)) :
    exec (.safetyInputChange i false c) s = .next (s.withInput i.val r).safUpdate := by
  rw [exec_safetyInputChange_a hup hverified hrow hchange, hstep, if_neg Bool.false_ne_true]

theorem exec_safetyInputChange_disagrees {s : State} {i : Fin 4} {w : BitVec 128} {c : Bool} {r : SinRt}
    (hup : s.pw.fieldUp = true) (hverified : s.saf.fgVerified = true) (hrow : s.saf.sinRow i.val = some w)
    (hchange : (s.saf.sinRt i.val).aClosed ≠ c) (hstep : sinStep (rowOp w 5 1) ((s.saf.sinRt i.val).withA c) = (r, true)) :
    exec (.safetyInputChange i false c) s = .next (s.inputDisagrees i.val r) := by
  rw [exec_safetyInputChange_a hup hverified hrow hchange, hstep, if_pos rfl]

/-! The steps of an input of which channel A changes. -/

theorem sinStep_ok_opens {r : SinRt} (type : Nat) (hst : r.st = .ok) (ha : r.aClosed = false) : sinStep type r =
    ({ r with st := .demand, waiting := !sinB type r.bClosed, bothShown := sinB type r.bClosed }, false) := by
  simp [sinStep, hst, ha]

theorem sinStep_demand_closes_shown {r : SinRt} {type : Nat} (hst : r.st = .demand) (ha : r.aClosed = true)
    (hb : sinB type r.bClosed = false) (hshown : r.bothShown = true) :
    sinStep type r = ({ r with st := .ok, waiting := false, bothShown := false }, false) := by
  simp [sinStep, hst, ha, hb, hshown]

theorem sinStep_demand_closes_alone {r : SinRt} {type : Nat} (hst : r.st = .demand) (ha : r.aClosed = true)
    (hb : sinB type r.bClosed = false) (hshown : r.bothShown = false) :
    sinStep type r = ({ r with st := .discrepancy, waiting := false }, true) := by
  simp [sinStep, hst, ha, hb, hshown]

/-- Both permits of the groups of row w are away. -/
def State.RowDemanded (s : State) (w : BitVec 128) : Prop :=
  ∀ g : Fin 16, Nat.testBit (rowOp w 6 2) g.val = true →
    (s.saf.group g.val).guardPermit = false ∧ (s.saf.group g.val).fgPermit = false

theorem State.safUpdate_rowDemanded {s : State} {i : Fin 4} {w : BitVec 128} (hrow : s.saf.sinRow i.val = some w)
    (hst : (s.saf.sinRt i.val).st ≠ .ok) : s.safUpdate.RowDemanded w :=
  fun _ hgroup => State.safUpdate_of_localDemand (SafState.localDemand_of_input hrow hgroup hst)

theorem State.withInput_rowDemanded {s : State} {i : Fin 4} {w : BitVec 128} {r : SinRt} (hrow : s.saf.sinRow i.val = some w)
    (hst : r.st ≠ .ok) : (s.withInput i.val r).safUpdate.RowDemanded w :=
  State.safUpdate_rowDemanded (i := i) hrow (by rw [State.withInput_sinRt]; exact hst)

theorem State.inputDisagrees_rowDemanded {s : State} {i : Fin 4} {j : Nat} {w : BitVec 128} {r : SinRt}
    (hrow : s.saf.sinRow i.val = some w) (hst : ((s.withInput j r).saf.sinRt i.val).st ≠ .ok) :
    (s.inputDisagrees j r).RowDemanded w :=
  State.safUpdate_rowDemanded (s := (s.withInput j r).discrepancy j) (i := i) hrow hst

/-! ### The discrepancy time (R484) -/

theorem exec_discTimeout {s : State} {i : Fin 4} (hst : (s.saf.sinRt i.val).st = .demand)
    (hwaits : (s.saf.sinRt i.val).waiting = true) : exec (.safetyInputDiscTimeout i) s = .next (s.inputDisagrees i.val
      { s.saf.sinRt i.val with st := .discrepancy, waiting := false, bothShown := false }) :=
  (if_pos (by simp [hst, hwaits]) : execSafetyInputDiscTimeout i s = _)

theorem exec_discTimeout_nothing {s : State} {i : Fin 4}
    (h : (s.saf.sinRt i.val).st ≠ .demand ∨ (s.saf.sinRt i.val).waiting = false) :
    exec (.safetyInputDiscTimeout i) s = .next s :=
  (if_neg (by rcases h with h | h <;> simp [h]) : execSafetyInputDiscTimeout i s = _)

/-! ### Test pulses (R483) -/

/-- Channels of input i are seen wrong at the off-pulse of source A: a closed channel A that does not follow, or a channel B that
does. -/
def SinRt.wrongAtA (r : SinRt) (follows : BitVec 8) (i : Nat) : Bool :=
  (r.aClosed && !tbit follows (2 * i)) || tbit follows (2 * i + 1)

/-- The off-pulse of source A, at one input. -/
def State.pulseInputA (follows : BitVec 8) (s : State) (i : Nat) : State :=
  if (s.saf.sinRow i).isSome && (s.saf.sinRt i).wrongAtA follows i && decide ((s.saf.sinRt i).st ≠ .discrepancy) then
    s.inputDisagrees i { s.saf.sinRt i with st := .discrepancy, waiting := false, bothShown := false }
  else s

theorem exec_testPulse_idle {s : State} (b : Bool) (f : BitVec 8) (h : s.pw.fieldUp = false ∨ s.saf.fgVerified = false) :
    exec (.testPulse b f) s = .next s :=
  (if_pos (by rcases h with h | h <;> simp [h]) : execTestPulse b f s = _)

theorem exec_testPulse_a {s : State} (f : BitVec 8) (hup : s.pw.fieldUp = true) (hverified : s.saf.fgVerified = true) :
    exec (.testPulse false f) s = .next ((List.range 4).foldl (State.pulseInputA f) s) :=
  (if_neg (by simp [hup, hverified]) : execTestPulse false f s = _)

/-- An input that follows source A as it should stays as it is. -/
theorem State.pulseInputA_of_right {s : State} {f : BitVec 8} {i : Nat} (h : (s.saf.sinRt i).wrongAtA f i = false) :
    s.pulseInputA f i = s := if_neg (by simp [h])

section
variable {s : State} {f : BitVec 8} {i : Fin 4} {w : BitVec 128}

/-- The off-pulse at another input leaves an input as it is. -/
theorem State.pulseInputA_other {j : Nat} (hji : j ≠ i.val) : (s.pulseInputA f j).saf.sinRow i.val = s.saf.sinRow i.val ∧
    (s.pulseInputA f j).saf.sinRt i.val = s.saf.sinRt i.val := by
  unfold State.pulseInputA
  split
  · exact ⟨State.inputDisagrees_sinRow _ _ _ _, State.inputDisagrees_sinRt_other _ _ hji⟩
  · exact ⟨rfl, rfl⟩

/-- Input i is fitted by row w, in discrepancy, and demands the groups of the row. -/
def State.InDiscrepancy (s : State) (i : Fin 4) (w : BitVec 128) : Prop :=
  s.saf.sinRow i.val = some w ∧ (s.saf.sinRt i.val).st = .discrepancy ∧ s.RowDemanded w

/-- The off-pulse at a wrong input finds the discrepancy. -/
theorem State.pulseInputA_wrong (hrow : s.saf.sinRow i.val = some w) (hst : (s.saf.sinRt i.val).st ≠ .discrepancy)
    (hwrong : (s.saf.sinRt i.val).wrongAtA f i.val = true) : (s.pulseInputA f i.val).InDiscrepancy i w := by
  have hpulse : s.pulseInputA f i.val = s.inputDisagrees i.val
      { s.saf.sinRt i.val with st := .discrepancy, waiting := false, bothShown := false } :=
    if_pos (by simp [hrow, hwrong, hst])
  rw [hpulse]
  refine ⟨(State.inputDisagrees_sinRow _ _ _ _).trans hrow, ?_, State.inputDisagrees_rowDemanded hrow ?_⟩
  · rw [State.inputDisagrees_sinRt]
  · rw [State.withInput_sinRt]
    exact SinSt.noConfusion

/-- A discrepancy outlasts the off-pulse at every other input. -/
theorem State.pulseInputA_keeps_discrepancy {j : Nat} (hji : j ≠ i.val) (h : s.InDiscrepancy i w) :
    (s.pulseInputA f j).InDiscrepancy i w := by
  obtain ⟨hrow, hst, hdemand⟩ := h
  obtain ⟨hrow', hst'⟩ := State.pulseInputA_other (s := s) (f := f) hji
  refine ⟨hrow'.trans hrow, by rw [hst', hst], ?_⟩
  unfold State.pulseInputA
  split
  · refine State.inputDisagrees_rowDemanded hrow ?_
    rw [State.withInput_sinRt_other _ _ hji, hst]
    decide
  · exact hdemand

/-- The off-pulse of source A finds the discrepancy of an input that is wrong. -/
theorem State.pulseA_wrong (hrow : s.saf.sinRow i.val = some w) (hst : (s.saf.sinRt i.val).st ≠ .discrepancy)
    (hwrong : (s.saf.sinRt i.val).wrongAtA f i.val = true) :
    ((List.range 4).foldl (State.pulseInputA f) s).InDiscrepancy i w := by
  refine foldl_of_once (R := fun t => t.saf.sinRow i.val = some w ∧ t.saf.sinRt i.val = s.saf.sinRt i.val)
    (Q := fun t => t.InDiscrepancy i w) List.nodup_range (List.mem_range.mpr i.isLt) ?_ ?_ ?_ s ⟨hrow, rfl⟩
  · rintro t j hji ⟨hrow', hsame⟩
    obtain ⟨hrowKept, hkept⟩ := State.pulseInputA_other (s := t) (f := f) hji
    exact ⟨hrowKept.trans hrow', hkept.trans hsame⟩
  · rintro t ⟨hrow', hsame⟩
    exact State.pulseInputA_wrong hrow' (by rw [hsame]; exact hst) (by rw [hsame]; exact hwrong)
  · exact fun t j hji ht => State.pulseInputA_keeps_discrepancy hji ht

end

/-- Settles O43: SEAL's change takes Guard's permits and the groups that follow it give none back; an input that is not OK demands the
groups of its row. -/
theorem safetyInputsAndSeal : Obligations.SafetyInputsAndSeal := by
  unfold Obligations.SafetyInputsAndSeal
  refine ⟨?unchanged, ?down, ?moved, ?inputDown, ?opens, ?closes, ?disagrees, ?timeout, ?noTimeout, ?idle, ?right, ?wrong⟩
  case unchanged => exact fun s v hsame => (if_pos hsame : execSealChange v s = _)
  case down => exact fun s v hchange hdown => exec_sealChange_down hchange hdown
  case moved =>
    intro s v hchange hup hverified hmoved
    obtain ⟨hnow, hread, hlatch⟩ := SafState.of_switches (State.sealChange_switches s v ((s.sealChanged v).saf.heldGroups v))
    exact completes_of_exec (exec_sealChange_moved hchange hup hverified hmoved) ⟨hnow, hread, hlatch, fun g =>
      State.sealSettled_guardPermit _ (State.sealMoved_guardPermit _ v g)⟩ rfl
  case inputDown => exact fun s i b c hdown => exec_safetyInputChange_down i b c hdown
  case opens =>
    intro s i w hup hverified hrow hst ha
    refine completes_of_exec (exec_safetyInputChange_steps hup hverified hrow (by rw [ha]; decide)
      (sinStep_ok_opens _ hst rfl)) ⟨?_, ?_, State.withInput_rowDemanded hrow SinSt.noConfusion⟩ rfl
    · rw [State.safUpdate_sinRt, State.withInput_sinRt]
    · rw [State.safUpdate_sinRt, State.withInput_sinRt]
      rfl
  case closes =>
    intro s i w hup hverified hrow hst hshown hb ha
    refine completes_of_exec (exec_safetyInputChange_steps hup hverified hrow (by rw [ha]; decide)
      (sinStep_demand_closes_shown hst rfl hb hshown)) ?_ rfl
    rw [State.safUpdate_sinRt, State.withInput_sinRt]
    exact ⟨rfl, rfl, rfl⟩
  case disagrees =>
    intro s i w hup hverified hrow hst hshown hb ha
    refine completes_of_exec (exec_safetyInputChange_disagrees hup hverified hrow (by rw [ha]; decide)
      (sinStep_demand_closes_alone hst rfl hb hshown))
      ⟨?_, State.inputDisagrees_discrepCnt _ _ _, State.inputDisagrees_rowDemanded hrow ?_⟩ rfl
    · rw [State.inputDisagrees_sinRt]
    · rw [State.withInput_sinRt]
      exact SinSt.noConfusion
  case timeout =>
    intro s i hst hwaits
    refine completes_of_exec (exec_discTimeout hst hwaits) ⟨?_, State.inputDisagrees_discrepCnt _ _ _⟩ rfl
    rw [State.inputDisagrees_sinRt]
  case noTimeout => exact fun s i h => exec_discTimeout_nothing h
  case idle => exact fun s b f h => exec_testPulse_idle b f h
  case right =>
    intro s f hright
    by_cases hidle : s.pw.fieldUp = false ∨ s.saf.fgVerified = false
    · exact exec_testPulse_idle false f hidle
    · simp only [not_or, Bool.not_eq_false] at hidle
      obtain ⟨hup, hverified⟩ := hidle
      rw [exec_testPulse_a f hup hverified, foldl_of_fixed fun j hj => State.pulseInputA_of_right ?_]
      obtain ⟨hfollows, hother⟩ := hright ⟨j, List.mem_range.mp hj⟩
      simpa [SinRt.wrongAtA, hother] using hfollows
  case wrong =>
    intro s i f w hup hverified hrow hst ha hfollows
    have hdiscrepancy := State.pulseA_wrong (f := f) hrow hst (by simp [SinRt.wrongAtA, ha, hfollows])
    obtain ⟨_, hst', hdemand⟩ := hdiscrepancy
    exact completes_of_exec (exec_testPulse_a f hup hverified) ⟨hst', hdemand⟩ rfl

end Sys2Proof.Machine
end

section
/-! PROOFS. Verification and self-test, the safety cycle of Guard, a disagreement of the halves and the manual restart (R472, R488 to
R490). -/

namespace Sys2Proof.Machine

/-! ### Verification (R472, R490) -/

theorem exec_fenGateVerified_nothing {s : State} (h : s.pw.fieldUp = false ∨ s.saf.fgVerified = true) :
    exec .fenGateVerified s = .next s :=
  (if_pos (by rcases h with h | h <;> simp [h]) : execFenGateVerified s = _)

/-- Fen Gate has verified the rule store: SEAL as it stands is adopted, and the inputs are fitted to its rows. -/
def SafState.verified (f : SafState) : SafState :=
  SafState.fitInputs { f with
    fgVerified := true, sealRead := f.sealNow, cfgFault := false, rulesHold := f.heldGroups f.sealNow }

/-- The causes that a group takes where the rule store has been verified: the power-up cause of Fen Gate ends. -/
def verifiedCauses (closed : Bool) (held : BitVec 16) (g : Nat) (r : GroupRt) : Demand × Demand :=
  ({ r.guard with cfgCause := closed, sealCause := tbit held g },
    { r.fg with powerUp := false, cfgCause := closed, sealCause := tbit held g })

theorem exec_fenGateVerified {s : State} (hup : s.pw.fieldUp = true) (hverified : s.saf.fgVerified = false) :
    exec .fenGateVerified s = .next (((s.setSaf s.saf.verified).putGroups
      (verifiedCauses (decide (s.lcy.st = .return_) || decide (s.lcy.st = .end_))
        (s.saf.heldGroups s.saf.sealNow))).safUpdate.cfgCheck.regate) :=
  (if_neg (by simp [hup, hverified]) : execFenGateVerified s = _)

/-- What the check and the gates leave of the half's note of its verification and of the switches as it has read them. -/
def SafState.readings (f : SafState) : Bool × BitVec 16 := (f.fgVerified, f.sealRead)

theorem SafState.readings_of_besideCfg {f g : SafState} (h : f.besideCfg = g.besideCfg) : f.readings = g.readings :=
  (congrArg SafState.readings h :)

theorem SafState.of_readings {f : SafState} {verified : Bool} {read : BitVec 16} (h : f.readings = (verified, read)) :
    f.fgVerified = verified ∧ f.sealRead = read := by
  simpa [SafState.readings] using h

section
variable (s : State) (f : Nat → GroupRt → Demand × Demand)

theorem State.judged_readings : (s.putGroups f).safUpdate.cfgCheck.regate.saf.readings = s.saf.readings := by
  rw [SafState.readings_of_besideCfg (SafState.besideCfg_of_besideGroups (State.regate_besideGroups _)),
    SafState.readings_of_besideCfg (State.cfgCheck_besideCfg _),
    SafState.readings_of_besideCfg (SafState.besideCfg_of_besideGroups (State.safUpdate_besideGroups _)),
    SafState.readings_of_besideCfg (SafState.besideCfg_of_besideGroups (State.putGroups_besideGroups f s))]

theorem State.judged_fg_powerUp (hf : ∀ g r, (f g r).2.powerUp = false) (g : Fin 16) :
    ((s.putGroups f).safUpdate.cfgCheck.regate.saf.group g.val).fg.powerUp = false := by
  rw [State.regate_group]
  refine State.cfgCheck_group (P := fun r => r.fg.powerUp = false) g (fun r v h => h) ?_
  rw [State.safUpdate_fg_powerUp, State.putGroups_group]
  exact hf _ _

end

/-! ### The tests (R490, R493) -/

theorem State.guardFails_group (s : State) (n : BitVec 8) (g : Fin 16) : (s.guardFails n).saf.group g.val =
    (s.saf.group g.val).takes s.saf.fgVerified { (s.saf.group g.val).guard with powerUp := true }
      { (s.saf.group g.val).fg with powerUp := true } := by
  rw [State.guardFails, State.fieldRaise_saf, State.putGroups_group]
  rfl

theorem SafState.guardFault_of_besideGroups {f g : SafState} (h : f.besideGroups = g.besideGroups) : f.guardFault = g.guardFault :=
  (congrArg SafState.guardFault h :)

theorem SafState.guardRun_of_besideGroups {f g : SafState} (h : f.besideGroups = g.besideGroups) : f.guardRun = g.guardRun :=
  (congrArg SafState.guardRun h :)

theorem SafState.disagreeCnt_of_besideGroups {f g : SafState} (h : f.besideGroups = g.besideGroups) :
    f.disagreeCnt = g.disagreeCnt := (congrArg SafState.disagreeCnt h :)

theorem State.guardFails_guardFault (s : State) (n : BitVec 8) : (s.guardFails n).saf.guardFault = true := by
  rw [State.guardFails, State.fieldRaise_saf, SafState.guardFault_of_besideGroups (State.putGroups_besideGroups _ _)]
  rfl

/-- A fault of Guard takes both permits of every group. -/
theorem State.guardFails_permits (s : State) (n : BitVec 8) (g : Fin 16) :
    ((s.guardFails n).saf.group g.val).guardPermit = false ∧ ((s.guardFails n).saf.group g.val).fgPermit = false := by
  rw [State.guardFails_group]
  exact ⟨GroupRt.takes_guardPermit_of_cause _ (by simp [Demand.any]), GroupRt.takes_fgPermit_of_cause _ (by simp [Demand.any])⟩

section
variable {s : State} (n : BitVec 8)

theorem exec_selfTest_down (p : Bool) (hdown : s.pw.fieldUp = false) : exec (.guardSelfTestDone p n) s = .next s :=
  (if_pos (by simp [hdown]) : execGuardSelfTestDone p n s = _)

theorem exec_elementTest_passed (o : Fin 48) : exec (.elementTest o true n) s = .next s :=
  (if_pos rfl : execElementTest o true n s = _)

variable (hup : s.pw.fieldUp = true)
include hup

theorem exec_selfTest_passed : exec (.guardSelfTestDone true n) s = .next ((s.setSaf { s.saf with guardRun := true }).putGroups
    (fun _ r => ({ r.guard with powerUp := r.guard.powerUp && s.saf.guardFault }, r.fg))) := by
  refine (if_neg (by simp [hup]) : execGuardSelfTestDone true n s = _).trans ?_
  exact if_pos rfl

theorem exec_selfTest_failed : exec (.guardSelfTestDone false n) s = .next (s.guardFails n) := by
  refine (if_neg (by simp [hup]) : execGuardSelfTestDone false n s = _).trans ?_
  exact if_neg Bool.false_ne_true

theorem exec_elementTest_failed (o : Fin 48) : exec (.elementTest o false n) s = .next (s.guardFails n) :=
  (if_neg (by simp [hup]) : execElementTest o false n s = _)

end

/-! ### Permits of Guard (R489) -/

theorem State.guardPermits_besideOutputs (s : State) (g : Nat) : (s.guardPermits g).besideOutputs =
    (s.setSaf { s.saf with
      groups := tput {} { s.saf.group g with guardPermit := true, wait := false } s.saf.groups g }).besideOutputs := by
  unfold State.guardPermits
  extract_lets r f r' t
  split
  · rw [State.regate_besideOutputs]
    rfl
  · rfl

theorem State.guardPermits_group (s : State) (g : Nat) :
    (s.guardPermits g).saf.group g = { s.saf.group g with guardPermit := true, wait := false } :=
  (State.group_of_besideOutputs (State.guardPermits_besideOutputs s g) g).trans (tget_tput_same _ _ _ _)

theorem State.guardPermits_group_other (s : State) {g k : Nat} (h : k ≠ g) : (s.guardPermits k).saf.group g = s.saf.group g :=
  (State.group_of_besideOutputs (State.guardPermits_besideOutputs s k) g).trans (tget_tput_other _ _ _ _ _ h.symm)

theorem State.guardPermits_besideGroups (s : State) (g : Nat) : (s.guardPermits g).saf.besideGroups = s.saf.besideGroups :=
  (State.besideGroups_of_besideOutputs (State.guardPermits_besideOutputs s g) :)

/-! ### The safety cycle (R489, R490) -/

/-- The safety cycle, at one group. -/
def State.cycleGroup (s : State) (g : Nat) : State :=
  if (s.saf.group g).guardPermit || (s.saf.group g).guard.any || !s.saf.matchedAll g then s
  else if s.saf.manual g then s.setSaf { s.saf with groups := tput {} { s.saf.group g with wait := true } s.saf.groups g }
  else s.guardPermits g

theorem exec_safetyCycle_nothing {s : State}
    (h : s.pw.fieldUp = false ∨ s.saf.guardRun = false ∨ s.saf.guardFault = true) : exec .guardSafetyCycle s = .next s :=
  (if_pos (by rcases h with h | h | h <;> simp [h]) : execGuardSafetyCycle s = _)

theorem exec_safetyCycle {s : State} (hup : s.pw.fieldUp = true) (hrun : s.saf.guardRun = true) (hfault : s.saf.guardFault = false) :
    exec .guardSafetyCycle s = .next ((List.range 16).foldl State.cycleGroup s) :=
  (if_neg (by simp [hup, hrun, hfault]) : execGuardSafetyCycle s = _)

theorem State.cycleGroup_besideGroups (s : State) (g : Nat) : (s.cycleGroup g).saf.besideGroups = s.saf.besideGroups := by
  unfold State.cycleGroup
  split
  · rfl
  · split
    · rfl
    · exact State.guardPermits_besideGroups s g

theorem State.cycleGroup_group_other (s : State) {g k : Nat} (h : k ≠ g) : (s.cycleGroup k).saf.group g = s.saf.group g := by
  unfold State.cycleGroup
  split
  · rfl
  · split
    · exact tget_tput_other _ _ _ _ _ h.symm
    · exact State.guardPermits_group_other s h

/-- What the cycle makes of a group. -/
def SafState.cycled (f : SafState) (g : Nat) : GroupRt :=
  if (f.group g).guardPermit || (f.group g).guard.any || !f.matchedAll g then f.group g
  else if f.manual g then { f.group g with wait := true }
  else { f.group g with guardPermit := true, wait := false }

theorem State.cycleGroup_group (s : State) (g : Nat) : (s.cycleGroup g).saf.group g = s.saf.cycled g := by
  unfold State.cycleGroup SafState.cycled
  split
  · rfl
  · split
    · exact tget_tput_same _ _ _ _
    · exact State.guardPermits_group s g

/-- What the cycle asks beside the group itself is no group's. -/
theorem SafState.cycled_congr {f f' : SafState} {g : Nat} (hbeside : f.besideGroups = f'.besideGroups)
    (hgroup : f.group g = f'.group g) : f.cycled g = f'.cycled g := by
  have hmatched : f.matchedAll g = f'.matchedAll g := (congrArg (fun u : SafState => u.matchedAll g) hbeside :)
  have hmanual : f.manual g = f'.manual g := (congrArg (fun u : SafState => u.manual g) hbeside :)
  simp only [SafState.cycled, hgroup, hmatched, hmanual]

theorem State.cycle_group (s : State) (g : Fin 16) :
    ((List.range 16).foldl State.cycleGroup s).saf.group g.val = s.saf.cycled g.val := by
  refine foldl_of_once (R := fun t => t.saf.besideGroups = s.saf.besideGroups ∧ t.saf.group g.val = s.saf.group g.val)
    (Q := fun t => t.saf.group g.val = s.saf.cycled g.val) List.nodup_range (List.mem_range.mpr g.isLt) ?_ ?_ ?_ s ⟨rfl, rfl⟩
  · rintro t k hk ⟨hbeside, hgroup⟩
    exact ⟨(State.cycleGroup_besideGroups t k).trans hbeside, (State.cycleGroup_group_other t hk).trans hgroup⟩
  · rintro t ⟨hbeside, hgroup⟩
    exact (State.cycleGroup_group t g.val).trans (SafState.cycled_congr hbeside hgroup)
  · exact fun t k hk ht => (State.cycleGroup_group_other t hk).trans ht

/-- The cycle does nothing to a group that is permitted, has a cause or lacks matching copies. -/
theorem SafState.cycled_of_held {f : SafState} {g : Nat}
    (h : (f.group g).guardPermit = true ∨ (f.group g).guard.any = true ∨ f.matchedAll g = false) : f.cycled g = f.group g :=
  if_pos (by rcases h with h | h | h <;> simp [h])

section
variable {f : SafState} {g : Nat} (hpermit : (f.group g).guardPermit = false) (hnone : (f.group g).guard.any = false)
  (hmatched : f.matchedAll g = true)
include hpermit hnone hmatched

theorem SafState.cycled_of_automatic (hmanual : f.manual g = false) :
    f.cycled g = { f.group g with guardPermit := true, wait := false } := by
  simp [SafState.cycled, hpermit, hnone, hmatched, hmanual]

theorem SafState.cycled_of_manual (hmanual : f.manual g = true) : f.cycled g = { f.group g with wait := true } := by
  simp [SafState.cycled, hpermit, hnone, hmatched, hmanual]

end

/-! ### Disagreement (R488) -/

/-- The causes of the groups where the halves' demands for group g have differed. -/
def disagreeCauses (g k : Nat) (r : GroupRt) : Demand × Demand :=
  if k = g then ({ r.guard with disagree := true }, { r.fg with disagree := true }) else (r.guard, r.fg)

theorem exec_disagree {s : State} (g : Fin 16) (hup : s.pw.fieldUp = true) : exec (.disagree g) s =
    .next (((s.setSaf { s.saf with disagreeCnt := satInc 0xFFFF s.saf.disagreeCnt }).putGroups
      (disagreeCauses g.val)).fieldRaise 0x82 (BitVec.ofNat 64 g.val)) :=
  (if_neg (by simp [hup]) : execDisagree g s = _)

/-! ### The manual restart (R488, R489) -/

/-- The causes without a disagreement. -/
def Demand.rest (d : Demand) : Demand := { d with disagree := false }

/-- The causes of the groups where group g restarts, with these left to Guard. -/
def restartCauses (g : Nat) (rest : Demand) (k : Nat) (r : GroupRt) : Demand × Demand :=
  if k = g then (rest, r.fg.rest) else (r.guard, r.fg)

/-- What keeps a group from its manual restart. -/
def SafState.restartBlocked (f : SafState) (g : Nat) : Bool :=
  (f.group g).guardPermit || (f.group g).guard.rest.any || ((f.group g).guard.disagree && (f.group g).fg.rest.any) ||
    !f.matchedAll g || !(f.manual g || (f.group g).guard.disagree)

section
variable {s : State} {g : Fin 16} {n : Nat}

theorem exec_manualRestart_badPulse (h : n < 100 ∨ 5000 < n) : exec (.manualRestart g n) s = .next s :=
  (if_pos (by rcases h with h | h <;> simp [h]) : execManualRestart g n s = _)

theorem exec_manualRestart_blocked (h : s.saf.restartBlocked g.val = true) : exec (.manualRestart g n) s = .next s := by
  change execManualRestart g n s = _
  unfold execManualRestart
  extract_lets k r rest differ
  split
  · rfl
  · exact if_pos h

theorem exec_manualRestart (hup : s.pw.fieldUp = true) (hrun : s.saf.guardRun = true) (hfault : s.saf.guardFault = false)
    (hmin : 100 ≤ n) (hmax : n ≤ 5000) (hfree : s.saf.restartBlocked g.val = false) : exec (.manualRestart g n) s =
    .next (((s.putGroups (restartCauses g.val (s.saf.group g.val).guard.rest)).guardPermits g.val).fieldRaise 0x8C (BitVec.ofNat 64 g.val)) := by
  have hgate : ¬(s.saf.restartBlocked g.val = true) := by simp [hfree]
  change execManualRestart g n s = _
  refine (if_neg (by simp [hup, hrun, hfault, hmin, hmax]) : execManualRestart g n s = _).trans ?_
  exact if_neg hgate

end

/-- After its restart a group has no cause in Guard, which permits it. -/
theorem State.restarted_group (s : State) (g : Fin 16) (hnone : (s.saf.group g.val).guard.rest.any = false) :
    (((s.putGroups (restartCauses g.val (s.saf.group g.val).guard.rest)).guardPermits g.val).saf.group g.val).guardPermit = true ∧
    (((s.putGroups (restartCauses g.val (s.saf.group g.val).guard.rest)).guardPermits g.val).saf.group g.val).guard.any = false ∧
    (((s.putGroups (restartCauses g.val (s.saf.group g.val).guard.rest)).guardPermits g.val).saf.group g.val).wait = false := by
  have hguard : (restartCauses g.val (s.saf.group g.val).guard.rest g.val (s.saf.group g.val)).1 = (s.saf.group g.val).guard.rest :=
    congrArg Prod.fst (if_pos rfl)
  rw [State.guardPermits_group, State.putGroups_group, hguard]
  exact ⟨rfl, hnone, rfl⟩

/-- Settles O44: every command is told by what it does to one group, since what the groups take up concerns nothing beside them. -/
theorem safetyGroupsAndRestart : Obligations.SafetyGroupsAndRestart := by
  unfold Obligations.SafetyGroupsAndRestart
  refine ⟨?unverified, ?verified, ?testDown, ?testPassed, ?testFailed, ?elementFailed, ?elementPassed, ?noCycle, ?automatic,
    ?manual, ?held, ?disagreeDown, ?disagree, ?badPulse, ?blocked, ?restarted⟩
  case unverified => exact fun s h => exec_fenGateVerified_nothing h
  case verified =>
    intro s hup hverified
    obtain ⟨hdone, hread⟩ := SafState.of_readings (State.judged_readings (s.setSaf s.saf.verified)
      (verifiedCauses (decide (s.lcy.st = .return_) || decide (s.lcy.st = .end_)) (s.saf.heldGroups s.saf.sealNow)))
    exact completes_of_exec (exec_fenGateVerified hup hverified)
      ⟨hdone, hread, State.judged_fg_powerUp _ _ fun _ _ => rfl⟩ rfl
  case testDown => exact fun s p n hdown => exec_selfTest_down n p hdown
  case testPassed =>
    intro s n hup hfault
    refine completes_of_exec (exec_selfTest_passed n hup) ⟨?_, fun g => ?_⟩ rfl
    · rw [SafState.guardRun_of_besideGroups (State.putGroups_besideGroups _ _)]
      rfl
    · rw [State.putGroups_group, hfault]
      exact Bool.and_false _
  case testFailed =>
    intro s n hup
    refine completes_of_exec (exec_selfTest_failed n hup) ⟨State.guardFails_guardFault s n, fun g => ?_⟩ rfl
    rw [State.guardFails_group]
    exact ⟨rfl, rfl, GroupRt.takes_guardPermit_of_cause _ (by simp [Demand.any]),
      GroupRt.takes_fgPermit_of_cause _ (by simp [Demand.any])⟩
  case elementFailed =>
    exact fun s o n hup => completes_of_exec (exec_elementTest_failed n hup o)
      ⟨State.guardFails_guardFault s n, State.guardFails_permits s n⟩ rfl
  case elementPassed => exact fun s o n => exec_elementTest_passed n o
  case noCycle => exact fun s h => exec_safetyCycle_nothing h
  case automatic =>
    intro s g hup hrun hfault hpermit hnone hmatched hmanual
    refine completes_of_exec (exec_safetyCycle hup hrun hfault) ?_ rfl
    rw [State.cycle_group, SafState.cycled_of_automatic hpermit hnone hmatched hmanual]
  case manual =>
    intro s g hup hrun hfault hpermit hnone hmatched hmanual
    refine completes_of_exec (exec_safetyCycle hup hrun hfault) ?_ rfl
    rw [State.cycle_group, SafState.cycled_of_manual hpermit hnone hmatched hmanual]
  case held =>
    intro s g hheld
    by_cases hidle : s.pw.fieldUp = false ∨ s.saf.guardRun = false ∨ s.saf.guardFault = true
    · exact completes_of_exec (exec_safetyCycle_nothing hidle) rfl rfl
    · simp only [not_or, Bool.not_eq_false, Bool.not_eq_true] at hidle
      obtain ⟨hup, hrun, hfault⟩ := hidle
      refine completes_of_exec (exec_safetyCycle hup hrun hfault) ?_ rfl
      rw [State.cycle_group, SafState.cycled_of_held hheld]
  case disagreeDown => exact fun s g hdown => (if_pos (by simp [hdown]) : execDisagree g s = _)
  case disagree =>
    intro s g hup
    have hcauses (r : GroupRt) : disagreeCauses g.val g.val r = ({ r.guard with disagree := true }, { r.fg with disagree := true }) :=
      if_pos rfl
    refine completes_of_exec (exec_disagree g hup) ?_ rfl
    rw [State.fieldRaise_saf, State.putGroups_group, hcauses,
      SafState.disagreeCnt_of_besideGroups (State.putGroups_besideGroups _ _)]
    exact ⟨rfl, rfl, GroupRt.takes_guardPermit_of_cause _ (by simp [Demand.any]),
      GroupRt.takes_fgPermit_of_cause _ (by simp [Demand.any]), rfl⟩
  case badPulse => exact fun s g n h => exec_manualRestart_badPulse h
  case blocked =>
    intro s g n hblocked
    refine exec_manualRestart_blocked ?_
    change (s.saf.group g.val).guard.rest.any = true ∨ _ ∨ _ ∧ (s.saf.group g.val).fg.rest.any = true at hblocked
    rcases hblocked with h | h | ⟨h, h'⟩
    · simp [SafState.restartBlocked, h]
    · simp [SafState.restartBlocked, h]
    · simp [SafState.restartBlocked, h, h']
  case restarted =>
    intro s g n hup hrun hfault hmin hmax hpermit hnone hmatched hkind
    change (s.saf.group g.val).guard.rest.any = false at hnone
    change _ ∨ _ ∧ (s.saf.group g.val).fg.rest.any = false at hkind
    have hfree : s.saf.restartBlocked g.val = false := by
      rcases hkind with ⟨hmanual, hagree⟩ | ⟨hdisagree, hfg⟩
      · simp [SafState.restartBlocked, hpermit, hnone, hmatched, hmanual, hagree]
      · simp [SafState.restartBlocked, hpermit, hnone, hmatched, hdisagree, hfg]
    refine completes_of_exec (exec_manualRestart hup hrun hfault hmin hmax hfree) ?_ rfl
    rw [State.fieldRaise_saf]
    exact State.restarted_group s g hnone

end Sys2Proof.Machine
end

section
/-! PROOFS. The twin link (R445, R60): the statement on its loss is refuted at TB3 of a holder. -/

namespace Sys2Proof.Machine

theorem State.loseTb3_tb3Stepped (s : State) : s.loseTb3.time.tb3Stepped = false :=
  congrArg TimeState.tb3Stepped (State.setLock_besideLocks (s.setTime { s.time with tb3Stepped := false }) 3 false)

/-- Whatever its state, a member whose link goes down has TB3 as its own again (R60, log 86). -/
theorem exec_twinLinkLost_tb3Stepped {s t : State} (hup : s.twn.linkUp = true) (ht : exec .twinLinkLost s = .next t) :
    t.time.tb3Stepped = false := by
  change execTwinLinkLost s = .next t at ht
  simp only [execTwinLinkLost, hup, Bool.not_true, Bool.false_eq_true, ↓reduceIte, Host.Outcome.next.injEq] at ht
  rw [← ht, State.raise_time]
  exact State.loseTb3_tb3Stepped _

/-- A holder whose link is up and whose TB3 has been stepped. -/
def steppedHolder : State := { time := { tb3Stepped := true }, twn := { linkUp := true, st := .holder } }

/-- Refutes O39: its clause on the loss of the link claims that a holder keeps its time bases, but the loss makes TB3 the
member's own again, a holder's too: the note that TB3 has been stepped is gone. -/
theorem not_twinLinkAndImages : ¬ Obligations.TwinLinkAndImages := by
  unfold Obligations.TwinLinkAndImages
  rintro ⟨_, _, _, _, _, hlost, _⟩
  obtain ⟨t, hnext, ⟨_, _, _, htime⟩, _⟩ := hlost steppedHolder rfl rfl
  have hgone : t.time.tb3Stepped = false := exec_twinLinkLost_tb3Stepped (s := steppedHolder) rfl hnext
  rw [htime] at hgone
  exact absurd hgone (by decide)

end Sys2Proof.Machine
end

section
/-! PROOFS. Lease requests, grants and occupancies (R454 to R459). -/

namespace Sys2Proof.Machine

@[simp] theorem State.setTwn_station (s : State) (t : TwnState) : (s.setTwn t).station = s.station := rfl

@[simp] theorem State.setTwn_member (s : State) (t : TwnState) : (s.setTwn t).member = s.member := rfl

/-! ### Requests of a member (R457) -/

theorem State.sendRequest_reqSeq (s : State) : s.sendRequest.twn.reqSeq = s.twn.reqSeq + 1 := rfl

theorem State.sendRequest_lastReq (s : State) :
    s.sendRequest.twn.reqs.getLast? = some { seq := s.twn.reqSeq + 1, q := s.time.t2 } :=
  List.getLast?_concat

theorem State.sendRequest_out (s : State) :
    s.sendRequest.out = .lease 1 s.station s.member (s.twn.reqSeq + 1) 0 s.health :: s.out := rfl

theorem leaseRequestSend_asking {s : State} (hasks : s.asks = true) (hrun : s.pw.logic = .run) :
    Completes [.wag, .twn, .out] (.leaseRequestSend) s fun t => t.twn.reqSeq = s.twn.reqSeq + 1 ∧
      t.twn.reqs.getLast? = some { seq := s.twn.reqSeq + 1, q := s.time.t2 } ∧
      t.out = .lease 1 s.station s.member (s.twn.reqSeq + 1) 0 s.health :: s.out := by
  have hnext : exec .leaseRequestSend s = .next s.sendRequest := by
    change execLeaseRequestSend s = _
    simp [execLeaseRequestSend, hasks, hrun]
  exact completes_of_exec hnext ⟨s.sendRequest_reqSeq, s.sendRequest_lastReq, s.sendRequest_out⟩ rfl

theorem exec_leaseRequestSend_notAsking {s : State} (hasks : s.asks = false) : exec .leaseRequestSend s = .next s := by
  change execLeaseRequestSend s = _
  simp [execLeaseRequestSend, hasks]

/-! ### HEALTH of the partner (R445, R453) -/

/-- A member that does not hold and stays in step, or that is no standby, takes HEALTH and no more. -/
theorem State.takeHealth_of_notHolder {s : State} {h : BitVec 3} (hst : s.twn.st ≠ .holder)
    (hstays : s.twn.st = .standby → s.twn.accepted = true ∨ tbit h 2 = true) :
    s.takeHealth h = s.setTwn { s.twn with peerHealth := h } := by
  have hkeeps : (decide (s.twn.st = .standby) && !s.twn.accepted && !tbit h 2) = false := by
    by_cases hstandby : s.twn.st = .standby
    · rcases hstays hstandby with haccepted | hinStep
      · simp [haccepted]
      · simp [hinStep]
    · simp [hstandby]
  simp only [State.takeHealth, hst, decide_false, Bool.and_false, Bool.not_false, Bool.and_true]
  rw [if_neg (by simpa using hkeeps)]

@[simp] theorem State.takeHealth_time (s : State) (h : BitVec 3) : (s.takeHealth h).time = s.time :=
  State.only_time (State.takeHealth_mask (qs := [.twn]) rfl s h) rfl

@[simp] theorem State.takeHealth_regs (s : State) (h : BitVec 3) : (s.takeHealth h).regs = s.regs :=
  State.only_regs (State.takeHealth_mask (qs := [.twn]) rfl s h) rfl

/-- No state but that of a standby changes by HEALTH. -/
theorem State.takeHealth_st_of_notStandby {s : State} (h : BitVec 3) (hst : s.twn.st ≠ .standby) :
    (s.takeHealth h).twn.st = s.twn.st := by
  simp [State.takeHealth, hst]

/-! ### The peer as issuer (R456, R458) -/

theorem request_granted_by_standby {s : State} {h : BitVec 3} {r : Fin 4096} {m : Bool} {q : BitVec 8}
    (hst : s.twn.st = .standby) (hinStep : tbit h 2 = true) (hrole : r.val = s.station) (hmember : m ≠ s.member) :
    Completes [.wag, .twn, .out] (.request (.link h) r m q) s fun t => t.twn = { s.twn with
      frameThis := true, peerHealth := h
      occ := some { member := m, at_ := s.time.t2, until_ := s.time.t2 + 2100000 } } ∧
      t.out = .lease 2 s.station m q 0 s.health :: s.out := by
  have hhealth : s.linkFrame.takeHealth h = s.linkFrame.setTwn { s.linkFrame.twn with peerHealth := h } :=
    State.takeHealth_of_notHolder (by simp [State.linkFrame, hst]) (fun _ => .inr hinStep)
  have hnext : exec (.request (.link h) r m q) s = .next ((s.setTwn { s.twn with
      frameThis := true, peerHealth := h
      occ := some { member := m, at_ := s.time.t2, until_ := s.time.t2 + 2100000 } }).sendLease 2 m q 0) := by
    change execRequest (.link h) r m q s = _
    simp only [execRequest, hhealth]
    exact if_pos (by simp [State.linkFrame, hst, hrole, hmember])
  exact completes_of_exec hnext ⟨rfl, rfl⟩ rfl

theorem exec_request_link_acting {s : State} {h : BitVec 3} {r : Fin 4096} {m : Bool} {q : BitVec 8}
    (hst : s.twn.st = .holder ∨ s.twn.st = .taking ∨ s.twn.st = .solo) :
    exec (.request (.link h) r m q) s = .next (s.linkFrame.takeHealth h) := by
  have hkept : (s.linkFrame.takeHealth h).twn.st = s.twn.st :=
    State.takeHealth_st_of_notStandby h (s := s.linkFrame) (by rcases hst with hst | hst | hst <;> simp [State.linkFrame, hst])
  change execRequest (.link h) r m q s = _
  rcases hst with hst | hst | hst <;> simp [execRequest, hkept, hst]

/-! ### The witness as issuer (R441, R456) -/

theorem exec_request_window {s : State} {k : Fin 16} {r : Fin 4096} {m : Bool} {q : BitVec 8}
    (hserves : s.witServes k.val r.val = true) :
    exec (.request (.window k) r m q) s = .next (s.witRequest k.val m q) :=
  (if_pos hserves : execRequest (.window k) r m q s = _)

theorem exec_request_window_notServed {s : State} {k : Fin 16} {r : Fin 4096} {m : Bool} {q : BitVec 8}
    (hserves : s.witServes k.val r.val = false) : exec (.request (.window k) r m q) s = .next s :=
  (if_neg (by simp [hserves]) : execRequest (.window k) r m q s = _)

theorem State.witGrant_wit (s : State) (e : Nat) (m : Bool) (q : BitVec 8) :
    (s.witGrant e m q).wit e = { s.wit e with
      occ := some { member := m, at_ := s.time.t2, until_ := s.time.t2 + 2100000, free := (s.wit e).occ.isNone }
      granted := some (m, q) } :=
  tget_tput_same ..

theorem request_granted_by_witness {s : State} {k : Fin 16} {r : Fin 4096} {m : Bool} {q : BitVec 8}
    (hserves : s.witServes k.val r.val = true) (hfree : (s.wit k.val).occ = none) :
    Completes [.wag, .twn, .out] (.request (.window k) r m q) s fun t => (t.wit k.val) = { s.wit k.val with
      occ := some { member := m, at_ := s.time.t2, until_ := s.time.t2 + 2100000, free := true }
      granted := some (m, q) } := by
  refine completes_of_exec (exec_request_window hserves) ?_ rfl
  have hgrants : s.witRequest k.val m q = s.witGrant k.val m q := by simp [State.witRequest, hfree]
  rw [hgrants, State.witGrant_wit, hfree]
  rfl

theorem request_held_by_witness {s : State} {k : Fin 16} {r : Fin 4096} {q : BitVec 8} {o : Occupancy}
    (hserves : s.witServes k.val r.val = true) (hocc : (s.wit k.val).occ = some o) (hother : o.member = false) :
    Completes [.wag, .twn, .out] (.request (.window k) r true q) s fun t =>
      (t.wit k.val) = { s.wit k.val with pend := some (true, q) } := by
  refine completes_of_exec (exec_request_window hserves) ?_ rfl
  have hholds : s.witRequest k.val true q = s.setTwn { s.twn with
      witness := tmod {} s.twn.witness k.val (fun r => { r with pend := some (true, q) }) } := by
    simp [State.witRequest, hocc, hother]
  rw [hholds]
  exact tget_tput_same ..

/-! ### Grants (R457, R458) -/

theorem grant_link_taken {s : State} {h : BitVec 3} {q : BitVec 8} {x : LeaseReq}
    (hreq : s.twn.reqs.find? (fun r => decide (r.seq = q) && decide (s.time.t2 < r.q + 2000000)) = some x)
    (hnone : s.twn.peerEnd = none) (hst : s.twn.st = .taking) :
    Completes [.time, .hif, .stp, .cmb, .blk, .cnv, .fio, .mir, .bog, .wag, .twn, .leg, .out, .freeIdx]
      (.grant (.link h) q) s fun t =>
        t.twn = { s.twn with frameThis := true, peerHealth := h, peerEnd := some (x.q + 2000000) } := by
  have hhealth : s.linkFrame.takeHealth h = s.linkFrame.setTwn { s.linkFrame.twn with peerHealth := h } :=
    State.takeHealth_of_notHolder (by simp [State.linkFrame, hst]) (by simp [State.linkFrame, hst])
  have hnext : exec (.grant (.link h) q) s = .next (s.setTwn
      { s.twn with frameThis := true, peerHealth := h, peerEnd := some (x.q + 2000000) }) := by
    change execGrant (.link h) q s = _
    simp only [execGrant, hreq, hhealth]
    rw [if_neg (by simp [State.linkFrame, hst])]
    simp [State.linkFrame, State.setTwn, hnone]
  exact completes_of_exec hnext rfl rfl

theorem exec_grant_link_unasked {s : State} {h : BitVec 3} {q : BitVec 8}
    (hreq : s.twn.reqs.find? (fun r => decide (r.seq = q) && decide (s.time.t2 < r.q + 2000000)) = none) :
    exec (.grant (.link h) q) s = .next (s.linkFrame.takeHealth h) := by
  change execGrant (.link h) q s = _
  simp only [execGrant, hreq]

/-! ### Ends of occupancies (R456, R458) -/

theorem exec_issuerOccupancyEnd_peer {s : State} (hover : s.occOver s.twn.occ = true) :
    exec (.issuerOccupancyEnd .peer) s = .next (s.setTwn { s.twn with
      occ := none, driveFrom := (s.twn.occ.bind (fun o => o.th)).map (fun t => tadd t 100) }) :=
  (if_neg (by simp [hover]) : execIssuerOccupancyEnd .peer s = _)

theorem exec_issuerOccupancyEnd_peer_not {s : State} (hover : s.occOver s.twn.occ = false) :
    exec (.issuerOccupancyEnd .peer) s = .next s :=
  (if_pos (by simp [hover]) : execIssuerOccupancyEnd .peer s = _)

theorem exec_issuerOccupancyEnd_witness_not {s : State} {k : Fin 16} (hover : s.occOver (s.wit k.val).occ = false) :
    exec (.issuerOccupancyEnd (.witness k)) s = .next s :=
  (if_pos (by simp [hover]) : execIssuerOccupancyEnd (.witness k) s = _)

theorem occupancyEnd_witness_grants {s : State} {k : Fin 16} {m : Bool} {q : BitVec 8}
    (hover : s.occOver (s.wit k.val).occ = true) (hpend : (s.wit k.val).pend = some (m, q)) :
    Completes [.wag, .twn] (.issuerOccupancyEnd (.witness k)) s fun t => (t.wit k.val) =
      { occ := some { member := m, at_ := s.time.t2, until_ := s.time.t2 + 2100000, free := true }
        granted := some (m, q), pend := none } := by
  have hnext : exec (.issuerOccupancyEnd (.witness k)) s = .next ((s.setTwn { s.twn with
      witness := tmod {} s.twn.witness k.val (fun r => { r with occ := none, pend := none }) }).witGrant k.val m q) := by
    change execIssuerOccupancyEnd (.witness k) s = _
    simp only [execIssuerOccupancyEnd, hover, hpend, Bool.not_true, Bool.false_eq_true, ↓reduceIte]
  refine completes_of_exec hnext ?_ rfl
  have hcleared : (s.setTwn { s.twn with
      witness := tmod {} s.twn.witness k.val (fun r => { r with occ := none, pend := none }) }).wit k.val =
      { s.wit k.val with occ := none, pend := none } := tget_tput_same ..
  rw [State.witGrant_wit, hcleared]
  rfl

theorem occupancyEnd_witness_free {s : State} {k : Fin 16}
    (hover : s.occOver (s.wit k.val).occ = true) (hpend : (s.wit k.val).pend = none) :
    Completes [.wag, .twn] (.issuerOccupancyEnd (.witness k)) s fun t =>
      (t.wit k.val) = { s.wit k.val with occ := none, pend := none } := by
  have hnext : exec (.issuerOccupancyEnd (.witness k)) s = .next (s.setTwn { s.twn with
      witness := tmod {} s.twn.witness k.val (fun r => { r with occ := none, pend := none }) }) := by
    change execIssuerOccupancyEnd (.witness k) s = _
    simp only [execIssuerOccupancyEnd, hover, hpend, Bool.not_true, Bool.false_eq_true, ↓reduceIte]
  exact completes_of_exec hnext (tget_tput_same ..) rfl

/-! ### A witness that is not heard (R459) -/

theorem exec_witnessSilent_due {s : State} (hst : s.twn.st = .holder) (hfirst : s.twn.witSilent = false)
    (htime : s.twn.witHeard + 2000000 ≤ s.time.t2) :
    exec .witnessSilent s = .next
      ((s.setTwn { s.twn with witSilent := true }).raise 0x79 (BitVec.ofNat 64 (s.rfld 0xB00C 11 0))) :=
  (if_pos (by simp [hst, hfirst, htime]) : execWitnessSilent s = _)

theorem exec_witnessSilent_notDue {s : State}
    (hnot : s.twn.st ≠ .holder ∨ s.twn.witSilent = true ∨ s.time.t2 < s.twn.witHeard + 2000000) :
    exec .witnessSilent s = .next s := by
  refine (if_neg ?_ : execWitnessSilent s = _)
  rcases hnot with hst | hsilent | htime
  · simp [hst]
  · simp [hsilent]
  · simp [htime]

end Sys2Proof.Machine
end

section
/-! PROOFS. TB2 under a mirrored change (R42, R449): what a change that came from no ring does leaves the count of TB2, so a new
holder notes the instant of its grant. -/

namespace Sys2Proof.Machine

/-! ### TB2 under a change -/

@[simp] theorem State.setLock_t2 (s : State) (base : Nat) (v : Bool) : (s.setLock base v).time.t2 = s.time.t2 :=
  (congrArg TimeState.t2 (s.setLock_besideLocks base v) :)

theorem doTimeSet_t2 (p : Pair) (s : State) : (after s (doTimeSet p s)).time.t2 = s.time.t2 := by
  unfold doTimeSet
  split
  · rfl
  · rename_i e _
    dsimp only
    split
    · simp [after]
    · split
      · simp [after]
      · simp only [after, State.finish_time, State.setLock_t2]
        rfl

theorem State.runDesc_t2 (s : State) (p : Pair) (e : Entry) : (s.runDesc p e).time.t2 = s.time.t2 := by
  have hafter {o : Host.Outcome State Fault Refusal}
      (hmask : nextMask [.hif, .blk, .fio, .out] s o = s.mask [.hif, .blk, .fio, .out]) : (after s o).time = s.time :=
    State.only_time ((after_mask _ s o).trans hmask) rfl
  unfold State.runDesc
  split
  · exact congrArg TimeState.t2 (State.only_time
      (runTable_mask (qs := [.hif, .cmb, .blk, .cnv, .fio, .mir, .wag, .twn, .leg, .out]) rfl p _ _ s) rfl)
  · exact congrArg TimeState.t2 (State.only_time
      (runParam_mask (qs := [.hif, .cnv, .fio, .mir, .bog, .wag, .leg, .out, .freeIdx]) rfl p _ _ s) rfl)
  · exact doTimeSet_t2 p s
  · exact congrArg TimeState.t2 (hafter (doLoadImage_mask rfl p s))
  · exact congrArg TimeState.t2 (hafter (doExchange_mask rfl p s))
  · rfl

theorem State.runApart_t2 (s : State) (cls : Nat) (raw : BitVec 512) (data : List Byte) :
    (s.runApart cls raw data).1.time.t2 = s.time.t2 :=
  State.runDesc_t2 _ _ _

theorem State.applyChange_t2 (s : State) (c : Word × Nat × List Byte × List Byte) :
    (s.applyChange c).time.t2 = s.time.t2 := by
  have henter (k : StepEntry) : (s.enterStep k).time = s.time :=
    State.only_time (State.enterStep_mask (qs := [.stp, .fio]) rfl s k) rfl
  have hcancel (k : StepEntry) : (s.cancelStep k).time = s.time :=
    State.only_time (State.cancelStep_mask (qs := [.hif, .stp, .fio, .twn, .out]) rfl s k) rfl
  unfold State.applyChange
  dsimp only
  split
  · rfl
  · split
    · split
      · rw [henter]
      · split
        · split
          · rfl
          · rw [hcancel]
        · rfl
    · exact State.runApart_t2 _ _ _ _

theorem State.applyMirrored_t2 (s : State) : s.applyMirrored.time.t2 = s.time.t2 :=
  foldl_keeps (fun s : State => s.time.t2) State.applyChange_t2 s.twn.mirrored (s.setTwn { s.twn with mirrored := [] })

/-! ### Becoming HOLDER (R458, R463) -/

theorem State.carryLink_twn (s : State) : s.carryLink.twn = s.twn :=
  State.only_twn (State.carryLink_mask (qs := [.time, .hif, .stp, .wag, .out]) rfl s) rfl

theorem State.refreshAct_st (s : State) : s.refreshAct.twn.st = s.twn.st := by
  unfold State.refreshAct
  dsimp only
  split <;> rfl

theorem State.refreshAct_witHeard (s : State) : s.refreshAct.twn.witHeard = s.twn.witHeard := by
  unfold State.refreshAct
  dsimp only
  split <;> rfl

theorem State.becomeHolder_st (s : State) : s.becomeHolder.twn.st = .holder := by
  simp only [State.becomeHolder, State.refreshAct_st, State.carryLink_twn]
  rfl

theorem State.becomeHolder_witHeard (s : State) : s.becomeHolder.twn.witHeard = s.time.t2 := by
  simp only [State.becomeHolder, State.refreshAct_witHeard, State.carryLink_twn, State.setTwn_twn]
  split <;> exact s.applyMirrored_t2

/-! ### A grant of the witness to a member that is alone (R457, R458) -/

/-- The member has heard the witness, and holds its grant that answers request x. -/
def State.withWitGrant (s : State) (x : LeaseReq) : State :=
  s.setTwn { s.twn with
    witHeard := s.time.t2, witSilent := false, witEnd := some (max (s.twn.witEnd.getD 0) (x.q + 2000000)) }

theorem grant_window_makes_holder {s : State} {k : Fin 16} {q : BitVec 8} {x : LeaseReq}
    (hreq : s.twn.reqs.find? (fun r => decide (r.seq = q) && decide (s.time.t2 < r.q + 2000000)) = some x)
    (hst : s.twn.st = .solo) (hen : s.twinEn = true) :
    Completes [.time, .hif, .stp, .cmb, .blk, .cnv, .fio, .mir, .bog, .wag, .twn, .leg, .out, .freeIdx]
      (.grant (.window k) q) s fun t => t.twn.st = .holder ∧ t.twn.witHeard = s.time.t2 := by
  have hnext : exec (.grant (.window k) q) s = .next (s.withWitGrant x).becomeHolder := by
    change execGrant (.window k) q s = _
    simp only [execGrant, hreq]
    refine congrArg Host.Outcome.next ((if_neg ?_).trans (if_pos ?_))
    · simp [hst]
    · simp only [State.setTwn_twn, hst, decide_true, Bool.true_and]
      exact hen
  exact completes_of_exec hnext ⟨State.becomeHolder_st _, State.becomeHolder_witHeard _⟩ rfl

/-- Settles O40: the paths of requests and grants, by link and by window; that a new holder notes the instant of its grant
rests on TB2, which no mirrored change moves. -/
theorem leasesAndGrants : Obligations.LeasesAndGrants := by
  unfold Obligations.LeasesAndGrants
  refine ⟨fun s => leaseRequestSend_asking, fun s => exec_leaseRequestSend_notAsking,
    fun s h r m q => request_granted_by_standby, fun s h r m q => exec_request_link_acting,
    fun s k r m q => request_granted_by_witness, fun s k r q o => request_held_by_witness,
    fun s k r m q => exec_request_window_notServed, fun s h q x => grant_link_taken, fun s h q => exec_grant_link_unasked,
    fun s k q x hreq hst hen _ => grant_window_makes_holder hreq hst hen, ?_, ?_,
    fun s k hpeer hwit => ⟨exec_issuerOccupancyEnd_peer_not hpeer, exec_issuerOccupancyEnd_witness_not hwit⟩,
    fun s k m q => occupancyEnd_witness_grants, fun s k => occupancyEnd_witness_free,
    fun s => exec_witnessSilent_due, fun s => exec_witnessSilent_notDue⟩
  · intro s o hocc hth hover
    rw [exec_issuerOccupancyEnd_peer (by simp [State.occOver, hocc, hover]), hocc, Option.bind_some, hth, Option.map_none]
  · intro s o x hocc hth hreached
    rw [exec_issuerOccupancyEnd_peer (by simp [State.occOver, hocc, hth, hreached]), hocc, Option.bind_some, hth,
      Option.map_some]

end Sys2Proof.Machine
end

section
/-! PROOFS. The orderly handover, ACT_UNTIL and the take-over (R444, R460, R462, R463). -/

namespace Sys2Proof.Machine

/-! ### OFFER and ACCEPT (R460) -/

theorem exec_handover {s : State} (hup : s.hostUp = true) : exec .handover s = .next (s.offerHandover .host) :=
  (if_neg (by simp [hup]) : execHandover s = _)

theorem exec_handover_offers {s : State} (hup : s.hostUp = true) (hst : s.twn.st = .holder) (hnone : s.twn.offer = none)
    (hinStep : s.twn.inStep = true) (hlink : s.twn.linkUp = true) (hpeer : tbit s.twn.peerHealth 2 = true) :
    exec .handover s = .next ((s.setTwn { s.twn with
      offer := some (s.cmb.n + 2), accepted := false, why := .host }).emitOut
        (.lease 4 s.station s.member 0 (BitVec.ofNat 8 (s.cmb.n + 2)) s.health)) := by
  have hoffers : s.offerHandover .host = (s.setTwn { s.twn with
      offer := some (s.cmb.n + 2), accepted := false, why := .host }).sendLease 4 s.member 0 (s.cmb.n + 2) :=
    (if_neg (by simp [hst])).trans
      ((if_neg (by simp [hnone])).trans (if_neg (by simp [hinStep, hlink, hpeer])))
  exact (exec_handover hup).trans (congrArg Host.Outcome.next hoffers)

theorem exec_handover_notHolder {s : State} (hup : s.hostUp = true) (hst : s.twn.st ≠ .holder) :
    exec .handover s = .next (s.raise 0x74 2) := by
  rw [exec_handover hup]
  simp [State.offerHandover, hst]

theorem exec_handover_outOfStep {s : State} (hup : s.hostUp = true) (hst : s.twn.st = .holder) (hnone : s.twn.offer = none)
    (hinStep : s.twn.inStep = false) : exec .handover s = .next (s.raise 0x74 0) := by
  rw [exec_handover hup]
  simp [State.offerHandover, hst, hnone, hinStep]

theorem offer_accepted {s : State} {n : BitVec 8} (hst : s.twn.st = .standby) :
    Completes [.twn, .out] (.offer n) s fun t => t.twn.accepted = true ∧ t.twn.offer = some (nearByte s.cmb.n n) ∧
      t.out = .lease 5 s.station s.member 0 n s.health :: s.out := by
  have hnext : exec (.offer n) s = .next ((s.setTwn { s.twn with
      frameThis := true, offer := some (nearByte s.cmb.n n), accepted := true }).sendLease 5 s.member 0 n.toNat) :=
    (if_pos hst : execOffer n s = _)
  have hbyte : BitVec.ofNat 8 n.toNat = n := by simp
  refine completes_of_exec hnext ⟨rfl, rfl, ?_⟩ rfl
  simp only [State.sendLease, hbyte]
  rfl

theorem exec_offer_notStandby {s : State} {n : BitVec 8} (hst : s.twn.st ≠ .standby) :
    exec (.offer n) s = .next (s.setTwn { s.twn with frameThis := true }) :=
  (if_neg hst : execOffer n s = _)

theorem exec_accept_offered {s : State} {n : BitVec 8} {k : Nat} (hst : s.twn.st = .holder) (hoffer : s.twn.offer = some k)
    (hsame : k % 256 = n.toNat) (hbefore : s.cmb.n < k) :
    exec (.accept n) s = .next (s.setTwn { s.twn with frameThis := true, accepted := true }) := by
  change execAccept n s = _
  simp only [execAccept, State.linkFrame, State.setTwn_twn, hst, hoffer]
  exact if_pos (by simp [hsame, hbefore])

theorem exec_accept_other {s : State} {n : BitVec 8} {k : Nat} (hst : s.twn.st = .holder) (hoffer : s.twn.offer = some k)
    (hother : k % 256 ≠ n.toNat ∨ k ≤ s.cmb.n) :
    exec (.accept n) s = .next (s.setTwn { s.twn with frameThis := true }) := by
  have hnot : ¬(decide (k % 256 = n.toNat) && decide (s.cmb.n < k)) = true := by
    rw [Bool.and_eq_true, decide_eq_true_eq, decide_eq_true_eq]
    omega
  change execAccept n s = _
  simp only [execAccept, State.linkFrame, State.setTwn_twn, hst, hoffer]
  exact if_neg hnot

theorem exec_handoverAbandoned_host {s : State} (hst : s.twn.st = .holder) (hoffer : s.twn.offer.isSome = true)
    (haccepted : s.twn.accepted = false) (hwhy : s.twn.why = .host) :
    exec .handoverAbandoned s = .next ((s.setTwn { s.twn with offer := none }).raise 0x74 1) := by
  change execHandoverAbandoned s = _
  simp [execHandoverAbandoned, hst, hoffer, haccepted, hwhy]

theorem exec_handoverAbandoned_not {s : State} (hnot : s.twn.offer = none ∨ s.twn.accepted = true) :
    exec .handoverAbandoned s = .next s := by
  change execHandoverAbandoned s = _
  rcases hnot with hnone | haccepted
  · simp [execHandoverAbandoned, hnone]
  · simp [execHandoverAbandoned, haccepted]

/-! ### RELINQUISH (R458, R460) -/

theorem State.takeHealth_occ (s : State) (h : BitVec 3) : (s.takeHealth h).twn.occ = s.twn.occ := by
  unfold State.takeHealth
  dsimp only
  split <;> rfl

theorem State.takeHealth_notAccepted {s : State} (h : BitVec 3) (haccepted : s.twn.accepted = false) :
    (s.takeHealth h).twn.accepted = false := by
  unfold State.takeHealth
  dsimp only
  split
  · rfl
  · exact haccepted

theorem exec_relinquish_link {s : State} {h : BitVec 3} {m : Bool} {n : BitVec 8} {o : Occupancy}
    (hocc : s.twn.occ = some o) (hmember : o.member = m) (haccepted : s.twn.accepted = false) :
    exec (.relinquish (.link h) m n) s = .next ((s.linkFrame.takeHealth h).setTwn { (s.linkFrame.takeHealth h).twn with
      occ := some { o with th := some (s.baseStart (nearByte s.cmb.n n + 2)) } }) := by
  have hkept : (s.linkFrame.takeHealth h).twn.occ = some o := (State.takeHealth_occ s.linkFrame h).trans hocc
  have hnot : (s.linkFrame.takeHealth h).twn.accepted = false := State.takeHealth_notAccepted (s := s.linkFrame) h haccepted
  change execRelinquish (.link h) m n s = _
  simp only [execRelinquish, State.setTwn_twn, hkept, hnot, hmember, Option.map_some, ↓reduceIte, Bool.false_and,
    Bool.false_eq_true]

theorem relinquish_window {s : State} {k : Fin 16} {m : Bool} {n : BitVec 8} {o : Occupancy}
    (hocc : (s.wit k.val).occ = some o) (hmember : o.member = m) :
    Completes [.cmb, .wag, .twn, .out] (.relinquish (.window k) m n) s fun t => (t.wit k.val) = { s.wit k.val with
      occ := some { o with th := some (s.baseStart (nearByte s.cmb.n n + 2)) } } := by
  refine completes_of_exec (t := s.setTwn { s.twn with witness := tmod {} s.twn.witness k.val (fun r => { r with
    occ := r.occ.map (fun o => if o.member = m then { o with
      th := some (s.baseStart (nearByte s.cmb.n n + 2)) } else o) }) }) rfl ?_ rfl
  refine (tget_tput_same ..).trans ?_
  change ({ s.wit k.val with occ := (s.wit k.val).occ.map _ } : WitnessRt) = _
  rw [hocc, Option.map_some, if_pos hmember]

/-! ### ACT_UNTIL (R444, R458) -/

theorem State.releaseChanges_of_none {s : State} (hnone : s.twn.changes = []) : s.releaseChanges = s := by
  rw [State.releaseChanges, hnone, List.foldl_nil]

theorem State.leaveLink_twn (s : State) (l : LinkSt) : (s.leaveLink l).twn = s.twn :=
  State.only_twn (State.leaveLink_mask (qs := [.time, .hif, .stp, .wag, .out]) rfl s l) rfl

/-- A member with no change waiting stops acting: of the twin's part its state and what a holder keeps for its partner. -/
theorem State.stopActing_of_noChange {s : State} (st : TwinSt) (hnone : s.twn.changes = []) :
    (s.stopActing st).twn = { s.twn with
      st := st, inStep := false, offer := none, accepted := false, hashes := [], hashAcc := [] } ∧
    (s.stopActing st).cmb.due = [] := by
  unfold State.stopActing
  extract_lets src stopped left
  have htwn : left.twn = stopped.twn := by
    unfold left
    split
    · exact State.leaveLink_twn stopped .follow
    · rfl
  have hchanges : left.twn.changes = [] := (congrArg TwnState.changes htwn).trans hnone
  rw [State.releaseChanges_of_none (by exact hchanges)]
  exact ⟨htwn, rfl⟩

theorem actUntil_of_holder {s : State} {x : Time} (hfield : s.twn.fieldActUntil = none) (huntil : s.twn.actUntil = some x)
    (hreached : 0 ≤ sdiff s.time.tb1.ns x) (hst : s.twn.st = .holder) (hnone : s.twn.changes = []) :
    Completes [.time, .hif, .stp, .cmb, .blk, .cnv, .fio, .mir, .bog, .wag, .twn, .saf, .leg, .peat, .out, .freeIdx]
      (.actUntil) s fun t => t.twn.st = .unsynced ∧ t.twn.actUntil = none ∧ t.cmb.due = [] := by
  have hnext : exec .actUntil s =
      .next (((s.setTwn { s.twn with actUntil := none }).stopActing .unsynced).raise 0x78 0) := by
    change execActUntil s = _
    simp [execActUntil, hfield, huntil, hreached, hst]
  obtain ⟨htwn, hdue⟩ := State.stopActing_of_noChange (s := s.setTwn { s.twn with actUntil := none }) .unsynced hnone
  refine completes_of_exec hnext ⟨?_, ?_, hdue⟩ rfl
  · exact congrArg TwnState.st htwn
  · exact congrArg TwnState.actUntil htwn

theorem exec_actUntil_before {s : State} {x : Time} (hfield : s.twn.fieldActUntil = none) (huntil : s.twn.actUntil = some x)
    (hbefore : sdiff s.time.tb1.ns x < 0) : exec .actUntil s = .next s := by
  change execActUntil s = _
  simp [execActUntil, hfield, huntil, hbefore]

/-! ### TAKEOVER (R462, R463) -/

theorem State.applyMirrored_of_none {s : State} (hnone : s.twn.mirrored = []) : s.applyMirrored = s := by
  have hsame : s.setTwn { s.twn with mirrored := [] } = s := by rw [← hnone]; rfl
  simp only [State.applyMirrored, hnone, hsame, List.foldl_nil]

theorem State.carryLink_of_notHive {s : State} (hrole : s.role ≠ 1) : s.carryLink = s :=
  if_neg (by simp [hrole])

theorem State.refreshAct_takeoverCnt (s : State) : s.refreshAct.twn.takeoverCnt = s.twn.takeoverCnt := by
  unfold State.refreshAct
  dsimp only
  split <;> rfl

theorem State.refreshAct_stp (s : State) : s.refreshAct.stp = s.stp :=
  State.only_stp (State.refreshAct_mask (qs := [.fio, .twn]) rfl s) rfl

theorem State.becomeHolder_of_noMirrored {s : State} (hnone : s.twn.mirrored = []) (hst : s.twn.st = .taking)
    (hrole : s.role ≠ 1) :
    s.becomeHolder.twn.takeoverCnt = s.twn.takeoverCnt ∧ s.becomeHolder.stp = s.stp := by
  have htaking : (decide (s.twn.st = .standby) && s.cmb.running) = false := by simp [hst]
  simp only [State.becomeHolder, State.applyMirrored_of_none hnone, htaking, Bool.false_eq_true, ↓reduceIte,
    State.refreshAct_takeoverCnt, State.refreshAct_stp]
  rw [State.carryLink_of_notHive (by exact hrole)]
  exact ⟨rfl, rfl⟩

/-- The end of a take-over: it is counted, in the register and the ledger, and raised. -/
def State.noteTakeover (s : State) (result : BitVec 64) : State :=
  ((s.setTwn { s.twn with takeoverCnt := satInc 0xFFFF s.twn.takeoverCnt }).countLogic 20).raise 0x73 result

theorem exec_takeover {s : State} (hst : s.twn.st = .taking) (hfree : s.twn.occ = none) (hmay : s.mayAct = true) :
    ∃ r : State, (r = s ∨ r = s.tookFree) ∧ ∃ result, exec .takeover s = .next (r.becomeHolder.noteTakeover result) := by
  change ∃ r : State, (r = s ∨ r = s.tookFree) ∧ ∃ result, execTakeover s = _
  unfold execTakeover
  extract_lets t orderly cause us free holder counted
  rw [if_neg (by simp [t, hst, hfree, hmay])]
  refine ⟨free, ?_, _, rfl⟩
  unfold free
  split
  · exact .inl rfl
  · exact .inr rfl

theorem takeover_makes_holder {s : State} (hst : s.twn.st = .taking) (hfree : s.twn.occ = none) (hmay : s.mayAct = true)
    (hrole : s.role ≠ 1) (hnone : s.twn.mirrored = []) :
    Completes [.time, .hif, .stp, .cmb, .blk, .cnv, .fio, .mir, .bog, .wag, .twn, .leg, .peat, .out, .freeIdx] (.takeover) s
      fun t => t.twn.st = .holder ∧ t.twn.takeoverCnt = satInc 0xFFFF s.twn.takeoverCnt ∧ t.stp = s.stp := by
  obtain ⟨r, hr, result, hnext⟩ := exec_takeover hst hfree hmay
  have hholder : r.becomeHolder.twn.takeoverCnt = s.twn.takeoverCnt ∧ r.becomeHolder.stp = s.stp := by
    rcases hr with rfl | rfl
    · exact State.becomeHolder_of_noMirrored hnone hst hrole
    · exact State.becomeHolder_of_noMirrored (s := s.tookFree) hnone hst hrole
  refine completes_of_exec hnext ?_ rfl
  simp only [State.noteTakeover, State.raise_twn, State.raise_stp, State.countLogic_twn, State.countLogic_stp,
    State.setTwn_twn, State.setTwn_stp, State.becomeHolder_st, hholder, and_self]

theorem exec_takeover_not {s : State} (hnot : s.mayAct = false ∨ s.twn.occ.isSome = true) : exec .takeover s = .next s := by
  refine (if_pos ?_ : execTakeover s = _)
  rcases hnot with hmay | hocc
  · simp [hmay]
  · simp [hocc]

/-- Settles O41: the handover step by step, the holder at ACT_UNTIL, and the take-over of a member with nothing mirrored. -/
theorem handoverAndTakeover : Obligations.HandoverAndTakeover := by
  unfold Obligations.HandoverAndTakeover
  exact ⟨fun s => exec_handover_offers, fun s => exec_handover_notHolder, fun s => exec_handover_outOfStep,
    fun s n => offer_accepted, fun s n => exec_offer_notStandby, fun s n k => exec_accept_offered,
    fun s n k => exec_accept_other, fun s => exec_handoverAbandoned_host, fun s => exec_handoverAbandoned_not,
    fun s h m n o => exec_relinquish_link, fun s k m n o => relinquish_window, fun s x => actUntil_of_holder,
    fun s x => exec_actUntil_before, fun s => takeover_makes_holder, fun s => exec_takeover_not⟩

end Sys2Proof.Machine
end

section
/-! PROOFS. What a standby takes from its holder (R446 to R452): snapshots, hashes, changes, and the replay. -/

namespace Sys2Proof.Machine

/-! ### Leaving step (R448) -/

theorem State.snapFault_st (s : State) (cause : Nat) : (s.snapFault cause).twn.st = .unsynced := rfl

theorem State.snapFault_snaps (s : State) (cause : Nat) : (s.snapFault cause).twn.snaps = [] := rfl

theorem State.snapFault_snapFaultCnt (s : State) (cause : Nat) :
    (s.snapFault cause).twn.snapFaultCnt = satInc 0xFFFF s.twn.snapFaultCnt := rfl

/-! ### SNAP (R446, R448) -/

section
variable {s : State} {n : Word} {f : Bool} {l : List SnapRecord}

theorem exec_snap_intact (hreplays : s.replays = true) : exec (.snap n f l true) s = .next (s.setTwn { s.twn with
    frameThis := true, snaps := s.twn.snaps ++ [(n.toNat, f, l)] }) :=
  ((if_neg (by simp [show s.linkFrame.replays = s.replays from rfl, hreplays])).trans (if_neg (by simp)) :
    execSnap n f l true s = _)

theorem exec_snap_broken (hreplays : s.replays = true) :
    exec (.snap n f l false) s = .next (s.linkFrame.snapFault 3) :=
  ((if_neg (by simp [show s.linkFrame.replays = s.replays from rfl, hreplays])).trans (if_pos rfl) :
    execSnap n f l false s = _)

theorem exec_snap_notReplaying {b : Bool} (hreplays : s.replays = false) :
    exec (.snap n f l b) s = .next (s.setTwn { s.twn with frameThis := true }) :=
  (if_pos (by simp [show s.linkFrame.replays = s.replays from rfl, hreplays]) : execSnap n f l b s = _)

end

/-! ### HASH (R452) -/

theorem exec_hash_equal {s : State} {n h : Word} (hst : s.twn.st = .holder) (hhashes : s.twn.hashes = [(n.toNat, h)]) :
    exec (.hash n h) s = .next (s.setTwn { s.twn with frameThis := true, hashes := [] }) := by
  change execHash n h s = _
  simp [execHash, State.linkFrame, hst, hhashes, State.setTwn]

theorem hash_differs {s : State} {n h k : Word} (hst : s.twn.st = .holder) (hhashes : s.twn.hashes = [(n.toNat, k)])
    (hother : k ≠ h) :
    Completes [.hif, .twn, .out] (.hash n h) s fun t => t.twn = { s.twn with
      frameThis := true, hashes := [], hashMisCnt := satInc 0xFFFF s.twn.hashMisCnt
      inStep := s.twn.inStep && s.twn.versionDiff } := by
  have hnext : exec (.hash n h) s = .next ((s.setTwn { s.twn with
      frameThis := true, hashes := [], hashMisCnt := satInc 0xFFFF s.twn.hashMisCnt
      inStep := s.twn.inStep && s.twn.versionDiff }).raise 0x75
        (BitVec.ofNat 64 (n.toNat + s.twn.versionDiff.toNat * 2 ^ 32))) := by
    change execHash n h s = _
    simp [execHash, State.linkFrame, hst, hhashes, hother, State.setTwn]
  exact completes_of_exec hnext rfl rfl

/-! ### CHANGE and its acknowledgement (R449, R450) -/

theorem exec_change_replaying {s : State} {q n : Word} {d x : List Byte} (hreplays : s.replays = true) :
    exec (.change q n d x) s = .next ((s.setTwn { s.twn with
      frameThis := true, mirrored := s.twn.mirrored ++ [(q, n.toNat, d, x)] }).emitOut (.twin 5 (leBytes 4 q.toNat))) :=
  (if_neg (by simp [show s.linkFrame.replays = s.replays from rfl, hreplays]) : execChange q n d x s = _)

/-- The one change that waits is accepted, and then due or not by its base period. -/
theorem State.acceptChange_of_one {s : State} {q : Word} {c : TwinChange} (hone : s.twn.changes = [c]) (hseq : c.seq = q) :
    s.acceptChange q = State.dueChanges (s.setTwn { s.twn with changes := [{ c with acked := true }] }) s.cmb.n := by
  simp only [State.acceptChange, hone, List.map_cons, List.map_nil, hseq, ↓reduceIte]
  rfl

theorem State.dueChanges_before {s : State} {c : TwinChange} {n : Nat} (hone : s.twn.changes = [c]) (hbefore : n < c.eff) :
    s.dueChanges n = s := by
  simp [State.dueChanges, hone, Nat.not_le.mpr hbefore]

theorem State.dueChanges_due {s : State} {c : TwinChange} {n : Nat} (hone : s.twn.changes = [c]) (hacked : c.acked = true)
    (hdue : c.eff ≤ n) : s.dueChanges n = s.resumeChange c.seq := by
  simp [State.dueChanges, hone, hacked, hdue]

theorem State.resumeChange_gone {s : State} {c : TwinChange} (hone : s.twn.changes = [c])
    (hgone : (s.pairRt c.pair.val).entries = []) : s.resumeChange c.seq = s.setTwn { s.twn with changes := [] } := by
  have hpair (t : TwnState) : (State.pairRt { s with twn := t } c.pair.val).entries = [] := hgone
  simp [State.resumeChange, hone, hpair, State.setTwn]

theorem modPair_congr {p : Nat} {f g : PairRt → PairRt} {x : Hx} (h : f (x.hif.pair p) = g (x.hif.pair p)) :
    modPair p f x = modPair p g x := by
  unfold HifState.pair at h
  simp only [modPair, tmod, h]

theorem State.viaHif_modPair_congr {s : State} {p : Nat} {f g : PairRt → PairRt} (h : f (s.pairRt p) = g (s.pairRt p)) :
    s.viaHif (fun _ => modPair p f) = s.viaHif (fun _ => modPair p g) := by
  have hsame : modPair p f { hif := s.hif, out := s.out } = modPair p g { hif := s.hif, out := s.out } := modPair_congr h
  simp only [State.viaHif, hsame]

theorem State.resumeChange_mirrored {s : State} {c : TwinChange} {e : Entry} (hone : s.twn.changes = [c])
    (hacked : c.acked = true) (hentries : (s.pairRt c.pair.val).entries = [e]) (hsub : e.sub = c.sub)
    (hstage : e.stage = .mirrored) :
    s.resumeChange c.seq = ((s.setTwn { s.twn with changes := [] }).viaHif (fun _ => modPair c.pair.val (fun r =>
      { r with entries := [{ e with stage := .handed }] }))).runDesc c.pair e := by
  have hpair (t : TwnState) : (State.pairRt { s with twn := t } c.pair.val).entries = [e] := hentries
  have hhanded : (s.setTwn { s.twn with changes := [] }).viaHif (fun _ => modPair c.pair.val (fun r => { r with
        entries := r.entries.map (fun x => if x.sub = c.sub && decide (x.stage = .mirrored) then
          { x with stage := .handed } else x) })) =
      (s.setTwn { s.twn with changes := [] }).viaHif (fun _ => modPair c.pair.val (fun r =>
        { r with entries := [{ e with stage := .handed }] })) := by
    refine State.viaHif_modPair_congr ?_
    have hfront : ((s.setTwn { s.twn with changes := [] }).pairRt c.pair.val).entries = [e] := hentries
    simp [hfront, hsub, hstage]
  rw [← hhanded]
  simp [State.resumeChange, hone, hpair, hsub, hstage, hacked, State.setTwn]

section
variable {s : State} {q : Word} {c : TwinChange} (hone : s.twn.changes = [c]) (hseq : c.seq = q)
include hone hseq

/-- Before its base period an accepted change goes on waiting. -/
theorem State.acceptChange_before (hbefore : s.cmb.n < c.eff) :
    s.acceptChange q = s.setTwn { s.twn with changes := [{ c with acked := true }] } :=
  (State.acceptChange_of_one hone hseq).trans (State.dueChanges_before rfl hbefore)

/-- The change whose base period has begun takes effect with its acceptance. -/
theorem State.acceptChange_due (hdue : c.eff ≤ s.cmb.n) :
    s.acceptChange q =
      (s.setTwn { s.twn with changes := [{ c with acked := true }] }).resumeChange c.seq :=
  (State.acceptChange_of_one hone hseq).trans (State.dueChanges_due (c := { c with acked := true }) rfl rfl hdue)

theorem exec_changeAck_before (hbefore : s.cmb.n < c.eff) : exec (.changeAck q) s = .next (s.setTwn { s.twn with
    frameThis := true, changes := [{ c with acked := true }] }) :=
  congrArg Host.Outcome.next (State.acceptChange_before (s := s.linkFrame) hone hseq hbefore)

theorem exec_changeAck_gone (hdue : c.eff ≤ s.cmb.n) (hgone : (s.pairRt c.pair.val).entries = []) :
    exec (.changeAck q) s = .next (s.setTwn { s.twn with frameThis := true, changes := [] }) :=
  congrArg Host.Outcome.next
    ((State.acceptChange_due (s := s.linkFrame) hone hseq hdue).trans
      (State.resumeChange_gone (c := { c with acked := true }) rfl hgone))

theorem exec_changeAck_runs {e : Entry} (hdue : c.eff ≤ s.cmb.n) (hentries : (s.pairRt c.pair.val).entries = [e])
    (hsub : e.sub = c.sub) (hstage : e.stage = .mirrored) :
    exec (.changeAck q) s = .next ((State.viaHif
      { s with twn := { s.twn with frameThis := true, changes := [] } } (fun _ => modPair c.pair.val (fun r =>
        { r with entries := [{ e with stage := .handed }] }))).runDesc c.pair e) :=
  congrArg Host.Outcome.next ((State.acceptChange_due (s := s.linkFrame) hone hseq hdue).trans
    (State.resumeChange_mirrored (c := { c with acked := true }) rfl rfl hentries hsub hstage))

theorem exec_changeAckTimeout_before (hwaits : c.acked = false) (hbefore : s.cmb.n < c.eff) :
    exec (.changeAckTimeout q) s = .next ((s.setTwn { s.twn with
      changes := [{ c with acked := true }], inStep := false }).raise 0x7A (BitVec.ofNat 64 q.toNat)) := by
  refine (if_pos (by simp [hone, hseq, hwaits]) : execChangeAckTimeout q s = _).trans ?_
  rw [State.acceptChange_before hone hseq hbefore]
  rfl

end

theorem exec_changeAck_none {s : State} {q : Word} (hnone : s.twn.changes = []) :
    exec (.changeAck q) s = .next (s.setTwn { s.twn with frameThis := true }) := by
  change execChangeAck q s = _
  simp [execChangeAck, State.acceptChange, State.dueChanges, State.linkFrame, State.setTwn, hnone]

theorem exec_changeAckTimeout_none {s : State} {q : Word} (hnone : s.twn.changes = []) :
    exec (.changeAckTimeout q) s = .next s :=
  (if_neg (by simp [hnone]) : execChangeAckTimeout q s = _)

/-! ### The replay (R447, R448) -/

theorem exec_standbyReplay_not {s : State} (hreplays : s.replays = false) : exec .standbyReplay s = .next s :=
  (if_pos (by simp [hreplays]) : execStandbyReplay s = _)

theorem exec_standbyReplay_unlocked {s : State} (hst : s.twn.st = .standby) (hlock : s.time.tb3Lock = false) :
    exec .standbyReplay s = .next (s.snapFault 4) :=
  ((if_neg (by simp [State.replays, hst])).trans (if_pos (by simp [hlock])) : execStandbyReplay s = _)

theorem exec_standbyReplay_missing {s : State} (hst : s.twn.st = .standby) (hlock : s.time.tb3Lock = true)
    (hmissing : s.twn.recordsOf s.twn.replayN = none) : exec .standbyReplay s = .next (s.snapFault 1) := by
  change execStandbyReplay s = _
  simp [execStandbyReplay, State.replays, hst, hlock, hmissing]

theorem State.dispatch_of_noSlots {s : State} (n : Nat) (hslots : s.cmb.slots = []) (hrt : s.cmb.rt = []) :
    s.dispatch n = [] := by
  simp [State.dispatch, State.accepted, State.leaving, hslots, hrt, dispOrder, dispatchOf, laneRun]

theorem State.dueActions_of_noStep {s : State} (k : Int) (hstp : s.stp = {}) : s.dueActions k = [] := by
  simp [State.dueActions, hstp, sortBy]

/-- Nothing arrives, launches or is evaluated in a base period without records, steps and slots. -/
theorem State.replayPlan_of_nothing {s : State} (n : Nat) (hstp : s.stp = {}) (hslots : s.cmb.slots = [])
    (hrt : s.cmb.rt = []) : s.replayPlan n [] = [] := by
  simp [State.replayPlan, State.dueActions_of_noStep _ hstp, State.dispatch_of_noSlots n hslots hrt, sortBy]

theorem standbyReplay_of_nothing {s : State} (hst : s.twn.st = .standby) (hlock : s.time.tb3Lock = true)
    (hrecords : s.twn.recordsOf s.twn.replayN = some []) (hmirrored : s.twn.mirrored = []) (hstp : s.stp = {})
    (hrt : s.cmb.rt = []) (hslots : s.cmb.slots = []) :
    Completes [.time, .hif, .stp, .cmb, .blk, .cnv, .fio, .mir, .bog, .wag, .twn, .leg, .lcy, .out, .freeIdx]
      (.standbyReplay) s fun t => t.twn.st = .standby ∧ t.twn.replayN = s.twn.replayN + 1 ∧ t.cmb = s.cmb ∧
        t.time = s.time := by
  have hplan : State.replayPlan { (s.setTwn { s.twn with
      mirrored := [], hashAcc := [], snaps := s.twn.snaps.filter (fun x => decide (x.1 ≠ s.twn.replayN % 2 ^ 32)) }) with
      cmb := { s.cmb with n := s.twn.replayN } } s.twn.replayN [] = [] :=
    State.replayPlan_of_nothing _ hstp hslots hrt
  have hnext : ∃ hash, exec .standbyReplay s = .next ((s.setTwn { s.twn with
      mirrored := [], hashAcc := [], snaps := s.twn.snaps.filter (fun x => decide (x.1 ≠ s.twn.replayN % 2 ^ 32))
      replayN := s.twn.replayN + 1 }).emitOut (.twin 2 (leBytes 4 s.twn.replayN ++ leBytes 4 hash))) := by
    refine ⟨(outputHash s.time.tb1 []).toNat, ?_⟩
    change execStandbyReplay s = _
    unfold execStandbyReplay
    rw [if_neg (by simp [State.replays, hst]), if_neg (by simp [hlock])]
    simp only [hrecords, hmirrored, List.filter_nil, List.foldl_nil, State.setTwn_cmb, hplan]
    refine (if_neg (by simp [TwnState.framesMatch])).trans (if_neg ?_)
    simp [State.setTwn, State.emitOut, hst]
  obtain ⟨hash, hnext⟩ := hnext
  exact completes_of_exec hnext ⟨hst, rfl, rfl, rfl⟩ rfl

/-- Settles O42: what a standby keeps of its holder's frames, the acceptance of the one change that waits, and the replay of
a base period with nothing in it. -/
theorem twinChangesAndReplay : Obligations.TwinChangesAndReplay := by
  unfold Obligations.TwinChangesAndReplay
  refine ⟨fun s n f l => exec_snap_intact, ?_, fun s n f l b => exec_snap_notReplaying, fun s n h => exec_hash_equal,
    fun s n h k => hash_differs, fun s q n d x => exec_change_replaying, ?_, fun s q c => exec_changeAck_gone,
    fun s q c e hone hseq => exec_changeAck_runs hone hseq, fun s q hnone => ⟨exec_changeAck_none hnone, exec_changeAckTimeout_none hnone⟩,
    fun s q c => exec_changeAckTimeout_before, ?_, ?_, fun s => standbyReplay_of_nothing,
    fun s => exec_standbyReplay_not⟩
  · intro s n f l hreplays
    exact completes_of_exec (exec_snap_broken hreplays) ⟨rfl, rfl, rfl⟩ rfl
  · intro s q c hone hseq _ hbefore
    exact exec_changeAck_before hone hseq hbefore
  · intro s hst hlock
    exact completes_of_exec (exec_standbyReplay_unlocked hst hlock) ⟨rfl, rfl⟩ rfl
  · intro s hst hlock hmissing
    exact completes_of_exec (exec_standbyReplay_missing hst hlock hmissing) ⟨rfl, rfl⟩ rfl

end Sys2Proof.Machine
end
